-- ==== Sys2Proof/Word.lean ====
section
/-! DEFINITION. Words of the machine: the 64-bit register (R7), the byte, and the channel number. -/

namespace Sys2Proof

/-- A register is 64 bits wide (R7). -/
abbrev Word := BitVec 64

/-- A byte of the creel, of a skein record or of a frame. -/
abbrev Byte := BitVec 8

/-- One of the sixteen independent channels, CH0 to CH15 (00_scope.md). -/
abbrev ChanId := Fin 16

/-- An instant in time-base units: 1 tbu is 2^-9 ns (R26). -/
abbrev Tbu := Nat

end Sys2Proof
end

