-- ==== Sys2Proof/Syntax.lean ====
section
/-! DEFINITION. The commands of the block: one constructor per row of spec/opcode_table.json, in the
table's order. The first operand `t` of every command is the instant, in time-base units, at which the
step comes about (log entry 1). A value that the spec takes from outside the module's own logic (a voltage, a
count of REF edges, a measured frequency, the outcome of an analog search) is an operand. -/

namespace Sys2Proof

/-- The instructions of the boundary-scan port (R422); there is no other. -/
inductive TapInstr where
  | bypass | samplePreload | extest
  deriving DecidableEq, Repr

/-- Which register a write of a unit's configuration names (R342). -/
inductive UnitReg where
  | cfg | timeout | gate
  deriving DecidableEq, Repr

/-- Which bobbin register a write in REST names (R348). -/
inductive BobReg where
  | cfg | back
  deriving DecidableEq, Repr

/-- Why a bobbin device is declared lost, or an address-parity error reported for a read of the line in a slot (R479). -/
inductive BobLoss where
  | noData | echoAbsent | parityError (slot : BitVec 15)
  deriving DecidableEq, Repr

/-- The measured edges of one bit's eye, in delay steps. -/
structure BitEye where
  left : Byte
  right : Byte
  deriving DecidableEq, Repr

/-- What the Doffer's probes measured of one device at the end of a visit or a rescue (R378, R379) or, at one grade, of
its training (R376): the read and write eyes of its eight bits. -/
structure EyeReport where
  read : Vector BitEye 8
  write : Vector BitEye 8
  vref : Byte
  /-- every edge was found within 8 steps of its estimate -/
  edges : Bool
  deriving DecidableEq, Repr

/-- What the DAC procedure read of one state (R464, R465): the sums of its readings in each sweep, of their squares and of the
products of successive readings, its first and last reading; how many lay at an end of the monitor span, the span of the central
99.8 %, and how many had each residue modulo 8. -/
structure StateSeen where
  head : Int
  tail : Int
  sq : Int
  lag : Int
  first : Int
  last : Int
  ends : Nat
  span : Nat
  residues : List Nat
  deriving DecidableEq, Repr, Inhabited

/-- What the BINS procedure counted in one interpolator (R466, R467): the edges in each bin in the two halves of the run, the sum of
the products of successive fine codes, and the first and the last of these. -/
structure BinSeen where
  half1 : List Nat
  half2 : List Nat
  lag : Int
  first : Int
  last : Int
  deriving DecidableEq, Repr, Inhabited

/-- Edges of a path with one difference, in 2^-8 tbu without the correction of the bin that its stamp fell into, and that bin
(R457, R468). -/
structure EdgeSeen where
  diff : Int
  bin : Nat
  count : Nat
  deriving DecidableEq, Repr, Inhabited

/-- The first and the last 2,048 edges of a path of the SKEW procedure (R468, R469). -/
structure PathSeen where
  head : List EdgeSeen
  tail : List EdgeSeen
  deriving DecidableEq, Repr, Inhabited

/-- What a calibration procedure measured (R464 to R469): the 82 states of the DAC, the interpolators of BINS, or the 34 paths of
SKEW. -/
structure ProcReport where
  states : List StateSeen := []
  bins : List BinSeen := []
  paths : List PathSeen := []
  deriving DecidableEq, Repr, Inhabited

/-- The channel whose Doffer stalls, and what a creel training that the stall aborts had verified: the devices that passed at each
grade, and the eyes of the grades whose verification was over (R376, R481). -/
structure StallSeen where
  ch : ChanId
  pass : Vector (BitVec 5) 3
  eyes : List EyeReport
  deriving DecidableEq, Repr

/-- A feed circuit, and whether its open-conductor detector has tripped (R427). -/
structure FeedSeen where
  circuit : Fin 8
  tripped : Bool
  deriving DecidableEq, Repr

/-- A synthesizer, and what the phase detector of a lane one shows of the alignment of its clock edges (R271). -/
structure SynSeen where
  syn : Fin 4
  aligned : Bool
  deriving DecidableEq, Repr

/-- The channel whose read completes, and the device of five whose data had not come by then (R363). -/
structure ReadEnd where
  ch : ChanId
  last : Option (Fin 5)
  deriving DecidableEq, Repr

/-- A scan of the boundary-scan port (R422): the instruction loaded, the levels of the covered pins, the bits then shifted in. -/
structure TapScan where
  instr : TapInstr
  pins : List Bool
  shift : List Bool
  deriving DecidableEq, Repr

/-- One step of the module (spec/opcode_table.json). -/
inductive Instr where
  -- power, hold-up and the Tollhouse (03_modes_and_startup.md, 13_power_and_holdup.md)
  | powerUp (t : Tbu)
  | supplyFail (t : Tbu)
  | bankOk (t : Tbu)
  | holdupEntry (t : Tbu) (vin : List (BitVec 16))
  | saveDeadline (t : Tbu) (late : BitVec 16)
  | saveComplete (t : Tbu)
  | vaultedReturn (t : Tbu)
  | sheddingReturn (t : Tbu)
  | tollhouseTick (t : Tbu) (vin : List (BitVec 16)) (amps : List (Vector (BitVec 16) 8)) (avs draw : List (BitVec 16))
  | hardShed (t : Tbu)
  | tollGradeRaise (t : Tbu)
  | feedLost (t : Tbu) (seen : FeedSeen)
  | overdraw (t : Tbu) (ch : ChanId)
  -- track time (01_track_time.md)
  | refWindowEnd (t : Tbu) (count : Nat)
  | refEdgeTimeout (t : Tbu)
  | tbInvalid (t : Tbu)
  | tbLocked (t : Tbu)
  | odoTick (t : Tbu)
  | paceEdge (t : Tbu) (ch : ChanId) (mstone : Bool)
  | paceStop (t : Tbu) (ch : ChanId)
  | eventEmit (t : Tbu) (ch : ChanId)
  | retrack (t : Tbu) (mask : BitVec 16)
  | snapRead (t : Tbu)
  -- host registers (00_scope.md)
  | multiwordRead (t : Tbu) (addr : BitVec 40)
  | registerWrite (t : Tbu) (addr : BitVec 40) (v : Word)
  -- skein images (02_skein_images.md)
  | sknStart (t : Tbu) (v : Word)
  | sknAbort (t : Tbu)
  | sknData (t : Tbu) (w : Word)
  | loadDataTimeout (t : Tbu)
  | moduleSectionApplied (t : Tbu)
  | channelSectionApplied (t : Tbu) (ch : ChanId)
  | dofferSelfCheckPass (t : Tbu) (ch : ChanId)
  | dofferCheckTimeout (t : Tbu) (ch : ChanId)
  -- channel commands (03_modes_and_startup.md, 04_route_sequencer.md)
  | arm (t : Tbu) (ch : ChanId)
  | routeCheckDone (t : Tbu) (ch : ChanId)
  | start (t : Tbu) (ch : ChanId)
  | hold (t : Tbu) (ch : ChanId)
  | resume (t : Tbu) (ch : ChanId)
  | stop (t : Tbu) (ch : ChanId)
  | cancel (t : Tbu) (ch : ChanId)
  | enable (t : Tbu) (ch : ChanId)
  | disable (t : Tbu) (ch : ChanId)
  | runEntry (t : Tbu) (ch : ChanId)
  | drainComplete (t : Tbu) (ch : ChanId)
  -- route sequencer (04_route_sequencer.md)
  | segRead (t : Tbu) (ch : ChanId)
  | segWrite (t : Tbu) (ch : ChanId)
  | waypointWrite (t : Tbu) (ch : ChanId) (w : BitVec 16) (k : Fin 4) (v : Word)
  | advance (t : Tbu) (ch : ChanId)
  | hostJump (t : Tbu) (ch : ChanId) (target : BitVec 16)
  | exitGate (t : Tbu) (ch : ChanId)
  | passBoundary (t : Tbu) (ch : ChanId)
  | lateHeadArrival (t : Tbu) (ch : ChanId)
  | groupDecide (t : Tbu) (ch : ChanId)
  -- playback (05_playback_path.md)
  | freeze (t : Tbu) (ch : ChanId)
  | hopSwitch (t : Tbu) (ch : ChanId)
  | hopRead (t : Tbu) (ch : ChanId)
  | hopWrite (t : Tbu) (ch : ChanId)
  | hopApply (t : Tbu) (ch : ChanId) (op : BitVec 3)
  -- Distaff (06_distaff_pattern_lanes.md)
  | go (t : Tbu) (ch : ChanId)
  | dstStop (t : Tbu) (ch : ChanId)
  | frameIssue (t : Tbu) (ch : ChanId) (dataReady : Bool)
  | laneDeskewInterval (t : Tbu) (ch : ChanId) (lane : Fin 24) (early late : Nat)
  -- analog (07_analog_outputs.md)
  | rangeWrite (t : Tbu) (ch : ChanId) (v : Word)
  | rangeSwitch (t : Tbu) (ch : ChanId)
  | rangeDone (t : Tbu) (ch : ChanId)
  | strobe (t : Tbu) (ch : ChanId)
  | sched (t : Tbu) (ch : ChanId)
  | unsched (t : Tbu) (ch : ChanId)
  | levelTransfer (t : Tbu) (ch : ChanId)
  | ldstbEdge (t : Tbu)
  | limitWrite (t : Tbu) (ch : ChanId) (k : Fin 4) (v : Word)
  | switchesClosed (t : Tbu) (ch : ChanId)
  | disableSequenceEnd (t : Tbu) (ch : ChanId)
  | monitorReading (t : Tbu) (ch : ChanId) (input : Fin 5) (value : BitVec 16)
  | zeroClamp (t : Tbu) (ch : ChanId)
  -- synthesizers (08_synthesizers.md); `lane` chooses the lane pair
  | prepare (t : Tbu) (ch : ChanId) (lane : Bool)
  | switch (t : Tbu) (ch : ChanId) (lane : Bool) (atPos : Bool)
  | hop (t : Tbu) (ch : ChanId) (lane : Bool)
  | synStart (t : Tbu) (ch : ChanId) (lane : Bool)
  | synRest (t : Tbu) (ch : ChanId) (lane : Bool)
  | forget (t : Tbu) (ch : ChanId) (lane : Bool)
  | tuneQualified (t : Tbu) (ch : ChanId) (syn : Fin 4) (band : Byte) (measKHz : Nat)
  | stale (t : Tbu) (ch : ChanId) (syn : Fin 4)
  | tuneFailed (t : Tbu) (ch : ChanId) (syn : Fin 4)
  | ceilHold (t : Tbu) (ch : ChanId) (syn : Fin 4)
  | freqWindowEnd (t : Tbu) (ch : ChanId) (syn : Fin 4) (measKHz : Nat)
  | gateOpen (t : Tbu) (ch : ChanId) (x : SynSeen)
  | gateClose (t : Tbu) (ch : ChanId) (x : SynSeen)
  | lossOfLock (t : Tbu) (ch : ChanId) (syn : Fin 4)
  | muxSwitch (t : Tbu) (ch : ChanId) (lane : Bool)
  | failoverTimeout (t : Tbu) (ch : ChanId) (lane : Bool)
  | synRetry (t : Tbu) (ch : ChanId) (syn : Fin 4)
  | coverSearch (t : Tbu) (ch : ChanId) (lane : Bool)
  | verifyTune (t : Tbu) (ch : ChanId) (lane : Bool)
  | coverLapse (t : Tbu) (ch : ChanId) (lane : Bool)
  | powerDownDone (t : Tbu) (ch : ChanId) (syn : Fin 4)
  -- junctions (09_junctions.md)
  | junctionCarry (t : Tbu) (ch : ChanId)
  | consumerRegister (t : Tbu) (ch : ChanId) (code : BitVec 6)
  | pendingTake (t : Tbu) (ch : ChanId) (i : Fin 8)
  | jncFire (t : Tbu) (ch : ChanId) (mask : Word)
  | clear (t : Tbu) (ch : ChanId)
  | atArm (t : Tbu) (ch : ChanId) (mask : BitVec 4)
  | atCancel (t : Tbu) (ch : ChanId) (mask : BitVec 4)
  | counterWrite (t : Tbu) (ch : ChanId) (k : Fin 4) (v : Word)
  | grpEnWrite (t : Tbu) (ch : ChanId) (v : Word)
  -- converter (10_time_measurement.md)
  | eviEdge (t : Tbu) (ch : ChanId) (k : Fin 4) (rising : Bool)
  | stampConversion (t : Tbu) (ch : ChanId) (k : Fin 4)
  | eviPublish (t : Tbu) (ch : ChanId) (k : Fin 4)
  | tdcArm (t : Tbu) (ch : ChanId) (mask : BitVec 4)
  | tdcAbort (t : Tbu) (ch : ChanId) (mask : BitVec 4)
  | flush (t : Tbu) (ch : ChanId) (mask : BitVec 4)
  | tdcPop (t : Tbu) (ch : ChanId) (k : Fin 4) (n : BitVec 10)
  | winCloseWrite (t : Tbu) (ch : ChanId) (k : Fin 4) (v : Word)
  | unitCfgWrite (t : Tbu) (ch : ChanId) (k : Fin 4) (r : UnitReg) (v : Word)
  | timeout (t : Tbu) (ch : ChanId) (k : Fin 4)
  | freqGateEnd (t : Tbu) (ch : ChanId) (k : Fin 4)
  | freqResult (t : Tbu) (ch : ChanId) (k : Fin 4)
  | dumpEnable (t : Tbu) (ch : ChanId) (v : Word)
  | dumpRecord (t : Tbu) (ch : ChanId) (k : Fin 4)
  -- bobbin store and creel (11_bobbin_and_creel.md)
  | bobbinWindowWrite (t : Tbu) (ch : ChanId) (off : BitVec 27) (data : List Word)
  | pinReload (t : Tbu) (ch : ChanId) (r : BobReg) (v : Word)
  | pinReloadDone (t : Tbu) (ch : ChanId)
  | headsHeld (t : Tbu) (ch : ChanId)
  | creelCommand (t : Tbu) (ch : ChanId) (ready : BitVec 32)
  | readComplete (t : Tbu) (r : ReadEnd)
  | excusalEnd (t : Tbu) (ch : ChanId) (d : Fin 5)
  | deviceTimeout (t : Tbu) (ch : ChanId) (d : Fin 5)
  | raaClear (t : Tbu) (ch : ChanId)
  | refreshDue (t : Tbu) (ch : ChanId) (d : Fin 5) (bank : Fin 32)
  | retrainVisit (t : Tbu) (ch : ChanId)
  | retrainPause (t : Tbu) (ch : ChanId)
  | gatherWindowEnd (t : Tbu) (ch : ChanId) (eyes : EyeReport)
  | rescueEnd (t : Tbu) (ch : ChanId) (eyes : EyeReport)
  | speedRequest (t : Tbu) (ch : ChanId) (grade : BitVec 2)
  | speedPrepare (t : Tbu) (ch : ChanId)
  | blackout (t : Tbu) (ch : ChanId)
  | speedDone (t : Tbu) (ch : ChanId) (failed : BitVec 5)
  | postBlackoutVisit (t : Tbu) (ch : ChanId)
  | trained (t : Tbu) (ch : ChanId) (pass0 pass1 pass2 : BitVec 5) (eyes : List EyeReport)
  | copy (t : Tbu) (ch : ChanId)
  | fill (t : Tbu) (ch : ChanId)
  | train (t : Tbu) (ch : ChanId)
  | serviceStart (t : Tbu) (ch : ChanId)
  | svcDone (t : Tbu) (ch : ChanId)
  -- covered faults of the bobbin store (15_fault_masking.md)
  | bobbinDeviceLost (t : Tbu) (ch : ChanId) (device : Fin 2) (why : BobLoss)
  | bobDegraded (t : Tbu) (ch : ChanId)
  | outputResume (t : Tbu) (ch : ChanId)
  -- SarLane link (12_sarlane_host_port.md)
  | linkUp (t : Tbu)
  | laneDrop (t : Tbu) (lane : Fin 8)
  | laneAdd (t : Tbu) (lane : Fin 8)
  | linkSilenceTimeout (t : Tbu)
  | frameReceived (t : Tbu) (bytes : List Byte)
  | nak (t : Tbu) (lseq : BitVec 12)
  | replayTimeout (t : Tbu)
  | align (t : Tbu) (lane : Fin 8) (mask : Byte)
  | idle (t : Tbu) (lack : BitVec 12)
  | rd (t : Tbu) (tag : BitVec 12) (len : Byte) (addr : BitVec 40)
  | wr (t : Tbu) (tag : BitVec 12) (len : Byte) (addr : BitVec 40) (data : List Word)
  | qdata (t : Tbu) (queue : BitVec 16) (len : Byte) (pos : BitVec 32) (data : List Word)
  | credit (t : Tbu) (ch : ChanId) (q : BitVec 12)
  | hpBcastData (t : Tbu) (v : Word)
  | openQ (t : Tbu) (ch : ChanId) (w : Word)
  | closeQ (t : Tbu) (ch : ChanId) (w : Word)
  | fillComplete (t : Tbu) (ch : ChanId) (q : BitVec 12)
  | fillReady (t : Tbu) (ch : ChanId) (q : BitVec 12)
  | bulkDone (t : Tbu) (ch : ChanId) (q : BitVec 12)
  | sidebandPointerWrite (t : Tbu) (p : Byte)
  | sidebandRead (t : Tbu) (n : Nat)
  | tapInstruction (t : Tbu) (x : TapScan)
  -- vault and calibration (13_power_and_holdup.md, 14_calibration.md)
  | restore (t : Tbu) (v : Word)
  | restoreDone (t : Tbu)
  | discard (t : Tbu) (v : Word)
  | calRun (t : Tbu) (ch : ChanId) (v : Word)
  | calCommit (t : Tbu) (ch : ChanId) (v : Word)
  | calBankWrite (t : Tbu) (ch : ChanId) (bank : Fin 2) (off : BitVec 13) (v : Word)
  | calProcedureEnd (t : Tbu) (ch : ChanId) (p : Fin 4) (r : ProcReport)
  | dacTrimVisit (t : Tbu) (ch : ChanId) (cell : Fin 64) (up down : Nat)
  -- Doffer, monitor, fault log (15_fault_masking.md)
  | dofferStall (t : Tbu) (seen : StallSeen)
  | dofferRestartDone (t : Tbu) (ch : ChanId)
  | monitorCheck (t : Tbu) (ch : ChanId) (ground ref : BitVec 16)
  | dryLong (t : Tbu) (ch : ChanId)
  | ack (t : Tbu) (mask : BitVec 16)
  | logPop (t : Tbu) (n : BitVec 7)
  | restoreEnd (t : Tbu) (ch : ChanId)
  | blockLock (t : Tbu) (lane : Fin 8)
  | blockLockLost (t : Tbu) (lane : Fin 8)
  | syncHeaderError (t : Tbu) (lane : Fin 8)
  deriving DecidableEq, Repr

end Sys2Proof
end

