-- ==== Sys2Proof/Machine/Response.lean ====
section
/-! DEFINITION. The taps of the resampler and the response that R175 asks of them. The manual gives no tap: the module's taps are
`Config.taps`, any with this response (log entry 2). -/

namespace Sys2Proof

/-- The taps of a resampler: half their number, and the weight of the sample `k` places after the read index in each of the phases 1
to 1,023. -/
structure TapSet where
  half : Nat
  w : Nat → Int → Int

/-- Fractional bits of a weight. -/
def tapBits : Nat := 64

/-- Weight of the sample `k` places after the read index in phase `ph`: phase 0 passes the sample's own value and phase 1,024 that of
the next (R172, R175). -/
def TapSet.weight (f : TapSet) (ph : Nat) (k : Int) : Int :=
  if ph = 0 then (if k = 0 then 2 ^ tapBits else 0)
  else if ph = 1024 then (if k = 1 then 2 ^ tapBits else 0)
  else f.w ph k

/-- Places of the taps: `n` before the read index and as many after it. -/
def tapPlaces (n : Nat) : List Int := (List.range (2 * n)).map fun (i : Nat) => (i : Int) - n + 1

/-- What the resampler makes of the tone of frequency `ν` (in native samples): the tone itself, times a function of the fraction `x`
of the read index, whose mean is the gain and whose other Fourier coefficients are the images. The weights are those of the two phases
next to `x`, interpolated linearly. -/
def TapSet.toneGain (f : TapSet) (ν : ℝ) (g : ℝ → ℂ) : Prop :=
  ∀ x : ℝ, 0 ≤ x → x < 1 → g x = ((tapPlaces f.half).map fun k =>
    ((((1 - Int.fract (1024 * x)) * f.weight ⌊1024 * x⌋₊ k + Int.fract (1024 * x) * f.weight (⌊1024 * x⌋₊ + 1) k) / 2 ^ tapBits : ℝ) : ℂ) *
      Complex.exp (2 * Real.pi * ν * (k - x) * Complex.I)).sum

/-- The response of R175: from 0 to 0.40 Fs the gain lies within ±0.02 dB, every image is down by 80 dB or more, and the delay is
fixed: none but what the alignment of R172 takes up. -/
def TapSet.Meets (f : TapSet) : Prop :=
  ∀ (ν : ℝ) (g : ℝ → ℂ), |ν| ≤ 0.4 → f.toneGain ν g →
    let c := fun m : ℤ => ∫ x in (0 : ℝ)..1, g x * Complex.exp (-(2 * Real.pi * m * x) * Complex.I)
    (10 : ℝ) ^ (-(1 : ℝ) / 1000) ≤ ‖c 0‖ ∧ ‖c 0‖ ≤ (10 : ℝ) ^ ((1 : ℝ) / 1000) ∧ c 0 = ‖c 0‖ ∧
    ∀ m : ℤ, m ≠ 0 → ‖c m‖ ≤ ‖c 0‖ / 10 ^ 4

end Sys2Proof
end

