-- ==== Sys2Proof/Laws/Response.lean ====
section
/-! SUPPORT. Taps with the response that R175 asks for exist: those of `someTaps` have it. `Config.taps` are any taps that have it. -/

namespace Sys2Proof.Taps

open Complex Finset

/-- The binomial coefficient of `x` over `n`. -/
def binQ (x : ℚ) : Nat → ℚ
  | 0 => 1
  | n + 1 => binQ x n * (x - n) / (n + 1)

theorem binQ_abs {x : ℚ} (h : |x| ≤ 1) (n : Nat) : |binQ x n| ≤ 1 := by
  induction n with
  | zero => simp [binQ]
  | succ n ih =>
    have h1 : |x - n| ≤ n + 1 := by
      have := abs_le.mp h
      rw [abs_le]; constructor <;> linarith [(Nat.cast_nonneg n : (0:ℚ) ≤ n)]
    rw [binQ, abs_div, abs_mul, div_le_one (by positivity), abs_of_nonneg (by positivity : (0:ℚ) ≤ n + 1)]
    nlinarith [abs_nonneg (binQ x n), abs_nonneg (x - n)]

theorem binQ_choose (x : ℚ) (n : Nat) : ((binQ x n : ℚ) : ℂ) = Ring.choose (x : ℂ) n := by
  induction n with
  | zero => simp [binQ]
  | succ n ih =>
    have e := Ring.choose_eq_smul (a := (x : ℂ)) (n := n)
    have e' := Ring.choose_eq_smul (a := (x : ℂ)) (n := n + 1)
    rw [binQ]; push_cast; rw [ih, e, e']
    have : ((n : ℂ) + 1) ≠ 0 := by exact_mod_cast Nat.succ_ne_zero n
    have h2 : ((n.factorial : ℂ)) ≠ 0 := by exact_mod_cast n.factorial_ne_zero
    simp [descPochhammer_succ_right, Polynomial.smeval_mul, Polynomial.smeval_natCast, Nat.factorial_succ]
    field_simp

/-- The binomial series, cut off after `N` terms, is as near to its sum as a geometric series. -/
theorem binQ_tail {x : ℚ} (hx : |x| ≤ 1) {u : ℂ} {r : ℝ} (hu : ‖u‖ ≤ r) (hr : r < 1) (N : Nat) :
    ‖(∑ n ∈ range N, (binQ x n : ℂ) * u ^ n) - (1 + u) ^ (x : ℂ)‖ ≤ r ^ N / (1 - r) := by
  have hs : HasSum (fun n => (binQ x n : ℂ) * u ^ n) ((1 + u) ^ (x : ℂ)) := by
    have h := (one_add_cpow_hasFPowerSeriesOnBall_zero (a := (x : ℂ))).hasSum (y := u) (by
      rw [← ENNReal.ofReal_one, Metric.eball_ofReal]; simpa using lt_of_le_of_lt hu hr)
    simpa [binomialSeries, binQ_choose, mul_comm] using h
  have h0 : 0 ≤ ‖u‖ := norm_nonneg u
  have := norm_sub_le_of_geometric_bound_of_hasSum (C := 1) hr (fun n => ?_) hs N
  · simpa using this
  · rw [norm_mul, norm_pow]
    have : ‖((binQ x n : ℚ) : ℂ)‖ ≤ 1 := by
      have := binQ_abs hx n
      rw [← Complex.ofReal_ratCast, Complex.norm_real, Real.norm_eq_abs]; exact_mod_cast this
    exact mul_le_mul this (pow_le_pow_left₀ h0 hu n) (by positivity) (by norm_num)

/-- Half of `1 + e^(iθ)`, to a real power. -/
theorem half_turn {θ : ℝ} (h : |θ| < Real.pi) (x : ℝ) :
    (1 + (exp (θ * I) - 1) / 2) ^ (x : ℂ) = (Real.cos (θ / 2) ^ x : ℝ) * exp (x * (θ / 2) * I) := by
  have hc : 0 < Real.cos (θ / 2) := Real.cos_pos_of_mem_Ioo ⟨by linarith [(abs_lt.mp h).1], by linarith [(abs_lt.mp h).2]⟩
  have e : 1 + (exp (θ * I) - 1) / 2 = (Real.cos (θ / 2) : ℂ) * exp ((θ / 2 : ℝ) * I) := by
    have h1 : exp (θ * I) = exp ((θ / 2 : ℝ) * I) * exp ((θ / 2 : ℝ) * I) := by
      rw [← Complex.exp_add]; congr 1; push_cast; ring
    have h2 : (Real.cos (θ / 2) : ℂ) = (exp ((θ / 2 : ℝ) * I) + exp (-((θ / 2 : ℝ) * I))) / 2 := by
      rw [Complex.ofReal_cos, Complex.cos]; congr 1; simp
    have h3 : exp ((θ / 2 : ℝ) * I) * exp (-((θ / 2 : ℝ) * I)) = 1 := by rw [← Complex.exp_add]; simp
    rw [h1, h2]; linear_combination (-1/2 : ℂ) * h3
  rw [e, Complex.cpow_def_of_ne_zero (mul_ne_zero (ofReal_ne_zero.mpr hc.ne') (Complex.exp_ne_zero _)),
    Complex.log_ofReal_mul hc (Complex.exp_ne_zero _), Complex.log_exp]
  · rw [Real.rpow_def_of_pos hc]; push_cast; rw [← Complex.exp_add]; congr 1; ring
  · simp; linarith [(abs_lt.mp h).1, Real.pi_pos]
  · simp; linarith [(abs_lt.mp h).2, Real.pi_pos]

theorem cos_half_ge {θ : ℝ} (h : |θ| ≤ 0.8 * Real.pi) : 0.309 ≤ Real.cos (θ / 2) := by
  have h5 : (2.236 : ℝ) ≤ √5 := by rw [Real.le_sqrt (by norm_num) (by norm_num)]; norm_num
  have hc : Real.cos (0.4 * Real.pi) = (√5 - 1) / 4 := by
    have : (0.4 * Real.pi) = 2 * (Real.pi / 5) := by ring
    rw [this, Real.cos_two_mul, Real.cos_pi_div_five]
    have := Real.sq_sqrt (show (0:ℝ) ≤ 5 by norm_num)
    nlinarith
  have : Real.cos (0.4 * Real.pi) ≤ Real.cos |θ / 2| := by
    apply Real.cos_le_cos_of_nonneg_of_le_pi (abs_nonneg _) (by linarith [Real.pi_pos])
    rw [abs_div, abs_two]; linarith
  rw [Real.cos_abs, hc] at this
  linarith

theorem half_step_norm {θ : ℝ} (h : |θ| ≤ 0.8 * Real.pi) : ‖(exp (θ * I) - 1) / 2‖ ≤ 0.952 := by
  have e : ‖(exp (θ * I) - 1) / 2‖ = |Real.sin (θ / 2)| := by
    have := Complex.norm_exp_I_mul_ofReal_sub_one θ
    rw [mul_comm] at this
    rw [norm_div, this]; simp
  rw [e]
  apply abs_le_of_sq_le_sq _ (by norm_num)
  have := cos_half_ge h
  nlinarith [Real.sin_sq_add_cos_sq (θ / 2)]

/-- Terms of the series. -/
def seriesLen : Nat := 600

/-- The binomial series of `((1 + z) / 2) ^ x`, cut off. -/
noncomputable def series (x : ℚ) (z : ℂ) : ℂ := ∑ n ∈ range seriesLen, (binQ x n : ℂ) * ((z - 1) / 2) ^ n

/-- The two series of `((1 + z) / 2) ^ x` and `((1 + 1 / z) / 2) ^ (-x)` multiply to nearly `z ^ x` on the pass band. -/
theorem series_mul {x : ℚ} (h0 : 0 ≤ x) (h1 : x ≤ 1) {θ : ℝ} (h : |θ| ≤ 0.8 * Real.pi) :
    ‖series x (exp (θ * I)) * series (-x) (exp (-(θ * I))) - exp (x * θ * I)‖ ≤ 1 / 10 ^ 9 := by
  have hpi : |θ| < Real.pi := by linarith [Real.pi_pos]
  have hx : |x| ≤ 1 := abs_le.mpr ⟨by linarith, h1⟩
  have hx' : |-x| ≤ 1 := by rwa [abs_neg]
  have hn : |(-θ)| ≤ 0.8 * Real.pi := by rwa [abs_neg]
  have d : ((0.952:ℝ)) ^ seriesLen / (1 - 0.952) ≤ 1 / 10 ^ 10 := by
    have e : ((0.952:ℝ)) ^ 60 ≤ 0.053 := by norm_num
    have : ((0.952:ℝ)) ^ seriesLen ≤ 0.053 ^ 10 := by
      rw [show seriesLen = 60 * 10 from rfl, pow_mul]; exact pow_le_pow_left₀ (by norm_num) e 10
    calc _ ≤ (0.053:ℝ) ^ 10 / (1 - 0.952) := by gcongr
      _ ≤ _ := by norm_num
  have a := (binQ_tail hx (half_step_norm h) (by norm_num) seriesLen).trans d
  have b := (binQ_tail hx' (half_step_norm hn) (by norm_num) seriesLen).trans d
  have ha := half_turn hpi (x : ℝ)
  have hb := half_turn (by rwa [abs_neg] : |-θ| < Real.pi) ((-x : ℚ) : ℝ)
  have hc := cos_half_ge h
  have hcc : Real.cos (-θ / 2) = Real.cos (θ / 2) := by rw [neg_div, Real.cos_neg]
  have hpos : 0 < Real.cos (θ / 2) := by linarith
  set C := Real.cos (θ / 2)
  have unit : ∀ y : ℝ, ‖exp (y * (θ / 2) * I)‖ = 1 := fun y => by
    have := Complex.norm_exp_ofReal_mul_I (y * (θ / 2)); push_cast at this; simpa using this
  have na : ‖(1 + (exp (θ * I) - 1) / 2) ^ ((x : ℝ) : ℂ)‖ ≤ 1 := by
    rw [ha, norm_mul, Complex.norm_real, Real.norm_of_nonneg (by positivity), unit, mul_one]
    exact Real.rpow_le_one hpos.le (Real.cos_le_one _) (by exact_mod_cast h0)
  have nb : ‖(1 + (exp ((-θ : ℝ) * I) - 1) / 2) ^ (((-x : ℚ) : ℝ) : ℂ)‖ ≤ 4 := by
    rw [hb, hcc, norm_mul, Complex.norm_real, Real.norm_of_nonneg (by positivity)]
    have u := unit (((-x : ℚ) : ℝ)); 
    have u' : ‖exp ((((-x : ℚ) : ℝ) : ℂ) * ((-θ : ℝ) / 2) * I)‖ = 1 := by
      have := Complex.norm_exp_ofReal_mul_I (((-x : ℚ) : ℝ) * (-θ / 2)); push_cast at this ⊢; simpa using this
    rw [u', mul_one]
    push_cast
    rw [Real.rpow_neg hpos.le]
    have : C ^ (1:ℝ) ≤ C ^ (x : ℝ) := Real.rpow_le_rpow_of_exponent_ge hpos (Real.cos_le_one _) (by exact_mod_cast h1)
    rw [Real.rpow_one] at this
    calc (C ^ (x : ℝ))⁻¹ ≤ C⁻¹ := inv_anti₀ hpos this
      _ ≤ 0.309⁻¹ := inv_anti₀ (by norm_num) hc
      _ ≤ 4 := by norm_num
  have e : exp (x * θ * I) = (1 + (exp (θ * I) - 1) / 2) ^ ((x : ℝ) : ℂ) * (1 + (exp ((-θ : ℝ) * I) - 1) / 2) ^ (((-x : ℚ) : ℝ) : ℂ) := by
    rw [ha, hb, hcc]
    have : ((C ^ (x : ℝ) : ℝ) : ℂ) * ((C ^ (((-x : ℚ)) : ℝ) : ℝ) : ℂ) = 1 := by
      rw [← ofReal_mul, ← Real.rpow_add hpos]; simp
    have h2 : exp (x * θ * I) = exp ((x : ℝ) * (θ / 2) * I) * exp ((((-x : ℚ) : ℝ) : ℂ) * ((-θ : ℝ) / 2) * I) := by
      rw [← Complex.exp_add]; congr 1; push_cast; ring
    rw [h2]; linear_combination (-(exp ((x : ℝ) * (θ / 2) * I) * exp ((((-x : ℚ) : ℝ) : ℂ) * ((-θ : ℝ) / 2) * I))) * this
  have sa : series x (exp (θ * I)) = ∑ n ∈ range seriesLen, (binQ x n : ℂ) * ((exp (θ * I) - 1) / 2) ^ n := rfl
  have sb : series (-x) (exp (-(θ * I))) = ∑ n ∈ range seriesLen, (binQ (-x) n : ℂ) * ((exp ((-θ : ℝ) * I) - 1) / 2) ^ n := by
    simp [series]
  rw [← sa] at a; rw [← sb] at b
  rw [e]
  have cx : (((x : ℚ) : ℝ) : ℂ) = ((x : ℚ) : ℂ) := by push_cast; rfl
  have cx' : ((((-x : ℚ)) : ℝ) : ℂ) = ((-x : ℚ) : ℂ) := by push_cast; rfl
  rw [cx] at na ⊢; rw [cx'] at nb ⊢
  set A := (1 + (exp (θ * I) - 1) / 2) ^ ((x : ℚ) : ℂ)
  set B := (1 + (exp ((-θ : ℝ) * I) - 1) / 2) ^ ((-x : ℚ) : ℂ)
  set S := series x (exp (θ * I))
  set T := series (-x) (exp (-(θ * I)))
  have : S * T - A * B = (S - A) * (T - B) + (S - A) * B + A * (T - B) := by ring
  rw [this]
  calc _ ≤ ‖S - A‖ * ‖T - B‖ + ‖S - A‖ * ‖B‖ + ‖A‖ * ‖T - B‖ := by
        refine (norm_add₃_le).trans ?_; simp only [norm_mul]; exact le_refl _
    _ ≤ 1 / 10 ^ 10 * (1 / 10 ^ 10) + 1 / 10 ^ 10 * 4 + 1 * (1 / 10 ^ 10) := by gcongr
    _ ≤ _ := by norm_num

/-- Its coefficient of `z ^ j`. -/
def serCoef (x : ℚ) (j : Nat) : ℚ := ∑ n ∈ range seriesLen, binQ x n * ((-1) ^ (n - j) * n.choose j) / 2 ^ n

theorem series_eq (x : ℚ) (z : ℂ) : series x z = ∑ j ∈ range seriesLen, (serCoef x j : ℂ) * z ^ j := by
  simp only [series, serCoef]
  push_cast
  simp only [Finset.sum_mul]
  rw [Finset.sum_comm]
  refine Finset.sum_congr rfl fun n hn => ?_
  have hsub : range (n + 1) ⊆ range seriesLen := Finset.range_subset_range.mpr (Finset.mem_range.mp hn)
  rw [div_pow, sub_eq_add_neg, add_pow, ← Finset.sum_subset hsub]
  · rw [Finset.sum_div, Finset.mul_sum]
    exact Finset.sum_congr rfl fun j _ => by ring
  · intro j _ hj
    rw [Nat.choose_eq_zero_of_lt (by simpa using hj)]; simp

/-- The coefficient of `z ^ k` in the product of the two series: the tap of place `k` for the fraction `x`. -/
def tapQ (x : ℚ) (k : Int) : ℚ :=
  ∑ j ∈ range seriesLen, ∑ i ∈ range seriesLen, if (j : Int) - i = k then serCoef x j * serCoef (-x) i else 0

theorem tapQ_sum (x : ℚ) {z : ℂ} (hz : z ≠ 0) (h : Nat) (hh : seriesLen ≤ h) :
    ∑ k ∈ Icc (1 - (h : Int)) h, (tapQ x k : ℂ) * z ^ k = series x z * series (-x) z⁻¹ := by
  rw [series_eq, series_eq, Finset.sum_mul_sum]
  simp only [tapQ]
  push_cast
  simp only [Finset.sum_mul]
  rw [Finset.sum_comm]
  refine Finset.sum_congr rfl fun j hj => ?_
  rw [Finset.sum_comm]
  refine Finset.sum_congr rfl fun i hi => ?_
  have hj := Finset.mem_range.mp hj
  have hi := Finset.mem_range.mp hi
  rw [Finset.sum_eq_single ((j : Int) - i)]
  · rw [if_pos rfl, zpow_sub₀ hz]; simp [zpow_natCast]; ring
  · intro k _ hk; rw [if_neg (Ne.symm hk)]; simp
  · intro hk; exact absurd (Finset.mem_Icc.mpr ⟨by omega, by omega⟩) hk

theorem tapPlaces_sum {M : Type*} [AddCommMonoid M] (n : Nat) (f : Int → M) :
    ((tapPlaces n).map f).sum = ∑ k ∈ Icc (1 - (n : Int)) n, f k := by
  have : ((tapPlaces n).map f).sum = ∑ i ∈ range (2 * n), f ((i : Int) - n + 1) := by
    simp [tapPlaces, Finset.sum, Finset.range, Multiset.range, Function.comp_def]
  rw [this]
  refine Finset.sum_nbij' (fun i => (i : Int) - n + 1) (fun k => (k + n - 1).toNat) ?_ ?_ ?_ ?_ ?_
  · intro i hi; simp at *; omega
  · intro k hk; simp at *; omega
  · intro i _; show ((i : Int) - n + 1 + n - 1).toNat = i; omega
  · intro k hk; simp at *; omega
  · intro i _; rfl

/-- That tap for phase `p`, in units of 2^-40. -/
def tapInt (p : Nat) (k : Int) : Int := ⌊2 ^ 40 * tapQ (p / 1024) k⌋

theorem floor_near (q : ℚ) : ‖(((⌊2 ^ 40 * q⌋ : Int) : ℂ) / 2 ^ 40) - (q : ℂ)‖ ≤ 1 / 2 ^ 40 := by
  have h1 := Int.floor_le (2 ^ 40 * q)
  have h2 := Int.lt_floor_add_one (2 ^ 40 * q)
  generalize ⌊2 ^ 40 * q⌋ = F at *
  have h1 : (F : ℝ) ≤ 2 ^ 40 * (q : ℝ) := by exact_mod_cast h1
  have h2 : 2 ^ 40 * (q : ℝ) < F + 1 := by exact_mod_cast h2
  have : ((F : ℂ) / 2 ^ 40) - (q : ℂ) = ((((F : ℝ) - 2 ^ 40 * (q : ℝ)) / 2 ^ 40 : ℝ) : ℂ) := by push_cast; ring
  rw [this, Complex.norm_real, Real.norm_eq_abs, abs_div, abs_of_pos (by positivity : (0:ℝ) < 2 ^ 40)]
  gcongr
  rw [abs_le]; constructor <;> linarith

/-- Taps with the response of R175: each phase halfway between a phase and its mirror image. -/
def someTaps : TapSet where
  half := 601
  w := fun p k => 2 ^ 23 * (tapInt p k + tapInt (1024 - p) (1 - k))

/-- What the taps of phase `p` make of the tone `z ^ k`. -/
noncomputable def phaseSum (f : TapSet) (p : Nat) (z : ℂ) : ℂ := ∑ k ∈ Icc (1 - (f.half : Int)) f.half, (f.weight p k : ℂ) / 2 ^ tapBits * z ^ k

/-- The taps of a phase make of a tone of the pass band nearly the tone at that phase. -/
theorem tapInt_sum {p : Nat} (hp : p ≤ 1024) {θ : ℝ} (h : |θ| ≤ 0.8 * Real.pi) :
    ‖∑ k ∈ Icc (1 - (601 : Int)) 601, (tapInt p k : ℂ) / 2 ^ 40 * exp (θ * I) ^ k - exp ((p / 1024 : ℝ) * θ * I)‖ ≤ 1 / 10 ^ 8 := by
  have hx0 : (0 : ℚ) ≤ (p : ℚ) / 1024 := by positivity
  have hx1 : (p : ℚ) / 1024 ≤ 1 := by rw [div_le_one (by norm_num)]; exact_mod_cast hp
  have s := series_mul hx0 hx1 h
  have t := tapQ_sum ((p : ℚ) / 1024) (Complex.exp_ne_zero (θ * I)) 601 (by norm_num [seriesLen])
  rw [← Complex.exp_neg] at t
  rw [← t] at s
  have near : ‖∑ k ∈ Icc (1 - (601 : Int)) 601, (tapInt p k : ℂ) / 2 ^ 40 * exp (θ * I) ^ k -
      ∑ k ∈ Icc (1 - ((601 : Nat) : Int)) (601 : Nat), (tapQ ((p : ℚ) / 1024) k : ℂ) * exp (θ * I) ^ k‖ ≤ 1202 * (1 / 2 ^ 40) := by
    have e : Icc (1 - ((601 : Nat) : Int)) ((601 : Nat) : Int) = Icc (1 - (601 : Int)) 601 := by norm_num
    rw [e, ← Finset.sum_sub_distrib]
    refine (norm_sum_le_of_le _ (n := fun _ => 1 / 2 ^ 40) fun k _ => ?_).trans ?_
    · rw [← sub_mul, norm_mul, norm_zpow, Complex.norm_exp_ofReal_mul_I, one_zpow, mul_one]
      exact floor_near _
    · rw [Finset.sum_const, Int.card_Icc, show ((601 : Int) + 1 - (1 - 601)).toNat = 1202 from rfl]; norm_num
  have e : exp (((p : ℚ) / 1024 : ℚ) * θ * I) = exp ((p / 1024 : ℝ) * θ * I) := by
    have : (((p : ℚ) / 1024 : ℚ) : ℂ) = ((p / 1024 : ℝ) : ℂ) := by push_cast; ring
    rw [this]
  rw [e] at s
  refine (norm_sub_le_norm_sub_add_norm_sub _ _ _).trans ((add_le_add near s).trans ?_)
  norm_num

theorem phaseSum_near {p : Nat} (hp : p ≤ 1024) {θ : ℝ} (h : |θ| ≤ 0.8 * Real.pi) :
    ‖phaseSum someTaps p (exp (θ * I)) - exp ((p / 1024 : ℝ) * θ * I)‖ ≤ 1 / 10 ^ 8 := by
  by_cases h0 : p = 0
  · subst h0
    have : phaseSum someTaps 0 (exp (θ * I)) = 1 := by
      rw [phaseSum, Finset.sum_eq_single 0]
      · simp [TapSet.weight]
      · intro k _ hk; simp [TapSet.weight, hk]
      · intro hk; exact absurd (Finset.mem_Icc.mpr ⟨by simp [someTaps], by simp [someTaps]⟩) hk
    rw [this]; simp
  by_cases h1 : p = 1024
  · subst h1
    have : phaseSum someTaps 1024 (exp (θ * I)) = exp (θ * I) := by
      rw [phaseSum, Finset.sum_eq_single 1]
      · simp [TapSet.weight]
      · intro k _ hk; simp [TapSet.weight, hk]
      · intro hk; exact absurd (Finset.mem_Icc.mpr ⟨by simp [someTaps], by simp [someTaps]⟩) hk
    rw [this]; simp
  have a := tapInt_sum hp h
  have b := tapInt_sum (p := 1024 - p) (by omega) (θ := -θ) (by rwa [abs_neg])
  set z := exp (θ * I) with hz
  have hz0 : z ≠ 0 := Complex.exp_ne_zero _
  have hzi : exp ((-θ : ℝ) * I) = z⁻¹ := by rw [hz, ← Complex.exp_neg]; congr 1; push_cast; ring
  have e : phaseSum someTaps p z = (∑ k ∈ Icc (1 - (601 : Int)) 601, (tapInt p k : ℂ) / 2 ^ 40 * z ^ k
      + z * ∑ k ∈ Icc (1 - (601 : Int)) 601, (tapInt (1024 - p) k : ℂ) / 2 ^ 40 * (z⁻¹) ^ k) / 2 := by
    have mirror : ∑ k ∈ Icc (1 - (601 : Int)) 601, (tapInt (1024 - p) (1 - k) : ℂ) / 2 ^ 40 * z ^ k =
        z * ∑ k ∈ Icc (1 - (601 : Int)) 601, (tapInt (1024 - p) k : ℂ) / 2 ^ 40 * (z⁻¹) ^ k := by
      rw [Finset.mul_sum]
      refine Finset.sum_nbij' (fun k => 1 - k) (fun k => 1 - k) ?_ ?_ ?_ ?_ ?_
      · intro k hk; simp at *; omega
      · intro k hk; simp at *; omega
      · intro k _; simp
      · intro k _; simp
      · intro k _
        have : z ^ k = z * z⁻¹ ^ (1 - k) := by
          rw [inv_zpow', zpow_neg, zpow_sub₀ hz0]; field_simp
        rw [this]; ring
    rw [← mirror, ← Finset.sum_add_distrib, Finset.sum_div]
    refine Finset.sum_congr rfl fun k _ => ?_
    simp only [TapSet.weight, someTaps, h0, h1, if_false, tapBits]
    push_cast; ring
  have f : exp ((p / 1024 : ℝ) * θ * I) = (exp ((p / 1024 : ℝ) * θ * I) + z * exp ((((1024 - p : Nat) : ℝ) / 1024 : ℝ) * ((-θ : ℝ)) * I)) / 2 := by
    have : z * exp ((((1024 - p : Nat) : ℝ) / 1024 : ℝ) * ((-θ : ℝ)) * I) = exp ((p / 1024 : ℝ) * θ * I) := by
      rw [hz, ← Complex.exp_add]; apply congrArg; rw [Nat.cast_sub hp]; push_cast; ring
    rw [this]; ring
  rw [hzi] at b
  rw [e, f, ← sub_div, norm_div]
  have nz : ‖z‖ = 1 := Complex.norm_exp_ofReal_mul_I θ
  have : ∀ S T A B : ℂ, S + z * T - (A + z * B) = (S - A) + z * (T - B) := fun _ _ _ _ => by ring
  rw [this]
  refine (div_le_div_of_nonneg_right (norm_add_le _ _) (norm_nonneg _)).trans ?_
  rw [norm_mul, nz, one_mul, Complex.norm_ofNat]
  linarith

/-- Linear interpolation between adjacent phases. -/
noncomputable def lerp (P : Nat → ℂ) (y : ℝ) : ℂ := (1 - ((Int.fract y : ℝ) : ℂ)) * P ⌊y⌋₊ + ((Int.fract y : ℝ) : ℂ) * P (⌊y⌋₊ + 1)

/-- What the resampler makes of a tone, by its phases. -/
theorem gain_lerp (f : TapSet) (ν x : ℝ) :
    ((tapPlaces f.half).map fun k =>
      ((((1 - Int.fract (1024 * x)) * f.weight ⌊1024 * x⌋₊ k + Int.fract (1024 * x) * f.weight (⌊1024 * x⌋₊ + 1) k) / 2 ^ tapBits : ℝ) : ℂ) *
        exp (2 * Real.pi * ν * (k - x) * I)).sum =
      lerp (fun p => phaseSum f p (exp ((2 * Real.pi * ν : ℝ) * I))) (1024 * x) * exp (-((2 * Real.pi * ν : ℝ) * x * I)) := by
  rw [tapPlaces_sum, lerp, phaseSum, phaseSum, Finset.mul_sum, Finset.mul_sum, ← Finset.sum_add_distrib, Finset.sum_mul]
  refine Finset.sum_congr rfl fun k _ => ?_
  have : exp (2 * Real.pi * ν * (k - x) * I) = exp ((2 * Real.pi * ν : ℝ) * I) ^ k * exp (-((2 * Real.pi * ν : ℝ) * x * I)) := by
    rw [← Complex.exp_int_mul, ← Complex.exp_add]; apply congrArg; push_cast; ring
  rw [this]; push_cast; ring

theorem exp_second (y : ℝ) (h : |y| ≤ 1) : ‖exp (y * I) - 1 - y * I‖ ≤ y ^ 2 := by
  have := Complex.norm_exp_sub_one_sub_id_le (x := y * I) (by simpa using h)
  simpa using this

/-- Between two phases that are near the tone, so is their interpolation. -/
theorem lerp_near {P : Nat → ℂ} {θ : ℝ} (h : |θ| ≤ 0.8 * Real.pi)
    (hP : ∀ p ≤ 1024, ‖P p - exp ((p / 1024 : ℝ) * θ * I)‖ ≤ 1 / 10 ^ 8) {x : ℝ} (h0 : 0 ≤ x) (h1 : x < 1) :
    ‖lerp P (1024 * x) * exp (-(θ * x * I)) - 1‖ ≤ 1 / 10 ^ 5 := by
  set δ := Int.fract (1024 * x) with hδ
  set p := ⌊1024 * x⌋₊ with hp
  have hd0 : 0 ≤ δ := Int.fract_nonneg _
  have hd1 : δ < 1 := Int.fract_lt_one _
  have hx : 1024 * x = p + δ := by
    have := Int.floor_add_fract (1024 * x)
    rw [← Int.natCast_floor_eq_floor (by positivity)] at this
    rw [hp, hδ]; exact_mod_cast this.symm
  have hple : p < 1024 := by
    have : (p : ℝ) < 1024 := by linarith
    exact_mod_cast this
  have a := hP p hple.le
  have b := hP (p + 1) hple
  have hα : |θ / 1024| ≤ 0.0025 := by
    rw [abs_div]; have := Real.pi_lt_d2; norm_num; linarith
  have s := exp_second (-(δ * (θ / 1024))) (by
    rw [abs_neg, abs_mul, abs_of_nonneg hd0]; nlinarith [abs_nonneg (θ / 1024)])
  have t := exp_second ((1 - δ) * (θ / 1024)) (by
    rw [abs_mul, abs_of_nonneg (by linarith : 0 ≤ 1 - δ)]; nlinarith [abs_nonneg (θ / 1024)])
  set E := exp (-(θ * x * I)) with hE
  have nE : ‖E‖ = 1 := by
    have := Complex.norm_exp_ofReal_mul_I (-(θ * x)); rw [hE]; push_cast at this; simpa using this
  have ea : exp ((p / 1024 : ℝ) * θ * I) * E = exp ((-(δ * (θ / 1024)) : ℝ) * I) := by
    rw [hE, ← Complex.exp_add]; apply congrArg
    have : (p : ℂ) = 1024 * x - δ := by have := hx; rw [eq_sub_iff_add_eq]; exact_mod_cast this.symm
    push_cast; rw [this]; ring
  have eb : exp (((p + 1 : Nat) / 1024 : ℝ) * θ * I) * E = exp (((1 - δ) * (θ / 1024) : ℝ) * I) := by
    rw [hE, ← Complex.exp_add]; apply congrArg
    have : (p : ℂ) = 1024 * x - δ := by have := hx; rw [eq_sub_iff_add_eq]; exact_mod_cast this.symm
    push_cast; rw [this]; ring
  have key : lerp P (1024 * x) * E - 1 =
      (1 - (δ : ℂ)) * ((P p - exp ((p / 1024 : ℝ) * θ * I)) * E) + (δ : ℂ) * ((P (p + 1) - exp (((p + 1 : Nat) / 1024 : ℝ) * θ * I)) * E)
      + ((1 - (δ : ℂ)) * (exp ((-(δ * (θ / 1024)) : ℝ) * I) - 1 - ((-(δ * (θ / 1024)) : ℝ) : ℂ) * I)
        + (δ : ℂ) * (exp (((1 - δ) * (θ / 1024) : ℝ) * I) - 1 - (((1 - δ) * (θ / 1024) : ℝ) : ℂ) * I)) := by
    rw [sub_mul (P p), sub_mul (P (p + 1)), ea, eb, lerp]
    push_cast; ring
  have n1 : ‖(1 - (δ : ℂ))‖ = 1 - δ := by
    rw [← ofReal_one, ← ofReal_sub, Complex.norm_real, Real.norm_of_nonneg (by linarith)]
  have n2 : ‖(δ : ℂ)‖ = δ := by rw [Complex.norm_real, Real.norm_of_nonneg hd0]
  rw [key]
  have hsq : (θ / 1024) ^ 2 ≤ 0.0025 ^ 2 := by rw [← sq_abs]; exact pow_le_pow_left₀ (abs_nonneg _) hα 2
  calc _ ≤ (1 - δ) * (1 / 10 ^ 8) + δ * (1 / 10 ^ 8) + ((1 - δ) * (-(δ * (θ / 1024))) ^ 2 + δ * ((1 - δ) * (θ / 1024)) ^ 2) := by
        refine (norm_add_le _ _).trans (add_le_add ((norm_add_le _ _).trans (add_le_add ?_ ?_)) ((norm_add_le _ _).trans (add_le_add ?_ ?_)))
        · rw [norm_mul, norm_mul, n1, nE, mul_one]; gcongr
        · rw [norm_mul, norm_mul, n2, nE, mul_one]; gcongr
        · rw [norm_mul, n1]; gcongr
        · rw [norm_mul, n2]; gcongr
    _ ≤ 1 / 10 ^ 8 + 0.0025 ^ 2 := by
        have : (1 - δ) * (-(δ * (θ / 1024))) ^ 2 + δ * ((1 - δ) * (θ / 1024)) ^ 2 = δ * (1 - δ) * (θ / 1024) ^ 2 := by ring
        rw [this]
        have : δ * (1 - δ) ≤ 1 := by nlinarith
        nlinarith [sq_nonneg (θ / 1024), mul_nonneg hd0 (by linarith : 0 ≤ 1 - δ)]
    _ ≤ _ := by norm_num

theorem conj_exp_I (θ : ℝ) : (starRingEnd ℂ) (exp (θ * I)) = (exp (θ * I))⁻¹ := by
  rw [← Complex.exp_conj, ← Complex.exp_neg]; simp

/-- The phases `p` and `1,024 - p` mirror each other. -/
theorem phaseSum_mirror {p : Nat} (hp : p ≤ 1024) (θ : ℝ) :
    phaseSum someTaps (1024 - p) (exp (θ * I)) = exp (θ * I) * (starRingEnd ℂ) (phaseSum someTaps p (exp (θ * I))) := by
  have hz0 : exp (θ * I) ≠ 0 := Complex.exp_ne_zero _
  have hw : ∀ k : Int, someTaps.weight (1024 - p) (1 - k) = someTaps.weight p k := by
    intro k
    by_cases h0 : p = 0
    · subst h0; simp [TapSet.weight]
    by_cases h1 : p = 1024
    · subst h1
      have : (1 - k = 0) ↔ (k = 1) := by omega
      simp [TapSet.weight, this]
    have a : ¬(1024 - p = 0) := by omega
    have b : ¬(1024 - p = 1024) := by omega
    simp only [TapSet.weight, h0, h1, a, b, if_false, someTaps]
    rw [show 1024 - (1024 - p) = p by omega, show (1 : Int) - (1 - k) = k by ring, add_comm]
  simp only [phaseSum, map_sum, Finset.mul_sum]
  refine Finset.sum_nbij' (fun k => 1 - k) (fun k => 1 - k) ?_ ?_ ?_ ?_ ?_
  · intro k hk; simp at *; omega
  · intro k hk; simp at *; omega
  · intro k _; simp
  · intro k _; simp
  · intro k _
    have e := hw (1 - k)
    rw [show (1 : Int) - (1 - k) = k by ring] at e
    rw [e, map_mul, map_div₀, map_pow, map_zpow₀, conj_exp_I, inv_zpow', neg_sub]
    have : exp (θ * I) ^ k = exp (θ * I) * exp (θ * I) ^ (k - 1) := by rw [zpow_sub_one₀ hz0]; field_simp
    rw [this]; simp [map_ofNat]; ring

theorem lerp_mirror {P : Nat → ℂ} {z : ℂ} (hP : ∀ p ≤ 1024, P (1024 - p) = z * (starRingEnd ℂ) (P p)) {y : ℝ} (h0 : 0 < y) (h1 : y < 1024) :
    lerp P (1024 - y) = z * (starRingEnd ℂ) (lerp P y) := by
  have hfl := Int.floor_add_fract y
  rw [← Int.natCast_floor_eq_floor h0.le] at hfl
  have hf : (⌊y⌋₊ : ℝ) + Int.fract y = y := by exact_mod_cast hfl
  have hp : ⌊y⌋₊ < 1024 := by have := Nat.floor_le h0.le; have : (⌊y⌋₊ : ℝ) < 1024 := by linarith
                              exact_mod_cast this
  by_cases hd : Int.fract y = 0
  · have e : 1024 - y = ((1024 - ⌊y⌋₊ : Nat) : ℝ) := by rw [Nat.cast_sub hp.le]; push_cast; linarith
    have e1 : Int.fract (1024 - y) = 0 := by rw [e]; exact Int.fract_natCast _
    have e2 : ⌊1024 - y⌋₊ = 1024 - ⌊y⌋₊ := by rw [e]; exact Nat.floor_natCast _
    simp [lerp, hd, e1, e2, hP _ hp.le]
  · have hpos : 0 < Int.fract y := lt_of_le_of_ne (Int.fract_nonneg y) (Ne.symm hd)
    have hlt := Int.fract_lt_one y
    have e : 1024 - y = ((1023 - ⌊y⌋₊ : Nat) : ℝ) + (1 - Int.fract y) := by
      rw [Nat.cast_sub (by omega)]; push_cast; linarith
    have e2 : ⌊1024 - y⌋₊ = 1023 - ⌊y⌋₊ := by
      rw [Nat.floor_eq_iff (by linarith)]; constructor <;> linarith
    have e1 : Int.fract (1024 - y) = 1 - Int.fract y := by
      have : ⌊1024 - y⌋ = ((1023 - ⌊y⌋₊ : Nat) : Int) := by rw [← Int.natCast_floor_eq_floor (by linarith), e2]
      rw [Int.fract, this, e]; push_cast; ring
    have a : P (1023 - ⌊y⌋₊) = z * (starRingEnd ℂ) (P (⌊y⌋₊ + 1)) := by
      rw [← hP _ (by omega)]; congr 1; omega
    have b : P (1023 - ⌊y⌋₊ + 1) = z * (starRingEnd ℂ) (P ⌊y⌋₊) := by
      rw [← hP _ (by omega)]; congr 1; omega
    simp only [lerp, e1, e2, a, b, map_add, map_mul, map_sub, map_one, Complex.conj_ofReal]
    push_cast; ring

theorem lerp_measurable (P : Nat → ℂ) : Measurable fun x : ℝ => lerp P (1024 * x) := by
  unfold lerp
  have h1 : Measurable fun x : ℝ => ((Int.fract (1024 * x) : ℝ) : ℂ) :=
    Complex.measurable_ofReal.comp (measurable_fract.comp (measurable_const.mul measurable_id))
  have h2 : ∀ Q : Nat → ℂ, Measurable fun x : ℝ => Q ⌊1024 * x⌋₊ := fun Q =>
    (measurable_from_nat (f := Q)).comp (Nat.measurable_floor.comp (measurable_const.mul measurable_id))
  exact ((measurable_const.sub h1).mul (h2 P)).add (h1.mul (h2 fun n => P (n + 1)))

/-- There are taps with the response of R175. -/
theorem someTaps_meets : someTaps.Meets := by
  intro ν g hν hg
  set θ : ℝ := 2 * Real.pi * ν with hθ
  have hpi := Real.pi_pos
  have h : |θ| ≤ 0.8 * Real.pi := by
    rw [hθ, abs_mul, abs_of_pos (by positivity)]; nlinarith
  set P : Nat → ℂ := fun p => phaseSum someTaps p (exp (θ * I)) with hP
  set G : ℝ → ℂ := fun x => lerp P (1024 * x) * exp (-(θ * x * I)) with hG
  have eG : ∀ x : ℝ, 0 ≤ x → x < 1 → g x = G x := fun x h0 h1 => by rw [hg x h0 h1]; exact gain_lerp someTaps ν x
  have near : ∀ x : ℝ, 0 ≤ x → x < 1 → ‖G x - 1‖ ≤ 1 / 10 ^ 5 := fun x h0 h1 =>
    lerp_near h (fun p hp => phaseSum_near hp h) h0 h1
  have meas : Measurable G := (lerp_measurable P).mul (by fun_prop)
  have hne : ∀ᵐ x : ℝ, x ≠ 1 := MeasureTheory.Measure.ae_ne MeasureTheory.volume 1
  have int : ∀ m : ℤ, (∫ x in (0 : ℝ)..1, g x * exp (-(2 * Real.pi * m * x) * I)) = ∫ x in (0 : ℝ)..1, G x * exp (-(2 * Real.pi * m * x) * I) := by
    intro m
    refine intervalIntegral.integral_congr_ae ?_
    filter_upwards [hne] with x hx hm
    rw [Set.uIoc_of_le zero_le_one] at hm
    rw [eG x hm.1.le (lt_of_le_of_ne hm.2 hx)]
  have unit : ∀ (m : ℤ) (x : ℝ), ‖exp (-(2 * Real.pi * m * x) * I)‖ = 1 := fun m x => by
    have := Complex.norm_exp_ofReal_mul_I (-(2 * Real.pi * m * x)); push_cast at this; simpa using this
  have hi : ∀ m : ℤ, IntervalIntegrable (fun x : ℝ => G x * exp (-(2 * Real.pi * m * x) * I)) MeasureTheory.volume 0 1 := by
    intro m
    rw [intervalIntegrable_iff_integrableOn_Ioc_of_le zero_le_one]
    refine MeasureTheory.Measure.integrableOn_of_bounded (M := 2) (by simp) ?_ ?_
    · exact (meas.mul (by fun_prop)).aestronglyMeasurable
    · rw [MeasureTheory.ae_restrict_iff' measurableSet_Ioc]
      filter_upwards [hne] with x hx hm
      rw [norm_mul, unit, mul_one]
      have := near x hm.1.le (lt_of_le_of_ne hm.2 hx)
      have e : G x = (G x - 1) + 1 := by ring
      rw [e]; refine (norm_add_le _ _).trans ?_
      rw [norm_one]; linarith
  have he : ∀ m : ℤ, IntervalIntegrable (fun x : ℝ => exp (-(2 * Real.pi * m * x) * I)) MeasureTheory.volume 0 1 := fun m =>
    Continuous.intervalIntegrable (by fun_prop) _ _
  have dev : ∀ m : ℤ, ‖(∫ x in (0 : ℝ)..1, G x * exp (-(2 * Real.pi * m * x) * I)) - ∫ x in (0 : ℝ)..1, exp (-(2 * Real.pi * m * x) * I)‖ ≤ 1 / 10 ^ 5 := by
    intro m
    rw [← intervalIntegral.integral_sub (hi m) (he m)]
    have := intervalIntegral.norm_integral_le_of_norm_le_const_ae (a := 0) (b := 1) (C := 1 / 10 ^ 5)
      (f := fun x : ℝ => G x * exp (-(2 * Real.pi * m * x) * I) - exp (-(2 * Real.pi * m * x) * I)) (by
        filter_upwards [hne] with x hx hm
        rw [Set.uIoc_of_le zero_le_one] at hm
        rw [← sub_one_mul, norm_mul, unit, mul_one]
        exact near x hm.1.le (lt_of_le_of_ne hm.2 hx))
    simpa using this
  have c0 : ‖(∫ x in (0 : ℝ)..1, G x * exp (-(2 * Real.pi * (0 : ℤ) * x) * I)) - 1‖ ≤ 1 / 10 ^ 5 := by
    simpa using dev 0
  have cm : ∀ m : ℤ, m ≠ 0 → ‖∫ x in (0 : ℝ)..1, G x * exp (-(2 * Real.pi * m * x) * I)‖ ≤ 1 / 10 ^ 5 := by
    intro m hm
    have z : ∫ x in (0 : ℝ)..1, exp (-(2 * Real.pi * m * x) * I) = 0 := by
      have : ∀ x : ℝ, exp (-(2 * Real.pi * m * x) * I) = exp ((-(2 * Real.pi * m) * I) * x) := fun x => by
        apply congrArg; ring
      simp only [this]
      rw [integral_exp_mul_complex (by simp [hm, hpi.ne'])]
      have : exp (-(2 * Real.pi * m) * I * (1 : ℝ)) = 1 := by
        have := Complex.exp_int_mul_two_pi_mul_I (-m)
        rw [← this]; apply congrArg; push_cast; ring
      rw [this]; simp
    have := dev m; rwa [z, sub_zero] at this
  have real : (starRingEnd ℂ) (∫ x in (0 : ℝ)..1, G x) = ∫ x in (0 : ℝ)..1, G x := by
    have sw : ∫ x in (0 : ℝ)..1, G (1 - x) = ∫ x in (0 : ℝ)..1, G x := by
      rw [intervalIntegral.integral_comp_sub_left]; norm_num
    rw [intervalIntegral.integral_of_le zero_le_one, ← integral_conj, ← intervalIntegral.integral_of_le zero_le_one,
      ← intervalIntegral.integral_of_le zero_le_one, ← sw]
    refine intervalIntegral.integral_congr_ae ?_
    filter_upwards [hne] with x hx hm
    rw [Set.uIoc_of_le zero_le_one] at hm
    have l := lerp_mirror (P := P) (z := exp (θ * I)) (fun p hp => phaseSum_mirror hp θ) (y := 1024 * x)
      (by linarith [hm.1]) (by linarith [lt_of_le_of_ne hm.2 hx])
    simp only [hG]
    rw [show (1024 : ℝ) * (1 - x) = 1024 - 1024 * x by ring, l, map_mul]
    have e : (starRingEnd ℂ) (exp (-(θ * x * I))) = exp (θ * I) * exp (-(θ * ((1 - x : ℝ)) * I)) := by
      rw [← Complex.exp_conj, ← Complex.exp_add]; apply congrArg; simp; ring
    rw [e]; push_cast; ring
  have e0 : (∫ x in (0 : ℝ)..1, G x * exp (-(2 * Real.pi * (0 : ℤ) * x) * I)) = ∫ x in (0 : ℝ)..1, G x := by simp
  rw [e0] at c0
  obtain ⟨r, hr⟩ := Complex.conj_eq_iff_real.mp real
  rw [hr] at c0
  have hr1 : |r - 1| ≤ 1 / 10 ^ 5 := by
    rw [← ofReal_one, ← ofReal_sub, Complex.norm_real] at c0; exact c0
  have hr2 := abs_le.mp hr1
  have nr : ‖(r : ℂ)‖ = r := by rw [Complex.norm_real, Real.norm_of_nonneg (by linarith)]
  simp only [int, e0, hr, nr]
  refine ⟨?_, ?_, trivial, fun m hm => (cm m hm).trans ?_⟩
  · have : (10 : ℝ) ^ (-(1 : ℝ) / 1000) ≤ 0.999 := by
      have h1 : ((10 : ℝ) ^ (-(1 : ℝ) / 1000)) ^ (1000 : ℕ) = 10⁻¹ := by
        rw [← Real.rpow_natCast, ← Real.rpow_mul (by norm_num)]; norm_num [Real.rpow_neg_one]
      have h2 : (10 : ℝ)⁻¹ ≤ (0.999 : ℝ) ^ (1000 : ℕ) := by
        have e : ((0.999 : ℝ)) ^ 1000 = ((0.999 : ℝ) ^ 200) ^ 5 := by rw [← pow_mul]
        have f : (0.8 : ℝ) ≤ (0.999 : ℝ) ^ 200 := by norm_num
        rw [e]; refine le_trans ?_ (pow_le_pow_left₀ (by norm_num) f 5); norm_num
      exact le_of_pow_le_pow_left₀ (by norm_num) (by norm_num) (h1.trans_le h2)
    linarith
  · have : (1.001 : ℝ) ≤ (10 : ℝ) ^ ((1 : ℝ) / 1000) := by
      have h1 : ((10 : ℝ) ^ ((1 : ℝ) / 1000)) ^ (1000 : ℕ) = 10 := by
        rw [← Real.rpow_natCast, ← Real.rpow_mul (by norm_num)]; norm_num
      have h2 : (1.001 : ℝ) ^ (1000 : ℕ) ≤ 10 := by
        have e : ((1.001 : ℝ)) ^ 1000 = ((1.001 : ℝ) ^ 200) ^ 5 := by rw [← pow_mul]
        have f : (1.001 : ℝ) ^ 200 ≤ 1.3 := by norm_num
        rw [e]; refine le_trans (pow_le_pow_left₀ (by norm_num) f 5) ?_; norm_num
      exact le_of_pow_le_pow_left₀ (by norm_num) (by positivity) (h2.trans_eq h1.symm)
    linarith
  · rw [le_div_iff₀ (by positivity)]; norm_num; linarith

end Sys2Proof.Taps
end

