-- ==== Sys2Proof/Config.lean ====
section
/-! DEFINITION. What the manufacturer fixed and what the manual leaves open. Every constant here is opaque:
nothing in Lean can evaluate it, so a statement about it holds whatever it is. -/

namespace Sys2Proof.Config

/-- ID_SERIAL, fixed at manufacture (R3). -/
opaque idSerial : Word

/-- The factory efficiency above its least value of 925 thousandths (R453); see `eff`. -/
opaque effOver : Fin 26

/-- EFF in thousandths, 925 to 950 (R453). -/
def eff : Nat := 925 + effOver.val

/-- DESIGN CHOICE (log entry 2): which of the two entries a hop-table read returns when a WRITE falls in its
fabric cycle (R190); `n` is the count of free values drawn. True is the new entry. -/
opaque hopReadNew : Nat → Bool

/-- DESIGN CHOICE (log entry 2): the taps of the resampler; the manual bounds their response only (R175), so they are any taps with
that response. -/
opaque someResampler [Inhabited { f : TapSet // f.Meets }] : { f : TapSet // f.Meets }

/-- The taps of the resampler: taps with the response of R175 exist, and the module's are among them. -/
def taps : TapSet := (@someResampler ⟨⟨Taps.someTaps, Taps.someTaps_meets⟩⟩).val

/-- The resampler has the response of R175. -/
theorem taps_meet : taps.Meets := (@someResampler ⟨⟨Taps.someTaps, Taps.someTaps_meets⟩⟩).property

/-- DESIGN CHOICE (log entry 2): whether a mixer result `n / d` between two codes takes the upper one (R186 names no
rounding). -/
opaque codeUp : Int → Nat → Bool

/-- DESIGN CHOICE (log entry 2): whether the head of a successor is late at the boundary while the bobbin store is
degraded (R384: "may arrive late"). -/
opaque headLate : Nat → Bool

/-- DESIGN CHOICE (log entry 2): which of the cache lines that hold no data a new line takes (R356 orders evictions only). -/
opaque cacheSlot : Nat → Nat

/-- DESIGN CHOICE (log entry 60): the burst of the creel that training writes and reads, by the instant and its number (R368). -/
opaque trainBurst : Nat → Nat → BitVec 28

/-- DESIGN CHOICE (log entry 60): what training leaves in that burst, byte by byte. -/
opaque trainByte : Nat → Nat → Nat → Byte

/-- DESIGN CHOICE (log entry 2): PER of a period that its 64 bits do not hold (R335, R345). -/
opaque tdcPer : Nat → Word

/-- DESIGN CHOICE (log entry 2): RES of a residual that its 32 bits do not hold (R335, R345). -/
opaque tdcRes : Nat → BitVec 32

/-- DESIGN CHOICE (log entry 2): the interval field of a record whose interval its 48 bits do not hold (R332, R338). -/
opaque tdcInterval : Int → BitVec 48

/-- DESIGN CHOICE (log entry 63): STATVAL and DETAIL of an accepted DAC or SKEW, by the instant (R463 gives those of a failed test,
and the worked example of chapter 14 those of an accepted BINS_EVI). -/
opaque passedStat : Nat → BitVec 32
opaque passedItem : Nat → BitVec 16

/-- DESIGN CHOICE (log entry 63): STATVAL of an autocorrelation of codes that never change, which is 0 / 0 (R465, R467). -/
opaque flatStat : Nat → BitVec 32

end Sys2Proof.Config
end

