-- ==== Sys2Proof/Machine/State.lean ====
section
/-! DEFINITION. The state of the block: every register, store, queue, counter and latch the manual gives the
module, as plain data, and its value right after power-on reset. A register the host reads and writes whole is
a `Word`; what lives only inside the module has a type of its own. A field's default is its reset value. -/

namespace Sys2Proof.Machine

/-- A sparse store: keys strictly rising, and no entry equal to what an unlisted key reads as. -/
abbrev Sparse (α : Type) := List (Nat × α)

/-- A register of W1C bits: its value, how often the hardware has set bits of it, and, newest first and each bit once, the
bits set with the number of the setting (R9, R10). -/
structure Sticky where
  bits : Word := 0
  sets : Nat := 0
  last : List (Nat × Word) := []
  deriving DecidableEq, Repr, Inhabited

/-- Instants and differences with 16 fractional bits of a tbu (R43). -/
abbrev Q16 := Int

/-- The module modes (R103), and the unpowered condition of R104. -/
inductive Mode where
  | dark | linked | spooling | wound | shedding | holdup | vaulted | quarantine | unpowered
  deriving DecidableEq, Repr, Inhabited

/-- The channel states (R114). -/
inductive ChState where
  | rest | trim | armed | run | held | drain
  deriving DecidableEq, Repr, Inhabited

/-- The tracker states (R34). -/
inductive TrkState where
  | absent | acquiring | locked | stopped
  deriving DecidableEq, Repr, Inhabited

/-- SKN_CH_STAT.STATE (R101). -/
inductive SknState where
  | unconfigured | loading | applying | configured
  deriving DecidableEq, Repr, Inhabited

/-- The kind of a stream (R81). -/
inductive LoadKind where
  | whole | channel
  deriving DecidableEq, Repr, Inhabited

/-- What is placed at a track position under R43. -/
inductive SchedKind where
  /-- JNC.ATk (R310) -/
  | at (k : Fin 4)
  /-- the scheduled level strobe (R252) -/
  | strobe
  /-- a sample SWITCH with WHEN = 1 (R281) -/
  | sswitch
  /-- the first sample of a start or resume (R154) -/
  | start
  /-- a pace-lock knot (R178) -/
  | knot
  /-- a frame of the Distaff (R227) -/
  | frame
  deriving DecidableEq, Repr, Inhabited

/-- An event placed under R43: pending until an edge commits it. -/
structure Placed where
  kind : SchedKind
  pos : Word
  deriving DecidableEq, Repr, Inhabited

/-- An event committed under R43, with its own instant. -/
structure Committed where
  kind : SchedKind
  pos : Word
  inst : Q16
  deriving DecidableEq, Repr, Inhabited

/-- A qualified edge of the recent past (R39): its position and instant, and, when the cycle it began ended in
STOPPED, P_est and the instant of the declaration (R40). -/
structure EdgeRec where
  pos : Word
  e : Int
  stop : Option (Nat × Tbu) := none
  deriving DecidableEq, Repr, Inhabited

/-- A channel's PACE tracker (R32 to R41). -/
structure Tracker where
  state : TrkState := .absent
  /-- integer count, modulo 2^40, the alignment offset included (R38) -/
  n : BitVec 40 := 0
  /-- instant of the last qualified edge -/
  e : Int := 0
  /-- instant at which the last qualified edge reached the receiver, before skews -/
  raw : Option Tbu := none
  /-- P_est in tbu with 16 fractional bits (R513) -/
  pest : Nat := 0
  seeded : Bool := false
  good : Nat := 0
  fast : Nat := 0
  range : Bool := false
  aligned : Bool := false
  misaligned : Bool := false
  /-- MSTONE as sampled at the last qualified edge; none before the first (R54) -/
  mstone : Option Bool := none
  glitch : BitVec 32 := 0
  slip : Word := 0
  /-- TRK_PACE_CFG as in force since the last qualified edge (R70) -/
  paceCfg : Word := 0x000001F400080436
  /-- TRK_MOD_SKEW as in force since the last qualified edge (R64) -/
  modSkew : Word := 0
  pending : List Placed := []
  committed : List Committed := []
  /-- emitted instant of the event emitted last (R44) -/
  lastEmit : Q16 := 0
  /-- edges that stamps not yet converted may need, newest first (R39) -/
  hist : List EdgeRec := []
  deriving DecidableEq, Repr, Inhabited

/-- The TRK block of the module and the time base (R26 to R31, R69). -/
structure TrkMod where
  paceCfg : Word := 0x000001F400080436
  refCfg : Word := 0
  /-- TRK_REF_CFG as in force in the present window (R70) -/
  refCfgNow : Word := 0
  tbLocked : Bool := false
  tbInvalid : Bool := false
  holdover : Bool := false
  wrongFreq : Bool := false
  present : Bool := false
  freqSeen : BitVec 2 := 0
  goodWindows : Nat := 0
  /-- a loss of REF has been declared since reset (REF_BACK follows a loss) -/
  wasLost : Bool := false
  holdoverAt : Option Tbu := none
  /-- instant of the first qualification: TRK_TBASE counts from it (R27) -/
  epoch : Option Tbu := none
  events : Sticky := {}
  mstoneCfg : Word := 0
  mstonePos : Word := 0
  mstoneStep : Word := 0
  mstoneLast : Word := 0
  /-- instant of the last module milestone, with the configuration and position held at that edge (R61, R514) -/
  mileAt : Option Int := none
  mileCfg : Word := 0
  milePos : Word := 0
  modSkew : Word := 0
  odo : Word := 0
  snapOdo : Word := 0
  snapTbase : Word := 0
  snapPos : Vector Word 16 := Vector.replicate 16 0
  deriving DecidableEq, Repr

/-- The module section as loaded: payloads of its records (R79), empty when absent. -/
structure ModImage where
  classes : List Byte := []
  vaultPlan : List Byte := []
  linkCfg : List Byte := []
  faultPolicy : List Byte := []
  locks : List Byte := []
  imageId : Word := 0
  digest : List Byte := []
  trophor : BitVec 32 := 0
  deriving DecidableEq, Repr, Inhabited

/-- A channel section: payloads of its records (R79), empty when absent. -/
structure ChImage where
  laneMap : List Byte := []
  wiring : List Byte := []
  lut : List Byte := []
  microcode : List Byte := []
  scramble : List Byte := []
  creelMap : List Byte := []
  power : List Byte := []
  restLevels : List Byte := []
  ceilings : List Byte := []
  firmware : List Byte := []
  defaults : List Byte := []
  locks : List Byte := []
  imageId : Word := 0
  digest : List Byte := []
  deriving DecidableEq, Repr, Inhabited

/-- A refusal of R86, as SKN_RESULT shows it. -/
structure SknRefusal where
  reason : Byte
  sect : Byte
  detail : BitVec 16
  deriving DecidableEq, Repr, Inhabited

/-- A directory entry of the header (R75). -/
structure DirEntry where
  sect : Nat
  len : Nat
  offset : Nat
  deriving DecidableEq, Repr, Inhabited

/-- A load in progress (R82 to R94). -/
structure Load where
  kind : LoadKind
  mask : BitVec 16
  length : Nat
  received : Nat := 0
  /-- instant of the start, and of each word after it (R94) -/
  wordAt : Tbu := 0
  /-- stream words, last received first -/
  words : List Word := []
  /-- the header's directory once the header has passed -/
  dir : List DirEntry := []
  hdrPassed : Bool := false
  /-- a refusal at header, module-section or stream level (R87) -/
  fatal : Option SknRefusal := none
  modImage : Option ModImage := none
  /-- channel sections that passed and are not yet applied -/
  chImages : List (ChanId × ChImage) := []
  /-- the last stream byte has arrived -/
  complete : Bool := false
  modApplied : Bool := false
  /-- target channels whose section is resolved (refused, or CONFIGURED) -/
  resolved : BitVec 16 := 0
  anyRefused : Bool := false
  deriving DecidableEq, Repr, Inhabited

/-- The SKN block (R101). -/
structure Skn where
  load : Option Load := none
  phase : BitVec 3 := 0
  received : BitVec 32 := 0
  result : Word := 0
  events : Sticky := {}
  startResult : Byte := 0
  image : ModImage := {}
  /-- module lock mask in force (R97) -/
  locks : Word := 0
  modDigestSnap : Vector Word 3 := Vector.replicate 3 0
  deriving DecidableEq, Repr

/-- The MOD block (R131). -/
structure ModBlk where
  mode : Mode := .dark
  prev : Mode := .dark
  qReason : Byte := 0
  startCause : BitVec 2 := 0
  linkUp : Bool := false
  bankOk : Bool := false
  events : Sticky := {}
  cfg : Word := 0
  bcastAcc : BitVec 16 := 0
  bcastRef : BitVec 16 := 0
  /-- channels named by the last broadcast that have not yet set a bit (R126) -/
  bcastWait : BitVec 16 := 0
  deriving DecidableEq, Repr, Inhabited

/-- The TLH block of the module (R453). -/
structure Tlh where
  vin : Nat := 0
  iin : Nat := 0
  budget : Nat := 0
  charged : Nat := 0
  /-- circuits declared lost since reset (R427) -/
  lost : BitVec 8 := 0
  /-- TLH_FEED.HEALTHY, 0 until the first tick reports it (R453, log entry 37) -/
  healthy : BitVec 8 := 0
  events : Sticky := {}
  cfg : Word := 500
  deficit : Int := 0
  /-- savings committed and not yet realised, qw (R437) -/
  pending : Nat := 0
  /-- number of the present tick (R434) -/
  tick : Nat := 0
  /-- instant of the first ladder step taken for the present deficit (R438) -/
  ladderAt : Option Tbu := none
  /-- instant since which the module has been in WOUND without a deficit (R439) -/
  calmAt : Option Tbu := none
  /-- instant since which V_avg has been at or above 40.00 V (R429) -/
  okAt : Option Tbu := none
  /-- the latest samples of V_in, in 10 mV, and of the total input current, in mA: one a microsecond, newest first, at most 100
  (R426) -/
  vinS : List Nat := []
  iinS : List Nat := []
  /-- instant since which every sample of V_in has been at or above 40.00 V (R429) -/
  riseAt : Option Tbu := none
  /-- instant since which each circuit has carried less than 25 % of the mean of the other healthy ones, above 1 A (R427) -/
  lowAt : Vector (Option Tbu) 8 := Vector.replicate 8 none
  deriving DecidableEq, Repr, Inhabited

/-- A grant request: the tick at which it was made, and whether a service made it (R434). -/
structure Request where
  tick : Nat
  service : Bool
  deriving DecidableEq, Repr, Inhabited

/-- The Tollhouse's view of one channel (R431 to R440). -/
structure ChTlh where
  prio : BitVec 4 := 0
  /-- PRIO as in force since the last tick (R436) -/
  prioNow : BitVec 4 := 0
  avs : Nat := 0
  draw : Nat := 0
  deny : Byte := 0
  tollGrade : Bool := false
  /-- 0 none, 1 marked, 2 held soft, 3 held hard -/
  shed : BitVec 2 := 0
  granted : Bool := false
  pinned : Bool := false
  /-- the request made; it waits while `granted` is false, and a grant withdrawn waits with it again (R437) -/
  request : Option Request := none
  /-- the lower grade that has been requested for this admission (R434, step 2) -/
  gradeWait : Option Nat := none
  /-- instant since which the draw exceeds the charge by more than 2 W (R440) -/
  overAt : Option Tbu := none
  /-- GRADE_STEP counted in PENDING and not yet realised -/
  stepPending : Nat := 0
  req : Nat := 0
  deriving DecidableEq, Repr, Inhabited

/-- A packet that the module sends (R399). -/
inductive Packet where
  /-- CPL: TAG, STATUS, data words (R400) -/
  | cpl (tag : BitVec 12) (status : BitVec 4) (data : List Word)
  /-- QCPL: queue, code, detail, position, fills (R419) -/
  | qcpl (queue : BitVec 16) (code detail : Byte) (pos fills : BitVec 32)
  /-- CREDIT: queue and LIMIT (R410) -/
  | credit (queue : BitVec 16) (limit : BitVec 32)
  deriving DecidableEq, Repr, Inhabited

/-- A frame sent and not yet covered by a LACK, its bytes as sent last, and the times it has been replayed (R393, R394, R397). -/
structure Sent where
  seq : BitVec 12
  pkt : Packet
  bytes : List Byte := []
  replays : Nat := 0
  deriving DecidableEq, Repr, Inhabited

/-- An RD or WR request that waits behind one held back by flow control (R349, R402); its completion is discarded when
`tag` is none (R397). -/
structure HostReq where
  tag : Option (BitVec 12)
  write : Bool
  len : Byte
  addr : BitVec 40
  data : List Word
  deriving DecidableEq, Repr, Inhabited

/-- HP_LINK_STAT.STATE (R423). -/
inductive LinkState where
  | down | training | up
  deriving DecidableEq, Repr, Inhabited

/-- The HP block and the link layer (R390 to R403, R423). -/
structure Hp where
  state : LinkState := .down
  locked : BitVec 8 := 0
  active : BitVec 8 := 0
  /-- lanes the far end's ALIGN blocks report locked (R392, R395) -/
  farLocked : BitVec 8 := 0
  /-- an IDLE has been received from the other end since training began (R395) -/
  idleSeen : Bool := false
  /-- active lanes marked for a drop at the next ALIGN boundary (R396) -/
  failing : BitVec 8 := 0
  events : Sticky := {}
  cfg : Word := 0x0064001400000004
  laneErr : Vector Byte 8 := Vector.replicate 8 0
  /-- place of the last ALIGN block of each lane, and how many in a row have been out of place (R391, R396) -/
  alignAt : Vector Tbu 8 := Vector.replicate 8 0
  alignBad : Vector Nat 8 := Vector.replicate 8 0
  /-- instant since which each lane has been locked at both ends without error (R396) -/
  goodSince : Vector Tbu 8 := Vector.replicate 8 0
  /-- instant of the last valid block (R397) -/
  blockAt : Tbu := 0
  /-- instants of the sync-header errors of the last 1 µs on each lane (R396) -/
  errTimes : Vector (List Tbu) 8 := Vector.replicate 8 []
  losses : BitVec 16 := 0
  drops : BitVec 16 := 0
  replays : BitVec 32 := 0
  bcastCfg : Word := 0
  bcastVec : Word := 0xFFFFFFFFFFFFFFFF
  qdataErr : Word := 0
  /-- LSEQ expected of the next frame received -/
  rxSeq : BitVec 12 := 0
  /-- LSEQ of the last frame received in order (the LACK sent) -/
  lackOut : BitVec 12 := 0
  /-- a NAK has been sent and the expected frame has not arrived (R394) -/
  nakSent : Bool := false
  /-- NAK blocks sent, last first -/
  naks : List (BitVec 12) := []
  /-- frames accepted and not yet acknowledged, oldest first: LSEQ, and whether the frame carries a request (R402) -/
  unlacked : List (BitVec 12 × Bool) := []
  txSeq : BitVec 12 := 0
  /-- instant from which REPLAY_TO counts (R394) -/
  ackAt : Tbu := 0
  /-- oldest first, at most 2,048 -/
  outstanding : List Sent := []
  /-- packets waiting to be framed, oldest first -/
  unsent : List Packet := []
  /-- a request is held back by flow control, and those accepted after it wait, oldest first (R402) -/
  busy : Bool := false
  reqs : List HostReq := []
  /-- the HP_BCAST_DATA write whose nibbles are not all in, with the tag of its completion (R403) -/
  bcastTag : Option (Option (BitVec 12)) := none
  deriving DecidableEq, Repr

/-- States of the IEEE 1149.1 TAP controller (R422). -/
inductive TapState where
  | reset | idle
  | selDr | capDr | shiftDr | exit1Dr | pauseDr | exit2Dr | updDr
  | selIr | capIr | shiftIr | exit1Ir | pauseIr | exit2Ir | updIr
  deriving DecidableEq, Repr, Inhabited

/-- Boundary scan and sideband (R421, R422). -/
structure SidePort where
  pointer : Byte := 0
  /-- bytes the last sideband read returned -/
  lastRead : List Byte := []
  tap : TapInstr := .bypass
  /-- the TAP controller, the bypass register, the boundary register with its output latches, and the bits last shifted out -/
  tapState : TapState := .reset
  bypass : Bool := false
  boundary : List Bool := []
  latched : List Bool := []
  tdo : List Bool := []
  deriving DecidableEq, Repr, Inhabited

/-- One entry of a queue saved in the vault (R448). -/
structure SavedQueue where
  word0 : Word
  word1 : Word
  deriving DecidableEq, Repr, Inhabited

/-- The delay set of one device at one grade (R376, R378). -/
structure DelaySet where
  /-- read and write centres of the eight bits, in steps (R379) -/
  rc : Vector Byte 8 := Vector.replicate 8 0
  wc : Vector Byte 8 := Vector.replicate 8 0
  vref : Byte := 0
  eyeR : Byte := 0
  eyeW : Byte := 0
  deriving DecidableEq, Repr, Inhabited

/-- A channel area of a vault slot (R448): its 64-bit words, by number, but for the area CRC at 0x3_EFF8. -/
structure Area where
  words : Sparse Word := []
  crc : BitVec 32 := 0
  deriving DecidableEq, Repr, Inhabited

/-- A vault slot (R446, R447): the words of the two 64-byte units that hold its header, those of the unit that holds its commit
record, each unit written whole, and its channel areas. -/
structure Slot where
  header : List Word := []
  commit : List Word := []
  areas : Vector Area 16 := Vector.replicate 16 {}
  deriving DecidableEq, Repr

/-- The VLT_SLOT registers of a slot (R454). -/
structure SlotRegs where
  seqNo : Word := 0
  odo : Word := 0
  tbase : Word := 0
  info : Word := 0
  image : Word := 0
  deriving DecidableEq, Repr, Inhabited

/-- A save in progress (R444). -/
structure Save where
  slot : Fin 2
  /-- channels whose Doffers write an area -/
  areas : BitVec 16
  deriving DecidableEq, Repr, Inhabited

/-- The VLT block and the vault (R446 to R454). -/
structure Vlt where
  slots : Vector Slot 2 := Vector.replicate 2 {}
  /-- VLT_STAT.VALID and the VLT_SLOT_* registers as read at reset or changed by a discard -/
  valid : BitVec 2 := 0
  newest : Bool := false
  regs : Vector SlotRegs 2 := Vector.replicate 2 {}
  events : Sticky := {}
  result : Byte := 0
  resultCmd : BitVec 4 := 0
  /-- channels of the restore in progress that have not returned to REST (R450) -/
  restoring : BitVec 16 := 0
  restoreOn : Bool := false
  restoreSlot : Fin 2 := 0
  restoreBad : Bool := false
  save : Option Save := none
  deriving DecidableEq, Repr

/-- A record of the fault log (R490). -/
structure LogRec where
  odo : Word
  info : Word
  deriving DecidableEq, Repr, Inhabited

/-- The FLT block of the module (R493). -/
structure Flt where
  events : Sticky := {}
  cfg : Word := 0
  cmdVec : Word := 0
  log : List LogRec := []
  /-- fabric cycle of the last record, and how many of the newest records are of that cycle (R489) -/
  newAt : Nat := 0
  newCount : Nat := 0
  lost : BitVec 32 := 0
  feed : Bool := false
  deriving DecidableEq, Repr, Inhabited

/-! ### The blocks of a channel -/

/-- The channel commands (R121), by their codes. -/
inductive Cmd where
  | arm | start | hold | resume | stop | cancel | enable | disable | bad (code : BitVec 4)
  deriving DecidableEq, Repr, Inhabited

/-- A command waiting behind an ARM that is being checked (R139); `bcast` when it came by MOD_BCAST_CMD. -/
structure QueuedCmd where
  cmd : Cmd
  bcast : Bool
  deriving DecidableEq, Repr, Inhabited

/-- The channel's part of the MOD block (R131). -/
structure ChMod where
  state : ChState := .rest
  outEn : Bool := false
  pendEn : Bool := false
  startPend : Bool := false
  heldCause : Byte := 0
  cfg : Word := 1
  count : BitVec 16 := 0
  cmd : BitVec 4 := 0
  result : Byte := 0
  /-- commands that arrived while an ARM was being checked -/
  queued : List QueuedCmd := []
  /-- the ARM being checked came by broadcast -/
  armBcast : Bool := false
  /-- instant of entry to DRAIN -/
  drainAt : Option Tbu := none
  /-- step 7 of DRAIN, the power-down of the synthesizers, has begun (R127) -/
  drainSyn : Bool := false
  deriving DecidableEq, Repr, Inhabited

/-- The channel's part of the SKN block (R101) and what the image gave it. -/
structure ChSkn where
  state : SknState := .unconfigured
  reason : Byte := 0
  loads : BitVec 16 := 0
  image : ChImage := {}
  imageId : Word := 0
  digest : List Byte := []
  locks : Word := 0
  digestSnap : Vector Word 3 := Vector.replicate 3 0
  /-- the Doffer has been released and has not yet reported its self-check (R89) -/
  released : Bool := false
  /-- instant of that release (R86) -/
  releasedAt : Tbu := 0
  deriving DecidableEq, Repr

/-- An entry of the loop stack (R141). -/
structure StackEntry where
  close : BitVec 16
  start : BitVec 16
  left : BitVec 32
  unltd : Bool
  deriving DecidableEq, Repr, Inhabited


/-- What a pass plays (R140, R146, R414, R416); `wayside` is a siding pass that plays while a head is late. -/
inductive PassKind where
  | segment | idle | replay | holdLast | siding | wayside
  deriving DecidableEq, Repr, Inhabited

/-- A successor chosen at a gate (R150). -/
structure Succ where
  wp : BitVec 16
  /-- passes already completed -/
  done : Nat
  kind : PassKind
  /-- the waypoint is entered by this pass -/
  entry : Bool
  routeEnd : Bool
  deriving DecidableEq, Repr, Inhabited

/-- A vote of a group member (R162). -/
structure Vote where
  tag : BitVec 16
  mask : BitVec 16
  edge : BitVec 40
  commit : Bool
  /-- instant of the vote -/
  at' : Tbu
  deriving DecidableEq, Repr, Inhabited

/-- The SEQ block and the route sequencer (R132 to R165). -/
structure Seq where
  route : Word := 0
  routeCfg : Word := 0
  startCfg : Word := 0x0000000000400000
  startPos : Word := 0
  grpCfg : Word := 0
  idle : Word := 0
  segIdx : Word := 0
  segD0 : Word := 0
  segD1 : Word := 0
  segResult : Byte := 0
  resume : Word := 0
  resumeDepth : Word := 0
  resumeStk : Vector Word 3 := Vector.replicate 3 0
  /-- values latched at ARM (R138) and at START or RESUME (R154) -/
  lRoute : Word := 0
  lRouteCfg : Word := 0
  lIdle : Word := 0
  lStartCfg : Word := 0
  lStartPos : Word := 0
  lGrpCfg : Word := 0
  /-- an ARM is being checked (R139) -/
  checking : Bool := false
  checkCode : Byte := 0
  checkWp : BitVec 16 := 0
  events : Sticky := {}
  grpOutcome : BitVec 3 := 0
  grpReason : Byte := 0
  grpReleasedBy : BitVec 16 := 0
  vote : Option Vote := none
  /-- a milestone has passed since the START or RESUME was accepted (R161, GCOND = 1) -/
  decided1 : Bool := false
  /-- the start or resume was at the previous edge accepted with no other wait reason (R155) -/
  cleared : Bool := false
  /-- integer count at the edge of the last clearing -/
  clearN : BitVec 40 := 0
  /-- position of the placed start -/
  placed : Option Word := none
  /-- the start continues from the resume point -/
  fromResume : Bool := false
  -- the pass playing
  playing : Bool := false
  wp : BitVec 16 := 0
  next : BitVec 16 := 0
  decided : Bool := false
  waiting : Bool := false
  endNext : Bool := false
  stack : List StackEntry := []
  /-- the stack as it stood when the pass began (R158) -/
  passStack : List StackEntry := []
  done : Nat := 0
  kind : PassKind := .segment
  passPos : Word := 0
  runPos : Word := 0
  succ : Option Succ := none
  /-- the pass whose head is late while siding passes play (R416) -/
  lateSucc : Option Succ := none
  /-- length of the pass, native samples -/
  len : Nat := 0
  /-- the hop of the waypoint has been applied on this entry (R415) -/
  hopDone : Bool := false
  /-- a pass of this waypoint has played a segment or a fill (R415) -/
  started : Bool := false
  /-- the last pass was a substitute (R414) -/
  inUnder : Bool := false
  /-- a late pass waits for its head (R416) -/
  late : Bool := false
  -- request latches, each with its sample index (R147, R148)
  trig0 : Option Nat := none
  trig1 : Option Nat := none
  jmp : Vector (Option Nat) 4 := Vector.replicate 4 none
  adv : Option Nat := none
  hostJump : Option (BitVec 16 × Nat) := none
  mile : Option Nat := none
  /-- a hold waits for its gate, with its cause (R125) -/
  holdReq : Option (Byte × Nat) := none
  /-- the gate evaluated has chosen HELD at the boundary -/
  holdNext : Option Byte := none
  /-- SEQ_PASS to SEQ_STACK[2] as captured by a read of SEQ_STAT (R15, R165) -/
  snap : Vector Word 6 := Vector.replicate 6 0
  /-- descriptor store: key 2 × segment + word (R133) -/
  segs : Sparse Word := []
  /-- waypoint table: key 4 × waypoint + word (R135) -/
  wpt : Sparse Word := []
  deriving DecidableEq, Repr

/-- A hop prepared and not yet switched (R189, R190). -/
structure PendHop where
  host : Bool
  op : BitVec 3
  /-- entry, and the fabric cycle in which the engine reads it (R189) -/
  idx : Byte
  readAt : Nat
  w0 : Word
  w1 : Word
  /-- instant at which the hop is due -/
  due : Q16
  /-- the pass whose first sample it belongs to has begun; true of an APPLY -/
  begun : Bool
  deriving DecidableEq, Repr, Inhabited

/-- A slice of a pace-locked pass (R179): its instants, and its read indices within the pass with 24
fractional bits. -/
structure Slice where
  t0 : Q16
  t1 : Q16
  i0 : Int
  i1 : Int
  /-- the slice plays at the ceiling -/
  clamp : Bool
  /-- tbu by which its end follows its planned instant -/
  lag : Nat
  deriving DecidableEq, Repr, Inhabited

/-- An exact instant: `num / den` in units of 2^-16 tbu. -/
structure Inst where
  num : Int := 0
  den : Nat := 1
  deriving DecidableEq, Repr, Inhabited

/-- A time per sample, `num / den` tbu. -/
structure Per where
  num : Nat := 1
  den : Nat := 1
  deriving DecidableEq, Repr, Inhabited

/-- What drives WAV (R116, R117, R180, R416, R480). -/
inductive WavDrive where
  | zero | route | hold
  deriving DecidableEq, Repr, Inhabited

/-- A marker output (R145). -/
inductive MkOut where
  | low | high | data | pulse
  deriving DecidableEq, Repr, Inhabited

/-- How a fault interrupts WAV and the markers: since when they lack what they would carry, if they do, and the longest interruption
so far, in tbu with 16 fractional bits (R477). -/
structure OutGap where
  since : Option Q16 := none
  longest : Q16 := 0
  deriving DecidableEq, Repr, Inhabited

/-- What follows the last sample of a pass at its output: the next pass; a wait for a late head, in which WAV holds that sample
with the markers low (R416); or nothing, WAV at 0 V and the markers low (R116, R143). -/
inductive PassEnd where
  | goes | late | ends
  deriving DecidableEq, Repr, Inhabited

/-- A pass as the output stages see it: where its samples lie, and when each is due (R145, R166, R173). -/
structure PassRec where
  /-- creel address of its first block, format, MIX, and length in native samples -/
  base : Nat := 0
  fmt : Nat := 0
  mix : Nat := 0
  len : Nat := 0
  marks : Vector MkOut 4 := Vector.replicate 4 .low
  /-- length of a marker pulse in native samples -/
  width : Nat := 64
  /-- the sample it holds throughout: the last one of the pass before it (R414) -/
  held : Option (Int × Int) := none
  /-- what follows it -/
  after : PassEnd := .goes
  /-- nominal instant of its first sample -/
  begins : Inst := {}
  lock : Bool := false
  per : Per := {}
  /-- read index (2^-48 samples) at an instant, from which a uniform rate counts -/
  inst : Inst := {}
  idx : Int := 0
  slices : List Slice := []
  deriving DecidableEq, Repr, Inhabited

/-- The PLY block and the playback path (R166 to R199). -/
structure Ply where
  wavDelay : Word := 0
  profCfg : Vector Word 16 := Vector.replicate 16 0
  profRate : Vector Word 16 := Vector.replicate 16 0
  mkDelay : Vector Word 4 := Vector.replicate 4 0
  hopIdx : Word := 0
  hopW0 : Word := 0
  hopW1 : Word := 0
  hopResult : Byte := 0
  -- latched at ARM (R169)
  lProfCfg : Vector Word 16 := Vector.replicate 16 0
  lProfRate : Vector Word 16 := Vector.replicate 16 0
  lWavDelay : Word := 0
  lMkDelay : Vector Word 4 := Vector.replicate 4 0
  events : Sticky := {}
  gap : Word := 0
  lastHop : Word := 0
  ftw : BitVec 48 := 0
  phi : BitVec 32 := 0
  anchor : Option Int := none
  dn : Nat := 0
  dd : Nat := 0
  hops : List PendHop := []
  /-- hop table: key 2 × entry + word (R187) -/
  table : Sparse Word := []
  prof : BitVec 4 := 0
  lock : Bool := false
  /-- instant, and read index within the pass at it (2^-48 samples), from which a free-running rate counts (R173) -/
  baseInst : Inst := {}
  baseIdx : Int := 0
  /-- the present pass, and the last passes before it, newest first, which the output stages still carry -/
  cur : PassRec := {}
  past : List PassRec := []
  /-- the hand-over since its last change (R172): the fabric cycle from which it counts, and the samples of the present pass
  handed over before that cycle -/
  handCycle : Nat := 0
  handBase : Nat := 0
  /-- instant of the last anchor, and instant up to which DAC samples have been put out -/
  anchorNow : Q16 := 0
  outAt : Q16 := 0
  /-- the sample that WAV holds while the waveform data is lost, as I and Q (R480) -/
  heldVal : Option (Int × Int) := none
  /-- nominal instant of the present pass's first sample -/
  t0 : Q16 := 0
  /-- start position of the pass, and of the pace-locked run it belongs to (R177) -/
  p0 : Word := 0
  /-- p_0 is R174's prediction, which each edge up to the hand-over of the first sample makes anew -/
  predicted : Bool := false
  runPa : Word := 0
  runS : Nat := 0
  runSpc : Nat := 0
  /-- slices committed and not yet past, oldest first (R179) -/
  slices : List Slice := []
  /-- integer position of the knot that ends the next slice (R178) -/
  knot : BitVec 40 := 0
  frozen : Bool := false
  /-- CLAMP and LAG of the last sample handed over before the present pass (R179) -/
  prevClamp : Bool := false
  prevLag : Nat := 0
  /-- CLAMP and LAG as they stood at the entry to DRAIN, until REST (R197) -/
  drainClamp : Bool := false
  drainLag : Nat := 0
  /-- instant at which the dry run in progress began (R192) -/
  dryAt : Option Tbu := none
  /-- the dry run began at a loss of REF (R484, DRY_LONG) -/
  dryRef : Bool := false
  wav : WavDrive := .zero
  /-- instant at which WAV and the markers went to rest when the channel last left RUN; none in RUN (R477) -/
  ranTo : Option Q16 := some 0
  /-- how WAV and the markers are interrupted since a bobbin device was lost, and since the active sample synthesizer failed (R477) -/
  gapBob : OutGap := {}
  gapClk : OutGap := {}
  markers : Vector MkOut 4 := Vector.replicate 4 .low
  /-- what MK_MODE gives the markers in the present pass (R145), to which they return after a freeze or a gap -/
  passMk : Vector MkOut 4 := Vector.replicate 4 .low
  deriving DecidableEq, Repr

/-- DST_STAT.STATE (R237). -/
inductive DstState where
  | idle | waiting | running | paused | halted | refused
  deriving DecidableEq, Repr, Inhabited

/-- The Distaff settings latched at ARM (R204). -/
structure DstSet where
  cfg : Word := 0x0000000000000101
  genInit : Word := 0
  xlim : Word := 0x000FFFFF00000000
  ylim : Word := 0x000FFFFF00000000
  blim : Word := 0x0000003F00000000
  stride : Word := 0
  vecBase : Word := 0
  vecLen : Word := 0
  cntPre : Vector Word 4 := Vector.replicate 4 0
  bgLo : Vector Word 4 := Vector.replicate 4 0
  bgHi : Vector Word 4 := Vector.replicate 4 0
  laneDelay : Vector Word 24 := Vector.replicate 24 0
  deriving DecidableEq, Repr

/-- A condition latch that is set (R219): the fabric cycles of the arrival that set it and of the last one, and whether that one
set COALESCED. -/
structure CondLatch where
  since : Nat
  last : Nat
  fresh : Bool := false
  deriving DecidableEq, Repr, Inhabited

/-- What an instruction of the Distaff reads and changes (R208 to R229). -/
structure DstCore where
  pc : BitVec 12 := 0
  x : BitVec 20 := 0
  y : BitVec 20 := 0
  b : BitVec 6 := 0
  sx : BitVec 20 := 0
  sy : BitVec 20 := 0
  sb : BitVec 6 := 0
  dreg : BitVec 72 := 0
  cnt : Vector (BitVec 33) 4 := Vector.replicate 4 0
  stack : List (BitVec 12) := []
  /-- condition latches J0 to J3 -/
  cond : Vector (Option CondLatch) 4 := Vector.replicate 4 none
  vecPos : BitVec 32 := 0
  /-- the stream has ended with LOOP = 0 and no VRST has come (R223) -/
  vecEnded : Bool := false
  deriving DecidableEq, Repr

/-- The sources of a frame (R206, R210). -/
structure Frame where
  x : BitVec 20 := 0
  y : BitVec 20 := 0
  b : BitVec 6 := 0
  d : BitVec 72 := 0
  ctrl : Byte := 0
  deriving DecidableEq, Repr, Inhabited

/-- A frame issued: its index, which places its beats on the lane clock (R202), the state before it, and whether it is frame 0 of
its run (R227, R229). -/
structure Issued where
  index : Nat
  core : DstCore
  fresh : Bool
  /-- its sources, its beats on the memory-sourced lanes (bit j of an entry is beat j, in ascending lane order), and from which
  beat on those lanes are differential low (R206, R222, R223, R225) -/
  frame : Frame := {}
  vec : List Nat := []
  memBeats : Nat := 0
  /-- what it publishes at its first beat (R234) -/
  evs : List Nat := []
  /-- the Distaff halts after it, with this HALT_CODE (R217, R220) -/
  halt : Option Byte := none
  /-- its first beat has come -/
  begun : Bool := false
  /-- DST_LANE_CFG as it stood at the frame's first beat, once that has come (R235) -/
  cfg : Option (Vector Word 24) := none
  /-- some of its beats fell while the lane synthesizer gated its output (R232) -/
  lost : Bool := false
  /-- it underran in the gap of a lost bobbin device (R480) -/
  short : Bool := false
  deriving DecidableEq, Repr

/-- Runs of consecutive frames that a fault keeps from the lanes: nothing counts before `clip`; `run` is the index after the last such
frame and the instant from which the run that it ends counts, `longest` the longest run so far, in tbu with 16 fractional bits
(R477). -/
structure FrameGap where
  clip : Q16 := 0
  run : Option (Nat × Q16) := none
  longest : Q16 := 0
  deriving DecidableEq, Repr, Inhabited

/-- The DST block (R200 to R237). -/
structure Dst where
  set : DstSet := {}
  latched : DstSet := {}
  mcIdx : Word := 0
  scrIdx : Word := 0
  laneCfg : Vector Word 24 := Vector.replicate 24 0x4
  laneTrack : Vector Int 24 := Vector.replicate 24 0
  trackStop : BitVec 24 := 0
  /-- instant of the last step of each lane's DST_LANE_TRACK (R236) -/
  trackAt : Vector (Option Tbu) 24 := Vector.replicate 24 none
  events : Sticky := {}
  state : DstState := .idle
  haltCode : Byte := 0
  check : Byte := 0
  /-- instruction of the last frame issued -/
  pcIssued : BitVec 12 := 0
  core : DstCore := {}
  runPos : Word := 0
  /-- index of the next frame, counted from DST_RUN_POS -/
  frame : Nat := 0
  /-- the next frame is frame 0 of its run -/
  fresh : Bool := false
  frames : Word := 0
  under : BitVec 32 := 0
  lostGap : BitVec 32 := 0
  /-- the frames driven last, newest first, which a lane's delays may still bring to its connector, and the frames issued whose
  last beat has not come, oldest first -/
  driven : List Issued := []
  issued : List Issued := []
  /-- boundary at which the channel holds and the Distaff pauses, until it has come (R229) -/
  pauseAt : Option Q16 := none
  /-- predicted instants of the frames from `frame` on whose positions are committed, oldest first (R227) -/
  plan : List Q16 := []
  /-- fabric cycle of the last stop, which wins over a start in that cycle (R228) -/
  stopCycle : Option Nat := none
  /-- fabric cycle of the last start of R226, and `pcIssued` before it (R228) -/
  startCycle : Option Nat := none
  pcBefore : BitVec 12 := 0
  /-- the frames lost since the active lane synthesizer failed last, and those that underran in the gap of a lost bobbin device
  (R232, R477, R480) -/
  laneCut : FrameGap := {}
  shortCut : FrameGap := {}
  /-- instant from which the lanes are differential low whatever was issued (R116, R119, R127, R235) -/
  lowFrom : Option Q16 := some 0
  snap : Vector Word 8 := Vector.replicate 8 0
  deriving DecidableEq, Repr

/-- The staged codes and limits as a write left them, with the cycle from which they stand (R250). -/
structure Staged where
  cycle : Nat
  stage : Word
  lim : Vector Word 4
  deriving DecidableEq, Repr

/-- A ramp of the level outputs to the codes of ANA_LVL_NOW: the instant at which it begins, and the codes it begins from (R259). -/
structure Ramp where
  since : Tbu
  start : Word
  deriving DecidableEq, Repr, Inhabited

/-- The ANA block (R238 to R267). -/
structure Ana where
  wavCfg : Word := 0
  outCfg : Word := 0x1F
  stbCfg : Word := 0
  stbPos : Word := 0
  stage : Word := 0x38E438E438E438E4
  lim : Vector Word 4 := Vector.replicate 4 0
  monCfg : Word := 0x00C801400004001F
  events : Sticky := {}
  sw : BitVec 5 := 0
  /-- WAV termination connected -/
  term : Bool := true
  enPend : Bool := false
  zclamp : Bool := true
  sched : Bool := false
  rangeNow : BitVec 2 := 0
  /-- the codes in the DACs, or those that the ramp in progress goes to -/
  now : Word := 0x38E438E438E438E4
  ramp : Option Ramp := none
  applied : BitVec 32 := 0
  ignored : BitVec 32 := 0
  monAlarm : Sticky := {}
  monVal : Vector (BitVec 17) 5 := Vector.replicate 5 0
  monCnt : Vector Nat 5 := Vector.replicate 5 0
  /-- inputs whose present run of deviations has raised its alarm (R262) -/
  alarmed : BitVec 5 := 0
  /-- MASK latched at ENABLE (R256) -/
  mask : BitVec 5 := 0
  /-- switches told to close and not yet closed -/
  closing : BitVec 5 := 0
  closedAt : Vector Tbu 5 := Vector.replicate 5 0
  /-- instant at which a transfer or ramp of the levels, and a range change of WAV, last ended (R262) -/
  settled : Tbu := 0
  settledWav : Tbu := 0
  /-- start of the range-change sequence, and the range it goes to (R241, R243) -/
  rangeAt : Option Tbu := none
  rangeTo : BitVec 2 := 0
  /-- the last change of RANGE was written in TRIM, DRAIN or HOLDUP, and waits for REST (R242) -/
  rangeHeld : Bool := false
  /-- the staged codes and limits of the last fabric cycles, newest first (R250) -/
  hist : List Staged := []
  /-- fabric cycle at whose end the transfer of a registered strobe falls -/
  strobeAt : Option Nat := none
  /-- fabric cycle of a deferred transfer (R255) -/
  deferAt : Option Nat := none
  lastTransfer : Option Nat := none
  disableAt : Option Tbu := none
  /-- input of the last conversion, and its instant (R260) -/
  monLast : Option (Fin 5) := none
  monAt : Option Tbu := none
  /-- consecutive failed monitor checks (R482) -/
  monBad : Nat := 0
  monFaulty : Bool := false
  deriving DecidableEq, Repr

/-- SYN_STAT.STATE (R273). -/
inductive SynState where
  | off | search | tune | idleLocked | active | stopping | failed
  deriving DecidableEq, Repr, Inhabited

/-- Why a synthesizer tunes (R279 to R289, R517). -/
inductive TuneFor where
  | none | prepare | start | cover | verify | failover | takeover | retry | retune
  deriving DecidableEq, Repr, Inhabited

/-- A stored band (R274). -/
structure TblEntry where
  key : BitVec 48
  band : Byte
  valid : Bool
  /-- instant of the last use and of the last qualification -/
  used : Tbu
  qual : Tbu
  deriving DecidableEq, Repr, Inhabited

/-- One synthesizer (R273 to R277). -/
structure Synth where
  state : SynState := .off
  setting : Word := 0
  band : Byte := 0
  hit : Bool := false
  gate : Bool := false
  lock : Bool := false
  meas : Nat := 0
  /-- the last complete measurement window passed R276 -/
  measOk : Bool := false
  fresh : BitVec 32 := 0
  fast : BitVec 32 := 0
  tune : TuneFor := .none
  ceilHolds : Nat := 0
  /-- the tune is stopped by the loss of its reference (R287) -/
  paused : Bool := false
  /-- frequency at which a lane synthesizer locked, kHz (R289) -/
  lockKHz : Nat := 0
  table : List TblEntry := []
  /-- a start waits for the power-down to end (R130) -/
  waiting : Option TuneFor := none
  /-- start of the present tune, or of its lock: lock has to be continuous for 2 µs (R276) -/
  tuneAt : Tbu := 0
  /-- key of the stored band that the present tune loaded, or the last one qualified with (R274, R275) -/
  loaded : Option (BitVec 48) := none
  /-- the clock edges of a lane synthesizer are aligned to PACE (R271) -/
  aligned : Bool := false
  /-- PACE has stepped by 1 % or less, and no measurement window has passed since (R284, R289) -/
  follow : Bool := false
  /-- instant from which the millisecond of R286 counts, until the one retry -/
  retryFrom : Option Tbu := none
  deriving DecidableEq, Repr, Inhabited

/-- A command accepted while its pair powers down, with the setting read at its write (R279, R280, R130). -/
structure SynCmd where
  cmd : Nat
  atPos : Bool
  setting : Word
  deriving DecidableEq, Repr, Inhabited

/-- One pair (R278 to R286). -/
structure Pair where
  /-- second synthesizer of the pair selected -/
  second : Bool := false
  covered : Bool := false
  /-- a SWITCH is pending; `some true` waits for its position -/
  pend : Option Bool := none
  /-- a switch asked for by a command or an ARM (sets SWITCHED) -/
  byCmd : Bool := false
  /-- the position of the pending switch was reached while REF was lost (R291) -/
  inLoss : Bool := false
  /-- HOP: switch as soon as the idle synthesizer is IDLE_LOCKED -/
  hopping : Bool := false
  prepared : Bool := false
  failover : Bool := false
  takeover : Bool := false
  /-- detection of the failure -/
  failAt : Tbu := 0
  /-- the failure arose in RUN, and in a channel already degraded (R477, R486) -/
  failRun : Bool := false
  failSecond : Bool := false
  next : Word := 0
  cmd : BitVec 4 := 0
  result : Byte := 0
  /-- commands that wait for the end of a power-down, oldest first (R280) -/
  queued : List SynCmd := []
  spare : Word := 0
  deriving DecidableEq, Repr, Inhabited

/-- The SYN block (R268 to R293). -/
structure Syn where
  /-- the accepted ARM brings up the lane pair, and FETCH waits for it (R288) -/
  laneNeeded : Bool := false
  sNext : Word := 10
  sSwpos : Word := 0
  lNext : Word := 1
  tblIdx : Word := 0
  events : Sticky := {}
  synths : Vector Synth 4 := #v[{ setting := 0xA }, { setting := 0xA }, { setting := 1 }, { setting := 1 }]
  s : Pair := {}
  l : Pair := {}
  deriving DecidableEq, Repr

/-- What the LUT cells had to do with the last carry, for a CLEAR or an accepted ARM later in its cycle (R305): what the junctions
carry without the cells, the bits of SEEN, BLOCK and GOVD and the FIRE_MERGED that came from cells alone, and the cycles in which
the junctions had carried before. -/
structure CellShare where
  carried : Word := 0
  seen : Word := 0
  block : Word := 0
  govd : Word := 0
  merged : Bool := false
  last : Vector (Option Nat) 64 := Vector.replicate 64 none
  deriving DecidableEq, Repr, Inhabited

/-- The JNC block and the event fabric (R294 to R318). -/
structure Jnc where
  grpEn : Byte := 0xFF
  events : Sticky := {}
  seen : Sticky := {}
  block : Sticky := {}
  govd : Sticky := {}
  lost : BitVec 32 := 0
  pend : Vector Nat 8 := Vector.replicate 8 0
  lutFilt : Word := 0
  lutOut : BitVec 16 := 0
  wireIdx : Word := 0
  atArmed : BitVec 4 := 0
  atPos : Vector Word 4 := Vector.replicate 4 0
  cnt : Vector (BitVec 32) 4 := Vector.replicate 4 0
  cntCmp : Vector Word 4 := Vector.replicate 4 0
  gov : Vector (BitVec 16) 64 := Vector.replicate 64 0
  /-- source events offered: fabric cycle of publication and junctions -/
  offers : List (Nat × Word) := []
  /-- software fires offered: fabric cycle of the write and junctions -/
  fires : List (Nat × Word) := []
  /-- what the junctions carried last, and in which fabric cycle; and the same of the carry before it -/
  carried : Word := 0
  carriedAt : Option Nat := none
  carriedPrev : Word := 0
  carriedPrevAt : Option Nat := none
  /-- consumer inputs that have registered in fabric cycle `takenAt` what the cycle before it carried -/
  taken : BitVec 64 := 0
  takenAt : Option Nat := none
  lastCarry : Vector (Option Nat) 64 := Vector.replicate 64 none
  ff : BitVec 16 := 0
  filt : Vector Nat 16 := Vector.replicate 16 0
  /-- fabric cycle of the last CLEAR or accepted ARM (R305) -/
  clearAt : Option Nat := none
  cells : CellShare := {}
  /-- fabric cycle in which group enables last changed, and what events did to them in it (R308) -/
  genCycle : Option Nat := none
  /-- JNC_GRP_EN as it stood before that cycle -/
  genOld : Byte := 0xFF
  genSet : Byte := 0
  genClr : Byte := 0
  /-- fabric cycle in which governor gaps or filter lengths were last written, and the values until its end (R303, R309) -/
  cfgCycle : Option Nat := none
  govOld : Vector (BitVec 16) 64 := Vector.replicate 64 0
  filtOld : Word := 0
  /-- fabric cycle in which each counter last took an event, and each input was last served -/
  lastInc : Vector (Option Nat) 4 := Vector.replicate 4 none
  /-- fabric cycle of the last increment of any counter, JNC_EVENTS.HIT before it, and the counters that hit in it (R311) -/
  hitCycle : Option Nat := none
  hitOld : Bool := false
  incHit : BitVec 4 := 0
  lastTake : Vector (Option Nat) 8 := Vector.replicate 8 none
  deriving DecidableEq, Repr

/-- A stamp of an accepted edge (R321, R323). -/
structure Stamp where
  /-- the stamped instant, on the axis of `State.now` -/
  t : Int
  /-- T: the stamped instant as a count of TRK_TBASE -/
  tb : Word := 0
  rise : Bool := false
  tbinv : Bool := false
  /-- TDC_COUNT after this edge -/
  count : Word := 0
  /-- the place of an edge lost to the dead time: no stamp exists (R320) -/
  lost : Bool := false
  /-- admitted when stamped (R325, WIN_EN = 0) -/
  admitted : Bool := false
  pos : Word := 0
  nopos : Bool := false
  unaligned : Bool := false
  /-- TDC.EVIk publishes no earlier than this instant -/
  pubAt : Int := 0
  deriving DecidableEq, Repr, Inhabited

/-- A FIFO record: three words (R338). -/
structure TdcRec where
  w0 : Word
  w1 : Word
  w2 : Word
  deriving DecidableEq, Repr, Inhabited

/-- TDC_STAT.STATE (R345). -/
inductive TdcState where
  | off | idle | waiting | measuring | suspended
  deriving DecidableEq, Repr, Inhabited

/-- One timing input (R319 to R326). -/
structure TdcIn where
  cfg : Word := 0x10
  delay : Word := 0
  winOpen : Word := 0
  winClose : Word := 0
  /-- window in force (R324) -/
  fOpen : Word := 0
  fClose : Word := 0
  count : Word := 0
  /-- instant of the previous accepted edge -/
  last : Option Int := none
  /-- stamps whose conversion is not complete, in the order of T -/
  conv : List Stamp := []
  /-- admitted edges not yet published, in the order of T -/
  publish : List Stamp := []
  lastPub : Option Nat := none
  dead : BitVec 16 := 0
  heldoff : BitVec 16 := 0
  nopos : BitVec 16 := 0
  deriving DecidableEq, Repr, Inhabited

/-- One measurement unit (R327 to R339). -/
structure TdcUnit where
  cfg : Word := 0x0000000000000108
  timeout : Word := 1000000
  gate : Word := 0x00100000000F4240
  state : TdcState := .off
  /-- fabric cycle of the last write of TDC_UNIT_CFG, and the value in force until its end (R342) -/
  cfgCycle : Option Nat := none
  cfgOld : Word := 0x0000000000000108
  /-- fabric cycle of the last ABORT, which clears every arm of its cycle (R343) -/
  abortCycle : Option Nat := none
  /-- arm instant A (R329) -/
  armAt : Int := 0
  start : Option Stamp := none
  /-- last admitted stops, newest first, with whether a record has used them (R331) -/
  stops : List (Stamp × Bool) := []
  burst : Nat := 0
  /-- stamps in the gate, newest first (R334) -/
  stamps : List Stamp := []
  /-- an edge of the input was lost within the gate -/
  loss : Bool := false
  /-- the gate has ended and its result is due; `some cut` -/
  gateEnd : Option Bool := none
  results : BitVec 32 := 0
  fifo : List TdcRec := []
  gap : Bool := false
  full : BitVec 16 := 0
  per : Word := 0
  freq : Word := 0
  q : Word := 0
  fpos : Word := 0
  snap : Vector Word 3 := Vector.replicate 3 0
  deriving DecidableEq, Repr

/-- The TDC block (R319 to R345). -/
structure Tdc where
  events : Sticky := {}
  ins : Vector TdcIn 4 := Vector.replicate 4 {}
  units : Vector TdcUnit 4 := Vector.replicate 4 {}
  dumpBase : Word := 0
  dumpCfg : Word := 0x0000000000000C00
  dumpWr : BitVec 32 := 0
  dumpRd : BitVec 32 := 0
  /-- ring base and size in force (R340) -/
  ringBase : Nat := 0
  ringSize : Nat := 12
  deriving DecidableEq, Repr

/-- What a request of the creel controller is for: a write, the refill of a head, of a read-ahead line, of a fill's head or of a
pinned line, that of a line read with a parity error, a creel-direct read, or the read of a COPY or of training (R348, R353, R355,
R368, R384, R386, R411, R479). -/
inductive ReqUse where
  | write | head | ahead | fill | pin | again | direct | copy | train
  deriving DecidableEq, Repr, Inhabited

/-- A request of the creel controller (R368 to R370). -/
structure CreelReq where
  port : Fin 4
  write : Bool
  /-- byte address of the burst -/
  addr : Nat
  arrived : Tbu
  use : ReqUse := .write
  /-- device that took no part when the read was issued (R363) -/
  miss : Option (Fin 5) := none
  deriving DecidableEq, Repr, Inhabited

/-- Why a device is excused: a same-bank refresh, a neighbour refresh, a retraining pause, or a verification that failed
(R362, R373, R378, R381). -/
inductive ExcuseWhy where
  | refresh | neighbour | pause | verify
  deriving DecidableEq, Repr, Inhabited

/-- A device excused (R362): `bank` is none for every bank. -/
structure Excusal where
  dev : Fin 5
  bank : Option (Fin 32)
  since : Tbu
  why : ExcuseWhy := .refresh
  deriving DecidableEq, Repr, Inhabited

/-- A cache line that is present (R352 to R356). -/
structure CacheLine where
  slot : Nat
  /-- creel line address (byte address / 4,096) -/
  line : Nat
  held : Bool
  used : Nat
  deriving DecidableEq, Repr, Inhabited

/-- An entry of an activate table (R372). -/
structure ActEntry where
  bank : Nat
  row : Nat
  count : Nat
  deriving DecidableEq, Repr, Inhabited

/-- The activate table of a bank group (R372). -/
structure ActTable where
  entries : List ActEntry := []
  floor : Nat := 0
  deriving DecidableEq, Repr, Inhabited

/-- One creel device (R389, MEM_DEV). -/
structure CreelDev where
  why : Byte := 0
  set : DelaySet := {}
  /-- bursts posted while excused, oldest first (R364) -/
  posted : List Nat := []
  /-- the scratch burst of the device holds what write probes left in it (R378) -/
  scratch : Bool := false
  /-- open row of each of the 32 banks -/
  rows : Vector (Option Nat) 32 := Vector.replicate 32 none
  deriving DecidableEq, Repr, Inhabited

/-- Where a grade change stands (R381). -/
inductive SpeedPhase where
  | wait | prepare | blackout
  deriving DecidableEq, Repr, Inhabited

/-- A grade change (R380, R381). -/
structure GradeChange where
  grade : BitVec 2
  toll : Bool
  phase : SpeedPhase := .wait
  deriving DecidableEq, Repr, Inhabited

/-- A visit or a rescue in progress (R378, R379). -/
structure Visit where
  dev : Fin 5
  /-- pauses that have fallen due -/
  pauses : Nat
  rescue : Bool
  /-- instant at which the last of them fell due (R378, R379) -/
  pauseAt : Option Tbu := none
  deriving DecidableEq, Repr, Inhabited

/-- Where a window access comes from: a command of its own row, a request with the tag of its completion, or a broadcast
write (R349, R400, R403). -/
inductive AccSource where
  | row | request (tag : Option (BitVec 12)) | bcast
  deriving DecidableEq, Repr, Inhabited

/-- A window access held back by flow control (R349, R480). -/
structure HeldAcc where
  src : AccSource
  write : Bool
  off : Nat
  len : Nat
  data : List Word
  deriving DecidableEq, Repr, Inhabited

/-- MEM_STAT.TRAIN without the window states (R389): 0 none, 1 initial, 2 ready, 5 failed. -/
inductive TrainState where
  | none | initial | ready | failed
  deriving DecidableEq, Repr, Inhabited

/-- MEM_STAT.CREEL (R389). -/
inductive CreelState where
  | normal | reduced | lost
  deriving DecidableEq, Repr, Inhabited

/-- The MEM block, the bobbin store and the creel controller (R346 to R389). -/
structure Mem where
  retired : BitVec 5 := 0
  train : TrainState := .none
  trained : BitVec 3 := 0
  grade : BitVec 2 := 0
  creel : CreelState := .normal
  degraded : Bool := false
  cacheFull : Bool := false
  pinLoad : Bool := false
  holding : Bool := false
  invalid : Bool := true
  events : Sticky := {}
  cfg : Word := 0x0000000000640C00
  speedResult : Byte := 0
  speedSrc : Bool := false
  bobCfg : Word := 0
  bobBack : Word := 0
  posted : BitVec 32 := 0
  recon : BitVec 32 := 0
  throttle : BitVec 32 := 0
  nref : BitVec 32 := 0
  svcSrc : Word := 0
  svcDst : Word := 0
  svcLen : Word := 0
  svcPat : Word := 0
  svcDone : BitVec 16 := 0
  svcLast : Byte := 0
  svcResult : Byte := 0
  trnLast : Word := 0
  qos : Vector Word 4 := #v[500, 4000, 20000, 50000]
  overdue : Vector (BitVec 32) 4 := Vector.replicate 4 0
  maxLat : Vector (BitVec 32) 4 := Vector.replicate 4 0
  devs : Vector CreelDev 5 := Vector.replicate 5 {}
  /-- the creel's bytes, in canonical form (log entry 5) -/
  data : List Host.Cell := []
  cache : List CacheLine := []
  /-- count of uses, which orders them -/
  useCtr : Nat := 0
  /-- heads still to be held: the lines of each, in the order of R353 -/
  heads : List (List Nat) := []
  /-- lines whose refill reads are with the controller, at most one for each use -/
  loading : List (ReqUse × Nat) := []
  /-- pinned lines already reloaded (R348) -/
  pinNext : Nat := 0
  /-- bursts of the pass playing whose creel-direct reads have been asked for (R384) -/
  directTo : Nat := 0
  /-- blocks of the pass playing whose lines have been counted as used (R356) -/
  usedTo : Nat := 0
  /-- bytes of the COPY or FILL in progress that are done, and the burst that a COPY has read (R386) -/
  svcAt : Nat := 0
  svcBuf : List Byte := []
  /-- address of the burst that training has written last (R368) -/
  trainAt : Nat := 0
  /-- instants of each bobbin device's address-parity errors of the last microsecond, and slots whose line is to be fetched again
  (R479) -/
  parityAt : Vector (List Tbu) 2 := Vector.replicate 2 []
  again : List Nat := []
  /-- window accesses held back, oldest first -/
  winHeld : List HeldAcc := []
  excused : List Excusal := []
  /-- excusals due that R362 does not allow yet, oldest first -/
  waiting : List Excusal := []
  reqs : List CreelReq := []
  inflight : List CreelReq := []
  /-- the bus is turned to writes, with how many it must still issue (R370) -/
  writeTurn : Nat := 0
  served : Vector Nat 4 := Vector.replicate 4 0
  servedAt : Tbu := 0
  acts : Vector ActTable 8 := Vector.replicate 8 {}
  /-- neighbour refreshes queued for each bank group: bank, and rows to be refreshed (R372, R373) -/
  nrefQ : Vector (List (Nat × List Nat)) 8 := Vector.replicate 8 []
  /-- device that the neighbour refresh in front of each queue has come to -/
  nrefDev : Vector Nat 8 := Vector.replicate 8 0
  /-- trained delay sets of the three grades, one per device (R376) -/
  sets : Vector (Vector DelaySet 5) 3 := Vector.replicate 3 (Vector.replicate 5 {})
  change : Option GradeChange := none
  nextChange : Option GradeChange := none
  /-- end of the previous blackout -/
  blackoutEnd : Option Tbu := none
  visit : Option Visit := none
  /-- device the next visit goes to -/
  nextDev : Fin 5 := 0
  /-- instant from which RETRAIN_MS counts to the next visit (R378) -/
  visitAt : Tbu := 0
  /-- instant before which no visit that follows a blackout opens (R382) -/
  postAt : Option Tbu := none
  /-- visits still due after a blackout (R382) -/
  postVisits : List (Fin 5) := []
  /-- devices whose rescue is still to come after a failed verification (R381) -/
  rescues : List (Fin 5) := []
  /-- masking of a lost bobbin device in progress: instant of detection (R480) -/
  bobLostAt : Option Tbu := none
  /-- the loss arose in a channel already degraded (R486) -/
  bobSecond : Bool := false
  /-- the channel was in RUN when the device was lost -/
  bobInRun : Bool := false
  bobDevice : Fin 2 := 0
  deriving DecidableEq, Repr

/-- STQ_QSTAT.STATE (R424). -/
inductive QState where
  | closed | open | ending | faulted | done
  deriving DecidableEq, Repr, Inhabited

/-- A queue (R404 to R418). -/
structure Queue where
  state : QState := .closed
  bulk : Bool := false
  word : Word := 0
  pos : Nat := 0
  limit : Nat := 0
  last : Byte := 0
  /-- binding taken at OPEN: creel base, length in 64-sample units, bytes in a block (R407) -/
  base : Nat := 0
  len64 : Nat := 0
  fmt : BitVec 2 := 0
  /-- fills complete, ready, played and released since OPEN -/
  complete : Nat := 0
  ready : Nat := 0
  played : Nat := 0
  released : Nat := 0
  /-- fills that became ready in one fabric cycle: the cycle, and how many (R420) -/
  readyIn : Nat := 0
  readyNew : Nat := 0
  /-- fill of the last pass that played one in this run -/
  playing : Option Nat := none
  deriving DecidableEq, Repr, Inhabited

/-- A 64-byte unit of queue data in a channel's staging buffer: its queue, its unit in the queue's stream, and where it goes
(R409). -/
structure StagedUnit where
  queue : Nat
  unit : Nat
  addr : Nat
  data : List Byte
  deriving DecidableEq, Repr, Inhabited

/-- The STQ block (R424). -/
structure Stq where
  resultQ : BitVec 12 := 0
  resultCmd : BitVec 4 := 0
  result : Byte := 0
  events : Sticky := {}
  subst : BitVec 32 := 0
  episodes : BitVec 32 := 0
  lastUnder : Word := 0
  peekIdx : Word := 0
  queues : Sparse Queue := []
  /-- the staging buffer, oldest first (R409) -/
  staged : List StagedUnit := []
  /-- queue that was served last by the channel bound (R410) -/
  robin : Nat := 0
  deriving DecidableEq, Repr, Inhabited

/-- A calibration run in progress (R461, R462). -/
structure CalRunState where
  procs : BitVec 3
  /-- procedures still to run, in the numbering of R476 -/
  left : List (Fin 4)
  /-- bank that the run fills -/
  bank : Fin 2 := 0
  /-- REASON with which a procedure in progress must end, 0 for none (R463, R475) -/
  spoilt : Vector Byte 4 := Vector.replicate 4 0
  accepted : Bool := false
  /-- odometer and position at the last acceptance -/
  odo : Word := 0
  pos : Word := 0
  deriving DecidableEq, Repr, Inhabited

/-- The CAL block (R455 to R476). -/
structure Cal where
  resultCmd : BitVec 4 := 0
  result : Byte := 0
  state : BitVec 4 := 0
  active : BitVec 2 := 0
  events : Sticky := {}
  runResult : Vector Word 4 := Vector.replicate 4 0
  accepted : BitVec 32 := 0
  rejected : BitVec 32 := 0
  loopCfg : Word := 3
  dacTrack : Vector Int 64 := Vector.replicate 64 0
  dacStop : BitVec 64 := 0
  /-- the unary cell that the trim loop visits next, and the instant of its last visit (R471) -/
  trimCell : Fin 64 := 1
  trimAt : Option Tbu := none
  /-- banks A and B: key is the 64-bit word number, 0 to 1,023 -/
  banks : Vector (Sparse Word) 2 := Vector.replicate 2 []
  run : Option CalRunState := none
  lastPosSnap : Word := 0
  deriving DecidableEq, Repr

/-- A service of the Doffer (R113, R386, R449, R461). -/
inductive Service where
  | copy (src dst len : Nat)
  | fill (dst len : Nat) (pat : Word)
  | train (initial : Bool)
  | calRun (procs : BitVec 3)
  | restore (slot : Fin 2) (parts : BitVec 4)
  deriving DecidableEq, Repr, Inhabited

/-- The Doffer of a channel (R113, R481). -/
structure Doffer where
  queue : List Service := []
  running : Option Service := none
  restarting : Bool := false
  stalls : Nat := 0
  /-- initial training is due: it has not begun since reset (R109, R376) -/
  due : Bool := true
  /-- initial training is requested or under way (R109) -/
  initial : Bool := false
  vltDone : BitVec 4 := 0
  vltReason : Byte := 0
  vltSkipped : BitVec 13 := 0
  deriving DecidableEq, Repr, Inhabited

/-- The channel's part of the FLT block (R493). -/
structure ChFlt where
  /-- FLT_CH_STAT bits [5:0] and [12:8] -/
  bob : Bool := false
  creel : Bool := false
  synS : Bool := false
  synL : Bool := false
  mon : Bool := false
  doffer : Bool := false
  pairS : Bool := false
  pairL : Bool := false
  creelLost : Bool := false
  dofferLost : Bool := false
  dryLong : Bool := false
  halt : Bool := false
  last : Byte := 0
  /-- fabric cycle of that fault (R489) -/
  lastAt : Option Nat := none
  faults : BitVec 16 := 0
  deriving DecidableEq, Repr, Inhabited

/-- One channel. -/
structure Chan where
  mod : ChMod := {}
  tlh : ChTlh := {}
  trk : Tracker := {}
  skn : ChSkn := {}
  seq : Seq := {}
  ply : Ply := {}
  dst : Dst := {}
  ana : Ana := {}
  syn : Syn := {}
  jnc : Jnc := {}
  tdc : Tdc := {}
  mem : Mem := {}
  stq : Stq := {}
  cal : Cal := {}
  dof : Doffer := {}
  flt : ChFlt := {}
  deriving DecidableEq, Repr

/-- The state of the module. -/
structure State where
  /-- commands waiting, first in, first out -/
  pending : List Instr := []
  /-- instant of the last command, tbu (log entry 1) -/
  now : Tbu := 0
  /-- free values drawn so far: the MODEL's own field (log entry 2) -/
  freeCtr : Nat := 0
  /-- how often each register of W1C bits had been set when the present fabric cycle began (R10) -/
  evMark : List Nat := []
  mod : ModBlk := {}
  tlh : Tlh := {}
  trk : TrkMod := {}
  vlt : Vlt := {}
  hp : Hp := {}
  skn : Skn := {}
  flt : Flt := {}
  side : SidePort := {}
  chans : Vector Chan 16 := Vector.replicate 16 {}
  deriving DecidableEq, Repr

/-- Reasons to stop with a fault. It has no constructor: the manual gives every command of the table an effect,
so nothing in this model stops with a fault. -/
inductive Fault where
  deriving DecidableEq, Repr

/-- Reasons to refuse a command. -/
inductive Refusal where
  /-- raised by an arm of `exec` whose command has no meaning yet; safe, since the model then says nothing -/
  | notModelled (mnemonic : String)
  deriving DecidableEq, Repr

/-- The module right after power-on reset (R16, R109 step 1): mode DARK, every register at its reset value, the
queue empty. -/
def State.reset : State := {}

end Sys2Proof.Machine
end

