-- ==== Sys2Proof/Machine/Bits.lean ====
section
/-! DEFINITION. Bit fields of register words (R17, R18), little-endian byte strings (R7), comparisons of track
positions (R42), and the operations on sparse stores. -/

namespace Sys2Proof.Machine

/-- Field of `len` bits from bit `lo` of a word, unsigned (R18). -/
def fld {n : Nat} (w : BitVec n) (lo len : Nat) : Nat := w.toNat / 2 ^ lo % 2 ^ len

/-- A number of `len` bits read as two's complement (R18). -/
def signed (v len : Nat) : Int := if v < 2 ^ (len - 1) then (v : Int) else (v : Int) - (2 ^ len : Nat)

/-- Field of `len` bits from bit `lo`, signed (R18). -/
def sfld {n : Nat} (w : BitVec n) (lo len : Nat) : Int := signed (fld w lo len) len

/-- Bit `k` of a word. -/
def bit {n : Nat} (w : BitVec n) (k : Nat) : Bool := w.getLsbD k

/-- A word whose only set bit is `k`. -/
def mask1 (n k : Nat) : BitVec n := BitVec.ofNat n (2 ^ k)

/-- Set bit `k`. -/
def setBit {n : Nat} (w : BitVec n) (k : Nat) : BitVec n := w ||| mask1 n k

/-- Clear bit `k`. -/
def clrBit {n : Nat} (w : BitVec n) (k : Nat) : BitVec n := w &&& ~~~(mask1 n k)

/-- Give bit `k` the value `b`. -/
def putBit {n : Nat} (w : BitVec n) (k : Nat) (b : Bool) : BitVec n := if b then setBit w k else clrBit w k

/-- Set bit `k` when `b` holds: a sticky event bit (R9, R10). -/
def flagIf {n : Nat} (b : Bool) (w : BitVec n) (k : Nat) : BitVec n := if b then setBit w k else w

/-- The hardware sets bits of a register of W1C bits (R9). -/
def evMask (e : Sticky) (m : Word) : Sticky :=
  if m = 0 then e
  else { bits := e.bits ||| m, sets := e.sets + 1
         last := (e.sets + 1, m) :: (e.last.map fun x => (x.1, x.2 &&& ~~~m)).filter fun x => x.2 != 0 }

/-- The hardware sets bit `k`. -/
def evSet (e : Sticky) (k : Nat) : Sticky := evMask e (mask1 64 k)

/-- The hardware sets bit `k` when `b` holds. -/
def evIf (b : Bool) (e : Sticky) (k : Nat) : Sticky := if b then evSet e k else e

/-- The bits set since the settings numbered up to `n`. -/
def Sticky.since (e : Sticky) (n : Nat) : Word := (e.last.filter fun x => decide (n < x.1)).foldl (fun w x => w ||| x.2) 0

/-- A host write of `v`: a 1 clears its bit (R9), but for a bit set in the fabric cycle of the write, `n` being the number of
settings before that cycle (R10). -/
def Sticky.clear (e : Sticky) (n : Nat) (v : Word) : Sticky := { e with bits := e.bits &&& (~~~v ||| e.since n) }

/-- Bits that the hardware takes back in the fabric cycle in which it set them. -/
def Sticky.minus (e : Sticky) (m : Word) : Sticky := { e with bits := e.bits &&& ~~~m }

/-- A register word of a natural number. -/
def word (n : Nat) : Word := BitVec.ofNat 64 n

/-- A register word made of fields, each a value and the position of its lowest bit. -/
def pack : List (Nat × Nat) → Word
  | [] => 0
  | (v, lo) :: r => word (v * 2 ^ lo) ||| pack r

/-- An integer in two's complement at `len` bits. -/
def twos (v : Int) (len : Nat) : Nat := (v % (2 ^ len : Nat)).toNat

/-- A field value at the position of its lowest bit, with the reserved bits of a write dropped (R12). -/
def keep (w : Word) (m : Nat) : Word := w &&& word m

/-- A count that stays at its largest value. -/
def satInc {n : Nat} (c : BitVec n) (by' : Nat := 1) : BitVec n := BitVec.ofNat n (min (c.toNat + by') (2 ^ n - 1))

def ceilDiv (a b : Nat) : Nat := (a + b - 1) / b

/-- Position `b` is after position `a` (R42). -/
def isAfter (b a : Word) : Bool :=
  let d := (b - a).toNat
  decide (1 ≤ d) && decide (d < 2 ^ 63)

/-- Position `b` is `a` or after it. -/
def atOrAfter (b a : Word) : Bool := b == a || isAfter b a

/-- `b - a` as a signed count of track units. -/
def posDiff (b a : Word) : Int := (b - a).toInt

/-- The position of whole cycle `n` (R22). -/
def cyclePos (n : BitVec 40) : Word := word (n.toNat * 2 ^ 24)

/-- Integer part of a position (R22). -/
def posInt (p : Word) : BitVec 40 := BitVec.ofNat 40 (p.toNat / 2 ^ 24)

/-- The number a little-endian byte string stands for (R7). -/
def leNat : List Byte → Nat
  | [] => 0
  | b :: r => b.toNat + 256 * leNat r

/-- `n` bytes of a number, little-endian. -/
def leBytes : Nat → Nat → List Byte
  | 0, _ => []
  | n + 1, v => BitVec.ofNat 8 v :: leBytes n (v / 256)

/-- `n` bytes from offset `off`. -/
def slice (l : List Byte) (off n : Nat) : List Byte := (l.drop off).take n

/-- The little-endian number of `n` bytes at offset `off`; bytes beyond the end read as 0. -/
def num (l : List Byte) (off n : Nat) : Nat := leNat (slice l off n)

/-- Payload word `k` of a byte string: byte 8k in bits [7:0]; 0 beyond its end. -/
def payloadWord (l : List Byte) (k : Nat) : Word := word (num l (8 * k) 8)

/-- The eight bytes of a word, lowest first. -/
def wordBytes (w : Word) : List Byte := leBytes 8 w.toNat

/-- The elements of a vector changed one by one. -/
def vmap {α β : Type} {n : Nat} (f : α → β) (v : Vector α n) : Vector β n :=
  ⟨(v.toList.map f).toArray, by simp⟩

/-- Change one element. -/
def vmod {α : Type} {n : Nat} (v : Vector α n) (i : Fin n) (f : α → α) : Vector α n := v.set i.val (f v[i]) i.isLt

/-- Set one element. -/
def vput {α : Type} {n : Nat} (v : Vector α n) (i : Fin n) (x : α) : Vector α n := v.set i.val x i.isLt

/-- Element `i`, or `d` when there is none. -/
def vget {α : Type} {n : Nat} (v : Vector α n) (i : Nat) (d : α) : α := if h : i < n then v[i] else d

/-- Set element `i` when there is one. -/
def vputN {α : Type} {n : Nat} (v : Vector α n) (i : Nat) (x : α) : Vector α n := if h : i < n then v.set i x h else v

/-- The numbers 0 to n - 1. -/
def upTo : Nat → List Nat
  | 0 => []
  | n + 1 => upTo n ++ [n]

/-! ### Sparse stores -/

/-- What a sparse store holds at a key; `d` is what an unlisted key reads as. -/
def sget {α : Type} (d : α) : Sparse α → Nat → α
  | [], _ => d
  | (k, v) :: r, a => if a = k then v else if a < k then d else sget d r a

/-- A sparse store with the value of one key replaced, in canonical form. -/
def sput {α : Type} [DecidableEq α] (d : α) : Sparse α → Nat → α → Sparse α
  | [], a, v => if v = d then [] else [(a, v)]
  | (k, w) :: r, a, v =>
    if a < k then (if v = d then (k, w) :: r else (a, v) :: (k, w) :: r)
    else if a = k then (if v = d then r else (a, v) :: r)
    else (k, w) :: sput d r a v

/-- The canonical form of a sparse store: keys strictly rising, no entry equal to what an unlisted key reads as. -/
def swf {α : Type} [DecidableEq α] (d : α) : Sparse α → Bool
  | [] => true
  | [(_, v)] => decide (v ≠ d)
  | (k, v) :: (k', v') :: r => decide (v ≠ d) && decide (k < k') && swf d ((k', v') :: r)

/-- A sparse store with its entries below key `lo` only. -/
def stake {α : Type} (lo : Nat) : Sparse α → Sparse α
  | [] => []
  | (k, v) :: r => if k < lo then (k, v) :: stake lo r else []

/-! ### The creel's bytes (R346, log entry 5) -/

/-- What a byte of the creel that nothing has written reads as (DESIGN CHOICE, log entry 5). -/
def creelDefault : Byte := 0

/-- Read one byte of a creel. -/
def readByte (m : List Host.Cell) (a : Nat) : Byte := sget creelDefault m a

/-- Write one byte of a creel. -/
def writeByte (m : List Host.Cell) (a : Nat) (b : Byte) : List Host.Cell := sput creelDefault m a b

/-- The canonical form of a creel's contents. -/
def Memory.wf (m : List Host.Cell) : Bool := swf creelDefault m

/-- Write a byte string from address `a` on. -/
def writeBytes (m : List Host.Cell) : Nat → List Byte → List Host.Cell
  | _, [] => m
  | a, b :: r => writeBytes (writeByte m a b) (a + 1) r

/-- Read `n` bytes from address `a` on. -/
def readBytes (m : List Host.Cell) (a n : Nat) : List Byte := (upTo n).map fun i => readByte m (a + i)

/-- One value for each of eight. -/
def eights {α : Type} (f : Fin 8 → α) : Vector α 8 := #v[f 0, f 1, f 2, f 3, f 4, f 5, f 6, f 7]

/-- The mean of eight delays, rounded down (R389; log entry 62). -/
def mean8 (v : Vector Byte 8) : Nat := (v.toList.map BitVec.toNat).foldl (· + ·) 0 / 8

end Sys2Proof.Machine
end

