-- ==== Sys2Proof/Machine/Digest.lean ====
section
/-! DEFINITION. CRC-32 of IEEE 802.3 and SHA-256 of FIPS 180-4, as R77 names them. -/

namespace Sys2Proof.Machine

/-! ### CRC-32 -/

/-- `n` shifts of the reflected CRC-32 register with polynomial 0x04C1_1DB7. -/
def crcShift : Nat → BitVec 32 → BitVec 32
  | 0, r => r
  | n + 1, r => crcShift n (if bit r 0 then (r >>> 1) ^^^ 0xEDB88320 else r >>> 1)

/-- CRC-32 of a byte string (R77). -/
def crc32 (l : List Byte) : BitVec 32 := ~~~(l.foldl (fun r b => crcShift 8 (r ^^^ b.setWidth 32)) 0xFFFFFFFF)

/-! ### SHA-256 -/

/-- The 64 round constants. -/
def shaK : List (BitVec 32) :=
  [0x428A2F98, 0x71374491, 0xB5C0FBCF, 0xE9B5DBA5, 0x3956C25B, 0x59F111F1, 0x923F82A4, 0xAB1C5ED5] ++
  [0xD807AA98, 0x12835B01, 0x243185BE, 0x550C7DC3, 0x72BE5D74, 0x80DEB1FE, 0x9BDC06A7, 0xC19BF174] ++
  [0xE49B69C1, 0xEFBE4786, 0x0FC19DC6, 0x240CA1CC, 0x2DE92C6F, 0x4A7484AA, 0x5CB0A9DC, 0x76F988DA] ++
  [0x983E5152, 0xA831C66D, 0xB00327C8, 0xBF597FC7, 0xC6E00BF3, 0xD5A79147, 0x06CA6351, 0x14292967] ++
  [0x27B70A85, 0x2E1B2138, 0x4D2C6DFC, 0x53380D13, 0x650A7354, 0x766A0ABB, 0x81C2C92E, 0x92722C85] ++
  [0xA2BFE8A1, 0xA81A664B, 0xC24B8B70, 0xC76C51A3, 0xD192E819, 0xD6990624, 0xF40E3585, 0x106AA070] ++
  [0x19A4C116, 0x1E376C08, 0x2748774C, 0x34B0BCB5, 0x391C0CB3, 0x4ED8AA4A, 0x5B9CCA4F, 0x682E6FF3] ++
  [0x748F82EE, 0x78A5636F, 0x84C87814, 0x8CC70208, 0x90BEFFFA, 0xA4506CEB, 0xBEF9A3F7, 0xC67178F2]

/-- The eight working variables. -/
structure Sha where
  a : BitVec 32
  b : BitVec 32
  c : BitVec 32
  d : BitVec 32
  e : BitVec 32
  f : BitVec 32
  g : BitVec 32
  h : BitVec 32
  deriving DecidableEq, Repr

def shaInit : Sha := Sha.mk 0x6A09E667 0xBB67AE85 0x3C6EF372 0xA54FF53A 0x510E527F 0x9B05688C 0x1F83D9AB 0x5BE0CD19

def rotr (x : BitVec 32) (n : Nat) : BitVec 32 := x.rotateRight n

/-- One round with constant plus schedule word `kw`. -/
def Sha.round (s : Sha) (kw : BitVec 32) : Sha :=
  let t1 := s.h + (rotr s.e 6 ^^^ rotr s.e 11 ^^^ rotr s.e 25) + ((s.e &&& s.f) ^^^ (~~~s.e &&& s.g)) + kw
  let t2 := (rotr s.a 2 ^^^ rotr s.a 13 ^^^ rotr s.a 22) + ((s.a &&& s.b) ^^^ (s.a &&& s.c) ^^^ (s.b &&& s.c))
  Sha.mk (t1 + t2) s.a s.b s.c (s.d + t1) s.e s.f s.g

/-- The schedule word that follows sixteen others. -/
def shaNext (w : List (BitVec 32)) : BitVec 32 :=
  let w1 := w.getD 1 0
  let w14 := w.getD 14 0
  w.getD 0 0 + (rotr w1 7 ^^^ rotr w1 18 ^^^ (w1 >>> 3)) + w.getD 9 0 + (rotr w14 17 ^^^ rotr w14 19 ^^^ (w14 >>> 10))

/-- The rounds for the constants left, with the next sixteen schedule words. -/
def shaRounds : List (BitVec 32) → List (BitVec 32) → Sha → Sha
  | [], _, s => s
  | k :: r, w, s => shaRounds r (w.drop 1 ++ [shaNext w]) (s.round (k + w.getD 0 0))

/-- A big-endian word of four bytes. -/
def beWord (l : List Byte) (i : Nat) : BitVec 32 :=
  BitVec.ofNat 32 ((((l.getD (4 * i) 0).toNat * 256 + (l.getD (4 * i + 1) 0).toNat) * 256 + (l.getD (4 * i + 2) 0).toNat) * 256
    + (l.getD (4 * i + 3) 0).toNat)

/-- One block of 64 bytes. -/
def shaBlock (s : Sha) (blk : List Byte) : Sha :=
  let t := shaRounds shaK ((upTo 16).map (beWord blk)) s
  Sha.mk (s.a + t.a) (s.b + t.b) (s.c + t.c) (s.d + t.d) (s.e + t.e) (s.f + t.f) (s.g + t.g) (s.h + t.h)

/-- The first `n` blocks of a padded message. -/
def shaBlocks : Nat → List Byte → Sha → Sha
  | 0, _, s => s
  | n + 1, l, s => shaBlocks n (l.drop 64) (shaBlock s (l.take 64))

/-- The bytes of a word, highest first. -/
def beBytes (n : Nat) (v : Nat) : List Byte := (leBytes n v).reverse

/-- SHA-256 of a byte string, in the order of FIPS 180-4 (R77). -/
def sha256 (l : List Byte) : List Byte :=
  let zeros := (119 - l.length % 64) % 64
  let m := l ++ [0x80] ++ List.replicate zeros 0 ++ beBytes 8 (8 * l.length)
  let s := shaBlocks (m.length / 64) m shaInit
  [s.a, s.b, s.c, s.d, s.e, s.f, s.g, s.h].flatMap fun w => beBytes 4 w.toNat

end Sys2Proof.Machine
end

