-- ==== Sys2Proof/Machine/Flags.lean ====
section
/-! DEFINITION. The numbers of the sticky event bits of each block's EVENTS register, the producers' codes of the
junction fabric (R298) and the codes of faults and causes, each by the manual's name. -/

namespace Sys2Proof.Machine

/-! ### TRK_EVENTS (R69) -/
namespace TrkEv
abbrev refLost := 0
abbrev refBack := 1
abbrev paceStop := 2
abbrev paceReturn := 3
abbrev paceStep := 4
abbrev mstoneSeen := 5
abbrev mstoneSlip := 6
abbrev alignDone := 7
abbrev range := 8
abbrev glitch := 9
end TrkEv

/-! ### MOD_EVENTS (R131) -/
namespace ModEv
abbrev modeChange := 0
abbrev stateChange := 1
abbrev cmdRefused := 2
abbrev pendingDone := 3
abbrev linkLost := 4
abbrev bcastDone := 5
end ModEv

/-! ### SEQ_EVENTS (R165) -/
namespace SeqEv
abbrev routeEnd := 0
abbrev resumeSet := 1
abbrev lateFetch := 2
abbrev discarded := 3
abbrev coalesced := 4
abbrev startLate := 5
abbrev grpDone := 6
abbrev unalignedStart := 7
end SeqEv

/-! ### PLY_EVENTS (R199) -/
namespace PlyEv
abbrev hop := 0
abbrev hostHop := 1
abbrev overrate := 2
abbrev freeze := 3
abbrev clkGap := 4
abbrev saturate := 5
end PlyEv

/-! ### JNC_EVENTS (R318) -/
namespace JncEv
abbrev coalesced := 0
abbrev pendOvf := 1
abbrev fireMerged := 2
abbrev grpConflict := 3
abbrev atLate := 4
abbrev hit := 5
end JncEv

/-! ### DST_EVENTS (R237) -/
namespace DstEv
abbrev started := 0
abbrev halted := 2
abbrev checkFail := 3
abbrev vecRate := 4
abbrev vecUnder := 5
abbrev laneGap := 6
abbrev coalesced := 7
abbrev ignored := 8
abbrev trackLimit := 9
end DstEv

/-! ### ANA_EVENTS (R267) -/
namespace AnaEv
abbrev strobe := 0
abbrev stbMerged := 1
abbrev stbIgnored := 2
abbrev stbLate := 3
abbrev clamped := 4
abbrev limBad := 5
abbrev rangeDone := 6
abbrev alarm := 7
abbrev zeroClamp := 8
end AnaEv

/-! ### SYN_EVENTS (R293) -/
namespace SynEv
abbrev switchedS := 0
abbrev switchedL := 1
abbrev failoverS := 2
abbrev failoverL := 3
abbrev switchLost := 4
abbrev refGate := 5
abbrev retuneL := 6
abbrev ceilHold := 7
abbrev stale := 8
abbrev retryFail := 9
abbrev pairLost := 10
abbrev prepDone := 11
end SynEv

/-! ### TDC_EVENTS (R345) -/
namespace TdcEv
abbrev done := 0
abbrev timeout := 1
abbrev ovf := 2
abbrev dead := 3
abbrev winEmpty := 4
abbrev eviMerged := 5
abbrev armIgnored := 6
abbrev aborted := 7
abbrev few := 8
abbrev dumpFull := 9
end TdcEv

/-! ### MEM_EVENTS (R389) -/
namespace MemEv
abbrev trained := 0
abbrev trainFail := 1
abbrev speedDone := 2
abbrev speedDeferred := 3
abbrev retrainDiscard := 4
abbrev rescue := 5
abbrev retired := 6
abbrev creelLost := 7
abbrev bobDegraded := 8
abbrev throttle := 9
abbrev cacheFull := 10
abbrev vecCache := 11
abbrev svcDone := 12
end MemEv

/-! ### STQ_EVENTS (R424) -/
namespace StqEv
abbrev underrun := 0
abbrev low := 1
abbrev fault := 2
abbrev closed := 3
abbrev bulkDone := 4
end StqEv

/-! ### SKN_EVENTS (R101) -/
namespace SknEv
abbrev done := 0
abbrev refused := 1
abbrev startRefused := 2
abbrev stray := 3
end SknEv

/-! ### TLH_EVENTS (R453) -/
namespace TlhEv
abbrev deficit := 0
abbrev denied := 1
abbrev withdrawn := 2
abbrev creelDown := 3
abbrev softShed := 4
abbrev hardShed := 5
abbrev feedLost := 6
abbrev overdraw := 7
end TlhEv

/-! ### VLT_EVENTS (R454) -/
namespace VltEv
abbrev restoreDone := 0
abbrev restoreRefused := 1
abbrev discarded := 2
abbrev slotTorn := 3
end VltEv

/-! ### HP_EVENTS (R423) -/
namespace HpEv
abbrev linkUp := 0
abbrev linkDown := 1
abbrev laneDrop := 2
abbrev laneAdd := 3
abbrev bcastDone := 4
abbrev qdataRefused := 5
abbrev malformed := 6
end HpEv

/-! ### Completion statuses (R401) -/
abbrev Status := BitVec 4
namespace St
abbrev normal : Status := 0
abbrev misaligned : Status := 1
abbrev locked : Status := 2
abbrev unmapped : Status := 3
abbrev unpowered : Status := 4
abbrev malformed : Status := 5
end St

/-! ### CAL_EVENTS (R476) -/
namespace CalEv
abbrev runDone := 0
abbrev rejected := 1
abbrev committed := 2
abbrev commitRefused := 3
abbrev dacLimit := 4
end CalEv

/-! ### FLT_EVENTS (R493) -/
namespace FltEv
abbrev masked := 0
abbrev unmasked := 1
abbrev logOvf := 2
abbrev ackRefused := 3
end FltEv

/-! ### Producers of the junction fabric (R298) -/
namespace Prod
abbrev paceStep := 0x01
abbrev paceStop := 0x02
abbrev paceReturn := 0x03
abbrev mstone := 0x04
abbrev mstoneSlip := 0x05
abbrev refLost := 0x06
abbrev refBack := 0x07
abbrev wpStart := 0x10
abbrev passStart := 0x11
abbrev gate := 0x12
abbrev routeEnd := 0x13
abbrev hop := 0x18
abbrev freeze := 0x19
abbrev thaw := 0x1A
abbrev clkGap := 0x1B
abbrev reentry := 0x1C
abbrev frame0 := 0x20
abbrev ev0 := 0x21
abbrev ev1 := 0x22
abbrev vecEnd := 0x23
abbrev vecUnder := 0x24
abbrev halt := 0x25
abbrev strobe := 0x28
abbrev rangeDone := 0x29
abbrev alarm := 0x2A
abbrev sSwitch := 0x30
abbrev lSwitch := 0x31
abbrev failover := 0x32
abbrev sOff := 0x33
abbrev lOff := 0x34
abbrev sOn := 0x35
abbrev lOn := 0x36
abbrev evi := 0x40
abbrev done := 0x44
abbrev timeout := 0x48
abbrev at' := 0x50
abbrev hit := 0x54
abbrev under := 0x60
end Prod

/-- Every producer code that is not reserved (R298). -/
def producerCodes : List Nat :=
  [1, 2, 3, 4, 5, 6, 7, 0x10, 0x11, 0x12, 0x13, 0x18, 0x19, 0x1A, 0x1B, 0x1C, 0x20, 0x21, 0x22, 0x23, 0x24, 0x25,
   0x28, 0x29, 0x2A, 0x30, 0x31, 0x32, 0x33, 0x34, 0x35, 0x36, 0x40, 0x41, 0x42, 0x43, 0x44, 0x45, 0x46, 0x47,
   0x48, 0x49, 0x4A, 0x4B, 0x50, 0x51, 0x52, 0x53, 0x54, 0x55, 0x56, 0x57, 0x60]

/-- Every consumer input code that is not reserved (R299). -/
def consumerCodes : List Nat :=
  [0, 1, 2, 3, 4, 5, 6, 8, 9, 0xA, 0xB, 0xC, 0xD, 0x10, 0x18, 0x19, 0x1A, 0x1B, 0x20, 0x21, 0x22, 0x23,
   0x28, 0x29, 0x2A, 0x2B, 0x2C, 0x2D, 0x2E, 0x2F, 0x30, 0x31, 0x32, 0x33, 0x34, 0x35, 0x36, 0x37]

/-- The countable inputs TDC.ARM0 to 3 and JNC.CNT0 to 3, by the index of their pending counter (R299, R318). -/
def countableIndex (code : Nat) : Option (Fin 8) :=
  if 0x18 ≤ code ∧ code < 0x1C then some (Fin.ofNat 8 (code - 0x18))
  else if 0x20 ≤ code ∧ code < 0x24 then some (Fin.ofNat 8 (code - 0x20 + 4))
  else none

/-! ### Causes of HELD (R125) -/
namespace Cause
abbrev host : Byte := 0x21
abbrev shed : Byte := 0x22
abbrev fault : Byte := 0x23
abbrev link : Byte := 0x24
end Cause

/-- The order of precedence FAULT, LINK, SHED, HOST (R125): a smaller rank comes first. -/
def causeRank (c : Byte) : Nat :=
  if c = Cause.fault then 0 else if c = Cause.link then 1 else if c = Cause.shed then 2
  else if c = Cause.host then 3 else 4

/-- Of two causes, the one that comes first in the order of R125. -/
def worseCause (a b : Byte) : Byte := if causeRank b < causeRank a then b else a

/-! ### Wait reasons (R124) -/
namespace WaitCode
abbrev pace : Byte := 0x11
abbrev grant : Byte := 0x12
abbrev fetch : Byte := 0x13
abbrev condition : Byte := 0x14
end WaitCode

end Sys2Proof.Machine
end

