-- ==== Sys2Proof/Machine/Ops.lean ====
section
/-! DEFINITION. The named operations over the state: time, access to one channel, changes of mode and channel
state, publication into the junction fabric, packets to the host, the calibration fields and the fault log. -/

namespace Sys2Proof.Machine

/-! ### Time (log entry 1) -/

/-- Tbu in a fabric cycle of 2 ns. -/
def cycleTbu : Nat := 1024

/-- The fabric cycle in which instant `t` lies. -/
def cycleOf (t : Tbu) : Nat := t / cycleTbu

/-- The first fabric cycle at or after instant `t` (R198, R292). -/
def eventCycle (t : Tbu) : Nat := ceilDiv t cycleTbu

/-- The registers of W1C bits of a channel, in an order of the model's own. -/
def Chan.evRegs (c : Chan) : Vector Sticky 14 :=
  #v[c.seq.events, c.ply.events, c.dst.events, c.ana.events, c.ana.monAlarm, c.syn.events, c.jnc.events, c.jnc.seen,
    c.jnc.block, c.jnc.govd, c.tdc.events, c.mem.events, c.cal.events, c.stq.events]

/-- The registers of W1C bits of the common block. -/
def State.evRegs (s : State) : Vector Sticky 7 :=
  #v[s.mod.events, s.tlh.events, s.trk.events, s.vlt.events, s.hp.events, s.skn.events, s.flt.events]

/-- How often each register of W1C bits has been set: the common block's, then each channel's. -/
def State.evSets (s : State) : List Nat :=
  (s.evRegs.toList ++ s.chans.toList.flatMap fun c => c.evRegs.toList).map (·.sets)

/-- The state at instant `t`: time never runs backwards. A new fabric cycle notes the settings before it (R10). -/
def State.atTime (s : State) (t : Tbu) : State :=
  { s with now := max s.now t
           evMark := if cycleOf (max s.now t) = cycleOf s.now then s.evMark else s.evSets }

def State.cycle (s : State) : Nat := cycleOf s.now

/-- Tbu in a nanosecond, a microsecond and a millisecond (R26). -/
def ns : Nat := 512
def us : Nat := 512000
def ms : Nat := 512000000

/-- TRK_TBASE (R27): counts from the first qualification of REF. -/
def State.tbase (s : State) : Nat :=
  match s.trk.epoch with
  | none => 0
  | some e => s.now - e

/-- An instant with 16 fractional bits. -/
def q16 (t : Nat) : Q16 := (t : Int) * 65536

/-- Draw a free value: the count that names it, and the state with the count advanced (log entry 2). -/
def State.drawn (s : State) : State := { s with freeCtr := s.freeCtr + 1 }

/-! ### Channels -/

def allCh : List ChanId := [0, 1, 2, 3, 4, 5, 6, 7, 8, 9, 10, 11, 12, 13, 14, 15]

def State.ch (s : State) (c : ChanId) : Chan := s.chans[c]

def State.setCh (s : State) (c : ChanId) (x : Chan) : State := { s with chans := vput s.chans c x }

def State.modCh (s : State) (c : ChanId) (f : Chan → Chan) : State := s.setCh c (f (s.ch c))

/-- Do something to the channels of a list, in turn. -/
def State.forCh (l : List ChanId) (f : State → ChanId → State) (s : State) : State := l.foldl f s

/-- The channels named in a mask. -/
def chOf {n : Nat} (m : BitVec n) : List ChanId := allCh.filter fun c => bit m c.val

/-- A vector of sixteen bits, one for each channel. -/
def chMask (f : ChanId → Bool) : Nat := (allCh.map fun c => if f c then 2 ^ c.val else 0).foldl (· + ·) 0

def Chan.configured (c : Chan) : Bool := c.skn.state == .configured

/-- Modes in which the channel domains are powered and commands are accepted (R103). -/
def State.working (s : State) : Bool := s.mod.mode == .wound || s.mod.mode == .shedding

/-- The module is without power, in DARK, or stopped for a hold-up. -/
def State.portUp (s : State) : Bool :=
  match s.mod.mode with
  | .linked | .spooling | .wound | .shedding | .quarantine => true
  | _ => false

/-- Channel windows answer: the channel domains are powered and the host port is up (R103, R401). -/
def State.windowUp (s : State) : Bool := s.working || s.mod.mode == .spooling

/-- What the host does through the port, which is down in DARK, HOLDUP and VAULTED (R103). -/
def State.ifPort (s : State) (f : State → State) : State := if s.portUp then f s else s

/-- What the host does in a channel window: without effect while the channel domains are unpowered (R401). -/
def State.ifWindow (s : State) (f : State → State) : State := if s.windowUp then f s else s

/-! ### Changes of mode and state -/

/-- Change the module mode (R106). -/
def State.setMode (s : State) (m : Mode) : State :=
  { s with mod := { s.mod with mode := m, prev := s.mod.mode, events := evSet s.mod.events ModEv.modeChange } }

/-- Change a channel's state (R114); HELD_CAUSE reads 0 outside HELD (R125). -/
def State.setChState (s : State) (c : ChanId) (st : ChState) : State :=
  let x := s.ch c
  let y := { x with mod := { x.mod with state := st, heldCause := if st = .held then x.mod.heldCause else 0 } }
  let s' := s.setCh c y
  if x.mod.state = st then s' else { s' with mod.events := evSet s'.mod.events ModEv.stateChange }

/-! ### The junction fabric: publication (R294, R295) -/

/-- Producer code of junction `j` in the JNC_WIRING record (R313). -/
def ChImage.producer (im : ChImage) (j : Nat) : Nat := num im.wiring j 1

/-- The junctions that producer `code` drives, as a mask. -/
def ChImage.drives (im : ChImage) (code : Nat) : Word :=
  ((upTo 64).filter fun j => im.producer j == code).foldl (fun m j => setBit m j) 0

/-- A producer publishes in a fabric cycle; the event reaches its junction in the next (R295). Nothing is
published while the channel is not CONFIGURED (R297). -/
def Chan.publish (c : Chan) (cycle code : Nat) : Chan :=
  if c.configured then
    let m := c.skn.image.drives code
    if m = 0 then c else { c with jnc := { c.jnc with offers := c.jnc.offers ++ [(cycle, m)] } }
  else c

/-- A producer of channel `c` publishes in the present fabric cycle. -/
def State.publish (s : State) (c : ChanId) (code : Nat) : State := s.modCh c fun x => x.publish s.cycle code

/-- What R297 does to the fabric of a channel that is not CONFIGURED, or at the entry to HOLDUP: software fires
discarded, scheduled events cancelled, flip-flops, filter histories and pending counters cleared. -/
def Chan.fabricStop (c : Chan) : Chan :=
  { c with
    jnc := { c.jnc with
      offers := [], fires := [], carried := 0, carriedAt := none, carriedPrev := 0, carriedPrevAt := none, ff := 0, filt := Vector.replicate 16 0,
      pend := Vector.replicate 8 0, atArmed := 0 }
    trk := { c.trk with
      pending := c.trk.pending.filter fun p => match p.kind with | .at _ => false | _ => true
      committed := c.trk.committed.filter fun p => match p.kind with | .at _ => false | _ => true } }

/-! ### Packets to the host (R393, R399) -/

/-- The most frames that may wait for a LACK (R394). -/
def maxOutstanding : Nat := 2048

/-- The words of a packet: a header with TYPE in bits [63:60], and its payload (R399, R400, R410, R419). -/
def Packet.words : Packet → List Word
  | .cpl tag status data => pack [(3, 60), (tag.toNat, 48), (status.toNat, 44), (data.length, 32)] :: data
  | .qcpl queue code detail pos fills =>
    [pack [(5, 60), (queue.toNat, 44), (code.toNat, 36), (detail.toNat, 28)], pack [(pos.toNat, 32), (fills.toNat, 0)]]
  | .credit queue limit => [pack [(6, 60), (queue.toNat, 44), (limit.toNat, 0)]]

/-- The link header of a frame that carries `p`: LSEQ, LACK and LEN in 8-byte words (R393). -/
def linkHeader (seq lack : BitVec 12) (p : Packet) : List Byte :=
  leBytes 4 (seq.toNat * 2 ^ 20 + lack.toNat * 2 ^ 8 + (p.words.length + 1))

/-- The bytes of a frame: link header, packet, and LCRC over the two (R393). -/
def frameBytes (seq lack : BitVec 12) (p : Packet) : List Byte :=
  let body := linkHeader seq lack p ++ p.words.flatMap wordBytes
  body ++ leBytes 4 (crc32 body).toNat

/-- Move waiting packets into frames while fewer than 2,048 are outstanding (R394). The first of them starts REPLAY_TO. -/
def Hp.fill (now : Tbu) : Nat → Hp → Hp
  | 0, h => h
  | n + 1, h =>
    match h.unsent with
    | [] => h
    | p :: r =>
      if h.outstanding.length < maxOutstanding then
        Hp.fill now n { h with
          unsent := r, outstanding := h.outstanding ++ [{ seq := h.txSeq, pkt := p, bytes := frameBytes h.txSeq h.lackOut p }]
          ackAt := if h.outstanding.isEmpty then now else h.ackAt, txSeq := h.txSeq + 1 }
      else h

/-- Send a packet to the host, while the link is up. -/
def State.send (s : State) (p : Packet) : State :=
  if s.hp.state = .up then { s with hp := Hp.fill s.now maxOutstanding { s.hp with unsent := s.hp.unsent ++ [p] } } else s

/-! ### Calibration fields (R455, R456) -/

/-- The words of the record in force; none without an active bank. -/
def Cal.activeBank (c : Cal) : Option (Sparse Word) :=
  if c.active = 1 then some c.banks[0] else if c.active = 2 then some c.banks[1] else none

/-- A byte of a record. -/
def recByte (b : Sparse Word) (off : Nat) : Byte := BitVec.ofNat 8 (fld (sget 0 b (off / 8)) (8 * (off % 8)) 8)

/-- A little-endian number of a record. -/
def recNum (b : Sparse Word) (off : Nat) : Nat → Nat
  | 0 => 0
  | n + 1 => (recByte b off).toNat + 256 * recNum b (off + 1) n

/-- SKEW[i] of the record in force, 0 without one: TRK_CH_SKEW, TDC_IN_SKEW, PLY_WAV_SKEW, PLY_MK_SKEW and
DST_LANE_SKEW in the numbering of R456. -/
def Cal.skew (c : Cal) (i : Nat) : Int :=
  match c.activeBank with
  | none => 0
  | some b => signed (recNum b (0x100 + 2 * i) 2) 16

/-- The procedures in progress: DAC, the two of BINS in parallel, or SKEW (R466). -/
def CalRunState.now (r : CalRunState) : List (Fin 4) :=
  match r.left with
  | [] => []
  | p :: l => if p = 1 then p :: l.filter (· == 2) else [p]

/-- Something happens that makes the procedures of a list, where in progress, end rejected (R463, R475). -/
def Chan.calSpoil (c : Chan) (ps : List (Fin 4)) (why : Byte) : Chan :=
  match c.cal.run with
  | some r =>
    let v := (r.now.filter ps.contains).foldl (fun v p => if v[p] = 0 then vput v p why else v) r.spoilt
    { c with cal := { c.cal with run := some { r with spoilt := v } } }
  | none => c

/-- The active synthesizer of the sample pair. -/
def Syn.sampleActive (y : Syn) : Fin 4 := if y.s.second then 1 else 0

/-- The sample clock runs: the active sample synthesizer's gate is open. -/
def Chan.sampleClock (c : Chan) : Bool := (c.syn.synths[c.syn.sampleActive]).gate

/-- What a procedure needs is there when it begins: the tracker LOCKED for BINS_TRK and SKEW, the sample clock for DAC (R467, R469,
R475). -/
def Chan.calSource (c : Chan) : Chan :=
  let c := if c.trk.state = .locked then c else c.calSpoil [2, 3] 0x2A
  if c.sampleClock then c else c.calSpoil [0] 0x29

/-! ### Fault log (R489, R490) -/

/-- The second word of a record. -/
def logInfo (c : Option ChanId) (code : Byte) (detail action gapNs : Nat) : Word :=
  pack [(detail % 65536, 48), (code.toNat, 40), ((c.map (·.val)).getD 0, 36), ((c.isNone).toNat, 35),
    (action, 32), (min gapNs (2 ^ 32 - 1), 0)]

/-- The code of a record. -/
def LogRec.code (r : LogRec) : Nat := fld r.info 40 8

/-- A log with a new record, whose `n` newest records are of the same fabric cycle: those stand in ascending order of their codes
(R489). -/
def logInsert (n : Nat) (l : List LogRec) (r : LogRec) : List LogRec :=
  let same := l.drop (l.length - n)
  let low := fun (x : LogRec) => decide (x.code ≤ r.code)
  l.take (l.length - n) ++ same.filter low ++ r :: same.filter fun x => !low x

/-- How many of the newest records are of fabric cycle `cyc`. -/
def Flt.sameCycle (f : Flt) (cyc : Nat) : Nat := if f.newAt = cyc then f.newCount else 0

/-- The log with a record written in fabric cycle `cyc`; the record that finds it full is discarded and counted (R489). -/
def Flt.put (f : Flt) (cyc : Nat) (r : LogRec) : Flt :=
  let n := f.sameCycle cyc
  let f := { f with log := (logInsert n f.log r).take 64, newAt := cyc, newCount := if f.log.length < 64 then n + 1 else n
                    lost := if f.log.length < 64 then f.lost else satInc f.lost
                    events := evIf (decide (64 ≤ f.log.length)) f.events FltEv.logOvf }
  f

/-- LAST and FAULTS of a channel, which count stored and discarded records alike (R489). -/
def ChFlt.put (f : ChFlt) (cyc : Nat) (code : Byte) : ChFlt :=
  { f with last := if f.lastAt = some cyc ∧ code < f.last then f.last else code, lastAt := some cyc, faults := satInc f.faults }

/-- Write a record of a fault into the log (R489). -/
def State.logRecord (s : State) (c : Option ChanId) (code : Byte) (detail action gapNs : Nat) : State :=
  let f := s.flt.put s.cycle { odo := s.trk.odo, info := logInfo c code detail action gapNs }
  let s := { s with flt := { f with events := evIf (decide (action = 0)) f.events FltEv.masked } }
  match c with
  | none => s
  | some c => s.modCh c fun x => { x with flt := x.flt.put s.cycle code }

/-- FLT_CH_POLICY[n] (R491): the record's byte of the channel, 0 when the record is absent. -/
def State.policy (s : State) (c : ChanId) : Nat := num s.skn.image.faultPolicy c.val 1

def State.policyUnmasked (s : State) (c : ChanId) : Nat := s.policy c % 4

def State.policyStrict (s : State) (c : ChanId) : Bool := s.policy c / 4 % 2 == 1

/-- Any of FLT_CH_STAT[n] bits [5:0]. -/
def ChFlt.degraded (f : ChFlt) : Bool := f.bob || f.creel || f.synS || f.synL || f.mon || f.doffer

/-- Any of FLT_CH_STAT[n] bits [12:8]. -/
def ChFlt.standing (f : ChFlt) : Bool := f.pairS || f.pairL || f.creelLost || f.dofferLost || f.dryLong

/-- DRY_US in force, in microseconds (R487, R493). -/
def State.dryUs (s : State) : Nat := min 10000 (max 10 (fld s.flt.cfg 0 16))

end Sys2Proof.Machine
end

