-- ==== Sys2Proof/Machine/TrackOps.lean ====
section
/-! DEFINITION. The tracker of a channel: live position, the placing and committing of scheduled events, and the
edge procedure (R32 to R47, R513). -/

namespace Sys2Proof.Machine

/-- 24 ns, the lead of R43, in tbu. -/
def leadTbu : Nat := 12288

/-- The position of the last qualified edge. -/
def Tracker.edgePos (k : Tracker) : Word := cyclePos k.n

/-- The live track position at instant `t` (R41); 0 in ABSENT (R66). DESIGN CHOICE (log entry 51): an instant before E_n, which
a positive TRK_MOD_SKEW makes possible, has n with fraction 0. -/
def Tracker.live (k : Tracker) (t : Tbu) : Word :=
  if k.state = .absent then 0
  else if k.seeded = false ∨ k.pest = 0 then k.edgePos
  else k.edgePos + word (min (((t : Int) - k.e).toNat * 2 ^ 40 / k.pest) 0xFFFFFF)

/-- A target is in the future of the channel (R42). -/
def Tracker.future (k : Tracker) (t : Tbu) (x : Word) : Bool := isAfter x (k.live t)

/-- The target satisfies the commit condition of R43 at the last edge. -/
def Tracker.due (k : Tracker) (x : Word) : Bool :=
  decide (posDiff x k.edgePos * k.pest < ((leadTbu * 65536 + k.pest) * 2 ^ 24 : Nat))

/-- The instant R43 gives a target at the last edge, in tbu with 16 fractional bits. -/
def Tracker.instantOf (k : Tracker) (x : Word) : Q16 := k.e * 65536 + posDiff x k.edgePos * k.pest / (2 ^ 24 : Nat)

/-- Place an event under R43. -/
def Tracker.place (k : Tracker) (kind : SchedKind) (x : Word) : Tracker :=
  { k with pending := k.pending ++ [{ kind := kind, pos := x }] }

/-- Withdraw the events of one kind. -/
def Tracker.unplace (k : Tracker) (kind : SchedKind) : Tracker :=
  { k with pending := k.pending.filter (fun p => p.kind != kind)
           committed := k.committed.filter (fun p => p.kind != kind) }

/-- An event of this kind is placed and not yet committed. -/
def Tracker.isPending (k : Tracker) (kind : SchedKind) : Bool := k.pending.any fun p => p.kind == kind

/-- The committed event of a kind. -/
def Tracker.committedOf (k : Tracker) (kind : SchedKind) : Option Committed := k.committed.find? fun p => p.kind == kind

/-- Insert a committed event in order of track position (R44), counted from the last edge; events of equal
position keep the order in which they were committed. DESIGN CHOICE (log entry 51): positions committed before an alignment
and after it are compared as they stand. -/
def insertCommitted (base : Word) (x : Committed) : List Committed → List Committed
  | [] => [x]
  | y :: r => if posDiff x.pos base < posDiff y.pos base then x :: y :: r else y :: insertCommitted base x r

/-- Commit every pending event that satisfies R43; a tracker in ABSENT or ACQUIRING commits none (R47), and one in
STOPPED has no edge at which it could. -/
def Tracker.commit (k : Tracker) : Tracker :=
  if k.state = .locked then
    let due := k.pending.filter fun p => k.due p.pos
    { k with
      pending := k.pending.filter fun p => !k.due p.pos
      committed := due.foldl
        (fun l p => insertCommitted k.edgePos { kind := p.kind, pos := p.pos, inst := k.instantOf p.pos } l) k.committed }
  else k

/-- The emitted instant an event at position `x` with own instant `own` has under R44: the later of its own and
those of the events before it, whatever their kind. -/
def Tracker.plannedAt (k : Tracker) (x : Word) (own : Q16) : Q16 :=
  (k.committed.filter fun p => posDiff p.pos k.edgePos ≤ posDiff x k.edgePos).foldl (fun a p => max a p.inst)
    (max own k.lastEmit)

/-- The events emitted next, and their emitted instant: the first committed position with all events at it (R44). -/
def Tracker.head (k : Tracker) : Option (List Committed × Q16) :=
  match k.committed with
  | [] => none
  | p :: r =>
    let same := p :: r.filter fun q => q.pos == p.pos
    some (same, same.foldl (fun a q => max a q.inst) k.lastEmit)

/-! ### The edge procedure -/

/-- SHIFT of TRK_PACE_CFG, clamped to 2 to 8 (R69). -/
def paceShift (cfg : Word) : Nat := min 8 (max 2 (fld cfg 0 4))

/-- T_stop of R36 in tbu, rounded up; STOP_MULT 0 and 1 act as 2 (R69). -/
def Tracker.stopAfter (k : Tracker) : Nat := ceilDiv (max 2 (fld k.paceCfg 8 8) * k.pest) 65536

/-- The step threshold of R35 at 16 fractional bits (R513). -/
def stepThreshold (cfg : Word) (pest : Nat) : Nat :=
  max (fld cfg 32 16 * pest / 1000000) (fld cfg 16 16 * 65536)

/-- An edge `d` tbu after the last qualified one is rejected: less than 550 ps (R32). -/
def isGlitch (d : Nat) : Bool := decide (d * 1000 < 550 * ns)

/-- An interval is out of range: longer than 105 ns or shorter than 600 ps (R33). -/
def outOfRange (d : Int) : Bool := decide (d > 105 * ns) || decide (d * 1000 < 600 * ns)

/-- What an edge brought to light, for publication. -/
structure EdgeNews where
  step : Bool := false
  ret : Bool := false
  range : Bool := false
  deriving DecidableEq, Repr

/-- R35 for a measured interval `d` in ACQUIRING or LOCKED, at the resolution of R513. DESIGN CHOICE (log entry 51): an interval
that a change of TRK_MOD_SKEW makes zero or negative gives P_est 0. -/
def Tracker.measure (k : Tracker) (d : Int) : Tracker × EdgeNews :=
  let rng := outOfRange d
  let k := { k with range := rng }
  let d16 := d * 65536
  let p : Int := k.pest
  let (k, step) :=
    if k.seeded = false then ({ k with pest := d16.toNat, seeded := true }, false)
    else if (d16 - p).natAbs > stepThreshold k.paceCfg k.pest then
      ({ k with pest := d16.toNat, fast := 16 * (fld k.paceCfg 4 4 + 1), good := 0 }, true)
    else if k.fast > 0 then
      ({ k with pest := (p + (d16 - p) / 4).toNat, fast := k.fast - 1, good := k.good + 1 }, false)
    else ({ k with pest := (p + (d16 - p) / (2 ^ paceShift k.paceCfg : Nat)).toNat, good := k.good + 1 }, false)
  (if k.state = .acquiring ∧ k.good ≥ 16 then { k with state := .locked } else k, { step := step, range := rng })

/-- The procedure of R35 on a qualified edge at instant `e` (skews applied, R63), which reached the receiver at
`raw`, with the settings in force from this edge on (R64, R70). -/
def Tracker.edge (k : Tracker) (raw : Tbu) (e : Int) (cfg skew : Word) : Tracker × EdgeNews :=
  let d := e - k.e
  let k := { k with paceCfg := cfg, modSkew := skew, raw := some raw }
  let r : Tracker × EdgeNews :=
    match k.state with
    | .absent => ({ k with n := 0, state := .acquiring, seeded := false, good := 0 }, {})
    | .stopped => ({ k with n := k.n + 1, state := .locked }, { ret := true })
    | _ => { k with n := k.n + 1 }.measure d
  ({ r.1 with e := e }, r.2)

/-- STOPPED is due at instant `t`: after E + T_stop no qualified edge has arrived (R36). -/
def Tracker.stopDue (k : Tracker) (t : Int) : Bool := k.state == .locked && decide (t > k.e + k.stopAfter)

/-- A tracker in ABSENT, as a RETRACK leaves it (R68, log entry 11): its edges belong to no position any more. -/
def Tracker.retracked (k : Tracker) : Tracker :=
  { k with state := .absent, n := 0, aligned := false, misaligned := false, hist := [] }

/-! ### Conversions of stamps (R39, R40) -/

/-- The retrospective position of instant `t` in the cycle that began at edge position `p`, instant `e`, and ended
after `len` tbu with 16 fractional bits (R39); `cap` limits the fraction after a stop (R40). -/
def retroPos (p : Word) (e t : Int) (len : Nat) (cap : Bool) : Word :=
  let f := if len = 0 then 0 else (t - e).toNat * 2 ^ 40 / len
  p + word (if cap then min f 0xFFFFFF else f)

/-- How far TDC_IN_DELAY and the skews can move a stamp from its edge: 2^16 tbu. -/
def stampReach : Int := 65536

/-- The edges from the last one at or before instant `lo` on. -/
def trimHist (lo : Int) : List EdgeRec → List EdgeRec
  | [] => []
  | h :: r => if h.e ≤ lo then [h] else h :: trimHist lo r

/-- Record the last qualified edge; `oldest` is the oldest stamp not yet converted. -/
def Tracker.record (k : Tracker) (oldest : Option Int) : Tracker :=
  let lo := k.e - stampReach
  { k with hist := trimHist (min lo (oldest.getD lo)) ({ pos := k.edgePos, e := k.e } :: k.hist) }

/-- The declaration of STOPPED at instant `at'` ends the present cycle (R40). -/
def Tracker.recordStop (k : Tracker) (at' : Tbu) : Tracker :=
  match k.hist with
  | [] => k
  | h :: r => { k with hist := { h with stop := some (k.pest, at') } :: r }

/-- 12 ns in tbu. -/
def convTbu : Nat := 6144

/-- The position of instant `t` under R39 or R40 and the instant at which that conversion is complete (R323); `next` is
the edge after the first of the list. none while the following edge is awaited; `some none` when no edge precedes `t`. -/
def convertIn (t : Int) : Option EdgeRec → List EdgeRec → Option (Option (Word × Int))
  | _, [] => some none
  | next, h :: r =>
    if h.e ≤ t then
      match h.stop, next with
      | some (p, a), _ => some (some (retroPos h.pos h.e t p true, (a : Int)))
      | none, some n => some (some (retroPos h.pos h.e t ((n.e - h.e).toNat * 65536) false, n.e + convTbu))
      | none, none => none
    else convertIn t (some h) r

end Sys2Proof.Machine
end

