-- ==== Sys2Proof/Machine/Junction.lean ====
section
/-! DEFINITION. Junctions: carrying events, LUT cells, groups, governors, software fires, scheduled events and
counters (R294 to R318). -/

namespace Sys2Proof.Machine

/-- The fabric of a channel carries events (R297). -/
def State.fabricOn (s : State) (c : ChanId) : Bool :=
  (s.ch c).configured && (s.mod.mode != .holdup) && (s.mod.mode != .vaulted) && (s.mod.mode != .unpowered)

/-- The group of junction `j`, if it is a member of one (R307, R313). -/
def ChImage.groupOf (im : ChImage) (j : Nat) : Option Nat :=
  let b := num im.wiring (64 + j) 1
  if b ≥ 128 then some (b % 8) else none

/-- JNC_GRP_EN as events carried in cycle `d` see it: changes of a cycle act from the next (R308, R312). -/
def Jnc.groupsIn (j : Jnc) (d : Nat) : Byte := if j.genCycle = some d then j.genOld else j.grpEn

/-- The junctions that are members of a disabled group in cycle `d`. -/
def Chan.blocked (c : Chan) (d : Nat) : Word :=
  ((upTo 64).filter fun j => match c.skn.image.groupOf j with
    | some g => !bit (c.jnc.groupsIn d) g
    | none => false).foldl (fun m j => setBit m j) 0

/-- The junctions whose governor gap still runs in cycle `d` (R296 step 3, R309). -/
def Jnc.governed (jn : Jnc) (d : Nat) : Word :=
  ((upTo 64).filter fun j =>
    let gap := (vget jn.gov j 0).toNat
    match vget jn.lastCarry j none with
    | some l => decide (gap ≠ 0) && decide (d - l ≤ gap)
    | none => false).foldl (fun m j => setBit m j) 0

/-! ### LUT cells (R302 to R305, R315) -/

def ChImage.cellByte (im : ChImage) (c k : Nat) : Nat := num im.lut (16 * c + k) 1

/-- The junction a cell publishes on, if the cell is defined. -/
def ChImage.cellOut (im : ChImage) (c : Nat) : Option Nat :=
  let b := im.cellByte c 6
  if b ≥ 128 then some (b % 64) else none

def ChImage.cellFf (im : ChImage) (c : Nat) : Bool := im.cellByte c 7 % 2 == 1

/-- The index formed of the carried inputs, and the cell's result (R302). -/
def ChImage.cellResult (im : ChImage) (c : Nat) (carried : Word) : Bool :=
  let inp := fun k => let b := im.cellByte c k; b ≥ 128 && bit carried (b % 64)
  let i := 8 * (inp 3).toNat + 4 * (inp 2).toNat + 2 * (inp 1).toNat + (inp 0).toNat
  num im.lut (16 * c + 4) 2 / 2 ^ i % 2 == 1

/-- The filter output of cell `c` for a result in this cycle: 1 now and in each of the F cycles before (R303). -/
def Jnc.filterOut (jn : Jnc) (c : Nat) (r : Bool) : Bool := r && decide (fld jn.lutFilt (4 * c) 4 ≤ vget jn.filt c 0)

/-- The defined cells. -/
def ChImage.cells (im : ChImage) : List Nat := (upTo 16).filter fun c => (im.cellOut c).isSome

/-- The junctions driven by those of the cells that `p` selects. -/
def ChImage.cellMask (im : ChImage) (p : Nat → Bool) : Word :=
  (im.cells.filter p).foldl (fun m c => setBit m ((im.cellOut c).getD 0)) 0

/-- Candidates of the cells without flip-flop, given what the junctions carry (R304). -/
def Chan.combOut (c : Chan) (carried : Word) : Word :=
  c.skn.image.cellMask fun k => !c.skn.image.cellFf k && c.jnc.filterOut k (c.skn.image.cellResult k carried)

/-- What the junctions carry once the cells without flip-flop have settled: at most sixteen in a chain (R304). -/
def Chan.settle (c : Chan) (cand ok : Word) : Nat → Word → Word
  | 0, x => x
  | n + 1, x => c.settle cand ok n ((cand ||| c.combOut x) &&& ok)

/-- The configuration before a write of JNC_GOV or JNC_LUT_FILT in cycle `d` is kept until the end of `d`. -/
def Jnc.cfgOpen (j : Jnc) (d : Nat) : Jnc :=
  if j.cfgCycle = some d then j else { j with cfgCycle := some d, govOld := j.gov, filtOld := j.lutFilt }

/-- Governor gaps and filter lengths as they are in force in cycle `d`: a write takes effect in the next one (R303, R309). -/
def Jnc.cfgAt (j : Jnc) (d : Nat) : Jnc := if j.cfgCycle = some d then { j with gov := j.govOld, lutFilt := j.filtOld } else j

/-- The junctions that events published, or fires registered, in the cycle before `d` reach in `d` (R295, R306). -/
def offeredIn (l : List (Nat × Word)) (d : Nat) : Word := (l.filter fun o => o.1 + 1 == d).foldl (fun m o => m ||| o.2) 0

/-- One fabric cycle `d` of a channel's junctions (R296). In a cycle with no JUNCTION_CARRY no junction carried an
event, so every run of 1 results ended there (log entry 8). -/
def Chan.carry (c : Chan) (d : Nat) : Chan :=
  let written := c.jnc
  let jn := written.cfgAt d
  let jn := if jn.carriedAt.any (· + 1 == d) then jn else { jn with filt := Vector.replicate 16 0 }
  let c := { c with jnc := jn }
  let im := c.skn.image
  let srcs := offeredIn jn.offers d
  let fires := offeredIn jn.fires d
  let clear := jn.clearAt == some d
  let ffOut := if clear then 0 else im.cellMask fun k => im.cellFf k && bit jn.ff k
  let cand := srcs ||| fires ||| ffOut
  let blk := c.blocked d
  let gov := jn.governed d
  let ok := ~~~(blk ||| gov)
  let carried := if clear then cand &&& ok else c.settle cand ok 16 (cand &&& ok)
  let comb := if clear then 0 else c.combOut carried
  let all := cand ||| comb
  let src := srcs ||| fires
  let merged := fires &&& (srcs ||| ffOut ||| comb) != 0
  let res := fun k => im.cellResult k carried
  let out := fun k => jn.filterOut k (res k)
  { c with jnc := { jn with
      gov := written.gov, lutFilt := written.lutFilt
      offers := jn.offers.filter fun o => !decide (o.1 < d)
      fires := jn.fires.filter fun o => !decide (o.1 < d)
      seen := evMask jn.seen carried
      block := evMask jn.block (all &&& blk)
      govd := evMask jn.govd (all &&& gov &&& ~~~blk)
      events := evIf merged jn.events JncEv.fireMerged
      cells := { carried := src &&& ok, seen := carried &&& ~~~(src &&& ok) &&& ~~~jn.seen.bits
                 block := all &&& ~~~src &&& blk &&& ~~~jn.block.bits
                 govd := all &&& ~~~src &&& gov &&& ~~~blk &&& ~~~jn.govd.bits
                 merged := merged && fires &&& srcs == 0 && !bit jn.events.bits JncEv.fireMerged, last := jn.lastCarry }
      carried := carried
      carriedAt := some d
      carriedPrev := jn.carried
      carriedPrevAt := jn.carriedAt
      lastCarry := ⟨((upTo 64).map fun j => if bit carried j then some d else vget jn.lastCarry j none).toArray,
        by simp [upTo]⟩
      lutOut := BitVec.ofNat 16 (((upTo 16).filter fun k =>
        !clear && (im.cellOut k).isSome && (if im.cellFf k then bit jn.ff k else out k)).foldl (fun m k => m + 2 ^ k) 0)
      ff := if clear then 0 else BitVec.ofNat 16 ((im.cells.filter fun k => im.cellFf k && out k).foldl (fun m k => m + 2 ^ k) 0)
      filt := if clear then Vector.replicate 16 0 else
        ⟨((upTo 16).map fun k => if res k then min 16 (vget jn.filt k 0 + 1) else 0).toArray, by simp [upTo]⟩ } }

/-! ### Software fires and clearing (R305, R306) -/

/-- Software fires registered in the present cycle, offered in the next (R306); discarded while the fabric is
stopped (R297). -/
def State.jncFire (s : State) (ch : ChanId) (m : Word) : State :=
  if s.fabricOn ch ∧ m ≠ 0 then
    s.modCh ch fun x => { x with jnc := { x.jnc with fires := x.jnc.fires ++ [(s.cycle, m)] } }
  else s

def execJncFire (t : Tbu) (ch : ChanId) (mask : Word) (s : State) : Host.Outcome State Fault Refusal :=
  .next ((s.atTime t).ifWindow fun s => s.jncFire ch mask)

/-- What the cells produced in the last carry is taken back: in that cycle no cell produces a candidate (R305). -/
def Jnc.uncell (j : Jnc) : Jnc :=
  let own := j.carried &&& ~~~j.cells.carried
  { j with
    carried := j.cells.carried, lutOut := 0
    seen := j.seen.minus j.cells.seen, block := j.block.minus j.cells.block, govd := j.govd.minus j.cells.govd
    events := if j.cells.merged then j.events.minus (mask1 64 JncEv.fireMerged) else j.events
    lastCarry := ⟨((upTo 64).map fun k => vget (if bit own k then j.cells.last else j.lastCarry) k none).toArray, by simp [upTo]⟩ }

/-- Every LUT flip-flop and filter count cleared, and the cells overridden in this cycle, before or after its carry (R305). -/
def Jnc.cellClear (j : Jnc) (cycle : Nat) : Jnc :=
  let j := if j.carriedAt = some cycle then j.uncell else j
  { j with ff := 0, filt := Vector.replicate 16 0, clearAt := some cycle }

/-- JNC_CTRL.CLEAR: cells and pending counters (R305, R318). -/
def State.jncClear (s : State) (ch : ChanId) : State :=
  s.modCh ch fun x => { x with jnc := { x.jnc.cellClear s.cycle with pend := Vector.replicate 8 0 } }

def execClear (t : Tbu) (ch : ChanId) (s : State) : Host.Outcome State Fault Refusal := .next ((s.atTime t).ifWindow fun s => s.jncClear ch)

/-! ### Scheduled events (R310) -/

/-- Disarm JNC.ATk. -/
def Chan.atCancel (c : Chan) (k : Fin 4) : Chan :=
  { c with jnc := { c.jnc with atArmed := clrBit c.jnc.atArmed k.val }, trk := c.trk.unplace (.at k) }

/-- Arm JNC.ATk at JNC_AT_POS[k], replacing what was armed; a position that is not in the future is discarded. -/
def Chan.atArm (c : Chan) (now : Tbu) (k : Fin 4) : Chan :=
  let c := c.atCancel k
  let x := c.jnc.atPos[k]
  if c.trk.future now x then
    { c with jnc := { c.jnc with atArmed := setBit c.jnc.atArmed k.val }, trk := c.trk.place (.at k) x }
  else { c with jnc := { c.jnc with events := evSet c.jnc.events JncEv.atLate } }

def fin4 : List (Fin 4) := [0, 1, 2, 3]

/-- JNC_AT_CTRL.ARM; scheduled events are cancelled under R297 while the fabric is stopped. -/
def State.atArm (s : State) (ch : ChanId) (m : BitVec 4) : State :=
  if s.fabricOn ch then
    s.modCh ch fun x => (fin4.filter fun k => bit m k.val).foldl (fun c k => c.atArm s.now k) x
  else s

def State.atCancel (s : State) (ch : ChanId) (m : BitVec 4) : State :=
  s.modCh ch fun x => (fin4.filter fun k => bit m k.val).foldl (fun c k => c.atCancel k) x

def execAtArm (t : Tbu) (ch : ChanId) (mask : BitVec 4) (s : State) : Host.Outcome State Fault Refusal :=
  .next ((s.atTime t).ifWindow fun s => s.atArm ch mask)

def execAtCancel (t : Tbu) (ch : ChanId) (mask : BitVec 4) (s : State) : Host.Outcome State Fault Refusal :=
  .next ((s.atTime t).ifWindow fun s => s.atCancel ch mask)

/-- A committed JNC.ATk publishes and its ARMED bit clears (R310), in the fabric cycle of R46. -/
def Chan.atPublish (c : Chan) (cycle : Nat) (k : Fin 4) : Chan :=
  let c := c.publish cycle (Prod.at' + k.val)
  { c with jnc := { c.jnc with atArmed := clrBit c.jnc.atArmed k.val } }

/-! ### Counters (R311) -/

/-- An increment of a counter in cycle `d` is noted, with whether it hit. -/
def Jnc.noteHit (j : Jnc) (d : Nat) (k : Fin 4) (hit : Bool) : Jnc :=
  let same := decide (j.hitCycle = some d)
  { j with hitCycle := some d, hitOld := if same then j.hitOld else bit j.events.bits JncEv.hit
           incHit := putBit (if same then j.incHit else 0) k.val hit }

/-- Counter `k` increments in fabric cycle `d`; reaching CMP, it publishes JNC.HITk. -/
def Chan.counterInc (c : Chan) (d : Nat) (k : Fin 4) : Chan :=
  let n := c.jnc.cnt[k] + 1
  let cmp := c.jnc.cntCmp[k]
  let hit := fld cmp 0 32 ≠ 0 && n.toNat == fld cmp 0 32
  let j := c.jnc.noteHit d k hit
  let c := { c with jnc := { j with
    cnt := vput j.cnt k (if hit && bit cmp 32 then 0 else n)
    lastInc := vput j.lastInc k (some d)
    events := evIf hit j.events JncEv.hit } }
  if hit then c.publish d (Prod.hit + k.val) else c

/-- What the increment of counter `k` in cycle `d` did beyond the count is taken back: JNC.HITk and JNC_EVENTS.HIT. -/
def Chan.unhit (c : Chan) (d : Nat) (k : Fin 4) : Chan :=
  let j := c.jnc
  if j.hitCycle = some d ∧ bit j.incHit k.val then
    let rest := clrBit j.incHit k.val
    { c with jnc := { j with
      incHit := rest, offers := j.offers.erase (d, c.skn.image.drives (Prod.hit + k.val))
      events := if j.hitOld || rest != 0 then j.events else { j.events with bits := clrBit j.events.bits JncEv.hit } } }
  else c

/-- A host write of JNC_CNT[k]; an increment of the same cycle applies to the written value, and the compare uses that
alone (R311). -/
def State.counterWrite (s : State) (ch : ChanId) (k : Fin 4) (v : Word) : State :=
  s.modCh ch fun x =>
    let y := { x with jnc := { x.jnc with cnt := vput x.jnc.cnt k (BitVec.ofNat 32 v.toNat) } }
    if x.jnc.lastInc[k] = some s.cycle then (y.unhit s.cycle k).counterInc s.cycle k else y

def execCounterWrite (t : Tbu) (ch : ChanId) (k : Fin 4) (v : Word) (s : State) : Host.Outcome State Fault Refusal :=
  .next ((s.atTime t).ifWindow fun s => s.counterWrite ch k v)

/-! ### Group enables (R308) -/

/-- The group enables at the start of changes in cycle `d`. -/
def Jnc.genOpen (j : Jnc) (d : Nat) : Jnc :=
  if j.genCycle = some d then j else { j with genCycle := some d, genOld := j.grpEn, genSet := 0, genClr := 0 }

/-- An event on JNC.GENg (`en`) or JNC.GDISg registered in cycle `d`; both for one group disable it. -/
def Jnc.genEvent (j : Jnc) (d g : Nat) (en : Bool) : Jnc :=
  let j := j.genOpen d
  let j := if en then { j with genSet := setBit j.genSet g } else { j with genClr := setBit j.genClr g }
  let both := bit j.genSet g && bit j.genClr g
  { j with grpEn := (j.grpEn ||| j.genSet) &&& ~~~j.genClr
           events := evIf both j.events JncEv.grpConflict }

/-- A host write of JNC_GRP_EN: bits that an event of the same cycle touched keep what the event decided. -/
def State.grpEnWrite (s : State) (ch : ChanId) (v : Word) : State :=
  s.modCh ch fun x =>
    let j := x.jnc.genOpen s.cycle
    let touched := j.genSet ||| j.genClr
    { x with jnc := { j with grpEn := (BitVec.ofNat 8 v.toNat &&& ~~~touched) ||| (j.grpEn &&& touched) } }

def execGrpEnWrite (t : Tbu) (ch : ChanId) (v : Word) (s : State) : Host.Outcome State Fault Refusal :=
  .next ((s.atTime t).ifWindow fun s => s.grpEnWrite ch v)

/-! ### Consumer inputs: what an input registers (R300, R301) -/

/-- How many junctions that input `code` subscribes to carried an event. -/
def ChImage.arrivals (im : ChImage) (code : Nat) (carried : Word) : Nat :=
  ([0, 1, 2, 3].filter fun k =>
    let b := num im.wiring (128 + 4 * code + k) 1
    b ≥ 128 && bit carried (b % 64)).length

/-- What the junctions carried in the fabric cycle before `d`, whether or not they have carried in `d` already. -/
def Jnc.carriedBefore (j : Jnc) (d : Nat) : Word :=
  if j.carriedAt.any (· + 1 == d) then j.carried
  else if j.carriedAt == some d && j.carriedPrevAt.any (· + 1 == d) then j.carriedPrev
  else 0

/-- Arrivals of input `code` in fabric cycle `d`: what the junctions carried in the cycle before, once (R300). -/
def Chan.arrivals (c : Chan) (d code : Nat) : Nat :=
  if c.jnc.takenAt == some d && bit c.jnc.taken code then 0 else c.skn.image.arrivals code (c.jnc.carriedBefore d)

/-- Input `code` has registered in cycle `d`. -/
def Jnc.take (j : Jnc) (d code : Nat) : Jnc :=
  { j with taken := setBit (if j.takenAt = some d then j.taken else 0) code, takenAt := some d }

/-- Events that the consumer of pending counter `i` has taken in cycle `cyc`: one at most (R301). -/
def Jnc.tookIn (j : Jnc) (cyc : Nat) (i : Fin 8) : Nat := if j.lastTake[i] = some cyc then 1 else 0

/-- A countable input adds the arrivals of cycle `cyc` to its pending counter; above 15 they are lost. They come before what the
consumer takes in that cycle, so an event it has taken already still counts against the 15 (R301). -/
def Jnc.addPending (j : Jnc) (cyc : Nat) (i : Fin 8) (n : Nat) : Jnc :=
  let took := j.tookIn cyc i
  let v := j.pend[i] + took + n
  if v ≤ 15 then { j with pend := vput j.pend i (v - took) }
  else { j with pend := vput j.pend i (15 - took), lost := satInc j.lost (v - 15), events := evSet j.events JncEv.pendOvf }

/-- An ABORT of a unit in cycle `cyc` clears the arms of that cycle too, and a channel that is not CONFIGURED keeps none (R297,
R343). -/
def Chan.refusesArm (c : Chan) (cyc : Nat) (i : Fin 8) : Bool :=
  !c.configured || (decide (i.val < 4) && (vget c.tdc.units i.val {}).abortCycle == some cyc)

/-- `n` events arrive at countable input `i` in cycle `cyc` (R301, R328). -/
def Chan.arrive (c : Chan) (cyc : Nat) (i : Fin 8) (n : Nat) : Chan :=
  if c.refusesArm cyc i then c else { c with jnc := c.jnc.addPending cyc i n }

end Sys2Proof.Machine
end

