-- ==== Sys2Proof/Machine/Distaff.lean ====
section
/-! DEFINITION. The Distaff: settings, generators, data and scramble, microcode, the vector stream, starting,
stopping, pausing and issuing frames (R200 to R236). -/

namespace Sys2Proof.Machine

/-! ### Settings (R200, R237) -/

def DstSet.fb (d : DstSet) : Nat := fld d.cfg 0 4
def DstSet.bpc (d : DstSet) : Nat := fld d.cfg 8 5
def DstSet.startSrc (d : DstSet) : Nat := fld d.cfg 16 2
def DstSet.pcStart (d : DstSet) : BitVec 12 := BitVec.ofNat 12 (fld d.cfg 20 12)
def DstSet.vecBeats (d : DstSet) : Nat := fld d.vecLen 0 32
def DstSet.vecLoop (d : DstSet) : Bool := bit d.vecLen 32

/-- COUNT of the microcode (R215); 0 when the record is absent. -/
def ChImage.mcCount (im : ChImage) : Nat := num im.microcode 0 2

/-- The HALT instruction that fills the store beyond COUNT (R215). -/
def haltInstr : Word := 0x9000000000000000

/-- Instruction `i` of the microcode store; 0 without an image, which always has a LANE_MAP (R16, R79). -/
def ChImage.mcode (im : ChImage) (i : Nat) : Word :=
  if im.laneMap.isEmpty then 0
  else if i < im.mcCount then word (num im.microcode (8 + 8 * i) 8) else haltInstr

/-- Selector of lane `l` in beat `b` (R205). -/
def ChImage.selector (im : ChImage) (l b : Nat) : Nat := num im.laneMap (8 * l + b) 1

/-- Declared rate of lane `l`, in 10 Mb/s (R205). -/
def ChImage.laneRate (im : ChImage) (l : Nat) : Nat := num im.laneMap (192 + 2 * l) 2

/-- The memory-sourced lanes (R206). -/
def ChImage.memLanes (im : ChImage) : List Nat := (upTo 24).filter fun l => im.selector l 0 == 0x80

/-- Ceiling of synthesizer `s` in MHz (R272). -/
def ChImage.ceiling (im : ChImage) (s : Fin 4) : Nat := num im.ceilings (8 * s.val) 2

/-- Size of the bobbin window, 72 MB (R6, R346). -/
def bobbinBytes : Nat := 72 * 2 ^ 20

/-- Lane bit rate of `bpc` beats per cycle against a rate in units of `unit` per 512 GHz, without division: the
lane bit rate exceeds `lim` units (R203, R225). One beat per tbu is 512 Gb/s. -/
def rateAbove (bpc unitsPer512G lim pest : Nat) : Bool := decide (bpc * unitsPer512G * 65536 > lim * pest)

/-- The checks of R203, in order: the first code whose condition fails, or 0. -/
def Chan.dstCheck (c : Chan) : Byte :=
  let d := c.dst.latched
  let im := c.skn.image
  let lim := fun (w : Word) (len v : Nat) => fld w 0 len ≤ fld w 32 len && fld w 0 len ≤ v && v ≤ fld w 32 len
  let m := im.memLanes.length
  if !(1 ≤ d.fb && d.fb ≤ 8 && 1 ≤ d.bpc && d.bpc ≤ 16 && (d.bpc % d.fb == 0 || d.fb % d.bpc == 0)) then 0x01
  else if im.mcCount ≤ d.pcStart.toNat then 0x02
  else if !(lim d.xlim 20 (fld d.genInit 0 20) && lim d.ylim 20 (fld d.genInit 20 20) && lim d.blim 6 (fld d.genInit 40 6)) then
    0x03
  else if m ≠ 0 && (d.vecBeats % 512 ≠ 0 || d.vecBeats == 0 || decide (bobbinBytes < fld d.vecBase 0 27 + m * (d.vecBeats / 8))) then
    0x04
  else if rateAbove d.bpc 512000 9600 c.trk.pest || rateAbove d.bpc 512000 (im.ceiling 2) c.trk.pest
      || rateAbove d.bpc 512000 (1200 * d.fb) c.trk.pest then 0x05
  else 0

/-- The lane bit rate exceeds the lowest declared rate of the memory-sourced lanes (R225). -/
def Chan.vecRateHigh (c : Chan) : Bool :=
  c.skn.image.memLanes.any fun l => rateAbove c.dst.latched.bpc 51200 (c.skn.image.laneRate l) c.trk.pest

/-! ### Generators (R208, R209) -/

/-- A generator's value and save value, and whether it wrapped. -/
structure GenStep where
  v : Nat
  save : Nat
  wrap : Bool
  deriving DecidableEq, Repr

/-- One operation of R208 on a generator with limits `mn`, `mx` and stride `st`. -/
def genOp (op mn mx st v save : Nat) : GenStep :=
  match op with
  | 1 => if v = mx then ⟨mn, save, true⟩ else ⟨v + 1, save, false⟩
  | 2 => if v = mn then ⟨mx, save, true⟩ else ⟨v - 1, save, false⟩
  | 3 => ⟨mn, save, false⟩
  | 4 => ⟨mx, save, false⟩
  | 5 => ⟨mn + (v - mn + st) % (mx - mn + 1), save, decide (v - mn + st > mx - mn)⟩
  | 6 => ⟨v, v, false⟩
  | 7 => ⟨save, save, false⟩
  | _ => ⟨v, save, false⟩

/-- The three generators after the operations of an instruction, their wraps, and AEND (R209). -/
structure GenResult where
  x : GenStep
  y : GenStep
  b : GenStep
  aend : Bool
  deriving DecidableEq, Repr

def genStep (d : DstSet) (k : DstCore) (ins : Word) : GenResult :=
  let x := genOp (fld ins 39 3) (fld d.xlim 0 20) (fld d.xlim 32 20) (fld d.stride 0 20) k.x.toNat k.sx.toNat
  let y := genOp (fld ins 36 3) (fld d.ylim 0 20) (fld d.ylim 32 20) (fld d.stride 20 20) k.y.toNat k.sy.toNat
  let b := genOp (fld ins 33 3) (fld d.blim 0 6) (fld d.blim 32 6) (fld d.stride 40 6) k.b.toNat k.sb.toNat
  let x0 : GenStep := ⟨k.x.toNat, k.sx.toNat, false⟩
  let y0 : GenStep := ⟨k.y.toNat, k.sy.toNat, false⟩
  let b0 : GenStep := ⟨k.b.toNat, k.sb.toNat, false⟩
  match fld ins 31 2 with
  | 0 => ⟨x, y, b, x.wrap⟩
  | 1 => let y := if x.wrap then y else y0; ⟨x, y, b, y.wrap⟩
  | 2 => let x := if y.wrap then x else x0; ⟨x, y, b, x.wrap⟩
  | _ =>
    let y := if x.wrap then y else y0
    let b := if y.wrap then b else b0
    ⟨x, y, b, b.wrap⟩

/-- The core with the generators stepped. -/
def DstCore.withGens (k : DstCore) (g : GenResult) : DstCore :=
  { k with x := BitVec.ofNat 20 g.x.v, y := BitVec.ofNat 20 g.y.v, b := BitVec.ofNat 6 g.b.v
           sx := BitVec.ofNat 20 g.x.save, sy := BitVec.ofNat 20 g.y.save, sb := BitVec.ofNat 6 g.b.save }

/-! ### Data and scramble (R211 to R214) -/

/-- ASCR_X (`y` false) or ASCR_Y of entry `i`; the identity when the record is absent (R214). -/
def ChImage.ascr (im : ChImage) (y : Bool) (i : Nat) : Nat :=
  if im.scramble.isEmpty then i else num im.scramble ((if y then 2048 else 0) + 2 * i) 2

def ChImage.dtop (im : ChImage) (i : Nat) : Bool := num im.scramble (4096 + i / 8) 1 / 2 ^ (i % 8) % 2 == 1

def rep72 (b : Bool) : BitVec 72 := if b then BitVec.allOnes 72 else 0

/-- DST_BG[k] as latched, 72 bits. -/
def DstSet.bg (d : DstSet) (k : Nat) : BitVec 72 :=
  BitVec.ofNat 72 ((vget d.bgLo k 0).toNat + fld (vget d.bgHi k 0) 0 8 * 2 ^ 64)

/-- The frame an instruction emits from the values held at the start of the cycle (R210), and DREG after it. -/
def emitFrame (im : ChImage) (d : DstSet) (k : DstCore) (ins : Word) : Frame × BitVec 72 :=
  let scr := bit ins 24
  let x := if scr then k.x.toNat / 1024 * 1024 + im.ascr false (k.x.toNat % 1024) else k.x.toNat
  let y := if scr then k.y.toNat / 1024 * 1024 + im.ascr true (k.y.toNat % 1024) else k.y.toNat
  let bg := d.bg (fld ins 26 2)
  let v : BitVec 72 := match fld ins 28 3 with
    | 0 => bg
    | 1 => bg ^^^ rep72 (x % 2 != y % 2)
    | 2 => bg ^^^ rep72 (y % 2 == 1)
    | 3 => bg ^^^ rep72 (x % 2 == 1)
    | 4 => bg ^^^ BitVec.ofNat 72 (k.b.toNat * 2 ^ 40 + y * 2 ^ 20 + x)
    | 5 => k.dreg.rotateLeft 1
    | _ => k.dreg
  let dd := v ^^^ rep72 (bit ins 25) ^^^ rep72 (scr && im.dtop (y % 32 * 32 + x % 32))
  ({ x := BitVec.ofNat 20 x, y := BitVec.ofNat 20 y, b := k.b, d := dd, ctrl := BitVec.ofNat 8 (fld ins 16 8) }, v)

/-- The value a selector takes from a frame (R206); a memory-sourced beat is not one of them. -/
def Frame.select (f : Frame) (sel : Nat) : Bool :=
  if sel < 0x14 then bit f.x sel
  else if sel < 0x28 then bit f.y (sel - 0x14)
  else if sel < 0x2E then bit f.b (sel - 0x28)
  else if sel < 0x76 then bit f.d (sel - 0x2E)
  else if sel < 0x7E then bit f.ctrl (sel - 0x76)
  else sel == 0x7F

/-! ### Microcode (R217 to R220) -/

/-- What one instruction did. -/
structure InstrResult where
  core : DstCore
  frame : Frame
  /-- the Distaff halts after this frame, with its HALT_CODE -/
  halt : Option Byte
  vend : Bool
  /-- the COALESCED of this cycle's event is taken back -/
  alone : Bool
  deriving DecidableEq, Repr

/-- Loop counter preset; 0 acts as 2^32 (R220). -/
def DstSet.preset (d : DstSet) (k : Nat) : BitVec 33 :=
  let p := fld (vget d.cntPre k 0) 0 32
  BitVec.ofNat 33 (if p = 0 then 2 ^ 32 else p)

/-- The stream passes its last beat within this frame (R223). -/
def DstCore.vend (k : DstCore) (im : ChImage) (d : DstSet) : Bool :=
  !im.memLanes.isEmpty && !k.vecEnded && decide (d.vecBeats ≤ k.vecPos.toNat + d.fb)

/-- The stream position for the next frame (R223, R224). DESIGN CHOICE (log entry 83): without a memory-sourced lane it stands still,
and after the end of a stream without LOOP it stays at DST_VEC_LEN. -/
def DstCore.vecStep (k : DstCore) (im : ChImage) (d : DstSet) (vrst : Bool) : DstCore :=
  if vrst then { k with vecPos := 0, vecEnded := false }
  else if im.memLanes.isEmpty || k.vecEnded then k
  else if k.vend im d then
    if d.vecLoop then { k with vecPos := BitVec.ofNat 32 ((k.vecPos.toNat + d.fb) % d.vecBeats) }
    else { k with vecPos := BitVec.ofNat 32 d.vecBeats, vecEnded := true }
  else { k with vecPos := BitVec.ofNat 32 (k.vecPos.toNat + d.fb) }

/-- COND of R218 on the wraps the operations cause or would cause; a J latch set before fabric cycle `cyc` reads as
set (R227). -/
def condHolds (ins : Word) (g : GenResult) (vend : Bool) (k : DstCore) (cyc : Nat) : Bool :=
  match fld ins 42 4 with
  | 0 => true
  | 1 => g.aend
  | 2 => g.x.wrap
  | 3 => g.y.wrap
  | 4 => g.b.wrap
  | 5 => vend
  | n => if 8 ≤ n ∧ n < 12 then (vget k.cond (n - 8) none).any (·.since < cyc) else false

/-- The instruction tests its condition (R217): JIF, JNIF, WAIT and UNTIL. -/
def testsCond (ins : Word) : Bool := let o := fld ins 60 4; o == 3 || o == 4 || o == 7 || o == 8

/-- A set latch after a test in cycle `cyc`: cleared, but for an event of the same cycle, which stays for later tests (R219,
R233). -/
def CondLatch.tested (l : CondLatch) (cyc : Nat) : Option CondLatch := if l.last = cyc then some { since := cyc, last := cyc } else none

/-- The latch that an instruction tests and finds set, if any. -/
def DstCore.found (k : DstCore) (ins : Word) (hit : Bool) : Option CondLatch :=
  let n := fld ins 42 4
  if hit && testsCond ins && decide (8 ≤ n) && decide (n < 12) then vget k.cond (n - 8) none else none

/-- A test in fabric cycle `cyc` that finds a latch set clears it (R219). -/
def DstCore.consume (k : DstCore) (ins : Word) (hit : Bool) (cyc : Nat) : DstCore :=
  match k.found ins hit with
  | some l => { k with cond := vputN k.cond (fld ins 42 4 - 8) (l.tested cyc) }
  | none => k

/-- Execute the instruction at PC in fabric cycle `cyc` (R210 to R220). A WAIT that stays gives the same frame again (R217) but for
what R212 does to DREG in every cycle, which DSRC 5 shows (log entry 83, DEDUCED). -/
def DstCore.execute (k : DstCore) (im : ChImage) (d : DstSet) (cyc : Nat) : InstrResult :=
  let ins := im.mcode k.pc.toNat
  let opc := fld ins 60 4
  let tgt := BitVec.ofNat 12 (fld ins 48 12)
  let g := genStep d k ins
  let ve := k.vend im d
  let hit := condHolds ins g ve k cyc
  let (fr, v) := emitFrame im d k ins
  let applied := if opc = 7 then hit else opc != 9
  let k1 := if applied then k.withGens g else k
  let k2 := ({ k1 with dreg := v }).consume ins hit cyc
  let k3 := k2.vecStep im d (bit ins 13)
  let nxt := k.pc + 1
  let i := fld ins 46 2
  let done : DstCore × Option Byte := match opc with
    | 0 => ({ k3 with pc := nxt }, none)
    | 1 => ({ k3 with pc := tgt }, none)
    | 2 =>
      let c := vget k3.cnt i 0 - 1
      if c ≠ 0 then ({ k3 with cnt := vputN k3.cnt i c, pc := tgt }, none)
      else ({ k3 with cnt := vputN k3.cnt i (d.preset i), pc := nxt }, none)
    | 3 => ({ k3 with pc := if hit then tgt else nxt }, none)
    | 4 => ({ k3 with pc := if hit then nxt else tgt }, none)
    | 5 => if k3.stack.length < 4 then ({ k3 with stack := nxt :: k3.stack, pc := tgt }, none) else (k3, some 0x02)
    | 6 => match k3.stack with
      | p :: r => ({ k3 with stack := r, pc := p }, none)
      | [] => (k3, some 0x03)
    | 7 => ({ k3 with pc := if hit then nxt else k.pc }, none)
    | 8 => ({ k3 with pc := if hit then nxt else k.pc }, none)
    | _ => (k3, some 0x01)
  -- an event of this cycle that had coalesced with the latch this test clears stands alone after it (R233)
  { core := done.1, frame := fr, halt := done.2, vend := ve, alone := (k.found ins hit).any fun l => l.last == cyc && l.fresh }

/-! ### Starting, stopping, pausing (R226 to R230) -/

/-- Round a position up to an integer position. -/
def roundUpPos (p : Word) : Word :=
  if fld p 0 24 = 0 then p else cyclePos (posInt p + 1)

/-- The lowest integer position not yet committed under R43 (R226). -/
def Tracker.nextFree (k : Tracker) : Word :=
  if k.pest = 0 then k.edgePos else cyclePos (k.n + BitVec.ofNat 40 (ceilDiv (leadTbu * 65536 + k.pest) k.pest))

/-- The core at the start of a run (R207, R212, R220). DESIGN CHOICE (log entry 82): the condition latches J0 to J3 are clear, so that
events before the run are lost (R219). -/
def DstSet.initCore (d : DstSet) : DstCore :=
  { pc := d.pcStart
    x := BitVec.ofNat 20 (fld d.genInit 0 20), y := BitVec.ofNat 20 (fld d.genInit 20 20), b := BitVec.ofNat 6 (fld d.genInit 40 6)
    sx := BitVec.ofNat 20 (fld d.genInit 0 20), sy := BitVec.ofNat 20 (fld d.genInit 20 20)
    sb := BitVec.ofNat 6 (fld d.genInit 40 6)
    dreg := d.bg 0
    cnt := #v[d.preset 0, d.preset 1, d.preset 2, d.preset 3] }

/-- Enter HALTED with a code (R217, R220, R228, R230). -/
def Dst.halt (d : Dst) (code : Byte) : Dst :=
  { d with state := .halted, haltCode := code, events := evSet d.events DstEv.halted }

/-- Start a run at integer position `pos` in fabric cycle `cyc`, after the checks of R203; a STOP of the same cycle
wins, whether it came before or comes after (R228). Such a start still records S, sets STARTED and clears DST_FRAMES (log entry 83,
DESIGN CHOICE). -/
def Chan.dstStart (c : Chan) (cyc : Nat) (pos : Word) : Chan :=
  let d := c.dst
  let code := c.dstCheck
  if code ≠ 0 then
    { c with dst := { d with state := .refused, check := code, events := evSet d.events DstEv.checkFail } }
  else
    let d := { d with
      check := 0, runPos := pos, frame := 0, frames := 0, fresh := true, issued := [], driven := [], plan := []
      core := d.latched.initCore, startCycle := some cyc, pcBefore := d.pcIssued, lowFrom := none
      laneCut := { d.laneCut with run := none }, shortCut := { d.shortCut with run := none }
      events := evIf c.vecRateHigh (evSet d.events DstEv.started) DstEv.vecRate }
    { c with dst := if d.stopCycle = some cyc then d.halt 0x04 else { d with state := .running } }

/-- DST.START or DST_CTRL.GO (`src` 1 or 2) in fabric cycle `cyc`: it starts a run in WAITING, with the channel in
RUN and START_SRC naming the source, and is ignored otherwise (R226, R233). -/
def Chan.dstGo (c : Chan) (cyc src : Nat) : Chan :=
  if c.dst.state = .waiting ∧ c.mod.state = .run ∧ c.dst.latched.startSrc = src then c.dstStart cyc c.trk.nextFree
  else { c with dst := { c.dst with events := evSet c.dst.events DstEv.ignored } }

/-- The instants that come before the end of the hand-over window of fabric cycle `cyc`: their frames are issued in it at the
latest (R227). -/
def issueEnd (cyc : Nat) : Q16 := q16 ((cyc + 1) * cycleTbu + leadTbu)

/-! ### The lane clock (R201, R202, R231) -/

/-- The first fabric cycle at or after an instant (R46, R198, R234). -/
def cycleAtOrAfter (i : Q16) : Nat := ((i + (cycleTbu * 65536 - 1 : Nat)) / (cycleTbu * 65536 : Nat)).toNat

/-- The qualified edge at or before instant `x`, with the edge after it; `next` is the edge after the first of the list. -/
def edgeAt (x : Q16) : Option EdgeRec → List EdgeRec → Option (EdgeRec × Option EdgeRec)
  | _, [] => none
  | next, h :: r => if h.e * 65536 ≤ x then some (h, next) else edgeAt x (some h) r

/-- The qualified edge at position `p`, with the edge after it. -/
def edgeOf (p : Word) : Option EdgeRec → List EdgeRec → Option (EdgeRec × Option EdgeRec)
  | _, [] => none
  | next, h :: r => if h.pos = p then some (h, next) else edgeOf p (some h) r

/-- The time that the lane clock takes for a PACE cycle, 16 fractional bits: that from edge to edge, P_est while the edge after it
is awaited, and P_est as it stood where PACE stopped (R201, R40). -/
def Tracker.laneCycle (k : Tracker) (h : EdgeRec) (next : Option EdgeRec) : Nat :=
  match h.stop, next with
  | some (p, _), _ => p
  | none, some n => (n.e - h.e).toNat * 65536
  | none, none => k.pest

/-- Beats in a PACE cycle as latched. -/
def Dst.beats (d : Dst) : Nat := max 1 d.latched.bpc

/-- The lane clock at instant `x`, counted in beats from DST_RUN_POS: the beat being driven, and how many are over. A beat that
begins at an edge waits for it; the one before it is over once its own time is (R201, R202). -/
def Chan.laneBeatAt (c : Chan) (x : Q16) : Option (Int × Int) :=
  (edgeAt x none c.trk.hist).map fun (h, next) =>
    let n := c.dst.beats
    let len := c.trk.laneCycle h next
    let from' := posDiff h.pos c.dst.runPos / (2 ^ 24 : Nat) * n
    let k : Int := if len = 0 then n else (x - h.e * 65536) * n / len
    (from' + min k (n - 1), from' + min k n)

/-- Instant at which `k` beats of the PACE cycle of beat `j` are over by the lane clock; `x` where that cycle has no edge. -/
def Chan.beatInst (c : Chan) (j k : Nat) (x : Q16) : Q16 :=
  match edgeOf (c.dst.runPos + cyclePos (BitVec.ofNat 40 (j / c.dst.beats))) none c.trk.hist with
  | some (h, next) => h.e * 65536 + ((k * c.trk.laneCycle h next / c.dst.beats : Nat) : Int)
  | none => x

/-- Instants at which beat `j` begins and ends. -/
def Chan.beatStart (c : Chan) (j : Nat) (x : Q16) : Q16 := c.beatInst j (j % c.dst.beats) x
def Chan.beatEnd (c : Chan) (j : Nat) (x : Q16) : Q16 := c.beatInst j (j % c.dst.beats + 1) x

/-! ### Frames on the lanes (R206, R229, R231, R232, R235) -/

/-- The active synthesizer of the lane pair. -/
def Syn.laneActive (y : Syn) : Fin 4 := if y.l.second then 3 else 2

/-- The lane synthesizer in use drives its output. -/
def Chan.laneGate (c : Chan) : Bool := (c.syn.synths[c.syn.laneActive]).gate

/-- Position of the first beat of frame `f` counted from DST_RUN_POS (R202). -/
def Dst.framePos (d : Dst) (f : Nat) : Word :=
  d.runPos + word (f * d.latched.fb * 2 ^ 24 / (max 1 d.latched.bpc))

/-- First beat of a frame, counted from DST_RUN_POS (R202). -/
def Issued.first (i : Issued) (fb : Nat) : Nat := i.index * fb

/-- A frame while beat `cur` is driven: once its first beat has come it takes the lane settings of that beat (R235), and it is
lost when the lane synthesizer gates its output (R232). -/
def Chan.dstMark (c : Chan) (cur : Int) (i : Issued) : Issued :=
  if (i.first c.dst.latched.fb : Int) ≤ cur then
    { i with begun := true, cfg := some (i.cfg.getD c.dst.laneCfg), lost := i.lost || !c.laneGate }
  else i

/-- What a frame publishes at its first beat (R234). -/
def Chan.framePublish (x : Q16) (c : Chan) (i : Issued) : Chan :=
  i.evs.foldl (fun c e => c.publish (cycleAtOrAfter (c.beatStart (i.first c.dst.latched.fb) x)) e) c

/-- The last beat of a frame is over: a halting one takes a running Distaff to HALTED, and publishes DST.HALT (R217, R220,
R234). -/
def Chan.frameOver (x : Q16) (c : Chan) (i : Issued) : Chan :=
  match i.halt with
  | some code =>
    let c := if c.dst.state = .running then { c with dst := c.dst.halt code } else c
    c.publish (cycleAtOrAfter (c.beatEnd (i.first c.dst.latched.fb + c.dst.latched.fb - 1) x)) Prod.halt
  | none => c

/-- How many frames driven are kept for the lanes' delays. -/
def drivenKept : Nat := 1024

/-- Frame `i` of a run, driven from `a` to `b`, is kept from the lanes: it goes on with the frame before it, or begins a run of its
own (R477). -/
def FrameGap.add (g : FrameGap) (i : Nat) (a b : Q16) : FrameGap :=
  let a := match g.run with
    | some (n, s) => if n = i then s else max g.clip a
    | none => max g.clip a
  { g with run := some (i + 1, a), longest := max g.longest (b - a) }

/-- The frames `l` are kept from the lanes by a fault; one whose PACE cycle has no edge yet ends as predicted. -/
def Chan.cutTo (c : Chan) (g : FrameGap) (l : List Issued) : FrameGap :=
  let fb := c.dst.latched.fb
  l.foldl (fun g i =>
    let x := fun (k : Nat) => c.trk.instantOf (c.dst.framePos (i.index + k))
    g.add i.index (c.beatStart (i.first fb) (x 0)) (c.beatEnd (i.first fb + fb - 1) (x 1))) g

/-- Some lane of `ls` is enabled in a frame (R235). -/
def Chan.driven (c : Chan) (ls : List Nat) (i : Issued) : Bool :=
  ls.any fun l => bit (vget (i.cfg.getD c.dst.laneCfg) l 0) 0

/-- The lost frames of `l` that some enabled lane misses, and those underrun for a lost bobbin device that an enabled memory-sourced
lane misses (R232, R477, R480). -/
def Chan.lostOf (c : Chan) (l : List Issued) : List Issued := l.filter fun i => i.begun && i.lost && c.driven (upTo 24) i
def Chan.shortOf (c : Chan) (l : List Issued) : List Issued := l.filter fun i => i.short && c.driven c.skn.image.memLanes i

/-- The lanes have come to instant `x` of the lane clock: frames whose first beat has come publish their events, and those whose
last beat is over are counted, as driven or as lost (R232, R234, R237). -/
def Chan.dstRun (c : Chan) (x : Q16) : Chan :=
  match c.laneBeatAt x with
  | none => c
  | some (cur, ended) =>
    let fb := c.dst.latched.fb
    let new := c.dst.issued.filter fun i => !i.begun && decide ((i.first fb : Int) ≤ cur)
    let l := c.dst.issued.map (c.dstMark cur)
    let done := fun (i : Issued) => i.begun && decide (((i.first fb + fb : Nat) : Int) ≤ ended)
    let past := l.filter done
    let gaps := (past.filter (·.lost)).length
    let c := new.foldl (Chan.framePublish x) c
    let c := { c with dst := { c.dst with
      issued := l.filter fun i => !done i
      driven := (past.reverse ++ c.dst.driven).take drivenKept
      frames := c.dst.frames + word (past.length - gaps)
      lostGap := satInc c.dst.lostGap gaps
      laneCut := c.cutTo c.dst.laneCut (c.lostOf past)
      shortCut := c.cutTo c.dst.shortCut (c.shortOf past)
      events := evIf (0 < gaps) c.dst.events DstEv.laneGap } }
    past.foldl (Chan.frameOver x) c

/-- The boundary of a hold has come: a running Distaff goes back to the state before the first frame that was not driven in full,
and those after it are discarded (R229). -/
def Dst.paused (d : Dst) : Dst :=
  let d' := { d with pauseAt := none, issued := [], plan := [] }
  if d.state = .running then
    match d.issued with
    | i :: _ => { d' with state := .paused, core := i.core, frame := i.index, fresh := i.fresh && !i.begun }
    | [] => { d' with state := .paused }
  else d'

/-- The Distaff and its lanes have come to instant `x`, past the boundary of a hold where it lies before. -/
def Chan.dstReach (c : Chan) (x : Q16) : Chan :=
  match c.dst.pauseAt with
  | some b =>
    if b ≤ x then
      let c := c.dstRun b
      { c with dst := c.dst.paused }
    else c.dstRun x
  | none => c.dstRun x

/-- The beginning of the fabric cycle that holds an instant. -/
def cycleBegin (x : Q16) : Q16 := x / (cycleTbu * 65536 : Nat) * (cycleTbu * 65536 : Nat)

/-- As `dstReach` in two steps. Bits of DST_EVENTS that the lanes set before the fabric cycle of `x` are none of its own, so that a
host write in it clears them (R9, R10). Whatever changes the lane settings, the gate or the run calls this first. -/
def Chan.dstTo (c : Chan) (x : Q16) : Chan :=
  let d := c.dstReach (cycleBegin x - 1)
  ({ d with dst := { d.dst with events := { c.dst.events with bits := d.dst.events.bits } } } : Chan).dstReach x

/-- The Distaff as it stood before its run began to issue: a start that a STOP of its cycle beats issues no frame (R228). -/
def Dst.unissued (d : Dst) : Dst :=
  { d with issued := [], plan := [], core := d.latched.initCore, frame := 0, fresh := true, pcIssued := d.pcBefore }

/-- A STOP in fabric cycle `cyc` (R228, R233). The frames due in that cycle are still issued, since the stop is visible after it only
(R227), unless the run starts in it. An idle Distaff stays IDLE (log entry 83, DESIGN CHOICE) and notes the cycle, in which a start may
still come. Frames committed and not issued keep their places among the committed events (log entry 51, DESIGN CHOICE). -/
def Dst.stop (d : Dst) (cyc : Nat) : Dst :=
  let d' := if d.startCycle = some cyc then d.unissued else { d with plan := d.plan.takeWhile fun x => decide (x < issueEnd cyc) }
  match d.state with
  | .waiting | .running | .paused => ({ d' with stopCycle := some cyc } : Dst).halt 0x04
  | .idle => { d with stopCycle := some cyc }
  | _ => d

/-- DST.STOP or DST_CTRL.STOP in fabric cycle `cyc`: a frame that halts the Distaff may have been driven by then (R217, R228). -/
def Chan.dstStop (c : Chan) (cyc : Nat) : Chan :=
  let c := c.dstTo (q16 (cyc * cycleTbu))
  { c with dst := c.dst.stop cyc }

/-- What a frame drives on lane `l` in beat `b`, none being the differential low (R206, R223, R225, R235): POL inverts driven data
and not the differential low. -/
def ChImage.laneBeat (im : ChImage) (i : Issued) (l : Fin 24) (b : Nat) : Option Bool :=
  let cfg := (i.cfg.map fun v => v[l]).getD 0
  let sel := im.selector l.val b
  if !bit cfg 0 || i.lost then none
  else if sel = 0x80 then
    if i.memBeats ≤ b then none
    else some (((i.vec.getD (im.memLanes.idxOf l.val) 0) / 2 ^ b % 2 == 1) != bit cfg 1)
  else some (i.frame.select sel != bit cfg 1)

/-- DST_LANE_SKEW, DST_LANE_TRACK and DST_LANE_DELAY as latched, in tbu (R231). -/
def Chan.laneShift (c : Chan) (l : Fin 24) : Int := c.cal.skew (10 + l.val) + c.dst.laneTrack[l] + sfld (c.dst.latched.laneDelay[l]) 0 16

/-- The frame that holds beat `j` of the run, where one has been issued. -/
def Dst.frameOf (d : Dst) (j : Int) : Option Issued :=
  (d.issued ++ d.driven).find? fun i => decide ((i.first d.latched.fb : Int) ≤ j) && decide (j < ((i.first d.latched.fb + d.latched.fb : Nat) : Int))

/-- Level of lane `l` in beat `j` of the run; false where it is differential low. -/
def Chan.beatLevel (c : Chan) (l : Fin 24) (j : Int) : Bool :=
  match c.dst.frameOf j with
  | some i => ((c.skn.image.laneBeat (c.dstMark (max j (i.first c.dst.latched.fb)) i) l (j - i.first c.dst.latched.fb).toNat)).getD false
  | none => false

/-- The beat that lane `l` shows at its connector at instant `x`: that of the lane clock, moved by the lane's skews (R231); none
while the lanes are differential low whatever was issued. -/
def Chan.laneBeatNow (c : Chan) (l : Fin 24) (x : Q16) : Option Int :=
  let y := x - c.laneShift l * 65536
  if c.dst.lowFrom.any fun b => decide (b ≤ y) then none else (c.laneBeatAt y).map (·.1)

/-- Level of lane `l` at its connector at instant `x`; false is differential low (R206, R231, R232, R235). -/
def Chan.laneAt (c : Chan) (l : Fin 24) (x : Q16) : Bool := (c.laneBeatNow l x).any fun j => c.beatLevel l j

/-- SWING of a lane in mV and EMPH in dB, as of the frame driven (R235). -/
def laneSwing (cfg : Word) : Nat := 200 * (fld cfg 2 2 + 1)
def laneEmph (cfg : Word) : Nat := 2 * fld cfg 4 2

/-- How a lane is driven: its level, its differential amplitude in mV peak-to-peak, and the dB by which a repeated bit lies below
it (R504). -/
structure LaneDrive where
  high : Bool
  swing : Nat
  below : Nat
  deriving DecidableEq, Repr

/-- How lane `l` is driven at instant `x`: a transition bit at the full SWING, a bit equal to the one before it reduced by EMPH;
the steady differential low is a repeated low (R504). -/
def Chan.laneDrive (c : Chan) (l : Fin 24) (x : Q16) : LaneDrive :=
  match c.laneBeatNow l x with
  | some j =>
    let cfg := ((c.dst.frameOf j).bind fun i => i.cfg.map fun v => v[l]).getD c.dst.laneCfg[l]
    let v := c.beatLevel l j
    { high := v, swing := laneSwing cfg, below := if v = c.beatLevel l (j - 1) then laneEmph cfg else 0 }
  | none => { high := false, swing := laneSwing c.dst.laneCfg[l], below := laneEmph c.dst.laneCfg[l] }

/-- Frames whose positions are committed and which are not to be issued any more leave the committed events, `n` of them still
to be issued. -/
def Chan.cutFrames (c : Chan) (n : Nat) : Chan :=
  let p := c.dst.framePos (c.dst.frame + n)
  { c with
    trk := { c.trk with committed := c.trk.committed.filter fun e => e.kind != .frame || decide (posDiff e.pos p < 0) }
    dst := { c.dst with plan := c.dst.plan.take n } }

/-- DRAIN: the Distaff stops issuing; the frame in flight at instant `now` ends, and those after it are not driven (R127 step 2,
R230). -/
def Chan.dstDrain (c : Chan) (now : Tbu) : Chan :=
  let c := (c.dstTo (q16 now)).cutFrames 0
  let d := { c.dst with issued := c.dst.issued.filter (·.begun), pauseAt := none }
  { c with dst := match d.state with
      | .waiting | .running | .paused => d.halt 0x05
      | _ => d }

/-- The Distaff at REST (R230). -/
def Chan.dstRest (c : Chan) (now : Tbu) : Chan :=
  let c := c.dstTo (q16 now)
  { c with dst := { c.dst with state := .idle, lowFrom := some (q16 now), issued := [], plan := [], pauseAt := none } }

/-- An accepted ARM latches the settings and reloads the Distaff (R204, R230). -/
def Chan.dstArm (c : Chan) : Chan :=
  { c with dst := { c.dst with latched := c.dst.set, state := .idle, haltCode := 0, check := 0
                               core := c.dst.set.initCore, issued := [], plan := [], frame := 0, fresh := false, pauseAt := none } }

/-- A halting frame has been issued: no frame follows it (R217, R220). -/
def Dst.ending (d : Dst) : Bool := d.issued.any (·.halt.isSome)

/-- The position of the next frame of a run not yet committed is committed, where the last edge reaches it: it takes its place among
the committed events, and its predicted instant is fixed (R43, R44, R227). At a hold only frames due before the boundary are
(R229). -/
def Chan.planFrame (c : Chan) : Option Chan :=
  let d := c.dst
  let p := d.framePos (d.frame + d.plan.length)
  let own := c.trk.instantOf p
  let x := c.trk.plannedAt p own
  if d.state == .running && !d.ending && c.trk.state == .locked && c.trk.due p && d.pauseAt.all fun b => decide (x < b) then
    some { c with
      dst := { d with plan := d.plan ++ [x] }
      trk := { c.trk with committed := insertCommitted c.trk.edgePos { kind := .frame, pos := p, inst := own } c.trk.committed } }
  else none

/-- Commit the positions of every frame the last edge reaches, at most `n`. -/
def Chan.planFrames (c : Chan) : Nat → Chan
  | 0 => c
  | n + 1 =>
    match c.planFrame with
    | some c' => c'.planFrames n
    | none => c

/-- At most this many frames are committed at one edge. -/
def frameFuel : Nat := 1024

/-- What the Distaff does as the channel enters RUN at start position `pos` (R226, R229): from ARMED it starts or
waits by START_SRC; a PAUSED one runs again from the resume position. -/
def Chan.dstRunEntry (c : Chan) (cyc : Nat) (pos : Word) : Chan :=
  let c := c.dstTo (c.dst.pauseAt.getD (q16 (cyc * cycleTbu)))
  match c.dst.state with
  | .idle =>
    match c.dst.latched.startSrc with
    | 0 => (c.dstStart cyc (roundUpPos pos)).planFrames frameFuel
    | 1 | 2 => { c with dst := { c.dst with state := .waiting } }
    | _ => c
  | .paused =>
    ({ c with dst := { c.dst with
        state := .running, runPos := roundUpPos pos, frame := 0, issued := [], driven := [], plan := [], lowFrom := none
        laneCut := { c.dst.laneCut with run := none }, shortCut := { c.dst.shortCut with run := none }
        events := evIf c.vecRateHigh c.dst.events DstEv.vecRate } } : Chan).planFrames frameFuel
  | _ => c

/-- The Distaff at a qualified edge at instant `e`: the lanes have come to it, positions are committed, and a PACE_STEP of a run,
paused or not, that takes the lane bit rate above a declared rate is flagged (R225, R227). -/
def Chan.dstEdge (c : Chan) (e : Int) (step : Bool) : Chan :=
  let c := c.dstTo (e * 65536)
  let high := step && (c.dst.state == .running || c.dst.state == .paused) && c.vecRateHigh
  ({ c with dst := { c.dst with events := evIf high c.dst.events DstEv.vecRate } } : Chan).planFrames frameFuel

/-- The channel enters HELD at boundary `b`: the lanes go low there, frames due before it are still issued, and the Distaff pauses
once it has come (R116, R229). -/
def Chan.dstPause (c : Chan) (now : Tbu) (b : Q16) : Chan :=
  let c := c.dstTo (q16 now)
  let c := c.cutFrames (c.dst.plan.takeWhile fun x => decide (x < b)).length
  ({ c with dst := { c.dst with pauseAt := some b, lowFrom := some b } } : Chan).dstTo (q16 now)

/-! ### The vector stream of a frame (R222, R223, R351) -/

/-- Bytes of a creel (R6). -/
def creelBytes : Nat := 2 ^ 34

/-- Pinned lines (R347). -/
def Mem.pin (m : Mem) : Nat := min 17920 (fld m.bobCfg 0 15)

/-- Creel address of window offset `off` of a pinned line (R348). -/
def Mem.backing (m : Mem) (off : Nat) : Nat := (fld m.bobBack 12 22 * 4096 + off) % creelBytes

/-- Stream position of beat `j` of the next frame; none past the end of a stream without LOOP. -/
def Dst.vecBeat (d : Dst) (j : Nat) : Option Nat :=
  let p := d.core.vecPos.toNat + j
  if d.core.vecEnded then none
  else if p < d.latched.vecBeats then some p
  else if d.latched.vecLoop then some (p % max 1 d.latched.vecBeats) else none

/-- Window offset of the byte that holds beat `p` of stream `m`. -/
def Dst.vecByte (d : Dst) (m p : Nat) : Nat := fld d.latched.vecBase 0 27 + m * (d.latched.vecBeats / 8) + p / 8

/-- Beat `p` of stream `m`: a bit of a pinned line, or 0 from a line at or above PIN (R351). -/
def Chan.vecBit (c : Chan) (m p : Nat) : Bool :=
  let off := c.dst.vecByte m p
  decide (off / 4096 < c.mem.pin) && (readByte c.mem.data (c.mem.backing off)).toNat / 2 ^ (p % 8) % 2 == 1

/-- The beats of the next frame on the memory-sourced lanes. -/
def Chan.vecFrame (c : Chan) : List Nat :=
  (upTo c.skn.image.memLanes.length).map fun m => ((upTo c.dst.latched.fb).filter fun j => match c.dst.vecBeat j with
    | some p => c.vecBit m p
    | none => false).foldl (fun a j => a + 2 ^ j) 0

/-- How many beats of the next frame the streams have; from there on the memory-sourced lanes are differential low (R223). -/
def Dst.vecCount (d : Dst) : Nat := ((upTo d.latched.fb).filter fun j => (d.vecBeat j).isSome).length

/-- The next frame reads a vector from a line at or above PIN. -/
def Chan.vecInCache (c : Chan) : Bool :=
  (upTo c.skn.image.memLanes.length).any fun m => (upTo c.dst.latched.fb).any fun j => match c.dst.vecBeat j with
    | some p => decide (c.mem.pin ≤ c.dst.vecByte m p / 4096)
    | none => false

/-- Beats of every stream that the Distaff keeps in its head buffer (R224). -/
def headBeats : Nat := 4096

/-- The next frame needs a beat of the stream beyond the head buffer. -/
def Chan.vecStore (c : Chan) : Bool := (upTo c.dst.latched.fb).any fun j => (c.dst.vecBeat j).any fun p => decide (headBeats ≤ p)

/-- The sustained rate of the creel by grade, and the weight of REFILL among the ports, make its share, in units of 10 Mb/s
(R368, R383). -/
def Mem.refillShare (m : Mem) : Nat := if m.grade = 0 then 9600 else if m.grade = 1 then 8400 else 7200

/-- The declared rates of the memory-sourced lanes together, in units of 10 Mb/s (R207). -/
def ChImage.laneDemand (im : ChImage) : Nat := (im.memLanes.map im.laneRate).foldl (· + ·) 0

/-- Delivery of the vector streams is not guaranteed: a lane runs above its declared rate (R225), or in creel-direct play the
declared rates pass what the REFILL share leaves to them (R384). -/
def Chan.vecShort (c : Chan) : Bool :=
  c.vecRateHigh || (c.mem.degraded && decide (c.mem.refillShare - 3200 < c.skn.image.laneDemand))

/-- The stream data of the next frame has not arrived: it lies beyond the head buffer, and `ready` is false where delivery is
not guaranteed, a bobbin device has just been lost, or creel-direct reads fail (R224, R225, R384, R385). -/
def Chan.vecLate (c : Chan) (ready : Bool) : Bool :=
  !c.skn.image.memLanes.isEmpty && !c.dst.core.vecEnded && c.vecStore
    && ((!ready && c.vecShort) || c.mem.bobLostAt.isSome || (c.mem.degraded && c.mem.creel == .lost))

/-- A vector read from a line at or above PIN is flagged (R351). -/
def Chan.vecNote (c : Chan) (ready : Bool) : Chan :=
  { c with mem := { c.mem with events := evIf (!c.vecLate ready && c.vecInCache) c.mem.events MemEv.vecCache } }

/-- A burst reaches the creel controller at port `p` (R368). -/
def Mem.enqueue (m : Mem) (p : Fin 4) (use : ReqUse) (addr : Nat) (now : Tbu) : Mem :=
  { m with reqs := m.reqs ++ [{ port := p, write := use == .write, addr := addr / 64 * 64, arrived := now, use := use }] }

/-- The creel bursts that the vector streams enter with the next frame, beyond the head buffer (R384). -/
def Chan.vecBursts (c : Chan) : List Nat :=
  (upTo c.skn.image.memLanes.length).flatMap fun m => (upTo c.dst.latched.fb).filterMap fun j => match c.dst.vecBeat j with
    | some p =>
      let off := c.dst.vecByte m p
      if headBeats ≤ p ∧ off / 4096 < c.mem.pin ∧ (p = headBeats ∨ (off % 64 = 0 ∧ p % 8 = 0)) then some (c.mem.backing off) else none
    | none => none

/-- In creel-direct play the vector reads of the next frame go through the REFILL port (R384). -/
def Chan.vecDirect (c : Chan) (now : Tbu) : Chan :=
  if c.mem.degraded && !c.dst.core.vecEnded then
    { c with mem := c.vecBursts.foldl (fun m a => m.enqueue 0 .direct a now) c.mem }
  else c

/-! ### Issuing a frame (R227) -/

/-- The next frame may be issued in fabric cycle `cyc`: its position is committed, and the cycle that begins 24 ns
before its predicted instant has come; a stop or a start by DST.START or GO is not visible in its own cycle, and nothing follows a
halting frame (R217, R227). -/
def Chan.frameReady (c : Chan) (cyc : Nat) : Bool :=
  (c.dst.state == .running || (c.dst.state == .halted && c.dst.haltCode == 0x04 && c.dst.stopCycle == some cyc)) && !c.dst.ending
    && (c.dst.startCycle != some cyc || c.dst.latched.startSrc == 0)
    && (c.mod.state == .run || c.dst.pauseAt.isSome) && (c.dst.plan.head?).any fun x => decide (x < issueEnd cyc)

/-- COALESCED set by an event that the cycle's test left alone is taken back (R233). -/
def Sticky.drop (e : Sticky) (k : Nat) : Sticky := { e with bits := clrBit e.bits k }

/-- What a frame publishes at its first beat: FRAME0, EV0, EV1, VEC_END and VEC_UNDER (R234). -/
def frameEvs (fresh vend under : Bool) (ins : Word) : List Nat :=
  (if fresh then [Prod.frame0] else []) ++ (if bit ins 14 then [Prod.ev0] else []) ++ (if bit ins 15 then [Prod.ev1] else [])
    ++ (if vend then [Prod.vecEnd] else []) ++ (if under then [Prod.vecUnder] else [])

/-- Issue the next frame; `ready` says that its stream data has arrived (R217, R223, R225, R234). Its beats, and with them what it
publishes, come with the lane clock (R227). -/
def Chan.issueFrame (c : Chan) (cyc : Nat) (ready : Bool) : Chan :=
  let d := c.dst
  let im := c.skn.image
  let r := d.core.execute im d.latched cyc
  let under := c.vecLate ready
  { c with dst := { d with
    core := r.core
    pcIssued := d.core.pc
    frame := d.frame + 1
    plan := d.plan.tail
    fresh := false
    under := if under then satInc d.under else d.under
    issued := d.issued ++
      [{ index := d.frame, core := d.core, fresh := d.fresh, frame := r.frame
         vec := if under then [] else c.vecFrame, memBeats := if under then 0 else d.vecCount, short := under && c.mem.bobLostAt.isSome
         evs := frameEvs d.fresh r.vend under (im.mcode d.core.pc.toNat), halt := r.halt }]
    events := evIf under (if r.alone then d.events.drop DstEv.coalesced else d.events) DstEv.vecUnder } }

/-- The next frame is issued in fabric cycle `cyc` at instant `now`, where it is ready once the lanes have come to that cycle: no
frame follows a halting one driven by then, or a hold's boundary that has come (R217, R227, R229). -/
def Chan.nextFrame (c : Chan) (cyc : Nat) (now : Tbu) (ready : Bool) : Chan :=
  let c := c.dstTo (q16 (cyc * cycleTbu))
  if c.frameReady cyc then ((c.vecNote ready).vecDirect now).issueFrame cyc ready else c

/-- FRAME_ISSUE (R227). -/
def execFrameIssue (t : Tbu) (ch : ChanId) (dataReady : Bool) (s : State) : Host.Outcome State Fault Refusal :=
  let s := s.atTime t
  .next (s.modCh ch fun c => c.nextFrame s.cycle s.now dataReady)

/-- GO (R226): a write of DST_CTRL.GO. -/
def execGo (t : Tbu) (ch : ChanId) (s : State) : Host.Outcome State Fault Refusal :=
  .next ((s.atTime t).ifWindow fun s => s.modCh ch fun c => c.dstGo s.cycle 2)

/-- DST_STOP (R228): a write of DST_CTRL.STOP. -/
def execDstStop (t : Tbu) (ch : ChanId) (s : State) : Host.Outcome State Fault Refusal :=
  .next ((s.atTime t).ifWindow fun s => s.modCh ch fun c => c.dstStop s.cycle)

/-! ### The carry of a fabric cycle -/

/-- Fabric cycle `d` of a channel that has not carried in it yet, with the events of the Distaff's frames up to it (R234). -/
def Chan.carryNow (c : Chan) (d : Nat) : Chan := (c.dstTo (q16 (d * cycleTbu))).carry d

/-- JNC_LUT_OUT as a read of cycle `d` captures it at the end of that cycle; `on` says that the fabric carries events (R318). -/
def Chan.lutOutIn (c : Chan) (on : Bool) (d : Nat) : BitVec 16 :=
  if c.jnc.carriedAt = some d then c.jnc.lutOut else if on then (c.carryNow d).jnc.lutOut else 0

/-- JUNCTION_CARRY (R296): the present fabric cycle of channel `ch`, once, with the events of the Distaff's frames up to it
(R234); where the fabric carries nothing, R297 holds. -/
def execJunctionCarry (t : Tbu) (ch : ChanId) (s : State) : Host.Outcome State Fault Refusal :=
  let s := s.atTime t
  .next (if !s.fabricOn ch then s.modCh ch Chan.fabricStop
    else if (s.ch ch).jnc.carriedAt = some s.cycle then s
    else s.modCh ch fun x => x.carryNow s.cycle)

/-! ### Lane deskew (R236, R470) -/

/-- One 1 µs interval of the lane deskew loop that ends at `now`: `early` and `late` count the transitions that came before and
after the beat boundary; a majority of early ones moves the lane later (log entry 9), by one step in 1 µs at most (R236). -/
def Chan.deskew (c : Chan) (lane : Fin 24) (early late : Nat) (now : Tbu) : Chan :=
  let d := c.dst
  let n := early + late
  if bit c.cal.loopCfg 0 && c.mod.state == .run && bit d.laneCfg[lane] 0 && !bit d.trackStop lane.val && decide (64 ≤ n) then
    let dir : Int := if 4 * early ≥ 3 * n then 1 else if 4 * late ≥ 3 * n then -1 else 0
    let dir := if d.trackAt[lane].all fun a => decide (a + us ≤ now) then dir else 0
    let v := d.laneTrack[lane] + dir
    let lim := decide (v.natAbs ≥ 256)
    { c with dst := { d with
        laneTrack := vput d.laneTrack lane v
        trackAt := if dir = 0 then d.trackAt else vput d.trackAt lane (some now)
        trackStop := if lim then setBit d.trackStop lane.val else d.trackStop
        events := evIf lim d.events DstEv.trackLimit } }
  else c

/-- LANE_DESKEW_INTERVAL (R470). -/
def execLaneDeskewInterval (t : Tbu) (ch : ChanId) (lane : Fin 24) (early late : Nat) (s : State) :
    Host.Outcome State Fault Refusal :=
  let s := s.atTime t
  .next (s.modCh ch fun c => c.deskew lane early late s.now)

end Sys2Proof.Machine
end

