-- ==== Sys2Proof/Machine/Analog.lean ====
section
/-! DEFINITION. Waveform range, level outputs, load strobes, isolation switches and the monitor (R238 to R267). -/

namespace Sys2Proof.Machine

/-- Bit `g` of CH_LOCKS locks the channel's lock group `g` (R97, R98). -/
def Chan.locked (c : Chan) (g : Nat) : Bool := c.configured && bit c.skn.locks g

/-- The 0 V code (R244). -/
def zeroCode : Nat := 0x38E4

/-- Rest code of LVLk as the image gives it, 0x38E4 without a REST_LEVELS record (R245, R246). -/
def ChImage.restCode (im : ChImage) (k : Nat) : Nat := if im.restLevels.isEmpty then zeroCode else num im.restLevels (8 * k) 2

/-- LO and HI limits of LVLk as the image gives them (R246). -/
def ChImage.limLo (im : ChImage) (k : Nat) : Nat := if im.restLevels.isEmpty then 0 else num im.restLevels (8 * k + 2) 2
def ChImage.limHi (im : ChImage) (k : Nat) : Nat := if im.restLevels.isEmpty then 0xFFFF else num im.restLevels (8 * k + 4) 2

/-- The four rest codes in the format of ANA_LVL_STAGE. -/
def ChImage.restWord (im : ChImage) : Word :=
  pack [(im.restCode 0, 0), (im.restCode 1, 16), (im.restCode 2, 32), (im.restCode 3, 48)]

/-! ### Range changes (R241 to R243) -/

/-- The range a RANGE value selects; 3 acts as 0 (R238). -/
def rangeOf (w : Word) : BitVec 2 := if fld w 0 2 = 3 then 0 else BitVec.ofNat 2 (fld w 0 2)

/-- A range-change sequence may run in this state (R241, R242). -/
def Chan.rangeState (c : Chan) : Bool :=
  c.configured && (c.mod.state == .rest || c.mod.state == .armed || c.mod.state == .run || c.mod.state == .held)

/-- Start the sequence of R241 at instant `t`. -/
def Ana.rangeStart (a : Ana) (t : Tbu) : Ana := { a with rangeAt := some t, rangeTo := rangeOf a.wavCfg, rangeHeld := false }

/-- An accepted write of ANA_WAV_CFG.RANGE at instant `now` (R241 to R243); `free` says that no HOLDUP is in progress. -/
def Chan.rangeWrite (c : Chan) (now : Tbu) (free : Bool) (v : Word) : Chan :=
  let a := { c.ana with wavCfg := keep v 3 }
  let open' := c.rangeState && free
  if fld v 0 2 = fld c.ana.wavCfg 0 2 then c
  else if !c.configured then { c with ana := { a with rangeNow := rangeOf v } }
  else if a.rangeAt.isNone && open' then { c with ana := a.rangeStart now }
  else { c with ana := { a with rangeHeld := !open' } }

/-- On entry to REST a held change runs its sequence, or follows the one that runs (R242, R243). -/
def Chan.rangeAtRest (c : Chan) (now : Tbu) : Chan :=
  if c.configured && c.ana.rangeAt.isNone && rangeOf c.ana.wavCfg != c.ana.rangeNow then
    { c with ana := c.ana.rangeStart now }
  else { c with ana := { c.ana with rangeHeld := false } }

/-- RANGE is locked by lock group 0: a write that changes it is discarded with status "locked" (R11, R97). -/
def State.rangeWrite (s : State) (ch : ChanId) (v : Word) : State × Status :=
  let c := s.ch ch
  if c.locked 0 && fld v 0 2 != fld c.ana.wavCfg 0 2 then (s, St.locked)
  else (s.setCh ch (c.rangeWrite s.now (s.mod.mode != .holdup) v), St.normal)

/-- RANGE_WRITE (R241). -/
def execRangeWrite (t : Tbu) (ch : ChanId) (v : Word) (s : State) : Host.Outcome State Fault Refusal :=
  .next ((s.atTime t).ifWindow fun s => (s.rangeWrite ch v).1)

/-- RANGE_SWITCH (R241): from 2 µs into the sequence the new range is in force. -/
def execRangeSwitch (t : Tbu) (ch : ChanId) (s : State) : Host.Outcome State Fault Refusal :=
  let s := s.atTime t
  .next (s.modCh ch fun c =>
    if c.ana.rangeAt.any (fun a => decide (a + 2 * us ≤ s.now)) then { c with ana := { c.ana with rangeNow := c.ana.rangeTo } }
    else c)

/-- RANGE_DONE (R241, R243): from 5 µs the sequence is complete, and a differing RANGE starts another, unless R242 holds it for
REST. -/
def execRangeDone (t : Tbu) (ch : ChanId) (s : State) : Host.Outcome State Fault Refusal :=
  let s := s.atTime t
  .next (s.modCh ch fun c =>
    if c.ana.rangeAt.any (fun a => decide (a + 5 * us ≤ s.now)) then
      let a := { c.ana with rangeAt := none, rangeNow := c.ana.rangeTo, settledWav := s.now
                            events := evSet c.ana.events AnaEv.rangeDone }
      let c := { c with ana := a }.publish s.cycle Prod.rangeDone
      if c.configured && !a.rangeHeld && rangeOf a.wavCfg != a.rangeNow then
        { c with ana := a.rangeStart (s.now + cycleTbu) } else c
    else c)

/-! ### Staged codes and limits (R248 to R250) -/

/-- Note the staged codes and limits that stand from the end of fabric cycle `cyc` on, keeping those that a
transfer may still ask for. -/
def Ana.stageNote (a old : Ana) (cyc : Nat) : Ana :=
  let base : List Staged := if old.hist.isEmpty then [{ cycle := 0, stage := old.stage, lim := old.lim }] else old.hist
  let recent := base.filter fun h => decide (h.cycle ≠ cyc) || decide (h.cycle = 0)
  { a with hist := ({ cycle := cyc, stage := a.stage, lim := a.lim } :: recent).take 32 }

/-- The staged codes and limits as they stood at the end of cycle `cyc`. -/
def Ana.stagedAt (a : Ana) (cyc : Nat) : Word × Vector Word 4 :=
  match a.hist.find? fun h => decide (h.cycle ≤ cyc) with
  | some h => (h.stage, h.lim)
  | none => match a.hist.getLast? with
    | some h => (h.stage, h.lim)
    | none => (a.stage, a.lim)

/-- A host write of ANA_LVL_STAGE in fabric cycle `cyc`. -/
def Chan.stageWrite (c : Chan) (cyc : Nat) (v : Word) : Chan :=
  { c with ana := ({ c.ana with stage := v }).stageNote c.ana cyc }

/-- A host write of ANA_LVL_LIM[k] (R249, R100): bounded by lock group 1 to what the image gave, discarded with
LIM_BAD when LO exceeds HI. -/
def Chan.limitWrite (c : Chan) (cyc : Nat) (k : Fin 4) (v : Word) : Chan × Status :=
  let lo := fld v 0 16
  let hi := fld v 16 16
  if c.locked 1 && !(decide (c.skn.image.limLo k.val ≤ lo) && decide (hi ≤ c.skn.image.limHi k.val)) then (c, St.locked)
  else if hi < lo then ({ c with ana := { c.ana with events := evSet c.ana.events AnaEv.limBad } }, St.normal)
  else ({ c with ana := ({ c.ana with lim := vput c.ana.lim k (keep v 0xFFFFFFFF) }).stageNote c.ana cyc }, St.normal)

def State.limitWrite (s : State) (ch : ChanId) (k : Fin 4) (v : Word) : State × Status :=
  let r := (s.ch ch).limitWrite s.cycle k v
  (s.setCh ch r.1, r.2)

/-- LIMIT_WRITE (R249). -/
def execLimitWrite (t : Tbu) (ch : ChanId) (k : Fin 4) (v : Word) (s : State) : Host.Outcome State Fault Refusal :=
  .next ((s.atTime t).ifWindow fun s => (s.limitWrite ch k v).1)

/-! ### Level codes and ramps (R244, R259) -/

/-- Steps of a ramp: 10 µs at 20 MS/s. -/
def rampSteps : Nat := 200

/-- One code of a ramp after `n` of its steps. -/
def rampCode (a b n : Nat) : Nat := ((a : Int) + ((b : Int) - a) * n / (rampSteps : Nat)).toNat

/-- The codes in the level DACs at instant `x`: those of a ramp in progress move linearly, in steps of 50 ns (R259). -/
def Ana.levelsAt (a : Ana) (x : Tbu) : Word :=
  match a.ramp with
  | none => a.now
  | some r =>
    let n := min rampSteps ((x - r.since) / (50 * ns))
    let k := fun (i : Nat) => (rampCode (fld r.start (16 * i) 16) (fld a.now (16 * i) 16) n, 16 * i)
    pack [k 0, k 1, k 2, k 3]

/-- A ramp of the level outputs to the codes `rest` begins at instant `t`; `now` is the present. -/
def Ana.rampTo (a : Ana) (now t : Tbu) (rest : Word) : Ana :=
  { a with ramp := some { since := t, start := a.levelsAt now }, now := rest }

/-- The voltage of a level code, in units of 9/65,536 V above −2 V (R244). -/
def levelVolts (code : Nat) : Int := 9 * code - 2 * 65536

/-- One code clamped to its limits (R248). -/
def clampCode (lim : Word) (code : Nat) : Nat := min (fld lim 16 16) (max (fld lim 0 16) code)

/-- The four codes of a staged word, each clamped. -/
def clampWord (stage : Word) (lim : Vector Word 4) : Word :=
  pack [(clampCode lim[0] (fld stage 0 16), 0), (clampCode lim[1] (fld stage 16 16), 16),
    (clampCode lim[2] (fld stage 32 16), 32), (clampCode lim[3] (fld stage 48 16), 48)]

/-! ### Strobes (R251 to R255) -/

/-- Cycles between the ends of two transfers: 50 ns. -/
def stbGap : Nat := 25

/-- The selected strobe source; 3 acts as 0 (R251). -/
def Ana.src (a : Ana) : Nat := if fld a.stbCfg 0 2 = 3 then 0 else fld a.stbCfg 0 2

def Ana.ignoreStrobe (a : Ana) : Ana :=
  { a with ignored := satInc a.ignored, events := evSet a.events AnaEv.stbIgnored }

/-- A strobe registered in cycle `cyc` is acted on: it transfers at the end of cycle `cyc + 2`, or is deferred, or
joins the deferred one (R250, R255). -/
def Ana.takeStrobe (a : Ana) (cyc : Nat) : Ana :=
  let prev := match a.strobeAt with
    | some p => some p
    | none => a.lastTransfer
  if a.deferAt.isSome then { a with events := evSet a.events AnaEv.stbMerged }
  else match prev with
    | some p =>
      if p = cyc + 2 ∧ a.strobeAt = some p then a
      else if cyc + 2 < p + stbGap then { a with deferAt := some (p + stbGap) }
      else { a with strobeAt := some (cyc + 2) }
    | none => { a with strobeAt := some (cyc + 2) }

/-- A strobe of source `src` (0 internal, 1 junction, 2 LDSTB) in cycle `cyc`; `holdup` says that the module is in
HOLDUP (R251, R254). -/
def Chan.strobe (c : Chan) (cyc src : Nat) (holdup : Bool) : Chan :=
  if holdup then c
  else if c.ana.src ≠ src ∨ !c.rangeState ∨ c.ana.disableAt.isSome then { c with ana := c.ana.ignoreStrobe }
  else { c with ana := c.ana.takeStrobe cyc }

def State.strobe (s : State) (ch : ChanId) (src : Nat) : State :=
  s.modCh ch fun c => c.strobe s.cycle src (s.mod.mode == .holdup)

/-- STROBE (R251): a write of ANA_LVL_CTRL.STROBE. -/
def execStrobe (t : Tbu) (ch : ChanId) (s : State) : Host.Outcome State Fault Refusal := .next ((s.atTime t).ifWindow fun s => s.strobe ch 0)

/-- The first fabric cycle that begins at least 4 ns after instant `t` (R253). -/
def ldstbCycle (t : Tbu) : Nat := eventCycle (t + 4 * ns)

/-- LDSTB_EDGE (R253): every channel registers the edge in the same fabric cycle. -/
def execLdstbEdge (t : Tbu) (s : State) : Host.Outcome State Fault Refusal :=
  .next ((s.atTime t).forCh allCh fun s c => s.modCh c fun x => x.strobe (ldstbCycle s.now) 2 (s.mod.mode == .holdup))

/-- Cancel the scheduled strobe. -/
def Chan.unsched (c : Chan) : Chan := { c with ana := { c.ana with sched := false }, trk := c.trk.unplace .strobe }

/-- Arm a scheduled strobe at ANA_STB_POS, replacing the one armed; a position not in the future is discarded
(R252). -/
def Chan.sched (c : Chan) (now : Tbu) : Chan :=
  let c := c.unsched
  if c.trk.future now c.ana.stbPos then
    { c with ana := { c.ana with sched := true }, trk := c.trk.place .strobe c.ana.stbPos }
  else { c with ana := { c.ana with events := evSet c.ana.events AnaEv.stbLate } }

/-- SCHED (R252). -/
def execSched (t : Tbu) (ch : ChanId) (s : State) : Host.Outcome State Fault Refusal :=
  .next ((s.atTime t).ifWindow fun s => s.modCh ch fun c => c.sched s.now)

/-- UNSCHED (R252). -/
def execUnsched (t : Tbu) (ch : ChanId) (s : State) : Host.Outcome State Fault Refusal :=
  .next ((s.atTime t).ifWindow fun s => s.modCh ch Chan.unsched)

/-- The cycle at whose end the next transfer falls, if one is due by cycle `cyc`. -/
def Ana.transferDue (a : Ana) (cyc : Nat) : Option Nat :=
  match a.strobeAt, a.deferAt with
  | some d, _ => if d ≤ cyc then some d else none
  | none, some d => if d ≤ cyc then some d else none
  | none, none => none

/-- The DACs take new codes; while they ramp to rest, the ramp goes on from the new codes and ends when it would have (R259;
DEDUCED, log entry 70). -/
def Ana.load (a : Ana) (codes : Word) : Ana :=
  match a.ramp with
  | some r => { a with ramp := some { r with start := codes } }
  | none => { a with now := codes }

/-- A transfer at the end of cycle `d` (R250). -/
def Chan.transfer (c : Chan) (d : Nat) (now : Tbu) : Chan :=
  let a := c.ana
  let (stage, lim) := a.stagedAt (d - 3)
  let codes := clampWord stage lim
  let a := { a.load codes with
    applied := satInc a.applied
    strobeAt := none
    deferAt := if a.strobeAt.isSome then a.deferAt else none
    lastTransfer := some d
    settled := now
    events := evIf (codes != stage) (evSet a.events AnaEv.strobe) AnaEv.clamped }
  { c with ana := a }.publish d Prod.strobe

/-- LEVEL_TRANSFER (R250). -/
def execLevelTransfer (t : Tbu) (ch : ChanId) (s : State) : Host.Outcome State Fault Refusal :=
  let s := s.atTime t
  .next (s.modCh ch fun c => match c.ana.transferDue s.cycle with
    | some d => c.transfer d s.now
    | none => c)

/-! ### Isolation switches (R256 to R259) -/

/-- Execute an ENABLE: MASK is latched, switches no longer named open, those newly named are told to close (R256). -/
def Chan.enableExec (c : Chan) : Chan :=
  let m : BitVec 5 := BitVec.ofNat 5 (fld c.ana.outCfg 0 5)
  { c with
    mod := { c.mod with outEn := true }
    ana := { c.ana with mask := m, sw := c.ana.sw &&& m, closing := m &&& ~~~c.ana.sw
                        term := c.ana.term || !bit m 0 } }

/-- Every switch open and the WAV termination connected, OUT_EN 0. -/
def Chan.switchesOpen (c : Chan) : Chan :=
  { c with mod := { c.mod with outEn := false }, ana := { c.ana with sw := 0, closing := 0, term := true } }

/-- ENABLE accepted outside DRAIN: executed, or made pending by a DISABLE sequence (R259). -/
def Chan.enable (c : Chan) : Chan :=
  if c.ana.disableAt.isSome then { c with ana := { c.ana with enPend := true } } else c.enableExec

/-- DISABLE accepted in REST, ARMED or HELD: the sequence starts, or a running one continues and a pending ENABLE is
cancelled (R259). -/
def Chan.disable (c : Chan) (now : Tbu) : Chan :=
  if c.ana.disableAt.isSome then { c with ana := { c.ana with enPend := false } }
  else { c with mod := { c.mod with outEn := false }
                ana := { c.ana.rampTo now now c.skn.image.restWord with disableAt := some now } }

/-- The switches told to close are closed (R257). -/
def Ana.closeSwitches (a : Ana) (now : Tbu) : Ana :=
  { a with sw := a.sw ||| a.closing
           closedAt := ⟨((upTo 5).map fun i => if bit a.closing i then now else vget a.closedAt i 0).toArray, by simp [upTo]⟩
           term := a.term && !bit a.closing 0
           closing := 0 }

/-- SWITCHES_CLOSED (R257). -/
def execSwitchesClosed (t : Tbu) (ch : ChanId) (s : State) : Host.Outcome State Fault Refusal :=
  let s := s.atTime t
  .next (s.modCh ch fun c =>
    if c.ana.closing ≠ 0 then { c with ana := c.ana.closeSwitches s.now } else c)

/-- Switches told to close stay open while a calibration run holds them open; they close when it ends (R239, R462). -/
def Chan.holdOpen (c : Chan) : Chan :=
  if c.cal.run.isSome then { c with ana := { c.ana with closing := 0 } } else c

/-- The DISABLE sequence ends with the levels at rest; a pending ENABLE is executed (R259). -/
def Chan.disableEnd (c : Chan) (now : Tbu) : Chan :=
  let p := c.ana.enPend
  let c := c.switchesOpen
  let c := { c with ana := { c.ana with disableAt := none, enPend := false, settled := now, now := c.skn.image.restWord, ramp := none } }
  if p then c.enableExec.holdOpen else c

/-- DISABLE_SEQUENCE_END (R259), from 12 µs after the DISABLE. -/
def execDisableSequenceEnd (t : Tbu) (ch : ChanId) (s : State) : Host.Outcome State Fault Refusal :=
  let s := s.atTime t
  .next (s.modCh ch fun c =>
    if c.ana.disableAt.any (fun a => decide (a + 12 * us ≤ s.now)) then c.disableEnd s.now else c)

/-- Instants, counted from entry to DRAIN, at which the levels begin to ramp and at which the switches open. DESIGN CHOICE (log
entry 56): steps 3 and 5 of R127 end when they must at the latest. -/
def drainRamp : Nat := 3 * us
def drainOpen : Nat := 15 * us

/-- What DRAIN does to the analog outputs (R127 step 4, R252, R259): the levels ramp to rest, switches told to close stay as
they are, and a pending ENABLE becomes that of R129. -/
def Chan.anaDrain (c : Chan) (now : Tbu) : Chan :=
  let p := c.ana.enPend
  let c := c.unsched
  { c with
    mod := { c.mod with pendEn := c.mod.pendEn || p }
    ana := { c.ana.rampTo now (now + drainRamp) c.skn.image.restWord with
      disableAt := none, enPend := false, settled := now, strobeAt := none, deferAt := none, closing := 0 } }

/-- Step 5 of DRAIN is over at instant `now`. -/
def Chan.drainOpened (c : Chan) (now : Tbu) : Bool := c.mod.state == .drain && c.mod.drainAt.any fun a => decide (a + drainOpen ≤ now)

/-- The channel as its switches show it at instant `now`: step 5 of DRAIN opens them, and OUT_EN is 0 (R127). -/
def Chan.switched (c : Chan) (now : Tbu) : Chan := if c.drainOpened now then c.switchesOpen else c

/-- What HOLDUP does to the analog outputs of a channel (R119, R128, R259): the sequence of a DISABLE, unless a DISABLE or a DRAIN
is already on the way to the same end. DESIGN CHOICE (log entry 70): R119 gives 20 µs and no instants; the switches open at the
12 µs of R259, and in DRAIN at the 15 µs of R127. -/
def Chan.anaHoldup (c : Chan) (now : Tbu) : Chan :=
  let c : Chan := { c with mod := { c.mod with outEn := false }
                           ana := { c.ana with enPend := false, strobeAt := none, deferAt := none, closing := 0 } }
  match c.mod.drainAt with
  | some a => if c.drainOpened now then c.switchesOpen else { c with ana := { c.ana with disableAt := some (a + drainRamp) } }
  | none => if c.ana.disableAt.isSome then c else c.disable now

/-- Outputs of a channel in the power-up state of R117. -/
def Chan.anaRest (c : Chan) : Chan :=
  let c := c.switchesOpen
  { c with ana := { c.ana with disableAt := none, enPend := false, strobeAt := none, deferAt := none
                               now := c.skn.image.restWord, ramp := none } }

/-! ### Zero clamp (R240) -/

/-- ZERO_CLAMP (R240): the clamp engages once the DAC clock has stopped. -/
def execZeroClamp (t : Tbu) (ch : ChanId) (s : State) : Host.Outcome State Fault Refusal :=
  .next ((s.atTime t).modCh ch fun c =>
    if !c.sampleClock && !c.ana.zclamp then
      { c with ana := { c.ana with zclamp := true, events := evSet c.ana.events AnaEv.zeroClamp } }
    else c)

/-! ### Monitor (R260 to R264, R482) -/

/-- The monitor compares a reading of input `i` (R262, R258). -/
def Chan.monCompares (c : Chan) (i : Fin 5) (now : Tbu) : Bool :=
  c.configured && c.mod.state != .trim && c.mod.state != .drain && bit c.ana.sw i.val && !c.ana.monFaulty
    && decide (c.ana.closedAt[i] + 2 * us ≤ now)
    && (if i = 0 then c.ana.rangeAt.isNone && decide (c.ana.settledWav + 2 * us ≤ now) && c.mod.state != .run
        else c.ana.disableAt.isNone && decide (c.ana.settled + 2 * us ≤ now))

/-- A compared reading deviates: levels against the code in the DAC under R244, in units of 250 µV; WAV against 0 V
in units of 31.25 µV. -/
def Chan.monDeviates (c : Chan) (i : Fin 5) (value : BitVec 16) : Bool :=
  let v := value.toInt
  if i = 0 then decide (v.natAbs > fld c.ana.monCfg 32 16)
  else
    let code := fld c.ana.now (16 * (i.val - 1)) 16
    decide ((v * 65536 - ((code * 9 * 4000 : Nat) - (2 * 65536 * 4000 : Nat) : Int)).natAbs > fld c.ana.monCfg 48 16 * 65536)

/-- COUNT of ANA_MON_CFG; 0 acts as 1 (R267). -/
def Ana.monCount (a : Ana) : Nat := max 1 (fld a.monCfg 16 8)

/-- The input that the monitor reads next: the enabled inputs in ascending order, over and over (R260). -/
def Ana.monNext (a : Ana) : Option (Fin 5) :=
  let l := ([0, 1, 2, 3, 4] : List (Fin 5)).filter fun i => bit a.monCfg i.val
  match a.monLast with
  | none => l.head?
  | some p => match l.find? fun i => decide (p.val < i.val) with
    | some i => some i
    | none => l.head?

/-- The monitor converts input `i` at instant `now`: its turn has come, at least 100 ns after the last conversion (R260). -/
def Ana.monTurn (a : Ana) (i : Fin 5) (now : Tbu) : Bool :=
  a.monNext == some i && a.monAt.all fun t => decide (t + 100 * ns ≤ now)

/-- One reading of the monitor: the channel after it, and whether it raised an alarm (R260 to R262). -/
def Chan.monRead (c : Chan) (i : Fin 5) (value : BitVec 16) (now : Tbu) : Chan × Bool :=
  if !c.ana.monTurn i now || c.mod.state == .trim then (c, false)
  else
    let a := { c.ana with monLast := some i, monAt := some now, monVal := vput c.ana.monVal i (BitVec.ofNat 17 (65536 + value.toNat)) }
    if !c.monCompares i now then ({ c with ana := a }, false)
    else if c.monDeviates i value then
      let n := a.monCnt[i] + 1
      let raise := decide (a.monCount ≤ n) && !bit a.alarmed i.val
      let a := { a with monCnt := vput a.monCnt i n }
      if raise then
        let a := { a with alarmed := setBit a.alarmed i.val, monAlarm := evSet a.monAlarm i.val
                          events := evSet a.events AnaEv.alarm }
        ({ c with ana := a }.publish (cycleOf now) Prod.alarm, true)
      else ({ c with ana := a }, false)
    else ({ c with ana := { a with monCnt := vput a.monCnt i 0, alarmed := clrBit a.alarmed i.val } }, false)

end Sys2Proof.Machine
end

