-- ==== Sys2Proof/Machine/CalMeasure.lean ====
section
/-! DEFINITION. What the calibration procedures compute from what they measured: the corrections of the DAC's cells and rungs,
of the interpolators' bins, and the skews, with the tests on those results (R464 to R469). -/

namespace Sys2Proof

open Sys2Proof.Machine

/-- `n / d` rounded to the nearest whole number, a half upwards (DESIGN CHOICE, log entry 63). -/
def roundDiv (n : Int) (d : Nat) : Int := (2 * n + d) / (2 * d : Nat)

/-- A test that failed: REASON, DETAIL and STATVAL (R463). -/
structure ProcFail where
  why : Byte
  detail : Nat
  stat : Nat
  deriving DecidableEq, Repr

/-- STATVAL of a whole number: 16 fractional bits, and the largest value where it does not fit (log entry 63). -/
def statOf (n : Nat) : Nat := min (2 ^ 32 - 1) (65536 * n)

/-- The first of `l` that `bad` picks, as a failed test. -/
def firstFail {α : Type} (bad : α → Option ProcFail) (l : List α) : Option ProcFail := (l.filterMap bad).head?

/-! ### DAC (R464, R465) -/

/-- The states of the DAC procedure: a thermometer level with ladder 0, and at level 32 a ladder bit alone or the bits below one. -/
inductive DacState where
  | level (u : Nat) | bit (b : Nat) | group (b : Nat)
  deriving DecidableEq, Repr

/-- Place of a state among the 82, in ascending order: 64 levels, 10 single bits, 8 groups. -/
def DacState.index : DacState → Nat
  | .level u => u
  | .bit b => 64 + b
  | .group b => 72 + b

/-- Readings of a state: in the first sweep, the second, or both. -/
inductive Sweep where
  | first | second | both
  deriving DecidableEq, Repr

/-- What was read of a state. -/
def ProcReport.state (r : ProcReport) (i : Nat) : StateSeen := r.states.getD i default

/-- Sum of the readings of a state, in monitor LSB: m(s) times their number. -/
def ProcReport.sum (r : ProcReport) (w : Sweep) (s : DacState) : Int :=
  let x := r.state s.index
  match w with
  | .first => x.head
  | .second => x.tail
  | .both => x.head + x.tail

/-- The cell or rung that a state concerns, as DETAIL names it (R463; log entry 63). -/
def stateItem (i : Nat) : Nat := if i < 64 then i else if i < 74 then i - 64 else i - 72

/-- A statistic `n / d` with 16 fractional bits, and the largest value where it does not fit (R463). -/
def statRatio (n d : Nat) : Nat := min (2 ^ 32 - 1) (65536 * n / max 1 d)

/-- Lag-1 autocorrelation of `n` values, from their sum, the sums of their squares and of the products of successive ones, the first
and the last: its numerator and denominator, both times n². -/
def autoCorr (n : Nat) (sum sq lag first last : Int) : Int × Int :=
  (n ^ 2 * lag - n * sum * (2 * sum - first - last) + (n - 1) * sum ^ 2, n ^ 2 * sq - n * sum ^ 2)

/-- An autocorrelation beyond 4 / √n, where √n is `root`, in either direction (R465, R467). Codes that never change do not pass as
independent: such is a PACE locked to REF (R467, R475). -/
def corrFail (k root : Nat) (x : Int × Int) : Option ProcFail :=
  if x.2 ≤ 0 then some { why := 0x21, detail := k, stat := (Config.flatStat k).toNat }
  else if root * x.1.natAbs ≤ 4 * x.2.toNat then none else some { why := 0x21, detail := k, stat := statRatio x.1.natAbs x.2.toNat }

/-- The autocorrelation of a state's 65,536 readings. -/
def StateSeen.corr (x : StateSeen) : Int × Int := autoCorr 65536 (x.head + x.tail) x.sq x.lag x.first x.last

/-- Σ (n − 8,192)² over the residues: 8,192 times χ² of 65,536 readings over 8 residues. -/
def StateSeen.chi8 (x : StateSeen) : Nat := x.residues.foldl (fun a n => a + ((n : Int) - 8192).natAbs ^ 2) 0

/-- The tests of R465 on a state's readings, each on every state in turn: saturation, dither width, uniformity, independence. -/
def ProcReport.readFail (r : ProcReport) : Option ProcFail :=
  let each := fun (f : Nat → StateSeen → Option ProcFail) => firstFail (fun i => f (stateItem i) (r.state i)) (upTo 82)
  ((each fun k x => if x.ends = 0 then none else some { why := 0x26, detail := k, stat := statOf x.ends }).or
    (each fun k x => if 60 ≤ x.span ∧ x.span ≤ 72 then none else some { why := 0x2B, detail := k, stat := statOf x.span })).or
  ((each fun k x => if 10 * x.chi8 ≤ 353 * 8192 then none else some { why := 0x20, detail := k, stat := statRatio x.chi8 8192 }).or
    (each fun k x => corrFail k 256 x.corr))

/-- W_c of a cell, c = 1 to 63, on the scale of the sums. -/
def ProcReport.cellWeight (r : ProcReport) (w : Sweep) (c : Nat) : Int := r.sum w (.level c) - r.sum w (.level (c - 1))

/-- w_0 to w_(n-1) of the ladder bits, on the same scale. -/
def ProcReport.rungWeights (r : ProcReport) (w : Sweep) : Nat → List Int
  | 0 => []
  | b + 1 =>
    let l := r.rungWeights w b
    let below := match b with
      | 0 => r.sum w (.level 32)
      | 1 => r.sum w (.bit 0)
      | _ => r.sum w (.group b)
    l ++ [r.sum w (.bit b) - below + l.sum]

/-- 63 times Wm, on the same scale. -/
def ProcReport.cellTotal (r : ProcReport) : Int := r.sum .both (.level 63) - r.sum .both (.level 0)

/-- CELL[1] to CELL[63]: (W_c − Wm) × 1,024 / Wm × 16. -/
def ProcReport.cells (r : ProcReport) : List Int :=
  (upTo 63).map fun i => roundDiv (16384 * (63 * r.cellWeight .both (i + 1) - r.cellTotal)) r.cellTotal.toNat

/-- RUNG[0] to RUNG[9]: (w_b − 2^b × Wm / 1,024) × 1,024 / Wm × 16. -/
def ProcReport.rungs (r : ProcReport) : List Int :=
  let l := r.rungWeights .both 10
  (upTo 10).map fun b => roundDiv (63 * 16384 * l.getD b 0 - 2 ^ b * 16 * r.cellTotal) r.cellTotal.toNat

/-- The stability test: a weight from sweep 1 and from sweep 2 differ by at most 0.8 monitor LSB. -/
def driftFail (k : Nat) (a b : Int) : Option ProcFail :=
  let d := (a - b).natAbs
  if 5 * d ≤ 4 * 32768 then none else some { why := 0x22, detail := k, stat := min (2 ^ 32 - 1) (2 * d) }

/-- A value beyond its bound. -/
def limitFail (k : Nat) (v : Int) (ok : Bool) : Option ProcFail :=
  if ok then none else some { why := 0x24, detail := k, stat := statOf v.natAbs }

/-- A CELL or RUNG lies within its bound (R459, order 12). -/
def cellOk (v : Int) : Bool := decide (v.natAbs ≤ 327)
def rungOk (b : Nat) (v : Int) : Bool := decide (100 * v.natAbs ≤ 16 * 2 ^ b + 1600)

/-- The first test of R465 that fails: those on the readings, then stability and limits of the results. A mean cell weight that is not positive
leaves no corrections, and fails the limits (log entry 63). -/
def ProcReport.dacFail (r : ProcReport) : Option ProcFail :=
  let a := r.rungWeights .first 10
  let b := r.rungWeights .second 10
  let drift := (firstFail (fun i => driftFail (i + 1) (r.cellWeight .first (i + 1)) (r.cellWeight .second (i + 1))) (upTo 63)).or
    (firstFail (fun i => driftFail i (a.getD i 0) (b.getD i 0)) (upTo 10))
  let limits := if r.cellTotal ≤ 0 then some { why := 0x24, detail := 1, stat := 0 }
    else (firstFail (fun i => limitFail (i + 1) (r.cells.getD i 0) (cellOk (r.cells.getD i 0))) (upTo 63)).or
      (firstFail (fun i => limitFail i (r.rungs.getD i 0) (rungOk i (r.rungs.getD i 0))) (upTo 10))
  r.readFail.or (drift.or limits)

/-! ### BINS (R466, R467) -/

/-- BIN[t][j] of the bins from `j` on, with `before` edges in the bins below, among 2^24. -/
def binFields : Nat → Nat → List Nat → List Int
  | _, _, [] => []
  | j, before, n :: r => roundDiv (2 * before + n - (2 * j + 1) * 32768) 256 :: binFields (j + 1) (before + n) r

/-- What was counted in interpolator `i` of the report. -/
def ProcReport.bin (r : ProcReport) (i : Nat) : BinSeen := r.bins.getD i default

/-- The edges in each bin over both halves: n_j. -/
def BinSeen.counts (x : BinSeen) : List Nat := List.zipWith (· + ·) x.half1 x.half2

/-- Σ j^e n_j: the sum of the fine codes, or of their squares. -/
def BinSeen.power (x : BinSeen) (e : Nat) : Int := x.counts.zipIdx.foldl (fun a n => a + n.1 * (n.2 : Int) ^ e) 0

/-- The autocorrelation of 2^24 successive fine codes. -/
def BinSeen.corr (x : BinSeen) : Int × Int := autoCorr (2 ^ 24) (x.power 1) (x.power 2) x.lag x.first x.last

/-- χ² of the two halves' histograms as a fraction: each bin adds (a − b)² / (a + b), an empty one nothing. -/
def BinSeen.chi512 (x : BinSeen) : Nat × Nat :=
  (x.half1.zip x.half2).foldl (fun q n =>
    if n.1 + n.2 = 0 then q else (q.1 * (n.1 + n.2) + ((n.1 : Int) - n.2).natAbs ^ 2 * q.2, q.2 * (n.1 + n.2))) (0, 1)

/-- The interpolators of a BINS result, with their number in the report and in R456. -/
def binUnits (p : Fin 4) : List (Nat × Nat) := if p = 1 then [(0, 0), (1, 1), (2, 2), (3, 3)] else [(0, 4)]

/-- The first test of R467 on the counts that fails: independence, homogeneity, a missing bin, then widths from 0.25 to 2.5 tbu. -/
def ProcReport.binFail (r : ProcReport) (p : Fin 4) : Option ProcFail :=
  let each := fun (f : Nat → BinSeen → Option ProcFail) => firstFail (fun u => f u.2 (r.bin u.1)) (binUnits p)
  ((each fun k x => corrFail k 4096 x.corr).or
    (each fun k x => if x.chi512.1 ≤ 620 * x.chi512.2 then none
      else some { why := 0x27, detail := k, stat := statRatio x.chi512.1 x.chi512.2 })).or
  ((each fun k x => if x.counts.contains 0 then some { why := 0x25, detail := k, stat := 0 } else none).or
    (each fun k x => (x.counts.find? fun n => decide (n < 8192) || decide (81920 < n)).map fun n =>
      { why := 0x24, detail := k, stat := 2 * n }))

/-- The larger of two χ², the first of equal ones, with the interpolators they belong to. -/
def largerChi (a b : Nat × (Nat × Nat)) : Nat × (Nat × Nat) := if a.2.1 * b.2.2 < b.2.1 * a.2.2 then b else a

/-- STATVAL and DETAIL of an accepted BINS result: the largest homogeneity χ² and its interpolator, as the worked example shows them
for BINS_EVI (DEDUCED for BINS_TRK, log entry 63). -/
def ProcReport.binStat (r : ProcReport) (p : Fin 4) : Nat × Nat :=
  let x := ((binUnits p).map fun u => (u.2, (r.bin u.1).chi512)).foldl largerChi ((binUnits p).headD (0, 0) |>.2, (0, 1))
  (x.1, statRatio x.2.1 x.2.2)

/-! ### SKEW (R468, R469) -/

/-- The interpolator whose bins the stamps of path `i` fall into: the tracker's, that of an EVI input, and EVI0's for the outputs. -/
def pathUnit (i : Nat) : Nat := if i = 0 then 4 else if i < 5 then i - 1 else 0

/-- Differences in 2^-8 tbu with their number, once the bin corrections `bin` of interpolator and bin are added (R457, R462). -/
def corrected (bin : Nat → Nat → Int) (i : Nat) (l : List EdgeSeen) : List (Int × Nat) :=
  l.map fun e => (e.diff + bin (pathUnit i) e.bin, e.count)

/-- Σ of the differences, each as often as it was seen. -/
def diffSum (l : List (Int × Nat)) : Int := l.foldl (fun a d => a + d.1 * d.2) 0

/-- The difference at place `k` of a list in ascending order. -/
def diffAt (l : List (Int × Nat)) (k : Nat) : Int :=
  let below : (Int → Bool) → Nat := fun p => (l.filter fun d => p d.1).foldl (fun a (d : Int × Nat) => a + d.2) 0
  match l.find? fun d => decide (below (· < d.1) ≤ k) && decide (k < below (· ≤ d.1)) with
  | some d => d.1
  | none => 0

/-- The first `n` of the 32 bits of the square root of `v`. -/
def rootOf (v : Nat) : Nat → Nat
  | 0 => 0
  | n + 1 =>
    let r := rootOf v n * 2
    if (r + 1) ^ 2 ≤ v / 4 ^ (31 - n) then r + 1 else r

/-- What the tests of R469 see of path `i`: its differences in the first and in the last half. -/
def ProcReport.path (r : ProcReport) (bin : Nat → Nat → Int) (i : Nat) : List (Int × Nat) × List (Int × Nat) :=
  let x := r.paths.getD i default
  (corrected bin i x.head, corrected bin i x.tail)

/-- (N σ)² of the 4,096 differences of a path about their mean, in (2^-8 tbu)². DEDUCED (log entry 63): R469 names the test a spread,
and admits means up to 1,024 tbu. -/
def spreadSq (l : List (Int × Nat)) : Nat := (4096 * l.foldl (fun a (d : Int × Nat) => a + d.1 ^ 2 * d.2) 0 - diffSum l ^ 2).toNat

/-- Differences more than 16 tbu from their median, the mean of the two in the middle (log entry 63). -/
def farFrom (l : List (Int × Nat)) : Nat :=
  let twice := diffAt l 2047 + diffAt l 2048
  (l.filter fun d => decide (2 * 4096 < (2 * d.1 - twice).natAbs)).foldl (fun a (d : Int × Nat) => a + d.2) 0

/-- SKEW[i] from the sum of 4,096 differences: the mean of a stamp, which the machine subtracts, and the opposite of that of an
output, to which it adds (R63, R195, R231, R321; DEDUCED, log entry 63). -/
def skewField (i : Nat) (sum : Int) : Int := if i < 5 then roundDiv sum (4096 * 256) else roundDiv (-sum) (4096 * 256)

/-- SKEW[0] to SKEW[33]. -/
def ProcReport.skews (r : ProcReport) (bin : Nat → Nat → Int) : List Int :=
  (upTo 34).map fun i => skewField i (diffSum (r.path bin i).1 + diffSum (r.path bin i).2)

/-- The first test of R469 on the paths that fails: spread, outliers, stability within 0.5 tbu, then limits. -/
def ProcReport.skewFail (r : ProcReport) (bin : Nat → Nat → Int) : Option ProcFail :=
  let each := fun (f : Nat → Option ProcFail) => firstFail f (upTo 34)
  let all := fun (i : Nat) => (r.path bin i).1 ++ (r.path bin i).2
  ((each fun i => if spreadSq (all i) ≤ (6 * 256 * 4096) ^ 2 then none
      else some { why := 0x23, detail := i, stat := min (2 ^ 32 - 1) (rootOf (spreadSq (all i) * 65536 / 4096 ^ 2) 32) }).or
    (each fun i => if farFrom (all i) ≤ 4 then none else some { why := 0x2C, detail := i, stat := statOf (farFrom (all i)) })).or
  ((each fun i =>
      let d := (diffSum (r.path bin i).1 - diffSum (r.path bin i).2).natAbs
      if d ≤ 1024 * 256 then none else some { why := 0x22, detail := i, stat := statRatio d (2048 * 256) }).or
    (each fun i => limitFail i ((r.skews bin).getD i 0) (decide (((r.skews bin).getD i 0).natAbs ≤ 1024))))

/-! ### A procedure's result -/

/-- The first test on the results of procedure `p` that fails; `bin` are the bin corrections that SKEW uses (R462). -/
def ProcReport.fails (r : ProcReport) (bin : Nat → Nat → Int) (p : Fin 4) : Option ProcFail :=
  match p with
  | 0 => r.dacFail
  | 3 => r.skewFail bin
  | _ => r.binFail p

/-- The fields of the sections that procedure `p` measures, in the order of R456. -/
def ProcReport.fields (r : ProcReport) (bin : Nat → Nat → Int) (p : Fin 4) : List Int :=
  match p with
  | 0 => r.cells ++ r.rungs
  | 3 => r.skews bin
  | _ => (binUnits p).flatMap fun u => binFields 0 0 (r.bin u.1).counts

/-- DETAIL and STATVAL of procedure `p` accepted at instant `now` (R463; log entry 63). -/
def ProcReport.passed (r : ProcReport) (now : Nat) (p : Fin 4) : Nat × Nat :=
  if p = 1 ∨ p = 2 then r.binStat p else ((Config.passedItem now).toNat, (Config.passedStat now).toNat)

/-- A signed 16-bit field, little-endian. -/
def fieldBytes (v : Int) : List Byte := leBytes 2 (v % 65536).toNat

/-- The bytes of those sections. -/
def ProcReport.bytes (r : ProcReport) (bin : Nat → Nat → Int) (p : Fin 4) : List Byte := (r.fields bin p).flatMap fieldBytes

end Sys2Proof
end

