-- ==== Sys2Proof/Machine/PlayOut.lean ====
section
/-! DEFINITION. What the playback path puts out: profiles and rates, the hand-over of samples, the unpacking of blocks, the
resampler, the carrier, the mixer, the waveform DAC and the markers (R145, R166 to R173, R175, R176, R183 to R186, R195,
R238, R241, R457). -/

namespace Sys2Proof.Machine

/-! ### Exact instants -/

/-- An instant with 16 fractional bits as an exact one. -/
def Inst.ofQ (x : Q16) : Inst := { num := x, den := 1 }

/-- Rounded down to 16 fractional bits. -/
def Inst.floor (i : Inst) : Q16 := i.num / (i.den : Int)

/-- `n / d` later, in lowest terms. -/
def Inst.add (i : Inst) (n : Int) (d : Nat) : Inst :=
  let a := i.num * d + n * i.den
  let b := i.den * max 1 d
  let g := max 1 (Nat.gcd a.natAbs b)
  { num := a / g, den := b / g }

/-- The instant is not after `x`. -/
def Inst.notAfter (i : Inst) (x : Q16) : Bool := decide (i.num ≤ x * i.den)

/-! ### Profiles (R166 to R171, R176) -/

/-- Bytes of a block of 64 samples in a format (R166). -/
def blockBytes (fmt : Nat) : Nat := if fmt = 2 then 256 else if fmt = 3 then 160 else 128

/-- Tbu per sample at a format's native rate ceiling (R166): 4.0, 4.0, 2.0 and 3.2 GS/s. -/
def formatCeil (fmt : Nat) : Nat := if fmt = 2 then 256 else if fmt = 3 then 160 else 128

/-- The longer of two times per sample. -/
def Per.longer (a b : Per) : Per := if a.num * b.den < b.num * a.den then b else a

/-- Configuration and rate of the profile in use, as latched at ARM (R169). -/
def Ply.cfgNow (p : Ply) : Word := vget p.lProfCfg p.prof.toNat 0
def Ply.rateNow (p : Ply) : Word := vget p.lProfRate p.prof.toNat 0
def Ply.format (p : Ply) : Nat := fld p.cfgNow 0 2
def Ply.stopZero (p : Ply) : Bool := bit p.cfgNow 3

/-- RATIO of a free-running profile, at least 2^34 (R170). -/
def Ply.ratio (p : Ply) : Nat := max (2 ^ 34) (fld p.rateNow 0 48)

/-- SPC of a pace-locked profile, at least 2^20 (R176). -/
def Ply.spc (p : Ply) : Nat := max (2 ^ 20) (fld p.rateNow 0 36)

/-- Time per sample at the native rate ceiling: the format's, halved when the bobbin store is degraded, or twice the
DAC sample period (R171, R384). -/
def Chan.ceilPer (c : Chan) : Per :=
  (Per.mk (formatCeil c.ply.format * (if c.mem.degraded && c.mem.bobLostAt.isNone then 2 else 1)) 1).longer (Per.mk (2 * c.ply.dn) (max 1 c.ply.dd))

/-- Time per sample that RATIO asks for (R170). -/
def Chan.askedPer (c : Chan) : Per := Per.mk (max 1 c.ply.dn * 2 ^ 48) (max 1 c.ply.dd * c.ply.ratio)

/-- Time per sample of a free-running pass (R170, R171). -/
def Chan.freePer (c : Chan) : Per := c.askedPer.longer c.ceilPer

/-- A free-running pass plays at the ceiling because its rate exceeds it (R171). -/
def Chan.overRate (c : Chan) : Bool := decide (c.askedPer.num * c.ceilPer.den < c.ceilPer.num * c.askedPer.den)

/-! ### Sample instants and the hand-over (R172, R173, R179, R148) -/

/-- The smallest whole number that is not below `a / b`. -/
def ceilInt (a : Int) (b : Nat) : Int := (a + ((b : Int) - 1)) / b

/-- Samples of a free-running pass whose nominal instant lies before instant `x` (16 fractional bits). -/
def Chan.freeBefore (c : Chan) (x : Q16) : Nat :=
  let p := c.freePer
  let b := c.ply.baseInst
  (ceilInt (c.ply.baseIdx * (p.num * b.den : Nat) + (x * b.den - b.num) * (2 ^ 32 * p.den : Nat)) (2 ^ 48 * p.num * b.den)).toNat

/-- Read index of a slice at an instant, 24 fractional bits; rounded down. -/
def Slice.indexAt (s : Slice) (x : Q16) : Int :=
  if s.t1 ≤ x then s.i1 else if x ≤ s.t0 then s.i0 else s.i0 + (x - s.t0) * (s.i1 - s.i0) / (s.t1 - s.t0)

/-- Instant at which a slice reaches a read index. -/
def Slice.instantOf (s : Slice) (i : Int) : Q16 :=
  if s.i1 ≤ s.i0 then s.t1 else s.t0 + (i - s.i0) * (s.t1 - s.t0) / (s.i1 - s.i0)

/-- The slice in which an instant falls: the first that ends after it, or the last. -/
def sliceFor (x : Q16) : List Slice → Option Slice
  | [] => none
  | [s] => some s
  | s :: r => if x < s.t1 then some s else sliceFor x r

/-- Samples of a pace-locked pass whose nominal instant lies before instant `x`. DESIGN CHOICE (log entry 69): samples whose
nominal instants come less than 24 ns after a thaw, which cannot have the lead of R172, are handed over from the cycle of the
thaw on, eight a cycle at most. -/
def Chan.lockedBefore (c : Chan) (x : Q16) : Nat :=
  match sliceFor x c.ply.slices with
  | none => 0
  | some s => (ceilInt (s.indexAt x) (2 ^ 24)).toNat

/-- The end of the 2 ns of nominal instants that fabric cycle `cyc` hands over: they begin 24 ns after the end of the
cycle (R172). -/
def handoverEnd (cyc : Nat) : Q16 := q16 ((cyc + 2) * cycleTbu + leadTbu)

/-- The fabric cycle whose 2 ns of nominal instants hold instant `x` (R172). -/
def handoverCycle (x : Q16) : Nat := (x / (65536 * cycleTbu : Nat) - 13).toNat

/-- Nominal instant of read index `i` of the present pass (R173, R179): exact in a free-running pass, so that no rounding
adds up from pass to pass; in a pace-locked pass to 2^-16 tbu, which is below 2^-16 of a DAC sample period. -/
def Chan.instOf (c : Chan) (i : Nat) : Inst :=
  if c.ply.lock then
    let x : Int := ((i * 2 ^ 24 : Nat) : Int)
    match c.ply.slices.find? fun s => decide (x ≤ s.i1) with
    | some s => Inst.ofQ (s.instantOf x)
    | none => Inst.ofQ c.ply.t0
  else
    let p := c.freePer
    c.ply.baseInst.add ((((i * 2 ^ 48 : Nat) : Int) - c.ply.baseIdx) * p.num) (2 ^ 32 * p.den)

/-- Nominal instant of read index L of the present pass: its boundary (R173, R179). -/
def Chan.boundaryExact (c : Chan) : Inst := c.instOf c.seq.len

/-- The boundary, rounded down to 2^-16 tbu. -/
def Chan.boundaryInst (c : Chan) : Q16 := c.boundaryExact.floor

/-- Samples of the present pass and of the pass after it whose nominal instant lies before instant `x`, were the pass after
it to go on at the same rate. -/
def Chan.before (c : Chan) (x : Q16) : Nat := if c.ply.lock then c.lockedBefore x else c.freeBefore x

/-- The cycle that hands over the last sample of the present pass: eight samples a cycle at most (R172). -/
def Chan.endCycle (c : Chan) : Nat :=
  max (c.ply.handCycle + ceilDiv (c.seq.len - c.ply.handBase) 8 - 1) (handoverCycle (c.instOf (c.seq.len - 1)).floor)

/-- Samples handed over by the end of fabric cycle `cyc`, counted from sample 0 of the present pass. A block never holds
samples of two passes and never more than eight (R172): those of the pass that follows count from the cycle after the one
that hands over the last sample of this pass. -/
def Chan.handedOn (c : Chan) (cyc : Nat) : Nat :=
  let n := max c.ply.handBase (c.before (handoverEnd cyc))
  let m := c.ply.handBase + 8 * (cyc + 1 - c.ply.handCycle)
  if c.seq.len ≤ min n m then c.seq.len + min (8 * (cyc - c.endCycle)) (n - c.seq.len) else min n m

/-- Sample index of a request registered in cycle `cyc` (R148). It runs on past the end of the pass: a request that comes
in the cycle of a boundary, before PASS_BOUNDARY, is counted there in the pass that follows. While a head is late the next
sample is sample 0 of the late pass. -/
def Chan.kNow (c : Chan) (cyc : Nat) : Nat := if c.seq.late then 0 else c.handedOn cyc

/-- Samples of the present pass handed over by the end of fabric cycle `cyc` (R148). -/
def Chan.handed (c : Chan) (cyc : Nat) : Nat := min c.seq.len (c.handedOn cyc)

/-- The instants of samples change from fabric cycle `cyc` on: what was handed over before it stands, and the hand-over counts
from it (R172). -/
def Chan.handFrom (c : Chan) (cyc : Nat) : Chan :=
  if c.seq.playing && decide (c.ply.handCycle < cyc) && decide (c.handed (cyc - 1) < c.seq.len) then
    { c with ply := { c.ply with handCycle := cyc, handBase := c.handed (cyc - 1) } }
  else c

/-- The slices of the pass reach its end. -/
def Chan.slicesDone (c : Chan) : Bool := c.ply.slices.any fun s => decide (((c.seq.len * 2 ^ 24 : Nat) : Int) ≤ s.i1)

/-- The last sample of the pass was handed over in a cycle before `cyc`, and the instant of the boundary stands: in a
pace-locked pass the slice of read index L has been laid (R140, R149, R179). -/
def Chan.passOver (c : Chan) (cyc : Nat) : Bool :=
  decide (0 < cyc) && decide (c.seq.len ≤ c.handed (cyc - 1)) && (!c.ply.lock || c.slicesDone)

/-- The rate of a free-running pass changes from instant `x` on: the read index there is kept (R170). -/
def Chan.rebase (c : Chan) (x : Q16) : Chan :=
  let p := c.freePer
  let b := c.ply.baseInst
  let i := c.ply.baseIdx + (x * b.den - b.num) * (2 ^ 32 * p.den : Nat) / ((p.num * b.den : Nat) : Int)
  if c.seq.playing && !c.ply.lock then
    let c := c.handFrom (cycleOf (x / 65536).toNat)
    { c with ply := { c.ply with baseInst := Inst.ofQ x, baseIdx := i } }
  else c

/-! ### Lines and blocks (R352, R385) -/

/-- Lines of the creel: 2^34 bytes in lines of 4,096. -/
def creelLines : Nat := 2 ^ 22

/-- Creel lines that hold the `size` bytes from byte address `addr` on, the last line even where only its beginning counts. -/
def lineSpan (addr size : Nat) : List Nat :=
  if size = 0 then [] else (upTo ((addr + size - 1) / 4096 - addr / 4096 + 1)).map fun i => (addr / 4096 + i) % creelLines

/-- A creel line is present in the cache. -/
def Mem.present (m : Mem) (line : Nat) : Bool := m.cache.any fun x => x.line == line

/-- Block `b` of a segment stored from creel address `base` on can be read: a lost creel returns no data, so that only the lines
present in the bobbin store are left (R385). -/
def Mem.blockHere (m : Mem) (base fmt b : Nat) : Bool :=
  m.creel != .lost || (!m.degraded && (lineSpan (base + b * blockBytes fmt) (blockBytes fmt)).all m.present)

/-- The last block up to `b` that can be read. -/
def Mem.lastBlock (m : Mem) (base fmt : Nat) : Nat → Option Nat
  | 0 => if m.blockHere base fmt 0 then some 0 else none
  | b + 1 => if m.blockHere base fmt (b + 1) then some (b + 1) else m.lastBlock base fmt b

/-! ### Unpacking (R166, R167) -/

/-- Creel byte `o` of the segment stored from address `base` on (R352). -/
def Mem.segByte (m : Mem) (base o : Nat) : Byte := readByte m.data ((base + o) % creelBytes)

/-- The two bytes from byte `o` of a segment on. -/
def Mem.segHalf (m : Mem) (base o : Nat) : Nat := (m.segByte base o).toNat + 256 * (m.segByte base (o + 1)).toNat

/-- Value of native sample `i` of a segment stored from creel address `base` on, as I and Q: the value and 0 but in IQ16. -/
def Mem.stored (m : Mem) (base fmt i : Nat) : Int × Int :=
  let b := i / 64 * blockBytes fmt
  if fmt = 2 then (signed (m.segHalf base (b + 4 * (i % 64))) 16, signed (m.segHalf base (b + 4 * (i % 64) + 2)) 16)
  else if fmt = 1 then (signed (m.segHalf base (b + 2 * (i % 64)) / 16 * 16) 16, 0)
  else (signed (m.segHalf base (b + 2 * (i % 64))) 16, 0)

/-- Native sample `i` of a segment as it plays: where the creel returns no data, the last sample before it that could be read; none
where there is none (R385; DEDUCED, log entry 72). -/
def Mem.sample (m : Mem) (base fmt i : Nat) : Option (Int × Int) :=
  (m.lastBlock base fmt (i / 64)).map fun b => m.stored base fmt (if b = i / 64 then i else 64 * b + 63)

/-- Stored bit of marker MKm of native sample `i`; 0 in S16 and IQ16, and where the creel returns no data. -/
def Mem.markerBit (m : Mem) (base fmt i k : Nat) : Bool :=
  let b := i / 64 * blockBytes fmt
  m.blockHere base fmt (i / 64)
    && (if fmt = 1 then bit (m.segByte base (b + 2 * (i % 64))) k
      else if fmt = 3 then bit (m.segByte base (b + 128 + 8 * k + i % 64 / 8)) (i % 8)
      else false)

/-! ### The passes that WAV carries -/

/-- The present pass as the output stages see it; once no pass plays, the last one as it ended. -/
def Chan.passRec (c : Chan) : PassRec :=
  if c.seq.playing then
    { c.ply.cur with lock := c.ply.lock, per := c.freePer, inst := c.ply.baseInst, idx := c.ply.baseIdx, slices := c.ply.slices }
  else c.ply.cur

/-- Read index of a pace-locked pass at an instant before its first sample. DESIGN CHOICE (log entry 68): below 0, at the rate of its
first slice, or past every tap while none is laid, where the output is 0. -/
def PassRec.lead (r : PassRec) (x : Q16) : Int :=
  match r.slices with
  | s :: _ => if s.t0 < s.t1 then (x - s.t0) * (s.i1 * 2 ^ 24) / (s.t1 - s.t0) else -(((Config.taps.half + 1) * 2 ^ 48 : Nat) : Int)
  | [] => -(((Config.taps.half + 1) * 2 ^ 48 : Nat) : Int)

/-- Read index of a pass at instant `x`, 48 fractional bits (R175): the slices', or at the uniform rate. -/
def PassRec.posAt (r : PassRec) (x : Q16) : Int :=
  if r.lock then
    if !r.begins.notAfter x then r.lead x
    else match sliceFor x r.slices with
      | some s =>
        if s.t1 ≤ x then s.i1 * 2 ^ 24
        else if x ≤ s.t0 then s.i0 * 2 ^ 24
        else s.i0 * 2 ^ 24 + (x - s.t0) * ((s.i1 - s.i0) * 2 ^ 24) / (s.t1 - s.t0)
      | none => 0
  else r.idx + (x * r.inst.den - r.inst.num) * (2 ^ 32 * r.per.den : Nat) / ((max 1 (r.per.num * r.inst.den) : Nat) : Int)

/-- The path is frozen at instant `x`: the slices up to it are over, or none is laid yet, and the next has not begun (R180). -/
def PassRec.frozenAt (r : PassRec) (x : Q16) : Bool :=
  r.lock && (match sliceFor x r.slices with
    | some s => decide (s.t1 ≤ x) || (decide (x < s.t0) && r.begins.notAfter x)
    | none => r.begins.notAfter x)

/-- The native sample of a pass whose nominal instant came last at instant `x`: in a freeze at a whole read index the sample
before it, the last one handed over, which at index 0 is -1, the last of the pass before (R180, R195). -/
def PassRec.sampleAt (r : PassRec) (x : Q16) : Int :=
  if r.frozenAt x then ceilInt (r.posAt x) (2 ^ 48) - 1 else r.posAt x / 2 ^ 48

/-- The instant `x` lies past the last sample of the pass. -/
def PassRec.pastEnd (r : PassRec) (x : Q16) : Bool := decide (((r.len * 2 ^ 48 : Nat) : Int) ≤ r.posAt x)

/-- The pass that plays at instant `x`, with those after it, the next one first, and those before it, the last one first. -/
def passFor (x : Q16) : List PassRec → List PassRec → Option (List PassRec × PassRec × List PassRec)
  | _, [] => none
  | newer, r :: older => if r.begins.notAfter x || older.isEmpty then some (newer, r, older) else passFor x (r :: newer) older

/-- Native sample of a pass, or of those before it for a negative index. A substitute pass of policy UNDERRUN = 1 holds the
last sample of the pass before it (R414). -/
def olderSample (m : Mem) : List PassRec → Int → Int × Int
  | [], _ => (0, 0)
  | r :: older, i =>
    let v := if 0 ≤ i then r.held.orElse fun _ => m.sample r.base r.fmt i.toNat else none
    match v, older with
    | some v, _ => v
    | none, [] => (0, 0)
    | none, o :: _ => olderSample m older (min (i + o.len) ((o.len : Int) - 1))

/-- The passes of the present run among those before the present one, newest first. -/
def ofRun (older : List PassRec) : List PassRec := older.takeWhile fun o => o.after != .ends

/-- Native sample `i` of the stream of passes, index 0 being that of pass `r`. DESIGN CHOICE (log entry 68): before the first
sample of a run every sample is 0, and past the last pass known its last sample repeats. -/
def streamSample (m : Mem) (older : List PassRec) : PassRec → List PassRec → Int → Int × Int
  | r, [], i => olderSample m (r :: older) (min i ((r.len : Int) - 1))
  | r, n :: newer, i =>
    if i < r.len then olderSample m (r :: older) i else streamSample m (r :: older) n newer (i - r.len)

/-! ### The use of cache lines (R356) -/

/-- The cache lines `ls` are the most recently used. -/
def Mem.touch (m : Mem) (ls : List Nat) : Mem :=
  { m with useCtr := m.useCtr + 1
           cache := m.cache.map fun (x : CacheLine) => if ls.contains x.line then { x with used := m.useCtr + 1 } else x }

/-- The lines of the pass playing that its samples handed over by the end of cycle `cyc` came from are used, in their order. Whatever
may evict a line, and whatever ends the pass, calls it first. -/
def Chan.usePlayed (c : Chan) (cyc : Nat) : Chan :=
  let r := c.ply.cur
  let n := (c.handed cyc + 63) / 64
  if c.seq.playing && r.held.isNone then
    let ls := lineSpan (r.base + c.mem.usedTo * blockBytes r.fmt) ((n - c.mem.usedTo) * blockBytes r.fmt)
    { c with mem := { ls.foldl (fun m l => m.touch [l]) c.mem with usedTo := max n c.mem.usedTo } }
  else c

/-! ### The resampler (R175) -/

/-- Output of the resampler at read index `pos` (48 fractional bits), in units of 2^-102: the phase below it and the one above
it, interpolated linearly, the same for I and Q. -/
def resample (smp : Int → Int × Int) (pos : Int) : Int × Int :=
  let i := pos / 2 ^ 48
  let f := (pos % 2 ^ 48).toNat
  let ph := f / 2 ^ 38
  let lin : Int := ((f % 2 ^ 38 : Nat) : Int)
  let w := fun (k : Int) => (2 ^ 38 - lin) * Config.taps.weight ph k + lin * Config.taps.weight (ph + 1) k
  (tapPlaces Config.taps.half).foldl (fun a k =>
    let x := smp (i + k)
    (a.1 + w k * x.1, a.2 + w k * x.2)) (0, 0)

/-- The resampler's output at nominal instant `x`, with the pass that plays there: 0 past the end of a run (R116, R143), the
last sample handed over while the successor is late (R416), and the sample held while the waveform data is lost (R480). -/
def Chan.resampled (c : Chan) (x : Q16) : Option (PassRec × (Int × Int)) :=
  (passFor x [] (c.passRec :: c.ply.past)).map fun (newer, r, older) =>
    let pos := if r.after = .late then min (r.posAt x) (((r.len : Int) - 1) * 2 ^ 48) else r.posAt x
    if r.after = .ends ∧ r.pastEnd x then (r, (0, 0))
    else match c.ply.heldVal with
      | some (i, q) => (r, (i * 2 ^ (38 + tapBits), q * 2 ^ (38 + tapBits)))
      | none => (r, resample (streamSample c.mem (ofRun older) r (if r.after = .goes then newer else [])) pos)

/-! ### The carrier (R183 to R185) -/

/-- DN and DD of a sample setting, in lowest terms (R270). -/
def sampleDelta (setting : Word) : Nat × Nat :=
  let m := fld setting 16 16 + 1
  let a := 512 * m
  let b := fld setting 0 5 * m + fld setting 32 16
  let g := max 1 (Nat.gcd a b)
  (a / g, b / g)

/-- The carrier phase word at T = tInt + tNum / dd (R185). -/
def phaseWord (tInt tNum dd : Nat) (ftw : BitVec 48) (phi : BitVec 32) : BitVec 32 :=
  BitVec.ofInt 32 ((((tInt * dd + tNum : Nat) : Int) * ftw.toInt) / ((dd * 2 ^ 16 : Nat) : Int)) + phi

/-- π in units of 2^-60. -/
def piFix : Int := 3622009729038561421

/-- Terms of a power series from term `t` on, with argument squared `xx` (60 fractional bits), the next factorial's greater
factor being `k`. -/
def seriesFrom (xx : Int) : Nat → Int → Int → Int
  | 0, _, _ => 0
  | n + 1, t, k => t + seriesFrom xx n (-(t * xx / 2 ^ 60 / ((k - 1) * k))) (k + 2)

/-- Cosine of angle `p` of 2^20 to a cycle, as an 18-bit amplitude whose unit is 2^-17, rounded. DESIGN CHOICE (log entry 54):
1 is the amplitude 2^17, so that FTW = PHI = 0 passes a sample unchanged (R186). -/
def cosAmp (p : Nat) : Int :=
  let r : Nat := p % 2 ^ 18
  let x : Int := piFix * (r : Int) / 2 ^ 19
  let xx := x * x / 2 ^ 60
  let cosine := seriesFrom xx 14 (2 ^ 60) 2
  let sine := seriesFrom xx 14 x 3
  let v := match p / 2 ^ 18 % 4 with
    | 0 => cosine
    | 1 => -sine
    | 2 => -cosine
    | _ => sine
  (v + 2 ^ 42) / 2 ^ 43

/-- Sine of angle `p` of 2^20 to a cycle. -/
def sinAmp (p : Nat) : Int := cosAmp ((p + 3 * 2 ^ 18) % 2 ^ 20)

/-- The upper 20 bits of a phase word, rounded (R186). -/
def phase20 (w : BitVec 32) : Nat := (w.toNat + 2 ^ 11) / 2 ^ 12 % 2 ^ 20

/-! ### The mixer (R186, R241) -/

/-- MIX of the profile; 3 acts as 1 (R168). -/
def mixOf (cfg : Word) : Nat := if fld cfg 4 2 = 3 then 1 else fld cfg 4 2

/-- The mixer's result for a resampler output and a phase word: the output's unit times 2^-17. -/
def mixer (mix fmt : Nat) (s : Int × Int) (w : BitVec 32) : Int :=
  let p := phase20 w
  if mix = 0 then s.1 * 2 ^ 17
  else if mix = 2 ∧ fmt = 2 then s.1 * cosAmp p - s.2 * sinAmp p
  else s.1 * cosAmp p

/-- Gain on the mixer output during a range change, in parts of 2 µs (R241). -/
def Ana.gain (a : Ana) (x : Q16) : Nat :=
  match a.rangeAt with
  | none => 2 * us
  | some t =>
    let d := (x / 65536 - (t : Int)).toNat
    if d < 2 * us then 2 * us - d else if d < 3 * us then 0 else min (2 * us) (d - 3 * us)

/-- A result `n / d` as a code. A result between two codes takes either, which the manual leaves open (log entry 2). -/
def codeOf (n : Int) (d : Nat) : Int := if n % d = 0 then n / d else n / d + (Config.codeUp n d).toNat

/-- The nearest end of the 16-bit code range. -/
def saturate (v : Int) : Int := max (-32768) (min 32767 v)

/-- T of DAC sample `j` after the last anchor: T_int and T_num (R184). -/
def Ply.elapsed (p : Ply) (j : Int) : Nat × Nat :=
  let n := p.anchor.getD 0 * (max 1 p.dd : Nat) + j * p.dn
  ((n / (max 1 p.dd : Nat)).toNat, (n % (max 1 p.dd : Nat)).toNat)

/-- Instant of DAC sample `j` after the last anchor. -/
def Ply.sampleInst (p : Ply) (j : Int) : Q16 := p.anchorNow + j * (p.dn * 65536 : Nat) / (max 1 p.dd : Nat)

/-- The first DAC sample at or after instant `x`, counted from the last anchor. -/
def Ply.sampleFrom (p : Ply) (x : Q16) : Int :=
  max 0 (ceilInt ((x - p.anchorNow) * (max 1 p.dd : Nat)) (65536 * max 1 p.dn))

/-- PLY_WAV_SKEW plus PLY_WAV_DELAY as latched, in tbu (R195). -/
def Chan.wavShift (c : Chan) : Int := c.cal.skew 5 + sfld c.ply.lWavDelay 0 16

/-- The DAC has a clock: no dry run, and the gate of the active sample synthesizer open where none can be (R184, R192). -/
def Chan.dacClock (c : Chan) : Bool :=
  c.ply.anchor.isSome && c.ply.dryAt.isNone && (c.mod.state == .run || (c.syn.synths[c.syn.sampleActive]).gate)

/-- WAV carries the route or a held value (R116, R119, R127, R239, R240). -/
def Chan.wavDriven (c : Chan) : Bool := c.ply.wav != .zero && c.dacClock

/-- The mixer's result for DAC sample `j`, as a code before saturation; 0 where WAV is not driven (R185, R186, R195, R239). -/
def Chan.mixed (c : Chan) (j : Int) : Int :=
  if !c.wavDriven then 0
  else
    let x := c.ply.sampleInst j
    let t := c.ply.elapsed j
    match c.resampled (x - c.wavShift * 65536) with
    | none => 0
    | some (r, s) =>
      let w := phaseWord t.1 t.2 (max 1 c.ply.dd) c.ply.ftw c.ply.phi
      codeOf (mixer r.mix r.fmt s w) (2 ^ (55 + tapBits))

/-- The code of DAC sample `j`: the mixer's result, saturated (R186), with the gain of a range change (R241). -/
def Chan.dacCode (c : Chan) (j : Int) : Int := codeOf (saturate (c.mixed j) * c.ana.gain (c.ply.sampleInst j)) (2 * us)

/-- One of `n` DAC samples from `j` on lies outside the code range. -/
def Chan.clips (c : Chan) (j : Int) : Nat → Bool
  | 0 => false
  | n + 1 => c.mixed j != saturate (c.mixed j) || c.clips (j + 1) n

/-- The DAC samples before instant `x` are put out: SATURATE when one of them lay outside the code range (R186). Whatever
changes the output of the path calls it first. -/
def Chan.outTo (c : Chan) (x : Q16) : Chan :=
  let a := c.ply.sampleFrom c.ply.outAt
  let n := (c.ply.sampleFrom x - a).toNat
  { c with ply := { c.ply with events := evIf (c.wavDriven && c.clips a n) c.ply.events PlyEv.saturate, outAt := max c.ply.outAt x } }

/-- As `outTo`, before a host write of `v` to PLY_EVENTS: what the write clears need not be found. -/
def Chan.outClear (c : Chan) (x : Q16) (v : Word) : Chan :=
  if bit v PlyEv.saturate then { c with ply := { c.ply with outAt := max c.ply.outAt x } } else c.outTo x

/-! ### The waveform DAC (R238, R239, R457) -/

/-- Number `i` of 16 bits, signed, from offset `off` of the record in force; 0 without one (R455). -/
def Cal.entry (k : Cal) (off i : Nat) : Int :=
  match k.activeBank with
  | none => 0
  | some b => signed (recNum b (off + 2 * i) 2) 16

/-- What the correction of its bin adds to an instant that interpolator `t` reports, in whole tbu: bin j is reported as
j + 0.5 + BIN[t][j] / 256 (R457). DESIGN CHOICE (log entry 64): bin j is the whole tbu of the instant within its 512-tbu coarse
period, and the stamp is the whole tbu that the fine instant falls in. -/
def Cal.fine (k : Cal) (t : Nat) (at' : Tbu) : Int := (128 + k.entry (0x200 + 0x400 * t) (at' % 512)) / 256

/-- What the DAC gives for a code, in 1/16 of a code LSB: the code, less CELL[c] and the background correction of each unary
cell that is on, and RUNG[b] of each ladder bit that is set (R457, R471). DEDUCED (log entry 54): the cells and the ladder
bits that are on are those of the code in offset binary, its upper six bits counting the cells (R464: cells 1 to u on, ladder
0 to 9). -/
def Chan.dacLevel (c : Chan) (code : Int) : Int :=
  let u := (code + 32768).toNat
  let cells := ((List.range (u / 1024)).map fun i => c.cal.entry 0x40 i + vget c.cal.dacTrack (i + 1) 0).foldl (· + ·) 0
  let rungs := ((List.range 10).map fun b => if u / 2 ^ b % 2 = 1 then c.cal.entry 0xC0 b else 0).foldl (· + ·) 0
  16 * code - cells - rungs

/-- FS of a range into 50 Ω, in µV (R238). -/
def fullScale (r : BitVec 2) : Nat := if r = 1 then 500000 else if r = 2 then 1000000 else 250000

/-- The WAV output into 50 Ω for a code, in units of 2^-19 µV: c × FS / 32,768 with the corrections of R457 (R238). -/
def Chan.wavVolts (c : Chan) (code : Int) : Int := c.dacLevel code * fullScale c.ana.rangeNow

/-- The level at the WAV connector at instant `x`, in units of 2^-19 µV: that of the last DAC sample; 0 under the zero clamp
(R240), and through the internal 50 Ω with the switch open, as step 5 of DRAIN leaves it (R127, R508). -/
def Chan.wavAt (c : Chan) (x : Q16) : Int :=
  if !bit (c.switched (x / 65536).toNat).ana.sw 0 || c.ana.zclamp || !c.wavDriven then 0 else c.wavVolts (c.dacCode (max 0 (c.ply.sampleFrom (x + 1) - 1)))

/-! ### The markers (R145, R195) -/

/-- Level that native sample `i` of a pass gives marker `k`; a pulse counts native samples. -/
def PassRec.marker (m : Mem) (r : PassRec) (k : Fin 4) (i : Nat) : Bool :=
  match r.marks[k] with
  | .low => false
  | .high => true
  | .data => m.markerBit r.base r.fmt (min i (r.len - 1)) k.val
  | .pulse => decide (i < r.width)

/-- Level of marker `k` at sample `i` of a pass, or of those before it for a negative index; low before the first sample of a run. -/
def markerOf (m : Mem) (k : Fin 4) : List PassRec → Int → Bool
  | [], _ => false
  | r :: older, i => if 0 ≤ i then r.marker m k i.toNat else match older with
    | [] => false
    | o :: _ => markerOf m k older (i + o.len)

/-- Level of marker `k` at its connector at instant `x`: that of the last sample whose nominal instant, with PLY_MK_SKEW[k] and
PLY_MK_DELAY[k], has come; low where the path takes the markers low, and past the end of a run or of a pass whose successor is
late (R116, R416). -/
def Chan.markerAt (c : Chan) (k : Fin 4) (x : Q16) : Bool :=
  if c.ply.wav == .zero || (c.ply.markers[k] == .low && c.ply.passMk[k] != .low) then false
  else
    let y := x - (c.cal.skew (6 + k.val) + sfld c.ply.lMkDelay[k] 0 16) * 65536
    match passFor y [] (c.passRec :: c.ply.past) with
    | some (_, r, older) => !(r.after != .goes && r.pastEnd y) && markerOf c.mem k (r :: ofRun older) (r.sampleAt y)
    | none => false

/-- Swing of a marker output in mV, differential peak-to-peak; it has no emphasis (R504). -/
def markerSwing : Nat := 800

end Sys2Proof.Machine
end

