-- ==== Sys2Proof/Machine/PlayOps.lean ====
section
/-! DEFINITION. The playback path's events: knots and slices of pace-locked passes, freezing, the carrier's anchor, hops and
dry runs (R178 to R199). -/

namespace Sys2Proof.Machine

/-! ### Knots and slices (R178 to R181) -/

/-- Read index at knot K of the present pass, 24 fractional bits (R178). -/
def Chan.knotIndex (c : Chan) (k : BitVec 40) : Int := posDiff (cyclePos k) c.ply.p0 * c.ply.spc / (2 ^ 24 : Nat)

/-- Commit the next knot if the tracker has reached it, and lay the slice that it ends (R179); `thaw` is the instant
of a thaw. The knot takes its place among the committed events, which R44 emits in order (R178). -/
def Chan.commitKnot (c : Chan) (thaw : Option Q16) : Option Chan :=
  let k := c.ply.knot
  let x := cyclePos k
  if c.trk.state == .locked && c.trk.due x && !c.slicesDone then
    let plan := c.trk.plannedAt x (c.trk.instantOf x)
    let last := c.ply.slices.getLast?
    let t0 : Q16 := match thaw, last with
      | some t, _ => t
      | none, some s => s.t1
      | none, none => c.ply.t0
    let i0 : Int := match last with
      | some s => s.i1
      | none => 0
    let i1 := c.knotIndex k
    let p := c.ceilPer
    let atCeil : Int := (i1 - i0) * (p.num * 65536 : Nat) / (p.den * 2 ^ 24 : Nat)
    let dur := max (plan - t0) atCeil
    let clamp := decide (plan - t0 < atCeil)
    let s : Slice := { t0 := t0, t1 := t0 + dur, i0 := i0, i1 := i1, clamp := clamp
                       lag := ((t0 + dur - plan) / 65536).toNat }
    some { c with
      trk := { c.trk with
        committed := insertCommitted c.trk.edgePos { kind := .knot, pos := x, inst := c.trk.instantOf x } c.trk.committed }
      ply := { c.ply with slices := c.ply.slices ++ [s], knot := k + 1, events := evIf clamp c.ply.events PlyEv.overrate } }
  else none

/-- Commit every knot the tracker has reached, at most `n`. -/
def Chan.commitKnots (c : Chan) : Nat → Option Q16 → Chan
  | 0, _ => c
  | n + 1, thaw =>
    match c.commitKnot thaw with
    | some c' => c'.commitKnots n none
    | none => c

/-- At most this many knots are committed at one edge. -/
def knotFuel : Nat := 64

/-- How long a slice is kept after its end, for the outputs that PLY_WAV_DELAY and PLY_MK_DELAY bring later (R195). -/
def sliceKeep : Nat := 2 ^ 17

/-- Slices that no output needs any more are forgotten, the last one kept. -/
def Ply.trimSlices (p : Ply) (now : Tbu) : Ply :=
  match p.slices.getLast? with
  | some l => { p with slices := (p.slices.dropLast.filter fun s => decide (q16 now < s.t1 + q16 sliceKeep)) ++ [l] }
  | none => p

/-- An interruption of WAV and the markers at instant `x`: they carry what they would without the fault, or do not (R477). -/
def OutGap.note (g : OutGap) (x : Q16) (same : Bool) : OutGap :=
  match g.since, same with
  | some a, true => { since := none, longest := max g.longest (x - a) }
  | none, false => { g with since := some x }
  | _, _ => g

/-- The longest interruption up to instant `x`. -/
def OutGap.upTo (g : OutGap) (x : Q16) : Q16 := max g.longest (g.since.elim 0 (x - ·))

/-- What the faults in progress do to WAV and the markers from instant `x` on: nothing outside RUN or at the 0 of a freeze with
STOP = 1; the loss of a bobbin device nothing to a pass that holds, nor while a head is late (R477, R480, R414, R416). Whatever changes
one of these calls it after the change. -/
def Chan.noteGaps (c : Chan) (x : Q16) : Chan :=
  let rest := c.ply.ranTo.isSome || (c.ply.frozen && c.ply.wav == .zero)
  { c with ply := { c.ply with
    gapBob := c.ply.gapBob.note x (rest || c.mem.bobLostAt.isNone || c.seq.kind == .holdLast || c.seq.late)
    gapClk := c.ply.gapClk.note x (rest || c.ply.dryAt.isNone) } }

/-- A waypoint hop whose switch sample would lie in the freeze that ends at instant `now` is due then (R197). -/
def PendHop.thaw (h : PendHop) (now : Tbu) : PendHop := if h.host || !h.begun then h else { h with due := max h.due (q16 now) }

/-- A pass whose start position is predicted starts at `p0`; a pace-locked one is laid anew from there (R174, R177). -/
def Ply.startAt (p : Ply) (p0 : Word) : Ply :=
  if p.lock then { p with p0 := p0, runPa := p0, slices := [], knot := posInt p0 + 1 } else { p with p0 := p0 }

/-- The track position of a nominal instant, predicted from the last qualified edge: the fraction has no limit (R174). -/
def Tracker.predict (k : Tracker) (i : Q16) : Word :=
  if k.pest = 0 then k.edgePos else k.edgePos + BitVec.ofInt 64 ((i - k.e * 65536) * (2 ^ 24 : Nat) / (k.pest : Int))

/-- A qualified edge in fabric cycle `cyc`, up to the hand-over of the first sample of the pass: R174's prediction is made with
this edge. -/
def Chan.repredict (c : Chan) (cyc : Nat) : Chan :=
  if c.seq.playing && c.ply.predicted then
    if c.handed (cyc - 1) = 0 then
      let p0 := c.trk.predict c.ply.t0
      { c with seq := { c.seq with passPos := p0 }, ply := c.ply.startAt p0
               trk := if c.ply.lock then c.trk.unplace .knot else c.trk }
    else { c with ply := { c.ply with predicted := false } }
  else c

/-- Knots committed at a qualified edge, at instant `now`; a frozen path thaws with the knot it waited for (R181). -/
def Chan.knotsAtEdge (c : Chan) (now : Tbu) : Chan :=
  let c := c.repredict (cycleOf now)
  if c.seq.playing && c.ply.lock && c.mod.state == .run then
    let thaw := if c.ply.frozen then some (q16 now) else none
    let d := ((c.outTo (q16 now)).handFrom (cycleOf now)).commitKnots knotFuel thaw
    let d := { d with ply := d.ply.trimSlices now }
    if c.ply.frozen && d.ply.knot != c.ply.knot then
      let gap := d.mem.bobLostAt.isSome
      { d with ply := { d.ply with
        frozen := false, hops := d.ply.hops.map (PendHop.thaw · now)
        wav := if gap || d.seq.kind == PassKind.holdLast then .hold else .route
        markers := if gap then d.ply.markers else d.ply.passMk } }.noteGaps (q16 now) |>.publish (eventCycle now) Prod.thaw
    else d
  else c

/-- The path has reached the last committed knot (R180). -/
def Chan.freezeDue (c : Chan) (now : Tbu) : Bool :=
  c.mod.state == .run && c.seq.playing && c.ply.lock && !c.ply.frozen && !c.slicesDone &&
    (match c.ply.slices.getLast? with
     | some s => decide (s.t1 ≤ q16 now)
     | none => decide (c.ply.t0 ≤ q16 now))

/-- The mixer input is 0 and the markers are low while PACE is stopped, under STOP = 1 (R180). -/
def Chan.freezeZero (c : Chan) (now : Tbu) : Chan :=
  if c.ply.frozen && c.ply.stopZero then
    let c := c.outTo (q16 now)
    { c with ply := { c.ply with wav := .zero, markers := Vector.replicate 4 .low } }.noteGaps (q16 now) else c

/-- FREEZE (R180): a pace-locked path reaches a knot not yet committed. -/
def execFreeze (t : Tbu) (ch : ChanId) (s : State) : Host.Outcome State Fault Refusal :=
  let s := s.atTime t
  .next (s.modCh ch fun c =>
    if c.freezeDue s.now then
      let c := { c with ply := { c.ply with frozen := true, wav := .hold, events := evSet c.ply.events PlyEv.freeze } }
      let c := if c.trk.state = .stopped then c.freezeZero s.now else c
      c.publish (eventCycle s.now) Prod.freeze
    else c)

/-- The slice that holds native sample `i`: the first that ends after it, or the last. -/
def sliceOf (i : Int) : List Slice → Option Slice
  | [] => none
  | [s] => some s
  | s :: r => if i * 2 ^ 24 < s.i1 then some s else sliceOf i r

/-- PLY_STAT.CLAMP and LAG of what is handed over in cycle `cyc`: those of the slice whose sample was handed over last, of the pass
before until the first sample of this one is; in DRAIN as at its entry, else 0 outside RUN (R179, R197). -/
def Chan.clampNow (c : Chan) (cyc : Nat) : Bool × Nat :=
  if c.mod.state == .drain then (c.ply.drainClamp, c.ply.drainLag)
  else if c.mod.state == .run && c.seq.playing then
    if c.handed cyc = 0 then (c.ply.prevClamp, c.ply.prevLag)
    else if c.ply.lock then
      match sliceOf ((c.handed cyc : Int) - 1) c.ply.slices with
      | some s => (s.clamp, min s.lag (2 ^ 32 - 1))
      | none => (false, 0)
    else (c.overRate, 0)
  else (false, 0)

/-! ### The carrier (R183 to R191) -/

/-- The NCO anchors at instant `now`, time-base count `t`, on the grid of the active sample setting (R184). -/
def Chan.anchorAt (c : Chan) (now : Tbu) (t : Int) : Chan :=
  let d := sampleDelta (c.syn.synths[c.syn.sampleActive]).setting
  { c with ply := { c.ply with anchor := some t, anchorNow := q16 now, outAt := q16 now, dn := d.1, dd := d.2 } }

/-- The switch sample of a hop due at instant `due`: T_int, and the instant rounded up to a whole tbu. It is the first DAC
sample at or after `due` on the grid of the last anchor; without one, the instant rounded down, at which T_int is 0 while REF
has not qualified (R27, R189). -/
def Ply.switchSample (p : Ply) (epoch : Option Tbu) (due : Q16) : Int × Int :=
  match p.anchor with
  | none => (due / 65536 - (epoch.map Int.ofNat).getD (due / 65536), due / 65536)
  | some a =>
    let j := p.sampleFrom due
    (a + j * (p.dn : Int) / (max 1 p.dd : Nat), p.anchorNow / 65536 + ceilInt (j * p.dn) (max 1 p.dd))

/-- Entry word of the hop table (R187). -/
def Ply.hopWord (p : Ply) (idx : Byte) (k : Nat) : Word := sget 0 p.table (2 * idx.toNat + k)

/-- What a hop does to the NCO (R188). -/
def Ply.applyHop (p : Ply) (h : PendHop) : Ply :=
  let p := if bit h.op 0 then { p with ftw := BitVec.ofNat 48 h.w0.toNat } else p
  if bit h.op 1 then
    let ph : BitVec 32 := BitVec.ofNat 32 h.w1.toNat
    { p with phi := if bit h.w0 48 then p.phi + ph else ph }
  else p

/-- The first prepared hop and its switch sample, if that sample has come by instant `now`; a waypoint hop switches once its
pass has begun, and not in a freeze (R189, R197). -/
def Chan.hopDue (c : Chan) (epoch : Option Tbu) (now : Tbu) : Option (PendHop × Int × Int) :=
  (c.ply.hops.map fun h => (h, c.ply.switchSample epoch h.due)).find? fun x =>
    decide (x.2.2 ≤ now) && x.1.begun && (x.1.host || !c.ply.frozen)

/-- A hop switches at the sample of T_int, in fabric cycle `cyc` (R189, R190). -/
def Chan.hopSwitch (c : Chan) (cyc : Nat) (h : PendHop) (tInt : Int) : Chan :=
  let c := c.outTo (c.ply.anchorNow + (tInt - c.ply.anchor.getD tInt) * 65536)
  let p := c.ply.applyHop h
  { c with ply := { p with hops := p.hops.erase h, lastHop := BitVec.ofInt 64 tInt
                           events := evSet p.events (if h.host then PlyEv.hostHop else PlyEv.hop) } }.publish cyc Prod.hop

/-- HOP_SWITCH (R189). -/
def execHopSwitch (t : Tbu) (ch : ChanId) (s : State) : Host.Outcome State Fault Refusal :=
  let s := s.atTime t
  .next (s.modCh ch fun c => match c.hopDue s.trk.epoch s.now with
    | some (h, tInt, x) => c.hopSwitch (eventCycle x.toNat) h tInt
    | none => c)

/-- A waypoint hop is prepared (PLY_STAT.HOP_PEND). -/
def Ply.hopPend (p : Ply) : Bool := p.hops.any fun h => !h.host

/-- Prepare a hop: the engine reads entry `idx` in fabric cycle `readAt`, and it is due at instant `due`. -/
def Chan.prepareHop (c : Chan) (host : Bool) (op : BitVec 3) (idx : Byte) (readAt : Nat) (due : Q16) : Chan :=
  { c with ply := { c.ply with hops := c.ply.hops ++
    [{ host := host, op := op, idx := idx, readAt := readAt, w0 := c.ply.hopWord idx 0, w1 := c.ply.hopWord idx 1, due := due, begun := host }] } }

/-- PLY_HOP_CMD = READ (R190). -/
def Chan.hopRead (c : Chan) : Chan :=
  let i : Byte := BitVec.ofNat 8 (fld c.ply.hopIdx 0 8)
  { c with ply := { c.ply with hopW0 := c.ply.hopWord i 0, hopW1 := c.ply.hopWord i 1, hopResult := 0 } }

/-- HOP_READ (R190). -/
def execHopRead (t : Tbu) (ch : ChanId) (s : State) : Host.Outcome State Fault Refusal :=
  .next ((s.atTime t).ifWindow fun s => s.modCh ch Chan.hopRead)

/-- A prepared hop whose entry is written in cycle `cyc`: an engine read in a later cycle takes the new entry, one in
an earlier cycle keeps the old; in the same cycle it takes either, whole, which the manual leaves open (log entry 2). -/
def PendHop.onWrite (h : PendHop) (cyc free : Nat) (idx : Byte) (w0 w1 : Word) : PendHop :=
  if h.idx = idx ∧ (cyc < h.readAt ∨ (cyc = h.readAt ∧ Config.hopReadNew free)) then { h with w0 := w0, w1 := w1 } else h

/-- PLY_HOP_CMD = WRITE (R190): the entry as a whole, refused with RANGE for a reserved bit. -/
def State.hopWrite (s : State) (ch : ChanId) : State :=
  let c := s.ch ch
  let p := c.ply
  if fld p.hopW0 49 15 ≠ 0 ∨ fld p.hopW1 32 32 ≠ 0 then s.setCh ch { c with ply := { p with hopResult := 0x02 } }
  else
    let i : Byte := BitVec.ofNat 8 (fld p.hopIdx 0 8)
    let tab := sput 0 (sput 0 p.table (2 * i.toNat) p.hopW0) (2 * i.toNat + 1) p.hopW1
    (s.setCh ch { c with ply := { p with
      table := tab, hopResult := 0
      hops := p.hops.map fun h => h.onWrite s.cycle s.freeCtr i p.hopW0 p.hopW1 } }).drawn

/-- HOP_WRITE (R190). -/
def execHopWrite (t : Tbu) (ch : ChanId) (s : State) : Host.Outcome State Fault Refusal := .next ((s.atTime t).ifWindow fun s => s.hopWrite ch)

/-- 40 ns in tbu, the least lead of an APPLY (R190). -/
def applyLead : Nat := 20480

/-- PLY_HOP_CMD = APPLY with operation `op` (R190). -/
def State.hopApply (s : State) (ch : ChanId) (op : BitVec 3) : State :=
  s.modCh ch fun c =>
    if op = 0 ∨ 4 ≤ op.toNat then { c with ply := { c.ply with hopResult := 0x02 } }
    else if c.ply.hopPend then { c with ply := { c.ply with hopResult := 0x03 } }
    else
      let c := c.prepareHop true op (BitVec.ofNat 8 (fld c.ply.hopIdx 0 8)) s.cycle (q16 (s.now + applyLead))
      { c with ply := { c.ply with hopResult := 0 } }

/-- APPLY (R190). -/
def execHopApply (t : Tbu) (ch : ChanId) (op : BitVec 3) (s : State) : Host.Outcome State Fault Refusal :=
  .next ((s.atTime t).ifWindow fun s => s.hopApply ch op)

/-! ### Dry runs (R192, R193) -/

/-- The sample gate closes in RUN: a dry run begins; `ref` says that REF is lost (R192, R484). -/
def Chan.dryStart (c : Chan) (now : Tbu) (ref : Bool) : Chan :=
  if c.mod.state = .run ∧ c.ply.dryAt = none then
    let c := c.outTo (q16 now)
    ({ c with ply := { c.ply with dryAt := some now, dryRef := ref, events := evSet c.ply.events PlyEv.clkGap } }.noteGaps
      (q16 now)).publish (eventCycle now) Prod.clkGap
  else c

/-- Output resumes after a dry run (R193). -/
def Chan.dryEnd (c : Chan) (now : Tbu) : Chan :=
  match c.ply.dryAt with
  | some a =>
    ({ c with ply := { c.ply with dryAt := none, gap := word (now - a) }
              flt := { c.flt with dryLong := false } }.noteGaps (q16 now)).publish (eventCycle now) Prod.reentry
  | none => c

/-- A free-running pass that the new sample rate takes to the ceiling is flagged (R170, R171). -/
def Chan.flagRate (c : Chan) : Chan :=
  let high := c.mod.state == .run && c.seq.playing && !c.ply.lock && c.overRate
  { c with ply := { c.ply with events := evIf high c.ply.events PlyEv.overrate } }

/-- The DAC clock starts at instant `now`, time-base count `tb`: the free-running rate follows the new setting, the NCO
anchors, the zero clamp is released and a dry run ends (R170, R184, R193, R240). -/
def Chan.clockStart (c : Chan) (now : Tbu) (tb : Nat) : Chan :=
  let c := (((c.outTo (q16 now)).rebase (q16 now)).anchorAt now tb).flagRate
  let c := { c with ana := { c.ana with zclamp := false } }
  c.dryEnd now

/-- The playback path at REST: a dry run ends unpublished, and the freeze is cleared (R193, R197). -/
def Chan.plyRest (c : Chan) (now : Tbu) : Chan :=
  let c := match c.ply.dryAt with
    | some a => { c with ply := { c.ply with dryAt := none, gap := word (now - a) }, flt := { c.flt with dryLong := false } }
    | none => c
  { c with ply := { c.ply with wav := .zero, markers := Vector.replicate 4 .low, frozen := false, slices := []
                               drainClamp := false, drainLag := 0, hops := c.ply.hops.filter (·.host) } }

/-- WAV at 0 V, the markers low and prepared waypoint hops dropped (R116, R119, R127). -/
def Chan.plyQuiet (c : Chan) (now : Tbu) : Chan :=
  let c := c.outTo (q16 now)
  { c with ply := { c.ply with wav := .zero, markers := Vector.replicate 4 .low, ranTo := some (c.ply.ranTo.getD (q16 now))
                               hops := c.ply.hops.filter (·.host) } }.noteGaps (q16 now)

/-- The playback path at the boundary that ends a run: the samples handed over still come out; after them WAV is at 0 V and the
markers are low (R116, R143, R195). -/
def Chan.plyEnd (c : Chan) (now : Tbu) : Chan :=
  let c := c.outTo (q16 now)
  let b := c.boundaryExact.floor
  { c with ply := { c.ply with cur := { c.passRec with after := .ends }, ranTo := some (c.ply.ranTo.getD b)
                               hops := c.ply.hops.filter (·.host) } }.noteGaps b

/-- The playback path in HELD: `hard` says that the pass is cut now (R116, R158). -/
def Chan.plyHeld (c : Chan) (now : Tbu) (hard : Bool) : Chan :=
  let c := if hard then c.plyQuiet now else c.plyEnd now
  { c with ply := { c.ply with frozen := false, slices := [] } }

/-- The playback path in DRAIN; `done` says that the route has played to its end (R127, R143, R197). -/
def Chan.plyDrain (c : Chan) (now : Tbu) (done : Bool) : Chan :=
  let k := c.clampNow (cycleOf now)
  let c := if done then c.plyEnd now else c.plyQuiet now
  { c with ply := { c.ply with drainClamp := k.1, drainLag := k.2 } }

/-- Whole ns of a time with 16 fractional bits (R490; log entry 46). -/
def gapNs (d : Q16) : Nat := d.toNat / (65536 * ns)

/-- The interruption of WAV and the markers by a failed sample synthesizer up to instant `now` (R477). -/
def Chan.wavGap (c : Chan) (now : Tbu) : Nat := gapNs (c.ply.gapClk.upTo (q16 now))

/-- The interruption of the lanes by a failed lane synthesizer: a frame that its gate has cut stays low to its end (R232, R477). -/
def Chan.laneGap (c : Chan) : Nat := gapNs (c.cutTo c.dst.laneCut (c.lostOf c.dst.issued)).longest

/-- The interruption of a channel by a lost bobbin device up to instant `now`: the longer of that of WAV and the markers and that of
the memory-sourced lanes (R477, R480). -/
def Chan.bobGap (c : Chan) (now : Tbu) : Nat :=
  gapNs (max (c.ply.gapBob.upTo (q16 now)) (c.cutTo c.dst.shortCut (c.shortOf c.dst.issued)).longest)

/-- The gaps of a failed active synthesizer count from instant `now` on (R477). -/
def Chan.gapStart (c : Chan) (lane : Bool) (now : Tbu) : Chan :=
  let c := c.dstTo (q16 now)
  if lane then { c with dst := { c.dst with laneCut := { clip := q16 now } } }
  else { c with ply := { c.ply with gapClk := {} } }.noteGaps (q16 now)

/-- What an accepted ARM latches (R169). -/
def Chan.plyArm (c : Chan) : Chan :=
  { c with ply := { c.ply with lProfCfg := c.ply.profCfg, lProfRate := c.ply.profRate
                               lWavDelay := c.ply.wavDelay, lMkDelay := c.ply.mkDelay } }

end Sys2Proof.Machine
end

