-- ==== Sys2Proof/Machine/SegOps.lean ====
section
/-! DEFINITION. Segments, waypoints, routes, resume points and queues: reading the stores, the residency of
segments in the bobbin store, and the loop stack (R132 to R143, R352 to R356, R404 to R413, R515). -/

namespace Sys2Proof.Machine

/-! ### Descriptors (R133) -/

abbrev SegId := BitVec 18

def Seq.descD0 (q : Seq) (s : SegId) : Word := sget 0 q.segs (2 * s.toNat)
def Seq.descD1 (q : Seq) (s : SegId) : Word := sget 0 q.segs (2 * s.toNat + 1)
def Seq.segValid (q : Seq) (s : SegId) : Bool := bit (q.descD0 s) 63
def Seq.segStreamed (q : Seq) (s : SegId) : Bool := bit (q.descD0 s) 62
def Seq.segProfile (q : Seq) (s : SegId) : BitVec 4 := BitVec.ofNat 4 (fld (q.descD0 s) 58 4)
def Seq.segQueue (q : Seq) (s : SegId) : Nat := fld (q.descD0 s) 46 12
def Seq.segLen64 (q : Seq) (s : SegId) : Nat := fld (q.descD0 s) 0 24
def Seq.segAddr (q : Seq) (s : SegId) : Nat := fld (q.descD1 s) 0 34

/-! ### Waypoints (R136) -/

abbrev WpId := BitVec 16

def Seq.wpWord (q : Seq) (w : WpId) (k : Nat) : Word := sget 0 q.wpt (4 * w.toNat + k)
def Seq.wpRepeat (q : Seq) (w : WpId) : Nat := fld (q.wpWord w 0) 32 32
def Seq.wpEnd (q : Seq) (w : WpId) : Bool := bit (q.wpWord w 0) 29
def Seq.wpClose (q : Seq) (w : WpId) : Bool := bit (q.wpWord w 0) 28
def Seq.wpWait (q : Seq) (w : WpId) : Nat := fld (q.wpWord w 0) 26 2
def Seq.wpAdvEn (q : Seq) (w : WpId) : Bool := bit (q.wpWord w 0) 24
def Seq.wpSeg (q : Seq) (w : WpId) : SegId := BitVec.ofNat 18 (fld (q.wpWord w 0) 0 18)
def Seq.wpCount (q : Seq) (w : WpId) : Nat := fld (q.wpWord w 1) 32 32
def Seq.wpStart (q : Seq) (w : WpId) : WpId := BitVec.ofNat 16 (fld (q.wpWord w 1) 16 16)
def Seq.wpJump (q : Seq) (w : WpId) (j : Nat) : WpId := BitVec.ofNat 16 (fld (q.wpWord w 2) (16 * j) 16)
def Seq.wpJen (q : Seq) (w : WpId) (j : Nat) : Bool := bit (q.wpWord w 3) (32 + j)
def Seq.wpHopIdx (q : Seq) (w : WpId) : Byte := BitVec.ofNat 8 (fld (q.wpWord w 3) 40 8)
def Seq.wpHopOp (q : Seq) (w : WpId) : BitVec 3 := BitVec.ofNat 3 (fld (q.wpWord w 3) 37 3)
def Seq.wpMkWidth (q : Seq) (w : WpId) : Nat := (fld (q.wpWord w 3) 20 4 + 1) * 64
def Seq.wpMkMode (q : Seq) (w : WpId) (m : Nat) : Nat := fld (q.wpWord w 3) (8 + 2 * m) 2
def Seq.wpValid (q : Seq) (w : WpId) : Bool := bit (q.wpWord w 3) 0

/-- A reserved bit of the waypoint is set (R136). -/
def Seq.wpReserved (q : Seq) (w : WpId) : Bool :=
  fld (q.wpWord w 0) 30 2 != 0 || bit (q.wpWord w 0) 25 || fld (q.wpWord w 0) 18 6 != 0 || fld (q.wpWord w 1) 0 16 != 0
    || fld (q.wpWord w 3) 48 16 != 0 || bit (q.wpWord w 3) 36 || fld (q.wpWord w 3) 24 8 != 0
    || fld (q.wpWord w 3) 16 4 != 0 || fld (q.wpWord w 3) 1 7 != 0

/-! ### The latched route (R138) -/

def Seq.first (q : Seq) : WpId := BitVec.ofNat 16 (fld q.lRoute 0 16)
def Seq.last (q : Seq) : WpId := BitVec.ofNat 16 (fld q.lRoute 16 16)
def Seq.from' (q : Seq) : Bool := bit q.lRoute 32
def Seq.inRange (q : Seq) (w : WpId) : Bool := decide (q.first.toNat ≤ w.toNat) && decide (w.toNat ≤ q.last.toNat)
def Seq.idleSeg (q : Seq) : SegId := BitVec.ofNat 18 (fld q.lIdle 0 18)
def Seq.sidingSeg (q : Seq) : SegId := BitVec.ofNat 18 (fld q.lRouteCfg 32 18)

/-- UNDERRUN as latched; 3 acts as 1 (R165). -/
def Seq.underrun (q : Seq) : Nat := if fld q.lRouteCfg 0 2 = 3 then 1 else fld q.lRouteCfg 0 2

/-- The waypoints of the latched route, in ascending order. -/
def Seq.waypoints (q : Seq) : List WpId :=
  (List.range' q.first.toNat (q.last.toNat + 1 - q.first.toNat)).map fun n => BitVec.ofNat 16 n

/-- Some waypoint of the route waits. -/
def Seq.waits (q : Seq) : Bool := q.waypoints.any fun w => q.wpWait w != 0

/-- A segment is in the route set of R139. -/
def Seq.inRouteSet (q : Seq) (s : SegId) : Bool :=
  (q.waypoints.any fun w => q.wpSeg w == s) || (q.waits && q.idleSeg == s) || (q.underrun == 2 && q.sidingSeg == s)

/-! ### The loop stack and resume points (R141, R142, R157, R515) -/

/-- An entry in the format of SEQ_STACK[k]. -/
def StackEntry.toWord (e : StackEntry) : Word := pack [(e.left.toNat, 32), (e.start.toNat, 16), (e.close.toNat, 0)]

/-- Pop, from the top (the last of the list) down, every entry that does not contain `t` (R142). -/
def popFor (t : WpId) (st : List StackEntry) : List StackEntry :=
  st.filter fun e => decide (e.start.toNat ≤ t.toNat) && decide (t.toNat ≤ e.close.toNat)

def Seq.resumeWp (q : Seq) : WpId := BitVec.ofNat 16 (fld q.resume 32 16)
def Seq.resumePass (q : Seq) : Nat := fld q.resume 0 32
def Seq.resumeCount (q : Seq) : Nat := fld q.resumeDepth 0 2

/-- Stored stack entry `k`. -/
def Seq.resumeEntry (q : Seq) (k : Nat) : StackEntry :=
  let w := vget q.resumeStk k 0
  { close := BitVec.ofNat 16 (fld w 0 16), start := BitVec.ofNat 16 (fld w 16 16)
    left := BitVec.ofNat 32 (fld w 32 32), unltd := bit q.resumeDepth (2 + k) }

/-- The stored stack, outermost entry first. -/
def Seq.resumeStack (q : Seq) : List StackEntry := (upTo q.resumeCount).map q.resumeEntry

/-- The registers SEQ_RESUME_DEPTH and SEQ_RESUME_STK that hold a stack.
DESIGN CHOICE (log entry 85): the entries at or above the depth are written with 0. -/
def Seq.storeStack (q : Seq) (st : List StackEntry) : Seq :=
  { q with
    resumeDepth := pack [(st.length, 0), (((upTo 3).filter fun k => (st[k]?.map (·.unltd)).getD false).foldl (fun m k => m + 2 ^ k) 0, 2)]
    resumeStk := #v[(st[0]?.map StackEntry.toWord).getD 0, (st[1]?.map StackEntry.toWord).getD 0, (st[2]?.map StackEntry.toWord).getD 0] }

/-- Write the resume point (R157, R158).
DESIGN CHOICE (log entry 85): PASS shows a count of passes above 2^32 - 1 as 2^32 - 1. -/
def Seq.setResume (q : Seq) (wp : WpId) (done : Nat) (st : List StackEntry) : Seq :=
  let q := q.storeStack st
  { q with resume := pack [(1, 63), (wp.toNat, 32), (min done (2 ^ 32 - 1), 0)]
           events := evSet q.events SeqEv.resumeSet }

/-- A stored stack entry matches under R515; `outer` is the entry before it. -/
def Seq.entryMatches (q : Seq) (e : StackEntry) (outer : Option StackEntry) : Bool :=
  q.inRange e.close && q.wpValid e.close && q.wpClose e.close && e.start == q.wpStart e.close
    && (e.unltd == (q.wpCount e.close == 0))
    && (e.unltd || (decide (1 ≤ e.left.toNat) && decide (e.left.toNat ≤ q.wpCount e.close)))
    && decide (e.start.toNat ≤ q.resumeWp.toNat) && decide (q.resumeWp.toNat ≤ e.close.toNat)
    && (match outer with
        | none => true
        | some o => decide (o.start.toNat ≤ e.start.toNat) && decide (e.close.toNat ≤ o.close.toNat)
          && !(o.start == e.start && o.close == e.close))

/-- Every stored stack entry matches. -/
def Seq.stackMatches (q : Seq) : Option StackEntry → List StackEntry → Bool
  | _, [] => true
  | o, e :: r => q.entryMatches e o && q.stackMatches (some e) r

/-- The resume point passes the RESUME test of R139. -/
def Seq.resumeOk (q : Seq) : Bool := bit q.resume 63 && q.inRange q.resumeWp && q.stackMatches none q.resumeStack

/-- Where a start begins: the waypoint, its completed passes and the loop stack (R138, R157). DESIGN CHOICE (log entry 81): a resume point
written since the ARM was checked is used as it stands. -/
def Seq.startPoint (q : Seq) : WpId × Nat × List StackEntry :=
  if q.fromResume then (q.resumeWp, q.resumePass, q.resumeStack) else (q.first, 0, [])

/-- A start at a waypoint with WAIT begins with an idle pass (R146, R157); one whose passes have begun does not wait
again (DEDUCED, log entry 12). -/
def Seq.startIdle (q : Seq) : Bool := q.wpWait q.startPoint.1 != 0 && q.startPoint.2.1 == 0

/-- Segment of the first pass of a start. -/
def Seq.startSeg (q : Seq) : SegId := if q.startIdle then q.idleSeg else q.wpSeg q.startPoint.1

/-- The successor of a completed waypoint, and the stack after it; none is ROUTE_END (R141). -/
def Seq.complete (q : Seq) (w : WpId) (st : List StackEntry) : Option WpId × List StackEntry :=
  if q.wpEnd w then (none, st)
  else
    let after := fun (st : List StackEntry) => if q.last.toNat < w.toNat + 1 then (none, st) else (some (w + 1), st)
    if q.wpClose w then
      let top := match st.getLast? with
        | some e => if e.close = w then some e else none
        | none => none
      let e : StackEntry := top.getD
        { close := w, start := q.wpStart w, left := BitVec.ofNat 32 (q.wpCount w), unltd := q.wpCount w == 0 }
      let below := if top.isSome then st.dropLast else st
      let e := if e.unltd then e else { e with left := e.left - 1 }
      if e.unltd || e.left != 0 then (some e.start, below ++ [e]) else after below
    else after st

/-! ### Sizes, lines and the cache (R352, R354, R389) -/

/-- Format of a profile as latched at ARM. -/
def Ply.formatOf (p : Ply) (prof : BitVec 4) : Nat := fld (vget p.lProfCfg prof.toNat 0) 0 2

/-- Format of a profile in its register. -/
def Ply.formatReg (p : Ply) (prof : BitVec 4) : Nat := fld (vget p.profCfg prof.toNat 0) 0 2

/-- Creel lines of a head that begins at byte address `addr` and belongs to a segment of `size` bytes (R352). -/
def headLines (addr size : Nat) : List Nat := lineSpan addr (min size 131072)

/-- Size of a segment in bytes (R352). -/
def Chan.segBytes (c : Chan) (s : SegId) : Nat := c.seq.segLen64 s * blockBytes (c.ply.formatOf (c.seq.segProfile s))

/-- Head lines of a segment. -/
def Chan.segHead (c : Chan) (s : SegId) : List Nat := headLines (c.seq.segAddr s) (c.segBytes s)

/-- Lines of the cache. -/
def Mem.cacheLines (m : Mem) : Nat := 18432 - m.pin

def Mem.held (m : Mem) : Nat := (m.cache.filter (·.held)).length

/-- Every one of the lines is present and held. -/
def Mem.allHeld (m : Mem) (ls : List Nat) : Bool := ls.all fun l => m.cache.any fun x => x.line == l && x.held

/-! ### Requests at the creel controller (R368) -/

/-- Requests for any of these uses are done with. -/
def Mem.dropUses (m : Mem) (l : List ReqUse) : Mem :=
  { m with reqs := m.reqs.filter fun r => !l.contains r.use, inflight := m.inflight.filter fun r => !l.contains r.use
           loading := m.loading.filter fun x => !l.contains x.1 }

/-- The bobbin prefetch and creel-direct reads of a route are done with; a reload of pinned lines goes on. -/
def Mem.dropRefill (m : Mem) : Mem := m.dropUses [.head, .ahead, .direct]

/-- The pinned lines are to be reloaded from their backing lines (R348, R358); without a bobbin store there is nothing to
reload (R384). -/
def Mem.reloadPins (m : Mem) : Mem :=
  { m.dropUses [.pin] with pinLoad := decide (0 < m.pin) && !m.degraded, pinNext := 0 }

/-- No write is waiting at the controller, on its way, or posted for an excused device (R127 step 6, R364). -/
def Mem.writesDone (m : Mem) : Bool :=
  m.reqs.all (fun r => !r.write) && m.inflight.all (fun r => !r.write) && m.devs.toList.all fun d => d.posted.isEmpty

/-- Bytes written through a port: the creel takes them at once, in the order in which the controller receives the writes
(R357, R365), and each burst they touch is a request. -/
def Mem.writeThrough (m : Mem) (p : Fin 4) (addr : Nat) (bytes : List Byte) (now : Tbu) : Mem :=
  let first := addr / 64
  let n := if bytes.isEmpty then 0 else (addr + bytes.length - 1) / 64 - first + 1
  let m := { m with data := writeBytes m.data addr bytes }
  (upTo n).foldl (fun m i => m.enqueue p .write (64 * (first + i)) now) m

/-- A creel write: the samples put out so far have read the units as they stood (R357; DESIGN CHOICE, log entry 73). -/
def Chan.creelWrite (c : Chan) (p : Fin 4) (addr : Nat) (bytes : List Byte) (now : Tbu) : Chan :=
  let c := c.outTo (q16 now)
  { c with mem := c.mem.writeThrough p addr bytes now }

/-! ### Queues (R404, R411) -/

/-- What an unlisted queue is: CLOSED. -/
def Queue.none : Queue := {}
def Stq.q (s : Stq) (i : Nat) : Queue := sget Queue.none s.queues i
def Stq.setQ (s : Stq) (i : Nat) (x : Queue) : Stq := { s with queues := sput Queue.none s.queues i x }

/-- The oldest unplayed fill is ready (R411, R412). -/
def Queue.fillReady (x : Queue) : Bool := decide (x.played < x.ready)

/-- The oldest unplayed fill is ready at a gate evaluated in cycle `cyc`: it became ready before that cycle (R420). -/
def Queue.readyAtGate (x : Queue) (cyc : Nat) : Bool :=
  decide (x.played + (if x.readyIn = cyc then x.readyNew else 0) < x.ready)

/-- READY: complete fills not yet played (R411). -/
def Queue.slack (x : Queue) : Nat := x.complete - x.played

def Queue.nbuf (x : Queue) : Nat := fld x.word 19 8
def Queue.low (x : Queue) : Nat := fld x.word 27 4
def Queue.seg (x : Queue) : SegId := BitVec.ofNat 18 (fld x.word 31 18)
def Queue.notify (x : Queue) : Bool := bit x.word 6

/-- Bytes of a segment's data in the queue's binding: S of R407. -/
def Queue.size (x : Queue) : Nat := x.len64 * blockBytes x.fmt.toNat
/-- U of R407: the fill size in 64-byte units. -/
def Queue.units (x : Queue) : Nat := ceilDiv x.size 64
/-- The stride of R407. -/
def Queue.stride (x : Queue) : Nat := ceilDiv x.size 4096 * 4096
/-- Length of a BULK queue in bytes. -/
def Queue.bulkLen (x : Queue) : Nat := fld x.word 19 23 * 4096
def Queue.bulkBase (x : Queue) : Nat := fld x.word 42 22 * 4096

/-- Creel address at which fill `k` begins (R407). -/
def Queue.fillAddr (x : Queue) (k : Nat) : Nat := x.base + (k % max 1 x.nbuf) * x.stride

/-- Head lines of fill `k`. -/
def Queue.fillHead (x : Queue) (k : Nat) : List Nat := headLines (x.fillAddr k) x.size

/-- The heads of the two oldest complete fills not played are held (R411). -/
def Queue.headDue (x : Queue) : Bool := decide (x.ready < x.complete) && decide (x.ready < x.played + 2)

/-- Head lines of the fills that are ready and not yet played (R411). -/
def Stq.fillLines (q : Stq) : List Nat :=
  q.queues.flatMap fun e => ((upTo e.2.ready).drop e.2.played).flatMap e.2.fillHead

/-- Lines of a fill that is no longer waiting lose their hold. -/
def Chan.unhold (c : Chan) (ls : List Nat) : Chan :=
  let stay := c.stq.fillLines
  let cache := c.mem.cache.map fun (l : CacheLine) =>
    if ls.contains l.line && !stay.contains l.line then { l with held := false } else l
  { c with mem := { c.mem with cache := cache } }

/-- Creel address of the data of a segment's pass: for a streamed segment, that of the fill assigned last (R407). -/
def Chan.passBase (c : Chan) (s : SegId) : Nat :=
  if c.seq.segStreamed s then
    let x := c.stq.q (c.seq.segQueue s)
    x.fillAddr (x.played - 1)
  else c.seq.segAddr s

/-- A queue is open for a segment (R407). -/
def Chan.openFor (c : Chan) (s : SegId) : Bool :=
  let x := c.stq.q (c.seq.segQueue s)
  (x.state == .open || x.state == .ending || x.state == .faulted) && !x.bulk && x.seg == s
    && x.base == c.seq.segAddr s && x.len64 == c.seq.segLen64 s && x.fmt.toNat == c.ply.formatReg (c.seq.segProfile s)

/-! ### FETCH (R124, R288, R353, R413) -/

/-- The first segment to be played is resident: a streamed one with its oldest unplayed fill ready (R413), any other with its
head held; and until every head is held, or the pinned lines reload, none is (R353, R354, R388). Without the bobbin store the creel
must be readable: not lost, its first data come after the loss of the store, and no blackout (R492; DEDUCED, log entry 18). -/
def Chan.firstResident (c : Chan) : Bool :=
  let s := c.seq.startSeg
  let streamed := c.seq.segStreamed s && !c.seq.startIdle
  (!streamed || (c.stq.q (c.seq.segQueue s)).fillReady)
    && (if c.mem.degraded then c.mem.creel != .lost && c.mem.bobLostAt.isNone && !c.mem.change.any (·.phase == .blackout)
        else !c.mem.holding && !c.mem.pinLoad && !c.mem.cacheFull && (streamed || c.mem.allHeld (c.segHead s)))

/-- A command may still change the pair's multiplexer. -/
def Pair.changing (p : Pair) : Bool := p.pend.isSome || p.hopping || p.queued.any fun q => q.cmd == 2 || q.cmd == 3

/-- The synthesizers that an ARM started run (R130, R288): in ARMED, both active gates; the lane pair only when the ARM brought it
up, and then at MULT = BPC with no lane SWITCH or HOP open, so that MULT is BPC in RUN (R271; DEDUCED, log entry 71). -/
def Chan.synRunning (c : Chan) : Bool :=
  let l := c.syn.synths[c.syn.laneActive]
  c.mod.state != .armed
    || ((c.syn.synths[c.syn.sampleActive]).gate
      && (!c.syn.laneNeeded || (l.gate && l.setting == word c.dst.latched.bpc && !c.syn.l.changing)))

/-- No wait reason FETCH. -/
def Chan.fetched (c : Chan) : Bool := c.firstResident && c.synRunning

/-- The lowest wait reason of R124 other than CONDITION, or 0. -/
def Chan.waitBase (c : Chan) : Byte :=
  if c.trk.state ≠ .locked then WaitCode.pace
  else if !c.tlh.granted then WaitCode.grant
  else if !c.fetched then WaitCode.fetch
  else 0

/-- MOD_CH_STAT.WAIT (R124): the start condition is not met until the channel enters RUN. -/
def Chan.wait (c : Chan) : Byte :=
  if !c.mod.startPend then 0
  else if c.waitBase ≠ 0 then c.waitBase
  else if (c.trk.committedOf .start).isSome then 0 else WaitCode.condition

end Sys2Proof.Machine
end

