-- ==== Sys2Proof/Machine/SynthOps.lean ====
section
/-! DEFINITION. The operations on one channel's synthesizers: settings and targets, stored bands, cover, gates, power-downs and
tunes (R269 to R277, R282, R290). `lane` chooses the lane pair throughout. -/

namespace Sys2Proof.Machine

/-! ### Access -/

def Syn.pair (y : Syn) (lane : Bool) : Pair := if lane then y.l else y.s
def Syn.setPair (y : Syn) (lane : Bool) (p : Pair) : Syn := if lane then { y with l := p } else { y with s := p }
def Syn.active (y : Syn) (lane : Bool) : Fin 4 := if lane then y.laneActive else y.sampleActive
def Syn.idle (y : Syn) (lane : Bool) : Fin 4 :=
  if lane then (if y.l.second then 2 else 3) else (if y.s.second then 0 else 1)

/-- The pair a synthesizer belongs to. -/
def isLane (i : Fin 4) : Bool := decide (2 ≤ i.val)

def Chan.synth (c : Chan) (i : Fin 4) : Synth := c.syn.synths[i]
def Chan.setSynth (c : Chan) (i : Fin 4) (x : Synth) : Chan := { c with syn := { c.syn with synths := vput c.syn.synths i x } }
def Chan.modPair (c : Chan) (lane : Bool) (f : Pair → Pair) : Chan :=
  { c with syn := c.syn.setPair lane (f (c.syn.pair lane)) }
def Chan.synEvent (c : Chan) (k : Nat) : Chan := { c with syn := { c.syn with events := evSet c.syn.events k } }

def Chan.act (c : Chan) (lane : Bool) : Synth := c.synth (c.syn.active lane)
def Chan.idl (c : Chan) (lane : Bool) : Synth := c.synth (c.syn.idle lane)

/-! ### Targets (R269, R271, R274, R276) -/

/-- Numerator and denominator of a target frequency in kHz: the sample setting's against REF, the lane setting's
MULT / P_est. -/
def Chan.target (c : Chan) (lane : Bool) (setting : Word) : Nat × Nat :=
  if lane then (fld setting 0 5 * (512000000 * 65536), c.trk.pest)
  else
    let m := fld setting 16 16 + 1
    (1000000 * (fld setting 0 5 * m + fld setting 32 16), m)

/-- A setting is valid (R269, R280 RANGE). -/
def settingValid (lane : Bool) (v : Word) : Bool :=
  if lane then decide (1 ≤ fld v 0 5) && decide (fld v 0 5 ≤ 16)
  else decide (8 ≤ fld v 0 5) && decide (fld v 0 5 ≤ 16) && decide (fld v 32 16 ≤ fld v 16 16)
    && (fld v 0 5 != 16 || fld v 32 16 == 0)

/-- SYN_CEIL of synthesizer `i` in MHz: that of the image, and 0 while the channel is not CONFIGURED (R268, R272). -/
def Chan.ceiling (c : Chan) (i : Fin 4) : Nat := if c.configured then c.skn.image.ceiling i else 0

/-- The target of a setting exceeds the pair's ceiling; a lane target needs a PACE period. -/
def Chan.aboveCeiling (c : Chan) (lane : Bool) (setting : Word) : Bool :=
  let t := c.target lane setting
  t.2 != 0 && decide (t.1 > c.ceiling (c.syn.active lane) * 1000 * t.2)

/-- A frequency measured in kHz passes R276: within 0.1 % or 1 MHz of the target, whichever is larger, and not above
the ceiling. -/
def Chan.measPass (c : Chan) (i : Fin 4) (setting : Word) (kHz : Nat) : Bool :=
  let t := c.target (isLane i) setting
  let d := ((kHz * t.2 : Nat) : Int) - t.1
  (decide (d.natAbs * 1000 ≤ t.1) || decide (d.natAbs ≤ 1000 * t.2)) && decide (kHz ≤ 1000 * c.ceiling i)

/-! ### Stored bands (R274) -/

/-- An entry hits a setting. -/
def Chan.entryHits (c : Chan) (lane : Bool) (setting : Word) (e : TblEntry) : Bool :=
  e.valid && (if lane then
      let t := c.target true setting
      decide ((((e.key.toNat * t.2 : Nat) : Int) - t.1).natAbs * 400 ≤ t.1)
    else e.key == BitVec.ofNat 48 setting.toNat)

def Chan.lookup (c : Chan) (i : Fin 4) (setting : Word) : Option TblEntry :=
  (c.synth i).table.find? (c.entryHits (isLane i) setting)

/-- Index of the entry to be replaced: one with the same key, a free one, or the least recently used. -/
def victim (l : List TblEntry) (key : BitVec 48) : Option Nat :=
  match l.findIdx? (fun e => e.valid && e.key == key) with
  | some k => some k
  | none => match l.findIdx? (fun e => !e.valid) with
    | some k => some k
    | none => if l.length < 64 then none else
      let least := l.foldl (fun m e => min m e.used) ((l.head?.map (·.used)).getD 0)
      l.findIdx? fun e => e.used == least

/-- Store an entry. -/
def storeEntry (l : List TblEntry) (e : TblEntry) : List TblEntry :=
  match victim l e.key with
  | some k => l.set k e
  | none => l ++ [e]

/-- Change the stored band that the present tune loaded (R274, R275). -/
def Synth.onLoaded (x : Synth) (f : TblEntry → TblEntry) : Synth :=
  match x.loaded with
  | some key => { x with table := x.table.map fun e => if e.valid && e.key == key then f e else e }
  | none => x

/-- A stored band that failed is invalidated (R275). -/
def Chan.dropEntry (c : Chan) (i : Fin 4) : Chan :=
  c.setSynth i ((c.synth i).onLoaded fun e => { e with valid := false })

/-! ### Cover (R282) -/

/-- 100 ms. -/
def coverLife : Nat := 100 * ms

/-- The idle synthesizer can take over the active setting. -/
def Chan.coverNow (c : Chan) (lane : Bool) (now : Tbu) : Bool :=
  let x := c.idl lane
  let set := (c.act lane).setting
  x.state != .failed && ((x.state == .idleLocked && x.lock && x.setting == set)
    || x.table.any fun e => c.entryHits lane set e && decide (now ≤ e.qual + coverLife))

/-- Judge the cover again; a pair that is covered ends PAIR_S or PAIR_L (R484). A pair whose idle synthesizer is on its way to
take over has none to cover it. -/
def Chan.recover (c : Chan) (lane : Bool) (now : Tbu) : Chan :=
  let p := c.syn.pair lane
  let v := c.coverNow lane now && !p.failover && !p.takeover
  let c := c.modPair lane fun p => { p with covered := v }
  if v then { c with flt := if lane then { c.flt with pairL := false } else { c.flt with pairS := false } } else c

/-- FLT_CH_STAT.SYN_S and SYN_L: a synthesizer of the pair is FAILED. -/
def Chan.synFlags (c : Chan) : Chan :=
  { c with flt := { c.flt with synS := (c.synth 0).state == .failed || (c.synth 1).state == .failed
                               synL := (c.synth 2).state == .failed || (c.synth 3).state == .failed } }

/-! ### Gates (R277, R192) -/

/-- Close a gate at instant `now`; `ref` says that REF is lost. -/
def Chan.closeGate (c : Chan) (i : Fin 4) (now : Tbu) (ref : Bool) : Chan :=
  if (c.synth i).gate then
    let lane := isLane i
    let sel := c.syn.active lane == i
    let c := c.dstTo (q16 now)
    let c := c.setSynth i { c.synth i with gate := false }
    if sel then
      let c := c.publish (eventCycle now) (if lane then Prod.lOff else Prod.sOff)
      if lane then c else (c.calSpoil [0] 0x29).dryStart now ref
    else c
  else c

/-- Power down a synthesizer (R290); one that is OFF, STOPPING or FAILED stays as it is. -/
def Chan.powerDown (c : Chan) (i : Fin 4) (now : Tbu) : Chan :=
  match (c.synth i).state with
  | .off | .stopping | .failed => c
  | _ =>
    let c := c.closeGate i now false
    c.setSynth i { c.synth i with state := .stopping, lock := false, tune := .none, paused := false, waiting := none }

/-- A synthesizer stops at once. -/
def Chan.powerOff (c : Chan) (i : Fin 4) (now : Tbu) : Chan :=
  let c := c.closeGate i now false
  match (c.synth i).state with
  | .failed => c
  | _ => c.setSynth i { c.synth i with state := .off, lock := false, tune := .none, paused := false, waiting := none }

def allSynths : List (Fin 4) := [0, 1, 2, 3]

/-- PREPARE, SWITCH and HOP are commands 1 to 3 (R279). -/
def SynCmd.switching (x : SynCmd) : Bool := x.cmd == 1 || x.cmd == 2 || x.cmd == 3

/-- Pending switches and prepares are cancelled when all four power down (R290). -/
def Chan.cancelPrepare (c : Chan) (lane : Bool) : Chan :=
  let c := c.modPair lane fun p => { p with pend := none, byCmd := false, hopping := false, prepared := false
                                            failover := false, takeover := false
                                            queued := p.queued.filter fun q => !q.switching }
  if lane then c else { c with trk := c.trk.unplace .sswitch }

/-- All four synthesizers stopped at once, at the entry to HOLDUP and when a channel's image goes (R128, R290). -/
def Chan.allOff (c : Chan) (now : Tbu) : Chan :=
  let c := (c.cancelPrepare false).cancelPrepare true
  let c := allSynths.foldl (fun c i => c.powerOff i now) c
  let c := (c.modPair false fun p => { p with queued := [] }).modPair true fun p => { p with queued := [] }
  (c.recover false now).recover true now

/-- A synthesizer of a pair powers down (R290). -/
def Chan.powering (c : Chan) (lane : Bool) : Bool := (c.act lane).state == .stopping || (c.idl lane).state == .stopping

/-! ### Step 7 of DRAIN (R127, R290) -/

/-- Step 6 of R127 is over: no creel write is outstanding, or its 145 µs have passed. -/
def Chan.pipesEmpty (c : Chan) (now : Tbu) : Bool :=
  c.drainOpened now && (c.mem.writesDone || c.mod.drainAt.any fun a => decide (a + 145 * us ≤ now))

/-- Step 7 of R127: with SYN_REST = 1 all four synthesizers power down. DESIGN CHOICE (log entry 53): it begins with the first
command of the channel at which the steps before it are over. -/
def Chan.drainOn (c : Chan) (now : Tbu) : Chan :=
  if c.mod.state == .drain && bit c.mod.cfg 0 && !c.mod.drainSyn && c.pipesEmpty now then
    let c := (c.cancelPrepare false).cancelPrepare true
    let c := allSynths.foldl (fun c i => c.powerDown i now) c
    let c := (c.recover false now).recover true now
    { c with mod := { c.mod with drainSyn := true } }
  else c

/-- Steps 6 and 7 of R127 are over. -/
def Chan.drained (c : Chan) (now : Tbu) : Bool :=
  c.pipesEmpty now && (!bit c.mod.cfg 0 || (c.mod.drainSyn && !c.powering false && !c.powering true))

/-! ### Tuning (R275) -/

/-- A target in whole kHz. -/
def Chan.targetKHz (c : Chan) (lane : Bool) (setting : Word) : Nat := (c.target lane setting).1 / max 1 (c.target lane setting).2

/-- Start a tune to `setting`: from the table when `fresh` is false and an entry hits, else by a fresh search. A
synthesizer that is powering down starts afterwards (R130); `ref` says that its reference is present (R287). -/
def Chan.tuneTo (c : Chan) (i : Fin 4) (why : TuneFor) (setting : Word) (fresh ref : Bool) (now : Tbu) : Chan :=
  let x := { c.synth i with setting := setting }
  if x.state = .stopping then c.setSynth i { x with waiting := some why }
  else
    let hit := if fresh then none else c.lookup i setting
    let x := { x with lock := false, measOk := false, tune := why, ceilHolds := 0, paused := !ref, tuneAt := now
                      aligned := false, follow := false, lockKHz := c.targetKHz (isLane i) setting }
    match hit with
    | some e => c.setSynth i
        (({ x with state := .tune, hit := true, band := e.band, fast := satInc x.fast, loaded := some e.key } : Synth).onLoaded
          fun e => { e with used := now })
    | none => c.setSynth i { x with state := .search, hit := false, fresh := satInc x.fresh, loaded := none }

end Sys2Proof.Machine
end

