-- ==== Sys2Proof/Machine/ChanOps.lean ====
section
/-! DEFINITION. Changes of a channel's state and what each does to the channel's parts: DRAIN, HELD, REST, holds, and
the response to faults (R115, R116, R125, R127, R151, R158, R163, R435, R484 to R486). -/

namespace Sys2Proof.Machine

/-! ### Requests, starts and votes -/

/-- A request latch other than the milestone's is set (R516). -/
def Seq.anyLatch (q : Seq) : Bool :=
  q.trig0.isSome || q.trig1.isSome || q.adv.isSome || q.hostJump.isSome || q.jmp.toList.any (·.isSome)

/-- Every latch cleared on entry to HELD, DRAIN and REST (R151). -/
def Seq.clearLatches (q : Seq) : Seq :=
  { q with events := evIf q.anyLatch q.events SeqEv.discarded
           trig0 := none, trig1 := none, jmp := Vector.replicate 4 none, adv := none, hostJump := none, mile := none
           holdReq := none, holdNext := none }

/-- The sequencer stops: no pass plays and nothing is decided. -/
def Seq.stopPass (q : Seq) : Seq :=
  { q.clearLatches with playing := false, decided := false, waiting := false, succ := none, lateSucc := none, late := false }

/-- A placed start is withdrawn. -/
def Chan.withdrawStart (c : Chan) : Chan :=
  { c with trk := c.trk.unplace .start, seq := { c.seq with placed := none, cleared := false } }

/-! ### Grants (R435) -/

/-- The grant and any request for one are given up. -/
def Chan.releaseGrant (c : Chan) : Chan :=
  { c with tlh := { c.tlh with granted := false, request := none, gradeWait := none, deny := 0 } }

/-- START_PEND := 0; a RESUME that will not come about gives its grant back (log entry 14). -/
def Chan.unpend (c : Chan) : Chan :=
  let c : Chan := { c with mod := { c.mod with startPend := false } }
  if c.mod.state = .held then c.releaseGrant else c

/-- START_PEND := 0 with whatever had been placed or voted for it (R121, R162, R163): a member that has not voted
leaves the group, one that voted COMMIT is broken, and its mark for a shed after the start ends. -/
def Chan.dropStart (c : Chan) : Chan :=
  let c := c.withdrawStart
  let out : BitVec 3 := if c.tlh.pinned then 5 else if c.seq.grpOutcome = 1 then 0 else c.seq.grpOutcome
  let c : Chan := { c with mod := { c.mod with startPend := false }
                           seq := { c.seq with grpOutcome := out }
                           tlh := { c.tlh with pinned := false, shed := if c.tlh.pinned && c.tlh.shed == 1 then 0 else c.tlh.shed } }
  c.unpend

/-! ### DRAIN (R127, log entry 10) -/

/-- The scheduled events that DRAIN discards: all but JNC.ATk, which no change of state cancels (R127 step 1, R310,
log entry 10). -/
def Chan.dropEvents (c : Chan) : Chan :=
  let keepK := fun k => match k with
    | SchedKind.at _ => true
    | _ => false
  { c with trk := { c.trk with pending := c.trk.pending.filter fun p => keepK p.kind
                               committed := c.trk.committed.filter fun p => keepK p.kind }
           syn := { c.syn with s := { c.syn.s with pend := if c.syn.s.pend = some true then none else c.syn.s.pend } } }

/-- What entry to DRAIN does to a channel: steps 1 to 5 of R127, and the bobbin prefetch of step 6; `done` says that the route
has played to its end. A request still latched, a hold among them, is discarded (R153). -/
def Chan.drainSteps (c : Chan) (now : Tbu) (done : Bool) : Chan :=
  let armed := c.mod.state == .armed
  let c := (c.usePlayed (cycleOf now)).plyDrain now done
  let held := c.seq.holdReq.isSome
  let c := { c.dropStart with seq := { c.dropStart.seq.stopPass with
    events := evIf held c.dropStart.seq.stopPass.events SeqEv.discarded } }
  let c := ((c.dstDrain now).anaDrain now).dropEvents
  let c := { c with mem := { c.mem.dropRefill with heads := [], holding := false } }
  let c := { c with tlh := { c.tlh with shed := 0 } }
  if armed then c.releaseGrant else c

/-- Enter DRAIN; `done` says that the route has played to its end (R115, R127, R143). -/
def State.enterDrain (s : State) (ch : ChanId) (done : Bool := false) : State :=
  let s := s.modCh ch fun c => c.drainSteps s.now done
  let s := s.setChState ch .drain
  s.modCh ch fun c => ({ c with mod := { c.mod with drainAt := some s.now, drainSyn := false } } : Chan).drainOn s.now

/-! ### REST -/

/-- Channel `ch`'s global number of queue `i` (R404). -/
def globalQueue (ch : ChanId) (i : Nat) : BitVec 16 := BitVec.ofNat 16 (4096 * ch.val + i)

/-- Send a QCPL for a queue (R419). -/
def State.qcpl (s : State) (ch : ChanId) (i : Nat) (code detail : Byte) : State :=
  let x := (s.ch ch).stq.q i
  s.send (.qcpl (globalQueue ch i) code detail (BitVec.ofNat 32 x.pos) (BitVec.ofNat 32 x.played))

/-- Close a queue: its data and remaining fills are discarded (R417). -/
def State.closeQueue (s : State) (ch : ChanId) (i : Nat) : State :=
  let s := s.qcpl ch i 0x07 0
  s.modCh ch fun c =>
    let x := c.stq.q i
    let q := c.stq.setQ i { Queue.none with last := x.last }
    ({ c with stq := { q with events := evSet q.events StqEv.closed, staged := q.staged.filter fun y => y.queue != i } } : Chan).unhold
      (((upTo x.ready).drop x.played).flatMap x.fillHead)

/-- No route is armed. -/
def Chan.disarmed (c : Chan) : Bool := c.mod.state == .rest || c.mod.state == .trim

/-- Queues that end now: ENDING, with no route armed or the segment out of the armed route set (R417). -/
def Chan.endedQueues (c : Chan) : List Nat :=
  (c.stq.queues.filter fun e => e.2.state == .ending && (c.disarmed || !c.seq.inRouteSet e.2.seg)).map (·.1)

def State.closeEnded (s : State) (ch : ChanId) : State := (s.ch ch).endedQueues.foldl (fun s i => s.closeQueue ch i) s

/-- What entry to REST does to a channel's parts (R151, R197, R230, R242, R356). -/
def Chan.restSteps (c : Chan) (now : Tbu) : Chan :=
  let c := (c.plyRest now).dstRest now
  let c := { c with seq := c.seq.stopPass }
  let stay := c.stq.fillLines
  let m := c.mem.dropRefill
  let c := { c with mem := { m with cache := m.cache.map (fun (l : CacheLine) => { l with held := stay.contains l.line })
                                    heads := [], holding := false, cacheFull := false } }
  ({ c with mod := { c.mod with drainAt := none, drainSyn := false }, tlh := { c.tlh with shed := 0 } } : Chan).rangeAtRest now

/-- Enter REST. -/
def State.enterRest (s : State) (ch : ChanId) : State :=
  let s := s.modCh ch fun c => c.restSteps s.now
  let s := s.setChState ch .rest
  s.closeEnded ch

/-! ### HELD (R116, R125, R157, R158) -/

/-- Enter HELD with a cause, at instant `b`; the resume point is written by the caller. -/
def State.enterHeld (s : State) (ch : ChanId) (cause : Byte) (b : Q16) (hard : Bool) : State :=
  let s := s.modCh ch fun c =>
    let c := ((c.usePlayed s.cycle).dstPause s.now b).plyHeld s.now hard
    let c := { c with seq := c.seq.stopPass }
    let c := c.releaseGrant
    { c with tlh := { c.tlh with shed := if hard then 3 else if c.tlh.shed = 1 then 2 else c.tlh.shed } }
  let s := s.setChState ch .held
  s.modCh ch fun c => { c with mod := { c.mod with heldCause := cause } }

/-- Hold a channel in the middle of a pass: a hard shed (R158). -/
def State.holdNow (s : State) (ch : ChanId) (cause : Byte) : State :=
  let s := s.modCh ch fun c => { c with seq := c.seq.setResume c.seq.wp c.seq.done c.seq.passStack }
  s.enterHeld ch cause (q16 s.now) true

/-- Latch a hold with sample index `k` (R147): the cause that comes first in the order of R125. -/
def Chan.latchHoldAt (c : Chan) (cause : Byte) (k : Nat) : Chan :=
  { c with seq := { c.seq with holdReq := match c.seq.holdReq with
      | some (a, j) => some (worseCause a cause, min j k)
      | none => some (cause, k) } }

/-- Latch a hold in RUN (R147, R148). A hold that arises before the first sample is handed over, or while a head is late, is
latched at sample 0. -/
def Chan.latchHold (c : Chan) (cause : Byte) (cyc : Nat) : Chan :=
  c.latchHoldAt cause (if c.seq.playing then c.kNow cyc else 0)

/-- A second cause in HELD: it displaces the first when it comes before it, and a RESUME accepted under the displaced
cause is cancelled (R125). -/
def Chan.secondCause (c : Chan) (cause : Byte) : Chan :=
  if causeRank cause < causeRank c.mod.heldCause then
    let c := if c.mod.startPend then c.dropStart else c
    { c with mod := { c.mod with heldCause := cause } }
  else c

/-! ### Faults (R484 to R486, R489) -/

/-- The response of R485 to an unmasked fault of channel `ch`, and its record. -/
def State.unmasked (s : State) (ch : ChanId) (code : Byte) (detail : Nat) : State :=
  let c := s.ch ch
  let st := c.mod.state
  let drain := s.policyUnmasked ch == 1
  let hits := st == .run || st == .held
  let action := if !hits then 3 else if drain then 2 else 1
  let s := s.logRecord (some ch) code detail action 0
  let s := { s with flt := { s.flt with events := evSet s.flt.events FltEv.unmasked } }
  let s := s.modCh ch fun c =>
    let c := if c.tlh.pinned then c.dropStart else c
    { c with flt := { c.flt with halt := c.flt.halt || hits } }
  if !hits then s
  else if drain then s.enterDrain ch
  else if st == .run then s.modCh ch fun c => c.latchHold Cause.fault s.cycle
  else s.modCh ch fun c => c.secondCause Cause.fault

/-- The record of a covered fault whose masking is complete; `second` says that it arose in a channel already degraded:
under STRICT it is then logged again as SECOND with the response of R485 (R486). -/
def State.covered (s : State) (ch : ChanId) (code : Byte) (detail gapNs : Nat) (second : Bool) : State :=
  let s := s.logRecord (some ch) code detail 0 gapNs
  if second && s.policyStrict ch then s.unmasked ch 0x26 code.toNat else s

/-- The channel is degraded (R486). -/
def State.degraded (s : State) (ch : ChanId) : Bool := (s.ch ch).flt.degraded

/-- BOB_CREEL: the bobbin store degraded and a creel device retired, together (R484). -/
def State.bobCreel (s : State) (ch : ChanId) (detail : Nat) : State :=
  if (s.ch ch).mem.degraded ∧ (s.ch ch).mem.retired ≠ 0 then s.unmasked ch 0x27 detail else s

end Sys2Proof.Machine
end

