-- ==== Sys2Proof/Machine/Synth.lean ====
section
/-! DEFINITION. The synthesizer pairs: tuning, failures, the multiplexer, commands, cover searches and retries (R268 to R293,
R517). `lane` chooses the lane pair throughout. -/

namespace Sys2Proof.Machine

/-! ### Tunes -/

/-- The reference of a pair is present (R276). -/
def State.refOk (s : State) (ch : ChanId) (lane : Bool) : Bool :=
  if lane then (s.ch ch).trk.state == .locked else s.trk.tbLocked && s.trk.present

/-- A tune at the pair's own setting. -/
def State.tuneTo (s : State) (ch : ChanId) (i : Fin 4) (why : TuneFor) (setting : Word) (fresh : Bool) : State :=
  let r := s.refOk ch (isLane i)
  s.modCh ch fun c => (c.tuneTo i why setting fresh r s.now).recover (isLane i) s.now

/-- What SPARE makes of an idle synthesizer with nothing to hold (R282). -/
def Chan.spareState (c : Chan) (lane : Bool) (now : Tbu) : Chan :=
  let i := c.syn.idle lane
  if bit (c.syn.pair lane).spare 0 then c else c.powerDown i now

/-! ### TUNE_QUALIFIED (R276, R279, R282 to R286) -/

/-- A tune qualifies with a band and a measured frequency; a retried synthesizer whose partner is FAILED takes over
(R286, R484). -/
def Chan.qualified (c : Chan) (i : Fin 4) (band : Byte) (kHz : Nat) (now : Tbu) : Chan :=
  let lane := isLane i
  let x := c.synth i
  let why := x.tune
  let key : BitVec 48 := if lane then BitVec.ofNat 48 kHz else BitVec.ofNat 48 x.setting.toNat
  let c :=
    if x.state = .search then
      c.setSynth i { x with band := band, loaded := some key, table := storeEntry x.table { key := key, band := band, valid := true, used := now, qual := now } }
    else c.setSynth i (x.onLoaded fun e => { e with qual := now, used := now })
  let x := { c.synth i with lock := true, meas := kHz, measOk := true, lockKHz := kHz, tune := .none, aligned := true }
  if c.syn.active lane = i then (c.setSynth i { x with state := .active }).recover lane now
  else
    let takes := why == .retry && (c.act lane).state == .failed
    let c := c.setSynth i { x with state := .idleLocked }
    let c := (if takes then c.modPair lane fun p => { p with takeover := true } else c).recover lane now
    match why with
    | .prepare =>
      let hop := (c.syn.pair lane).hopping
      (c.modPair lane fun p => { p with prepared := true, hopping := false, pend := if hop then some false else p.pend
                                        byCmd := p.byCmd || hop, inLoss := p.inLoss && !hop }).synEvent SynEv.prepDone
    | .cover | .verify | .retry => if takes then c.synFlags else (c.synFlags.spareState lane now).recover lane now
    | .start => if (c.syn.pair lane).covered then (c.spareState lane now).recover lane now else c
    | _ => c

/-- The synthesizer is tuning, with its reference present. -/
def Synth.tuning (x : Synth) : Bool := (x.state == .search || x.state == .tune) && !x.paused

/-- Lock has lasted the 2 µs of R276 at the earliest. -/
def Synth.lockedLong (x : Synth) (now : Tbu) : Bool := decide (x.tuneAt + 2 * us ≤ now)

/-- TUNE_QUALIFIED (R275, R276). -/
def execTuneQualified (t : Tbu) (ch : ChanId) (i : Fin 4) (band : Byte) (measKHz : Nat) (s : State) :
    Host.Outcome State Fault Refusal :=
  let s := s.atTime t
  let c := s.ch ch
  .next (if (c.synth i).tuning && (c.synth i).lockedLong s.now && s.refOk ch (isLane i) && c.measPass i (c.synth i).setting measKHz then
      s.modCh ch fun c => c.qualified i band measKHz s.now
    else s)

/-! ### Failures (R284 to R286, R517) -/

def pairFault (lane : Bool) : Byte := if lane then 0x22 else 0x21
def coveredFault (lane : Bool) : Byte := if lane then 0x03 else 0x02

/-- The idle synthesizer abandons what it prepared, and a pending switch is lost (R284). -/
def Chan.abandon (c : Chan) (lane : Bool) : Chan :=
  let had := (c.syn.pair lane).pend.isSome || (c.syn.pair lane).queued.any fun q => q.cmd == 2
  let c := c.modPair lane fun p => { p with pend := none, byCmd := false, hopping := false, prepared := false
                                            queued := p.queued.filter fun q => !q.switching }
  let c := if lane then c else { c with trk := c.trk.unplace .sswitch }
  if had then c.synEvent SynEv.switchLost else c

/-- A synthesizer enters FAILED: gate closed, powered down. -/
def Chan.failSynth (c : Chan) (i : Fin 4) (now : Tbu) : Chan :=
  let c := c.closeGate i now false
  (c.setSynth i { c.synth i with state := .failed, lock := false, tune := .none, waiting := none, retryFrom := none }).synFlags

/-- PAIR_S or PAIR_L arises (R484); `i` is the synthesizer that failed. -/
def State.pairLost (s : State) (ch : ChanId) (lane : Bool) (i : Fin 4) : State :=
  let s := s.modCh ch fun c =>
    let c := c.synEvent SynEv.pairLost
    { c with flt := if lane then { c.flt with pairL := true } else { c.flt with pairS := true } }
  s.unmasked ch (pairFault lane) i.val

/-- An active synthesizer has failed: its gate is closed, and a tune of its own is over (R284, R517). -/
def Chan.failActive (c : Chan) (lane : Bool) (now : Tbu) : Chan :=
  let c := c.abandon lane
  let i := c.syn.active lane
  let c := c.closeGate i now false
  c.setSynth i { c.synth i with state := .active, lock := false, measOk := false, tune := .none, paused := false }

/-- An active synthesizer fails (R284, R286). -/
def State.activeFail (s : State) (ch : ChanId) (lane : Bool) : State :=
  let c := s.ch ch
  let i := c.syn.active lane
  let j := c.syn.idle lane
  let set := (c.synth i).setting
  let cov := c.coverNow lane s.now
  let second := c.flt.degraded
  let inRun := c.mod.state == .run
  let s := s.modCh ch fun c => c.failActive lane s.now
  if cov then
    let s := s.modCh ch fun c => (c.gapStart lane s.now).modPair lane fun p =>
      { p with failover := true, failAt := s.now, failRun := inRun, failSecond := second, covered := false }
    let x := (s.ch ch).synth j
    if x.state = .idleLocked ∧ x.lock ∧ x.setting = set then s else s.tuneTo ch j .failover set false
  else
    let s := s.modCh ch fun c => c.failSynth i s.now
    let s := s.pairLost ch lane i
    if ((s.ch ch).synth j).state = .failed then s
    else
      let s := s.modCh ch fun c => c.modPair lane fun p => { p with takeover := true, covered := false }
      s.tuneTo ch j .takeover set true

/-- An idle synthesizer fails (R517); a failover it was to end leaves both synthesizers of the pair FAILED (R291). -/
def State.idleFail (s : State) (ch : ChanId) (i : Fin 4) : State :=
  let lane := isLane i
  let second := s.degraded ch
  let lost := ((s.ch ch).syn.pair lane).failover
  let j := (s.ch ch).syn.active lane
  let s := s.modCh ch fun c =>
    let c := (c.failSynth i s.now).modPair lane fun p =>
      { p with prepared := false, hopping := false, pend := none, byCmd := false, covered := false, failover := false, takeover := false
               queued := p.queued.filter fun q => !q.switching }
    let c := if lane then c else { c with trk := c.trk.unplace .sswitch }
    c.setSynth i { c.synth i with retryFrom := some s.now }
  let s := s.covered ch (coveredFault lane) i.val 0 second
  if lost then (s.modCh ch fun c => c.failSynth j s.now).pairLost ch lane j else s

/-- A step of PACE holds the target of an active lane synthesizer above its ceiling: its gate stays closed until PACE
returns below it, which is no failure (R284, R289). -/
def Chan.stepHeld (c : Chan) (i : Fin 4) : Bool :=
  isLane i && c.syn.active true == i && c.aboveCeiling true (c.synth i).setting

/-- A tune of synthesizer `i` ends without a qualified lock (R517). -/
def State.tuneEnds (s : State) (ch : ChanId) (i : Fin 4) : State :=
  let c := s.ch ch
  if c.stepHeld i then s
  else if c.syn.active (isLane i) = i then s.activeFail ch (isLane i)
  else if (c.synth i).tune = .retry then
    s.modCh ch fun c => (c.failSynth i s.now).synEvent SynEv.retryFail
  else s.idleFail ch i

/-- TUNE_FAILED (R517): a fresh search has not qualified. -/
def execTuneFailed (t : Tbu) (ch : ChanId) (i : Fin 4) (s : State) : Host.Outcome State Fault Refusal :=
  let s := s.atTime t
  let x := (s.ch ch).synth i
  .next (if x.tuning && x.state == .search && s.refOk ch (isLane i) then s.tuneEnds ch i else s)

/-- The stored band on which a failover to idle synthesizer `j` rests is invalidated: the one its tune has loaded, or the one that
would be loaded while it still powers down (R285). -/
def Chan.dropCover (c : Chan) (lane : Bool) (j : Fin 4) : Chan :=
  let x := c.synth j
  if x.state == .tune then c.dropEntry j
  else match c.lookup j (c.act lane).setting with
    | some e => c.setSynth j { x with table := x.table.map fun f => if f.valid && f.key == e.key then { f with valid := false } else f }
    | none => c

/-- A failover ends without a switch (R285). -/
def State.failoverEnds (s : State) (ch : ChanId) (lane : Bool) : State :=
  let i := (s.ch ch).syn.active lane
  let j := (s.ch ch).syn.idle lane
  let s := s.modCh ch fun c =>
    let c := (c.dropCover lane j).synEvent SynEv.stale
    let c := c.modPair lane fun p => { p with failover := false, takeover := true }
    c.failSynth i s.now
  let s := s.pairLost ch lane i
  let set := ((s.ch ch).synth i).setting
  if ((s.ch ch).synth j).state = .failed then s else s.tuneTo ch j .takeover set true

/-- FAILOVER_TIMEOUT (R285): the idle synthesizer has not qualified by 6 µs after the detection. -/
def execFailoverTimeout (t : Tbu) (ch : ChanId) (lane : Bool) (s : State) : Host.Outcome State Fault Refusal :=
  let s := s.atTime t
  let p := (s.ch ch).syn.pair lane
  .next (if p.failover && decide (p.failAt + 6 * us ≤ s.now) && ((s.ch ch).idl lane).state != .idleLocked then
      s.failoverEnds ch lane else s)

/-- A stored band fails (R275): the entry is invalidated and a fresh search follows. -/
def Chan.staleBand (c : Chan) (i : Fin 4) (now : Tbu) : Chan :=
  let c := (c.dropEntry i).synEvent SynEv.stale
  let x := c.synth i
  (c.setSynth i { x with state := .search, hit := false, fresh := satInc x.fresh, loaded := none, tuneAt := now
                         tune := if x.tune = .verify then .cover else x.tune }).recover (isLane i) now

/-- STALE (R275); in a failover it is the end of that failover (R285). -/
def execStale (t : Tbu) (ch : ChanId) (i : Fin 4) (s : State) : Host.Outcome State Fault Refusal :=
  let s := s.atTime t
  let c := s.ch ch
  let x := c.synth i
  .next (if x.tuning && x.state == .tune then
      if (c.syn.pair (isLane i)).failover && c.syn.active (isLane i) != i then s.failoverEnds ch (isLane i)
      else s.modCh ch fun c => c.staleBand i s.now
    else s)

/-- An active synthesizer that keeps its lock while the frequency test keeps its gate closed: a lane one that follows PACE (R277,
R289). -/
def Synth.heldLocked (x : Synth) : Bool := x.state == .active && x.lock && !x.measOk && !x.gate

/-- The band in use is invalidated, and a fresh search follows: of the tune in progress, or a retune of an active synthesizer
(R277). -/
def Chan.ceilSearch (c : Chan) (i : Fin 4) (now : Tbu) : Chan :=
  let x := c.synth i
  let c := if x.state = .search then c else c.dropEntry i
  let y := c.synth i
  (c.setSynth i { y with state := .search, hit := false, fresh := satInc y.fresh, ceilHolds := 1, loaded := none, tuneAt := now
                         tune := if x.state = .active then .retune else y.tune, lock := false, aligned := false
                         follow := false }).recover (isLane i) now

/-- CEIL_HOLD (R277): lock shown while the frequency test keeps the gate closed; a second one in a tune ends it. -/
def execCeilHold (t : Tbu) (ch : ChanId) (i : Fin 4) (s : State) : Host.Outcome State Fault Refusal :=
  let s := s.atTime t
  let x := (s.ch ch).synth i
  .next (if (x.tuning || x.heldLocked) && s.refOk ch (isLane i) then
      let s := s.modCh ch fun c => c.synEvent SynEv.ceilHold
      if x.heldLocked ∨ x.ceilHolds = 0 then s.modCh ch fun c => c.ceilSearch i s.now else s.tuneEnds ch i
    else s)

/-- FREQ_WINDOW_END (R276, R284): a measurement window ends; a failing one is a failure of an active synthesizer whose
reference is present, unless a small step of PACE causes it (R289). -/
def execFreqWindowEnd (t : Tbu) (ch : ChanId) (i : Fin 4) (measKHz : Nat) (s : State) : Host.Outcome State Fault Refusal :=
  let s := s.atTime t
  let c := s.ch ch
  let x := c.synth i
  .next (match x.state with
    | .off | .stopping | .failed => s
    | _ =>
      let ok := c.measPass i x.setting measKHz
      let s := s.modCh ch fun c => c.setSynth i { c.synth i with meas := measKHz, measOk := ok, follow := x.follow && !ok }
      if !ok && x.state == .active && x.lock && c.syn.active (isLane i) == i && s.refOk ch (isLane i) && !c.stepHeld i then
        if x.follow then s.modCh ch fun c => c.closeGate i s.now false else s.activeFail ch (isLane i)
      else s)

/-- LOSS_OF_LOCK (R284, R517). DESIGN CHOICE (log entry 53): an active lane synthesizer that loses lock through a step of PACE
of 1 % or less, which R284 calls no failure, retunes. -/
def execLossOfLock (t : Tbu) (ch : ChanId) (i : Fin 4) (s : State) : Host.Outcome State Fault Refusal :=
  let s := s.atTime t
  let c := s.ch ch
  let x := c.synth i
  let ref := s.refOk ch (isLane i)
  let s' := s.modCh ch fun c => (c.setSynth i { c.synth i with lock := false, tuneAt := s.now }).recover (isLane i) s.now
  .next (match x.state with
    | .active => if ref && x.lock && c.syn.active (isLane i) == i then
          if x.follow then (s.modCh ch fun c => c.closeGate i s.now false).tuneTo ch i .retune x.setting false
          else s.activeFail ch (isLane i)
        else s'
    | .idleLocked => if ref && x.lock then s.idleFail ch i else s'
    | .search | .tune => s'
    | _ => s)

/-! ### Gate opening and closing -/

/-- Every condition of R276 on an output gate holds. -/
def State.gateCond (s : State) (ch : ChanId) (i : Fin 4) : Bool :=
  let c := s.ch ch
  let x := c.synth i
  x.state == .active && x.lock && x.measOk && s.refOk ch (isLane i) && (!isLane i || x.aligned) && c.syn.active (isLane i) == i

/-- A switch whose position was reached during a loss of REF is pending (R291). -/
def Pair.fromLoss (p : Pair) : Bool := p.pend == some false && p.inLoss

/-- Such a switch comes first, once the incoming clock runs again: the first gate opening is on the new setting (R291). -/
def Chan.switchFirst (c : Chan) (lane : Bool) : Bool :=
  let x := c.idl lane
  (c.syn.pair lane).fromLoss && (x.state == .idleLocked || x.state == .tune || x.state == .search)

/-- The alignment of a lane synthesizer's clock edges, as its phase detector shows it (R271). -/
def Chan.putAligned (c : Chan) (i : Fin 4) (a : Bool) : Chan :=
  if isLane i then c.setSynth i { c.synth i with aligned := a } else c

/-- Open the active gate: the event of R292, and for a sample synthesizer the start of the DAC clock (R184, R193). -/
def Chan.openGate (c : Chan) (i : Fin 4) (now : Tbu) (tb : Nat) : Chan :=
  let lane := isLane i
  let c := c.dstTo (q16 now)
  let c := c.setSynth i { c.synth i with gate := true }
  let c := c.publish (eventCycle now) (if lane then Prod.lOn else Prod.sOn)
  if lane then c else c.clockStart now tb

/-- GATE_OPEN (R276). -/
def execGateOpen (t : Tbu) (ch : ChanId) (x : SynSeen) (s : State) : Host.Outcome State Fault Refusal :=
  let i := x.syn
  let s := (s.atTime t).modCh ch fun c => c.putAligned i x.aligned
  .next (if s.gateCond ch i && !((s.ch ch).synth i).gate && !(s.ch ch).switchFirst (isLane i) then s.modCh ch fun c => c.openGate i s.now s.tbase else s)

/-- GATE_CLOSE (R277): a condition of R276 fails. -/
def execGateClose (t : Tbu) (ch : ChanId) (x : SynSeen) (s : State) : Host.Outcome State Fault Refusal :=
  let i := x.syn
  let s := (s.atTime t).modCh ch fun c => c.putAligned i x.aligned
  .next (if s.gateCond ch i then s else s.modCh ch fun c => c.closeGate i s.now (!s.refOk ch false))

/-! ### The multiplexer (R278, R281, R284, R285) -/

/-- The pair's multiplexer changes to the idle synthesizer, whose gate opens. -/
def Chan.muxTo (c : Chan) (lane : Bool) (now : Tbu) (tb : Nat) : Chan :=
  let i := c.syn.active lane
  let j := c.syn.idle lane
  let wasOpen := (c.synth i).gate
  let c := c.dstTo (q16 now)
  let c := c.setSynth i { c.synth i with gate := false, state := if (c.synth i).state = .active then .idleLocked else (c.synth i).state }
  let c := c.setSynth j { c.synth j with gate := true, state := .active }
  let c := c.modPair lane fun p => { p with second := !p.second, prepared := false }
  let c := c.publish (eventCycle now) (if lane then Prod.lSwitch else Prod.sSwitch)
  let c := if wasOpen then c else c.publish (eventCycle now) (if lane then Prod.lOn else Prod.sOn)
  if lane then c else c.clockStart now tb

/-- The incoming synthesizer is IDLE_LOCKED and passes R276. -/
def State.muxReady (s : State) (ch : ChanId) (lane : Bool) : Bool :=
  let x := (s.ch ch).idl lane
  x.state == .idleLocked && x.lock && x.measOk && s.refOk ch lane && (!lane || x.aligned)

/-- A switch that ends a failover (R284). -/
def State.muxFailover (s : State) (ch : ChanId) (lane : Bool) : State :=
  let i := (s.ch ch).syn.active lane
  let p := (s.ch ch).syn.pair lane
  let x := (s.ch ch).dstTo (q16 s.now)
  let gap := if !p.failRun then 0 else if lane then x.laneGap else x.wavGap s.now
  let s := s.modCh ch fun c =>
    let c := c.muxTo lane s.now s.tbase
    let c := (c.failSynth i s.now).publish (eventCycle s.now) Prod.failover
    let c := c.setSynth i { c.synth i with retryFrom := some s.now }
    let c := c.modPair lane fun p => { p with failover := false, covered := false }
    c.synEvent (if lane then SynEv.failoverL else SynEv.failoverS)
  s.covered ch (coveredFault lane) i.val gap p.failSecond

/-- The take-over switch of R285 and R484. -/
def State.muxTakeover (s : State) (ch : ChanId) (lane : Bool) : State :=
  let i := (s.ch ch).syn.active lane
  s.modCh ch fun c =>
    let c := c.muxTo lane s.now s.tbase
    let c := c.setSynth i { c.synth i with retryFrom := some s.now }
    (c.modPair lane fun p => { p with takeover := false }).recover lane s.now

/-- A switch made by a command or an ARM (R281, R288). -/
def State.muxCommand (s : State) (ch : ChanId) (lane : Bool) : State :=
  s.modCh ch fun c =>
    let c := c.muxTo lane s.now s.tbase
    let c := (c.modPair lane fun p => { p with pend := none, byCmd := false }).recover lane s.now
    let c := c.synEvent (if lane then SynEv.switchedL else SynEv.switchedS)
    if (c.syn.pair lane).covered then (c.spareState lane s.now).recover lane s.now else c

/-- A switch whose position was reached during a loss of REF waits until both clocks run again: until the outgoing synthesizer has
retuned too (R291). Nothing else holds a switch back that R278 allows (R279, R281). -/
def Chan.muxWaits (c : Chan) (lane : Bool) : Bool :=
  let x := c.act lane
  (c.syn.pair lane).fromLoss && x.tune == .retune && (x.state == .search || x.state == .tune)

/-- MUX_SWITCH (R278). -/
def execMuxSwitch (t : Tbu) (ch : ChanId) (lane : Bool) (s : State) : Host.Outcome State Fault Refusal :=
  let s := s.atTime t
  let c := s.ch ch
  let p := c.syn.pair lane
  let same := (c.idl lane).setting == (c.act lane).setting
  .next (if !s.muxReady ch lane then s
    else if p.failover && same then s.muxFailover ch lane
    else if p.takeover && same then s.muxTakeover ch lane
    else if p.pend == some false && !c.muxWaits lane then s.muxCommand ch lane
    else s)

/-! ### Commands (R279, R280) -/

/-- The result of a command. -/
def Chan.synResult (c : Chan) (lane : Bool) (cmd code : Nat) : Chan :=
  c.modPair lane fun p => { p with cmd := BitVec.ofNat 4 cmd, result := BitVec.ofNat 8 code }

/-- A setting as its NEXT register holds it. -/
def Chan.nextSetting (c : Chan) (lane : Bool) : Word := if lane then c.syn.lNext else c.syn.sNext

/-- A PREPARE or HOP is one of commands 1 and 3. -/
def takesSetting (cmd : Nat) : Bool := cmd == 1 || cmd == 3

/-- The first reason of R280 for refusing command `cmd`, or 0. -/
def Chan.synTest (c : Chan) (lane : Bool) (cmd : Nat) (atPos : Bool) (now : Tbu) : Nat :=
  let p := c.syn.pair lane
  let busy := p.pend.isSome || p.hopping || (c.idl lane).tune == .prepare || (c.idl lane).waiting == some .prepare
    || p.failover || p.takeover || p.queued.any SynCmd.switching
  let switching := cmd == 1 || cmd == 2 || cmd == 3
  let st := c.mod.state
  if !c.configured then 0x01
  else if cmd == 0 || decide (7 ≤ cmd) then 0x0A
  else if st == .trim || (switching && busy) then 0x02
  else if (lane && (cmd == 2 || cmd == 3) && !(st == .rest || st == .armed)) || (cmd == 6 && st != .rest) then 0x08
  else if takesSetting cmd && !settingValid lane (c.nextSetting lane) then 0x03
  else if lane && takesSetting cmd && c.trk.state != .locked then 0x09
  else if (takesSetting cmd && c.aboveCeiling lane (c.nextSetting lane))
      || (cmd == 4 && c.aboveCeiling lane (c.act lane).setting) then 0x04
  else if takesSetting cmd && (c.idl lane).state == .failed then 0x07
  else if cmd == 2 && (c.idl lane).state != .idleLocked then 0x05
  else if cmd == 2 && !lane && atPos && !c.trk.future now c.syn.sSwpos then 0x06
  else 0

/-- The effect of an accepted command; `setting` is what its NEXT register held at the write. -/
def State.synEffect (s : State) (ch : ChanId) (lane : Bool) (cmd : Nat) (atPos : Bool) (setting : Word) : State :=
  let c := s.ch ch
  let i := c.syn.active lane
  let j := c.syn.idle lane
  match cmd with
  | 1 => (s.modCh ch fun c => c.modPair lane fun p => { p with prepared := false, hopping := false }).tuneTo ch j .prepare
      setting false
  | 2 => s.modCh ch fun c =>
      let c := c.modPair lane fun p => { p with pend := some (!lane && atPos), byCmd := true, inLoss := false }
      if !lane && atPos then { c with trk := (c.trk.unplace .sswitch).place .sswitch c.syn.sSwpos } else c
  | 3 => (s.modCh ch fun c => c.modPair lane fun p => { p with prepared := false, hopping := true }).tuneTo ch j .prepare
      setting false
  | 4 => match (c.synth i).state with
    | .off | .stopping => s.tuneTo ch i .start (c.synth i).setting false
    | _ => s
  | 5 =>
    let p := c.syn.pair lane
    if p.prepared || bit p.spare 0 || p.failover || p.takeover then s
    else s.modCh ch fun c =>
      ((c.modPair lane fun p => { p with hopping := false }).powerDown j s.now).recover lane s.now
  | 6 => s.modCh ch fun c =>
      let c := c.setSynth i { c.synth i with table := [] }
      (c.setSynth j { c.synth j with table := [] }).recover lane s.now
  | _ => s

/-- A command to a pair (R279, R280): accepted while the pair powers down, it waits (R130). -/
def State.synCommand (s : State) (ch : ChanId) (lane : Bool) (cmd : Nat) (atPos : Bool) : State :=
  let code := (s.ch ch).synTest lane cmd atPos s.now
  let s' := s.modCh ch fun c => c.synResult lane cmd code
  let set := (s.ch ch).nextSetting lane
  if code ≠ 0 then s'
  else if (s.ch ch).powering lane then
    s'.modCh ch fun c => c.modPair lane fun p => { p with queued := p.queued ++ [{ cmd := cmd, atPos := atPos, setting := set }] }
  else s'.synEffect ch lane cmd atPos set

/-- PREPARE (R279). -/
def execPrepare (t : Tbu) (ch : ChanId) (lane : Bool) (s : State) : Host.Outcome State Fault Refusal :=
  .next ((s.atTime t).ifWindow fun s => s.synCommand ch lane 1 false)
/-- SWITCH (R279, R281). -/
def execSwitch (t : Tbu) (ch : ChanId) (lane atPos : Bool) (s : State) : Host.Outcome State Fault Refusal :=
  .next ((s.atTime t).ifWindow fun s => s.synCommand ch lane 2 atPos)
/-- HOP (R279). -/
def execHop (t : Tbu) (ch : ChanId) (lane : Bool) (s : State) : Host.Outcome State Fault Refusal :=
  .next ((s.atTime t).ifWindow fun s => s.synCommand ch lane 3 false)
/-- SYN_START (R279). -/
def execSynStart (t : Tbu) (ch : ChanId) (lane : Bool) (s : State) : Host.Outcome State Fault Refusal :=
  .next ((s.atTime t).ifWindow fun s => s.synCommand ch lane 4 false)
/-- SYN_REST (R279). -/
def execSynRest (t : Tbu) (ch : ChanId) (lane : Bool) (s : State) : Host.Outcome State Fault Refusal :=
  .next ((s.atTime t).ifWindow fun s => s.synCommand ch lane 5 false)
/-- FORGET (R279). -/
def execForget (t : Tbu) (ch : ChanId) (lane : Bool) (s : State) : Host.Outcome State Fault Refusal :=
  .next ((s.atTime t).ifWindow fun s => s.synCommand ch lane 6 false)

/-! ### Cover searches, verify tunes, retries and power-downs (R282, R283, R286, R290) -/

/-- The idle synthesizer is free for a cover search or a verify tune. -/
def Chan.idleFree (c : Chan) (lane : Bool) : Bool :=
  let p := c.syn.pair lane
  let x := c.idl lane
  (x.state == .off || x.state == .idleLocked) && !p.prepared && p.pend.isNone && !p.failover && !p.takeover && c.configured

/-- COVER_SEARCH (R282). -/
def execCoverSearch (t : Tbu) (ch : ChanId) (lane : Bool) (s : State) : Host.Outcome State Fault Refusal :=
  let s := s.atTime t
  let s := s.modCh ch fun c => c.recover lane s.now
  let c := s.ch ch
  .next (if !(c.syn.pair lane).covered && c.idleFree lane && s.refOk ch lane then
      s.tuneTo ch (c.syn.idle lane) .cover (c.act lane).setting true else s)

/-- VERIFY_TUNE (R283): while the pair is covered only through a table entry. -/
def execVerifyTune (t : Tbu) (ch : ChanId) (lane : Bool) (s : State) : Host.Outcome State Fault Refusal :=
  let s := s.atTime t
  let c := s.ch ch
  let x := c.idl lane
  .next (if (c.syn.pair lane).covered && c.idleFree lane && s.refOk ch lane
        && !(x.state == .idleLocked && x.setting == (c.act lane).setting) then
      s.tuneTo ch (c.syn.idle lane) .verify (c.act lane).setting false else s)

/-- COVER_LAPSE (R283): the entry's last qualification is more than 100 ms past. -/
def execCoverLapse (t : Tbu) (ch : ChanId) (lane : Bool) (s : State) : Host.Outcome State Fault Refusal :=
  let s := s.atTime t
  .next (s.modCh ch fun c => c.recover lane s.now)

/-- SYN_RETRY (R286): one fresh search at the active setting, one millisecond after the switch or the failure; none in a channel
that is not CONFIGURED (R268). -/
def execSynRetry (t : Tbu) (ch : ChanId) (i : Fin 4) (s : State) : Host.Outcome State Fault Refusal :=
  let s := s.atTime t
  let c := s.ch ch
  let x := c.synth i
  .next (if c.configured && x.state == .failed && c.syn.active (isLane i) != i && x.retryFrom.any (fun a => decide (a + ms ≤ s.now)) then
      (s.modCh ch fun c => c.setSynth i { c.synth i with retryFrom := none }).tuneTo ch i .retry (c.act (isLane i)).setting true
    else s)

/-- Commands that waited for the power-down of a pair are carried out (R280). -/
def State.runQueued (s : State) (ch : ChanId) (lane : Bool) : State :=
  if (s.ch ch).powering lane then s
  else
    let l := ((s.ch ch).syn.pair lane).queued
    let s := s.modCh ch fun c => c.modPair lane fun p => { p with queued := [] }
    l.foldl (fun s q => s.synEffect ch lane q.cmd q.atPos q.setting) s

/-- POWER_DOWN_DONE (R290): the synthesizer is OFF, and what waited for it begins (R130). -/
def execPowerDownDone (t : Tbu) (ch : ChanId) (i : Fin 4) (s : State) : Host.Outcome State Fault Refusal :=
  let s := s.atTime t
  let c := s.ch ch
  let x := c.synth i
  .next (if x.state == .stopping then
      let s := s.modCh ch fun c => (c.powerOff i s.now).recover (isLane i) s.now
      let s := match x.waiting with
        | some why => s.tuneTo ch i why x.setting (why == TuneFor.cover || why == TuneFor.retry || why == TuneFor.takeover)
        | none => s
      s.runQueued ch (isLane i)
    else s)

/-! ### References lost and regained (R287), steps of PACE (R289) -/

/-- The reference of a pair is lost: tunes stop where they are, and a failover stops; its tune goes on as a cover
search. -/
def Chan.pairRefLost (c : Chan) (lane : Bool) : Chan :=
  let stop := fun (c : Chan) (i : Fin 4) =>
    let x := c.synth i
    c.setSynth i (if x.state == .search || x.state == .tune then
      { x with paused := true, tune := if x.tune = .failover then .cover else x.tune } else x)
  let c := stop (stop c (c.syn.active lane)) (c.syn.idle lane)
  c.modPair lane fun p => { p with failover := false }

/-- REF is lost (R287). -/
def Chan.synRefLost (c : Chan) : Chan := (c.pairRefLost false).synEvent SynEv.refGate

/-- The reference of a pair is back: what was ACTIVE or IDLE_LOCKED retunes from its table, and stopped tunes go on. -/
def Chan.pairRefBack (c : Chan) (lane : Bool) (now : Tbu) : Chan :=
  let go := fun (c : Chan) (i : Fin 4) =>
    let x := c.synth i
    match x.state with
    | .active | .idleLocked => (c.closeGate i now false).tuneTo i .retune x.setting false true now
    | .search | .tune => c.setSynth i { x with paused := false, tuneAt := now }
    | _ => c
  (go (go c (c.syn.active lane)) (c.syn.idle lane)).recover lane now

/-- A lane synthesizer's target has moved by more than 1 % from where it locked (R289). -/
def Chan.stepFar (c : Chan) (i : Fin 4) : Bool :=
  let t := c.target true (c.synth i).setting
  decide ((((c.synth i).lockKHz * t.2 : Nat) - (t.1 : Int)).natAbs > (c.synth i).lockKHz * t.2 / 100)

/-- Lane synthesizer `i` retunes after a step of PACE (R289). -/
def Chan.laneRetune (c : Chan) (i : Fin 4) (why : TuneFor) (now : Tbu) : Chan :=
  ((c.closeGate i now false).tuneTo i why (c.synth i).setting false true now).synEvent SynEv.retuneL

/-- A PACE_STEP at the lane pair (R289, R291): the active synthesizer retunes when its target has moved far, and follows PACE
otherwise; in a failover the incoming one does, locked or still tuning. -/
def Chan.laneStep (c : Chan) (now : Tbu) : Chan :=
  let i := c.syn.active true
  let j := c.syn.idle true
  let incoming := (c.synth j).state == .idleLocked || (c.synth j).state == .tune || (c.synth j).state == .search
  let c := if c.syn.l.failover then (if incoming && c.stepFar j then c.laneRetune j .failover now else c)
    else if (c.synth i).state != .active then c
    else if c.stepFar i then c.laneRetune i .retune now
    else c.setSynth i { c.synth i with follow := true }
  c.recover true now

/-! ### An accepted ARM (R288, R130) -/

/-- The lane pair is to be brought to MULT = BPC. -/
def Chan.armLanes (c : Chan) : Bool :=
  c.dst.latched.startSrc != 3 && !(c.trk.pest != 0 && c.aboveCeiling true (word c.dst.latched.bpc))

/-- What an accepted ARM asks of the synthesizers. -/
def State.armSynths (s : State) (ch : ChanId) : State :=
  let c := s.ch ch
  let bpc := word c.dst.latched.bpc
  let a := c.act true
  let s := s.modCh ch fun c => { c with syn := { c.syn with laneNeeded := c.armLanes } }
  let s :=
    if !c.armLanes then s
    else if a.state == .active && a.setting == bpc && !c.stepFar (c.syn.active true) then s
    else if (c.idl true).state == .idleLocked && (c.idl true).setting == bpc then
      s.modCh ch fun c => c.modPair true fun p => { p with pend := some false, byCmd := true }
    else if a.state == .failed then s
    else
      let s := s.modCh ch fun c => c.closeGate (c.syn.active true) s.now false
      s.tuneTo ch (c.syn.active true) .start bpc false
  match (c.act false).state with
  | .off | .stopping => s.tuneTo ch (c.syn.active false) .start (c.act false).setting false
  | _ => s

end Sys2Proof.Machine
end

