-- ==== Sys2Proof/Machine/Sequencer.lean ====
section
/-! DEFINITION. The route sequencer: descriptor and waypoint access, requests, exit gates, passes and boundaries,
streamed passes and underrun, and the group decision (R132 to R165, R412 to R416, R515, R516). -/

namespace Sys2Proof.Machine

/-! ### Descriptor and waypoint access (R134, R137) -/

/-- The channel's route is fixed: ARMED, RUN, HELD or DRAIN. -/
def Chan.routed (c : Chan) : Bool :=
  c.mod.state == .armed || c.mod.state == .run || c.mod.state == .held || c.mod.state == .drain

/-- A segment may not be written now (R134, IN_ROUTE). -/
def Chan.segLocked (c : Chan) (s : SegId) : Bool :=
  if c.seq.checking then (c.seq.waypoints.any fun w => c.seq.wpSeg w == s) || c.seq.idleSeg == s || c.seq.sidingSeg == s
  else c.routed && c.seq.inRouteSet s

/-- The addressed segment. -/
def Seq.segSel (q : Seq) : SegId := BitVec.ofNat 18 (fld q.segIdx 0 18)

/-- SEQ_SEG_CMD = READ (R134). -/
def Chan.segRead (c : Chan) : Chan :=
  let q := c.seq
  { c with seq := { q with segD0 := q.descD0 q.segSel, segD1 := q.descD1 q.segSel, segResult := 0 } }

/-- The first code of R134 that applies to a WRITE. -/
def Chan.segWriteCode (c : Chan) : Byte :=
  let q := c.seq
  if c.segLocked q.segSel then 0x01
  else if fld q.segD0 24 22 ≠ 0 ∨ fld q.segD1 34 30 ≠ 0 then 0x02
  else if bit q.segD0 63 ∧ (fld q.segD0 0 24 < 4 ∨ fld q.segD1 0 12 ≠ 0) then 0x02
  else 0

/-- SEQ_SEG_CMD = WRITE (R134). -/
def Chan.segWrite (c : Chan) : Chan :=
  let q := c.seq
  let code := c.segWriteCode
  let q := { q with segResult := code }
  if code = 0 then
    { c with seq := { q with segs := sput 0 (sput 0 q.segs (2 * q.segSel.toNat) q.segD0) (2 * q.segSel.toNat + 1) q.segD1 } }
  else { c with seq := q }

/-- SEG_READ (R134). -/
def execSegRead (t : Tbu) (ch : ChanId) (s : State) : Host.Outcome State Fault Refusal :=
  .next ((s.atTime t).ifWindow fun s => s.modCh ch Chan.segRead)

/-- SEG_WRITE (R134). -/
def execSegWrite (t : Tbu) (ch : ChanId) (s : State) : Host.Outcome State Fault Refusal :=
  .next ((s.atTime t).ifWindow fun s => s.modCh ch Chan.segWrite)

/-- A write of word `k` of waypoint `w` (R135, R137): within the latched range of a checked or armed route it is
discarded with status "locked". -/
def Chan.waypointWrite (c : Chan) (w : WpId) (k : Fin 4) (v : Word) : Chan × Status :=
  if (c.seq.checking || c.routed) && c.seq.inRange w then (c, St.locked)
  else ({ c with seq := { c.seq with wpt := sput 0 c.seq.wpt (4 * w.toNat + k.val) v } }, St.normal)

/-- WAYPOINT_WRITE (R135, R137). -/
def execWaypointWrite (t : Tbu) (ch : ChanId) (w : BitVec 16) (k : Fin 4) (v : Word) (s : State) :
    Host.Outcome State Fault Refusal :=
  .next ((s.atTime t).ifWindow fun s => s.modCh ch fun c => (c.waypointWrite w k v).1)

/-! ### Requests (R147 to R151, R516) -/

/-- The level requests. -/
inductive Req where
  | trig0 | trig1 | jmp (k : Fin 4) | adv | mile
  deriving DecidableEq, Repr

def Seq.latch (q : Seq) (r : Req) : Option Nat :=
  match r with
  | .trig0 => q.trig0
  | .trig1 => q.trig1
  | .jmp k => q.jmp[k]
  | .adv => q.adv
  | .mile => q.mile

def Seq.setLatch (q : Seq) (r : Req) (v : Option Nat) : Seq :=
  match r with
  | .trig0 => { q with trig0 := v }
  | .trig1 => { q with trig1 := v }
  | .jmp k => { q with jmp := vput q.jmp k v }
  | .adv => { q with adv := v }
  | .mile => { q with mile := v }

/-- Every level request. -/
def allReqs : List Req := [.trig0, .trig1, .jmp 0, .jmp 1, .jmp 2, .jmp 3, .adv, .mile]

/-- Requests are latched: in RUN, from the first sample on (R151). -/
def Chan.latches (c : Chan) : Bool := c.mod.state == .run && c.seq.playing

/-- A level request registered in cycle `cyc` (R147, R151); a milestone sets neither COALESCED nor DISCARDED (R516). -/
def Chan.request (c : Chan) (r : Req) (cyc : Nat) : Chan :=
  let quiet := r == .mile
  if c.latches then
    match c.seq.latch r with
    | some _ => { c with seq := { c.seq with events := evIf (!quiet) c.seq.events SeqEv.coalesced } }
    | none => { c with seq := c.seq.setLatch r (some (c.kNow cyc)) }
  else { c with seq := { c.seq with events := evIf (!quiet) c.seq.events SeqEv.discarded } }

/-- A host jump (R147, R151, R160). DESIGN CHOICE (log entry 81): written in the gate-evaluation cycle over one latched before, it takes
its own k with its target, so that this gate sees no host jump. -/
def Chan.hostJump (c : Chan) (target : WpId) (cyc : Nat) : Chan :=
  let q := c.seq
  if q.inRange target && c.latches then { c with seq := { q with hostJump := some (target, c.kNow cyc) } }
  else if q.inRange target && c.mod.state == .held then
    { c with seq := { q.storeStack (popFor target q.resumeStack) with
      resume := pack [(fld q.resume 63 1, 63), (target.toNat, 32)] } }
  else { c with seq := { q with events := evSet q.events SeqEv.discarded } }

/-- ADVANCE (R147). -/
def execAdvance (t : Tbu) (ch : ChanId) (s : State) : Host.Outcome State Fault Refusal :=
  .next ((s.atTime t).ifWindow fun s => s.modCh ch fun c => c.request .adv s.cycle)

/-- HOST_JUMP (R147, R160). -/
def execHostJump (t : Tbu) (ch : ChanId) (target : BitVec 16) (s : State) : Host.Outcome State Fault Refusal :=
  .next ((s.atTime t).ifWindow fun s => s.modCh ch fun c => c.hostJump target s.cycle)

/-! ### The exit gate (R149, R150) -/

/-- The wait source of a waypoint (R136). -/
def waitSource (w : Nat) : Option Req :=
  if w = 1 then some .trig0 else if w = 2 then some .trig1 else if w = 3 then some .mile else none

/-- What a gate chooses before the fill test: a waypoint, its completed passes, whether it waits, and whether it is
entered; none is ROUTE_END. -/
structure Choice where
  wp : WpId
  done : Nat
  idle : Bool
  entry : Bool
  deriving DecidableEq, Repr

/-- Enter a waypoint: one with WAIT begins with an idle pass (R146). -/
def Seq.enter (q : Seq) (w : WpId) : Choice := { wp := w, done := 0, idle := q.wpWait w != 0, entry := true }

/-- The pass playing counts as completed at its boundary: it played the waypoint's segment or a fill (R415). -/
def PassKind.counts (k : PassKind) : Bool := k == .segment

/-- The decision of R150 on the latches considered: the choice, the stack after it, and the requests used. -/
def Seq.decide' (q : Seq) (cons : Req → Bool) (host : Option WpId) : Option Choice × List StackEntry × List Req :=
  let w := q.wp
  let src := waitSource (q.wpWait w)
  let comp : Option Choice × List StackEntry :=
    match q.complete w q.stack with
    | (some n, st) => (some (q.enter n), st)
    | (none, st) => (none, st)
  let jumpTo := fun (t : WpId) => (some (q.enter t), popFor t q.stack)
  match host with
  | some t => let r := jumpTo t; (r.1, r.2, [])
  | none =>
    match ([0, 1, 2, 3] : List (Fin 4)).find? fun j => cons (.jmp j) && q.wpJen w j.val with
    | some j => let r := jumpTo (q.wpJump w j.val); (r.1, r.2, [.jmp j])
    | none =>
      if q.waiting then
        let first : Choice := { wp := w, done := 0, idle := false, entry := true }
        match src.filter cons with
        | some r => (some first, q.stack, [r])
        | none => if cons .adv then (some first, q.stack, [.adv])
          else (some { wp := w, done := 0, idle := true, entry := false }, q.stack, [])
      else if cons .adv && q.wpAdvEn w then (comp.1, comp.2, [.adv])
      else if !q.kind.counts then (some { wp := w, done := q.done, idle := false, entry := false }, q.stack, [])
      else if q.wpRepeat w = 0 ∨ q.done + 1 < q.wpRepeat w then
        (some { wp := w, done := q.done + 1, idle := false, entry := false }, q.stack, [])
      else (comp.1, comp.2, [])

/-- The gate of the pass playing: it takes effect for requests with k at or below this index (R149). -/
def Seq.gateIndex (q : Seq) : Nat := q.len - 256

/-- The gate is evaluated in cycle `cyc`. -/
def Chan.gateDue (c : Chan) (cyc : Nat) : Bool :=
  c.latches && !c.seq.late && !c.seq.decided && decide (c.seq.gateIndex < c.handed cyc)

/-- Clear the latches considered, and the wait source of a waypoint entered that waits (R146, R150); unused ones other
than the milestone's set DISCARDED (R516), a hold that ROUTE_END discards among them. DESIGN CHOICE (log entry 81): the wait source
is cleared, without DISCARDED, also when it was registered in the gate-evaluation cycle itself with k > G. -/
def Seq.clearConsidered (q : Seq) (cons : Req → Bool) (used : List Req) (ch : Option Choice) (hostUsed : Bool) : Seq :=
  let g := q.gateIndex
  let lost := (allReqs.any fun r => cons r && !used.contains r && r != .mile)
    || (ch.isNone && q.holdReq.any fun h => decide (h.2 ≤ g))
  let q := allReqs.foldl (fun q r => if cons r then q.setLatch r none else q) q
  let q := if hostUsed then { q with hostJump := none } else q
  let q := match q.holdReq with
    | some (_, k) => if k ≤ g then { q with holdReq := none } else q
    | none => q
  let q := match ch with
    | some x => if x.entry && x.idle then
        match waitSource (q.wpWait x.wp) with
        | some r => q.setLatch r none
        | none => q
      else q
    | none => q
  { q with events := evIf lost q.events SeqEv.discarded }

/-! ### Streamed passes (R412, R414) -/

/-- Assign the oldest unplayed fill of a queue to a pass; LOW below its threshold (R412). -/
def State.assignFill (s : State) (ch : ChanId) (i : Nat) : State :=
  let x := (s.ch ch).stq.q i
  let x := { x with played := x.played + 1 }
  let s := s.modCh ch fun c => ({ c with stq := c.stq.setQ i x } : Chan).unhold (x.fillHead (x.played - 1))
  if x.slack < x.low then
    (s.modCh ch fun c => { c with stq := { c.stq with events := evSet c.stq.events StqEv.low } }).qcpl ch i 0x04 0
  else s

/-- The substitute pass that policy UNDERRUN gives a queue (R414). -/
def Seq.substitute (q : Seq) (x : Queue) : PassKind :=
  if q.underrun = 2 then .siding else if q.underrun = 0 ∧ x.playing.isSome then .replay else .holdLast

/-- The fill test of R412 for a pass of waypoint `w`, entered by it when `entry`. -/
def State.fillTest (s : State) (ch : ChanId) (w : WpId) (entry : Bool) : State × PassKind :=
  let c := s.ch ch
  let sg := c.seq.wpSeg w
  let i := c.seq.segQueue sg
  if !c.seq.segStreamed sg then (s, .segment)
  else if (c.stq.q i).readyAtGate s.cycle then (s.assignFill ch i, .segment)
  else
    let first := entry || !c.seq.inUnder
    let s := s.modCh ch fun c =>
      let st := { c.stq with events := evSet c.stq.events StqEv.underrun }
      let st := if first then { st with episodes := satInc st.episodes, lastUnder := pack [(w.toNat, 32), (i, 0)] } else st
      let c := { c with stq := st, seq := { c.seq with inUnder := true } }
      if first then c.publish s.cycle Prod.under else c
    let s := if first then s.qcpl ch i 0x05 0 else s
    (s, c.seq.substitute (c.stq.q i))

/-! ### EXIT_GATE (R150, R152) -/

/-- Prepare the hop of the chosen waypoint: the engine reads the entry in fabric cycle 2 (R144, R152, R189). -/
def Chan.gateHop (c : Chan) (cyc : Nat) (x : Succ) : Chan :=
  let fresh := x.entry || !c.seq.hopDone
  if x.kind != .idle && fresh && c.seq.wpHopOp x.wp != 0 then
    c.prepareHop false (c.seq.wpHopOp x.wp) (c.seq.wpHopIdx x.wp) (cyc + 2) 0
  else c

/-- The segment a pass of kind `k` of waypoint `w` plays. -/
def Seq.passSeg (q : Seq) (w : WpId) (k : PassKind) : SegId :=
  match k with
  | .idle => q.idleSeg
  | .siding | .wayside => q.sidingSeg
  | _ => q.wpSeg w

/-- Head lines of the data that a pass of segment `s` plays: its own, or those of the fill assigned last (R352, R407). -/
def Chan.passHead (c : Chan) (s : SegId) : List Nat := headLines (c.passBase s) (c.segBytes s)

/-- The head of a pass can be had: it lies in the bobbin store, or, without one, the creel returns data (R352, R384, R385). -/
def Chan.headHere (c : Chan) (x : Succ) : Bool :=
  x.kind == .holdLast || (if c.mem.degraded then c.mem.creel != .lost else (c.passHead (c.seq.passSeg x.wp x.kind)).all c.mem.present)

/-- The head of a pass is late at the boundary (R152): without a bobbin store it may be, which the manual leaves open (log entry 2).
While output waits for creel-direct data, boundaries keep their timing (R480). -/
def Chan.headLate (c : Chan) (x : Succ) (free : Nat) : Bool :=
  c.mem.bobLostAt.isNone && (!c.headHere x || (x.kind != .holdLast && c.mem.degraded && Config.headLate free))

/-- Evaluate the gate of a pass in the present cycle (R150). -/
def State.passGate (s : State) (ch : ChanId) : State :=
  let c := s.ch ch
  let q := c.seq
  let g := q.gateIndex
  let cons := fun (r : Req) => (q.latch r).any fun k => decide (k ≤ g)
  let host := q.hostJump.filter fun j => decide (j.2 ≤ g)
  let hold := q.holdReq.filter fun h => decide (h.2 ≤ g)
  let d := q.decide' cons (host.map (·.1))
  let s := s.modCh ch fun c =>
    let q := c.seq.clearConsidered cons d.2.2 d.1 host.isSome
    let c : Chan := { c with seq := { q with
      stack := d.2.1, decided := true, endNext := d.1.isNone
      next := (d.1.map (·.wp)).getD q.wp
      holdNext := if d.1.isNone then none else hold.map (·.1) } }
    c.publish s.cycle Prod.gate
  match d.1 with
  | none => s.modCh ch fun c => { c with seq := { c.seq with
      succ := some { wp := c.seq.wp, done := 0, kind := .segment, entry := false, routeEnd := true } } }
  | some x =>
    let (s, kind) := if x.idle then (s, PassKind.idle) else if hold.isSome then (s, .segment) else s.fillTest ch x.wp x.entry
    let y : Succ := { wp := x.wp, done := x.done, kind := kind, entry := x.entry, routeEnd := false }
    s.modCh ch fun c =>
      let c := { c with seq := { c.seq with succ := some y } }
      if hold.isSome then c else c.gateHop s.cycle y

/-- The siding pass that plays while the head of `x` is late (R416). -/
def Succ.wayside (x : Succ) : Succ := { x with kind := .wayside, entry := false }

/-- Evaluate the gate of a siding pass that plays while a head is late: only the late head is tested (R416). DESIGN CHOICE (log
entry 55): a hold takes effect there, as at any gate (R149); every other request waits for the gate of the late pass. -/
def State.waysideGate (s : State) (ch : ChanId) (x : Succ) : State :=
  let late := (s.ch ch).headLate x s.freeCtr
  let s := s.modCh ch fun c =>
    let hold := c.seq.holdReq.filter fun h => decide (h.2 ≤ c.seq.gateIndex)
    let c : Chan := { c with seq := { c.seq with
      decided := true, holdNext := hold.map (·.1), holdReq := if hold.isSome then none else c.seq.holdReq
      succ := some (if late && hold.isNone then x.wayside else x) } }
    c.publish s.cycle Prod.gate
  s.drawn

/-- Evaluate the gate in the present cycle. -/
def State.gate (s : State) (ch : ChanId) : State :=
  match (s.ch ch).seq.kind, (s.ch ch).seq.lateSucc with
  | .wayside, some x => s.waysideGate ch x
  | _, _ => s.passGate ch

/-- EXIT_GATE (R150). -/
def execExitGate (t : Tbu) (ch : ChanId) (s : State) : Host.Outcome State Fault Refusal :=
  let s := s.atTime t
  .next (if (s.ch ch).gateDue s.cycle then s.gate ch else s)

/-! ### Passes (R140, R144, R145, R164, R172 to R179) -/

/-- Native samples that span from a position at `spc`: floor(n × 2^48 / SPC) track units (R176). -/
def spanOf (n spc : Nat) : Word := word (n * 2 ^ 48 / max 1 spc)

/-- Lay the path for a pass of `len` samples under profile `prof` whose first sample has the nominal instant `at'`:
at a start position `pos`, or after the pass before it (R173, R177, R179). `cont` is false for a late pass. -/
def Chan.layPass (c : Chan) (prof : BitVec 4) (at' : Inst) (pos : Option Word) (prevLen : Nat) (cont : Bool) : Chan :=
  let inst := at'.floor
  let p := c.ply
  let wasLock := p.lock
  let q := { p with prof := prof, lock := bit (vget p.lProfCfg prof.toNat 0) 2 }
  let spc := q.spc
  let total := p.runS + prevLen
  let fresh := fun (p0 : Word) =>
    { q with p0 := p0, t0 := inst, runPa := p0, runS := 0, runSpc := spc, slices := [], knot := posInt p0 + 1, frozen := false
             predicted := false }
  let q' := if q.lock then
      match pos with
      | some x => fresh x
      | none =>
        if !wasLock then { fresh (c.trk.predict inst) with predicted := true }
        else if spc ≠ p.runSpc then fresh (p.runPa + spanOf total p.runSpc)
        else
          let sh : Int := ((prevLen * 2 ^ 24 : Nat) : Int)
          { q with p0 := p.runPa + spanOf total spc, t0 := inst, runS := total, predicted := false
                   slices := if cont then p.slices.map (fun (x : Slice) => { x with i0 := x.i0 - sh, i1 := x.i1 - sh }) else [] }
    else { q with p0 := c.trk.predict inst, t0 := inst, baseInst := at', baseIdx := 0, slices := [], frozen := false, predicted := true }
  { c with ply := q' }

/-- The markers of a pass (R145): low in idle and substitute passes. -/
def Seq.markersOf (q : Seq) (w : WpId) (kind : PassKind) (first : Bool) : Vector MkOut 4 :=
  let m := fun (k : Nat) =>
    if kind != .segment then MkOut.low
    else match q.wpMkMode w k with
      | 0 => .data
      | 1 => .low
      | 2 => .high
      | _ => if first then .pulse else .low
  #v[m 0, m 1, m 2, m 3]

/-- The last native sample of the newest of some passes (R414). -/
def Chan.lastSample (c : Chan) (l : List PassRec) : Int × Int :=
  match l with
  | r :: _ => olderSample c.mem l ((r.len : Int) - 1)
  | [] => (0, 0)

/-- What the output stages need to know of a pass that begins after those of `past`. -/
def Chan.newRec (c : Chan) (x : Succ) (sg : SegId) (at' : Inst) (mk : Vector MkOut 4) (past : List PassRec) : PassRec :=
  { base := c.passBase sg, fmt := c.ply.format, mix := mixOf c.ply.cfgNow, len := 64 * c.seq.segLen64 sg, marks := mk
    width := c.seq.wpMkWidth x.wp, held := if x.kind == .holdLast then some (c.lastSample past) else none, begins := at' }

/-- Passes before the present one that the output stages may still carry. -/
def pastPasses : Nat := 4

/-- Begin a pass at instant `now`: `x` says what it plays, `at'` when, `pos` where a start places it. -/
def Chan.beginPass (c : Chan) (now : Tbu) (x : Succ) (at' : Inst) (pos : Option Word) (cont : Bool) : Chan :=
  let cyc := cycleOf now
  let sg := c.seq.passSeg x.wp x.kind
  let prevLen := c.seq.len
  let c := (c.outTo (q16 now)).usePlayed cyc
  let k := c.clampNow cyc
  let past := if c.seq.playing || c.ply.wav != .zero then (c.passRec :: c.ply.past).take pastPasses else []
  let begin' := if cont then c.endCycle + 1 else handoverCycle at'.floor
  let c := c.layPass (c.seq.segProfile sg) at' pos prevLen cont
  let started := if x.entry then false else c.seq.started
  let hopDone := if x.entry then false else c.seq.hopDone
  let first := x.kind == .segment && !started
  let gap := c.mem.bobLostAt.isSome
  let mk := c.seq.markersOf x.wp x.kind first
  let c : Chan := { c with
    seq := { c.seq with
      playing := true, late := false, wp := x.wp, done := x.done, kind := x.kind, waiting := x.kind == .idle
      len := 64 * c.seq.segLen64 sg, decided := false, succ := none
      passPos := c.ply.p0, passStack := c.seq.stack
      started := started || x.kind == .segment
      hopDone := hopDone || (x.kind != .idle && x.kind != .wayside)
      inUnder := if x.kind == .segment || x.kind == .idle then false else c.seq.inUnder }
    ply := { c.ply with
      wav := if gap || x.kind == .holdLast || c.ply.frozen then .hold else .route
      markers := if gap then Vector.replicate 4 MkOut.low else mk
      passMk := mk
      past := past, handCycle := begin', handBase := 0, prevClamp := k.1, prevLag := k.2, cur := c.newRec x sg at' mk past
      hops := c.ply.hops.map fun (h : PendHop) => if h.begun || x.kind == .wayside then h else { h with due := at'.floor, begun := true } }
    mem := { c.mem.touch (c.passHead sg) with directTo := 0, usedTo := 0 } }
  let c := if c.ply.lock then c.commitKnots knotFuel none
    else { c with ply := { c.ply with events := evIf c.overRate c.ply.events PlyEv.overrate } }
  let subst := x.kind == .replay || x.kind == .holdLast || x.kind == .siding
  let c := if subst then { c with stq := { c.stq with subst := satInc c.stq.subst } } else c
  let c := (c.noteGaps at'.floor).publish cyc Prod.passStart
  if first then c.publish cyc Prod.wpStart else c

/-- Fills of a queue released when the pass of fill `f` begins (R412). -/
def State.releaseFills (s : State) (ch : ChanId) (i f : Nat) : State :=
  let x := (s.ch ch).stq.q i
  let n := f - x.released
  let s := s.modCh ch fun c => { c with stq := c.stq.setQ i { c.stq.q i with playing := some f, released := max x.released f } }
  if x.notify then (upTo n).foldl (fun s _ => s.qcpl ch i 0x03 0) s else s

/-- Begin a pass, with the release of a played fill. -/
def State.beginPass (s : State) (ch : ChanId) (x : Succ) (at' : Inst) (pos : Option Word) (cont : Bool) : State :=
  let s := s.modCh ch fun c => c.beginPass s.now x at' pos cont
  let c := s.ch ch
  let sg := c.seq.wpSeg x.wp
  if x.kind == .segment && c.seq.segStreamed sg then
    let i := c.seq.segQueue sg
    s.releaseFills ch i ((c.stq.q i).played - 1)
  else s

/-! ### PASS_BOUNDARY (R140, R116, R143, R152, R416) -/

/-- At a boundary every latch still set counts from sample 0 of the pass that follows (R149). -/
def Seq.rebaseLatches (q : Seq) : Seq :=
  let n := q.len
  let q := allReqs.foldl (fun q r => q.setLatch r ((q.latch r).map fun k => k - n)) q
  { q with hostJump := q.hostJump.map fun j => (j.1, j.2 - n), holdReq := q.holdReq.map fun h => (h.1, h.2 - n) }

/-- The head of the chosen pass is late at the boundary: siding passes play under UNDERRUN = 2, when the siding head is in the
playback buffer; else WAV holds with the markers low (R416). -/
def State.lateHead (s : State) (ch : ChanId) (x : Succ) (at' : Inst) : State :=
  let c := s.ch ch
  let siding := c.seq.underrun == 2 && !c.headLate x.wayside (s.freeCtr + 1)
  let s := s.modCh ch fun c => { c with seq := { c.seq with events := evSet c.seq.events SeqEv.lateFetch } }
  if siding then
    (s.modCh ch fun c => { c with seq := { c.seq with lateSucc := some x } }).beginPass ch x.wayside at' none true
  else
    s.modCh ch fun c =>
      let c := c.outTo (q16 s.now)
      { c with
        seq := { c.seq with late := true, decided := false, wp := x.wp, done := x.done, waiting := x.kind == .idle
                            passStack := c.seq.stack }
        ply := { c.ply with wav := .hold, cur := { c.ply.cur with after := .late } } }

/-- A pass ends and its chosen successor begins. A mark for a soft shed stays through the DRAIN of ROUTE_END (R437). -/
def State.boundary (s : State) (ch : ChanId) (x : Succ) : State :=
  let inst := (s.ch ch).boundaryExact
  if x.routeEnd then
    let s := s.modCh ch fun c =>
      { c with seq := { c.seq with events := evSet c.seq.events SeqEv.routeEnd } }.publish s.cycle Prod.routeEnd
    let mark := (s.ch ch).tlh.shed == 1
    (s.enterDrain ch true).modCh ch fun c => { c with tlh := { c.tlh with shed := if mark then 1 else 0 } }
  else
    match (s.ch ch).seq.holdNext with
    | some cause =>
      let cause := match (s.ch ch).seq.holdReq with
        | some (b, _) => worseCause cause b
        | none => cause
      let s := s.modCh ch fun c => { c with seq := c.seq.setResume x.wp x.done c.seq.stack }
      s.enterHeld ch cause inst.floor false
    | none =>
      let s := s.modCh ch fun c => { c with seq := c.seq.rebaseLatches }
      if (s.ch ch).seq.kind = .wayside then
        (s.beginPass ch x inst none true).modCh ch fun c => if x.kind = .wayside then c else { c with seq := { c.seq with lateSucc := none } }
      else if (s.ch ch).headLate x s.freeCtr then (s.lateHead ch x inst).drawn.drawn
      else (s.beginPass ch x inst none true).drawn

/-- PASS_BOUNDARY (R140). -/
def execPassBoundary (t : Tbu) (ch : ChanId) (s : State) : Host.Outcome State Fault Refusal :=
  let s := s.atTime t
  let c := s.ch ch
  .next (if c.latches && !c.seq.late && c.passOver s.cycle then
      match c.seq.succ with
      | some x => s.boundary ch x
      | none => s
    else s)

/-- LATE_HEAD_ARRIVAL (R416): the late pass starts at its first sample, handed over in the present cycle. -/
def execLateHeadArrival (t : Tbu) (ch : ChanId) (s : State) : Host.Outcome State Fault Refusal :=
  let s := s.atTime t
  let c := s.ch ch
  .next (if c.latches && c.seq.late then
      match c.seq.succ with
      | some x => if !c.headHere x then s else s.beginPass ch x (Inst.ofQ (q16 ((s.cycle + 1) * cycleTbu + leadTbu))) none false
      | none => s
    else s)

/-! ### Group decision (R161 to R163) -/

/-- SEQ_GRP_CFG.MASK as latched. -/
def Seq.grpMask (q : Seq) : BitVec 16 := BitVec.ofNat 16 (fld q.lGrpCfg 32 16)
def Seq.grpTag (q : Seq) : BitVec 16 := BitVec.ofNat 16 (fld q.lGrpCfg 48 16)
def Seq.gcond (q : Seq) : Bool := bit q.lGrpCfg 0
/-- LEAD as latched; below 64 it acts as 64 (R154). -/
def Seq.lead (q : Seq) : Nat := max 64 (fld q.lStartCfg 16 16)
def Seq.cond (q : Seq) : Nat := fld q.lStartCfg 0 2

/-- 12 ns, within which votes are collected (R162). -/
def voteWindow : Nat := 12 * ns

/-- The vote of channel `n` agrees with the vote `v`. -/
def State.agrees (s : State) (v : Vote) (n : ChanId) : Bool :=
  match (s.ch n).seq.vote with
  | some u => u.commit && u.tag == v.tag && u.mask == v.mask && u.edge == v.edge
      && decide (u.at' ≤ v.at' + voteWindow) && decide (v.at' ≤ u.at' + voteWindow)
  | none => false

/-- The channels that release a member's group: those of its mask that do not agree, and itself when it voted
RELEASE. -/
def State.releasers (s : State) (ch : ChanId) (v : Vote) : BitVec 16 :=
  BitVec.ofNat 16 (chMask fun n => (bit v.mask n.val && !s.agrees v n) || (n == ch && !v.commit))

/-- Place the start at a position (R154). -/
def Chan.placeStart (c : Chan) (x : Word) : Chan :=
  let c := { c with trk := (c.trk.unplace .start).place .start x, seq := { c.seq with placed := some x } }
  c

/-- A member releases: START_PEND := 0 (R162). -/
def Chan.grpRelease (c : Chan) (by' : BitVec 16) : Chan :=
  let c := c.withdrawStart.unpend
  { c with tlh := { c.tlh with pinned := false }
           seq := { c.seq with grpOutcome := 4, grpReleasedBy := by', events := evSet c.seq.events SeqEv.grpDone } }

/-- GROUP_DECIDE (R162): a member that has voted collects the votes of its group. It commits once every channel of its mask
agrees, and releases only when the 12 ns in which it collects votes are over, so that all members see the same votes. -/
def State.groupDecide (s : State) (ch : ChanId) : State :=
  let c := s.ch ch
  match c.seq.vote with
  | none => s
  | some v =>
    if c.seq.grpOutcome ≠ 2 then s
    else
      let rel := s.releasers ch v
      if v.commit && rel == 0 then
        let x := if c.seq.gcond then cyclePos (v.edge + BitVec.ofNat 40 c.seq.lead) else c.seq.lStartPos
        s.modCh ch fun c =>
          let c := { c with seq := { c.seq with grpOutcome := 3, events := evSet c.seq.events SeqEv.grpDone } }
          if c.mod.startPend then c.placeStart x else c
      else if s.now < v.at' + voteWindow then s
      else s.modCh ch fun c =>
        let c := if v.commit then { c with seq := { c.seq with grpReason := 0x33 } } else c
        c.grpRelease rel

/-- GROUP_DECIDE (R162). -/
def execGroupDecide (t : Tbu) (ch : ChanId) (s : State) : Host.Outcome State Fault Refusal := .next ((s.atTime t).groupDecide ch)

end Sys2Proof.Machine
end

