-- ==== Sys2Proof/Machine/ChannelCmds.lean ====
section
/-! DEFINITION. Channel commands and the changes of state they lead to: the tests of R122, the route check, starts
and resumes, RUN entry and the end of DRAIN (R121 to R130, R138, R139, R154 to R157, R161). -/

namespace Sys2Proof.Machine

/-! ### Codes, tests and results (R121, R122) -/

def Cmd.ofCode (n : Nat) : Cmd :=
  match n with
  | 1 => .arm | 2 => .start | 3 => .hold | 4 => .resume | 5 => .stop | 6 => .cancel | 7 => .enable | 8 => .disable
  | _ => .bad (BitVec.ofNat 4 n)

def Cmd.code : Cmd → BitVec 4
  | .arm => 1 | .start => 2 | .hold => 3 | .resume => 4 | .stop => 5 | .cancel => 6 | .enable => 7 | .disable => 8
  | .bad c => c

def Cmd.isBad : Cmd → Bool
  | .bad _ => true
  | _ => false

/-- ENABLE and DISABLE are the commands that DRAIN takes (R122). -/
def Cmd.drains (c : Cmd) : Bool := c == .enable || c == .disable

/-- The command is accepted in the channel's present state (R121). -/
def Chan.accepts (c : Chan) (cmd : Cmd) : Bool :=
  let st := c.mod.state
  match cmd with
  | .arm => st == .rest
  | .start => st == .armed
  | .hold => st == .run || st == .held
  | .resume => st == .held
  | .stop => st == .armed || st == .run || st == .held
  | .cancel => (st == .armed || st == .held) && c.mod.startPend
  | .enable | .disable => st == .rest || st == .armed || st == .held || st == .drain
  | .bad _ => false

/-- The first reason of R122, orders 1 to 6, for refusing a command, or 0. -/
def State.cmdTest (s : State) (ch : ChanId) (cmd : Cmd) : Byte :=
  let c := s.ch ch
  if cmd.isBad then 0x05
  else if !s.working then 0x03
  else if !c.configured then 0x01
  else if c.mod.state == .drain && !cmd.drains then 0x04
  else if cmd == .resume && c.mod.state == .held && c.mod.heldCause == Cause.fault then 0x07
  else if !c.accepts cmd then 0x02
  else 0

/-- A channel named by the last broadcast has set its bit; with the last of them BCAST_DONE is set (R126). -/
def State.bcastMark (s : State) (ch : ChanId) (ok : Bool) : State :=
  let m := s.mod
  let m := if ok then { m with bcastAcc := setBit m.bcastAcc ch.val } else { m with bcastRef := setBit m.bcastRef ch.val }
  let w := clrBit m.bcastWait ch.val
  { s with mod := { m with bcastWait := w, events := evIf (w == 0) m.events ModEv.bcastDone } }

/-- The outcome of a command is written (R121, R126). -/
def State.cmdResult (s : State) (ch : ChanId) (cmd : Cmd) (code : Byte) (bcast : Bool) : State :=
  let s := s.modCh ch fun c => { c with mod := { c.mod with count := c.mod.count + 1, cmd := cmd.code, result := code } }
  let s := if code = 0 then s else { s with mod := { s.mod with events := evSet s.mod.events ModEv.cmdRefused } }
  if bcast then s.bcastMark ch (code == 0) else s

/-! ### ARM and the route check (R138, R139) -/

/-- An ARM registered in REST latches the route and begins the check. -/
def Chan.armBegin (c : Chan) (bcast : Bool) : Chan :=
  { c with seq := { c.seq with lRoute := c.seq.route, lRouteCfg := c.seq.routeCfg, lIdle := c.seq.idle, checking := true }
           mod := { c.mod with armBcast := bcast } }

/-- A block range on the way up the route: its first and closing waypoint, and how deep it nests. -/
structure Block where
  start : Nat
  close : Nat
  depth : Nat
  deriving DecidableEq, Repr

/-- Take the blocks that the range from `bs` contains off the list, and the depth they give it. -/
def takeInner (bs : Nat) : List Block → Nat → Nat × List Block
  | [], d => (d, [])
  | b :: r, d => if bs ≤ b.start then takeInner bs r (max d (b.depth + 1)) else (d, b :: r)

/-- Add the range [bs, w] to the blocks found so far (innermost and latest first); none when the nesting fails. -/
def addBlock (bs w : Nat) (l : List Block) : Option (List Block) :=
  let r := takeInner bs l 1
  let clash := match r.2 with
    | b :: _ => decide (bs ≤ b.close)
    | [] => false
  if clash || decide (3 < r.1) then none else some ({ start := bs, close := w, depth := r.1 } :: r.2)

/-- The failure of waypoint `w`, or the blocks after it (R139, codes 0x04 to 0x0A). -/
def Chan.checkWp (c : Chan) (w : WpId) (bl : List Block) : Byte × List Block :=
  let q := c.seq
  let sg := q.wpSeg w
  let jumpBad := ([0, 1, 2, 3] : List Nat).any fun j => q.wpJen w j && !q.inRange (q.wpJump w j)
  let blockBad := q.wpClose w && (decide ((q.wpStart w).toNat < q.first.toNat) || decide (w.toNat < (q.wpStart w).toNat))
  if !q.wpValid w || q.wpReserved w || decide (4 ≤ (q.wpHopOp w).toNat) then (0x04, bl)
  else if !q.segValid sg then (0x05, bl)
  else if q.segStreamed sg && !c.openFor sg then (0x06, bl)
  else if jumpBad then (0x07, bl)
  else if blockBad then (0x08, bl)
  else
    let nest := if q.wpClose w then addBlock (q.wpStart w).toNat w.toNat bl else some bl
    match nest with
    | none => (0x09, bl)
    | some bl =>
      if q.wpWait w != 0 && (!q.segValid q.idleSeg || q.segStreamed q.idleSeg) then (0x0A, bl) else (0, bl)

/-- The first failing waypoint of a list, with its code. -/
def Chan.checkWps (c : Chan) : List WpId → List Block → Byte × WpId
  | [], _ => (0, 0)
  | w :: r, bl =>
    let x := c.checkWp w bl
    if x.1 = 0 then c.checkWps r x.2 else (x.1, w)

/-- The route check of R139: the first failure, or code 0. -/
def Chan.routeCheck (c : Chan) : Byte × WpId :=
  let q := c.seq
  if q.last.toNat < q.first.toNat then (0x01, 0)
  else if q.from' && !q.resumeOk then (0x02, 0)
  else if q.underrun == 2 && (!q.segValid q.sidingSeg || q.segStreamed q.sidingSeg) then (0x03, 0)
  else c.checkWps q.waypoints []

/-- The segments whose heads an accepted ARM holds, in the order of R353. -/
def Chan.headOrder (c : Chan) : List SegId :=
  let q := c.seq
  let l := q.startSeg :: q.waypoints.map q.wpSeg
    ++ (if q.waits then [q.idleSeg] else []) ++ (if q.underrun = 2 then [q.sidingSeg] else [])
  l.eraseDups.filter fun s => !q.segStreamed s

/-- An ARM is accepted (R139, R169, R204, R305, R353, R434, R488). DESIGN CHOICE (log entry 81): OUTCOME of SEQ_GRP_STAT returns to 0
here (R162). -/
def State.armAccept (s : State) (ch : ChanId) : State :=
  let s := s.modCh ch fun c =>
    let c : Chan := { c with seq := { c.seq with
      checking := false, checkCode := 0, checkWp := 0, fromResume := c.seq.from', grpOutcome := 0 } }
    let c := c.plyArm.dstArm
    let heads := if c.mem.degraded then [] else c.headOrder.map c.segHead
    { c with
      jnc := c.jnc.cellClear s.cycle
      mem := { c.mem with heads := heads, holding := !heads.isEmpty, cacheFull := false }
      tlh := { c.tlh with request := some { tick := s.tlh.tick, service := false }, granted := false }
      flt := { c.flt with halt := false } }
  let s := s.armSynths ch
  let s := s.setChState ch .armed
  s.closeEnded ch

/-! ### Starts (R154, R156, R161) -/

/-- The decision edge of a group start with GCOND = 0 (R161). -/
def Seq.decisionEdge (q : Seq) : BitVec 40 := posInt q.lStartPos - BitVec.ofNat 40 q.lead

/-- The decision edge was passed before now. -/
def Chan.edgePassed (c : Chan) : Bool := c.trk.state != .absent && atOrAfter c.trk.edgePos (cyclePos c.seq.decisionEdge)

/-- A START (`res` false) or RESUME is accepted: the start values are latched, and START_PEND is set. DESIGN CHOICE (log entry 81): REASON
and RELEASED_BY of SEQ_GRP_STAT return to 0 here (R162). -/
def Chan.startAccept (c : Chan) (now : Tbu) (tick : Nat) (res : Bool) : Chan :=
  let c := c.withdrawStart
  let c : Chan := { c with
    mod := { c.mod with startPend := true }
    tlh := { c.tlh with request := if res then some { tick := tick, service := false } else c.tlh.request, pinned := false }
    seq := { c.seq with
      lStartCfg := c.seq.startCfg, lStartPos := c.seq.startPos, lGrpCfg := c.seq.grpCfg
      fromResume := res || c.seq.from'
      vote := none, grpOutcome := 0, grpReason := 0, grpReleasedBy := 0, decided1 := false } }
  let cond := c.seq.cond
  let c : Chan := { c with seq := { c.seq with
    events := evIf (cond != 0 && !c.trk.aligned) c.seq.events SeqEv.unalignedStart
    grpOutcome := if cond = 3 then 1 else 0 } }
  if cond = 3 ∧ !c.seq.gcond ∧ c.edgePassed then
    let v : Vote := { tag := c.seq.grpTag, mask := c.seq.grpMask, edge := c.seq.decisionEdge, commit := false, at' := now }
    { c with seq := { c.seq with vote := some v, grpReason := 0x32 } }
  else c

/-- A member whose decision edge has passed releases at once, naming itself (R161). -/
def State.startCmd (s : State) (ch : ChanId) (res : Bool) : State :=
  s.modCh ch fun c =>
    let c := c.startAccept s.now s.tlh.tick res
    if c.seq.grpReason = 0x32 then c.grpRelease (mask1 16 ch.val) else c

/-! ### Evaluation -/

/-- The effect of an accepted command other than ARM. -/
def State.cmdEffect (s : State) (ch : ChanId) (cmd : Cmd) : State :=
  match cmd with
  | .start => s.startCmd ch false
  | .resume => s.startCmd ch true
  | .hold => s.modCh ch fun c => if c.mod.state = .run then c.latchHold Cause.host s.cycle else c
  | .stop => s.enterDrain ch
  | .cancel => s.modCh ch Chan.dropStart
  | .enable => s.modCh ch fun c =>
      if c.mod.state = .drain then { c with mod := { c.mod with pendEn := true } } else c.enable
  | .disable => s.modCh ch fun c =>
      if c.mod.state = .drain then { c with mod := { c.mod with pendEn := false } } else c.disable s.now
  | _ => s

/-- A command reaches a channel (R122, R123): behind an ARM that is being checked it waits (R139). -/
def State.command (s : State) (ch : ChanId) (cmd : Cmd) (bcast : Bool) : State :=
  let c := s.ch ch
  if c.seq.checking then
    s.setCh ch { c with mod := { c.mod with queued := c.mod.queued ++ [{ cmd := cmd, bcast := bcast }] } }
  else
    let code := s.cmdTest ch cmd
    if code ≠ 0 then s.cmdResult ch cmd code bcast
    else if cmd = .arm then s.modCh ch fun c => c.armBegin bcast
    else (s.cmdEffect ch cmd).cmdResult ch cmd 0 bcast

/-- ARM (R121, R139). -/
def execArm (t : Tbu) (ch : ChanId) (s : State) : Host.Outcome State Fault Refusal := .next ((s.atTime t).ifPort fun s => s.command ch .arm false)
/-- START (R121, R154). -/
def execStart (t : Tbu) (ch : ChanId) (s : State) : Host.Outcome State Fault Refusal := .next ((s.atTime t).ifPort fun s => s.command ch .start false)
/-- HOLD (R121, R147). -/
def execHold (t : Tbu) (ch : ChanId) (s : State) : Host.Outcome State Fault Refusal := .next ((s.atTime t).ifPort fun s => s.command ch .hold false)
/-- RESUME (R121, R154). -/
def execResume (t : Tbu) (ch : ChanId) (s : State) : Host.Outcome State Fault Refusal := .next ((s.atTime t).ifPort fun s => s.command ch .resume false)
/-- STOP (R121, R127). -/
def execStop (t : Tbu) (ch : ChanId) (s : State) : Host.Outcome State Fault Refusal := .next ((s.atTime t).ifPort fun s => s.command ch .stop false)
/-- CANCEL (R121). -/
def execCancel (t : Tbu) (ch : ChanId) (s : State) : Host.Outcome State Fault Refusal := .next ((s.atTime t).ifPort fun s => s.command ch .cancel false)
/-- ENABLE (R121, R129, R256). -/
def execEnable (t : Tbu) (ch : ChanId) (s : State) : Host.Outcome State Fault Refusal := .next ((s.atTime t).ifPort fun s => s.command ch .enable false)
/-- DISABLE (R121, R129, R259). -/
def execDisable (t : Tbu) (ch : ChanId) (s : State) : Host.Outcome State Fault Refusal := .next ((s.atTime t).ifPort fun s => s.command ch .disable false)

/-- A channel whose evaluation of an earlier broadcast is still to come sets no bit for it any more (R126, log entry 19). -/
def Chan.forgetBcast (c : Chan) : Chan :=
  { c with mod := { c.mod with queued := c.mod.queued.map fun (q : QueuedCmd) => { q with bcast := false }, armBcast := false } }

/-- A write of MOD_BCAST_CMD: the command reaches every channel of the mask in the same cycle (R126). -/
def State.broadcastCmd (s : State) (v : Word) : State :=
  let mask : BitVec 16 := BitVec.ofNat 16 (fld v 16 16)
  let cmd := Cmd.ofCode (fld v 0 4)
  let s := s.forCh allCh fun s c => s.modCh c Chan.forgetBcast
  let s := { s with mod := { s.mod with bcastAcc := 0, bcastRef := 0, bcastWait := mask
                                        events := evIf (mask == 0) s.mod.events ModEv.bcastDone } }
  s.forCh (chOf mask) fun s c => s.command c cmd true

/-- The end of a route check: the ARM is accepted or refused, under the mode and state of that moment, and the commands
behind it are evaluated in turn. -/
def State.checkDone (s : State) (ch : ChanId) : State :=
  let c := s.ch ch
  let r := c.routeCheck
  let b := c.mod.armBcast
  let waiting := c.mod.queued
  let now := s.cmdTest ch .arm
  let s := if now ≠ 0 then (s.modCh ch fun c => { c with seq := { c.seq with checking := false } }).cmdResult ch .arm now b
    else if r.1 = 0 then (s.armAccept ch).cmdResult ch .arm 0 b
    else (s.modCh ch fun c => { c with seq := { c.seq with checking := false, checkCode := r.1, checkWp := r.2 } }).cmdResult
      ch .arm 0x06 b
  let s := s.modCh ch fun c => { c with mod := { c.mod with queued := [], armBcast := false } }
  waiting.foldl (fun s x => s.command ch x.cmd x.bcast) s

/-- ROUTE_CHECK_DONE (R139). -/
def execRouteCheckDone (t : Tbu) (ch : ChanId) (s : State) : Host.Outcome State Fault Refusal :=
  let s := s.atTime t
  .next (if (s.ch ch).seq.checking then s.checkDone ch else s)

/-! ### RUN entry (R124, R144, R151, R154, R173) -/

/-- The start event whose first sample is handed over in cycle `cyc`, once no other wait reason holds. DESIGN CHOICE (log entry 51):
a wait reason other than CONDITION that arises once the start is committed (a stop of PACE, a grant withdrawn, FETCH again) delays RUN
(R47, R124), and the start keeps the instant it was committed with. -/
def Chan.runDue (c : Chan) (cyc : Nat) : Option Committed :=
  if c.mod.startPend && (c.mod.state == .armed || c.mod.state == .held) && c.waitBase == 0 then
    (c.trk.committedOf .start).filter fun e => decide (c.trk.plannedAt e.pos e.inst < handoverEnd cyc)
  else none

/-- The route begins at its start point: the sequencer as RUN is entered. DESIGN CHOICE (log entry 81): SEQ_RUN_POS is written here, not
when the start event is placed (R154). -/
def Seq.runStart (q : Seq) (pos : Word) : Seq :=
  let p := q.startPoint
  { q with runPos := pos, wp := p.1, done := p.2.1, stack := p.2.2, passStack := p.2.2, decided := false
           started := p.2.1 != 0, hopDone := p.2.1 != 0, inUnder := false, placed := none, cleared := false, len := 0
           trig0 := none, trig1 := none, jmp := Vector.replicate 4 none, adv := none, hostJump := none, mile := none
           holdReq := none, holdNext := none, succ := none, lateSucc := none, late := false }

/-- Enter RUN with the first sample at position `pos`, instant `inst`. A shed that arose while the grant was pinned is latched
before the first sample, so that it holds the channel at the first exit gate (R163). -/
def State.enterRun (s : State) (ch : ChanId) (pos : Word) (inst : Q16) : State :=
  let idle := (s.ch ch).seq.startIdle
  let s := s.modCh ch fun c =>
    { c with
      mod := { c.mod with startPend := false }
      tlh := { c.tlh with pinned := false, shed := if c.tlh.shed = 1 then 1 else 0 }
      seq := c.seq.runStart pos
      ply := { c.ply with ranTo := none }
      stq := { c.stq with queues := c.stq.queues.map fun e => (e.1, { e.2 with playing := none }) } }
  let s := s.setChState ch .run
  let c := s.ch ch
  let w := c.seq.wp
  let x : Succ := { wp := w, done := c.seq.done, kind := if idle then .idle else .segment
                    entry := c.seq.done == 0, routeEnd := false }
  let s := if !idle && c.seq.segStreamed (c.seq.wpSeg w) then s.assignFill ch (c.seq.segQueue (c.seq.wpSeg w)) else s
  let s := s.modCh ch fun c =>
    if x.kind != .idle && x.entry && c.seq.wpHopOp w != 0 then
      c.prepareHop false (c.seq.wpHopOp w) (c.seq.wpHopIdx w) s.cycle 0 else c
  let s := s.beginPass ch x (Inst.ofQ inst) (some pos) false
  s.modCh ch fun c =>
    let c := c.dstRunEntry s.cycle pos
    if c.tlh.shed = 1 then c.latchHoldAt Cause.shed 0 else c

/-- RUN_ENTRY (R124). -/
def execRunEntry (t : Tbu) (ch : ChanId) (s : State) : Host.Outcome State Fault Refusal :=
  let s := s.atTime t
  .next (match (s.ch ch).runDue s.cycle with
    | some e => s.enterRun ch e.pos ((s.ch ch).trk.plannedAt e.pos e.inst)
    | none => s)

/-! ### The end of DRAIN (R127 steps 6 to 8, R129) -/

/-- Step 5 of R127 stands, with the ramp of the levels over, then step 8, and a pending ENABLE (R129). -/
def State.drainComplete (s : State) (ch : ChanId) : State :=
  let s := s.modCh ch fun c =>
    let c := c.switchesOpen.releaseGrant
    { c with ana := { c.ana with ramp := none } }
  let pend := (s.ch ch).mod.pendEn
  let s := s.enterRest ch
  if pend then
    let s := s.modCh ch fun c => ({ c with mod := { c.mod with pendEn := false } } : Chan).enableExec
    { s with mod := { s.mod with events := evSet s.mod.events ModEv.pendingDone } }
  else s

/-- DRAIN_COMPLETE (R127): step 7 begins if it is due and has not; once it is over, step 8 follows. -/
def execDrainComplete (t : Tbu) (ch : ChanId) (s : State) : Host.Outcome State Fault Refusal :=
  let s := s.atTime t
  .next (if (s.ch ch).mod.state = .drain then
      let s := s.modCh ch fun c => c.drainOn s.now
      if (s.ch ch).drained s.now then s.drainComplete ch else s
    else s)

end Sys2Proof.Machine
end

