-- ==== Sys2Proof/Machine/Track.lean ====
section
/-! DEFINITION. Track time: the qualification and loss of REF, the odometer, PACE edges with milestones, alignment,
commits, start clearings and group votes, PACE stops, emitted events and snapshots (R26 to R70, R155, R161, R162, R181,
R513, R514). -/

namespace Sys2Proof.Machine

/-- The module has power. -/
def State.powered (s : State) : Bool := s.mod.mode != .unpowered

/-- Set a bit of TRK_EVENTS (R67). -/
def State.trkEvent (s : State) (k : Nat) : State := { s with trk := { s.trk with events := evSet s.trk.events k } }

/-- A tracker event of every channel: published in each and flagged once (R67). -/
def State.trkAll (s : State) (code k : Nat) : State := (s.forCh allCh fun s c => s.publish c code).trkEvent k

/-! ### REF and the time base (R26 to R31) -/

/-- The frequency whose count a 100 µs window matched within 0.2 %: 0 none, 1 10 MHz, 2 100 MHz (R28, R69). -/
def refMatch (count : Nat) : BitVec 2 :=
  if 998 ≤ count ∧ count ≤ 1002 then 1 else if 9980 ≤ count ∧ count ≤ 10020 then 2 else 0

/-- A matched frequency is the one selected; FREQ 3 acts as 0 (R28, R69). -/
def refSelected (cfg : Word) (m : BitVec 2) : Bool :=
  m != 0 && (fld cfg 0 2 == 0 || fld cfg 0 2 == 3 || fld cfg 0 2 == m.toNat)

/-- REF is declared lost (R29, R30): holdover, REF_LOST in every channel, and the sample gates close (R287). -/
def State.refLoss (s : State) : State :=
  let s := { s with trk := { s.trk with
    present := false, tbLocked := false, goodWindows := 0, wasLost := true
    holdoverAt := if s.trk.holdover then s.trk.holdoverAt else some s.now
    holdover := true } }
  let s := s.trkAll Prod.refLost TrkEv.refLost
  s.forCh allCh fun s c => s.modCh c fun x =>
    let x := x.synRefLost
    (x.closeGate 0 s.now true).closeGate 1 s.now true

/-- REF becomes present (R27, R28); REF_BACK follows a loss (R67). -/
def State.refPresent (s : State) : State :=
  let back := s.trk.wasLost
  let s := { s with trk := { s.trk with present := true, epoch := some (s.trk.epoch.getD s.now) } }
  if back then s.trkAll Prod.refBack TrkEv.refBack else s

/-- A 100 µs window ends with `count` REF edges (R28, R29); the next one takes TRK_REF_CFG as it stands (R70). -/
def State.refWindow (s : State) (count : Nat) : State :=
  let m := refMatch count
  let good := refSelected s.trk.refCfgNow m
  let n := if good then s.trk.goodWindows + 1 else 0
  let s := { s with trk := { s.trk with freqSeen := m, wrongFreq := m != 0 && !good, goodWindows := min n 2
                                        refCfgNow := s.trk.refCfg } }
  if s.trk.present then (if good then s else s.refLoss)
  else if 2 ≤ n then s.refPresent else s

/-- TB_INVALID (R30): holdover has lasted 10 ms. -/
def execTbInvalid (t : Tbu) (s : State) : Host.Outcome State Fault Refusal :=
  let s := s.atTime t
  .next (match s.trk.holdoverAt with
    | some a => if s.trk.holdover ∧ a + 10 * ms ≤ s.now then { s with trk := { s.trk with tbInvalid := true } } else s
    | none => s)

/-- TB_LOCKED (R31): the time base has locked to a REF that is present; the sample synthesizers retune (R287). -/
def State.tbLock (s : State) : State :=
  let s := { s with trk := { s.trk with tbLocked := true, holdover := false, tbInvalid := false, holdoverAt := none } }
  s.forCh allCh fun s c => s.modCh c fun x => x.pairRefBack false s.now

def execTbLocked (t : Tbu) (s : State) : Host.Outcome State Fault Refusal :=
  let s := s.atTime t
  .next (if s.powered && s.trk.present && !s.trk.tbLocked then s.tbLock else s)

/-- ODO_TICK (R65): a millisecond of uptime. -/
def execOdoTick (t : Tbu) (s : State) : Host.Outcome State Fault Refusal :=
  let s := s.atTime t
  .next (if s.powered then { s with trk := { s.trk with odo := s.trk.odo + 1 } } else s)

/-! ### PACE stops (R36, R45) -/

/-- The lane pair's reference is lost: its gates close and its tunes stop (R287). -/
def Chan.lanesLost (c : Chan) (now : Tbu) : Chan := ((c.pairRefLost true).closeGate 2 now false).closeGate 3 now false

/-- The instant of the declaration of STOPPED: E + T_stop + 1 (R36). -/
def Tracker.stopAt (k : Tracker) : Tbu := (k.e + k.stopAfter + 1).toNat

/-- A wait reason other than CONDITION holds: a start not yet committed is withdrawn, and the next edge without a reason is a
clearing (R155). A start that a group has decided keeps its place (R163; DEDUCED, log entry 21). -/
def Chan.losePlace (c : Chan) : Chan :=
  if !c.mod.startPend then c
  else if c.trk.isPending .start && c.seq.cond != 3 then c.withdrawStart
  else { c with seq := { c.seq with cleared := false } }

/-- A LOCKED tracker declares STOPPED (R36, R155, R180, R287). -/
def State.paceStop (s : State) (ch : ChanId) : State :=
  let s := s.modCh ch fun c =>
    let c := c.losePlace.publish s.cycle Prod.paceStop
    (({ c with trk := { c.trk.recordStop c.trk.stopAt with state := .stopped } }.freezeZero s.now).lanesLost s.now).calSpoil [2, 3] 0x2A
  s.trkEvent TrkEv.paceStop

/-- PACE_STOP (R36). -/
def execPaceStop (t : Tbu) (ch : ChanId) (s : State) : Host.Outcome State Fault Refusal :=
  let s := s.atTime t
  .next (if s.powered && (s.ch ch).trk.stopDue s.now then s.paceStop ch else s)

/-- The oldest stamp that awaits its conversion. -/
def Tdc.oldest (d : Tdc) : Option Int :=
  (d.ins.toList.filterMap fun i => (i.conv.head?).map (·.t)).foldl
    (fun a t => some (min t (a.getD t))) none

/-- Stamps retracked before their conversion have no position (R323). -/
def Tdc.unplaced (d : Tdc) : Tdc :=
  { d with ins := vmap (fun i : TdcIn => { i with conv := i.conv.map fun (x : Stamp) => { x with nopos := true } }) d.ins }

/-! ### Milestones and alignment (R54 to R61, R514) -/

/-- 550 ps in tbu, rounded up: two edges of one channel are never closer (R32). -/
def edgeGap : Nat := 282

/-- TRK_MSTONE_CFG and TRK_MSTONE_POS as held at the PACE edge at instant `e`: those before the module milestone found
at that same edge, if there was one (R61, R514). -/
def TrkMod.heldAt (m : TrkMod) (e : Int) : Word × Word :=
  match m.mileAt with
  | some a => if (e - a).natAbs < edgeGap then (m.mileCfg, m.milePos) else (m.mstoneCfg, m.mstonePos)
  | none => (m.mstoneCfg, m.mstonePos)

/-- MODE and VIEW_CH of TRK_MSTONE_CFG (R69). -/
def mstoneMode (cfg : Word) : Nat := fld cfg 0 2
def mstoneView (cfg : Word) : Nat := fld cfg 4 4

/-- The milestone moves a position by TRK_MSTONE_STEP.CYCLES, modulo 2^40 whole cycles (R58). -/
def stepPos (pos step : Word) : Word := cyclePos (posInt pos + BitVec.ofNat 40 (fld step 0 40))

/-- The module-level actions of a milestone (R514). -/
def TrkMod.milestone (m : TrkMod) (e : Int) (cfg pos last : Word) : TrkMod :=
  let mode := mstoneMode cfg
  { m with
    mileAt := some e, mileCfg := cfg, milePos := pos, mstoneLast := last
    events := evIf (mode == 1 || mode == 2) m.events TrkEv.alignDone
    mstoneCfg := if mode = 1 then pack [(3, 0), (fld m.mstoneCfg 4 4, 4)] else m.mstoneCfg
    mstonePos := if mode = 0 then m.mstonePos else stepPos m.mstonePos m.mstoneStep }

/-- A channel may align (R56). -/
def Chan.alignable (c : Chan) : Bool :=
  c.trk.state == .locked && (c.mod.state == .rest || c.mod.state == .trim || c.mod.state == .armed)

/-- SEQ_START_CFG.LATE as latched. -/
def Seq.lateOk (q : Seq) : Bool := bit q.lStartCfg 2

/-- The earliest position a start may take at the last edge: (n + LEAD).00_0000 (R154). -/
def Chan.leadPos (c : Chan) : Word := cyclePos (c.trk.n + BitVec.ofNat 40 c.seq.lead)

/-- The test of R155 for a start with COND = 1. -/
def Chan.testStart (c : Chan) : Chan :=
  let x := c.seq.lStartPos
  if atOrAfter x c.leadPos then c.placeStart x
  else
    let c : Chan := { c with seq := { c.seq with events := evSet c.seq.events SeqEv.startLate } }
    if c.seq.lateOk then c.placeStart c.leadPos else c.withdrawStart.unpend

/-- A registered target that is no longer in the future of the aligned count (R57). DESIGN CHOICE (log entry 51): a placed start
with COND 0, 2 or 3, which the table of R57 does not name, stays placed, and commits at this edge with an instant in the
past. -/
def Chan.lateTarget (c : Chan) (p : Placed) : Chan :=
  match p.kind with
  | .at k =>
    let c := c.atCancel k
    { c with jnc := { c.jnc with events := evSet c.jnc.events JncEv.atLate } }
  | .strobe =>
    let c := c.unsched
    { c with ana := { c.ana with events := evSet c.ana.events AnaEv.stbLate } }
  | .sswitch =>
    let c := { c with trk := c.trk.unplace .sswitch }
    (c.modPair false fun p => { p with pend := none, byCmd := false }).synEvent SynEv.switchLost
  | .start => if c.seq.cond = 1 then ({ c with trk := c.trk.unplace .start } : Chan).testStart else c
  | .knot | .frame => c

/-- A member with GCOND = 0 whose decision edge lies behind the count and that has not voted releases at once (R57,
R161). -/
def Chan.lateMember (c : Chan) (now : Tbu) (ch : ChanId) : Chan :=
  if c.mod.startPend && c.seq.cond == 3 && c.seq.grpOutcome == 1 && !c.seq.gcond
      && isAfter c.trk.edgePos (cyclePos c.seq.decisionEdge) then
    let v : Vote := { tag := c.seq.grpTag, mask := c.seq.grpMask, edge := c.seq.decisionEdge, commit := false, at' := now }
    ({ c with seq := { c.seq with vote := some v, grpReason := 0x32 } } : Chan).grpRelease (mask1 16 ch.val)
  else c

/-- An eligible channel aligns: the edge takes the position `pos`, and every target not yet committed is tested
against it (R56, R57). DESIGN CHOICE (log entry 51): a placed start with COND = 1 whose position is still in the future, if
before LEAD, stays placed. -/
def Chan.align (c : Chan) (now : Tbu) (ch : ChanId) (pos : Word) : Chan :=
  let c := { c with trk := { c.trk with n := posInt pos, aligned := true, misaligned := false } }
  let late := c.trk.pending.filter fun p => !isAfter p.pos c.trk.edgePos
  (late.foldl Chan.lateTarget c).lateMember now ch

/-- CHECK mode: an ALIGNED channel whose milestone edge is not at `pos` slips (R59). -/
def Chan.slips (c : Chan) (pos : Word) : Bool := c.trk.aligned && c.trk.edgePos != pos

def Chan.slip (c : Chan) (cyc : Nat) (pos : Word) : Chan :=
  { c with trk := { c.trk with slip := c.trk.edgePos - pos, misaligned := true, aligned := false } }.publish cyc Prod.mstoneSlip

/-- The milestone edge of a channel (R54 to R61, R514). -/
def State.milestone (s : State) (ch : ChanId) : State :=
  let e := (s.ch ch).trk.e
  let h := s.trk.heldAt e
  let mode := mstoneMode h.1
  let s := (s.publish ch Prod.mstone).trkEvent TrkEv.mstoneSeen
  let s := s.modCh ch fun c => c.request .mile s.cycle
  let s := if (mode == 1 || mode == 2) && (s.ch ch).alignable then s.modCh ch fun c => c.align s.now ch h.2 else s
  let s := if mode == 3 && fld s.trk.mstoneStep 0 40 != 0 && (s.ch ch).slips h.2 then
      (s.modCh ch fun c => c.slip s.cycle h.2).trkEvent TrkEv.mstoneSlip
    else s
  if mstoneView h.1 = ch.val then { s with trk := s.trk.milestone e h.1 h.2 (s.ch ch).trk.edgePos } else s

/-! ### Start clearings (R154, R155) -/

/-- A qualified edge of a channel with START_PEND: a clearing places the start, or a wait reason withdraws it; `mile`
says that the edge is a milestone. -/
def Chan.clearing (c : Chan) (mile : Bool) : Chan :=
  if !c.mod.startPend then c
  else if c.waitBase ≠ 0 then c.losePlace
  else
    let first := !c.seq.cleared
    let c : Chan := if first then { c with seq := { c.seq with cleared := true, clearN := c.trk.n } } else c
    match c.seq.cond with
    | 0 => if first && c.seq.placed.isNone then c.placeStart c.leadPos else c
    | 1 => if first && c.seq.placed.isNone then c.testStart else c
    | 2 => if mile && c.seq.placed.isNone then c.placeStart c.leadPos else c
    | _ => c

/-! ### Group votes (R161, R162) -/

/-- The edge is the member's decision edge. -/
def Chan.decides (c : Chan) (mile : Bool) : Bool :=
  c.mod.startPend && c.seq.cond == 3 && c.seq.grpOutcome == 1
    && (if c.seq.gcond then mile else c.trk.n == c.seq.decisionEdge)

/-- The first cause of R162 for which member `ch` is not prepared, or 0. -/
def Chan.unprepared (c : Chan) (ch : ChanId) : Byte :=
  if c.waitBase ≠ 0 then c.waitBase
  else if !c.trk.aligned then 0x31
  else if !bit c.seq.grpMask ch.val then 0x34
  else 0

/-- The vote at the decision edge; a COMMIT vote pins the grant (R163). -/
def Chan.castVote (c : Chan) (now : Tbu) (ch : ChanId) : Chan :=
  let r := c.unprepared ch
  let v : Vote := { tag := c.seq.grpTag, mask := c.seq.grpMask, edge := c.trk.n, commit := r == 0, at' := now }
  { c with seq := { c.seq with vote := some v, grpOutcome := 2, grpReason := r }
           tlh := { c.tlh with pinned := r == 0 } }

/-! ### PACE_EDGE (R32, R35) -/

/-- What follows the tracker's own procedure at a qualified edge: publications, milestone, clearings, votes, commits,
knots and the lane pair. DESIGN CHOICE (log entry 51): the tracker's events are published in the fabric cycle in which the
edge reaches the receiver. -/
def State.afterEdge (s : State) (ch : ChanId) (was : TrkState) (news : EdgeNews) (mile : Bool) : State :=
  let s := if news.ret then (s.publish ch Prod.paceReturn).trkEvent TrkEv.paceReturn else s
  let s := if news.step then (s.publish ch Prod.paceStep).trkEvent TrkEv.paceStep else s
  let s := if news.range then s.trkEvent TrkEv.range else s
  let s := if mile then s.milestone ch else s
  s.modCh ch fun c =>
    let c := c.clearing mile
    let c := if c.decides mile then c.castVote s.now ch else c
    let c := { c with trk := (c.trk.commit).record c.tdc.oldest }
    let c := (c.knotsAtEdge s.now).dstEdge c.trk.e news.step
    let c := if news.step then (c.laneStep s.now).calSpoil [2, 3] 0x2A else c
    let c := c.recover true s.now
    if c.trk.state = .locked ∧ was ≠ .locked then c.pairRefBack true s.now else c

/-- A rising PACE edge that reaches channel `ch` now, with MSTONE sampled at it. -/
def State.paceEdge (s : State) (ch : ChanId) (mstone : Bool) : State :=
  let k := (s.ch ch).trk
  let e : Int := (s.now : Int) + (s.ch ch).cal.fine 4 s.now - (s.ch ch).cal.skew 0 + sfld s.trk.modSkew 0 20
  let glitch := match k.raw with
    | some r => isGlitch (s.now - r)
    | none => false
  if glitch then
    (s.modCh ch fun c => { c with trk := { c.trk with glitch := satInc c.trk.glitch } }).trkEvent TrkEv.glitch
  else
    let s := if k.stopDue e then s.paceStop ch else s
    let was := (s.ch ch).trk.state
    let r := (s.ch ch).trk.edge s.now e s.trk.paceCfg s.trk.modSkew
    let mile := mstone && r.1.mstone == some false
    let s := s.modCh ch fun c => { c with trk := { r.1 with mstone := some mstone } }
    s.afterEdge ch was r.2 mile

/-- PACE_EDGE (R35). -/
def execPaceEdge (t : Tbu) (ch : ChanId) (mstone : Bool) (s : State) : Host.Outcome State Fault Refusal :=
  let s := s.atTime t
  .next (if s.powered then s.paceEdge ch mstone else s)

/-! ### EVENT_EMIT (R44 to R46) -/

/-- A committed event takes effect, in fabric cycle `cyc` (R46); `ref` says that REF is present and locked to. A start takes effect in RUN_ENTRY, a knot in its slice, a
frame in FRAME_ISSUE and on the lane clock. -/
def Chan.takeEvent (c : Chan) (cyc : Nat) (holdup ref : Bool) (e : Committed) : Chan :=
  match e.kind with
  | .at k => c.atPublish cyc k
  | .strobe => { c with ana := { c.ana with sched := false } }.strobe cyc 0 holdup
  | .sswitch => c.modPair false fun p => if p.pend = some true then { p with pend := some false, inLoss := !ref } else p
  | .start | .knot | .frame => c

/-- The events of channel `c` that are emitted next. A start waits in its place until RUN_ENTRY has taken it. -/
def Chan.emitHead (c : Chan) : Option (List Committed × Q16) :=
  match c.trk.committed.filter fun p => !(c.mod.startPend && p.kind == .start) with
  | [] => none
  | p :: r => some (p :: r.filter fun q => q.pos == p.pos, c.trk.plannedAt p.pos p.inst)

/-- EVENT_EMIT (R44): the next committed events, once their emitted instant has come. They act in the fabric cycle of R46, or in the
present one where the command comes after it (log entry 84). -/
def execEventEmit (t : Tbu) (ch : ChanId) (s : State) : Host.Outcome State Fault Refusal :=
  let s := s.atTime t
  .next (match (s.ch ch).emitHead with
    | some (l, x) =>
      if x ≤ q16 s.now then s.modCh ch fun c =>
        let c := { c with trk := { c.trk with committed := c.trk.committed.filter fun p => !l.contains p, lastEmit := x } }
        l.foldl (fun c e => c.takeEvent (max (cycleAtOrAfter x) s.cycle) (s.mod.mode == .holdup) (s.trk.tbLocked && s.trk.present) e) c
      else s
    | none => s)

/-! ### RETRACK and snapshots (R66, R68) -/

/-- A channel in REST retracks; its armed JNC.ATk are cancelled (R68, R310). -/
def Chan.retrack (c : Chan) (now : Tbu) : Chan :=
  if c.mod.state = .rest then
    let c := if c.trk.state = .locked then c.lanesLost now else c
    let c := fin4.foldl (fun c k => c.atCancel k) c
    { c with trk := c.trk.retracked, tdc := c.tdc.unplaced }
  else c

/-- A write of TRK_CTRL.RETRACK. -/
def State.retrack (s : State) (mask : BitVec 16) : State :=
  s.forCh (chOf mask) fun s c => s.modCh c fun x => x.retrack s.now

/-- RETRACK (R68). -/
def execRetrack (t : Tbu) (mask : BitVec 16) (s : State) : Host.Outcome State Fault Refusal :=
  .next ((s.atTime t).ifPort fun s => s.retrack mask)

/-- The live position of every channel now (R41, R66). -/
def State.livePos (s : State) : Vector Word 16 := vmap (fun c : Chan => c.trk.live s.now) s.chans

/-- A read of TRK_SNAP_ODO captures the odometer, the time base and every live position (R66). -/
def State.snap (s : State) : State :=
  { s with trk := { s.trk with snapOdo := s.trk.odo, snapTbase := word s.tbase, snapPos := s.livePos } }

/-- SNAP_READ (R66). -/
def execSnapRead (t : Tbu) (s : State) : Host.Outcome State Fault Refusal := .next ((s.atTime t).ifPort fun s => s.snap)

end Sys2Proof.Machine
end

