-- ==== Sys2Proof/Machine/Converter.lean ====
section
/-! DEFINITION. Time-interval and frequency measurement: edges, stamps and their conversion, the measurement units,
their FIFOs and the measurement dump (R319 to R345). -/

namespace Sys2Proof.Machine

/-! ### Fields of the registers (R345) -/

def TdcIn.enabled (i : TdcIn) : Bool := bit i.cfg 0
/-- EDGE; 3 acts as 0 (R319). -/
def TdcIn.edge (i : TdcIn) : Nat := if fld i.cfg 1 2 = 3 then 0 else fld i.cfg 1 2
def TdcIn.winEn (i : TdcIn) : Bool := bit i.cfg 6
/-- The dead time: 1.25 ns (R320). -/
def deadTbu : Nat := 640
/-- The effective hold-off (R320). -/
def TdcIn.holdoff (i : TdcIn) : Nat := max (fld i.cfg 16 12 * 64) deadTbu

def TdcUnit.mode (u : TdcUnit) : Nat := fld u.cfg 0 2
def TdcUnit.byArm (u : TdcUnit) : Bool := bit u.cfg 2
def TdcUnit.isSigned (u : TdcUnit) : Bool := bit u.cfg 3
def TdcUnit.startIn (u : TdcUnit) : Nat := fld u.cfg 4 2
def TdcUnit.stopIn (u : TdcUnit) : Nat := fld u.cfg 6 2
/-- BURST: 0 acts as 1, above 512 as 512 (R330). -/
def TdcUnit.burstLen (u : TdcUnit) : Nat := min 512 (max 1 (fld u.cfg 8 10))
/-- BACK in tbu, at most 4,096 (R331). -/
def TdcUnit.back (u : TdcUnit) : Nat := min 4096 (fld u.cfg 32 13)
/-- TIMEOUT in tbu; 0 is none (R333). -/
def TdcUnit.timeoutTbu (u : TdcUnit) : Nat := fld u.timeout 0 32 * ns
/-- GATE in tbu (R334). -/
def TdcUnit.gateTbu (u : TdcUnit) : Nat := min 17000000000 (max 1000 (fld u.gate 0 35)) * ns
/-- MAXN (R334). -/
def TdcUnit.maxN (u : TdcUnit) : Nat := min 65536 (max 3 (fld u.gate 36 17))

def Chan.tin (c : Chan) (k : Fin 4) : TdcIn := c.tdc.ins[k]
def Chan.setIn (c : Chan) (k : Fin 4) (i : TdcIn) : Chan := { c with tdc := { c.tdc with ins := vput c.tdc.ins k i } }
def Chan.tun (c : Chan) (k : Fin 4) : TdcUnit := c.tdc.units[k]
def Chan.setUnit (c : Chan) (k : Fin 4) (u : TdcUnit) : Chan := { c with tdc := { c.tdc with units := vput c.tdc.units k u } }
def Chan.tdcEvent (c : Chan) (k : Nat) : Chan := { c with tdc := { c.tdc with events := evSet c.tdc.events k } }

/-! ### Arming, aborting and completing (R328, R329, R342) -/

/-- A measurement of the unit is in progress. -/
def TdcUnit.measures (u : TdcUnit) : Bool := u.state == .waiting || u.state == .measuring

/-- A unit with nothing in progress, armed at `a` when it runs continuously. -/
def TdcUnit.ready (u : TdcUnit) (a : Int) : TdcUnit :=
  { u with state := if u.mode = 0 then .off else if u.byArm then .idle else .waiting
           armAt := a, start := none, burst := 0, stamps := [], loss := false, gateEnd := none }

/-- End of fabric cycle `cyc`, as an instant (R329). -/
def cycleEnd (cyc : Nat) : Int := ((cyc + 1) * cycleTbu : Nat)

/-- Abort a unit's measurement in progress; a continuous unit arms again at the end of the cycle (R342). -/
def Chan.tdcAbortUnit (c : Chan) (cyc : Nat) (k : Fin 4) : Chan :=
  let u := c.tun k
  let c := if u.measures then c.tdcEvent TdcEv.aborted else c
  if u.state = .suspended then c else c.setUnit k (u.ready (cycleEnd cyc))

/-- A measurement completes: counted, and the unit's next arm instant is `a` (R333, R336). -/
def Chan.finish (c : Chan) (k : Fin 4) (a : Int) : Chan :=
  let u := c.tun k
  (c.setUnit k { u.ready a with results := u.results + 1 }).tdcEvent TdcEv.done

/-- A measurement completes with its record or result, and TDC.DONEk publishes in the cycle after (R336, R344). -/
def Chan.complete (c : Chan) (cyc : Nat) (k : Fin 4) (a : Int) : Chan := (c.finish k a).publish (cyc + 1) (Prod.done + k.val)

/-! ### FIFOs (R337 to R339) -/

/-- Store a record in FIFO `k`; one that finds it full is discarded, and the next carries GAP. -/
def Chan.store (c : Chan) (k : Fin 4) (r : TdcRec) : Chan :=
  let u := c.tun k
  if u.fifo.length < 512 then
    c.setUnit k { u with fifo := u.fifo ++ [if u.gap then { r with w2 := setBit r.w2 10 } else r], gap := false }
  else (c.setUnit k { u with full := satInc u.full, gap := true }).tdcEvent TdcEv.ovf

/-- Flags UNALIGNED, NOPOS and RISE of a stamp, with VALID (R338). -/
def Stamp.flags (x : Stamp) : List (Nat × Nat) :=
  [(x.unaligned.toNat, 8), (x.nopos.toNat, 7), (x.rise.toNat, 2), (1, 0)]

/-- A stamp record (R338). -/
def Stamp.record (x : Stamp) : TdcRec :=
  { w0 := x.tb, w1 := x.pos, w2 := pack ((fld x.count 0 48, 16) :: (x.tbinv.toNat, 6) :: x.flags) }

/-- An interval as its 48 bits show it; one they do not hold is a free value (R332, R338). -/
def TdcUnit.shown (u : TdcUnit) (v : Int) : Nat :=
  if (if u.isSigned then decide (-(2 ^ 47) ≤ v ∧ v < 2 ^ 47) else decide (v < 2 ^ 48)) then twos v 48
  else (Config.tdcInterval v).toNat

/-- An interval record for a start and its stop (R332, R338). -/
def TdcUnit.interval (u : TdcUnit) (s x : Stamp) : TdcRec :=
  let v := x.t - s.t
  let inv := decide (v < 0) && !u.isSigned
  { w0 := s.tb, w1 := s.pos
    w2 := pack ((u.shown (if inv then -v else v), 16) :: ((s.tbinv || x.tbinv).toNat, 6) :: (inv.toNat, 4)
      :: ((v == 0).toNat, 3) :: (1, 1) :: s.flags) }

/-- The interval record of a start that timed out (R333). -/
def Stamp.timedOut (s : Stamp) : TdcRec :=
  { w0 := s.tb, w1 := s.pos, w2 := pack ((s.tbinv.toNat, 6) :: (1, 5) :: (1, 1) :: s.flags) }

/-! ### Frequency (R335, R336) -/

/-- The whole square root, by bits. -/
def rootFrom (n : Nat) : Nat → Nat → Nat
  | 0, r => r
  | b + 1, r => if (r + 2 ^ b) * (r + 2 ^ b) ≤ n then rootFrom n b (r + 2 ^ b) else rootFrom n b r

/-- `a / b` to the nearest whole number, halves upwards. -/
def nearest (a b : Nat) : Nat := (2 * a + b) / (2 * max 1 b)

/-- The result of a regression: PER, F and RES. -/
structure Fit where
  per : Nat
  freq : Nat
  res : Nat
  deriving DecidableEq, Repr

/-- PER and RES as their fields show them; a value they do not hold is a free value (R335, R345). -/
def Fit.shownPer (f : Fit) : Word := if f.per < 2 ^ 64 then word f.per else Config.tdcPer f.per
def Fit.shownRes (f : Fit) : Nat := if f.res < 2 ^ 32 then f.res else (Config.tdcRes f.res).toNat

/-- R335 on the stamps t_0 to t_(N-1), N at least 3. -/
def regress (l : List Int) : Fit :=
  let n := l.length
  let u := l.map fun t => t - l.headD 0
  let idx := u.zip ((upTo n).map Int.ofNat)
  let num := (idx.map fun x => (2 * x.2 - ((n : Int) - 1)) * x.1).foldl (· + ·) 0
  let den := n * (n * n - 1) / 6
  let b := nearest (num.toNat * 2 ^ 32) den
  let sum := u.foldl (· + ·) 0
  let base := sum * 2 ^ 32 - ((b * (n * (n - 1) / 2) : Nat) : Int)
  let sq := (idx.map fun x =>
    let r := (n : Int) * 2 ^ 32 * x.1 - base - ((n * b : Nat) : Int) * x.2
    (r * r).toNat).foldl (· + ·) 0
  let twice := rootFrom (4 * 65536 * sq / (n * (n * 2 ^ 32) ^ 2)) 64 0
  { per := b, freq := nearest (512 * 10 ^ 12 * 2 ^ 32) b, res := (twice + 1) / 2 }

/-- The result of a gate is written, and the unit completes (R336); `timedOut` is the timeout of R333. -/
def Chan.freqResult (c : Chan) (cyc : Nat) (k : Fin 4) (timedOut : Bool) : Chan :=
  let u := c.tun k
  let st := if timedOut then [] else u.stamps.reverse
  let n := st.length
  let few := decide (n < 3)
  let f := if few then { per := 0, freq := 0, res := 0 } else regress (st.map (·.t))
  let cut := u.gateEnd == some true
  let last := (st.getLast?.map (·.t)).getD u.armAt
  let first := (st.head?.map (·.t)).getD u.armAt
  let gateEnd := if timedOut then u.armAt + u.timeoutTbu else if cut then last + 1 else first + u.gateTbu
  let u' := { u with
    per := f.shownPer, freq := word f.freq, fpos := ((st.head?).map (·.pos)).getD 0
    q := pack [(f.shownRes, 32), (cut.toNat, 29), (timedOut.toNat, 28), ((st.any (·.tbinv)).toNat, 27), (u.loss.toNat, 26),
      (few.toNat, 25), (1, 24), (n, 0)] }
  let c := c.setUnit k u'
  (if few then c.tdcEvent TdcEv.few else c).complete cyc k gateEnd

/-! ### Timeouts and gate ends (R333, R334) -/

/-- The instant at which the unit's present wait times out. -/
def TdcUnit.deadline (u : TdcUnit) : Option Int :=
  if u.timeoutTbu = 0 then none
  else match u.mode with
    | 1 => if u.byArm && u.measures then some (u.armAt + u.timeoutTbu) else none
    | 2 => match u.start with
      | some s => some (s.t + u.timeoutTbu)
      | none => none
    | 3 => if u.byArm && u.state == .waiting then some (u.armAt + u.timeoutTbu) else none
    | _ => none

/-- 8 ns in tbu (R326, R333). -/
def pubTbu : Nat := 4096

/-- TDC.TIMEOUTk, in the first fabric cycle at or after an instant; in the present cycle `cyc` where that one is past (log entry 84). -/
def Chan.pubTimeout (c : Chan) (cyc : Nat) (k : Fin 4) (i : Int) : Chan :=
  (c.publish (max cyc (cycleAtOrAfter (i * 65536))) (Prod.timeout + k.val)).tdcEvent TdcEv.timeout

/-- The timeout at instant `d`; that of an interval publishes TDC.TIMEOUTk and no TDC.DONEk (R333, R344 with the chapter's
worked example). -/
def Chan.timeOut (c : Chan) (cyc : Nat) (k : Fin 4) (d : Int) : Chan :=
  let u := c.tun k
  match u.mode, u.start with
  | 2, some s => ((c.store k s.timedOut).finish k d).pubTimeout cyc k (d + pubTbu)
  | 3, _ => (c.freqResult cyc k true).pubTimeout cyc k d
  | _, _ => (c.setUnit k (u.ready d)).pubTimeout cyc k d

/-- The instant at which an open gate closes by its length (R334). -/
def TdcUnit.gateClose (u : TdcUnit) : Option Int :=
  if u.mode = 3 ∧ u.state = .measuring ∧ u.gateEnd.isNone then (u.stamps.getLast?).map fun x => x.t + u.gateTbu else none

/-- What ends in unit `k` before instant `t`: a gate, a result due, or a wait. -/
def Chan.expire (c : Chan) (cyc : Nat) (k : Fin 4) (t : Int) : Chan :=
  let u := c.tun k
  let c := match u.gateClose with
    | some x => if x ≤ t then c.setUnit k { u with gateEnd := some false } else c
    | none => c
  let c := if (c.tun k).gateEnd.isSome then c.freqResult cyc k false else c
  match (c.tun k).deadline with
  | some d => if d ≤ t then c.timeOut cyc k d else c
  | none => c

/-! ### Units and admitted edges (R330, R331, R334) -/

/-- A start and its stop are paired. -/
def Chan.pairUp (c : Chan) (cyc : Nat) (k : Fin 4) (s x : Stamp) : Chan :=
  (c.store k ((c.tun k).interval s x)).complete cyc k (s.t + 1)

/-- A stop at `x` lies where a start at `s` may be paired with it: at or after A (R329), and within BACK and TIMEOUT (R331). -/
def TdcUnit.reaches (u : TdcUnit) (s x : Stamp) : Bool :=
  decide (u.armAt ≤ x.t) && decide (s.t - u.back ≤ x.t) && (u.timeoutTbu == 0 || decide (x.t < s.t + u.timeoutTbu))

/-- Mark the first stop of the history, oldest first, that `p` accepts, as used. -/
def useStop (p : Stamp → Bool) : List (Stamp × Bool) → Option Stamp × List (Stamp × Bool)
  | [] => (none, [])
  | x :: r =>
    let d := useStop p r
    match d.1 with
    | some s => (some s, x :: d.2)
    | none => if !x.2 && p x.1 then (some x.1, (x.1, true) :: r) else (none, x :: r)

/-- A start edge of unit `k`. -/
def Chan.startEdge (c : Chan) (cyc : Nat) (k : Fin 4) (x : Stamp) : Chan :=
  let u := c.tun k
  if u.state == .waiting && u.start.isNone && decide (u.armAt ≤ x.t) then
    let d := if u.startIn = u.stopIn then (none, u.stops) else useStop (u.reaches x) u.stops
    let c := c.setUnit k { u with start := some x, state := .measuring, stops := d.2 }
    match d.1 with
    | some y => c.pairUp cyc k x y
    | none => c
  else c

/-- A stop edge of unit `k`: kept among the last eight, and paired with a start that waits. -/
def Chan.stopEdge (c : Chan) (cyc : Nat) (k : Fin 4) (x : Stamp) : Chan :=
  let u := c.tun k
  let pairs := match u.start with
    | some s => u.startIn == u.stopIn || u.reaches s x
    | none => false
  let c := c.setUnit k { u with stops := ((x, pairs) :: u.stops).take 8 }
  match u.start with
  | some s => if pairs then c.pairUp cyc k s x else c
  | none => c

/-- An admitted edge of input `i`, or the place of a lost one, reaches unit `k`. -/
def Chan.unitEdge (c : Chan) (cyc : Nat) (i k : Fin 4) (x : Stamp) : Chan :=
  if (c.tun k).state = .suspended then c
  else
    let c := c.expire cyc k x.t
    let u := c.tun k
    if x.lost then
      if u.mode == 3 && i == k && u.state == .measuring then c.setUnit k { u with loss := true } else c
    else match u.mode with
      | 1 =>
        if i = k ∧ u.measures ∧ u.armAt ≤ x.t then
          let c := c.store k x.record
          let u := { c.tun k with state := TdcState.measuring, burst := u.burst + 1 }
          let c := c.setUnit k u
          if u.byArm ∧ u.burstLen ≤ u.burst then c.complete cyc k x.t else c
        else c
      | 2 =>
        let c := if u.stopIn = i.val then c.stopEdge cyc k x else c
        if u.startIn = i.val then c.startEdge cyc k x else c
      | 3 =>
        if i = k ∧ u.state = .waiting ∧ u.armAt ≤ x.t then
          c.setUnit k { u with state := .measuring, stamps := [x] }
        else if i = k ∧ u.state = .measuring then
          let st := x :: u.stamps
          c.setUnit k { u with stamps := st, gateEnd := if u.maxN ≤ st.length then some true else none }
        else c
      | _ => c

/-! ### Edges and their stamps (R319 to R321) -/

/-- The inputs of a channel work (R341). -/
def State.tdcOn (s : State) (ch : ChanId) : Bool :=
  (s.ch ch).configured && (s.ch ch).mod.state != .trim && s.mod.mode != .holdup && s.mod.mode != .vaulted && s.powered

/-- EDGE selects this polarity. -/
def TdcIn.qualifies (i : TdcIn) (rising : Bool) : Bool :=
  i.enabled && (i.edge == 2 || (i.edge == 0 && rising) || (i.edge == 1 && !rising))

/-- A stamp among others in the order of T, after those of the same T. -/
def inOrder (x : Stamp) : List Stamp → List Stamp
  | [] => [x]
  | y :: r => if x.t < y.t then x :: y :: r else y :: inOrder x r

/-- An edge crosses the connector at `now`; `e` is the epoch of the time base, `tbinv` TB_INVALID, `skew` TRK_MOD_SKEW.
DESIGN CHOICE (log entry 84): an edge that TDC_IN_DELAY stamps so early that T + 8 ns is past is published once it has come. -/
def Chan.eviEdge (c : Chan) (k : Fin 4) (rising : Bool) (now : Tbu) (epoch : Option Tbu) (tbinv : Bool) (skew : Int) : Chan :=
  let i := c.tin k
  let d : Option Int := i.last.map fun l => (now : Int) - l
  let t := (now : Int) + c.cal.fine k.val now - c.cal.skew (1 + k.val) + skew + sfld i.delay 0 16
  if !i.qualifies rising then c
  else if d.any (· < (deadTbu : Int)) then
    let x : Stamp := { t := t, lost := true }
    (c.setIn k { i with dead := satInc i.dead, conv := inOrder x i.conv }).tdcEvent TdcEv.dead
  else if d.any (· < (i.holdoff : Int)) then c.setIn k { i with heldoff := satInc i.heldoff }
  else
    let tb : Int := match epoch with
      | some e => t - e
      | none => t - now
    let x : Stamp := { t := t, tb := BitVec.ofInt 64 tb, rise := rising, tbinv := tbinv, count := i.count + 1
                       nopos := c.trk.state == .absent, pubAt := max (t + pubTbu) now, admitted := !i.winEn }
    c.setIn k { i with count := i.count + 1, last := some now, conv := inOrder x i.conv
                       publish := if i.winEn then i.publish else inOrder x i.publish }

/-- EVI_EDGE (R319 to R321), with TRK_MOD_SKEW as in force since the last qualified PACE edge (R63, R64). -/
def execEviEdge (t : Tbu) (ch : ChanId) (k : Fin 4) (rising : Bool) (s : State) : Host.Outcome State Fault Refusal :=
  let s := s.atTime t
  .next (if s.tdcOn ch then
      s.modCh ch fun c => c.eviEdge k rising s.now s.trk.epoch s.trk.tbInvalid (sfld c.trk.modSkew 0 20)
    else s)

/-! ### Conversion and admission (R323, R325) -/

/-- The position of a stamp and the instant at which its conversion is complete; none while it is not. -/
def Tracker.convert (k : Tracker) (x : Stamp) (now : Tbu) : Option (Option Word × Int) :=
  if x.lost || x.nopos then some (none, x.t)
  else match convertIn x.t none k.hist with
    | none => none
    | some none => some (none, x.t)
    | some (some (p, d)) => if d ≤ now then some (some p, d) else none

/-- The stamp lies in the window in force (R49, R325). -/
def TdcIn.inWindow (i : TdcIn) (p : Word) : Bool := isAfter i.fClose i.fOpen && atOrAfter p i.fOpen && isAfter i.fClose p

/-- The first stamp of input `i` in the order of T is converted: admitted or not, and given to the four units. -/
def Chan.convertHead (c : Chan) (cyc : Nat) (now : Tbu) (i : Fin 4) : Chan :=
  let n := c.tin i
  match n.conv with
  | [] => c
  | x :: r =>
    match c.trk.convert x now with
    | none => c
    | some (p, done) =>
      let c := c.setIn i { n with conv := r }
      if x.lost then fin4.foldl (fun c k => c.unitEdge cyc i k x) c
      else
        let y := { x with pos := p.getD 0, nopos := p.isNone, unaligned := !c.trk.aligned, pubAt := max x.pubAt done }
        if x.admitted then fin4.foldl (fun c k => c.unitEdge cyc i k y) c
        else if n.winEn && p.isNone then c.setIn i { n with conv := r, nopos := satInc n.nopos }
        else if !n.winEn || n.inWindow (p.getD 0) then
          let c := c.setIn i { n with conv := r, publish := inOrder y n.publish }
          fin4.foldl (fun c k => c.unitEdge cyc i k y) c
        else c

/-- The input whose first stamp comes first (R337). -/
def Chan.firstConv (c : Chan) : Option (Fin 4 × Stamp) :=
  fin4.foldl (fun a k => match (c.tin k).conv with
    | [] => a
    | x :: _ => match a with
      | some (_, y) => if x.t < y.t then some (k, x) else a
      | none => some (k, x)) none

/-- Convert stamps in the order of T, up to instant `t`, at most `n`. -/
def Chan.convertTo (c : Chan) (cyc : Nat) (now : Tbu) (t : Int) : Nat → Chan
  | 0 => c
  | n + 1 =>
    match c.firstConv with
    | none => c
    | some (k, x) =>
      if x.t ≤ t ∧ (c.trk.convert x now).isSome then (c.convertHead cyc now k).convertTo cyc now t n else c

/-- Stamps that await their conversion. -/
def Chan.convCount (c : Chan) : Nat := (fin4.map fun k => (c.tin k).conv.length).foldl (· + ·) 0

/-- STAMP_CONVERSION (R323): the oldest stamp of input `k`, and every stamp of the channel before it. -/
def execStampConversion (t : Tbu) (ch : ChanId) (k : Fin 4) (s : State) : Host.Outcome State Fault Refusal :=
  let s := s.atTime t
  .next (s.modCh ch fun c => match (c.tin k).conv with
    | [] => c
    | x :: _ => c.convertTo s.cycle s.now x.t c.convCount)

/-! ### TDC.EVIk (R326) -/

/-- Publish the admitted edges of input `k` that are due, in stamp order: each in the first fabric cycle at or after its instant, or
in the present one where the command comes later (log entry 84). -/
def Chan.eviPublish (c : Chan) (now : Tbu) (k : Fin 4) : Chan :=
  ((c.tin k).publish.takeWhile fun x => decide (x.pubAt ≤ (now : Int))).foldl (fun c x =>
    let i := c.tin k
    let d := cycleAtOrAfter (x.pubAt * 65536)
    let c := c.setIn k { i with publish := i.publish.drop 1, lastPub := some (max d (i.lastPub.getD d)) }
    if i.lastPub.any (d ≤ ·) then c.tdcEvent TdcEv.eviMerged else c.publish (max d (cycleOf now)) (Prod.evi + k.val)) c

/-- EVI_PUBLISH (R326). -/
def execEviPublish (t : Tbu) (ch : ChanId) (k : Fin 4) (s : State) : Host.Outcome State Fault Refusal :=
  let s := s.atTime t
  .next (s.modCh ch fun c => c.eviPublish s.now k)

/-! ### Host writes (R324, R328, R337, R339, R342) -/

/-- A write of TDC_WIN_CLOSE puts both staged values in force (R324). -/
def Chan.winClose (c : Chan) (k : Fin 4) (v : Word) : Chan :=
  let i := c.tin k
  let c := c.setIn k { i with winClose := v, fOpen := i.winOpen, fClose := v }
  if isAfter v i.winOpen then c else c.tdcEvent TdcEv.winEmpty

/-- WIN_CLOSE_WRITE (R324). -/
def execWinCloseWrite (t : Tbu) (ch : ChanId) (k : Fin 4) (v : Word) (s : State) : Host.Outcome State Fault Refusal :=
  .next ((s.atTime t).ifWindow fun s => s.modCh ch fun c => c.winClose k v)

/-- TDC_CTRL.ARM: an arrival at the pending counter of TDC.ARMk (R328). -/
def Chan.tdcArm (c : Chan) (cyc : Nat) (m : BitVec 4) : Chan :=
  (fin4.filter fun k => bit m k.val).foldl (fun c k => c.arrive cyc (Fin.ofNat 8 k.val) 1) c

/-- TDC_CTRL.ABORT: the measurement and the pending arms, those of the same cycle included (R342, R343). -/
def Chan.tdcAbort (c : Chan) (cyc : Nat) (m : BitVec 4) : Chan :=
  (fin4.filter fun k => bit m k.val).foldl (fun c k =>
    let c := c.tdcAbortUnit cyc k
    let c := c.setUnit k { c.tun k with abortCycle := some cyc }
    { c with jnc := { c.jnc with pend := vputN c.jnc.pend k.val 0 } }) c

/-- TDC_CTRL.FLUSH (R339). -/
def Chan.flush (c : Chan) (m : BitVec 4) : Chan :=
  (fin4.filter fun k => bit m k.val).foldl (fun c k =>
    let u := c.tun k
    let i := c.tin k
    (c.setUnit k { u with fifo := [], full := 0, q := 0, stops := [] }).setIn k { i with dead := 0, heldoff := 0, nopos := 0 }) c

/-- TDC_POP: the `n` oldest records are removed; ignored while the FIFO is dumped (R337, R340). -/
def Chan.tdcPop (c : Chan) (k : Fin 4) (n : Nat) : Chan :=
  if bit c.tdc.dumpCfg k.val then c else c.setUnit k { c.tun k with fifo := (c.tun k).fifo.drop n }

/-- The reserved bits of the unit registers read 0 (R345). -/
def unitMask (r : UnitReg) : Nat :=
  match r with
  | .cfg => 0x1FFF0003FFFF
  | .timeout => 0xFFFFFFFF
  | .gate => 0x1FFFF7FFFFFFFF

/-- A write of a unit's configuration aborts what it measures and applies from the next cycle (R342). -/
def Chan.unitWrite (c : Chan) (cyc : Nat) (k : Fin 4) (r : UnitReg) (v : Word) : Chan :=
  let u := c.tun k
  let w := keep v (unitMask r)
  let c := if u.measures then c.tdcEvent TdcEv.aborted else c
  let u := match r with
    | .cfg => { u with cfg := w, cfgCycle := some cyc, cfgOld := if u.cfgCycle = some cyc then u.cfgOld else u.cfg }
    | .timeout => { u with timeout := w }
    | .gate => { u with gate := w }
  c.setUnit k (if u.state = .suspended then u else u.ready (cycleEnd cyc))

/-- TDC_ARM (R328). -/
def execTdcArm (t : Tbu) (ch : ChanId) (mask : BitVec 4) (s : State) : Host.Outcome State Fault Refusal :=
  .next ((s.atTime t).ifWindow fun s => s.modCh ch fun c => c.tdcArm s.cycle mask)

/-- TDC_ABORT (R342). -/
def execTdcAbort (t : Tbu) (ch : ChanId) (mask : BitVec 4) (s : State) : Host.Outcome State Fault Refusal :=
  .next ((s.atTime t).ifWindow fun s => s.modCh ch fun c => c.tdcAbort s.cycle mask)

/-- FLUSH (R339). -/
def execFlush (t : Tbu) (ch : ChanId) (mask : BitVec 4) (s : State) : Host.Outcome State Fault Refusal :=
  .next ((s.atTime t).ifWindow fun s => s.modCh ch fun c => c.flush mask)

/-- TDC_POP (R337). -/
def execTdcPop (t : Tbu) (ch : ChanId) (k : Fin 4) (n : BitVec 10) (s : State) : Host.Outcome State Fault Refusal :=
  .next ((s.atTime t).ifWindow fun s => s.modCh ch fun c => c.tdcPop k n.toNat)

/-- UNIT_CFG_WRITE (R342). -/
def execUnitCfgWrite (t : Tbu) (ch : ChanId) (k : Fin 4) (r : UnitReg) (v : Word) (s : State) : Host.Outcome State Fault Refusal :=
  .next ((s.atTime t).ifWindow fun s => s.modCh ch fun c => c.unitWrite s.cycle k r v)

/-! ### Timeouts, gates and results as events (R333, R334, R336) -/

/-- An edge whose conversion is still to come could change what ends at instant `d`: a stamp, and with `lost` the place of a lost
edge too, which a gate counts in LOSS (R336). -/
def Chan.awaits (c : Chan) (k : Fin 4) (d : Int) (lost : Bool) : Bool :=
  let u := c.tun k
  fin4.any fun i => (if u.mode = 2 then decide (i.val = u.stopIn) else i == k)
    && (c.tin i).conv.any fun x => (lost || !x.lost) && decide (x.t < d)

/-- TIMEOUT (R333): the wait of unit `k` has run out, and no recorded stamp ends it. -/
def execTimeout (t : Tbu) (ch : ChanId) (k : Fin 4) (s : State) : Host.Outcome State Fault Refusal :=
  let s := s.atTime t
  .next (s.modCh ch fun c => match (c.tun k).deadline with
    | some d => if d ≤ s.now ∧ !c.awaits k d false then c.timeOut s.cycle k d else c
    | none => c)

/-- FREQ_GATE_END (R334): the gate closes by its length. -/
def execFreqGateEnd (t : Tbu) (ch : ChanId) (k : Fin 4) (s : State) : Host.Outcome State Fault Refusal :=
  let s := s.atTime t
  .next (s.modCh ch fun c => match (c.tun k).gateClose with
    | some x => if x ≤ s.now ∧ !c.awaits k x true then c.setUnit k { c.tun k with gateEnd := some false } else c
    | none => c)

/-- FREQ_RESULT (R335, R336). -/
def execFreqResult (t : Tbu) (ch : ChanId) (k : Fin 4) (s : State) : Host.Outcome State Fault Refusal :=
  let s := s.atTime t
  .next (s.modCh ch fun c => if (c.tun k).gateEnd.isSome then c.freqResult s.cycle k false else c)

/-! ### An arm taken (R328) -/

/-- The unit's configuration in force in cycle `cyc`: a write applies from the next cycle (R342). -/
def TdcUnit.inForce (u : TdcUnit) (cyc : Nat) : TdcUnit := if u.cfgCycle = some cyc then { u with cfg := u.cfgOld } else u

/-- The unit takes one event from the pending counter of TDC.ARMk, or none. -/
def Chan.armTake (c : Chan) (on : Bool) (cyc : Nat) (k : Fin 4) : Chan :=
  let u := c.tun k
  let f := u.inForce cyc
  let p := vget c.jnc.pend k.val 0
  let take := fun (c : Chan) => { c with jnc := { c.jnc with pend := vputN c.jnc.pend k.val (p - 1) } }
  if p = 0 ∨ !on ∨ u.state = .suspended then c
  else if !f.byArm ∨ f.mode = 0 then (take c).tdcEvent TdcEv.armIgnored
  else if u.state = .idle then (take c).setUnit k { u.ready (cycleEnd cyc) with state := .waiting }
  else c

/-! ### The measurement dump (R340) -/

def Tdc.dumpSize (d : Tdc) : Nat := min 30 (max 12 (fld d.dumpCfg 8 5))

/-- A write of TDC_DUMP_CFG; EN from 0 to non-zero reads BASE and SIZE and clears both counts. -/
def Chan.dumpEnable (c : Chan) (v : Word) : Chan :=
  let d := { c.tdc with dumpCfg := keep v 0x1F0F }
  let d := if fld c.tdc.dumpCfg 0 4 = 0 ∧ fld v 0 4 ≠ 0 then
      { d with dumpWr := 0, dumpRd := 0, ringSize := d.dumpSize, ringBase := fld d.dumpBase 0 34 / 2 ^ d.dumpSize * 2 ^ d.dumpSize }
    else d
  { c with tdc := d }

/-- DUMP_ENABLE (R340). -/
def execDumpEnable (t : Tbu) (ch : ChanId) (v : Word) (s : State) : Host.Outcome State Fault Refusal :=
  .next ((s.atTime t).ifWindow fun s => s.modCh ch fun c => c.dumpEnable v)

/-- Slots of the ring. -/
def Tdc.slots (d : Tdc) : Nat := 2 ^ d.ringSize / 32

/-- The oldest record of FIFO `k` moves into the ring when it has room. -/
def Chan.dumpRecord (c : Chan) (now : Tbu) (k : Fin 4) : Chan :=
  let d := c.tdc
  let u := c.tun k
  match u.fifo with
  | [] => c
  | r :: rest =>
    if !bit d.dumpCfg k.val then c
    else if (d.dumpWr - d.dumpRd).toNat = d.slots then c.tdcEvent TdcEv.dumpFull
    else
      let a := d.ringBase + d.dumpWr.toNat % max 1 d.slots * 32
      let bytes := wordBytes r.w0 ++ wordBytes r.w1 ++ wordBytes r.w2 ++ wordBytes (word k.val)
      let c := (c.setUnit k { u with fifo := rest }).creelWrite 3 a bytes now
      { c with tdc := { c.tdc with dumpWr := c.tdc.dumpWr + 1 } }

/-- DUMP_RECORD (R340). -/
def execDumpRecord (t : Tbu) (ch : ChanId) (k : Fin 4) (s : State) : Host.Outcome State Fault Refusal :=
  let s := s.atTime t
  .next (s.modCh ch fun c => c.dumpRecord s.now k)

/-! ### TRIM, and a channel that is not CONFIGURED (R341) -/

/-- Entry to TRIM: units SUSPENDED, measurements aborted. -/
def Chan.tdcSuspend (c : Chan) : Chan :=
  fin4.foldl (fun c k =>
    let u := c.tun k
    (if u.measures then c.tdcEvent TdcEv.aborted else c).setUnit k { u.ready u.armAt with state := .suspended }) c

/-- The end of TRIM: continuous units arm again. -/
def Chan.tdcResume (c : Chan) (cyc : Nat) : Chan :=
  fin4.foldl (fun c k => c.setUnit k ((c.tun k).ready (cycleEnd cyc))) c

/-- A channel not CONFIGURED, or HOLDUP: measurements aborted and FIFOs emptied. -/
def Chan.tdcStop (c : Chan) (cyc : Nat) : Chan :=
  fin4.foldl (fun c k =>
    let u := c.tun k
    let c := if u.measures then c.tdcEvent TdcEv.aborted else c
    (c.setUnit k { u.ready (cycleEnd cyc) with fifo := [], gap := false, stops := [] }).setIn k
      { c.tin k with conv := [], publish := [] }) c

end Sys2Proof.Machine
end

