-- ==== Sys2Proof/Machine/Consumer.lean ====
section
/-! DEFINITION. Consumer inputs and their pending counters (R299 to R301), the monitor's readings and checks (R260 to
R263, R482), long dry runs, acknowledgements and the fault log's window (R484, R487, R488, R490). -/

namespace Sys2Proof.Machine

/-! ### Consumer inputs (R299, R300) -/

/-- An event on DST.CONDk in cycle `cyc`: the latch is set, or coalesces (R219). -/
def Chan.condEvent (c : Chan) (cyc k : Nat) : Chan :=
  match vget c.dst.core.cond k none with
  | some l =>
    let l := { l with last := cyc, fresh := !bit c.dst.events.bits DstEv.coalesced }
    { c with dst := { c.dst with events := evSet c.dst.events DstEv.coalesced, core := { c.dst.core with cond := vputN c.dst.core.cond k (some l) } } }
  | none => { c with dst := { c.dst with core := { c.dst.core with cond := vputN c.dst.core.cond k (some { since := cyc, last := cyc }) } } }

/-- One event registered at a level input in cycle `cyc`. -/
def Chan.levelEvent (c : Chan) (cyc code : Nat) (holdup : Bool) : Chan :=
  match code with
  | 0 => c.request .trig0 cyc
  | 1 => c.request .trig1 cyc
  | 2 => c.request (.jmp 0) cyc
  | 3 => c.request (.jmp 1) cyc
  | 4 => c.request (.jmp 2) cyc
  | 5 => c.request (.jmp 3) cyc
  | 6 => c.request .adv cyc
  | 8 => c.dstGo cyc 1
  | 9 => c.dstStop cyc
  | 0x10 => c.strobe cyc 1 holdup
  | n =>
    if 0xA ≤ n ∧ n ≤ 0xD then c.condEvent cyc (n - 0xA)
    else if 0x28 ≤ n ∧ n ≤ 0x2F then { c with jnc := c.jnc.genEvent cyc (n - 0x28) true }
    else if 0x30 ≤ n ∧ n ≤ 0x37 then { c with jnc := c.jnc.genEvent cyc (n - 0x30) false }
    else c

/-- Input `code` registers what its junctions carried in the cycle before `cyc`, once (R300). -/
def Chan.register (c : Chan) (cyc code : Nat) (holdup : Bool) : Chan :=
  let n := c.arrivals cyc code
  let c := if n = 0 then c else { c with jnc := c.jnc.take cyc code }
  match countableIndex code with
  | some i => c.arrive cyc i n
  | none =>
    if n = 0 then c
    else
      let c := { c with jnc := { c.jnc with events := evIf (decide (2 ≤ n)) c.jnc.events JncEv.coalesced } }
      c.levelEvent cyc code holdup

/-- CONSUMER_REGISTER (R300). -/
def execConsumerRegister (t : Tbu) (ch : ChanId) (code : BitVec 6) (s : State) : Host.Outcome State Fault Refusal :=
  let s := s.atTime t
  .next (if s.fabricOn ch && consumerCodes.contains code.toNat then
      s.modCh ch fun c => c.register s.cycle code.toNat (s.mod.mode == .holdup)
    else s)

/-! ### Pending counters (R301, R311, R328) -/

/-- The consumer of pending counter `i` takes one event in cycle `cyc`, at most once in a cycle. -/
def Chan.pendingTake (c : Chan) (tdcOn : Bool) (cyc : Nat) (i : Fin 8) : Chan :=
  if c.jnc.lastTake[i] = some cyc ∨ c.jnc.pend[i] = 0 then c
  else if i.val < 4 then
    let d := c.armTake tdcOn cyc (Fin.ofNat 4 i.val)
    if d.jnc.pend[i] = c.jnc.pend[i] then d
    else { d with jnc := { d.jnc with lastTake := vput d.jnc.lastTake i (some cyc) } }
  else
    let j := { c.jnc with pend := vput c.jnc.pend i (c.jnc.pend[i] - 1), lastTake := vput c.jnc.lastTake i (some cyc) }
    ({ c with jnc := j } : Chan).counterInc cyc (Fin.ofNat 4 i.val)

/-- PENDING_TAKE (R301). -/
def execPendingTake (t : Tbu) (ch : ChanId) (i : Fin 8) (s : State) : Host.Outcome State Fault Refusal :=
  let s := s.atTime t
  .next (if s.fabricOn ch then s.modCh ch fun c => c.pendingTake (s.tdcOn ch) s.cycle i else s)

/-! ### The monitor (R260 to R263, R482) -/

/-- The response of R263 to an alarm with ACTION = 1; a DISABLE sequence that runs continues (R265). -/
def State.alarmAction (s : State) (ch : ChanId) : State :=
  let c := s.ch ch
  if c.ana.disableAt.isSome then s
  else match c.mod.state with
    | .armed | .run | .held => s.enterDrain ch
    | .rest => if c.mod.outEn then s.modCh ch fun c => c.disable s.now else s
    | _ => s

/-- MONITOR_READING (R260). -/
def execMonitorReading (t : Tbu) (ch : ChanId) (input : Fin 5) (value : BitVec 16) (s : State) : Host.Outcome State Fault Refusal :=
  let s := s.atTime t
  let r := (s.ch ch).monRead input value s.now
  let s := s.setCh ch r.1
  .next (if r.2 && bit r.1.ana.monCfg 8 then s.alarmAction ch else s)

/-- A check is bad: the ground or the 1.000 V reference lies outside its 40 codes (R482). -/
def monitorBad (ground ref : BitVec 16) : Bool :=
  decide (40 < ground.toInt.natAbs) || decide (40 < (ref.toInt - 4000).natAbs)

/-- MONITOR_CHECK (R482): the third bad check in a row makes the monitor faulty. -/
def execMonitorCheck (t : Tbu) (ch : ChanId) (ground ref : BitVec 16) (s : State) : Host.Outcome State Fault Refusal :=
  let s := s.atTime t
  let c := s.ch ch
  .next (if c.ana.monFaulty then s
    else
      let n := if monitorBad ground ref then c.ana.monBad + 1 else 0
      if n < 3 then s.setCh ch { c with ana := { c.ana with monBad := n } }
      else
        let second := s.degraded ch
        (s.setCh ch { c with ana := { c.ana with monBad := n, monFaulty := true }, flt := { c.flt with mon := true } }).covered
          ch 0x07 0 0 second)

/-! ### Long dry runs (R484, R487) -/

/-- DRY_LONG arises when the dry run is longer than DRY_US. -/
def State.dryLong (s : State) (ch : ChanId) : State :=
  let c := s.ch ch
  match c.ply.dryAt with
  | some a =>
    if a + s.dryUs * us < s.now ∧ !c.flt.dryLong then
      (s.setCh ch { c with flt := { c.flt with dryLong := true } }).unmasked ch 0x25 (if c.ply.dryRef then 0 else 1)
    else s
  | none => s

/-- DRY_LONG (R487). -/
def execDryLong (t : Tbu) (ch : ChanId) (s : State) : Host.Outcome State Fault Refusal := .next ((s.atTime t).dryLong ch)

/-! ### ACK and the log (R488, R490) -/

/-- A channel accepts an ACK: no standing unmasked condition (R488). -/
def ChFlt.ackable (f : ChFlt) : Bool := !f.standing && !(f.bob && f.creel)

/-- An ACK reaches one channel. -/
def State.ackCh (s : State) (ch : ChanId) : State :=
  let c := s.ch ch
  if c.flt.ackable then
    let s := { s with flt := { s.flt with cmdVec := setBit s.flt.cmdVec ch.val } }
    s.setCh ch { c with
      flt := { c.flt with halt := false }
      mod := { c.mod with heldCause := if c.mod.heldCause = Cause.fault then Cause.host else c.mod.heldCause } }
  else { s with flt := { s.flt with cmdVec := setBit s.flt.cmdVec (16 + ch.val), events := evSet s.flt.events FltEv.ackRefused } }

/-- A write of FLT_CMD with CMD = 1. -/
def State.ack (s : State) (mask : BitVec 16) : State :=
  ({ s with flt := { s.flt with cmdVec := 0 } } : State).forCh (chOf mask) State.ackCh

/-- ACK (R488). -/
def execAck (t : Tbu) (mask : BitVec 16) (s : State) : Host.Outcome State Fault Refusal := .next ((s.atTime t).ifPort fun s => s.ack mask)

/-- A write of FLT_LOG_POP removes the `n` oldest records (R490). -/
def State.logPop (s : State) (n : Nat) : State :=
  { s with flt := { s.flt with log := s.flt.log.drop n, newCount := min s.flt.newCount (s.flt.log.length - n) } }

/-- LOG_POP (R490). -/
def execLogPop (t : Tbu) (n : BitVec 7) (s : State) : Host.Outcome State Fault Refusal := .next ((s.atTime t).ifPort fun s => s.logPop n.toNat)

end Sys2Proof.Machine
end

