-- ==== Sys2Proof/Machine/Creel.lean ====
section
/-! DEFINITION. The bobbin store and the creel controller: the window, residency, excusals and posted writes, the choice
of commands, row activates and neighbour refreshes, retirements (R346 to R375, R384). -/

namespace Sys2Proof.Machine

def Chan.memEvent (c : Chan) (k : Nat) : Chan := { c with mem := { c.mem with events := evSet c.mem.events k } }
def State.modMem (s : State) (ch : ChanId) (f : Mem → Mem) : State := s.modCh ch fun c => { c with mem := f c.mem }

/-! ### The bobbin window (R346 to R349, R384) -/

/-- Lines of the bobbin store. -/
def bobbinLines : Nat := 18432

/-- An access of `len` bytes at `off` that R349 accepts. -/
def winAligned (off len : Nat) : Bool :=
  len % 8 == 0 && decide (8 ≤ len) && decide (len ≤ 256) && off % 8 == 0 && off / 4096 == (off + len - 1) / 4096

/-- The words of `len` bytes of the creel. -/
def Mem.wordsAt (m : Mem) (a len : Nat) : List Word := (upTo (len / 8)).map fun i => word (leNat (readBytes m.data (a + 8 * i) 8))

/-- What a read of the window returns (R349, R384); a creel-direct read of a lost creel returns no data, shown as 0 (R385;
DESIGN CHOICE, log entry 59). -/
def Mem.winRead (m : Mem) (off len : Nat) : List Word :=
  let zeros := (upTo (len / 8)).map fun _ => (0 : Word)
  if off / 4096 < m.pin then (if m.degraded && m.creel == .lost then zeros else m.wordsAt (m.backing off) len)
  else if m.degraded then zeros
  else match m.cache.find? fun x => x.slot == off / 4096 with
    | some x => m.wordsAt (x.line * 4096 + off % 4096) len
    | none => zeros

/-- A write of the window: a pinned line and its backing line change together; a cache line is locked (R349). -/
def Chan.winWrite (c : Chan) (off : Nat) (data : List Word) (now : Tbu) : Chan × Status :=
  if off / 4096 < c.mem.pin then (c.creelWrite 1 (c.mem.backing off) (data.flatMap wordBytes) now, St.normal)
  else (c, St.locked)

/-- Flow control holds the access back: a pinned line while the pinned lines reload (R349), or any access between the
loss of a bobbin device and creel-direct mode (R480). -/
def Mem.winHolds (m : Mem) (off : Nat) : Bool :=
  (m.pinLoad && decide (off / 4096 < m.pin)) || (m.bobLostAt.isSome && !m.degraded)

/-- A completion, unless its tag was discarded with the link (R397). -/
def State.complete (s : State) (tag : Option (BitVec 12)) (st : Status) (data : List Word) : State :=
  match tag with
  | some t => s.send (.cpl t st data)
  | none => s

/-- Nibble `n` of HP_BCAST_VEC. -/
def putNibble (v : Word) (n k : Nat) : Word := (v &&& ~~~(word (15 * 2 ^ (4 * n)))) ||| word (k * 2 ^ (4 * n))

/-- Every named channel has written its status (R403). -/
def Hp.bcastIn (h : Hp) : Bool := (upTo 16).all fun n => fld h.bcastVec (4 * n) 4 != 0xE

/-- When every named channel has its status, BCAST_DONE is set and the CPL sent (R403). -/
def State.bcastEnd (s : State) : State :=
  match s.hp.bcastTag with
  | none => s
  | some tag =>
    if s.hp.bcastIn then
      ({ s with hp := { s.hp with busy := false, bcastTag := none, events := evSet s.hp.events HpEv.bcastDone } }).complete
        tag St.normal []
    else s

/-- A channel of a broadcast write has its status. -/
def State.bcastStatus (s : State) (ch : ChanId) (st : Status) : State :=
  ({ s with hp := { s.hp with bcastVec := putNibble s.hp.bcastVec ch.val st.toNat } } : State).bcastEnd

/-- A window access is answered. -/
def State.winReply (s : State) (ch : ChanId) (src : AccSource) (st : Status) (data : List Word) : State :=
  match src with
  | .row => s
  | .request tag => ({ s with hp := { s.hp with busy := false } }).complete tag st data
  | .bcast => s.bcastStatus ch st

/-- Carry out a window access now. -/
def State.winDo (s : State) (ch : ChanId) (a : HeldAcc) : State :=
  let c := s.ch ch
  if a.write then
    let r := c.winWrite a.off a.data s.now
    (s.modCh ch fun _ => r.1).winReply ch a.src r.2 []
  else s.winReply ch a.src St.normal (c.mem.winRead a.off a.len)

/-- A window access: refused when misaligned, held back, or carried out (R349). A request held back holds back those
after it (R402). -/
def State.winAccess (s : State) (ch : ChanId) (a : HeldAcc) : State :=
  let m := (s.ch ch).mem
  if !winAligned a.off a.len then s.winReply ch a.src St.misaligned (if a.write then [] else List.replicate (a.len / 8) 0)
  else if m.winHolds a.off then
    let s := s.modMem ch fun m => { m with winHeld := m.winHeld ++ [a] }
    if a.src = .row then s else { s with hp := { s.hp with busy := true } }
  else s.winDo ch a

/-- Accesses held back are carried out in their order, once nothing holds them. -/
def State.winRelease (s : State) (ch : ChanId) : State :=
  let l := (s.ch ch).mem.winHeld
  (s.modMem ch fun m => { m with winHeld := [] }) |> fun s => l.foldl (fun s a => s.winAccess ch a) s

/-- BOBBIN_WINDOW_WRITE (R349): a host write to the bobbin window, at an offset within the store. -/
def execBobbinWindowWrite (t : Tbu) (ch : ChanId) (off : BitVec 27) (data : List Word) (s : State) :
    Host.Outcome State Fault Refusal :=
  .next ((s.atTime t).ifWindow fun s => if off.toNat / 4096 < bobbinLines then
      s.winAccess ch { src := .row, write := true, off := off.toNat, len := 8 * data.length, data := data }
    else s)

/-- A write of MEM_BOB_CFG or MEM_BOB_BACK: locked outside REST, else every pinned line reloads (R348). -/
def Chan.pinReload (c : Chan) (r : BobReg) (v : Word) : Chan × Status :=
  if c.mod.state ≠ .rest then (c, St.locked)
  else
    let m := match r with
      | .cfg => { c.mem with bobCfg := keep v 0x7FFF }
      | .back => { c.mem with bobBack := keep v 0x3FFFFF000 }
    ({ c with mem := { m.reloadPins with cache := m.cache.filter fun x => decide (m.pin ≤ x.slot) } }, St.normal)

/-! ### Residency (R352 to R356) -/

/-- Bytes of the read-ahead range (R355). -/
def aheadBytes : Nat := 262144

/-- Byte of its segment at which the block of the play position begins. -/
def Chan.playByte (c : Chan) (cyc : Nat) : Nat :=
  c.handed cyc / 64 * blockBytes (c.ply.formatOf (c.seq.segProfile (c.seq.passSeg c.seq.wp c.seq.kind)))

/-- Lines of the read-ahead range: from the play position up to 256 KB ahead, within the segment (R355). -/
def Chan.playLines (c : Chan) (cyc : Nat) : List Nat :=
  if c.seq.playing then
    let sg := c.seq.passSeg c.seq.wp c.seq.kind
    lineSpan (c.passBase sg + c.playByte cyc) (min aheadBytes (c.segBytes sg - c.playByte cyc))
  else []

/-- Lines of the chosen successor, as far as its own read-ahead range goes at its first sample: those beyond its head (R355), and the
head's own where none holds it, as that of a fill played before (R152, R414). -/
def Chan.succLines (c : Chan) : List Nat :=
  match c.seq.succ with
  | some x =>
    if x.kind == .holdLast then []
    else
      let sg := c.seq.passSeg x.wp x.kind
      lineSpan (c.passBase sg) (min aheadBytes (c.segBytes sg))
  | none => []

/-- The lines that are read before any other: those of the pass playing, and of its chosen successor (R355). -/
def Chan.readAhead (c : Chan) (cyc : Nat) : List Nat := c.playLines cyc ++ c.succLines

/-- A free slot of the cache, looked for from `k` on, at most `n` tries. -/
def Mem.freeSlot (m : Mem) : Nat → Nat → Option Nat
  | 0, _ => none
  | n + 1, k =>
    let i := m.pin + k % max 1 m.cacheLines
    if m.cache.any (·.slot == i) then m.freeSlot n (k + 1) else some i

/-- The least recently used line that may be evicted (R356). -/
def Mem.evictable (m : Mem) (keep' : List Nat) : Option CacheLine :=
  (m.cache.filter fun x => !x.held && !keep'.contains x.line).foldl
    (fun a x => match a with
      | some y => if x.used < y.used then some x else some y
      | none => some x) none

/-- Make a line present, held where `hold` says so; `free` names the free slot it takes (log entry 2). -/
def Mem.putLine (m : Mem) (keep' : List Nat) (free line : Nat) (hold : Bool) : Mem :=
  let u := m.useCtr + 1
  let m := { m with useCtr := u }
  if m.present line then
    { m with cache := m.cache.map fun (x : CacheLine) => if x.line = line then { x with held := x.held || hold, used := u } else x }
  else match m.freeSlot (m.cache.length + 1) (Config.cacheSlot free) with
    | some i => { m with cache := m.cache ++ [{ slot := i, line := line, held := hold, used := u }] }
    | none => match m.evictable keep' with
      | some y => { m with cache := m.cache.erase y ++ [{ slot := y.slot, line := line, held := hold, used := u }] }
      | none => m

/-- Make a line present and hold it. -/
def Mem.holdLine (m : Mem) (keep' : List Nat) (free line : Nat) : Mem := m.putLine keep' free line true

/-- The test of R354: the lines held, with this head added, leave 128 lines of the cache. -/
def Mem.headFits (m : Mem) (head : List Nat) : Bool :=
  let more := (head.eraseDups.filter fun l => !m.cache.any fun x => x.line == l && x.held).length
  decide (m.held + more + 128 ≤ m.cacheLines)

/-- Hold every line of a head. -/
def Mem.holdHead (m : Mem) (keep' : List Nat) (free : Nat) (head : List Nat) : Mem := head.foldl (fun m l => m.holdLine keep' free l) m

/-- Heads whose lines are all present are held one at a time, in their order, up to one with a line still to be read or one
that does not fit (R353, R354). -/
def Mem.holdHeads (keep' : List Nat) (free : Nat) : List (List Nat) → Mem → Mem
  | [], m => { m with heads := [] }
  | h :: r, m =>
    if !m.headFits h then { m with heads := h :: r, cacheFull := true, events := evSet m.events MemEv.cacheFull }
    else if h.all m.present then Mem.holdHeads keep' free r (m.holdHead keep' free h)
    else { m with heads := h :: r }

/-- HEADS_HELD (R353): with every head held, HOLDING clears. -/
def execHeadsHeld (t : Tbu) (ch : ChanId) (s : State) : Host.Outcome State Fault Refusal :=
  let s := s.atTime t
  let c := s.ch ch
  .next (if c.mem.holding && !c.mem.cacheFull && !c.mem.degraded && c.mem.bobLostAt.isNone then
      ({ s with freeCtr := s.freeCtr + 1 } : State).modCh ch fun c =>
        let c := c.usePlayed s.cycle
        let m := Mem.holdHeads (c.readAhead s.cycle) s.freeCtr c.mem.heads c.mem
        { c with mem := { m with holding := !m.heads.isEmpty } }
    else s)

/-! ### Address mapping (R359 to R361) -/

/-- Where a burst lies in the devices. -/
structure CreelAddr where
  burst : Nat
  group : Nat
  bank : Nat
  row : Nat
  deriving DecidableEq, Repr

/-- The mapping of R361 by ORDER. -/
def mapAddr (order a : Nat) : CreelAddr :=
  let f := fun lo len => a / 2 ^ lo % 2 ^ len
  match order with
  | 1 => { burst := f 6 6, group := f 12 3, bank := f 15 2, row := f 17 17 }
  | 2 => { burst := f 6 6, group := f 29 3, bank := f 32 2, row := f 12 17 }
  | 3 => { burst := f 9 6, group := Nat.xor (f 6 3) (f 17 3), bank := Nat.xor (f 15 2) (f 20 2), row := f 17 17 }
  | _ => { burst := f 9 6, group := f 6 3, bank := f 15 2, row := f 17 17 }

def ChImage.creelAt (im : ChImage) (a : Nat) : CreelAddr := mapAddr (num im.creelMap 0 1) a

/-- Number of a bank among the 32. -/
def CreelAddr.index (a : CreelAddr) : Nat := 4 * a.group + a.bank

/-- Device of a logical lane: 0 to 3 are L0 to L3, 4 is P (R359, R360). -/
def ChImage.laneDev (im : ChImage) (lane : Nat) : Nat := num im.creelMap (1 + lane) 1

/-- Device `d` holds a data lane, not lane P (R359). -/
def ChImage.holdsData (im : ChImage) (d : Nat) : Bool := ([0, 1, 2, 3] : List Nat).any fun l => im.laneDev l == d

def fin5 : List (Fin 5) := [0, 1, 2, 3, 4]

/-! ### The lanes of a burst (R359, R363) -/

/-- What lane `lane` carries in beat `beat` of a burst: byte 4 × beat + lane, and on lane P the XOR of the beat's four bytes. -/
def laneByte (burst : List Byte) (lane beat : Nat) : Byte :=
  let b := fun l => burst.getD (4 * beat + l) 0
  if lane < 4 then b lane else b 0 ^^^ b 1 ^^^ b 2 ^^^ b 3

/-- The lane that device `d` carries. -/
def ChImage.laneOf (im : ChImage) (d : Nat) : Nat := (([0, 1, 2, 3] : List Nat).find? fun l => im.laneDev l == d).getD 4

/-- Byte `b` of a burst, from the data of every device but `miss`: a missing data lane is the XOR of the other three and P
(R363). -/
def ChImage.captured (im : ChImage) (burst : List Byte) (miss : Option (Fin 5)) (b : Nat) : Byte :=
  let lane := b % 4
  let beat := b / 4
  if miss.any fun d => im.laneOf d.val == lane then
    (([0, 1, 2, 3, 4] : List Nat).filter (· != lane)).foldl (fun x l => x ^^^ laneByte burst l beat) 0
  else laneByte burst lane beat

/-- The 64 bytes that a read delivers without device `miss`. -/
def ChImage.burstRead (im : ChImage) (burst : List Byte) (miss : Option (Fin 5)) : List Byte := (upTo 64).map (im.captured burst miss)

/-! ### Excusals (R362 to R364) -/

/-- Device `d` is excused for bank `b`. -/
def Mem.isExcused (m : Mem) (d : Fin 5) (b : Nat) : Bool :=
  m.excused.any fun e => e.dev == d && (match e.bank with
    | some k => k.val == b
    | none => true)

/-- The rule of R362 lets device `d` be excused for bank `b`, or for every bank. -/
def Mem.mayExcuse (m : Mem) (d : Fin 5) (b : Option (Fin 32)) : Bool :=
  !bit m.retired d.val && m.excused.all fun e => e.dev == d || (match e.bank, b with
    | some j, some k => j != k
    | _, _ => false)

/-- Devices that take no part in a read of burst `a`, bank `b`: retired, excused, or with a posted write of it. -/
def Mem.missing (m : Mem) (a b : Nat) : List (Fin 5) :=
  fin5.filter fun d => bit m.retired d.val || m.isExcused d b || (m.devs[d]).posted.contains a

/-- A grade change forbids new pauses and neighbour refreshes (R381). -/
def Mem.preparing (m : Mem) : Bool := m.change.any fun g => g.phase != .wait
def Mem.inBlackout (m : Mem) : Bool := m.change.any fun g => g.phase == .blackout

/-- DRAIN goes on once the writes of a channel are done (R127). -/
def State.drainOn (s : State) (ch : ChanId) : State := s.modCh ch fun c => c.drainOn s.now

/-- Device `d` has no row open in a bank, or in any. -/
def Mem.closeRows (m : Mem) (d : Fin 5) (b : Option (Fin 32)) : Mem :=
  { m with devs := vmod m.devs d fun x => { x with rows := match b with
      | some k => vput x.rows k none
      | none => Vector.replicate 32 none } }

/-- The pause probes a write edge. The pauses of a visit probe the read left, read right, write left and write right edges, in that
order; those of a rescue sweep them all (R378, R379). -/
def Visit.probesWrite (v : Visit) : Bool := v.rescue || decide (3 ≤ v.pauses)

/-- An excusal starts: what is done to the device meanwhile leaves the banks it is excused for precharged (log entry 60). -/
def Mem.excuse (m : Mem) (e : Excusal) : Mem :=
  { m.closeRows e.dev e.bank with
    excused := m.excused ++ [e]
    devs := if e.why == .pause && m.visit.any (fun v => v.dev == e.dev && v.probesWrite) then
        vmod (m.closeRows e.dev e.bank).devs e.dev fun x => { x with scratch := true }
      else (m.closeRows e.dev e.bank).devs }

/-- An excusal falls due: it starts, or waits until R362 allows it. -/
def Mem.excusalDue (m : Mem) (e : Excusal) : Mem :=
  if m.mayExcuse e.dev e.bank then m.excuse e else { m with waiting := m.waiting ++ [e] }

/-- Excusals that wait start in their order, as far as R362 allows; while a grade change prepares no pause starts, and in a
blackout nothing does (R381, R388). -/
def Mem.startWaiting (m : Mem) (now : Tbu) : Mem :=
  if m.inBlackout then m
  else m.waiting.foldl (fun m e =>
    if m.mayExcuse e.dev e.bank && !(e.why == .pause && m.preparing) then m.excuse { e with since := now }
    else { m with waiting := m.waiting ++ [e] }) { m with waiting := [] }

/-- The creel is at work: from the entry to HOLDUP it is left as it stands (R388). -/
def State.creelRuns (s : State) : Bool := s.mod.mode != .holdup && s.mod.mode != .vaulted && s.mod.mode != .unpowered

/-- A step of the creel, which is none while the creel does not run. -/
def State.ifCreel (s : State) (f : State → State) : State := if s.creelRuns then f s else s

/-- REFRESH_DUE (R375): a same-bank refresh excuses its device when R362 allows it. In a blackout the devices refresh
themselves. -/
def execRefreshDue (t : Tbu) (ch : ChanId) (d : Fin 5) (bank : Fin 32) (s : State) : Host.Outcome State Fault Refusal :=
  .next ((s.atTime t).ifCreel fun s => s.modMem ch fun m =>
    if m.inBlackout || bit m.retired d.val then m else m.excusalDue { dev := d, bank := some bank, since := s.now })

/-- The buffer of a device is replayed but for bursts of banks it is still excused for (R364); after a pause the scratch burst
is first rewritten from the other four devices (R378). -/
def Mem.replay (m : Mem) (im : ChImage) (d : Fin 5) : Mem :=
  { m with devs := vmod m.devs d fun x => { x with
      scratch := x.scratch && m.excused.any fun e => e.dev == d && e.why == .pause
      posted := x.posted.filter fun a => m.isExcused d (im.creelAt a).index } }

/-- A neighbour refresh in front of bank group `g` has done one device; after the fifth it is complete (R373). -/
def Mem.nrefStep (m : Mem) (g : Nat) : Mem :=
  let n := vget m.nrefDev g 0 + 1
  if n < 5 then { m with nrefDev := vputN m.nrefDev g n }
  else { m with nrefDev := vputN m.nrefDev g 0, nrefQ := vputN m.nrefQ g ((vget m.nrefQ g []).drop 1), nref := satInc m.nref }

/-- The oldest excusal of device `d` ends, and those that waited for it start. That of a device whose verification failed ends
with its rescue only (R381). -/
def Mem.excusalEnd (m : Mem) (im : ChImage) (d : Fin 5) (now : Tbu) : Mem :=
  match m.excused.find? fun e => e.dev == d && e.why != .verify with
  | none => m
  | some e =>
    let m := { m with excused := m.excused.erase e }
    let m := m.replay im d
    let m := match e.why, e.bank with
      | .neighbour, some b => m.nrefStep (b.val / 4)
      | _, _ => m
    m.startWaiting now

/-- EXCUSAL_END (R364). -/
def execExcusalEnd (t : Tbu) (ch : ChanId) (d : Fin 5) (s : State) : Host.Outcome State Fault Refusal :=
  .next ((s.atTime t).ifCreel fun s => (s.modCh ch fun c => { c with mem := c.mem.excusalEnd c.skn.image d s.now }).drainOn ch)

/-! ### Row activates and neighbour refreshes (R372, R373) -/

/-- THRESH in force (R372). -/
def Mem.thresh (m : Mem) : Nat := min 32768 (max 512 (fld m.cfg 48 16))

/-- Replace the first entry that `p` accepts. -/
def replaceFirst {α : Type} (p : α → Bool) (f : α → α) : List α → List α
  | [] => []
  | x :: r => if p x then f x :: r else x :: replaceFirst p f r

/-- The count of an activate of (bank, row) in a table of 64 entries, and the table after it. -/
def ActTable.hit (t : ActTable) (bank row : Nat) : ActTable × Nat :=
  match t.entries.find? fun e => e.bank == bank && e.row == row with
  | some e =>
    ({ t with entries := replaceFirst (fun x => x.bank == bank && x.row == row) (fun x => { x with count := x.count + 1 }) t.entries },
      e.count + 1)
  | none =>
    if t.entries.length < 64 then
      ({ t with entries := t.entries ++ [{ bank := bank, row := row, count := t.floor + 1 }] }, t.floor + 1)
    else
      let low := t.entries.foldl (fun a e => min a e.count) ((t.entries.map (·.count)).headD 0)
      ({ entries := replaceFirst (fun x => x.count == low) (fun _ => { bank := bank, row := row, count := low + 1 }) t.entries
         floor := low }, low + 1)

/-- Rows of a bank. -/
def bankRows : Nat := 131072

/-- The rows next to a row, those outside the bank skipped (R372). -/
def neighbours (row : Nat) : List Nat :=
  (if 2 ≤ row then [row - 2] else []) ++ (if 1 ≤ row then [row - 1] else [])
    ++ ([row + 1, row + 2] : List Nat).filter fun r => decide (r < bankRows)

/-- The devices that take part in a bank: neither retired nor excused for it. -/
def Mem.taking (m : Mem) (b : Nat) : List (Fin 5) := fin5.filter fun d => !bit m.retired d.val && !m.isExcused d b

/-- A device's open row of a bank. -/
def Mem.setRow (m : Mem) (d : Fin 5) (b : Nat) (r : Option Nat) : Mem :=
  { m with devs := vmod m.devs d fun x => { x with rows := vputN x.rows b r } }

/-- An activate (R372): every device that takes part opens the row; at THRESH a neighbour refresh is queued and the entry
starts again from FLOOR. -/
def Mem.activate (m : Mem) (a : CreelAddr) : Mem :=
  let r := (vget m.acts a.group {}).hit a.bank a.row
  let m := (m.taking a.index).foldl (fun m d => m.setRow d a.index (some a.row)) m
  if r.2 < m.thresh then { m with acts := vputN m.acts a.group r.1 }
  else
    let t := { r.1 with entries := replaceFirst (fun x => x.bank == a.bank && x.row == a.row)
                          (fun x => { x with count := r.1.floor }) r.1.entries }
    { m with acts := vputN m.acts a.group t, nrefQ := vputN m.nrefQ a.group (vget m.nrefQ a.group [] ++ [(a.bank, neighbours a.row)]) }

/-- The neighbour refresh in front of bank group `g` goes on with its next device, when R362 allows: it activates and
precharges each queued row in it (R373). A retired device is passed over. -/
def Mem.nrefAdvance (m : Mem) (g : Nat) (now : Tbu) : Mem :=
  match vget m.nrefQ g [] with
  | [] => m
  | (bank, rows) :: _ =>
    let d := Fin.ofNat 5 (vget m.nrefDev g 0)
    let b := Fin.ofNat 32 (4 * g + bank)
    if m.excused.any fun e => e.why == .neighbour && e.bank == some b then m
    else if bit m.retired d.val then m.nrefStep g
    else if m.mayExcuse d (some b) then
      rows.foldl (fun m r => (m.setRow d b.val (some r)).setRow d b.val none)
        (m.excuse { dev := d, bank := some b, since := now, why := .neighbour })
    else m

/-- RAA_CLEAR (R374). -/
def execRaaClear (t : Tbu) (ch : ChanId) (s : State) : Host.Outcome State Fault Refusal :=
  .next ((s.atTime t).ifCreel fun s => s.modMem ch fun m => { m with acts := Vector.replicate 8 {} })

/-! ### The choice of a command (R369, R370) -/

/-- TARGET of a port in tbu; below 100 ns it acts as 100 (R368). -/
def Mem.target (m : Mem) (p : Fin 4) : Nat := max 100 (fld m.qos[p] 0 32) * ns

/-- Urgency of a request of age `a` (R369). -/
def urgency (target a : Nat) : Nat :=
  if 2 * a < target then 0 else if 4 * a < 3 * target then 1 else if a < target then 2 else 3

def Mem.urgencyOf (m : Mem) (r : CreelReq) (now : Tbu) : Nat := urgency (m.target r.port) (now - r.arrived)

/-- Weight of a port (R368). -/
def portWeight (p : Fin 4) : Nat := if p = 0 then 12 else if p = 1 then 6 else 1

/-- The row is open in every device that takes part. -/
def Mem.rowHit (m : Mem) (a : CreelAddr) : Bool := (m.taking a.index).all fun d => vget (m.devs[d]).rows a.index none == some a.row
def Mem.nrefFull (m : Mem) (g : Nat) : Bool := decide (8 ≤ (vget m.nrefQ g []).length)

/-- The bus is turned to writes when 32 are queued or one has reached urgency 2, and stays so for 16 (R370). -/
def Mem.turn (m : Mem) (now : Tbu) : Mem :=
  let w := m.reqs.filter (·.write)
  if w.isEmpty then { m with writeTurn := 0 }
  else if m.writeTurn = 0 ∧ (32 ≤ w.length ∨ w.any fun r => decide (2 ≤ m.urgencyOf r now)) then { m with writeTurn := 16 }
  else m

/-- A request whose bank can take it now; `ready` has the bit of each bank that DDR5 timing allows. -/
def Mem.eligible (m : Mem) (im : ChImage) (ready : BitVec 32) (r : CreelReq) : Bool :=
  let a := im.creelAt r.addr
  bit ready a.index && r.write == decide (0 < m.writeTurn)
    && (r.write || (m.creel != .lost && decide ((m.missing r.addr a.index).length ≤ 1)))

/-- Of two ports, the one with the least served / weight; the first on a tie. -/
def Mem.lessServed (m : Mem) (p q : Fin 4) : Bool := decide (m.served[q] * portWeight p < m.served[p] * portWeight q)

/-- The request that R370 chooses among those eligible. -/
def Mem.choose (m : Mem) (im : ChImage) (now : Tbu) (l : List CreelReq) : Option CreelReq :=
  let u := l.foldl (fun a r => max a (m.urgencyOf r now)) 0
  let c := l.filter fun r => m.urgencyOf r now == u
  let ports := ([0, 1, 2, 3] : List (Fin 4)).filter fun p => c.any (·.port == p)
  match ports with
  | [] => none
  | p :: r =>
    let p := r.foldl (fun a q => if m.lessServed a q then q else a) p
    let cp := c.filter (·.port == p)
    match cp.find? fun r => m.rowHit (im.creelAt r.addr) with
    | some r => some r
    | none => cp.head?

/-- A request is issued: an activate when its row is not open, its writes posted for excused devices (R364), a read to every
device that takes part (R363). -/
def Mem.issue (m : Mem) (im : ChImage) (now : Tbu) (r : CreelReq) : Mem :=
  let a := im.creelAt r.addr
  let m := if m.rowHit a then m else m.activate a
  let m := { m with reqs := m.reqs.erase r, served := vmod m.served r.port (· + 1), writeTurn := m.writeTurn - 1 }
  let late := m.urgencyOf r now == 3
  if r.write then
    let m := if late then { m with overdue := vmod m.overdue r.port satInc } else m
    let m := { m with maxLat := vmod m.maxLat r.port fun x => BitVec.ofNat 32 (max x.toNat (min (2 ^ 32 - 1) ((now - r.arrived) / ns))) }
    (fin5.filter fun d => m.isExcused d a.index && !bit m.retired d.val).foldl
      (fun m d => { m with devs := vmod m.devs d fun x => { x with posted := x.posted ++ [r.addr] }, posted := satInc m.posted }) m
  else
    { m with inflight := m.inflight ++ [{ r with miss := (m.missing r.addr a.index).head? }] }

/-- A refill read for the pass playing or its successor, issued before any other (R355); a line fetched again was being read. -/
def CreelReq.first (r : CreelReq) : Bool := r.use == .ahead || r.use == .direct || r.use == .again

/-- The requests among which R370 chooses, after the order of the refill reads (R355). -/
def Mem.ordered (l : List CreelReq) : List CreelReq :=
  if l.any CreelReq.first then l.filter fun r => r.port != 0 || r.first else l

/-- One command opportunity of the controller. -/
def Mem.command (m : Mem) (im : ChImage) (now : Tbu) (ready : BitVec 32) : Mem :=
  if m.inBlackout then m
  else
    let m := if m.preparing then m else (upTo 8).foldl (fun m g => m.nrefAdvance g now) m
    let m := if m.servedAt / us = now / us then m else { m with served := Vector.replicate 4 0 }
    let m := ({ m with servedAt := now } : Mem).turn now
    let all := m.reqs.filter (m.eligible im ready)
    let waits := fun (r : CreelReq) => !m.rowHit (im.creelAt r.addr) && m.nrefFull (im.creelAt r.addr).group
    let m := if all.any waits then { m with throttle := satInc m.throttle, events := evSet m.events MemEv.throttle } else m
    match m.choose im now (Mem.ordered (all.filter fun r => !waits r)) with
    | some r => m.issue im now r
    | none => m

/-! ### What reaches the controller (R348, R353, R355, R384, R386, R409) -/

/-- The 64 reads of a line reach the REFILL port. -/
def Mem.loadLine (m : Mem) (use : ReqUse) (line addr : Nat) (now : Tbu) : Mem :=
  (upTo 64).foldl (fun m i => m.enqueue 0 use (addr + 64 * i) now) { m with loading := m.loading ++ [(use, line)] }

/-- A load of this use is with the controller. -/
def Mem.isLoading (m : Mem) (use : ReqUse) : Bool := m.loading.any fun x => x.1 == use

/-- The bobbin store takes lines: none of its devices is lost. -/
def Mem.stores (m : Mem) : Bool := !m.degraded && m.bobLostAt.isNone

/-- The next read-ahead line that is not present. -/
def Mem.feedAhead (m : Mem) (ahead : List Nat) (now : Tbu) : Mem :=
  if !m.stores || m.isLoading .ahead then m
  else match ahead.find? fun l => !m.present l with
    | some l => m.loadLine .ahead l (4096 * l) now
    | none => m

/-- The creel address behind a slot that holds a line. -/
def Mem.slotAddr (m : Mem) (slot : Nat) : Option Nat :=
  if slot < m.pin then some (m.backing (4096 * slot)) else (m.cache.find? (·.slot == slot)).map fun x => 4096 * x.line

/-- The next line to be fetched again (R479). -/
def Mem.feedAgain (m : Mem) (now : Tbu) : Mem :=
  if !m.stores || m.isLoading .again then m
  else match m.again with
    | [] => m
    | k :: r => match m.slotAddr k with
      | some a => { m with again := r }.loadLine .again k a now
      | none => { m with again := r }

/-- The next line of the next head, once the head is known to fit (R353, R354). -/
def Mem.feedHead (m : Mem) (now : Tbu) : Mem :=
  if !m.holding || m.cacheFull || !m.stores || m.isLoading .head then m
  else match m.heads with
    | [] => m
    | h :: _ =>
      if !m.headFits h then { m with cacheFull := true, events := evSet m.events MemEv.cacheFull }
      else match h.find? fun l => !m.present l with
        | none => m
        | some l => m.loadLine .head l (4096 * l) now

/-- The next pinned line of a reload (R348). -/
def Mem.feedPin (m : Mem) (now : Tbu) : Mem :=
  if m.pinLoad && m.stores && decide (m.pinNext < m.pin) && !m.isLoading .pin then
    m.loadLine .pin m.pinNext (m.backing (4096 * m.pinNext)) now
  else m

/-- The next line of the head of a complete fill that is to be held (R411). -/
def Chan.feedFill (c : Chan) (now : Tbu) : Chan :=
  if !c.mem.stores || c.mem.isLoading .fill then c
  else match c.stq.queues.find? fun e => e.2.headDue && c.mem.headFits (e.2.fillHead e.2.ready) && !(e.2.fillHead e.2.ready).all c.mem.present with
    | some e => match (e.2.fillHead e.2.ready).find? fun l => !c.mem.present l with
      | some l => { c with mem := c.mem.loadLine .fill l (4096 * l) now }
      | none => c
    | none => c

/-- Number of the burst, within the segment of the pass playing, that the play position has come to. -/
def Chan.playBurst (c : Chan) (cyc : Nat) : Nat := c.playByte cyc / 64

/-- In creel-direct play, the bursts that the play position has reached (R384). -/
def Chan.feedDirect (c : Chan) (cyc : Nat) (now : Tbu) : Chan :=
  if c.mem.degraded && c.seq.playing && c.seq.kind != .holdLast then
    let sg := c.seq.passSeg c.seq.wp c.seq.kind
    let n := min (c.playBurst cyc + 1) (ceilDiv (c.segBytes sg) 64)
    { c with mem := { ((upTo n).drop c.mem.directTo).foldl (fun m i => m.enqueue 0 .direct (c.passBase sg + 64 * i) now) c.mem with
        directTo := max n c.mem.directTo } }
  else c

/-- A request of the Doffer's port is still with the controller. -/
def Mem.dofferBusy (m : Mem) : Bool := (m.reqs ++ m.inflight).any fun r => r.port == 2

/-- The next request of training data: a burst is written, then read (R368, R376). The manual names neither the bursts nor their
number, and what they hold afterwards is left free (log entry 60). -/
def Chan.feedTrain (c : Chan) (now : Tbu) : Chan :=
  let n := c.mem.svcAt
  if n % 2 = 0 then
    let a := 64 * (Config.trainBurst now n).toNat
    let c := c.creelWrite 2 a ((upTo 64).map (Config.trainByte now n)) now
    { c with mem := { c.mem with svcAt := n + 1, trainAt := a } }
  else { c with mem := { c.mem.enqueue 2 .train c.mem.trainAt now with svcAt := n + 1 } }

/-- The service in progress goes on, one burst at a time: a COPY reads the next burst, a FILL writes it (R386). -/
def Chan.feedService (c : Chan) (now : Tbu) : Chan :=
  if c.mem.dofferBusy then c
  else match c.dof.running with
    | some (.copy src _ len) =>
      if c.mem.svcAt < len then
        { c with mem := ({ c.mem with svcBuf := readBytes c.mem.data (src + c.mem.svcAt) 64 } : Mem).enqueue 2 .copy (src + c.mem.svcAt) now }
      else c
    | some (.fill dst len pat) =>
      if c.mem.svcAt < len then
        let c := c.creelWrite 2 (dst + c.mem.svcAt) ((upTo 8).flatMap fun _ => wordBytes pat) now
        { c with mem := { c.mem with svcAt := c.mem.svcAt + 64 } }
      else c
    | some (.train _) => if c.tlh.granted then c.feedTrain now else c
    | _ => c

/-- Bursts that the controller's write queue holds before staged data waits: as many as make it turn to writes (R370; DESIGN
CHOICE, log entry 35). -/
def writeRoom : Nat := 32

/-- The controller receives staged queue data, oldest first, while its write queue has room (R409). -/
def Chan.receiveStaged (now : Tbu) : Nat → Chan → Chan
  | 0, c => c
  | n + 1, c =>
    match c.stq.staged with
    | [] => c
    | x :: r =>
      if (c.mem.reqs.filter (·.write)).length < writeRoom then
        Chan.receiveStaged now n (({ c with stq := { c.stq with staged := r } } : Chan).creelWrite 1 x.addr x.data now)
      else c

/-- What reaches the controller at a command opportunity. -/
def Chan.feedCreel (c : Chan) (cyc : Nat) (now : Tbu) : Chan :=
  let c := (Chan.receiveStaged now c.stq.staged.length c).feedService now
  let c := (c.feedDirect cyc now).feedFill now
  { c with mem := (((c.mem.feedAgain now).feedAhead (c.readAhead cyc) now).feedHead now).feedPin now }

/-- CREEL_COMMAND (R370). -/
def execCreelCommand (t : Tbu) (ch : ChanId) (ready : BitVec 32) (s : State) : Host.Outcome State Fault Refusal :=
  .next ((s.atTime t).ifCreel fun s => (s.modCh ch fun c =>
    let c := c.feedCreel s.cycle s.now
    { c with mem := c.mem.command c.skn.image s.now ready }).drainOn ch)

/-! ### A read completes (R363, R369) -/

/-- The last read of a line has completed: a head's line is present and held, a read-ahead line present, a pinned line a copy
of its backing line again. -/
def Mem.lineDone (m : Mem) (keep' : List Nat) (free : Nat) (x : ReqUse × Nat) : Mem :=
  let m := { m with loading := m.loading.erase x }
  match x.1 with
  | .head =>
    let m := m.holdLine keep' free x.2
    { m with heads := m.heads.dropWhile m.allHeld }
  | .ahead | .fill => m.putLine keep' free x.2 false
  | .pin => { m with pinNext := m.pinNext + 1 }
  | _ => m

/-- What the completed read was for goes on: a line whose last read it was, or a COPY, which writes what it has read. A lost
creel has returned no data (R385). -/
def Chan.readUse (c : Chan) (keep' : List Nat) (free : Nat) (now : Tbu) (r : CreelReq) (miss : Option (Fin 5)) : Chan :=
  if r.use = .copy then
    match c.dof.running with
    | some (.copy _ dst _) =>
      if c.mem.creel = .lost then c
      else
        let c := c.creelWrite 2 (dst + c.mem.svcAt) (c.skn.image.burstRead c.mem.svcBuf miss) now
        { c with mem := { c.mem with svcAt := c.mem.svcAt + 64, svcBuf := [] } }
    | _ => c
  else match c.mem.loading.find? fun x => x.1 == r.use with
    | some x =>
      if (c.mem.reqs ++ c.mem.inflight).any fun q => q.use == r.use then c
      else if c.mem.creel = .lost then { c with mem := { c.mem with loading := c.mem.loading.erase x } }
      else { c with mem := c.mem.lineDone keep' free x }
    | none => c

/-- The oldest read in flight completes (R363, R369). With five devices taking part, `last` is the one whose data had not been
captured, if one had not. -/
def Chan.readDone (c : Chan) (keep' : List Nat) (free : Nat) (now : Tbu) (last : Option (Fin 5)) : Chan :=
  let m := c.mem
  match m.inflight with
  | [] => c
  | r :: rest =>
    let miss := r.miss.orElse fun _ => last
    let m := { m with
      inflight := rest
      recon := if miss.any fun d => c.skn.image.holdsData d.val then satInc m.recon else m.recon
      overdue := if m.urgencyOf r now = 3 then vmod m.overdue r.port satInc else m.overdue
      maxLat := vmod m.maxLat r.port fun x => BitVec.ofNat 32 (max x.toNat (min (2 ^ 32 - 1) ((now - r.arrived) / ns))) }
    ({ c with mem := m } : Chan).readUse keep' free now r miss

/-- READ_COMPLETE (R363). -/
def execReadComplete (t : Tbu) (r : ReadEnd) (s : State) : Host.Outcome State Fault Refusal :=
  let s := s.atTime t
  .next ((({ s with freeCtr := s.freeCtr + 1 } : State).modCh r.ch fun c =>
    (c.usePlayed s.cycle).readDone (c.readAhead s.cycle) s.freeCtr s.now r.last).drainOn r.ch)

end Sys2Proof.Machine
end

