-- ==== Sys2Proof/Machine/Doffer.lean ====
section
/-! DEFINITION. The Doffer: services, creel training, retraining visits and rescues, grade changes, retired creel devices,
lost bobbin devices and Doffer stalls (R113, R366, R367, R376 to R387, R478 to R481). -/

namespace Sys2Proof.Machine

def Chan.setDof (c : Chan) (d : Doffer) : Chan := { c with dof := d }

/-! ### Services and TRIM (R113, R115, R434, R435) -/

/-- The service runs in TRIM. -/
def Service.inTrim : Service → Bool
  | .copy .. | .fill .. => false
  | .train _ | .calRun _ | .restore .. => true

/-- The service was asked for by MEM_SVC_CMD. -/
def Service.isMem : Service → Bool
  | .copy .. | .fill .. | .train false => true
  | .train true | .calRun _ | .restore .. => false

def Service.isCal : Service → Bool
  | .calRun _ => true
  | _ => false

def Service.isRestore : Service → Bool
  | .restore .. => true
  | _ => false

/-- Requests the Doffer holds, the one in progress included (R387, R459). -/
def Doffer.holds (d : Doffer) : Nat := d.queue.length + (if d.running.isSome then 1 else 0)

/-- Queue a service. -/
def Chan.queueService (c : Chan) (x : Service) : Chan := { c with dof := { c.dof with queue := c.dof.queue ++ [x] } }

/-- Enter TRIM (R115, R341). -/
def State.enterTrim (s : State) (ch : ChanId) : State :=
  if (s.ch ch).mod.state = .trim then s else (s.modCh ch Chan.tdcSuspend).setChState ch .trim

/-- A service in TRIM ends: its grant is released, and the channel returns to REST unless a restore waits (R113, R435). -/
def State.leaveTrim (s : State) (ch : ChanId) : State :=
  let s := s.modCh ch fun c => { c.releaseGrant with dof := { c.dof with running := none } }
  if (s.ch ch).dof.queue.any Service.isRestore then s
  else (s.modCh ch fun c => c.tdcResume s.cycle).enterRest ch

/-- A memory service ends with completion status `last` (R387); a burst that a COPY was reading is done with. -/
def Chan.svcEnd (c : Chan) (last : Byte) : Chan :=
  ({ c with mem := { c.mem.dropUses [.copy] with svcDone := c.mem.svcDone + 1, svcLast := last } } : Chan).memEvent MemEv.svcDone

/-- Record RUN_RESULT of a procedure (R476). -/
def Cal.putResult (k : Cal) (p : Fin 4) (outcome : Nat) (reason : Byte) (detail statval : Nat) : Cal :=
  { k with runResult := vput k.runResult p (pack [(statval, 32), (detail, 16), (reason.toNat, 8), (outcome, 0)]) }

/-- A calibration run ends: RUN_DONE, and the switches return to the state OUT_EN gives them (R462 step 6). -/
def Chan.calEnd (c : Chan) : Chan :=
  { c with
    cal := { c.cal with state := if c.dof.queue.any Service.isCal then 1 else 0, run := none, events := evSet c.cal.events CalEv.runDone }
    ana := if c.mod.outEn then { c.ana with closing := c.ana.mask &&& ~~~c.ana.sw } else c.ana }

/-- The procedures of PROC in their order, in the numbering of R476. -/
def procList (p : BitVec 3) : List (Fin 4) :=
  (if bit p 0 then [0] else []) ++ (if bit p 1 then [1, 2] else []) ++ (if bit p 2 then [3] else [])

/-- A calibration run of procedures `procs` ends with its remaining ones not run: all of them when it was still waiting (R463, R481). -/
def Chan.calAbort (c : Chan) (procs : BitVec 3) : Chan :=
  let k := match c.cal.run with
    | some r => r.left.foldl (fun k p => k.putResult p 3 0 0 0) c.cal
    | none => (procList procs).foldl (fun k p => k.putResult p 3 0 0 0) { c.cal with runResult := Vector.replicate 4 0 }
  { c with cal := k }.calEnd

/-- CAL_STAT.STATE while procedure `p` runs. -/
def procState (p : Fin 4) : BitVec 4 := if p = 0 then 3 else if p = 3 then 5 else 4

/-- The bank that is not active; bank A when neither is. -/
def Cal.inactive (k : Cal) : Fin 2 := if k.active = 1 then 1 else 0

/-- A calibration run holds its grant: steps 2 and 3 of R462. -/
def Chan.calBegin (c : Chan) (procs : BitVec 3) : Chan :=
  let l := procList procs
  let b := c.cal.inactive
  let k := { c.cal with
    runResult := Vector.replicate 4 0
    banks := vput c.cal.banks b ((c.cal.activeBank).getD [])
    run := some { procs := procs, left := l, bank := b }
    state := (l.head?.map procState).getD 0 }
  ({ c with cal := k, ana := { c.ana with sw := 0, closing := 0, term := true } } : Chan).calSource

/-- The service in TRIM has its grant and starts (R434, R462, R376). -/
def State.serviceBegin (s : State) (ch : ChanId) : State :=
  s.modCh ch fun c => match c.dof.running with
    | some (.calRun p) => c.calBegin p
    | some (.train _) => { c with mem := { c.mem with train := .initial } }
    | _ => c

/-- SERVICE_START (R113): the Doffer begins the next queued service. One that runs in TRIM asks for its grant. -/
def State.serviceStart (s : State) (ch : ChanId) : State :=
  let c := s.ch ch
  match c.dof.queue with
  | [] => s
  | x :: r =>
    if c.dof.running.isSome || c.dof.restarting || c.flt.dofferLost || !c.configured || !s.working then s
    else
      let take := fun (c : Chan) => { c with dof := { c.dof with queue := r, running := some x }
                                             mem := { c.mem with svcAt := 0, svcBuf := [] } }
      if !x.inTrim then s.modCh ch take
      else if (c.mod.state ≠ .rest ∧ c.mod.state ≠ .trim) ∨ c.seq.checking then s
      else
        (s.modCh ch fun c =>
          let c := take c
          { c with tlh := { c.tlh with request := some { tick := s.tlh.tick, service := true }, granted := false }
                   cal := match x with
                     | .calRun _ => { c.cal with state := 2 }
                     | _ => c.cal }).enterTrim ch

def execServiceStart (t : Tbu) (ch : ChanId) (s : State) : Host.Outcome State Fault Refusal := .next ((s.atTime t).serviceStart ch)

/-! ### Memory services (R386, R387) -/

/-- The operands of a COPY or FILL are refused with RANGE (R387). -/
def Mem.svcRange (m : Mem) (copy : Bool) : Bool :=
  let src := fld m.svcSrc 0 34
  let dst := fld m.svcDst 0 34
  let len := fld m.svcLen 0 35
  dst % 64 != 0 || len % 64 != 0 || len == 0 || decide (creelBytes < len) || decide (creelBytes < dst + len)
    || (copy && (src % 64 != 0 || decide (creelBytes < src + len) || (decide (src < dst) && decide (dst < src + len))))

/-- The first code of R387 that applies to a request. -/
def Chan.svcTest (c : Chan) (cmd : Nat) : Byte :=
  if !c.configured then 0x01
  else if cmd = 0 ∨ 4 ≤ cmd then 0x0A
  else if c.flt.dofferLost then 0x13
  else if c.mem.creel = .lost then 0x0B
  else if cmd = 3 ∧ c.mod.state ≠ .rest then 0x08
  else if cmd ≠ 3 ∧ c.mem.svcRange (cmd == 1) then 0x03
  else if 4 ≤ c.dof.holds then 0x02
  else 0

/-- A write of MEM_SVC_CMD: the operands are read at the write (R386). -/
def Chan.svcRequest (c : Chan) (cmd : Nat) : Chan :=
  let code := c.svcTest cmd
  let c := { c with mem := { c.mem with svcResult := code } }
  if code ≠ 0 then c
  else
    let m := c.mem
    c.queueService (if cmd = 1 then .copy (fld m.svcSrc 0 34) (fld m.svcDst 0 34) (fld m.svcLen 0 35)
      else if cmd = 2 then .fill (fld m.svcDst 0 34) (fld m.svcLen 0 35) m.svcPat else .train false)

/-- COPY (R386). -/
def execCopy (t : Tbu) (ch : ChanId) (s : State) : Host.Outcome State Fault Refusal :=
  .next ((s.atTime t).ifWindow fun s => s.modCh ch fun c => c.svcRequest 1)
/-- FILL (R386). -/
def execFill (t : Tbu) (ch : ChanId) (s : State) : Host.Outcome State Fault Refusal :=
  .next ((s.atTime t).ifWindow fun s => s.modCh ch fun c => c.svcRequest 2)
/-- TRAIN (R386). -/
def execTrain (t : Tbu) (ch : ChanId) (s : State) : Host.Outcome State Fault Refusal :=
  .next ((s.atTime t).ifWindow fun s => s.modCh ch fun c => c.svcRequest 3)

/-- Bytes that a COPY or FILL covers. -/
def Service.bytes : Service → Nat
  | .copy _ _ len | .fill _ len _ => len
  | _ => 0

/-- Every burst of the COPY or FILL in progress has been through the DOFFER port (R386). -/
def Mem.svcOver (m : Mem) (x : Service) : Bool := decide (x.bytes ≤ m.svcAt) && !m.dofferBusy

/-- A FILL of the whole creel clears INVALID (R358, R386). -/
def Mem.svcClear (m : Mem) (x : Service) : Mem :=
  match x with
  | .fill dst len _ => { m with invalid := m.invalid && !(dst == 0 && len == creelBytes) }
  | _ => m

/-- SVC_DONE (R387): the COPY or FILL in progress has come to its end. -/
def execSvcDone (t : Tbu) (ch : ChanId) (s : State) : Host.Outcome State Fault Refusal :=
  .next ((s.atTime t).modCh ch fun c => match c.dof.running with
    | some x =>
      if x.inTrim || !c.mem.svcOver x then c
      else ({ c with mem := c.mem.svcClear x, dof := { c.dof with running := none } } : Chan).svcEnd 0x00
    | none => c)

/-! ### Retired devices and a lost creel (R366, R367, R385) -/

/-- Delay sets of grade `g` brought into force. -/
def Mem.useGrade (m : Mem) (g : BitVec 2) : Mem :=
  { m with grade := g
           devs := ⟨((fin5).map fun d => { m.devs[d] with set := vget (vget m.sets g.toNat (Vector.replicate 5 {})) d.val {} }).toArray,
             by simp [fin5]⟩ }

/-- The fastest trained grade. -/
def Mem.fastest (m : Mem) : BitVec 2 := if bit m.trained 0 then 0 else if bit m.trained 1 then 1 else 2

/-- With the grade back at DDR5-6400, TOLL_GRADE clears (R439). -/
def Chan.gradeBack (c : Chan) : Chan := { c with tlh := { c.tlh with tollGrade := c.tlh.tollGrade && c.mem.grade != 0 } }

/-- MEM_STAT.TRAIN and the grade after a training that was aborted (R481); its reads are done with. -/
def Mem.trainAborted (m : Mem) : Mem :=
  { m.dropUses [.train] with train := if m.trained = 0 then .none else .ready }.useGrade m.fastest

def Chan.trainAborted (c : Chan) : Chan := ({ c with mem := c.mem.trainAborted } : Chan).gradeBack

/-- What the loss of the creel ends: a grade change that has not reached its blackout, and memory services (R385, R387). -/
def Chan.creelEnds (c : Chan) : Chan :=
  let black := c.mem.inBlackout
  let c := if black then { c with mem := { c.mem with nextChange := none } }
    else { c with mem := { c.mem with change := none, nextChange := none }, tlh := { c.tlh with stepPending := 0 } }
  let c := match c.dof.running with
    | some x =>
      if x.isMem then
        let c := { c with dof := { c.dof with running := none } }
        (if c.mem.train = TrainState.initial then c.trainAborted else c).svcEnd 0x11
      else c
    | none => c
  let n := (c.dof.queue.filter Service.isMem).length
  (upTo n).foldl (fun c _ => c.svcEnd 0x11) { c with dof := { c.dof with queue := c.dof.queue.filter fun x => !x.isMem } }

/-- The native sample handed over last by instant `now`. -/
def Chan.lastHanded (c : Chan) (now : Tbu) : Int × Int :=
  olderSample c.mem (c.passRec :: c.ply.past) (min ((c.handed (cycleOf now) : Int) - 1) ((c.ply.cur.len : Int) - 1))

/-- The creel returns no data from instant `now` on: what has been put out stands, and creel-direct play holds the last sample handed
over (R385; log entry 72). -/
def Chan.dataEnds (c : Chan) (now : Tbu) : Chan :=
  let c := c.outTo (q16 now)
  if c.mem.degraded && c.mem.bobLostAt.isNone && c.mod.state == .run && c.seq.playing then
    { c with ply := { c.ply with heldVal := some (c.lastHanded now) } }
  else c

/-- The creel becomes LOST (R367, R377, R484); a TRAIN in progress ends with it, and its channel leaves TRIM (R387). -/
def State.creelLost (s : State) (ch : ChanId) (detail : Nat) : State :=
  let training := (s.ch ch).dof.running == some (.train false)
  let s := s.modCh ch fun c =>
    let c := c.dataEnds s.now
    let c := ({ c with mem := { c.mem with creel := .lost }, flt := { c.flt with creelLost := true } } : Chan).memEvent MemEv.creelLost
    c.creelEnds
  (if training then s.leaveTrim ch else s).unmasked ch 0x23 detail

/-- The Doffer runs: it is neither restarting nor lost (R481). -/
def Chan.doffing (c : Chan) : Bool := !c.dof.restarting && !c.flt.dofferLost

/-- The next rescue that waits begins (R381). -/
def Mem.nextRescue (m : Mem) : Mem :=
  match m.rescues with
  | d :: r => { m with visit := some { dev := d, pauses := 0, rescue := true }, rescues := r }
  | [] => { m with visit := none }

/-- The controller retires device `d` (R366); a visit to it ends, and what it kept waiting starts. -/
def Chan.retireDev (c : Chan) (d : Fin 5) (why : Byte) (now : Tbu) : Chan :=
  let m := c.mem
  let m : Mem := { m with
    retired := setBit m.retired d.val
    devs := vmod m.devs d fun x => { x with why := why, posted := [], scratch := false }
    excused := m.excused.filter fun e => e.dev != d
    waiting := m.waiting.filter fun e => e.dev != d
    visit := m.visit.filter fun v => v.dev != d
    postVisits := m.postVisits.filter (· != d), rescues := m.rescues.filter (· != d)
    creel := if m.creel = .normal then .reduced else m.creel }
  let m := if c.mem.visit.isSome && m.visit.isNone then m.nextRescue else m
  ({ c with mem := m.startWaiting now, flt := { c.flt with creel := true } } : Chan).memEvent MemEv.retired

/-- Retire device `d`: a covered fault while the creel is NORMAL, its loss while REDUCED (R366, R367, R478, R484). -/
def State.retire (s : State) (ch : ChanId) (d : Fin 5) (why : Byte) : State :=
  let detail := d.val + 256 * why.toNat
  let was := (s.ch ch).mem.creel
  let second := s.degraded ch
  let s := s.modCh ch fun c => c.retireDev d why s.now
  match was with
  | .normal => (s.covered ch 0x04 detail 0 second).bobCreel ch detail
  | .reduced => s.creelLost ch detail
  | .lost => s

/-- DEVICE_TIMEOUT (R366): a device excused for more than 2 µs is retired. DEDUCED (log entry 61): one excused for its rescue is
not, since the rescue of R379 lasts longer than that, unless no Doffer is left to rescue it. -/
def execDeviceTimeout (t : Tbu) (ch : ChanId) (d : Fin 5) (s : State) : Host.Outcome State Fault Refusal :=
  .next ((s.atTime t).ifCreel fun s =>
    let c := s.ch ch
    if c.mem.excused.any fun e =>
      e.dev == d && (e.why != .verify || c.flt.dofferLost) && decide (e.since + 2 * us < s.now) then (s.retire ch d 2).drainOn ch
    else s)

/-! ### Creel training (R376, R377) -/

/-- Width of an eye, and its midpoint (rounded down; log entry 62), in steps. -/
def eyeWidth (e : BitEye) : Nat := e.right.toNat - e.left.toNat
def eyeMid (e : BitEye) : Byte := BitVec.ofNat 8 ((e.left.toNat + e.right.toNat) / 2)

/-- The narrowest of eight eyes. -/
def narrowest (v : Vector BitEye 8) : Byte := BitVec.ofNat 8 (v.toList.foldl (fun a e => min a (eyeWidth e)) 255)

/-- A measured delay set. -/
def eyeSet (e : EyeReport) : DelaySet :=
  { rc := eights fun i => eyeMid e.read[i], wc := eights fun i => eyeMid e.write[i], vref := e.vref
    eyeR := narrowest e.read, eyeW := narrowest e.write }

/-- MIN_EYE (R389). -/
def Mem.minEye (m : Mem) : Nat := fld m.cfg 8 8

/-- Every eye of a report is wide enough (R376, R379). -/
def Mem.eyesOk (m : Mem) (e : EyeReport) : Bool :=
  decide (m.minEye ≤ (narrowest e.read).toNat) && decide (m.minEye ≤ (narrowest e.write).toNat)

/-- The grades that MEM_CFG.GRADES permits. -/
def Mem.permits (m : Mem) (g : Nat) : Bool := bit m.cfg (40 + g)

def grades : List Nat := [0, 1, 2]

/-- Device `d` passes grade `g`: its steps (`p` holds the devices that passed them at each grade) and, at the verification,
the width of its eyes (R376, step 8). -/
def Mem.passes (m : Mem) (p : Vector (BitVec 5) 3) (eyes : List EyeReport) (g : Nat) (d : Fin 5) : Bool :=
  bit (vget p g 0) d.val && (eyes[5 * g + d.val]?).any m.eyesOk

/-- The devices that fail every permitted grade. -/
def Mem.failEvery (m : Mem) (p : Vector (BitVec 5) 3) (eyes : List EyeReport) : List (Fin 5) :=
  fin5.filter fun d => !bit m.retired d.val && (grades.filter m.permits).all fun g => !m.passes p eyes g d

/-- Grade `g` is trained: permitted, and passed by every device not retired. -/
def Mem.trainsAt (m : Mem) (p : Vector (BitVec 5) 3) (eyes : List EyeReport) (g : Nat) : Bool :=
  m.permits g && fin5.all fun d => bit m.retired d.val || m.passes p eyes g d

/-- Grade `g` has passed its verification: its new delay sets, and its TRAINED_GRADES bit (R376). -/
def Mem.gradePassed (m : Mem) (eyes : List EyeReport) (g : Nat) : Mem :=
  let set := fin5.foldl (fun v d => match eyes[5 * g + d.val]? with
    | some e => vput v d (eyeSet e)
    | none => v) (vget m.sets g (Vector.replicate 5 {}))
  { m with trained := setBit m.trained g, sets := vputN m.sets g set }

/-- What training leaves of each permitted grade: its delay sets where it is trained, and its TRAINED_GRADES bit (R376, R377). -/
def Mem.trainSets (m : Mem) (p : Vector (BitVec 5) 3) (eyes : List EyeReport) : Mem :=
  grades.foldl (fun m g =>
    if m.trainsAt p eyes g then m.gradePassed eyes g
    else if m.permits g then { m with trained := clrBit m.trained g } else m) m

/-- What an aborted training leaves: the grades verified before keep what they found, every other what it had (R481). -/
def Mem.keepPassed (m : Mem) (p : Vector (BitVec 5) 3) (eyes : List EyeReport) : Mem :=
  grades.foldl (fun m g => if m.trainsAt p eyes g then m.gradePassed eyes g else m) m

/-- Training has passed: the trained grades and their sets, and the creel at the fastest (R376); the interval to the first visit
begins (R378). -/
def Mem.trainOk (m : Mem) (p : Vector (BitVec 5) 3) (eyes : List EyeReport) (now : Tbu) : Mem :=
  let m := m.trainSets p eyes
  ({ m with train := .ready, visitAt := now, events := evSet m.events MemEv.trained } : Mem).useGrade m.fastest

/-- The outcome of training: the retirement of one device that failed throughout, and success or failure (R377). -/
def State.trainResult (s : State) (ch : ChanId) (p : Vector (BitVec 5) 3) (eyes : List EyeReport) : State :=
  let m := (s.ch ch).mem
  let fail := m.failEvery p eyes
  let s := match fail with
    | [d] => if grades.any fun g => m.permits g && fin5.all fun e => e == d || bit m.retired e.val || m.passes p eyes g e
        then s.retire ch d 3 else s
    | _ => s
  let m := (s.ch ch).mem
  if fail.length < 2 ∧ grades.any (m.trainsAt p eyes) ∧ m.creel ≠ .lost then
    s.modCh ch fun c => ({ c with mem := c.mem.trainOk p eyes s.now } : Chan).gradeBack
  else
    let s := s.modCh ch fun c => ({ c with mem := { c.mem.trainSets p eyes with train := .failed } } : Chan).memEvent MemEv.trainFail
    if m.creel = .lost then s else s.creelLost ch 0xFF

/-- TRAINED (R376, R377): the training in progress ends; a TRAIN that loses the creel has ended with it (R387). -/
def execTrained (t : Tbu) (ch : ChanId) (pass0 pass1 pass2 : BitVec 5) (eyes : List EyeReport) (s : State) :
    Host.Outcome State Fault Refusal :=
  let s := s.atTime t
  .next (match (s.ch ch).dof.running with
    | some (.train i) =>
      if (s.ch ch).tlh.granted then
        let s := s.trainResult ch #v[pass0, pass1, pass2] eyes
        if (s.ch ch).dof.running.isNone then s
        else
          let s := s.modCh ch fun c =>
            let c := { c with dof := { c.dof with initial := c.dof.initial && !i } }
            if i then c else c.svcEnd 0x00
          s.leaveTrim ch
      else s
    | _ => s)

/-! ### Visits and rescues (R378, R379, R382) -/

/-- RETRAIN_MS in tbu; outside 20 to 500 it acts as the nearer end (R378). -/
def Mem.visitGap (m : Mem) : Nat := min 500 (max 20 (fld m.cfg 16 16)) * ms

/-- A visit may open: trained, no window or rescue open, and no grade change past its wait (R378, R381). -/
def Chan.mayVisit (c : Chan) : Bool :=
  c.mem.train == .ready && c.mem.visit.isNone && !c.mem.preparing && c.doffing

/-- The next device from `d` on that is not retired. -/
def Mem.nextLive (m : Mem) (d : Fin 5) : Option (Fin 5) := ([d, d + 1, d + 2, d + 3, d + 4] : List (Fin 5)).find? fun e => !bit m.retired e.val

/-- A gather window opens on device `d`. -/
def Mem.openVisit (m : Mem) (d : Fin 5) (now : Tbu) : Mem :=
  { m with visit := some { dev := d, pauses := 0, rescue := false }, visitAt := now }

/-- RETRAIN_VISIT (R378): RETRAIN_MS after the last visit, a gather window opens on the next device. -/
def execRetrainVisit (t : Tbu) (ch : ChanId) (s : State) : Host.Outcome State Fault Refusal :=
  .next ((s.atTime t).ifCreel fun s => s.modCh ch fun c =>
    if c.mayVisit && c.mem.postVisits.isEmpty && decide (c.mem.visitAt + c.mem.visitGap ≤ s.now) then
      match c.mem.nextLive c.mem.nextDev with
      | some d => { c with mem := { c.mem.openVisit d s.now with nextDev := d + 1 } }
      | none => c
    else c)

/-- POST_BLACKOUT_VISIT (R382): from 1 ms after a blackout, one visit to each device, 1 ms apart. -/
def execPostBlackoutVisit (t : Tbu) (ch : ChanId) (s : State) : Host.Outcome State Fault Refusal :=
  .next ((s.atTime t).ifCreel fun s => s.modCh ch fun c =>
    if c.mayVisit && c.mem.postAt.all (fun b => decide (b ≤ s.now)) then
      match c.mem.postVisits with
      | d :: r => { c with mem := { c.mem.openVisit d s.now with postVisits := r, postAt := some (s.now + ms) } }
      | [] => c
    else c)

/-- A pause of device `d` is in progress, or waits. -/
def Mem.pausing (m : Mem) (d : Fin 5) : Bool := (m.excused ++ m.waiting).any fun e => e.dev == d && e.why == .pause

/-- Device `d` is excused because its verification failed (R381). -/
def Mem.verifying (m : Mem) (d : Fin 5) : Bool := m.excused.any fun e => e.dev == d && e.why == .verify

/-- The next pause of a visit may fall due: 50 µs after the last, and while no grade change prepares, but for a device that is
excused until its rescue ends (R378, R379, R381). -/
def Mem.pauseDue (m : Mem) (v : Visit) (now : Tbu) : Bool :=
  decide (v.pauses < (if v.rescue then 16 else 4)) && v.pauseAt.all (fun p => decide (p + 50 * us ≤ now))
    && !m.pausing v.dev && (!m.preparing || m.verifying v.dev)

/-- RETRAIN_PAUSE (R378): the device visited is excused for every bank, when R362 allows. -/
def execRetrainPause (t : Tbu) (ch : ChanId) (s : State) : Host.Outcome State Fault Refusal :=
  .next ((s.atTime t).ifCreel fun s => s.modMem ch fun m => match m.visit with
    | some v =>
      if m.pauseDue v s.now then
        let m := { m with visit := some { v with pauses := v.pauses + 1, pauseAt := some s.now } }
        if m.verifying v.dev then { m with devs := vmod m.devs v.dev fun x => { x with scratch := true } }
        else m.excusalDue { dev := v.dev, bank := none, since := s.now, why := .pause }
      else m
    | none => m)

/-- A centre moves towards its new value by at most 2 steps (R379). -/
def moveCentre (old new : Byte) : Byte :=
  if old.toNat + 2 < new.toNat then old + 2 else if new.toNat + 2 < old.toNat then old - 2 else new

/-- A delay set for device `d` comes into force and is kept for the grade. -/
def Mem.applySet (m : Mem) (d : Fin 5) (x : DelaySet) : Mem :=
  { m with devs := vmod m.devs d fun v => { v with set := x }
           sets := if h : m.grade.toNat < 3 then vmod m.sets ⟨m.grade.toNat, h⟩ fun v => vput v d x else m.sets }

/-- The set of a device after a visit: each bit's centre moves towards the midpoint of its measured edges (R379). -/
def movedSet (old : DelaySet) (e : EyeReport) : DelaySet :=
  { eyeSet e with rc := eights fun i => moveCentre old.rc[i] (eyeMid e.read[i])
                  wc := eights fun i => moveCentre old.wc[i] (eyeMid e.write[i]), vref := old.vref }

/-- The gather window ends: discarded for a grade change, a rescue, or the centres move (R379, R381). -/
def Mem.gatherEnd (m : Mem) (odo : Word) (v : Visit) (e : EyeReport) : Mem :=
  if m.change.isSome then
    { m with visit := none, events := evSet (evSet m.events MemEv.speedDeferred) MemEv.retrainDiscard }
  else if !m.eyesOk e || !e.edges then
    { m with visit := some { dev := v.dev, pauses := 0, rescue := true, pauseAt := v.pauseAt } }
  else { m.applySet v.dev (movedSet (m.devs[v.dev]).set e) with visit := none, trnLast := odo }

/-- GATHER_WINDOW_END (R379), after the fourth pause. -/
def execGatherWindowEnd (t : Tbu) (ch : ChanId) (eyes : EyeReport) (s : State) : Host.Outcome State Fault Refusal :=
  .next ((s.atTime t).ifCreel fun s => s.modMem ch fun m => match m.visit with
    | some v => if !v.rescue ∧ v.pauses = 4 ∧ !m.pausing v.dev then m.gatherEnd s.trk.odo v eyes else m
    | none => m)

/-- A rescue has found eyes: they are applied, and the device serves again (R379, R381). -/
def Mem.rescued (m : Mem) (im : ChImage) (odo : Word) (v : Visit) (e : EyeReport) (now : Tbu) : Mem :=
  let m : Mem := { m.applySet v.dev (eyeSet e) with
    trnLast := odo, excused := m.excused.filter fun e => !(e.dev == v.dev && e.why == .verify) }
  ((m.replay im v.dev).nextRescue).startWaiting now

/-- RESCUE_END (R379): the eyes found are applied, or the device is retired. -/
def execRescueEnd (t : Tbu) (ch : ChanId) (eyes : EyeReport) (s : State) : Host.Outcome State Fault Refusal :=
  .next ((s.atTime t).ifCreel fun s =>
    let m := (s.ch ch).mem
    match m.visit with
    | some v =>
      if !v.rescue ∨ v.pauses = 0 ∨ m.pausing v.dev then s
      else if m.eyesOk eyes then
        s.modCh ch fun c => ({ c with mem := c.mem.rescued c.skn.image s.trk.odo v eyes s.now } : Chan).memEvent MemEv.rescue
      else s.retire ch v.dev 1
    | none => s)

/-! ### Speed grades (R380, R381) -/

/-- The first code of R380 that applies to a grade request. -/
def Chan.speedTest (c : Chan) (g : BitVec 2) : Byte :=
  let m := c.mem
  let training := c.dof.initial || (match c.dof.running with
    | some (.train _) => true
    | _ => false)
  if !c.configured then 0x01
  else if g = 3 then 0x03
  else if training then 0x02
  else if !m.permits g.toNat || !bit m.trained g.toNat then 0x04
  else if m.degraded || m.creel == .lost then 0x05
  else if g = m.grade ∧ m.change.isNone then 0x06
  else 0

/-- A grade request of the host (`toll` false) or the Tollhouse (R380, R439). -/
def Chan.speedRequest (c : Chan) (g : BitVec 2) (toll : Bool) : Chan :=
  let code := c.speedTest g
  let c := { c with mem := { c.mem with speedResult := code, speedSrc := toll } }
  if code ≠ 0 then c
  else
    let x : GradeChange := { grade := g, toll := toll }
    let c := if toll then c else { c with tlh := { c.tlh with tollGrade := false } }
    if c.mem.preparing then { c with mem := { c.mem with nextChange := some x } }
    else
      let c := if toll then c else { c with tlh := { c.tlh with stepPending := 0 } }
      { c with mem := { c.mem with change := some x } }

/-- SPEED_REQUEST (R380): a write of MEM_SPEED_CMD with GO. -/
def execSpeedRequest (t : Tbu) (ch : ChanId) (grade : BitVec 2) (s : State) : Host.Outcome State Fault Refusal :=
  .next ((s.atTime t).ifWindow fun s => s.modCh ch fun c => c.speedRequest grade false)

/-- Give the change in progress a phase. -/
def Mem.setPhase (m : Mem) (p : SpeedPhase) : Mem := { m with change := m.change.map fun (g : GradeChange) => { g with phase := p } }

/-- The Wait phase may end: no gather window, and 1 ms since the previous blackout (R381). -/
def Mem.waitOver (m : Mem) (now : Tbu) : Bool :=
  m.change.any (·.phase == .wait) && !m.visit.any (fun v => !v.rescue) && m.blackoutEnd.all fun b => decide (b + ms ≤ now)

/-- SPEED_PREPARE (R381). -/
def execSpeedPrepare (t : Tbu) (ch : ChanId) (s : State) : Host.Outcome State Fault Refusal :=
  .next ((s.atTime t).ifCreel fun s => s.modMem ch fun m => if m.waitOver s.now then m.setPhase .prepare else m)

/-- No device is excused and every write buffer is empty (R381). -/
def Mem.quiet (m : Mem) : Bool := m.excused.isEmpty && fin5.all fun d => (m.devs[d]).posted.isEmpty

/-- BLACKOUT (R381): every bank is precharged. -/
def execBlackout (t : Tbu) (ch : ChanId) (s : State) : Host.Outcome State Fault Refusal :=
  .next ((s.atTime t).ifCreel fun s => s.modMem ch fun m =>
    if m.change.any (·.phase == .prepare) && m.quiet then fin5.foldl (fun m d => m.closeRows d none) (m.setPhase .blackout) else m)

/-- Service resumes at the new grade; devices that failed their verification are excused, as far as R362 allows, and rescued
(R381, R382). -/
def Chan.speedDone (c : Chan) (now : Tbu) (failed : BitVec 5) : Chan :=
  match c.mem.change with
  | none => c
  | some g =>
    let live := fin5.filter fun d => !bit c.mem.retired d.val
    let m := c.mem.useGrade g.grade
    let m := { m with
      change := m.nextChange, nextChange := none, blackoutEnd := some now, postAt := some (now + ms), postVisits := live
      rescues := m.rescues ++ live.filter fun (d : Fin 5) => bit failed d.val
      events := evSet m.events MemEv.speedDone }
    let m := if m.visit.isNone && c.doffing then m.nextRescue else m
    let m := (live.filter fun (d : Fin 5) => bit failed d.val).foldl
      (fun m d => m.excusalDue { dev := d, bank := none, since := now, why := .verify }) m
    ({ c with mem := m.startWaiting now, tlh := { c.tlh with stepPending := if g.toll then 0 else c.tlh.stepPending } } : Chan).gradeBack

/-- SPEED_DONE (R381). -/
def execSpeedDone (t : Tbu) (ch : ChanId) (failed : BitVec 5) (s : State) : Host.Outcome State Fault Refusal :=
  .next ((s.atTime t).ifCreel fun s => s.modCh ch fun c => if c.mem.inBlackout then c.speedDone s.now failed else c)

/-! ### A lost bobbin device (R479, R480) -/

/-- A bobbin device is lost: both are isolated and empty, WAV holds, markers go low, heads are abandoned. -/
def Chan.bobLost (c : Chan) (now : Tbu) (device : Fin 2) : Chan :=
  let run := c.mod.state == .run && c.seq.playing
  let c := c.dstTo (q16 now)
  ({ c with
    dst := { c.dst with shortCut := {} }
    mem := { c.mem.dropUses [.head, .ahead, .fill, .pin, .again, .direct] with
      again := [], bobLostAt := some now, bobDevice := device, bobSecond := c.flt.degraded, bobInRun := run
      cache := [], heads := [], holding := false, cacheFull := false }
    ply := if run then
        let p := (c.outTo (q16 now)).ply
        { p with wav := if c.ply.frozen && c.ply.wav == .zero then .zero else .hold, markers := Vector.replicate 4 .low
                 heldVal := some (c.lastHanded now), gapBob := {} }
      else { c.ply with gapBob := {} } } : Chan).noteGaps (q16 now)

/-- A read of the line in a slot met an address-parity error: the read is discarded and the line fetched again (R479). -/
def Mem.parityError (m : Mem) (now : Tbu) (device : Fin 2) (slot : Nat) : Mem :=
  { m with parityAt := vmod m.parityAt device fun l => l.filter (fun t => decide (now ≤ t + us)) ++ [now]
           again := if m.again.contains slot then m.again else m.again ++ [slot] }

/-- What is seen of a device declares it lost: of address-parity errors, four within 1 µs (R479). -/
def Mem.declaresLost (m : Mem) (now : Tbu) (device : Fin 2) : BobLoss → Bool
  | .parityError k => decide (4 ≤ ((m.parityError now device k.toNat).parityAt[device]).length)
  | .noData | .echoAbsent => true

/-- BOBBIN_DEVICE_LOST (R479): the device is lost, or, below the threshold, the line read is fetched again. The loss of the second
device changes nothing further. -/
def execBobbinDeviceLost (t : Tbu) (ch : ChanId) (device : Fin 2) (why : BobLoss) (s : State) : Host.Outcome State Fault Refusal :=
  let s := s.atTime t
  .next (s.modCh ch fun c =>
    if c.mem.degraded || c.mem.bobLostAt.isSome then c
    else if c.mem.declaresLost s.now device why then c.bobLost s.now device
    else match why with
      | .parityError k => { c with mem := c.mem.parityError s.now device k.toNat }
      | .noData | .echoAbsent => c)

/-- The first retired creel device with its reason, as DETAIL shows them (R490). -/
def Mem.retiredDetail (m : Mem) : Nat :=
  match fin5.find? fun d => bit m.retired d.val with
  | some d => d.val + 256 * (m.devs[d]).why.toNat
  | none => 0

/-- What WAV and the markers carry when creel-direct data arrives in a pass. -/
def Chan.resumePass (c : Chan) (now : Tbu) : Chan :=
  let c := (c.outTo (q16 now)).rebase (q16 now)
  let c : Chan := { c with mem := { c.mem with bobLostAt := none }
                           ply := { c.ply with heldVal := if c.mem.creel = .lost then c.ply.heldVal else none } }
  let c := c.noteGaps (q16 now)
  if c.mod.state = .run ∧ c.seq.playing ∧ !c.seq.late then
    let zero := c.ply.frozen && c.ply.stopZero && c.trk.state == .stopped
    { c with ply := { c.ply with
      wav := if zero then .zero else if c.seq.kind == .holdLast || c.ply.frozen then .hold else .route
      markers := if zero then Vector.replicate 4 .low else c.ply.passMk
      events := evIf (!c.ply.lock && c.overRate) c.ply.events PlyEv.overrate } }
  else c

/-- OUTPUT_RESUME (R480): masking is complete, and its record is written (R477, R489); a blackout in progress ends first (R388). -/
def execOutputResume (t : Tbu) (ch : ChanId) (s : State) : Host.Outcome State Fault Refusal :=
  let s := s.atTime t
  let m := (s.ch ch).mem
  .next (match m.bobLostAt with
    | some _ =>
      if m.degraded && !m.inBlackout then
        (s.modCh ch fun c => c.resumePass s.now).covered ch 0x01 m.bobDevice.val (if m.bobInRun then ((s.ch ch).dstTo (q16 s.now)).bobGap s.now else 0) m.bobSecond
      else s
    | none => s)

/-! ### Doffer stalls (R481) -/

/-- A channel of the restore in progress is done with it (R450). -/
def State.restoreReturn (s : State) (ch : ChanId) (bad : Bool) : State :=
  { s with vlt := { s.vlt with restoring := clrBit s.vlt.restoring ch.val, restoreBad := s.vlt.restoreBad || bad } }

/-- The service `x` is aborted by a stall. -/
def State.abortService (s : State) (ch : ChanId) (x : Service) : State :=
  let s := s.modCh ch fun c => if x.isMem then c.svcEnd 0x12 else c
  match x with
  | .calRun p => s.modCh ch fun c => c.calAbort p
  | .train _ => s.modCh ch Chan.trainAborted
  | .restore .. => s.restoreReturn ch true
  | _ => s

/-- A stall ends the visit or rescue that the Doffer was about: its window is lost, a rescue after a failed verification is still to
come (R481; DEDUCED, log entry 44). -/
def Mem.visitStalled (m : Mem) : Mem :=
  { m with visit := none, waiting := m.waiting.filter fun e => e.why != .pause
           rescues := (m.visit.toList.filter fun v => m.verifying v.dev).map (·.dev) ++ m.rescues }

/-- The service in progress is aborted; a training keeps the grades it had verified; the channel leaves TRIM, but for initial
training, which runs again from its first step. -/
def State.stallAbort (s : State) (seen : StallSeen) : State :=
  let ch := seen.ch
  match (s.ch ch).dof.running with
  | none => s
  | some x =>
    let s := s.modMem ch fun m => if m.train == .initial then m.keepPassed seen.pass seen.eyes else m
    let s := s.abortService ch x
    if !x.inTrim then s.modCh ch fun c => { c with dof := { c.dof with running := none } }
    else match x with
      | .train true => s.modCh ch fun c => { c.releaseGrant with dof := { c.dof with running := none, queue := .train true :: c.dof.queue } }
      | _ => s.leaveTrim ch

/-- After DOFFER_LOST no service runs: those queued end as aborted, and the channel leaves TRIM (log entry 33). -/
def State.dropServices (s : State) (ch : ChanId) : State :=
  let l := (s.ch ch).dof.queue
  let s := l.foldl (fun s x => s.abortService ch x) (s.modCh ch fun c => { c with dof := { c.dof with queue := [], initial := false } })
  if (s.ch ch).mod.state = .trim then s.leaveTrim ch else s

/-- DOFFER_STALL (R481): no heartbeat for 10 ms. The first stall is masked by a restart; a second is DOFFER_LOST. -/
def execDofferStall (t : Tbu) (seen : StallSeen) (s : State) : Host.Outcome State Fault Refusal :=
  let s := s.atTime t
  let ch := seen.ch
  let c := s.ch ch
  .next (if !c.doffing || !c.configured then s
    else
      let second := s.degraded ch
      let s := (s.stallAbort seen).modMem ch Mem.visitStalled
      if c.dof.stalls = 0 then
        (s.modCh ch fun c => { c with dof := { c.dof with stalls := 1, restarting := true }, flt := { c.flt with doffer := true } }).covered
          ch 0x08 0 0 second
      else
        let s := s.modCh ch fun c => { c with dof := { c.dof with stalls := 2 }, flt := { c.flt with dofferLost := true } }
        (s.dropServices ch).unmasked ch 0x24 0)

/-- DOFFER_RESTART_DONE (R481): the retraining schedule resumes, with a rescue that is still to come. -/
def execDofferRestartDone (t : Tbu) (ch : ChanId) (s : State) : Host.Outcome State Fault Refusal :=
  .next ((s.atTime t).modCh ch fun c =>
    { c with dof := { c.dof with restarting := false }
             mem := if c.dof.restarting && c.mem.visit.isNone then c.mem.nextRescue else c.mem })

end Sys2Proof.Machine
end

