-- ==== Sys2Proof/Machine/Calibration.lean ====
section
/-! DEFINITION. Calibration: banks and records, commits, runs, the outcomes of procedures and the DAC trim loop, with what
a loss of REF does to a run in progress (R455 to R476, R28, R29). -/

namespace Sys2Proof.Machine

def Chan.calEvent (c : Chan) (k : Nat) : Chan := { c with cal := { c.cal with events := evSet c.cal.events k } }

/-- ID_STEPPING of stepping B1 (R3). -/
def idStepping : Byte := 0x21

/-! ### Records (R456) -/

/-- The content of a bank. -/
def Cal.bank (k : Cal) (b : Fin 2) : Sparse Word := k.banks[b]

/-- `n` bytes of a record from offset `off`. -/
def recBytes (b : Sparse Word) (off n : Nat) : List Byte := (upTo n).map fun i => recByte b (off + i)

/-- One byte of a record replaced. -/
def recPutByte (b : Sparse Word) (off : Nat) (x : Byte) : Sparse Word :=
  let w := sget 0 b (off / 8)
  let lo := 8 * (off % 8)
  sput 0 b (off / 8) ((w &&& ~~~(word (0xFF * 2 ^ lo))) ||| word (x.toNat * 2 ^ lo))

/-- Bytes of a record replaced from offset `off` on. -/
def recPut (b : Sparse Word) : Nat → List Byte → Sparse Word
  | _, [] => b
  | off, x :: r => recPut (recPutByte b off x) (off + 1) r

/-- "AGYCALIB" (R456). -/
def calMagic : Nat := 0x42494C4143594741

/-- The CRC of a record's content. -/
def recCrc (b : Sparse Word) : BitVec 32 := crc32 (recBytes b 0 0x3C ++ recBytes b 0x40 0x1FC0)

/-- The parts of the sections, in the bit order of SECTIONS: offset and length in bytes. -/
def calSection (k : Nat) : List (Nat × Nat) :=
  if k = 0 then [(0x40, 126), (0xC0, 20)] else if k = 1 then [(0x200, 4096)] else if k = 2 then [(0x1200, 1024)] else [(0x100, 68)]

def allZero (b : Sparse Word) (r : Nat × Nat) : Bool := (recBytes b r.1 r.2).all (· == 0)

/-- Element `i` of an array of 16-bit signed fields. -/
def recField (b : Sparse Word) (off i : Nat) : Int := signed (recNum b (off + 2 * i) 2) 16

/-- Each CELL and RUNG of a record lies within its bound (R459, order 12). -/
def dacLimits (b : Sparse Word) : Bool :=
  ((upTo 63).all fun i => cellOk (recField b 0x40 i)) && (upTo 10).all fun i => rungOk i (recField b 0xC0 i)

/-- Each SKEW lies within its bound. -/
def skewLimits (b : Sparse Word) : Bool := (upTo 34).all fun i => decide ((recField b 0x100 i).natAbs ≤ 1024)

/-- Each BIN lies within its bound. -/
def binLimits (b : Sparse Word) : Bool := (upTo 2560).all fun i => decide ((recField b 0x200 i).natAbs ≤ 512)

/-- The RANGE conditions of order 12 hold. -/
def recRangeOk (b : Sparse Word) : Bool :=
  [(0x0B, 5), (0x1C, 4), (0x30, 12), (0xBE, 2), (0xD4, 44), (0x144, 188), (0x1600, 2560)].all (allZero b)
    && ([0, 1, 2, 3].all fun k => bit (recByte b 0x0A) k || (calSection k).all (allZero b))
    && dacLimits b && skewLimits b && binLimits b

/-- Orders 8 to 12 of R459 for a record; `key` is the CRC that the commit word names, if one does. -/
def recTest (b : Sparse Word) (key : Option (BitVec 32)) : Byte :=
  let crc := BitVec.ofNat 32 (recNum b 0x3C 4)
  if recNum b 0 8 ≠ calMagic ∨ recByte b 9 ≠ 1 then 0x30
  else if recByte b 8 ≠ idStepping then 0x31
  else if word (recNum b 0x10 8) ≠ Config.idSerial then 0x32
  else if crc ≠ recCrc b ∨ key.any (· != crc) then 0x33
  else if !recRangeOk b then 0x34 else 0

/-! ### Commits (R459, R460) -/

/-- A commit is accepted: the bank is active, and the background loops start again from 0 (R460). -/
def Chan.commitBank (c : Chan) (b : Fin 2) : Chan :=
  ({ c with
    cal := { c.cal with active := if b = 0 then 1 else 2, dacTrack := Vector.replicate 64 0, dacStop := 0 }
    dst := { c.dst with laneTrack := Vector.replicate 24 0, trackStop := 0 } } : Chan).calEvent CalEv.committed

/-- A run is queued or in progress for the channel. -/
def Doffer.calQueued (d : Doffer) : Bool := d.queue.any Service.isCal || d.running.any Service.isCal

/-- The reserved bits of CAL_CMD (R476). -/
def calReserved : Nat := 0xFFFEF8F0

/-- The first code of R459 that applies to a write of CAL_CMD. -/
def State.calTest (s : State) (ch : ChanId) (v : Word) : Byte :=
  let c := s.ch ch
  let run := fld v 0 4 == 1
  let proc := fld v 8 3
  let b : Fin 2 := if bit v 16 then 1 else 0
  if !c.configured then 0x01
  else if (!run && fld v 0 4 != 2) || (run && proc == 0) || keep v calReserved != 0 then 0x0A
  else if !s.working then 0x03
  else if c.mod.state ≠ .rest then 0x08
  else if (if run then decide (4 ≤ c.dof.holds) else c.dof.calQueued) then 0x02
  else if run && (!s.trk.tbLocked || (decide (4 ≤ proc) && c.trk.state != .locked)) then 0x09
  else if run then (if c.flt.dofferLost then 0x13 else 0)
  else if c.cal.active.toNat = b.val + 1 then 0x35
  else recTest (c.cal.bank b) (some (BitVec.ofNat 32 (fld v 32 32)))

/-- A write of CAL_CMD: tested under R459, and acted on. -/
def State.calCommand (s : State) (ch : ChanId) (v : Word) : State :=
  let code := s.calTest ch v
  s.modCh ch fun c =>
    let c := { c with cal := { c.cal with resultCmd := BitVec.ofNat 4 (fld v 0 4), result := code } }
    if code ≠ 0 then (if fld v 0 4 = 2 then c.calEvent CalEv.commitRefused else c)
    else if fld v 0 4 = 1 then
      let c := if c.cal.state = 0 then { c with cal := { c.cal with state := 1 } } else c
      c.queueService (.calRun (BitVec.ofNat 3 (fld v 8 3)))
    else c.commitBank (if bit v 16 then 1 else 0)

/-- A CAL_CMD word with its CMD field replaced. -/
def withCmd (v : Word) (k : Nat) : Word := (v &&& ~~~(0xF : Word)) ||| word k

/-- CAL_RUN (R461): a write of CAL_CMD with CMD = 1. -/
def execCalRun (t : Tbu) (ch : ChanId) (v : Word) (s : State) : Host.Outcome State Fault Refusal :=
  .next ((s.atTime t).ifWindow fun s => s.calCommand ch (withCmd v 1))

/-- CAL_COMMIT (R459): a write of CAL_CMD with CMD = 2. -/
def execCalCommit (t : Tbu) (ch : ChanId) (v : Word) (s : State) : Host.Outcome State Fault Refusal :=
  .next ((s.atTime t).ifWindow fun s => s.calCommand ch (withCmd v 2))

/-- A write to a bank (R458). -/
def Chan.bankWrite (c : Chan) (b : Fin 2) (off : Nat) (v : Word) : Chan × Status :=
  if off % 8 ≠ 0 then (c, St.misaligned)
  else if c.mod.state = .trim ∨ c.cal.active.toNat = b.val + 1 then (c, St.locked)
  else ({ c with cal := { c.cal with banks := vmod c.cal.banks b fun x => sput 0 x (off / 8) v } }, St.normal)

/-- CAL_BANK_WRITE (R458). -/
def execCalBankWrite (t : Tbu) (ch : ChanId) (bank : Fin 2) (off : BitVec 13) (v : Word) (s : State) :
    Host.Outcome State Fault Refusal :=
  .next ((s.atTime t).ifWindow fun s => s.modCh ch fun c => (c.bankWrite bank off.toNat v).1)

/-! ### Runs (R462, R463) -/

/-- Put the measured bytes of procedure `p` into its parts, one after the other, and set its SECTIONS bit. -/
def putSection (b : Sparse Word) (p : Fin 4) (bytes : List Byte) : Sparse Word :=
  let pad := fun (l : List Byte) (n : Nat) => (l ++ List.replicate n 0).take n
  let r := (calSection p.val).foldl (fun (a : Sparse Word × List Byte) x => (recPut a.1 x.1 (pad a.2 x.2), a.2.drop x.2)) (b, bytes)
  recPutByte r.1 0x0A (setBit (recByte b 0x0A) p.val)

/-- What is written when at least one procedure was accepted: step 5 of R462. -/
def sealRecord (b : Sparse Word) (odo pos : Word) : Sparse Word :=
  let b := recPut b 0 (leBytes 8 calMagic ++ [idStepping, 1])
  let b := recPut b 0x10 (wordBytes Config.idSerial ++ leBytes 4 (recNum b 0x18 4 + 1))
  let b := recPut b 0x20 (wordBytes odo ++ wordBytes pos)
  recPut b 0x3C (leBytes 4 (recCrc b).toNat)

/-- A run ends: a commit when a procedure was accepted, the switches, the grant and REST (R462 steps 5 and 6). -/
def State.calFinish (s : State) (ch : ChanId) : State :=
  let s := s.modCh ch fun c => match c.cal.run with
    | some r =>
      if r.accepted then
        ({ c with cal := { c.cal with banks := vmod c.cal.banks r.bank fun x => sealRecord x r.odo r.pos } } : Chan).commitBank r.bank
      else c
    | none => c
  (s.modCh ch fun c => c.calAbort 0).leaveTrim ch

/-- A procedure is rejected. -/
def Chan.procReject (c : Chan) (p : Fin 4) (why : Byte) (detail statval : Nat) : Chan :=
  ({ c with cal := { c.cal.putResult p 2 why detail statval with rejected := satInc c.cal.rejected } } : Chan).calEvent CalEv.rejected

/-- A procedure is accepted, with DETAIL and STATVAL `x`: its sections replace those of the inactive bank. -/
def Chan.procAccept (c : Chan) (odo pos : Word) (p : Fin 4) (x : Nat × Nat) (b : Sparse Word) : Chan :=
  { c with cal := { c.cal.putResult p 1 0 x.1 x.2 with
    accepted := satInc c.cal.accepted
    run := c.cal.run.map fun (x : CalRunState) => { x with accepted := true, odo := odo, pos := pos }
    banks := match c.cal.run with
      | some x => vput c.cal.banks x.bank b
      | none => c.cal.banks } }

/-- Why procedure `p` of run `x` must end rejected whatever it measured, or 0: what happened meanwhile, a faulty monitor
for DAC (R482), a tracker that is not LOCKED for BINS_TRK and SKEW (R467, R469). -/
def Chan.procSpoilt (c : Chan) (x : CalRunState) (p : Fin 4) : Byte :=
  if x.spoilt[p] ≠ 0 then x.spoilt[p]
  else if p = 0 ∧ c.ana.monFaulty then 0x2D
  else if 2 ≤ p.val ∧ c.trk.state ≠ .locked then 0x2A
  else 0

/-- DETAIL of a rejection without a statistic: the interpolator of BINS_TRK (R456, R463). -/
def spoiltDetail (p : Fin 4) : Nat := if p = 2 then 4 else 0

/-- BIN[t][j] of the bank that run `x` fills: those of the active record, and those accepted earlier in the run (R462). -/
def Cal.runBin (k : Cal) (x : CalRunState) (t j : Nat) : Int := recField (k.bank x.bank) (0x200 + 0x400 * t) j

/-- The outcome of procedure `p` of run `x`: the first test that fails rejects it, else its sections take the measured values
(R463 to R469). -/
def Chan.procOutcome (c : Chan) (now : Tbu) (odo : Word) (x : CalRunState) (p : Fin 4) (r : ProcReport) : Chan :=
  if c.procSpoilt x p ≠ 0 then c.procReject p (c.procSpoilt x p) (spoiltDetail p) 0
  else match r.fails (c.cal.runBin x) p with
    | some f => c.procReject p f.why f.detail f.stat
    | none => c.procAccept odo (c.trk.live now) p (r.passed now p) (putSection (c.cal.bank x.bank) p (r.bytes (c.cal.runBin x) p))

/-- A procedure has ended: the next one starts. -/
def Chan.procNext (c : Chan) (p : Fin 4) : Chan :=
  let run := c.cal.run.map fun (x : CalRunState) => { x with left := x.left.filter (· != p) }
  ({ c with cal := { c.cal with run := run, state := match run with
    | some x => (x.left.head?.map procState).getD 6
    | none => c.cal.state } } : Chan).calSource

/-- The run of a channel has no procedure left. -/
def Chan.runOver (c : Chan) : Bool := c.cal.run.all fun x => x.left.isEmpty

/-- Without a locked time base the procedures in progress are rejected with CLOCK, and the run ends (R463). -/
def State.calClock (s : State) (ch : ChanId) : State :=
  match (s.ch ch).cal.run with
  | some x =>
    let s := s.modCh ch fun c => x.now.foldl (fun c p => (c.procReject p 0x29 (spoiltDetail p) 0).procNext p) c
    s.calFinish ch
  | none => s

/-- CAL_PROCEDURE_END (R462, R463): a procedure in progress ends with its outcome. -/
def execCalProcedureEnd (t : Tbu) (ch : ChanId) (p : Fin 4) (r : ProcReport) (s : State) : Host.Outcome State Fault Refusal :=
  let s := s.atTime t
  .next (match (s.ch ch).cal.run with
    | some x =>
      if !x.now.contains p then s
      else if !s.trk.tbLocked then s.calClock ch
      else
        let s := s.modCh ch fun c => (c.procOutcome s.now s.trk.odo x p r).procNext p
        if (s.ch ch).runOver then s.calFinish ch else s
    | none => s)

/-! ### The DAC trim loop (R471) -/

/-- The loop runs, cell `k` is the one whose turn it is, and 100 µs have passed since the last visit. -/
def Chan.trimDue (c : Chan) (now : Tbu) (k : Fin 64) : Bool :=
  bit c.cal.loopCfg 1 && c.sampleClock && c.mod.state != .trim && k == c.cal.trimCell
    && c.cal.trimAt.all fun a => decide (a + 100 * us ≤ now)

/-- The cell visited after cell `k`: the unary cells 1 to 63 in turn. -/
def nextCell (k : Fin 64) : Fin 64 := if k = 63 then 1 else k + 1

/-- The comparisons of a visit to cell `k`: `up` and `down` count those, of 1,024, that point either way. A cell that has stopped
stays as it is. -/
def Chan.trimCell (c : Chan) (k : Fin 64) (up down : Nat) : Chan :=
  if bit c.cal.dacStop k.val then c
  else
    let dir : Int := if 600 ≤ up then -1 else if 600 ≤ down then 1 else 0
    let v := c.cal.dacTrack[k] + dir
    let lim := decide (64 ≤ v.natAbs)
    { c with cal := { c.cal with
      dacTrack := vput c.cal.dacTrack k v
      dacStop := if lim then setBit c.cal.dacStop k.val else c.cal.dacStop
      events := evIf lim c.cal.events CalEv.dacLimit } }

/-- A visit of the loop: the cell whose turn it is, and then the next one has its turn. -/
def Chan.dacTrim (c : Chan) (now : Tbu) (k : Fin 64) (up down : Nat) : Chan :=
  if c.trimDue now k then
    let c := c.trimCell k up down
    { c with cal := { c.cal with trimCell := nextCell k, trimAt := some now } }
  else c

/-- DAC_TRIM_VISIT (R471). -/
def execDacTrimVisit (t : Tbu) (ch : ChanId) (cell : Fin 64) (up down : Nat) (s : State) : Host.Outcome State Fault Refusal :=
  let s := s.atTime t
  .next (s.modCh ch fun c => c.dacTrim s.now cell up down)

/-! ### Loss of REF (R28, R29, R463) -/

/-- A loss of REF, which every run in progress does not survive. -/
def State.refLossAll (s : State) : State := s.refLoss.forCh allCh fun s c => s.calClock c

/-- REF_WINDOW_END (R28, R29). -/
def execRefWindowEnd (t : Tbu) (count : Nat) (s : State) : Host.Outcome State Fault Refusal :=
  let s := s.atTime t
  .next (if s.powered then
      let s' := s.refWindow count
      if s.trk.present && !s'.trk.present then s'.forCh allCh fun s c => s.calClock c else s'
    else s)

/-- REF_EDGE_TIMEOUT (R29): no REF edge for four nominal periods. -/
def execRefEdgeTimeout (t : Tbu) (s : State) : Host.Outcome State Fault Refusal :=
  let s := s.atTime t
  .next (if s.powered && s.trk.present then s.refLossAll else s)

end Sys2Proof.Machine
end

