-- ==== Sys2Proof/Machine/SkeinCheck.lean ====
section
/-! DEFINITION. The checks of a skein stream: header, directory, sections, records, payload ranges and the
unregistered-loop search (R73 to R80, R86, R95, R97, R99 and the payload rules of the other chapters). -/

namespace Sys2Proof.Machine

/-- The bytes `off` to `off + n - 1` are 0. -/
def zeros (l : List Byte) (off n : Nat) : Bool := (slice l off n).all (· == 0)

/-- Byte `k`, as a number. -/
def byteAt (l : List Byte) (k : Nat) : Nat := (l.getD k 0).toNat

def distinct (l : List Nat) : Bool := l.eraseDups.length == l.length

/-- Every number below `n` satisfies `p`. -/
def below (n : Nat) (p : Nat → Bool) : Bool := (upTo n).all p

/-! ### Module records -/

/-- One class of TLH_CLASSES (R441). -/
def classOk (q : List Byte) : Bool :=
  if byteAt q 8 % 2 = 0 then q.all (· == 0)
  else
    let idle := num q 0 2
    let trim := num q 2 2
    let run := num q 4 2
    decide (byteAt q 8 < 4) && zeros q 9 7 && decide (run ≤ 400) && decide (idle ≤ trim) && decide (idle ≤ run)
      && decide (num q 6 2 ≤ run - idle)

/-- TLH_CLASSES (R441). -/
def classesOk (p : List Byte) : Bool :=
  p.length == 136 && zeros p 6 2 && decide (num p 0 2 ≤ 200) && decide (num p 2 2 ≤ 80) && decide (num p 4 2 ≤ 40)
    && below 8 fun c => classOk (slice p (8 + 16 * c) 16)

/-- VAULT_PLAN (R443). -/
def vaultPlanOk (p : List Byte) : Bool :=
  p.length == 24 && decide (byteAt p 0 < 2) && zeros p 1 7 && below 16 fun n => decide (byteAt p (8 + n) < 16)

/-- LINK_CFG (R398). -/
def linkCfgOk (p : List Byte) : Bool :=
  p.length == 8 && decide (4 ≤ byteAt p 0) && decide (byteAt p 0 ≤ 8) && byteAt p 1 == 0
    && decide (5 ≤ num p 2 2) && decide (num p 2 2 ≤ 1000) && decide (10 ≤ num p 4 2) && decide (num p 4 2 ≤ 10000) && zeros p 6 2

/-- FAULT_POLICY (R491). -/
def faultPolicyOk (p : List Byte) : Bool :=
  p.length == 24 && (below 16 fun n => decide (byteAt p n < 8) && decide (byteAt p n % 4 < 2))
    && decide (10 ≤ num p 16 2) && decide (num p 16 2 ≤ 10000) && zeros p 18 6

/-- A lock mask with only the bits of `valid` set (R79, R97). -/
def locksOk (valid : Nat) (p : List Byte) : Bool := p.length == 8 && (payloadWord p 0 &&& ~~~(word valid)) == 0

/-! ### Channel records -/

/-- LANE_MAP (R205 to R207). -/
def laneMapOk (p : List Byte) : Bool :=
  p.length == 240 && below 24 fun l =>
    let sel := slice p (8 * l) 8
    let mem := sel.all (· == 0x80)
    let rate := num p (192 + 2 * l) 2
    (sel.all fun b => decide (b.toNat ≤ 0x80)) && (mem || sel.all (· != 0x80))
      && (if mem then decide (1 ≤ rate) && decide (rate ≤ 960) else rate == 0)

/-- The declared rates of the memory-sourced lanes exceed 144 Gb/s (R207). -/
def laneBudget (p : List Byte) : Bool := decide (14400 < ((upTo 24).map fun l => num p (192 + 2 * l) 2).foldl (· + ·) 0)

/-- JNC_WIRING (R313, R314). -/
def wiringOk (p : List Byte) : Bool :=
  let prods := ((upTo 64).map (byteAt p)).filter (· != 0)
  let sub := fun (i s : Nat) => byteAt p (128 + 4 * i + s)
  p.length == 512 && (prods.all producerCodes.contains) && distinct prods
    && (below 64 fun j => byteAt p (64 + j) / 8 % 16 == 0)
    && (below 8 fun g => decide (((upTo 64).filter fun j => byteAt p (64 + j) == 128 + g).length ≤ 8))
    && below 64 fun i =>
      let used := ((upTo 4).map (sub i)).filter fun b => decide (128 ≤ b)
      (below 4 fun s => sub i s / 64 % 2 == 0) && (used.isEmpty || consumerCodes.contains i) && distinct used

/-- LUT_CELLS (R315, R316), with the JNC_WIRING record of the same section. -/
def lutOk (p wiring : List Byte) : Bool :=
  let outs := ((upTo 16).map fun c => byteAt p (16 * c + 6)).filter fun b => decide (128 ≤ b)
  p.length == 256 && distinct outs && (outs.all fun b => byteAt wiring (b - 128) == 0) && below 16 fun c =>
    let q := slice p (16 * c) 16
    if byteAt q 6 < 128 then q.all (· == 0)
    else (below 4 fun k => byteAt q k / 64 % 2 == 0) && byteAt q 6 / 64 % 2 == 0 && decide (byteAt q 7 < 2)
      && decide (byteAt q 8 < 16) && zeros q 9 7 && byteAt q 4 % 2 == 0

/-- One instruction of the microcode, of `count` (R216 to R218, R221). -/
def instrOk (count : Nat) (w : Nat) : Bool :=
  let opc := w / 2 ^ 60 % 16
  let cond := w / 2 ^ 42 % 16
  decide (opc ≤ 9) && (decide (cond ≤ 5) || (decide (8 ≤ cond) && decide (cond ≤ 11))) && w / 2 ^ 28 % 8 != 7 && w % 2 ^ 13 == 0
    && (opc == 0 || decide (6 ≤ opc) || decide (w / 2 ^ 48 % 4096 < count))

/-- DST_MICROCODE (R215, R221). -/
def microcodeOk (p : List Byte) : Bool :=
  let count := num p 0 2
  decide (1 ≤ count) && decide (count ≤ 4096) && p.length == 8 + 8 * count && zeros p 2 6
    && below count fun i => instrOk count (num p (8 + 8 * i) 8)

/-- DST_SCRAMBLE (R214). -/
def scrambleOk (p : List Byte) : Bool := p.length == 4224 && below 2048 fun i => decide (num p (2 * i) 2 < 1024)

/-- CREEL_MAP (R360). -/
def creelMapOk (p : List Byte) : Bool :=
  let devs := (upTo 5).map fun i => byteAt p (1 + i)
  p.length == 16 && decide (byteAt p 0 ≤ 3) && distinct devs && (devs.all fun d => decide (d < 5)) && zeros p 6 2
    && decide (512 ≤ num p 8 2) && decide (num p 8 2 ≤ 32768) && decide (byteAt p 10 < 8) && byteAt p 10 != 0 && zeros p 11 5

/-- POWER (R442); `classes` is the TLH_CLASSES payload loaded or accompanying. -/
def powerOk (p classes : List Byte) : Bool :=
  p.length == 8 && decide (byteAt p 0 < 8) && byteAt classes (16 + 16 * byteAt p 0) % 2 == 1 && decide (byteAt p 3 ≤ 15)
    && decide (byteAt p 2 ≤ byteAt p 3) && decide (byteAt p 2 ≤ byteAt p 1) && decide (byteAt p 1 ≤ byteAt p 3) && zeros p 4 4

/-- REST_LEVELS (R246, R247). -/
def restLevelsOk (p : List Byte) : Bool :=
  p.length == 40 && (below 4 fun k =>
      decide (num p (8 * k + 2) 2 ≤ num p (8 * k) 2) && decide (num p (8 * k) 2 ≤ num p (8 * k + 4) 2) && zeros p (8 * k + 6) 2)
    && decide (byteAt p 32 ≤ 2) && decide (byteAt p 33 ≤ 2) && zeros p 34 6

/-- SYN_CEILINGS (R272). -/
def ceilingsOk (p : List Byte) : Bool :=
  let c := fun s => num p (8 * s) 2
  p.length == 32 && (below 4 fun s => zeros p (8 * s + 2) 6) && decide (8000 ≤ c 0) && decide (c 0 ≤ 16000)
    && decide (10 ≤ c 2) && decide (c 2 ≤ 9600) && c 0 == c 1 && c 2 == c 3

/-- CH_DEFAULTS (R99). -/
def defaultsOk (p : List Byte) : Bool :=
  p.length == 32 && (below 24 fun l => decide (byteAt p l < 32)) && decide (byteAt p 24 ≤ 2) && decide (byteAt p 25 < 8)
    && byteAt p 25 / 2 ^ byteAt p 24 % 2 == 1 && zeros p 26 6

/-! ### The unregistered-loop check (R95) -/

/-- The junctions that the cells without flip-flop lead to from junction `j`. -/
def loopEdges (lut : List Byte) (j : Nat) : Word :=
  ((upTo 16).filter fun c => decide (128 ≤ byteAt lut (16 * c + 6)) && byteAt lut (16 * c + 7) % 2 == 0
      && below 4 (fun k => byteAt lut (16 * c + k) != 128 + j) == false).foldl
    (fun m c => setBit m (byteAt lut (16 * c + 6) % 64)) 0

/-- visit(j), with the GREY and BLACK junctions as masks: the BLACK ones after it, and the junction that closes a cycle. The
first argument bounds the depth, which never exceeds 64. -/
def loopVisit (lut : List Byte) : Nat → Nat → Word → Word → Word × Option Nat
  | 0, _, _, black => (black, none)
  | n + 1, j, grey, black =>
    let grey := setBit grey j
    let r := (upTo 64).foldl (fun (a : Word × Option Nat) k =>
      if a.2.isSome || !bit (loopEdges lut j) k then a
      else if bit grey k then (a.1, some k)
      else if bit a.1 k then a
      else loopVisit lut n k grey a.1) (black, none)
    if r.2.isSome then r else (setBit r.1 j, none)

/-- The junction at which the search first closes a cycle, if it closes one. -/
def loopCheck (lut : List Byte) : Option Nat :=
  ((upTo 64).foldl (fun (a : Word × Option Nat) j =>
    if a.2.isSome || bit a.1 j then a else loopVisit lut 65 j 0 a.1) (0, none)).2

/-! ### Records and sections (R76 to R79, R86) -/

/-- A failure of a check: reason and DETAIL. -/
abbrev Failure := Byte × Nat

/-- The types a section may hold, and those it must (R79). -/
def recordTypes (module : Bool) : List Nat :=
  if module then [0x0101, 0x0102, 0x0103, 0x0104, 0x01FF]
  else [0x0201, 0x0202, 0x0203, 0x0204, 0x0205, 0x0206, 0x0207, 0x0208, 0x0209, 0x020A, 0x020B, 0x02FF]

def requiredTypes (module : Bool) : List Nat :=
  if module then [0x0101, 0x0102, 0x0103] else [0x0201, 0x0202, 0x0203, 0x0206, 0x0207, 0x0209, 0x020A]

/-- The records of a body (R78): type and payload, in order. The first argument bounds their number. -/
def parseRecords (module : Bool) : Nat → List Byte → List (Nat × List Byte) → Except Failure (List (Nat × List Byte))
  | 0, _, acc => .ok acc
  | n + 1, body, acc =>
    if body.isEmpty then .ok acc
    else
      let typ := num body 0 2
      let len := num body 4 4
      if !(recordTypes module).contains typ || byteAt body 2 != 1 || decide (body.length < 8 + len) || acc.any (·.1 == typ) then
        .error (0x0B, typ)
      else parseRecords module n (body.drop (8 + ceilDiv len 8 * 8)) (acc ++ [(typ, slice body 8 len)])

/-- The payload of a record; empty when it is absent. -/
def payloadOf (l : List (Nat × List Byte)) (typ : Nat) : List Byte := ((l.find? fun r => r.1 == typ).map (·.2)).getD []

/-- A payload lies within its permitted range (R86, RANGE). DESIGN CHOICE (log entry 28): so is a DOFFER_FW payload above the 1 MB of
R80. -/
def payloadOk (recs : List (Nat × List Byte)) (classes : List Byte) (typ : Nat) (p : List Byte) : Bool :=
  match typ with
  | 0x0101 => classesOk p
  | 0x0102 => vaultPlanOk p
  | 0x0103 => linkCfgOk p
  | 0x0104 => faultPolicyOk p
  | 0x01FF => locksOk 0x3 p
  | 0x0201 => laneMapOk p
  | 0x0202 => wiringOk p
  | 0x0203 => lutOk p (payloadOf recs 0x0202)
  | 0x0204 => microcodeOk p
  | 0x0205 => scrambleOk p
  | 0x0206 => creelMapOk p
  | 0x0207 => powerOk p classes
  | 0x0208 => restLevelsOk p
  | 0x0209 => ceilingsOk p
  | 0x020A => decide (p.length ≤ 2 ^ 20)
  | 0x020B => defaultsOk p
  | _ => locksOk 0x3FF p

/-- RANGE, LOOP and BUDGET over the records of a section. -/
def checkRecords (recs : List (Nat × List Byte)) (classes : List Byte) : Option Failure :=
  match (recordTypes true ++ recordTypes false).find? fun t =>
      (recs.any (·.1 == t)) && !payloadOk recs classes t (payloadOf recs t) with
  | some t => some (0x0C, t)
  | none => match loopCheck (payloadOf recs 0x0203) with
    | some j => some (0x0D, j)
    | none => if laneBudget (payloadOf recs 0x0201) then some (0x0E, 0) else none

/-- The digest that R76 gives a section. -/
def sectionDigest (sec : List Byte) : List Byte := sha256 (slice sec 0 0x40 ++ sec.drop 128)

/-- The checks of a section, in the order of R86: `bind` is what BIND of a channel section must equal. The result holds the
records of a section that passes. -/
def checkSection (sec : List Byte) (module : Bool) (imageId : Nat) (bind classes : List Byte) : Except Failure (List (Nat × List Byte)) :=
  let body := sec.drop 128
  let max := if module then 256 * 1024 else 4 * 1024 * 1024
  if byteAt sec 1 ≠ 0x21 then .error (0x03, 0)
  else if num sec 8 8 ≠ body.length ∨ max < body.length then .error (0x06, 0)
  else if num sec 0x20 4 ≠ (crc32 body).toNat then .error (0x07, 0)
  else if slice sec 0x40 32 ≠ sectionDigest sec then .error (0x08, 0)
  else if num sec 0x10 8 ≠ imageId then .error (0x09, 0)
  else if !module && slice sec 0x18 8 != bind then .error (0x0A, 0)
  else match parseRecords module (body.length + 1) body [] with
    | .error e => .error e
    | .ok recs => match (requiredTypes module).find? fun t => !recs.any (·.1 == t) with
      | some t => .error (0x0B, t)
      | none => match checkRecords recs (if module then payloadOf recs 0x0101 else classes) with
        | some e => .error e
        | none => .ok recs

/-! ### The header (R74, R75, R80, R81, R86) -/

/-- The directory entries of a header. -/
def directory (h : List Byte) : List DirEntry :=
  (upTo (byteAt h 0xC)).map fun i => { sect := byteAt h (0x40 + 16 * i), len := num h (0x44 + 16 * i) 4, offset := num h (0x48 + 16 * i) 8 }

/-- The SECT_IDs that a stream of a kind must hold, in order (R81). -/
def sectIds (kind : LoadKind) (mask : BitVec 16) : List Nat :=
  match kind with
  | .whole => 0 :: (upTo 16).map (0x10 + ·)
  | .channel => ((upTo 16).filter fun n => bit mask n).map (0x10 + ·)

/-- The sections follow one another from `pos` and end at `len`. -/
def contiguous : Nat → Nat → List DirEntry → Bool
  | pos, len, [] => pos == len
  | pos, len, e :: r => e.offset == pos && decide (128 ≤ e.len) && e.len % 8 == 0 && contiguous (pos + e.len) len r

/-- The checks of the header: the first failure's reason. A directory that ends at TOTAL_LEN or at LENGTH leaves no gap; LENGTH
then compares the two. DESIGN CHOICE (log entry 28): a directory LEN below 128 or not a multiple of 8 is DIRECTORY, and one
that R80 does not allow is LENGTH, both for the whole header. -/
def checkHeader (h : List Byte) (kind : LoadKind) (mask : BitVec 16) (len : Nat) : Option Byte :=
  let dir := directory h
  if num h 0 8 ≠ 0x4E49454B53594741 then some 0x01
  else if num h 8 2 ≠ 2 ∨ num h 0xA 2 ≠ 512 then some 0x02
  else if byteAt h 0xD ≠ 0x21 then some 0x03
  else if num h 0x1F8 4 ≠ (crc32 (slice h 0 0x1F8)).toNat then some 0x04
  else if 17 < byteAt h 0xC ∨ dir.map (·.sect) ≠ sectIds kind mask ∨ !(contiguous 512 len dir || contiguous 512 (num h 0x20 8) dir) then some 0x05
  else if num h 0x20 8 ≠ len ∨ dir.any (fun e => decide ((if e.sect = 0 then 256 * 1024 else 4 * 1024 * 1024) + 128 < e.len)) then some 0x06
  else none

end Sys2Proof.Machine
end

