-- ==== Sys2Proof/Machine/Tollhouse.lean ====
section
/-! DEFINITION. The Tollhouse: the feed, the budget, charges and requests, admission, the shed ladder, hard sheds and grade
raises (R425 to R440, R452). -/

namespace Sys2Proof.Machine

def State.tlhEvent (s : State) (k : Nat) : State := { s with tlh := { s.tlh with events := evSet s.tlh.events k } }

def State.modTlh (s : State) (ch : ChanId) (f : ChTlh → ChTlh) : State := s.modCh ch fun c => { c with tlh := f c.tlh }

/-! ### Class figures (R441, R442) -/

def ModImage.common (m : ModImage) : Nat := num m.classes 0 2
def ModImage.unconf (m : ModImage) : Nat := num m.classes 2 2
def ModImage.gradeStep (m : ModImage) : Nat := num m.classes 4 2
def ModImage.idle (m : ModImage) (c : Nat) : Nat := num m.classes (8 + 16 * c) 2
def ModImage.trim (m : ModImage) (c : Nat) : Nat := num m.classes (10 + 16 * c) 2
def ModImage.run (m : ModImage) (c : Nat) : Nat := num m.classes (12 + 16 * c) 2
def ModImage.avsMax (m : ModImage) (c : Nat) : Nat := num m.classes (14 + 16 * c) 2
def ModImage.classDefined (m : ModImage) (c : Nat) : Bool := num m.classes (16 + 16 * c) 1 % 2 == 1
def ModImage.creelDown (m : ModImage) (c : Nat) : Bool := num m.classes (16 + 16 * c) 1 / 2 % 2 == 1

def ChImage.powerClass (im : ChImage) : Nat := num im.power 0 1

/-- The channel domains are powered (R103). -/
def State.domains (s : State) : Bool := s.working || s.mod.mode == .spooling || s.mod.mode == .holdup

/-! ### Charges (R431, R432) -/

/-- REQ of a channel at creel grade `g` (R432). -/
def State.reqAt (s : State) (ch : ChanId) (g : Nat) : Nat :=
  let im := s.skn.image
  let k := (s.ch ch).skn.image.powerClass
  max (im.idle k) (im.run k - min (s.ch ch).tlh.avs (im.avsMax k) - im.gradeStep * g)

def State.reqNow (s : State) (ch : ChanId) : Nat := s.reqAt ch (s.ch ch).mem.grade.toNat
def State.idleOf (s : State) (ch : ChanId) : Nat := s.skn.image.idle (s.ch ch).skn.image.powerClass

/-- What a channel that gives up its grant saves. -/
def State.saving (s : State) (ch : ChanId) : Nat := s.reqNow ch - s.idleOf ch

/-- The charge of a channel depends on its REQ. -/
def Chan.chargedReq (c : Chan) : Bool :=
  match c.mod.state with
  | .armed | .held => c.tlh.granted
  | .run | .drain => true
  | .rest | .trim => false

/-- The charge of a channel whose request is `req` (R431). -/
def State.chargeWith (s : State) (ch : ChanId) (req : Nat) : Nat :=
  let c := s.ch ch
  if !s.domains then 0
  else if !c.configured then s.skn.image.unconf
  else if c.mod.state = .trim ∧ c.tlh.granted then s.skn.image.trim c.skn.image.powerClass
  else if c.chargedReq then req else s.idleOf ch

/-- The charge of a channel as a tick computes it (R432). -/
def State.chargeOf (s : State) (ch : ChanId) : Nat := s.chargeWith ch (s.reqNow ch)

/-- The present charge, with REQ as the last tick left it (R432, R453). -/
def State.chargeShown (s : State) (ch : ChanId) : Nat := s.chargeWith ch (s.ch ch).tlh.req

/-- The total charge (R431). -/
def State.totalCharge (s : State) : Nat := s.skn.image.common + (allCh.map s.chargeOf).foldl (· + ·) 0

/-- Savings of a channel committed and not yet realised (R437). -/
def State.pendingOf (s : State) (ch : ChanId) : Nat :=
  let x := (s.ch ch).tlh
  x.stepPending + (if x.shed = 1 then s.saving ch - x.stepPending else 0)

def State.pendingTotal (s : State) : Nat := (allCh.map s.pendingOf).foldl (· + ·) 0

/-! ### The budget (R427, R430) -/

/-- Healthy feed circuits. -/
def Tlh.circuits (x : Tlh) : Nat := ((upTo 8).filter fun i => !bit x.lost i).length

/-- B in quarter watts, for V_use in units of 10 mV (R430). -/
def budgetOf (vuse circuits eff : Nat) : Nat := vuse * (95 * circuits) * eff * 4 / 10000000 - 60

def State.budgetNow (s : State) : Nat :=
  budgetOf (if s.mod.mode = .shedding then 3600 else s.tlh.vin) s.tlh.circuits Config.eff

/-! ### Orders (R434, R437) -/

/-- Put an element into a list that is in order under `le`. -/
def insertBy {α : Type} (le : α → α → Bool) (x : α) : List α → List α
  | [] => [x]
  | y :: r => if le x y then x :: y :: r else y :: insertBy le x r

/-- A list put in order; elements that are equal keep their order. -/
def sortBy {α : Type} (le : α → α → Bool) : List α → List α
  | [] => []
  | x :: r => insertBy le x (sortBy le r)

def State.prio (s : State) (ch : ChanId) : Nat := (s.ch ch).tlh.prioNow.toNat
def State.reqTick (s : State) (ch : ChanId) : Nat := ((s.ch ch).tlh.request.map (·.tick)).getD 0

/-- A request waits. -/
def ChTlh.waits (x : ChTlh) : Bool := x.request.isSome && !x.granted

/-- The waiting requests: priority, then tick, then channel number (R434). -/
def State.admissionOrder (s : State) : List ChanId :=
  sortBy (fun a b => decide (s.prio b < s.prio a) || (s.prio a == s.prio b && decide (s.reqTick a ≤ s.reqTick b)))
    (allCh.filter fun c => (s.ch c).tlh.waits)

/-- Lowest priority first, and among equals the highest channel number first (R437). -/
def State.shedOrder (s : State) : List ChanId := sortBy (fun a b => decide (s.prio a ≤ s.prio b)) allCh.reverse

/-! ### Admission (R434) -/

/-- A grade change of the channel is pending. -/
def Mem.changing (m : Mem) : Bool := m.change.isSome || m.nextChange.isSome

/-- A grade is permitted and trained. -/
def Mem.usable (m : Mem) (g : Nat) : Bool := m.permits g && bit m.trained g

def State.grant (s : State) (ch : ChanId) : State :=
  let svc := ((s.ch ch).tlh.request.map (·.service)).getD false
  let s := s.modTlh ch fun x => { x with granted := true, deny := 0, gradeWait := none }
  if svc then s.serviceBegin ch else s

def State.deny (s : State) (ch : ChanId) (code : Byte) : State :=
  (s.modTlh ch fun x => { x with deny := code }).tlhEvent TlhEv.denied

/-- A grade change on the Tollhouse's request, which has passed the tests of R380. -/
def State.tollSpeed (s : State) (ch : ChanId) (g : Nat) : State :=
  s.modCh ch fun c => c.speedRequest (BitVec.ofNat 2 g) true

/-- What admission carries from one request to the next: the state, the total charge with the room kept for lower grades,
and whether a request has been denied. -/
structure Admit where
  s : State
  total : Nat
  blocked : Bool

/-- The highest lower grade, permitted and trained, at which the request of `ch` fits. -/
def State.lowerFit (s : State) (ch : ChanId) (room : Nat) : Option Nat :=
  let m := (s.ch ch).mem
  if s.skn.image.creelDown (s.ch ch).skn.image.powerClass then
    [1, 2].find? fun g => decide (m.grade.toNat < g) && m.usable g && decide (s.reqAt ch g ≤ room)
      && (s.ch ch).speedTest (BitVec.ofNat 2 g) == 0
  else none

/-- The charge of a channel once its request is granted: REQ, or TRIM for a service (R434). -/
def State.grantedCharge (s : State) (ch : ChanId) : Nat :=
  if ((s.ch ch).tlh.request.map (·.service)).getD false then s.skn.image.trim (s.ch ch).skn.image.powerClass else s.reqNow ch

/-- A request whose lower grade is under way: granted once the grade is reached, and back in its place when the change was
dropped. -/
def Admit.settle (a : Admit) (ch : ChanId) : Admit :=
  let c := a.s.ch ch
  match c.tlh.gradeWait with
  | none => a
  | some g =>
    if !c.tlh.waits then a
    else if c.mem.changing then { a with total := a.total + a.s.reqAt ch g - a.s.chargeOf ch }
    else if c.mem.grade.toNat = g then { a with s := a.s.grant ch, total := a.total + a.s.grantedCharge ch - a.s.chargeOf ch }
    else { a with s := a.s.modTlh ch fun x => { x with gradeWait := none } }

/-- One request in its turn: steps 1 to 3 of R434 test REQ, whatever the request is for. -/
def Admit.one (b : Nat) (a : Admit) (ch : ChanId) : Admit :=
  let s := a.s
  let now := s.chargeOf ch
  if a.blocked then { a with s := s.deny ch 0x02 }
  else if a.total - now + s.reqNow ch ≤ b then { a with s := s.grant ch, total := a.total - now + s.grantedCharge ch }
  else match (if (s.ch ch).mem.changing then none else s.lowerFit ch (b + now - a.total)) with
    | some g =>
      { a with s := (s.tollSpeed ch g).modTlh ch fun x => { x with gradeWait := some g, tollGrade := true, deny := 0 }
               total := a.total - now + s.reqAt ch g }
    | none => { a with s := s.deny ch 0x01, blocked := true }

/-- Admission at a tick, against the budget `b` (R434). -/
def State.admission (s : State) (b : Nat) : State :=
  let a := allCh.foldl Admit.settle { s := s, total := s.totalCharge, blocked := false }
  ((a.s.admissionOrder.filter fun c => (a.s.ch c).tlh.gradeWait.isNone).foldl (Admit.one b) a).s

/-- In SHEDDING every waiting request is denied. -/
def State.denyAll (s : State) : State := (allCh.filter fun c => (s.ch c).tlh.waits).foldl (fun s c => s.deny c 0x03) s

/-! ### The shed ladder (R437) -/

/-- One channel in step `k` of the ladder: the state, and what is saved, if the step acts on the channel. -/
def State.ladderStep (s : State) (k : Nat) (ch : ChanId) : Option (State × Nat) :=
  let c := s.ch ch
  let mark := fun (s : State) => (s.modTlh ch fun x => { x with shed := 1 }).tlhEvent TlhEv.softShed
  match k with
  | 1 =>
    if c.mod.state = .armed ∧ c.tlh.granted ∧ !c.tlh.pinned then
      some ((s.modTlh ch fun x => { x with granted := false }).tlhEvent TlhEv.withdrawn, s.saving ch)
    else none
  | 2 =>
    let g := c.mem.grade.toNat + 1
    if !c.tlh.pinned && s.skn.image.creelDown c.skn.image.powerClass && c.tlh.granted
        && (c.mod.state == .armed || c.mod.state == .run) && !c.mem.changing && decide (g ≤ 2) && c.mem.usable g
        && c.speedTest (BitVec.ofNat 2 g) == 0 then
      some (((s.tollSpeed ch g).modTlh ch fun x => { x with tollGrade := true, stepPending := s.skn.image.gradeStep }).tlhEvent
        TlhEv.creelDown, s.skn.image.gradeStep)
    else none
  | 3 =>
    if c.mod.state = .run ∧ !c.tlh.pinned ∧ c.tlh.shed ≠ 1 then
      some (mark (s.modCh ch fun c => c.latchHold Cause.shed s.cycle), s.saving ch - c.tlh.stepPending)
    else none
  | _ => if c.tlh.pinned ∧ c.tlh.shed ≠ 1 then some (mark s, s.saving ch) else none

/-- Step `k` over channels in order, until what is needed is saved: the state, what is still needed, and whether a step was
taken. -/
def ladderOver (k : Nat) : List ChanId → State × Int × Bool → State × Int × Bool
  | [], r => r
  | ch :: l, (s, need, took) =>
    if need ≤ 0 then (s, need, took)
    else match s.ladderStep k ch with
      | some (s', v) => ladderOver k l (s', need - v, true)
      | none => ladderOver k l (s, need, took)

/-- The ladder for a deficit `d`. -/
def State.ladder (s : State) (d : Int) : State :=
  let l := s.shedOrder
  let r := [1, 2, 3, 4].foldl (fun r k => ladderOver k l r) (s, d - s.pendingTotal, false)
  if r.2.2 && r.1.tlh.ladderAt.isNone then { r.1 with tlh := { r.1.tlh with ladderAt := some s.now } } else r.1

/-! ### The samples of the supply (R426, R427, R429) -/

/-- Mean of samples, rounded down; 0 of none (log entry 79). -/
def meanOf (l : List Nat) : Nat := l.foldl (· + ·) 0 / max 1 l.length

/-- What has held since an instant, after a sample taken at `now` at which it holds or not. -/
def sinceWhen (ok : Bool) (now : Tbu) (a : Option Tbu) : Option Tbu := if ok then some (a.getD now) else none

/-- Instants of `n` samples, one a microsecond, the last at `now`. -/
def sampleTimes (now : Tbu) (n : Nat) : List Tbu := (upTo n).map fun i => now - (n - 1 - i) * us

/-- The samples held after newer ones, given oldest first: the latest 100. -/
def latest (old new : List Nat) : List Nat := (new.reverse ++ old).take 100

/-- Samples of V_in, oldest first, the last at `now` (R426, R429). -/
def Tlh.takeVin (x : Tlh) (now : Tbu) (vin : List (BitVec 16)) : Tlh :=
  let l := vin.map (·.toNat)
  { x with
    vinS := latest x.vinS l, vin := meanOf (latest x.vinS l)
    riseAt := (l.zip (sampleTimes now l.length)).foldl (fun a v => sinceWhen (decide (4000 ≤ v.1)) v.2 a) x.riseAt }

/-- The total of the circuits' currents at a sample. -/
def ampsTotal (v : Vector (BitVec 16) 8) : Nat := v.toList.foldl (fun a x => a + x.toNat) 0

/-- At a sample circuit `i` carries less than 25 % of the mean of the other healthy circuits, the total being above 1 A (R427). -/
def Tlh.starved (x : Tlh) (v : Vector (BitVec 16) 8) (i : Fin 8) : Bool :=
  let others := ([0, 1, 2, 3, 4, 5, 6, 7] : List (Fin 8)).filter fun k => k != i && !bit x.lost k.val
  decide (1000 < ampsTotal v) && decide (4 * others.length * v[i].toNat < others.foldl (fun a k => a + v[k].toNat) 0)

/-- Samples of the circuits' currents, oldest first, the last at `now` (R426, R427). -/
def Tlh.takeAmps (x : Tlh) (now : Tbu) (amps : List (Vector (BitVec 16) 8)) : Tlh :=
  let l := latest x.iinS (amps.map ampsTotal)
  { x with
    iinS := l, iin := meanOf l
    lowAt := (amps.zip (sampleTimes now amps.length)).foldl (fun w v => eights fun i => sinceWhen (x.starved v.1 i) v.2 w[i]) x.lowAt }

/-- V_in has been at or above 40.00 V at every sample for 20 ms (R429). -/
def Tlh.risen (x : Tlh) (now : Tbu) : Bool := x.riseAt.any fun a => decide (a + 20 * ms ≤ now)

/-- V_in was below 36.00 V in the two latest samples (R429). -/
def Tlh.failing (x : Tlh) : Bool :=
  match x.vinS with
  | a :: b :: _ => decide (a < 3600) && decide (b < 3600)
  | _ => false

/-! ### The tick (R426, R430, R433, R440) -/

/-- A channel's meters at a tick: the AVS saving, the draw, and for how long it has been too high; a priority written
since the last tick is in force (R436). -/
def State.meter (s : State) (ch : ChanId) (avs draw : Nat) : State :=
  let s := s.modTlh ch fun x => { x with avs := avs, draw := draw, prioNow := x.prio }
  let high := decide (s.chargeOf ch + 8 < draw)
  s.modTlh ch fun x => { x with overAt := if high then some (x.overAt.getD s.now) else none }

/-- The tick's measurements: V_avg, the input current and every channel's meters. -/
def State.tickMeters (s : State) (avs draw : List (BitVec 16)) : State :=
  let s := { s with tlh := { s.tlh with
    tick := s.tlh.tick + 1, healthy := ~~~s.tlh.lost
    okAt := if 4000 ≤ s.tlh.vin then some (s.tlh.okAt.getD s.now) else none } }
  s.forCh allCh fun s c => s.meter c (avs.getD c.val 0).toNat (draw.getD c.val 0).toNat

/-- B, the charges and the deficit of a tick are written (R430 to R433). -/
def State.tickFigures (s : State) : State :=
  let b := s.budgetNow
  let total := s.totalCharge
  let d : Int := (total : Int) - b
  let s := s.forCh allCh fun s c => s.modTlh c fun x => { x with req := s.reqNow c }
  { s with tlh := { s.tlh with
    budget := b, charged := total, deficit := d
    events := evIf (decide (0 < d) && decide (s.tlh.deficit ≤ 0)) s.tlh.events TlhEv.deficit
    ladderAt := if 0 < d then s.tlh.ladderAt else none
    calmAt := if s.mod.mode = .wound ∧ d ≤ 0 then some (s.tlh.calmAt.getD s.now) else none } }

/-- The ladder or admission, where channel commands are accepted (R433, R434). -/
def State.tickActs (s : State) : State :=
  if !s.working then s
  else
    let s := if s.mod.mode = .shedding then s.denyAll else s
    if 0 < s.tlh.deficit then s.ladder s.tlh.deficit
    else if s.mod.mode = .shedding then s
    else s.admission s.tlh.budget

/-- A Tollhouse tick: SHEDDING is entered first, so that the tick's budget is that of SHEDDING (R429, R430). -/
def State.tollTick (s : State) (avs draw : List (BitVec 16)) : State :=
  let s := s.tickMeters avs draw
  let s := if s.mod.mode = .wound ∧ s.tlh.vin < 3900 then s.setMode .shedding else s
  let s := s.tickFigures.tickActs
  { s with tlh := { s.tlh with pending := s.pendingTotal } }

/-- The Tollhouse ticks in every powered mode but HOLDUP and VAULTED (R435, R444). -/
def State.ticking (s : State) : Bool := s.powered && s.mod.mode != .holdup && s.mod.mode != .vaulted

/-- TOLLHOUSE_TICK (R430): the samples of V_in and of the circuits' currents that were taken since the last tick, and each channel's
AVS saving and draw in quarter watts. Where the Tollhouse does not tick only the supply monitors sample (R103, R429; DESIGN CHOICE,
log entry 79: without power too). -/
def execTollhouseTick (t : Tbu) (vin : List (BitVec 16)) (amps : List (Vector (BitVec 16) 8)) (avs draw : List (BitVec 16)) (s : State) :
    Host.Outcome State Fault Refusal :=
  let s := s.atTime t
  let s := { s with tlh := (s.tlh.takeAmps s.now amps).takeVin s.now vin }
  .next (if s.ticking then s.tollTick avs draw else s)

/-- SHEDDING_RETURN (R104, R429): V_avg has been at or above 40.00 V at every update for 10 ms. -/
def execSheddingReturn (t : Tbu) (s : State) : Host.Outcome State Fault Refusal :=
  let s := s.atTime t
  .next (if s.mod.mode = .shedding ∧ s.tlh.okAt.any (fun a => decide (a + 10 * ms ≤ s.now)) then s.setMode .wound else s)

/-! ### Hard sheds (R438) -/

/-- HARD_US in force, in microseconds. -/
def Tlh.hardUs (x : Tlh) : Nat := min 10000 (max 50 (fld x.cfg 0 16))

/-- A hard shed is due. -/
def State.hardDue (s : State) : Bool :=
  s.working && (decide (s.tlh.vin < 3700)
    || (decide (0 < s.tlh.deficit) && s.tlh.ladderAt.any fun a => decide (a + s.tlh.hardUs * us ≤ s.now)))

/-- The first part: marked channels in RUN are held at once, and pinned members do not start. -/
def State.hardMarked (s : State) (ch : ChanId) : State :=
  let c := s.ch ch
  if c.tlh.pinned then s.modCh ch Chan.dropStart
  else if c.tlh.shed = 1 ∧ c.mod.state = .run then s.holdNow ch Cause.shed else s

/-- The second part: further RUN channels, while the charge exceeds the budget. -/
def State.hardFurther (s : State) (ch : ChanId) : State :=
  if s.tlh.budget < s.totalCharge ∧ (s.ch ch).mod.state = .run then s.holdNow ch Cause.shed else s

def State.hardShed (s : State) : State :=
  let l := s.shedOrder
  let s := l.foldl State.hardMarked s
  (l.foldl State.hardFurther s).tlhEvent TlhEv.hardShed

/-- HARD_SHED (R438). -/
def execHardShed (t : Tbu) (s : State) : Host.Outcome State Fault Refusal :=
  let s := s.atTime t
  .next (if s.hardDue then s.hardShed else s)

/-! ### Grade raises (R439) -/

/-- Raise the grade of a channel that the Tollhouse lowered, when the added charge fits in `room`. -/
def State.raiseOne (r : State × Nat) (ch : ChanId) : State × Nat :=
  let s := r.1
  let c := s.ch ch
  let m := c.mem
  match [1, 0].find? fun g => decide (g < m.grade.toNat) && m.usable g with
  | some g =>
    let add := if c.chargedReq then s.reqAt ch g - s.reqNow ch else 0
    if c.tlh.tollGrade && !m.changing && decide (add ≤ r.2) && c.speedTest (BitVec.ofNat 2 g) == 0 then
      (s.tollSpeed ch g, r.2 - add)
    else r
  | none => r

/-- TOLL_GRADE_RAISE (R439): after 10 ms in WOUND without a deficit; each further step waits again. -/
def execTollGradeRaise (t : Tbu) (s : State) : Host.Outcome State Fault Refusal :=
  let s := s.atTime t
  .next (if s.mod.mode = .wound ∧ s.tlh.calmAt.any (fun a => decide (a + 10 * ms ≤ s.now)) then
      let s' := (allCh.foldl State.raiseOne (s, s.tlh.budget - s.totalCharge)).1
      { s' with tlh := { s'.tlh with calmAt := some s.now } }
    else s)

/-! ### The feed and overdraw (R427, R440) -/

/-- A circuit is to be declared lost: its detector has tripped, or it has carried too little for 1 ms (R427). -/
def State.feedDue (s : State) (x : FeedSeen) : Bool :=
  s.powered && !bit s.tlh.lost x.circuit.val
    && (x.tripped || (s.tlh.lowAt[x.circuit]).any fun a => decide (a + ms ≤ s.now))

/-- FEED_LOST (R427): a covered fault of the module (R478). -/
def execFeedLost (t : Tbu) (seen : FeedSeen) (s : State) : Host.Outcome State Fault Refusal :=
  let s := s.atTime t
  let k := seen.circuit.val
  .next (if s.feedDue seen then
      let s := { s with
        tlh := { s.tlh with lost := setBit s.tlh.lost k, healthy := clrBit s.tlh.healthy k }
        flt := { s.flt with feed := true } }
      (s.tlhEvent TlhEv.feedLost).logRecord none 0x06 k 0 0
    else s)

/-- OVERDRAW (R440): the draw has exceeded the charge by more than 2 W for 1 ms. -/
def execOverdraw (t : Tbu) (ch : ChanId) (s : State) : Host.Outcome State Fault Refusal :=
  let s := s.atTime t
  .next (if s.ticking && (s.ch ch).tlh.overAt.any (fun a => decide (a + ms ≤ s.now)) then s.tlhEvent TlhEv.overdraw else s)

end Sys2Proof.Machine
end

