-- ==== Sys2Proof/Machine/Skein.lean ====
section
/-! DEFINITION. Loading a skein stream: starts, the stream itself, refusals, the apply of the module section and of channel
sections, the Doffer's self-check and the end of a load (R81 to R101, R107, R108). -/

namespace Sys2Proof.Machine

/-! ### Withdrawal of a channel's structure (R83, R84, R297, R341, R404) -/

/-- The structure of a channel is withdrawn: outputs in the power-up state, fabric, converter and synthesizers stopped. The
CREEL_MAP is kept, so that R90 can compare it with the next. DESIGN CHOICE (log entry 80): until the next apply the RO fields that
come from the channel's image read 0, while SKN_CH_IMAGE_ID and SKN_CH_DIGEST keep what they show. -/
def Chan.withdraw (c : Chan) (now : Tbu) (st : SknState) : Chan :=
  let c := ((c.tdcStop (cycleOf now)).allOff now).fabricStop
  let c : Chan := { c with skn := { c.skn with state := st, locks := 0, image := { creelMap := c.skn.image.creelMap }, released := false } }
  let c := c.anaRest
  { c with ana := { c.ana with rangeAt := none, rangeNow := rangeOf c.ana.wavCfg } }

/-- Every queue of a channel is CLOSED at once (R404). -/
def State.closeAll (s : State) (ch : ChanId) : State :=
  (((s.ch ch).stq.queues.filter fun e => e.2.state != .closed).map (·.1)).foldl (fun s i => s.closeQueue ch i) s

/-- A channel becomes LOADING (R83). -/
def State.startLoading (s : State) (ch : ChanId) : State := (s.closeAll ch).modCh ch fun c => c.withdraw s.now .loading

/-- Every service of a channel ends as a restart of its Doffer ends it (R89, R481). -/
def State.abortServices (s : State) (ch : ChanId) : State :=
  let d := (s.ch ch).dof
  (d.running.toList ++ d.queue).foldl (fun s x => s.abortService ch x)
    (s.modCh ch fun c => { c with dof := { c.dof with running := none, queue := [] } })

/-- A channel becomes UNCONFIGURED with a reason (R87): one that had already become CONFIGURED in this load returns to REST,
and its structure is withdrawn again. DESIGN CHOICE (log entry 80): an initial training that this cuts off is due again. -/
def State.unconfigure (s : State) (ch : ChanId) (reason : Byte) : State :=
  let c := s.ch ch
  let s := if c.configured then
      let s := (s.abortServices ch).closeAll ch
      let s := s.modCh ch fun c =>
        let c := (c.dropStart.releaseGrant).withdraw s.now .unconfigured
        { c with dof := { c.dof with due := c.dof.due || c.dof.initial, initial := false } }
      if c.mod.state = .rest then s else s.enterRest ch
    else s
  s.modCh ch fun c => { c with skn := { c.skn with
    state := .unconfigured, reason := reason, released := false, image := { creelMap := c.skn.image.creelMap } } }

/-! ### Starts (R82, R83) -/

/-- Every channel is in REST. -/
def State.resting (s : State) (l : List ChanId) : Bool := l.all fun c => (s.ch c).mod.state == .rest

/-- The kind that KIND names. -/
def loadKind (v : Word) : Option LoadKind := if fld v 2 2 = 1 then some .whole else if fld v 2 2 = 2 then some .channel else none

/-- The longest stream (R80). -/
def maxStream : Nat := 67373696

/-- The first reason of R82 for refusing a start, or 0. -/
def State.sknTest (s : State) (v : Word) : Byte :=
  let len := fld v 32 32
  let mask : BitVec 16 := BitVec.ofNat 16 (fld v 16 16)
  if s.skn.load.isSome then 0x22
  else match loadKind v with
    | none => 0x24
    | some k =>
      if len % 8 ≠ 0 ∨ len < 640 ∨ ((k == .whole) != (mask == 0)) then 0x24
      else if maxStream < len then 0x23
      else if !(s.mod.mode == .wound || (k == .whole && (s.mod.mode == .linked || s.mod.mode == .quarantine))) then 0x20
      else if s.mod.mode == .wound && !s.resting (if k = .whole then allCh else chOf mask) then 0x21
      else 0

/-- A write of SKN_LOAD_CTRL with START = 1 (R82, R83). DESIGN CHOICE (log entry 80): a module section to be replaced is withdrawn at
once, and SKN_MOD_IMAGE_ID, SKN_MOD_DIGEST and SKN_TROPHOR read 0 until the next is applied. -/
def State.sknStart (s : State) (v : Word) : State :=
  let code := s.sknTest v
  let s := { s with skn := { s.skn with startResult := code } }
  match loadKind v with
  | none => { s with skn := { s.skn with events := evSet s.skn.events SknEv.startRefused } }
  | some k =>
    if code ≠ 0 then { s with skn := { s.skn with events := evSet s.skn.events SknEv.startRefused } }
    else
      let mask : BitVec 16 := if k = .whole then 0xFFFF else BitVec.ofNat 16 (fld v 16 16)
      let s := { s with skn := { s.skn with
        load := some { kind := k, mask := mask, length := fld v 32 32, wordAt := s.now }, phase := 1, received := 0, result := 0 } }
      let s := if k = .whole then ({ s with skn := { s.skn with image := {}, locks := 0 } }).setMode .spooling else s
      s.forCh (chOf mask) State.startLoading

/-- SKN_START (R82): a write of SKN_LOAD_CTRL with ABORT = 0 and START = 1. -/
def execSknStart (t : Tbu) (v : Word) (s : State) : Host.Outcome State Fault Refusal := .next ((s.atTime t).ifPort fun s => s.sknStart v)

/-! ### Refusals and the end of a load (R86, R87, R92, R101) -/

/-- Note a refusal; SKN_RESULT keeps the first (R101). -/
def State.sknRefuse (s : State) (r : SknRefusal) : State :=
  { s with skn := { s.skn with
    result := if fld s.skn.result 0 8 = 0 then pack [(r.detail.toNat, 16), (r.sect.toNat, 8), (r.reason.toNat, 0)] else s.skn.result
    load := s.skn.load.map fun (l : Load) => { l with anyRefused := true } } }

/-- The load in progress ends. -/
def State.loadEnd (s : State) : State :=
  match s.skn.load with
  | none => s
  | some l => { s with skn := { s.skn with
      load := none, phase := if l.anyRefused then 6 else 5
      events := evIf l.anyRefused (evSet s.skn.events SknEv.done) SknEv.refused } }

/-- A load refused at header, module section or stream level ends with the consequences of R87; `power` says that HOLDUP
is the reason, which changes no mode here. -/
def State.loadFail (s : State) (reason : Byte) (power : Bool) : State :=
  match s.skn.load with
  | none => s
  | some l =>
    let s := s.forCh (chOf l.mask) fun s c => s.unconfigure c reason
    let s := if l.kind = .whole ∧ !power then ({ s with mod := { s.mod with qReason := reason } }).setMode .quarantine else s
    s.loadEnd

/-- A load ends for a reason outside its stream: ABORTED with a detail, or POWER (R94). -/
def State.loadAbort (s : State) (reason : Byte) (detail : BitVec 16) : State :=
  if s.skn.load.isSome then (s.sknRefuse { reason := reason, sect := 0xFF, detail := detail }).loadFail reason (reason == 0x11) else s

/-- SKN_ABORT (R94): a write of SKN_LOAD_CTRL with ABORT = 1. -/
def execSknAbort (t : Tbu) (s : State) : Host.Outcome State Fault Refusal := .next ((s.atTime t).ifPort fun s => s.loadAbort 0x10 0)

/-- How long the loader waits for a word (R94), and for the self-check of a Doffer it has released (R86). -/
def wordLimit : Nat := 10000 * ms
def checkLimit : Nat := 50 * ms

/-- LOAD_DATA_TIMEOUT (R94): no word for 10 s before LENGTH bytes. -/
def execLoadDataTimeout (t : Tbu) (s : State) : Host.Outcome State Fault Refusal :=
  let s := s.atTime t
  .next (if s.skn.load.any fun l => !l.complete && decide (l.wordAt + wordLimit ≤ s.now) then s.loadAbort 0x10 1 else s)

/-- A CONFIGURED channel whose initial training is due enters TRIM for it (R109 step 5, R376). -/
def State.startInitial (s : State) (ch : ChanId) : State :=
  if (s.ch ch).configured && (s.ch ch).dof.due then
    (s.modCh ch fun c => { c with dof := { c.dof with due := false, initial := true, queue := .train true :: c.dof.queue } }).enterTrim ch
  else s

/-- Every channel section of the load in progress is resolved: a WHOLE load enters WOUND, where the channels new to it begin their
initial training (R109), and the load ends (R92). -/
def State.loadDone (s : State) : State :=
  match s.skn.load with
  | none => s
  | some l =>
    if l.complete && (l.kind != .whole || l.modApplied) && l.resolved == l.mask then
      let s := if l.kind = .whole then
          (({ s with mod := { s.mod with qReason := 0 } }).setMode .wound).forCh allCh State.startInitial
        else s
      s.loadEnd
    else s

/-- Channel `ch` is done with the load. -/
def State.loadResolve (s : State) (ch : ChanId) : State :=
  { s with skn := { s.skn with load := s.skn.load.map fun (l : Load) => { l with resolved := setBit l.resolved ch.val } } }

/-! ### The stream (R85, R86, R88) -/

/-- The bytes received so far. -/
def Load.bytes (l : Load) : List Byte := l.words.reverse.flatMap wordBytes

/-- The module section's content. -/
def moduleImage (recs : List (Nat × List Byte)) (imageId : Nat) (digest : List Byte) (trophor : Nat) : ModImage :=
  { classes := payloadOf recs 0x0101, vaultPlan := payloadOf recs 0x0102, linkCfg := payloadOf recs 0x0103
    faultPolicy := payloadOf recs 0x0104, locks := payloadOf recs 0x01FF, imageId := word imageId, digest := digest
    trophor := BitVec.ofNat 32 trophor }

/-- A channel section's content. -/
def channelImage (recs : List (Nat × List Byte)) (imageId : Nat) (digest : List Byte) : ChImage :=
  let p := payloadOf recs
  { laneMap := p 0x0201, wiring := p 0x0202, lut := p 0x0203, microcode := p 0x0204, scramble := p 0x0205, creelMap := p 0x0206
    power := p 0x0207, restLevels := p 0x0208, ceilings := p 0x0209, firmware := p 0x020A, defaults := p 0x020B
    locks := p 0x02FF, imageId := word imageId, digest := digest }

/-- The module image that the channel sections bind to: that of the stream, or the loaded one (R86, BIND). -/
def State.bindImage (s : State) (l : Load) : ModImage := if l.kind = .whole then l.modImage.getD {} else s.skn.image

/-- A channel section is refused: the channel is UNCONFIGURED, and the others proceed (R87). -/
def State.refuseChannel (s : State) (ch : ChanId) (reason : Byte) (detail : Nat) : State :=
  let s := s.sknRefuse { reason := reason, sect := BitVec.ofNat 8 (0x10 + ch.val), detail := BitVec.ofNat 16 detail }
  (s.unconfigure ch reason).loadResolve ch

/-- Change the load in progress. -/
def State.modLoad (s : State) (f : Load → Load) : State := { s with skn := { s.skn with load := s.skn.load.map f } }

/-- A refusal of the header or of the module section: its consequence follows when the stream has ended (log entry 34). -/
def State.sknFatal (s : State) (r : SknRefusal) : State := (s.sknRefuse r).modLoad fun l => { l with fatal := some r }

/-- The section of directory entry `e` is complete: its checks (R86). -/
def State.sectionDone (s : State) (l : Load) (e : DirEntry) : State :=
  let all := l.bytes
  let sec := slice all e.offset e.len
  let id := num all 0x10 8
  let img := s.bindImage l
  match checkSection sec (e.sect == 0) id (slice img.digest 0 8) img.classes with
  | .ok recs =>
    let d := slice sec 0x40 32
    if e.sect = 0 then s.modLoad fun l => { l with modImage := some (moduleImage recs id d (num all 0x18 4)) }
    else s.modLoad fun l => { l with chImages := l.chImages ++ [(Fin.ofNat 16 (e.sect - 0x10), channelImage recs id d)] }
  | .error f =>
    if e.sect = 0 then s.sknFatal { reason := f.1, sect := 0, detail := BitVec.ofNat 16 f.2 }
    else s.refuseChannel (Fin.ofNat 16 (e.sect - 0x10)) f.1 f.2

/-- The header is complete: its checks. -/
def State.headerDone (s : State) (l : Load) : State :=
  let h := l.bytes
  match checkHeader h l.kind (if l.kind = .whole then 0 else l.mask) l.length with
  | some r => s.sknFatal { reason := r, sect := 0xFF, detail := 0 }
  | none => s.modLoad fun l => { l with hdrPassed := true, dir := directory h }

/-- The channels whose sections passed become APPLYING, and the apply begins (R88). -/
def State.applyBegin (s : State) : State :=
  match s.skn.load with
  | none => s
  | some l =>
    let s := { s with skn := { s.skn with phase := 4 } }
    (s.forCh (l.chImages.map (·.1)) fun s c => s.modCh c fun x => { x with skn := { x.skn with state := .applying } }).loadDone

/-- The last byte has been received (R87, R88). The checks that are left take no time, so that PHASE 3 shows in a WHOLE load alone,
until its module section has been applied (log entry 27, DESIGN CHOICE). -/
def State.streamDone (s : State) : State :=
  let s := s.modLoad fun l => { l with complete := true }
  match s.skn.load with
  | none => s
  | some l =>
    match l.fatal with
    | some r => s.loadFail r.reason false
    | none => if l.kind = .whole then { s with skn := { s.skn with phase := 3 } } else s.applyBegin

/-- A word written to SKN_DATA (R85). -/
def State.sknData (s : State) (w : Word) : State :=
  match s.skn.load with
  | none => { s with skn := { s.skn with events := evSet s.skn.events SknEv.stray } }
  | some l =>
    if l.complete then { s with skn := { s.skn with events := evSet s.skn.events SknEv.stray } }
    else
      let l := { l with words := w :: l.words, received := l.received + 1, wordAt := s.now }
      let n := 8 * l.received
      let s := { s with skn := { s.skn with load := some l, received := BitVec.ofNat 32 l.received } }
      let s := if n = 512 then ({ s with skn := { s.skn with phase := 2 } }).headerDone l else s
      let s := match l.dir.find? fun e => e.offset + e.len == n with
        | some e => if l.fatal.isNone then s.sectionDone l e else s
        | none => s
      if n = l.length then s.streamDone else s

/-- SKN_DATA (R85). -/
def execSknData (t : Tbu) (w : Word) (s : State) : Host.Outcome State Fault Refusal := .next ((s.atTime t).ifPort fun s => s.sknData w)

/-! ### Apply (R88 to R90, R98) -/

/-- A lock mask record; 0 when it is absent (R97). -/
def lockMask (p : List Byte) : Word := payloadWord p 0

/-- MODULE_SECTION_APPLIED (R88, R98, R398, R491): the module section is in force, and the channel sections follow. -/
def State.applyModule (s : State) (m : ModImage) : State :=
  let cfg := pack [(num m.linkCfg 4 2, 48), (num m.linkCfg 2 2, 32), (byteAt m.linkCfg 0, 0)]
  let s := { s with
    skn := { s.skn with image := m, locks := lockMask m.locks }
    hp := { s.hp with cfg := cfg }
    flt := { s.flt with cfg := if m.faultPolicy.isEmpty then 100 else word (num m.faultPolicy 16 2) } }
  (s.modLoad fun l => { l with modApplied := true }).applyBegin

def execModuleSectionApplied (t : Tbu) (s : State) : Host.Outcome State Fault Refusal :=
  let s := s.atTime t
  .next (match s.skn.load with
    | some l =>
      if l.complete && l.kind == .whole && !l.modApplied then
        match l.modImage with
        | some m => s.applyModule m
        | none => s
      else s
    | none => s)

/-- The creel's contents and the bobbin store when the CREEL_MAP changes (R90, R358). -/
def Chan.creelInvalid (c : Chan) : Chan :=
  { c with mem := { (c.mem.dropUses [.head, .ahead, .direct, .again]).reloadPins with again := [], invalid := true, data := [], cache := [] } }

/-- DST_LANE_CFG of lane `l` at apply (R99): EN keeps its value. -/
def laneDefault (im : ChImage) (l : Nat) (old : Word) : Word :=
  let b := if im.defaults.isEmpty then 1 else byteAt im.defaults l
  pack [(fld old 0 1, 0), (b / 16 % 2, 1), (b % 4, 2), (b / 4 % 4, 4)]

/-- The fields with reset entry "skein" that the host can also write (R89, R98). -/
def Chan.imageFields (c : Chan) (cyc : Nat) : Chan :=
  let im := c.skn.image
  let lim := fun k => pack [(im.limLo k, 0), (im.limHi k, 16)]
  let ana := { c.ana with
    wavCfg := if im.restLevels.isEmpty then 0 else word (byteAt im.restLevels 32)
    stbCfg := if im.restLevels.isEmpty then 0 else word (byteAt im.restLevels 33)
    lim := #v[lim 0, lim 1, lim 2, lim 3], stage := im.restWord }
  let keepMem := c.mem.cfg &&& ~~~(pack [(0xFFFF, 48), (7, 40)])
  let keepRoute := c.seq.routeCfg &&& ~~~(3 : Word)
  { c with
    ana := { ana with rangeNow := rangeOf ana.wavCfg, rangeAt := none }.stageNote c.ana cyc
    mem := { c.mem with cfg := keepMem ||| pack [(num im.creelMap 8 2, 48), (byteAt im.creelMap 10, 40)] }
    jnc := { c.jnc.cellClear cyc with
      lutFilt := pack ((upTo 16).map fun k => (byteAt im.lut (16 * k + 8), 4 * k))
      gov := ⟨((upTo 64).map fun j => (BitVec.ofNat 16 (num im.wiring (384 + 2 * j) 2))).toArray, by simp [upTo]⟩
      grpEn := 0xFF, genCycle := none, cfgCycle := none }
    dst := { c.dst with laneCfg := ⟨((upTo 24).map fun l => laneDefault im l (vget c.dst.laneCfg l 0)).toArray, by simp [upTo]⟩ }
    seq := { c.seq with routeCfg := keepRoute ||| pack [(if im.defaults.isEmpty then 0 else byteAt im.defaults 24, 0)] }
    cal := { c.cal with loopCfg := 3 }
    tlh := { c.tlh with prio := BitVec.ofNat 4 (byteAt im.power 1), prioNow := BitVec.ofNat 4 (byteAt im.power 1) } }

/-- The section of a channel is applied, and its Doffer released (R88, R89, R90). -/
def State.applyChannel (s : State) (ch : ChanId) (im : ChImage) : State :=
  let s := s.abortServices ch
  s.modCh ch fun c =>
    let differs := slice c.skn.image.creelMap 0 6 != slice im.creelMap 0 6
    let c : Chan := { c with skn := { c.skn with image := im, locks := lockMask im.locks, released := true, releasedAt := s.now }
                             dof := { c.dof with restarting := false } }
    let c := if differs then c.creelInvalid else c
    c.imageFields s.cycle

/-- CHANNEL_SECTION_APPLIED (R89). -/
def execChannelSectionApplied (t : Tbu) (ch : ChanId) (s : State) : Host.Outcome State Fault Refusal :=
  let s := s.atTime t
  .next (match s.skn.load with
    | some l =>
      match l.chImages.find? fun x => x.1 == ch with
      | some x => if (s.ch ch).skn.state = .applying ∧ !(s.ch ch).skn.released then s.applyChannel ch x.2 else s
      | none => s
    | none => s)

/-- The channel is CONFIGURED (R89, R245). Where its initial training is due it enters TRIM for it, in a WHOLE load with the others
at WOUND (R109). -/
def State.selfCheckPass (s : State) (ch : ChanId) : State :=
  let s := s.modCh ch fun c =>
    { c with
      skn := { c.skn with state := .configured, released := false, loads := satInc c.skn.loads, imageId := c.skn.image.imageId
                          digest := c.skn.image.digest }
      ana := { c.ana with now := c.skn.image.restWord } }
  let s := if s.skn.load.any fun l => l.kind == .whole then s else s.startInitial ch
  (s.loadResolve ch).loadDone

/-- DOFFER_SELF_CHECK_PASS (R86, R89): a pass within 50 ms of release. -/
def execDofferSelfCheckPass (t : Tbu) (ch : ChanId) (s : State) : Host.Outcome State Fault Refusal :=
  let s := s.atTime t
  .next (if (s.ch ch).skn.released ∧ s.now ≤ (s.ch ch).skn.releasedAt + checkLimit then s.selfCheckPass ch else s)

/-- DOFFER_CHECK_TIMEOUT (R86, DOFFER): no passed self-check within 50 ms of release. -/
def execDofferCheckTimeout (t : Tbu) (ch : ChanId) (s : State) : Host.Outcome State Fault Refusal :=
  let s := s.atTime t
  .next (if (s.ch ch).skn.released ∧ (s.ch ch).skn.releasedAt + checkLimit ≤ s.now then (s.refuseChannel ch 0x0F 0).loadDone else s)

end Sys2Proof.Machine
end

