-- ==== Sys2Proof/Machine/Link.lean ====
section
/-! DEFINITION. The SarLane link: lanes, block lock, ALIGN and IDLE blocks, link up, acknowledgements, replays, lane drops and
the loss of the link (R104, R105, R390 to R397). -/

namespace Sys2Proof.Machine

/-- Bits set in a lane mask. -/
def laneCount (m : BitVec 8) : Nat := ((upTo 8).filter fun i => bit m i).length

/-- MIN_LANES (R423): outside 4 to 8 it acts as the nearer end. -/
def Hp.minLanes (h : Hp) : Nat := min 8 (max 4 (fld h.cfg 0 4))

/-- The lanes that both ends report locked (R395). -/
def Hp.bothLocked (h : Hp) : BitVec 8 := h.locked &&& h.farLocked

def Hp.event (h : Hp) (k : Nat) : Hp := { h with events := evSet h.events k }

/-- The link layer without a link: nothing outstanding, nothing to send, and no completion for what is still held back. -/
def Hp.clear (h : Hp) : Hp :=
  { h with
    active := 0, farLocked := 0, idleSeen := false, failing := 0, alignBad := Vector.replicate 8 0
    rxSeq := 0, lackOut := 0, nakSent := false, naks := [], unlacked := []
    txSeq := 0, outstanding := [], unsent := []
    reqs := h.reqs.map fun (r : HostReq) => { r with tag := none }
    bcastTag := h.bcastTag.map fun _ => none }

/-- The completion of a held access is discarded. -/
def AccSource.forget (x : AccSource) : AccSource :=
  match x with
  | .request _ => .request none
  | _ => x

/-- The link layer is cleared, and accesses held back lose their completions (R397). -/
def State.linkClear (s : State) (st : LinkState) : State :=
  let s := { s with hp := { s.hp.clear with state := st }, mod := { s.mod with linkUp := false } }
  s.forCh allCh fun s c => s.modMem c fun m => { m with winHeld := m.winHeld.map fun (a : HeldAcc) => { a with src := a.src.forget } }

/-! ### Loss of the link (R94, R104, R105, R397) -/

/-- The link is lost: training starts again at once, and the mode and channels act as R104 and R105 say. -/
def State.linkLoss (s : State) : State :=
  let s := s.linkClear .training
  let s := { s with hp := { s.hp.event HpEv.linkDown with losses := satInc s.hp.losses } }
  match s.mod.mode with
  | .linked => s.setMode .dark
  | .spooling => s.loadAbort 0x10 2
  | .wound | .shedding | .quarantine =>
    let s := { s with mod := { s.mod with events := evSet s.mod.events ModEv.linkLost } }
    let s := s.loadAbort 0x10 2
    if bit s.mod.cfg 0 then
      s.forCh allCh fun s c => s.modCh c fun x => if x.mod.state = .run then x.latchHold Cause.link s.cycle else x
    else s
  | _ => s

/-! ### Training and link up (R395) -/

/-- Training is complete. -/
def State.linkReady (s : State) : Bool :=
  s.hp.state == .training && s.side.tap != .extest && decide (s.hp.minLanes ≤ laneCount s.hp.bothLocked) && s.hp.idleSeen

/-- Send one CREDIT for every queue in state OPEN (R397). -/
def State.sendCredits (s : State) (ch : ChanId) : State :=
  ((s.ch ch).stq.queues.filter fun e => e.2.state == .open).foldl
    (fun s e => s.send (.credit (globalQueue ch e.1) (BitVec.ofNat 32 e.2.limit))) s

/-- The link is up; in DARK with the bank charged the module enters LINKED (R104). -/
def State.linkUp (s : State) : State :=
  let h := s.hp
  let x : Hp := h.clear.event HpEv.linkUp
  let x : Hp := { x with state := .up, active := h.bothLocked, farLocked := h.farLocked, idleSeen := true
                         laneErr := Vector.replicate 8 0, ackAt := s.now, blockAt := s.now }
  let s : State := { s with hp := x, mod := { s.mod with linkUp := true } }
  let s := s.forCh allCh State.sendCredits
  if s.mod.mode = .dark ∧ s.mod.bankOk then s.setMode .linked else s

/-- LINK_UP (R395). -/
def execLinkUp (t : Tbu) (s : State) : Host.Outcome State Fault Refusal :=
  let s := s.atTime t
  .next (if s.linkReady then s.linkUp else s)

/-- The lanes locked at this end and at the other: in training those locked at both are active (R395), and a lane newly locked at
both begins a time without error (R396). -/
def Hp.relock (h : Hp) (locked far : BitVec 8) (now : Tbu) : Hp :=
  let both := locked &&& far
  { h with
    locked := locked, farLocked := far, active := if h.state = .training then both else h.active
    goodSince := eights fun i => if bit both i.val && !bit h.bothLocked i.val then now else h.goodSince[i] }

/-- Lanes of an up link are marked for a drop when they are active (R396). -/
def Hp.fail (h : Hp) (lanes : BitVec 8) : Hp := if h.state = .up then { h with failing := h.failing ||| (h.active &&& lanes) } else h

/-- The mask of one lane. -/
def laneBit (lane : Fin 8) : BitVec 8 := setBit 0 lane.val

/-- A valid block has arrived (R397). -/
def State.heard (s : State) : State := if s.hp.state = .up then { s with hp := { s.hp with blockAt := s.now } } else s

/-- BLOCK_LOCK (R395). -/
def execBlockLock (t : Tbu) (lane : Fin 8) (s : State) : Host.Outcome State Fault Refusal :=
  let s := s.atTime t
  .next (if s.hp.state = .down then s else { s with hp := s.hp.relock (setBit s.hp.locked lane.val) s.hp.farLocked s.now })

/-- BLOCK_LOCK_LOST (R396): an active lane is marked for a drop. -/
def execBlockLockLost (t : Tbu) (lane : Fin 8) (s : State) : Host.Outcome State Fault Refusal :=
  let s := s.atTime t
  .next { s with hp := (s.hp.relock (clrBit s.hp.locked lane.val) s.hp.farLocked s.now).fail (laneBit lane) }

/-- SYNC_HEADER_ERROR (R392, R396): sixteen within 1 µs mark an active lane for a drop. -/
def execSyncHeaderError (t : Tbu) (lane : Fin 8) (s : State) : Host.Outcome State Fault Refusal :=
  let s := s.atTime t
  let h := s.hp
  let l := ((s.now :: h.errTimes[lane]).filter fun x => decide (s.now < x + us)).take 16
  let h := { h with
    laneErr := if h.state = .up then vput h.laneErr lane (satInc h.laneErr[lane]) else h.laneErr
    errTimes := vput h.errTimes lane l, goodSince := vput h.goodSince lane s.now }
  .next { s with hp := if l.length = 16 then h.fail (laneBit lane) else h }

/-! ### ALIGN blocks (R391, R392, R396) -/

/-- 75 block times of 66 bits at 28.125 GBd, and 75 times the 4,096 blocks between ALIGN blocks, in tbu (R390, R391). -/
def block75 : Nat := 90112
def align75 : Nat := 4096 * block75

/-- How many ALIGN periods after the last one in place an ALIGN block stands, when it stands within one block of such a place
(DEDUCED, log entry 65). -/
def Hp.alignPlace (h : Hp) (lane : Fin 8) (now : Tbu) : Option Nat :=
  let d := 75 * (now - h.alignAt[lane])
  let k := (2 * d + align75) / (2 * align75)
  if 1 ≤ k ∧ d ≤ k * align75 + block75 ∧ k * align75 ≤ d + block75 then some k else none

/-- A lane has met an error: its time without one begins anew (R396). -/
def Hp.laneFault (h : Hp) (lane : Fin 8) (now : Tbu) : Hp := { h with goodSince := vput h.goodSince lane now }

/-- An ALIGN block from which the next ones of its lane are counted. -/
def Hp.alignHere (h : Hp) (lane : Fin 8) (now : Tbu) : Hp :=
  { h with alignAt := vput h.alignAt lane now, alignBad := vput h.alignBad lane 0 }

/-- An ALIGN block arrives on a lane: one missing or out of place is an error, and two in a row mark an active lane for a drop; a
lane that is not active takes its places from the block that arrives (R396). -/
def Hp.alignOn (h : Hp) (lane : Fin 8) (now : Tbu) : Hp :=
  if h.state = .up then
    match h.alignPlace lane now with
    | some 1 => h.alignHere lane now
    | some k =>
      let h := (h.alignHere lane now).laneFault lane now
      if 3 ≤ k then h.fail (laneBit lane) else h
    | none =>
      let n := h.alignBad[lane] + 1
      let h := h.laneFault lane now
      if !bit h.active lane.val then h.alignHere lane now
      else
        let h := { h with alignBad := vput h.alignBad lane n }
        if 2 ≤ n then h.fail (laneBit lane) else h
  else h.alignHere lane now

/-- `n` ALIGN blocks in a row are missing on a lane at instant `now`. -/
def Hp.alignMissing (h : Hp) (n : Nat) (lane : Fin 8) (now : Tbu) : Bool := decide (n * align75 + block75 < 75 * (now - h.alignAt[lane]))

/-- Two ALIGN blocks in a row are missing on a lane at instant `now`. -/
def Hp.alignLost (h : Hp) (lane : Fin 8) (now : Tbu) : Bool := h.alignMissing 2 lane now

/-- ALIGN (R391, R392): the far end's lock mask; an active lane it reports unlocked is marked for a drop (R396). On an active lane
it is a valid block of the link (R397). -/
def execAlign (t : Tbu) (lane : Fin 8) (mask : Byte) (s : State) : Host.Outcome State Fault Refusal :=
  let s := s.atTime t
  let s := if bit s.hp.active lane.val then s.heard else s
  .next (if s.hp.state = .down then s
    else { s with hp := ((s.hp.relock s.hp.locked mask s.now).fail (~~~mask)).alignOn lane s.now })

/-! ### Lanes (R396) -/

/-- An active lane is to be dropped (R396). -/
def Hp.drops' (h : Hp) (lane : Fin 8) (now : Tbu) : Bool :=
  h.state == .up && bit h.active lane.val && (bit h.failing lane.val || h.alignLost lane now)

/-- LANE_DROP (R396, R397, R477): a drop that leaves too few lanes loses the link; any other is a masked fault. -/
def State.laneDrop (s : State) (lane : Fin 8) : State :=
  if s.hp.drops' lane s.now then
    let h := { (s.hp.laneFault lane s.now).event HpEv.laneDrop with
      active := clrBit s.hp.active lane.val, failing := clrBit s.hp.failing lane.val, drops := satInc s.hp.drops }
    let s := { s with hp := h }
    if laneCount h.active < h.minLanes then s.linkLoss else s.logRecord none 0x05 lane.val 0 0
  else s

def execLaneDrop (t : Tbu) (lane : Fin 8) (s : State) : Host.Outcome State Fault Refusal := .next ((s.atTime t).laneDrop lane)

/-- A lane has been without error for 1 ms: sync headers, lock and ALIGN blocks (R396). -/
def Hp.lanePure (h : Hp) (lane : Fin 8) (now : Tbu) : Bool := decide (h.goodSince[lane] + ms ≤ now) && !h.alignMissing 1 lane now

/-- LANE_ADD (R396): a dropped lane that both ends report locked again, and that has been without error for 1 ms. -/
def execLaneAdd (t : Tbu) (lane : Fin 8) (s : State) : Host.Outcome State Fault Refusal :=
  let s := s.atTime t
  .next (if s.hp.state = .up ∧ !bit s.hp.active lane.val ∧ bit s.hp.bothLocked lane.val ∧ s.hp.lanePure lane s.now then
      { s with hp := { s.hp.event HpEv.laneAdd with active := setBit s.hp.active lane.val } }
    else s)

/-- LOSS_US in tbu; outside 10 to 10,000 it acts as the nearer end (R423). -/
def Hp.lossTbu (h : Hp) : Nat := min 10000 (max 10 (fld h.cfg 48 16)) * us

/-- LINK_SILENCE_TIMEOUT (R397): no valid block for LOSS_US. -/
def execLinkSilenceTimeout (t : Tbu) (s : State) : Host.Outcome State Fault Refusal :=
  let s := s.atTime t
  .next (if s.hp.state = .up ∧ s.hp.blockAt + s.hp.lossTbu ≤ s.now then s.linkLoss else s)

/-! ### Acknowledgement and replay (R393, R394, R397) -/

/-- The frames after the one numbered `k`; all of them when none is. -/
def afterSeq (k : BitVec 12) (l : List Sent) : List Sent :=
  if l.any (·.seq == k) then (l.dropWhile (·.seq != k)).drop 1 else l

/-- A LACK covers the frames up to the one it names; those waiting take their place. -/
def Hp.ack (h : Hp) (lack : BitVec 12) (now : Tbu) : Hp :=
  Hp.fill now maxOutstanding { h with
    outstanding := afterSeq lack h.outstanding, ackAt := if h.outstanding.any (·.seq == lack) then now else h.ackAt }

/-- IDLE (R392, R395): it ends one condition of training, and carries LACK. -/
def execIdle (t : Tbu) (lack : BitVec 12) (s : State) : Host.Outcome State Fault Refusal :=
  let s := (s.atTime t).heard
  .next (match s.hp.state with
    | .down => s
    | .training => { s with hp := { s.hp with idleSeen := true } }
    | .up => { s with hp := s.hp.ack lack s.now })

/-- A frame is sent again, with the present LACK. -/
def Sent.again (x : Sent) (lack : BitVec 12) : Sent := { x with bytes := frameBytes x.seq lack x.pkt, replays := x.replays + 1 }

/-- The frames from the one numbered `k` on are sent again. -/
def replayFrom (k lack : BitVec 12) (l : List Sent) : List Sent :=
  l.takeWhile (·.seq != k) ++ (l.dropWhile (·.seq != k)).map fun x => x.again lack

/-- The sender replays from frame `k`; a frame replayed 16 times loses the link (R397). -/
def State.replay (s : State) (k : BitVec 12) : State :=
  if s.hp.state = .up ∧ s.hp.outstanding.any (·.seq == k) then
    let s := { s with hp := { s.hp with
      outstanding := replayFrom k s.hp.lackOut s.hp.outstanding, ackAt := s.now, replays := satInc s.hp.replays } }
    if s.hp.outstanding.any fun x => decide (16 ≤ x.replays) then s.linkLoss else s
  else s

/-- NAK (R394): a NAK block arrives. -/
def execNak (t : Tbu) (lseq : BitVec 12) (s : State) : Host.Outcome State Fault Refusal := .next (((s.atTime t).heard).replay lseq)

/-- REPLAY_TO in tbu; outside 5 to 1,000 units of 100 ns it acts as the nearer end (R423). -/
def Hp.replayTbu (h : Hp) : Nat := min 1000 (max 5 (fld h.cfg 32 16)) * 100 * ns

/-- REPLAY_TIMEOUT (R394): LACK has not advanced for REPLAY_TO while frames are outstanding. -/
def execReplayTimeout (t : Tbu) (s : State) : Host.Outcome State Fault Refusal :=
  let s := s.atTime t
  .next (match s.hp.outstanding with
    | x :: _ => if s.hp.ackAt + s.hp.replayTbu ≤ s.now then s.replay x.seq else s
    | [] => s)

/-! ### Boundary scan (R422) -/

/-- The TAP controller's next state by TMS (IEEE 1149.1). -/
def TapState.next : TapState → Bool → TapState
  | .reset, tms => if tms then .reset else .idle
  | .idle, tms | .updDr, tms | .updIr, tms => if tms then .selDr else .idle
  | .selDr, tms => if tms then .selIr else .capDr
  | .capDr, tms | .shiftDr, tms => if tms then .exit1Dr else .shiftDr
  | .exit1Dr, tms => if tms then .updDr else .pauseDr
  | .pauseDr, tms => if tms then .exit2Dr else .pauseDr
  | .exit2Dr, tms => if tms then .updDr else .shiftDr
  | .selIr, tms => if tms then .reset else .capIr
  | .capIr, tms | .shiftIr, tms => if tms then .exit1Ir else .shiftIr
  | .exit1Ir, tms => if tms then .updIr else .pauseIr
  | .pauseIr, tms => if tms then .exit2Ir else .pauseIr
  | .exit2Ir, tms => if tms then .updIr else .shiftIr

/-- A bit goes through the register that the instruction selects: the bypass register, or the boundary register. -/
def SidePort.shiftBit (p : SidePort) (b : Bool) : SidePort :=
  if p.tap = .bypass then { p with tdo := p.tdo ++ [p.bypass], bypass := b }
  else { p with tdo := p.tdo ++ [p.boundary.headD false], boundary := p.boundary.drop 1 ++ [b] }

/-- What a state of the controller does as it is entered: `i` is the instruction that an IR scan loads, `pins` what the covered
pins carry. After Test-Logic-Reset BYPASS is selected. -/
def SidePort.entered (p : SidePort) (i : TapInstr) (pins : List Bool) : SidePort :=
  match p.tapState with
  | .reset => { p with tap := .bypass }
  | .updIr => { p with tap := i }
  | .capDr => if p.tap = .bypass then { p with bypass := false } else { p with boundary := pins }
  | .updDr => if p.tap = .bypass then p else { p with latched := p.boundary }
  | _ => p

/-- One clock of the port, with TMS and TDI. -/
def SidePort.clock (i : TapInstr) (pins : List Bool) (p : SidePort) (x : Bool × Bool) : SidePort :=
  let p := if p.tapState = .shiftDr then p.shiftBit x.2 else p
  ({ p with tapState := p.tapState.next x.1 } : SidePort).entered i pins

/-- TMS and TDI of a scan that loads an instruction and then shifts `l` through the register it selects, from Run-Test/Idle and
back to it. -/
def tapScan (l : List Bool) : List (Bool × Bool) :=
  let tms := fun (l : List Bool) => l.map fun b => (b, false)
  tms [true, true, false, false, true, true, false] ++ tms [true, false]
    ++ (match l.reverse with
        | [] => tms [true]
        | b :: r => (false, false) :: r.reverse.map (fun x => (false, x)) ++ [(true, b)])
    ++ tms [true, false]

/-- The port after such a scan. -/
def SidePort.scan (p : SidePort) (i : TapInstr) (pins shift : List Bool) : SidePort :=
  let p := { p with tdo := [] }
  let p := if p.tapState = .reset then p.clock i pins (false, false) else p
  (tapScan shift).foldl (SidePort.clock i pins) p

/-- TAP_INSTRUCTION (R422): EXTEST is taken only in DARK, where it stops link training; elsewhere it acts as BYPASS. -/
def State.tapSelect (s : State) (i : TapInstr) (pins shift : List Bool) : State :=
  let ext := i == .extest && s.mod.mode == .dark
  let s := { s with side := s.side.scan (if i = .extest ∧ !ext then .bypass else i) pins shift }
  if ext then s.linkClear .down
  else if s.mod.mode = .dark ∧ s.mod.bankOk ∧ s.hp.state = .down then { s with hp := { s.hp with state := .training } } else s

def execTapInstruction (t : Tbu) (x : TapScan) (s : State) : Host.Outcome State Fault Refusal :=
  let s := s.atTime t
  .next (if s.powered then s.tapSelect x.instr x.pins x.shift else s)

end Sys2Proof.Machine
end

