-- ==== Sys2Proof/Machine/Queues.lean ====
section
/-! DEFINITION. Streaming queues: OPEN and CLOSE, queue data, credit, fills and bulk queues (R404 to R418). -/

namespace Sys2Proof.Machine

/-! ### STQ_CMD (R405, R406, R417) -/

def cmdQueue (w : Word) : Nat := fld w 7 12

/-- A word with its CMD field 0, as STQ_PEEK shows it (R424). -/
def openWord (w : Word) : Word := w &&& ~~~(0xF : Word)

/-- The condition BAD_CMD: another CMD or MODE, or a bit set that R405 gives as 0. -/
def stqBad (w : Word) : Bool :=
  match fld w 0 4 with
  | 1 => (fld w 4 2 != 1 && fld w 4 2 != 2) || (fld w 4 2 == 1 && fld w 49 15 != 0)
  | 2 => fld w 4 3 != 0 || fld w 19 45 != 0
  | _ => true

/-- The queue that an accepted OPEN makes of the present descriptors (R406, R407). -/
def Chan.openedQueue (c : Chan) (w : Word) : Queue :=
  let q : Queue := { state := .open, bulk := fld w 4 2 == 2, word := openWord w }
  if q.bulk then q
  else { q with base := c.seq.segAddr q.seg, len64 := c.seq.segLen64 q.seg
                fmt := BitVec.ofNat 2 (c.ply.formatReg (c.seq.segProfile q.seg)) }

/-- The condition RANGE of an OPEN. -/
def Queue.rangeBad (x : Queue) : Bool :=
  if x.bulk then x.bulkLen == 0 || decide (2 ^ 34 < x.bulkLen) || decide (2 ^ 34 < x.bulkBase + x.bulkLen)
  else decide (x.nbuf < 2) || decide (2 ^ 34 < x.base + x.nbuf * x.stride)

/-- The condition SEGMENT of an OPEN. -/
def Chan.segmentBad (c : Chan) (x : Queue) (q : Nat) : Bool :=
  !x.bulk && (!c.seq.segValid x.seg || !c.seq.segStreamed x.seg || c.seq.segQueue x.seg != q)

/-- The first code of R406 that applies to a word, or 0. -/
def Chan.stqTest (c : Chan) (w : Word) : Byte :=
  let q := cmdQueue w
  let x := c.openedQueue w
  let opening := fld w 0 4 == 1
  if !c.configured then 0x01
  else if stqBad w then 0x0A
  else if opening && (c.stq.q q).state != .closed then 0x02
  else if !opening && (c.stq.q q).state == .closed then 0x06
  else if opening && c.segmentBad x q then 0x04
  else if opening && x.rangeBad then 0x03
  else 0

/-- STQ_RESULT and the queue's LAST take the outcome of a command. -/
def Stq.outcome (s : Stq) (w : Word) (code : Byte) : Stq :=
  let q := cmdQueue w
  { s.setQ q { s.q q with last := code } with resultQ := BitVec.ofNat 12 q, resultCmd := BitVec.ofNat 4 (fld w 0 4), result := code }

/-- The staged data of a queue is written to the creel (R417). -/
def Chan.flushStaged (c : Chan) (q : Nat) (now : Tbu) : Chan :=
  (c.stq.staged.filter fun x => x.queue == q).foldl (fun c x => c.creelWrite 1 x.addr x.data now) c

/-- The partial fill of a queue that ends is discarded (R417). -/
def Stq.dropPartial (s : Stq) (q : Nat) (x : Queue) : Stq :=
  { s with staged := s.staged.filter fun y => y.queue != q || decide (y.unit < x.pos / max 1 x.units * max 1 x.units) }

/-- The effect of an accepted CLOSE (R417). -/
def State.closeCmd (s : State) (ch : ChanId) (q : Nat) : State :=
  let x := (s.ch ch).stq.q q
  if x.bulk || x.state == .done then (s.modCh ch fun c => c.flushStaged q s.now).closeQueue ch q
  else (s.modCh ch fun c => { c with stq := (c.stq.setQ q { x with state := .ending }).dropPartial q x }).closeEnded ch

/-- A write of STQ_CMD: tested under R406, and acted on. -/
def State.stqCommand (s : State) (ch : ChanId) (w : Word) : State :=
  let q := cmdQueue w
  let code := (s.ch ch).stqTest w
  let s := s.modCh ch fun c => { c with stq := c.stq.outcome w code }
  if code ≠ 0 then s.qcpl ch q 0x02 code
  else if fld w 0 4 = 1 then (s.modCh ch fun c => { c with stq := c.stq.setQ q (c.openedQueue w) }).qcpl ch q 0x01 0
  else s.closeCmd ch q

/-- OPEN (R405): a write of STQ_CMD with CMD = 1. -/
def execOpenQ (t : Tbu) (ch : ChanId) (w : Word) (s : State) : Host.Outcome State Fault Refusal :=
  .next ((s.atTime t).ifWindow fun s => s.stqCommand ch (withCmd w 1))

/-- CLOSE (R405): a write of STQ_CMD with CMD = 2. -/
def execCloseQ (t : Tbu) (ch : ChanId) (w : Word) (s : State) : Host.Outcome State Fault Refusal :=
  .next ((s.atTime t).ifWindow fun s => s.stqCommand ch (withCmd w 2))

/-! ### Queue data (R408, R409, R418) -/

/-- Creel address of 64-byte unit `u` of a queue's stream (R407, R418). -/
def Queue.unitAddr (x : Queue) (u : Nat) : Nat :=
  if x.bulk then x.bulkBase + 64 * u else x.fillAddr (u / max 1 x.units) + 64 * (u % max 1 x.units)

/-- The 64-byte units of a packet's payload, as the staging buffer takes them (R409). -/
def Queue.unitsOf (x : Queue) (q : Nat) (bytes : List Byte) : List StagedUnit :=
  (upTo (bytes.length / 64)).map fun i =>
    { queue := q, unit := x.pos + i, addr := x.unitAddr (x.pos + i), data := slice bytes (64 * i) 64 }

/-- The valid lengths of a QDATA payload, in words (R408). -/
def qdataLens : List Nat := [8, 16, 24, 32]

/-- The first reason of R409 for refusing a packet, or 0. -/
def State.qdataTest (s : State) (ch : ChanId) (q len : Nat) (pos : BitVec 32) : Byte :=
  let c := s.ch ch
  let x := c.stq.q q
  if c.skn.state = .loading then 0x41
  else if !c.configured || !s.domains then 0x45
  else if x.state ≠ .open then 0x41
  else if BitVec.ofNat 32 x.pos ≠ pos then 0x42
  else if x.limit < x.pos + len / 8 then 0x43
  else if !qdataLens.contains len then 0x44
  else 0

/-- A packet is refused; ORDER, CREDIT and SIZE fault its queue. -/
def State.qdataRefuse (s : State) (queue : BitVec 16) (pos : BitVec 32) (why : Byte) : State :=
  let ch : ChanId := Fin.ofNat 16 (queue.toNat / 4096)
  let q := queue.toNat % 4096
  let s := { s with hp := { s.hp with
    qdataErr := pack [(queue.toNat, 48), (why.toNat, 40), (pos.toNat, 0)], events := evSet s.hp.events HpEv.qdataRefused } }
  if why = 0x41 ∨ why = 0x45 then s
  else
    (s.modCh ch fun c =>
      let st := c.stq.setQ q { c.stq.q q with state := .faulted, last := why }
      { c with stq := { st with events := evSet st.events StqEv.fault } }).qcpl ch q 0x06 why

/-- A QDATA packet (R409). -/
def State.qdata (s : State) (queue : BitVec 16) (len : Byte) (pos : BitVec 32) (data : List Word) : State :=
  let ch : ChanId := Fin.ofNat 16 (queue.toNat / 4096)
  let q := queue.toNat % 4096
  let why := s.qdataTest ch q len.toNat pos
  if why ≠ 0 then s.qdataRefuse queue pos why
  else s.modCh ch fun c =>
    let x := c.stq.q q
    { c with stq := { c.stq.setQ q { x with pos := x.pos + len.toNat / 8 } with
        staged := c.stq.staged ++ x.unitsOf q (data.flatMap wordBytes) } }

/-! ### Credit (R410) -/

/-- The ring bound of a queue's LIMIT. -/
def Queue.ringLimit (x : Queue) : Nat := if x.bulk then x.bulkLen / 64 else x.units * (x.released + x.nbuf)

/-- The LIMIT that the ring and queue bounds allow. -/
def Queue.wanted (x : Queue) : Nat := min x.ringLimit (x.pos + 256)

/-- A rise of LIMIT to `l` is large enough: at least 64 units, or up to the ring bound. -/
def Queue.stepOk (x : Queue) (l : Nat) : Bool := decide (x.limit < l) && (decide (x.limit + 64 ≤ l) || l == x.ringLimit)

/-- Queues in state OPEN whose LIMIT the ring and queue bounds let rise. -/
def Stq.raisable (s : Stq) : List Nat := (s.queues.filter fun e => e.2.state == .open && e.2.stepOk e.2.wanted).map (·.1)

/-- Unused credit that the channel may still give. -/
def Stq.room (s : Stq) : Nat := 4096 - s.staged.length - ((s.queues.filter fun e => e.2.state == .open).map fun e => e.2.limit - e.2.pos).foldl (· + ·) 0

/-- The channel bound holds queues back. -/
def Stq.scarce (s : Stq) : Bool := decide (s.room < ((s.raisable.map s.q).map fun x => x.wanted - x.limit).foldl (· + ·) 0)

/-- The queue whose turn it is: the next after the one served last. -/
def Stq.turnOf (s : Stq) : Option Nat :=
  match s.raisable.find? (s.robin < ·) with
  | some q => some q
  | none => s.raisable.head?

/-- CREDIT (R410): LIMIT of a queue rises as far as its bounds allow. -/
def State.credit (s : State) (ch : ChanId) (q : Nat) : State :=
  let st := (s.ch ch).stq
  let x := st.q q
  let l := min x.wanted (x.limit + st.room)
  if x.state == .open && x.stepOk l && (s.ch ch).configured && (!st.scarce || st.turnOf == some q) then
    let s := s.modCh ch fun c => { c with stq := { c.stq.setQ q { x with limit := l } with robin := q } }
    s.send (.credit (globalQueue ch q) (BitVec.ofNat 32 l))
  else s

def execCredit (t : Tbu) (ch : ChanId) (q : BitVec 12) (s : State) : Host.Outcome State Fault Refusal := .next ((s.atTime t).credit ch q.toNat)

/-! ### Fills and bulk queues (R411, R418) -/

/-- Every byte of the next fill has been accepted. -/
def Queue.fillDue (x : Queue) : Bool :=
  !x.bulk && (x.state == .open || x.state == .ending || x.state == .faulted) && decide ((x.complete + 1) * max 1 x.units ≤ x.pos)

/-- The creel controller has received every unit of queue `q` below unit `n` (R411, R418). -/
def Stq.received (s : Stq) (q n : Nat) : Bool := s.staged.all fun x => x.queue != q || decide (n ≤ x.unit)

/-- FILL_COMPLETE (R411). -/
def execFillComplete (t : Tbu) (ch : ChanId) (q : BitVec 12) (s : State) : Host.Outcome State Fault Refusal :=
  .next ((s.atTime t).modCh ch fun c =>
    let x := c.stq.q q.toNat
    if x.fillDue && c.stq.received q.toNat ((x.complete + 1) * max 1 x.units) then { c with stq := c.stq.setQ q.toNat { x with complete := x.complete + 1 } } else c)

/-- A fill becomes ready in cycle `cyc` (R411, R420). -/
def Queue.makeReady (x : Queue) (cyc : Nat) : Queue :=
  { x with ready := x.ready + 1, readyIn := cyc, readyNew := if x.readyIn = cyc then x.readyNew + 1 else 1 }

/-- FILL_READY (R411): the head of a complete fill is held, once its lines are present; without a bobbin store it needs no hold
(R384, log entry 18), but a creel that returns data (R385). -/
def State.fillReady (s : State) (ch : ChanId) (q : Nat) : State :=
  let c := s.ch ch
  let x := c.stq.q q
  let head := x.fillHead x.ready
  let st := c.stq.setQ q (x.makeReady s.cycle)
  if !x.headDue then s
  else if c.mem.degraded then (if c.mem.creel = .lost then s else s.setCh ch { c with stq := st })
  else if c.mem.bobLostAt.isSome || !c.mem.headFits head || !head.all c.mem.present then s
  else { s with freeCtr := s.freeCtr + 1 }.setCh ch
    { c with stq := st, mem := c.mem.holdHead (c.readAhead s.cycle) s.freeCtr head }

def execFillReady (t : Tbu) (ch : ChanId) (q : BitVec 12) (s : State) : Host.Outcome State Fault Refusal :=
  .next ((s.atTime t).fillReady ch q.toNat)

/-- BULK_DONE (R418): the creel has received every byte. -/
def State.bulkDone (s : State) (ch : ChanId) (q : Nat) : State :=
  let x := (s.ch ch).stq.q q
  if x.bulk && x.state == .open && x.pos == x.bulkLen / 64 && (s.ch ch).stq.received q x.pos then
    (s.modCh ch fun c =>
      let st := c.stq.setQ q { x with state := .done }
      { c with stq := { st with events := evSet st.events StqEv.bulkDone } }).qcpl ch q 0x08 0
  else s

def execBulkDone (t : Tbu) (ch : ChanId) (q : BitVec 12) (s : State) : Host.Outcome State Fault Refusal := .next ((s.atTime t).bulkDone ch q.toNat)

end Sys2Proof.Machine
end

