-- ==== Sys2Proof/Machine/Power.lean ====
section
/-! DEFINITION. Power: reset and warm restart, the hold-up bank, the entry to HOLDUP with what it does to every channel, and
the save into a vault slot (R104, R109, R110, R119, R120, R128, R443 to R448). -/

namespace Sys2Proof.Machine

/-- MOD_MODE codes (R103). -/
def modeCode : Mode → Nat
  | .dark => 0 | .linked => 1 | .spooling => 2 | .wound => 3 | .shedding => 4 | .holdup => 5 | .vaulted => 6 | .quarantine => 7
  | .unpowered => 0

/-- MOD_CH_STAT.STATE codes (R114). -/
def chStateCode : ChState → Nat
  | .rest => 0 | .trim => 1 | .armed => 2 | .run => 3 | .held => 4 | .drain => 5

/-! ### The layout of the vault (R446 to R448) -/

/-- The bytes of words, lowest first. -/
def bytesOf (l : List Word) : List Byte := l.flatMap wordBytes

/-- MAGIC of a header and of a commit record (R447). -/
def vaultMagic : Word := 0x544C554156594741

/-- Words of an area under its CRC: 0x0_0000 to 0x2_5FFF (R448). -/
def areaWords : Nat := 0x4C00

/-- The CRC of an area with these words. -/
def areaCrc (w : Sparse Word) : BitVec 32 := crc32 (bytesOf ((upTo areaWords).map (sget 0 w)))

/-- The word at byte offset `off` of an area (R448). -/
def Area.word (a : Area) (off : Nat) : Word := if off / 8 = 0x7DFF then a.crc.setWidth 64 else sget 0 a.words (off / 8)

/-- The area CRC matches. -/
def Area.crcOk (a : Area) : Bool := a.crc == areaCrc a.words

/-- An area with these words, and its CRC. -/
def Area.sealed (w : Sparse Word) : Area := { words := w, crc := areaCrc w }

/-- Offset of channel area `n` (R446). -/
def areaAt (n : Nat) : Nat := 0x1000 + n * 0x3F000

/-- Offset of the commit record (R446). -/
def commitAt : Nat := 0x3FF000

/-- The word at byte offset `off` of a slot (R446). -/
def Slot.word (x : Slot) (off : Nat) : Word :=
  if off < 0x1000 then x.header.getD (off / 8) 0
  else if commitAt ≤ off then x.commit.getD ((off - commitAt) / 8) 0
  else if h : (off - 0x1000) / 0x3F000 < 16 then (x.areas[(off - 0x1000) / 0x3F000]).word ((off - 0x1000) % 0x3F000)
  else 0

/-- The word at byte offset `off` of the vault: slot s begins at s × 0x40_0000 (R446). -/
def Vlt.word (x : Vlt) (off : Nat) : Word := (vget x.slots (off / 0x400000) {}).word (off % 0x400000)

/-- HDR_CRC of a header: over its first 88 bytes (R447). -/
def headerCrc (l : List Word) : BitVec 32 := crc32 (bytesOf (l.take 11))

/-- The CRC of a commit record: over its first 60 bytes (R447). -/
def commitCrc (l : List Word) : BitVec 32 := crc32 ((bytesOf l).take 60)

/-- A header with these first eleven words: its HDR_CRC, and 0 to the end of its second unit (R447). -/
def headerOf (l : List Word) : List Word := l ++ [(headerCrc l).setWidth 64] ++ List.replicate 4 0

/-- The commit record of a slot with this SEQ, HDR_CRC and PRESENT (R447). -/
def commitOf (seqNo : Word) (hdrCrc : Nat) (present : BitVec 16) : List Word :=
  let l := [vaultMagic, seqNo, pack [(hdrCrc, 32), (present.toNat, 0)], 0, 0, 0, 0]
  l ++ [pack [((commitCrc (l ++ [0])).toNat, 32)]]

/-! ### The vault as read at reset (R447, R454) -/

def Slot.seqNo (x : Slot) : Word := x.word 0x10
def Slot.hdrCrc (x : Slot) : Nat := fld (x.word 0x58) 0 32
def Slot.stepping (x : Slot) : Byte := BitVec.ofNat 8 (fld (x.word 0x08) 0 8)
def Slot.present (x : Slot) : BitVec 16 := BitVec.ofNat 16 (fld (x.word (commitAt + 0x10)) 0 16)

/-- The header's MAGIC and HDR_CRC are correct. -/
def Slot.hdrOk (x : Slot) : Bool := x.word 0 == vaultMagic && x.hdrCrc == (headerCrc x.header).toNat

/-- The commit record has the correct MAGIC and CRC, the header's SEQ and its HDR_CRC. -/
def Slot.commitOk (x : Slot) : Bool :=
  x.word commitAt == vaultMagic && fld (x.word (commitAt + 0x38)) 32 32 == (commitCrc x.commit).toNat
    && x.word (commitAt + 8) == x.seqNo && fld (x.word (commitAt + 0x10)) 32 32 == x.hdrCrc

/-- A slot is valid (R447). -/
def Slot.valid (x : Slot) : Bool := x.hdrOk && x.commitOk

/-- The header is correct and the commit record is not. -/
def Slot.torn (x : Slot) : Bool := x.hdrOk && !x.commitOk

/-- The VLT_SLOT registers of a slot: 0 when it is not valid (R454). -/
def Slot.shown (x : Slot) : SlotRegs :=
  if x.valid then
    { seqNo := x.seqNo, odo := x.word 0x18, tbase := x.word 0x20, image := x.word 0x28
      info := pack [(fld (x.word 0x50) 0 16, 48), (x.present.toNat, 16), (x.stepping.toNat, 8), (fld (x.word 0x08) 16 4, 0)] }
  else {}

/-- The valid slot with the highest SEQ; slot 0 when none is. -/
def newestSlot (v : Vector Slot 2) : Bool :=
  (v[1]).valid && (!(v[0]).valid || decide ((v[0]).seqNo.toNat < (v[1]).seqNo.toNat))

def validMask (v : Vector Slot 2) : BitVec 2 := flagIf (v[1]).valid (flagIf (v[0]).valid 0 0) 1

/-- The VLT registers that a reset and a discard write. -/
def Vlt.read (x : Vlt) : Vlt :=
  { x with valid := validMask x.slots, newest := newestSlot x.slots, regs := #v[(x.slots[0]).shown, (x.slots[1]).shown] }

/-! ### Reset (R16, R109, R110) -/

/-- Power-on reset: every register at its reset value; the vault keeps its slots and is read. -/
def State.restart (s : State) : State :=
  let v := Vlt.read { slots := s.vlt.slots }
  let torn := (s.vlt.slots[0]).torn || (s.vlt.slots[1]).torn
  { State.reset with pending := s.pending, now := s.now, freeCtr := s.freeCtr, vlt := { v with events := evIf torn v.events VltEv.slotTorn } }

/-- POWER_UP (R104, R109, R429): 40.0 V for 20 ms without power. -/
def execPowerUp (t : Tbu) (s : State) : Host.Outcome State Fault Refusal :=
  let s := s.atTime t
  .next (if s.mod.mode = .unpowered ∧ s.tlh.risen s.now then s.restart else s)

/-- LAST of a memory service that HOLDUP aborted is still read after the restart (R388). -/
def Mem.keepLast (old m : Mem) : Mem := { m with svcLast := if old.svcLast = 0x10 then 0x10 else m.svcLast }

/-- A warm restart keeps TRK_ODO and TRK_TBASE (R110). -/
def State.warmRestart (s : State) : State :=
  let r := s.restart
  let r := { r with mod := { r.mod with startCause := 1 }, trk := { r.trk with odo := s.trk.odo, epoch := s.trk.epoch } }
  r.forCh allCh fun r c => r.modMem c fun m => (s.ch c).mem.keepLast m

/-- VAULTED_RETURN (R110, R429): 40.0 V for 20 ms in VAULTED. -/
def execVaultedReturn (t : Tbu) (s : State) : Host.Outcome State Fault Refusal :=
  let s := s.atTime t
  .next (if s.mod.mode = .vaulted ∧ s.tlh.risen s.now then s.warmRestart else s)

/-- SUPPLY_FAIL (R104): the input below 24 V with the bank exhausted; only the vault and what the model counts remain. -/
def execSupplyFail (t : Tbu) (s : State) : Host.Outcome State Fault Refusal :=
  let s := s.atTime t
  .next { State.reset with
    pending := s.pending, now := s.now, freeCtr := s.freeCtr, vlt := { slots := s.vlt.slots }, mod := { mode := .unpowered } }

/-- BANK_OK (R109): the bank reaches 38 V, and link training starts. -/
def execBankOk (t : Tbu) (s : State) : Host.Outcome State Fault Refusal :=
  let s := s.atTime t
  .next (if s.ticking then
      let s := { s with mod := { s.mod with bankOk := true } }
      if s.hp.state = .down ∧ s.side.tap ≠ .extest then { s with hp := { s.hp with state := .training } } else s
    else s)

/-! ### Entry to HOLDUP (R119, R128, R297, R341, R444) -/

/-- The host port stops: nothing is sent, held back or waiting any more (R103). -/
def State.portStop (s : State) : State :=
  let s := s.linkClear .down
  { s with hp := { s.hp with reqs := [], busy := false, bcastTag := none } }

/-- The services of a channel are aborted: a memory service with LAST 0x10, a calibration run without a commit (R119, R387). -/
def State.holdupServices (s : State) (ch : ChanId) : State :=
  let d := (s.ch ch).dof
  let s := s.modCh ch fun c => { c with dof := { c.dof with running := none, queue := [] } }
  (d.running.toList ++ d.queue).foldl (fun s x => s.modCh ch fun c =>
    if x.isMem then c.svcEnd 0x10 else match x with
      | .calRun p => c.calAbort p
      | _ => c) s

/-- A route in progress leaves its resume point at the pass playing (R158). -/
def Chan.keepPoint (c : Chan) : Chan :=
  if c.mod.state = .run then { c with seq := c.seq.setResume c.seq.wp c.seq.done c.seq.passStack } else c

/-- What entry to HOLDUP stops in a channel. -/
def Chan.holdupStop (c : Chan) (now : Tbu) : Chan :=
  let c := c.keepPoint.dropStart.releaseGrant
  let c := { c with seq := { c.seq with checking := false }, mod := { c.mod with queued := [], pendEn := false, drainAt := none } }
  let c := ((((c.plyQuiet now).dstTo (q16 now)).tdcStop (cycleOf now)).allOff now).fabricStop
  { c with stq := { c.stq with staged := [] }, mem := { c.mem with reqs := [], inflight := [], loading := [], devs := vmap (fun (d : CreelDev) => { d with posted := [] }) c.mem.devs } }

/-- The actions of R119 in one channel: its outputs on their way to the power-up state, its state REST; the switch step of a
running range change completes (R265). -/
def State.holdupChannel (s : State) (ch : ChanId) : State :=
  if (s.ch ch).configured then
    let s := s.holdupServices ch
    let s := s.modCh ch fun c => (c.anaHoldup s.now).holdupStop s.now
    let s := if (s.ch ch).mod.state = .rest then s else s.enterRest ch
    s.modCh ch fun c => { c with ana := { c.ana with
      rangeAt := none, rangeNow := if c.ana.rangeAt.isSome then c.ana.rangeTo else c.ana.rangeNow } }
  else s

/-! ### The save (R443 to R448) -/

/-- VAULT_PLAN (R443): the module saves on HOLDUP. -/
def ModImage.saves (m : ModImage) : Bool := byteAt m.vaultPlan 0 % 2 == 1

/-- The parts saved for a channel. -/
def ModImage.parts (m : ModImage) (ch : ChanId) : BitVec 4 := BitVec.ofNat 4 (byteAt m.vaultPlan (8 + ch.val))

/-- The target slot (R445). -/
def State.targetSlot (s : State) : Fin 2 :=
  if s.vlt.restoreOn then s.vlt.restoreSlot + 1
  else if (s.vlt.slots[0]).valid ∨ (s.vlt.slots[1]).valid then (if newestSlot s.vlt.slots then 0 else 1)
  else 0

/-- The SEQ of the new save: one above the highest of any valid slot. -/
def State.nextSeq (s : State) : Word :=
  let q := fun (x : Slot) => if x.valid then x.seqNo.toNat else 0
  word (max (q s.vlt.slots[0]) (q s.vlt.slots[1]) + 1)

/-- An entry of the QUEUES part (R448). -/
def savedQueue (q : Nat) (x : Queue) : List Word :=
  [(x.word &&& ~~~(pack [(0xFFF, 7)])) ||| pack [(q, 7)],
    pack [((if x.bulk then 0 else x.played * x.units) % 2 ^ 32, 32), (x.played % 2 ^ 32, 0)]]

/-- The QUEUES part: k, and every queue not CLOSED. -/
def Stq.saved (s : Stq) : List Word :=
  let l := s.queues.filter fun e => e.2.state != .closed
  word l.length :: l.flatMap fun e => savedQueue e.1 e.2

/-- The ROUTE part (R448); `pos` is the live position at entry. -/
def Seq.saved (q : Seq) (pos : Word) : List Word :=
  [q.route, q.routeCfg, q.resume, q.resumeDepth, q.resumeStk[0], q.resumeStk[1], q.resumeStk[2], q.runPos, pos, q.idle]

/-- A delay set as three words (log entry 77). -/
def DelaySet.saved (x : DelaySet) : List Word :=
  [word (leNat x.rc.toList), word (leNat x.wc.toList), pack [(x.eyeW.toNat, 16), (x.eyeR.toNat, 8), (x.vref.toNat, 0)]]

/-- The TRAIN part: TRAINED_GRADES and the retired mask, each RETIRE_WHY, and the delay sets of the trained grades. DESIGN CHOICE
(log entry 77): R448 gives what the part holds, not its layout. -/
def Mem.saved (m : Mem) : List Word :=
  [pack [(m.retired.toNat, 8), (m.trained.toNat, 0)], word (leNat (m.devs.toList.map (·.why)))]
    ++ (upTo 3).flatMap fun g =>
      if bit m.trained g then (vget m.sets g (Vector.replicate 5 {})).toList.flatMap DelaySet.saved else List.replicate 15 0

/-- Words put in their places from byte offset `off` of an area on. -/
def putWords (off : Nat) (l : List Word) (w : Sparse Word) : Sparse Word :=
  l.zipIdx.foldl (fun w x => sput 0 w (off / 8 + x.2) x.1) w

/-- A part of an area, written when it is asked for. -/
def putPart (parts : BitVec 4) (p off : Nat) (l : List Word) (w : Sparse Word) : Sparse Word := if bit parts p then putWords off l w else w

/-- The first 0x30 bytes of an area (R448). -/
def Chan.areaHead (c : Chan) (parts : BitVec 4) (st : ChState) : List Word :=
  c.skn.imageId :: (upTo 4).map (payloadWord c.skn.digest)
    ++ [pack [(num c.skn.image.creelMap 0 6, 16), (chStateCode st, 8), (parts.toNat, 0)]]

/-- The area that a channel's Doffer writes: `c` after the actions of R119, `st` and `pos` its state and position at entry. -/
def Chan.area (c : Chan) (parts : BitVec 4) (st : ChState) (pos : Word) : Area :=
  Area.sealed <| putPart parts 3 0x22000 c.mem.saved <| putPart parts 2 0x12000 ((upTo 1024).map (sget 0 (c.cal.activeBank.getD [])))
    <| putPart parts 1 0x1000 c.stq.saved <| putPart parts 0 0x100 (c.seq.saved pos) <| putWords 0 (c.areaHead parts st) []

/-- The Doffer of a channel saves: CONFIGURED, and neither lost nor restarting (R444, R492). -/
def Chan.mayWrite (c : Chan) : Bool := c.configured && !c.flt.dofferLost && !c.dof.restarting

/-- The header that a save writes (R447): `s0` is the state at the entry, `s` that after the actions of R119. -/
def State.saveHeader (s0 s : State) (vin : Nat) : List Word :=
  headerOf ([vaultMagic, pack [(modeCode s0.mod.mode, 16), (0x01, 8), (idStepping.toNat, 0)], s0.nextSeq, s0.trk.odo, word s0.tbase,
    s.skn.image.imageId] ++ (upTo 4).map (payloadWord s.skn.image.digest) ++ [word vin])

/-- The target slot as the save begins: its commit record overwritten with 0, its header and areas written. -/
def State.saveBegin (s0 s : State) (vin : Nat) : State :=
  let k := s0.targetSlot
  let areas := s0.chans.toList.zip s.chans.toList
  let slot : Slot := {
    header := State.saveHeader s0 s vin, commit := List.replicate 8 0
    areas := ⟨(allCh.map fun c => match areas[c.val]? with
      | some (a, b) => if b.mayWrite then b.area (s.skn.image.parts c) a.mod.state (a.trk.live s0.now) else (s.vlt.slots[k]).areas[c]
      | none => {}).toArray, by simp [allCh]⟩ }
  let done : BitVec 16 := BitVec.ofNat 16 (chMask fun c => (s.ch c).mayWrite)
  { s with vlt := { s.vlt with slots := vput s.vlt.slots k slot, save := some { slot := k, areas := done } } }

/-- The module enters HOLDUP (R119, R120, R444). -/
def State.enterHoldup (s : State) : State :=
  let saves := s.working && s.skn.image.saves
  let r := s.portStop.setMode .holdup
  let r := r.loadAbort 0x11 0
  let r := r.forCh allCh State.holdupChannel
  let r := { r with vlt := { r.vlt with restoring := 0, restoreOn := false } }
  if saves then s.saveBegin r (s.tlh.vinS.headD 0) else r

/-- HOLDUP_ENTRY (R429, R444): V_in below 36.00 V in two consecutive samples; `vin` are those taken since the last tick. -/
def execHoldupEntry (t : Tbu) (vin : List (BitVec 16)) (s : State) : Host.Outcome State Fault Refusal :=
  let s := s.atTime t
  let s := { s with tlh := s.tlh.takeVin s.now vin }
  .next (if s.ticking && s.tlh.failing then s.enterHoldup else s)

/-- SAVE_DEADLINE (R444): a Doffer that has not written its area CRC stops. -/
def execSaveDeadline (t : Tbu) (late : BitVec 16) (s : State) : Host.Outcome State Fault Refusal :=
  let s := s.atTime t
  .next { s with vlt := { s.vlt with save := s.vlt.save.map fun (x : Save) => { x with areas := x.areas &&& ~~~late } } }

/-- The commit record, written last (R447). -/
def Vlt.commit (x : Vlt) : Vlt :=
  match x.save with
  | some v => { x with slots := vmod x.slots v.slot fun (y : Slot) => { y with commit := commitOf y.seqNo y.hdrCrc v.areas }, save := none }
  | none => x

/-- SAVE_COMPLETE (R444, R120): the commit record is written if a slot is being saved; the module is VAULTED. -/
def execSaveComplete (t : Tbu) (s : State) : Host.Outcome State Fault Refusal :=
  let s := s.atTime t
  .next (if s.mod.mode = .holdup then ({ s with vlt := s.vlt.commit } : State).setMode .vaulted else s)

end Sys2Proof.Machine
end

