-- ==== Sys2Proof/Machine/Vault.lean ====
section
/-! DEFINITION. Restoring from the vault and discarding a slot: VLT_CMD, the parts of a restore, and its end (R111 to R113,
R449 to R451, R474). -/

namespace Sys2Proof.Machine

/-! ### VLT_CMD (R449, R451) -/

/-- The reserved bits of VLT_CMD (R454). -/
def vltReserved : Nat := 0xFFFFFF0E0000FFF0

def vltSlot (v : Word) : Fin 2 := if bit v 32 then 1 else 0

/-- The first code of R449 that applies to a command as a whole, or 0; a discard is tested up to order 4 (R451). -/
def State.vltTest (s : State) (v : Word) : Byte :=
  let cmd := fld v 0 4
  let x := s.vlt.slots[vltSlot v]
  if (cmd != 1 && cmd != 2) || (cmd == 1 && fld v 36 4 == 0) || keep v vltReserved != 0 then 0x0A
  else if !s.working then 0x03
  else if s.vlt.restoreOn then 0x02
  else if !x.valid then 0x0C
  else if cmd == 1 && x.stepping != idStepping then 0x0D
  else 0

/-- The first code of R449 that applies to a channel named in a restore, or 0. -/
def State.restoreTest (s : State) (ch : ChanId) (k : Fin 2) : Byte :=
  let c := s.ch ch
  let x := s.vlt.slots[k]
  if !c.configured then 0x01
  else if c.mod.state ≠ .rest ∧ !(c.mod.state = .trim ∧ c.dof.initial) then 0x08
  else if !bit x.present ch.val then 0x0E
  else if !(x.areas[ch]).crcOk then 0x0F
  else if c.flt.dofferLost then 0x13
  else 0

/-- A channel named in an accepted restore: its result, and TRIM when it takes part. While an ARM is being checked the channel
stays in REST (R139): the service waits until it may start (log entry 25). -/
def State.restoreChannel (k : Fin 2) (parts : BitVec 4) (s : State) (ch : ChanId) : State :=
  let code := s.restoreTest ch k
  let s := s.modCh ch fun c => { c with dof := { c.dof with vltDone := 0, vltReason := code, vltSkipped := 0 } }
  if code ≠ 0 then { s with vlt := { s.vlt with restoreBad := true } }
  else
    let s := { s with vlt := { s.vlt with restoring := setBit s.vlt.restoring ch.val } }
    let s := s.modCh ch fun c => c.queueService (.restore k parts)
    if (s.ch ch).seq.checking then s else s.enterTrim ch

/-- The commit record of a slot is overwritten with 0 (R451). -/
def Vlt.discard (x : Vlt) (k : Fin 2) : Vlt :=
  let y := ({ x with slots := vmod x.slots k fun (z : Slot) => { z with commit := List.replicate 8 0 } } : Vlt).read
  { y with events := evSet y.events VltEv.discarded }

/-- A write of VLT_CMD. -/
def State.vltCommand (s : State) (v : Word) : State :=
  let code := s.vltTest v
  let k := vltSlot v
  let s := { s with vlt := { s.vlt with resultCmd := BitVec.ofNat 4 (fld v 0 4), result := code } }
  if code ≠ 0 then s
  else if fld v 0 4 = 2 then { s with vlt := s.vlt.discard k }
  else
    let s := { s with vlt := { s.vlt with restoring := 0, restoreOn := true, restoreSlot := k, restoreBad := false } }
    s.forCh (chOf (BitVec.ofNat 16 (fld v 16 16))) (State.restoreChannel k (BitVec.ofNat 4 (fld v 36 4)))

/-- RESTORE (R449): a write of VLT_CMD with CMD = 1. -/
def execRestore (t : Tbu) (v : Word) (s : State) : Host.Outcome State Fault Refusal := .next ((s.atTime t).ifPort fun s => s.vltCommand (withCmd v 1))

/-- DISCARD (R451): a write of VLT_CMD with CMD = 2. -/
def execDiscard (t : Tbu) (v : Word) (s : State) : Host.Outcome State Fault Refusal := .next ((s.atTime t).ifPort fun s => s.vltCommand (withCmd v 2))

/-! ### What a channel area holds (R448) -/

/-- Bytes 0x28 to 0x2F: the parts written, the state, and CREEL_MAP. -/
def Area.parts (a : Area) : BitVec 4 := BitVec.ofNat 4 (fld (a.word 0x28) 0 8)
def Area.creelMap (a : Area) : Nat := fld (a.word 0x28) 16 48

/-- SKN_CH_DIGEST as four words. -/
def Area.digest (a : Area) : List Word := (upTo 4).map fun i => a.word (8 + 8 * i)

/-- Word `i` of the ROUTE part. -/
def Area.route (a : Area) (i : Nat) : Word := a.word (0x100 + 8 * i)

/-- The entries of the QUEUES part: at most one for each queue of the channel. -/
def Area.queues (a : Area) : List SavedQueue :=
  (upTo (min 4096 (a.word 0x1000).toNat)).map fun i => { word0 := a.word (0x1008 + 16 * i), word1 := a.word (0x1010 + 16 * i) }

/-- The record of the CAL part. -/
def Area.cal (a : Area) : Sparse Word := (upTo 1024).foldl (fun b i => sput 0 b i (a.word (0x12000 + 8 * i))) []

/-- TRAINED_GRADES and the retired devices of the TRAIN part, with their RETIRE_WHY. -/
def Area.trained (a : Area) : BitVec 3 := BitVec.ofNat 3 (fld (a.word 0x22000) 0 8)
def Area.retired (a : Area) : BitVec 5 := BitVec.ofNat 5 (fld (a.word 0x22000) 8 8)
def Area.retireWhy (a : Area) (d : Nat) : Byte := BitVec.ofNat 8 (fld (a.word 0x22008) (8 * d) 8)

/-- The eight bytes of a word. -/
def byteVec (w : Word) : Vector Byte 8 := eights fun i => BitVec.ofNat 8 (fld w (8 * i.val) 8)

/-- The delay set of device `d` at grade `g` (log entry 77). -/
def Area.set (a : Area) (g d : Nat) : DelaySet :=
  let w := fun i => a.word (0x22010 + 8 * (15 * g + 3 * d + i))
  { rc := byteVec (w 0), wc := byteVec (w 1), vref := BitVec.ofNat 8 (fld (w 2) 0 8), eyeR := BitVec.ofNat 8 (fld (w 2) 8 8)
    eyeW := BitVec.ofNat 8 (fld (w 2) 16 8) }

/-! ### The parts (R450, R474) -/

/-- A part is skipped: REASON takes its code when it is still 0. -/
def State.partSkip (s : State) (ch : ChanId) (code : Byte) : State :=
  let s := { s with vlt := { s.vlt with restoreBad := true } }
  s.modCh ch fun c => { c with dof := { c.dof with vltReason := if c.dof.vltReason = 0 then code else c.dof.vltReason } }

def State.partDone (s : State) (ch : ChanId) (p : Nat) : State :=
  s.modCh ch fun c => { c with dof := { c.dof with vltDone := setBit c.dof.vltDone p } }

/-- ROUTE: the saved registers are written back, and the route starts from its resume point. -/
def Seq.restore (q : Seq) (w : Nat → Word) : Seq :=
  { q with route := setBit (w 0) 32, routeCfg := w 1, resume := w 2, resumeDepth := w 3, resumeStk := #v[w 4, w 5, w 6], runPos := w 7
           idle := w 9, events := evSet q.events SeqEv.resumeSet }

/-- A queue opened again at a replay position (R450): POS is that position, and the fills played are those before it. The fills saved
say how often a position modulo 2^32 has passed 0, while they agree with it (log entry 78). -/
def Queue.replayAt (y : Queue) (p n : Nat) : Queue :=
  let pos := if n * y.units % 2 ^ 32 = p then n * y.units else p
  let k := pos / max 1 y.units
  { y with pos := pos, limit := pos, complete := k, ready := k, played := k, released := k }

/-- One saved queue is opened again, or counts in SKIPPED. -/
def State.reopen (s : State) (ch : ChanId) (x : SavedQueue) : State :=
  let w := (x.word0 &&& ~~~(0xF : Word)) ||| 1
  let q := cmdQueue w
  let c := s.ch ch
  if c.stqTest w ≠ 0 then s.modCh ch fun c => { c with dof := { c.dof with vltSkipped := satInc c.dof.vltSkipped } }
  else
    let y := c.openedQueue w
    let y := if y.bulk then y else y.replayAt (fld x.word1 32 32) (fld x.word1 0 32)
    (s.modCh ch fun c => { c with stq := c.stq.setQ q y }).qcpl ch q 0x01 0

/-- CAL: the saved record goes into the inactive bank and is committed, when it passes orders 8 to 12 of R459. -/
def State.restoreCal (s : State) (ch : ChanId) (b : Sparse Word) : State :=
  let code := recTest b none
  if code ≠ 0 then s.partSkip ch code
  else
    (s.modCh ch fun c =>
      let k := c.cal.inactive
      ({ c with cal := { c.cal with banks := vput c.cal.banks k b } } : Chan).commitBank k).partDone ch 2

/-- TRAIN: delay sets of the grades trained both now and in the save, and the visits that follow. -/
def Mem.restoreTrain (m : Mem) (a : Area) (now : Tbu) : Mem :=
  let put := fun (m : Mem) (g : Nat) =>
    if bit m.trained g && bit a.trained g then
      { m with sets := vputN m.sets g (fin5.foldl (fun v d => vput v d (a.set g d.val)) (Vector.replicate 5 {})) }
    else m
  let m := (grades.foldl put m).useGrade m.grade
  { m with postVisits := fin5.filter fun (d : Fin 5) => !bit m.retired d.val, postAt := some (now + ms) }

/-- A saved retirement is applied; that of a second device loses the creel (R366, R367; log entry 36). -/
def State.restoreRetire (a : Area) (s : State) (ch : ChanId) (d : Fin 5) : State :=
  if !bit a.retired d.val || bit (s.ch ch).mem.retired d.val then s
  else
    let was := (s.ch ch).mem.creel
    let why := a.retireWhy d.val
    let s := s.modCh ch fun c => c.retireDev d why s.now
    if was = .reduced then s.creelLost ch (d.val + 256 * why.toNat) else s

/-- One part, numbered as in R443. -/
def State.restorePart (s : State) (ch : ChanId) (a : Area) (p : Nat) : State :=
  let c := s.ch ch
  if !bit a.parts p then s.partSkip ch 0x12
  else match p with
    | 0 =>
      if a.digest ≠ (upTo 4).map (payloadWord c.skn.digest) then s.partSkip ch 0x10
      else (s.modCh ch fun c => { c with seq := c.seq.restore a.route }).partDone ch 0
    | 1 =>
      if a.digest ≠ (upTo 4).map (payloadWord c.skn.digest) then s.partSkip ch 0x10
      else (a.queues.foldl (fun s x => s.reopen ch x) s).partDone ch 1
    | 2 => s.restoreCal ch a.cal
    | _ =>
      if a.creelMap ≠ num c.skn.image.creelMap 0 6 then s.partSkip ch 0x11
      else
        let s := fin5.foldl (fun s d => State.restoreRetire a s ch d) s
        (s.modMem ch fun m => m.restoreTrain a s.now).partDone ch 3

/-- The Doffer has restored the parts asked for, in their order; the channel is done with the restore. -/
def State.restoreRun (s : State) (ch : ChanId) (k : Fin 2) (parts : BitVec 4) : State :=
  let a := (s.vlt.slots[k]).areas[ch]
  let s := (([0, 1, 2, 3] : List Nat).filter fun p => bit parts p).foldl (fun s p => s.restorePart ch a p) s
  (s.restoreReturn ch false).leaveTrim ch

/-- RESTORE_END (R450): a restore in progress ends. -/
def execRestoreEnd (t : Tbu) (ch : ChanId) (s : State) : Host.Outcome State Fault Refusal :=
  let s := s.atTime t
  .next (match (s.ch ch).dof.running with
    | some (.restore k parts) => if (s.ch ch).tlh.granted then s.restoreRun ch k parts else s
    | _ => s)

/-- RESTORE_DONE (R450): every channel of the restore has returned to REST. -/
def execRestoreDone (t : Tbu) (s : State) : Host.Outcome State Fault Refusal :=
  let s := s.atTime t
  .next (if s.vlt.restoreOn ∧ s.vlt.restoring = 0 then
      let e := evSet s.vlt.events VltEv.restoreDone
      { s with vlt := { s.vlt with restoreOn := false, events := evIf s.vlt.restoreBad e VltEv.restoreRefused } }
    else s)

end Sys2Proof.Machine
end

