-- ==== Sys2Proof/Machine/Operands.lean ====
section
/-! DEFINITION. The operands of host accesses: the address map (R4 to R6), what the access types do to a register (R9 to
R12), and a request's first status (R8, R13, R401). -/

namespace Sys2Proof.Machine

/-! ### Access types (R9, R11) -/

/-- A write of a register in which the field of mask `m` is locked when `locked` holds: its other fields take effect, and
the status is "locked" when the locked field would change (R11). -/
def rwl (locked : Bool) (m : Nat) (old v : Word) : Word × Status :=
  if locked && keep v m != keep old m then ((v &&& ~~~(word m)) ||| keep old m, St.locked) else (v, St.normal)

/-- Two statuses of one access: "locked" when either field is. -/
def worseStatus (a b : Status) : Status := if a = St.normal then b else a

/-- Element `k` of an array of registers. -/
def elem {α : Type} {n : Nat} (v : Vector α n) (k : Nat) (f : α → Word) : Word := if h : k < n then f v[k] else 0

/-! ### The address map (R4 to R6) -/

/-- Where an address lies. -/
inductive Place where
  /-- a block of the common block: its number and the offset within its 4 KB (R5) -/
  | common (block off : Nat)
  /-- a register block of a channel window: its number and the offset within its 64 KB (R6) -/
  | block (ch : ChanId) (block off : Nat)
  /-- the waypoint table: the 64-bit word's index -/
  | waypoint (ch : ChanId) (wp : Nat) (k : Fin 4)
  /-- the bobbin window: the byte offset -/
  | window (ch : ChanId) (off : Nat)
  /-- within a channel window and unmapped -/
  | gap (ch : ChanId)
  | unmapped
  deriving DecidableEq, Repr

/-- Where offset `off` of a channel window lies (R6, R135). -/
def placeIn (ch : ChanId) (off : Nat) : Place :=
  if off < 0xA0000 then .block ch (off / 0x10000) (off % 0x10000)
  else if 0x1000000 ≤ off ∧ off < 0x1000000 + 65536 * 32 then
    .waypoint ch ((off - 0x1000000) / 32) (Fin.ofNat 4 (off / 8))
  else if 0x8000000 ≤ off ∧ off < 0xC800000 then .window ch (off - 0x8000000)
  else .gap ch

/-- Where a byte address lies (R4). -/
def placeOf (a : Nat) : Place :=
  if a < 0x8000 then .common (a / 0x1000) (a % 0x1000)
  else if 0x100000000 ≤ a ∧ a < 0x200000000 then
    placeIn (Fin.ofNat 16 ((a - 0x100000000) / 0x10000000)) (a % 0x10000000)
  else .unmapped

/-- The channel whose window an address lies in. -/
def Place.chan : Place → Option ChanId
  | .block ch _ _ | .waypoint ch _ _ | .window ch _ | .gap ch => some ch
  | _ => none

def Place.mapped : Place → Bool
  | .gap _ | .unmapped => false
  | _ => true

def Place.isWindow : Place → Bool
  | .window _ _ => true
  | _ => false

/-- The first status that stops an access of `len` words at byte address `a`, in the order of R401; `normal` when none
does. Every byte of the access is looked at, and an access of at most 256 bytes needs its words' first and last bytes
alone. -/
def State.accessTest (s : State) (a len : Nat) : Status :=
  let p := placeOf a
  let bytes := (upTo len).flatMap fun i => [a + 8 * i, a + 8 * i + 7]
  if len = 0 ∨ 32 < len then St.malformed
  else if !s.windowUp && bytes.any fun b => (placeOf (b % 2 ^ 40)).chan.isSome then St.unpowered
  else if bytes.any fun b => !(placeOf (b % 2 ^ 40)).mapped then St.unmapped
  else if a % 8 ≠ 0 then St.misaligned
  else if p.isWindow then (if winAligned (a % 0x8000000) (8 * len) then St.normal else St.misaligned)
  else if 1 < len then St.misaligned
  else St.normal

end Sys2Proof.Machine
end

