-- ==== Sys2Proof/Machine/RegsMod.lean ====
section
/-! DEFINITION. The register maps of the common block: ID, MOD, TLH, TRK, VLT, HP, SKN and FLT, what a read of each register
returns and what a write does (R3, R69, R101, R131, R423, R453, R454, R493). Reserved bits and unlisted offsets read as 0
and ignore writes (R12). -/

namespace Sys2Proof.Machine

/-- The channel that an offset of an array of sixteen registers names. -/
def chanAt (off : Nat) : ChanId := Fin.ofNat 16 (off / 8)

/-! ### ID (R3) -/

def idRead (off : Nat) : Word :=
  match off with
  | 0x000 => 0x4147
  | 0x008 => 0x52530658
  | 0x010 => 0x21
  | 0x018 => Config.idSerial
  | _ => 0

/-! ### MOD (R131) -/

def ModBlk.read (m : ModBlk) (off : Nat) : Word :=
  match off with
  | 0x000 => pack [(modeCode m.prev, 8), (modeCode m.mode, 0)]
  | 0x008 => pack [(m.qReason.toNat, 24), (m.startCause.toNat, 6), (m.linkUp.toNat, 5), (m.bankOk.toNat, 4)]
  | 0x010 => m.events.bits
  | 0x018 => m.cfg
  | 0x028 => pack [(m.bcastRef.toNat, 16), (m.bcastAcc.toNat, 0)]
  | _ => 0

/-- MOD_CH_STAT[n] (R114, R124, R125). -/
def Chan.modStat (c : Chan) (now : Tbu) : Word :=
  pack [(c.mod.heldCause.toNat, 24), (c.wait.toNat, 16), (c.mod.startPend.toNat, 6), (c.mod.pendEn.toNat, 5),
    ((c.switched now).mod.outEn.toNat, 4), (chStateCode c.mod.state, 0)]

def State.modRead (s : State) (off : Nat) : Word :=
  let c := s.ch (chanAt off)
  match off / 0x80 with
  | 3 => c.mod.cfg
  | 4 => c.modStat s.now
  | 5 => pack [(c.mod.count.toNat, 16), (c.mod.cmd.toNat, 8), (c.mod.result.toNat, 0)]
  | 0 => s.mod.read off
  | _ => 0

def State.modWrite (s : State) (off : Nat) (v : Word) : State :=
  let ch := chanAt off
  match off / 0x80 with
  | 0 =>
    match off with
    | 0x018 => { s with mod := { s.mod with cfg := keep v 1 } }
    | 0x020 => s.broadcastCmd v
    | _ => s
  | 2 => s.command ch (Cmd.ofCode (fld v 0 4)) false
  | 3 => s.modCh ch fun c => { c with mod := { c.mod with cfg := keep v 1 } }
  | _ => s

/-! ### TLH (R453) -/

def Tlh.read (x : Tlh) (pend : Nat) (im : ModImage) (off : Nat) : Word :=
  match off with
  | 0x000 => pack [(x.vin, 48), (x.iin, 32), (x.budget, 16), (x.charged, 0)]
  | 0x008 => pack [(laneCount x.healthy, 8), (x.healthy.toNat, 0)]
  | 0x010 => x.events.bits
  | 0x018 => x.cfg
  | 0x020 => pack [(Config.eff, 48), (im.common, 32), (im.unconf, 16), (im.gradeStep, 0)]
  | 0x028 => pack [(pend % 65536, 32), (twos x.deficit 32, 0)]
  | _ => 0

/-- TLH_CH_CFG[n] (R442). -/
def Chan.tlhCfg (c : Chan) : Word :=
  pack [(byteAt c.skn.image.power 3 % 16, 12), (byteAt c.skn.image.power 2 % 16, 8), (c.tlh.prio.toNat, 0)]

def Chan.tlhStat (c : Chan) (charge : Nat) : Word :=
  pack [(charge % 65536, 48), (c.tlh.req % 65536, 32), (c.tlh.avs % 256, 24), (c.tlh.deny.toNat, 16),
    (c.skn.image.powerClass % 8, 12), (c.tlh.pinned.toNat, 11), (c.tlh.shed.toNat, 9), (c.tlh.tollGrade.toNat, 8),
    (c.tlh.granted.toNat, 0)]

/-- TLH_CLASS[c] (R441). -/
def ModImage.classWord (im : ModImage) (c : Nat) : Word :=
  pack [((im.classDefined c).toNat, 63), ((im.creelDown c).toNat, 62), (im.idle c % 4096, 48), (im.trim c % 4096, 36),
    (im.run c % 4096, 24), (im.avsMax c % 4096, 12)]

def State.tlhRead (s : State) (off : Nat) : Word :=
  let c := s.ch (chanAt off)
  match off / 0x80 with
  | 0 => s.tlh.read s.tlh.pending s.skn.image off
  | 2 => c.tlhCfg
  | 3 => c.tlhStat (s.chargeShown (chanAt off))
  | 4 => word (c.tlh.draw % 65536)
  | 6 => if off < 0x340 then s.skn.image.classWord (off / 8 % 8) else 0
  | _ => 0

/-- A write of PRIO: clamped to the bounds of the POWER record, and locked by MOD_LOCKS bit 0 (R98, R436). DESIGN CHOICE (log entry
80): while the channel has no POWER record both bounds are 0, so that any write gives 0. -/
def State.prioWrite (s : State) (ch : ChanId) (v : Word) : State × Status :=
  let c := s.ch ch
  let w := rwl (c.configured && bit s.skn.locks 0) 0xF (word c.tlh.prio.toNat) v
  let p := min (byteAt c.skn.image.power 3) (max (byteAt c.skn.image.power 2) (fld w.1 0 4))
  if w.2 = St.normal ∧ fld v 0 4 ≠ c.tlh.prio.toNat then
    (s.modCh ch fun c => { c with tlh := { c.tlh with prio := BitVec.ofNat 4 p } }, w.2)
  else (s, w.2)

def State.tlhWrite (s : State) (off : Nat) (v : Word) : State × Status :=
  match off / 0x80 with
  | 0 =>
    match off with
    | 0x018 => ({ s with tlh := { s.tlh with cfg := keep v 0xFFFF } }, St.normal)
    | _ => (s, St.normal)
  | 2 => s.prioWrite (chanAt off) v
  | _ => (s, St.normal)

/-! ### TRK (R69) -/

/-- TRK_CH_STAT.STATE codes (R34). -/
def trkStateCode : TrkState → Nat
  | .absent => 0 | .acquiring => 1 | .locked => 2 | .stopped => 3

def TrkMod.read (m : TrkMod) (tbase : Nat) (off : Nat) : Word :=
  match off with
  | 0x000 => m.paceCfg
  | 0x008 => m.refCfg
  | 0x010 => pack [(m.tbLocked.toNat, 7), (m.tbInvalid.toNat, 6), (m.holdover.toNat, 5), (m.wrongFreq.toNat, 4),
      (m.present.toNat, 3), (m.freqSeen.toNat, 0)]
  | 0x018 => m.events.bits
  | 0x020 => m.mstoneCfg
  | 0x028 => m.mstonePos
  | 0x030 => m.mstoneStep
  | 0x038 => m.mstoneLast
  | 0x040 => m.modSkew
  | 0x050 => m.odo
  | 0x058 => word tbase
  | 0x100 => m.odo
  | 0x108 => m.snapTbase
  | _ => if 0x110 ≤ off ∧ off < 0x190 then elem m.snapPos ((off - 0x110) / 8) id else 0

/-- TRK_CH_STAT (R37, R69). DESIGN CHOICE (log entry 51): PERIOD shows a P_est of 2^32 or more, an interval of 128 ns or longer,
modulo 2^32. -/
def Tracker.stat (k : Tracker) : Word :=
  pack [(k.pest % 2 ^ 32, 32), (k.misaligned.toNat, 7), (k.aligned.toNat, 6), ((decide (0 < k.fast)).toNat, 5),
    (k.range.toNat, 4), (trkStateCode k.state, 0)]

def State.trkRead (s : State) (off : Nat) : Word :=
  let c := s.ch (chanAt off)
  match off / 0x80 with
  | 4 => c.trk.stat
  | 5 => word (twos (c.cal.skew 0) 16)
  | 6 => word c.trk.glitch.toNat
  | 7 => c.trk.slip
  | _ => s.trk.read s.tbase off

def State.trkWrite (s : State) (off : Nat) (v : Word) : State :=
  let k := s.trk
  match off with
  | 0x000 => { s with trk := { k with paceCfg := keep v 0xFFFFFFFFFFFF } }
  | 0x008 => { s with trk := { k with refCfg := keep v 3 } }
  | 0x020 => { s with trk := { k with mstoneCfg := keep v 0xF3 } }
  | 0x028 => { s with trk := { k with mstonePos := keep v 0xFFFFFFFFFF000000 } }
  | 0x030 => { s with trk := { k with mstoneStep := keep v 0xFFFFFFFFFF } }
  | 0x040 => { s with trk := { k with modSkew := keep v 0xFFFFF } }
  | 0x048 => s.retrack (BitVec.ofNat 16 (fld v 0 16))
  | _ => s

/-! ### VLT (R454) -/

def SlotRegs.read (x : SlotRegs) (off : Nat) : Word :=
  match off with
  | 0x00 => x.seqNo
  | 0x08 => x.odo
  | 0x10 => x.tbase
  | 0x18 => x.info
  | 0x20 => x.image
  | _ => 0

def Doffer.vltRead (d : Doffer) : Word := pack [(d.vltSkipped.toNat, 32), (d.vltDone.toNat, 24), (d.vltReason.toNat, 16)]

def State.vltRead (s : State) (off : Nat) : Word :=
  let x := s.vlt
  match off / 0x80 with
  | 0 =>
    match off with
    | 0x000 => pack [(x.valid.toNat, 4), (x.newest.toNat, 3), (x.restoreOn.toNat, 0)]
    | 0x008 => x.events.bits
    | 0x018 => pack [(x.resultCmd.toNat, 8), (x.result.toNat, 0)]
    | _ => 0
  | 2 => (if off < 0x140 then x.regs[0] else x.regs[1]).read (off % 0x40)
  | 4 => (s.ch (chanAt off)).dof.vltRead
  | _ => 0

def State.vltWrite (s : State) (off : Nat) (v : Word) : State :=
  match off with
  | 0x010 => s.vltCommand v
  | _ => s

/-! ### HP (R423) -/

def linkCode : LinkState → Nat
  | .down => 0 | .training => 1 | .up => 2

/-- HP_LANE_ERR: byte i is the count of lane i. -/
def Hp.laneErrWord (h : Hp) : Word := pack ((upTo 8).map fun i => ((vget h.laneErr i 0).toNat, 8 * i))

def Hp.read (h : Hp) (off : Nat) : Word :=
  match off with
  | 0x000 => pack [(h.locked.toNat, 32), (h.active.toNat, 24), (laneCount h.active, 20), (linkCode h.state, 0)]
  | 0x008 => h.events.bits
  | 0x010 => h.cfg
  | 0x018 => pack [(32, 32), (512, 16), (4096, 0)]
  | 0x020 => h.laneErrWord
  | 0x028 => pack [(h.losses.toNat, 48), (h.drops.toNat, 32), (h.replays.toNat, 0)]
  | 0x040 => h.bcastCfg
  | 0x050 => h.bcastVec
  | 0x058 => h.qdataErr
  | _ => 0

/-- A write of the HP block, HP_BCAST_DATA apart (R403). -/
def State.hpWrite (s : State) (off : Nat) (v : Word) : State × Status :=
  match off with
  | 0x010 =>
    let w := rwl (bit s.skn.locks 1) 0xF s.hp.cfg v
    ({ s with hp := { s.hp with cfg := keep w.1 0xFFFFFFFF0000000F } }, w.2)
  | 0x040 => ({ s with hp := { s.hp with bcastCfg := keep v 0xFFFF0FFFFFFF } }, St.normal)
  | _ => (s, St.normal)

/-! ### SKN (R101) -/

/-- SKN_CH_STAT.STATE codes (R101). -/
def sknStateCode : SknState → Nat
  | .unconfigured => 0 | .loading => 1 | .applying => 2 | .configured => 3

def Skn.read (x : Skn) (off : Nat) : Word :=
  match off with
  | 0x010 => pack [(x.received.toNat, 8), (x.phase.toNat, 0)]
  | 0x018 => x.result
  | 0x020 => x.events.bits
  | 0x028 => word x.startResult.toNat
  | 0x030 => x.image.imageId
  | 0x038 => x.locks
  | 0x040 => payloadWord x.image.digest 0
  | 0x048 => x.modDigestSnap[0]
  | 0x050 => x.modDigestSnap[1]
  | 0x058 => x.modDigestSnap[2]
  | 0x060 => word x.image.trophor.toNat
  | _ => 0

/-- SKN_CH_DIGEST[n][k] (R15, R101). -/
def ChSkn.digestRead (x : ChSkn) (k : Nat) : Word :=
  if k = 0 then payloadWord x.digest 0 else elem x.digestSnap (k - 1) id

def State.sknRead (s : State) (off : Nat) : Word :=
  let c := s.ch (chanAt off)
  if 0x400 ≤ off ∧ off < 0x600 then (s.ch (Fin.ofNat 16 (off / 32))).skn.digestRead (off / 8 % 4)
  else match off / 0x80 with
    | 0 => s.skn.read off
    | 2 => pack [(c.skn.loads.toNat, 16), (c.skn.reason.toNat, 8), (sknStateCode c.skn.state, 0)]
    | 3 => c.skn.imageId
    | 4 => c.skn.locks
    | _ => 0

def State.sknWrite (s : State) (off : Nat) (v : Word) : State :=
  match off with
  | 0x000 => if bit v 1 then s.loadAbort 0x10 0 else if bit v 0 then s.sknStart v else s
  | 0x008 => s.sknData v
  | _ => s

/-! ### FLT (R493) -/

/-- Fewer than eight lanes are active while the link is up. -/
def Hp.narrow (h : Hp) : Bool := h.state == .up && decide (laneCount h.active < 8)

/-- A word of log record i; 0 at or above LEVEL (R490). -/
def Flt.logWord (f : Flt) (i k : Nat) : Word :=
  match f.log[i]? with
  | some r => if k = 0 then r.odo else r.info
  | none => 0

def ChFlt.stat (f : ChFlt) : Word :=
  pack [(f.last.toNat, 56), (f.faults.toNat, 32), (f.halt.toNat, 15), (f.dryLong.toNat, 12), (f.dofferLost.toNat, 11),
    (f.creelLost.toNat, 10), (f.pairL.toNat, 9), (f.pairS.toNat, 8), (f.doffer.toNat, 5), (f.mon.toNat, 4),
    (f.synL.toNat, 3), (f.synS.toNat, 2), (f.creel.toNat, 1), (f.bob.toNat, 0)]

def State.fltRead (s : State) (off : Nat) : Word :=
  let f := s.flt
  let ch := chanAt off
  if 0x400 ≤ off ∧ off < 0x800 then f.logWord ((off - 0x400) / 16) (off / 8 % 2)
  else match off / 0x80 with
    | 0 =>
      match off with
      | 0x000 => pack [(chMask fun c => (s.ch c).flt.halt, 32), (chMask fun c => (s.ch c).flt.degraded, 16),
          (f.feed.toNat, 1), (s.hp.narrow.toNat, 0)]
      | 0x008 => f.events.bits
      | 0x010 => f.cfg
      | 0x020 => f.cmdVec
      | 0x028 => pack [(f.lost.toNat, 32), (f.log.length, 0)]
      | _ => 0
    | 2 => (s.ch ch).flt.stat
    | 3 => word (s.policy ch % 8)
    | _ => 0

/-- A write of FLT_CFG: the limit on dry runs in progress changes with it (R487). -/
def State.dryCfgWrite (s : State) (v : Word) : State :=
  ({ s with flt := { s.flt with cfg := keep v 0xFFFF } } : State).forCh allCh State.dryLong

def State.fltWrite (s : State) (off : Nat) (v : Word) : State :=
  match off with
  | 0x010 => s.dryCfgWrite v
  | 0x018 => if fld v 0 4 = 1 then s.ack (BitVec.ofNat 16 (fld v 16 16)) else s
  | 0x030 => s.logPop (fld v 0 7)
  | _ => s

/-! ### The common block (R5) -/

/-- What a read of a register of the common block returns. -/
def State.commonRead (s : State) (block off : Nat) : Word :=
  match block with
  | 0 => idRead off
  | 1 => s.modRead off
  | 2 => s.tlhRead off
  | 3 => s.trkRead off
  | 4 => s.vltRead off
  | 5 => s.hp.read off
  | 6 => s.sknRead off
  | 7 => s.fltRead off
  | _ => 0

/-- The register of W1C bits at an offset of the common block, in the order of `State.evRegs`. -/
def evAt (block off : Nat) : Option (Fin 7) :=
  match block, off with
  | 1, 0x010 => some 0 | 2, 0x010 => some 1 | 3, 0x018 => some 2 | 4, 0x008 => some 3 | 5, 0x008 => some 4
  | 6, 0x020 => some 5 | 7, 0x008 => some 6 | _, _ => none

/-- Give a register of W1C bits of the common block a value. -/
def State.evPut (s : State) (i : Fin 7) (e : Sticky) : State :=
  match i with
  | 0 => { s with mod := { s.mod with events := e } }
  | 1 => { s with tlh := { s.tlh with events := e } }
  | 2 => { s with trk := { s.trk with events := e } }
  | 3 => { s with vlt := { s.vlt with events := e } }
  | 4 => { s with hp := { s.hp with events := e } }
  | 5 => { s with skn := { s.skn with events := e } }
  | 6 => { s with flt := { s.flt with events := e } }

/-- A host write of a register of W1C bits of the common block (R9, R10). -/
def State.evClear (s : State) (i : Fin 7) (v : Word) : State := s.evPut i (s.evRegs[i].clear (s.evMark.getD i.val 0) v)

/-- What a write of any other register of the common block does, HP_BCAST_DATA apart. -/
def State.commonOther (s : State) (block off : Nat) (v : Word) : State × Status :=
  match block with
  | 1 => (s.modWrite off v, St.normal)
  | 2 => s.tlhWrite off v
  | 3 => (s.trkWrite off v, St.normal)
  | 4 => (s.vltWrite off v, St.normal)
  | 5 => s.hpWrite off v
  | 6 => (s.sknWrite off v, St.normal)
  | 7 => (s.fltWrite off v, St.normal)
  | _ => (s, St.normal)

/-- What a write of a register of the common block does, HP_BCAST_DATA apart. -/
def State.commonWrite (s : State) (block off : Nat) (v : Word) : State × Status :=
  match evAt block off with
  | some i => (s.evClear i v, St.normal)
  | none => s.commonOther block off v

/-- The snapshot that a read of the lowest register of a multi-word value captures (R15): the track snapshot (R66) and the
digests (R101). -/
def State.commonCapture (s : State) (block off : Nat) : State :=
  match block with
  | 3 => if off = 0x100 then s.snap else s
  | 6 =>
    if off = 0x040 then
      let d := s.skn.image.digest
      { s with skn := { s.skn with modDigestSnap := #v[payloadWord d 1, payloadWord d 2, payloadWord d 3] } }
    else if 0x400 ≤ off ∧ off < 0x600 ∧ off % 32 = 0 then
      s.modCh (Fin.ofNat 16 (off / 32)) fun c =>
        let d := c.skn.digest
        { c with skn := { c.skn with digestSnap := #v[payloadWord d 1, payloadWord d 2, payloadWord d 3] } }
    else s
  | _ => s

end Sys2Proof.Machine
end

