-- ==== Sys2Proof/Machine/RegsCh.lean ====
section
/-! DEFINITION. The register maps of a channel window: SEQ, PLY, DST, ANA, SYN, JNC, TDC, MEM, CAL and STQ, what a read of
each register returns and what a write does (R165, R199, R237, R267, R293, R318, R345, R389, R424, R476). Reserved bits and
unlisted offsets read as 0 and ignore writes (R12). -/

namespace Sys2Proof.Machine

/-- A write that leaves every other part of the channel alone. -/
abbrev ChWrite := Chan × Status

/-- A write that completes with status "normal". -/
def done (c : Chan) : ChWrite := (c, St.normal)

/-- The index of an array of registers that begins at `base`. -/
def idxAt (base off : Nat) : Nat := (off - base) / 8

/-! ### SEQ (R165) -/

/-- SEQ_STAT. -/
def Seq.stat (q : Seq) : Word :=
  pack [(q.wp.toNat, 48), (q.next.toNat, 32), (q.decided.toNat, 31), (q.waiting.toNat, 30), (q.stack.length % 4, 28),
    (((upTo 3).map fun k => ((q.stack[k]?.map (·.unltd)).getD false).toNat * 2 ^ k).foldl (· + ·) 0, 25), (q.endNext.toNat, 24)]

def Seq.grpStat (q : Seq) : Word := pack [(q.grpReleasedBy.toNat, 32), (q.grpReason.toNat, 8), (q.grpOutcome.toNat, 0)]

def Seq.read (q : Seq) (off : Nat) : Word :=
  match off with
  | 0x000 => q.route
  | 0x008 => q.routeCfg
  | 0x010 => q.startCfg
  | 0x018 => q.startPos
  | 0x020 => q.grpCfg
  | 0x028 => q.grpStat
  | 0x038 => q.idle
  | 0x040 => q.stat
  | 0x048 => q.snap[0]
  | 0x050 => q.snap[1]
  | 0x058 => q.snap[2]
  | 0x060 => q.snap[3]
  | 0x068 => q.snap[4]
  | 0x070 => q.snap[5]
  | 0x080 => q.events.bits
  | 0x088 => pack [(q.checkWp.toNat, 16), (q.checkCode.toNat, 0)]
  | 0x090 => q.resume
  | 0x098 => q.resumeDepth
  | 0x0A0 => q.resumeStk[0]
  | 0x0A8 => q.resumeStk[1]
  | 0x0B0 => q.resumeStk[2]
  | 0x0C0 => q.segIdx
  | 0x0C8 => q.segD0
  | 0x0D0 => q.segD1
  | 0x0E0 => word q.segResult.toNat
  | _ => 0

/-- A read of SEQ_STAT captures SEQ_PASS to SEQ_STACK[2].
DESIGN CHOICE (log entry 85): an entry at or above DEPTH reads 0, and so does its UNLTD bit; a count of passes above 2^32 - 1 shows
modulo 2^32 in DONE. -/
def Seq.capture (q : Seq) : Seq :=
  let stk := fun (k : Nat) => (q.stack[k]?.map StackEntry.toWord).getD 0
  { q with snap := #v[word (q.done % 2 ^ 32), q.passPos, q.runPos, stk 0, stk 1, stk 2] }

/-- The policies that lock group 8 permits (R99). -/
def ChImage.permitted (im : ChImage) : Nat := if im.defaults.isEmpty then 7 else byteAt im.defaults 25

/-- A write of SEQ_ROUTE_CFG: UNDERRUN is bounded while lock group 8 is locked (R100). -/
def Chan.routeCfgWrite (c : Chan) (v : Word) : ChWrite :=
  let p := if fld v 0 2 = 3 then 1 else fld v 0 2
  let w := rwl (c.locked 8 && c.skn.image.permitted / 2 ^ p % 2 == 0) 3 c.seq.routeCfg v
  ({ c with seq := { c.seq with routeCfg := keep w.1 0x3FFFF00000003 } }, w.2)

/-- A write of a resume register: locked while an ARM is being checked (R138). DESIGN CHOICE (log entry 81): in ARMED and HELD it takes
effect too, where R159 speaks of REST. -/
def Chan.resumeWrite (c : Chan) (f : Seq → Seq) : ChWrite :=
  if c.seq.checking then (c, St.locked) else done { c with seq := f c.seq }

def Chan.seqWrite (c : Chan) (cyc off : Nat) (v : Word) : ChWrite :=
  let q := c.seq
  let set := fun (x : Seq) => done { c with seq := x }
  match off with
  | 0x000 => set { q with route := keep v 0x1FFFFFFFF }
  | 0x008 => c.routeCfgWrite v
  | 0x010 => set { q with startCfg := keep v 0xFFFF0007 }
  | 0x018 => set { q with startPos := v }
  | 0x020 => set { q with grpCfg := keep v 0xFFFFFFFF00000001 }
  | 0x030 =>
    let c := if bit v 0 then c.request .adv cyc else c
    done (if bit v 1 then c.hostJump (BitVec.ofNat 16 (fld v 16 16)) cyc else c)
  | 0x038 => set { q with idle := keep v 0x3FFFF }
  | 0x090 => c.resumeWrite fun q => { q with resume := keep v 0x8000FFFFFFFFFFFF }
  | 0x098 => c.resumeWrite fun q => { q with resumeDepth := keep v 0x1F }
  | 0x0A0 => c.resumeWrite fun q => { q with resumeStk := vput q.resumeStk 0 v }
  | 0x0A8 => c.resumeWrite fun q => { q with resumeStk := vput q.resumeStk 1 v }
  | 0x0B0 => c.resumeWrite fun q => { q with resumeStk := vput q.resumeStk 2 v }
  | 0x0C0 => set { q with segIdx := keep v 0x3FFFF }
  | 0x0C8 => set { q with segD0 := v }
  | 0x0D0 => set { q with segD1 := v }
  | 0x0D8 => done (if fld v 0 2 = 1 then c.segRead else if fld v 0 2 = 2 then c.segWrite else c)
  | _ => done c

/-! ### PLY (R199) -/

/-- The skew of index `i` in the record in force, as a register shows it (R456). -/
def Chan.skewWord (c : Chan) (i : Nat) : Word := word (twos (c.cal.skew i) 16)

/-- PLY_STAT. DESIGN CHOICE (log entry 24): LOCK and PROFILE keep what the last pass had while none plays. -/
def Chan.plyStat (c : Chan) (cyc : Nat) : Word :=
  let k := c.clampNow cyc
  pack [(k.2, 32), (c.ply.dryAt.isSome.toNat, 8), (c.ply.frozen.toNat, 7), (c.ply.hopPend.toNat, 6), (k.1.toNat, 5),
    (c.ply.lock.toNat, 4), (c.ply.prof.toNat, 0)]

def Chan.plyRead (c : Chan) (cyc off : Nat) : Word :=
  let p := c.ply
  match off with
  | 0x000 => c.plyStat cyc
  | 0x008 => (c.outTo (q16 (cyc * cycleTbu))).ply.events.bits
  | 0x010 => p.gap
  | 0x018 => p.lastHop
  | 0x020 => word p.ftw.toNat
  | 0x028 => word p.phi.toNat
  | 0x030 => word (twos (p.anchor.getD 0) 64)
  | 0x038 => pack [(p.dn, 32), (p.dd, 0)]
  | 0x040 => p.wavDelay
  | 0x048 => c.skewWord 5
  | 0x200 => p.hopIdx
  | 0x208 => p.hopW0
  | 0x210 => p.hopW1
  | 0x220 => word p.hopResult.toNat
  | _ =>
    if 0x100 ≤ off ∧ off < 0x180 then elem p.profCfg (idxAt 0x100 off) id
    else if 0x180 ≤ off ∧ off < 0x200 then elem p.profRate (idxAt 0x180 off) id
    else if 0x300 ≤ off ∧ off < 0x320 then elem p.mkDelay (idxAt 0x300 off) id
    else if 0x320 ≤ off ∧ off < 0x340 then c.skewWord (6 + idxAt 0x320 off)
    else 0

/-- A write of PLY_HOP_CMD (R190). -/
def State.hopCommand (s : State) (ch : ChanId) (v : Word) : State :=
  match fld v 0 2 with
  | 1 => s.modCh ch Chan.hopRead
  | 2 => s.hopWrite ch
  | 3 => s.hopApply ch (BitVec.ofNat 3 (fld v 2 3))
  | _ => s

def Ply.write (p : Ply) (off : Nat) (v : Word) : Ply :=
  match off with
  | 0x040 => { p with wavDelay := keep v 0xFFFF }
  | 0x200 => { p with hopIdx := keep v 0xFF }
  | 0x208 => { p with hopW0 := v }
  | 0x210 => { p with hopW1 := v }
  | _ =>
    if 0x100 ≤ off ∧ off < 0x180 then { p with profCfg := vputN p.profCfg (idxAt 0x100 off) (keep v 0x3F) }
    else if 0x180 ≤ off ∧ off < 0x200 then { p with profRate := vputN p.profRate (idxAt 0x180 off) (keep v 0xFFFFFFFFFFFF) }
    else if 0x300 ≤ off ∧ off < 0x320 then { p with mkDelay := vputN p.mkDelay (idxAt 0x300 off) (keep v 0xFFFF) }
    else p

/-! ### DST (R237) -/

/-- DST_STAT.STATE codes. -/
def dstStateCode : DstState → Nat
  | .idle => 0 | .waiting => 1 | .running => 2 | .paused => 3 | .halted => 4 | .refused => 5

def Dst.stat (d : Dst) : Word :=
  pack [(d.pcIssued.toNat, 36), (d.haltCode.toNat, 24), (d.check.toNat, 16), (d.core.stack.length % 8, 8), (dstStateCode d.state, 0)]

/-- DST_GEN_LIVE. -/
def DstCore.genWord (k : DstCore) : Word := pack [(k.b.toNat, 40), (k.y.toNat, 20), (k.x.toNat, 0)]

/-- What a read of DST_STAT captures: DST_GEN_LIVE, DST_VEC_POS, DST_FRAMES, DST_LOST and DST_CNT. -/
def Dst.capture (d : Dst) : Dst :=
  let k := d.core
  let cnt := fun (i : Fin 4) => word (k.cnt[i]).toNat
  { d with snap := #v[k.genWord, word k.vecPos.toNat, d.frames, pack [(d.under.toNat, 32), (d.lostGap.toNat, 0)],
      cnt 0, cnt 1, cnt 2, cnt 3] }

/-- DST_SCR_DATA (R237); 0 without an image (R16). -/
def Dst.scrData (d : Dst) (im : ChImage) : Word :=
  let i := fld d.scrIdx 0 10
  if im.laneMap.isEmpty then 0 else match fld d.scrIdx 16 2 with
  | 0 => word (im.ascr false i % 1024)
  | 1 => word (im.ascr true i % 1024)
  | 2 => word (im.dtop i).toNat
  | _ => 0

def Chan.dstRead (c : Chan) (cyc off : Nat) : Word :=
  let d := (c.dstTo (q16 (cyc * cycleTbu))).dst
  let im := c.skn.image
  match off with
  | 0x000 => d.set.cfg
  | 0x010 => d.stat
  | 0x018 => d.events.bits
  | 0x020 => d.set.genInit
  | 0x028 => d.snap[0]
  | 0x030 => d.set.xlim
  | 0x038 => d.set.ylim
  | 0x040 => d.set.blim
  | 0x048 => d.set.stride
  | 0x050 => d.set.vecBase
  | 0x058 => d.set.vecLen
  | 0x060 => d.snap[1]
  | 0x068 => d.runPos
  | 0x070 => d.snap[2]
  | 0x078 => d.snap[3]
  | 0x080 => d.mcIdx
  | 0x088 => im.mcode (fld d.mcIdx 0 12)
  | 0x090 => word im.mcCount
  | 0x098 => d.scrIdx
  | 0x0A0 => d.scrData im
  | _ =>
    let l := off / 8 % 32
    if 0x0C0 ≤ off ∧ off < 0x0E0 then elem d.set.cntPre (idxAt 0xC0 off) id
    else if 0x0E0 ≤ off ∧ off < 0x100 then elem d.snap (4 + idxAt 0xE0 off) id
    else if 0x100 ≤ off ∧ off < 0x140 then
      elem (if off / 8 % 2 = 0 then d.set.bgLo else d.set.bgHi) ((off - 0x100) / 16) id
    else if 24 ≤ l then 0
    else match off / 0x100 with
      | 2 => payloadWord im.laneMap l
      | 3 => word (im.laneRate l)
      | 4 => elem d.laneCfg l id
      | 5 => elem d.set.laneDelay l id
      | 6 => c.skewWord (10 + l)
      | 7 => elem d.laneTrack l fun x => word (twos x 16)
      | _ => 0

/-- A write of DST_LANE_CFG[l] (R235, R98). -/
def Chan.laneCfgWrite (c : Chan) (cyc l : Nat) (v : Word) : ChWrite :=
  let c := c.dstTo (q16 (cyc * cycleTbu))
  let w := rwl (c.locked 3) 0x3E (vget c.dst.laneCfg l 0) v
  ({ c with dst := { c.dst with laneCfg := vputN c.dst.laneCfg l (keep w.1 0x3F) } }, w.2)

/-- A write of the settings latched at ARM (R204). -/
def DstSet.write (d : DstSet) (off : Nat) (v : Word) : DstSet :=
  match off with
  | 0x000 => { d with cfg := keep v 0xFFF31F0F }
  | 0x020 => { d with genInit := keep v 0x3FFFFFFFFFFF }
  | 0x030 => { d with xlim := keep v 0xFFFFF000FFFFF }
  | 0x038 => { d with ylim := keep v 0xFFFFF000FFFFF }
  | 0x040 => { d with blim := keep v 0x3F0000003F }
  | 0x048 => { d with stride := keep v 0x3FFFFFFFFFFF }
  | 0x050 => { d with vecBase := keep v 0x7FFFFC0 }
  | 0x058 => { d with vecLen := keep v 0x1FFFFFFFF }
  | _ =>
    if 0x0C0 ≤ off ∧ off < 0x0E0 then { d with cntPre := vputN d.cntPre (idxAt 0xC0 off) (keep v 0xFFFFFFFF) }
    else if 0x100 ≤ off ∧ off < 0x140 then
      if off / 8 % 2 = 0 then { d with bgLo := vputN d.bgLo ((off - 0x100) / 16) v }
      else { d with bgHi := vputN d.bgHi ((off - 0x100) / 16) (keep v 0xFF) }
    else if 0x500 ≤ off ∧ off < 0x5C0 then { d with laneDelay := vputN d.laneDelay (idxAt 0x500 off) (keep v 0xFFFF) }
    else d

def Chan.dstWrite (c : Chan) (cyc off : Nat) (v : Word) : ChWrite :=
  let d := c.dst
  match off with
  | 0x008 =>
    let c := if bit v 0 then c.dstGo cyc 2 else c
    done (if bit v 1 then c.dstStop cyc else c)
  | 0x080 => done { c with dst := { d with mcIdx := keep v 0xFFF } }
  | 0x098 => done { c with dst := { d with scrIdx := keep v 0x303FF } }
  | _ =>
    if 0x400 ≤ off ∧ off < 0x4C0 then c.laneCfgWrite cyc (idxAt 0x400 off) v
    else done { c with dst := { d with set := d.set.write off v } }

/-! ### ANA (R267) -/

/-- ANA_STAT. -/
def Ana.stat (a : Ana) : Word :=
  pack [(a.sw.toNat, 8), (a.enPend.toNat, 6), (a.zclamp.toNat, 5), (a.deferAt.isSome.toNat, 4), (a.sched.toNat, 3),
    (a.rangeAt.isSome.toNat, 2), (a.rangeNow.toNat, 0)]

def Chan.anaRead (c : Chan) (now : Tbu) (off : Nat) : Word :=
  let a := (c.switched now).ana
  match off with
  | 0x000 => a.stat
  | 0x008 => a.events.bits
  | 0x010 => a.wavCfg
  | 0x018 => a.outCfg
  | 0x020 => a.stbCfg
  | 0x030 => a.stbPos
  | 0x038 => a.stage
  | 0x040 => a.levelsAt now
  | 0x048 => pack [(a.ignored.toNat, 32), (a.applied.toNat, 0)]
  | 0x100 => a.monCfg
  | 0x108 => a.monAlarm.bits
  | _ =>
    if 0x050 ≤ off ∧ off < 0x070 then elem a.lim (idxAt 0x50 off) id
    else if 0x070 ≤ off ∧ off < 0x090 then
      if c.skn.image.laneMap.isEmpty then 0 else word (c.skn.image.restCode (idxAt 0x70 off))
    else if 0x110 ≤ off ∧ off < 0x138 then
      elem a.monVal (idxAt 0x110 off) fun x => word (if a.monFaulty then x.toNat % 65536 else x.toNat)
    else 0

/-- A write of ANA_LVL_CTRL: the cancel acts first, then the scheduled strobe, then the host strobe (log entry 39). -/
def State.lvlControl (s : State) (ch : ChanId) (v : Word) : State :=
  let s := if bit v 2 then s.modCh ch Chan.unsched else s
  let s := if bit v 1 then s.modCh ch fun c => c.sched s.now else s
  if bit v 0 then s.strobe ch 0 else s

def State.anaWrite (s : State) (ch : ChanId) (off : Nat) (v : Word) : State × Status :=
  let a := (s.ch ch).ana
  let set := fun (x : Ana) => (s.modCh ch fun c => { c with ana := x }, St.normal)
  match off with
  | 0x010 => s.rangeWrite ch v
  | 0x018 => set { a with outCfg := keep v 0x1F }
  | 0x020 =>
    let w := rwl ((s.ch ch).locked 2) 3 a.stbCfg v
    let x : Ana := { a with stbCfg := keep w.1 3 }
    -- a change of SRC cancels a scheduled strobe (R251)
    (s.modCh ch fun c => if fld x.stbCfg 0 2 = fld a.stbCfg 0 2 then { c with ana := x } else ({ c with ana := x } : Chan).unsched, w.2)
  | 0x028 => (s.lvlControl ch v, St.normal)
  | 0x030 => set { a with stbPos := v }
  | 0x038 => (s.modCh ch fun c => c.stageWrite s.cycle v, St.normal)
  | 0x100 => set { a with monCfg := keep v 0xFFFFFFFF00FF011F }
  | _ =>
    if 0x050 ≤ off ∧ off < 0x070 then s.limitWrite ch (Fin.ofNat 4 (idxAt 0x50 off)) v
    else (s, St.normal)

/-! ### SYN (R293) -/

/-- SYN_STAT.STATE codes (R273). -/
def synStateCode : SynState → Nat
  | .off => 0 | .search => 1 | .tune => 2 | .idleLocked => 3 | .active => 4 | .stopping => 5 | .failed => 6

def Synth.stat (x : Synth) : Word :=
  pack [(x.meas / 1000 % 65536, 32), (x.band.toNat, 8), (x.hit.toNat, 7), (x.gate.toNat, 6), (x.lock.toNat, 5), (synStateCode x.state, 0)]

def Pair.result' (p : Pair) : Word := pack [(p.cmd.toNat, 8), (p.result.toNat, 0)]

/-- SYN_PAIR_STAT. -/
def Chan.pairStat (c : Chan) : Word :=
  let y := c.syn
  pack [(y.l.covered.toNat, 11), ((c.act true).gate.toNat, 10), (y.l.second.toNat, 8), (y.s.pend.isSome.toNat, 3),
    (y.s.covered.toNat, 2), ((c.act false).gate.toNat, 1), (y.s.second.toNat, 0)]

/-- SYN_TBL_DATA. -/
def Syn.tblData (y : Syn) : Word :=
  match (vget y.synths (fld y.tblIdx 6 2) {}).table[fld y.tblIdx 0 6]? with
  | some e => if e.valid then pack [(1, 63), (e.band.toNat, 48), (e.key.toNat, 0)] else 0
  | none => 0

def Chan.synRead (c : Chan) (off : Nat) : Word :=
  let y := c.syn
  let k := off / 8 % 4
  let x := vget y.synths k {}
  match off with
  | 0x000 => y.sNext
  | 0x010 => y.sSwpos
  | 0x018 => y.s.result'
  | 0x020 => y.s.spare
  | 0x040 => y.lNext
  | 0x058 => y.l.result'
  | 0x060 => y.l.spare
  | 0x080 => c.pairStat
  | 0x088 => y.events.bits
  | 0x180 => y.tblIdx
  | 0x188 => y.tblData
  | _ =>
    match off / 0x20 with
    | 8 => x.stat
    | 9 => x.setting
    | 10 => word (c.ceiling (Fin.ofNat 4 k))
    | 11 => pack [(x.fresh.toNat, 32), (x.fast.toNat, 0)]
    | _ => 0

/-- A write of SPARE: an idle synthesizer with nothing to hold acts on it (R282). -/
def Chan.spareWrite (c : Chan) (lane : Bool) (now : Tbu) (v : Word) : Chan :=
  let c := c.modPair lane fun p => { p with spare := keep v 1 }
  if c.idleFree lane then (c.spareState lane now).recover lane now else c

def State.synWrite (s : State) (ch : ChanId) (off : Nat) (v : Word) : State :=
  let set := fun (f : Syn → Syn) => s.modCh ch fun c => { c with syn := f c.syn }
  match off with
  | 0x000 => set fun y => { y with sNext := keep v 0xFFFFFFFF001F }
  | 0x008 => s.synCommand ch false (fld v 0 4) (bit v 8)
  | 0x010 => set fun y => { y with sSwpos := v }
  | 0x020 => s.modCh ch fun c => c.spareWrite false s.now v
  | 0x040 => set fun y => { y with lNext := keep v 0x1F }
  | 0x048 => s.synCommand ch true (fld v 0 4) false
  | 0x060 => s.modCh ch fun c => c.spareWrite true s.now v
  | 0x180 => set fun y => { y with tblIdx := keep v 0xFF }
  | _ => s

/-! ### JNC (R318) -/

/-- JNC_WIRE_DATA. -/
def Chan.wireData (c : Chan) : Word :=
  let im := c.skn.image
  payloadWord (if bit c.jnc.wireIdx 6 then im.lut else im.wiring) (fld c.jnc.wireIdx 0 6)

/-- JNC_PEND. -/
def Jnc.pendWord (j : Jnc) : Word := pack ((j.lost.toNat, 32) :: (upTo 8).map fun i => (vget j.pend i 0 % 16, 4 * i))

def Chan.jncRead (c : Chan) (on : Bool) (cyc off : Nat) : Word :=
  let j := c.jnc
  match off with
  | 0x010 => word j.grpEn.toNat
  | 0x018 => j.events.bits
  | 0x020 => j.seen.bits
  | 0x028 => j.block.bits
  | 0x030 => j.govd.bits
  | 0x038 => j.pendWord
  | 0x040 => j.lutFilt
  | 0x048 => word (c.lutOutIn on cyc).toNat
  | 0x050 => j.wireIdx
  | 0x058 => c.wireData
  | 0x068 => word j.atArmed.toNat
  | _ =>
    if 0x080 ≤ off ∧ off < 0x0A0 then elem j.atPos (idxAt 0x80 off) id
    else if 0x0A0 ≤ off ∧ off < 0x0C0 then elem j.cnt (idxAt 0xA0 off) fun x => word x.toNat
    else if 0x0C0 ≤ off ∧ off < 0x0E0 then elem j.cntCmp (idxAt 0xC0 off) id
    else if 0x400 ≤ off ∧ off < 0x600 then elem j.gov (idxAt 0x400 off) fun x => word x.toNat
    else 0

/-- A write of JNC_AT_CTRL: the cancel acts first and the arm second (R310). -/
def State.atControl (s : State) (ch : ChanId) (v : Word) : State :=
  (s.atCancel ch (BitVec.ofNat 4 (fld v 4 4))).atArm ch (BitVec.ofNat 4 (fld v 0 4))

/-- A write of JNC_GOV[k] (R309, R98). -/
def Chan.govWrite (c : Chan) (cyc k : Nat) (v : Word) : ChWrite :=
  let w := rwl (c.locked 4) 0xFFFF (word (vget c.jnc.gov k 0).toNat) v
  let j := c.jnc.cfgOpen cyc
  ({ c with jnc := { j with gov := vputN j.gov k (BitVec.ofNat 16 (fld w.1 0 16)) } }, w.2)

/-- A write of JNC_LUT_FILT (R303, R98). -/
def Chan.filtWrite (c : Chan) (cyc : Nat) (v : Word) : ChWrite :=
  let w := rwl (c.locked 5) (2 ^ 64 - 1) c.jnc.lutFilt v
  ({ c with jnc := { c.jnc.cfgOpen cyc with lutFilt := w.1 } }, w.2)

def State.jncWrite (s : State) (ch : ChanId) (off : Nat) (v : Word) : State × Status :=
  let set := fun (f : Jnc → Jnc) => (s.modCh ch fun c => { c with jnc := f c.jnc }, St.normal)
  match off with
  | 0x000 => (if bit v 0 then s.jncClear ch else s, St.normal)
  | 0x008 => (s.jncFire ch v, St.normal)
  | 0x010 => (s.grpEnWrite ch v, St.normal)
  | 0x040 =>
    let r := (s.ch ch).filtWrite s.cycle v
    (s.setCh ch r.1, r.2)
  | 0x050 => set fun j => { j with wireIdx := keep v 0x7F }
  | 0x060 => (s.atControl ch v, St.normal)
  | _ =>
    if 0x080 ≤ off ∧ off < 0x0A0 then set fun j => { j with atPos := vputN j.atPos (idxAt 0x80 off) v }
    else if 0x0A0 ≤ off ∧ off < 0x0C0 then (s.counterWrite ch (Fin.ofNat 4 (idxAt 0xA0 off)) v, St.normal)
    else if 0x0C0 ≤ off ∧ off < 0x0E0 then set fun j => { j with cntCmp := vputN j.cntCmp (idxAt 0xC0 off) (keep v 0x1FFFFFFFF) }
    else if 0x400 ≤ off ∧ off < 0x600 then
      let r := (s.ch ch).govWrite s.cycle (idxAt 0x400 off) v
      (s.setCh ch r.1, r.2)
    else (s, St.normal)

/-! ### TDC (R345) -/

/-- TDC_STAT.STATE codes. -/
def tdcStateCode : TdcState → Nat
  | .off => 0 | .idle => 1 | .waiting => 2 | .measuring => 3 | .suspended => 4

def TdcUnit.stat (u : TdcUnit) : Word := pack [(u.results.toNat, 32), (u.fifo.length, 16), (tdcStateCode u.state, 0)]

/-- TDC_DROP[k]. -/
def Chan.dropWord (c : Chan) (k : Fin 4) : Word :=
  let i := c.tin k
  pack [(i.dead.toNat, 48), (i.heldoff.toNat, 32), ((c.tun k).full.toNat, 16), (i.nopos.toNat, 0)]

/-- Word `n` of record `i` of FIFO k; 0 at or above LEVEL, and while the FIFO is dumped (R337, R340). -/
def Chan.fifoWord (c : Chan) (k : Fin 4) (i n : Nat) : Word :=
  if bit c.tdc.dumpCfg k.val then 0
  else match (c.tun k).fifo[i]? with
    | some r => if n = 0 then r.w0 else if n = 1 then r.w1 else r.w2
    | none => 0

/-- The TDC registers that come one for each input or unit. -/
def Chan.tdcArray (c : Chan) (off : Nat) : Word :=
  let k : Fin 4 := Fin.ofNat 4 (off / 8)
  let i := c.tin k
  let u := c.tun k
  match off / 0x20 with
  | 2 => i.cfg
  | 3 => i.delay
  | 4 => c.skewWord (1 + k.val)
  | 5 => i.winOpen
  | 6 => i.winClose
  | 7 => i.count
  | 8 => u.cfg
  | 9 => u.timeout
  | 10 => u.gate
  | 11 => u.stat
  | 13 => c.dropWord k
  | _ => 0

/-- TDC_FREQ_PER[k] to TDC_FREQ_POS[k]. -/
def TdcUnit.freqRead (u : TdcUnit) (n : Nat) : Word := if n = 0 then u.per else elem u.snap (n - 1) id

def Chan.tdcRead (c : Chan) (off : Nat) : Word :=
  let d := c.tdc
  match off with
  | 0x008 => d.events.bits
  | 0x300 => d.dumpBase
  | 0x308 => d.dumpCfg
  | 0x310 => word d.dumpWr.toNat
  | 0x318 => word d.dumpRd.toNat
  | _ =>
    if off < 0x200 then c.tdcArray off
    else if 0x200 ≤ off ∧ off < 0x280 then (c.tun (Fin.ofNat 4 (off / 32))).freqRead (off / 8 % 4)
    else if 0x4000 ≤ off then
      let x := off - 0x4000
      c.fifoWord (Fin.ofNat 4 (x / 0x3000)) (x % 0x3000 / 24) (x % 0x3000 / 8 % 3)
    else 0

/-- A read of TDC_FREQ_PER[k] captures the registers above it. -/
def Chan.freqCapture (c : Chan) (k : Fin 4) : Chan :=
  let u := c.tun k
  c.setUnit k { u with snap := #v[u.freq, u.q, u.fpos] }

/-- A write of TDC_CTRL: FLUSH (log entry 39), ABORT, and ARM, which an ABORT of its unit clears (R343). -/
def Chan.tdcControl (c : Chan) (cyc : Nat) (v : Word) : Chan :=
  let m := fun lo => BitVec.ofNat 4 (fld v lo 4)
  ((c.flush (m 8)).tdcAbort cyc (m 4)).tdcArm cyc (m 0)

/-- Writes of the registers that come one for each input or unit. -/
def Chan.tdcArrayWrite (c : Chan) (cyc off : Nat) (v : Word) : Chan :=
  let k : Fin 4 := Fin.ofNat 4 (off / 8)
  let i := c.tin k
  match off / 0x20 with
  | 2 => c.setIn k { i with cfg := keep v 0x0FFF0077 }
  | 3 => c.setIn k { i with delay := keep v 0xFFFF }
  | 5 => c.setIn k { i with winOpen := v }
  | 6 => c.winClose k v
  | 8 => c.unitWrite cyc k .cfg v
  | 9 => c.unitWrite cyc k .timeout v
  | 10 => c.unitWrite cyc k .gate v
  | 12 => c.tdcPop k (fld v 0 10)
  | _ => c

def Chan.tdcWrite (c : Chan) (cyc off : Nat) (v : Word) : Chan :=
  let d := c.tdc
  match off with
  | 0x000 => c.tdcControl cyc v
  | 0x300 => { c with tdc := { d with dumpBase := keep v 0x3FFFFFFFF } }
  | 0x308 => c.dumpEnable v
  | 0x318 => { c with tdc := { d with dumpRd := BitVec.ofNat 32 (fld v 0 32) } }
  | _ => if off < 0x200 then c.tdcArrayWrite cyc off v else c

/-! ### MEM (R389) -/

/-- MEM_STAT.TRAIN, the windows of a visit or a rescue included. -/
def Mem.trainCode (m : Mem) : Nat :=
  match m.visit with
  | some v => if v.rescue then 4 else 3
  | none => match m.train with
    | .none => 0 | .initial => 1 | .ready => 2 | .failed => 5

/-- MEM_STAT.CREEL codes. -/
def creelCode : CreelState → Nat
  | .normal => 0 | .reduced => 1 | .lost => 2

/-- MEM_STAT. -/
def Mem.stat (m : Mem) : Word :=
  pack [(m.retired.toNat, 40), ((fin5.map fun d => if m.excused.any fun e => e.dev == d then 2 ^ d.val else 0).foldl (· + ·) 0, 32),
    (m.trainCode, 28), (m.trained.toNat, 24), (m.grade.toNat, 16), (creelCode m.creel, 10), (m.degraded.toNat, 8),
    (m.cacheFull.toNat, 6), (m.pinLoad.toNat, 5), (m.holding.toNat, 4), (m.changing.toNat, 3), (m.inBlackout.toNat, 2),
    (m.invalid.toNat, 1)]

/-- Cache lines that hold no data. R389 gives the field the reset value 0: the store has no lines in use before the creel's
initial training begins (DESIGN CHOICE, log entry 52). -/
def Mem.freeLines (m : Mem) : Nat := if m.train = .none then 0 else m.cacheLines - m.cache.length

/-- MEM_BOB_STAT. -/
def Mem.bobStat (m : Mem) : Word := pack [(m.held, 32), (m.cache.length, 16), (m.freeLines, 0)]

/-- MEM_DEV[d]. -/
def CreelDev.read (d : CreelDev) : Word :=
  pack [(d.why.toNat, 56), (d.set.eyeW.toNat, 40), (d.set.eyeR.toNat, 32), (d.set.vref.toNat, 24), (mean8 d.set.wc, 8),
    (mean8 d.set.rc, 0)]

def Mem.read (m : Mem) (off : Nat) : Word :=
  match off with
  | 0x000 => m.stat
  | 0x008 => m.events.bits
  | 0x010 => m.cfg
  | 0x020 => pack [(m.speedSrc.toNat, 8), (m.speedResult.toNat, 0)]
  | 0x028 => m.bobCfg
  | 0x030 => m.bobBack
  | 0x038 => m.bobStat
  | 0x040 => pack [(m.posted.toNat, 32), (m.recon.toNat, 0)]
  | 0x048 => pack [(m.throttle.toNat, 32), (m.nref.toNat, 0)]
  | 0x050 => m.svcSrc
  | 0x058 => m.svcDst
  | 0x060 => m.svcLen
  | 0x068 => m.svcPat
  | 0x078 => pack [(m.svcDone.toNat, 16), (m.svcLast.toNat, 8), (m.svcResult.toNat, 0)]
  | 0x080 => m.trnLast
  | _ =>
    if 0x100 ≤ off ∧ off < 0x120 then elem m.qos (idxAt 0x100 off) id
    else if 0x140 ≤ off ∧ off < 0x160 then
      pack [((vget m.overdue (idxAt 0x140 off) 0).toNat, 32), ((vget m.maxLat (idxAt 0x140 off) 0).toNat, 0)]
    else if 0x180 ≤ off ∧ off < 0x1A8 then elem m.devs (idxAt 0x180 off) CreelDev.read
    else 0

/-- A write of MEM_CFG: RAA_THRESH and GRADES under lock groups 6 and 7 (R97). -/
def Chan.memCfgWrite (c : Chan) (v : Word) : ChWrite :=
  let a := rwl (c.locked 6) 0xFFFF000000000000 c.mem.cfg v
  let b := rwl (c.locked 7) 0x0000070000000000 c.mem.cfg a.1
  ({ c with mem := { c.mem with cfg := keep b.1 0xFFFF0700FFFFFF00 } }, worseStatus a.2 b.2)

def Chan.memWrite (c : Chan) (off : Nat) (v : Word) : ChWrite :=
  let m := c.mem
  let set := fun (x : Mem) => done { c with mem := x }
  match off with
  | 0x010 => c.memCfgWrite v
  | 0x018 => done (if bit v 2 then c.speedRequest (BitVec.ofNat 2 (fld v 0 2)) false else c)
  | 0x028 => c.pinReload .cfg v
  | 0x030 => c.pinReload .back v
  | 0x050 => set { m with svcSrc := keep v 0x3FFFFFFFF }
  | 0x058 => set { m with svcDst := keep v 0x3FFFFFFFF }
  | 0x060 => set { m with svcLen := keep v 0x7FFFFFFFF }
  | 0x068 => set { m with svcPat := v }
  | 0x070 => done (c.svcRequest (fld v 0 4))
  | _ =>
    if 0x100 ≤ off ∧ off < 0x120 then set { m with qos := vputN m.qos (idxAt 0x100 off) (keep v 0xFFFFFFFF) }
    else done c

/-! ### CAL (R476) -/

/-- A 64-bit field of the active record; 0 without one (R473). -/
def Cal.activeWord (k : Cal) (off : Nat) : Word :=
  match k.activeBank with
  | some b => sget 0 b (off / 8)
  | none => 0

def Cal.read (k : Cal) (off : Nat) : Word :=
  match off with
  | 0x008 => pack [(k.resultCmd.toNat, 8), (k.result.toNat, 0)]
  | 0x010 => pack [(k.state.toNat, 4), (k.active.toNat, 0)]
  | 0x018 => k.events.bits
  | 0x040 => keep (k.activeWord 0x18) 0xFFFFFFFF
  | 0x048 => k.activeWord 0x20
  | 0x050 => k.lastPosSnap
  | 0x058 => pack [(k.rejected.toNat, 32), (k.accepted.toNat, 0)]
  | 0x060 => k.loopCfg
  | _ =>
    if 0x020 ≤ off ∧ off < 0x040 then elem k.runResult (idxAt 0x20 off) id
    else if 0x108 ≤ off ∧ off < 0x300 then elem k.dacTrack (idxAt 0x100 off) fun x => word (twos x 16)
    else if 0x8000 ≤ off ∧ off < 0xC000 then sget 0 (k.bank (Fin.ofNat 2 (off / 0x2000))) (off / 8 % 1024)
    else 0

def State.calWrite (s : State) (ch : ChanId) (off : Nat) (v : Word) : State × Status :=
  let c := s.ch ch
  match off with
  | 0x000 => (s.calCommand ch v, St.normal)
  | 0x060 =>
    let w := rwl (c.locked 9) 3 c.cal.loopCfg v
    (s.setCh ch { c with cal := { c.cal with loopCfg := keep w.1 3 } }, w.2)
  | _ =>
    if 0x8000 ≤ off ∧ off < 0xC000 then
      let r := c.bankWrite (Fin.ofNat 2 (off / 0x2000)) (off % 0x2000) v
      (s.setCh ch r.1, r.2)
    else (s, St.normal)

/-! ### STQ (R424) -/

/-- STQ_QSTAT.STATE codes. -/
def qStateCode : QState → Nat
  | .closed => 0 | .open => 1 | .ending => 2 | .faulted => 3 | .done => 4

/-- STQ_QSTAT.MODE of a queue. -/
def Queue.modeCode (x : Queue) : Nat := if x.state = .closed then 0 else if x.bulk then 2 else 1

/-- STQ_QSTAT[q]. -/
def Queue.stat (x : Queue) : Word :=
  pack [(x.pos % 2 ^ 32, 32), (min 255 x.slack, 24), (x.last.toNat, 16), (x.modeCode, 3), (qStateCode x.state, 0)]

/-- STQ_PEEK. -/
def Stq.peek (q : Stq) : Word :=
  let x := q.q (fld q.peekIdx 0 12)
  if x.state = .closed then 0 else x.word &&& ~~~(0xF : Word)

def Stq.read (q : Stq) (off : Nat) : Word :=
  match off with
  | 0x008 => pack [(q.resultQ.toNat, 16), (q.resultCmd.toNat, 8), (q.result.toNat, 0)]
  | 0x010 => q.events.bits
  | 0x018 => pack [(q.subst.toNat, 32), (q.episodes.toNat, 0)]
  | 0x020 => word (q.queues.filter fun e => e.2.state != .closed).length
  | 0x028 => q.lastUnder
  | 0x030 => q.peekIdx
  | 0x038 => q.peek
  | _ => if 0x8000 ≤ off then (q.q ((off - 0x8000) / 8)).stat else 0

def State.stqWrite (s : State) (ch : ChanId) (off : Nat) (v : Word) : State :=
  let set := fun (f : Stq → Stq) => s.modCh ch fun c => { c with stq := f c.stq }
  match off with
  | 0x000 => s.stqCommand ch v
  | 0x030 => set fun q => { q with peekIdx := keep v 0xFFF }
  | _ => s

/-! ### A channel window's register blocks (R6) -/

/-- What a read of a register of a channel returns in fabric cycle `cyc`; `on` says that its fabric carries events. -/
def Chan.blockRead (c : Chan) (on : Bool) (cyc block off : Nat) : Word :=
  match block with
  | 0 => c.seq.read off
  | 1 => c.plyRead cyc off
  | 2 => c.dstRead cyc off
  | 3 => c.anaRead (cyc * cycleTbu) off
  | 4 => c.synRead off
  | 5 => c.jncRead on cyc off
  | 6 => c.tdcRead off
  | 7 => c.mem.read off
  | 8 => c.cal.read off
  | 9 => c.stq.read off
  | _ => 0

/-- The capture that a read of the lowest register of a multi-word value makes (R15). -/
def Chan.blockCapture (c : Chan) (cyc block off : Nat) : Chan :=
  match block with
  | 0 => if off = 0x040 then { c with seq := c.seq.capture } else c
  | 2 => if off = 0x010 then { c with dst := { c.dst with snap := (c.dstTo (q16 (cyc * cycleTbu))).dst.capture.snap } } else c
  | 6 => if 0x200 ≤ off ∧ off < 0x280 ∧ off % 32 = 0 then c.freqCapture (Fin.ofNat 4 (off / 32)) else c
  | 8 => if off = 0x048 then { c with cal := { c.cal with lastPosSnap := c.cal.activeWord 0x28 } } else c
  | _ => c

/-- A change of one channel, with its status. -/
def State.chWrite (s : State) (ch : ChanId) (r : ChWrite) : State × Status := (s.setCh ch r.1, r.2)

/-- The register of W1C bits at an offset of a channel window, in the order of `Chan.evRegs`. -/
def evAtCh (block off : Nat) : Option (Fin 14) :=
  match block, off with
  | 0, 0x080 => some 0 | 1, 0x008 => some 1 | 2, 0x018 => some 2 | 3, 0x008 => some 3 | 3, 0x108 => some 4
  | 4, 0x088 => some 5 | 5, 0x018 => some 6 | 5, 0x020 => some 7 | 5, 0x028 => some 8 | 5, 0x030 => some 9
  | 6, 0x008 => some 10 | 7, 0x008 => some 11 | 8, 0x018 => some 12 | 9, 0x010 => some 13 | _, _ => none

/-- Give a register of W1C bits of a channel a value. -/
def Chan.evPut (c : Chan) (i : Fin 14) (e : Sticky) : Chan :=
  match i with
  | 0 => { c with seq := { c.seq with events := e } }
  | 1 => { c with ply := { c.ply with events := e } }
  | 2 => { c with dst := { c.dst with events := e } }
  | 3 => { c with ana := { c.ana with events := e } }
  | 4 => { c with ana := { c.ana with monAlarm := e } }
  | 5 => { c with syn := { c.syn with events := e } }
  | 6 => { c with jnc := { c.jnc with events := e } }
  | 7 => { c with jnc := { c.jnc with seen := e } }
  | 8 => { c with jnc := { c.jnc with block := e } }
  | 9 => { c with jnc := { c.jnc with govd := e } }
  | 10 => { c with tdc := { c.tdc with events := e } }
  | 11 => { c with mem := { c.mem with events := e } }
  | 12 => { c with cal := { c.cal with events := e } }
  | 13 => { c with stq := { c.stq with events := e } }

/-- What the outputs have done before a fabric cycle that begins at instant `x` shows in PLY_EVENTS and DST_EVENTS before a host
write of `v` clears it. -/
def Chan.sync (c : Chan) (i : Fin 14) (x : Q16) (v : Word) : Chan :=
  match i with
  | 1 => c.outClear x v
  | 2 => c.dstTo x
  | _ => c

/-- A host write of a register of W1C bits of a channel (R9, R10); a write that clears SATURATE clears it for every DAC sample
before its fabric cycle. -/
def State.evClearCh (s : State) (ch : ChanId) (i : Fin 14) (v : Word) : State :=
  s.modCh ch fun c =>
    let c := c.sync i (q16 (s.cycle * cycleTbu)) v
    c.evPut i (c.evRegs[i].clear (s.evMark.getD (7 + 14 * ch.val + i.val) 0) v)

/-- What a write of any other register of a channel does. -/
def State.blockOther (s : State) (ch : ChanId) (block off : Nat) (v : Word) : State × Status :=
  let c := s.ch ch
  let cyc := s.cycle
  match block with
  | 0 => s.chWrite ch (c.seqWrite cyc off v)
  | 1 => if off = 0x218 then (s.hopCommand ch v, St.normal) else s.chWrite ch (done { c with ply := c.ply.write off v })
  | 2 => s.chWrite ch (c.dstWrite cyc off v)
  | 3 => s.anaWrite ch off v
  | 4 => (s.synWrite ch off v, St.normal)
  | 5 => s.jncWrite ch off v
  | 6 => s.chWrite ch (done (c.tdcWrite cyc off v))
  | 7 => s.chWrite ch (c.memWrite off v)
  | 8 => s.calWrite ch off v
  | 9 => (s.stqWrite ch off v, St.normal)
  | _ => (s, St.normal)

/-- What a write of a register of a channel does. -/
def State.blockWrite (s : State) (ch : ChanId) (block off : Nat) (v : Word) : State × Status :=
  match evAtCh block off with
  | some i => (s.evClearCh ch i v, St.normal)
  | none => s.blockOther ch block off v

end Sys2Proof.Machine
end

