-- ==== Sys2Proof/Machine/HostRegs.lean ====
section
/-! DEFINITION. Host accesses: a read or write of any mapped address, the broadcast write, requests with their completions,
and the flow control behind a window access that is held back (R4 to R15, R349, R400 to R403). -/

namespace Sys2Proof.Machine

/-- HP_BCAST_DATA, within the common block (R403). -/
def Place.isBcast : Place → Bool
  | .common 5 0x048 => true
  | _ => false

/-- What a read of one word returns, the bobbin window apart. -/
def State.placeRead (s : State) (p : Place) : Word :=
  match p with
  | .common b off => s.commonRead b off
  | .block ch b off => (s.ch ch).blockRead (s.fabricOn ch) s.cycle b off
  | .waypoint ch w k => sget 0 (s.ch ch).seq.wpt (4 * w + k.val)
  | _ => 0

/-- The capture that a read makes (R15). -/
def State.placeCapture (s : State) (p : Place) : State :=
  match p with
  | .common b off => s.commonCapture b off
  | .block ch b off => s.modCh ch fun c => c.blockCapture s.cycle b off
  | _ => s

/-- A write of MEM_BOB_CFG or MEM_BOB_BACK; accesses that no reload holds back any longer are carried out (R348, R349). -/
def State.pinReload (s : State) (ch : ChanId) (r : BobReg) (v : Word) : State × Status :=
  let w := (s.ch ch).pinReload r v
  let s := s.setCh ch w.1
  (if w.1.mem.pinLoad then s else s.winRelease ch, w.2)

/-- What a write of one word does, the bobbin window and HP_BCAST_DATA apart. -/
def State.placeWrite (s : State) (p : Place) (v : Word) : State × Status :=
  match p with
  | .common b off => s.commonWrite b off v
  | .block ch b off =>
    if b = 7 ∧ off = 0x028 then s.pinReload ch .cfg v
    else if b = 7 ∧ off = 0x030 then s.pinReload ch .back v
    else s.blockWrite ch b off v
  | .waypoint ch w k => s.chWrite ch ((s.ch ch).waypointWrite (BitVec.ofNat 16 w) k v)
  | _ => (s, St.normal)

/-! ### Broadcast writes (R403) -/

/-- Byte address of offset `off` of channel `ch`'s window (R4). -/
def winAddr (ch : ChanId) (off : Nat) : Nat := 0x100000000 + ch.val * 0x10000000 + off

/-- A named channel performs a broadcast write under the rules of its own window. -/
def State.bcastOne (off : Nat) (v : Word) (s : State) (ch : ChanId) : State :=
  let st := s.accessTest (winAddr ch off) 1
  let p := placeIn ch off
  if st ≠ St.normal then s.bcastStatus ch st
  else match p with
    | .window _ o => s.winAccess ch { src := .bcast, write := true, off := o, len := 8, data := [v] }
    | _ =>
      let r := s.placeWrite p v
      r.1.bcastStatus ch r.2

/-- HP_BCAST_VEC at the write: 0xE for the channels named, 0xF for the others. -/
def bcastStart (mask : BitVec 16) : Word := (chOf mask).foldl (fun v c => putNibble v c.val 0xE) (BitVec.allOnes 64)

/-- A write of HP_BCAST_DATA; `tag` names its completion, if it has one. -/
def State.bcastWrite (s : State) (tag : Option (BitVec 12)) (v : Word) : State :=
  let mask : BitVec 16 := BitVec.ofNat 16 (fld s.hp.bcastCfg 32 16)
  let off := fld s.hp.bcastCfg 0 28
  let s := { s with hp := { s.hp with bcastVec := bcastStart mask, bcastTag := some tag, busy := true } }
  (s.forCh (chOf mask) (State.bcastOne off v)).bcastEnd

/-! ### Requests (R400 to R402) -/

/-- The data of a completion that is not normal: LEN words of 0 for a read, none for a write (R401). DESIGN CHOICE (log entry 74): a
malformed LEN above 32 gives 32 words, the most that a frame holds (R393). -/
def HostReq.noData (r : HostReq) : List Word := if r.write then [] else List.replicate (min 32 r.len.toNat) 0

/-- A request is executed. -/
def State.request (s : State) (r : HostReq) : State :=
  let a := r.addr.toNat
  let st := s.accessTest a r.len.toNat
  let p := placeOf a
  if st ≠ St.normal then s.complete r.tag st r.noData
  else match p with
    | .window ch off => s.winAccess ch { src := .request r.tag, write := r.write, off := off, len := 8 * r.len.toNat, data := r.data }
    | _ =>
      if !r.write then (s.placeCapture p).complete r.tag St.normal [s.placeRead p]
      else if p.isBcast then s.bcastWrite r.tag (r.data.headD 0)
      else
        let w := s.placeWrite p (r.data.headD 0)
        w.1.complete r.tag w.2 []

/-- Requests that waited are executed in order, until one is held back (R402). -/
def State.drainReqs : Nat → State → State
  | 0, s => s
  | n + 1, s =>
    match s.hp.reqs with
    | [] => s
    | r :: l =>
      if s.hp.busy then s
      else State.drainReqs n (({ s with hp := { s.hp with reqs := l } } : State).request r)

/-- Requests that wait go on, if nothing holds them back any longer. -/
def State.settle (s : State) : State := s.drainReqs s.hp.reqs.length

/-- Requests that the host may have outstanding without a CPL: REQ_MAX (R402, R423). -/
def reqMax : Nat := 512

/-- Requests taken and not completed. -/
def Hp.waitingReqs (h : Hp) : Nat := h.reqs.length + (if h.busy then 1 else 0)

/-- LACK advances over the frames accepted, up to a request frame beyond REQ_MAX: its acknowledgement is withheld until earlier
requests have completed (R402). -/
def Hp.lackOn : Nat → Hp → Hp
  | 0, h => h
  | n + 1, h =>
    match h.unlacked with
    | [] => h
    | x :: r =>
      if x.2 && decide (reqMax ≤ h.waitingReqs - (h.unlacked.filter (·.2)).length) then h
      else Hp.lackOn n { h with lackOut := x.1, unlacked := r }

def State.lackOn (s : State) : State := { s with hp := Hp.lackOn s.hp.unlacked.length s.hp }

/-- A request arrives: behind one held back it waits (R402). -/
def State.requestIn (s : State) (r : HostReq) : State :=
  if s.hp.busy then { s with hp := { s.hp with reqs := s.hp.reqs ++ [r] } } else (s.request r).settle

/-! ### The commands of single registers (R11, R15, R348, R403) -/

/-- A request that has no completion of its own. -/
def rowRequest (addr : BitVec 40) (v : Word) : HostReq := { tag := none, write := true, len := 1, addr := addr, data := [v] }

/-- REGISTER_WRITE (R8 to R13): one 64-bit write at a byte address. -/
def execRegisterWrite (t : Tbu) (addr : BitVec 40) (v : Word) (s : State) : Host.Outcome State Fault Refusal :=
  .next ((s.atTime t).ifPort fun s => s.requestIn (rowRequest addr v))

/-- MULTIWORD_READ (R15): a read of the lowest register of a multi-word value. -/
def execMultiwordRead (t : Tbu) (addr : BitVec 40) (s : State) : Host.Outcome State Fault Refusal :=
  .next ((s.atTime t).ifPort fun s => s.requestIn { tag := none, write := false, len := 1, addr := addr, data := [] })

/-- Address of HP_BCAST_DATA. -/
def bcastAddr : BitVec 40 := 0x5048

/-- HP_BCAST_DATA (R403). -/
def execHpBcastData (t : Tbu) (v : Word) (s : State) : Host.Outcome State Fault Refusal :=
  .next ((s.atTime t).ifPort fun s => s.requestIn (rowRequest bcastAddr v))

/-- PIN_RELOAD (R348). -/
def execPinReload (t : Tbu) (ch : ChanId) (r : BobReg) (v : Word) (s : State) : Host.Outcome State Fault Refusal :=
  .next ((s.atTime t).ifWindow fun s => (s.pinReload ch r v).1.settle.lackOn)

/-- PIN_RELOAD_DONE (R348): with every pinned line read, the pinned lines hold their backing lines, and accesses held back are carried out. -/
def execPinReloadDone (t : Tbu) (ch : ChanId) (s : State) : Host.Outcome State Fault Refusal :=
  let s := s.atTime t
  let m := (s.ch ch).mem
  .next (if m.pinLoad && decide (m.pin ≤ m.pinNext) && !m.isLoading .pin then
      ((s.modMem ch fun m => { m with pinLoad := false }).winRelease ch).settle.lackOn
    else s)

/-- BOB_DEGRADED (R480, R384): the controller is in creel-direct mode. -/
def execBobDegraded (t : Tbu) (ch : ChanId) (s : State) : Host.Outcome State Fault Refusal :=
  let s := s.atTime t
  let m := (s.ch ch).mem
  .next (if m.bobLostAt.isSome && !m.degraded then
      let s := s.modCh ch fun c =>
        ({ c with mem := { c.mem with degraded := true, pinLoad := false, directTo := c.playBurst s.cycle }, flt := { c.flt with bob := true } } : Chan).memEvent MemEv.bobDegraded
      ((s.winRelease ch).bobCreel ch m.retiredDetail).settle.lackOn
    else s)

end Sys2Proof.Machine
end

