-- ==== Sys2Proof/Machine/Port.lean ====
section
/-! DEFINITION. The SarLane port above the lanes: frames and their packets, the requests RD and WR, queue data, and the
sideband (R393, R394, R399 to R402, R408, R409, R421). -/

namespace Sys2Proof.Machine

/-- A packet of a wrong type or length is discarded (R399). -/
def State.malformed (s : State) : State := { s with hp := s.hp.event HpEv.malformed }

/-- The port takes packets: the link is up, in a mode in which the host port is up (R103, R395). -/
def State.takes (s : State) : Bool := s.portUp && s.hp.state == .up

/-- An RD packet. -/
def State.rdPacket (s : State) (tag : BitVec 12) (len : Byte) (addr : BitVec 40) : State :=
  s.requestIn { tag := some tag, write := false, len := len, addr := addr, data := [] }

/-- A WR packet: its length must agree with its header (R399). -/
def State.wrPacket (s : State) (tag : BitVec 12) (len : Byte) (addr : BitVec 40) (data : List Word) : State :=
  if data.length = len.toNat then s.requestIn { tag := some tag, write := true, len := len, addr := addr, data := data }
  else s.malformed

/-- A QDATA packet: its length must agree with its header (R399). -/
def State.qdataPacket (s : State) (queue : BitVec 16) (len : Byte) (pos : BitVec 32) (data : List Word) : State :=
  if data.length = len.toNat then s.qdata queue len pos data else s.malformed

/-- RD (R400). -/
def execRd (t : Tbu) (tag : BitVec 12) (len : Byte) (addr : BitVec 40) (s : State) : Host.Outcome State Fault Refusal :=
  let s := s.atTime t
  .next (if s.takes then s.heard.rdPacket tag len addr else s)

/-- WR (R400). -/
def execWr (t : Tbu) (tag : BitVec 12) (len : Byte) (addr : BitVec 40) (data : List Word) (s : State) :
    Host.Outcome State Fault Refusal :=
  let s := s.atTime t
  .next (if s.takes then s.heard.wrPacket tag len addr data else s)

/-- QDATA (R408, R409). -/
def execQdata (t : Tbu) (queue : BitVec 16) (len : Byte) (pos : BitVec 32) (data : List Word) (s : State) :
    Host.Outcome State Fault Refusal :=
  let s := s.atTime t
  .next (if s.takes then s.heard.qdataPacket queue len pos data else s)

/-! ### Frames (R393, R394) -/

/-- The words of a packet, header first. -/
def packetWords (p : List Byte) : List Word := (upTo (p.length / 8)).map fun i => payloadWord p i

/-- A packet is executed by its TYPE. -/
def State.packet (s : State) (p : List Byte) : State :=
  match packetWords p with
  | [] => s.malformed
  | h :: data =>
    let len : Byte := BitVec.ofNat 8 (fld h 40 8)
    let tag : BitVec 12 := BitVec.ofNat 12 (fld h 48 12)
    let addr : BitVec 40 := BitVec.ofNat 40 (fld h 0 40)
    match fld h 60 4 with
    | 1 => if data.isEmpty then s.rdPacket tag len addr else s.malformed
    | 2 => s.wrPacket tag len addr data
    | 4 => s.qdataPacket (BitVec.ofNat 16 (fld h 44 16)) (BitVec.ofNat 8 (fld h 32 8)) (BitVec.ofNat 32 (fld h 0 32)) data
    | _ => s.malformed

/-- The link header and packet, over which LCRC runs. -/
def frameBody (f : List Byte) : List Byte := f.take (f.length - 4)

/-- A frame is accepted: its LCRC matches, its LEN is in range and its LSEQ is the one expected. -/
def Hp.accepts (h : Hp) (f : List Byte) : Bool :=
  let len := num f 0 1
  decide (2 ≤ len) && decide (len ≤ 34) && f.length == 8 * len && num f (f.length - 4) 4 == (crc32 (frameBody f)).toNat
    && num f 0 4 / 2 ^ 20 == h.rxSeq.toNat

/-- A frame is discarded; the first since the last one accepted is answered with a NAK. -/
def Hp.discard (h : Hp) : Hp := if h.nakSent then h else { h with nakSent := true, naks := h.rxSeq :: h.naks }

/-- The frame carries a request: TYPE RD or WR (R399). -/
def frameRequest (f : List Byte) : Bool := num f 4 8 / 2 ^ 60 == 1 || num f 4 8 / 2 ^ 60 == 2

/-- A frame is accepted, with the LACK it carries; its own acknowledgement waits its turn (R402). -/
def Hp.take (h : Hp) (f : List Byte) (now : Tbu) : Hp :=
  ({ h with unlacked := h.unlacked ++ [(h.rxSeq, frameRequest f)], rxSeq := h.rxSeq + 1, nakSent := false } : Hp).ack
    (BitVec.ofNat 12 (num f 0 4 / 2 ^ 8)) now

/-- A frame arrives. -/
def State.frame (s : State) (f : List Byte) : State :=
  if s.hp.accepts f then
    let s := { s with hp := s.hp.take f s.now }
    (if s.portUp then s.packet ((frameBody f).drop 4) else s).lackOn
  else { s with hp := s.hp.discard }

/-- FRAME_RECEIVED (R394). -/
def execFrameReceived (t : Tbu) (bytes : List Byte) (s : State) : Host.Outcome State Fault Refusal :=
  let s := s.atTime t
  .next (if s.hp.state = .up then s.heard.frame bytes else s)

/-! ### Sideband (R421) -/

/-- A byte of a word. -/
def wordByte (w : Word) (k : Nat) : Byte := BitVec.ofNat 8 (fld w (8 * k) 8)

/-- A byte of the sideband's map. -/
def State.sideByte (s : State) (p : Nat) : Byte :=
  match p with
  | 0x00 => wordByte (idRead 0x000) 0
  | 0x01 => wordByte (idRead 0x000) 1
  | 0x02 => wordByte (idRead 0x008) 2
  | 0x03 => wordByte (idRead 0x008) 3
  | 0x04 => wordByte (idRead 0x008) 0
  | 0x05 => wordByte (idRead 0x008) 1
  | 0x06 => wordByte (idRead 0x010) 0
  | 0x07 => 0x01
  | 0x10 => BitVec.ofNat 8 (modeCode s.mod.mode)
  | 0x11 => BitVec.ofNat 8 (s.mod.bankOk.toNat + 2 * s.mod.linkUp.toNat)
  | 0x12 => BitVec.ofNat 8 s.tlh.vin
  | 0x13 => BitVec.ofNat 8 (s.tlh.vin / 256)
  | 0x14 => s.hp.locked
  | _ => if 0x08 ≤ p ∧ p < 0x10 then wordByte (idRead 0x018) (p - 8) else 0

/-- SIDEBAND_POINTER_WRITE (R421). -/
def execSidebandPointerWrite (t : Tbu) (p : Byte) (s : State) : Host.Outcome State Fault Refusal :=
  let s := s.atTime t
  .next (if s.powered then { s with side := { s.side with pointer := p } } else s)

/-- A read of `n` bytes from the pointer on. -/
def State.sideRead (s : State) (n : Nat) : State :=
  let p := s.side.pointer.toNat
  { s with side := { s.side with lastRead := (upTo n).map fun i => s.sideByte ((p + i) % 256), pointer := BitVec.ofNat 8 (p + n) } }

/-- SIDEBAND_READ (R421). -/
def execSidebandRead (t : Tbu) (n : Nat) (s : State) : Host.Outcome State Fault Refusal :=
  let s := s.atTime t
  .next (if s.powered then s.sideRead n else s)

end Sys2Proof.Machine
end

