-- ==== Sys2Proof/Machine/Dispatch.lean ====
section
/-! DEFINITION. The effect of a command: one arm for each row of spec/opcode_table.json, in the table's order. -/

namespace Sys2Proof.Machine

def exec (i : Instr) (s : State) : Host.Outcome State Fault Refusal :=
  match i with
  | .powerUp t => Sys2Proof.Machine.execPowerUp t s
  | .supplyFail t => Sys2Proof.Machine.execSupplyFail t s
  | .bankOk t => Sys2Proof.Machine.execBankOk t s
  | .holdupEntry t vin => Sys2Proof.Machine.execHoldupEntry t vin s
  | .saveDeadline t late => Sys2Proof.Machine.execSaveDeadline t late s
  | .saveComplete t => Sys2Proof.Machine.execSaveComplete t s
  | .vaultedReturn t => Sys2Proof.Machine.execVaultedReturn t s
  | .sheddingReturn t => Sys2Proof.Machine.execSheddingReturn t s
  | .tollhouseTick t vin amps avs draw => Sys2Proof.Machine.execTollhouseTick t vin amps avs draw s
  | .hardShed t => Sys2Proof.Machine.execHardShed t s
  | .tollGradeRaise t => Sys2Proof.Machine.execTollGradeRaise t s
  | .feedLost t seen => Sys2Proof.Machine.execFeedLost t seen s
  | .overdraw t ch => Sys2Proof.Machine.execOverdraw t ch s
  | .refWindowEnd t count => Sys2Proof.Machine.execRefWindowEnd t count s
  | .refEdgeTimeout t => Sys2Proof.Machine.execRefEdgeTimeout t s
  | .tbInvalid t => Sys2Proof.Machine.execTbInvalid t s
  | .tbLocked t => Sys2Proof.Machine.execTbLocked t s
  | .odoTick t => Sys2Proof.Machine.execOdoTick t s
  | .paceEdge t ch mstone => Sys2Proof.Machine.execPaceEdge t ch mstone s
  | .paceStop t ch => Sys2Proof.Machine.execPaceStop t ch s
  | .eventEmit t ch => Sys2Proof.Machine.execEventEmit t ch s
  | .retrack t mask => Sys2Proof.Machine.execRetrack t mask s
  | .snapRead t => Sys2Proof.Machine.execSnapRead t s
  | .multiwordRead t addr => Sys2Proof.Machine.execMultiwordRead t addr s
  | .registerWrite t addr v => Sys2Proof.Machine.execRegisterWrite t addr v s
  | .sknStart t v => Sys2Proof.Machine.execSknStart t v s
  | .sknAbort t => Sys2Proof.Machine.execSknAbort t s
  | .sknData t w => Sys2Proof.Machine.execSknData t w s
  | .loadDataTimeout t => Sys2Proof.Machine.execLoadDataTimeout t s
  | .moduleSectionApplied t => Sys2Proof.Machine.execModuleSectionApplied t s
  | .channelSectionApplied t ch => Sys2Proof.Machine.execChannelSectionApplied t ch s
  | .dofferSelfCheckPass t ch => Sys2Proof.Machine.execDofferSelfCheckPass t ch s
  | .dofferCheckTimeout t ch => Sys2Proof.Machine.execDofferCheckTimeout t ch s
  | .arm t ch => Sys2Proof.Machine.execArm t ch s
  | .routeCheckDone t ch => Sys2Proof.Machine.execRouteCheckDone t ch s
  | .start t ch => Sys2Proof.Machine.execStart t ch s
  | .hold t ch => Sys2Proof.Machine.execHold t ch s
  | .resume t ch => Sys2Proof.Machine.execResume t ch s
  | .stop t ch => Sys2Proof.Machine.execStop t ch s
  | .cancel t ch => Sys2Proof.Machine.execCancel t ch s
  | .enable t ch => Sys2Proof.Machine.execEnable t ch s
  | .disable t ch => Sys2Proof.Machine.execDisable t ch s
  | .runEntry t ch => Sys2Proof.Machine.execRunEntry t ch s
  | .drainComplete t ch => Sys2Proof.Machine.execDrainComplete t ch s
  | .segRead t ch => Sys2Proof.Machine.execSegRead t ch s
  | .segWrite t ch => Sys2Proof.Machine.execSegWrite t ch s
  | .waypointWrite t ch w k v => Sys2Proof.Machine.execWaypointWrite t ch w k v s
  | .advance t ch => Sys2Proof.Machine.execAdvance t ch s
  | .hostJump t ch target => Sys2Proof.Machine.execHostJump t ch target s
  | .exitGate t ch => Sys2Proof.Machine.execExitGate t ch s
  | .passBoundary t ch => Sys2Proof.Machine.execPassBoundary t ch s
  | .lateHeadArrival t ch => Sys2Proof.Machine.execLateHeadArrival t ch s
  | .groupDecide t ch => Sys2Proof.Machine.execGroupDecide t ch s
  | .freeze t ch => Sys2Proof.Machine.execFreeze t ch s
  | .hopSwitch t ch => Sys2Proof.Machine.execHopSwitch t ch s
  | .hopRead t ch => Sys2Proof.Machine.execHopRead t ch s
  | .hopWrite t ch => Sys2Proof.Machine.execHopWrite t ch s
  | .hopApply t ch op => Sys2Proof.Machine.execHopApply t ch op s
  | .go t ch => Sys2Proof.Machine.execGo t ch s
  | .dstStop t ch => Sys2Proof.Machine.execDstStop t ch s
  | .frameIssue t ch dataReady => Sys2Proof.Machine.execFrameIssue t ch dataReady s
  | .laneDeskewInterval t ch lane early late => Sys2Proof.Machine.execLaneDeskewInterval t ch lane early late s
  | .rangeWrite t ch v => Sys2Proof.Machine.execRangeWrite t ch v s
  | .rangeSwitch t ch => Sys2Proof.Machine.execRangeSwitch t ch s
  | .rangeDone t ch => Sys2Proof.Machine.execRangeDone t ch s
  | .strobe t ch => Sys2Proof.Machine.execStrobe t ch s
  | .sched t ch => Sys2Proof.Machine.execSched t ch s
  | .unsched t ch => Sys2Proof.Machine.execUnsched t ch s
  | .levelTransfer t ch => Sys2Proof.Machine.execLevelTransfer t ch s
  | .ldstbEdge t => Sys2Proof.Machine.execLdstbEdge t s
  | .limitWrite t ch k v => Sys2Proof.Machine.execLimitWrite t ch k v s
  | .switchesClosed t ch => Sys2Proof.Machine.execSwitchesClosed t ch s
  | .disableSequenceEnd t ch => Sys2Proof.Machine.execDisableSequenceEnd t ch s
  | .monitorReading t ch input value => Sys2Proof.Machine.execMonitorReading t ch input value s
  | .zeroClamp t ch => Sys2Proof.Machine.execZeroClamp t ch s
  | .prepare t ch lane => Sys2Proof.Machine.execPrepare t ch lane s
  | .switch t ch lane atPos => Sys2Proof.Machine.execSwitch t ch lane atPos s
  | .hop t ch lane => Sys2Proof.Machine.execHop t ch lane s
  | .synStart t ch lane => Sys2Proof.Machine.execSynStart t ch lane s
  | .synRest t ch lane => Sys2Proof.Machine.execSynRest t ch lane s
  | .forget t ch lane => Sys2Proof.Machine.execForget t ch lane s
  | .tuneQualified t ch syn band measKHz => Sys2Proof.Machine.execTuneQualified t ch syn band measKHz s
  | .stale t ch syn => Sys2Proof.Machine.execStale t ch syn s
  | .tuneFailed t ch syn => Sys2Proof.Machine.execTuneFailed t ch syn s
  | .ceilHold t ch syn => Sys2Proof.Machine.execCeilHold t ch syn s
  | .freqWindowEnd t ch syn measKHz => Sys2Proof.Machine.execFreqWindowEnd t ch syn measKHz s
  | .gateOpen t ch x => Sys2Proof.Machine.execGateOpen t ch x s
  | .gateClose t ch x => Sys2Proof.Machine.execGateClose t ch x s
  | .lossOfLock t ch syn => Sys2Proof.Machine.execLossOfLock t ch syn s
  | .muxSwitch t ch lane => Sys2Proof.Machine.execMuxSwitch t ch lane s
  | .failoverTimeout t ch lane => Sys2Proof.Machine.execFailoverTimeout t ch lane s
  | .synRetry t ch syn => Sys2Proof.Machine.execSynRetry t ch syn s
  | .coverSearch t ch lane => Sys2Proof.Machine.execCoverSearch t ch lane s
  | .verifyTune t ch lane => Sys2Proof.Machine.execVerifyTune t ch lane s
  | .coverLapse t ch lane => Sys2Proof.Machine.execCoverLapse t ch lane s
  | .powerDownDone t ch syn => Sys2Proof.Machine.execPowerDownDone t ch syn s
  | .junctionCarry t ch => Sys2Proof.Machine.execJunctionCarry t ch s
  | .consumerRegister t ch code => Sys2Proof.Machine.execConsumerRegister t ch code s
  | .pendingTake t ch idx => Sys2Proof.Machine.execPendingTake t ch idx s
  | .jncFire t ch mask => Sys2Proof.Machine.execJncFire t ch mask s
  | .clear t ch => Sys2Proof.Machine.execClear t ch s
  | .atArm t ch mask => Sys2Proof.Machine.execAtArm t ch mask s
  | .atCancel t ch mask => Sys2Proof.Machine.execAtCancel t ch mask s
  | .counterWrite t ch k v => Sys2Proof.Machine.execCounterWrite t ch k v s
  | .grpEnWrite t ch v => Sys2Proof.Machine.execGrpEnWrite t ch v s
  | .eviEdge t ch k rising => Sys2Proof.Machine.execEviEdge t ch k rising s
  | .stampConversion t ch k => Sys2Proof.Machine.execStampConversion t ch k s
  | .eviPublish t ch k => Sys2Proof.Machine.execEviPublish t ch k s
  | .tdcArm t ch mask => Sys2Proof.Machine.execTdcArm t ch mask s
  | .tdcAbort t ch mask => Sys2Proof.Machine.execTdcAbort t ch mask s
  | .flush t ch mask => Sys2Proof.Machine.execFlush t ch mask s
  | .tdcPop t ch k n => Sys2Proof.Machine.execTdcPop t ch k n s
  | .winCloseWrite t ch k v => Sys2Proof.Machine.execWinCloseWrite t ch k v s
  | .unitCfgWrite t ch k r v => Sys2Proof.Machine.execUnitCfgWrite t ch k r v s
  | .timeout t ch k => Sys2Proof.Machine.execTimeout t ch k s
  | .freqGateEnd t ch k => Sys2Proof.Machine.execFreqGateEnd t ch k s
  | .freqResult t ch k => Sys2Proof.Machine.execFreqResult t ch k s
  | .dumpEnable t ch v => Sys2Proof.Machine.execDumpEnable t ch v s
  | .dumpRecord t ch k => Sys2Proof.Machine.execDumpRecord t ch k s
  | .bobbinWindowWrite t ch off data => Sys2Proof.Machine.execBobbinWindowWrite t ch off data s
  | .pinReload t ch r v => Sys2Proof.Machine.execPinReload t ch r v s
  | .pinReloadDone t ch => Sys2Proof.Machine.execPinReloadDone t ch s
  | .headsHeld t ch => Sys2Proof.Machine.execHeadsHeld t ch s
  | .creelCommand t ch ready => Sys2Proof.Machine.execCreelCommand t ch ready s
  | .readComplete t r => Sys2Proof.Machine.execReadComplete t r s
  | .excusalEnd t ch d => Sys2Proof.Machine.execExcusalEnd t ch d s
  | .deviceTimeout t ch d => Sys2Proof.Machine.execDeviceTimeout t ch d s
  | .raaClear t ch => Sys2Proof.Machine.execRaaClear t ch s
  | .refreshDue t ch d bank => Sys2Proof.Machine.execRefreshDue t ch d bank s
  | .retrainVisit t ch => Sys2Proof.Machine.execRetrainVisit t ch s
  | .retrainPause t ch => Sys2Proof.Machine.execRetrainPause t ch s
  | .gatherWindowEnd t ch eyes => Sys2Proof.Machine.execGatherWindowEnd t ch eyes s
  | .rescueEnd t ch eyes => Sys2Proof.Machine.execRescueEnd t ch eyes s
  | .speedRequest t ch grade => Sys2Proof.Machine.execSpeedRequest t ch grade s
  | .speedPrepare t ch => Sys2Proof.Machine.execSpeedPrepare t ch s
  | .blackout t ch => Sys2Proof.Machine.execBlackout t ch s
  | .speedDone t ch failed => Sys2Proof.Machine.execSpeedDone t ch failed s
  | .postBlackoutVisit t ch => Sys2Proof.Machine.execPostBlackoutVisit t ch s
  | .trained t ch pass0 pass1 pass2 eyes => Sys2Proof.Machine.execTrained t ch pass0 pass1 pass2 eyes s
  | .copy t ch => Sys2Proof.Machine.execCopy t ch s
  | .fill t ch => Sys2Proof.Machine.execFill t ch s
  | .train t ch => Sys2Proof.Machine.execTrain t ch s
  | .serviceStart t ch => Sys2Proof.Machine.execServiceStart t ch s
  | .svcDone t ch => Sys2Proof.Machine.execSvcDone t ch s
  | .bobbinDeviceLost t ch device why => Sys2Proof.Machine.execBobbinDeviceLost t ch device why s
  | .bobDegraded t ch => Sys2Proof.Machine.execBobDegraded t ch s
  | .outputResume t ch => Sys2Proof.Machine.execOutputResume t ch s
  | .linkUp t => Sys2Proof.Machine.execLinkUp t s
  | .laneDrop t lane => Sys2Proof.Machine.execLaneDrop t lane s
  | .laneAdd t lane => Sys2Proof.Machine.execLaneAdd t lane s
  | .linkSilenceTimeout t => Sys2Proof.Machine.execLinkSilenceTimeout t s
  | .frameReceived t bytes => Sys2Proof.Machine.execFrameReceived t bytes s
  | .nak t lseq => Sys2Proof.Machine.execNak t lseq s
  | .replayTimeout t => Sys2Proof.Machine.execReplayTimeout t s
  | .align t lane mask => Sys2Proof.Machine.execAlign t lane mask s
  | .idle t lack => Sys2Proof.Machine.execIdle t lack s
  | .rd t tag len addr => Sys2Proof.Machine.execRd t tag len addr s
  | .wr t tag len addr data => Sys2Proof.Machine.execWr t tag len addr data s
  | .qdata t queue len pos data => Sys2Proof.Machine.execQdata t queue len pos data s
  | .credit t ch q => Sys2Proof.Machine.execCredit t ch q s
  | .hpBcastData t v => Sys2Proof.Machine.execHpBcastData t v s
  | .openQ t ch w => Sys2Proof.Machine.execOpenQ t ch w s
  | .closeQ t ch w => Sys2Proof.Machine.execCloseQ t ch w s
  | .fillComplete t ch q => Sys2Proof.Machine.execFillComplete t ch q s
  | .fillReady t ch q => Sys2Proof.Machine.execFillReady t ch q s
  | .bulkDone t ch q => Sys2Proof.Machine.execBulkDone t ch q s
  | .sidebandPointerWrite t p => Sys2Proof.Machine.execSidebandPointerWrite t p s
  | .sidebandRead t n => Sys2Proof.Machine.execSidebandRead t n s
  | .tapInstruction t x => Sys2Proof.Machine.execTapInstruction t x s
  | .restore t v => Sys2Proof.Machine.execRestore t v s
  | .restoreDone t => Sys2Proof.Machine.execRestoreDone t s
  | .discard t v => Sys2Proof.Machine.execDiscard t v s
  | .calRun t ch v => Sys2Proof.Machine.execCalRun t ch v s
  | .calCommit t ch v => Sys2Proof.Machine.execCalCommit t ch v s
  | .calBankWrite t ch bank off v => Sys2Proof.Machine.execCalBankWrite t ch bank off v s
  | .calProcedureEnd t ch p r => Sys2Proof.Machine.execCalProcedureEnd t ch p r s
  | .dacTrimVisit t ch cell up down => Sys2Proof.Machine.execDacTrimVisit t ch cell up down s
  | .dofferStall t seen => Sys2Proof.Machine.execDofferStall t seen s
  | .dofferRestartDone t ch => Sys2Proof.Machine.execDofferRestartDone t ch s
  | .monitorCheck t ch ground ref => Sys2Proof.Machine.execMonitorCheck t ch ground ref s
  | .dryLong t ch => Sys2Proof.Machine.execDryLong t ch s
  | .ack t mask => Sys2Proof.Machine.execAck t mask s
  | .logPop t n => Sys2Proof.Machine.execLogPop t n s
  | .restoreEnd t ch => Sys2Proof.Machine.execRestoreEnd t ch s
  | .blockLock t lane => Sys2Proof.Machine.execBlockLock t lane s
  | .blockLockLost t lane => Sys2Proof.Machine.execBlockLockLost t lane s
  | .syncHeaderError t lane => Sys2Proof.Machine.execSyncHeaderError t lane s

end Sys2Proof.Machine
end

