-- ==== Sys2Proof/Safety.lean ====
section
/-! DEFINITION. What counts as a safe run, and the observations that statements use: a byte of a creel, the parts of the
state that a command leaves alone, and the form that every store keeps. -/

/-- The instant at which a command comes about: the first operand of every one (log entry 1). -/
def Sys2Proof.Instr.instant : Sys2Proof.Instr → Sys2Proof.Tbu
  | .powerUp t | .supplyFail t | .bankOk t | .saveComplete t | .vaultedReturn t | .sheddingReturn t | .hardShed t
  | .tollGradeRaise t | .refEdgeTimeout t | .tbInvalid t | .tbLocked t | .odoTick t | .snapRead t | .sknAbort t
  | .loadDataTimeout t | .moduleSectionApplied t | .ldstbEdge t | .linkUp t | .linkSilenceTimeout t | .replayTimeout t
  | .restoreDone t | .holdupEntry t .. | .saveDeadline t .. | .tollhouseTick t .. | .feedLost t .. | .overdraw t ..
  | .refWindowEnd t .. | .paceEdge t .. | .paceStop t .. | .eventEmit t .. | .retrack t .. | .multiwordRead t ..
  | .registerWrite t .. | .sknStart t .. | .sknData t .. | .channelSectionApplied t .. | .dofferSelfCheckPass t ..
  | .dofferCheckTimeout t .. | .arm t .. | .routeCheckDone t .. | .start t .. | .hold t .. | .resume t .. | .stop t ..
  | .cancel t .. | .enable t .. | .disable t .. | .runEntry t .. | .drainComplete t .. | .segRead t ..
  | .segWrite t .. | .waypointWrite t .. | .advance t .. | .hostJump t .. | .exitGate t .. | .passBoundary t ..
  | .lateHeadArrival t .. | .groupDecide t .. | .freeze t .. | .hopSwitch t .. | .hopRead t .. | .hopWrite t ..
  | .hopApply t .. | .go t .. | .dstStop t .. | .frameIssue t .. | .laneDeskewInterval t .. | .rangeWrite t ..
  | .rangeSwitch t .. | .rangeDone t .. | .strobe t .. | .sched t .. | .unsched t .. | .levelTransfer t ..
  | .limitWrite t .. | .switchesClosed t .. | .disableSequenceEnd t .. | .monitorReading t .. | .zeroClamp t ..
  | .prepare t .. | .switch t .. | .hop t .. | .synStart t .. | .synRest t .. | .forget t .. | .tuneQualified t ..
  | .stale t .. | .tuneFailed t .. | .ceilHold t .. | .freqWindowEnd t .. | .gateOpen t .. | .gateClose t ..
  | .lossOfLock t .. | .muxSwitch t .. | .failoverTimeout t .. | .synRetry t .. | .coverSearch t .. | .verifyTune t ..
  | .coverLapse t .. | .powerDownDone t .. | .junctionCarry t .. | .consumerRegister t .. | .pendingTake t ..
  | .jncFire t .. | .clear t .. | .atArm t .. | .atCancel t .. | .counterWrite t .. | .grpEnWrite t .. | .eviEdge t ..
  | .stampConversion t .. | .eviPublish t .. | .tdcArm t .. | .tdcAbort t .. | .flush t .. | .tdcPop t ..
  | .winCloseWrite t .. | .unitCfgWrite t .. | .timeout t .. | .freqGateEnd t .. | .freqResult t .. | .dumpEnable t ..
  | .dumpRecord t .. | .bobbinWindowWrite t .. | .pinReload t .. | .pinReloadDone t .. | .headsHeld t ..
  | .creelCommand t .. | .readComplete t .. | .excusalEnd t .. | .deviceTimeout t .. | .raaClear t ..
  | .refreshDue t .. | .retrainVisit t .. | .retrainPause t .. | .gatherWindowEnd t .. | .rescueEnd t ..
  | .speedRequest t .. | .speedPrepare t .. | .blackout t .. | .speedDone t .. | .postBlackoutVisit t ..
  | .trained t .. | .copy t .. | .fill t .. | .train t .. | .serviceStart t .. | .svcDone t ..
  | .bobbinDeviceLost t .. | .bobDegraded t .. | .outputResume t .. | .laneDrop t .. | .laneAdd t ..
  | .frameReceived t .. | .nak t .. | .align t .. | .idle t .. | .rd t .. | .wr t .. | .qdata t .. | .credit t ..
  | .hpBcastData t .. | .openQ t .. | .closeQ t .. | .fillComplete t .. | .fillReady t .. | .bulkDone t ..
  | .sidebandPointerWrite t .. | .sidebandRead t .. | .tapInstruction t .. | .restore t .. | .discard t ..
  | .calRun t .. | .calCommit t .. | .calBankWrite t .. | .calProcedureEnd t .. | .dacTrimVisit t ..
  | .dofferStall t .. | .dofferRestartDone t .. | .monitorCheck t .. | .dryLong t .. | .ack t .. | .logPop t ..
  | .restoreEnd t .. | .blockLock t .. | .blockLockLost t .. | .syncHeaderError t .. => t

namespace Sys2Proof.Machine

/-- A byte of a channel's creel. -/
def State.creelByte (s : State) (ch : ChanId) (a : Nat) : Byte := readByte (s.ch ch).mem.data a

/-- Every creel is in canonical form (log entry 5). -/
def State.creelsCanonical (s : State) : Prop := ∀ ch : ChanId, Memory.wf (s.ch ch).mem.data = true

/-- Nothing but the clock, with the mark R10 keeps of the cycle in progress, and channel `ch` differs. -/
def State.onlyChannel (ch : ChanId) (s s' : State) : Prop :=
  s' = { s with now := s'.now, evMark := s'.evMark, chans := s'.chans } ∧ ∀ c : ChanId, c ≠ ch → s'.ch c = s.ch c

/-- Every channel is as before. -/
def State.sameChannels (s s' : State) : Prop := ∀ c : ChanId, s'.ch c = s.ch c

/-- Every byte of every creel reads as before. -/
def State.sameCreels (s s' : State) : Prop := ∀ (c : ChanId) (a : Nat), s'.creelByte c a = s.creelByte c a

/-- The fault log holds at most 64 records (R489), and at most 2,048 frames wait for a LACK (R394). -/
def State.bounded (s : State) : Prop := s.flt.log.length ≤ 64 ∧ s.hp.outstanding.length ≤ maxOutstanding

/-- No two states are the same outcome of a step but a next state: the manual gives every command an effect, so a safe run is
one that never stops (log entry 3). -/
def Safe (o : Host.Outcome State Fault Refusal) : Prop := ∃ s : State, o = .next s

end Sys2Proof.Machine
end

