-- ==== Sys2Proof/WellFormed.lean ====
section
/-! DEFINITION. Which commands are well formed: the shapes that the spec gives the operands of a step, where their types
say less. A command that is not well formed is one that no source of the module's inputs produces. -/

namespace Sys2Proof

/-- Bytes of the bobbin window: 72 MB (R6). -/
def windowBytes : Nat := 72 * 2 ^ 20

/-- Elements of a list of numbers, added up. -/
def total (l : List Nat) : Nat := l.foldl (· + ·) 0

/-- 2,048 edges of a path. -/
def halfPath (l : List EdgeSeen) : Bool := total (l.map (·.count)) == 2048 && l.all fun e => decide (e.bin < 512)

/-- What a calibration procedure that runs to its end has measured: 82 states of the DAC, 2^24 edges into the 512 bins of each
interpolator, 4,096 edges of each of 34 paths (R464, R466, R468). -/
def procMeasured (p : Fin 4) (r : ProcReport) : Bool :=
  let binsOk := fun (n : Nat) => r.bins.length == n && r.bins.all fun b =>
    b.half1.length == 512 && b.half2.length == 512 && total b.half1 == 2 ^ 23 && total b.half2 == 2 ^ 23
  match p with
  | 0 => r.states.length == 82 && r.states.all fun x => x.residues.length == 8 && total x.residues == 65536
  | 1 => binsOk 4
  | 2 => binsOk 1
  | 3 => r.paths.length == 34 && r.paths.all fun x => halfPath x.head && halfPath x.tail

/-- The addresses whose read captures a multi-word value (R15): the track snapshot and the digests in the common block, and
in each channel window SEQ_STAT, DST_STAT, TDC_FREQ_PER[k] and CAL_LAST_ODO. -/
def capturing (addr : Nat) : Bool :=
  let off := addr % 0x10000000
  addr == 0x3100 || addr == 0x6040 || (decide (0x6400 ≤ addr) && decide (addr < 0x6600) && addr % 32 == 0)
    || (decide (0x100000000 ≤ addr) && decide (addr < 0x200000000)
      && ([0x40, 0x20010, 0x60200, 0x60220, 0x60240, 0x60260, 0x80048] : List Nat).contains off)

/-- A well-formed command. -/
def Instr.wf : Instr → Bool
  | .tollhouseTick _ vin amps avs draw => vin.length == 10 && amps.length == 10 && avs.length == 16 && draw.length == 16
  | .multiwordRead _ addr => capturing addr.toNat
  | .dacTrimVisit _ _ cell up down => cell != 0 && decide (up + down ≤ 1024)
  | .calProcedureEnd _ _ p r => procMeasured p r
  | .calBankWrite _ _ _ off _ => off.toNat % 8 == 0
  | .trained _ _ _ _ _ eyes => eyes.length == 15
  | .bobbinWindowWrite _ _ off data => decide (off.toNat < windowBytes) && !data.isEmpty
  | .frameReceived _ bytes => bytes.length % 8 == 0 && decide (16 ≤ bytes.length)
  | .wr _ _ len _ data => data.length == len.toNat
  | .qdata _ _ len _ data => data.length == len.toNat
  | .sidebandRead _ n => decide (1 ≤ n)
  | _ => true

end Sys2Proof
end

