-- ==== Sys2Proof/Certificates/Slice0/Obligations.lean ====
section
/-! DEFINITION. The statements about the model: what each command does and leaves alone, and what every command keeps. -/

open Sys2Proof Sys2Proof.Machine

/-- The command answers a next state in which nothing but the clock and channel `c` differs from `s`, and `P` holds of that channel. -/
def Answers (o : Host.Outcome State Fault Refusal) (s : State) (c : ChanId) (P : Chan → Prop) : Prop :=
  ∃ u, o = .next u ∧ s.onlyChannel c u ∧ P (u.ch c)

/-- No frame is on the lanes or on its way to them, and no hold is about to pause the Distaff. -/
def lanesQuiet (x : Chan) : Prop := x.dst.issued = [] ∧ x.dst.pauseAt = none

/-- What the lanes' coming to the present may change of the Distaff: the frames on the way and those driven, with their counts, and
the state in which a HALT frame or the boundary of a hold leaves it (R217, R229, R232). -/
def onLanes (x y : Dst) : Prop :=
  y = { x with
    state := y.state, haltCode := y.haltCode, core := y.core, frame := y.frame, fresh := y.fresh, pauseAt := y.pauseAt, plan := y.plan
    issued := y.issued, driven := y.driven, frames := y.frames, lostGap := y.lostGap, laneCut := y.laneCut, shortCut := y.shortCut
    events := y.events }

/-- Channel `y` keeps the Distaff of channel `x`, but for what the lanes' coming to the present does; with no frame on the way its
state, its microcode and its counts are as they were. -/
def sameDistaff (x y : Chan) : Prop :=
  onLanes x.dst y.dst ∧ (lanesQuiet x → y.dst = { x.dst with driven := y.dst.driven, laneCut := y.dst.laneCut, shortCut := y.dst.shortCut })

/-- The fault log after record `r` of instant `t`: at most 64 records in the order of their cycles, and within a cycle in that of
their codes (R489). -/
def logged (s : State) (t : Tbu) (r : LogRec) : List LogRec :=
  (logInsert ((s.atTime t).flt.sameCycle (s.atTime t).cycle) s.flt.log r).take 64

/-! ### Every command -/

/-- A step carries out the command in front of the queue with the queue's rest; with an empty queue the block idles (log
entry 3). -/
def Obligations.FrontCommandRuns : Prop :=
  (∀ (c : Instr) (q : List Instr) (s : State), step { s with pending := c :: q } = exec c { s with pending := q }) ∧
  ∀ s : State, s.pending = [] → step s = .next s

/-- Every command completes in every state and leaves the commands behind it waiting as they are; the clock is the largest instant
seen, so that it never runs backwards. Both are the model's choices: log entries 3 and 1 (DESIGN CHOICE). -/
def Obligations.EveryCommandCompletes : Prop :=
  ∀ (c : Instr) (s : State), ∃ u, exec c s = .next u ∧ u.pending = s.pending ∧ u.now = max s.now c.instant

/-- No step makes the fault log longer than 64 records (R489), or the frames that wait for a LACK more than 2,048 (R394). -/
def Obligations.StepKeepsBounds : Prop :=
  ∀ s u : State, s.bounded → step s = .next u → u.bounded

/-- Every step keeps every creel's contents in canonical form (log entry 5). -/
def Obligations.StepKeepsCreelForm : Prop :=
  ∀ s u : State, s.creelsCanonical → step s = .next u → u.creelsCanonical

/-- The module right after power-on reset. -/
def Obligations.ResetState : Prop :=
  State.reset.bounded ∧ State.reset.creelsCanonical ∧ State.reset.pending = [] ∧ State.reset.mod.mode = .dark ∧
  State.reset.mod.prev = .dark ∧ State.reset.hp.state = .down ∧ State.reset.hp.bcastVec = 0xFFFFFFFFFFFFFFFF ∧
  (∀ ch : ChanId, (State.reset.ch ch).mod.state = .rest ∧ (State.reset.ch ch).mod.outEn = false ∧
    (State.reset.ch ch).skn.state = .unconfigured ∧ (State.reset.ch ch).trk.state = .absent ∧
    (State.reset.ch ch).jnc.grpEn = 0xFF ∧ (State.reset.ch ch).syn.sNext = 10 ∧ (State.reset.ch ch).mem.invalid = true)

/-- The commands that may store to a creel, or empty one: window writes and bulk data, what releases those that wait, a dump
record, the bursts of a copy or a fill, the end of a channel's apply, and a reset. -/
def storesCreel : Instr → Bool
  | .dumpRecord .. | .bobbinWindowWrite .. | .creelCommand .. | .readComplete .. | .closeQ .. | .channelSectionApplied .. | .powerUp ..
  | .vaultedReturn .. | .supplyFail .. | .registerWrite .. | .multiwordRead .. | .hpBcastData .. | .pinReload .. | .pinReloadDone ..
  | .bobDegraded .. | .rd .. | .wr .. | .frameReceived .. => true
  | _ => false

/-- Every other command leaves every byte of every creel as it was. -/
def Obligations.CreelFrame : Prop :=
  ∀ (c : Instr) (s u : State), storesCreel c = false → exec c s = .next u → s.sameCreels u

/-! ### Power, reset and hold-up -/

/-- R104, R109, R110, R388, R429: once the input has been at or above 40.00 V at every sample for 20 ms, power-on reset from the
unpowered condition, and the warm restart from VAULTED, which keeps TRK_ODO, TRK_TBASE and the code 0x10 of a service that the
hold-up ended; both keep the vault's slots. Nothing happens before, or in any other mode. That a warm restart leaves PREV and
MODE_CHANGE at their reset values is log entry 17 (DEDUCED). -/
def Clause.PowerOnAndWarmRestart : Prop :=
  (∀ (t : Tbu) (s : State) (a : Tbu), s.mod.mode = .unpowered → s.tlh.riseAt = some a → a + 20 * ms ≤ max s.now t →
    ∃ u, exec (.powerUp t) s = .next u ∧
      u = { State.reset with pending := s.pending, now := max s.now t, freeCtr := s.freeCtr, vlt := u.vlt } ∧
      u.vlt.slots = s.vlt.slots ∧ u.vlt.valid = validMask s.vlt.slots ∧ u.vlt.save = none ∧
      bit u.vlt.events.bits VltEv.slotTorn = ((s.vlt.slots[0]).torn || (s.vlt.slots[1]).torn)) ∧
  (∀ (t : Tbu) (s : State) (a : Tbu), s.mod.mode = .vaulted → s.tlh.riseAt = some a → a + 20 * ms ≤ max s.now t →
    ∃ u, exec (.vaultedReturn t) s = .next u ∧
      u = { State.reset with
        pending := s.pending, now := max s.now t, freeCtr := s.freeCtr, vlt := u.vlt
        mod := { State.reset.mod with startCause := 1 }
        trk := { State.reset.trk with odo := s.trk.odo, epoch := s.trk.epoch }, chans := u.chans } ∧
      (∀ c : ChanId, u.ch c = { State.reset.ch c with mem := { (State.reset.ch c).mem with
        svcLast := if (s.ch c).mem.svcLast = 0x10 then 0x10 else 0 } }) ∧
      u.vlt.slots = s.vlt.slots ∧ u.vlt.valid = validMask s.vlt.slots ∧ u.vlt.save = none ∧
      bit u.vlt.events.bits VltEv.slotTorn = ((s.vlt.slots[0]).torn || (s.vlt.slots[1]).torn)) ∧
  (∀ (t : Tbu) (s : State), (s.mod.mode ≠ .unpowered ∨ ∀ a, s.tlh.riseAt = some a → max s.now t < a + 20 * ms) →
    exec (.powerUp t) s = .next (s.atTime t)) ∧
  ∀ (t : Tbu) (s : State), (s.mod.mode ≠ .vaulted ∨ ∀ a, s.tlh.riseAt = some a → max s.now t < a + 20 * ms) →
    exec (.vaultedReturn t) s = .next (s.atTime t)

/-- R104, R109: when the supply and the bank fail only the vault's slots remain, and every creel byte is `creelDefault`, the value
that log entry 5 (DESIGN CHOICE) gives a byte nothing has written; when the bank reaches 38 V the module notes it and link training
starts. -/
def Clause.SupplyAndBank : Prop :=
  (∀ (t : Tbu) (s : State), ∃ u, exec (.supplyFail t) s = .next u ∧ u.mod.mode = .unpowered ∧ u.vlt.slots = s.vlt.slots ∧
    u = { State.reset with pending := s.pending, now := max s.now t, freeCtr := s.freeCtr, mod := u.mod, vlt := u.vlt } ∧
    ∀ (ch : ChanId) (a : Nat), u.creelByte ch a = creelDefault) ∧
  ∀ (t : Tbu) (s : State), s.ticking = true →
    ∃ u, exec (.bankOk t) s = .next u ∧ u.mod = { s.mod with bankOk := true } ∧
      u.hp = { s.hp with state := u.hp.state } ∧
      u.hp.state = (if s.hp.state = .down ∧ s.side.tap ≠ .extest then .training else s.hp.state) ∧
      u = { s.atTime t with mod := u.mod, hp := u.hp }

/-- Power comes and goes: power-on reset and the warm restart, the loss of the supply, and the bank at 38 V. -/
def Obligations.PowerAndReset : Prop := Clause.PowerOnAndWarmRestart ∧ Clause.SupplyAndBank

/-- R119, R120, R444, R447: entry to HOLDUP from any mode in which the Tollhouse ticks, once V_in was below 36.00 V at the two latest
samples (R429). The port stops, every CONFIGURED channel is at REST with its outputs disabled, its switches open or a DISABLE
sequence on its way to open them, no creel byte changes, and a save begins in the target slot if the module was WOUND or SHEDDING
with a plan that saves; the slot saved to loses its commit record first, its header holds the odometer, the time base and V_in at
the entry, and the other is untouched. With V_in at or above 36.00 V at one of the two, only the samples are noted. -/
def Clause.HoldupEntry : Prop :=
  (∀ (t : Tbu) (vin : List (BitVec 16)) (s : State), s.ticking = true → (s.tlh.takeVin (max s.now t) vin).failing = false →
    exec (.holdupEntry t vin) s = .next { s.atTime t with tlh := s.tlh.takeVin (max s.now t) vin }) ∧
  ∀ (t : Tbu) (vin : List (BitVec 16)) (s : State), s.ticking = true → (s.tlh.takeVin (max s.now t) vin).failing = true →
    ∃ u, exec (.holdupEntry t vin) s = .next u ∧ u.mod.mode = .holdup ∧ u.mod.prev = s.mod.mode ∧
      u.now = max s.now t ∧ u.tlh = s.tlh.takeVin (max s.now t) vin ∧ u.trk = s.trk ∧ u.flt = s.flt ∧ u.side = s.side ∧
      u.hp.state = .down ∧ u.hp.reqs = [] ∧ u.hp.outstanding = [] ∧ u.skn.load = none ∧ s.sameCreels u ∧
      (s.skn.load = none → ∀ ch : ChanId, (u.ch ch).configured = (s.ch ch).configured) ∧
      (∀ ch : ChanId, (u.ch ch).configured = true →
        (u.ch ch).mod.state = .rest ∧ (u.ch ch).mod.outEn = false ∧ ((u.ch ch).ana.sw = 0 ∨ (u.ch ch).ana.disableAt.isSome = true) ∧
        (u.ch ch).dof.queue = [] ∧ (u.ch ch).dof.running = none) ∧
      (if s.working && s.skn.image.saves then
        (∃ v, u.vlt.save = some v ∧ v.slot = (s.atTime t).targetSlot) ∧
        (u.vlt.slots[(s.atTime t).targetSlot]).commitOk = false ∧
        (u.vlt.slots[(s.atTime t).targetSlot]).seqNo = s.nextSeq ∧
        (u.vlt.slots[(s.atTime t).targetSlot]).word 0x18 = s.trk.odo ∧
        (u.vlt.slots[(s.atTime t).targetSlot]).word 0x20 = word (s.atTime t).tbase ∧
        (u.vlt.slots[(s.atTime t).targetSlot]).word 0x50 = word (u.tlh.vinS.headD 0) ∧
        (u.vlt.slots[(s.atTime t).targetSlot + 1]) = s.vlt.slots[(s.atTime t).targetSlot + 1]
       else u.vlt.slots = s.vlt.slots ∧ u.vlt.save = s.vlt.save)

/-- R444, R447, R120: a Doffer that is late stops at the deadline; the commit record is written last, and the module is
VAULTED. -/
def Clause.SaveEnds : Prop :=
  (∀ (t : Tbu) (late : BitVec 16) (s : State) (v : Save), s.vlt.save = some v →
    ∃ u, exec (.saveDeadline t late) s = .next u ∧ u.vlt.save = some { v with areas := v.areas &&& ~~~late } ∧
      u = { s.atTime t with vlt := { s.vlt with save := u.vlt.save } }) ∧
  (∀ (t : Tbu) (s : State) (v : Save), s.mod.mode = .holdup → s.vlt.save = some v →
    ∃ u, exec (.saveComplete t) s = .next u ∧ u.mod.mode = .vaulted ∧ u.vlt.save = none ∧
      u.vlt.slots[v.slot] = { s.vlt.slots[v.slot] with
        commit := commitOf (s.vlt.slots[v.slot]).seqNo (s.vlt.slots[v.slot]).hdrCrc v.areas } ∧
      (u.vlt.slots[v.slot]).commitOk = true ∧ (u.vlt.slots[v.slot]).present = v.areas ∧
      u.vlt.slots[v.slot + 1] = s.vlt.slots[v.slot + 1] ∧
      u = { s.atTime t with mod := u.mod, vlt := { s.vlt with slots := u.vlt.slots, save := none } }) ∧
  ∀ (t : Tbu) (s : State), s.mod.mode = .holdup → s.vlt.save = none →
    ∃ u, exec (.saveComplete t) s = .next u ∧ u.mod.mode = .vaulted ∧ u.vlt = s.vlt

/-- Entry to HOLDUP, and the end of the save that it begins. -/
def Obligations.HoldupAndSave : Prop := Clause.HoldupEntry ∧ Clause.SaveEnds

/-- R104, R429: the module leaves SHEDDING for WOUND once V_avg has been at or above 40.00 V for 10 ms, not before. -/
def Clause.SheddingReturn : Prop :=
  (∀ (t : Tbu) (s : State) (a : Tbu), s.mod.mode = .shedding → s.tlh.okAt = some a → a + 10 * ms ≤ max s.now t →
    ∃ u, exec (.sheddingReturn t) s = .next u ∧ u.mod.mode = .wound ∧ u.mod.prev = .shedding ∧
      u.mod.events = evSet s.mod.events ModEv.modeChange ∧
      u = { s.atTime t with mod := { s.mod with mode := .wound, prev := .shedding, events := u.mod.events } }) ∧
  (∀ (t : Tbu) (s : State), s.mod.mode = .shedding → s.tlh.okAt = none → exec (.sheddingReturn t) s = .next (s.atTime t)) ∧
  ∀ (t : Tbu) (s : State) (a : Tbu), s.tlh.okAt = some a → max s.now t < a + 10 * ms → exec (.sheddingReturn t) s = .next (s.atTime t)

/-! ### The Tollhouse -/

/-- R426, R430, R436, R440: V_avg and the total current are the means of the 100 latest samples; a tick enters SHEDDING below
39.00 V, and computes the budget, the total charge and the deficit of that tick; every channel's AVS saving, draw and priority are
those of the tick; in SHEDDING every waiting request is denied with code 3. Nothing outside the Tollhouse, the module mode and the
channels changes, and no creel byte does. Where the Tollhouse does not tick only the samples are noted (log entry 79). -/
def Clause.TollhouseTick : Prop :=
  (∀ (t : Tbu) (vin : List (BitVec 16)) (amps : List (Vector (BitVec 16) 8)) (avs draw : List (BitVec 16)) (s : State),
    s.ticking = false →
    exec (.tollhouseTick t vin amps avs draw) s =
      .next { s.atTime t with tlh := (s.tlh.takeAmps (max s.now t) amps).takeVin (max s.now t) vin }) ∧
  ∀ (t : Tbu) (vin : List (BitVec 16)) (amps : List (Vector (BitVec 16) 8)) (avs draw : List (BitVec 16)) (s : State),
    s.ticking = true →
    ∃ u, exec (.tollhouseTick t vin amps avs draw) s = .next u ∧
      u = { s.atTime t with mod := u.mod, tlh := u.tlh, chans := u.chans } ∧ s.sameCreels u ∧
      u.tlh.vin = meanOf (latest s.tlh.vinS (vin.map (·.toNat))) ∧ u.tlh.iin = meanOf (latest s.tlh.iinS (amps.map ampsTotal)) ∧
      (vin.length = 100 → u.tlh.vin = (vin.map (·.toNat)).sum / 100) ∧
      u.tlh.tick = s.tlh.tick + 1 ∧ u.tlh.healthy = ~~~s.tlh.lost ∧
      u.mod.mode = (if s.mod.mode = .wound ∧ u.tlh.vin < 3900 then .shedding else s.mod.mode) ∧
      u.tlh.budget = budgetOf (if u.mod.mode = .shedding then 3600 else u.tlh.vin) s.tlh.circuits Config.eff ∧
      u.tlh.deficit = (u.tlh.charged : Int) - u.tlh.budget ∧ u.tlh.pending = u.pendingTotal ∧
      (∀ c : ChanId, (u.ch c).tlh.avs = (avs.getD c.val 0).toNat ∧ (u.ch c).tlh.draw = (draw.getD c.val 0).toNat ∧
        (u.ch c).tlh.prioNow = (s.ch c).tlh.prio ∧ (u.ch c).tlh.request = (s.ch c).tlh.request) ∧
      (u.mod.mode = .shedding → ∀ c : ChanId, (s.ch c).tlh.request.isSome = true → (s.ch c).tlh.granted = false →
        (u.ch c).tlh.deny = 0x03)

/-- R438: a hard shed that is due holds every marked channel in RUN at once, with cause SHED, whatever its gates would do. -/
def Clause.HardShed : Prop :=
  ∀ (t : Tbu) (s : State), (s.atTime t).hardDue = true →
    ∃ u, exec (.hardShed t) s = .next u ∧ bit u.tlh.events.bits TlhEv.hardShed = true ∧ s.sameCreels u ∧
      u = { s.atTime t with mod := u.mod, tlh := { s.tlh with events := u.tlh.events }, chans := u.chans } ∧
      u.mod.mode = s.mod.mode ∧
      ∀ c : ChanId, (s.ch c).mod.state = .run → (s.ch c).tlh.pinned = false → (s.ch c).tlh.shed = 1 →
        (u.ch c).mod.state = .held ∧ (u.ch c).mod.heldCause = Cause.shed ∧ (u.ch c).tlh.shed = 3 ∧ (u.ch c).tlh.granted = false

/-- R439: after 10 ms in WOUND without a deficit the Tollhouse asks for one grade more where it had lowered the grade and the
added charge fits; no other channel changes. That the next step waits another 10 ms, from this one on, is log entry 38 (DEDUCED). -/
def Clause.GradeRaise : Prop :=
  ∀ (t : Tbu) (s : State) (a : Tbu), s.mod.mode = .wound → s.tlh.calmAt = some a → a + 10 * ms ≤ max s.now t →
    ∃ u, exec (.tollGradeRaise t) s = .next u ∧ s.sameCreels u ∧
      u = { s.atTime t with tlh := { s.tlh with calmAt := some (max s.now t) }, chans := u.chans } ∧
      (∀ c : ChanId, (s.ch c).tlh.tollGrade = false → u.ch c = s.ch c) ∧
      ∀ (c : ChanId) (g : Nat), (∀ d : ChanId, d ≠ c → (s.ch d).tlh.tollGrade = false) → (s.ch c).tlh.tollGrade = true →
        g ≤ 1 → (s.ch c).mem.grade.toNat = g + 1 → (s.ch c).mem.usable g = true → (s.ch c).mem.changing = false →
        (s.ch c).speedTest (BitVec.ofNat 2 g) = 0 →
        (if (s.ch c).chargedReq then (s.atTime t).reqAt c g - (s.atTime t).reqNow c else 0) ≤ s.tlh.budget - (s.atTime t).totalCharge →
        (u.ch c).mem.change = some { grade := BitVec.ofNat 2 g, toll := true }

/-- The end of SHEDDING, a hard shed, and a grade raised again. -/
def Obligations.SheddingAndGrades : Prop := Clause.SheddingReturn ∧ Clause.HardShed ∧ Clause.GradeRaise

/-- R427, R440, R478: a feed circuit that is lost, its detector tripped or its current below a quarter of the mean of the other
healthy circuits for 1 ms, is marked, reported and logged as a covered fault of the module, and stays lost until reset; a channel
that draws too much for 1 ms is reported. -/
def Clause.FeedAndOverdraw : Prop :=
  (∀ (t : Tbu) (k : Fin 8) (tripped : Bool) (s : State), s.mod.mode ≠ .unpowered → bit s.tlh.lost k.val = false →
    (tripped = true ∨ ∃ a, s.tlh.lowAt[k] = some a ∧ a + ms ≤ max s.now t) →
    ∃ u, exec (.feedLost t { circuit := k, tripped := tripped }) s = .next u ∧
      u.tlh = { s.tlh with
        lost := setBit s.tlh.lost k.val, healthy := clrBit s.tlh.healthy k.val, events := evSet s.tlh.events TlhEv.feedLost } ∧
      u.flt.feed = true ∧ u = { s.atTime t with tlh := u.tlh, flt := u.flt } ∧
      u.flt.log = logged s t { odo := s.trk.odo, info := logInfo none 0x06 k.val 0 0 } ∧
      (s.flt.log.length < 64 → u.flt.log.length = s.flt.log.length + 1 ∧ u.flt.lost = s.flt.lost) ∧
      (64 ≤ s.flt.log.length → u.flt.lost = satInc s.flt.lost)) ∧
  (∀ (t : Tbu) (k : Fin 8) (tripped : Bool) (s : State),
    (bit s.tlh.lost k.val = true ∨ (tripped = false ∧ ∀ a, s.tlh.lowAt[k] = some a → max s.now t < a + ms)) →
    exec (.feedLost t { circuit := k, tripped := tripped }) s = .next (s.atTime t)) ∧
  ∀ (t : Tbu) (c : ChanId) (s : State) (a : Tbu), s.ticking = true → (s.ch c).tlh.overAt = some a → a + ms ≤ max s.now t →
    ∃ u, exec (.overdraw t c) s = .next u ∧
      u = { s.atTime t with tlh := { s.tlh with events := evSet s.tlh.events TlhEv.overdraw } }

/-- What the Tollhouse computes at a tick, and what it reports of the feed and of a channel's draw. -/
def Obligations.TollhouseAndFeed : Prop := Clause.TollhouseTick ∧ Clause.FeedAndOverdraw

/-! ### The time base -/

/-- R28, R29: a window of 100 µs ends: FREQ_SEEN and WRONG_FREQ are rewritten, two consecutive good windows make REF present,
one that is not good loses a REF that was present, and the next window takes TRK_REF_CFG as it stands. -/
def Clause.RefWindow : Prop :=
  ∀ (t : Tbu) (count : Nat) (s : State), s.mod.mode ≠ .unpowered →
    ∃ u, exec (.refWindowEnd t count) s = .next u ∧ s.sameCreels u ∧
      u.trk.freqSeen = (if 998 ≤ count ∧ count ≤ 1002 then 1 else if 9980 ≤ count ∧ count ≤ 10020 then 2 else 0) ∧
      u.trk.wrongFreq = (u.trk.freqSeen != 0 && !refSelected s.trk.refCfgNow u.trk.freqSeen) ∧
      u.trk.refCfgNow = s.trk.refCfg ∧ u.trk.odo = s.trk.odo ∧
      (refSelected s.trk.refCfgNow u.trk.freqSeen = true →
        u.trk.present = (s.trk.present || decide (1 ≤ s.trk.goodWindows)) ∧
        (s.trk.present = false → u.trk.present = true → u.trk.epoch = some (s.trk.epoch.getD (max s.now t))) ∧
        u.trk.holdover = s.trk.holdover ∧ u.trk.tbLocked = s.trk.tbLocked) ∧
      (refSelected s.trk.refCfgNow u.trk.freqSeen = false →
        u.trk.present = false ∧ u.trk.goodWindows = 0 ∧ u.trk.epoch = s.trk.epoch ∧
        (s.trk.present = true → u.trk.holdover = true ∧ u.trk.tbLocked = false))

/-- R29, R30, R287: no REF edge for four nominal periods loses REF: holdover begins, REF_LOST is flagged, and every sample gate
closes. TB_INVALID follows 10 ms after the first loss, not before. -/
def Clause.RefLossAndHoldover : Prop :=
  (∀ (t : Tbu) (s : State), s.mod.mode ≠ .unpowered → s.trk.present = true →
    ∃ u, exec (.refEdgeTimeout t) s = .next u ∧ s.sameCreels u ∧
      u.trk = { s.trk with
        present := false, tbLocked := false, goodWindows := 0, wasLost := true, holdover := true
        holdoverAt := (if s.trk.holdover then s.trk.holdoverAt else some (max s.now t))
        events := evSet s.trk.events TrkEv.refLost } ∧
      ∀ c : ChanId, ((u.ch c).syn.synths[0]).gate = false ∧ ((u.ch c).syn.synths[1]).gate = false ∧
        (u.ch c).trk = (s.ch c).trk) ∧
  (∀ (t : Tbu) (s : State) (a : Tbu), s.trk.holdover = true → s.trk.holdoverAt = some a → a + 10 * ms ≤ max s.now t →
    ∃ u, exec (.tbInvalid t) s = .next u ∧ u = { s.atTime t with trk := { s.trk with tbInvalid := true } }) ∧
  ∀ (t : Tbu) (s : State) (a : Tbu), s.trk.holdoverAt = some a → max s.now t < a + 10 * ms →
    exec (.tbInvalid t) s = .next (s.atTime t)

/-- R31, R65: the time base locks again to a REF that is present without a step in TRK_TBASE, which ends the holdover; the
odometer counts a millisecond in every powered mode. -/
def Clause.TimeBaseLockAndOdometer : Prop :=
  (∀ (t : Tbu) (s : State), s.mod.mode ≠ .unpowered → s.trk.present = true → s.trk.tbLocked = false →
    ∃ u, exec (.tbLocked t) s = .next u ∧ s.sameCreels u ∧
      u = { s.atTime t with
        trk := { s.trk with tbLocked := true, holdover := false, tbInvalid := false, holdoverAt := none }
        chans := u.chans } ∧
      u.tbase = (s.atTime t).tbase ∧ ∀ c : ChanId, (u.ch c).trk = (s.ch c).trk ∧ sameDistaff (s.ch c) (u.ch c)) ∧
  (∀ (t : Tbu) (s : State), s.mod.mode ≠ .unpowered →
    ∃ u, exec (.odoTick t) s = .next u ∧ u = { s.atTime t with trk := { s.trk with odo := s.trk.odo + 1 } }) ∧
  ∀ (t : Tbu) (s : State), s.mod.mode = .unpowered → exec (.odoTick t) s = .next (s.atTime t)

/-- REF gained and lost, the holdover, the lock of the time base and the odometer. -/
def Obligations.TimeBase : Prop := Clause.RefWindow ∧ Clause.RefLossAndHoldover ∧ Clause.TimeBaseLockAndOdometer

/-! ### PACE edges, stops and events -/

/-- R32: an edge less than 550 ps after the last one is a glitch: it is counted and flagged, and nothing else changes. -/
def Clause.PaceGlitch : Prop :=
  ∀ (t : Tbu) (c : ChanId) (m : Bool) (s : State) (r : Tbu), s.mod.mode ≠ .unpowered → (s.ch c).trk.raw = some r →
    (max s.now t - r) * 1000 < 550 * 512 →
    ∃ u, exec (.paceEdge t c m) s = .next u ∧
      u = { s.atTime t with trk := { s.trk with events := evSet s.trk.events TrkEv.glitch }, chans := u.chans } ∧
      (∀ d : ChanId, d ≠ c → u.ch d = s.ch d) ∧
      u.ch c = { s.ch c with trk := { (s.ch c).trk with glitch := satInc (s.ch c).trk.glitch } }

/-- An edge that reaches a tracker now is no glitch: it comes 550 ps or more after the last one (R32). -/
def noGlitch (k : Tracker) (now : Tbu) : Prop := ∀ r, k.raw = some r → 550 * 512 ≤ (now - r) * 1000

/-- The instant of an edge that reaches channel `c` at `now`, with the calibration and the skews applied (R63, R64). -/
def edgeInstant (s : State) (c : ChanId) (now : Tbu) : Int :=
  (now : Int) - (s.ch c).cal.skew 0 + (s.ch c).cal.fine 4 now + sfld s.trk.modSkew 0 20

/-- The count of R35 after a qualified edge, before an alignment. -/
def counted (k : Tracker) : BitVec 40 := if k.state = .absent then 0 else k.n + 1

/-- R35, R54, R64: an edge that is no glitch is recorded with its instant, its sample of MSTONE and the settings in force. In ABSENT it
starts the count at 0; otherwise it is counted, and brings a STOPPED tracker, or a LOCKED one that it finds late, back to LOCKED
without a change of P_est. Where MSTONE was not low before or is low now it is no milestone and aligns nothing. Only channel `c` and the
tracker's registers of the module may change. -/
def Clause.EdgeCounted : Prop :=
  ∀ (t : Tbu) (c : ChanId) (m : Bool) (s : State), s.mod.mode ≠ .unpowered → noGlitch (s.ch c).trk (max s.now t) →
    ∃ u, exec (.paceEdge t c m) s = .next u ∧ s.sameCreels u ∧ u = { s.atTime t with trk := u.trk, chans := u.chans } ∧
      u.trk = { s.trk with
        events := u.trk.events, mileAt := u.trk.mileAt, mileCfg := u.trk.mileCfg, milePos := u.trk.milePos
        mstoneLast := u.trk.mstoneLast, mstoneCfg := u.trk.mstoneCfg, mstonePos := u.trk.mstonePos } ∧
      (∀ d : ChanId, d ≠ c → u.ch d = s.ch d) ∧ (u.ch c).mem = (s.ch c).mem ∧ onLanes (s.ch c).dst (u.ch c).dst ∧
      (u.ch c).mod.state = (s.ch c).mod.state ∧
      (u.ch c).trk.raw = some (max s.now t) ∧ (u.ch c).trk.paceCfg = s.trk.paceCfg ∧ (u.ch c).trk.modSkew = s.trk.modSkew ∧
      (u.ch c).trk.mstone = some m ∧ (u.ch c).trk.e = edgeInstant s c (max s.now t) ∧
      (m = false ∨ (s.ch c).trk.mstone ≠ some false → u.trk = { s.trk with events := u.trk.events } ∧
        (u.ch c).trk.n = counted (s.ch c).trk ∧ (u.ch c).trk.aligned = (s.ch c).trk.aligned ∧
        (u.ch c).trk.misaligned = (s.ch c).trk.misaligned ∧ (u.ch c).trk.slip = (s.ch c).trk.slip) ∧
      ((s.ch c).trk.state = .absent →
        (u.ch c).trk.state = .acquiring ∧ (u.ch c).trk.seeded = false ∧ (u.ch c).trk.good = 0) ∧
      ((s.ch c).trk.state = .stopped ∨ (s.ch c).trk.stopDue (edgeInstant s c (max s.now t)) = true →
        (u.ch c).trk.state = .locked ∧ (u.ch c).trk.pest = (s.ch c).trk.pest ∧ (u.ch c).trk.fast = (s.ch c).trk.fast ∧
        (u.ch c).trk.good = (s.ch c).trk.good ∧ bit u.trk.events.bits TrkEv.paceReturn = true) ∧
      ((s.ch c).trk.stopDue (edgeInstant s c (max s.now t)) = true → bit u.trk.events.bits TrkEv.paceStop = true)

/-- R33, R35, R513: what the interval `d` from the edge before does to P_est in ACQUIRING, and in LOCKED where the edge is in time. The
first one is P_est itself; a larger step than the threshold is adopted, flagged, and begins the FAST phase; in that phase a quarter of
a difference is taken, and after it the fraction SHIFT asks for, both rounded down. The sixteenth good interval in a row locks a
tracker in ACQUIRING. -/
def Clause.EdgePeriod : Prop :=
  ∀ (t : Tbu) (c : ChanId) (m : Bool) (s : State) (k : Tracker) (d : Int), k = (s.ch c).trk →
    s.mod.mode ≠ .unpowered → noGlitch k (max s.now t) → d = edgeInstant s c (max s.now t) - k.e →
    k.state = .acquiring ∨ (k.state = .locked ∧ k.stopDue (edgeInstant s c (max s.now t)) = false) →
    ∃ u, exec (.paceEdge t c m) s = .next u ∧
      (u.ch c).trk.range = (decide (105 * 512 < d) || decide (d * 1000 < 600 * 512)) ∧
      (k.seeded = false → k.good < 16 →
        (u.ch c).trk.pest = (d * 65536).toNat ∧ (u.ch c).trk.seeded = true ∧ (u.ch c).trk.state = k.state ∧
        (u.ch c).trk.fast = k.fast ∧ (u.ch c).trk.good = k.good) ∧
      (k.seeded = true →
        (u.ch c).trk.seeded = true ∧
        (u.ch c).trk.state = (if 16 ≤ (u.ch c).trk.good then .locked else k.state) ∧
        (stepThreshold s.trk.paceCfg k.pest < (d * 65536 - k.pest).natAbs →
          (u.ch c).trk.pest = (d * 65536).toNat ∧ (u.ch c).trk.fast = 16 * (fld s.trk.paceCfg 4 4 + 1) ∧ (u.ch c).trk.good = 0 ∧
          bit u.trk.events.bits TrkEv.paceStep = true) ∧
        ((d * 65536 - k.pest).natAbs ≤ stepThreshold s.trk.paceCfg k.pest →
          (u.ch c).trk.good = k.good + 1 ∧ (u.ch c).trk.fast = k.fast - 1 ∧
          (0 < k.fast → (u.ch c).trk.pest = (k.pest + (d * 65536 - k.pest) / 4).toNat) ∧
          (k.fast = 0 → (u.ch c).trk.pest =
            (k.pest + (d * 65536 - k.pest) / (2 ^ min 8 (max 2 (fld s.trk.paceCfg 0 4)) : Nat)).toNat)))

/-- R54 to R61, R514: a milestone, an edge with MSTONE high after one with MSTONE low, is flagged. `cfg` and `pos` are TRK_MSTONE_CFG and
TRK_MSTONE_POS as held at it. In MODE 1 or 2 a LOCKED channel in REST, TRIM or ARMED aligns: the edge takes the position `pos`, and an
AT event, a strobe and a sample switch whose positions are no longer in the future are given up. In MODE 3, where the step is not 0,
an ALIGNED channel whose edge is elsewhere slips. In no other case does the count change beyond the edge. The channel that VIEW_CH
names keeps its position in TRK_MSTONE_LAST, turns MODE 1 into MODE 3 and, but in MODE 0, steps TRK_MSTONE_POS. -/
def Clause.Milestone : Prop :=
  (∀ (m : TrkMod) (e : Int), (∀ a, m.mileAt = some a → edgeGap ≤ (e - a).natAbs) → m.heldAt e = (m.mstoneCfg, m.mstonePos)) ∧
  ∀ (t : Tbu) (c : ChanId) (s : State) (k : Tracker) (cfg pos : Word), k = (s.ch c).trk → s.mod.mode ≠ .unpowered →
    noGlitch k (max s.now t) → k.mstone = some false → s.trk.heldAt (edgeInstant s c (max s.now t)) = (cfg, pos) →
    ∃ u, exec (.paceEdge t c true) s = .next u ∧ bit u.trk.events.bits TrkEv.mstoneSeen = true ∧
      (fld cfg 0 2 = 1 ∨ fld cfg 0 2 = 2 → (u.ch c).trk.state = .locked → (s.ch c).mod.state ∈ [ChState.rest, .trim, .armed] →
        (u.ch c).trk.n = posInt pos ∧ (u.ch c).trk.aligned = true ∧ (u.ch c).trk.misaligned = false ∧
        ∀ p ∈ k.pending, isAfter p.pos (cyclePos (posInt pos)) = false →
          (∀ j : Fin 4, p.kind = .at j → bit (u.ch c).jnc.atArmed j.val = false ∧ bit (u.ch c).jnc.events.bits JncEv.atLate = true) ∧
          (p.kind = .strobe → (u.ch c).ana.sched = false ∧ bit (u.ch c).ana.events.bits AnaEv.stbLate = true) ∧
          (p.kind = .sswitch → (u.ch c).syn.s.pend = none ∧ bit (u.ch c).syn.events.bits SynEv.switchLost = true)) ∧
      ((fld cfg 0 2 = 1 ∨ fld cfg 0 2 = 2) ∧ ((u.ch c).trk.state ≠ .locked ∨ (s.ch c).mod.state ∈ [ChState.run, .held, .drain]) ∨
          fld cfg 0 2 = 0 ∨ fld cfg 0 2 = 3 ∧ (fld s.trk.mstoneStep 0 40 = 0 ∨ k.aligned = false ∨ cyclePos (counted k) = pos) →
        (u.ch c).trk.n = counted k ∧ (u.ch c).trk.aligned = k.aligned ∧ (u.ch c).trk.misaligned = k.misaligned ∧
        (u.ch c).trk.slip = k.slip) ∧
      (fld cfg 0 2 = 3 → fld s.trk.mstoneStep 0 40 ≠ 0 → k.aligned = true → cyclePos (counted k) ≠ pos →
        (u.ch c).trk.n = counted k ∧ (u.ch c).trk.aligned = false ∧ (u.ch c).trk.misaligned = true ∧
        (u.ch c).trk.slip = cyclePos (counted k) - pos ∧ bit u.trk.events.bits TrkEv.mstoneSlip = true) ∧
      (fld cfg 4 4 = c.val →
        u.trk.mstoneLast = cyclePos (u.ch c).trk.n ∧
        (fld cfg 0 2 = 1 ∨ fld cfg 0 2 = 2 → bit u.trk.events.bits TrkEv.alignDone = true) ∧
        (fld cfg 0 2 = 1 → fld u.trk.mstoneCfg 0 2 = 3 ∧ fld u.trk.mstoneCfg 4 4 = fld s.trk.mstoneCfg 4 4) ∧
        (fld cfg 0 2 ≠ 1 → u.trk.mstoneCfg = s.trk.mstoneCfg) ∧
        u.trk.mstonePos = (if fld cfg 0 2 = 0 then s.trk.mstonePos
          else cyclePos (posInt s.trk.mstonePos + BitVec.ofNat 40 (fld s.trk.mstoneStep 0 40)))) ∧
      (fld cfg 4 4 ≠ c.val →
        u.trk.mstoneLast = s.trk.mstoneLast ∧ u.trk.mstoneCfg = s.trk.mstoneCfg ∧ u.trk.mstonePos = s.trk.mstonePos)

/-- What a PACE edge that is no glitch does: its count, its interval, and its milestone. -/
def Obligations.PaceEdge : Prop := Clause.EdgeCounted ∧ Clause.EdgePeriod ∧ Clause.Milestone

/-- R36, R155, R180: a LOCKED tracker without an edge until E + T_stop + 1 tbu stops; its count is not advanced, its wait is flagged,
and no other channel changes. Before that instant nothing happens. That a start already placed under COND other than 3 loses its
place and stays pending, and that one placed under COND 3 keeps it, is log entry 21 (DEDUCED). -/
def Clause.PaceStop : Prop :=
  (∀ (t : Tbu) (c : ChanId) (s : State), s.mod.mode ≠ .unpowered → (s.ch c).trk.state = .locked →
    (s.ch c).trk.e + (s.ch c).trk.stopAfter < ((max s.now t : Nat) : Int) →
    ∃ u, exec (.paceStop t c) s = .next u ∧ s.sameCreels u ∧
      u = { s.atTime t with trk := { s.trk with events := evSet s.trk.events TrkEv.paceStop }, chans := u.chans } ∧
      (∀ d : ChanId, d ≠ c → u.ch d = s.ch d) ∧ ((u.ch c).syn.synths[2]).gate = false ∧ ((u.ch c).syn.synths[3]).gate = false ∧
      (u.ch c).trk = { (s.ch c).trk with
        state := .stopped, hist := (u.ch c).trk.hist, pending := (u.ch c).trk.pending, committed := (u.ch c).trk.committed } ∧
      (u.ch c).mod = (s.ch c).mod ∧
      ((s.ch c).mod.startPend = false ∨ (s.ch c).trk.isPending .start = false ∨ (s.ch c).seq.cond = 3 →
        (u.ch c).trk.pending = (s.ch c).trk.pending ∧ (u.ch c).trk.committed = (s.ch c).trk.committed) ∧
      ((s.ch c).mod.startPend = true → (s.ch c).trk.isPending .start = true → (s.ch c).seq.cond ≠ 3 →
        (u.ch c).trk.isPending .start = false ∧ (u.ch c).seq.placed = none)) ∧
  ∀ (t : Tbu) (c : ChanId) (s : State), ((max s.now t : Nat) : Int) ≤ (s.ch c).trk.e + (s.ch c).trk.stopAfter →
    exec (.paceStop t c) s = .next (s.atTime t)

/-- The edge that the tracker rejects, and the edge that does not come. -/
def Obligations.PaceGlitchAndStop : Prop := Clause.PaceGlitch ∧ Clause.PaceStop

/-- The committed events stand in the order of their positions, counted from the last edge (R44). -/
def inPlace (k : Tracker) : Prop := k.committed.Pairwise fun p q => posDiff p.pos k.edgePos ≤ posDiff q.pos k.edgePos

/-- R44, R46: of the committed events, those at the first position are emitted, together, at the later of their own instants and the
last emitted one, once that has come; every other lies at a later position. A start waits in its place until RUN is entered, and its
instant still holds back those after it. An AT event is published, and a strobe taken, in the first fabric cycle at or after the
emitted instant, or in the present one where the command comes later (log entry 84); a sample switch becomes pending. No other channel
changes. A commit keeps the order of the committed events. -/
def Obligations.EventEmit : Prop :=
  (∀ (base : Word) (x : Committed) (l : List Committed), l.Pairwise (fun p q => posDiff p.pos base ≤ posDiff q.pos base) →
    (insertCommitted base x l).Pairwise (fun p q => posDiff p.pos base ≤ posDiff q.pos base) ∧
    ∀ y, y ∈ insertCommitted base x l ↔ y = x ∨ y ∈ l) ∧
  ∀ (t : Tbu) (c : ChanId) (s : State) (k : Tracker) (p : Committed) (es r l : List Committed) (x : Q16) (d : Nat), k = (s.ch c).trk →
    inPlace k → es = k.committed.filter (fun q => !((s.ch c).mod.startPend && q.kind == .start)) → es = p :: r →
    l = es.filter (fun q => q.pos == p.pos) →
    x = (k.committed.filter fun q => decide (posDiff q.pos k.edgePos ≤ posDiff p.pos k.edgePos)).foldl
      (fun a q => max a q.inst) k.lastEmit →
    d = max (cycleAtOrAfter x) (s.atTime t).cycle →
    (x ≤ q16 (max s.now t) →
      ∃ u, exec (.eventEmit t c) s = .next u ∧ s.onlyChannel c u ∧ s.sameCreels u ∧ (u.ch c).trk.n = k.n ∧ (u.ch c).mod = (s.ch c).mod ∧
        (u.ch c).trk.lastEmit = x ∧ (u.ch c).trk.committed = k.committed.filter (fun q => !l.contains q) ∧
        (∀ q ∈ es, q ∉ l → posDiff p.pos k.edgePos < posDiff q.pos k.edgePos) ∧
        ((s.ch c).mod.startPend = false → x = l.foldl (fun a q => max a q.inst) k.lastEmit) ∧
        (∀ j : Fin 4, l = [p] → p.kind = .at j →
          u.ch c = { ({ s.ch c with trk := (u.ch c).trk } : Chan).publish d (Prod.at' + j.val) with
            jnc := { (({ s.ch c with trk := (u.ch c).trk } : Chan).publish d (Prod.at' + j.val)).jnc with
              atArmed := clrBit (s.ch c).jnc.atArmed j.val } }) ∧
        (l = [p] → p.kind = .strobe →
          u.ch c = { s.ch c with trk := (u.ch c).trk, ana := (u.ch c).ana } ∧ (u.ch c).ana.sched = false ∧
          ((s.ch c).ana.src = 0 → (s.ch c).rangeState = true → s.mod.mode ≠ .holdup → (s.ch c).ana.disableAt = none →
            (s.ch c).ana.deferAt = none → (s.ch c).ana.strobeAt = none → (s.ch c).ana.lastTransfer = none →
            (u.ch c).ana.strobeAt = some (d + 2))) ∧
        (l = [p] → p.kind = .sswitch → (s.ch c).syn.s.pend = some true →
          u.ch c = { s.ch c with trk := (u.ch c).trk, syn := { (s.ch c).syn with
            s := { (s.ch c).syn.s with pend := some false, inLoss := !(s.trk.tbLocked && s.trk.present) } } })) ∧
    (q16 (max s.now t) < x → exec (.eventEmit t c) s = .next (s.atTime t))

/-- R68: a RETRACK puts the tracker of every channel named that is in REST into ABSENT, not aligned, with count 0; every other
channel is as before. -/
def Obligations.Retrack : Prop :=
  ∀ (t : Tbu) (mask : BitVec 16) (s : State), s.portUp = true →
    ∃ u, exec (.retrack t mask) s = .next u ∧ u = { s.atTime t with chans := u.chans } ∧ s.sameCreels u ∧
      ∀ c : ChanId,
        (bit mask c.val = true → (s.ch c).mod.state = .rest →
          (u.ch c).trk.state = .absent ∧ (u.ch c).trk.n = 0 ∧ (u.ch c).trk.aligned = false ∧ (u.ch c).trk.misaligned = false ∧
          (u.ch c).jnc.atArmed = 0 ∧ (u.ch c).mod = (s.ch c).mod ∧ (u.ch c).seq = (s.ch c).seq) ∧
        (bit mask c.val = false ∨ (s.ch c).mod.state ≠ .rest → u.ch c = s.ch c)

/-- R66, R41: a read of TRK_SNAP_ODO captures the odometer, the time base and every live position; the position of a channel
whose tracker is ABSENT is 0. Nothing else changes. -/
def Clause.SnapRead : Prop :=
  ∀ (t : Tbu) (s : State), s.portUp = true →
    ∃ u, exec (.snapRead t) s = .next u ∧
      u = { s.atTime t with trk := { s.trk with
        snapOdo := s.trk.odo, snapTbase := word (s.atTime t).tbase, snapPos := u.trk.snapPos } } ∧
      ∀ c : ChanId, u.trk.snapPos[c] = (s.ch c).trk.live (max s.now t) ∧
        ((s.ch c).trk.state = .absent → u.trk.snapPos[c] = 0)

/-! ### Host registers -/

/-- The byte address of a register of block `b` of channel `c`'s window (R4, R6). -/
def regAddr (c : ChanId) (b off : Nat) : BitVec 40 := BitVec.ofNat 40 (0x100000000 + c.val * 0x10000000 + b * 0x10000 + off)

/-- R9, R10: a write of 1 clears an event bit of a W1C register, and a bit that the hardware sets in the fabric cycle of the write
stays. `n` is the number of settings before that cycle. -/
def Clause.ClearByOne : Prop :=
  (∀ (e : Sticky) (n : Nat) (v : Word), (∀ x ∈ e.last, x.1 ≤ n) → (e.clear n v).bits = e.bits &&& ~~~v) ∧
  ∀ (e : Sticky) (n k : Nat) (v : Word), k < 64 → n ≤ e.sets → bit ((evSet e k).clear n v).bits k = true

/-- R9, R10, R12, R4 to R6: a register write, one example for each access type: MOD_EVENTS clears by writing 1, TRK_PACE_CFG
stores its fields and drops its reserved bits, the ID block ignores every write, and ANA_STB_POS of a channel is stored, or, while
the channel domains are unpowered, not. Nothing else changes. -/
def Clause.RegisterWrite : Prop :=
  ∀ (t : Tbu) (v : Word) (s : State), s.portUp = true → s.hp.busy = false → s.hp.reqs = [] →
    exec (.registerWrite t 0x1010 v) s =
      .next { s.atTime t with mod := { s.mod with
        events := s.mod.events.clear ((s.atTime t).evMark.getD 0 0) v } } ∧
    exec (.registerWrite t 0x3000 v) s =
      .next { s.atTime t with trk := { s.trk with paceCfg := v &&& 0xFFFFFFFFFFFF } } ∧
    (∀ a : BitVec 40, a.toNat < 0x1000 → exec (.registerWrite t a v) s = .next (s.atTime t)) ∧
    ∀ c : ChanId,
      (s.windowUp = true → ∃ u, exec (.registerWrite t (regAddr c 3 0x030) v) s = .next u ∧ s.onlyChannel c u ∧
        u.ch c = { s.ch c with ana := { (s.ch c).ana with stbPos := v } }) ∧
      (s.windowUp = false → exec (.registerWrite t (regAddr c 3 0x030) v) s = .next (s.atTime t))

/-- R15: a read of the lowest register of a multi-word value captures the higher ones: the module digest, and the pass registers
behind SEQ_STAT. A read of any other register of the common block changes nothing. -/
def Clause.MultiwordRead : Prop :=
  ∀ (t : Tbu) (s : State), s.portUp = true → s.hp.busy = false → s.hp.reqs = [] →
    (∃ u, exec (.multiwordRead t 0x6040) s = .next u ∧
      u = { s.atTime t with skn := { s.skn with modDigestSnap := u.skn.modDigestSnap } } ∧
      ∀ k : Fin 3, u.skn.modDigestSnap[k] = payloadWord s.skn.image.digest (k.val + 1)) ∧
    (∀ c : ChanId, s.windowUp = true → ∃ u, exec (.multiwordRead t (regAddr c 0 0x040)) s = .next u ∧ s.onlyChannel c u ∧
      u.ch c = { s.ch c with seq := { (s.ch c).seq with snap := (u.ch c).seq.snap } } ∧
      (u.ch c).seq.snap[0] = word ((s.ch c).seq.done % 2 ^ 32) ∧ (u.ch c).seq.snap[1] = (s.ch c).seq.passPos ∧
      (u.ch c).seq.snap[2] = (s.ch c).seq.runPos) ∧
    ∀ a : BitVec 40, a.toNat < 0x8000 → a.toNat ≠ 0x3100 → a.toNat ≠ 0x6040 → ¬(0x6400 ≤ a.toNat ∧ a.toNat < 0x6600) →
      exec (.multiwordRead t a) s = .next (s.atTime t)

/-- The reads that capture a value of several registers. -/
def Obligations.SnapshotsCaptured : Prop := Clause.SnapRead ∧ Clause.MultiwordRead

/-- R400, R401: an RD of one aligned word of the common block sends its CPL with that word; LEN outside 1 to 32 is "malformed",
an address below 8000H that is not aligned "misaligned", and an address between the blocks "unmapped", each with LEN words
of 0, a LEN above 32 with 32 of them (log entry 74). The registers captured by R15 apart, nothing else changes. -/
def Obligations.ReadRequest : Prop :=
  ∀ (t : Tbu) (tag : BitVec 12) (len : Byte) (a : BitVec 40) (s : State), s.portUp = true → s.hp.state = .up →
    s.hp.busy = false → s.hp.reqs = [] →
    (a.toNat < 0x8000 → a.toNat % 8 = 0 → a.toNat ≠ 0x3100 → a.toNat ≠ 0x6040 → ¬(0x6400 ≤ a.toNat ∧ a.toNat < 0x6600) →
      exec (.rd t tag 1 a) s =
        .next ((s.atTime t).heard.send (.cpl tag 0x0 [(s.atTime t).heard.commonRead (a.toNat / 0x1000) (a.toNat % 0x1000)]))) ∧
    (len.toNat = 0 ∨ 32 < len.toNat →
      exec (.rd t tag len a) s = .next ((s.atTime t).heard.send (.cpl tag 0x5 (List.replicate (min 32 len.toNat) 0)))) ∧
    (a.toNat < 0x7FF8 → a.toNat % 8 ≠ 0 → exec (.rd t tag 1 a) s = .next ((s.atTime t).heard.send (.cpl tag 0x1 [0]))) ∧
    (0x8000 ≤ a.toNat → a.toNat < 0xFFFFFFF8 → exec (.rd t tag 1 a) s = .next ((s.atTime t).heard.send (.cpl tag 0x3 [0])))

/-- R2, R3: in every mode in which the host port is up, an RD of a register of the ID block returns what was fixed at manufacture, and
a write to the block is ignored and completes "normal". -/
def Obligations.IdentityBlock : Prop :=
  ∀ (t : Tbu) (tag : BitVec 12) (v : Word) (s : State), s.portUp = true → s.hp.state = .up → s.hp.busy = false → s.hp.reqs = [] →
    ∀ r ∈ [((0x000 : BitVec 40), (0x4147 : Word)), (0x008, 0x52530658), (0x010, 0x21), (0x018, Config.idSerial)],
      exec (.rd t tag 1 r.1) s = .next ((s.atTime t).heard.send (.cpl tag 0x0 [r.2])) ∧
      exec (.wr t tag 1 r.1 [v]) s = .next ((s.atTime t).heard.send (.cpl tag 0x0 []))

/-- An address that R4 to R6 leave unmapped: outside the blocks of the common block, and outside every channel window or in one of
its gaps. -/
def unmappedAddr (a : Nat) : Prop :=
  0x8000 ≤ a ∧ a < 0x100000000 ∨ 0x200000000 ≤ a ∨
    0x100000000 ≤ a ∧ a < 0x200000000 ∧
      (0xA0000 ≤ a % 0x10000000 ∧ a % 0x10000000 < 0x1000000 ∨ 0x1200000 ≤ a % 0x10000000 ∧ a % 0x10000000 < 0x8000000 ∨
        0xC800000 ≤ a % 0x10000000)

/-- R8, R13: an access of a register block that is not one aligned 64-bit word is refused as "misaligned", and one of an unmapped
address completes "unmapped" (in a channel window, while the channel domains are powered); a read returns words of 0, a write is
discarded, and nothing changes but the packets sent. -/
def Obligations.RefusedAccesses : Prop :=
  ∀ (t : Tbu) (tag : BitVec 12) (len : Byte) (a : BitVec 40) (data : List Word) (s : State), s.portUp = true →
    s.hp.state = .up → s.hp.busy = false → s.hp.reqs = [] → 1 ≤ len.toNat → len.toNat ≤ 32 → data.length = len.toNat →
    (s.windowUp = true ∨ a.toNat + 8 * len.toNat ≤ 0x100000000 ∨ 0x200000000 ≤ a.toNat) →
    ∀ code : BitVec 4,
      (unmappedAddr a.toNat ∧ code = 0x3 ∨
        (a.toNat + 8 * len.toNat ≤ 0x8000 ∨
          0x100000000 ≤ a.toNat ∧ a.toNat < 0x200000000 ∧ a.toNat % 0x10000000 + 8 * len.toNat ≤ 0xA0000) ∧
          (a.toNat % 8 ≠ 0 ∨ len ≠ 1) ∧ code = 0x1) →
      exec (.rd t tag len a) s = .next ((s.atTime t).heard.send (.cpl tag code (List.replicate len.toNat 0))) ∧
      exec (.wr t tag len a data) s = .next ((s.atTime t).heard.send (.cpl tag code []))

/-- R399, R400, R11: a WR whose length disagrees with its header is discarded and flagged; one to MOD_CFG stores the bit and
completes "normal"; a locked MIN_LANES that the write would change stays, the other fields take effect, and the CPL says
"locked". -/
def Clause.WriteRequest : Prop :=
  ∀ (t : Tbu) (tag : BitVec 12) (v : Word) (s : State), s.portUp = true → s.hp.state = .up → s.hp.busy = false → s.hp.reqs = [] →
    (∀ (len : Byte) (a : BitVec 40) (data : List Word), data.length ≠ len.toNat →
      exec (.wr t tag len a data) s =
        .next { (s.atTime t).heard with hp := { (s.atTime t).heard.hp with events := evSet s.hp.events HpEv.malformed } }) ∧
    exec (.wr t tag 1 0x1018 [v]) s =
      .next (({ (s.atTime t).heard with mod := { s.mod with cfg := v &&& 1 } } : State).send (.cpl tag 0x0 [])) ∧
    (bit s.skn.locks 1 = true → v &&& 0xF ≠ s.hp.cfg &&& 0xF →
      exec (.wr t tag 1 0x5010 [v]) s =
        .next (({ (s.atTime t).heard with hp := { (s.atTime t).heard.hp with
          cfg := ((v &&& ~~~(0xF : Word)) ||| (s.hp.cfg &&& 0xF)) &&& 0xFFFFFFFF0000000F } } : State).send (.cpl tag 0x2 [])))

/-- R403: a broadcast write to SEQ_START_POS: with the channel domains powered every named channel stores the value and its
nibble reads "normal"; without, its nibble reads "unpowered" and no channel changes. Every other nibble is F, BCAST_DONE is set,
and no access is left open. -/
def Clause.BroadcastWrite : Prop :=
  ∀ (t : Tbu) (v : Word) (s : State), s.portUp = true → s.hp.busy = false → s.hp.reqs = [] → fld s.hp.bcastCfg 0 28 = 0x018 →
    ∃ u, exec (.hpBcastData t v) s = .next u ∧ u = { s.atTime t with hp := u.hp, chans := u.chans } ∧
      u.hp = { s.hp with bcastVec := u.hp.bcastVec, bcastTag := none, events := evSet s.hp.events HpEv.bcastDone } ∧
      (∀ c : ChanId, fld u.hp.bcastVec (4 * c.val) 4 =
        if bit s.hp.bcastCfg (32 + c.val) then (if s.windowUp then 0x0 else 0x4) else 0xF) ∧
      ∀ c : ChanId, u.ch c = if bit s.hp.bcastCfg (32 + c.val) = true ∧ s.windowUp = true then
        { s.ch c with seq := { (s.ch c).seq with startPos := v } } else s.ch c

/-- A register is written by a command of its own row, by a WR packet and by a broadcast. -/
def Obligations.WritesOfRegisters : Prop := Clause.ClearByOne ∧ Clause.RegisterWrite ∧ Clause.WriteRequest ∧ Clause.BroadcastWrite

/-! ### Skein loads -/

/-- Order 2 of R82: KIND, LENGTH and CH_MASK of a start agree with one another. -/
def startWellMade (v : Word) : Prop :=
  (fld v 2 2 = 1 ∧ fld v 16 16 = 0 ∨ fld v 2 2 = 2 ∧ fld v 16 16 ≠ 0) ∧ fld v 32 32 % 8 = 0 ∧ 640 ≤ fld v 32 32

/-- Order 4 of R82: the module mode in which a start of this KIND is accepted. -/
def startInMode (v : Word) (m : Mode) : Prop :=
  m = .wound ∨ fld v 2 2 = 1 ∧ (m = .linked ∨ m = .quarantine)

/-- R82: a write of SKN_LOAD_CTRL with START = 1 is refused at the first of the five conditions that fails, with its reason, and
changes SKN_START_RESULT and START_REFUSED only. -/
def Obligations.StreamStartRefused : Prop :=
  ∀ (t : Tbu) (v : Word) (s : State) (code : Byte), s.portUp = true →
    (s.skn.load.isSome = true ∧ code = 0x22 ∨
      s.skn.load = none ∧ ¬startWellMade v ∧ code = 0x24 ∨
      s.skn.load = none ∧ startWellMade v ∧ 67373696 < fld v 32 32 ∧ code = 0x23 ∨
      s.skn.load = none ∧ startWellMade v ∧ fld v 32 32 ≤ 67373696 ∧ ¬startInMode v s.mod.mode ∧ code = 0x20 ∨
      s.skn.load = none ∧ startWellMade v ∧ fld v 32 32 ≤ 67373696 ∧ s.mod.mode = .wound ∧
        (∃ c : ChanId, (fld v 2 2 = 1 ∨ bit v (16 + c.val) = true) ∧ (s.ch c).mod.state ≠ .rest) ∧ code = 0x21) →
    exec (.sknStart t v) s = .next { s.atTime t with skn := { s.skn with
      startResult := code, events := evSet s.skn.events SknEv.startRefused } }

/-- R83, R91, R104: an accepted start. A WHOLE load from LINKED or QUARANTINE, or from WOUND with every channel in REST, enters SPOOLING,
clears the lock masks and makes every channel LOADING; a CHANNEL load in WOUND keeps the mode, makes the channels of its mask
LOADING with a cleared lock mask, and leaves every other channel as it is. No creel byte changes. That the module image is gone from
the start on is log entry 80 (DESIGN CHOICE). -/
def Obligations.StreamStart : Prop :=
  ∀ (t : Tbu) (v : Word) (s : State), s.portUp = true → s.skn.load = none → fld v 32 32 % 8 = 0 → 640 ≤ fld v 32 32 →
    fld v 32 32 ≤ 67373696 →
    (fld v 2 2 = 1 → fld v 16 16 = 0 →
      s.mod.mode = .linked ∨ s.mod.mode = .quarantine ∨ (s.mod.mode = .wound ∧ ∀ c : ChanId, (s.ch c).mod.state = .rest) →
      ∃ u, exec (.sknStart t v) s = .next u ∧ s.sameCreels u ∧ u.mod.mode = .spooling ∧ u.mod.prev = s.mod.mode ∧
        u.skn = { s.skn with
          startResult := 0, phase := 1, received := 0, result := 0, image := {}, locks := 0
          load := some { kind := .whole, mask := 0xFFFF, length := fld v 32 32, wordAt := max s.now t } } ∧
        u.trk = s.trk ∧ u.tlh = s.tlh ∧ u.vlt = s.vlt ∧
        ∀ c : ChanId, (u.ch c).skn.state = .loading ∧ (u.ch c).skn.locks = 0 ∧ (u.ch c).ana.sw = 0) ∧
    (fld v 2 2 = 2 → fld v 16 16 ≠ 0 → s.mod.mode = .wound →
      (∀ c : ChanId, bit v (16 + c.val) = true → (s.ch c).mod.state = .rest) →
      ∃ u, exec (.sknStart t v) s = .next u ∧ s.sameCreels u ∧ u.mod.mode = .wound ∧
        u.skn = { s.skn with
          startResult := 0, phase := 1, received := 0, result := 0
          load := some { kind := .channel, mask := BitVec.ofNat 16 (fld v 16 16), length := fld v 32 32, wordAt := max s.now t } } ∧
        u.trk = s.trk ∧ u.tlh = s.tlh ∧ u.vlt = s.vlt ∧
        ∀ c : ChanId, (bit v (16 + c.val) = true → (u.ch c).skn.state = .loading ∧ (u.ch c).skn.locks = 0 ∧ (u.ch c).ana.sw = 0) ∧
          (bit v (16 + c.val) = false → u.ch c = s.ch c))

/-- R87, R94: an ABORT (detail 0), or 10 s without a word before LENGTH bytes (detail 1), ends the load: a WHOLE load leads to
QUARANTINE with the reason, a CHANNEL load leaves the mode; every target channel is UNCONFIGURED with the reason. An ABORT without a
load does nothing, and neither does a wait that is not over. -/
def Clause.StreamAborted : Prop :=
  ∀ (t : Tbu) (s : State),
    (s.skn.load = none → exec (.sknAbort t) s = .next (s.atTime t) ∧ exec (.loadDataTimeout t) s = .next (s.atTime t)) ∧
    (s.portUp = false → exec (.sknAbort t) s = .next (s.atTime t)) ∧
    ∀ l : Load, s.skn.load = some l →
      (l.complete = true ∨ max s.now t < l.wordAt + 10000 * ms → exec (.loadDataTimeout t) s = .next (s.atTime t)) ∧
      ∀ (c : Instr) (detail : Nat),
        (c = .sknAbort t ∧ detail = 0 ∧ s.portUp = true ∨
          c = .loadDataTimeout t ∧ detail = 1 ∧ l.complete = false ∧ l.wordAt + 10000 * ms ≤ max s.now t) →
        ∃ u, exec c s = .next u ∧ s.sameCreels u ∧ u.skn.load = none ∧ u.skn.phase = 6 ∧
          bit u.skn.events.bits SknEv.done = true ∧ bit u.skn.events.bits SknEv.refused = true ∧
          (fld s.skn.result 0 8 = 0 → u.skn.result = pack [(detail, 16), (0xFF, 8), (0x10, 0)]) ∧
          (l.kind = .whole → u.mod.mode = .quarantine ∧ u.mod.qReason = 0x10) ∧
          (l.kind = .channel → u.mod.mode = s.mod.mode ∧ u.mod.qReason = s.mod.qReason) ∧
          u.skn.image = s.skn.image ∧ u.trk = s.trk ∧ u.tlh = s.tlh ∧
          ∀ d : ChanId, (bit l.mask d.val = true → (u.ch d).skn.state = .unconfigured ∧ (u.ch d).skn.reason = 0x10) ∧
            (bit l.mask d.val = false → u.ch d = s.ch d)

/-- The load once word `w` has been taken at instant `now`. -/
def withWord (l : Load) (now : Tbu) (w : Word) : Load := { l with words := w :: l.words, received := l.received + 1, wordAt := now }

/-- The state with load `l`, and SKN_RECEIVED with it. -/
def withLoad (s : State) (l : Load) : State := { s with skn := { s.skn with load := some l, received := BitVec.ofNat 32 l.received } }

/-- SKN_RESULT after a refusal: the first one of a load stays (R101). -/
def firstRefusal (old : Word) (detail : Nat) (sect : Nat) (reason : Byte) : Word :=
  if fld old 0 8 = 0 then pack [(detail % 65536, 16), (sect, 8), (reason.toNat, 0)] else old

/-- R85: a word without a load, or after LENGTH bytes, is discarded and sets STRAY; any other is taken in order, and does nothing
else where it completes neither the header, a section to be checked, nor the stream. -/
def Clause.StreamWord : Prop :=
  ∀ (t : Tbu) (w : Word) (s : State),
    (s.portUp = false → exec (.sknData t w) s = .next (s.atTime t)) ∧
    (s.portUp = true →
      ((∀ l, s.skn.load = some l → l.complete = true) → exec (.sknData t w) s =
        .next { s.atTime t with skn := { s.skn with events := evSet s.skn.events SknEv.stray } }) ∧
      ∀ l : Load, s.skn.load = some l → l.complete = false → 8 * (l.received + 1) ≠ 512 → 8 * (l.received + 1) ≠ l.length →
        l.fatal ≠ none ∨ (∀ e ∈ l.dir, e.offset + e.len ≠ 8 * (l.received + 1)) →
        exec (.sknData t w) s = .next (withLoad (s.atTime t) (withWord l (max s.now t) w)))

/-- The directory of a header does not describe a stream of the kind for the channels of `mask` (R75, R81). -/
def directoryBad (h : List Byte) (kind : LoadKind) (mask : BitVec 16) (len : Nat) : Prop :=
  17 < byteAt h 0xC ∨ (directory h).map (·.sect) ≠ sectIds kind mask ∨
    (contiguous 512 len (directory h) = false ∧ contiguous 512 (num h 0x20 8) (directory h) = false)

/-- TOTAL_LEN is not LENGTH, or a section is longer than R80 allows. -/
def lengthBad (h : List Byte) (len : Nat) : Prop :=
  num h 0x20 8 ≠ len ∨ ∃ e ∈ directory h, (if e.sect = 0 then 262144 else 4194304) + 128 < e.len

/-- The first check of R86 that a header fails, from MAGIC to LENGTH. -/
def headerFails (h : List Byte) (kind : LoadKind) (mask : BitVec 16) (len : Nat) (code : Byte) : Prop :=
  num h 0 8 ≠ 0x4E49454B53594741 ∧ code = 0x01 ∨
  num h 0 8 = 0x4E49454B53594741 ∧
    ((num h 8 2 ≠ 2 ∨ num h 0xA 2 ≠ 512) ∧ code = 0x02 ∨
    num h 8 2 = 2 ∧ num h 0xA 2 = 512 ∧
      (byteAt h 0xD ≠ 0x21 ∧ code = 0x03 ∨
      byteAt h 0xD = 0x21 ∧
        (num h 0x1F8 4 ≠ (crc32 (slice h 0 0x1F8)).toNat ∧ code = 0x04 ∨
        num h 0x1F8 4 = (crc32 (slice h 0 0x1F8)).toNat ∧
          (directoryBad h kind mask len ∧ code = 0x05 ∨ ¬directoryBad h kind mask len ∧ lengthBad h len ∧ code = 0x06))))

/-- R86, R87: the word that completes the header. One that fails a check, 0x01 to 0x06, leaves its
reason for the end (log entry 34); one that passes gives its directory. That a LEN below 128 or not a multiple of 8 is
DIRECTORY, and one beyond R80 LENGTH, is log entry 28 (DESIGN CHOICE). -/
def Clause.HeaderChecked : Prop :=
  ∀ (t : Tbu) (w : Word) (s : State) (l r : Load) (mask : BitVec 16), s.portUp = true → s.skn.load = some l → l.complete = false →
    l.received = 63 → l.dir = [] → l.length ≠ 512 → r = withWord l (max s.now t) w → mask = (if l.kind = .whole then 0 else l.mask) →
    (∀ code : Byte, headerFails r.bytes l.kind mask l.length code →
      exec (.sknData t w) s = .next { s.atTime t with skn := { s.skn with
        phase := 2, received := 64, result := firstRefusal s.skn.result 0 0xFF code
        load := some { r with anyRefused := true, fatal := some { reason := code, sect := 0xFF, detail := 0 } } } }) ∧
    ((∀ code : Byte, ¬headerFails r.bytes l.kind mask l.length code) →
      exec (.sknData t w) s = .next { s.atTime t with skn := { s.skn with
        phase := 2, received := 64, load := some { r with hdrPassed := true, dir := directory r.bytes } } })

/-- The checks of R86 on the records of a section, once each record stands for itself: required types, RANGE, LOOP and BUDGET. -/
def recordsFail (recs : List (Nat × List Byte)) (module : Bool) (classes : List Byte) (code : Byte) (detail : Nat) : Prop :=
  ∃ missing range loop, missing = (requiredTypes module).find? (fun k => !recs.any (·.1 == k)) ∧
    range = (recordTypes true ++ recordTypes false).find? (fun k => (recs.any (·.1 == k)) && !payloadOk recs classes k (payloadOf recs k)) ∧
    loop = loopCheck (payloadOf recs 0x0203) ∧
    (missing = some detail ∧ code = 0x0B ∨
      missing = none ∧ range = some detail ∧ code = 0x0C ∨
      missing = none ∧ range = none ∧ loop = some detail ∧ code = 0x0D ∨
      missing = none ∧ range = none ∧ loop = none ∧
        14400 < ((upTo 24).map fun k => num (payloadOf recs 0x0201) (192 + 2 * k) 2).sum ∧ code = 0x0E ∧ detail = 0)

/-- R86: the first check that a section fails, from STEPPING to BUDGET, gives its refusal; one that fails none gives its records.
A record of unknown type or version, one past the body's end and a repeated type are RECORD. -/
def Clause.SectionChecks : Prop :=
  (∀ (sec : List Byte) (module : Bool) (id : Nat) (bind classes body cls : List Byte) (code : Byte) (detail : Nat), body = sec.drop 128 →
    (byteAt sec 1 ≠ 0x21 → checkSection sec module id bind classes = .error (0x03, 0)) ∧
    (byteAt sec 1 = 0x21 → num sec 8 8 ≠ body.length ∨ (if module then 262144 else 4194304) < body.length →
      checkSection sec module id bind classes = .error (0x06, 0)) ∧
    (byteAt sec 1 = 0x21 → num sec 8 8 = body.length → body.length ≤ (if module then 262144 else 4194304) →
      (num sec 0x20 4 ≠ (crc32 body).toNat → checkSection sec module id bind classes = .error (0x07, 0)) ∧
      (num sec 0x20 4 = (crc32 body).toNat →
        (slice sec 0x40 32 ≠ sha256 (slice sec 0 0x40 ++ body) → checkSection sec module id bind classes = .error (0x08, 0)) ∧
        (slice sec 0x40 32 = sha256 (slice sec 0 0x40 ++ body) →
          (num sec 0x10 8 ≠ id → checkSection sec module id bind classes = .error (0x09, 0)) ∧
          (num sec 0x10 8 = id → module = false → slice sec 0x18 8 ≠ bind →
            checkSection sec module id bind classes = .error (0x0A, 0)) ∧
          (num sec 0x10 8 = id → module = true ∨ slice sec 0x18 8 = bind →
            (parseRecords module (body.length + 1) body [] = .error (code, detail) →
              checkSection sec module id bind classes = .error (code, detail)) ∧
            ∀ recs, parseRecords module (body.length + 1) body [] = .ok recs →
              cls = (if module then payloadOf recs 0x0101 else classes) →
              (recordsFail recs module cls code detail → checkSection sec module id bind classes = .error (code, detail)) ∧
              ((∀ k d, ¬recordsFail recs module cls k d) → checkSection sec module id bind classes = .ok recs)))))) ∧
  ∀ (module : Bool) (n : Nat) (body : List Byte) (acc : List (Nat × List Byte)), body ≠ [] →
    (num body 0 2 ∉ recordTypes module ∨ byteAt body 2 ≠ 1 ∨ body.length < 8 + num body 4 4 ∨ (∃ r ∈ acc, r.1 = num body 0 2) →
      parseRecords module (n + 1) body acc = .error (0x0B, num body 0 2)) ∧
    (num body 0 2 ∈ recordTypes module → byteAt body 2 = 1 → 8 + num body 4 4 ≤ body.length → (∀ r ∈ acc, r.1 ≠ num body 0 2) →
      parseRecords module (n + 1) body acc = parseRecords module n (body.drop (8 + (num body 4 4 + 7) / 8 * 8))
        (acc ++ [(num body 0 2, slice body 8 (num body 4 4))]))

/-- A LUT cell without its flip-flop leads from junction `j` to junction `k` (R95). -/
def loopEdge (lut : List Byte) (j k : Nat) : Prop :=
  ∃ c < 16, 128 ≤ byteAt lut (16 * c + 6) ∧ byteAt lut (16 * c + 6) % 64 = k ∧ byteAt lut (16 * c + 7) % 2 = 0 ∧
    ∃ q < 4, byteAt lut (16 * c + q) = 128 + j

/-- R95: the search for an unregistered loop finds one exactly where the graph of the junctions has a cycle, and DETAIL lies on it. -/
def Clause.LoopSearch : Prop :=
  ∀ lut : List Byte,
    (loopCheck lut = none ↔ ∀ j : Nat, ¬Relation.TransGen (loopEdge lut) j j) ∧
    ∀ j : Nat, loopCheck lut = some j → Relation.TransGen (loopEdge lut) j j

/-- R86, R87: the word that completes a section of a stream not refused as a whole; `checked` is what the section's checks answer. A
module section that fails leaves its reason for the end of the stream (log entry 34), a channel section makes its channel
UNCONFIGURED and the others proceed; one that passes is kept. The last word of a WHOLE stream leaves PHASE at 3 (the example of 03);
the last section of a CHANNEL stream is that of `SectionsBegin`. -/
def Clause.SectionArrived : Prop :=
  ∀ (t : Tbu) (w : Word) (s : State) (l r : Load) (e : DirEntry) (sec : List Byte) (checked : Except Failure (List (Nat × List Byte)))
    (img : ModImage) (last : Bool), s.portUp = true → s.skn.load = some l → l.complete = false → l.fatal = none →
    8 * (l.received + 1) ≠ 512 → l.dir.find? (fun e => e.offset + e.len == 8 * (l.received + 1)) = some e →
    r = withWord l (max s.now t) w → last = decide (8 * (l.received + 1) = l.length) → last = false ∨ l.kind = .whole →
    sec = slice r.bytes e.offset e.len → img = (if l.kind = .whole then l.modImage.getD {} else s.skn.image) →
    checked = checkSection sec (e.sect == 0) (num r.bytes 0x10 8) (slice img.digest 0 8) img.classes →
    (e.sect = 0 → last = false →
      (∀ recs, checked = .ok recs → exec (.sknData t w) s = .next (withLoad (s.atTime t) { r with
        modImage := some (moduleImage recs (num r.bytes 0x10 8) (slice sec 0x40 32) (num r.bytes 0x18 4)) })) ∧
      ∀ code detail, checked = .error (code, detail) → exec (.sknData t w) s = .next { s.atTime t with skn := { s.skn with
        received := BitVec.ofNat 32 r.received, result := firstRefusal s.skn.result detail 0 code
        load := some { r with anyRefused := true, fatal := some { reason := code, sect := 0, detail := BitVec.ofNat 16 detail } } } }) ∧
    ∀ c : ChanId, e.sect = 0x10 + c.val →
      (∀ recs, checked = .ok recs → exec (.sknData t w) s = .next { s.atTime t with skn := { s.skn with
        received := BitVec.ofNat 32 r.received, phase := if last then 3 else s.skn.phase
        load := some { r with
          complete := last, chImages := l.chImages ++ [(c, channelImage recs (num r.bytes 0x10 8) (slice sec 0x40 32))] } } }) ∧
      ∀ code detail, checked = .error (code, detail) →
        ∃ u, exec (.sknData t w) s = .next u ∧ s.sameCreels u ∧ (∀ d : ChanId, d ≠ c → u.ch d = s.ch d) ∧ u.mod.mode = s.mod.mode ∧
          (u.ch c).skn.state = .unconfigured ∧ (u.ch c).skn.reason = code ∧
          u.skn = { s.skn with
            received := BitVec.ofNat 32 r.received, phase := if last then 3 else s.skn.phase
            result := firstRefusal s.skn.result detail (0x10 + c.val) code
            load := some { r with anyRefused := true, complete := last, resolved := setBit l.resolved c.val } }

/-- R87, R88: the last word of a stream refused at its header or module section ends the load with that reason. -/
def Clause.RefusedStreamEnds : Prop :=
  ∀ (t : Tbu) (w : Word) (s : State) (l : Load) (f : SknRefusal), s.portUp = true → s.skn.load = some l → l.complete = false →
    l.fatal = some f → l.anyRefused = true → 8 * (l.received + 1) ≠ 512 → 8 * (l.received + 1) = l.length →
    ∃ u, exec (.sknData t w) s = .next u ∧ s.sameCreels u ∧ u.skn.load = none ∧ u.skn.phase = 6 ∧
      bit u.skn.events.bits SknEv.done = true ∧ bit u.skn.events.bits SknEv.refused = true ∧ u.skn.result = s.skn.result ∧
      (l.kind = .whole → u.mod.mode = .quarantine ∧ u.mod.qReason = f.reason) ∧ (l.kind = .channel → u.mod.mode = s.mod.mode) ∧
      ∀ d : ChanId, (bit l.mask d.val = true → (u.ch d).skn.state = .unconfigured ∧ (u.ch d).skn.reason = f.reason) ∧
        (bit l.mask d.val = false → u.ch d = s.ch d)

/-- R86, R87, R88: the last word of a CHANNEL stream begins the apply: every channel whose section passed becomes APPLYING, and with
none left the load ends. -/
def Clause.SectionsBegin : Prop :=
  ∀ (t : Tbu) (w : Word) (s : State) (l r : Load) (e : DirEntry) (c : ChanId) (checked : Except Failure (List (Nat × List Byte))),
    s.portUp = true → s.skn.load = some l → l.complete = false → l.fatal = none → l.kind = .channel → 8 * (l.received + 1) ≠ 512 →
    8 * (l.received + 1) = l.length → l.dir.find? (fun e => e.offset + e.len == l.length) = some e → e.sect = 0x10 + c.val →
    r = withWord l (max s.now t) w →
    checked = checkSection (slice r.bytes e.offset e.len) false (num r.bytes 0x10 8) (slice s.skn.image.digest 0 8) s.skn.image.classes →
    (∀ recs, checked = .ok recs → l.resolved ≠ l.mask →
      ∃ u, exec (.sknData t w) s = .next u ∧ u = { s.atTime t with skn := u.skn, chans := u.chans } ∧
        u.skn = { s.skn with
          received := BitVec.ofNat 32 r.received, phase := 4
          load := some { r with
            complete := true
            chImages := l.chImages ++ [(c, channelImage recs (num r.bytes 0x10 8) (slice (slice r.bytes e.offset e.len) 0x40 32))] } } ∧
        ∀ d : ChanId, u.ch d = if d = c ∨ ∃ x ∈ l.chImages, x.1 = d then
          { s.ch d with skn := { (s.ch d).skn with state := .applying } } else s.ch d) ∧
    ∀ code detail, checked = .error (code, detail) →
      ∃ u, exec (.sknData t w) s = .next u ∧ s.sameCreels u ∧ u.mod.mode = s.mod.mode ∧
        u.skn.result = firstRefusal s.skn.result detail (0x10 + c.val) code ∧
        (setBit l.resolved c.val ≠ l.mask → u.skn.phase = 4 ∧
          u.skn.load = some { r with anyRefused := true, complete := true, resolved := setBit l.resolved c.val }) ∧
        (setBit l.resolved c.val = l.mask → u.skn.phase = 6 ∧ u.skn.load = none) ∧
        ((∀ x ∈ l.chImages, x.1 ≠ c) → (u.ch c).skn.state = .unconfigured ∧ (u.ch c).skn.reason = code) ∧
        ∀ d : ChanId, d ≠ c → u.ch d = if ∃ x ∈ l.chImages, x.1 = d then
          { s.ch d with skn := { (s.ch d).skn with state := .applying } } else s.ch d

/-- The words of a stream, the checks of its header and sections, and its end. -/
def Obligations.StreamWordsAndAbort : Prop :=
  Clause.StreamWord ∧ Clause.HeaderChecked ∧ Clause.SectionChecks ∧ Clause.LoopSearch ∧ Clause.SectionArrived ∧
    Clause.RefusedStreamEnds ∧ Clause.SectionsBegin ∧ Clause.StreamAborted

/-- R88, R98, R491: the module section is applied: its image and lock mask are in force, HP_CFG takes the LINK_CFG record and
FLT_CFG the fault policy, and every channel whose section passed becomes APPLYING. With no channel section left the load ends in WOUND
(R92, R109). -/
def Clause.ModuleApplied : Prop :=
  ∀ (t : Tbu) (s : State) (l : Load) (m : ModImage), s.skn.load = some l → l.complete = true → l.kind = .whole →
    l.modApplied = false → l.modImage = some m →
    ∃ u, exec (.moduleSectionApplied t) s = .next u ∧ s.sameCreels u ∧
      u = { s.atTime t with
        mod := u.mod, skn := u.skn, hp := { s.hp with cfg := u.hp.cfg }, flt := { s.flt with cfg := u.flt.cfg }, chans := u.chans } ∧
      u.skn.image = m ∧ u.skn.locks = payloadWord m.locks 0 ∧
      u.hp.cfg = pack [(num m.linkCfg 4 2, 48), (num m.linkCfg 2 2, 32), (byteAt m.linkCfg 0, 0)] ∧
      u.flt.cfg = (if m.faultPolicy = [] then 100 else word (num m.faultPolicy 16 2)) ∧
      (∀ x ∈ l.chImages, (u.ch x.1).skn.state = .applying) ∧
      (l.resolved ≠ l.mask → u.mod = s.mod ∧ u.skn.phase = 4 ∧ u.skn.load = some { l with modApplied := true }) ∧
      (l.resolved = l.mask → u.mod.mode = .wound ∧ u.skn.load = none) ∧
      ∀ c : ChanId, (∀ x ∈ l.chImages, x.1 ≠ c) →
        (l.resolved ≠ l.mask ∨ (s.ch c).configured = false ∨ (s.ch c).dof.due = false → u.ch c = s.ch c) ∧
        (l.resolved = l.mask → (s.ch c).configured = true → (s.ch c).dof.due = true → (s.ch c).mod.state ≠ .trim →
          (u.ch c).mod.state = .trim)

/-- R89, R90: a channel section is applied: the image and lock mask are in force, the Doffer is released, the group enables are
set, and the creel becomes invalid exactly when the geometry, bytes 0 to 5 of the CREEL_MAP (R358), differs; every byte of it is then
`creelDefault`, the value that log entry 5 (DESIGN CHOICE) gives a byte nothing has written. No other channel changes. -/
def Clause.ChannelApplied : Prop :=
  ∀ (t : Tbu) (c : ChanId) (s : State) (l : Load) (x : ChanId × ChImage), s.skn.load = some l →
    l.chImages.find? (fun x => x.1 == c) = some x → (s.ch c).skn.state = .applying → (s.ch c).skn.released = false →
    (s.ch c).dof.running = none → (s.ch c).dof.queue = [] →
    ∃ u, exec (.channelSectionApplied t c) s = .next u ∧ s.onlyChannel c u ∧
      (u.ch c).skn = { (s.ch c).skn with image := x.2, locks := payloadWord x.2.locks 0, released := true, releasedAt := max s.now t } ∧
      (u.ch c).mod = (s.ch c).mod ∧ (u.ch c).trk = (s.ch c).trk ∧ (u.ch c).stq = (s.ch c).stq ∧ (u.ch c).tdc = (s.ch c).tdc ∧
      (u.ch c).jnc.grpEn = 0xFF ∧ (u.ch c).cal = { (s.ch c).cal with loopCfg := 3 } ∧
      (slice (s.ch c).skn.image.creelMap 0 6 = slice x.2.creelMap 0 6 → s.sameCreels u ∧
        (u.ch c).mem.invalid = (s.ch c).mem.invalid) ∧
      (slice (s.ch c).skn.image.creelMap 0 6 ≠ slice x.2.creelMap 0 6 → (u.ch c).mem.invalid = true ∧
        (∀ a, u.creelByte c a = creelDefault) ∧ ∀ d : ChanId, d ≠ c → ∀ a, u.creelByte d a = s.creelByte d a)

/-- The load ends in WOUND once channel `c` is done with it: a WHOLE load, its module section applied, with no other channel left. -/
def lastOfWhole (s : State) (c : ChanId) : Prop :=
  ∃ l, s.skn.load = some l ∧ l.kind = .whole ∧ l.complete = true ∧ l.modApplied = true ∧ setBit l.resolved c.val = l.mask

/-- The initial training of a channel begins: it is in TRIM, with the training before whatever waits for its Doffer (R109, R376). -/
def trainingBegins (x y : Chan) : Prop :=
  y.mod.state = .trim ∧ y.dof = { x.dof with due := false, initial := true, queue := .train true :: x.dof.queue } ∧ y.mem = x.mem ∧
    y.seq = x.seq ∧ y.trk = x.trk

/-- R86 (DOFFER), R89, R92, R109: a Doffer that passes its self-check within 50 ms of its release makes its channel CONFIGURED, counts
the load and takes the image's identity. The load ends when this was its last channel, a WHOLE one in WOUND; every CONFIGURED channel
whose initial training is due begins it at WOUND, and one of a CHANNEL load, or of a load that is over, at once. Nothing else changes in
any channel. That Q_REASON is 0 from then on is log entry 27 (DEDUCED). -/
def Clause.SelfCheckPassed : Prop :=
  ∀ (t : Tbu) (c : ChanId) (s : State),
    ((s.ch c).skn.released = false ∨ (s.ch c).skn.releasedAt + 50 * ms < max s.now t →
      exec (.dofferSelfCheckPass t c) s = .next (s.atTime t)) ∧
    ((s.ch c).skn.released = true → max s.now t ≤ (s.ch c).skn.releasedAt + 50 * ms →
      ∃ u, exec (.dofferSelfCheckPass t c) s = .next u ∧ s.sameCreels u ∧
        (u.ch c).skn = { (s.ch c).skn with
          state := .configured, released := false, loads := satInc (s.ch c).skn.loads
          imageId := (s.ch c).skn.image.imageId, digest := (s.ch c).skn.image.digest } ∧
        (u.ch c).ana.now = (s.ch c).skn.image.restWord ∧
        ((s.ch c).dof.due = false ∨ (¬lastOfWhole s c ∧ ∃ l, s.skn.load = some l ∧ l.kind = .whole) → u.ch c = { s.ch c with
          skn := (u.ch c).skn, ana := { (s.ch c).ana with now := (s.ch c).skn.image.restWord } }) ∧
        ((s.ch c).dof.due = true → lastOfWhole s c ∨ (∀ l, s.skn.load = some l → l.kind = .channel) →
          (s.ch c).mod.state ≠ .trim → trainingBegins (s.ch c) (u.ch c)) ∧
        (∀ d : ChanId, d ≠ c →
          (¬lastOfWhole s c ∨ (s.ch d).configured = false ∨ (s.ch d).dof.due = false → u.ch d = s.ch d) ∧
          (lastOfWhole s c → (s.ch d).configured = true → (s.ch d).dof.due = true → (s.ch d).mod.state ≠ .trim →
            trainingBegins (s.ch d) (u.ch d) ∧ (u.ch d).skn = (s.ch d).skn)) ∧
        (lastOfWhole s c → u.skn.load = none ∧ u.mod.mode = .wound ∧ u.mod.qReason = 0) ∧
        ∀ l : Load, s.skn.load = some l → l.complete = true → setBit l.resolved c.val = l.mask → l.kind = .channel →
          u.skn.load = none ∧ u.mod.mode = s.mod.mode)

/-- R86 (DOFFER), R87: no passed self-check within 50 ms of release: the channel is UNCONFIGURED with reason 0x0F, which
SKN_RESULT shows when it is the load's first refusal; the other channels proceed, and stay as they are but for the initial training
that begins where a WHOLE load so ends in WOUND (R109). -/
def Clause.SelfCheckTimeout : Prop :=
  ∀ (t : Tbu) (c : ChanId) (s : State),
    ((s.ch c).skn.released = false ∨ max s.now t < (s.ch c).skn.releasedAt + 50 * ms →
      exec (.dofferCheckTimeout t c) s = .next (s.atTime t)) ∧
    ((s.ch c).skn.released = true → (s.ch c).skn.releasedAt + 50 * ms ≤ max s.now t →
      ∃ u, exec (.dofferCheckTimeout t c) s = .next u ∧ s.sameCreels u ∧
        (∀ d : ChanId, d ≠ c → ¬lastOfWhole s c ∨ (s.ch d).configured = false ∨ (s.ch d).dof.due = false → u.ch d = s.ch d) ∧
        (u.ch c).skn.state = .unconfigured ∧ (u.ch c).skn.reason = 0x0F ∧ (u.ch c).skn.released = false ∧
        u.skn.result = firstRefusal s.skn.result 0 (0x10 + c.val) 0x0F ∧ u.skn.image = s.skn.image)

/-- The sections of a stream that passed are applied, and each Doffer reports its self-check or does not. -/
def Obligations.SectionsApplied : Prop := Clause.ModuleApplied ∧ Clause.ChannelApplied ∧ Clause.SelfCheckPassed ∧ Clause.SelfCheckTimeout

/-! ### Channel commands -/

/-- The host's commands to channel `c` (R121). -/
def hostCommands (t : Tbu) (c : ChanId) : List (Instr × Cmd) :=
  [(.arm t c, .arm), (.start t c, .start), (.hold t c, .hold), (.resume t c, .resume), (.stop t c, .stop), (.cancel t c, .cancel),
    (.enable t c, .enable), (.disable t c, .disable)]

/-- The channel with the outcome of a command written: COUNT, CMD and RESULT (R121). -/
def Sys2Proof.Machine.Chan.told (x : Chan) (cmd : Cmd) (code : Byte) : Chan :=
  { x with mod := { x.mod with count := x.mod.count + 1, cmd := cmd.code, result := code } }

/-- R121, R122, R139: a refused command changes the outcome of its channel and CMD_REFUSED only, with the first reason that
applies, the command that R121 does not accept in the channel's state among them; behind an ARM that is being checked every command
waits. -/
def Obligations.CommandRefused : Prop :=
  ∀ (t : Tbu) (c : ChanId) (i : Instr) (cmd : Cmd) (s : State), (i, cmd) ∈ hostCommands t c → s.portUp = true →
    ((s.ch c).seq.checking = true → exec i s = .next ((s.atTime t).modCh c fun x =>
      { x with mod := { x.mod with queued := x.mod.queued ++ [{ cmd := cmd, bcast := false }] } })) ∧
    ∀ code : Byte, (s.ch c).seq.checking = false →
      (s.working = false ∧ code = 0x03 ∨
        s.working = true ∧ (s.ch c).configured = false ∧ code = 0x01 ∨
        s.working = true ∧ (s.ch c).configured = true ∧ (s.ch c).mod.state = .drain ∧ cmd.drains = false ∧ code = 0x04 ∨
        s.working = true ∧ (s.ch c).configured = true ∧ (s.ch c).mod.state = .held ∧ cmd = .resume ∧
          (s.ch c).mod.heldCause = Cause.fault ∧ code = 0x07 ∨
        s.working = true ∧ (s.ch c).configured = true ∧ (s.ch c).mod.state = .trim ∧ code = 0x02 ∨
        s.working = true ∧ (s.ch c).configured = true ∧ (s.ch c).mod.state = .run ∧
          cmd ∈ [Cmd.arm, .start, .resume, .cancel, .enable, .disable] ∧ code = 0x02 ∨
        s.working = true ∧ (s.ch c).configured = true ∧ (s.ch c).mod.state = .rest ∧
          cmd ∈ [Cmd.start, .hold, .resume, .stop, .cancel] ∧ code = 0x02 ∨
        s.working = true ∧ (s.ch c).configured = true ∧ (s.ch c).mod.state = .armed ∧
          (cmd ∈ [Cmd.arm, .hold, .resume] ∨ cmd = .cancel ∧ (s.ch c).mod.startPend = false) ∧ code = 0x02 ∨
        s.working = true ∧ (s.ch c).configured = true ∧ (s.ch c).mod.state = .held ∧
          (cmd ∈ [Cmd.arm, .start] ∨ cmd = .cancel ∧ (s.ch c).mod.startPend = false) ∧ code = 0x02) →
      exec i s = .next (({ s.atTime t with mod := { s.mod with
        events := evSet s.mod.events ModEv.cmdRefused } } : State).modCh c fun x => x.told cmd code)

/-- The closing waypoints of the route up to `w`, and the range of one (R139, R141). -/
def closings (q : Seq) (w : WpId) : List WpId := q.waypoints.filter fun v => q.wpClose v && decide (v.toNat ≤ w.toNat)
def inBlock (q : Seq) (u : Nat) (v : WpId) : Bool := decide ((q.wpStart v).toNat ≤ u) && decide (u ≤ v.toNat)

/-- Waypoint `w` fails the route check with a code from 0x04 to 0x0A (R139). -/
def wpFails (x : Chan) (w : WpId) (code : Nat) : Prop :=
  let q := x.seq
  (code = 0x04 ∧ (q.wpValid w = false ∨ q.wpReserved w = true ∨ 4 ≤ (q.wpHopOp w).toNat)) ∨
  (code = 0x05 ∧ q.segValid (q.wpSeg w) = false) ∨
  (code = 0x06 ∧ q.segStreamed (q.wpSeg w) = true ∧ x.openFor (q.wpSeg w) = false) ∨
  (code = 0x07 ∧ ∃ j : Fin 4, q.wpJen w j.val = true ∧ q.inRange (q.wpJump w j.val) = false) ∨
  (code = 0x08 ∧ q.wpClose w = true ∧ ((q.wpStart w).toNat < q.first.toNat ∨ w.toNat < (q.wpStart w).toNat)) ∨
  (code = 0x09 ∧ q.wpClose w = true ∧
    ((∃ v ∈ closings q w, v.toNat < w.toNat ∧ (q.wpStart v).toNat < (q.wpStart w).toNat ∧ (q.wpStart w).toNat ≤ v.toNat) ∨
      ∃ u : Nat, 3 < ((closings q w).filter (inBlock q u)).length)) ∨
  (code = 0x0A ∧ q.wpWait w ≠ 0 ∧ (q.segValid q.idleSeg = false ∨ q.segStreamed q.idleSeg = true))

/-- R139: what the route check reports: the route-level conditions first, at waypoint 0, then the first waypoint that fails, with its
lowest code; a route in which nothing fails passes. -/
def Clause.RouteCheck : Prop :=
  ∀ x : Chan,
    (x.seq.last.toNat < x.seq.first.toNat → x.routeCheck = (0x01, 0)) ∧
    (x.seq.first.toNat ≤ x.seq.last.toNat →
      (x.seq.from' = true →
        bit x.seq.resume 63 = false ∨ x.seq.inRange x.seq.resumeWp = false ∨ x.seq.stackMatches none x.seq.resumeStack = false →
        x.routeCheck = (0x02, 0)) ∧
      (x.seq.from' = false ∨
          (bit x.seq.resume 63 = true ∧ x.seq.inRange x.seq.resumeWp = true ∧ x.seq.stackMatches none x.seq.resumeStack = true) →
        (x.seq.underrun = 2 → x.seq.segValid x.seq.sidingSeg = false ∨ x.seq.segStreamed x.seq.sidingSeg = true →
          x.routeCheck = (0x03, 0)) ∧
        (x.seq.underrun ≠ 2 ∨ (x.seq.segValid x.seq.sidingSeg = true ∧ x.seq.segStreamed x.seq.sidingSeg = false) →
          ((∀ w ∈ x.seq.waypoints, ∀ k, ¬wpFails x w k) → x.routeCheck.1 = 0) ∧
          ∀ w ∈ x.seq.waypoints, ∀ code : Nat, wpFails x w code → (∀ k, wpFails x w k → code ≤ k) →
            (∀ v ∈ x.seq.waypoints, v.toNat < w.toNat → ∀ k, ¬wpFails x v k) → x.routeCheck = (BitVec.ofNat 8 code, w))))

/-- R138, R139, R434, R353: an ARM in REST latches the route and begins the check. The check's end refuses the ARM with the first
failure (`RouteCheck`), or arms the channel: its loads, its request for a grant and the heads to hold. -/
def Clause.ArmAndRouteCheck : Prop :=
  (∀ (t : Tbu) (c : ChanId) (s : State), s.working = true → (s.ch c).configured = true → (s.ch c).seq.checking = false →
    (s.ch c).mod.state = .rest →
    exec (.arm t c) s = .next ((s.atTime t).modCh c fun x => { x with
      seq := { x.seq with lRoute := x.seq.route, lRouteCfg := x.seq.routeCfg, lIdle := x.seq.idle, checking := true }
      mod := { x.mod with armBcast := false } })) ∧
  ∀ (t : Tbu) (c : ChanId) (s : State), s.working = true → (s.ch c).configured = true → (s.ch c).seq.checking = true →
    (s.ch c).mod.state = .rest → (s.ch c).mod.queued = [] → (s.ch c).mod.armBcast = false →
    ((s.ch c).routeCheck.1 ≠ 0 →
      exec (.routeCheckDone t c) s = .next (({ s.atTime t with mod := { s.mod with
        events := evSet s.mod.events ModEv.cmdRefused } } : State).modCh c fun x => { x with
          seq := { x.seq with checking := false, checkCode := (s.ch c).routeCheck.1, checkWp := (s.ch c).routeCheck.2 }
          mod := (x.told .arm 0x06).mod })) ∧
    ((s.ch c).routeCheck.1 = 0 →
      ∃ u, exec (.routeCheckDone t c) s = .next u ∧ s.sameCreels u ∧ (∀ d : ChanId, d ≠ c → u.ch d = s.ch d) ∧
        u = { s.atTime t with mod := { s.mod with events := u.mod.events }, hp := u.hp, chans := u.chans } ∧
        (u.ch c).mod = { ((s.ch c).told .arm 0).mod with state := .armed, heldCause := 0 } ∧
        (u.ch c).seq.checking = false ∧ (u.ch c).seq.checkCode = 0 ∧ (u.ch c).seq.route = (s.ch c).seq.route ∧
        (u.ch c).tlh.request = some { tick := s.tlh.tick, service := false } ∧ (u.ch c).tlh.granted = false ∧
        (u.ch c).flt.halt = false ∧ (u.ch c).trk = (s.ch c).trk ∧ (u.ch c).tdc = (s.ch c).tdc ∧
        ((s.ch c).mem.degraded = true → (u.ch c).mem.heads = []))

/-- A route is checked, and its channel armed. -/
def Obligations.ArmAndRouteCheck : Prop := Clause.RouteCheck ∧ Clause.ArmAndRouteCheck

/-- R124, R154: START in ARMED and RESUME in HELD latch the start values and set START_PEND; a RESUME asks for a grant and
continues from the resume point, and an unaligned channel is told. The channel stays where it is until RUN is entered. -/
def Obligations.StartAndResume : Prop :=
  ∀ (t : Tbu) (c : ChanId) (s : State), s.working = true → (s.ch c).configured = true → (s.ch c).seq.checking = false →
    fld (s.ch c).seq.startCfg 0 2 ≠ 3 →
    ((s.ch c).mod.state = .armed →
      ∃ u, exec (.start t c) s = .next u ∧ s.onlyChannel c u ∧
        (u.ch c).mod = { ((s.ch c).told .start 0).mod with startPend := true } ∧
        (u.ch c).tlh = { (s.ch c).tlh with pinned := false } ∧ (u.ch c).trk.isPending .start = false ∧
        (u.ch c).seq.lStartCfg = (s.ch c).seq.startCfg ∧ (u.ch c).seq.lStartPos = (s.ch c).seq.startPos ∧
        (u.ch c).seq.lGrpCfg = (s.ch c).seq.grpCfg ∧ (u.ch c).seq.grpOutcome = 0 ∧ (u.ch c).seq.vote = none ∧
        bit (u.ch c).seq.events.bits SeqEv.unalignedStart =
          (bit (s.ch c).seq.events.bits SeqEv.unalignedStart || (fld (s.ch c).seq.startCfg 0 2 != 0 && !(s.ch c).trk.aligned)) ∧
        u.ch c = { s.ch c with mod := (u.ch c).mod, tlh := (u.ch c).tlh, trk := (u.ch c).trk, seq := (u.ch c).seq }) ∧
    ((s.ch c).mod.state = .held → (s.ch c).mod.heldCause ≠ Cause.fault →
      ∃ u, exec (.resume t c) s = .next u ∧ s.onlyChannel c u ∧
        (u.ch c).mod = { ((s.ch c).told .resume 0).mod with startPend := true } ∧
        (u.ch c).tlh = { (s.ch c).tlh with pinned := false, request := some { tick := s.tlh.tick, service := false } } ∧
        (u.ch c).seq.fromResume = true ∧ (u.ch c).seq.resume = (s.ch c).seq.resume ∧
        u.ch c = { s.ch c with mod := (u.ch c).mod, tlh := (u.ch c).tlh, trk := (u.ch c).trk, seq := (u.ch c).seq })

/-- R121, R125, R127, R147: a HOLD in RUN latches a hold for the gate; a STOP drains the channel at once, its pass, latches and
start withdrawn, WAV at 0 and the switches still as they were (they open at the end of the ramp, log entry 56); a CANCEL withdraws
the start, with the soft mark of a pinned member, and nothing else of ARMED. -/
def Clause.HoldStopCancel : Prop :=
  ∀ (t : Tbu) (c : ChanId) (s : State), s.working = true → (s.ch c).configured = true → (s.ch c).seq.checking = false →
    ((s.ch c).mod.state = .run → (s.ch c).seq.holdReq = none →
      ∃ u, exec (.hold t c) s = .next u ∧ s.onlyChannel c u ∧
        (∃ k, u.ch c = { (s.ch c).told .hold 0 with seq := { (s.ch c).seq with holdReq := some (Cause.host, k) } })) ∧
    ((s.ch c).mod.state = .held → exec (.hold t c) s = .next ((s.atTime t).modCh c fun x => x.told .hold 0)) ∧
    ((s.ch c).mod.state = .armed ∨ (s.ch c).mod.state = .run ∨ (s.ch c).mod.state = .held →
      ∃ u, exec (.stop t c) s = .next u ∧ s.sameCreels u ∧ (∀ d : ChanId, d ≠ c → u.ch d = s.ch d) ∧
        u = { s.atTime t with mod := { s.mod with events := evSet s.mod.events ModEv.stateChange }, chans := u.chans } ∧
        (u.ch c).mod.state = .drain ∧ (u.ch c).mod.drainAt = some (max s.now t) ∧ (u.ch c).mod.startPend = false ∧
        (u.ch c).mod.result = 0 ∧ (u.ch c).mod.outEn = (s.ch c).mod.outEn ∧ (u.ch c).ana.sw = (s.ch c).ana.sw ∧
        (u.ch c).ana.closing = 0 ∧ (u.ch c).ply.wav = .zero ∧ (u.ch c).seq.playing = false ∧
        (u.ch c).seq.anyLatch = false ∧ (u.ch c).seq.holdReq = none ∧ (u.ch c).trk.isPending .start = false ∧
        (lanesQuiet (s.ch c) → (u.ch c).jnc = (s.ch c).jnc) ∧ (u.ch c).tdc = (s.ch c).tdc ∧ (u.ch c).stq = (s.ch c).stq) ∧
    ((s.ch c).mod.state = .armed → (s.ch c).mod.startPend = true →
      ∃ u, exec (.cancel t c) s = .next u ∧ s.onlyChannel c u ∧ (u.ch c).trk.isPending .start = false ∧
        (u.ch c).mod = { ((s.ch c).told .cancel 0).mod with startPend := false } ∧ (u.ch c).seq.placed = none ∧
        (u.ch c).tlh = { (s.ch c).tlh with
          pinned := false, shed := if (s.ch c).tlh.pinned ∧ (s.ch c).tlh.shed = 1 then 0 else (s.ch c).tlh.shed } ∧
        u.ch c = { s.ch c with mod := (u.ch c).mod, tlh := (u.ch c).tlh, trk := (u.ch c).trk, seq := (u.ch c).seq })

/-- R129, R256, R259: in DRAIN an ENABLE or DISABLE sets or clears the pending enable; in REST, ARMED or HELD an ENABLE without a
DISABLE sequence sets OUT_EN, opens the switches not named and tells the others to close, and a DISABLE clears OUT_EN and begins
its sequence, the ramp of the levels to the rest codes. -/
def Clause.EnableAndDisable : Prop :=
  ∀ (t : Tbu) (c : ChanId) (s : State), s.working = true → (s.ch c).configured = true → (s.ch c).seq.checking = false →
    ((s.ch c).mod.state = .drain →
      exec (.enable t c) s = .next ((s.atTime t).modCh c fun x => { x with mod := { (x.told .enable 0).mod with pendEn := true } }) ∧
      exec (.disable t c) s = .next ((s.atTime t).modCh c fun x => { x with mod := { (x.told .disable 0).mod with pendEn := false } })) ∧
    ((s.ch c).mod.state = .rest ∨ (s.ch c).mod.state = .armed ∨ (s.ch c).mod.state = .held → (s.ch c).ana.disableAt = none →
      (∃ u, exec (.enable t c) s = .next u ∧ s.onlyChannel c u ∧
        (u.ch c).mod = { ((s.ch c).told .enable 0).mod with outEn := true } ∧
        (u.ch c).ana.mask = BitVec.ofNat 5 (fld (s.ch c).ana.outCfg 0 5) ∧
        (u.ch c).ana.sw = (s.ch c).ana.sw &&& (u.ch c).ana.mask ∧ (u.ch c).ana.closing = (u.ch c).ana.mask &&& ~~~(s.ch c).ana.sw ∧
        (u.ch c).ana.now = (s.ch c).ana.now ∧ u.ch c = { s.ch c with mod := (u.ch c).mod, ana := (u.ch c).ana }) ∧
      exec (.disable t c) s = .next ((s.atTime t).modCh c fun x => { x with
        mod := { (x.told .disable 0).mod with outEn := false }
        ana := { x.ana.rampTo (max s.now t) (max s.now t) x.skn.image.restWord with disableAt := some (max s.now t) } }))

/-- The channel commands that end or withdraw something, and those of the outputs. -/
def Obligations.HoldStopCancelEnable : Prop := Clause.HoldStopCancel ∧ Clause.EnableAndDisable

/-- R124, R144, R163: the committed start of an ARMED or HELD channel with no other wait reason enters RUN at its position: the pass
of the start point plays, START_PEND is clear, and the run begins there; a soft mark that the start was pinned against latches its
hold with the first sample. -/
def Clause.RunEntry : Prop :=
  ∀ (t : Tbu) (c : ChanId) (s : State) (e : Committed), (s.ch c).runDue (s.atTime t).cycle = some e →
    ∃ u, exec (.runEntry t c) s = .next u ∧ s.sameCreels u ∧ (∀ d : ChanId, d ≠ c → u.ch d = s.ch d) ∧
      u = { s.atTime t with mod := { s.mod with events := u.mod.events }, hp := u.hp, chans := u.chans } ∧
      (u.ch c).mod = { (s.ch c).mod with state := .run, heldCause := 0, startPend := false } ∧
      (u.ch c).seq.playing = true ∧ (u.ch c).seq.wp = (s.ch c).seq.startPoint.1 ∧ (u.ch c).seq.runPos = e.pos ∧
      (u.ch c).seq.decided = false ∧ (u.ch c).seq.anyLatch = false ∧ (u.ch c).seq.waiting = (s.ch c).seq.startIdle ∧
      (u.ch c).trk = { (s.ch c).trk with committed := (u.ch c).trk.committed } ∧ (u.ch c).tdc = (s.ch c).tdc ∧
      (u.ch c).syn = (s.ch c).syn ∧
      ((s.ch c).tlh.shed = 1 → (u.ch c).seq.holdReq = some (Cause.shed, 0))

/-- The synthesizer is off, stopping or failed: nothing is left to power down. -/
def atRest (x : Synth) : Prop := x.state = .off ∨ x.state = .stopping ∨ x.state = .failed

/-- R127, R129, R242, R290: DRAIN ends in REST with the switches open and the grant given up once its ramp is over, the writes to the
creel are done (or the time for them is), and, with SYN_REST, the synthesizers are powered down; an ENABLE that waited is executed
there, a RANGE that waited starts its sequence, and the levels ramp no longer, so that a later code reaches its DAC. Before the ramp is
over nothing happens; with SYN_REST the power-down begins when everything before it is done (log entries 53, 56). -/
def Clause.DrainComplete : Prop :=
  (∀ (t : Tbu) (c : ChanId) (s : State) (a : Tbu), (s.ch c).mod.state = .drain → (s.ch c).mod.drainAt = some a →
    a + 15 * us ≤ max s.now t → (s.ch c).mem.writesDone = true ∨ a + 145 * us ≤ max s.now t →
    bit (s.ch c).mod.cfg 0 = false ∨
      (s.ch c).mod.drainSyn = true ∧ (s.ch c).powering false = false ∧ (s.ch c).powering true = false →
    ∃ u, exec (.drainComplete t c) s = .next u ∧ s.sameCreels u ∧ (∀ d : ChanId, d ≠ c → u.ch d = s.ch d) ∧
      u = { s.atTime t with mod := { s.mod with events := u.mod.events }, hp := u.hp, chans := u.chans } ∧
      bit u.mod.events.bits ModEv.stateChange = true ∧
      (u.ch c).mod.state = .rest ∧ (u.ch c).mod.drainAt = none ∧ (u.ch c).mod.pendEn = false ∧ (u.ch c).ana.sw = 0 ∧
      (u.ch c).tlh.granted = false ∧ (u.ch c).tlh.request = none ∧ (u.ch c).tlh.shed = 0 ∧ (u.ch c).seq.playing = false ∧
      (u.ch c).mod.outEn = (s.ch c).mod.pendEn ∧ (u.ch c).ana.ramp = none ∧
      ((s.ch c).mod.pendEn = true → bit u.mod.events.bits ModEv.pendingDone = true) ∧
      ((s.ch c).configured = true → (s.ch c).ana.rangeAt = none → rangeOf (s.ch c).ana.wavCfg ≠ (s.ch c).ana.rangeNow →
        (u.ch c).ana.rangeAt = some (max s.now t) ∧ (u.ch c).ana.rangeTo = rangeOf (s.ch c).ana.wavCfg) ∧
      (bit (s.ch c).mod.cfg 0 = false → (u.ch c).syn = (s.ch c).syn)) ∧
  (∀ (t : Tbu) (c : ChanId) (s : State) (a : Tbu), (s.ch c).mod.state = .drain → (s.ch c).mod.drainAt = some a →
    max s.now t < a + 15 * us → exec (.drainComplete t c) s = .next (s.atTime t)) ∧
  ∀ (t : Tbu) (c : ChanId) (s : State) (a : Tbu), (s.ch c).mod.state = .drain → (s.ch c).mod.drainAt = some a →
    a + 15 * us ≤ max s.now t → (s.ch c).mem.writesDone = true ∨ a + 145 * us ≤ max s.now t →
    bit (s.ch c).mod.cfg 0 = true → (s.ch c).mod.drainSyn = false → (∃ i : Fin 4, ¬atRest (s.ch c).syn.synths[i]) →
    ∃ u, exec (.drainComplete t c) s = .next u ∧ s.onlyChannel c u ∧ s.sameCreels u ∧
      (u.ch c).mod = { (s.ch c).mod with drainSyn := true } ∧
      ∀ i : Fin 4, (atRest (s.ch c).syn.synths[i] → (u.ch c).syn.synths[i].state = (s.ch c).syn.synths[i].state) ∧
        (¬atRest (s.ch c).syn.synths[i] → (u.ch c).syn.synths[i].state = .stopping ∧
          (u.ch c).syn.synths[i].gate = false ∧ (u.ch c).syn.synths[i].lock = false)

/-- A channel enters RUN, and comes back to REST at the end of DRAIN. -/
def Obligations.RunEnteredAndLeft : Prop := Clause.RunEntry ∧ Clause.DrainComplete

/-! ### The route sequencer -/

/-- The segment that SEQ_SEG_IDX names is in no route that is checked or armed (R134, R139). -/
def segFree (x : Chan) : Prop :=
  (x.seq.checking = true → (∀ w ∈ x.seq.waypoints, x.seq.wpSeg w ≠ x.seq.segSel) ∧ x.seq.idleSeg ≠ x.seq.segSel ∧
    x.seq.sidingSeg ≠ x.seq.segSel) ∧
  (x.seq.checking = false → x.routed = true → x.seq.inRouteSet x.seq.segSel = false)

/-- SEQ_SEG_D0 and D1 hold a descriptor that a WRITE takes: no reserved bit is set, and where VALID is set LEN64 is 4 or more and
CREEL_ADDR a multiple of 4,096 (R133, R134). -/
def segWellMade (d0 d1 : Word) : Prop :=
  fld d0 24 22 = 0 ∧ fld d1 34 30 = 0 ∧ (bit d0 63 = true → 4 ≤ fld d0 0 24 ∧ fld d1 0 34 % 4096 = 0)

/-- R134: a READ brings the addressed descriptor into SEQ_SEG_D0 and D1. A WRITE of a segment of a checked or armed route is refused with
IN_ROUTE, one with a reserved bit, a LEN64 below 4 or a misplaced CREEL_ADDR with RANGE, and any other is stored, one with VALID = 0
too; a refused one changes SEQ_SEG_RESULT only. -/
def Clause.SegmentAccess : Prop :=
  ∀ (t : Tbu) (c : ChanId) (s : State), s.windowUp = true →
    exec (.segRead t c) s = .next ((s.atTime t).modCh c fun x => { x with seq := { x.seq with
      segD0 := sget 0 x.seq.segs (2 * fld x.seq.segIdx 0 18), segD1 := sget 0 x.seq.segs (2 * fld x.seq.segIdx 0 18 + 1)
      segResult := 0 } }) ∧
    (¬segFree (s.ch c) →
      exec (.segWrite t c) s = .next ((s.atTime t).modCh c fun x => { x with seq := { x.seq with segResult := 0x01 } })) ∧
    (segFree (s.ch c) → ¬segWellMade (s.ch c).seq.segD0 (s.ch c).seq.segD1 →
      exec (.segWrite t c) s = .next ((s.atTime t).modCh c fun x => { x with seq := { x.seq with segResult := 0x02 } })) ∧
    (segFree (s.ch c) → segWellMade (s.ch c).seq.segD0 (s.ch c).seq.segD1 →
      exec (.segWrite t c) s = .next ((s.atTime t).modCh c fun x => { x with seq := { x.seq with
        segs := sput 0 (sput 0 x.seq.segs (2 * fld x.seq.segIdx 0 18) x.seq.segD0) (2 * fld x.seq.segIdx 0 18 + 1) x.seq.segD1
        segResult := 0 } }))

/-- R135, R137: a waypoint word is stored as it is written, but within the latched range of a checked or armed route nothing
changes. -/
def Clause.WaypointWrite : Prop :=
  ∀ (t : Tbu) (c : ChanId) (w : BitVec 16) (k : Fin 4) (v : Word) (s : State), s.windowUp = true →
    ((s.ch c).seq.checking = true ∨ (s.ch c).routed = true → (s.ch c).seq.inRange w = true →
      exec (.waypointWrite t c w k v) s = .next (s.atTime t)) ∧
    (((s.ch c).seq.checking = false ∧ (s.ch c).routed = false) ∨ (s.ch c).seq.inRange w = false →
      exec (.waypointWrite t c w k v) s = .next ((s.atTime t).modCh c fun x => { x with seq := { x.seq with
        wpt := sput 0 x.seq.wpt (4 * w.toNat + k.val) v } }))

/-- R147, R151, R160: an ADVANCE in RUN latches with its sample index, one that finds its latch set is coalesced, and one outside
RUN is discarded. A HOST_JUMP within the route latches its target in RUN, moves the resume point in HELD, and is discarded where
its target is outside the route. -/
def Clause.AdvanceAndJump : Prop :=
  ∀ (t : Tbu) (c : ChanId) (w : BitVec 16) (s : State), s.windowUp = true →
    ((s.ch c).latches = true → (s.ch c).seq.adv = none →
      exec (.advance t c) s = .next ((s.atTime t).modCh c fun x => { x with seq := { x.seq with
        adv := some ((s.ch c).kNow (s.atTime t).cycle) } })) ∧
    ((s.ch c).latches = true → (s.ch c).seq.adv.isSome = true →
      exec (.advance t c) s = .next ((s.atTime t).modCh c fun x => { x with seq := { x.seq with
        events := evSet x.seq.events SeqEv.coalesced } })) ∧
    ((s.ch c).latches = false →
      exec (.advance t c) s = .next ((s.atTime t).modCh c fun x => { x with seq := { x.seq with
        events := evSet x.seq.events SeqEv.discarded } })) ∧
    ((s.ch c).latches = true → (s.ch c).seq.inRange w = true →
      exec (.hostJump t c w) s = .next ((s.atTime t).modCh c fun x => { x with seq := { x.seq with
        hostJump := some (w, (s.ch c).kNow (s.atTime t).cycle) } })) ∧
    ((s.ch c).mod.state = .held → (s.ch c).seq.inRange w = true →
      ∃ u, exec (.hostJump t c w) s = .next u ∧ s.onlyChannel c u ∧ (u.ch c).seq.resumeWp = w ∧ (u.ch c).seq.resumePass = 0 ∧
        u.ch c = { s.ch c with seq := { (s.ch c).seq with
          resume := (u.ch c).seq.resume, resumeDepth := (u.ch c).seq.resumeDepth, resumeStk := (u.ch c).seq.resumeStk } }) ∧
    ((s.ch c).seq.inRange w = false →
      exec (.hostJump t c w) s = .next ((s.atTime t).modCh c fun x => { x with seq := { x.seq with
        events := evSet x.seq.events SeqEv.discarded } }))

/-- The descriptor store and the waypoint table are read and written, and the host's requests to the sequencer are latched. -/
def Obligations.RouteTablesAndRequests : Prop := Clause.SegmentAccess ∧ Clause.WaypointWrite ∧ Clause.AdvanceAndJump

/-- R150, R141: the gate of a segment pass with no request latched repeats the waypoint while passes remain, ends the route at a
waypoint with END, and enters the next one otherwise (for a route without streamed segments); it changes no register of another
channel. -/
def Obligations.ExitGate : Prop :=
  ∀ (t : Tbu) (c : ChanId) (s : State), (s.ch c).gateDue (s.atTime t).cycle = true → (s.ch c).seq.anyLatch = false →
    (s.ch c).seq.mile = none → (s.ch c).seq.holdReq = none → (s.ch c).seq.waiting = false → (s.ch c).seq.kind = .segment →
    (∀ w, (s.ch c).seq.segStreamed ((s.ch c).seq.wpSeg w) = false) →
    ∃ u, exec (.exitGate t c) s = .next u ∧ s.onlyChannel c u ∧ s.sameCreels u ∧
      u.ch c = { s.ch c with seq := (u.ch c).seq, jnc := (u.ch c).jnc, ply := { (s.ch c).ply with hops := (u.ch c).ply.hops } } ∧
      (u.ch c).seq.decided = true ∧ (u.ch c).seq.events = (s.ch c).seq.events ∧ (u.ch c).seq.wp = (s.ch c).seq.wp ∧
      ((s.ch c).seq.wpRepeat (s.ch c).seq.wp = 0 ∨ (s.ch c).seq.done + 1 < (s.ch c).seq.wpRepeat (s.ch c).seq.wp →
        (u.ch c).seq.endNext = false ∧ (u.ch c).seq.next = (s.ch c).seq.wp ∧ (u.ch c).seq.stack = (s.ch c).seq.stack ∧
        (u.ch c).seq.succ = some { wp := (s.ch c).seq.wp, done := (s.ch c).seq.done + 1, kind := .segment, entry := false, routeEnd := false }) ∧
      ((s.ch c).seq.wpRepeat (s.ch c).seq.wp ≠ 0 → (s.ch c).seq.wpRepeat (s.ch c).seq.wp ≤ (s.ch c).seq.done + 1 →
        ((s.ch c).seq.wpEnd (s.ch c).seq.wp = true → (u.ch c).seq.endNext = true ∧
          (u.ch c).seq.succ = some { wp := (s.ch c).seq.wp, done := 0, kind := .segment, entry := false, routeEnd := true }) ∧
        ((s.ch c).seq.wpEnd (s.ch c).seq.wp = false → (s.ch c).seq.wpClose (s.ch c).seq.wp = false →
          (s.ch c).seq.wp.toNat < (s.ch c).seq.last.toNat → (s.ch c).seq.wpWait ((s.ch c).seq.wp + 1) = 0 →
          (u.ch c).seq.endNext = false ∧ (u.ch c).seq.next = (s.ch c).seq.wp + 1 ∧
          (u.ch c).seq.succ =
            some { wp := (s.ch c).seq.wp + 1, done := 0, kind := .segment, entry := true, routeEnd := false }))

/-- R140, R116, R127, R152, R416: at a boundary the successor chosen begins: ROUTE_END drains the channel, a hold chosen by the gate
makes it HELD with its resume point at the successor and gives up the grant, and otherwise the successor's pass plays where its head
is in the buffer or the loss of a bobbin device is being masked. Where it is not, LATE_FETCH is flagged: after the last sample WAV
holds with the markers low, or, with UNDERRUN = 2 and the siding's head in the buffer, a pass of the siding plays while the late
successor waits. -/
def Clause.PassBoundary : Prop :=
  ∀ (t : Tbu) (c : ChanId) (s : State) (x : Succ), (s.ch c).latches = true → (s.ch c).seq.late = false →
    (s.ch c).passOver (s.atTime t).cycle = true → (s.ch c).seq.succ = some x →
    ∃ u, exec (.passBoundary t c) s = .next u ∧ s.sameCreels u ∧ (∀ d : ChanId, d ≠ c → u.ch d = s.ch d) ∧
      u = { s.atTime t with freeCtr := u.freeCtr, mod := { s.mod with events := u.mod.events }, hp := u.hp, chans := u.chans } ∧
      (u.ch c).trk.n = (s.ch c).trk.n ∧ (u.ch c).tdc = (s.ch c).tdc ∧
      (x.routeEnd = true → (u.ch c).mod.state = .drain ∧ bit (u.ch c).seq.events.bits SeqEv.routeEnd = true ∧
        (u.ch c).seq.playing = false ∧ (u.ch c).ana.sw = (s.ch c).ana.sw) ∧
      (∀ cause : Byte, x.routeEnd = false → (s.ch c).seq.holdNext = some cause → (s.ch c).seq.holdReq = none →
        (u.ch c).mod.state = .held ∧ (u.ch c).mod.heldCause = cause ∧ (u.ch c).seq.resumeWp = x.wp ∧
        (u.ch c).seq.resumePass = min x.done (2 ^ 32 - 1) ∧ (u.ch c).tlh.granted = false ∧ (u.ch c).seq.playing = false ∧
        (u.ch c).ana.sw = (s.ch c).ana.sw) ∧
      (x.kind ≠ .holdLast → (s.ch c).headHere x = if (s.ch c).mem.degraded then (s.ch c).mem.creel != .lost else
        ((s.ch c).passHead ((s.ch c).seq.passSeg x.wp x.kind)).all (s.ch c).mem.present) ∧
      (x.routeEnd = false → (s.ch c).seq.holdNext = none →
        (s.ch c).mem.bobLostAt ≠ none ∨ ((s.ch c).mem.degraded = false ∧ (s.ch c).headHere x = true) →
        (u.ch c).mod = (s.ch c).mod ∧ (u.ch c).seq.playing = true ∧ (u.ch c).seq.late = false ∧ (u.ch c).seq.wp = x.wp ∧
        (u.ch c).seq.done = x.done ∧ (u.ch c).seq.kind = x.kind ∧ (u.ch c).seq.decided = false ∧ (u.ch c).seq.succ = none ∧
        (u.ch c).ana = (s.ch c).ana) ∧
      (x.routeEnd = false → (s.ch c).seq.holdNext = none → (s.ch c).mem.bobLostAt = none →
        (s.ch c).seq.kind ≠ .wayside → (s.ch c).headHere x = false →
        ((s.ch c).seq.underrun ≠ 2 ∨ (s.ch c).headHere x.wayside = false →
          (u.ch c).mod = (s.ch c).mod ∧ (u.ch c).seq.late = true ∧ (u.ch c).seq.wp = x.wp ∧
          bit (u.ch c).seq.events.bits SeqEv.lateFetch = true ∧ (u.ch c).ply.wav = .hold ∧ (u.ch c).ply.cur.after = .late ∧
          ∀ (k : Fin 4) (y : Q16), (u.ch c).passRec.begins.notAfter y = true → (u.ch c).passRec.pastEnd y = true →
            (u.ch c).markerAt k (y + ((u.ch c).cal.skew (6 + k.val) + sfld (u.ch c).ply.lMkDelay[k] 0 16) * 65536) = false) ∧
        ((s.ch c).seq.underrun = 2 → (s.ch c).headHere x.wayside = true →
          (u.ch c).mod = (s.ch c).mod ∧ (u.ch c).seq.late = false ∧ (u.ch c).seq.playing = true ∧ (u.ch c).seq.kind = .wayside ∧
          (u.ch c).seq.lateSucc = some x ∧ bit (u.ch c).seq.events.bits SeqEv.lateFetch = true))

/-- R416: the head that a late pass waited for is there: the pass starts, and its channel is no longer late; while the head is not
there the pass waits on. -/
def Clause.LateHead : Prop :=
  ∀ (t : Tbu) (c : ChanId) (s : State) (x : Succ), (s.ch c).latches = true → (s.ch c).seq.late = true →
    (s.ch c).seq.succ = some x →
    ((s.ch c).headHere x = false → exec (.lateHeadArrival t c) s = .next (s.atTime t)) ∧
    ((s.ch c).headHere x = true → ∃ u, exec (.lateHeadArrival t c) s = .next u ∧ s.sameCreels u ∧ (∀ d : ChanId, d ≠ c → u.ch d = s.ch d) ∧
      u = { s.atTime t with hp := u.hp, chans := u.chans } ∧ (u.ch c).mod = (s.ch c).mod ∧
      (u.ch c).seq.late = false ∧ (u.ch c).seq.wp = x.wp ∧ (u.ch c).seq.done = x.done ∧ (u.ch c).seq.kind = x.kind ∧
      (u.ch c).seq.succ = none ∧ (u.ch c).seq.routeCfg = (s.ch c).seq.routeCfg)

/-- The successor's pass begins at the boundary, or when its late head arrives. -/
def Obligations.BoundaryAndLateHead : Prop := Clause.PassBoundary ∧ Clause.LateHead

/-- R162: a member that has voted decides: when every channel of its mask agrees within 12 ns the group commits, and a start with
GCOND = 0 is placed at SEQ_START_POS; when one does not by the end of the 12 ns, the group releases, naming those channels, and the
start is withdrawn. While a vote is missing and the 12 ns are not over nothing happens. -/
def Obligations.GroupDecide : Prop :=
  ∀ (t : Tbu) (c : ChanId) (s : State) (v : Vote), (s.ch c).seq.vote = some v → (s.ch c).seq.grpOutcome = 2 → v.commit = true →
    ((∀ n : ChanId, bit v.mask n.val = true → s.agrees v n = true) →
      ∃ u, exec (.groupDecide t c) s = .next u ∧ s.onlyChannel c u ∧ bit (u.ch c).seq.events.bits SeqEv.grpDone = true ∧
        u.ch c = { s.ch c with trk := (u.ch c).trk, seq := (u.ch c).seq } ∧ (u.ch c).seq.grpOutcome = 3 ∧
        ((s.ch c).seq.gcond = false → (s.ch c).mod.startPend = true →
          (u.ch c).seq.placed = some (s.ch c).seq.lStartPos ∧ (u.ch c).trk.isPending .start = true)) ∧
    (∀ n : ChanId, bit v.mask n.val = true → s.agrees v n = false →
      (v.at' + 12 * ns ≤ max s.now t →
        ∃ u, exec (.groupDecide t c) s = .next u ∧ s.onlyChannel c u ∧ bit (u.ch c).seq.events.bits SeqEv.grpDone = true ∧
          u.ch c = { s.ch c with mod := (u.ch c).mod, tlh := (u.ch c).tlh, trk := (u.ch c).trk, seq := (u.ch c).seq } ∧
          (u.ch c).seq.grpOutcome = 4 ∧ (u.ch c).seq.grpReason = 0x33 ∧ bit (u.ch c).seq.grpReleasedBy n.val = true ∧
          (u.ch c).mod.startPend = false ∧ (u.ch c).seq.placed = none ∧ (u.ch c).tlh.pinned = false) ∧
      (max s.now t < v.at' + 12 * ns → exec (.groupDecide t c) s = .next (s.atTime t)))

/-! ### Playback -/

/-- R180: a pace-locked path that reaches a knot not yet committed freezes: WAV holds, or, with PACE stopped under STOP = 1, is 0
with the markers low; only the path and the fabric of the channel change. What WAV drove until a change to 0 may flag SATURATE, and
a frozen zero ends the gap that R477 times. -/
def Clause.Freeze : Prop :=
  ∀ (t : Tbu) (c : ChanId) (s : State), (s.ch c).freezeDue (max s.now t) = true →
    ∃ u, exec (.freeze t c) s = .next u ∧ s.onlyChannel c u ∧
      u.ch c = { s.ch c with jnc := (u.ch c).jnc, ply := { (s.ch c).ply with
        frozen := true, events := (u.ch c).ply.events, outAt := (u.ch c).ply.outAt, wav := (u.ch c).ply.wav
        markers := (u.ch c).ply.markers, gapBob := (u.ch c).ply.gapBob, gapClk := (u.ch c).ply.gapClk } } ∧
      bit (u.ch c).ply.events.bits PlyEv.freeze = true ∧
      (∀ k : Nat, k ≠ PlyEv.freeze → k ≠ PlyEv.saturate →
        bit (u.ch c).ply.events.bits k = bit (s.ch c).ply.events.bits k) ∧
      (¬((s.ch c).trk.state = .stopped ∧ (s.ch c).ply.stopZero = true) →
        (u.ch c).ply.events = evSet (s.ch c).ply.events PlyEv.freeze ∧ (u.ch c).ply.outAt = (s.ch c).ply.outAt ∧
        (u.ch c).ply.gapBob = (s.ch c).ply.gapBob ∧ (u.ch c).ply.gapClk = (s.ch c).ply.gapClk) ∧
      (u.ch c).ply.wav = (if (s.ch c).trk.state = .stopped ∧ (s.ch c).ply.stopZero = true then .zero else .hold) ∧
      (u.ch c).ply.markers =
        (if (s.ch c).trk.state = .stopped ∧ (s.ch c).ply.stopZero = true then Vector.replicate 4 .low else (s.ch c).ply.markers)

/-- R190: READ brings a hop entry into PLY_HOP_W0 and W1; WRITE stores the entry as a whole, or is refused with RANGE for a
reserved bit; APPLY prepares a host hop no sooner than 40 ns on, is refused with RANGE for OP 0 and with HOP_PEND while a
waypoint hop waits. Nothing else changes (the free value of log entry 2 apart). -/
def Clause.HopCommands : Prop :=
  ∀ (t : Tbu) (c : ChanId) (s : State), s.windowUp = true →
    exec (.hopRead t c) s = .next ((s.atTime t).modCh c fun x => { x with ply := { x.ply with
      hopW0 := sget 0 x.ply.table (2 * (fld x.ply.hopIdx 0 8)), hopW1 := sget 0 x.ply.table (2 * (fld x.ply.hopIdx 0 8) + 1)
      hopResult := 0 } }) ∧
    (fld (s.ch c).ply.hopW0 49 15 ≠ 0 ∨ fld (s.ch c).ply.hopW1 32 32 ≠ 0 →
      exec (.hopWrite t c) s = .next ((s.atTime t).modCh c fun x => { x with ply := { x.ply with hopResult := 0x02 } })) ∧
    (fld (s.ch c).ply.hopW0 49 15 = 0 → fld (s.ch c).ply.hopW1 32 32 = 0 →
      ∃ u, exec (.hopWrite t c) s = .next u ∧
        u = { s.atTime t with freeCtr := u.freeCtr, chans := u.chans } ∧ (∀ d : ChanId, d ≠ c → u.ch d = s.ch d) ∧
        u.ch c = { s.ch c with ply := { (s.ch c).ply with
          hopResult := 0, hops := (u.ch c).ply.hops
          table := sput 0 (sput 0 (s.ch c).ply.table (2 * (fld (s.ch c).ply.hopIdx 0 8)) (s.ch c).ply.hopW0)
            (2 * (fld (s.ch c).ply.hopIdx 0 8) + 1) (s.ch c).ply.hopW1 } } ∧
        (∀ h ∈ (s.ch c).ply.hops, h.idx.toNat ≠ fld (s.ch c).ply.hopIdx 0 8 ∨ h.readAt < (s.atTime t).cycle →
          h ∈ (u.ch c).ply.hops)) ∧
    exec (.hopApply t c 0) s = .next ((s.atTime t).modCh c fun x => { x with ply := { x.ply with hopResult := 0x02 } }) ∧
    ∀ op : BitVec 3, 1 ≤ op.toNat → op.toNat < 4 →
      ((∃ h ∈ (s.ch c).ply.hops, h.host = false) →
        exec (.hopApply t c op) s = .next ((s.atTime t).modCh c fun x => { x with ply := { x.ply with hopResult := 0x03 } })) ∧
      ((∀ h ∈ (s.ch c).ply.hops, h.host = true) →
        ∃ (u : State) (h : PendHop), exec (.hopApply t c op) s = .next u ∧ s.onlyChannel c u ∧
          u.ch c = { s.ch c with ply := { (s.ch c).ply with hopResult := 0, hops := (s.ch c).ply.hops ++ [h] } } ∧
          h.host = true ∧ h.op = op ∧ h.begun = true ∧ h.due = q16 (max s.now t + 20480))

/-- R188, R189: the first prepared hop whose switch sample has come switches: its parts take effect on the frequency word and the
phase, it leaves the list, and PLY_LAST_HOP keeps the instant. What WAV drove before it may flag SATURATE. -/
def Clause.HopSwitch : Prop :=
  ∀ (t : Tbu) (c : ChanId) (s : State) (h : PendHop) (tInt x : Int),
    (s.ch c).hopDue s.trk.epoch (max s.now t) = some (h, tInt, x) →
    ∃ u, exec (.hopSwitch t c) s = .next u ∧ s.onlyChannel c u ∧
      u.ch c = { s.ch c with jnc := (u.ch c).jnc, ply := { (s.ch c).ply with
        ftw := if bit h.op 0 then BitVec.ofNat 48 h.w0.toNat else (s.ch c).ply.ftw
        phi := if bit h.op 1 then (if bit h.w0 48 then (s.ch c).ply.phi + BitVec.ofNat 32 h.w1.toNat else BitVec.ofNat 32 h.w1.toNat)
          else (s.ch c).ply.phi
        hops := (s.ch c).ply.hops.erase h, lastHop := BitVec.ofInt 64 tInt, outAt := (u.ch c).ply.outAt
        events := (u.ch c).ply.events } } ∧
      bit (u.ch c).ply.events.bits (if h.host then PlyEv.hostHop else PlyEv.hop) = true ∧
      ∀ k : Nat, k ≠ (if h.host then PlyEv.hostHop else PlyEv.hop) → k ≠ PlyEv.saturate →
        bit (u.ch c).ply.events.bits k = bit (s.ch c).ply.events.bits k

/-- A pace-locked path freezes; hops are read, written, prepared and switched. -/
def Obligations.FreezeAndHops : Prop := Clause.Freeze ∧ Clause.HopCommands ∧ Clause.HopSwitch

/-! ### The Distaff -/

/-- R226, R228: a GO that the Distaff waits for, with START_SRC 2 in RUN and a clean check, starts a run: frame 0 comes next, at an
integer position, from the reloaded state, and STARTED is flagged; any other GO is ignored, one that meets another START_SRC by log
entry 24 (DEDUCED). A STOP, once the lanes have come to its cycle, halts a run with code 4: no frame follows those due in its cycle.
Where the run starts in it there is none at all: frames issued in it already are taken back, and the microcode stands where it
starts. A Distaff that idles notes the cycle of a STOP, which wins over a start of that cycle (log entry 83, DESIGN CHOICE). -/
def Clause.DistaffGoAndStop : Prop :=
  ∀ (t : Tbu) (c : ChanId) (s : State), s.windowUp = true →
    ((s.ch c).dst.state = .waiting → (s.ch c).mod.state = .run → (s.ch c).dst.latched.startSrc = 2 → (s.ch c).dstCheck = 0 →
      (s.ch c).dst.stopCycle ≠ some (s.atTime t).cycle →
      ∃ u, exec (.go t c) s = .next u ∧ s.onlyChannel c u ∧
        u.ch c = { s.ch c with dst := { (s.ch c).dst with
          state := .running, check := 0, runPos := (s.ch c).trk.nextFree, frame := 0, frames := 0, fresh := true, issued := []
          driven := [], plan := [], startCycle := some (s.atTime t).cycle, pcBefore := (s.ch c).dst.pcIssued, lowFrom := none
          core := (s.ch c).dst.latched.initCore, laneCut := (u.ch c).dst.laneCut, shortCut := (u.ch c).dst.shortCut
          events := (u.ch c).dst.events } } ∧
        bit (u.ch c).dst.events.bits DstEv.started = true) ∧
    (¬((s.ch c).dst.state = .waiting ∧ (s.ch c).mod.state = .run ∧ (s.ch c).dst.latched.startSrc = 2) →
      exec (.go t c) s = .next ((s.atTime t).modCh c fun x => { x with dst := { x.dst with
        events := evSet x.dst.events DstEv.ignored } })) ∧
    ∀ y : Chan, y = (s.ch c).dstTo (q16 ((s.atTime t).cycle * 1024)) →
      (y.dst.state = .waiting ∨ y.dst.state = .running ∨ y.dst.state = .paused →
        (y.dst.startCycle ≠ some (s.atTime t).cycle →
          exec (.dstStop t c) s = .next ((s.atTime t).setCh c { y with dst := { y.dst with
            state := .halted, haltCode := 0x04, stopCycle := some (s.atTime t).cycle
            plan := y.dst.plan.takeWhile fun x => decide (x < issueEnd (s.atTime t).cycle)
            events := evSet y.dst.events DstEv.halted } })) ∧
        (y.dst.startCycle = some (s.atTime t).cycle →
          exec (.dstStop t c) s = .next ((s.atTime t).setCh c { y with dst := { y.dst with
            state := .halted, haltCode := 0x04, stopCycle := some (s.atTime t).cycle, issued := [], plan := [], frame := 0
            fresh := true, core := y.dst.latched.initCore, pcIssued := y.dst.pcBefore
            events := evSet y.dst.events DstEv.halted } }))) ∧
      (y.dst.state = .idle →
        exec (.dstStop t c) s = .next ((s.atTime t).setCh c { y with dst := { y.dst with stopCycle := some (s.atTime t).cycle } })) ∧
      (y.dst.state = .halted ∨ y.dst.state = .refused → exec (.dstStop t c) s = .next ((s.atTime t).setCh c y)) ∧
      (lanesQuiet (s.ch c) → y.dst.state = (s.ch c).dst.state)

/-- What the instruction `ins` does to the microcode's core `k`, the flow apart (R210 to R214, R217, R219, R223): `hit` says that its
condition holds, and the generators stand in a HALT and in a WAIT that does not find its condition. -/
def coreWorked (k : DstCore) (im : ChImage) (l : DstSet) (ins : Word) (hit : Bool) (cyc : Nat) : DstCore :=
  ({ (if fld ins 60 4 = 7 then (if hit then k.withGens (genStep l k ins) else k)
      else if fld ins 60 4 = 9 then k else k.withGens (genStep l k ins)) with
    dreg := (emitFrame im l k ins).2 }.consume ins hit cyc).vecStep im l (bit ins 13)

/-- R217, R227: once the lanes have come to the cycle, a frame that may be issued is issued from the instruction at PC, with the sources
that the core holds. It joins the frames on their way to the lanes. NEXT goes on, JUMP jumps; LOOP jumps while its counter has not
run out, and reloads it where it has; JIF and JNIF test the condition; CALL stacks the return, up to four, and RET goes to it; WAIT and
UNTIL stay until the condition holds. HALT, a CALL over a full stack and a RET from an empty one halt the Distaff after their frame,
with codes 1, 2 and 3 (`LaneFrames` says when): at its issue the state stays. -/
def Clause.FrameFlow : Prop :=
  ∀ (t : Tbu) (c : ChanId) (ready : Bool) (s : State) (y : Chan) (k : DstCore) (ins : Word) (hit : Bool) (w : DstCore),
    y = (s.ch c).dstTo (q16 ((s.atTime t).cycle * 1024)) → y.frameReady (s.atTime t).cycle = true → k = y.dst.core →
    ins = (s.ch c).skn.image.mcode k.pc.toNat →
    hit = condHolds ins (genStep y.dst.latched k ins) (k.vend (s.ch c).skn.image y.dst.latched) k (s.atTime t).cycle →
    w = coreWorked k (s.ch c).skn.image y.dst.latched ins hit (s.atTime t).cycle →
    ∃ u i, exec (.frameIssue t c ready) s = .next u ∧ (u.ch c).dst.issued = y.dst.issued ++ [i] ∧
      (u.ch c).dst = { y.dst with
        core := (u.ch c).dst.core, pcIssued := k.pc, frame := y.dst.frame + 1, plan := y.dst.plan.tail, fresh := false
        under := (u.ch c).dst.under, issued := (u.ch c).dst.issued, events := (u.ch c).dst.events } ∧
      i.index = y.dst.frame ∧ i.core = k ∧ i.fresh = y.dst.fresh ∧ i.begun = false ∧ i.lost = false ∧ i.cfg = none ∧
      i.frame = (emitFrame (s.ch c).skn.image y.dst.latched k ins).1 ∧
      (fld ins 60 4 = 0 → (u.ch c).dst.core = { w with pc := k.pc + 1 } ∧ i.halt = none) ∧
      (fld ins 60 4 = 1 → (u.ch c).dst.core = { w with pc := BitVec.ofNat 12 (fld ins 48 12) } ∧ i.halt = none) ∧
      (∀ n : Fin 4, fld ins 60 4 = 2 → fld ins 46 2 = n.val → i.halt = none ∧
        (k.cnt[n] ≠ 1 → (u.ch c).dst.core = { w with pc := BitVec.ofNat 12 (fld ins 48 12), cnt := vput w.cnt n (k.cnt[n] - 1) }) ∧
        (k.cnt[n] = 1 → (u.ch c).dst.core = { w with pc := k.pc + 1, cnt := vput w.cnt n (y.dst.latched.preset n) })) ∧
      (fld ins 60 4 = 3 → i.halt = none ∧
        (u.ch c).dst.core = { w with pc := if hit then BitVec.ofNat 12 (fld ins 48 12) else k.pc + 1 }) ∧
      (fld ins 60 4 = 4 → i.halt = none ∧
        (u.ch c).dst.core = { w with pc := if hit then k.pc + 1 else BitVec.ofNat 12 (fld ins 48 12) }) ∧
      (fld ins 60 4 = 5 → k.stack.length < 4 → i.halt = none ∧
        (u.ch c).dst.core = { w with pc := BitVec.ofNat 12 (fld ins 48 12), stack := (k.pc + 1) :: k.stack }) ∧
      (fld ins 60 4 = 5 → 4 ≤ k.stack.length → i.halt = some 0x02 ∧ (u.ch c).dst.core = w) ∧
      (∀ p r, fld ins 60 4 = 6 → k.stack = p :: r → i.halt = none ∧ (u.ch c).dst.core = { w with pc := p, stack := r }) ∧
      (fld ins 60 4 = 6 → k.stack = [] → i.halt = some 0x03 ∧ (u.ch c).dst.core = w) ∧
      (fld ins 60 4 = 7 ∨ fld ins 60 4 = 8 → i.halt = none ∧
        (u.ch c).dst.core = { w with pc := if hit then k.pc + 1 else k.pc }) ∧
      (fld ins 60 4 = 9 → i.halt = some 0x01 ∧ (u.ch c).dst.core = w)

/-- R225, R234, R351: what a frame that is issued carries: its events, which come with its first beat, and the beats that its streams
have for the memory-sourced lanes. Where the stream data are late those lanes are low and it underruns. A vector read from a line
at or above PIN sets VEC_CACHE. Only the Distaff, the creel reads of a degraded channel, that flag and the fabric of the channel
change. A cycle in which no frame is ready brings the lanes to it, and nothing else. -/
def Clause.FrameData : Prop :=
  ∀ (t : Tbu) (c : ChanId) (ready : Bool) (s : State) (y : Chan), y = (s.ch c).dstTo (q16 ((s.atTime t).cycle * 1024)) →
    (y.frameReady (s.atTime t).cycle = false → exec (.frameIssue t c ready) s = .next ((s.atTime t).setCh c y)) ∧
    (y.frameReady (s.atTime t).cycle = true →
      ∃ u i, exec (.frameIssue t c ready) s = .next u ∧ s.onlyChannel c u ∧
        u.ch c = { s.ch c with
          dst := (u.ch c).dst, jnc := y.jnc
          mem := { (s.ch c).mem with events := (u.ch c).mem.events, reqs := (u.ch c).mem.reqs } } ∧
        ((s.ch c).mem.degraded = false → (u.ch c).mem.reqs = (s.ch c).mem.reqs) ∧
        (u.ch c).dst.issued = y.dst.issued ++ [i] ∧ i.memBeats = (if y.vecLate ready then 0 else y.dst.vecCount) ∧
        i.vec = (if y.vecLate ready then [] else y.vecFrame) ∧
        i.short = (y.vecLate ready && (s.ch c).mem.bobLostAt.isSome) ∧ (Prod.frame0 ∈ i.evs ↔ y.dst.fresh = true) ∧
        (Prod.ev0 ∈ i.evs ↔ bit ((s.ch c).skn.image.mcode y.dst.core.pc.toNat) 14 = true) ∧
        (Prod.ev1 ∈ i.evs ↔ bit ((s.ch c).skn.image.mcode y.dst.core.pc.toNat) 15 = true) ∧
        (Prod.vecEnd ∈ i.evs ↔ y.dst.core.vend (s.ch c).skn.image y.dst.latched = true) ∧
        (Prod.vecUnder ∈ i.evs ↔ y.vecLate ready = true) ∧
        ((s.ch c).skn.image.memLanes ≠ [] → y.dst.core.vecEnded = false → y.vecStore = true → ready = false → y.vecShort = true →
          (u.ch c).dst.under = satInc y.dst.under ∧ bit (u.ch c).dst.events.bits DstEv.vecUnder = true ∧
          (u.ch c).mem.events = (s.ch c).mem.events) ∧
        (y.vecStore = false → (u.ch c).dst.under = y.dst.under) ∧
        (y.vecInCache = true → y.vecLate ready = false → bit (u.ch c).mem.events.bits MemEv.vecCache = true))

/-- A Distaff frame is issued from the instruction at PC, whatever its flow, with its data and its events. -/
def Obligations.FrameIssue : Prop := Clause.FrameFlow ∧ Clause.FrameData

/-- R9, R201, R217, R220, R229, R232, R234: whatever needs the lanes at an instant brings them to the end of the fabric cycle before
it, then to the instant, so that an event of an earlier cycle is none of this one's. In each of the two the lane clock drives beat
`cur` and `ended` beats are over. A frame whose first beat has not come is as it was. One that is being driven is lost while the lane
synthesizer gates its output. One whose beats are over counts as driven, or, with LANE_GAP, as lost where a beat fell in a gap; the
two counts so taken are log entry 58 (DEDUCED). A running Distaff enters HALTED after the last beat of the frame that halts it, and at
the boundary of a hold it pauses in the state before the first frame not driven in full. -/
def Clause.LaneFrames : Prop :=
  (∀ (y z : Chan) (x : Q16), z = y.dstReach (cycleBegin x - 1) →
    y.dstTo x = ({ z with dst := { z.dst with events := { y.dst.events with bits := z.dst.events.bits } } } : Chan).dstReach x) ∧
  ∀ (y : Chan) (x b : Q16) (i : Issued) (cur ended : Int), y.dst.issued = [i] →
    (y.dst.pauseAt = none ∧ y.laneBeatAt x = some (cur, ended) →
      (cur < ((i.index * y.dst.latched.fb : Nat) : Int) → i.begun = false →
        y.dstReach x = { y with dst := { y.dst with driven := y.dst.driven.take drivenKept } }) ∧
      (((i.index * y.dst.latched.fb : Nat) : Int) ≤ cur →
        (((i.index * y.dst.latched.fb + y.dst.latched.fb : Nat) : Int) ≤ ended → (y.dstReach x).dst.issued = [] ∧
          (i.lost = false → y.laneGate = true →
            (y.dstReach x).dst.frames = y.dst.frames + 1 ∧ (y.dstReach x).dst.lostGap = y.dst.lostGap ∧
            bit (y.dstReach x).dst.events.bits DstEv.laneGap = bit y.dst.events.bits DstEv.laneGap) ∧
          (i.lost = true ∨ y.laneGate = false →
            (y.dstReach x).dst.frames = y.dst.frames ∧ (y.dstReach x).dst.lostGap = satInc y.dst.lostGap ∧
            bit (y.dstReach x).dst.events.bits DstEv.laneGap = true) ∧
          (i.halt = none → (y.dstReach x).dst.state = y.dst.state ∧ (y.dstReach x).dst.haltCode = y.dst.haltCode) ∧
          ∀ code, i.halt = some code →
            (y.dst.state = .running → (y.dstReach x).dst.state = .halted ∧ (y.dstReach x).dst.haltCode = code ∧
              bit (y.dstReach x).dst.events.bits DstEv.halted = true) ∧
            (y.dst.state ≠ .running → (y.dstReach x).dst.state = y.dst.state ∧ (y.dstReach x).dst.haltCode = y.dst.haltCode)) ∧
        (ended < ((i.index * y.dst.latched.fb + y.dst.latched.fb : Nat) : Int) →
          (y.dstReach x).dst.state = y.dst.state ∧ (y.dstReach x).dst.frames = y.dst.frames ∧ (y.dstReach x).dst.lostGap = y.dst.lostGap ∧
          (y.dstReach x).dst.issued =
            [{ i with begun := true, cfg := some (i.cfg.getD y.dst.laneCfg), lost := i.lost || !y.laneGate }]))) ∧
    (y.dst.pauseAt = some b ∧ b ≤ x ∧ y.laneBeatAt b = some (cur, ended) ∧ y.dst.state = .running ∧ i.begun = false ∧
        ended < ((i.index * y.dst.latched.fb + y.dst.latched.fb : Nat) : Int) →
      (y.dstReach x).dst.state = .paused ∧ (y.dstReach x).dst.issued = [] ∧ (y.dstReach x).dst.plan = [] ∧
      (y.dstReach x).dst.pauseAt = none ∧ (y.dstReach x).dst.core = i.core ∧ (y.dstReach x).dst.frame = i.index ∧
      (y.dstReach x).dst.fresh = (i.fresh && decide (cur < ((i.index * y.dst.latched.fb : Nat) : Int))))

/-- R236, R470: an interval of the lane deskew loop with at least 64 transitions, three quarters of them early or late, moves the
lane by one step, where its last step lies 1 µs back or more; at 256 steps the lane stops and TRACK_LIMIT is flagged. Only that lane's
offset changes. Which way an early majority moves it is the model's (log entry 9, DEDUCED). -/
def Clause.LaneDeskew : Prop :=
  ∀ (t : Tbu) (c : ChanId) (lane : Fin 24) (early late : Nat) (s : State),
    (∀ free : Bool, free = ((s.ch c).dst.trackAt[lane].all fun a => decide (a + us ≤ max s.now t)) →
      bit (s.ch c).cal.loopCfg 0 = true → (s.ch c).mod.state = .run → bit ((s.ch c).dst.laneCfg[lane]) 0 = true →
      bit (s.ch c).dst.trackStop lane.val = false → 64 ≤ early + late →
      ∃ u, exec (.laneDeskewInterval t c lane early late) s = .next u ∧ s.onlyChannel c u ∧
        u.ch c = { s.ch c with dst := { (s.ch c).dst with
          laneTrack := (u.ch c).dst.laneTrack, trackStop := (u.ch c).dst.trackStop, trackAt := (u.ch c).dst.trackAt
          events := (u.ch c).dst.events } } ∧
        (∀ l : Fin 24, l ≠ lane → (u.ch c).dst.laneTrack[l] = (s.ch c).dst.laneTrack[l] ∧
          (u.ch c).dst.trackAt[l] = (s.ch c).dst.trackAt[l]) ∧
        (u.ch c).dst.laneTrack[lane] = (s.ch c).dst.laneTrack[lane] +
          (if free = false then 0 else if 3 * (early + late) ≤ 4 * early then 1
            else if 3 * (early + late) ≤ 4 * late then -1 else 0) ∧
        (free = true → 3 * (early + late) ≤ 4 * early ∨ 3 * (early + late) ≤ 4 * late →
          (u.ch c).dst.trackAt[lane] = some (max s.now t)) ∧
        (256 ≤ ((u.ch c).dst.laneTrack[lane]).natAbs →
          bit (u.ch c).dst.trackStop lane.val = true ∧ bit (u.ch c).dst.events.bits DstEv.trackLimit = true)) ∧
    (bit (s.ch c).cal.loopCfg 0 = false ∨ (s.ch c).mod.state ≠ .run ∨ early + late < 64 →
      exec (.laneDeskewInterval t c lane early late) s = .next (s.atTime t))

/-- The Distaff's GO and STOP, the frames on their way to the lanes, and the lane deskew loop. -/
def Obligations.DistaffAndDeskew : Prop := Clause.DistaffGoAndStop ∧ Clause.LaneFrames ∧ Clause.LaneDeskew

/-! ### Analog outputs -/

/-- R241, R242, R243, R97: a RANGE write of a CONFIGURED channel in REST, ARMED, RUN or HELD starts the sequence; while one runs, or in
TRIM and DRAIN, it is stored, and follows when that one is complete, or on entry to REST (`DrainComplete`). From 2 µs the new range is
in force, and from 5 µs the sequence is complete; a RANGE stored meanwhile, but not one that waits for REST, starts its own in the next
fabric cycle. A write of a locked RANGE that would change it is discarded, as is one of the same RANGE. -/
def Clause.RangeChange : Prop :=
  (∀ (t : Tbu) (c : ChanId) (v : Word) (s : State), s.windowUp = true →
    (fld v 0 2 ≠ fld (s.ch c).ana.wavCfg 0 2 → (s.ch c).configured = true → bit (s.ch c).skn.locks 0 = false →
      (s.ch c).mod.state ∈ [ChState.rest, .armed, .run, .held] →
      ((s.ch c).ana.rangeAt = none →
        exec (.rangeWrite t c v) s = .next ((s.atTime t).modCh c fun x => { x with ana := { x.ana with
          wavCfg := v &&& 3, rangeAt := some (max s.now t), rangeHeld := false
          rangeTo := if fld v 0 2 = 3 then 0 else BitVec.ofNat 2 (fld v 0 2) } })) ∧
      ((s.ch c).ana.rangeAt.isSome = true →
        exec (.rangeWrite t c v) s = .next ((s.atTime t).modCh c fun x => { x with ana := { x.ana with
          wavCfg := v &&& 3, rangeHeld := false } }))) ∧
    (fld v 0 2 ≠ fld (s.ch c).ana.wavCfg 0 2 → (s.ch c).configured = true → bit (s.ch c).skn.locks 0 = false →
      (s.ch c).mod.state = .trim ∨ (s.ch c).mod.state = .drain →
      exec (.rangeWrite t c v) s = .next ((s.atTime t).modCh c fun x => { x with ana := { x.ana with
        wavCfg := v &&& 3, rangeHeld := true } })) ∧
    (fld v 0 2 ≠ fld (s.ch c).ana.wavCfg 0 2 → (s.ch c).configured = true → bit (s.ch c).skn.locks 0 = true →
      exec (.rangeWrite t c v) s = .next (s.atTime t)) ∧
    (fld v 0 2 = fld (s.ch c).ana.wavCfg 0 2 → exec (.rangeWrite t c v) s = .next (s.atTime t))) ∧
  (∀ (t : Tbu) (c : ChanId) (s : State) (a : Tbu), (s.ch c).ana.rangeAt = some a →
    (a + 2 * us ≤ max s.now t → exec (.rangeSwitch t c) s = .next ((s.atTime t).modCh c fun x => { x with ana := { x.ana with
      rangeNow := x.ana.rangeTo } })) ∧
    (max s.now t < a + 2 * us → exec (.rangeSwitch t c) s = .next (s.atTime t))) ∧
  ∀ (t : Tbu) (c : ChanId) (s : State) (a : Tbu), (s.ch c).ana.rangeAt = some a → a + 5 * us ≤ max s.now t →
    (rangeOf (s.ch c).ana.wavCfg = (s.ch c).ana.rangeTo ∨ (s.ch c).ana.rangeHeld = true →
      ∃ u, exec (.rangeDone t c) s = .next u ∧ s.onlyChannel c u ∧
        u.ch c = { s.ch c with jnc := (u.ch c).jnc, ana := { (s.ch c).ana with
          rangeAt := none, rangeNow := (s.ch c).ana.rangeTo, settledWav := max s.now t
          events := evSet (s.ch c).ana.events AnaEv.rangeDone } }) ∧
    (rangeOf (s.ch c).ana.wavCfg ≠ (s.ch c).ana.rangeTo → (s.ch c).ana.rangeHeld = false → (s.ch c).configured = true →
      ∃ u, exec (.rangeDone t c) s = .next u ∧ s.onlyChannel c u ∧
        u.ch c = { s.ch c with jnc := (u.ch c).jnc, ana := { (s.ch c).ana with
          rangeAt := some (max s.now t + 1024), rangeTo := rangeOf (s.ch c).ana.wavCfg, rangeNow := (s.ch c).ana.rangeTo
          settledWav := max s.now t, events := evSet (s.ch c).ana.events AnaEv.rangeDone } })

/-- R251, R252, R253, R255: a strobe that the selected source names is taken, two cycles before its transfer, in REST, ARMED, RUN or
HELD; one of another source is ignored and counted. A scheduled strobe is armed at a position in the future and discarded with
STB_LATE at any other, and can be cancelled, as it is by a write that changes SRC. -/
def Clause.Strobes : Prop :=
  ∀ (t : Tbu) (c : ChanId) (s : State), s.windowUp = true →
    ((s.ch c).ana.src ≠ 0 →
      exec (.strobe t c) s = .next ((s.atTime t).modCh c fun x => { x with ana := { x.ana with
        ignored := satInc x.ana.ignored, events := evSet x.ana.events AnaEv.stbIgnored } })) ∧
    ((s.ch c).ana.src = 0 → (s.ch c).rangeState = true → (s.ch c).ana.disableAt = none → (s.ch c).ana.deferAt = none →
      (s.ch c).ana.strobeAt = none → (s.ch c).ana.lastTransfer = none →
      exec (.strobe t c) s = .next ((s.atTime t).modCh c fun x => { x with ana := { x.ana with
        strobeAt := some ((s.atTime t).cycle + 2) } })) ∧
    ((s.ch c).trk.future (max s.now t) (s.ch c).ana.stbPos = true →
      ∃ u, exec (.sched t c) s = .next u ∧ s.onlyChannel c u ∧
        u.ch c = { s.ch c with
          ana := { (s.ch c).ana with sched := true }
          trk := { (s.ch c).trk with pending := (u.ch c).trk.pending, committed := (u.ch c).trk.committed } } ∧
        { kind := .strobe, pos := (s.ch c).ana.stbPos } ∈ (u.ch c).trk.pending ∧
        ∀ p ∈ (u.ch c).trk.pending, p.kind = .strobe → p.pos = (s.ch c).ana.stbPos) ∧
    ((s.ch c).trk.future (max s.now t) (s.ch c).ana.stbPos = false →
      ∃ u, exec (.sched t c) s = .next u ∧ s.onlyChannel c u ∧ (u.ch c).ana = { (s.ch c).ana with
        sched := false, events := evSet (s.ch c).ana.events AnaEv.stbLate } ∧ (u.ch c).trk.isPending .strobe = false) ∧
    (∀ v : Word, s.portUp = true → s.hp.busy = false → s.hp.reqs = [] → (s.ch c).locked 2 = false →
      fld v 0 2 ≠ fld (s.ch c).ana.stbCfg 0 2 →
      ∃ u, exec (.registerWrite t (regAddr c 3 0x020) v) s = .next u ∧ s.onlyChannel c u ∧
        (u.ch c).ana = { (s.ch c).ana with stbCfg := v &&& 3, sched := false } ∧
        (u.ch c).trk.isPending .strobe = false ∧ (u.ch c).trk.committedOf .strobe = none) ∧
    ∃ u, exec (.unsched t c) s = .next u ∧ s.onlyChannel c u ∧ (u.ch c).ana = { (s.ch c).ana with sched := false } ∧
      (u.ch c).trk.isPending .strobe = false ∧ (u.ch c).trk.committedOf .strobe = none ∧ (u.ch c).trk.n = (s.ch c).trk.n

/-- R253: an edge of LDSTB reaches every channel: those whose source it is take it, in the first fabric cycle that begins at least 4
ns after the edge, two cycles before its transfer; the others ignore and count it; in HOLDUP nothing happens. No channel changes
outside ANA. -/
def Clause.LdstbEdge : Prop :=
  ∀ (t : Tbu) (s : State),
    (s.mod.mode ≠ .holdup →
      ∃ u, exec (.ldstbEdge t) s = .next u ∧ u = { s.atTime t with chans := u.chans } ∧
        ∀ c : ChanId, u.ch c = { s.ch c with ana := (u.ch c).ana } ∧
          ((s.ch c).ana.src ≠ 2 → (u.ch c).ana = { (s.ch c).ana with
            ignored := satInc (s.ch c).ana.ignored, events := evSet (s.ch c).ana.events AnaEv.stbIgnored }) ∧
          ((s.ch c).ana.src = 2 → (s.ch c).rangeState = true → (s.ch c).ana.disableAt = none → (s.ch c).ana.deferAt = none →
            (s.ch c).ana.strobeAt = none → (s.ch c).ana.lastTransfer = none →
            (u.ch c).ana = { (s.ch c).ana with strobeAt := some ((max s.now t + 4 * ns + 1023) / 1024 + 2) })) ∧
    (s.mod.mode = .holdup → exec (.ldstbEdge t) s = .next (s.atTime t))

/-- R248, R250: a transfer whose cycle has come puts the staged codes, clamped to their limits as they stood three cycles before,
into ANA_LVL_NOW, counts it and flags it. While the levels ramp to rest their ramp goes on from those codes instead (R259; log entry
70, DEDUCED). Only ANA and the fabric of the channel change. -/
def Clause.LevelTransfer : Prop :=
  ∀ (t : Tbu) (c : ChanId) (s : State) (n : Nat), (s.ch c).ana.strobeAt = some n → n ≤ (s.atTime t).cycle →
    ∃ u, exec (.levelTransfer t c) s = .next u ∧ s.onlyChannel c u ∧
      u.ch c = { s.ch c with jnc := (u.ch c).jnc, ana := { (s.ch c).ana with
        now := (u.ch c).ana.now, ramp := (u.ch c).ana.ramp
        applied := satInc (s.ch c).ana.applied, strobeAt := none, lastTransfer := some n, settled := max s.now t
        events := (u.ch c).ana.events } } ∧
      bit (u.ch c).ana.events.bits AnaEv.strobe = true ∧
      ((s.ch c).ana.ramp = none → (u.ch c).ana.ramp = none ∧
        (u.ch c).ana.now = clampWord ((s.ch c).ana.stagedAt (n - 3)).1 ((s.ch c).ana.stagedAt (n - 3)).2) ∧
      (∀ r, (s.ch c).ana.ramp = some r → (u.ch c).ana.now = (s.ch c).ana.now ∧
        (u.ch c).ana.ramp = some { r with start := clampWord ((s.ch c).ana.stagedAt (n - 3)).1 ((s.ch c).ana.stagedAt (n - 3)).2 }) ∧
      ∀ k : Fin 4, (s.ch c).ana.ramp = none →
        fld ((s.ch c).ana.stagedAt (n - 3)).2[k] 0 16 ≤ fld ((s.ch c).ana.stagedAt (n - 3)).2[k] 16 16 →
        fld ((s.ch c).ana.stagedAt (n - 3)).2[k] 0 16 ≤ fld (u.ch c).ana.now (16 * k.val) 16 ∧
        fld (u.ch c).ana.now (16 * k.val) 16 ≤ fld ((s.ch c).ana.stagedAt (n - 3)).2[k] 16 16

/-- R249, R100: a limit is stored; LO above HI is discarded with LIM_BAD, and limits outside those of the image, while lock group 1
is locked, change nothing. -/
def Clause.LimitWrite : Prop :=
  ∀ (t : Tbu) (c : ChanId) (k : Fin 4) (v : Word) (s : State), s.windowUp = true →
    ((s.ch c).locked 1 = false → fld v 0 16 ≤ fld v 16 16 →
      ∃ u, exec (.limitWrite t c k v) s = .next u ∧ s.onlyChannel c u ∧
        u.ch c = { s.ch c with ana := { (s.ch c).ana with lim := vput (s.ch c).ana.lim k (v &&& 0xFFFFFFFF), hist := (u.ch c).ana.hist } }) ∧
    ((s.ch c).locked 1 = false → fld v 16 16 < fld v 0 16 →
      exec (.limitWrite t c k v) s = .next ((s.atTime t).modCh c fun x => { x with ana := { x.ana with
        events := evSet x.ana.events AnaEv.limBad } })) ∧
    ((s.ch c).locked 1 = true → fld v 0 16 < (s.ch c).skn.image.limLo k.val ∨ (s.ch c).skn.image.limHi k.val < fld v 16 16 →
      exec (.limitWrite t c k v) s = .next (s.atTime t))

/-- Level strobes from the host, from a position and from LDSTB; the transfer they cause; and the limits it clamps to. -/
def Obligations.LevelsAndStrobes : Prop := Clause.Strobes ∧ Clause.LdstbEdge ∧ Clause.LevelTransfer ∧ Clause.LimitWrite

/-- R257, R259, R240: the switches told to close are closed; a DISABLE sequence ends after 12 µs with every switch open and the levels
at rest, where an ENABLE that waited is executed (its switches stay open while a calibration runs, R239); the clamp engages once the
sample clock has stopped. -/
def Clause.SwitchesAndClamp : Prop :=
  (∀ (t : Tbu) (c : ChanId) (s : State), (s.ch c).ana.closing ≠ 0 →
    ∃ u, exec (.switchesClosed t c) s = .next u ∧ s.onlyChannel c u ∧
      u.ch c = { s.ch c with ana := { (s.ch c).ana with
        sw := (s.ch c).ana.sw ||| (s.ch c).ana.closing, closing := 0, closedAt := (u.ch c).ana.closedAt
        term := (s.ch c).ana.term && !bit (s.ch c).ana.closing 0 } } ∧
      ∀ i : Fin 5, (u.ch c).ana.closedAt[i] = if bit (s.ch c).ana.closing i.val then max s.now t else (s.ch c).ana.closedAt[i]) ∧
  (∀ (t : Tbu) (c : ChanId) (s : State) (a : Tbu), (s.ch c).ana.disableAt = some a →
    (a + 12 * us ≤ max s.now t →
      ∃ u, exec (.disableSequenceEnd t c) s = .next u ∧ s.onlyChannel c u ∧
        u.ch c = { s.ch c with mod := { (s.ch c).mod with outEn := (s.ch c).ana.enPend }, ana := (u.ch c).ana } ∧
        (u.ch c).ana.sw = 0 ∧ (u.ch c).ana.term = true ∧ (u.ch c).ana.disableAt = none ∧ (u.ch c).ana.enPend = false ∧
        (u.ch c).ana.now = (s.ch c).skn.image.restWord ∧
        (u.ch c).ana.closing =
          if (s.ch c).ana.enPend = true ∧ (s.ch c).cal.run = none then BitVec.ofNat 5 (fld (s.ch c).ana.outCfg 0 5) else 0) ∧
    (max s.now t < a + 12 * us → exec (.disableSequenceEnd t c) s = .next (s.atTime t))) ∧
  ∀ (t : Tbu) (c : ChanId) (s : State), (s.ch c).sampleClock = false → (s.ch c).ana.zclamp = false →
    exec (.zeroClamp t c) s = .next ((s.atTime t).modCh c fun x => { x with ana := { x.ana with
      zclamp := true, events := evSet x.ana.events AnaEv.zeroClamp } })

/-- A range change of WAV, the output switches, and the zero clamp. -/
def Obligations.RangeSwitchesClamp : Prop := Clause.RangeChange ∧ Clause.SwitchesAndClamp

/-! ### The monitor and the synthesizers -/

/-- R260 to R264, R482: a reading of an input that is not enabled, out of its turn in the scan (log entry 57) or in TRIM is dropped;
one that is not compared, as with a faulty monitor (that it is written all the same is log entry 47, DEDUCED), is only written; one in
limits clears the
count of its input; the COUNT-th deviating one in a row raises the alarm, and with ACTION = 1 in REST turns the outputs off. A good
check clears the count of bad checks, and the third bad one makes the monitor faulty and is recorded. -/
def Obligations.Monitor : Prop :=
  ∀ (t : Tbu) (c : ChanId) (s : State),
    (∀ (i : Fin 5) (v : BitVec 16),
      (bit (s.ch c).ana.monCfg i.val = false ∨ (s.ch c).ana.monTurn i (max s.now t) = false ∨ (s.ch c).mod.state = .trim →
        exec (.monitorReading t c i v) s = .next (s.atTime t)) ∧
      ((s.ch c).ana.monTurn i (max s.now t) = true → (s.ch c).mod.state ≠ .trim →
        (s.ch c).ana.monFaulty = true ∨ (s.ch c).monCompares i (max s.now t) = false →
        exec (.monitorReading t c i v) s = .next ((s.atTime t).modCh c fun x => { x with ana := { x.ana with
          monLast := some i, monAt := some (max s.now t), monVal := vput x.ana.monVal i (1#1 ++ v) } })) ∧
      ((s.ch c).ana.monTurn i (max s.now t) = true → (s.ch c).monCompares i (max s.now t) = true →
        ((s.ch c).monDeviates i v = false →
          exec (.monitorReading t c i v) s = .next ((s.atTime t).modCh c fun x => { x with ana := { x.ana with
            monLast := some i, monAt := some (max s.now t)
            monVal := vput x.ana.monVal i (1#1 ++ v), monCnt := vput x.ana.monCnt i 0, alarmed := clrBit x.ana.alarmed i.val } })) ∧
        ((s.ch c).monDeviates i v = true → max 1 (fld (s.ch c).ana.monCfg 16 8) ≤ (s.ch c).ana.monCnt[i] + 1 →
          bit (s.ch c).ana.alarmed i.val = false →
          (bit (s.ch c).ana.monCfg 8 = false →
            Answers (exec (.monitorReading t c i v) s) s c fun x => x = { s.ch c with jnc := x.jnc, ana := { (s.ch c).ana with
              monLast := some i, monAt := some (max s.now t)
              monVal := vput (s.ch c).ana.monVal i (1#1 ++ v), monCnt := vput (s.ch c).ana.monCnt i ((s.ch c).ana.monCnt[i] + 1)
              alarmed := setBit (s.ch c).ana.alarmed i.val, monAlarm := evSet (s.ch c).ana.monAlarm i.val
              events := evSet (s.ch c).ana.events AnaEv.alarm } }) ∧
          (bit (s.ch c).ana.monCfg 8 = true → (s.ch c).mod.state = .rest → (s.ch c).mod.outEn = true →
            (s.ch c).ana.disableAt = none →
            Answers (exec (.monitorReading t c i v) s) s c fun x =>
              x = { s.ch c with jnc := x.jnc, ana := x.ana, mod := { (s.ch c).mod with outEn := false } } ∧
              x.ana.disableAt = some (max s.now t) ∧ bit x.ana.monAlarm.bits i.val = true)))) ∧
    ∀ ground ref : BitVec 16, (s.ch c).ana.monFaulty = false →
      (ground.toInt.natAbs ≤ 40 → (ref.toInt - 4000).natAbs ≤ 40 →
        exec (.monitorCheck t c ground ref) s = .next ((s.atTime t).modCh c fun x => { x with ana := { x.ana with monBad := 0 } })) ∧
      (40 < ground.toInt.natAbs ∨ 40 < (ref.toInt - 4000).natAbs →
        ((s.ch c).ana.monBad < 2 →
          exec (.monitorCheck t c ground ref) s = .next ((s.atTime t).modCh c fun x => { x with ana := { x.ana with
            monBad := x.ana.monBad + 1 } })) ∧
        (2 ≤ (s.ch c).ana.monBad → (s.ch c).flt.degraded = false →
          ∃ u, exec (.monitorCheck t c ground ref) s = .next u ∧ u = { s.atTime t with flt := u.flt, chans := u.chans } ∧
            (∀ d : ChanId, d ≠ c → u.ch d = s.ch d) ∧
            u.ch c = { s.ch c with
              ana := { (s.ch c).ana with monBad := (s.ch c).ana.monBad + 1, monFaulty := true }
              flt := ({ (s.ch c).flt with mon := true } : ChFlt).put (s.atTime t).cycle 7 } ∧
            u.flt.log = logged s t { odo := s.trk.odo, info := logInfo (some c) 7 0 0 0 }))

/-- R279, R280, R281, R282: a command that a test refuses only leaves its number and its reason, 1 for a channel that is not
CONFIGURED; one of a pair of which a synthesizer powers down waits with the setting as it stood (R130). PREPARE and HOP tune the idle
synthesizer to the NEXT setting, from a stored band where one hits; SWITCH makes the switch pending, at a position as a scheduled
event; SYN_START tunes a stopped active synthesizer; SYN_REST powers down an idle one that nothing holds; FORGET empties the pair's
tables. What is not named stays as it is. -/
def Obligations.SynthCommands : Prop :=
  ∀ (t : Tbu) (c : ChanId) (lane : Bool) (s : State), s.windowUp = true →
    (∀ p ∈ [(Instr.prepare t c lane, 1, false), (.switch t c lane false, 2, false), (.switch t c lane true, 2, true),
        (.hop t c lane, 3, false), (.synStart t c lane, 4, false), (.synRest t c lane, 5, false), (.forget t c lane, 6, false)],
      ((s.ch c).synTest lane p.2.1 p.2.2 (max s.now t) ≠ 0 →
        exec p.1 s = .next ((s.atTime t).modCh c fun x => x.modPair lane fun q =>
          { q with cmd := BitVec.ofNat 4 p.2.1, result := BitVec.ofNat 8 ((s.ch c).synTest lane p.2.1 p.2.2 (max s.now t)) })) ∧
      ((s.ch c).configured = false → (s.ch c).synTest lane p.2.1 p.2.2 (max s.now t) = 1) ∧
      ((s.ch c).synTest lane p.2.1 p.2.2 (max s.now t) = 0 → (s.ch c).powering lane = true →
        exec p.1 s = .next ((s.atTime t).modCh c fun x => x.modPair lane fun q => { q with
          cmd := BitVec.ofNat 4 p.2.1, result := 0
          queued := q.queued ++ [{ cmd := p.2.1, atPos := p.2.2, setting := (s.ch c).nextSetting lane }] }))) ∧
    ((s.ch c).powering lane = false →
    (∀ p ∈ [(Instr.prepare t c lane, 1, false), (.hop t c lane, 3, true)],
      (s.ch c).synTest lane p.2.1 false (max s.now t) = 0 →
      Answers (exec p.1 s) s c fun x => x = { s.ch c with syn := x.syn, flt := x.flt } ∧
        (∀ i : Fin 4, i ≠ (s.ch c).syn.idle lane → x.synth i = (s.ch c).synth i) ∧
        x.syn.pair (!lane) = (s.ch c).syn.pair (!lane) ∧
        x.syn.pair lane = { (s.ch c).syn.pair lane with
          cmd := BitVec.ofNat 4 p.2.1, result := 0, prepared := false, hopping := p.2.2, covered := (x.syn.pair lane).covered } ∧
        (x.idl lane).setting = (s.ch c).nextSetting lane ∧ (x.idl lane).tune = .prepare ∧ (x.idl lane).lock = false ∧
        (x.idl lane).ceilHolds = 0 ∧ (x.idl lane).paused = !s.refOk c lane ∧
        (∀ e, (s.ch c).lookup ((s.ch c).syn.idle lane) ((s.ch c).nextSetting lane) = some e →
          (x.idl lane).state = .tune ∧ (x.idl lane).band = e.band ∧ (x.idl lane).fast = satInc ((s.ch c).idl lane).fast) ∧
        ((s.ch c).lookup ((s.ch c).syn.idle lane) ((s.ch c).nextSetting lane) = none →
          (x.idl lane).state = .search ∧ (x.idl lane).fresh = satInc ((s.ch c).idl lane).fresh)) ∧
    ((s.ch c).synTest lane 2 false (max s.now t) = 0 →
      exec (.switch t c lane false) s = .next ((s.atTime t).modCh c fun x => x.modPair lane fun q =>
        { q with cmd := 2, result := 0, pend := some false, byCmd := true, inLoss := false })) ∧
    ((s.ch c).synTest false 2 true (max s.now t) = 0 →
      Answers (exec (.switch t c false true) s) s c fun x =>
        x = { s.ch c with trk := { (s.ch c).trk with pending := x.trk.pending, committed := x.trk.committed }
                          syn := { (s.ch c).syn with s := { (s.ch c).syn.s with
                            cmd := 2, result := 0, pend := some true, byCmd := true, inLoss := false } } } ∧
        { kind := .sswitch, pos := (s.ch c).syn.sSwpos } ∈ x.trk.pending) ∧
    ((s.ch c).synTest lane 4 false (max s.now t) = 0 →
      (((s.ch c).act lane).state ≠ .off →
        exec (.synStart t c lane) s = .next ((s.atTime t).modCh c fun x => x.modPair lane fun q => { q with cmd := 4, result := 0 })) ∧
      (((s.ch c).act lane).state = .off →
        Answers (exec (.synStart t c lane) s) s c fun x => x = { s.ch c with syn := x.syn, flt := x.flt } ∧
          (∀ i : Fin 4, i ≠ (s.ch c).syn.active lane → x.synth i = (s.ch c).synth i) ∧
          (x.act lane).setting = ((s.ch c).act lane).setting ∧ (x.act lane).tune = .start ∧
          ((x.act lane).state = .tune ∨ (x.act lane).state = .search))) ∧
    ((s.ch c).synTest lane 5 false (max s.now t) = 0 →
      (((s.ch c).syn.pair lane).prepared = true ∨ bit ((s.ch c).syn.pair lane).spare 0 = true →
        exec (.synRest t c lane) s = .next ((s.atTime t).modCh c fun x => x.modPair lane fun q => { q with cmd := 5, result := 0 })) ∧
      (((s.ch c).syn.pair lane).prepared = false → bit ((s.ch c).syn.pair lane).spare 0 = false →
        ((s.ch c).syn.pair lane).failover = false → ((s.ch c).syn.pair lane).takeover = false →
        ((s.ch c).idl lane).state ≠ .off → ((s.ch c).idl lane).state ≠ .failed →
        Answers (exec (.synRest t c lane) s) s c fun x =>
          x = { s.ch c with syn := x.syn, flt := x.flt, dst := x.dst, jnc := x.jnc } ∧ sameDistaff (s.ch c) x ∧
          (lanesQuiet (s.ch c) → x.jnc = (s.ch c).jnc) ∧
          (∀ i : Fin 4, i ≠ (s.ch c).syn.idle lane → x.synth i = (s.ch c).synth i) ∧
          x.idl lane = { (s.ch c).idl lane with
            gate := false, state := .stopping, lock := false, tune := .none, paused := false, waiting := none })) ∧
    ((s.ch c).synTest lane 6 false (max s.now t) = 0 →
      Answers (exec (.forget t c lane) s) s c fun x => x = { s.ch c with syn := x.syn, flt := x.flt } ∧
        x.act lane = { (s.ch c).act lane with table := [] } ∧ x.idl lane = { (s.ch c).idl lane with table := [] } ∧
        x.act (!lane) = (s.ch c).act (!lane) ∧ x.idl (!lane) = (s.ch c).idl (!lane)))

/-- R274, R275, R276, R277, R282, R283, R286, R290: a search that qualifies after 2 µs of lock locks its synthesizer, ACTIVE or
IDLE_LOCKED, and its band is stored; a band that fails is forgotten and searched afresh; a retry that fails leaves the synthesizer
FAILED; the first ceiling hold starts a fresh search, of a locked synthesizer too whose measurements keep its gate closed; a
measurement is kept; cover searches, verify tunes and the one retry tune the idle synthesizer to the active setting, the retry in a
CONFIGURED channel alone (R268); a pair whose entries are older than 100 ms is no longer covered; a power-down ends OFF, and a start
that waited for it begins. -/
def Obligations.SynthTuning : Prop :=
  ∀ (t : Tbu) (c : ChanId) (s : State),
    (∀ i : Fin 4, ((s.ch c).synth i).paused = false → s.refOk c (isLane i) = true →
      (∀ (b : Byte) (kHz : Nat), ((s.ch c).synth i).state = .search → (s.ch c).measPass i ((s.ch c).synth i).setting kHz = true →
        ((s.ch c).synth i).tuneAt + 2 * us ≤ max s.now t →
        Answers (exec (.tuneQualified t c i b kHz) s) s c fun x =>
          x = { s.ch c with syn := x.syn, flt := x.flt, dst := x.dst, jnc := x.jnc } ∧ sameDistaff (s.ch c) x ∧
          (((s.ch c).synth i).gate = false ∨ (s.ch c).syn.active (isLane i) = i → x.dst = (s.ch c).dst ∧ x.jnc = (s.ch c).jnc) ∧
          ({ key := if isLane i then BitVec.ofNat 48 kHz else BitVec.ofNat 48 ((s.ch c).synth i).setting.toNat
             band := b, valid := true, used := max s.now t, qual := max s.now t } : TblEntry) ∈ (x.synth i).table ∧
          (x.synth i).meas = kHz ∧ (x.synth i).measOk = true ∧
          ((s.ch c).syn.active (isLane i) = i → (x.synth i).state = .active ∧ (x.synth i).lock = true) ∧
          ((s.ch c).syn.active (isLane i) ≠ i → ((s.ch c).synth i).tune = .prepare →
            (x.synth i).state = .idleLocked ∧ (x.synth i).lock = true ∧ (x.syn.pair (isLane i)).prepared = true ∧
            bit x.syn.events.bits SynEv.prepDone = true)) ∧
      (∀ (b : Byte) (kHz : Nat), (s.ch c).measPass i ((s.ch c).synth i).setting kHz = false ∨
          max s.now t < ((s.ch c).synth i).tuneAt + 2 * us →
        exec (.tuneQualified t c i b kHz) s = .next (s.atTime t)) ∧
      (((s.ch c).synth i).state = .tune → ((s.ch c).syn.pair (isLane i)).failover = false →
        Answers (exec (.stale t c i) s) s c fun x =>
          x = { s.ch c with syn := x.syn, flt := x.flt } ∧
          (x.synth i).state = .search ∧ (x.synth i).hit = false ∧ (x.synth i).fresh = satInc ((s.ch c).synth i).fresh ∧
          (∀ key, ((s.ch c).synth i).loaded = some key → ∀ e ∈ (x.synth i).table, e.key = key → e.valid = false) ∧
          (((s.ch c).synth i).loaded = none → (x.synth i).table = ((s.ch c).synth i).table) ∧ bit x.syn.events.bits SynEv.stale = true ∧
          ∀ j : Fin 4, j ≠ i → x.synth j = (s.ch c).synth j) ∧
      (((s.ch c).synth i).state = .search → (s.ch c).syn.active (isLane i) ≠ i → ((s.ch c).synth i).tune = .retry →
        Answers (exec (.tuneFailed t c i) s) s c fun x =>
          x = { s.ch c with syn := x.syn, flt := x.flt, dst := x.dst, jnc := x.jnc } ∧ sameDistaff (s.ch c) x ∧
          (lanesQuiet (s.ch c) → x.jnc = (s.ch c).jnc) ∧
          x.synth i = { (s.ch c).synth i with
            gate := false, state := .failed, lock := false, tune := .none, waiting := none, retryFrom := none } ∧
          bit x.syn.events.bits SynEv.retryFail = true ∧ ∀ j : Fin 4, j ≠ i → x.synth j = (s.ch c).synth j) ∧
      (((s.ch c).synth i).state = .search ∨ ((s.ch c).synth i).state = .tune → ((s.ch c).synth i).ceilHolds = 0 →
        Answers (exec (.ceilHold t c i) s) s c fun x =>
          x = { s.ch c with syn := x.syn, flt := x.flt } ∧ bit x.syn.events.bits SynEv.ceilHold = true ∧
          (x.synth i).state = .search ∧ (x.synth i).ceilHolds = 1 ∧ (x.synth i).fresh = satInc ((s.ch c).synth i).fresh)) ∧
    (∀ i : Fin 4, ((s.ch c).synth i).heldLocked = true → s.refOk c (isLane i) = true →
      Answers (exec (.ceilHold t c i) s) s c fun x =>
        x = { s.ch c with syn := x.syn, flt := x.flt } ∧ bit x.syn.events.bits SynEv.ceilHold = true ∧
        (∀ j : Fin 4, j ≠ i → x.synth j = (s.ch c).synth j) ∧ (x.synth i).state = .search ∧ (x.synth i).tune = .retune ∧
        (x.synth i).lock = false ∧ (x.synth i).setting = ((s.ch c).synth i).setting ∧ (x.synth i).ceilHolds = 1 ∧
        (x.synth i).fresh = satInc ((s.ch c).synth i).fresh ∧ (x.synth i).tuneAt = max s.now t) ∧
    (∀ (i : Fin 4) (kHz : Nat),
      ((s.ch c).synth i).state ≠ .off → ((s.ch c).synth i).state ≠ .stopping → ((s.ch c).synth i).state ≠ .failed →
      ((s.ch c).measPass i ((s.ch c).synth i).setting kHz = true ∨ ((s.ch c).synth i).state ≠ .active) →
      exec (.freqWindowEnd t c i kHz) s = .next ((s.atTime t).modCh c fun x => x.setSynth i { x.synth i with
        meas := kHz, measOk := (s.ch c).measPass i ((s.ch c).synth i).setting kHz
        follow := (x.synth i).follow && !(s.ch c).measPass i ((s.ch c).synth i).setting kHz })) ∧
    (∀ lane : Bool,
      ((s.ch c).idleFree lane = true → s.refOk c lane = true →
        ((s.ch c).coverNow lane (max s.now t) = false →
          Answers (exec (.coverSearch t c lane) s) s c fun x =>
            x = { s.ch c with syn := x.syn, flt := x.flt } ∧
            (∀ j : Fin 4, j ≠ (s.ch c).syn.idle lane → x.synth j = (s.ch c).synth j) ∧
            x.idl lane = { (s.ch c).idl lane with
              setting := ((s.ch c).act lane).setting, state := .search, lock := false, measOk := false, tune := .cover
              ceilHolds := 0, paused := false, hit := false, fresh := satInc ((s.ch c).idl lane).fresh, tuneAt := max s.now t
              aligned := false, follow := false, lockKHz := (s.ch c).targetKHz lane ((s.ch c).act lane).setting, loaded := none }) ∧
        (((s.ch c).syn.pair lane).covered = true → ((s.ch c).idl lane).state = .off →
          Answers (exec (.verifyTune t c lane) s) s c fun x =>
            x = { s.ch c with syn := x.syn, flt := x.flt } ∧
            (∀ j : Fin 4, j ≠ (s.ch c).syn.idle lane → x.synth j = (s.ch c).synth j) ∧
            (x.idl lane).tune = .verify ∧ (x.idl lane).setting = ((s.ch c).act lane).setting ∧
            ∀ e, (s.ch c).lookup ((s.ch c).syn.idle lane) ((s.ch c).act lane).setting = some e →
              (x.idl lane).state = .tune ∧ (x.idl lane).band = e.band)) ∧
      (((s.ch c).idl lane).state ≠ .idleLocked →
        (∀ e ∈ ((s.ch c).idl lane).table, (s.ch c).entryHits lane ((s.ch c).act lane).setting e = true →
          e.qual + 100 * ms < max s.now t) →
        exec (.coverLapse t c lane) s = .next ((s.atTime t).modCh c fun x => x.modPair lane fun p => { p with covered := false }))) ∧
    ∀ i : Fin 4,
      ((s.ch c).configured = false → exec (.synRetry t c i) s = .next (s.atTime t)) ∧
      (∀ a : Tbu, (s.ch c).configured = true → ((s.ch c).synth i).state = .failed → (s.ch c).syn.active (isLane i) ≠ i → ((s.ch c).synth i).retryFrom = some a →
        (a + ms ≤ max s.now t →
          Answers (exec (.synRetry t c i) s) s c fun x =>
            x = { s.ch c with syn := x.syn, flt := x.flt } ∧ (∀ j : Fin 4, j ≠ i → x.synth j = (s.ch c).synth j) ∧
            x.synth i = { (s.ch c).synth i with
              setting := ((s.ch c).act (isLane i)).setting, state := .search, lock := false, measOk := false, tune := .retry
              ceilHolds := 0, paused := !s.refOk c (isLane i), hit := false, fresh := satInc ((s.ch c).synth i).fresh
              tuneAt := max s.now t, aligned := false, follow := false
              lockKHz := (s.ch c).targetKHz (isLane i) ((s.ch c).act (isLane i)).setting, loaded := none, retryFrom := none }) ∧
        (max s.now t < a + ms → exec (.synRetry t c i) s = .next (s.atTime t))) ∧
      (((s.ch c).synth i).state = .stopping → ((s.ch c).synth i).waiting = none → ((s.ch c).syn.pair (isLane i)).queued = [] →
        Answers (exec (.powerDownDone t c i) s) s c fun x =>
          x = { s.ch c with syn := x.syn, flt := x.flt, jnc := x.jnc, ply := x.ply, cal := x.cal, dst := x.dst } ∧
          sameDistaff (s.ch c) x ∧
          (∀ j : Fin 4, j ≠ i → x.synth j = (s.ch c).synth j) ∧
          x.synth i = { (s.ch c).synth i with
            gate := false, state := .off, lock := false, tune := .none, paused := false, waiting := none }) ∧
      (∀ q : SynCmd, ((s.ch c).synth i).state = .stopping → ((s.ch c).synth i).waiting = none →
        (s.ch c).syn.active (isLane i) = i → ((s.ch c).idl (isLane i)).state ≠ .stopping →
        ((s.ch c).syn.pair (isLane i)).queued = [q] → q.cmd = 4 →
        Answers (exec (.powerDownDone t c i) s) s c fun x =>
          (x.syn.pair (isLane i)).queued = [] ∧ (x.synth i).tune = .start ∧ (x.synth i).setting = ((s.ch c).synth i).setting ∧
          ((x.synth i).state = .tune ∨ (x.synth i).state = .search))

/-- R271, R276, R277, R278, R281, R284, R285: the gate of the active synthesizer opens when every condition holds, the alignment of
a lane's edges among them, and closes when one fails, a sample gate that closes in RUN beginning a dry run; a pending switch changes
the multiplexer to the locked idle synthesizer, or, where its position came in a loss of REF, waits for a retuning active one (R291); an
active synthesizer that fails under cover begins a failover, which ends in the
switch, with a fault record, or after 6 µs in a lost pair whose other synthesizer is searched for afresh; a lane synthesizer that loses
lock while it follows a small step of PACE retunes (log entry 53). The gap of the record, in whole ns and rounded down, is log entry 46
(DEDUCED): of an interruption of the samples in RUN, or of frames the lanes were driving, else 0. -/
def Obligations.SynthOutput : Prop :=
  ∀ (t : Tbu) (c : ChanId) (s : State),
    (∀ (i : Fin 4) (a : Bool) (r : State), r = s.modCh c (fun x => x.putAligned i a) →
      (r.gateCond c i = true → ((s.ch c).synth i).gate = false → (s.ch c).switchFirst (isLane i) = false →
        Answers (exec (.gateOpen t c ⟨i, a⟩) s) s c fun x =>
          x = { s.ch c with syn := x.syn, jnc := x.jnc, ply := x.ply, ana := x.ana, flt := x.flt, dst := x.dst } ∧
          sameDistaff (s.ch c) x ∧
          (isLane i = true → x = { s.ch c with syn := x.syn, jnc := x.jnc, dst := x.dst }) ∧
          (isLane i = false → x.ply.dryAt = none ∧ x.ana = { (s.ch c).ana with zclamp := false }) ∧
          x.synth i = { (r.ch c).synth i with gate := true } ∧ ∀ j : Fin 4, j ≠ i → x.synth j = (s.ch c).synth j) ∧
      (r.gateCond c i = false ∨ (s.ch c).switchFirst (isLane i) = true →
        exec (.gateOpen t c ⟨i, a⟩) s = .next ((s.atTime t).modCh c fun x => x.putAligned i a)) ∧
      (r.gateCond c i = true → exec (.gateClose t c ⟨i, a⟩) s = .next ((s.atTime t).modCh c fun x => x.putAligned i a)) ∧
      (isLane i = true → a = false → r.gateCond c i = false) ∧
      (r.gateCond c i = false → ((s.ch c).synth i).gate = true →
        Answers (exec (.gateClose t c ⟨i, a⟩) s) s c fun x =>
          x = { s.ch c with syn := x.syn, jnc := x.jnc, ply := x.ply, cal := x.cal, dst := x.dst } ∧ sameDistaff (s.ch c) x ∧
          x.synth i = { (r.ch c).synth i with gate := false } ∧ (∀ j : Fin 4, j ≠ i → x.synth j = (s.ch c).synth j) ∧
          ((s.ch c).syn.active false = i → (s.ch c).mod.state = .run → (s.ch c).ply.dryAt = none →
            x.ply.dryAt = some (max s.now t) ∧ bit x.ply.events.bits PlyEv.clkGap = true))) ∧
    (∀ i : Fin 4, ((s.ch c).synth i).state = .active → s.refOk c (isLane i) = true → ((s.ch c).synth i).lock = true →
      (s.ch c).syn.active (isLane i) = i →
      (((s.ch c).synth i).follow = false →
        ((s.ch c).idl (isLane i)).state = .idleLocked → ((s.ch c).idl (isLane i)).lock = true →
        ((s.ch c).idl (isLane i)).setting = ((s.ch c).synth i).setting →
        Answers (exec (.lossOfLock t c i) s) s c fun x =>
          x = { s.ch c with syn := x.syn, trk := x.trk, jnc := x.jnc, ply := x.ply, cal := x.cal, dst := x.dst } ∧
          sameDistaff (s.ch c) x ∧
          (isLane i = true → x.dst.laneCut = { clip := q16 (max s.now t) }) ∧
          x.synth i = { (s.ch c).synth i with
            gate := false, state := .active, lock := false, measOk := false, tune := .none, paused := false } ∧
          (∀ j : Fin 4, j ≠ i → x.synth j = (s.ch c).synth j) ∧
          x.syn.pair (isLane i) = { (s.ch c).syn.pair (isLane i) with
            pend := none, byCmd := false, hopping := false, prepared := false, failover := true, failAt := max s.now t
            failRun := decide ((s.ch c).mod.state = .run), failSecond := (s.ch c).flt.degraded, covered := false
            queued := ((s.ch c).syn.pair (isLane i)).queued.filter fun q => !q.switching }) ∧
      (((s.ch c).synth i).follow = true →
        Answers (exec (.lossOfLock t c i) s) s c fun x =>
          x = { s.ch c with syn := x.syn, jnc := x.jnc, ply := x.ply, cal := x.cal, flt := x.flt, dst := x.dst } ∧
          (x.synth i).gate = false ∧ (x.synth i).lock = false ∧ (x.synth i).tune = .retune ∧
          (x.synth i).setting = ((s.ch c).synth i).setting ∧ ((x.synth i).state = .tune ∨ (x.synth i).state = .search) ∧
          (x.syn.pair (isLane i)).failover = ((s.ch c).syn.pair (isLane i)).failover)) ∧
    ∀ lane : Bool,
      (s.muxReady c lane = false → exec (.muxSwitch t c lane) s = .next (s.atTime t)) ∧
      (s.muxReady c lane = true → ((s.ch c).syn.pair lane).failover = false → ((s.ch c).syn.pair lane).takeover = false →
        ((s.ch c).syn.pair lane).pend = some false →
        (((s.ch c).syn.pair lane).inLoss = true → ((s.ch c).act lane).tune = .retune →
          ((s.ch c).act lane).state = .search ∨ ((s.ch c).act lane).state = .tune →
          exec (.muxSwitch t c lane) s = .next (s.atTime t)) ∧
        (((s.ch c).syn.pair lane).inLoss = false ∨ ((s.ch c).act lane).tune ≠ .retune ∨
          (((s.ch c).act lane).state ≠ .search ∧ ((s.ch c).act lane).state ≠ .tune) →
        Answers (exec (.muxSwitch t c lane) s) s c fun x =>
          (x.syn.pair lane).second = !((s.ch c).syn.pair lane).second ∧ (x.syn.pair lane).pend = none ∧
          x.act lane = { (s.ch c).idl lane with gate := true, state := .active } ∧ (x.idl lane).gate = false ∧
          bit x.syn.events.bits (if lane then SynEv.switchedL else SynEv.switchedS) = true ∧
          x.act (!lane) = (s.ch c).act (!lane) ∧ x.idl (!lane) = (s.ch c).idl (!lane) ∧
          x = { s.ch c with syn := x.syn, jnc := x.jnc, ply := x.ply, ana := x.ana, flt := x.flt, dst := x.dst } ∧
          sameDistaff (s.ch c) x)) ∧
      (s.muxReady c lane = true → ((s.ch c).syn.pair lane).failover = true →
        ((s.ch c).idl lane).setting = ((s.ch c).act lane).setting → ((s.ch c).syn.pair lane).failSecond = false →
        ∃ u, exec (.muxSwitch t c lane) s = .next u ∧ u = { s.atTime t with flt := u.flt, chans := u.chans } ∧
          (∀ d : ChanId, d ≠ c → u.ch d = s.ch d) ∧
          (u.ch c).act lane = { (s.ch c).idl lane with gate := true, state := .active } ∧
          ((u.ch c).idl lane).state = .failed ∧ ((u.ch c).idl lane).retryFrom = some (max s.now t) ∧
          ((u.ch c).syn.pair lane).failover = false ∧
          bit (u.ch c).syn.events.bits (if lane then SynEv.failoverL else SynEv.failoverS) = true ∧
          ∀ (y : Chan) (gap : Nat), y = (s.ch c).dstTo (q16 (max s.now t)) →
            gap = (if ((s.ch c).syn.pair lane).failRun then
                if lane then y.laneGap else y.wavGap (max s.now t)
              else 0) →
            u.flt.log = logged s t {
              odo := s.trk.odo, info := logInfo (some c) (if lane then 3 else 2) ((s.ch c).syn.active lane).val 0 gap }) ∧
      (((s.ch c).syn.pair lane).failover = true → ((s.ch c).idl lane).state ≠ .idleLocked →
        (max s.now t < ((s.ch c).syn.pair lane).failAt + 6 * us → exec (.failoverTimeout t c lane) s = .next (s.atTime t)) ∧
        (((s.ch c).syn.pair lane).failAt + 6 * us ≤ max s.now t → (s.ch c).mod.state = .rest →
          ((s.ch c).idl lane).state ≠ .failed → ((s.ch c).idl lane).state ≠ .stopping →
          ∃ u, exec (.failoverTimeout t c lane) s = .next u ∧ (∀ d : ChanId, d ≠ c → u.ch d = s.ch d) ∧ s.sameCreels u ∧
            ((u.ch c).act lane).state = .failed ∧ ((u.ch c).act lane).lock = false ∧
            ((u.ch c).idl lane).state = .search ∧ ((u.ch c).idl lane).tune = .takeover ∧
            ((u.ch c).idl lane).setting = ((s.ch c).act lane).setting ∧
            ((u.ch c).syn.pair lane).takeover = true ∧ ((u.ch c).syn.pair lane).failover = false))

/-! ### Junctions -/

/-- R295, R296, R297, R304, R308, R309: in a fabric cycle, to which the lanes have come, the events offered in the cycle before it are
carried, but for those of earlier cycles that no carry took (log entry 8, DESIGN CHOICE), and for
junctions of a disabled group or within their governor's gap, and leave their mark in JNC_SEEN. A cycle is carried once; where the
fabric is stopped everything waiting is dropped. -/
def Clause.JunctionCarry : Prop :=
  ∀ (t : Tbu) (c : ChanId) (s : State) (y : Chan), y = (s.ch c).dstTo (q16 ((s.atTime t).cycle * 1024)) →
    (s.fabricOn c = false →
      Answers (exec (.junctionCarry t c) s) s c fun x =>
        x = { s.ch c with jnc := x.jnc, trk := x.trk } ∧ x.jnc.offers = [] ∧ x.jnc.fires = [] ∧ x.jnc.carried = 0 ∧ x.jnc.atArmed = 0 ∧
        x.jnc.pend = Vector.replicate 8 0 ∧ x.jnc.cnt = (s.ch c).jnc.cnt ∧ x.jnc.seen = (s.ch c).jnc.seen) ∧
    (s.fabricOn c = true → (s.ch c).jnc.carriedAt = some (s.atTime t).cycle → exec (.junctionCarry t c) s = .next (s.atTime t)) ∧
    (s.fabricOn c = true → (s.ch c).jnc.carriedAt ≠ some (s.atTime t).cycle →
      Answers (exec (.junctionCarry t c) s) s c fun x =>
        x = { s.ch c with jnc := x.jnc, dst := y.dst } ∧ (lanesQuiet (s.ch c) → y.jnc = (s.ch c).jnc) ∧
        x.jnc.carriedAt = some (s.atTime t).cycle ∧
        x.jnc.offers = y.jnc.offers.filter (fun o => !decide (o.1 < (s.atTime t).cycle)) ∧
        x.jnc.fires = (s.ch c).jnc.fires.filter (fun o => !decide (o.1 < (s.atTime t).cycle)) ∧
        x.jnc.seen.bits = (s.ch c).jnc.seen.bits ||| x.jnc.carried ∧ x.jnc.taken = (s.ch c).jnc.taken ∧
        x.jnc.carriedPrev = (s.ch c).jnc.carried ∧ x.jnc.carriedPrevAt = (s.ch c).jnc.carriedAt ∧
        x.jnc.carried &&& (s.ch c).blocked (s.atTime t).cycle = 0 ∧
        x.jnc.carried &&& ((s.ch c).jnc.cfgAt (s.atTime t).cycle).governed (s.atTime t).cycle = 0 ∧
        ((s.ch c).skn.image.cells = [] →
          x.jnc.carried = (((y.jnc.offers ++ (s.ch c).jnc.fires).filter fun o => decide (o.1 + 1 = (s.atTime t).cycle)).foldl
              (fun m o => m ||| o.2) 0) &&&
            ~~~((s.ch c).blocked (s.atTime t).cycle ||| ((s.ch c).jnc.cfgAt (s.atTime t).cycle).governed (s.atTime t).cycle)))

/-- Channel `x` once input `code` has registered the `n` events that arrived for cycle `cyc`; two or more of them coalesce (R300). -/
def registered (x : Chan) (cyc code n : Nat) : Chan :=
  { x with jnc := { x.jnc.take cyc code with
    events := if 2 ≤ n then evSet x.jnc.events JncEv.coalesced else x.jnc.events } }

/-- R299, R300, R301, R308: each consumer takes what the previous cycle carried, once. A countable input adds its arrivals to its
pending counter, to fifteen with what the counter's consumer took in this cycle, and loses the rest; a condition input sets its latch;
a group input enables or disables its group. An input that no event reached, or of a stopped fabric, takes nothing. -/
def Clause.ConsumerInputs : Prop :=
  ∀ (t : Tbu) (c : ChanId) (s : State),
    (∀ code : BitVec 6,
      (s.fabricOn c = false ∨ consumerCodes.contains code.toNat = false ∨
          (countableIndex code.toNat = none ∧ (s.ch c).arrivals (s.atTime t).cycle code.toNat = 0) →
        exec (.consumerRegister t c code) s = .next (s.atTime t)) ∧
      (s.fabricOn c = true → 0 < (s.ch c).arrivals (s.atTime t).cycle code.toNat →
        (∀ i, countableIndex code.toNat = some i → (s.ch c).refusesArm (s.atTime t).cycle i = true →
          Answers (exec (.consumerRegister t c code) s) s c fun x =>
            x = { s.ch c with jnc := { (s.ch c).jnc with taken := x.jnc.taken, takenAt := some (s.atTime t).cycle } } ∧
            bit x.jnc.taken code.toNat = true) ∧
        (∀ i took n, countableIndex code.toNat = some i → (s.ch c).refusesArm (s.atTime t).cycle i = false →
          took = (s.ch c).jnc.tookIn (s.atTime t).cycle i → n = (s.ch c).arrivals (s.atTime t).cycle code.toNat →
          Answers (exec (.consumerRegister t c code) s) s c fun x =>
            bit x.jnc.taken code.toNat = true ∧
            x = { s.ch c with jnc := { (s.ch c).jnc with
              taken := x.jnc.taken, takenAt := some (s.atTime t).cycle
              pend := vput (s.ch c).jnc.pend i (min 15 ((s.ch c).jnc.pend[i] + took + n) - took)
              lost := x.jnc.lost, events := x.jnc.events } } ∧
            ((s.ch c).jnc.pend[i] + took + n ≤ 15 → x.jnc.lost = (s.ch c).jnc.lost ∧ x.jnc.events = (s.ch c).jnc.events) ∧
            (15 < (s.ch c).jnc.pend[i] + took + n →
              x.jnc.lost = satInc (s.ch c).jnc.lost ((s.ch c).jnc.pend[i] + took + n - 15) ∧
              bit x.jnc.events.bits JncEv.pendOvf = true)) ∧
        (∀ (k : Fin 4) (z : Chan), code.toNat = 0xA + k.val →
          z = registered (s.ch c) (s.atTime t).cycle code.toNat ((s.ch c).arrivals (s.atTime t).cycle code.toNat) →
          ((s.ch c).dst.core.cond[k] = none →
            exec (.consumerRegister t c code) s = .next ((s.atTime t).setCh c { z with dst := { z.dst with core := { z.dst.core with
              cond := vput z.dst.core.cond k (some { since := (s.atTime t).cycle, last := (s.atTime t).cycle }) } } })) ∧
          ∀ l, (s.ch c).dst.core.cond[k] = some l →
            exec (.consumerRegister t c code) s = .next ((s.atTime t).setCh c { z with dst := { z.dst with
              events := evSet z.dst.events DstEv.coalesced
              core := { z.dst.core with
                cond := vput z.dst.core.cond k (some { l with
                  last := (s.atTime t).cycle, fresh := !bit z.dst.events.bits DstEv.coalesced }) } } })) ∧
        (∀ g : Fin 8, (s.ch c).jnc.genCycle ≠ some (s.atTime t).cycle →
          (code.toNat = 0x28 + g.val →
            Answers (exec (.consumerRegister t c code) s) s c fun x =>
              x = { s.ch c with jnc := x.jnc } ∧ x.jnc.grpEn = setBit (s.ch c).jnc.grpEn g.val ∧ x.jnc.genOld = (s.ch c).jnc.grpEn) ∧
          (code.toNat = 0x30 + g.val →
            Answers (exec (.consumerRegister t c code) s) s c fun x =>
              x = { s.ch c with jnc := x.jnc } ∧ x.jnc.grpEn = clrBit (s.ch c).jnc.grpEn g.val ∧ x.jnc.genOld = (s.ch c).jnc.grpEn))))

/-- R146, R148, R150, R226, R228, R251, R300: what the level inputs register. One of the sequencer sets its latch, with the sample that
comes next, coalesces with a latch set before, and is discarded where no pass plays in RUN; DST.GO starts a Distaff that waits for it,
and is ignored by any other; DST.STOP stops it, as the host's STOP does; ANA.STB, where STB_CFG.SRC is 1, transfers the staged levels
two cycles later, and is counted as ignored where it is not. -/
def Clause.LevelInputs : Prop :=
  ∀ (t : Tbu) (c : ChanId) (code : BitVec 6) (s : State) (cyc : Nat) (z : Chan),
    s.fabricOn c = true → 0 < (s.ch c).arrivals (s.atTime t).cycle code.toNat → cyc = (s.atTime t).cycle →
    z = registered (s.ch c) cyc code.toNat ((s.ch c).arrivals cyc code.toNat) →
    (∀ p ∈ [(0, Req.trig0), (1, .trig1), (2, .jmp 0), (3, .jmp 1), (4, .jmp 2), (5, .jmp 3), (6, .adv)], code.toNat = p.1 →
      ((s.ch c).latches = true → (s.ch c).seq.latch p.2 = none →
        exec (.consumerRegister t c code) s =
          .next ((s.atTime t).setCh c { z with seq := z.seq.setLatch p.2 (some ((s.ch c).kNow cyc)) })) ∧
      ((s.ch c).latches = true → (s.ch c).seq.latch p.2 ≠ none →
        exec (.consumerRegister t c code) s =
          .next ((s.atTime t).setCh c { z with seq := { z.seq with events := evSet z.seq.events SeqEv.coalesced } })) ∧
      ((s.ch c).latches = false →
        exec (.consumerRegister t c code) s =
          .next ((s.atTime t).setCh c { z with seq := { z.seq with events := evSet z.seq.events SeqEv.discarded } }))) ∧
    (code.toNat = 8 →
      ((s.ch c).dst.state = .waiting → (s.ch c).mod.state = .run → (s.ch c).dst.latched.startSrc = 1 → (s.ch c).dstCheck = 0 →
        (s.ch c).dst.stopCycle ≠ some cyc →
        Answers (exec (.consumerRegister t c code) s) s c fun x =>
          x = { z with dst := { z.dst with
            state := .running, check := 0, runPos := (s.ch c).trk.nextFree, frame := 0, frames := 0, fresh := true, issued := []
            driven := [], plan := [], startCycle := some cyc, pcBefore := z.dst.pcIssued, lowFrom := none
            core := z.dst.latched.initCore, laneCut := x.dst.laneCut, shortCut := x.dst.shortCut, events := x.dst.events } } ∧
          bit x.dst.events.bits DstEv.started = true) ∧
      (¬((s.ch c).dst.state = .waiting ∧ (s.ch c).mod.state = .run ∧ (s.ch c).dst.latched.startSrc = 1) →
        exec (.consumerRegister t c code) s =
          .next ((s.atTime t).setCh c { z with dst := { z.dst with events := evSet z.dst.events DstEv.ignored } }))) ∧
    (∀ y : Chan, code.toNat = 9 → y = z.dstTo (q16 (cyc * 1024)) →
      (y.dst.state = .waiting ∨ y.dst.state = .running ∨ y.dst.state = .paused →
        (y.dst.startCycle ≠ some cyc →
          exec (.consumerRegister t c code) s = .next ((s.atTime t).setCh c { y with dst := { y.dst with
            state := .halted, haltCode := 0x04, stopCycle := some cyc
            plan := y.dst.plan.takeWhile fun x => decide (x < issueEnd cyc), events := evSet y.dst.events DstEv.halted } })) ∧
        (y.dst.startCycle = some cyc →
          exec (.consumerRegister t c code) s = .next ((s.atTime t).setCh c { y with dst := { y.dst with
            state := .halted, haltCode := 0x04, stopCycle := some cyc, issued := [], plan := [], frame := 0
            fresh := true, core := y.dst.latched.initCore, pcIssued := y.dst.pcBefore
            events := evSet y.dst.events DstEv.halted } }))) ∧
      (y.dst.state = .idle →
        exec (.consumerRegister t c code) s = .next ((s.atTime t).setCh c { y with dst := { y.dst with stopCycle := some cyc } })) ∧
      (y.dst.state = .halted ∨ y.dst.state = .refused → exec (.consumerRegister t c code) s = .next ((s.atTime t).setCh c y))) ∧
    (code.toNat = 0x10 →
      ((s.ch c).ana.src ≠ 1 ∨ (s.ch c).rangeState = false ∨ (s.ch c).ana.disableAt.isSome = true →
        exec (.consumerRegister t c code) s = .next ((s.atTime t).setCh c { z with ana := { z.ana with
          ignored := satInc z.ana.ignored, events := evSet z.ana.events AnaEv.stbIgnored } })) ∧
      ((s.ch c).ana.src = 1 → (s.ch c).rangeState = true → (s.ch c).ana.disableAt = none → (s.ch c).ana.deferAt = none →
        (s.ch c).ana.strobeAt = none → (s.ch c).ana.lastTransfer = none →
        exec (.consumerRegister t c code) s = .next ((s.atTime t).setCh c { z with ana := { z.ana with strobeAt := some (cyc + 2) } })))

/-- R301, R311, R328: the consumer of a pending counter takes one event in a cycle: a counter counts it, publishing its hit and, with
WRAP, returning to 0 where it reaches CMP; a stamp unit that waits for its arm begins to. -/
def Clause.PendingCounters : Prop :=
  ∀ (t : Tbu) (c : ChanId) (s : State),
    ∀ i : Fin 8,
      (s.fabricOn c = false ∨ (s.ch c).jnc.pend[i] = 0 ∨ (s.ch c).jnc.lastTake[i] = some (s.atTime t).cycle →
        exec (.pendingTake t c i) s = .next (s.atTime t)) ∧
      (s.fabricOn c = true → (s.ch c).jnc.pend[i] ≠ 0 → (s.ch c).jnc.lastTake[i] ≠ some (s.atTime t).cycle →
        (∀ k : Fin 4, i.val = 4 + k.val →
          Answers (exec (.pendingTake t c i) s) s c fun x => x = { s.ch c with jnc := x.jnc } ∧
            x.jnc.pend = vput (s.ch c).jnc.pend i ((s.ch c).jnc.pend[i] - 1) ∧
            x.jnc.lastTake = vput (s.ch c).jnc.lastTake i (some (s.atTime t).cycle) ∧
            (fld (s.ch c).jnc.cntCmp[k] 0 32 = 0 → x.jnc.cnt = vput (s.ch c).jnc.cnt k ((s.ch c).jnc.cnt[k] + 1)) ∧
            (((s.ch c).jnc.cnt[k] + 1).toNat = fld (s.ch c).jnc.cntCmp[k] 0 32 → fld (s.ch c).jnc.cntCmp[k] 0 32 ≠ 0 →
              bit x.jnc.events.bits JncEv.hit = true ∧
              x.jnc.cnt = vput (s.ch c).jnc.cnt k (if bit (s.ch c).jnc.cntCmp[k] 32 then 0 else (s.ch c).jnc.cnt[k] + 1))) ∧
        (∀ k : Fin 4, i.val = k.val → s.tdcOn c = true → ((s.ch c).tun k).state = .idle → ((s.ch c).tun k).byArm = true →
          ((s.ch c).tun k).mode ≠ 0 → ((s.ch c).tun k).cfgCycle ≠ some (s.atTime t).cycle →
          Answers (exec (.pendingTake t c i) s) s c fun x => x = { s.ch c with jnc := x.jnc, tdc := x.tdc } ∧
            x.jnc.pend = vput (s.ch c).jnc.pend i ((s.ch c).jnc.pend[i] - 1) ∧
            (x.tun k).state = .waiting ∧ (x.tun k).armAt = cycleEnd (s.atTime t).cycle ∧
            ∀ j : Fin 4, j ≠ k → x.tun j = (s.ch c).tun j))

/-- Junctions carry events, consumers register them, and pending counters are taken from. -/
def Obligations.FabricCarry : Prop :=
  Clause.JunctionCarry ∧ Clause.ConsumerInputs ∧ Clause.LevelInputs ∧ Clause.PendingCounters

/-- R305, R306, R308, R310, R311, R318: software fires wait for the next cycle; CLEAR empties cells and pending counters, and takes
back what the cells brought forth in a carry of its own cycle, since none may arise in it; a
scheduled event is armed at a position in the future, and discarded with AT_LATE at any other, and can be cancelled; a written count
stands, and an increment of the same cycle applies to it, with the comparison on the value written; a write of JNC_GRP_EN acts from
the next cycle. -/
def Obligations.JunctionControls : Prop :=
  ∀ (t : Tbu) (c : ChanId) (s : State), s.windowUp = true →
    (∀ m : Word,
      (s.fabricOn c = true → m ≠ 0 →
        exec (.jncFire t c m) s = .next ((s.atTime t).modCh c fun x => { x with jnc := { x.jnc with
          fires := x.jnc.fires ++ [((s.atTime t).cycle, m)] } })) ∧
      (s.fabricOn c = false → exec (.jncFire t c m) s = .next (s.atTime t))) ∧
    ((s.ch c).jnc.carriedAt ≠ some (s.atTime t).cycle →
      exec (.clear t c) s = .next ((s.atTime t).modCh c fun x => { x with jnc := { x.jnc with
        ff := 0, filt := Vector.replicate 16 0, clearAt := some (s.atTime t).cycle, pend := Vector.replicate 8 0 } })) ∧
    ((s.ch c).jnc.carriedAt = some (s.atTime t).cycle →
      Answers (exec (.clear t c) s) s c fun x =>
        x = { s.ch c with jnc := { (s.ch c).jnc with
          ff := 0, filt := Vector.replicate 16 0, clearAt := some (s.atTime t).cycle, pend := Vector.replicate 8 0
          carried := (s.ch c).jnc.cells.carried, lutOut := 0, seen := x.jnc.seen, block := x.jnc.block, govd := x.jnc.govd
          events := x.jnc.events, lastCarry := x.jnc.lastCarry } } ∧
        x.jnc.seen.bits = (s.ch c).jnc.seen.bits &&& ~~~(s.ch c).jnc.cells.seen ∧
        ∀ k : Fin 64, x.jnc.lastCarry[k] =
          if bit ((s.ch c).jnc.carried &&& ~~~(s.ch c).jnc.cells.carried) k.val then (s.ch c).jnc.cells.last[k]
          else (s.ch c).jnc.lastCarry[k]) ∧
    (∀ m : BitVec 4,
      (s.fabricOn c = true →
        Answers (exec (.atArm t c m) s) s c fun x =>
          x = { s.ch c with
            jnc := { (s.ch c).jnc with atArmed := x.jnc.atArmed, events := x.jnc.events }
            trk := { (s.ch c).trk with pending := x.trk.pending, committed := x.trk.committed } } ∧
          ∀ k : Fin 4,
            (bit m k.val = true → (s.ch c).trk.future (max s.now t) (s.ch c).jnc.atPos[k] = true →
              bit x.jnc.atArmed k.val = true ∧ { kind := .at k, pos := (s.ch c).jnc.atPos[k] } ∈ x.trk.pending) ∧
            (bit m k.val = true → (s.ch c).trk.future (max s.now t) (s.ch c).jnc.atPos[k] = false →
              bit x.jnc.atArmed k.val = false ∧ bit x.jnc.events.bits JncEv.atLate = true) ∧
            (bit m k.val = false → bit x.jnc.atArmed k.val = bit (s.ch c).jnc.atArmed k.val)) ∧
      (s.fabricOn c = false → exec (.atArm t c m) s = .next (s.atTime t)) ∧
      Answers (exec (.atCancel t c m) s) s c fun x =>
        x = { s.ch c with
          jnc := { (s.ch c).jnc with atArmed := (s.ch c).jnc.atArmed &&& ~~~m }
          trk := { (s.ch c).trk with pending := x.trk.pending, committed := x.trk.committed } } ∧
        ∀ k : Fin 4, bit m k.val = true → x.trk.isPending (.at k) = false ∧ x.trk.committedOf (.at k) = none) ∧
    (∀ (k : Fin 4) (v : Word),
      ((s.ch c).jnc.lastInc[k] ≠ some (s.atTime t).cycle →
        exec (.counterWrite t c k v) s = .next ((s.atTime t).modCh c fun x => { x with jnc := { x.jnc with
          cnt := vput x.jnc.cnt k (BitVec.ofNat 32 v.toNat) } })) ∧
      ((s.ch c).jnc.lastInc[k] = some (s.atTime t).cycle → fld (s.ch c).jnc.cntCmp[k] 0 32 = 0 →
        (s.ch c).jnc.hitCycle ≠ some (s.atTime t).cycle ∨ bit (s.ch c).jnc.incHit k.val = false →
        Answers (exec (.counterWrite t c k v) s) s c fun x => x = { s.ch c with jnc := { (s.ch c).jnc with
          cnt := vput (s.ch c).jnc.cnt k (BitVec.ofNat 32 v.toNat + 1), lastInc := x.jnc.lastInc
          hitCycle := x.jnc.hitCycle, hitOld := x.jnc.hitOld, incHit := x.jnc.incHit } }) ∧
      ((s.ch c).jnc.lastInc[k] = some (s.atTime t).cycle → (s.ch c).jnc.hitCycle = some (s.atTime t).cycle →
        (s.ch c).jnc.hitOld = false → (s.ch c).jnc.incHit = setBit 0 k.val →
        (BitVec.ofNat 32 v.toNat + 1).toNat ≠ fld (s.ch c).jnc.cntCmp[k] 0 32 →
        Answers (exec (.counterWrite t c k v) s) s c fun x =>
          x = { s.ch c with jnc := x.jnc } ∧ x.jnc.cnt = vput (s.ch c).jnc.cnt k (BitVec.ofNat 32 v.toNat + 1) ∧
          bit x.jnc.events.bits JncEv.hit = false ∧
          x.jnc.offers = (s.ch c).jnc.offers.erase ((s.atTime t).cycle, (s.ch c).skn.image.drives (Prod.hit + k.val)))) ∧
    ∀ v : Word, (s.ch c).jnc.genCycle ≠ some (s.atTime t).cycle →
      exec (.grpEnWrite t c v) s = .next ((s.atTime t).modCh c fun x => { x with jnc := { x.jnc with
        grpEn := BitVec.ofNat 8 v.toNat, genCycle := some (s.atTime t).cycle, genOld := x.jnc.grpEn, genSet := 0, genClr := 0 } })

/-! ### Time measurement -/

/-- R319, R320, R321, R323, R325, R326, R328, R330, R338: an edge that qualifies is stamped and counted; one within the dead time or
the hold-off is only counted as such, and any other does nothing. Stamps wait in the order of T. A converted, admitted stamp reaches
the units, and a stamp unit stores its record; TDC.EVIk goes out for the stamps that are due, 8 ns after T, one whose instant is past
in the present cycle (log entry 84, DESIGN CHOICE). -/
def Obligations.Stamps : Prop :=
  ∀ (t : Tbu) (c : ChanId) (k : Fin 4) (s : State),
    (∀ rising : Bool,
      (s.tdcOn c = false ∨ ((s.ch c).tin k).qualifies rising = false → exec (.eviEdge t c k rising) s = .next (s.atTime t)) ∧
      (s.tdcOn c = true → ((s.ch c).tin k).qualifies rising = true →
        (∀ l, ((s.ch c).tin k).last = some l →
          ((max s.now t : Int) - l < 640 →
            Answers (exec (.eviEdge t c k rising) s) s c fun x =>
              x = { (s.ch c).setIn k { (s.ch c).tin k with
                  dead := satInc ((s.ch c).tin k).dead, conv := (x.tin k).conv } with
                tdc := { x.tdc with events := evSet (s.ch c).tdc.events TdcEv.dead } } ∧
              ∀ y ∈ (x.tin k).conv, y ∈ ((s.ch c).tin k).conv ∨ y.lost = true) ∧
          (640 ≤ (max s.now t : Int) - l → (max s.now t : Int) - l < ((s.ch c).tin k).holdoff →
            exec (.eviEdge t c k rising) s = .next ((s.atTime t).modCh c fun x => x.setIn k { x.tin k with
              heldoff := satInc (x.tin k).heldoff }))) ∧
        ((∀ l ∈ ((s.ch c).tin k).last, (((s.ch c).tin k).holdoff : Int) ≤ (max s.now t : Int) - l) →
          Answers (exec (.eviEdge t c k rising) s) s c fun x =>
            (∃ y ∈ (x.tin k).conv,
              y.t = (max s.now t : Int) + (s.ch c).cal.fine k.val (max s.now t) - (s.ch c).cal.skew (1 + k.val) +
                sfld (s.ch c).trk.modSkew 0 20 + sfld ((s.ch c).tin k).delay 0 16 ∧
              y.rise = rising ∧ y.lost = false ∧ y.count = ((s.ch c).tin k).count + 1 ∧ y.tbinv = s.trk.tbInvalid ∧
              y.admitted = (!((s.ch c).tin k).winEn) ∧ y.pubAt = max (y.t + pubTbu) (max s.now t : Int) ∧
              (x.tin k).conv = inOrder y ((s.ch c).tin k).conv ∧
              (x.tin k).publish = (if ((s.ch c).tin k).winEn then ((s.ch c).tin k).publish else inOrder y ((s.ch c).tin k).publish)) ∧
            (((s.ch c).tin k).conv.Pairwise (fun y z => y.t ≤ z.t) → (x.tin k).conv.Pairwise fun y z => y.t ≤ z.t) ∧
            x = (s.ch c).setIn k { (s.ch c).tin k with
              count := ((s.ch c).tin k).count + 1, last := some (max s.now t), conv := (x.tin k).conv, publish := (x.tin k).publish }))) ∧
    (((s.ch c).tin k).conv = [] → exec (.stampConversion t c k) s = .next (s.atTime t)) ∧
    (∀ (y : Stamp) (p : Option Word) (d : Int),
      (∀ j : Fin 4, ((s.ch c).tin j).conv = if j = k then [y] else []) → y.lost = false →
      (s.ch c).trk.convert y (max s.now t) = some (p, d) →
      (y.admitted = false → ((s.ch c).tin k).winEn = true → p ≠ none → ((s.ch c).tin k).inWindow (p.getD 0) = false →
        exec (.stampConversion t c k) s = .next ((s.atTime t).modCh c fun x => x.setIn k { x.tin k with conv := [] })) ∧
      (y.admitted = true → (∀ j : Fin 4, ((s.ch c).tun j).gateEnd = none ∧ (((s.ch c).tun j).mode = 0 ∨ j = k)) →
        ((s.ch c).tun k).mode = 1 → ((s.ch c).tun k).byArm = false → ((s.ch c).tun k).state = .waiting →
        ((s.ch c).tun k).fifo.length < 512 → ((s.ch c).tun k).gap = false → ((s.ch c).tun k).armAt ≤ y.t →
        exec (.stampConversion t c k) s = .next ((s.atTime t).modCh c fun x =>
          (x.setIn k { x.tin k with conv := [] }).setUnit k { x.tun k with
            state := .measuring, burst := (x.tun k).burst + 1
            fifo := (x.tun k).fifo ++ [{ y with pos := p.getD 0, nopos := p.isNone, unaligned := !x.trk.aligned }.record] }))) ∧
    Answers (exec (.eviPublish t c k) s) s c fun x =>
      x = { s.ch c with tdc := x.tdc, jnc := { (s.ch c).jnc with offers := x.jnc.offers } } ∧
      x.tdc.units = (s.ch c).tdc.units ∧ (∀ j : Fin 4, j ≠ k → x.tin j = (s.ch c).tin j) ∧
      x.tin k = { (s.ch c).tin k with
        publish := ((s.ch c).tin k).publish.dropWhile fun y => decide (y.pubAt ≤ (max s.now t : Int)), lastPub := (x.tin k).lastPub } ∧
      ∀ y : Stamp, ((s.ch c).tin k).publish = [y] → y.pubAt ≤ (max s.now t : Int) → ((s.ch c).tin k).lastPub = none →
        x.jnc.offers = ((s.ch c).publish (max (cycleAtOrAfter (y.pubAt * 65536)) (s.atTime t).cycle) (Prod.evi + k.val)).jnc.offers ∧
        (x.tin k).lastPub = some (cycleAtOrAfter (y.pubAt * 65536))

/-- R297, R324, R328, R329, R337, R339, R342, R343, R345: ARM adds an event to the pending counters of a CONFIGURED channel, but
not in the cycle of an ABORT; ABORT ends measurements and drops them, FLUSH
empties FIFOs and their counts, POP removes the oldest records of a FIFO that is not dumped, a write of WIN_CLOSE puts both staged
values in force, and a write of a unit's configuration ends its measurement and applies from the end of the cycle. Units and inputs
that a mask leaves out stay as they are. -/
def Obligations.TdcControls : Prop :=
  ∀ (t : Tbu) (c : ChanId) (s : State), s.windowUp = true →
    (∀ m : BitVec 4,
      (Answers (exec (.tdcArm t c m) s) s c fun x =>
        x = { s.ch c with jnc := { (s.ch c).jnc with pend := x.jnc.pend, lost := x.jnc.lost, events := x.jnc.events } } ∧
        ∀ i : Fin 8, x.jnc.pend[i] =
          if bit m i.val ∧ i.val < 4 ∧ (s.ch c).refusesArm (s.atTime t).cycle i = false then
            min 15 ((s.ch c).jnc.pend[i] + (s.ch c).jnc.tookIn (s.atTime t).cycle i + 1) - (s.ch c).jnc.tookIn (s.atTime t).cycle i
          else (s.ch c).jnc.pend[i]) ∧
      (Answers (exec (.tdcAbort t c m) s) s c fun x =>
        x = { s.ch c with
          jnc := { (s.ch c).jnc with pend := x.jnc.pend }
          tdc := { (s.ch c).tdc with units := x.tdc.units, events := x.tdc.events } } ∧
        (∀ i : Fin 8, x.jnc.pend[i] = if bit m i.val ∧ i.val < 4 then 0 else (s.ch c).jnc.pend[i]) ∧
        ∀ k : Fin 4,
          (bit m k.val = true → ((s.ch c).tun k).state ≠ .suspended →
            x.tun k = { ((s.ch c).tun k).ready (cycleEnd (s.atTime t).cycle) with abortCycle := some (s.atTime t).cycle }) ∧
          (bit m k.val = true → ((s.ch c).tun k).state = .suspended →
            x.tun k = { (s.ch c).tun k with abortCycle := some (s.atTime t).cycle }) ∧
          (bit m k.val = true → ((s.ch c).tun k).state = .measuring → bit x.tdc.events.bits TdcEv.aborted = true) ∧
          (bit m k.val = false → x.tun k = (s.ch c).tun k)) ∧
      Answers (exec (.flush t c m) s) s c fun x =>
        x = { s.ch c with tdc := { (s.ch c).tdc with units := x.tdc.units, ins := x.tdc.ins } } ∧
        ∀ k : Fin 4,
          x.tun k = (if bit m k.val then { (s.ch c).tun k with fifo := [], full := 0, q := 0, stops := [] } else (s.ch c).tun k) ∧
          x.tin k = (if bit m k.val then { (s.ch c).tin k with dead := 0, heldoff := 0, nopos := 0 } else (s.ch c).tin k)) ∧
    (∀ (k : Fin 4) (n : BitVec 10),
      (bit (s.ch c).tdc.dumpCfg k.val = false →
        exec (.tdcPop t c k n) s = .next ((s.atTime t).modCh c fun x => x.setUnit k { x.tun k with fifo := (x.tun k).fifo.drop n.toNat })) ∧
      (bit (s.ch c).tdc.dumpCfg k.val = true → exec (.tdcPop t c k n) s = .next (s.atTime t))) ∧
    (∀ (k : Fin 4) (v : Word),
      Answers (exec (.winCloseWrite t c k v) s) s c fun x =>
        x = { (s.ch c).setIn k { (s.ch c).tin k with winClose := v, fOpen := ((s.ch c).tin k).winOpen, fClose := v } with
          tdc := { x.tdc with events := if isAfter v ((s.ch c).tin k).winOpen then (s.ch c).tdc.events
                                        else evSet (s.ch c).tdc.events TdcEv.winEmpty } }) ∧
    ∀ (k : Fin 4) (v : Word), ((s.ch c).tun k).state ≠ .suspended →
      ∀ p ∈ [(UnitReg.cfg, { (s.ch c).tun k with
            cfg := v &&& 0x1FFF0003FFFF, cfgCycle := some (s.atTime t).cycle
            cfgOld := if ((s.ch c).tun k).cfgCycle = some (s.atTime t).cycle then ((s.ch c).tun k).cfgOld else ((s.ch c).tun k).cfg }),
          (.timeout, { (s.ch c).tun k with timeout := v &&& 0xFFFFFFFF }), (.gate, { (s.ch c).tun k with gate := v &&& 0x1FFFF7FFFFFFFF })],
        Answers (exec (.unitCfgWrite t c k p.1 v) s) s c fun x =>
          x = { (s.ch c).setUnit k (p.2.ready (cycleEnd (s.atTime t).cycle)) with
            tdc := { x.tdc with events := if ((s.ch c).tun k).measures then evSet (s.ch c).tdc.events TdcEv.aborted
                                          else (s.ch c).tdc.events } }

/-- R333, R334, R335, R336: a stamp unit whose wait has run out returns to idle, and an interval unit stores the record of its start;
a gate ends by its length; its result is counted and written, with FEW and zeros from fewer than three stamps and the regression from
three or more. What has not run out, or has no gate, changes nothing. -/
def Obligations.TimeoutsAndFrequency : Prop :=
  ∀ (t : Tbu) (c : ChanId) (k : Fin 4) (s : State),
    (((s.ch c).tun k).deadline = none → exec (.timeout t c k) s = .next (s.atTime t)) ∧
    (∀ d : Int, ((s.ch c).tun k).deadline = some d →
      ((max s.now t : Int) < d → exec (.timeout t c k) s = .next (s.atTime t)) ∧
      (d ≤ (max s.now t : Int) → (s.ch c).awaits k d false = false →
        (((s.ch c).tun k).mode = 1 →
          Answers (exec (.timeout t c k) s) s c fun x =>
            x = { s.ch c with tdc := x.tdc, jnc := { (s.ch c).jnc with offers := x.jnc.offers } } ∧
            x.tun k = ((s.ch c).tun k).ready d ∧ (x.tun k).state = .idle ∧ (∀ j : Fin 4, j ≠ k → x.tun j = (s.ch c).tun j) ∧
            bit x.tdc.events.bits TdcEv.timeout = true ∧ x.tdc.ins = (s.ch c).tdc.ins) ∧
        (∀ y : Stamp, ((s.ch c).tun k).mode = 2 → ((s.ch c).tun k).start = some y → ((s.ch c).tun k).fifo.length < 512 →
          ((s.ch c).tun k).gap = false →
          Answers (exec (.timeout t c k) s) s c fun x =>
            x = { s.ch c with tdc := x.tdc, jnc := { (s.ch c).jnc with offers := x.jnc.offers } } ∧
            (x.tun k).fifo = ((s.ch c).tun k).fifo ++ [y.timedOut] ∧ (x.tun k).results = ((s.ch c).tun k).results + 1 ∧
            (x.tun k).start = none ∧ (x.tun k).armAt = d ∧ bit x.tdc.events.bits TdcEv.timeout = true ∧
            x.jnc.offers =
              ((s.ch c).publish (max (s.atTime t).cycle (cycleAtOrAfter ((d + pubTbu) * 65536))) (Prod.timeout + k.val)).jnc.offers ∧
            ∀ j : Fin 4, j ≠ k → x.tun j = (s.ch c).tun j))) ∧
    (∀ y : Stamp, ((s.ch c).tun k).mode = 3 → ((s.ch c).tun k).state = .measuring → ((s.ch c).tun k).gateEnd = none →
      ((s.ch c).tun k).stamps.getLast? = some y →
      ((max s.now t : Int) < y.t + ((s.ch c).tun k).gateTbu → exec (.freqGateEnd t c k) s = .next (s.atTime t)) ∧
      (y.t + ((s.ch c).tun k).gateTbu ≤ (max s.now t : Int) → (s.ch c).awaits k (y.t + ((s.ch c).tun k).gateTbu) true = false →
        exec (.freqGateEnd t c k) s = .next ((s.atTime t).modCh c fun x => x.setUnit k { x.tun k with gateEnd := some false }))) ∧
    (((s.ch c).tun k).gateEnd = none → exec (.freqResult t c k) s = .next (s.atTime t)) ∧
    (((s.ch c).tun k).gateEnd ≠ none →
      Answers (exec (.freqResult t c k) s) s c fun x =>
        x = { s.ch c with tdc := x.tdc, jnc := { (s.ch c).jnc with offers := x.jnc.offers } } ∧
        (x.tun k).results = ((s.ch c).tun k).results + 1 ∧ (x.tun k).gateEnd = none ∧ (x.tun k).stamps = [] ∧
        bit x.tdc.events.bits TdcEv.done = true ∧ (∀ j : Fin 4, j ≠ k → x.tun j = (s.ch c).tun j) ∧ x.tdc.ins = (s.ch c).tdc.ins ∧
        bit (x.tun k).q 24 = true ∧ bit (x.tun k).q 28 = false ∧
        (((s.ch c).tun k).stamps.length < 3 →
          (x.tun k).per = 0 ∧ (x.tun k).freq = 0 ∧ bit (x.tun k).q 25 = true ∧ bit x.tdc.events.bits TdcEv.few = true) ∧
        (3 ≤ ((s.ch c).tun k).stamps.length → (regress (((s.ch c).tun k).stamps.reverse.map (·.t))).per < 2 ^ 64 →
          (x.tun k).per = word (regress (((s.ch c).tun k).stamps.reverse.map (·.t))).per ∧
          (x.tun k).freq = word (regress (((s.ch c).tun k).stamps.reverse.map (·.t))).freq ∧ bit (x.tun k).q 25 = false))

/-- R340: EN from 0 starts the dump with both counts clear and its ring at BASE, aligned to SIZE; a record of a dumped FIFO moves
into the next slot of the ring, 24 bytes of record and 8 of its number, and no other byte of the creel changes; a full ring keeps it. -/
def Obligations.MeasurementDump : Prop :=
  ∀ (t : Tbu) (c : ChanId) (s : State),
    (∀ v : Word, s.windowUp = true →
      (fld (s.ch c).tdc.dumpCfg 0 4 = 0 → fld v 0 4 ≠ 0 →
        Answers (exec (.dumpEnable t c v) s) s c fun x =>
          x = { s.ch c with tdc := { (s.ch c).tdc with
            dumpCfg := v &&& 0x1F0F, dumpWr := 0, dumpRd := 0, ringSize := min 30 (max 12 (fld v 8 5)), ringBase := x.tdc.ringBase } } ∧
          x.tdc.ringBase ≤ fld (s.ch c).tdc.dumpBase 0 34 ∧ fld (s.ch c).tdc.dumpBase 0 34 < x.tdc.ringBase + 2 ^ x.tdc.ringSize ∧
          x.tdc.ringBase % 2 ^ x.tdc.ringSize = 0) ∧
      (fld (s.ch c).tdc.dumpCfg 0 4 ≠ 0 ∨ fld v 0 4 = 0 →
        exec (.dumpEnable t c v) s = .next ((s.atTime t).modCh c fun x => { x with tdc := { x.tdc with dumpCfg := v &&& 0x1F0F } }))) ∧
    ∀ k : Fin 4,
      (((s.ch c).tun k).fifo = [] ∨ bit (s.ch c).tdc.dumpCfg k.val = false → exec (.dumpRecord t c k) s = .next (s.atTime t)) ∧
      (∀ (r : TdcRec) (rest : List TdcRec), ((s.ch c).tun k).fifo = r :: rest → bit (s.ch c).tdc.dumpCfg k.val = true →
        (((s.ch c).tdc.dumpWr - (s.ch c).tdc.dumpRd).toNat = (s.ch c).tdc.slots →
          exec (.dumpRecord t c k) s = .next ((s.atTime t).modCh c fun x => { x with tdc := { x.tdc with
            events := evSet x.tdc.events TdcEv.dumpFull } })) ∧
        (((s.ch c).tdc.dumpWr - (s.ch c).tdc.dumpRd).toNat ≠ (s.ch c).tdc.slots → Memory.wf (s.ch c).mem.data = true →
          Answers (exec (.dumpRecord t c k) s) s c fun x =>
            x = { (s.ch c).setUnit k { (s.ch c).tun k with fifo := rest } with
              mem := { (s.ch c).mem with data := x.mem.data, reqs := x.mem.reqs }, tdc := { x.tdc with dumpWr := (s.ch c).tdc.dumpWr + 1 }
              ply := { (s.ch c).ply with outAt := x.ply.outAt, events := x.ply.events } } ∧
            ∀ i : Nat,
              readByte x.mem.data i =
                if (s.ch c).tdc.ringBase + (s.ch c).tdc.dumpWr.toNat % max 1 (s.ch c).tdc.slots * 32 ≤ i ∧
                    i < (s.ch c).tdc.ringBase + (s.ch c).tdc.dumpWr.toNat % max 1 (s.ch c).tdc.slots * 32 + 32 then
                  (wordBytes r.w0 ++ wordBytes r.w1 ++ wordBytes r.w2 ++ wordBytes (word k.val)).getD
                    (i - ((s.ch c).tdc.ringBase + (s.ch c).tdc.dumpWr.toNat % max 1 (s.ch c).tdc.slots * 32)) 0
                else readByte (s.ch c).mem.data i))

/-! ### The bobbin store and the creel -/

/-- Two states of a bobbin store hold the same lines in the same slots, whichever of them was used last (R356). -/
def sameLines (m n : Mem) : Prop := n.cache.map (fun l => { l with used := 0 }) = m.cache.map fun l => { l with used := 0 }

/-- R348, R349, R353, R354: a host write to a pinned line writes its backing line too, byte for byte and nothing else; one to a cache
line or misaligned changes nothing; one that flow control holds waits. A write of MEM_BOB_CFG or MEM_BOB_BACK in REST reloads the
pinned lines, outside REST it is locked; the end of a reload, when every pinned line has been loaded, carries out what waited. Heads
that are all present and fit are held. -/
def Clause.BobbinWindow : Prop :=
  ∀ (t : Tbu) (c : ChanId) (s : State),
    (∀ (off : BitVec 27) (data : List Word), s.windowUp = true → off.toNat / 4096 < 18432 →
      (winAligned off.toNat (8 * data.length) = false ∨
          (winAligned off.toNat (8 * data.length) = true ∧ (s.ch c).mem.winHolds off.toNat = false ∧ (s.ch c).mem.pin ≤ off.toNat / 4096) →
        exec (.bobbinWindowWrite t c off data) s = .next (s.atTime t)) ∧
      (winAligned off.toNat (8 * data.length) = true → (s.ch c).mem.winHolds off.toNat = true →
        exec (.bobbinWindowWrite t c off data) s = .next ((s.atTime t).modMem c fun m => { m with winHeld := m.winHeld ++
          [{ src := .row, write := true, off := off.toNat, len := 8 * data.length, data := data }] })) ∧
      (winAligned off.toNat (8 * data.length) = true → (s.ch c).mem.winHolds off.toNat = false → off.toNat / 4096 < (s.ch c).mem.pin →
        Memory.wf (s.ch c).mem.data = true →
        Answers (exec (.bobbinWindowWrite t c off data) s) s c fun x =>
          x = { s.ch c with
            mem := { (s.ch c).mem with data := x.mem.data, reqs := x.mem.reqs }
            ply := { (s.ch c).ply with outAt := x.ply.outAt, events := x.ply.events } } ∧
          ∀ a : Nat, readByte x.mem.data a =
            if (s.ch c).mem.backing off.toNat ≤ a ∧ a < (s.ch c).mem.backing off.toNat + 8 * data.length then
              (data.flatMap wordBytes).getD (a - (s.ch c).mem.backing off.toNat) 0
            else readByte (s.ch c).mem.data a)) ∧
    (∀ v : Word, s.windowUp = true → s.hp.reqs = [] → s.hp.unlacked = [] → (s.ch c).mem.winHeld = [] →
      ((s.ch c).mod.state ≠ .rest → ∀ r : BobReg, exec (.pinReload t c r v) s = .next (s.atTime t)) ∧
      ((s.ch c).mod.state = .rest →
        exec (.pinReload t c .cfg v) s = .next ((s.atTime t).modMem c fun m => { m.dropUses [.pin] with
          bobCfg := v &&& 0x7FFF, pinLoad := decide (0 < min 17920 (fld v 0 15)) && !m.degraded, pinNext := 0
          cache := m.cache.filter fun l => decide (min 17920 (fld v 0 15) ≤ l.slot) }) ∧
        exec (.pinReload t c .back v) s = .next ((s.atTime t).modMem c fun m => { m.dropUses [.pin] with
          bobBack := v &&& 0x3FFFFF000, pinLoad := decide (0 < m.pin) && !m.degraded, pinNext := 0, cache := m.cache.filter fun l => decide (m.pin ≤ l.slot) }))) ∧
    ((s.ch c).mem.pinLoad = false ∨ (s.ch c).mem.pinNext < (s.ch c).mem.pin ∨ (s.ch c).mem.isLoading .pin = true →
      exec (.pinReloadDone t c) s = .next (s.atTime t)) ∧
    ((s.ch c).mem.pinLoad = true → (s.ch c).mem.pin ≤ (s.ch c).mem.pinNext → (s.ch c).mem.isLoading .pin = false →
      s.hp.reqs = [] → s.hp.unlacked = [] →
      ((s.ch c).mem.winHeld = [] → exec (.pinReloadDone t c) s = .next ((s.atTime t).modMem c fun m => { m with pinLoad := false })) ∧
      (∀ a : HeldAcc, (s.ch c).mem.winHeld = [a] → a.src = .row → a.write = true → winAligned a.off a.len = true →
        (s.ch c).mem.bobLostAt = none → a.off / 4096 < (s.ch c).mem.pin → Memory.wf (s.ch c).mem.data = true →
        Answers (exec (.pinReloadDone t c) s) s c fun x =>
          x = { s.ch c with
            mem := { (s.ch c).mem with data := x.mem.data, reqs := x.mem.reqs, pinLoad := false, winHeld := [] }
            ply := { (s.ch c).ply with outAt := x.ply.outAt, events := x.ply.events } } ∧
          ∀ i : Nat, readByte x.mem.data i =
            if (s.ch c).mem.backing a.off ≤ i ∧ i < (s.ch c).mem.backing a.off + 8 * a.data.length then
              (a.data.flatMap wordBytes).getD (i - (s.ch c).mem.backing a.off) 0
            else readByte (s.ch c).mem.data i)) ∧
    ((s.ch c).mem.holding = true → (s.ch c).mem.cacheFull = false → (s.ch c).mem.degraded = false → (s.ch c).mem.bobLostAt = none →
      ∀ h : List Nat, (s.ch c).mem.heads = [h] →
        ((s.ch c).mem.headFits h = true → (∀ l ∈ h, (s.ch c).mem.present l = true) →
          ∃ u, exec (.headsHeld t c) s = .next u ∧ u = { s.atTime t with freeCtr := s.freeCtr + 1, chans := u.chans } ∧
            (∀ d : ChanId, d ≠ c → u.ch d = s.ch d) ∧ u.ch c = { s.ch c with mem := (u.ch c).mem } ∧
            (u.ch c).mem.data = (s.ch c).mem.data ∧ (u.ch c).mem.holding = false ∧ (u.ch c).mem.heads = [] ∧
            (u.ch c).mem.allHeld h = true) ∧
        ((s.ch c).mem.headFits h = false →
          ∃ u, exec (.headsHeld t c) s = .next u ∧ u = { s.atTime t with freeCtr := s.freeCtr + 1, chans := u.chans } ∧
            (∀ d : ChanId, d ≠ c → u.ch d = s.ch d) ∧ u.ch c = { s.ch c with mem := (u.ch c).mem } ∧
            (u.ch c).mem.cacheFull = true ∧ (u.ch c).mem.heads = [h] ∧ sameLines (s.ch c).mem (u.ch c).mem ∧
            bit (u.ch c).mem.events.bits MemEv.cacheFull = true))

/-- R362, R363, R364, R366, R369, R370, R372, R374, R375: the one read that may go is issued, without the one device that takes no
part, and its row is open in every device that does; a completed read leaves the controller, with its latency, whether it was late,
and whether a data lane was reconstructed; a refresh excuses its device where the rule of excusals lets it, and waits where not; the
end of an excusal replays its posted writes; a device excused too long is retired, which leaves the creel REDUCED; RAA_CLEAR empties
the activate tables. In a blackout no command goes, and in HOLDUP, VAULTED and without power the creel is left as it stands (R388).
That a refresh leaves no row open in its bank is log entry 60 (PRESUMED); that the excusal of a device whose verification failed ends
with its rescue alone, and is not held to the 2 µs of R366 while there is a Doffer, is log entry 61 (DEDUCED). -/
def Obligations.CreelController : Prop :=
  ∀ (t : Tbu) (c : ChanId) (s : State), (s.ch c).mod.state ≠ .drain →
    (s.creelRuns = false →
      (∀ ready : BitVec 32, exec (.creelCommand t c ready) s = .next (s.atTime t)) ∧
      (∀ (d : Fin 5) (b : Fin 32), exec (.refreshDue t c d b) s = .next (s.atTime t)) ∧
      (∀ d : Fin 5, exec (.excusalEnd t c d) s = .next (s.atTime t) ∧ exec (.deviceTimeout t c d) s = .next (s.atTime t)) ∧
      exec (.raaClear t c) s = .next (s.atTime t)) ∧
    (∀ (ready : BitVec 32), s.creelRuns = true →
      ((s.ch c).mem.inBlackout = true →
        Answers (exec (.creelCommand t c ready) s) s c fun x =>
          x = { s.ch c with
            mem := x.mem, stq := { (s.ch c).stq with staged := x.stq.staged }
            ply := { (s.ch c).ply with outAt := x.ply.outAt, events := x.ply.events } } ∧
          x.mem.inflight = (s.ch c).mem.inflight ∧ x.mem.devs = (s.ch c).mem.devs ∧ x.mem.acts = (s.ch c).mem.acts ∧
          x.mem.served = (s.ch c).mem.served) ∧
      (∀ r : CreelReq, (s.ch c).feedCreel (s.atTime t).cycle (max s.now t) = s.ch c → (s.ch c).mem.change = none →
        (s.ch c).mem.nrefQ = Vector.replicate 8 [] → (s.ch c).mem.reqs = [r] → r.write = false →
        bit ready ((s.ch c).skn.image.creelAt r.addr).index = true →
        (s.ch c).mem.creel ≠ .lost → ((s.ch c).mem.missing r.addr ((s.ch c).skn.image.creelAt r.addr).index).length ≤ 1 →
        Answers (exec (.creelCommand t c ready) s) s c fun x =>
          x = { s.ch c with mem := x.mem } ∧ x.mem.data = (s.ch c).mem.data ∧ x.mem.reqs = [] ∧
          x.mem.inflight = (s.ch c).mem.inflight ++ [{ r with
            miss := ((s.ch c).mem.missing r.addr ((s.ch c).skn.image.creelAt r.addr).index).head? }] ∧
          ∀ d : Fin 5, d ∉ (s.ch c).mem.missing r.addr ((s.ch c).skn.image.creelAt r.addr).index →
            vget (x.mem.devs[d]).rows ((s.ch c).skn.image.creelAt r.addr).index none = some ((s.ch c).skn.image.creelAt r.addr).row)) ∧
    (∀ (r : CreelReq) (rest : List CreelReq) (last : Option (Fin 5)), (s.ch c).mem.inflight = r :: rest → r.use ≠ .copy →
      (s.ch c).mem.isLoading r.use = false →
      ∃ u, exec (.readComplete t ⟨c, last⟩) s = .next u ∧ u = { s.atTime t with freeCtr := s.freeCtr + 1, chans := u.chans } ∧
        (∀ d : ChanId, d ≠ c → u.ch d = s.ch d) ∧
        u.ch c = { s.ch c with mem := { (s.ch c).mem with
          inflight := rest
          recon := if (r.miss.orElse fun _ => last).any (fun d => (s.ch c).skn.image.holdsData d.val) then satInc (s.ch c).mem.recon
                   else (s.ch c).mem.recon
          overdue := (u.ch c).mem.overdue, maxLat := (u.ch c).mem.maxLat
          cache := (u.ch c).mem.cache, useCtr := (u.ch c).mem.useCtr, usedTo := (u.ch c).mem.usedTo } } ∧
        sameLines (s.ch c).mem (u.ch c).mem ∧
        (∀ p : Fin 4, (u.ch c).mem.overdue[p] =
          if p = r.port ∧ (s.ch c).mem.target p ≤ max s.now t - r.arrived then satInc (s.ch c).mem.overdue[p]
          else (s.ch c).mem.overdue[p]) ∧
        ∀ p : Fin 4, (u.ch c).mem.maxLat[p].toNat =
          if p = r.port then max (s.ch c).mem.maxLat[p].toNat (min (2 ^ 32 - 1) ((max s.now t - r.arrived) / ns))
          else (s.ch c).mem.maxLat[p].toNat) ∧
    (∀ (d : Fin 5) (b : Fin 32),
      (s.creelRuns = true → bit (s.ch c).mem.retired d.val = false → (s.ch c).mem.inBlackout = false →
        ((s.ch c).mem.mayExcuse d (some b) = true →
          Answers (exec (.refreshDue t c d b) s) s c fun x =>
            x = { s.ch c with mem := { (s.ch c).mem with
              excused := (s.ch c).mem.excused ++ [{ dev := d, bank := some b, since := max s.now t }], devs := x.mem.devs } } ∧
            x.mem.devs[d] = { (s.ch c).mem.devs[d] with rows := vput (s.ch c).mem.devs[d].rows b none } ∧
            ∀ o : Fin 5, o ≠ d → x.mem.devs[o] = (s.ch c).mem.devs[o]) ∧
        ((s.ch c).mem.mayExcuse d (some b) = false →
          exec (.refreshDue t c d b) s = .next ((s.atTime t).modMem c fun m => { m with
            waiting := m.waiting ++ [{ dev := d, bank := some b, since := max s.now t }] }))) ∧
      (bit (s.ch c).mem.retired d.val = true ∨ (s.ch c).mem.inBlackout = true →
        exec (.refreshDue t c d b) s = .next (s.atTime t))) ∧
    (∀ d : Fin 5,
      ((∀ e ∈ (s.ch c).mem.excused, e.dev = d → e.why = .verify) → exec (.excusalEnd t c d) s = .next (s.atTime t)) ∧
      (∀ e : Excusal, s.creelRuns = true → (s.ch c).mem.excused = [e] → e.dev = d → e.why ≠ .verify → e.why ≠ .neighbour →
        (s.ch c).mem.waiting = [] →
        Answers (exec (.excusalEnd t c d) s) s c fun x =>
          x = { s.ch c with mem := { (s.ch c).mem with excused := [], devs := x.mem.devs } } ∧
          x.mem.devs[d] = { (s.ch c).mem.devs[d] with posted := [], scratch := false } ∧
          ∀ o : Fin 5, o ≠ d → x.mem.devs[o] = (s.ch c).mem.devs[o]) ∧
      ((∀ e ∈ (s.ch c).mem.excused, e.dev = d → e.why ≠ .verify ∨ (s.ch c).flt.dofferLost = true → max s.now t ≤ e.since + 2 * us) →
        exec (.deviceTimeout t c d) s = .next (s.atTime t)) ∧
      (∀ e ∈ (s.ch c).mem.excused, s.creelRuns = true → e.dev = d → e.why ≠ .verify ∨ (s.ch c).flt.dofferLost = true →
        e.since + 2 * us < max s.now t →
        (s.ch c).mem.creel = .normal → (s.ch c).mem.degraded = false → (s.ch c).flt.degraded = false →
        ∃ u, exec (.deviceTimeout t c d) s = .next u ∧ u = { s.atTime t with flt := u.flt, chans := u.chans } ∧
          (∀ o : ChanId, o ≠ c → u.ch o = s.ch o) ∧ u.ch c = { s.ch c with mem := (u.ch c).mem, flt := (u.ch c).flt } ∧
          (u.ch c).mem.data = (s.ch c).mem.data ∧ (u.ch c).mem.creel = .reduced ∧
          (u.ch c).mem.retired = setBit (s.ch c).mem.retired d.val ∧ bit (u.ch c).mem.events.bits MemEv.retired = true ∧
          (∀ o ∈ (u.ch c).mem.excused, o.dev ≠ d) ∧ (u.ch c).flt.creel = true ∧
          u.flt.log = logged s t { odo := s.trk.odo, info := logInfo (some c) 4 (d.val + 512) 0 0 })) ∧
    (s.creelRuns = true → exec (.raaClear t c) s = .next ((s.atTime t).modMem c fun m => { m with acts := Vector.replicate 8 {} }))

/-- R363, R386: the bursts of a copy or a fill. A command of the controller that finds the DOFFER port free writes the next burst of a
FILL, or reads that of a COPY; a burst that a COPY has read is written to its destination as it was, its lost lane reconstructed. No
other byte changes. That the two go through the port one burst at a time, each after the one before, is log entry 32 (DEDUCED). -/
def Clause.ServiceBursts : Prop :=
  ∀ (t : Tbu) (c : ChanId) (s : State), (s.ch c).mod.state ≠ .drain → Memory.wf (s.ch c).mem.data = true →
    (∀ (ready : BitVec 32), s.creelRuns = true → (s.ch c).stq.staged = [] → (s.ch c).mem.dofferBusy = false →
      (∀ (dst len : Nat) (pat : Word), (s.ch c).dof.running = some (.fill dst len pat) → (s.ch c).mem.svcAt < len →
        Answers (exec (.creelCommand t c ready) s) s c fun x =>
          x = { s.ch c with mem := x.mem, ply := { (s.ch c).ply with outAt := x.ply.outAt, events := x.ply.events } } ∧
          x.mem.svcAt = (s.ch c).mem.svcAt + 64 ∧
          ∀ a : Nat, readByte x.mem.data a =
            if dst + (s.ch c).mem.svcAt ≤ a ∧ a < dst + (s.ch c).mem.svcAt + 64 then
              BitVec.ofNat 8 (fld pat (8 * ((a - (dst + (s.ch c).mem.svcAt)) % 8)) 8)
            else readByte (s.ch c).mem.data a) ∧
      (∀ src dst len : Nat, (s.ch c).dof.running = some (.copy src dst len) → (s.ch c).mem.svcAt < len →
        Answers (exec (.creelCommand t c ready) s) s c fun x =>
          x = { s.ch c with mem := x.mem } ∧ x.mem.data = (s.ch c).mem.data ∧ x.mem.svcAt = (s.ch c).mem.svcAt ∧
          x.mem.svcBuf = (upTo 64).map fun k => readByte (s.ch c).mem.data (src + (s.ch c).mem.svcAt + k))) ∧
    ∀ (r : CreelReq) (rest : List CreelReq) (last : Option (Fin 5)) (src dst len : Nat), (s.ch c).mem.inflight = r :: rest →
      r.use = .copy → (s.ch c).dof.running = some (.copy src dst len) → (s.ch c).mem.creel ≠ .lost →
      ∃ u, exec (.readComplete t ⟨c, last⟩) s = .next u ∧ (∀ d : ChanId, d ≠ c → u.ch d = s.ch d) ∧
        (u.ch c).mem.svcAt = (s.ch c).mem.svcAt + 64 ∧
        ∀ a : Nat, readByte (u.ch c).mem.data a =
          if dst + (s.ch c).mem.svcAt ≤ a ∧ a < dst + (s.ch c).mem.svcAt + 64 then
            (s.ch c).mem.svcBuf.getD (a - (dst + (s.ch c).mem.svcAt)) 0
          else readByte (s.ch c).mem.data a

/-- R113, R376, R386, R387: a memory service that a test refuses leaves only its reason; an accepted one waits with the operands of
its write. The Doffer begins the next: a COPY or FILL at once, one in TRIM by asking for its grant. A COPY or FILL is completed when
its last burst is done, not before, and the completion changes no byte (that its bursts go one by one is log entry 32, DEDUCED);
training that passes leaves the creel at the fastest trained grade and the channel in REST, and TOLL_GRADE clear where that grade is
DDR5-6400 (R439). -/
def Clause.ServiceLife : Prop :=
  ∀ (t : Tbu) (c : ChanId) (s : State),
    (s.windowUp = true →
      ∀ p ∈ [(Instr.copy t c, 1, Service.copy (fld (s.ch c).mem.svcSrc 0 34) (fld (s.ch c).mem.svcDst 0 34) (fld (s.ch c).mem.svcLen 0 35)),
          (.fill t c, 2, .fill (fld (s.ch c).mem.svcDst 0 34) (fld (s.ch c).mem.svcLen 0 35) (s.ch c).mem.svcPat),
          (.train t c, 3, .train false)],
        ((s.ch c).configured = false → (s.ch c).svcTest p.2.1 = 1) ∧
        ((s.ch c).svcTest p.2.1 ≠ 0 →
          exec p.1 s = .next ((s.atTime t).modMem c fun m => { m with svcResult := (s.ch c).svcTest p.2.1 })) ∧
        ((s.ch c).svcTest p.2.1 = 0 →
          exec p.1 s = .next ((s.atTime t).modCh c fun x => { x with
            mem := { x.mem with svcResult := 0 }, dof := { x.dof with queue := x.dof.queue ++ [p.2.2] } }))) ∧
    ((s.ch c).dof.queue = [] ∨ (s.ch c).dof.running ≠ none ∨ (s.ch c).dof.restarting = true ∨ (s.ch c).flt.dofferLost = true →
      exec (.serviceStart t c) s = .next (s.atTime t)) ∧
    (∀ (x : Service) (rest : List Service), (s.ch c).dof.queue = x :: rest → (s.ch c).dof.running = none →
      (s.ch c).dof.restarting = false → (s.ch c).flt.dofferLost = false → (s.ch c).configured = true → s.working = true →
      (x.inTrim = false →
        exec (.serviceStart t c) s = .next ((s.atTime t).modCh c fun y => { y with
          dof := { y.dof with queue := rest, running := some x }, mem := { y.mem with svcAt := 0, svcBuf := [] } })) ∧
      (x.inTrim = true → (s.ch c).mod.state = .rest → (s.ch c).seq.checking = false →
        ∃ u, exec (.serviceStart t c) s = .next u ∧
          u = { s.atTime t with chans := u.chans, mod := { s.mod with events := evSet s.mod.events ModEv.stateChange } } ∧
          (∀ d : ChanId, d ≠ c → u.ch d = s.ch d) ∧ s.sameCreels u ∧
          (u.ch c).mod.state = .trim ∧ (u.ch c).dof.running = some x ∧ (u.ch c).dof.queue = rest ∧ (u.ch c).tlh.granted = false ∧
          (u.ch c).tlh.request = some { tick := s.tlh.tick, service := true } ∧
          ∀ k : Fin 4, ((u.ch c).tun k).state = .suspended)) ∧
    (((s.ch c).dof.running = none → exec (.svcDone t c) s = .next (s.atTime t)) ∧
      (∀ x : Service, (s.ch c).dof.running = some x → x.inTrim = true ∨ (s.ch c).mem.svcAt < x.bytes ∨ (s.ch c).mem.dofferBusy = true →
        exec (.svcDone t c) s = .next (s.atTime t)) ∧
      ∀ (x : Service) (dst len : Nat) (filled : Bool),
        (filled = false ∧ (∃ src, x = .copy src dst len) ∨ filled = true ∧ ∃ pat, x = .fill dst len pat) →
        (s.ch c).dof.running = some x → len ≤ (s.ch c).mem.svcAt → (s.ch c).mem.dofferBusy = false →
        exec (.svcDone t c) s = .next ((s.atTime t).modCh c fun y => { y with
          dof := { y.dof with running := none }
          mem := { y.mem.dropUses [.copy] with
            svcDone := y.mem.svcDone + 1, svcLast := 0, events := evSet y.mem.events MemEv.svcDone
            invalid := y.mem.invalid && !(filled && dst == 0 && len == creelBytes) } })) ∧
    ∀ (p0 p1 p2 : BitVec 5) (eyes : List EyeReport) (i : Bool), (s.ch c).dof.running = some (.train i) →
      ((s.ch c).tlh.granted = false → exec (.trained t c p0 p1 p2 eyes) s = .next (s.atTime t)) ∧
      ((s.ch c).tlh.granted = true → (s.ch c).mem.failEvery #v[p0, p1, p2] eyes = [] → (s.ch c).mem.creel ≠ .lost →
        (∃ g ∈ [0, 1, 2], (s.ch c).mem.trainsAt #v[p0, p1, p2] eyes g = true) → (s.ch c).dof.queue.any Service.isRestore = false →
        ∃ u, exec (.trained t c p0 p1 p2 eyes) s = .next u ∧ (∀ d : ChanId, d ≠ c → u.ch d = s.ch d) ∧ s.sameCreels u ∧
          (u.ch c).mem.train = .ready ∧ (u.ch c).mod.state = .rest ∧ (u.ch c).dof.running = none ∧ (u.ch c).tlh.granted = false ∧
          bit (u.ch c).mem.events.bits MemEv.trained = true ∧ (u.ch c).mem.grade = (u.ch c).mem.fastest ∧
          (u.ch c).tlh.tollGrade = ((s.ch c).tlh.tollGrade && (u.ch c).mem.grade != 0) ∧
          ∀ g : Fin 3, (s.ch c).mem.permits g.val = true →
            bit (u.ch c).mem.trained g.val = (s.ch c).mem.trainsAt #v[p0, p1, p2] eyes g.val)

/-- A memory service is requested, begun and completed, and its bursts move the bytes. -/
def Obligations.CreelServices : Prop := Clause.ServiceLife ∧ Clause.ServiceBursts

/-- R378, R379, R382: a visit opens on the next device that is not retired, RETRAIN_MS (20 to 500 ms) after the last one, or after a
blackout a millisecond after the previous; its pauses are 50 µs apart, each excuses it for every bank, and after the fourth the
centres of its bits move towards what was measured, by at most two steps; a bad eye begins a rescue, which applies what it finds; a
grade change discards the window. Where no visit may open, and while the creel is left as it stands (R388), nothing changes. That a
pause leaves no row open in its device is log entry 60 (PRESUMED), the excusal until a rescue is log entry 61 (DEDUCED), and that a
midpoint is rounded down is log entry 62 (DESIGN CHOICE). -/
def Clause.RetrainingVisits : Prop :=
  ∀ (t : Tbu) (c : ChanId) (s : State),
    (s.creelRuns = false →
      exec (.retrainVisit t c) s = .next (s.atTime t) ∧ exec (.postBlackoutVisit t c) s = .next (s.atTime t) ∧
      exec (.retrainPause t c) s = .next (s.atTime t) ∧
      ∀ e : EyeReport, exec (.gatherWindowEnd t c e) s = .next (s.atTime t) ∧ exec (.rescueEnd t c e) s = .next (s.atTime t)) ∧
    ((s.ch c).mayVisit = false → exec (.retrainVisit t c) s = .next (s.atTime t) ∧ exec (.postBlackoutVisit t c) s = .next (s.atTime t)) ∧
    (max s.now t < (s.ch c).mem.visitAt + min 500 (max 20 (fld (s.ch c).mem.cfg 16 16)) * ms →
      exec (.retrainVisit t c) s = .next (s.atTime t)) ∧
    (∀ b : Tbu, (s.ch c).mem.postAt = some b → max s.now t < b → exec (.postBlackoutVisit t c) s = .next (s.atTime t)) ∧
    (∀ d : Fin 5, s.creelRuns = true → (s.ch c).mayVisit = true →
      ((s.ch c).mem.postVisits = [] → (s.ch c).mem.nextLive (s.ch c).mem.nextDev = some d →
        (s.ch c).mem.visitAt + min 500 (max 20 (fld (s.ch c).mem.cfg 16 16)) * ms ≤ max s.now t →
        exec (.retrainVisit t c) s = .next ((s.atTime t).modMem c fun m => { m with
          visit := some { dev := d, pauses := 0, rescue := false }, visitAt := max s.now t, nextDev := d + 1 })) ∧
      (∀ rest : List (Fin 5), (s.ch c).mem.postVisits = d :: rest →
        (∀ b ∈ (s.ch c).mem.postAt, b ≤ max s.now t) →
        exec (.postBlackoutVisit t c) s = .next ((s.atTime t).modMem c fun m => { m with
          visit := some { dev := d, pauses := 0, rescue := false }, visitAt := max s.now t, postVisits := rest
          postAt := some (max s.now t + ms) }))) ∧
    (((s.ch c).mem.visit = none →
      exec (.retrainPause t c) s = .next (s.atTime t) ∧
        ∀ e : EyeReport, exec (.gatherWindowEnd t c e) s = .next (s.atTime t) ∧ exec (.rescueEnd t c e) s = .next (s.atTime t)) ∧
    (∀ v : Visit, s.creelRuns = true → (s.ch c).mem.visit = some v → (s.ch c).mem.pausing v.dev = false →
      (∀ p : Tbu, v.pauseAt = some p → max s.now t < p + 50 * us → exec (.retrainPause t c) s = .next (s.atTime t)) ∧
      (v.pauses < (if v.rescue then 16 else 4) → (s.ch c).mem.preparing = false → (s.ch c).mem.verifying v.dev = false →
        (∀ p ∈ v.pauseAt, p + 50 * us ≤ max s.now t) →
        ((s.ch c).mem.mayExcuse v.dev none = true →
          Answers (exec (.retrainPause t c) s) s c fun x =>
            x = { s.ch c with mem := { (s.ch c).mem with
              visit := some { v with pauses := v.pauses + 1, pauseAt := some (max s.now t) }
              excused := (s.ch c).mem.excused ++ [{ dev := v.dev, bank := none, since := max s.now t, why := .pause }]
              devs := x.mem.devs } } ∧
            x.mem.devs[v.dev].rows = Vector.replicate 32 none ∧
            ∀ o : Fin 5, o ≠ v.dev → x.mem.devs[o] = (s.ch c).mem.devs[o]) ∧
        ((s.ch c).mem.mayExcuse v.dev none = false →
          exec (.retrainPause t c) s = .next ((s.atTime t).modMem c fun m => { m with
            visit := some { v with pauses := v.pauses + 1, pauseAt := some (max s.now t) }
            waiting := m.waiting ++ [{ dev := v.dev, bank := none, since := max s.now t, why := .pause }] }))) ∧
      (∀ e : EyeReport,
        (v.rescue = false → v.pauses = 4 →
          ((s.ch c).mem.change ≠ none →
            exec (.gatherWindowEnd t c e) s = .next ((s.atTime t).modMem c fun m => { m with
              visit := none, events := evSet (evSet m.events MemEv.speedDeferred) MemEv.retrainDiscard })) ∧
          ((s.ch c).mem.change = none → (s.ch c).mem.eyesOk e = false ∨ e.edges = false →
            exec (.gatherWindowEnd t c e) s = .next ((s.atTime t).modMem c fun m => { m with
              visit := some { dev := v.dev, pauses := 0, rescue := true, pauseAt := v.pauseAt } })) ∧
          ((s.ch c).mem.change = none → (s.ch c).mem.eyesOk e = true → e.edges = true →
            Answers (exec (.gatherWindowEnd t c e) s) s c fun x =>
              x = { s.ch c with mem := { (s.ch c).mem with
                visit := none, trnLast := s.trk.odo, devs := x.mem.devs, sets := x.mem.sets } } ∧
              (∀ o : Fin 5, o ≠ v.dev → x.mem.devs[o] = (s.ch c).mem.devs[o]) ∧
              x.mem.devs[v.dev].set.vref = (s.ch c).mem.devs[v.dev].set.vref ∧
              ∀ i : Fin 8,
                x.mem.devs[v.dev].set.rc[i].toNat ≤ (s.ch c).mem.devs[v.dev].set.rc[i].toNat + 2 ∧
                (s.ch c).mem.devs[v.dev].set.rc[i].toNat ≤ x.mem.devs[v.dev].set.rc[i].toNat + 2 ∧
                x.mem.devs[v.dev].set.wc[i].toNat ≤ (s.ch c).mem.devs[v.dev].set.wc[i].toNat + 2 ∧
                (s.ch c).mem.devs[v.dev].set.wc[i].toNat ≤ x.mem.devs[v.dev].set.wc[i].toNat + 2)) ∧
        (v.rescue = true → v.pauses ≠ 0 → (s.ch c).mem.eyesOk e = true → (s.ch c).mem.rescues = [] → (s.ch c).mem.waiting = [] →
          Answers (exec (.rescueEnd t c e) s) s c fun x =>
            x = { s.ch c with mem := { (s.ch c).mem with
              visit := none, trnLast := s.trk.odo, devs := x.mem.devs, sets := x.mem.sets
              excused := (s.ch c).mem.excused.filter fun o => !(o.dev == v.dev && o.why == .verify)
              events := evSet (s.ch c).mem.events MemEv.rescue } } ∧
            (∀ o : Fin 5, o ≠ v.dev → x.mem.devs[o] = (s.ch c).mem.devs[o]) ∧
            x.mem.devs[v.dev].set.vref = e.vref ∧
            ∀ i : Fin 8, x.mem.devs[v.dev].set.rc[i] = eyeMid e.read[i] ∧ x.mem.devs[v.dev].set.wc[i] = eyeMid e.write[i]))))

/-- R380, R381, R382: a grade request that a test refuses leaves only its reason; an accepted one waits; its preparation begins with
no gather window open and a millisecond after the previous blackout; the blackout with every device served, and it ends at the new
grade, with a visit due to every device that is not retired. While the creel is left as it stands (R388) no step of a change comes
about. That a device whose verification failed stays excused until its rescue is log entry 61 (DEDUCED). -/
def Clause.SpeedChange : Prop :=
  ∀ (t : Tbu) (c : ChanId) (s : State),
    (∀ g : BitVec 2, s.windowUp = true →
      ((s.ch c).speedTest g ≠ 0 →
        exec (.speedRequest t c g) s = .next ((s.atTime t).modMem c fun m => { m with
          speedResult := (s.ch c).speedTest g, speedSrc := false })) ∧
      ((s.ch c).speedTest g = 0 → (s.ch c).mem.preparing = false →
        exec (.speedRequest t c g) s = .next ((s.atTime t).modCh c fun x => { x with
          mem := { x.mem with speedResult := 0, speedSrc := false, change := some { grade := g, toll := false } }
          tlh := { x.tlh with tollGrade := false, stepPending := 0 } }))) ∧
    ((s.ch c).mem.change = none ∨ s.creelRuns = false →
      exec (.speedPrepare t c) s = .next (s.atTime t) ∧ exec (.blackout t c) s = .next (s.atTime t) ∧
      ∀ f : BitVec 5, exec (.speedDone t c f) s = .next (s.atTime t)) ∧
    (∀ g : GradeChange, s.creelRuns = true → (s.ch c).mem.change = some g →
      (g.phase = .wait → (∀ v ∈ (s.ch c).mem.visit, v.rescue = true) → (∀ b ∈ (s.ch c).mem.blackoutEnd, b + ms ≤ max s.now t) →
        exec (.speedPrepare t c) s = .next ((s.atTime t).modMem c fun m => { m with change := some { g with phase := .prepare } })) ∧
      (g.phase = .prepare → (s.ch c).mem.excused = [] → (∀ d : Fin 5, (s.ch c).mem.devs[d].posted = []) →
        Answers (exec (.blackout t c) s) s c fun x =>
          x = { s.ch c with mem := { (s.ch c).mem with change := some { g with phase := .blackout }, devs := x.mem.devs } } ∧
          ∀ d : Fin 5, x.mem.devs[d] = { (s.ch c).mem.devs[d] with rows := Vector.replicate 32 none }) ∧
      (∀ f : BitVec 5, g.phase = .blackout →
        Answers (exec (.speedDone t c f) s) s c fun x =>
          x = { s.ch c with
            tlh := { (s.ch c).tlh with stepPending := x.tlh.stepPending, tollGrade := (s.ch c).tlh.tollGrade && g.grade != 0 }
            mem := { (s.ch c).mem with
              grade := g.grade, devs := x.mem.devs, change := (s.ch c).mem.nextChange, nextChange := none
              blackoutEnd := some (max s.now t), postAt := some (max s.now t + ms), postVisits := x.mem.postVisits
              excused := x.mem.excused, waiting := x.mem.waiting, rescues := x.mem.rescues, visit := x.mem.visit
              events := evSet (s.ch c).mem.events MemEv.speedDone } } ∧
          (∀ d : Fin 5, (x.mem.devs[d].posted = (s.ch c).mem.devs[d].posted ∧
            (g.grade.toNat < 3 → x.mem.devs[d].set = (vget (s.ch c).mem.sets g.grade.toNat (Vector.replicate 5 {}))[d]) ∧
            (d ∈ x.mem.postVisits ↔ bit (s.ch c).mem.retired d.val = false))) ∧
          ((s.ch c).mem.visit = none → (s.ch c).mem.rescues = [] → f = 0 → x.mem.visit = none) ∧
          ∀ d : Fin 5, bit (s.ch c).mem.retired d.val = false → f = setBit 0 d.val → (s.ch c).mem.excused = [] →
            (s.ch c).mem.waiting = [] → (s.ch c).mem.nextChange = none →
            x.mem.excused = [{ dev := d, bank := none, since := max s.now t, why := .verify }] ∧
            x.mem.rescues ++ (x.mem.visit.toList.filter (·.rescue)).map (·.dev) ≠ []))

/-- Gather windows, rescues and visits of the creel's training, and its grade changes. -/
def Obligations.TrainingAndGrades : Prop := Clause.RetrainingVisits ∧ Clause.SpeedChange

/-- R477, R479, R480, R489: a read with an address-parity error is discarded and its line fetched again. The first lost bobbin device,
with no data, no echo clock, or four such errors within 1 µs, empties the cache and abandons heads, WAV holding, or staying at the 0
of a frozen path, and the markers low in a pass; the store then goes over to creel-direct reads; when data arrives again the masking
is complete, with its record. The gap of the record, in whole ns and rounded down, is log entry 46 (DEDUCED). -/
def Clause.BobbinLoss : Prop :=
  ∀ (t : Tbu) (c : ChanId) (s : State),
    (∀ (d : Fin 2) (slot : BitVec 15) (earlier : List Tbu),
      earlier = (s.ch c).mem.parityAt[d].filter (fun p => decide (max s.now t ≤ p + us)) → earlier.length < 3 →
      (s.ch c).mem.degraded = false → (s.ch c).mem.bobLostAt = none →
      exec (.bobbinDeviceLost t c d (.parityError slot)) s = .next ((s.atTime t).modMem c fun m => { m with
        parityAt := (vput m.parityAt d (earlier ++ [max s.now t]))
        again := if slot.toNat ∈ m.again then m.again else m.again ++ [slot.toNat] })) ∧
    (∀ (d : Fin 2) (why : BobLoss),
      ((s.ch c).mem.degraded = true ∨ (s.ch c).mem.bobLostAt ≠ none → exec (.bobbinDeviceLost t c d why) s = .next (s.atTime t)) ∧
      ((s.ch c).mem.degraded = false → (s.ch c).mem.bobLostAt = none →
        (∀ slot, why = .parityError slot → 3 ≤ ((s.ch c).mem.parityAt[d].filter (fun p => decide (max s.now t ≤ p + us))).length) →
        Answers (exec (.bobbinDeviceLost t c d why) s) s c fun x =>
          x = { s.ch c with mem := x.mem, jnc := x.jnc, dst := x.dst, ply := { (s.ch c).ply with
            wav := x.ply.wav, markers := x.ply.markers, heldVal := x.ply.heldVal, events := x.ply.events, outAt := x.ply.outAt
            gapBob := x.ply.gapBob, gapClk := x.ply.gapClk } } ∧ sameDistaff (s.ch c) x ∧
          (lanesQuiet (s.ch c) → x.jnc = (s.ch c).jnc) ∧ x.dst.shortCut = {} ∧ x.mem.data = (s.ch c).mem.data ∧ x.mem.bobLostAt = some (max s.now t) ∧ x.mem.bobDevice = d ∧ x.mem.cache = [] ∧
          x.mem.heads = [] ∧ x.mem.holding = false ∧
          ((s.ch c).mod.state = .run → (s.ch c).seq.playing = true →
            x.ply.markers = Vector.replicate 4 .low ∧
            ((s.ch c).ply.frozen = false ∨ (s.ch c).ply.wav ≠ .zero → x.ply.wav = .hold) ∧
            ((s.ch c).ply.frozen = true → (s.ch c).ply.wav = .zero → x.ply.wav = .zero)) ∧
          ((s.ch c).mod.state ≠ .run →
            x.ply = { (s.ch c).ply with gapBob := x.ply.gapBob, gapClk := x.ply.gapClk }))) ∧
    ((s.ch c).mem.bobLostAt = none →
      exec (.bobDegraded t c) s = .next (s.atTime t) ∧ exec (.outputResume t c) s = .next (s.atTime t)) ∧
    (∀ a : Tbu, (s.ch c).mem.bobLostAt = some a →
      ((s.ch c).mem.degraded = false → (s.ch c).mem.winHeld = [] → (s.ch c).mem.retired = 0 → s.hp.reqs = [] → s.hp.unlacked = [] →
        exec (.bobDegraded t c) s = .next ((s.atTime t).modCh c fun x => { x with
          mem := { x.mem with
            degraded := true, pinLoad := false, directTo := (s.ch c).playBurst (s.atTime t).cycle, events := evSet x.mem.events MemEv.bobDegraded }, flt := { x.flt with bob := true } })) ∧
      ((s.ch c).mem.inBlackout = true → exec (.outputResume t c) s = .next (s.atTime t)) ∧
      ((s.ch c).mem.degraded = true → (s.ch c).mem.inBlackout = false → (s.ch c).mem.bobSecond = false →
        ∃ u, exec (.outputResume t c) s = .next u ∧ u = { s.atTime t with flt := u.flt, chans := u.chans } ∧
          (∀ d : ChanId, d ≠ c → u.ch d = s.ch d) ∧
          u.ch c = { s.ch c with ply := (u.ch c).ply, mem := { (s.ch c).mem with bobLostAt := none }, flt := (u.ch c).flt } ∧
          (u.ch c).flt = (s.ch c).flt.put (s.atTime t).cycle 1 ∧
          ∀ gap : Nat, gap = (if (s.ch c).mem.bobInRun then ((s.ch c).dstTo (q16 (max s.now t))).bobGap (max s.now t) else 0) →
            u.flt.log = logged s t { odo := s.trk.odo, info := logInfo (some c) 1 (s.ch c).mem.bobDevice.val 0 gap }))

/-- The bobbin window, its pinned lines and held heads, and the loss of a bobbin device. -/
def Obligations.BobbinStore : Prop := Clause.BobbinWindow ∧ Clause.BobbinLoss

/-! ### The link -/

/-- R104, R395, R396, R477: a trained link comes up on the lanes both ends report locked, and takes a charged DARK module to LINKED; a
failing lane is dropped, and logged while enough remain; a lane locked at both ends for a millisecond without error, its ALIGN blocks in
place, is added. Which ALIGN block is in place, or missing, is log entry 65 (DEDUCED). -/
def Clause.LinkUpAndLanes : Prop :=
  ∀ (t : Tbu) (s : State),
    (s.hp.state ≠ .training ∨ s.side.tap = .extest ∨ laneCount (s.hp.locked &&& s.hp.farLocked) < s.hp.minLanes ∨ s.hp.idleSeen = false →
      exec (.linkUp t) s = .next (s.atTime t)) ∧
    (s.hp.state = .training → s.side.tap ≠ .extest → s.hp.minLanes ≤ laneCount (s.hp.locked &&& s.hp.farLocked) → s.hp.idleSeen = true →
      ∃ u, exec (.linkUp t) s = .next u ∧ u = { s.atTime t with hp := u.hp, mod := u.mod } ∧
        u.hp.state = .up ∧ u.hp.active = s.hp.locked &&& s.hp.farLocked ∧ bit u.hp.events.bits HpEv.linkUp = true ∧ u.hp.rxSeq = 0 ∧
        u.mod.linkUp = true ∧ u.mod.mode = (if s.mod.mode = .dark ∧ s.mod.bankOk = true then .linked else s.mod.mode)) ∧
    (s.hp.state ≠ .up ∨ max s.now t < s.hp.blockAt + s.hp.lossTbu → exec (.linkSilenceTimeout t) s = .next (s.atTime t)) ∧
    (∀ lane : Fin 8, s.hp.state ≠ .up ∨ bit s.hp.active lane.val = false ∨
        (bit s.hp.failing lane.val = false ∧ s.hp.alignLost lane (max s.now t) = false) →
      exec (.laneDrop t lane) s = .next (s.atTime t)) ∧
    (s.hp.state = .up →
      (∀ lane : Fin 8,
        (bit s.hp.active lane.val = true → bit s.hp.failing lane.val = true ∨ s.hp.alignLost lane (max s.now t) = true →
          s.hp.minLanes ≤ laneCount (clrBit s.hp.active lane.val) →
          ∃ u, exec (.laneDrop t lane) s = .next u ∧ u = { s.atTime t with flt := u.flt, hp := { s.hp with
              active := clrBit s.hp.active lane.val, failing := clrBit s.hp.failing lane.val, drops := satInc s.hp.drops
              goodSince := (vput s.hp.goodSince lane (max s.now t))
              events := evSet s.hp.events HpEv.laneDrop } } ∧
            u.flt.log = logged s t { odo := s.trk.odo, info := logInfo none 5 lane.val 0 0 }) ∧
        (bit s.hp.active lane.val = false → bit s.hp.locked lane.val = true → bit s.hp.farLocked lane.val = true →
          max s.now t < s.hp.goodSince[lane] + ms ∨ s.hp.alignMissing 1 lane (max s.now t) = true → exec (.laneAdd t lane) s = .next (s.atTime t)) ∧
        (bit s.hp.active lane.val = false → bit s.hp.locked lane.val = true → bit s.hp.farLocked lane.val = true →
          s.hp.goodSince[lane] + ms ≤ max s.now t → s.hp.alignMissing 1 lane (max s.now t) = false →
          exec (.laneAdd t lane) s = .next { s.atTime t with hp := { s.hp with
            active := setBit s.hp.active lane.val, events := evSet s.hp.events HpEv.laneAdd } }) ∧
        (bit s.hp.active lane.val = true → exec (.laneAdd t lane) s = .next (s.atTime t))))

/-- R94, R104, R105, R397: the link is lost by a drop that leaves too few lanes, by a silence of LOSS_US, and by a frame's sixteenth
replay, after a NAK or without an acknowledgement: nothing stays outstanding and training starts again. LINKED falls back to DARK; a
load in progress ends with ABORTED and detail 2, which from SPOOLING leads to QUARANTINE; WOUND, SHEDDING and QUARANTINE stay, with
LINK_LOST, and channels in RUN are held only where the configuration asks for it. Which ALIGN blocks are missing is log entry 65
(DEDUCED). -/
def Clause.LinkLost : Prop :=
  ∀ (t : Tbu) (s : State) (i : Instr), s.hp.state = .up →
    i = .linkSilenceTimeout t ∧ s.hp.blockAt + s.hp.lossTbu ≤ max s.now t ∨
      (∃ l : Fin 8, i = .laneDrop t l ∧ bit s.hp.active l.val = true ∧
        (bit s.hp.failing l.val = true ∨ s.hp.alignLost l (max s.now t) = true) ∧
        laneCount (clrBit s.hp.active l.val) < s.hp.minLanes) ∨
      (∃ (k : BitVec 12) (before after : List Sent) (f : Sent), i = .nak t k ∧ s.hp.outstanding = before ++ f :: after ∧ f.seq = k ∧
        ∃ y ∈ f :: after, 15 ≤ y.replays) ∨
      (∃ (f : Sent) (rest : List Sent), i = .replayTimeout t ∧ s.hp.outstanding = f :: rest ∧
        s.hp.ackAt + s.hp.replayTbu ≤ max s.now t ∧ ∃ y ∈ f :: rest, 15 ≤ y.replays) →
    (∃ u, exec i s = .next u ∧ u.mod.linkUp = false ∧ u.hp.state = .training ∧ u.hp.outstanding = [] ∧ u.hp.active = 0 ∧
      u.hp.losses = satInc s.hp.losses ∧ bit u.hp.events.bits HpEv.linkDown = true ∧ s.sameCreels u) ∧
    (s.mod.mode = .linked →
      ∃ u, exec i s = .next u ∧ u.mod.mode = .dark ∧ u.flt = s.flt ∧
        ∀ c : ChanId, u.ch c = { s.ch c with mem := { (s.ch c).mem with winHeld := (u.ch c).mem.winHeld } }) ∧
    (∀ l : Load, s.skn.load = some l → s.mod.mode = .spooling ∧ l.kind = .whole ∨ s.mod.mode ∈ [Mode.wound, .shedding] ∧ l.kind = .channel →
      ∃ u, exec i s = .next u ∧ u.skn.load = none ∧ bit u.skn.events.bits SknEv.done = true ∧ bit u.skn.events.bits SknEv.refused = true ∧
        (fld s.skn.result 0 8 = 0 → u.skn.result = pack [(2, 16), (0xFF, 8), (0x10, 0)]) ∧
        (s.mod.mode = .spooling → u.mod.mode = .quarantine ∧ u.mod.qReason = 0x10) ∧
        (s.mod.mode ≠ .spooling → u.mod.mode = s.mod.mode ∧ bit u.mod.events.bits ModEv.linkLost = true) ∧
        ∀ d : ChanId, bit l.mask d.val = true → (u.ch d).skn.state = .unconfigured ∧ (u.ch d).skn.reason = 0x10) ∧
    (s.mod.mode ∈ [Mode.wound, .shedding, .quarantine] → s.skn.load = none →
      ∃ u, exec i s = .next u ∧ u.mod.mode = s.mod.mode ∧ bit u.mod.events.bits ModEv.linkLost = true ∧ u.flt = s.flt ∧
        ∀ c : ChanId,
          ((s.ch c).mod.state ≠ .run ∨ bit s.mod.cfg 0 = false →
            u.ch c = { s.ch c with mem := { (s.ch c).mem with winHeld := (u.ch c).mem.winHeld } }) ∧
          ((s.ch c).mod.state = .run → bit s.mod.cfg 0 = true → (u.ch c).seq.holdReq ≠ none ∧ (u.ch c).mod = (s.ch c).mod))

/-- The link comes up, drops and adds lanes, and is lost. -/
def Obligations.LinkUpAndLoss : Prop := Clause.LinkUpAndLanes ∧ Clause.LinkLost

/-- R391, R392, R395, R396: block lock, its loss, the sixteenth header error within 1 µs, an ALIGN out of place and the far end's lock
mask tell which lanes are active in training and mark those that fail in a link that is up; an ALIGN missing or out of place begins the
lane's time without error anew, and one on an active lane is a block heard (R397). Which ALIGN is in place, within one block of its
place, is log entry 65 (DEDUCED). Nothing else changes. -/
def Clause.LinkLanes : Prop :=
  ∀ (t : Tbu) (s : State) (lane : Fin 8),
    (s.hp.state = .down → exec (.blockLock t lane) s = .next (s.atTime t)) ∧
    (s.hp.state ≠ .down →
      ∃ u, exec (.blockLock t lane) s = .next u ∧ u = { s.atTime t with hp := { s.hp with
          locked := setBit s.hp.locked lane.val, goodSince := u.hp.goodSince
          active := if s.hp.state = .training then setBit s.hp.locked lane.val &&& s.hp.farLocked else s.hp.active } } ∧
        (bit s.hp.locked lane.val = false → bit s.hp.farLocked lane.val = true → u.hp.goodSince[lane] = max s.now t) ∧
        (∀ o : Fin 8, o ≠ lane → u.hp.goodSince[o] = s.hp.goodSince[o])) ∧
    (∃ u, exec (.blockLockLost t lane) s = .next u ∧ u = { s.atTime t with hp := { s.hp with
        locked := clrBit s.hp.locked lane.val
        active := if s.hp.state = .training then clrBit s.hp.locked lane.val &&& s.hp.farLocked else s.hp.active
        failing := if s.hp.state = .up ∧ bit s.hp.active lane.val = true then setBit s.hp.failing lane.val else s.hp.failing } }) ∧
    (∃ u, exec (.syncHeaderError t lane) s = .next u ∧
      u = { s.atTime t with hp := { s.hp with
        laneErr := u.hp.laneErr, errTimes := u.hp.errTimes, failing := u.hp.failing
        goodSince := vput s.hp.goodSince lane (max s.now t) } } ∧
      (s.hp.state = .up → u.hp.laneErr[lane] = satInc s.hp.laneErr[lane]) ∧ (s.hp.state ≠ .up → u.hp.laneErr = s.hp.laneErr) ∧
      (s.hp.state = .up → bit s.hp.active lane.val = true →
        15 ≤ (s.hp.errTimes[lane].filter fun x => decide (max s.now t < x + us)).length →
        u.hp.failing = setBit s.hp.failing lane.val) ∧
      (s.hp.state ≠ .up ∨ (s.hp.errTimes[lane].filter fun x => decide (max s.now t < x + us)).length < 15 →
        u.hp.failing = s.hp.failing)) ∧
    ∀ mask : Byte,
      (s.hp.state = .down → exec (.align t lane mask) s = .next (s.atTime t)) ∧
      (s.hp.state ≠ .down →
        ∃ u, exec (.align t lane mask) s = .next u ∧ u = { s.atTime t with hp := { s.hp with
            farLocked := mask, failing := u.hp.failing, goodSince := u.hp.goodSince, alignAt := u.hp.alignAt, alignBad := u.hp.alignBad
            active := if s.hp.state = .training then s.hp.locked &&& mask else s.hp.active
            blockAt := if s.hp.state = .up ∧ bit s.hp.active lane.val = true then max s.now t else s.hp.blockAt } } ∧
          (s.hp.state = .training → u.hp.failing = s.hp.failing) ∧
          (s.hp.state = .up →
            (∀ o : Fin 8, o ≠ lane → bit u.hp.failing o.val = (bit s.hp.failing o.val || (bit s.hp.active o.val && !bit mask o.val))) ∧
            (bit s.hp.active lane.val = false → bit u.hp.failing lane.val = bit s.hp.failing lane.val ∧
              u.hp.alignAt[lane] = max s.now t ∧ u.hp.alignBad[lane] = 0) ∧
            (s.hp.alignPlace lane (max s.now t) ≠ some 1 → u.hp.goodSince[lane] = max s.now t) ∧
            (∀ k : Nat, bit s.hp.active lane.val = true → s.hp.alignPlace lane (max s.now t) = some k →
              u.hp.alignBad[lane] = 0 ∧ u.hp.alignAt[lane] = max s.now t ∧
              (k < 3 → bit u.hp.failing lane.val = (bit s.hp.failing lane.val || !bit mask lane.val)) ∧
              (3 ≤ k → bit u.hp.failing lane.val = true)) ∧
            (bit s.hp.active lane.val = true → s.hp.alignPlace lane (max s.now t) = none →
              u.hp.alignBad[lane] = s.hp.alignBad[lane] + 1 ∧ u.hp.alignAt[lane] = s.hp.alignAt[lane] ∧
              (1 ≤ s.hp.alignBad[lane] → bit u.hp.failing lane.val = true))))

/-- R393, R394, R395: an IDLE ends one condition of training, and otherwise acknowledges the frames up to the one it names; a NAK, or
REPLAY_TO without a new acknowledgement, replays from its frame on. Every valid block of a link that is up is heard. Nothing else
changes. -/
def Clause.LinkBlocks : Prop :=
  ∀ (t : Tbu) (s : State),
    (∀ lack : BitVec 12,
      (s.hp.state = .down → exec (.idle t lack) s = .next (s.atTime t)) ∧
      (s.hp.state = .training → exec (.idle t lack) s = .next { s.atTime t with hp := { s.hp with idleSeen := true } }) ∧
      (s.hp.state = .up → s.hp.unsent = [] →
        ((∀ f ∈ s.hp.outstanding, f.seq ≠ lack) →
          exec (.idle t lack) s = .next { s.atTime t with hp := { s.hp with blockAt := max s.now t } }) ∧
        (∀ (before after : List Sent) (f : Sent), s.hp.outstanding = before ++ f :: after → f.seq = lack → (∀ y ∈ before, y.seq ≠ lack) →
          exec (.idle t lack) s = .next { s.atTime t with hp := { s.hp with
            outstanding := after, ackAt := max s.now t, blockAt := max s.now t } }))) ∧
    (∀ k : BitVec 12,
      (s.hp.state ≠ .up → exec (.nak t k) s = .next (s.atTime t)) ∧
      (s.hp.state = .up → (∀ f ∈ s.hp.outstanding, f.seq ≠ k) →
        exec (.nak t k) s = .next { s.atTime t with hp := { s.hp with blockAt := max s.now t } }) ∧
      (∀ (before after : List Sent) (f : Sent), s.hp.state = .up → s.hp.outstanding = before ++ f :: after → f.seq = k →
        (∀ y ∈ before, y.seq ≠ k) → (∀ y ∈ s.hp.outstanding, y.replays < 15) →
        exec (.nak t k) s = .next { s.atTime t with hp := { s.hp with
          replays := satInc s.hp.replays, ackAt := max s.now t, blockAt := max s.now t
          outstanding := before ++ (f :: after).map fun y => y.again s.hp.lackOut } })) ∧
    (s.hp.outstanding = [] ∨ max s.now t < s.hp.ackAt + min 1000 (max 5 (fld s.hp.cfg 32 16)) * 100 * ns →
      exec (.replayTimeout t) s = .next (s.atTime t)) ∧
    (s.hp.state = .up → s.hp.outstanding ≠ [] → (∀ y ∈ s.hp.outstanding, y.replays < 15) →
      s.hp.ackAt + min 1000 (max 5 (fld s.hp.cfg 32 16)) * 100 * ns ≤ max s.now t →
      exec (.replayTimeout t) s = .next { s.atTime t with hp := { s.hp with
        replays := satInc s.hp.replays, ackAt := max s.now t
        outstanding := s.hp.outstanding.map fun y => y.again s.hp.lackOut } })

/-- R393, R394, R399, R400, R402, R408: a frame whose LCRC, length or LSEQ is wrong is discarded, the first with a NAK; one that is
right is taken, with its LACK, and its packet is executed as RD, WR or QDATA; one of another type or length is malformed. Its own LACK
goes out at once where no request before it waits. -/
def Clause.FrameReceived : Prop :=
  ∀ (t : Tbu) (f : List Byte) (s : State),
    (s.hp.state ≠ .up → exec (.frameReceived t f) s = .next (s.atTime t)) ∧
    (s.hp.state = .up → s.hp.accepts f = false →
      exec (.frameReceived t f) s = .next { s.atTime t with hp := { s.hp with
        blockAt := max s.now t, nakSent := true, naks := if s.hp.nakSent then s.hp.naks else s.hp.rxSeq :: s.hp.naks } }) ∧
    (s.hp.state = .up → s.hp.accepts f = true →
      ∀ r : State, r = { s.atTime t with hp := (s.atTime t).heard.hp.take f (max s.now t) } →
      r.hp.rxSeq = s.hp.rxSeq + 1 ∧ r.hp.nakSent = false ∧ r.hp.blockAt = max s.now t ∧
      r.hp.unlacked = s.hp.unlacked ++ [(s.hp.rxSeq, frameRequest f)] ∧ r.hp.lackOut = s.hp.lackOut ∧
      (s.portUp = false → exec (.frameReceived t f) s = .next r.lackOn ∧
        (s.hp.unlacked = [] → frameRequest f = false → r.lackOn.hp.lackOut = s.hp.rxSeq ∧ r.lackOn.hp.unlacked = [])) ∧
      (s.portUp = true → ∀ (h : Word) (data : List Word), packetWords ((frameBody f).drop 4) = h :: data →
        (fld h 60 4 = 1 → data = [] →
          exec (.frameReceived t f) s =
            .next (r.rdPacket (BitVec.ofNat 12 (fld h 48 12)) (BitVec.ofNat 8 (fld h 40 8)) (BitVec.ofNat 40 (fld h 0 40))).lackOn) ∧
        (fld h 60 4 = 2 →
          exec (.frameReceived t f) s =
            .next (r.wrPacket (BitVec.ofNat 12 (fld h 48 12)) (BitVec.ofNat 8 (fld h 40 8)) (BitVec.ofNat 40 (fld h 0 40)) data).lackOn) ∧
        (fld h 60 4 = 4 →
          exec (.frameReceived t f) s =
            .next (r.qdataPacket (BitVec.ofNat 16 (fld h 44 16)) (BitVec.ofNat 8 (fld h 32 8)) (BitVec.ofNat 32 (fld h 0 32)) data).lackOn) ∧
        (fld h 60 4 ≠ 1 → fld h 60 4 ≠ 2 → fld h 60 4 ≠ 4 →
          exec (.frameReceived t f) s = .next ({ r with hp := { r.hp with
            events := evSet r.hp.events HpEv.malformed } } : State).lackOn))) ∧
    ∀ (tag : BitVec 12) (len : Byte) (a : BitVec 40) (data : List Word), s.portUp = true → s.hp.state = .up →
      exec (.rd t tag len a) s = .next ((s.atTime t).heard.rdPacket tag len a) ∧
      exec (.wr t tag len a data) s = .next ((s.atTime t).heard.wrPacket tag len a data) ∧
      ∀ (q : BitVec 16) (pos : BitVec 32), exec (.qdata t q len pos data) s = .next ((s.atTime t).heard.qdataPacket q len pos data)

/-- What the blocks of the link do to its lanes and its outstanding frames, and what a frame brings. -/
def Obligations.LinkAndFrames : Prop := Clause.LinkLanes ∧ Clause.LinkBlocks ∧ Clause.FrameReceived

/-- R421, R422: a write sets the sideband's pointer, and a read returns the bytes of its map from there on and moves it past them; a new
instruction of the boundary-scan port is taken, EXTEST only in DARK, where it takes the link down. The scan that follows captures the
pins into the boundary register, or 0 into the bypass register, shifts, and latches what was shifted in (log entry 66). Without power
nothing changes. -/
def Obligations.SideInterfaces : Prop :=
  ∀ (t : Tbu) (s : State),
    (s.powered = false →
      (∀ p : Byte, exec (.sidebandPointerWrite t p) s = .next (s.atTime t)) ∧
      (∀ n : Nat, exec (.sidebandRead t n) s = .next (s.atTime t)) ∧
      ∀ (i : TapInstr) (pins shift : List Bool), exec (.tapInstruction t ⟨i, pins, shift⟩) s = .next (s.atTime t)) ∧
    (s.powered = true →
      (∀ p : Byte, exec (.sidebandPointerWrite t p) s = .next { s.atTime t with side := { s.side with pointer := p } }) ∧
      (∀ n : Nat,
        ∃ u, exec (.sidebandRead t n) s = .next u ∧ u = { s.atTime t with side := { s.side with
            pointer := s.side.pointer + BitVec.ofNat 8 n, lastRead := u.side.lastRead } } ∧
          u.side.lastRead.length = n ∧
          (s.side.pointer = 0x10 → n = 5 → u.side.lastRead =
            [BitVec.ofNat 8 (modeCode s.mod.mode), BitVec.ofNat 8 (s.mod.bankOk.toNat + 2 * s.mod.linkUp.toNat),
             BitVec.ofNat 8 s.tlh.vin, BitVec.ofNat 8 (s.tlh.vin / 256), s.hp.locked])) ∧
      (s.mod.mode ≠ .dark →
        ∀ (i : TapInstr) (pins shift : List Bool), exec (.tapInstruction t ⟨i, pins, shift⟩) s = .next { s.atTime t with
          side := s.side.scan (if i = .extest then .bypass else i) pins shift }) ∧
      (s.mod.mode = .dark →
        (∀ pins shift : List Bool,
          ∃ u, exec (.tapInstruction t ⟨.extest, pins, shift⟩) s = .next u ∧ u.side = s.side.scan .extest pins shift ∧ u.hp.state = .down ∧
            u.mod.linkUp = false ∧ u.hp.outstanding = [] ∧ u.mod.mode = .dark ∧
            ∀ c : ChanId, u.ch c = { s.ch c with mem := { (s.ch c).mem with winHeld := (u.ch c).mem.winHeld } }) ∧
        ∀ (i : TapInstr) (pins shift : List Bool), i ≠ .extest →
          exec (.tapInstruction t ⟨i, pins, shift⟩) s = .next { s.atTime t with
            side := s.side.scan i pins shift
            hp := if s.mod.bankOk = true ∧ s.hp.state = .down then { s.hp with state := .training } else s.hp })) ∧
    ∀ (i : TapInstr) (pins : List Bool), s.side.tapState = .idle ∨ s.side.tapState = .reset →
      (s.side.scan i pins []).tap = i ∧ (s.side.scan i pins []).tapState = .idle ∧ (s.side.scan i pins []).tdo = [] ∧
      (i ≠ .bypass → (s.side.scan i pins []).boundary = pins ∧ (s.side.scan i pins []).latched = pins) ∧
      (i = .bypass → (s.side.scan i pins []).latched = s.side.latched ∧
        ∀ a b : Bool, (s.side.scan i pins [a, b]).tdo = [false, a] ∧ (s.side.scan i pins [a, b]).bypass = b) ∧
      ∀ a b : Bool, i ≠ .bypass →
        (s.side.scan i [true, false] [a, b]).tdo = [true, false] ∧ (s.side.scan i [true, false] [a, b]).latched = [a, b]

/-! ### Streaming queues -/

/-- Byte `a` of the creel, `b` before, once the staged units `l` have been written in their order. -/
def stagedByte (l : List StagedUnit) (a : Nat) (b : Byte) : Byte :=
  l.foldl (fun b x => if x.addr ≤ a ∧ a < x.addr + x.data.length then x.data.getD (a - x.addr) 0 else b) b

/-- R405, R406, R407, R417: a command that a test refuses only leaves its reason, in STQ_RESULT, in the queue's LAST and in a QCPL; an
accepted OPEN binds the queue to its descriptors as they stand; an accepted CLOSE ends a paced queue, its incomplete fill discarded,
and closes a bulk one at once, what it has staged going to the creel first. Nothing changes but the channel's queues, the lines they
hold and what the link has to send. -/
def Obligations.QueueCommands : Prop :=
  ∀ (t : Tbu) (c : ChanId) (w : Word) (s : State), s.windowUp = true →
    (∀ p ∈ [(Instr.openQ t c w, withCmd w 1), (.closeQ t c w, withCmd w 2)],
      ((s.ch c).configured = false → (s.ch c).stqTest p.2 = 1) ∧
      ((s.ch c).stqTest p.2 ≠ 0 →
        ∃ u, exec p.1 s = .next u ∧ u = { s.atTime t with chans := u.chans, hp := { s.hp with
            txSeq := u.hp.txSeq, outstanding := u.hp.outstanding, unsent := u.hp.unsent, ackAt := u.hp.ackAt } } ∧
          (∀ d : ChanId, d ≠ c → u.ch d = s.ch d) ∧
          u.ch c = { s.ch c with stq := (s.ch c).stq.outcome p.2 ((s.ch c).stqTest p.2) })) ∧
    ((s.ch c).stqTest (withCmd w 1) = 0 →
      ∃ u, exec (.openQ t c w) s = .next u ∧ u = { s.atTime t with chans := u.chans, hp := { s.hp with
          txSeq := u.hp.txSeq, outstanding := u.hp.outstanding, unsent := u.hp.unsent, ackAt := u.hp.ackAt } } ∧
        (∀ d : ChanId, d ≠ c → u.ch d = s.ch d) ∧
        u.ch c = { s.ch c with stq :=
          ((s.ch c).stq.outcome (withCmd w 1) 0).setQ (cmdQueue (withCmd w 1)) ((s.ch c).openedQueue (withCmd w 1)) }) ∧
    ((s.ch c).stqTest (withCmd w 2) = 0 →
      ∀ (q : Nat) (st : Stq), q = cmdQueue (withCmd w 2) → st = (s.ch c).stq.outcome (withCmd w 2) 0 →
        ((st.q q).bulk = true →
          ∃ u, exec (.closeQ t c w) s = .next u ∧ u = { s.atTime t with chans := u.chans, hp := { s.hp with
              txSeq := u.hp.txSeq, outstanding := u.hp.outstanding, unsent := u.hp.unsent, ackAt := u.hp.ackAt } } ∧
            (∀ d : ChanId, d ≠ c → u.ch d = s.ch d) ∧
            u.ch c = { s.ch c with
              mem := { (s.ch c).mem with cache := (u.ch c).mem.cache, data := (u.ch c).mem.data, reqs := (u.ch c).mem.reqs }
              ply := { (s.ch c).ply with outAt := (u.ch c).ply.outAt, events := (u.ch c).ply.events }
              stq := { st.setQ q { Queue.none with last := (st.q q).last } with
                events := evSet st.events StqEv.closed, staged := st.staged.filter fun y => y.queue != q } } ∧
            (Memory.wf (s.ch c).mem.data = true → ∀ a : Nat, readByte (u.ch c).mem.data a =
              stagedByte (st.staged.filter fun y => y.queue == q) a (readByte (s.ch c).mem.data a))) ∧
        ((st.q q).bulk = false → (st.q q).state ≠ .done →
          ({ s.ch c with stq := (st.setQ q { st.q q with state := .ending }).dropPartial q (st.q q) } : Chan).endedQueues = [] →
          exec (.closeQ t c w) s = .next ((s.atTime t).modCh c fun x => { x with
            stq := (st.setQ q { st.q q with state := .ending }).dropPartial q (st.q q) })))

/-- R408, R409, R418: an accepted packet of queue data goes to the channel's staging buffer, unit by unit from the queue's position on,
each with its place in the creel; no byte of a creel changes. A position, credit or size that does not fit faults the queue; a payload
of another length is malformed. -/
def Clause.QueueData : Prop :=
  ∀ (t : Tbu) (queue : BitVec 16) (len : Byte) (pos : BitVec 32) (data : List Word) (s : State),
    (s.takes = false → exec (.qdata t queue len pos data) s = .next (s.atTime t)) ∧
    (s.takes = true → data.length ≠ len.toNat →
      exec (.qdata t queue len pos data) s = .next { s.atTime t with hp := { s.hp with
        blockAt := max s.now t, events := evSet s.hp.events HpEv.malformed } }) ∧
    (s.takes = true → data.length = len.toNat → ∀ (c : ChanId) (q : Nat), queue.toNat = 4096 * c.val + q → q < 4096 →
      (s.qdataTest c q len.toNat pos = 0 →
        exec (.qdata t queue len pos data) s = .next (({ s.atTime t with hp := { s.hp with blockAt := max s.now t } } : State).modCh c fun x =>
          { x with stq := { x.stq.setQ q { x.stq.q q with pos := (x.stq.q q).pos + len.toNat / 8 } with
              staged := x.stq.staged ++ (upTo (len.toNat / 8)).map fun i => {
                queue := q, unit := (x.stq.q q).pos + i, addr := (x.stq.q q).unitAddr ((x.stq.q q).pos + i)
                data := slice (data.flatMap wordBytes) (64 * i) 64 } } })) ∧
      (s.qdataTest c q len.toNat pos = 0x42 ∨ s.qdataTest c q len.toNat pos = 0x43 ∨ s.qdataTest c q len.toNat pos = 0x44 →
        ∃ u, exec (.qdata t queue len pos data) s = .next u ∧ s.sameCreels u ∧ (∀ d : ChanId, d ≠ c → u.ch d = s.ch d) ∧
          bit u.hp.events.bits HpEv.qdataRefused = true ∧
          u.ch c = { s.ch c with stq := { (s.ch c).stq.setQ q { (s.ch c).stq.q q with
            state := .faulted, last := s.qdataTest c q len.toNat pos } with events := evSet (s.ch c).stq.events StqEv.fault } }) ∧
      (s.qdataTest c q len.toNat pos = 0x41 ∨ s.qdataTest c q len.toNat pos = 0x45 →
        ∃ u, exec (.qdata t queue len pos data) s = .next u ∧
          u = { s.atTime t with hp := { s.hp with
            blockAt := max s.now t, qdataErr := u.hp.qdataErr, events := evSet s.hp.events HpEv.qdataRefused } }))

/-- R409: at a command opportunity of the creel the controller takes staged units, oldest first, while fewer than 32 writes wait: their
bytes are in the creel, and no other byte changes. A whole unit, 64 bytes at a multiple of 64, is one write. That bound of 32 writes is
log entry 35 (DESIGN CHOICE), from R370's turn of the bus. A FILL or training of the Doffer, which writes at the same opportunity, is
left to `ServiceBursts`. -/
def Clause.StagedReceived : Prop :=
  ∀ (t : Tbu) (c : ChanId) (ready : BitVec 32) (s : State) (l : List StagedUnit) (writes : Nat),
    s.creelRuns = true → (s.ch c).mod.state ≠ .drain → Memory.wf (s.ch c).mem.data = true → l = (s.ch c).stq.staged →
    writes = ((s.ch c).mem.reqs.filter (·.write)).length →
    (∀ dst len pat, (s.ch c).dof.running ≠ some (.fill dst len pat)) → (∀ i, (s.ch c).dof.running ≠ some (.train i)) →
    Answers (exec (.creelCommand t c ready) s) s c fun x =>
      x = { s.ch c with
        mem := x.mem, stq := { (s.ch c).stq with staged := x.stq.staged }
        ply := { (s.ch c).ply with outAt := x.ply.outAt, events := x.ply.events } } ∧
      ∃ k, k ≤ l.length ∧ x.stq.staged = l.drop k ∧
        (∀ a : Nat, readByte x.mem.data a = stagedByte (l.take k) a (readByte (s.ch c).mem.data a)) ∧
        (32 ≤ writes → k = 0) ∧ (writes < 32 → l ≠ [] → 0 < k) ∧
        ((∀ y ∈ l, y.addr % 64 = 0 ∧ y.data.length = 64) → k = min l.length (32 - writes))

/-- R410, R411, R418: LIMIT of an OPEN queue rises as far as ring, queue and channel bounds allow, and never beyond the ring bound or
256 units past its position; a fill whose every byte is in the creel is complete, and it is ready once its head is held; a bulk queue
with every byte there is done. That a fill is ready without a held head where there is no bobbin store, unless the creel is lost, is log
entry 18 (DEDUCED). -/
def Clause.QueueProgress : Prop :=
  ∀ (t : Tbu) (c : ChanId) (q : BitVec 12) (s : State),
    (((s.ch c).stq.q q.toNat).state ≠ .open →
      exec (.credit t c q) s = .next (s.atTime t) ∧ exec (.bulkDone t c q) s = .next (s.atTime t)) ∧
    (∀ l : Nat, l = min ((s.ch c).stq.q q.toNat).wanted (((s.ch c).stq.q q.toNat).limit + (s.ch c).stq.room) →
      ((s.ch c).stq.q q.toNat).state = .open → (s.ch c).configured = true →
      l ≤ ((s.ch c).stq.q q.toNat).ringLimit ∧ l ≤ ((s.ch c).stq.q q.toNat).pos + 256 ∧
      (((s.ch c).stq.q q.toNat).limit + 64 ≤ l → (s.ch c).stq.scarce = false →
        ∃ u, exec (.credit t c q) s = .next u ∧ u = { s.atTime t with chans := u.chans, hp := { s.hp with
            txSeq := u.hp.txSeq, outstanding := u.hp.outstanding, unsent := u.hp.unsent, ackAt := u.hp.ackAt } } ∧
          (∀ d : ChanId, d ≠ c → u.ch d = s.ch d) ∧
          u.ch c = { s.ch c with stq := { (s.ch c).stq.setQ q.toNat { (s.ch c).stq.q q.toNat with limit := l } with robin := q.toNat } }) ∧
      (l < ((s.ch c).stq.q q.toNat).limit + 64 → l ≠ ((s.ch c).stq.q q.toNat).ringLimit →
        exec (.credit t c q) s = .next (s.atTime t))) ∧
    (((s.ch c).stq.q q.toNat).fillDue = true →
      (s.ch c).stq.received q.toNat ((((s.ch c).stq.q q.toNat).complete + 1) * max 1 ((s.ch c).stq.q q.toNat).units) = true →
      exec (.fillComplete t c q) s = .next ((s.atTime t).modCh c fun x => { x with
        stq := x.stq.setQ q.toNat { x.stq.q q.toNat with complete := (x.stq.q q.toNat).complete + 1 } })) ∧
    (((s.ch c).stq.q q.toNat).fillDue = false ∨
        (s.ch c).stq.received q.toNat ((((s.ch c).stq.q q.toNat).complete + 1) * max 1 ((s.ch c).stq.q q.toNat).units) = false →
      exec (.fillComplete t c q) s = .next (s.atTime t)) ∧
    (((s.ch c).stq.q q.toNat).headDue = false → exec (.fillReady t c q) s = .next (s.atTime t)) ∧
    (((s.ch c).stq.q q.toNat).headDue = true →
      ((s.ch c).mem.degraded = true →
        ((s.ch c).mem.creel = .lost → exec (.fillReady t c q) s = .next (s.atTime t)) ∧
        ((s.ch c).mem.creel ≠ .lost →
          exec (.fillReady t c q) s = .next ((s.atTime t).modCh c fun x => { x with
            stq := x.stq.setQ q.toNat ((x.stq.q q.toNat).makeReady (s.atTime t).cycle) }))) ∧
      ((s.ch c).mem.degraded = false → (s.ch c).mem.bobLostAt = none →
        ((s.ch c).mem.headFits (((s.ch c).stq.q q.toNat).fillHead ((s.ch c).stq.q q.toNat).ready) = false ∨
            (∃ l ∈ ((s.ch c).stq.q q.toNat).fillHead ((s.ch c).stq.q q.toNat).ready, (s.ch c).mem.present l = false) →
          exec (.fillReady t c q) s = .next (s.atTime t)) ∧
        ((s.ch c).mem.headFits (((s.ch c).stq.q q.toNat).fillHead ((s.ch c).stq.q q.toNat).ready) = true →
          (∀ l ∈ ((s.ch c).stq.q q.toNat).fillHead ((s.ch c).stq.q q.toNat).ready, (s.ch c).mem.present l = true) →
          ∃ u, exec (.fillReady t c q) s = .next u ∧ u = { s.atTime t with freeCtr := s.freeCtr + 1, chans := u.chans } ∧
            (∀ d : ChanId, d ≠ c → u.ch d = s.ch d) ∧
            u.ch c = { s.ch c with
              mem := { (s.ch c).mem with cache := (u.ch c).mem.cache, useCtr := (u.ch c).mem.useCtr }
              stq := (s.ch c).stq.setQ q.toNat (((s.ch c).stq.q q.toNat).makeReady (s.atTime t).cycle) }))) ∧
    (((s.ch c).stq.q q.toNat).makeReady (s.atTime t).cycle).ready = ((s.ch c).stq.q q.toNat).ready + 1 ∧
    (((s.ch c).stq.q q.toNat).bulk = true → ((s.ch c).stq.q q.toNat).state = .open →
      ((s.ch c).stq.q q.toNat).pos = ((s.ch c).stq.q q.toNat).bulkLen / 64 →
      (s.ch c).stq.received q.toNat ((s.ch c).stq.q q.toNat).pos = true →
      ∃ u, exec (.bulkDone t c q) s = .next u ∧ u = { s.atTime t with chans := u.chans, hp := { s.hp with
          txSeq := u.hp.txSeq, outstanding := u.hp.outstanding, unsent := u.hp.unsent, ackAt := u.hp.ackAt } } ∧
        (∀ d : ChanId, d ≠ c → u.ch d = s.ch d) ∧
        u.ch c = { s.ch c with stq := { (s.ch c).stq.setQ q.toNat { (s.ch c).stq.q q.toNat with state := .done } with
          events := evSet (s.ch c).stq.events StqEv.bulkDone } })

/-- Data reaches a queue, and credits and fills follow it. -/
def Obligations.QueuesFilled : Prop := Clause.QueueData ∧ Clause.StagedReceived ∧ Clause.QueueProgress

/-! ### The vault, calibration, the Doffer and the fault log -/

/-- R449, R451: a command that a test refuses leaves only its reason. A restore names its slot and takes every channel that passes its own
tests into TRIM, with the restore queued; a discard makes its slot invalid. That a channel whose ARM is being checked enters TRIM only
when the check is over is log entry 25 (DEDUCED). -/
def Clause.RestoreCommand : Prop :=
  ∀ (t : Tbu) (v : Word) (s : State), s.portUp = true →
    (∀ p ∈ [(Instr.restore t v, withCmd v 1), (.discard t v, withCmd v 2)],
      (s.working = false → s.vltTest p.2 ≠ 0) ∧
      (s.vltTest p.2 ≠ 0 →
        exec p.1 s = .next { s.atTime t with vlt := { s.vlt with
          resultCmd := BitVec.ofNat 4 (fld p.2 0 4), result := s.vltTest p.2 } })) ∧
    (s.vltTest (withCmd v 1) = 0 →
      ∃ u, exec (.restore t v) s = .next u ∧ s.sameCreels u ∧ u.flt = s.flt ∧
        u.vlt.restoreOn = true ∧ u.vlt.restoreSlot = vltSlot (withCmd v 1) ∧ u.vlt.slots = s.vlt.slots ∧ u.vlt.result = 0 ∧
        ∀ c : ChanId,
          (bit v (16 + c.val) = false → u.ch c = s.ch c ∧ bit u.vlt.restoring c.val = false) ∧
          (bit v (16 + c.val) = true → s.restoreTest c (vltSlot (withCmd v 1)) ≠ 0 →
            bit u.vlt.restoring c.val = false ∧ u.vlt.restoreBad = true ∧
            u.ch c = { s.ch c with dof := { (s.ch c).dof with
              vltDone := 0, vltReason := s.restoreTest c (vltSlot (withCmd v 1)), vltSkipped := 0 } }) ∧
          (bit v (16 + c.val) = true → s.restoreTest c (vltSlot (withCmd v 1)) = 0 →
            bit u.vlt.restoring c.val = true ∧
            (u.ch c).mod.state = (if (s.ch c).seq.checking = true then (s.ch c).mod.state else .trim) ∧
            (u.ch c).dof = { (s.ch c).dof with
              vltDone := 0, vltReason := 0, vltSkipped := 0
              queue := (s.ch c).dof.queue ++ [.restore (vltSlot (withCmd v 1)) (BitVec.ofNat 4 (fld v 36 4))] })) ∧
    (s.vltTest (withCmd v 2) = 0 →
      ∃ u, exec (.discard t v) s = .next u ∧ u = { s.atTime t with vlt := u.vlt } ∧
        (u.vlt.slots[vltSlot (withCmd v 2)]).valid = false ∧ bit u.vlt.valid (vltSlot (withCmd v 2)).val = false ∧
        (∀ k : Fin 2, k ≠ vltSlot (withCmd v 2) → u.vlt.slots[k] = s.vlt.slots[k]) ∧ bit u.vlt.events.bits VltEv.discarded = true)

/-- R450, R474: the Doffer's restore of one channel ends with the channel back in REST and done with the restore. Of the parts asked
for, one that the area does not hold is skipped. ROUTE writes the route registers back as saved, and QUEUES opens its queues again at
their replay positions, or counts one as skipped, where the digest is that of the save; CAL puts its record into the inactive bank and
commits it where it passes its tests; TRAIN gives back the delay sets of the grades trained both now and then, and retires what was
retired, where CREEL_MAP is that of the save. A part that is not restored leaves its reason, if it is the first, and nothing else. How
often a replay position has passed 2^32 is log entry 78 (DEDUCED); where an area keeps the delay sets is log entry 77 (DESIGN CHOICE).
-/
def Clause.RestoreParts : Prop :=
  ∀ (t : Tbu) (c : ChanId) (s : State),
    ((s.ch c).dof.running = none → exec (.restoreEnd t c) s = .next (s.atTime t)) ∧
    ∀ (k : Fin 2) (parts : BitVec 4) (a : Area), (s.ch c).dof.running = some (.restore k parts) → a = (s.vlt.slots[k]).areas[c] →
      ((s.ch c).tlh.granted = false → exec (.restoreEnd t c) s = .next (s.atTime t)) ∧
      ((s.ch c).tlh.granted = true → (s.ch c).dof.queue.any Service.isRestore = false →
        ∃ u, exec (.restoreEnd t c) s = .next u ∧ s.sameCreels u ∧ (∀ d : ChanId, d ≠ c → u.ch d = s.ch d) ∧
          (u.ch c).mod.state = .rest ∧ (u.ch c).dof.running = none ∧ (u.ch c).tlh.granted = false ∧ bit u.vlt.restoring c.val = false ∧
          (∀ p : Fin 4, bit parts p.val = false ∨ bit a.parts p.val = false →
            bit (u.ch c).dof.vltDone p.val = bit (s.ch c).dof.vltDone p.val) ∧
          (∀ p : Fin 4, bit parts p.val = true → bit a.parts p.val = false → u.vlt.restoreBad = true) ∧
          (parts = 1 → bit a.parts 0 = true → a.digest = (upTo 4).map (payloadWord (s.ch c).skn.digest) →
            (u.ch c).dof.vltDone = setBit (s.ch c).dof.vltDone 0 ∧ (u.ch c).seq.route = setBit (a.route 0) 32 ∧
            (u.ch c).seq.routeCfg = a.route 1 ∧ (u.ch c).seq.resume = a.route 2 ∧ (u.ch c).seq.resumeDepth = a.route 3 ∧
            (u.ch c).seq.resumeStk = #v[a.route 4, a.route 5, a.route 6] ∧ (u.ch c).seq.runPos = a.route 7 ∧
            (u.ch c).seq.idle = a.route 9 ∧ bit (u.ch c).seq.events.bits SeqEv.resumeSet = true) ∧
          (∀ (x : SavedQueue) (w : Word) (q : Nat) (y : Queue), parts = 2 → bit a.parts 1 = true →
            a.digest = (upTo 4).map (payloadWord (s.ch c).skn.digest) → a.queues = [x] → w = (x.word0 &&& ~~~(0xF : Word)) ||| 1 →
            q = cmdQueue w → y = (s.ch c).openedQueue w →
            (∀ e ∈ (s.ch c).stq.queues, e.2.state ≠ .ending) →
            (u.ch c).dof.vltDone = setBit (s.ch c).dof.vltDone 1 ∧
            ((s.ch c).stqTest w ≠ 0 → (u.ch c).stq = (s.ch c).stq ∧ (u.ch c).dof.vltSkipped = satInc (s.ch c).dof.vltSkipped) ∧
            ((s.ch c).stqTest w = 0 → swf Queue.none (s.ch c).stq.queues = true →
              (u.ch c).dof.vltSkipped = (s.ch c).dof.vltSkipped ∧ (y.bulk = true → (u.ch c).stq.q q = y) ∧
              ∀ p n pos : Nat, y.bulk = false → p = fld x.word1 32 32 → n = fld x.word1 0 32 →
                pos = (if n * y.units % 2 ^ 32 = p then n * y.units else p) →
                (u.ch c).stq.q q = { y with
                  pos := pos, limit := pos, complete := pos / max 1 y.units, ready := pos / max 1 y.units
                  played := pos / max 1 y.units, released := pos / max 1 y.units })) ∧
          (parts = 1 ∨ parts = 2 → parts &&& ~~~a.parts = 0 → a.digest ≠ (upTo 4).map (payloadWord (s.ch c).skn.digest) →
            (u.ch c).dof.vltDone = (s.ch c).dof.vltDone ∧ u.vlt.restoreBad = true ∧
            (u.ch c).dof.vltReason = (if (s.ch c).dof.vltReason = 0 then 0x10 else (s.ch c).dof.vltReason) ∧
            (u.ch c).seq.route = (s.ch c).seq.route ∧ (u.ch c).dof.vltSkipped = (s.ch c).dof.vltSkipped) ∧
          (parts = 4 → bit a.parts 2 = true →
            (recTest a.cal none = 0 →
              (u.ch c).dof.vltDone = setBit (s.ch c).dof.vltDone 2 ∧ (u.ch c).cal.banks[(s.ch c).cal.inactive] = a.cal ∧
              (u.ch c).cal.active.toNat = (s.ch c).cal.inactive.val + 1 ∧ bit (u.ch c).cal.events.bits CalEv.committed = true) ∧
            (recTest a.cal none ≠ 0 →
              (u.ch c).dof.vltDone = (s.ch c).dof.vltDone ∧ u.vlt.restoreBad = true ∧
              (u.ch c).dof.vltReason = (if (s.ch c).dof.vltReason = 0 then recTest a.cal none else (s.ch c).dof.vltReason) ∧
              (u.ch c).cal.banks = (s.ch c).cal.banks ∧ (u.ch c).cal.active = (s.ch c).cal.active)) ∧
          (parts = 8 → bit a.parts 3 = true →
            (a.creelMap = num (s.ch c).skn.image.creelMap 0 6 →
              (u.ch c).dof.vltDone = setBit (s.ch c).dof.vltDone 3 ∧
              (∀ (g : Fin 3) (d : Fin 5), ((u.ch c).mem.sets[g])[d] =
                if bit (s.ch c).mem.trained g.val && bit a.trained g.val then a.set g.val d.val else ((s.ch c).mem.sets[g])[d]) ∧
              (∀ (g : Fin 3) (d : Fin 5), (s.ch c).mem.grade.toNat = g.val → (u.ch c).mem.devs[d].set = ((u.ch c).mem.sets[g])[d]) ∧
              (u.ch c).mem.postAt = some (max s.now t + ms) ∧
              (∀ d : Fin 5, d ∈ (u.ch c).mem.postVisits ↔ bit (u.ch c).mem.retired d.val = false) ∧
              (a.retired &&& ~~~(s.ch c).mem.retired = 0 → (u.ch c).mem.retired = (s.ch c).mem.retired) ∧
              ∀ d : Fin 5, a.retired = setBit 0 d.val → (s.ch c).mem.retired = 0 → (s.ch c).mem.creel = .normal →
                (u.ch c).mem.retired = setBit 0 d.val ∧ (u.ch c).mem.creel = .reduced ∧ (u.ch c).mem.devs[d].why = a.retireWhy d.val) ∧
            (a.creelMap ≠ num (s.ch c).skn.image.creelMap 0 6 →
              (u.ch c).dof.vltDone = (s.ch c).dof.vltDone ∧ u.vlt.restoreBad = true ∧
              (u.ch c).dof.vltReason = (if (s.ch c).dof.vltReason = 0 then 0x11 else (s.ch c).dof.vltReason) ∧
              (u.ch c).mem.sets = (s.ch c).mem.sets ∧ (u.ch c).mem.retired = (s.ch c).mem.retired)))

/-- R450: with every channel back from its restore the restore is done, and the host is told whether anything of it was refused. -/
def Clause.RestoreDone : Prop :=
  ∀ (t : Tbu) (s : State),
    (s.vlt.restoreOn = false ∨ s.vlt.restoring ≠ 0 → exec (.restoreDone t) s = .next (s.atTime t)) ∧
    (s.vlt.restoreOn = true → s.vlt.restoring = 0 →
      exec (.restoreDone t) s = .next { s.atTime t with vlt := { s.vlt with
        restoreOn := false
        events := if s.vlt.restoreBad then evSet (evSet s.vlt.events VltEv.restoreDone) VltEv.restoreRefused
                  else evSet s.vlt.events VltEv.restoreDone } })

/-- A restore is asked for, writes back the parts asked for, channel by channel, and is done; a slot is discarded. -/
def Obligations.VaultRestore : Prop := Clause.RestoreCommand ∧ Clause.RestoreParts ∧ Clause.RestoreDone

/-- R458, R459, R460, R461: a command that a test refuses leaves only its reason, COMMIT_REFUSED for a commit; an accepted run waits for the
Doffer; a commit makes its bank active and starts the background loops from 0; a write to a bank is misaligned, locked while the bank is
active or the channel in TRIM, or puts its word there and nowhere else. -/
def Clause.CalibrationBanks : Prop :=
  ∀ (t : Tbu) (c : ChanId) (v : Word) (s : State), s.windowUp = true →
    ((s.ch c).configured = false → s.calTest c v = 1) ∧
    (s.calTest c (withCmd v 1) ≠ 0 →
      exec (.calRun t c v) s = .next ((s.atTime t).modCh c fun x => { x with cal := { x.cal with
        resultCmd := 1, result := s.calTest c (withCmd v 1) } })) ∧
    (s.calTest c (withCmd v 1) = 0 →
      exec (.calRun t c v) s = .next ((s.atTime t).modCh c fun x => { x with
        cal := { x.cal with resultCmd := 1, result := 0, state := if x.cal.state = 0 then 1 else x.cal.state }
        dof := { x.dof with queue := x.dof.queue ++ [.calRun (BitVec.ofNat 3 (fld v 8 3))] } })) ∧
    (s.calTest c (withCmd v 2) ≠ 0 →
      exec (.calCommit t c v) s = .next ((s.atTime t).modCh c fun x => { x with cal := { x.cal with
        resultCmd := 2, result := s.calTest c (withCmd v 2), events := evSet x.cal.events CalEv.commitRefused } })) ∧
    (s.calTest c (withCmd v 2) = 0 →
      exec (.calCommit t c v) s = .next ((s.atTime t).modCh c fun x => { x with
        cal := { x.cal with
          resultCmd := 2, result := 0, active := if bit v 16 then 2 else 1, dacTrack := Vector.replicate 64 0, dacStop := 0
          events := evSet x.cal.events CalEv.committed }
        dst := { x.dst with laneTrack := Vector.replicate 24 0, trackStop := 0 } })) ∧
    ∀ (b : Fin 2) (off : BitVec 13),
      (off.toNat % 8 ≠ 0 ∨ (s.ch c).mod.state = .trim ∨ (s.ch c).cal.active.toNat = b.val + 1 →
        exec (.calBankWrite t c b off v) s = .next (s.atTime t)) ∧
      (off.toNat % 8 = 0 → (s.ch c).mod.state ≠ .trim → (s.ch c).cal.active.toNat ≠ b.val + 1 →
        Answers (exec (.calBankWrite t c b off v) s) s c fun x =>
          x = { s.ch c with cal := { (s.ch c).cal with banks := x.cal.banks } } ∧
          (∀ d : Fin 2, d ≠ b → x.cal.banks[d] = (s.ch c).cal.banks[d]) ∧
          (swf 0 (s.ch c).cal.banks[b] = true →
            ∀ k : Nat, sget 0 x.cal.banks[b] k = if 8 * k = off.toNat then v else sget 0 (s.ch c).cal.banks[b] k))

/-- R462, R463, R465, R467, R469, R471, R482: a procedure in progress that was spoilt, DAC with a faulty monitor, BINS_TRK or SKEW with a
tracker not LOCKED, and one whose measurements fail a test are rejected, with their reason, BINS_TRK naming interpolator 4; one that
passes puts its sections into the bank of the run, SKEW with the bin corrections of that bank, and the run goes on with the next; after
the last the channel is back in REST, with the bank committed. The trim loop visits its cells in turn, 100 µs apart; a visit moves its
cell by one step at most, and stops it at 64; that a stopped cell keeps its turn is log entry 76 (DESIGN CHOICE). -/
def Clause.CalibrationRuns : Prop :=
  (∀ (t : Tbu) (c : ChanId) (p : Fin 4) (r : ProcReport) (s : State),
    ((s.ch c).cal.run = none → exec (.calProcedureEnd t c p r) s = .next (s.atTime t)) ∧
    (∀ x : CalRunState, (s.ch c).cal.run = some x →
      (p ∉ x.now → exec (.calProcedureEnd t c p r) s = .next (s.atTime t)) ∧
      (p ∈ x.now → s.trk.tbLocked = true →
        ∀ (sound : Prop) (bin : Nat → Nat → Int), bin = (s.ch c).cal.runBin x →
        sound = ((p = 0 → (s.ch c).ana.monFaulty = false) ∧ (2 ≤ p.val → (s.ch c).trk.state = .locked)) →
        (x.left.filter (· != p) ≠ [] →
          (∀ why : Byte, (why = x.spoilt[p] ∧ why ≠ 0) ∨
              (x.spoilt[p] = 0 ∧ p = 0 ∧ (s.ch c).ana.monFaulty = true ∧ why = 0x2D) ∨
              (x.spoilt[p] = 0 ∧ 2 ≤ p.val ∧ (s.ch c).trk.state ≠ .locked ∧ why = 0x2A) ∨
              (x.spoilt[p] = 0 ∧ sound ∧ ∃ f, r.fails bin p = some f ∧ why = f.why) →
            Answers (exec (.calProcedureEnd t c p r) s) s c fun y =>
              y = { s.ch c with cal := y.cal } ∧ y.cal.rejected = satInc (s.ch c).cal.rejected ∧
              y.cal.accepted = (s.ch c).cal.accepted ∧ y.cal.banks = (s.ch c).cal.banks ∧
              fld y.cal.runResult[p] 0 2 = 2 ∧ fld y.cal.runResult[p] 8 8 = why.toNat ∧
              (x.spoilt[p] ≠ 0 ∨ ¬sound → fld y.cal.runResult[p] 16 16 = if p = 2 then 4 else 0) ∧ bit y.cal.events.bits CalEv.rejected = true ∧
              ∃ v : Vector Byte 4, y.cal.run = some { x with left := x.left.filter (· != p), spoilt := v } ∧
                ((s.ch c).trk.state = .locked → v = x.spoilt)) ∧
          (x.spoilt[p] = 0 → sound → r.fails bin p = none →
            Answers (exec (.calProcedureEnd t c p r) s) s c fun y =>
              y = { s.ch c with cal := y.cal } ∧ y.cal.accepted = satInc (s.ch c).cal.accepted ∧
              y.cal.rejected = (s.ch c).cal.rejected ∧ y.cal.active = (s.ch c).cal.active ∧
              y.cal.banks = vput (s.ch c).cal.banks x.bank (putSection (s.ch c).cal.banks[x.bank] p (r.bytes bin p)) ∧
              fld y.cal.runResult[p] 0 2 = 1 ∧ y.cal.events = (s.ch c).cal.events)) ∧
        (x.left.filter (· != p) = [] → x.spoilt[p] = 0 → sound → r.fails bin p = none →
          (s.ch c).dof.queue.any Service.isRestore = false →
          ∃ u, exec (.calProcedureEnd t c p r) s = .next u ∧ s.sameCreels u ∧ (∀ d : ChanId, d ≠ c → u.ch d = s.ch d) ∧
            (u.ch c).mod.state = .rest ∧ (u.ch c).dof.running = none ∧ (u.ch c).tlh.granted = false ∧ (u.ch c).cal.run = none ∧
            (u.ch c).cal.active.toNat = x.bank.val + 1 ∧ (u.ch c).cal.accepted = satInc (s.ch c).cal.accepted ∧
            bit (u.ch c).cal.events.bits CalEv.committed = true ∧ bit (u.ch c).cal.events.bits CalEv.runDone = true)))) ∧
  ∀ (t : Tbu) (c : ChanId) (k : Fin 64) (up down : Nat) (s : State),
    (bit (s.ch c).cal.loopCfg 1 = false ∨ (s.ch c).sampleClock = false ∨ (s.ch c).mod.state = .trim ∨ k ≠ (s.ch c).cal.trimCell ∨
        (∃ a, (s.ch c).cal.trimAt = some a ∧ max s.now t < a + 100 * us) → exec (.dacTrimVisit t c k up down) s = .next (s.atTime t)) ∧
    (bit (s.ch c).cal.loopCfg 1 = true → (s.ch c).sampleClock = true → (s.ch c).mod.state ≠ .trim → k = (s.ch c).cal.trimCell →
      (∀ a, (s.ch c).cal.trimAt = some a → a + 100 * us ≤ max s.now t) →
      ∀ (d : Int) (next : Fin 64), d = (if 600 ≤ up then -1 else if 600 ≤ down then 1 else 0) → next = (if k = 63 then 1 else k + 1) →
        (bit (s.ch c).cal.dacStop k.val = true →
          exec (.dacTrimVisit t c k up down) s = .next ((s.atTime t).modCh c fun x => { x with cal := { x.cal with
            trimCell := next, trimAt := some (max s.now t) } })) ∧
        (bit (s.ch c).cal.dacStop k.val = false →
          Answers (exec (.dacTrimVisit t c k up down) s) s c fun x =>
            x = { s.ch c with cal := { (s.ch c).cal with
              trimCell := next, trimAt := some (max s.now t)
              dacTrack := vput (s.ch c).cal.dacTrack k ((s.ch c).cal.dacTrack[k] + d), dacStop := x.cal.dacStop, events := x.cal.events } } ∧
            (64 ≤ ((s.ch c).cal.dacTrack[k] + d).natAbs →
              x.cal.dacStop = setBit (s.ch c).cal.dacStop k.val ∧ bit x.cal.events.bits CalEv.dacLimit = true) ∧
            (((s.ch c).cal.dacTrack[k] + d).natAbs < 64 →
              x.cal.dacStop = (s.ch c).cal.dacStop ∧ x.cal.events = (s.ch c).cal.events)))

/-- R464, R465, R466, R467, R468, R469: what a procedure measures. Readings with equal cell weights give corrections of 0; those that pass
are off the monitor's ends, spread over 60 to 72 codes, uniform and independent, and give cells within 2 % of the mean; bins of equal
width leave every stamp where it is, and those that pass are 0.25 to 2.5 tbu wide and alike in both halves; the skews that pass are
within 1,024 tbu. That a mean cell weight that is not positive fails the limits is log entry 63 (DESIGN CHOICE). -/
def Clause.Measured : Prop :=
  ∀ (r : ProcReport) (bin : Nat → Nat → Int),
    (∀ w : Int, 0 < w → (∀ k : Nat, 1 ≤ k → k ≤ 63 → r.sum .both (.level k) - r.sum .both (.level (k - 1)) = w) → ∀ v ∈ r.cells, v = 0) ∧
    (r.fails bin 0 = none →
      r.sum .both (.level 0) < r.sum .both (.level 63) ∧ (∀ v ∈ r.cells, v.natAbs ≤ 327) ∧
      ∀ i : Nat, i < 82 → (r.state i).ends = 0 ∧ 60 ≤ (r.state i).span ∧ (r.state i).span ≤ 72 ∧ 10 * (r.state i).chi8 ≤ 353 * 8192 ∧
        0 < (r.state i).corr.2 ∧ 256 * (r.state i).corr.1.natAbs ≤ 4 * (r.state i).corr.2.toNat) ∧
    (∀ (i : Nat) (n : Nat), (r.bin i).counts = List.replicate n 32768 → ∀ v ∈ binFields 0 0 (r.bin i).counts, v = 0) ∧
    (∀ p : Fin 4, p = 1 ∨ p = 2 → r.fails bin p = none → ∀ u ∈ binUnits p,
      (∀ n ∈ (r.bin u.1).counts, 8192 ≤ n ∧ n ≤ 81920) ∧ (r.bin u.1).chi512.1 ≤ 620 * (r.bin u.1).chi512.2 ∧
      0 < (r.bin u.1).corr.2 ∧ 4096 * (r.bin u.1).corr.1.natAbs ≤ 4 * (r.bin u.1).corr.2.toNat) ∧
    (r.fails bin 3 = none → ∀ v ∈ r.skews bin, v.natAbs ≤ 1024)

/-- The calibration banks and commands, the procedures of a run, what they measure, and the trim loop. -/
def Obligations.Calibration : Prop := Clause.CalibrationBanks ∧ Clause.CalibrationRuns ∧ Clause.Measured

/-- R481, R484, R486, R487, R488, R490: the first stall of a Doffer is masked by a restart and recorded, the second is DOFFER_LOST; the
visit it was about ends, and a rescue that is still to come begins again with the restart (log entry 44, DEDUCED); a training that it aborts
keeps the grades it had verified. A dry run
longer than DRY_US is recorded, and holds a channel in RUN whose policy is not to drain; an acknowledgement clears what does not stand,
channel by channel; a pop removes the oldest records. -/
def Obligations.DofferAndFaultLog : Prop :=
  (∀ (t : Tbu) (c : ChanId) (s : State),
    ((s.ch c).dof.restarting = false ∨ (s.ch c).mem.visit ≠ none ∨ (s.ch c).mem.rescues = [] →
      exec (.dofferRestartDone t c) s = .next ((s.atTime t).modCh c fun x => { x with dof := { x.dof with restarting := false } })) ∧
    (∀ (d : Fin 5) (rest : List (Fin 5)), (s.ch c).dof.restarting = true → (s.ch c).mem.visit = none → (s.ch c).mem.rescues = d :: rest →
      exec (.dofferRestartDone t c) s = .next ((s.atTime t).modCh c fun x => { x with
        dof := { x.dof with restarting := false }
        mem := { x.mem with visit := some { dev := d, pauses := 0, rescue := true }, rescues := rest } })) ∧
    (∀ seen : StallSeen, seen.ch = c →
      (s.ch c).dof.restarting = true ∨ (s.ch c).flt.dofferLost = true ∨ (s.ch c).configured = false →
      exec (.dofferStall t seen) s = .next (s.atTime t)) ∧
    (∀ (seen : StallSeen) (m : Mem), seen.ch = c →
      m = { (s.ch c).mem with
        visit := none, waiting := (s.ch c).mem.waiting.filter fun e => e.why != .pause
        rescues := ((s.ch c).mem.visit.toList.filter fun v => (s.ch c).mem.verifying v.dev).map (·.dev) ++ (s.ch c).mem.rescues } →
      (s.ch c).dof.restarting = false → (s.ch c).flt.dofferLost = false → (s.ch c).configured = true → (s.ch c).dof.running = none →
      ((s.ch c).dof.stalls = 0 → (s.ch c).flt.degraded = false →
        ∃ u, exec (.dofferStall t seen) s = .next u ∧ u = { s.atTime t with flt := u.flt, chans := u.chans } ∧
          (∀ d : ChanId, d ≠ c → u.ch d = s.ch d) ∧
          u.ch c = { s.ch c with
            mem := m, dof := { (s.ch c).dof with stalls := 1, restarting := true }
            flt := ({ (s.ch c).flt with doffer := true } : ChFlt).put (s.atTime t).cycle 8 } ∧
          u.flt.log = logged s t { odo := s.trk.odo, info := logInfo (some c) 8 0 0 0 }) ∧
      ((s.ch c).dof.stalls ≠ 0 → (s.ch c).mod.state = .rest → (s.ch c).dof.queue = [] → (s.ch c).tlh.pinned = false →
        ∃ u, exec (.dofferStall t seen) s = .next u ∧ u = { s.atTime t with flt := u.flt, chans := u.chans } ∧
          (∀ d : ChanId, d ≠ c → u.ch d = s.ch d) ∧
          u.ch c = { s.ch c with
            mem := m, dof := { (s.ch c).dof with stalls := 2, initial := false }
            flt := ({ (s.ch c).flt with dofferLost := true } : ChFlt).put (s.atTime t).cycle 0x24 } ∧
          u.flt.log = logged s t { odo := s.trk.odo, info := logInfo (some c) 0x24 0 3 0 })) ∧
    (∀ (seen : StallSeen) (g : Fin 3), seen.ch = c → (s.ch c).dof.restarting = false → (s.ch c).flt.dofferLost = false →
      (s.ch c).configured = true → (s.ch c).dof.running = some (.train false) → (s.ch c).mem.train = .initial →
      (s.ch c).dof.queue.any Service.isRestore = false → (s.ch c).dof.stalls = 0 →
      ∃ u, exec (.dofferStall t seen) s = .next u ∧ (∀ d : ChanId, d ≠ c → u.ch d = s.ch d) ∧
        (u.ch c).mod.state = .rest ∧ (u.ch c).dof.running = none ∧ (u.ch c).dof.restarting = true ∧ (u.ch c).mem.svcLast = 0x12 ∧
        bit (u.ch c).mem.trained g.val = (bit (s.ch c).mem.trained g.val || (s.ch c).mem.trainsAt seen.pass seen.eyes g.val)) ∧
    ((s.ch c).ply.dryAt = none ∨ (s.ch c).flt.dryLong = true → exec (.dryLong t c) s = .next (s.atTime t)) ∧
    (∀ a : Tbu, (s.ch c).ply.dryAt = some a →
      (max s.now t ≤ a + s.dryUs * us → exec (.dryLong t c) s = .next (s.atTime t)) ∧
      (a + s.dryUs * us < max s.now t → (s.ch c).flt.dryLong = false → (s.ch c).mod.state = .run → s.policyUnmasked c ≠ 1 →
        ∃ u, exec (.dryLong t c) s = .next u ∧ u = { s.atTime t with flt := u.flt, chans := u.chans } ∧
          (∀ d : ChanId, d ≠ c → u.ch d = s.ch d) ∧ s.sameCreels u ∧
          (u.ch c).flt.dryLong = true ∧ (u.ch c).flt.halt = true ∧ (u.ch c).flt.last = ((s.ch c).flt.put (s.atTime t).cycle 0x25).last ∧ (u.ch c).seq.holdReq ≠ none ∧
          (u.ch c).mod.state = .run ∧ bit u.flt.events.bits FltEv.unmasked = true ∧
          u.flt.log = logged s t { odo := s.trk.odo, info := logInfo (some c) 0x25 (if (s.ch c).ply.dryRef then 0 else 1) 1 0 }))) ∧
  ∀ (t : Tbu) (s : State), s.portUp = true →
    (∀ m : BitVec 16,
      ∃ u, exec (.ack t m) s = .next u ∧
        u = { s.atTime t with chans := u.chans, flt := { s.flt with cmdVec := u.flt.cmdVec, events := u.flt.events } } ∧
        ∀ c : ChanId,
          (bit m c.val = false → u.ch c = s.ch c ∧ bit u.flt.cmdVec c.val = false ∧ bit u.flt.cmdVec (16 + c.val) = false) ∧
          (bit m c.val = true → (s.ch c).flt.ackable = false →
            u.ch c = s.ch c ∧ bit u.flt.cmdVec c.val = false ∧ bit u.flt.cmdVec (16 + c.val) = true ∧
            bit u.flt.events.bits FltEv.ackRefused = true) ∧
          (bit m c.val = true → (s.ch c).flt.ackable = true →
            bit u.flt.cmdVec c.val = true ∧ bit u.flt.cmdVec (16 + c.val) = false ∧
            u.ch c = { s.ch c with
              flt := { (s.ch c).flt with halt := false }
              mod := { (s.ch c).mod with heldCause :=
                if (s.ch c).mod.heldCause = Cause.fault then Cause.host else (s.ch c).mod.heldCause } })) ∧
    ∀ n : BitVec 7, exec (.logPop t n) s = .next { s.atTime t with flt := { s.flt with
      log := s.flt.log.drop n.toNat, newCount := min s.flt.newCount (s.flt.log.length - n.toNat) } }
end

