-- ==== Sys2Proof/Laws/Bits.lean ====
section
/-! SUPPORT. Bits, fields and vectors of register words: what reading gives after setting. -/

namespace Sys2Proof.Machine

theorem bit_mask1 (n j k : Nat) : bit (mask1 n j) k = (decide (k < n) && decide (k = j)) := by
  unfold bit mask1
  rw [BitVec.getLsbD_ofNat, Nat.testBit_two_pow]
  by_cases h : k = j
  · subst h; simp
  · simp [h, Ne.symm h]

/-- A bit of a word with bit `j` set. -/
theorem bit_setBit {n : Nat} (w : BitVec n) (j k : Nat) :
    bit (setBit w j) k = (bit w k || (decide (k < n) && decide (k = j))) := by
  unfold setBit
  rw [← bit_mask1]
  unfold bit
  rw [BitVec.getLsbD_or]

theorem bit_setBit_of_bit {n : Nat} (w : BitVec n) (j k : Nat) (h : bit w k = true) : bit (setBit w j) k = true := by
  rw [bit_setBit, h, Bool.true_or]

/-- A bit of a word with bit `j` cleared. -/
theorem bit_clrBit {n : Nat} (w : BitVec n) (j k : Nat) : bit (clrBit w j) k = (bit w k && !decide (k = j)) := by
  unfold clrBit
  have h := bit_mask1 n j k
  unfold bit at h ⊢
  rw [BitVec.getLsbD_and, BitVec.getLsbD_not, h]
  by_cases e : k < n
  · simp [e]
  · simp [BitVec.getLsbD_of_ge w k (Nat.le_of_not_lt e)]

theorem bit_flagIf {n : Nat} (b : Bool) (w : BitVec n) (j k : Nat) :
    bit (flagIf b w j) k = (bit w k || (b && decide (k < n) && decide (k = j))) := by
  cases b
  · simp [flagIf]
  · simp [flagIf, bit_setBit]

theorem bit_putBit {n : Nat} (b : Bool) (w : BitVec n) (j k : Nat) :
    bit (putBit w j b) k = if k = j then decide (k < n) && b else bit w k := by
  cases b
  · simp [putBit, bit_clrBit]
    by_cases h : k = j <;> simp [h]
  · simp [putBit, bit_setBit]
    by_cases h : k = j
    · subst h
      by_cases e : k < n
      · simp [e]
      · simp [e]; exact BitVec.getLsbD_of_ge w k (Nat.le_of_not_lt e)
    · simp [h]

@[simp] theorem vmod_get_self {α : Type} {n : Nat} (v : Vector α n) (i : Fin n) (f : α → α) : (vmod v i f)[i.val] = f v[i.val] := by
  simp [vmod]

theorem vmod_get_ne {α : Type} {n : Nat} (v : Vector α n) {i j : Fin n} (f : α → α) (h : j ≠ i) :
    (vmod v i f)[j.val] = v[j.val] := by
  have h' : i.val ≠ j.val := fun e => h (Fin.ext e.symm)
  simp [vmod, Vector.getElem_set_ne, h']

/-- An instant that an event waits for has come. -/
theorem any_due {o : Option Tbu} {a : Tbu} (h : o = some a) (k n : Nat) (hb : a + k ≤ n) :
    (o.any fun a => decide (a + k ≤ n)) = true := by
  subst h; rw [Option.any_some]; exact decide_eq_true hb

/-- An instant that an event waits for has not come. -/
theorem any_not_due {o : Option Tbu} {a : Tbu} (h : o = some a) (k n : Nat) (hb : n < a + k) :
    ¬ (o.any fun a => decide (a + k ≤ n)) = true := by
  subst h; rw [Option.any_some]; intro e; exact absurd (of_decide_eq_true e) (Nat.not_le.mpr hb)

end Sys2Proof.Machine
end

