-- ==== Sys2Proof/Laws/State.lean ====
section
/-! SUPPORT. What each update of the state does to each of its fields, so that no proof unfolds a record update. -/

namespace Sys2Proof.Machine

/-! ### `atTime` -/

@[simp] theorem State.atTime_pending (s : State) (t : Tbu) : (s.atTime t).pending = s.pending := rfl
@[simp] theorem State.atTime_now (s : State) (t : Tbu) : (s.atTime t).now = max s.now t := rfl
@[simp] theorem State.atTime_freeCtr (s : State) (t : Tbu) : (s.atTime t).freeCtr = s.freeCtr := rfl
@[simp] theorem State.atTime_evMark (s : State) (t : Tbu) :
    (s.atTime t).evMark = if cycleOf (max s.now t) = cycleOf s.now then s.evMark else s.evSets := rfl
@[simp] theorem State.atTime_mod (s : State) (t : Tbu) : (s.atTime t).mod = s.mod := rfl
@[simp] theorem State.atTime_tlh (s : State) (t : Tbu) : (s.atTime t).tlh = s.tlh := rfl
@[simp] theorem State.atTime_trk (s : State) (t : Tbu) : (s.atTime t).trk = s.trk := rfl
@[simp] theorem State.atTime_vlt (s : State) (t : Tbu) : (s.atTime t).vlt = s.vlt := rfl
@[simp] theorem State.atTime_hp (s : State) (t : Tbu) : (s.atTime t).hp = s.hp := rfl
@[simp] theorem State.atTime_skn (s : State) (t : Tbu) : (s.atTime t).skn = s.skn := rfl
@[simp] theorem State.atTime_flt (s : State) (t : Tbu) : (s.atTime t).flt = s.flt := rfl
@[simp] theorem State.atTime_side (s : State) (t : Tbu) : (s.atTime t).side = s.side := rfl
@[simp] theorem State.atTime_chans (s : State) (t : Tbu) : (s.atTime t).chans = s.chans := rfl

/-! ### `drawn` -/

@[simp] theorem State.drawn_pending (s : State) : (s.drawn).pending = s.pending := rfl
@[simp] theorem State.drawn_now (s : State) : (s.drawn).now = s.now := rfl
@[simp] theorem State.drawn_freeCtr (s : State) : (s.drawn).freeCtr = s.freeCtr + 1 := rfl
@[simp] theorem State.drawn_evMark (s : State) : (s.drawn).evMark = s.evMark := rfl
@[simp] theorem State.drawn_mod (s : State) : (s.drawn).mod = s.mod := rfl
@[simp] theorem State.drawn_tlh (s : State) : (s.drawn).tlh = s.tlh := rfl
@[simp] theorem State.drawn_trk (s : State) : (s.drawn).trk = s.trk := rfl
@[simp] theorem State.drawn_vlt (s : State) : (s.drawn).vlt = s.vlt := rfl
@[simp] theorem State.drawn_hp (s : State) : (s.drawn).hp = s.hp := rfl
@[simp] theorem State.drawn_skn (s : State) : (s.drawn).skn = s.skn := rfl
@[simp] theorem State.drawn_flt (s : State) : (s.drawn).flt = s.flt := rfl
@[simp] theorem State.drawn_side (s : State) : (s.drawn).side = s.side := rfl
@[simp] theorem State.drawn_chans (s : State) : (s.drawn).chans = s.chans := rfl

/-! ### `withPending` -/

@[simp] theorem State.withPending_pending (s : State) (q : List Instr) : (s.withPending q).pending = q := rfl
@[simp] theorem State.withPending_now (s : State) (q : List Instr) : (s.withPending q).now = s.now := rfl
@[simp] theorem State.withPending_freeCtr (s : State) (q : List Instr) : (s.withPending q).freeCtr = s.freeCtr := rfl
@[simp] theorem State.withPending_evMark (s : State) (q : List Instr) : (s.withPending q).evMark = s.evMark := rfl
@[simp] theorem State.withPending_mod (s : State) (q : List Instr) : (s.withPending q).mod = s.mod := rfl
@[simp] theorem State.withPending_tlh (s : State) (q : List Instr) : (s.withPending q).tlh = s.tlh := rfl
@[simp] theorem State.withPending_trk (s : State) (q : List Instr) : (s.withPending q).trk = s.trk := rfl
@[simp] theorem State.withPending_vlt (s : State) (q : List Instr) : (s.withPending q).vlt = s.vlt := rfl
@[simp] theorem State.withPending_hp (s : State) (q : List Instr) : (s.withPending q).hp = s.hp := rfl
@[simp] theorem State.withPending_skn (s : State) (q : List Instr) : (s.withPending q).skn = s.skn := rfl
@[simp] theorem State.withPending_flt (s : State) (q : List Instr) : (s.withPending q).flt = s.flt := rfl
@[simp] theorem State.withPending_side (s : State) (q : List Instr) : (s.withPending q).side = s.side := rfl
@[simp] theorem State.withPending_chans (s : State) (q : List Instr) : (s.withPending q).chans = s.chans := rfl

/-! ### `setCh` -/

@[simp] theorem State.setCh_pending (s : State) (c : ChanId) (x : Chan) : (s.setCh c x).pending = s.pending := rfl
@[simp] theorem State.setCh_now (s : State) (c : ChanId) (x : Chan) : (s.setCh c x).now = s.now := rfl
@[simp] theorem State.setCh_freeCtr (s : State) (c : ChanId) (x : Chan) : (s.setCh c x).freeCtr = s.freeCtr := rfl
@[simp] theorem State.setCh_evMark (s : State) (c : ChanId) (x : Chan) : (s.setCh c x).evMark = s.evMark := rfl
@[simp] theorem State.setCh_mod (s : State) (c : ChanId) (x : Chan) : (s.setCh c x).mod = s.mod := rfl
@[simp] theorem State.setCh_tlh (s : State) (c : ChanId) (x : Chan) : (s.setCh c x).tlh = s.tlh := rfl
@[simp] theorem State.setCh_trk (s : State) (c : ChanId) (x : Chan) : (s.setCh c x).trk = s.trk := rfl
@[simp] theorem State.setCh_vlt (s : State) (c : ChanId) (x : Chan) : (s.setCh c x).vlt = s.vlt := rfl
@[simp] theorem State.setCh_hp (s : State) (c : ChanId) (x : Chan) : (s.setCh c x).hp = s.hp := rfl
@[simp] theorem State.setCh_skn (s : State) (c : ChanId) (x : Chan) : (s.setCh c x).skn = s.skn := rfl
@[simp] theorem State.setCh_flt (s : State) (c : ChanId) (x : Chan) : (s.setCh c x).flt = s.flt := rfl
@[simp] theorem State.setCh_side (s : State) (c : ChanId) (x : Chan) : (s.setCh c x).side = s.side := rfl
@[simp] theorem State.setCh_chans (s : State) (c : ChanId) (x : Chan) : (s.setCh c x).chans = vput s.chans c x := rfl

/-! ### `modCh` -/

@[simp] theorem State.modCh_pending (s : State) (c : ChanId) (f : Chan → Chan) : (s.modCh c f).pending = s.pending := rfl
@[simp] theorem State.modCh_now (s : State) (c : ChanId) (f : Chan → Chan) : (s.modCh c f).now = s.now := rfl
@[simp] theorem State.modCh_freeCtr (s : State) (c : ChanId) (f : Chan → Chan) : (s.modCh c f).freeCtr = s.freeCtr := rfl
@[simp] theorem State.modCh_evMark (s : State) (c : ChanId) (f : Chan → Chan) : (s.modCh c f).evMark = s.evMark := rfl
@[simp] theorem State.modCh_mod (s : State) (c : ChanId) (f : Chan → Chan) : (s.modCh c f).mod = s.mod := rfl
@[simp] theorem State.modCh_tlh (s : State) (c : ChanId) (f : Chan → Chan) : (s.modCh c f).tlh = s.tlh := rfl
@[simp] theorem State.modCh_trk (s : State) (c : ChanId) (f : Chan → Chan) : (s.modCh c f).trk = s.trk := rfl
@[simp] theorem State.modCh_vlt (s : State) (c : ChanId) (f : Chan → Chan) : (s.modCh c f).vlt = s.vlt := rfl
@[simp] theorem State.modCh_hp (s : State) (c : ChanId) (f : Chan → Chan) : (s.modCh c f).hp = s.hp := rfl
@[simp] theorem State.modCh_skn (s : State) (c : ChanId) (f : Chan → Chan) : (s.modCh c f).skn = s.skn := rfl
@[simp] theorem State.modCh_flt (s : State) (c : ChanId) (f : Chan → Chan) : (s.modCh c f).flt = s.flt := rfl
@[simp] theorem State.modCh_side (s : State) (c : ChanId) (f : Chan → Chan) : (s.modCh c f).side = s.side := rfl
@[simp] theorem State.modCh_chans (s : State) (c : ChanId) (f : Chan → Chan) : (s.modCh c f).chans = vput s.chans c (f (s.ch c)) := rfl

/-! ### `publish` -/

@[simp] theorem State.publish_pending (s : State) (c : ChanId) (n : Nat) : (s.publish c n).pending = s.pending := rfl
@[simp] theorem State.publish_now (s : State) (c : ChanId) (n : Nat) : (s.publish c n).now = s.now := rfl
@[simp] theorem State.publish_freeCtr (s : State) (c : ChanId) (n : Nat) : (s.publish c n).freeCtr = s.freeCtr := rfl
@[simp] theorem State.publish_evMark (s : State) (c : ChanId) (n : Nat) : (s.publish c n).evMark = s.evMark := rfl
@[simp] theorem State.publish_mod (s : State) (c : ChanId) (n : Nat) : (s.publish c n).mod = s.mod := rfl
@[simp] theorem State.publish_tlh (s : State) (c : ChanId) (n : Nat) : (s.publish c n).tlh = s.tlh := rfl
@[simp] theorem State.publish_trk (s : State) (c : ChanId) (n : Nat) : (s.publish c n).trk = s.trk := rfl
@[simp] theorem State.publish_vlt (s : State) (c : ChanId) (n : Nat) : (s.publish c n).vlt = s.vlt := rfl
@[simp] theorem State.publish_hp (s : State) (c : ChanId) (n : Nat) : (s.publish c n).hp = s.hp := rfl
@[simp] theorem State.publish_skn (s : State) (c : ChanId) (n : Nat) : (s.publish c n).skn = s.skn := rfl
@[simp] theorem State.publish_flt (s : State) (c : ChanId) (n : Nat) : (s.publish c n).flt = s.flt := rfl
@[simp] theorem State.publish_side (s : State) (c : ChanId) (n : Nat) : (s.publish c n).side = s.side := rfl
@[simp] theorem State.publish_chans (s : State) (c : ChanId) (n : Nat) : (s.publish c n).chans = vput s.chans c ((s.ch c).publish s.cycle n) := rfl

/-! ### `setMode` -/

@[simp] theorem State.setMode_pending (s : State) (m : Mode) : (s.setMode m).pending = s.pending := rfl
@[simp] theorem State.setMode_now (s : State) (m : Mode) : (s.setMode m).now = s.now := rfl
@[simp] theorem State.setMode_freeCtr (s : State) (m : Mode) : (s.setMode m).freeCtr = s.freeCtr := rfl
@[simp] theorem State.setMode_evMark (s : State) (m : Mode) : (s.setMode m).evMark = s.evMark := rfl
@[simp] theorem State.setMode_mod (s : State) (m : Mode) : (s.setMode m).mod = { s.mod with mode := m, prev := s.mod.mode, events := evSet s.mod.events ModEv.modeChange } := rfl
@[simp] theorem State.setMode_tlh (s : State) (m : Mode) : (s.setMode m).tlh = s.tlh := rfl
@[simp] theorem State.setMode_trk (s : State) (m : Mode) : (s.setMode m).trk = s.trk := rfl
@[simp] theorem State.setMode_vlt (s : State) (m : Mode) : (s.setMode m).vlt = s.vlt := rfl
@[simp] theorem State.setMode_hp (s : State) (m : Mode) : (s.setMode m).hp = s.hp := rfl
@[simp] theorem State.setMode_skn (s : State) (m : Mode) : (s.setMode m).skn = s.skn := rfl
@[simp] theorem State.setMode_flt (s : State) (m : Mode) : (s.setMode m).flt = s.flt := rfl
@[simp] theorem State.setMode_side (s : State) (m : Mode) : (s.setMode m).side = s.side := rfl
@[simp] theorem State.setMode_chans (s : State) (m : Mode) : (s.setMode m).chans = s.chans := rfl

/-! ### `trkEvent` -/

@[simp] theorem State.trkEvent_pending (s : State) (k : Nat) : (s.trkEvent k).pending = s.pending := rfl
@[simp] theorem State.trkEvent_now (s : State) (k : Nat) : (s.trkEvent k).now = s.now := rfl
@[simp] theorem State.trkEvent_freeCtr (s : State) (k : Nat) : (s.trkEvent k).freeCtr = s.freeCtr := rfl
@[simp] theorem State.trkEvent_evMark (s : State) (k : Nat) : (s.trkEvent k).evMark = s.evMark := rfl
@[simp] theorem State.trkEvent_mod (s : State) (k : Nat) : (s.trkEvent k).mod = s.mod := rfl
@[simp] theorem State.trkEvent_tlh (s : State) (k : Nat) : (s.trkEvent k).tlh = s.tlh := rfl
@[simp] theorem State.trkEvent_trk (s : State) (k : Nat) : (s.trkEvent k).trk = { s.trk with events := evSet s.trk.events k } := rfl
@[simp] theorem State.trkEvent_vlt (s : State) (k : Nat) : (s.trkEvent k).vlt = s.vlt := rfl
@[simp] theorem State.trkEvent_hp (s : State) (k : Nat) : (s.trkEvent k).hp = s.hp := rfl
@[simp] theorem State.trkEvent_skn (s : State) (k : Nat) : (s.trkEvent k).skn = s.skn := rfl
@[simp] theorem State.trkEvent_flt (s : State) (k : Nat) : (s.trkEvent k).flt = s.flt := rfl
@[simp] theorem State.trkEvent_side (s : State) (k : Nat) : (s.trkEvent k).side = s.side := rfl
@[simp] theorem State.trkEvent_chans (s : State) (k : Nat) : (s.trkEvent k).chans = s.chans := rfl

/-! ### `tlhEvent` -/

@[simp] theorem State.tlhEvent_pending (s : State) (k : Nat) : (s.tlhEvent k).pending = s.pending := rfl
@[simp] theorem State.tlhEvent_now (s : State) (k : Nat) : (s.tlhEvent k).now = s.now := rfl
@[simp] theorem State.tlhEvent_freeCtr (s : State) (k : Nat) : (s.tlhEvent k).freeCtr = s.freeCtr := rfl
@[simp] theorem State.tlhEvent_evMark (s : State) (k : Nat) : (s.tlhEvent k).evMark = s.evMark := rfl
@[simp] theorem State.tlhEvent_mod (s : State) (k : Nat) : (s.tlhEvent k).mod = s.mod := rfl
@[simp] theorem State.tlhEvent_tlh (s : State) (k : Nat) : (s.tlhEvent k).tlh = { s.tlh with events := evSet s.tlh.events k } := rfl
@[simp] theorem State.tlhEvent_trk (s : State) (k : Nat) : (s.tlhEvent k).trk = s.trk := rfl
@[simp] theorem State.tlhEvent_vlt (s : State) (k : Nat) : (s.tlhEvent k).vlt = s.vlt := rfl
@[simp] theorem State.tlhEvent_hp (s : State) (k : Nat) : (s.tlhEvent k).hp = s.hp := rfl
@[simp] theorem State.tlhEvent_skn (s : State) (k : Nat) : (s.tlhEvent k).skn = s.skn := rfl
@[simp] theorem State.tlhEvent_flt (s : State) (k : Nat) : (s.tlhEvent k).flt = s.flt := rfl
@[simp] theorem State.tlhEvent_side (s : State) (k : Nat) : (s.tlhEvent k).side = s.side := rfl
@[simp] theorem State.tlhEvent_chans (s : State) (k : Nat) : (s.tlhEvent k).chans = s.chans := rfl

end Sys2Proof.Machine
end

