-- ==== Sys2Proof/Laws/Ops.lean ====
section
/-! SUPPORT. What the shared operations over the state do and leave alone: access to channels, changes of a channel's
state, loops over channels, packets to the host and records of the fault log. -/

namespace Sys2Proof.Machine

/-! ### Vectors -/

@[simp] theorem vput_get_self {α : Type} {n : Nat} (v : Vector α n) (i : Fin n) (x : α) : (vput v i x)[i.val] = x := by
  simp [vput]

theorem vput_get_ne {α : Type} {n : Nat} (v : Vector α n) {i j : Fin n} (x : α) (h : j ≠ i) :
    (vput v i x)[j.val] = v[j.val] := by
  have h' : i.val ≠ j.val := fun e => h (Fin.ext e.symm)
  simp [vput, Vector.getElem_set_ne, h']

@[simp] theorem vmap_get {α β : Type} {n : Nat} (f : α → β) (v : Vector α n) (i : Fin n) :
    (vmap f v)[i.val] = f v[i.val] := by
  simp [vmap]

/-! ### One channel -/

@[simp] theorem State.ch_setCh_self (s : State) (c : ChanId) (x : Chan) : (s.setCh c x).ch c = x := by
  simp [State.ch, State.setCh]

theorem State.ch_setCh_ne (s : State) {c d : ChanId} (x : Chan) (h : d ≠ c) : (s.setCh c x).ch d = s.ch d :=
  vput_get_ne s.chans x h

@[simp] theorem State.ch_modCh_self (s : State) (c : ChanId) (f : Chan → Chan) : (s.modCh c f).ch c = f (s.ch c) := by
  simp [State.modCh]

theorem State.ch_modCh_ne (s : State) {c d : ChanId} (f : Chan → Chan) (h : d ≠ c) : (s.modCh c f).ch d = s.ch d :=
  State.ch_setCh_ne s _ h

theorem State.ch_modCh (s : State) (c d : ChanId) (f : Chan → Chan) :
    (s.modCh c f).ch d = if d = c then f (s.ch d) else s.ch d := by
  by_cases h : d = c
  · subst h; simp
  · simp [h, State.ch_modCh_ne s f h]

@[simp] theorem State.ch_atTime (s : State) (t : Tbu) (c : ChanId) : (s.atTime t).ch c = s.ch c := rfl
@[simp] theorem State.ch_drawn (s : State) (c : ChanId) : s.drawn.ch c = s.ch c := rfl
@[simp] theorem State.ch_withPending (s : State) (q : List Instr) (c : ChanId) : (s.withPending q).ch c = s.ch c := rfl
@[simp] theorem State.ch_setMode (s : State) (m : Mode) (c : ChanId) : (s.setMode m).ch c = s.ch c := rfl
@[simp] theorem State.ch_trkEvent (s : State) (k : Nat) (c : ChanId) : (s.trkEvent k).ch c = s.ch c := rfl
@[simp] theorem State.ch_tlhEvent (s : State) (k : Nat) (c : ChanId) : (s.tlhEvent k).ch c = s.ch c := rfl

/-- A change of one channel is seen in that channel only. -/
theorem State.modCh_only (s : State) (c : ChanId) (f : Chan → Chan) : State.onlyChannel c s (s.modCh c f) :=
  ⟨rfl, fun _ h => State.ch_modCh_ne s f h⟩

theorem State.onlyChannel_refl (s : State) (c : ChanId) : State.onlyChannel c s s := ⟨rfl, fun _ _ => rfl⟩

theorem State.onlyChannel_atTime (s : State) (t : Tbu) (c : ChanId) (s' : State)
    (h : State.onlyChannel c (s.atTime t) s') : State.onlyChannel c s s' := by
  obtain ⟨h1, h2⟩ := h
  exact ⟨by rw [h1]; rfl, h2⟩

/-! ### Changes of a channel's state (R114) -/

/-- The channel as a change of its state leaves it. -/
def Chan.inState (c : Chan) (st : ChState) : Chan :=
  { c with mod := { c.mod with state := st, heldCause := if st = .held then c.mod.heldCause else 0 } }

theorem State.setChState_eq (s : State) (c : ChanId) (st : ChState) :
    s.setChState c st = { s.setCh c ((s.ch c).inState st) with
      mod := if (s.ch c).mod.state = st then s.mod else { s.mod with events := evSet s.mod.events ModEv.stateChange } } := by
  by_cases h : (s.ch c).mod.state = st <;> simp [State.setChState, h, Chan.inState, State.setCh]

@[simp] theorem State.setChState_ch_self (s : State) (c : ChanId) (st : ChState) :
    (s.setChState c st).ch c = (s.ch c).inState st := by
  rw [State.setChState_eq]; exact State.ch_setCh_self s c _

theorem State.setChState_ch_ne (s : State) {c d : ChanId} (st : ChState) (h : d ≠ c) : (s.setChState c st).ch d = s.ch d := by
  rw [State.setChState_eq]; exact State.ch_setCh_ne s _ h

@[simp] theorem State.setChState_pending (s : State) (c : ChanId) (st : ChState) : (s.setChState c st).pending = s.pending := by
  rw [State.setChState_eq]; rfl
@[simp] theorem State.setChState_now (s : State) (c : ChanId) (st : ChState) : (s.setChState c st).now = s.now := by
  rw [State.setChState_eq]; rfl
@[simp] theorem State.setChState_freeCtr (s : State) (c : ChanId) (st : ChState) : (s.setChState c st).freeCtr = s.freeCtr := by
  rw [State.setChState_eq]; rfl
@[simp] theorem State.setChState_evMark (s : State) (c : ChanId) (st : ChState) : (s.setChState c st).evMark = s.evMark := by
  rw [State.setChState_eq]; rfl
@[simp] theorem State.setChState_tlh (s : State) (c : ChanId) (st : ChState) : (s.setChState c st).tlh = s.tlh := by
  rw [State.setChState_eq]; rfl
@[simp] theorem State.setChState_trk (s : State) (c : ChanId) (st : ChState) : (s.setChState c st).trk = s.trk := by
  rw [State.setChState_eq]; rfl
@[simp] theorem State.setChState_vlt (s : State) (c : ChanId) (st : ChState) : (s.setChState c st).vlt = s.vlt := by
  rw [State.setChState_eq]; rfl
@[simp] theorem State.setChState_hp (s : State) (c : ChanId) (st : ChState) : (s.setChState c st).hp = s.hp := by
  rw [State.setChState_eq]; rfl
@[simp] theorem State.setChState_skn (s : State) (c : ChanId) (st : ChState) : (s.setChState c st).skn = s.skn := by
  rw [State.setChState_eq]; rfl
@[simp] theorem State.setChState_flt (s : State) (c : ChanId) (st : ChState) : (s.setChState c st).flt = s.flt := by
  rw [State.setChState_eq]; rfl
@[simp] theorem State.setChState_side (s : State) (c : ChanId) (st : ChState) : (s.setChState c st).side = s.side := by
  rw [State.setChState_eq]; rfl
@[simp] theorem State.setChState_mode (s : State) (c : ChanId) (st : ChState) : (s.setChState c st).mod.mode = s.mod.mode := by
  rw [State.setChState_eq]; dsimp only; split <;> rfl

/-! ### Loops over channels -/

/-- What every turn of a loop leaves alone, the loop leaves alone. -/
theorem State.forCh_keeps {α : Type} (p : State → α) (f : State → ChanId → State) (h : ∀ s c, p (f s c) = p s)
    (l : List ChanId) (s : State) : p (s.forCh l f) = p s := by
  unfold State.forCh
  induction l generalizing s with
  | nil => rfl
  | cons c r ih => rw [List.foldl_cons, ih, h]

/-- What every turn of a loop keeps true, the loop keeps true. -/
theorem State.forCh_inv (P : State → Prop) (f : State → ChanId → State) (h : ∀ s c, P s → P (f s c))
    (l : List ChanId) (s : State) (hs : P s) : P (s.forCh l f) := by
  unfold State.forCh
  induction l generalizing s with
  | nil => exact hs
  | cons c r ih => exact ih _ (h s c hs)

/-- A loop that changes each channel of a list without repeats by itself changes those channels and no other. -/
theorem State.forCh_modCh_ch (f : ChanId → Chan → Chan) (l : List ChanId) (hl : l.Nodup) (s : State) (d : ChanId) :
    (s.forCh l fun s c => s.modCh c (f c)).ch d = if d ∈ l then f d (s.ch d) else s.ch d := by
  unfold State.forCh
  induction l generalizing s with
  | nil => simp
  | cons c r ih =>
    rw [List.nodup_cons] at hl
    rw [List.foldl_cons, ih hl.2, State.ch_modCh]
    by_cases h : d = c
    · subst h; simp [hl.1]
    · simp [h]

theorem allCh_nodup : allCh.Nodup := by decide
theorem mem_allCh (c : ChanId) : c ∈ allCh := by revert c; decide

/-! ### Packets to the host (R393, R394) -/

/-- Filling frames keeps the link's other fields and never has more than 2,048 frames outstanding. -/
theorem Hp.fill_outstanding (t : Tbu) (n : Nat) (h : Hp) (hh : h.outstanding.length ≤ maxOutstanding) :
    (Hp.fill t n h).outstanding.length ≤ maxOutstanding := by
  induction n generalizing h with
  | zero => exact hh
  | succ n ih =>
    unfold Hp.fill
    split
    · exact hh
    · split
      · rename_i hlt
        apply ih
        simp only [List.length_append, List.length_cons, List.length_nil]
        omega
      · exact hh

@[simp] theorem State.send_pending (s : State) (p : Packet) : (s.send p).pending = s.pending := by
  unfold State.send; split <;> rfl
@[simp] theorem State.send_now (s : State) (p : Packet) : (s.send p).now = s.now := by
  unfold State.send; split <;> rfl
@[simp] theorem State.send_freeCtr (s : State) (p : Packet) : (s.send p).freeCtr = s.freeCtr := by
  unfold State.send; split <;> rfl
@[simp] theorem State.send_evMark (s : State) (p : Packet) : (s.send p).evMark = s.evMark := by
  unfold State.send; split <;> rfl
@[simp] theorem State.send_mod (s : State) (p : Packet) : (s.send p).mod = s.mod := by
  unfold State.send; split <;> rfl
@[simp] theorem State.send_tlh (s : State) (p : Packet) : (s.send p).tlh = s.tlh := by
  unfold State.send; split <;> rfl
@[simp] theorem State.send_trk (s : State) (p : Packet) : (s.send p).trk = s.trk := by
  unfold State.send; split <;> rfl
@[simp] theorem State.send_vlt (s : State) (p : Packet) : (s.send p).vlt = s.vlt := by
  unfold State.send; split <;> rfl
@[simp] theorem State.send_skn (s : State) (p : Packet) : (s.send p).skn = s.skn := by
  unfold State.send; split <;> rfl
@[simp] theorem State.send_flt (s : State) (p : Packet) : (s.send p).flt = s.flt := by
  unfold State.send; split <;> rfl
@[simp] theorem State.send_side (s : State) (p : Packet) : (s.send p).side = s.side := by
  unfold State.send; split <;> rfl
@[simp] theorem State.send_chans (s : State) (p : Packet) : (s.send p).chans = s.chans := by
  unfold State.send; split <;> rfl
@[simp] theorem State.ch_send (s : State) (p : Packet) (c : ChanId) : (s.send p).ch c = s.ch c := by
  simp [State.ch]

theorem State.send_outstanding (s : State) (p : Packet) (h : s.hp.outstanding.length ≤ maxOutstanding) :
    (s.send p).hp.outstanding.length ≤ maxOutstanding := by
  unfold State.send
  split
  · exact Hp.fill_outstanding _ _ _ h
  · exact h

/-! ### The fault log (R489) -/

@[simp] theorem State.logRecord_pending (s : State) (c : Option ChanId) (code : Byte) (d a g : Nat) :
    (s.logRecord c code d a g).pending = s.pending := by
  unfold State.logRecord; cases c <;> simp
@[simp] theorem State.logRecord_now (s : State) (c : Option ChanId) (code : Byte) (d a g : Nat) :
    (s.logRecord c code d a g).now = s.now := by
  unfold State.logRecord; cases c <;> simp
@[simp] theorem State.logRecord_freeCtr (s : State) (c : Option ChanId) (code : Byte) (d a g : Nat) :
    (s.logRecord c code d a g).freeCtr = s.freeCtr := by
  unfold State.logRecord; cases c <;> simp
@[simp] theorem State.logRecord_evMark (s : State) (c : Option ChanId) (code : Byte) (d a g : Nat) :
    (s.logRecord c code d a g).evMark = s.evMark := by
  unfold State.logRecord; cases c <;> simp
@[simp] theorem State.logRecord_mod (s : State) (c : Option ChanId) (code : Byte) (d a g : Nat) :
    (s.logRecord c code d a g).mod = s.mod := by
  unfold State.logRecord; cases c <;> simp
@[simp] theorem State.logRecord_tlh (s : State) (c : Option ChanId) (code : Byte) (d a g : Nat) :
    (s.logRecord c code d a g).tlh = s.tlh := by
  unfold State.logRecord; cases c <;> simp
@[simp] theorem State.logRecord_trk (s : State) (c : Option ChanId) (code : Byte) (d a g : Nat) :
    (s.logRecord c code d a g).trk = s.trk := by
  unfold State.logRecord; cases c <;> simp
@[simp] theorem State.logRecord_vlt (s : State) (c : Option ChanId) (code : Byte) (d a g : Nat) :
    (s.logRecord c code d a g).vlt = s.vlt := by
  unfold State.logRecord; cases c <;> simp
@[simp] theorem State.logRecord_hp (s : State) (c : Option ChanId) (code : Byte) (d a g : Nat) :
    (s.logRecord c code d a g).hp = s.hp := by
  unfold State.logRecord; cases c <;> simp
@[simp] theorem State.logRecord_skn (s : State) (c : Option ChanId) (code : Byte) (d a g : Nat) :
    (s.logRecord c code d a g).skn = s.skn := by
  unfold State.logRecord; cases c <;> simp
@[simp] theorem State.logRecord_side (s : State) (c : Option ChanId) (code : Byte) (d a g : Nat) :
    (s.logRecord c code d a g).side = s.side := by
  unfold State.logRecord; cases c <;> simp

/-- The log never holds more than 64 records (R489), whatever it held before. -/
theorem State.logRecord_log (s : State) (c : Option ChanId) (code : Byte) (d a g : Nat) :
    (s.logRecord c code d a g).flt.log.length ≤ 64 := by
  unfold State.logRecord Flt.put
  cases c <;> simp <;> omega

end Sys2Proof.Machine
end

