-- ==== Sys2Proof/Laws/CreelFrame.lean ====
section
/-! SUPPORT. Which operations over a channel leave the bytes of its creel alone: all but those that store to it. -/

namespace Sys2Proof.Machine

/-- What every turn of a fold leaves alone, the fold leaves alone. -/
theorem foldl_keeps {α β γ : Type} (p : α → γ) (f : α → β → α) (h : ∀ a b, p (f a b) = p a) (l : List β) (a : α) :
    p (l.foldl f a) = p a := by
  induction l generalizing a with
  | nil => rfl
  | cons b r ih => rw [List.foldl_cons, ih, h]

theorem Chan.ite_data (p : Prop) [Decidable p] (a b : Chan) :
    (if p then a else b).mem.data = if p then a.mem.data else b.mem.data := by split <;> rfl

@[simp] theorem Mem.enqueue_data (m : Mem) (p : Fin 4) (use : ReqUse) (addr : Nat) (now : Tbu) :
    (Mem.enqueue m p use addr now).data = m.data := rfl
@[simp] theorem Chan.vecDirect_data (c : Chan) (now : Tbu) : (Chan.vecDirect c now).mem.data = c.mem.data := by
  simp only [Chan.vecDirect]
  split
  · exact foldl_keeps Mem.data _ (fun m a => by simp) _ _
  · rfl
@[simp] theorem Mem.touch_data (m : Mem) (ls : List Nat) : (Mem.touch m ls).data = m.data := rfl
@[simp] theorem Mem.putLine_data (m : Mem) (keep' : List Nat) (free line : Nat) (hold : Bool) :
    (Mem.putLine m keep' free line hold).data = m.data := by simp only [Mem.putLine]; (repeat' split) <;> simp
@[simp] theorem Mem.holdLine_data (m : Mem) (keep' : List Nat) (free line : Nat) :
    (Mem.holdLine m keep' free line).data = m.data := by simp [Mem.holdLine]
@[simp] theorem Mem.holdHead_data (m : Mem) (keep' : List Nat) (free : Nat) (head : List Nat) :
    (Mem.holdHead m keep' free head).data = m.data := foldl_keeps Mem.data _ (fun m l => by simp) head m
@[simp] theorem Mem.dropRefill_data (m : Mem) : (Mem.dropRefill m).data = m.data := rfl
@[simp] theorem Mem.reloadPins_data (m : Mem) :
    (Mem.reloadPins m).data = m.data := rfl
@[simp] theorem Mem.replay_data (m : Mem) (im : ChImage) (d : Fin 5) : (Mem.replay m im d).data = m.data := rfl
@[simp] theorem Mem.nrefStep_data (m : Mem) (g : Nat) :
    (Mem.nrefStep m g).data = m.data := by simp only [Mem.nrefStep]; split <;> rfl
@[simp] theorem Mem.closeRows_data (m : Mem) (d : Fin 5) (b : Option (Fin 32)) :
    (Mem.closeRows m d b).data = m.data := rfl
@[simp] theorem Mem.excuse_data (m : Mem) (e : Excusal) :
    (Mem.excuse m e).data = m.data := rfl
@[simp] theorem Mem.excusalDue_data (m : Mem) (e : Excusal) :
    (Mem.excusalDue m e).data = m.data := by simp only [Mem.excusalDue]; (repeat' split) <;> simp
@[simp] theorem Mem.setRow_data (m : Mem) (d : Fin 5) (b : Nat) (r : Option Nat) :
    (Mem.setRow m d b r).data = m.data := rfl
@[simp] theorem Mem.startWaiting_data (m : Mem) (now : Tbu) : (Mem.startWaiting m now).data = m.data := by
  simp only [Mem.startWaiting]
  split
  · rfl
  · rw [foldl_keeps Mem.data _ (fun m e => by split <;> simp)]
@[simp] theorem Mem.excusalEnd_data (m : Mem) (im : ChImage) (d : Fin 5) (now : Tbu) :
    (Mem.excusalEnd m im d now).data = m.data := by
  simp only [Mem.excusalEnd]
  split
  · rfl
  · rw [Mem.startWaiting_data]
    split <;> simp
@[simp] theorem Mem.activate_data (m : Mem) (a : CreelAddr) : (Mem.activate m a).data = m.data := by
  have h : ∀ l : List (Fin 5), (l.foldl (fun m d => m.setRow d a.index (some a.row)) m).data = m.data :=
    fun l => foldl_keeps Mem.data _ (fun m d => by simp) l m
  simp only [Mem.activate]
  split <;> simp [h]
@[simp] theorem Mem.nrefAdvance_data (m : Mem) (g : Nat) (now : Tbu) : (Mem.nrefAdvance m g now).data = m.data := by
  simp only [Mem.nrefAdvance]
  (repeat' split) <;> first | rfl | (simp; done) | (rw [foldl_keeps Mem.data _ (fun m d => by simp)]; simp)
@[simp] theorem Mem.turn_data (m : Mem) (now : Tbu) :
    (Mem.turn m now).data = m.data := by simp only [Mem.turn]; (repeat' split) <;> rfl
@[simp] theorem Mem.issue_data (m : Mem) (im : ChImage) (now : Tbu) (r : CreelReq) :
    (Mem.issue m im now r).data = m.data := by
  simp only [Mem.issue]
  split
  · refine (foldl_keeps Mem.data _ ?_ _ _).trans ?_
    · intro m d; rfl
    · split <;> split <;> simp
  · split <;> simp

@[simp] theorem Mem.holdHeads_data (keep' : List Nat) (free : Nat) (l : List (List Nat)) (m : Mem) :
    (Mem.holdHeads keep' free l m).data = m.data := by
  induction l generalizing m with
  | nil => rfl
  | cons h r ih =>
    rw [Mem.holdHeads]
    (repeat' split) <;> simp [ih]
@[simp] theorem Mem.command_data (m : Mem) (im : ChImage) (now : Tbu) (ready : BitVec 32) :
    (Mem.command m im now ready).data = m.data := by
  simp only [Mem.command]
  split
  · rfl
  · have h0 : ∀ l : List Nat, (l.foldl (fun m g => m.nrefAdvance g now) m).data = m.data :=
      fun l => foldl_keeps Mem.data _ (fun m g => by simp) l m
    split <;> (repeat' split) <;> simp [h0]
@[simp] theorem Mem.loadLine_data (m : Mem) (use : ReqUse) (line addr : Nat) (now : Tbu) :
    (Mem.loadLine m use line addr now).data = m.data := foldl_keeps Mem.data _ (fun m i => by simp) _ _
@[simp] theorem Mem.feedAhead_data (m : Mem) (ahead : List Nat) (now : Tbu) :
    (Mem.feedAhead m ahead now).data = m.data := by simp only [Mem.feedAhead]; (repeat' split) <;> simp
@[simp] theorem Mem.feedHead_data (m : Mem) (now : Tbu) :
    (Mem.feedHead m now).data = m.data := by simp only [Mem.feedHead]; (repeat' split) <;> simp
@[simp] theorem Mem.feedPin_data (m : Mem) (now : Tbu) :
    (Mem.feedPin m now).data = m.data := by simp only [Mem.feedPin]; (repeat' split) <;> simp
@[simp] theorem Mem.feedAgain_data (m : Mem) (now : Tbu) :
    (Mem.feedAgain m now).data = m.data := by simp only [Mem.feedAgain]; (repeat' split) <;> simp
@[simp] theorem Chan.feedFill_data (c : Chan) (now : Tbu) :
    (Chan.feedFill c now).mem.data = c.mem.data := by simp only [Chan.feedFill]; (repeat' split) <;> simp
@[simp] theorem Chan.feedDirect_data (c : Chan) (cyc : Nat) (now : Tbu) :
    (Chan.feedDirect c cyc now).mem.data = c.mem.data := by
  simp only [Chan.feedDirect]
  split
  · exact foldl_keeps Mem.data _ (fun m i => by simp) _ _
  · rfl
@[simp] theorem Mem.lineDone_data (m : Mem) (keep' : List Nat) (free : Nat) (x : ReqUse × Nat) :
    (Mem.lineDone m keep' free x).data = m.data := by simp only [Mem.lineDone]; split <;> simp
@[simp] theorem Mem.useGrade_data (m : Mem) (g : BitVec 2) : (Mem.useGrade m g).data = m.data := rfl
@[simp] theorem Mem.openVisit_data (m : Mem) (d : Fin 5) (now : Tbu) :
    (Mem.openVisit m d now).data = m.data := rfl
@[simp] theorem Mem.applySet_data (m : Mem) (d : Fin 5) (x : DelaySet) : (Mem.applySet m d x).data = m.data := rfl
@[simp] theorem Mem.nextRescue_data (m : Mem) :
    (Mem.nextRescue m).data = m.data := by simp only [Mem.nextRescue]; split <;> rfl
@[simp] theorem Mem.gatherEnd_data (m : Mem) (odo : Word) (v : Visit) (e : EyeReport) :
    (Mem.gatherEnd m odo v e).data = m.data := by simp only [Mem.gatherEnd]; (repeat' split) <;> rfl
@[simp] theorem Mem.rescued_data (m : Mem) (im : ChImage) (odo : Word) (v : Visit) (e : EyeReport) (now : Tbu) :
    (Mem.rescued m im odo v e now).data = m.data := by simp only [Mem.rescued]; (repeat' split) <;> simp
@[simp] theorem Mem.setPhase_data (m : Mem) (p : SpeedPhase) : (Mem.setPhase m p).data = m.data := rfl
@[simp] theorem Mem.trainAborted_data (m : Mem) : (Mem.trainAborted m).data = m.data := rfl
@[simp] theorem Mem.restoreTrain_data (m : Mem) (a : Area) (now : Tbu) :
    (Mem.restoreTrain m a now).data = m.data := by
  simp only [Mem.restoreTrain, Mem.useGrade_data]
  exact foldl_keeps Mem.data _ (fun m g => by split <;> rfl) _ m
@[simp] theorem Chan.publish_data (c : Chan) (cycle code : Nat) :
    (Chan.publish c cycle code).mem.data = c.mem.data := by simp only [Chan.publish]; (repeat' split) <;> rfl
@[simp] theorem Chan.fabricStop_data (c : Chan) : (Chan.fabricStop c).mem.data = c.mem.data := rfl
@[simp] theorem Chan.calSpoil_data (c : Chan) (ps : List (Fin 4)) (why : Byte) :
    (Chan.calSpoil c ps why).mem.data = c.mem.data := by simp only [Chan.calSpoil]; split <;> rfl
@[simp] theorem Chan.calSource_data (c : Chan) : c.calSource.mem.data = c.mem.data := by
  simp only [Chan.calSource]; (repeat' split) <;> simp
@[simp] theorem Chan.carry_data (c : Chan) (d : Nat) : (Chan.carry c d).mem.data = c.mem.data := rfl
@[simp] theorem Chan.atCancel_data (c : Chan) (k : Fin 4) : (Chan.atCancel c k).mem.data = c.mem.data := rfl
@[simp] theorem Chan.outTo_data (c : Chan) (x : Q16) :
    (Chan.outTo c x).mem.data = c.mem.data := rfl
/-- A write to the creel stores its bytes, and nothing else of it (R357). -/
@[simp] theorem Chan.creelWrite_data (c : Chan) (p : Fin 4) (a : Nat) (l : List Byte) (now : Tbu) :
    (c.creelWrite p a l now).mem.data = writeBytes c.mem.data a l :=
  foldl_keeps Mem.data _ (fun m i => by simp) _ _
@[simp] theorem Chan.framePublish_data (x : Q16) (c : Chan) (i : Issued) : (Chan.framePublish x c i).mem.data = c.mem.data :=
  foldl_keeps (fun c : Chan => c.mem.data) _ (fun c e => by simp) _ c
@[simp] theorem Chan.frameOver_data (x : Q16) (c : Chan) (i : Issued) : (Chan.frameOver x c i).mem.data = c.mem.data := by
  simp only [Chan.frameOver]; (repeat' split) <;> simp
@[simp] theorem Chan.dstRun_data (c : Chan) (x : Q16) : (Chan.dstRun c x).mem.data = c.mem.data := by
  simp only [Chan.dstRun]
  split
  · rfl
  · refine (foldl_keeps (fun c : Chan => c.mem.data) _ (fun c i => by simp) _ _).trans ?_
    exact foldl_keeps (fun c : Chan => c.mem.data) _ (fun c i => by simp) _ c
@[simp] theorem Chan.dstReach_data (c : Chan) (x : Q16) : (Chan.dstReach c x).mem.data = c.mem.data := by
  simp only [Chan.dstReach]; (repeat' split) <;> simp
@[simp] theorem Chan.dstTo_data (c : Chan) (x : Q16) : (Chan.dstTo c x).mem.data = c.mem.data := by
  simp only [Chan.dstTo, Chan.dstReach_data]
@[simp] theorem Chan.cutFrames_data (c : Chan) (n : Nat) : (Chan.cutFrames c n).mem.data = c.mem.data := rfl
@[simp] theorem Chan.atArm_data (c : Chan) (now : Tbu) (k : Fin 4) :
    (Chan.atArm c now k).mem.data = c.mem.data := by simp only [Chan.atArm]; split <;> rfl
@[simp] theorem Chan.atPublish_data (c : Chan) (cycle : Nat) (k : Fin 4) :
    (Chan.atPublish c cycle k).mem.data = c.mem.data := by simp only [Chan.atPublish]; (repeat' split) <;> simp
@[simp] theorem Chan.counterInc_data (c : Chan) (d : Nat) (k : Fin 4) :
    (Chan.counterInc c d k).mem.data = c.mem.data := by simp only [Chan.counterInc]; split <;> simp
@[simp] theorem Chan.unhit_data (c : Chan) (d : Nat) (k : Fin 4) :
    (Chan.unhit c d k).mem.data = c.mem.data := by simp only [Chan.unhit]; (repeat' split) <;> simp
@[simp] theorem Chan.arrive_data (c : Chan) (cyc : Nat) (i : Fin 8) (n : Nat) :
    (Chan.arrive c cyc i n).mem.data = c.mem.data := by simp only [Chan.arrive]; (repeat' split) <;> simp
@[simp] theorem Chan.dstStart_data (c : Chan) (cyc : Nat) (pos : Word) :
    (Chan.dstStart c cyc pos).mem.data = c.mem.data := by simp only [Chan.dstStart]; split <;> rfl
@[simp] theorem Chan.dstGo_data (c : Chan) (cyc src : Nat) :
    (Chan.dstGo c cyc src).mem.data = c.mem.data := by simp only [Chan.dstGo]; split <;> simp
@[simp] theorem Chan.dstStop_data (c : Chan) (cyc : Nat) : (Chan.dstStop c cyc).mem.data = c.mem.data := by
  simp [Chan.dstStop]
@[simp] theorem Chan.dstDrain_data (c : Chan) (now : Tbu) :
    (Chan.dstDrain c now).mem.data = c.mem.data := by simp [Chan.dstDrain]
@[simp] theorem Chan.dstRest_data (c : Chan) (now : Tbu) :
    (Chan.dstRest c now).mem.data = c.mem.data := by simp [Chan.dstRest]
@[simp] theorem Chan.dstArm_data (c : Chan) : (Chan.dstArm c).mem.data = c.mem.data := rfl
@[simp] theorem Chan.planFrames_data (c : Chan) (n : Nat) : (c.planFrames n).mem.data = c.mem.data := by
  induction n generalizing c with
  | zero => rfl
  | succ n ih =>
    simp only [Chan.planFrames]
    split
    · rename_i h
      simp only [Chan.planFrame, Option.ite_none_right_eq_some] at h
      obtain ⟨_, h⟩ := h
      cases h; rw [ih]
    · rfl
@[simp] theorem Chan.dstEdge_data (c : Chan) (e : Int) (step : Bool) : (c.dstEdge e step).mem.data = c.mem.data := by
  simp only [Chan.dstEdge, Chan.planFrames_data, Chan.dstTo_data]
@[simp] theorem Chan.dstRunEntry_data (c : Chan) (cyc : Nat) (pos : Word) :
    (Chan.dstRunEntry c cyc pos).mem.data = c.mem.data := by
  simp only [Chan.dstRunEntry]; (repeat' split) <;> simp only [Chan.planFrames_data, Chan.dstStart_data, Chan.dstTo_data]
@[simp] theorem Chan.dstPause_data (c : Chan) (now : Tbu) (b : Q16) :
    (Chan.dstPause c now b).mem.data = c.mem.data := by simp [Chan.dstPause]
@[simp] theorem Chan.vecNote_data (c : Chan) (ready : Bool) : (c.vecNote ready).mem.data = c.mem.data := rfl
@[simp] theorem Chan.issueFrame_data (c : Chan) (cyc : Nat) (ready : Bool) :
    (Chan.issueFrame c cyc ready).mem.data = c.mem.data := rfl
@[simp] theorem Chan.nextFrame_data (c : Chan) (cyc : Nat) (now : Tbu) (ready : Bool) :
    (c.nextFrame cyc now ready).mem.data = c.mem.data := by
  simp only [Chan.nextFrame]; split <;> simp
@[simp] theorem Chan.deskew_data (c : Chan) (lane : Fin 24) (early late : Nat) (now : Tbu) :
    (Chan.deskew c lane early late now).mem.data = c.mem.data := by simp only [Chan.deskew]; split <;> rfl
@[simp] theorem Chan.rangeWrite_data (c : Chan) (now : Tbu) (free : Bool) (v : Word) :
    (Chan.rangeWrite c now free v).mem.data = c.mem.data := by simp only [Chan.rangeWrite]; (repeat' split) <;> rfl
@[simp] theorem Chan.rangeAtRest_data (c : Chan) (now : Tbu) :
    (Chan.rangeAtRest c now).mem.data = c.mem.data := by simp only [Chan.rangeAtRest]; split <;> rfl
@[simp] theorem Chan.stageWrite_data (c : Chan) (cyc : Nat) (v : Word) :
    (Chan.stageWrite c cyc v).mem.data = c.mem.data := rfl
@[simp] theorem Chan.limitWrite_data (c : Chan) (cyc : Nat) (k : Fin 4) (v : Word) :
    (Chan.limitWrite c cyc k v).1.mem.data = c.mem.data := by simp only [Chan.limitWrite]; (repeat' split) <;> rfl
@[simp] theorem Chan.strobe_data (c : Chan) (cyc src : Nat) (holdup : Bool) :
    (Chan.strobe c cyc src holdup).mem.data = c.mem.data := by simp only [Chan.strobe]; (repeat' split) <;> rfl
@[simp] theorem Chan.unsched_data (c : Chan) : (Chan.unsched c).mem.data = c.mem.data := rfl
@[simp] theorem Chan.sched_data (c : Chan) (now : Tbu) :
    (Chan.sched c now).mem.data = c.mem.data := by simp only [Chan.sched]; split <;> rfl
@[simp] theorem Chan.transfer_data (c : Chan) (d : Nat) (now : Tbu) :
    (Chan.transfer c d now).mem.data = c.mem.data := by simp only [Chan.transfer]; split <;> simp
@[simp] theorem Chan.enableExec_data (c : Chan) : (Chan.enableExec c).mem.data = c.mem.data := rfl
@[simp] theorem Chan.switchesOpen_data (c : Chan) : (Chan.switchesOpen c).mem.data = c.mem.data := rfl
@[simp] theorem Chan.enable_data (c : Chan) :
    (Chan.enable c).mem.data = c.mem.data := by simp only [Chan.enable]; split <;> rfl
@[simp] theorem Chan.disable_data (c : Chan) (now : Tbu) :
    (Chan.disable c now).mem.data = c.mem.data := by simp only [Chan.disable]; split <;> rfl
@[simp] theorem Chan.holdOpen_data (c : Chan) :
    (Chan.holdOpen c).mem.data = c.mem.data := by simp only [Chan.holdOpen]; (repeat' split) <;> simp
@[simp] theorem Chan.disableEnd_data (c : Chan) (now : Tbu) :
    (Chan.disableEnd c now).mem.data = c.mem.data := by simp only [Chan.disableEnd]; split <;> simp
@[simp] theorem Chan.anaDrain_data (c : Chan) (now : Tbu) : (Chan.anaDrain c now).mem.data = c.mem.data := rfl
@[simp] theorem Chan.switched_data (c : Chan) (now : Tbu) :
    (Chan.switched c now).mem.data = c.mem.data := by simp only [Chan.switched]; (repeat' split) <;> simp
@[simp] theorem Chan.anaRest_data (c : Chan) : (Chan.anaRest c).mem.data = c.mem.data := rfl
@[simp] theorem Chan.anaHoldup_data (c : Chan) (now : Tbu) :
    (Chan.anaHoldup c now).mem.data = c.mem.data := by simp only [Chan.anaHoldup]; (repeat' split) <;> simp
@[simp] theorem Chan.monRead_data (c : Chan) (i : Fin 5) (value : BitVec 16) (now : Tbu) :
    (Chan.monRead c i value now).1.mem.data = c.mem.data := by simp only [Chan.monRead]; (repeat' split) <;> simp
@[simp] theorem Chan.handFrom_data (c : Chan) (cyc : Nat) : (Chan.handFrom c cyc).mem.data = c.mem.data := by
  simp only [Chan.handFrom]; split <;> rfl
@[simp] theorem Chan.repredict_data (c : Chan) (cyc : Nat) : (Chan.repredict c cyc).mem.data = c.mem.data := by
  simp only [Chan.repredict]; (repeat' split) <;> rfl
@[simp] theorem Chan.usePlayed_data (c : Chan) (cyc : Nat) : (Chan.usePlayed c cyc).mem.data = c.mem.data := by
  simp only [Chan.usePlayed]
  split
  · exact foldl_keeps Mem.data _ (fun m l => by simp) _ _
  · rfl
@[simp] theorem Chan.rebase_data (c : Chan) (x : Q16) :
    (Chan.rebase c x).mem.data = c.mem.data := by simp only [Chan.rebase]; split <;> simp

@[simp] theorem Chan.outClear_data (c : Chan) (x : Q16) (v : Word) :
    (Chan.outClear c x v).mem.data = c.mem.data := by simp only [Chan.outClear]; (repeat' split) <;> simp
theorem Chan.commitKnot_data {c d : Chan} {thaw : Option Q16} (h : c.commitKnot thaw = some d) :
    d.mem.data = c.mem.data := by
  simp only [Chan.commitKnot, Option.ite_none_right_eq_some] at h
  obtain ⟨_, h⟩ := h
  cases h; rfl
@[simp] theorem Chan.commitKnots_data (c : Chan) (n : Nat) (thaw : Option Q16) :
    (c.commitKnots n thaw).mem.data = c.mem.data := by
  induction n generalizing c thaw with
  | zero => rfl
  | succ n ih =>
    rw [Chan.commitKnots]
    split
    · rename_i h; rw [ih, Chan.commitKnot_data h]
    · rfl

@[simp] theorem Chan.noteGaps_data (c : Chan) (x : Q16) : (c.noteGaps x).mem.data = c.mem.data := rfl
@[simp] theorem Chan.knotsAtEdge_data (c : Chan) (now : Tbu) :
    (Chan.knotsAtEdge c now).mem.data = c.mem.data := by
  simp only [Chan.knotsAtEdge]
  split
  · simp only [Chan.publish_data, Chan.ite_data, Chan.commitKnots_data, ite_self, Chan.outTo_data, Chan.handFrom_data,
      Chan.noteGaps_data, Chan.repredict_data]
  · simp
@[simp] theorem Chan.freezeZero_data (c : Chan) (now : Tbu) :
    (Chan.freezeZero c now).mem.data = c.mem.data := by simp only [Chan.freezeZero]; (repeat' split) <;> simp
@[simp] theorem Chan.anchorAt_data (c : Chan) (now : Tbu) (t : Int) :
    (Chan.anchorAt c now t).mem.data = c.mem.data := rfl
@[simp] theorem Chan.hopSwitch_data (c : Chan) (cyc : Nat) (h : PendHop) (tInt : Int) :
    (Chan.hopSwitch c cyc h tInt).mem.data = c.mem.data := by simp only [Chan.hopSwitch]; split <;> simp
@[simp] theorem Chan.prepareHop_data (c : Chan) (host : Bool) (op : BitVec 3) (idx : Byte) (readAt : Nat) (due : Q16) :
    (Chan.prepareHop c host op idx readAt due).mem.data = c.mem.data := rfl
@[simp] theorem Chan.hopRead_data (c : Chan) : (Chan.hopRead c).mem.data = c.mem.data := rfl
@[simp] theorem Chan.dryStart_data (c : Chan) (now : Tbu) (ref : Bool) :
    (Chan.dryStart c now ref).mem.data = c.mem.data := by simp only [Chan.dryStart]; split <;> simp
@[simp] theorem Chan.dryEnd_data (c : Chan) (now : Tbu) :
    (Chan.dryEnd c now).mem.data = c.mem.data := by simp only [Chan.dryEnd]; split <;> simp
@[simp] theorem Chan.flagRate_data (c : Chan) : c.flagRate.mem.data = c.mem.data := rfl

@[simp] theorem Chan.clockStart_data (c : Chan) (now : Tbu) (tb : Nat) :
    (Chan.clockStart c now tb).mem.data = c.mem.data := by simp only [Chan.clockStart]; (repeat' split) <;> simp
@[simp] theorem Chan.plyRest_data (c : Chan) (now : Tbu) :
    (Chan.plyRest c now).mem.data = c.mem.data := by simp only [Chan.plyRest]; split <;> rfl
@[simp] theorem Chan.plyQuiet_data (c : Chan) (now : Tbu) :
    (Chan.plyQuiet c now).mem.data = c.mem.data := rfl
@[simp] theorem Chan.plyEnd_data (c : Chan) (now : Tbu) : (Chan.plyEnd c now).mem.data = c.mem.data := rfl
@[simp] theorem Chan.plyHeld_data (c : Chan) (now : Tbu) (hard : Bool) :
    (Chan.plyHeld c now hard).mem.data = c.mem.data := by simp only [Chan.plyHeld]; split <;> rfl
@[simp] theorem Chan.plyDrain_data (c : Chan) (now : Tbu) (done : Bool) :
    (Chan.plyDrain c now done).mem.data = c.mem.data := by simp only [Chan.plyDrain]; split <;> rfl
@[simp] theorem Chan.plyArm_data (c : Chan) : (Chan.plyArm c).mem.data = c.mem.data := rfl
@[simp] theorem Mem.dropUses_data (m : Mem) (l : List ReqUse) :
    (Mem.dropUses m l).data = m.data := rfl
@[simp] theorem Chan.unhold_data (c : Chan) (ls : List Nat) : (Chan.unhold c ls).mem.data = c.mem.data := rfl
@[simp] theorem Chan.withdrawStart_data (c : Chan) : (Chan.withdrawStart c).mem.data = c.mem.data := rfl
@[simp] theorem Chan.releaseGrant_data (c : Chan) : (Chan.releaseGrant c).mem.data = c.mem.data := rfl
@[simp] theorem Chan.unpend_data (c : Chan) :
    (Chan.unpend c).mem.data = c.mem.data := by simp only [Chan.unpend]; split <;> rfl
@[simp] theorem Chan.dropStart_data (c : Chan) :
    (Chan.dropStart c).mem.data = c.mem.data := by simp only [Chan.dropStart]; split <;> simp
@[simp] theorem Chan.dropEvents_data (c : Chan) : (Chan.dropEvents c).mem.data = c.mem.data := rfl
@[simp] theorem Chan.drainSteps_data (c : Chan) (now : Tbu) (done : Bool) :
    (Chan.drainSteps c now done).mem.data = c.mem.data := by simp only [Chan.drainSteps]; split <;> simp
@[simp] theorem Chan.restSteps_data (c : Chan) (now : Tbu) :
    (Chan.restSteps c now).mem.data = c.mem.data := by simp only [Chan.restSteps]; (repeat' split) <;> simp
@[simp] theorem Chan.latchHoldAt_data (c : Chan) (cause : Byte) (k : Nat) :
    (Chan.latchHoldAt c cause k).mem.data = c.mem.data := rfl
@[simp] theorem Chan.latchHold_data (c : Chan) (cause : Byte) (cyc : Nat) :
    (Chan.latchHold c cause cyc).mem.data = c.mem.data := rfl
@[simp] theorem Chan.secondCause_data (c : Chan) (cause : Byte) :
    (Chan.secondCause c cause).mem.data = c.mem.data := by simp only [Chan.secondCause]; (repeat' split) <;> simp
@[simp] theorem Chan.setSynth_data (c : Chan) (i : Fin 4) (x : Synth) : (Chan.setSynth c i x).mem.data = c.mem.data := rfl
@[simp] theorem Chan.modPair_data (c : Chan) (lane : Bool) (f : Pair → Pair) :
    (Chan.modPair c lane f).mem.data = c.mem.data := rfl
@[simp] theorem Chan.synEvent_data (c : Chan) (k : Nat) : (Chan.synEvent c k).mem.data = c.mem.data := rfl
@[simp] theorem Chan.dropEntry_data (c : Chan) (i : Fin 4) : (Chan.dropEntry c i).mem.data = c.mem.data := rfl
@[simp] theorem Chan.recover_data (c : Chan) (lane : Bool) (now : Tbu) :
    (Chan.recover c lane now).mem.data = c.mem.data := by simp only [Chan.recover]; split <;> rfl
@[simp] theorem Chan.dropCover_data (c : Chan) (lane : Bool) (j : Fin 4) :
    (Chan.dropCover c lane j).mem.data = c.mem.data := by simp only [Chan.dropCover]; (repeat' split) <;> rfl
@[simp] theorem Chan.ceilSearch_data (c : Chan) (i : Fin 4) (now : Tbu) :
    (Chan.ceilSearch c i now).mem.data = c.mem.data := by simp only [Chan.ceilSearch]; split <;> simp
@[simp] theorem Chan.synFlags_data (c : Chan) : (Chan.synFlags c).mem.data = c.mem.data := rfl
@[simp] theorem Chan.closeGate_data (c : Chan) (i : Fin 4) (now : Tbu) (ref : Bool) :
    (Chan.closeGate c i now ref).mem.data = c.mem.data := by simp only [Chan.closeGate]; (repeat' split) <;> simp
@[simp] theorem Chan.powerDown_data (c : Chan) (i : Fin 4) (now : Tbu) :
    (Chan.powerDown c i now).mem.data = c.mem.data := by simp only [Chan.powerDown]; split <;> simp
@[simp] theorem Chan.powerOff_data (c : Chan) (i : Fin 4) (now : Tbu) :
    (Chan.powerOff c i now).mem.data = c.mem.data := by simp only [Chan.powerOff]; split <;> simp
@[simp] theorem Chan.cancelPrepare_data (c : Chan) (lane : Bool) :
    (Chan.cancelPrepare c lane).mem.data = c.mem.data := by simp only [Chan.cancelPrepare]; split <;> rfl
@[simp] theorem Chan.allOff_data (c : Chan) (now : Tbu) : (Chan.allOff c now).mem.data = c.mem.data := by
  have h : ∀ d : Chan, (allSynths.foldl (fun c i => c.powerOff i now) d).mem.data = d.mem.data :=
    foldl_keeps (fun c : Chan => c.mem.data) _ (fun c i => by simp) _
  simp [Chan.allOff, h]
@[simp] theorem Chan.drainOn_data (c : Chan) (now : Tbu) : (Chan.drainOn c now).mem.data = c.mem.data := by
  have h : ∀ d : Chan, (allSynths.foldl (fun c i => c.powerDown i now) d).mem.data = d.mem.data :=
    foldl_keeps (fun c : Chan => c.mem.data) _ (fun c i => by simp) _
  simp only [Chan.drainOn]
  split <;> simp [h]
@[simp] theorem Chan.tuneTo_data (c : Chan) (i : Fin 4) (why : TuneFor) (setting : Word) (fresh ref : Bool) (now : Tbu) :
    (Chan.tuneTo c i why setting fresh ref now).mem.data = c.mem.data := by simp only [Chan.tuneTo]; (repeat' split) <;> rfl
@[simp] theorem Chan.spareState_data (c : Chan) (lane : Bool) (now : Tbu) :
    (Chan.spareState c lane now).mem.data = c.mem.data := by simp only [Chan.spareState]; split <;> simp
@[simp] theorem Chan.qualified_data (c : Chan) (i : Fin 4) (band : Byte) (kHz : Nat) (now : Tbu) :
    (Chan.qualified c i band kHz now).mem.data = c.mem.data := by simp only [Chan.qualified]; (repeat' split) <;> simp
@[simp] theorem Chan.abandon_data (c : Chan) (lane : Bool) :
    (Chan.abandon c lane).mem.data = c.mem.data := by simp only [Chan.abandon]; (repeat' split) <;> rfl
@[simp] theorem Chan.failSynth_data (c : Chan) (i : Fin 4) (now : Tbu) :
    (Chan.failSynth c i now).mem.data = c.mem.data := by simp only [Chan.failSynth]; (repeat' split) <;> simp
@[simp] theorem Chan.failActive_data (c : Chan) (lane : Bool) (now : Tbu) :
    (Chan.failActive c lane now).mem.data = c.mem.data := by simp only [Chan.failActive]; (repeat' split) <;> simp
@[simp] theorem Chan.staleBand_data (c : Chan) (i : Fin 4) (now : Tbu) :
    (Chan.staleBand c i now).mem.data = c.mem.data := by simp only [Chan.staleBand]; split <;> simp
@[simp] theorem Chan.putAligned_data (c : Chan) (i : Fin 4) (a : Bool) :
    (Chan.putAligned c i a).mem.data = c.mem.data := by simp only [Chan.putAligned]; (repeat' split) <;> simp
@[simp] theorem Chan.openGate_data (c : Chan) (i : Fin 4) (now : Tbu) (tb : Nat) :
    (Chan.openGate c i now tb).mem.data = c.mem.data := by simp only [Chan.openGate]; split <;> simp
@[simp] theorem Chan.muxTo_data (c : Chan) (lane : Bool) (now : Tbu) (tb : Nat) :
    (Chan.muxTo c lane now tb).mem.data = c.mem.data := by simp only [Chan.muxTo]; (repeat' split) <;> simp
@[simp] theorem Chan.synResult_data (c : Chan) (lane : Bool) (cmd code : Nat) :
    (Chan.synResult c lane cmd code).mem.data = c.mem.data := rfl
@[simp] theorem Chan.pairRefLost_data (c : Chan) (lane : Bool) : (Chan.pairRefLost c lane).mem.data = c.mem.data := rfl
@[simp] theorem Chan.synRefLost_data (c : Chan) :
    (Chan.synRefLost c).mem.data = c.mem.data := rfl
@[simp] theorem Chan.pairRefBack_data (c : Chan) (lane : Bool) (now : Tbu) :
    (Chan.pairRefBack c lane now).mem.data = c.mem.data := by simp only [Chan.pairRefBack]; (repeat' split) <;> simp
@[simp] theorem Chan.laneRetune_data (c : Chan) (i : Fin 4) (why : TuneFor) (now : Tbu) :
    (Chan.laneRetune c i why now).mem.data = c.mem.data := by simp only [Chan.laneRetune]; (repeat' split) <;> simp
@[simp] theorem Chan.laneStep_data (c : Chan) (now : Tbu) :
    (Chan.laneStep c now).mem.data = c.mem.data := by simp only [Chan.laneStep]; (repeat' split) <;> simp
@[simp] theorem Chan.segRead_data (c : Chan) : (Chan.segRead c).mem.data = c.mem.data := rfl
@[simp] theorem Chan.segWrite_data (c : Chan) :
    (Chan.segWrite c).mem.data = c.mem.data := by simp only [Chan.segWrite]; split <;> rfl
@[simp] theorem Chan.waypointWrite_data (c : Chan) (w : WpId) (k : Fin 4) (v : Word) :
    (Chan.waypointWrite c w k v).1.mem.data = c.mem.data := by simp only [Chan.waypointWrite]; split <;> rfl
@[simp] theorem Chan.request_data (c : Chan) (r : Req) (cyc : Nat) :
    (Chan.request c r cyc).mem.data = c.mem.data := by simp only [Chan.request]; (repeat' split) <;> rfl
@[simp] theorem Chan.hostJump_data (c : Chan) (target : WpId) (cyc : Nat) :
    (Chan.hostJump c target cyc).mem.data = c.mem.data := by simp only [Chan.hostJump]; (repeat' split) <;> rfl
@[simp] theorem Chan.gateHop_data (c : Chan) (cyc : Nat) (x : Succ) :
    (Chan.gateHop c cyc x).mem.data = c.mem.data := by simp only [Chan.gateHop]; split <;> rfl
@[simp] theorem Chan.layPass_data (c : Chan) (prof : BitVec 4) (at' : Inst) (pos : Option Word) (prevLen : Nat) (cont : Bool) :
    (Chan.layPass c prof at' pos prevLen cont).mem.data = c.mem.data := rfl
@[simp] theorem Chan.beginPass_data (c : Chan) (now : Tbu) (x : Succ) (at' : Inst) (pos : Option Word) (cont : Bool) :
    (Chan.beginPass c now x at' pos cont).mem.data = c.mem.data := by
  simp only [Chan.beginPass]
  simp only [Chan.publish_data, Chan.ite_data, Chan.commitKnots_data, Mem.touch_data, Chan.layPass_data, Chan.outTo_data, ite_self,
    Chan.noteGaps_data, Chan.usePlayed_data]
@[simp] theorem Chan.placeStart_data (c : Chan) (x : Word) : (Chan.placeStart c x).mem.data = c.mem.data := rfl
@[simp] theorem Chan.grpRelease_data (c : Chan) (by' : BitVec 16) :
    (Chan.grpRelease c by').mem.data = c.mem.data := by simp only [Chan.grpRelease]; (repeat' split) <;> simp
@[simp] theorem Chan.armBegin_data (c : Chan) (bcast : Bool) : (Chan.armBegin c bcast).mem.data = c.mem.data := rfl
@[simp] theorem Chan.startAccept_data (c : Chan) (now : Tbu) (tick : Nat) (res : Bool) :
    (Chan.startAccept c now tick res).mem.data = c.mem.data := by simp only [Chan.startAccept]; (repeat' split) <;> rfl
@[simp] theorem Chan.forgetBcast_data (c : Chan) :
    (Chan.forgetBcast c).mem.data = c.mem.data := rfl
@[simp] theorem Chan.lanesLost_data (c : Chan) (now : Tbu) :
    (Chan.lanesLost c now).mem.data = c.mem.data := by simp only [Chan.lanesLost]; (repeat' split) <;> simp
@[simp] theorem Chan.losePlace_data (c : Chan) :
    (Chan.losePlace c).mem.data = c.mem.data := by simp only [Chan.losePlace]; (repeat' split) <;> simp
@[simp] theorem Chan.testStart_data (c : Chan) :
    (Chan.testStart c).mem.data = c.mem.data := by simp only [Chan.testStart]; (repeat' split) <;> simp
@[simp] theorem Chan.lateTarget_data (c : Chan) (p : Placed) :
    (Chan.lateTarget c p).mem.data = c.mem.data := by simp only [Chan.lateTarget]; (repeat' split) <;> simp
@[simp] theorem Chan.lateMember_data (c : Chan) (now : Tbu) (ch : ChanId) :
    (Chan.lateMember c now ch).mem.data = c.mem.data := by simp only [Chan.lateMember]; split <;> simp
@[simp] theorem Chan.align_data (c : Chan) (now : Tbu) (ch : ChanId) (pos : Word) :
    (Chan.align c now ch pos).mem.data = c.mem.data := by
  simp only [Chan.align, Chan.lateMember_data]
  exact foldl_keeps (fun c : Chan => c.mem.data) _ (fun c i => by simp) _ _
@[simp] theorem Chan.slip_data (c : Chan) (cyc : Nat) (pos : Word) :
    (Chan.slip c cyc pos).mem.data = c.mem.data := by simp only [Chan.slip]; (repeat' split) <;> simp
@[simp] theorem Chan.clearing_data (c : Chan) (mile : Bool) :
    (Chan.clearing c mile).mem.data = c.mem.data := by simp only [Chan.clearing]; (repeat' split) <;> simp
@[simp] theorem Chan.castVote_data (c : Chan) (now : Tbu) (ch : ChanId) :
    (Chan.castVote c now ch).mem.data = c.mem.data := rfl
@[simp] theorem Chan.takeEvent_data (c : Chan) (cyc : Nat) (holdup ref : Bool) (e : Committed) :
    (Chan.takeEvent c cyc holdup ref e).mem.data = c.mem.data := by simp only [Chan.takeEvent]; split <;> simp
@[simp] theorem Chan.retrack_data (c : Chan) (now : Tbu) :
    (Chan.retrack c now).mem.data = c.mem.data := by
  simp only [Chan.retrack]
  split
  · refine (foldl_keeps (fun c : Chan => c.mem.data) _ (fun c k => ?_) _ _).trans ?_
    · simp
    · split <;> simp
  · rfl
@[simp] theorem Chan.setIn_data (c : Chan) (k : Fin 4) (i : TdcIn) : (Chan.setIn c k i).mem.data = c.mem.data := rfl
@[simp] theorem Chan.setUnit_data (c : Chan) (k : Fin 4) (u : TdcUnit) : (Chan.setUnit c k u).mem.data = c.mem.data := rfl
@[simp] theorem Chan.tdcEvent_data (c : Chan) (k : Nat) : (Chan.tdcEvent c k).mem.data = c.mem.data := rfl
@[simp] theorem Chan.tdcAbortUnit_data (c : Chan) (cyc : Nat) (k : Fin 4) :
    (Chan.tdcAbortUnit c cyc k).mem.data = c.mem.data := by simp only [Chan.tdcAbortUnit]; (repeat' split) <;> rfl
@[simp] theorem Chan.finish_data (c : Chan) (k : Fin 4) (a : Int) :
    (Chan.finish c k a).mem.data = c.mem.data := rfl
@[simp] theorem Chan.complete_data (c : Chan) (cyc : Nat) (k : Fin 4) (a : Int) :
    (Chan.complete c cyc k a).mem.data = c.mem.data := by simp [Chan.complete]
@[simp] theorem Chan.store_data (c : Chan) (k : Fin 4) (r : TdcRec) :
    (Chan.store c k r).mem.data = c.mem.data := by simp only [Chan.store]; split <;> rfl
@[simp] theorem Chan.freqResult_data (c : Chan) (cyc : Nat) (k : Fin 4) (timedOut : Bool) :
    (Chan.freqResult c cyc k timedOut).mem.data = c.mem.data := by simp only [Chan.freqResult]; (repeat' split) <;> simp
@[simp] theorem Chan.pubTimeout_data (c : Chan) (cyc : Nat) (k : Fin 4) (i : Int) :
    (Chan.pubTimeout c cyc k i).mem.data = c.mem.data := by simp only [Chan.pubTimeout]; (repeat' split) <;> simp
@[simp] theorem Chan.timeOut_data (c : Chan) (cyc : Nat) (k : Fin 4) (d : Int) :
    (Chan.timeOut c cyc k d).mem.data = c.mem.data := by simp only [Chan.timeOut]; split <;> simp
@[simp] theorem Chan.expire_data (c : Chan) (cyc : Nat) (k : Fin 4) (t : Int) :
    (Chan.expire c cyc k t).mem.data = c.mem.data := by simp only [Chan.expire]; (repeat' split) <;> simp
@[simp] theorem Chan.pairUp_data (c : Chan) (cyc : Nat) (k : Fin 4) (s x : Stamp) :
    (Chan.pairUp c cyc k s x).mem.data = c.mem.data := by simp only [Chan.pairUp]; (repeat' split) <;> simp
@[simp] theorem Chan.startEdge_data (c : Chan) (cyc : Nat) (k : Fin 4) (x : Stamp) :
    (Chan.startEdge c cyc k x).mem.data = c.mem.data := by simp only [Chan.startEdge]; (repeat' split) <;> simp
@[simp] theorem Chan.stopEdge_data (c : Chan) (cyc : Nat) (k : Fin 4) (x : Stamp) :
    (Chan.stopEdge c cyc k x).mem.data = c.mem.data := by simp only [Chan.stopEdge]; (repeat' split) <;> simp
@[simp] theorem Chan.unitEdge_data (c : Chan) (cyc : Nat) (i k : Fin 4) (x : Stamp) :
    (Chan.unitEdge c cyc i k x).mem.data = c.mem.data := by simp only [Chan.unitEdge]; (repeat' split) <;> simp
@[simp] theorem Chan.eviEdge_data (c : Chan) (k : Fin 4) (rising : Bool) (now : Tbu) (epoch : Option Tbu) (tbinv : Bool) (skew : Int) :
    (Chan.eviEdge c k rising now epoch tbinv skew).mem.data = c.mem.data := by
  simp only [Chan.eviEdge]
  (repeat' split) <;> rfl
@[simp] theorem Chan.convertHead_data (c : Chan) (cyc : Nat) (now : Tbu) (i : Fin 4) :
    (Chan.convertHead c cyc now i).mem.data = c.mem.data := by
  have hf : ∀ (x : Stamp) (l : List (Fin 4)) (d : Chan), (l.foldl (fun c k => c.unitEdge cyc i k x) d).mem.data = d.mem.data :=
    fun x l d => foldl_keeps (fun c : Chan => c.mem.data) _ (fun c k => by simp) l d
  simp only [Chan.convertHead]
  (repeat' split) <;> simp [hf]

@[simp] theorem Chan.convertTo_data (c : Chan) (cyc : Nat) (now : Tbu) (t : Int) (n : Nat) :
    (c.convertTo cyc now t n).mem.data = c.mem.data := by
  induction n generalizing c with
  | zero => rfl
  | succ n ih =>
    rw [Chan.convertTo]
    split
    · rfl
    · split
      · rw [ih, Chan.convertHead_data]
      · rfl

@[simp] theorem Chan.eviPublish_data (c : Chan) (now : Tbu) (k : Fin 4) :
    (Chan.eviPublish c now k).mem.data = c.mem.data := by
  simp only [Chan.eviPublish]
  exact foldl_keeps (fun c : Chan => c.mem.data) _ (fun c x => by split <;> simp) _ c
@[simp] theorem Chan.winClose_data (c : Chan) (k : Fin 4) (v : Word) :
    (Chan.winClose c k v).mem.data = c.mem.data := by simp only [Chan.winClose]; split <;> rfl
@[simp] theorem Chan.tdcArm_data (c : Chan) (cyc : Nat) (m : BitVec 4) : (Chan.tdcArm c cyc m).mem.data = c.mem.data :=
  foldl_keeps (fun c : Chan => c.mem.data) _ (fun c k => by simp) _ c
@[simp] theorem Chan.tdcAbort_data (c : Chan) (cyc : Nat) (m : BitVec 4) :
    (Chan.tdcAbort c cyc m).mem.data = c.mem.data := by
  simp only [Chan.tdcAbort]
  exact foldl_keeps (fun c : Chan => c.mem.data) _ (fun c k => by simp) _ c
@[simp] theorem Chan.flush_data (c : Chan) (m : BitVec 4) :
    (Chan.flush c m).mem.data = c.mem.data := by
  simp only [Chan.flush]
  exact foldl_keeps (fun c : Chan => c.mem.data) _ (fun c k => by simp) _ c
@[simp] theorem Chan.tdcPop_data (c : Chan) (k : Fin 4) (n : Nat) :
    (Chan.tdcPop c k n).mem.data = c.mem.data := by simp only [Chan.tdcPop]; split <;> rfl
@[simp] theorem Chan.unitWrite_data (c : Chan) (cyc : Nat) (k : Fin 4) (r : UnitReg) (v : Word) :
    (Chan.unitWrite c cyc k r v).mem.data = c.mem.data := by simp only [Chan.unitWrite]; split <;> rfl
@[simp] theorem Chan.armTake_data (c : Chan) (on : Bool) (cyc : Nat) (k : Fin 4) :
    (Chan.armTake c on cyc k).mem.data = c.mem.data := by simp only [Chan.armTake]; (repeat' split) <;> rfl
@[simp] theorem Chan.dumpEnable_data (c : Chan) (v : Word) : (Chan.dumpEnable c v).mem.data = c.mem.data := rfl
@[simp] theorem Chan.tdcSuspend_data (c : Chan) :
    (Chan.tdcSuspend c).mem.data = c.mem.data := by
  simp only [Chan.tdcSuspend]
  exact foldl_keeps (fun c : Chan => c.mem.data) _ (fun c k => by split <;> simp) _ c
@[simp] theorem Chan.tdcResume_data (c : Chan) (cyc : Nat) : (Chan.tdcResume c cyc).mem.data = c.mem.data := rfl
@[simp] theorem Chan.tdcStop_data (c : Chan) (cyc : Nat) :
    (Chan.tdcStop c cyc).mem.data = c.mem.data := by
  simp only [Chan.tdcStop]
  exact foldl_keeps (fun c : Chan => c.mem.data) _ (fun c k => by split <;> simp) _ c
@[simp] theorem Chan.condEvent_data (c : Chan) (cyc k : Nat) :
    (Chan.condEvent c cyc k).mem.data = c.mem.data := by simp only [Chan.condEvent]; split <;> rfl
@[simp] theorem Chan.levelEvent_data (c : Chan) (cyc code : Nat) (holdup : Bool) :
    (Chan.levelEvent c cyc code holdup).mem.data = c.mem.data := by simp only [Chan.levelEvent]; (repeat' split) <;> simp
@[simp] theorem Chan.register_data (c : Chan) (cyc code : Nat) (holdup : Bool) :
    (Chan.register c cyc code holdup).mem.data = c.mem.data := by simp only [Chan.register]; (repeat' split) <;> simp
@[simp] theorem Chan.pendingTake_data (c : Chan) (tdcOn : Bool) (cyc : Nat) (i : Fin 8) :
    (Chan.pendingTake c tdcOn cyc i).mem.data = c.mem.data := by simp only [Chan.pendingTake]; (repeat' split) <;> simp
@[simp] theorem Chan.memEvent_data (c : Chan) (k : Nat) : (Chan.memEvent c k).mem.data = c.mem.data := rfl
@[simp] theorem Chan.pinReload_data (c : Chan) (r : BobReg) (v : Word) :
    (Chan.pinReload c r v).1.mem.data = c.mem.data := by simp only [Chan.pinReload]; (repeat' split) <;> rfl
@[simp] theorem Chan.setDof_data (c : Chan) (d : Doffer) : (Chan.setDof c d).mem.data = c.mem.data := rfl
@[simp] theorem Chan.queueService_data (c : Chan) (x : Service) : (Chan.queueService c x).mem.data = c.mem.data := rfl
@[simp] theorem Chan.svcEnd_data (c : Chan) (last : Byte) : (Chan.svcEnd c last).mem.data = c.mem.data := rfl
@[simp] theorem Chan.calEnd_data (c : Chan) : (Chan.calEnd c).mem.data = c.mem.data := rfl
@[simp] theorem Chan.calAbort_data (c : Chan) (procs : BitVec 3) : (Chan.calAbort c procs).mem.data = c.mem.data := rfl
@[simp] theorem Chan.calBegin_data (c : Chan) (procs : BitVec 3) : (Chan.calBegin c procs).mem.data = c.mem.data := by simp [Chan.calBegin]
@[simp] theorem Chan.svcRequest_data (c : Chan) (cmd : Nat) :
    (Chan.svcRequest c cmd).mem.data = c.mem.data := by simp only [Chan.svcRequest]; split <;> rfl
@[simp] theorem Mem.svcClear_data (m : Mem) (x : Service) :
    (Mem.svcClear m x).data = m.data := by simp only [Mem.svcClear]; (repeat' split) <;> simp
@[simp] theorem Chan.gradeBack_data (c : Chan) : c.gradeBack.mem.data = c.mem.data := rfl
@[simp] theorem Chan.trainAborted_data (c : Chan) : c.trainAborted.mem.data = c.mem.data := rfl
@[simp] theorem Chan.creelEnds_data (c : Chan) :
    (Chan.creelEnds c).mem.data = c.mem.data := by
  simp only [Chan.creelEnds]
  refine (foldl_keeps (fun c : Chan => c.mem.data) _ (fun c k => by simp) _ _).trans ?_
  (repeat' split) <;> simp
@[simp] theorem Chan.retireDev_data (c : Chan) (d : Fin 5) (why : Byte) (now : Tbu) :
    (Chan.retireDev c d why now).mem.data = c.mem.data := by simp only [Chan.retireDev]; (repeat' split) <;> simp
@[simp] theorem Mem.gradePassed_data (m : Mem) (eyes : List EyeReport) (g : Nat) : (Mem.gradePassed m eyes g).data = m.data := rfl
@[simp] theorem Mem.trainSets_data (m : Mem) (p : Vector (BitVec 5) 3) (eyes : List EyeReport) :
    (Mem.trainSets m p eyes).data = m.data :=
  foldl_keeps Mem.data _ (fun m g => by split <;> first | rfl | simp | (split <;> rfl)) _ m
@[simp] theorem Mem.keepPassed_data (m : Mem) (p : Vector (BitVec 5) 3) (eyes : List EyeReport) :
    (Mem.keepPassed m p eyes).data = m.data := foldl_keeps Mem.data _ (fun m g => by split <;> simp) _ m
@[simp] theorem Mem.visitStalled_data (m : Mem) : m.visitStalled.data = m.data := rfl
@[simp] theorem Mem.parityError_data (m : Mem) (now : Tbu) (device : Fin 2) (slot : Nat) :
    (Mem.parityError m now device slot).data = m.data := rfl
@[simp] theorem Mem.trainOk_data (m : Mem) (p : Vector (BitVec 5) 3) (eyes : List EyeReport) (now : Tbu) :
    (Mem.trainOk m p eyes now).data = m.data := by simp [Mem.trainOk]
@[simp] theorem Chan.speedRequest_data (c : Chan) (g : BitVec 2) (toll : Bool) :
    (Chan.speedRequest c g toll).mem.data = c.mem.data := by simp only [Chan.speedRequest]; (repeat' split) <;> rfl
@[simp] theorem Chan.speedDone_data (c : Chan) (now : Tbu) (failed : BitVec 5) :
    (Chan.speedDone c now failed).mem.data = c.mem.data := by
  simp only [Chan.speedDone]
  split
  · rfl
  · rw [Chan.gradeBack_data]
    dsimp only
    rw [Mem.startWaiting_data, foldl_keeps Mem.data _ (fun m d => by simp)]
    split <;> simp
@[simp] theorem Chan.bobLost_data (c : Chan) (now : Tbu) (device : Fin 2) :
    (Chan.bobLost c now device).mem.data = c.mem.data :=
  (Chan.noteGaps_data _ _).trans (congrArg Mem.data (congrArg Chan.mem rfl) |>.trans (Chan.dstTo_data c (q16 now)))
@[simp] theorem Chan.resumePass_data (c : Chan) (now : Tbu) :
    (Chan.resumePass c now).mem.data = c.mem.data := by
  simp only [Chan.resumePass, Chan.ite_data, Chan.noteGaps_data, Chan.rebase_data, Chan.outTo_data, ite_self]
@[simp] theorem Chan.calEvent_data (c : Chan) (k : Nat) : (Chan.calEvent c k).mem.data = c.mem.data := rfl
@[simp] theorem Chan.commitBank_data (c : Chan) (b : Fin 2) : (Chan.commitBank c b).mem.data = c.mem.data := rfl
@[simp] theorem Chan.bankWrite_data (c : Chan) (b : Fin 2) (off : Nat) (v : Word) :
    (Chan.bankWrite c b off v).1.mem.data = c.mem.data := by simp only [Chan.bankWrite]; (repeat' split) <;> rfl
@[simp] theorem Chan.procReject_data (c : Chan) (p : Fin 4) (why : Byte) (detail statval : Nat) :
    (Chan.procReject c p why detail statval).mem.data = c.mem.data := rfl
@[simp] theorem Chan.procAccept_data (c : Chan) (odo pos : Word) (p : Fin 4) (x : Nat × Nat) (b : Sparse Word) :
    (Chan.procAccept c odo pos p x b).mem.data = c.mem.data := rfl
@[simp] theorem Chan.procOutcome_data (c : Chan) (now : Tbu) (odo : Word) (x : CalRunState) (p : Fin 4) (r : ProcReport) :
    (Chan.procOutcome c now odo x p r).mem.data = c.mem.data := by simp only [Chan.procOutcome]; (repeat' split) <;> rfl
@[simp] theorem Chan.procNext_data (c : Chan) (p : Fin 4) : (Chan.procNext c p).mem.data = c.mem.data := by simp [Chan.procNext]
@[simp] theorem Chan.trimCell_data (c : Chan) (k : Fin 64) (up down : Nat) :
    (Chan.trimCell c k up down).mem.data = c.mem.data := by simp only [Chan.trimCell]; split <;> rfl
@[simp] theorem Chan.dacTrim_data (c : Chan) (now : Tbu) (k : Fin 64) (up down : Nat) :
    (Chan.dacTrim c now k up down).mem.data = c.mem.data := by simp only [Chan.dacTrim]; split <;> simp
@[simp] theorem Chan.withdraw_data (c : Chan) (now : Tbu) (st : SknState) :
    (Chan.withdraw c now st).mem.data = c.mem.data := by simp only [Chan.withdraw]; (repeat' split) <;> simp
@[simp] theorem Chan.imageFields_data (c : Chan) (cyc : Nat) : (Chan.imageFields c cyc).mem.data = c.mem.data := rfl
@[simp] theorem Chan.keepPoint_data (c : Chan) :
    (Chan.keepPoint c).mem.data = c.mem.data := by simp only [Chan.keepPoint]; split <;> rfl
@[simp] theorem Chan.holdupStop_data (c : Chan) (now : Tbu) :
    (Chan.holdupStop c now).mem.data = c.mem.data := by simp only [Chan.holdupStop]; (repeat' split) <;> simp
@[simp] theorem done_data (c : Chan) :
    (done c).1.mem.data = c.mem.data := by
  unfold done
  (repeat' split) <;> (first | rfl | simp [done])
@[simp] theorem Chan.routeCfgWrite_data (c : Chan) (v : Word) :
    (Chan.routeCfgWrite c v).1.mem.data = c.mem.data := by
  unfold Chan.routeCfgWrite
  (repeat' split) <;> (first | rfl | simp [done])
@[simp] theorem Chan.resumeWrite_data (c : Chan) (f : Seq → Seq) :
    (Chan.resumeWrite c f).1.mem.data = c.mem.data := by
  unfold Chan.resumeWrite
  (repeat' split) <;> (first | rfl | simp [done])
@[simp] theorem Chan.seqWrite_data (c : Chan) (cyc off : Nat) (v : Word) :
    (Chan.seqWrite c cyc off v).1.mem.data = c.mem.data := by
  unfold Chan.seqWrite
  (repeat' split) <;> (first | rfl | simp [done])
@[simp] theorem Chan.laneCfgWrite_data (c : Chan) (cyc l : Nat) (v : Word) :
    (Chan.laneCfgWrite c cyc l v).1.mem.data = c.mem.data := by
  unfold Chan.laneCfgWrite
  (repeat' split) <;> (first | rfl | simp [done])
@[simp] theorem Chan.dstWrite_data (c : Chan) (cyc off : Nat) (v : Word) :
    (Chan.dstWrite c cyc off v).1.mem.data = c.mem.data := by
  unfold Chan.dstWrite
  (repeat' split) <;> (first | rfl | simp [done])
@[simp] theorem Chan.spareWrite_data (c : Chan) (lane : Bool) (now : Tbu) (v : Word) :
    (Chan.spareWrite c lane now v).mem.data = c.mem.data := by simp only [Chan.spareWrite]; split <;> simp
@[simp] theorem Chan.govWrite_data (c : Chan) (cyc k : Nat) (v : Word) :
    (Chan.govWrite c cyc k v).1.mem.data = c.mem.data := by
  unfold Chan.govWrite
  (repeat' split) <;> (first | rfl | simp [done])
@[simp] theorem Chan.filtWrite_data (c : Chan) (cyc : Nat) (v : Word) :
    (Chan.filtWrite c cyc v).1.mem.data = c.mem.data := by
  unfold Chan.filtWrite
  (repeat' split) <;> (first | rfl | simp [done])
@[simp] theorem Chan.freqCapture_data (c : Chan) (k : Fin 4) : (Chan.freqCapture c k).mem.data = c.mem.data := rfl
@[simp] theorem Chan.tdcControl_data (c : Chan) (cyc : Nat) (v : Word) :
    (Chan.tdcControl c cyc v).mem.data = c.mem.data := by simp only [Chan.tdcControl]; (repeat' split) <;> simp
@[simp] theorem Chan.tdcArrayWrite_data (c : Chan) (cyc off : Nat) (v : Word) :
    (Chan.tdcArrayWrite c cyc off v).mem.data = c.mem.data := by simp only [Chan.tdcArrayWrite]; split <;> simp
@[simp] theorem Chan.tdcWrite_data (c : Chan) (cyc off : Nat) (v : Word) :
    (Chan.tdcWrite c cyc off v).mem.data = c.mem.data := by simp only [Chan.tdcWrite]; (repeat' split) <;> simp
@[simp] theorem Chan.memCfgWrite_data (c : Chan) (v : Word) :
    (Chan.memCfgWrite c v).1.mem.data = c.mem.data := by
  unfold Chan.memCfgWrite
  (repeat' split) <;> (first | rfl | simp [done])
@[simp] theorem Chan.memWrite_data (c : Chan) (off : Nat) (v : Word) :
    (Chan.memWrite c off v).1.mem.data = c.mem.data := by
  unfold Chan.memWrite
  (repeat' split) <;> (first | rfl | simp [done])
@[simp] theorem Chan.blockCapture_data (c : Chan) (cyc block off : Nat) :
    (Chan.blockCapture c cyc block off).mem.data = c.mem.data := by simp only [Chan.blockCapture]; (repeat' split) <;> simp
@[simp] theorem Chan.evPut_data (c : Chan) (i : Fin 14) (e : Sticky) :
    (Chan.evPut c i e).mem.data = c.mem.data := by simp only [Chan.evPut]; (repeat' split) <;> simp
@[simp] theorem Chan.sync_data (c : Chan) (i : Fin 14) (x : Q16) (v : Word) :
    (Chan.sync c i x v).mem.data = c.mem.data := by simp only [Chan.sync]; (repeat' split) <;> simp
@[simp] theorem Chan.gapStart_data (c : Chan) (lane : Bool) (now : Tbu) : (c.gapStart lane now).mem.data = c.mem.data := by
  simp only [Chan.gapStart]
  split <;> simp

@[simp] theorem Chan.dataEnds_data (c : Chan) (now : Tbu) : (c.dataEnds now).mem.data = c.mem.data := by
  simp only [Chan.dataEnds]
  split <;> simp

end Sys2Proof.Machine
end

