-- ==== Sys2Proof/Laws/ChanFrame.lean ====
section
/-! SUPPORT. Which blocks of a channel each operation over a channel leaves alone. -/

namespace Sys2Proof.Machine

@[simp] theorem Chan.ite_keeps (p : Prop) [Decidable p] (a b : Chan) :
    (if p then a else b).mod = (if p then a.mod else b.mod) ∧ (if p then a else b).tlh = (if p then a.tlh else b.tlh) ∧
    (if p then a else b).trk = (if p then a.trk else b.trk) ∧ (if p then a else b).skn = (if p then a.skn else b.skn) ∧
    (if p then a else b).seq = (if p then a.seq else b.seq) ∧ (if p then a else b).ply = (if p then a.ply else b.ply) ∧
    (if p then a else b).dst = (if p then a.dst else b.dst) ∧ (if p then a else b).ana = (if p then a.ana else b.ana) ∧
    (if p then a else b).syn = (if p then a.syn else b.syn) ∧ (if p then a else b).jnc = (if p then a.jnc else b.jnc) ∧
    (if p then a else b).tdc = (if p then a.tdc else b.tdc) ∧ (if p then a else b).mem = (if p then a.mem else b.mem) ∧
    (if p then a else b).stq = (if p then a.stq else b.stq) ∧ (if p then a else b).cal = (if p then a.cal else b.cal) ∧
    (if p then a else b).dof = (if p then a.dof else b.dof) ∧ (if p then a else b).flt = (if p then a.flt else b.flt) := by
  split <;> and_intros <;> rfl

@[simp] theorem Chan.publish_keeps (c : Chan) (cycle code : Nat) :
    (c.publish cycle code).ana = c.ana ∧ (c.publish cycle code).cal = c.cal ∧ (c.publish cycle code).dof = c.dof ∧
    (c.publish cycle code).dst = c.dst ∧ (c.publish cycle code).flt = c.flt ∧ (c.publish cycle code).mem = c.mem ∧
    (c.publish cycle code).mod = c.mod ∧ (c.publish cycle code).ply = c.ply ∧ (c.publish cycle code).seq = c.seq ∧
    (c.publish cycle code).skn = c.skn ∧ (c.publish cycle code).stq = c.stq ∧ (c.publish cycle code).syn = c.syn ∧
    (c.publish cycle code).tdc = c.tdc ∧ (c.publish cycle code).tlh = c.tlh ∧ (c.publish cycle code).trk = c.trk := by simp only [Chan.publish]; (repeat' split) <;> simp

@[simp] theorem Chan.fabricStop_keeps (c : Chan) :
    (c.fabricStop).ana = c.ana ∧ (c.fabricStop).cal = c.cal ∧ (c.fabricStop).dof = c.dof ∧ (c.fabricStop).dst = c.dst
    ∧ (c.fabricStop).flt = c.flt ∧ (c.fabricStop).mem = c.mem ∧ (c.fabricStop).mod = c.mod ∧ (c.fabricStop).ply =
    c.ply ∧ (c.fabricStop).seq = c.seq ∧ (c.fabricStop).skn = c.skn ∧ (c.fabricStop).stq = c.stq ∧ (c.fabricStop).syn
    = c.syn ∧ (c.fabricStop).tdc = c.tdc ∧ (c.fabricStop).tlh = c.tlh := by and_intros <;> rfl

@[simp] theorem Chan.calSpoil_keeps (c : Chan) (ps : List (Fin 4)) (why : Byte) :
    (c.calSpoil ps why).ana = c.ana ∧ (c.calSpoil ps why).dof = c.dof ∧ (c.calSpoil ps why).dst = c.dst ∧ (c.calSpoil
    ps why).flt = c.flt ∧ (c.calSpoil ps why).jnc = c.jnc ∧ (c.calSpoil ps why).mem = c.mem ∧ (c.calSpoil ps why).mod
    = c.mod ∧ (c.calSpoil ps why).ply = c.ply ∧ (c.calSpoil ps why).seq = c.seq ∧ (c.calSpoil ps why).skn = c.skn ∧
    (c.calSpoil ps why).stq = c.stq ∧ (c.calSpoil ps why).syn = c.syn ∧ (c.calSpoil ps why).tdc = c.tdc ∧ (c.calSpoil
    ps why).tlh = c.tlh ∧ (c.calSpoil ps why).trk = c.trk := by simp only [Chan.calSpoil]; (repeat' split) <;> simp

@[simp] theorem Chan.calSource_keeps (c : Chan) :
    (c.calSource).ana = c.ana ∧ (c.calSource).dof = c.dof ∧ (c.calSource).dst = c.dst ∧ c.calSource.flt = c.flt ∧ (c.calSource).jnc = c.jnc ∧ (c.calSource).mem = c.mem ∧ (c.calSource).mod
    = c.mod ∧ (c.calSource).ply = c.ply ∧ (c.calSource).seq = c.seq ∧ (c.calSource).skn = c.skn ∧
    (c.calSource).stq = c.stq ∧ (c.calSource).syn = c.syn ∧ (c.calSource).tdc = c.tdc ∧ c.calSource.tlh = c.tlh ∧ (c.calSource).trk = c.trk := by simp only [Chan.calSource, Chan.ite_keeps, Chan.calSpoil_keeps, ite_self, and_self]

@[simp] theorem Chan.carry_keeps (c : Chan) (d : Nat) :
    (c.carry d).ana = c.ana ∧ (c.carry d).cal = c.cal ∧ (c.carry d).dof = c.dof ∧ (c.carry d).dst = c.dst ∧ (c.carry
    d).flt = c.flt ∧ (c.carry d).mem = c.mem ∧ (c.carry d).mod = c.mod ∧ (c.carry d).ply = c.ply ∧ (c.carry d).seq =
    c.seq ∧ (c.carry d).skn = c.skn ∧ (c.carry d).stq = c.stq ∧ (c.carry d).syn = c.syn ∧ (c.carry d).tdc = c.tdc ∧
    (c.carry d).tlh = c.tlh ∧ (c.carry d).trk = c.trk := by and_intros <;> rfl

@[simp] theorem Chan.arrive_keeps (c : Chan) (cyc : Nat) (i : Fin 8) (n : Nat) :
    (Chan.arrive c cyc i n).mod = c.mod ∧ (Chan.arrive c cyc i n).tlh = c.tlh ∧ (Chan.arrive c cyc i n).trk = c.trk
    ∧ (Chan.arrive c cyc i n).skn = c.skn ∧ (Chan.arrive c cyc i n).seq = c.seq ∧ (Chan.arrive c cyc i n).ply =
    c.ply ∧ (Chan.arrive c cyc i n).dst = c.dst ∧ (Chan.arrive c cyc i n).ana = c.ana ∧ (Chan.arrive c cyc i n).syn
    = c.syn ∧ (Chan.arrive c cyc i n).tdc = c.tdc ∧ (Chan.arrive c cyc i n).mem = c.mem ∧ (Chan.arrive c cyc i
    n).stq = c.stq ∧ (Chan.arrive c cyc i n).cal = c.cal ∧ (Chan.arrive c cyc i n).dof = c.dof ∧ (Chan.arrive c cyc
    i n).flt = c.flt := by
  simp only [Chan.arrive]
  (repeat' split) <;> simp

@[simp] theorem Chan.noteGaps_keeps (c : Chan) (x : Q16) :
    (c.noteGaps x).ana = c.ana ∧ (c.noteGaps x).cal = c.cal ∧ (c.noteGaps x).dof = c.dof ∧ (c.noteGaps x).dst
    = c.dst ∧ (c.noteGaps x).flt = c.flt ∧ (c.noteGaps x).jnc = c.jnc ∧ (c.noteGaps x).mem = c.mem ∧
    (c.noteGaps x).mod = c.mod ∧ (c.noteGaps x).seq = c.seq ∧ (c.noteGaps x).skn = c.skn ∧ (c.noteGaps x).stq
    = c.stq ∧ (c.noteGaps x).syn = c.syn ∧ (c.noteGaps x).tdc = c.tdc ∧ (c.noteGaps x).tlh = c.tlh ∧
    (c.noteGaps x).trk = c.trk := by
  and_intros <;> rfl

@[simp] theorem Chan.outTo_keeps (c : Chan) (x : Q16) :
    (Chan.outTo c x).mod = c.mod ∧ (Chan.outTo c x).tlh = c.tlh ∧ (Chan.outTo c x).trk = c.trk ∧ (Chan.outTo c
    x).skn = c.skn ∧ (Chan.outTo c x).seq = c.seq ∧ (Chan.outTo c x).dst = c.dst ∧ (Chan.outTo c x).ana = c.ana ∧
    (Chan.outTo c x).syn = c.syn ∧ (Chan.outTo c x).jnc = c.jnc ∧ (Chan.outTo c x).tdc = c.tdc ∧ (Chan.outTo c
    x).mem = c.mem ∧ (Chan.outTo c x).stq = c.stq ∧ (Chan.outTo c x).cal = c.cal ∧ (Chan.outTo c x).dof = c.dof ∧
    (Chan.outTo c x).flt = c.flt := by
  and_intros <;> rfl

@[simp] theorem Chan.creelWrite_keeps (c : Chan) (p : Fin 4) (a : Nat) (l : List Byte) (now : Tbu) :
    (c.creelWrite p a l now).mod = c.mod ∧ (c.creelWrite p a l now).tlh = c.tlh ∧ (c.creelWrite p a l now).trk =
    c.trk ∧ (c.creelWrite p a l now).skn = c.skn ∧ (c.creelWrite p a l now).seq = c.seq ∧ (c.creelWrite p a l
    now).dst = c.dst ∧ (c.creelWrite p a l now).ana = c.ana ∧ (c.creelWrite p a l now).syn = c.syn ∧ (c.creelWrite p
    a l now).jnc = c.jnc ∧ (c.creelWrite p a l now).tdc = c.tdc ∧ (c.creelWrite p a l now).stq = c.stq ∧
    (c.creelWrite p a l now).cal = c.cal ∧ (c.creelWrite p a l now).dof = c.dof ∧ (c.creelWrite p a l now).flt =
    c.flt := by and_intros <;> rfl

@[simp] theorem Chan.framePublish_keeps (x : Q16) (c : Chan) (i : Issued) :
    (Chan.framePublish x c i).mod = c.mod ∧ (Chan.framePublish x c i).tlh = c.tlh ∧ (Chan.framePublish x c i).trk =
    c.trk ∧ (Chan.framePublish x c i).skn = c.skn ∧ (Chan.framePublish x c i).seq = c.seq ∧ (Chan.framePublish x c
    i).ply = c.ply ∧ (Chan.framePublish x c i).dst = c.dst ∧ (Chan.framePublish x c i).ana = c.ana ∧
    (Chan.framePublish x c i).syn = c.syn ∧ (Chan.framePublish x c i).tdc = c.tdc ∧ (Chan.framePublish x c i).mem =
    c.mem ∧ (Chan.framePublish x c i).stq = c.stq ∧ (Chan.framePublish x c i).cal = c.cal ∧ (Chan.framePublish x c
    i).dof = c.dof ∧ (Chan.framePublish x c i).flt = c.flt := by
  simp only [Chan.framePublish]
  generalize i.evs = l
  induction l generalizing c with
  | nil => simp
  | cons e r ih => rw [List.foldl_cons]; simpa using ih (c.publish _ e)

@[simp] theorem Chan.frameOver_keeps (x : Q16) (c : Chan) (i : Issued) :
    (Chan.frameOver x c i).mod = c.mod ∧ (Chan.frameOver x c i).tlh = c.tlh ∧ (Chan.frameOver x c i).trk = c.trk ∧
    (Chan.frameOver x c i).skn = c.skn ∧ (Chan.frameOver x c i).seq = c.seq ∧ (Chan.frameOver x c i).ply = c.ply ∧
    (Chan.frameOver x c i).ana = c.ana ∧ (Chan.frameOver x c i).syn = c.syn ∧ (Chan.frameOver x c i).tdc = c.tdc ∧
    (Chan.frameOver x c i).mem = c.mem ∧ (Chan.frameOver x c i).stq = c.stq ∧ (Chan.frameOver x c i).cal = c.cal ∧
    (Chan.frameOver x c i).dof = c.dof ∧ (Chan.frameOver x c i).flt = c.flt := by
  simp only [Chan.frameOver]
  (repeat' split) <;> simp

/-- What each frame's turn leaves alone, the turns of a list of frames leave alone. -/
theorem Chan.framesPublish_keeps (x : Q16) (l : List Issued) (c : Chan) :
    ∃ j, l.foldl (Chan.framePublish x) c = { c with jnc := j } := by
  induction l generalizing c with
  | nil => exact ⟨c.jnc, rfl⟩
  | cons i r ih =>
    obtain ⟨j, h⟩ := ih (Chan.framePublish x c i)
    have k := Chan.framePublish_keeps x c i
    exact ⟨j, by rw [List.foldl_cons, h]; obtain ⟨h1, h2, h3, h4, h5, h6, h7, h8, h9, h10, h11, h12, h13, h14, h15⟩ := k; simp only [*]⟩

theorem Chan.framesOver_keeps (x : Q16) (l : List Issued) (c : Chan) :
    ∃ d j, l.foldl (Chan.frameOver x) c = { c with dst := d, jnc := j } := by
  induction l generalizing c with
  | nil => exact ⟨c.dst, c.jnc, rfl⟩
  | cons i r ih =>
    obtain ⟨d, j, h⟩ := ih (Chan.frameOver x c i)
    have k := Chan.frameOver_keeps x c i
    exact ⟨d, j, by rw [List.foldl_cons, h]; obtain ⟨h1, h2, h3, h4, h5, h6, h7, h8, h9, h10, h11, h12, h13, h14⟩ := k; simp only [*]⟩

@[simp] theorem Chan.dstRun_keeps (c : Chan) (x : Q16) :
    (c.dstRun x).mod = c.mod ∧ (c.dstRun x).tlh = c.tlh ∧ (c.dstRun x).trk = c.trk ∧ (c.dstRun x).skn = c.skn ∧
    (c.dstRun x).seq = c.seq ∧ (c.dstRun x).ply = c.ply ∧ (c.dstRun x).ana = c.ana ∧ (c.dstRun x).syn = c.syn ∧
    (c.dstRun x).tdc = c.tdc ∧ (c.dstRun x).mem = c.mem ∧ (c.dstRun x).stq = c.stq ∧ (c.dstRun x).cal = c.cal ∧
    (c.dstRun x).dof = c.dof ∧ (c.dstRun x).flt = c.flt := by
  simp only [Chan.dstRun]
  split
  · simp
  · rename_i cur ended _
    obtain ⟨j, h⟩ := Chan.framesPublish_keeps x
      (c.dst.issued.filter fun i => !i.begun && decide ((i.first c.dst.latched.fb : Int) ≤ cur)) c
    rw [h]
    obtain ⟨d, j', k⟩ := Chan.framesOver_keeps x _ _
    rw [k]; simp

@[simp] theorem Chan.dstReach_keeps (c : Chan) (x : Q16) :
    (c.dstReach x).mod = c.mod ∧ (c.dstReach x).tlh = c.tlh ∧ (c.dstReach x).trk = c.trk ∧ (c.dstReach x).skn = c.skn ∧ (c.dstReach
    x).seq = c.seq ∧ (c.dstReach x).ply = c.ply ∧ (c.dstReach x).ana = c.ana ∧ (c.dstReach x).syn = c.syn ∧ (c.dstReach x).tdc =
    c.tdc ∧ (c.dstReach x).mem = c.mem ∧ (c.dstReach x).stq = c.stq ∧ (c.dstReach x).cal = c.cal ∧ (c.dstReach x).dof = c.dof ∧
    (c.dstReach x).flt = c.flt := by
  simp only [Chan.dstReach]
  (repeat' split) <;> simp

@[simp] theorem Chan.dstTo_keeps (c : Chan) (x : Q16) :
    (c.dstTo x).mod = c.mod ∧ (c.dstTo x).tlh = c.tlh ∧ (c.dstTo x).trk = c.trk ∧ (c.dstTo x).skn = c.skn ∧ (c.dstTo
    x).seq = c.seq ∧ (c.dstTo x).ply = c.ply ∧ (c.dstTo x).ana = c.ana ∧ (c.dstTo x).syn = c.syn ∧ (c.dstTo x).tdc =
    c.tdc ∧ (c.dstTo x).mem = c.mem ∧ (c.dstTo x).stq = c.stq ∧ (c.dstTo x).cal = c.cal ∧ (c.dstTo x).dof = c.dof ∧
    (c.dstTo x).flt = c.flt := by
  simp [Chan.dstTo]

@[simp] theorem Chan.dstStop_keeps (c : Chan) (cyc : Nat) :
    (c.dstStop cyc).mod = c.mod ∧ (c.dstStop cyc).tlh = c.tlh ∧ (c.dstStop cyc).trk = c.trk ∧ (c.dstStop cyc).skn =
    c.skn ∧ (c.dstStop cyc).seq = c.seq ∧ (c.dstStop cyc).ply = c.ply ∧ (c.dstStop cyc).ana = c.ana ∧ (c.dstStop
    cyc).syn = c.syn ∧ (c.dstStop cyc).tdc = c.tdc ∧ (c.dstStop cyc).mem = c.mem ∧
    (c.dstStop cyc).stq = c.stq ∧ (c.dstStop cyc).cal = c.cal ∧ (c.dstStop cyc).dof = c.dof ∧ (c.dstStop cyc).flt =
    c.flt := by simp [Chan.dstStop]

@[simp] theorem Chan.atCancel_keeps (c : Chan) (k : Fin 4) :
    (c.atCancel k).ana = c.ana ∧ (c.atCancel k).cal = c.cal ∧ (c.atCancel k).dof = c.dof ∧ (c.atCancel k).dst = c.dst
    ∧ (c.atCancel k).flt = c.flt ∧ (c.atCancel k).mem = c.mem ∧ (c.atCancel k).mod = c.mod ∧ (c.atCancel k).ply =
    c.ply ∧ (c.atCancel k).seq = c.seq ∧ (c.atCancel k).skn = c.skn ∧ (c.atCancel k).stq = c.stq ∧ (c.atCancel k).syn
    = c.syn ∧ (c.atCancel k).tdc = c.tdc ∧ (c.atCancel k).tlh = c.tlh := by and_intros <;> rfl

@[simp] theorem Chan.atArm_keeps (c : Chan) (now : Tbu) (k : Fin 4) :
    (c.atArm now k).ana = c.ana ∧ (c.atArm now k).cal = c.cal ∧ (c.atArm now k).dof = c.dof ∧ (c.atArm now k).dst =
    c.dst ∧ (c.atArm now k).flt = c.flt ∧ (c.atArm now k).mem = c.mem ∧ (c.atArm now k).mod = c.mod ∧ (c.atArm now
    k).ply = c.ply ∧ (c.atArm now k).seq = c.seq ∧ (c.atArm now k).skn = c.skn ∧ (c.atArm now k).stq = c.stq ∧
    (c.atArm now k).syn = c.syn ∧ (c.atArm now k).tdc = c.tdc ∧ (c.atArm now k).tlh = c.tlh := by simp only [Chan.atArm]; (repeat' split) <;> simp

@[simp] theorem Chan.atPublish_keeps (c : Chan) (cycle : Nat) (k : Fin 4) :
    (c.atPublish cycle k).ana = c.ana ∧ (c.atPublish cycle k).cal = c.cal ∧ (c.atPublish cycle k).dof = c.dof ∧
    (c.atPublish cycle k).dst = c.dst ∧ (c.atPublish cycle k).flt = c.flt ∧ (c.atPublish cycle k).mem = c.mem ∧
    (c.atPublish cycle k).mod = c.mod ∧ (c.atPublish cycle k).ply = c.ply ∧ (c.atPublish cycle k).seq = c.seq ∧
    (c.atPublish cycle k).skn = c.skn ∧ (c.atPublish cycle k).stq = c.stq ∧ (c.atPublish cycle k).syn = c.syn ∧
    (c.atPublish cycle k).tdc = c.tdc ∧ (c.atPublish cycle k).tlh = c.tlh ∧ (c.atPublish cycle k).trk = c.trk := by simp only [Chan.atPublish]; (repeat' split) <;> simp

@[simp] theorem Chan.counterInc_keeps (c : Chan) (d : Nat) (k : Fin 4) :
    (c.counterInc d k).ana = c.ana ∧ (c.counterInc d k).cal = c.cal ∧ (c.counterInc d k).dof = c.dof ∧ (c.counterInc d
    k).dst = c.dst ∧ (c.counterInc d k).flt = c.flt ∧ (c.counterInc d k).mem = c.mem ∧ (c.counterInc d k).mod = c.mod
    ∧ (c.counterInc d k).ply = c.ply ∧ (c.counterInc d k).seq = c.seq ∧ (c.counterInc d k).skn = c.skn ∧ (c.counterInc
    d k).stq = c.stq ∧ (c.counterInc d k).syn = c.syn ∧ (c.counterInc d k).tdc = c.tdc ∧ (c.counterInc d k).tlh =
    c.tlh ∧ (c.counterInc d k).trk = c.trk := by simp only [Chan.counterInc]; (repeat' split) <;> simp

@[simp] theorem Chan.unhit_keeps (c : Chan) (d : Nat) (k : Fin 4) :
    (Chan.unhit c d k).mod = c.mod ∧ (Chan.unhit c d k).tlh = c.tlh ∧ (Chan.unhit c d k).trk = c.trk ∧ (Chan.unhit c
    d k).skn = c.skn ∧ (Chan.unhit c d k).seq = c.seq ∧ (Chan.unhit c d k).ply = c.ply ∧ (Chan.unhit c d k).dst =
    c.dst ∧ (Chan.unhit c d k).ana = c.ana ∧ (Chan.unhit c d k).syn = c.syn ∧ (Chan.unhit c d k).tdc = c.tdc ∧
    (Chan.unhit c d k).mem = c.mem ∧ (Chan.unhit c d k).stq = c.stq ∧ (Chan.unhit c d k).cal = c.cal ∧ (Chan.unhit c
    d k).dof = c.dof ∧ (Chan.unhit c d k).flt = c.flt := by
  simp only [Chan.unhit]
  (repeat' split) <;> simp

@[simp] theorem Chan.dstStart_keeps (c : Chan) (cyc : Nat) (pos : Word) :
    (c.dstStart cyc pos).ana = c.ana ∧ (c.dstStart cyc pos).cal = c.cal ∧ (c.dstStart cyc pos).dof = c.dof ∧
    (c.dstStart cyc pos).flt = c.flt ∧ (c.dstStart cyc pos).jnc = c.jnc ∧ (c.dstStart cyc pos).mem = c.mem ∧
    (c.dstStart cyc pos).mod = c.mod ∧ (c.dstStart cyc pos).ply = c.ply ∧ (c.dstStart cyc pos).seq = c.seq ∧
    (c.dstStart cyc pos).skn = c.skn ∧ (c.dstStart cyc pos).stq = c.stq ∧ (c.dstStart cyc pos).syn = c.syn ∧
    (c.dstStart cyc pos).tdc = c.tdc ∧ (c.dstStart cyc pos).tlh = c.tlh ∧ (c.dstStart cyc pos).trk = c.trk := by simp only [Chan.dstStart]; (repeat' split) <;> simp

@[simp] theorem Chan.dstGo_keeps (c : Chan) (cyc src : Nat) :
    (c.dstGo cyc src).ana = c.ana ∧ (c.dstGo cyc src).cal = c.cal ∧ (c.dstGo cyc src).dof = c.dof ∧ (c.dstGo cyc
    src).flt = c.flt ∧ (c.dstGo cyc src).jnc = c.jnc ∧ (c.dstGo cyc src).mem = c.mem ∧ (c.dstGo cyc src).mod = c.mod ∧
    (c.dstGo cyc src).ply = c.ply ∧ (c.dstGo cyc src).seq = c.seq ∧ (c.dstGo cyc src).skn = c.skn ∧ (c.dstGo cyc
    src).stq = c.stq ∧ (c.dstGo cyc src).syn = c.syn ∧ (c.dstGo cyc src).tdc = c.tdc ∧ (c.dstGo cyc src).tlh = c.tlh ∧
    (c.dstGo cyc src).trk = c.trk := by simp only [Chan.dstGo]; (repeat' split) <;> simp

@[simp] theorem Chan.cutFrames_keeps (c : Chan) (n : Nat) :
    (c.cutFrames n).mod = c.mod ∧ (c.cutFrames n).tlh = c.tlh ∧ (c.cutFrames n).skn = c.skn ∧ (c.cutFrames n).seq =
    c.seq ∧ (c.cutFrames n).ply = c.ply ∧ (c.cutFrames n).ana = c.ana ∧ (c.cutFrames n).syn = c.syn ∧ (c.cutFrames
    n).jnc = c.jnc ∧ (c.cutFrames n).tdc = c.tdc ∧ (c.cutFrames n).mem = c.mem ∧ (c.cutFrames n).stq = c.stq ∧
    (c.cutFrames n).cal = c.cal ∧ (c.cutFrames n).dof = c.dof ∧ (c.cutFrames n).flt = c.flt := by and_intros <;> rfl

@[simp] theorem Chan.dstDrain_keeps (c : Chan) (now : Tbu) :
    (c.dstDrain now).mod = c.mod ∧ (c.dstDrain now).tlh = c.tlh ∧ (c.dstDrain now).skn = c.skn ∧ (c.dstDrain
    now).seq = c.seq ∧ (c.dstDrain now).ply = c.ply ∧ (c.dstDrain now).ana = c.ana ∧ (c.dstDrain now).syn = c.syn ∧
    (c.dstDrain now).tdc = c.tdc ∧ (c.dstDrain now).mem = c.mem ∧ (c.dstDrain now).stq = c.stq ∧ (c.dstDrain
    now).cal = c.cal ∧ (c.dstDrain now).dof = c.dof ∧ (c.dstDrain now).flt = c.flt := by simp [Chan.dstDrain]

@[simp] theorem Chan.dstRest_keeps (c : Chan) (now : Tbu) :
    (c.dstRest now).mod = c.mod ∧ (c.dstRest now).tlh = c.tlh ∧ (c.dstRest now).trk = c.trk ∧ (c.dstRest now).skn =
    c.skn ∧ (c.dstRest now).seq = c.seq ∧ (c.dstRest now).ply = c.ply ∧ (c.dstRest now).ana = c.ana ∧ (c.dstRest
    now).syn = c.syn ∧ (c.dstRest now).tdc = c.tdc ∧ (c.dstRest now).mem = c.mem ∧ (c.dstRest now).stq = c.stq ∧
    (c.dstRest now).cal = c.cal ∧ (c.dstRest now).dof = c.dof ∧ (c.dstRest now).flt = c.flt := by simp [Chan.dstRest]

@[simp] theorem Chan.dstArm_keeps (c : Chan) :
    (c.dstArm).ana = c.ana ∧ (c.dstArm).cal = c.cal ∧ (c.dstArm).dof = c.dof ∧ (c.dstArm).flt = c.flt ∧ (c.dstArm).jnc
    = c.jnc ∧ (c.dstArm).mem = c.mem ∧ (c.dstArm).mod = c.mod ∧ (c.dstArm).ply = c.ply ∧ (c.dstArm).seq = c.seq ∧
    (c.dstArm).skn = c.skn ∧ (c.dstArm).stq = c.stq ∧ (c.dstArm).syn = c.syn ∧ (c.dstArm).tdc = c.tdc ∧ (c.dstArm).tlh
    = c.tlh ∧ (c.dstArm).trk = c.trk := by and_intros <;> rfl

@[simp] theorem Chan.planFrames_keeps (c : Chan) (n : Nat) :
    (c.planFrames n).mod = c.mod ∧ (c.planFrames n).tlh = c.tlh ∧ (c.planFrames n).skn = c.skn ∧ (c.planFrames
    n).seq = c.seq ∧ (c.planFrames n).ply = c.ply ∧ (c.planFrames n).ana = c.ana ∧ (c.planFrames n).syn = c.syn ∧
    (c.planFrames n).jnc = c.jnc ∧ (c.planFrames n).tdc = c.tdc ∧ (c.planFrames n).mem = c.mem ∧ (c.planFrames
    n).stq = c.stq ∧ (c.planFrames n).cal = c.cal ∧ (c.planFrames n).dof = c.dof ∧ (c.planFrames n).flt = c.flt := by
  induction n generalizing c with
  | zero => and_intros <;> rfl
  | succ n ih =>
    simp only [Chan.planFrames]
    split
    · rename_i h
      simp only [Chan.planFrame, Option.ite_none_right_eq_some] at h
      obtain ⟨_, h⟩ := h
      cases h; simp [ih]
    · and_intros <;> rfl

@[simp] theorem Chan.dstEdge_keeps (c : Chan) (e : Int) (step : Bool) :
    (c.dstEdge e step).mod = c.mod ∧ (c.dstEdge e step).tlh = c.tlh ∧ (c.dstEdge e step).skn = c.skn ∧ (c.dstEdge e
    step).seq = c.seq ∧ (c.dstEdge e step).ply = c.ply ∧ (c.dstEdge e step).ana = c.ana ∧ (c.dstEdge e step).syn =
    c.syn ∧ (c.dstEdge e step).tdc = c.tdc ∧ (c.dstEdge e step).mem = c.mem ∧ (c.dstEdge e step).stq = c.stq ∧
    (c.dstEdge e step).cal = c.cal ∧ (c.dstEdge e step).dof = c.dof ∧ (c.dstEdge e step).flt = c.flt := by simp [Chan.dstEdge]

@[simp] theorem Chan.dstRunEntry_keeps (c : Chan) (cyc : Nat) (pos : Word) :
    (c.dstRunEntry cyc pos).mod = c.mod ∧ (c.dstRunEntry cyc pos).tlh = c.tlh ∧ (c.dstRunEntry cyc pos).skn = c.skn
    ∧ (c.dstRunEntry cyc pos).seq = c.seq ∧ (c.dstRunEntry cyc pos).ply = c.ply ∧ (c.dstRunEntry cyc pos).ana =
    c.ana ∧ (c.dstRunEntry cyc pos).syn = c.syn ∧ (c.dstRunEntry cyc pos).tdc = c.tdc ∧ (c.dstRunEntry cyc pos).mem
    = c.mem ∧ (c.dstRunEntry cyc pos).stq = c.stq ∧ (c.dstRunEntry cyc pos).cal = c.cal ∧ (c.dstRunEntry cyc
    pos).dof = c.dof ∧ (c.dstRunEntry cyc pos).flt = c.flt := by simp only [Chan.dstRunEntry]; (repeat' split) <;> simp

@[simp] theorem Chan.dstPause_keeps (c : Chan) (now : Tbu) (b : Q16) :
    (c.dstPause now b).mod = c.mod ∧ (c.dstPause now b).tlh = c.tlh ∧ (c.dstPause now b).skn = c.skn ∧ (c.dstPause
    now b).seq = c.seq ∧ (c.dstPause now b).ply = c.ply ∧ (c.dstPause now b).ana = c.ana ∧ (c.dstPause now b).syn =
    c.syn ∧ (c.dstPause now b).tdc = c.tdc ∧ (c.dstPause now b).mem = c.mem ∧ (c.dstPause now b).stq = c.stq ∧
    (c.dstPause now b).cal = c.cal ∧ (c.dstPause now b).dof = c.dof ∧ (c.dstPause now b).flt = c.flt := by simp [Chan.dstPause]

@[simp] theorem Chan.vecNote_keeps (c : Chan) (ready : Bool) :
    (Chan.vecNote c ready).mod = c.mod ∧ (Chan.vecNote c ready).tlh = c.tlh ∧ (Chan.vecNote c ready).trk = c.trk ∧
    (Chan.vecNote c ready).skn = c.skn ∧ (Chan.vecNote c ready).seq = c.seq ∧ (Chan.vecNote c ready).ply = c.ply ∧
    (Chan.vecNote c ready).dst = c.dst ∧ (Chan.vecNote c ready).ana = c.ana ∧ (Chan.vecNote c ready).syn = c.syn ∧
    (Chan.vecNote c ready).jnc = c.jnc ∧ (Chan.vecNote c ready).tdc = c.tdc ∧ (Chan.vecNote c ready).stq = c.stq ∧
    (Chan.vecNote c ready).cal = c.cal ∧ (Chan.vecNote c ready).dof = c.dof ∧ (Chan.vecNote c ready).flt = c.flt := by
  and_intros <;> rfl

@[simp] theorem Chan.vecDirect_keeps (c : Chan) (now : Tbu) :
    (Chan.vecDirect c now).mod = c.mod ∧ (Chan.vecDirect c now).tlh = c.tlh ∧ (Chan.vecDirect c now).trk = c.trk ∧
    (Chan.vecDirect c now).skn = c.skn ∧ (Chan.vecDirect c now).seq = c.seq ∧ (Chan.vecDirect c now).ply = c.ply ∧
    (Chan.vecDirect c now).dst = c.dst ∧ (Chan.vecDirect c now).ana = c.ana ∧ (Chan.vecDirect c now).syn = c.syn ∧
    (Chan.vecDirect c now).jnc = c.jnc ∧ (Chan.vecDirect c now).tdc = c.tdc ∧ (Chan.vecDirect c now).stq = c.stq ∧
    (Chan.vecDirect c now).cal = c.cal ∧ (Chan.vecDirect c now).dof = c.dof ∧ (Chan.vecDirect c now).flt = c.flt := by
  simp only [Chan.vecDirect]
  (repeat' split) <;> simp

@[simp] theorem Chan.issueFrame_keeps (c : Chan) (cyc : Nat) (ready : Bool) :
    (c.issueFrame cyc ready).mod = c.mod ∧ (c.issueFrame cyc ready).tlh = c.tlh ∧ (c.issueFrame cyc ready).trk =
    c.trk ∧ (c.issueFrame cyc ready).skn = c.skn ∧ (c.issueFrame cyc ready).seq = c.seq ∧ (c.issueFrame cyc
    ready).ply = c.ply ∧ (c.issueFrame cyc ready).ana = c.ana ∧ (c.issueFrame cyc ready).syn = c.syn ∧ (c.issueFrame
    cyc ready).tdc = c.tdc ∧ (c.issueFrame cyc ready).mem = c.mem ∧ (c.issueFrame cyc ready).stq = c.stq ∧
    (c.issueFrame cyc ready).cal = c.cal ∧ (c.issueFrame cyc ready).dof = c.dof ∧ (c.issueFrame cyc ready).flt =
    c.flt := by simp [Chan.issueFrame]

@[simp] theorem Chan.deskew_keeps (c : Chan) (lane : Fin 24) (early late : Nat) (now : Tbu) :
    (c.deskew lane early late now).ana = c.ana ∧ (c.deskew lane early late now).cal = c.cal ∧ (c.deskew lane early late now).dof =
    c.dof ∧ (c.deskew lane early late now).flt = c.flt ∧ (c.deskew lane early late now).jnc = c.jnc ∧ (c.deskew lane early late now).mem = c.mem ∧ (c.deskew lane early late now).mod = c.mod ∧ (c.deskew lane early late now).ply = c.ply ∧ (c.deskew lane early late now).seq = c.seq ∧ (c.deskew lane early late now).skn = c.skn ∧ (c.deskew lane early late now).stq = c.stq ∧
    (c.deskew lane early late now).syn = c.syn ∧ (c.deskew lane early late now).tdc = c.tdc ∧ (c.deskew lane early late now).tlh =
    c.tlh ∧ (c.deskew lane early late now).trk = c.trk := by simp only [Chan.deskew]; (repeat' split) <;> simp

@[simp] theorem Chan.rangeWrite_keeps (c : Chan) (now : Tbu) (free : Bool) (v : Word) :
    (c.rangeWrite now free v).cal = c.cal ∧ (c.rangeWrite now free v).dof = c.dof ∧ (c.rangeWrite now free v).dst =
    c.dst ∧ (c.rangeWrite now free v).flt = c.flt ∧ (c.rangeWrite now free v).jnc = c.jnc ∧ (c.rangeWrite now free
    v).mem = c.mem ∧ (c.rangeWrite now free v).mod = c.mod ∧ (c.rangeWrite now free v).ply = c.ply ∧ (c.rangeWrite now
    free v).seq = c.seq ∧ (c.rangeWrite now free v).skn = c.skn ∧ (c.rangeWrite now free v).stq = c.stq ∧
    (c.rangeWrite now free v).syn = c.syn ∧ (c.rangeWrite now free v).tdc = c.tdc ∧ (c.rangeWrite now free v).tlh =
    c.tlh ∧ (c.rangeWrite now free v).trk = c.trk := by simp only [Chan.rangeWrite]; (repeat' split) <;> simp

@[simp] theorem Chan.rangeAtRest_keeps (c : Chan) (now : Tbu) :
    (c.rangeAtRest now).cal = c.cal ∧ (c.rangeAtRest now).dof = c.dof ∧ (c.rangeAtRest now).dst = c.dst ∧
    (c.rangeAtRest now).flt = c.flt ∧ (c.rangeAtRest now).jnc = c.jnc ∧ (c.rangeAtRest now).mem = c.mem ∧
    (c.rangeAtRest now).mod = c.mod ∧ (c.rangeAtRest now).ply = c.ply ∧ (c.rangeAtRest now).seq = c.seq ∧
    (c.rangeAtRest now).skn = c.skn ∧ (c.rangeAtRest now).stq = c.stq ∧ (c.rangeAtRest now).syn = c.syn ∧
    (c.rangeAtRest now).tdc = c.tdc ∧ (c.rangeAtRest now).tlh = c.tlh ∧ (c.rangeAtRest now).trk = c.trk := by simp only [Chan.rangeAtRest]; (repeat' split) <;> simp

@[simp] theorem Chan.stageWrite_keeps (c : Chan) (cyc : Nat) (v : Word) :
    (c.stageWrite cyc v).cal = c.cal ∧ (c.stageWrite cyc v).dof = c.dof ∧ (c.stageWrite cyc v).dst = c.dst ∧
    (c.stageWrite cyc v).flt = c.flt ∧ (c.stageWrite cyc v).jnc = c.jnc ∧ (c.stageWrite cyc v).mem = c.mem ∧
    (c.stageWrite cyc v).mod = c.mod ∧ (c.stageWrite cyc v).ply = c.ply ∧ (c.stageWrite cyc v).seq = c.seq ∧
    (c.stageWrite cyc v).skn = c.skn ∧ (c.stageWrite cyc v).stq = c.stq ∧ (c.stageWrite cyc v).syn = c.syn ∧
    (c.stageWrite cyc v).tdc = c.tdc ∧ (c.stageWrite cyc v).tlh = c.tlh ∧ (c.stageWrite cyc v).trk = c.trk := by and_intros <;> rfl

@[simp] theorem Chan.limitWrite_keeps (c : Chan) (cyc : Nat) (k : Fin 4) (v : Word) :
    (c.limitWrite cyc k v).1.cal = c.cal ∧ (c.limitWrite cyc k v).1.dof = c.dof ∧ (c.limitWrite cyc k v).1.dst = c.dst
    ∧ (c.limitWrite cyc k v).1.flt = c.flt ∧ (c.limitWrite cyc k v).1.jnc = c.jnc ∧ (c.limitWrite cyc k v).1.mem =
    c.mem ∧ (c.limitWrite cyc k v).1.mod = c.mod ∧ (c.limitWrite cyc k v).1.ply = c.ply ∧ (c.limitWrite cyc k v).1.seq
    = c.seq ∧ (c.limitWrite cyc k v).1.skn = c.skn ∧ (c.limitWrite cyc k v).1.stq = c.stq ∧ (c.limitWrite cyc k
    v).1.syn = c.syn ∧ (c.limitWrite cyc k v).1.tdc = c.tdc ∧ (c.limitWrite cyc k v).1.tlh = c.tlh ∧ (c.limitWrite cyc
    k v).1.trk = c.trk := by simp only [Chan.limitWrite]; (repeat' split) <;> simp

@[simp] theorem Chan.strobe_keeps (c : Chan) (cyc src : Nat) (holdup : Bool) :
    (c.strobe cyc src holdup).cal = c.cal ∧ (c.strobe cyc src holdup).dof = c.dof ∧ (c.strobe cyc src holdup).dst =
    c.dst ∧ (c.strobe cyc src holdup).flt = c.flt ∧ (c.strobe cyc src holdup).jnc = c.jnc ∧ (c.strobe cyc src
    holdup).mem = c.mem ∧ (c.strobe cyc src holdup).mod = c.mod ∧ (c.strobe cyc src holdup).ply = c.ply ∧ (c.strobe
    cyc src holdup).seq = c.seq ∧ (c.strobe cyc src holdup).skn = c.skn ∧ (c.strobe cyc src holdup).stq = c.stq ∧
    (c.strobe cyc src holdup).syn = c.syn ∧ (c.strobe cyc src holdup).tdc = c.tdc ∧ (c.strobe cyc src holdup).tlh =
    c.tlh ∧ (c.strobe cyc src holdup).trk = c.trk := by simp only [Chan.strobe]; (repeat' split) <;> simp

@[simp] theorem Chan.unsched_keeps (c : Chan) :
    (c.unsched).cal = c.cal ∧ (c.unsched).dof = c.dof ∧ (c.unsched).dst = c.dst ∧ (c.unsched).flt = c.flt ∧
    (c.unsched).jnc = c.jnc ∧ (c.unsched).mem = c.mem ∧ (c.unsched).mod = c.mod ∧ (c.unsched).ply = c.ply ∧
    (c.unsched).seq = c.seq ∧ (c.unsched).skn = c.skn ∧ (c.unsched).stq = c.stq ∧ (c.unsched).syn = c.syn ∧
    (c.unsched).tdc = c.tdc ∧ (c.unsched).tlh = c.tlh := by and_intros <;> rfl

@[simp] theorem Chan.sched_keeps (c : Chan) (now : Tbu) :
    (c.sched now).cal = c.cal ∧ (c.sched now).dof = c.dof ∧ (c.sched now).dst = c.dst ∧ (c.sched now).flt = c.flt ∧
    (c.sched now).jnc = c.jnc ∧ (c.sched now).mem = c.mem ∧ (c.sched now).mod = c.mod ∧ (c.sched now).ply = c.ply ∧
    (c.sched now).seq = c.seq ∧ (c.sched now).skn = c.skn ∧ (c.sched now).stq = c.stq ∧ (c.sched now).syn = c.syn ∧
    (c.sched now).tdc = c.tdc ∧ (c.sched now).tlh = c.tlh := by simp only [Chan.sched]; (repeat' split) <;> simp

@[simp] theorem Chan.transfer_keeps (c : Chan) (d : Nat) (now : Tbu) :
    (c.transfer d now).cal = c.cal ∧ (c.transfer d now).dof = c.dof ∧ (c.transfer d now).dst = c.dst ∧ (c.transfer d
    now).flt = c.flt ∧ (c.transfer d now).mem = c.mem ∧ (c.transfer d now).mod = c.mod ∧ (c.transfer d now).ply =
    c.ply ∧ (c.transfer d now).seq = c.seq ∧ (c.transfer d now).skn = c.skn ∧ (c.transfer d now).stq = c.stq ∧
    (c.transfer d now).syn = c.syn ∧ (c.transfer d now).tdc = c.tdc ∧ (c.transfer d now).tlh = c.tlh ∧ (c.transfer d
    now).trk = c.trk := by simp only [Chan.transfer]; (repeat' split) <;> simp

@[simp] theorem Chan.enableExec_keeps (c : Chan) :
    (c.enableExec).cal = c.cal ∧ (c.enableExec).dof = c.dof ∧ (c.enableExec).dst = c.dst ∧ (c.enableExec).flt = c.flt
    ∧ (c.enableExec).jnc = c.jnc ∧ (c.enableExec).mem = c.mem ∧ (c.enableExec).ply = c.ply ∧ (c.enableExec).seq =
    c.seq ∧ (c.enableExec).skn = c.skn ∧ (c.enableExec).stq = c.stq ∧ (c.enableExec).syn = c.syn ∧ (c.enableExec).tdc
    = c.tdc ∧ (c.enableExec).tlh = c.tlh ∧ (c.enableExec).trk = c.trk := by and_intros <;> rfl

@[simp] theorem Chan.switchesOpen_keeps (c : Chan) :
    (c.switchesOpen).cal = c.cal ∧ (c.switchesOpen).dof = c.dof ∧ (c.switchesOpen).dst = c.dst ∧ (c.switchesOpen).flt
    = c.flt ∧ (c.switchesOpen).jnc = c.jnc ∧ (c.switchesOpen).mem = c.mem ∧ (c.switchesOpen).ply = c.ply ∧
    (c.switchesOpen).seq = c.seq ∧ (c.switchesOpen).skn = c.skn ∧ (c.switchesOpen).stq = c.stq ∧ (c.switchesOpen).syn
    = c.syn ∧ (c.switchesOpen).tdc = c.tdc ∧ (c.switchesOpen).tlh = c.tlh ∧ (c.switchesOpen).trk = c.trk := by and_intros <;> rfl

@[simp] theorem Chan.enable_keeps (c : Chan) :
    (c.enable).cal = c.cal ∧ (c.enable).dof = c.dof ∧ (c.enable).dst = c.dst ∧ (c.enable).flt = c.flt ∧ (c.enable).jnc
    = c.jnc ∧ (c.enable).mem = c.mem ∧ (c.enable).ply = c.ply ∧ (c.enable).seq = c.seq ∧ (c.enable).skn = c.skn ∧
    (c.enable).stq = c.stq ∧ (c.enable).syn = c.syn ∧ (c.enable).tdc = c.tdc ∧ (c.enable).tlh = c.tlh ∧ (c.enable).trk
    = c.trk := by simp only [Chan.enable]; (repeat' split) <;> simp

@[simp] theorem Chan.disable_keeps (c : Chan) (now : Tbu) :
    (c.disable now).cal = c.cal ∧ (c.disable now).dof = c.dof ∧ (c.disable now).dst = c.dst ∧ (c.disable now).flt =
    c.flt ∧ (c.disable now).jnc = c.jnc ∧ (c.disable now).mem = c.mem ∧ (c.disable now).ply = c.ply ∧ (c.disable
    now).seq = c.seq ∧ (c.disable now).skn = c.skn ∧ (c.disable now).stq = c.stq ∧ (c.disable now).syn = c.syn ∧
    (c.disable now).tdc = c.tdc ∧ (c.disable now).tlh = c.tlh ∧ (c.disable now).trk = c.trk := by simp only [Chan.disable]; (repeat' split) <;> simp

@[simp] theorem Chan.holdOpen_keeps (c : Chan) :
    (Chan.holdOpen c).mod = c.mod ∧ (Chan.holdOpen c).tlh = c.tlh ∧ (Chan.holdOpen c).trk = c.trk ∧ (Chan.holdOpen
    c).skn = c.skn ∧ (Chan.holdOpen c).seq = c.seq ∧ (Chan.holdOpen c).ply = c.ply ∧ (Chan.holdOpen c).dst = c.dst ∧
    (Chan.holdOpen c).syn = c.syn ∧ (Chan.holdOpen c).jnc = c.jnc ∧ (Chan.holdOpen c).tdc = c.tdc ∧ (Chan.holdOpen
    c).mem = c.mem ∧ (Chan.holdOpen c).stq = c.stq ∧ (Chan.holdOpen c).cal = c.cal ∧ (Chan.holdOpen c).dof = c.dof ∧
    (Chan.holdOpen c).flt = c.flt := by
  simp only [Chan.holdOpen]
  (repeat' split) <;> simp

@[simp] theorem Chan.disableEnd_keeps (c : Chan) (now : Tbu) :
    (c.disableEnd now).cal = c.cal ∧ (c.disableEnd now).dof = c.dof ∧ (c.disableEnd now).dst = c.dst ∧ (c.disableEnd
    now).flt = c.flt ∧ (c.disableEnd now).jnc = c.jnc ∧ (c.disableEnd now).mem = c.mem ∧ (c.disableEnd now).ply =
    c.ply ∧ (c.disableEnd now).seq = c.seq ∧ (c.disableEnd now).skn = c.skn ∧ (c.disableEnd now).stq = c.stq ∧
    (c.disableEnd now).syn = c.syn ∧ (c.disableEnd now).tdc = c.tdc ∧ (c.disableEnd now).tlh = c.tlh ∧ (c.disableEnd
    now).trk = c.trk := by simp only [Chan.disableEnd]; (repeat' split) <;> simp

@[simp] theorem Chan.anaDrain_keeps (c : Chan) (now : Tbu) :
    (c.anaDrain now).cal = c.cal ∧ (c.anaDrain now).dof = c.dof ∧ (c.anaDrain now).dst = c.dst ∧ (c.anaDrain now).flt
    = c.flt ∧ (c.anaDrain now).jnc = c.jnc ∧ (c.anaDrain now).mem = c.mem ∧ (c.anaDrain now).ply = c.ply ∧ (c.anaDrain
    now).seq = c.seq ∧ (c.anaDrain now).skn = c.skn ∧ (c.anaDrain now).stq = c.stq ∧ (c.anaDrain now).syn = c.syn ∧
    (c.anaDrain now).tdc = c.tdc ∧ (c.anaDrain now).tlh = c.tlh := by and_intros <;> rfl

@[simp] theorem Chan.switched_keeps (c : Chan) (now : Tbu) :
    (Chan.switched c now).tlh = c.tlh ∧ (Chan.switched c now).trk = c.trk ∧ (Chan.switched c now).skn = c.skn ∧
    (Chan.switched c now).seq = c.seq ∧ (Chan.switched c now).ply = c.ply ∧ (Chan.switched c now).dst = c.dst ∧
    (Chan.switched c now).syn = c.syn ∧ (Chan.switched c now).jnc = c.jnc ∧ (Chan.switched c now).tdc = c.tdc ∧
    (Chan.switched c now).mem = c.mem ∧ (Chan.switched c now).stq = c.stq ∧ (Chan.switched c now).cal = c.cal ∧
    (Chan.switched c now).dof = c.dof ∧ (Chan.switched c now).flt = c.flt := by
  simp only [Chan.switched]
  (repeat' split) <;> simp

@[simp] theorem Chan.anaRest_keeps (c : Chan) :
    (c.anaRest).cal = c.cal ∧ (c.anaRest).dof = c.dof ∧ (c.anaRest).dst = c.dst ∧ (c.anaRest).flt = c.flt ∧
    (c.anaRest).jnc = c.jnc ∧ (c.anaRest).mem = c.mem ∧ (c.anaRest).ply = c.ply ∧ (c.anaRest).seq = c.seq ∧
    (c.anaRest).skn = c.skn ∧ (c.anaRest).stq = c.stq ∧ (c.anaRest).syn = c.syn ∧ (c.anaRest).tdc = c.tdc ∧
    (c.anaRest).tlh = c.tlh ∧ (c.anaRest).trk = c.trk := by and_intros <;> rfl

@[simp] theorem Chan.anaHoldup_keeps (c : Chan) (now : Tbu) :
    (c.anaHoldup now).tlh = c.tlh ∧ (c.anaHoldup now).trk = c.trk ∧ (c.anaHoldup now).skn = c.skn ∧ (c.anaHoldup
    now).seq = c.seq ∧ (c.anaHoldup now).ply = c.ply ∧ (c.anaHoldup now).dst = c.dst ∧ (c.anaHoldup now).syn = c.syn
    ∧ (c.anaHoldup now).jnc = c.jnc ∧ (c.anaHoldup now).tdc = c.tdc ∧ (c.anaHoldup now).mem = c.mem ∧ (c.anaHoldup
    now).stq = c.stq ∧ (c.anaHoldup now).cal = c.cal ∧ (c.anaHoldup now).dof = c.dof ∧ (c.anaHoldup now).flt = c.flt := by simp only [Chan.anaHoldup]; (repeat' split) <;> simp

@[simp] theorem Chan.monRead_keeps (c : Chan) (i : Fin 5) (value : BitVec 16) (now : Tbu) :
    (c.monRead i value now).1.cal = c.cal ∧ (c.monRead i value now).1.dof = c.dof ∧ (c.monRead i value now).1.dst =
    c.dst ∧ (c.monRead i value now).1.flt = c.flt ∧ (c.monRead i value now).1.mem = c.mem ∧ (c.monRead i value
    now).1.mod = c.mod ∧ (c.monRead i value now).1.ply = c.ply ∧ (c.monRead i value now).1.seq = c.seq ∧ (c.monRead i
    value now).1.skn = c.skn ∧ (c.monRead i value now).1.stq = c.stq ∧ (c.monRead i value now).1.syn = c.syn ∧
    (c.monRead i value now).1.tdc = c.tdc ∧ (c.monRead i value now).1.tlh = c.tlh ∧ (c.monRead i value now).1.trk =
    c.trk := by simp only [Chan.monRead]; (repeat' split) <;> simp

@[simp] theorem Chan.handFrom_keeps (c : Chan) (cyc : Nat) :
    (c.handFrom cyc).mod = c.mod ∧ (c.handFrom cyc).tlh = c.tlh ∧ (c.handFrom cyc).trk = c.trk ∧ (c.handFrom
    cyc).skn = c.skn ∧ (c.handFrom cyc).seq = c.seq ∧ (c.handFrom cyc).dst = c.dst ∧ (c.handFrom cyc).ana = c.ana ∧
    (c.handFrom cyc).syn = c.syn ∧ (c.handFrom cyc).jnc = c.jnc ∧ (c.handFrom cyc).tdc = c.tdc ∧ (c.handFrom
    cyc).mem = c.mem ∧ (c.handFrom cyc).stq = c.stq ∧ (c.handFrom cyc).cal = c.cal ∧ (c.handFrom cyc).dof = c.dof ∧
    (c.handFrom cyc).flt = c.flt := by simp only [Chan.handFrom]; (repeat' split) <;> simp

@[simp] theorem Chan.usePlayed_keeps (c : Chan) (cyc : Nat) :
    (c.usePlayed cyc).mod = c.mod ∧ (c.usePlayed cyc).tlh = c.tlh ∧ (c.usePlayed cyc).trk = c.trk ∧ (c.usePlayed
    cyc).skn = c.skn ∧ (c.usePlayed cyc).seq = c.seq ∧ (c.usePlayed cyc).ply = c.ply ∧ (c.usePlayed cyc).dst = c.dst
    ∧ (c.usePlayed cyc).ana = c.ana ∧ (c.usePlayed cyc).syn = c.syn ∧ (c.usePlayed cyc).jnc = c.jnc ∧ (c.usePlayed
    cyc).tdc = c.tdc ∧ (c.usePlayed cyc).stq = c.stq ∧ (c.usePlayed cyc).cal = c.cal ∧ (c.usePlayed cyc).dof = c.dof
    ∧ (c.usePlayed cyc).flt = c.flt := by simp only [Chan.usePlayed]; (repeat' split) <;> simp

@[simp] theorem Chan.repredict_keeps (c : Chan) (cyc : Nat) :
    (c.repredict cyc).mod = c.mod ∧ (c.repredict cyc).tlh = c.tlh ∧ (c.repredict cyc).skn = c.skn ∧ (c.repredict
    cyc).dst = c.dst ∧ (c.repredict cyc).ana = c.ana ∧ (c.repredict cyc).syn = c.syn ∧ (c.repredict cyc).jnc = c.jnc
    ∧ (c.repredict cyc).tdc = c.tdc ∧ (c.repredict cyc).mem = c.mem ∧ (c.repredict cyc).stq = c.stq ∧ (c.repredict
    cyc).cal = c.cal ∧ (c.repredict cyc).dof = c.dof ∧ (c.repredict cyc).flt = c.flt := by simp only [Chan.repredict]; (repeat' split) <;> simp

@[simp] theorem Chan.rebase_keeps (c : Chan) (x : Q16) :
    (c.rebase x).ana = c.ana ∧ (c.rebase x).cal = c.cal ∧ (c.rebase x).dof = c.dof ∧ (c.rebase x).dst = c.dst ∧
    (c.rebase x).flt = c.flt ∧ (c.rebase x).jnc = c.jnc ∧ (c.rebase x).mem = c.mem ∧ (c.rebase x).mod = c.mod ∧
    (c.rebase x).seq = c.seq ∧ (c.rebase x).skn = c.skn ∧ (c.rebase x).stq = c.stq ∧ (c.rebase x).syn = c.syn ∧
    (c.rebase x).tdc = c.tdc ∧ (c.rebase x).tlh = c.tlh ∧ (c.rebase x).trk = c.trk := by simp only [Chan.rebase]; (repeat' split) <;> simp

@[simp] theorem Chan.outClear_keeps (c : Chan) (x : Q16) (v : Word) :
    (Chan.outClear c x v).mod = c.mod ∧ (Chan.outClear c x v).tlh = c.tlh ∧ (Chan.outClear c x v).trk = c.trk ∧
    (Chan.outClear c x v).skn = c.skn ∧ (Chan.outClear c x v).seq = c.seq ∧ (Chan.outClear c x v).dst = c.dst ∧
    (Chan.outClear c x v).ana = c.ana ∧ (Chan.outClear c x v).syn = c.syn ∧ (Chan.outClear c x v).jnc = c.jnc ∧
    (Chan.outClear c x v).tdc = c.tdc ∧ (Chan.outClear c x v).mem = c.mem ∧ (Chan.outClear c x v).stq = c.stq ∧
    (Chan.outClear c x v).cal = c.cal ∧ (Chan.outClear c x v).dof = c.dof ∧ (Chan.outClear c x v).flt = c.flt := by
  simp only [Chan.outClear]
  (repeat' split) <;> simp

theorem Chan.commitKnot_keeps {c d : Chan} {thaw : Option Q16} (h : c.commitKnot thaw = some d) :
    d = { c with ply := d.ply, trk := { c.trk with committed := d.trk.committed } } := by
  simp only [Chan.commitKnot, Option.ite_none_right_eq_some] at h
  obtain ⟨_, h⟩ := h
  cases h; rfl

@[simp] theorem Chan.commitKnots_keeps (c : Chan) (n : Nat) (thaw : Option Q16) :
    (c.commitKnots n thaw).mod = c.mod ∧ (c.commitKnots n thaw).tlh = c.tlh ∧
    (c.commitKnots n thaw).skn = c.skn ∧ (c.commitKnots n thaw).seq = c.seq ∧ (c.commitKnots n thaw).dst = c.dst ∧
    (c.commitKnots n thaw).ana = c.ana ∧ (c.commitKnots n thaw).syn = c.syn ∧ (c.commitKnots n thaw).jnc = c.jnc ∧
    (c.commitKnots n thaw).tdc = c.tdc ∧ (c.commitKnots n thaw).mem = c.mem ∧ (c.commitKnots n thaw).stq = c.stq ∧
    (c.commitKnots n thaw).cal = c.cal ∧ (c.commitKnots n thaw).dof = c.dof ∧ (c.commitKnots n thaw).flt = c.flt := by
  induction n generalizing c thaw with
  | zero => and_intros <;> rfl
  | succ n ih =>
    rw [Chan.commitKnots]
    split
    · rename_i d h
      have e := Chan.commitKnot_keeps h
      have i := ih d none
      refine ⟨i.1.trans ?_, i.2.1.trans ?_, i.2.2.1.trans ?_, i.2.2.2.1.trans ?_, i.2.2.2.2.1.trans ?_, i.2.2.2.2.2.1.trans ?_,
        i.2.2.2.2.2.2.1.trans ?_, i.2.2.2.2.2.2.2.1.trans ?_, i.2.2.2.2.2.2.2.2.1.trans ?_, i.2.2.2.2.2.2.2.2.2.1.trans ?_,
        i.2.2.2.2.2.2.2.2.2.2.1.trans ?_, i.2.2.2.2.2.2.2.2.2.2.2.1.trans ?_, i.2.2.2.2.2.2.2.2.2.2.2.2.1.trans ?_,
        i.2.2.2.2.2.2.2.2.2.2.2.2.2.trans ?_⟩ <;> rw [e]
    · and_intros <;> rfl

/-- Committed knots join the tracker's committed events; nothing else of the tracker changes. -/
theorem Chan.commitKnots_trk (c : Chan) (n : Nat) (thaw : Option Q16) :
    ∃ l, (c.commitKnots n thaw).trk = { c.trk with committed := l } := by
  induction n generalizing c thaw with
  | zero => exact ⟨_, rfl⟩
  | succ n ih =>
    rw [Chan.commitKnots]
    split
    · rename_i d h
      obtain ⟨l, k⟩ := ih d none
      exact ⟨l, by rw [k, Chan.commitKnot_keeps h]⟩
    · exact ⟨_, rfl⟩

@[simp] theorem Chan.knotsAtEdge_keeps (c : Chan) (now : Tbu) :
    (c.knotsAtEdge now).mod = c.mod ∧ (c.knotsAtEdge now).tlh = c.tlh ∧ (c.knotsAtEdge now).skn = c.skn ∧
    (c.knotsAtEdge now).dst = c.dst ∧ (c.knotsAtEdge now).ana = c.ana ∧ (c.knotsAtEdge now).syn = c.syn ∧
    (c.knotsAtEdge now).tdc = c.tdc ∧ (c.knotsAtEdge now).mem = c.mem ∧ (c.knotsAtEdge now).stq = c.stq ∧
    (c.knotsAtEdge now).cal = c.cal ∧ (c.knotsAtEdge now).dof = c.dof ∧ (c.knotsAtEdge now).flt = c.flt := by
  have h := fun n t => c.commitKnots_keeps n t
  simp only [Chan.knotsAtEdge]
  split
  · split <;> simp
  · simp

theorem Chan.repredict_trk (c : Chan) (cyc : Nat) :
    ∃ p l, (c.repredict cyc).trk = { c.trk with pending := p, committed := l } := by
  simp only [Chan.repredict, Tracker.unplace]
  split
  · split
    · dsimp only
      split
      · exact ⟨_, _, rfl⟩
      · exact ⟨c.trk.pending, c.trk.committed, rfl⟩
    · exact ⟨c.trk.pending, c.trk.committed, rfl⟩
  · exact ⟨c.trk.pending, c.trk.committed, rfl⟩

/-- Knots laid anew at an edge leave and join the tracker's planned events; nothing else of the tracker changes. -/
theorem Chan.knotsAtEdge_trk (c : Chan) (now : Tbu) :
    ∃ p l, (c.knotsAtEdge now).trk = { c.trk with pending := p, committed := l } := by
  obtain ⟨p, l, h⟩ := c.repredict_trk (cycleOf now)
  have k := fun t => (((c.repredict (cycleOf now)).outTo (q16 now)).handFrom (cycleOf now)).commitKnots_trk knotFuel t
  simp only [Chan.handFrom_keeps, Chan.outTo_keeps, h] at k
  simp only [Chan.knotsAtEdge]
  split
  · split
    · obtain ⟨l', k⟩ := k (some (q16 now)); exact ⟨p, l', by simpa using k⟩
    · obtain ⟨l', k⟩ := k none; exact ⟨p, l', by simpa using k⟩
  · exact ⟨p, l, h⟩

@[simp] theorem Chan.freezeZero_keeps (c : Chan) (now : Tbu) :
    (Chan.freezeZero c now).mod = c.mod ∧ (Chan.freezeZero c now).tlh = c.tlh ∧ (Chan.freezeZero c now).trk = c.trk
    ∧ (Chan.freezeZero c now).skn = c.skn ∧ (Chan.freezeZero c now).seq = c.seq ∧ (Chan.freezeZero c now).dst =
    c.dst ∧ (Chan.freezeZero c now).ana = c.ana ∧ (Chan.freezeZero c now).syn = c.syn ∧ (Chan.freezeZero c now).jnc
    = c.jnc ∧ (Chan.freezeZero c now).tdc = c.tdc ∧ (Chan.freezeZero c now).mem = c.mem ∧ (Chan.freezeZero c
    now).stq = c.stq ∧ (Chan.freezeZero c now).cal = c.cal ∧ (Chan.freezeZero c now).dof = c.dof ∧ (Chan.freezeZero
    c now).flt = c.flt := by
  simp only [Chan.freezeZero]
  (repeat' split) <;> simp

@[simp] theorem Chan.anchorAt_keeps (c : Chan) (now : Tbu) (t : Int) :
    (Chan.anchorAt c now t).mod = c.mod ∧ (Chan.anchorAt c now t).tlh = c.tlh ∧ (Chan.anchorAt c now t).trk = c.trk
    ∧ (Chan.anchorAt c now t).skn = c.skn ∧ (Chan.anchorAt c now t).seq = c.seq ∧ (Chan.anchorAt c now t).dst =
    c.dst ∧ (Chan.anchorAt c now t).ana = c.ana ∧ (Chan.anchorAt c now t).syn = c.syn ∧ (Chan.anchorAt c now t).jnc
    = c.jnc ∧ (Chan.anchorAt c now t).tdc = c.tdc ∧ (Chan.anchorAt c now t).mem = c.mem ∧ (Chan.anchorAt c now
    t).stq = c.stq ∧ (Chan.anchorAt c now t).cal = c.cal ∧ (Chan.anchorAt c now t).dof = c.dof ∧ (Chan.anchorAt c
    now t).flt = c.flt := by
  and_intros <;> rfl

@[simp] theorem Chan.hopSwitch_keeps (c : Chan) (cyc : Nat) (h : PendHop) (tInt : Int) :
    (c.hopSwitch cyc h tInt).ana = c.ana ∧ (c.hopSwitch cyc h tInt).cal = c.cal ∧ (c.hopSwitch cyc h tInt).dof = c.dof
    ∧ (c.hopSwitch cyc h tInt).dst = c.dst ∧ (c.hopSwitch cyc h tInt).flt = c.flt ∧ (c.hopSwitch cyc h tInt).mem =
    c.mem ∧ (c.hopSwitch cyc h tInt).mod = c.mod ∧ (c.hopSwitch cyc h tInt).seq = c.seq ∧ (c.hopSwitch cyc h tInt).skn
    = c.skn ∧ (c.hopSwitch cyc h tInt).stq = c.stq ∧ (c.hopSwitch cyc h tInt).syn = c.syn ∧ (c.hopSwitch cyc h
    tInt).tdc = c.tdc ∧ (c.hopSwitch cyc h tInt).tlh = c.tlh ∧ (c.hopSwitch cyc h tInt).trk = c.trk := by simp only [Chan.hopSwitch]; (repeat' split) <;> simp

@[simp] theorem Chan.prepareHop_keeps (c : Chan) (host : Bool) (op : BitVec 3) (idx : Byte) (readAt : Nat) (due : Q16) :
    (c.prepareHop host op idx readAt due).ana = c.ana ∧ (c.prepareHop host op idx readAt due).cal = c.cal ∧
    (c.prepareHop host op idx readAt due).dof = c.dof ∧ (c.prepareHop host op idx readAt due).dst = c.dst ∧
    (c.prepareHop host op idx readAt due).flt = c.flt ∧ (c.prepareHop host op idx readAt due).jnc = c.jnc ∧
    (c.prepareHop host op idx readAt due).mem = c.mem ∧ (c.prepareHop host op idx readAt due).mod = c.mod ∧
    (c.prepareHop host op idx readAt due).seq = c.seq ∧ (c.prepareHop host op idx readAt due).skn = c.skn ∧
    (c.prepareHop host op idx readAt due).stq = c.stq ∧ (c.prepareHop host op idx readAt due).syn = c.syn ∧
    (c.prepareHop host op idx readAt due).tdc = c.tdc ∧ (c.prepareHop host op idx readAt due).tlh = c.tlh ∧
    (c.prepareHop host op idx readAt due).trk = c.trk := by and_intros <;> rfl

@[simp] theorem Chan.hopRead_keeps (c : Chan) :
    (c.hopRead).ana = c.ana ∧ (c.hopRead).cal = c.cal ∧ (c.hopRead).dof = c.dof ∧ (c.hopRead).dst = c.dst ∧
    (c.hopRead).flt = c.flt ∧ (c.hopRead).jnc = c.jnc ∧ (c.hopRead).mem = c.mem ∧ (c.hopRead).mod = c.mod ∧
    (c.hopRead).seq = c.seq ∧ (c.hopRead).skn = c.skn ∧ (c.hopRead).stq = c.stq ∧ (c.hopRead).syn = c.syn ∧
    (c.hopRead).tdc = c.tdc ∧ (c.hopRead).tlh = c.tlh ∧ (c.hopRead).trk = c.trk := by and_intros <;> rfl

@[simp] theorem Chan.dryStart_keeps (c : Chan) (now : Tbu) (ref : Bool) :
    (c.dryStart now ref).ana = c.ana ∧ (c.dryStart now ref).cal = c.cal ∧ (c.dryStart now ref).dof = c.dof ∧
    (c.dryStart now ref).dst = c.dst ∧ (c.dryStart now ref).flt = c.flt ∧ (c.dryStart now ref).mem = c.mem ∧
    (c.dryStart now ref).mod = c.mod ∧ (c.dryStart now ref).seq = c.seq ∧ (c.dryStart now ref).skn = c.skn ∧
    (c.dryStart now ref).stq = c.stq ∧ (c.dryStart now ref).syn = c.syn ∧ (c.dryStart now ref).tdc = c.tdc ∧
    (c.dryStart now ref).tlh = c.tlh ∧ (c.dryStart now ref).trk = c.trk := by simp only [Chan.dryStart]; (repeat' split) <;> simp

@[simp] theorem Chan.dryEnd_keeps (c : Chan) (now : Tbu) :
    (c.dryEnd now).ana = c.ana ∧ (c.dryEnd now).cal = c.cal ∧ (c.dryEnd now).dof = c.dof ∧ (c.dryEnd now).dst = c.dst
    ∧ (c.dryEnd now).mem = c.mem ∧ (c.dryEnd now).mod = c.mod ∧ (c.dryEnd now).seq = c.seq ∧ (c.dryEnd now).skn =
    c.skn ∧ (c.dryEnd now).stq = c.stq ∧ (c.dryEnd now).syn = c.syn ∧ (c.dryEnd now).tdc = c.tdc ∧ (c.dryEnd now).tlh
    = c.tlh ∧ (c.dryEnd now).trk = c.trk := by simp only [Chan.dryEnd]; (repeat' split) <;> simp

@[simp] theorem Chan.flagRate_keeps (c : Chan) :
    (c.flagRate).ana = c.ana ∧ (c.flagRate).cal = c.cal ∧ (c.flagRate).dof = c.dof ∧ (c.flagRate).dst = c.dst ∧
    (c.flagRate).flt = c.flt ∧ (c.flagRate).jnc = c.jnc ∧ (c.flagRate).mem = c.mem ∧ (c.flagRate).mod = c.mod ∧
    (c.flagRate).seq = c.seq ∧ (c.flagRate).skn = c.skn ∧ (c.flagRate).stq = c.stq ∧ (c.flagRate).syn = c.syn ∧
    (c.flagRate).tdc = c.tdc ∧ (c.flagRate).tlh = c.tlh ∧ (c.flagRate).trk = c.trk := by and_intros <;> rfl

@[simp] theorem Chan.clockStart_keeps (c : Chan) (now : Tbu) (tb : Nat) :
    (c.clockStart now tb).cal = c.cal ∧ (c.clockStart now tb).dof = c.dof ∧ (c.clockStart now tb).dst = c.dst ∧
    (c.clockStart now tb).mem = c.mem ∧ (c.clockStart now tb).mod = c.mod ∧ (c.clockStart now tb).seq = c.seq ∧
    (c.clockStart now tb).skn = c.skn ∧ (c.clockStart now tb).stq = c.stq ∧ (c.clockStart now tb).syn = c.syn ∧
    (c.clockStart now tb).tdc = c.tdc ∧ (c.clockStart now tb).tlh = c.tlh ∧ (c.clockStart now tb).trk = c.trk := by simp only [Chan.clockStart]; (repeat' split) <;> simp

@[simp] theorem Chan.plyRest_keeps (c : Chan) (now : Tbu) :
    (c.plyRest now).ana = c.ana ∧ (c.plyRest now).cal = c.cal ∧ (c.plyRest now).dof = c.dof ∧ (c.plyRest now).dst =
    c.dst ∧ (c.plyRest now).jnc = c.jnc ∧ (c.plyRest now).mem = c.mem ∧ (c.plyRest now).mod = c.mod ∧ (c.plyRest
    now).seq = c.seq ∧ (c.plyRest now).skn = c.skn ∧ (c.plyRest now).stq = c.stq ∧ (c.plyRest now).syn = c.syn ∧
    (c.plyRest now).tdc = c.tdc ∧ (c.plyRest now).tlh = c.tlh ∧ (c.plyRest now).trk = c.trk := by simp only [Chan.plyRest]; (repeat' split) <;> simp

@[simp] theorem Chan.plyQuiet_keeps (c : Chan) (now : Tbu) :
    (Chan.plyQuiet c now).mod = c.mod ∧ (Chan.plyQuiet c now).tlh = c.tlh ∧ (Chan.plyQuiet c now).trk = c.trk ∧
    (Chan.plyQuiet c now).skn = c.skn ∧ (Chan.plyQuiet c now).seq = c.seq ∧ (Chan.plyQuiet c now).dst = c.dst ∧
    (Chan.plyQuiet c now).ana = c.ana ∧ (Chan.plyQuiet c now).syn = c.syn ∧ (Chan.plyQuiet c now).jnc = c.jnc ∧
    (Chan.plyQuiet c now).tdc = c.tdc ∧ (Chan.plyQuiet c now).mem = c.mem ∧ (Chan.plyQuiet c now).stq = c.stq ∧
    (Chan.plyQuiet c now).cal = c.cal ∧ (Chan.plyQuiet c now).dof = c.dof ∧ (Chan.plyQuiet c now).flt = c.flt := by
  and_intros <;> rfl

@[simp] theorem Chan.plyEnd_keeps (c : Chan) (now : Tbu) :
    (c.plyEnd now).mod = c.mod ∧ (c.plyEnd now).tlh = c.tlh ∧ (c.plyEnd now).trk = c.trk ∧ (c.plyEnd now).skn =
    c.skn ∧ (c.plyEnd now).seq = c.seq ∧ (c.plyEnd now).dst = c.dst ∧ (c.plyEnd now).ana = c.ana ∧ (c.plyEnd
    now).syn = c.syn ∧ (c.plyEnd now).jnc = c.jnc ∧ (c.plyEnd now).tdc = c.tdc ∧ (c.plyEnd now).mem = c.mem ∧
    (c.plyEnd now).stq = c.stq ∧ (c.plyEnd now).cal = c.cal ∧ (c.plyEnd now).dof = c.dof ∧ (c.plyEnd now).flt =
    c.flt := by and_intros <;> rfl

@[simp] theorem Chan.plyHeld_keeps (c : Chan) (now : Tbu) (hard : Bool) :
    (c.plyHeld now hard).mod = c.mod ∧ (c.plyHeld now hard).tlh = c.tlh ∧ (c.plyHeld now hard).trk = c.trk ∧
    (c.plyHeld now hard).skn = c.skn ∧ (c.plyHeld now hard).seq = c.seq ∧ (c.plyHeld now hard).dst = c.dst ∧
    (c.plyHeld now hard).ana = c.ana ∧ (c.plyHeld now hard).syn = c.syn ∧ (c.plyHeld now hard).jnc = c.jnc ∧
    (c.plyHeld now hard).tdc = c.tdc ∧ (c.plyHeld now hard).mem = c.mem ∧ (c.plyHeld now hard).stq = c.stq ∧
    (c.plyHeld now hard).cal = c.cal ∧ (c.plyHeld now hard).dof = c.dof ∧ (c.plyHeld now hard).flt = c.flt := by simp only [Chan.plyHeld]; (repeat' split) <;> simp

@[simp] theorem Chan.plyDrain_keeps (c : Chan) (now : Tbu) (done : Bool) :
    (c.plyDrain now done).mod = c.mod ∧ (c.plyDrain now done).tlh = c.tlh ∧ (c.plyDrain now done).trk = c.trk ∧
    (c.plyDrain now done).skn = c.skn ∧ (c.plyDrain now done).seq = c.seq ∧ (c.plyDrain now done).dst = c.dst ∧
    (c.plyDrain now done).ana = c.ana ∧ (c.plyDrain now done).syn = c.syn ∧ (c.plyDrain now done).jnc = c.jnc ∧
    (c.plyDrain now done).tdc = c.tdc ∧ (c.plyDrain now done).mem = c.mem ∧ (c.plyDrain now done).stq = c.stq ∧
    (c.plyDrain now done).cal = c.cal ∧ (c.plyDrain now done).dof = c.dof ∧ (c.plyDrain now done).flt = c.flt := by simp only [Chan.plyDrain]; (repeat' split) <;> simp

@[simp] theorem Chan.plyArm_keeps (c : Chan) :
    (c.plyArm).ana = c.ana ∧ (c.plyArm).cal = c.cal ∧ (c.plyArm).dof = c.dof ∧ (c.plyArm).dst = c.dst ∧ (c.plyArm).flt
    = c.flt ∧ (c.plyArm).jnc = c.jnc ∧ (c.plyArm).mem = c.mem ∧ (c.plyArm).mod = c.mod ∧ (c.plyArm).seq = c.seq ∧
    (c.plyArm).skn = c.skn ∧ (c.plyArm).stq = c.stq ∧ (c.plyArm).syn = c.syn ∧ (c.plyArm).tdc = c.tdc ∧ (c.plyArm).tlh
    = c.tlh ∧ (c.plyArm).trk = c.trk := by and_intros <;> rfl

@[simp] theorem Chan.unhold_keeps (c : Chan) (ls : List Nat) :
    (c.unhold ls).ana = c.ana ∧ (c.unhold ls).cal = c.cal ∧ (c.unhold ls).dof = c.dof ∧ (c.unhold ls).dst = c.dst ∧
    (c.unhold ls).flt = c.flt ∧ (c.unhold ls).jnc = c.jnc ∧ (c.unhold ls).mod = c.mod ∧ (c.unhold ls).ply = c.ply ∧
    (c.unhold ls).seq = c.seq ∧ (c.unhold ls).skn = c.skn ∧ (c.unhold ls).stq = c.stq ∧ (c.unhold ls).syn = c.syn ∧
    (c.unhold ls).tdc = c.tdc ∧ (c.unhold ls).tlh = c.tlh ∧ (c.unhold ls).trk = c.trk := by and_intros <;> rfl

@[simp] theorem Chan.withdrawStart_keeps (c : Chan) :
    (c.withdrawStart).ana = c.ana ∧ (c.withdrawStart).cal = c.cal ∧ (c.withdrawStart).dof = c.dof ∧
    (c.withdrawStart).dst = c.dst ∧ (c.withdrawStart).flt = c.flt ∧ (c.withdrawStart).jnc = c.jnc ∧
    (c.withdrawStart).mem = c.mem ∧ (c.withdrawStart).mod = c.mod ∧ (c.withdrawStart).ply = c.ply ∧
    (c.withdrawStart).skn = c.skn ∧ (c.withdrawStart).stq = c.stq ∧ (c.withdrawStart).syn = c.syn ∧
    (c.withdrawStart).tdc = c.tdc ∧ (c.withdrawStart).tlh = c.tlh := by and_intros <;> rfl

@[simp] theorem Chan.releaseGrant_keeps (c : Chan) :
    (c.releaseGrant).ana = c.ana ∧ (c.releaseGrant).cal = c.cal ∧ (c.releaseGrant).dof = c.dof ∧ (c.releaseGrant).dst
    = c.dst ∧ (c.releaseGrant).flt = c.flt ∧ (c.releaseGrant).jnc = c.jnc ∧ (c.releaseGrant).mem = c.mem ∧
    (c.releaseGrant).mod = c.mod ∧ (c.releaseGrant).ply = c.ply ∧ (c.releaseGrant).seq = c.seq ∧ (c.releaseGrant).skn
    = c.skn ∧ (c.releaseGrant).stq = c.stq ∧ (c.releaseGrant).syn = c.syn ∧ (c.releaseGrant).tdc = c.tdc ∧
    (c.releaseGrant).trk = c.trk := by and_intros <;> rfl

@[simp] theorem Chan.unpend_keeps (c : Chan) :
    (c.unpend).ana = c.ana ∧ (c.unpend).cal = c.cal ∧ (c.unpend).dof = c.dof ∧ (c.unpend).dst = c.dst ∧ (c.unpend).flt
    = c.flt ∧ (c.unpend).jnc = c.jnc ∧ (c.unpend).mem = c.mem ∧ (c.unpend).ply = c.ply ∧ (c.unpend).seq = c.seq ∧
    (c.unpend).skn = c.skn ∧ (c.unpend).stq = c.stq ∧ (c.unpend).syn = c.syn ∧ (c.unpend).tdc = c.tdc ∧ (c.unpend).trk
    = c.trk := by simp only [Chan.unpend]; (repeat' split) <;> simp

@[simp] theorem Chan.dropStart_keeps (c : Chan) :
    (c.dropStart).ana = c.ana ∧ (c.dropStart).cal = c.cal ∧ (c.dropStart).dof = c.dof ∧ (c.dropStart).dst = c.dst ∧
    (c.dropStart).flt = c.flt ∧ (c.dropStart).jnc = c.jnc ∧ (c.dropStart).mem = c.mem ∧ (c.dropStart).ply = c.ply ∧
    (c.dropStart).skn = c.skn ∧ (c.dropStart).stq = c.stq ∧ (c.dropStart).syn = c.syn ∧ (c.dropStart).tdc = c.tdc := by simp only [Chan.dropStart]; (repeat' split) <;> simp

@[simp] theorem Chan.dropEvents_keeps (c : Chan) :
    (c.dropEvents).ana = c.ana ∧ (c.dropEvents).cal = c.cal ∧ (c.dropEvents).dof = c.dof ∧ (c.dropEvents).dst = c.dst
    ∧ (c.dropEvents).flt = c.flt ∧ (c.dropEvents).jnc = c.jnc ∧ (c.dropEvents).mem = c.mem ∧ (c.dropEvents).mod =
    c.mod ∧ (c.dropEvents).ply = c.ply ∧ (c.dropEvents).seq = c.seq ∧ (c.dropEvents).skn = c.skn ∧ (c.dropEvents).stq
    = c.stq ∧ (c.dropEvents).tdc = c.tdc ∧ (c.dropEvents).tlh = c.tlh := by and_intros <;> rfl

@[simp] theorem Chan.drainSteps_keeps (c : Chan) (now : Tbu) (done : Bool) :
    (c.drainSteps now done).skn = c.skn ∧ (c.drainSteps now done).tdc = c.tdc ∧ (c.drainSteps now done).stq = c.stq
    ∧ (c.drainSteps now done).cal = c.cal ∧ (c.drainSteps now done).dof = c.dof ∧ (c.drainSteps now done).flt =
    c.flt := by simp only [Chan.drainSteps]; (repeat' split) <;> simp

@[simp] theorem Chan.restSteps_keeps (c : Chan) (now : Tbu) :
    (c.restSteps now).trk = c.trk ∧ (c.restSteps now).skn = c.skn ∧ (c.restSteps now).syn = c.syn ∧ (c.restSteps
    now).tdc = c.tdc ∧ (c.restSteps now).stq = c.stq ∧ (c.restSteps now).cal = c.cal ∧ (c.restSteps now).dof = c.dof := by simp only [Chan.restSteps]; (repeat' split) <;> simp

@[simp] theorem Chan.latchHoldAt_keeps (c : Chan) (cause : Byte) (k : Nat) :
    (Chan.latchHoldAt c cause k).mod = c.mod ∧ (Chan.latchHoldAt c cause k).tlh = c.tlh ∧ (Chan.latchHoldAt c cause
    k).trk = c.trk ∧ (Chan.latchHoldAt c cause k).skn = c.skn ∧ (Chan.latchHoldAt c cause k).ply = c.ply ∧
    (Chan.latchHoldAt c cause k).dst = c.dst ∧ (Chan.latchHoldAt c cause k).ana = c.ana ∧ (Chan.latchHoldAt c cause
    k).syn = c.syn ∧ (Chan.latchHoldAt c cause k).jnc = c.jnc ∧ (Chan.latchHoldAt c cause k).tdc = c.tdc ∧
    (Chan.latchHoldAt c cause k).mem = c.mem ∧ (Chan.latchHoldAt c cause k).stq = c.stq ∧ (Chan.latchHoldAt c cause
    k).cal = c.cal ∧ (Chan.latchHoldAt c cause k).dof = c.dof ∧ (Chan.latchHoldAt c cause k).flt = c.flt := by
  and_intros <;> rfl

@[simp] theorem Chan.latchHold_keeps (c : Chan) (cause : Byte) (cyc : Nat) :
    (c.latchHold cause cyc).ana = c.ana ∧ (c.latchHold cause cyc).cal = c.cal ∧ (c.latchHold cause cyc).dof = c.dof ∧
    (c.latchHold cause cyc).dst = c.dst ∧ (c.latchHold cause cyc).flt = c.flt ∧ (c.latchHold cause cyc).jnc = c.jnc ∧
    (c.latchHold cause cyc).mem = c.mem ∧ (c.latchHold cause cyc).mod = c.mod ∧ (c.latchHold cause cyc).ply = c.ply ∧
    (c.latchHold cause cyc).skn = c.skn ∧ (c.latchHold cause cyc).stq = c.stq ∧ (c.latchHold cause cyc).syn = c.syn ∧
    (c.latchHold cause cyc).tdc = c.tdc ∧ (c.latchHold cause cyc).tlh = c.tlh ∧ (c.latchHold cause cyc).trk = c.trk := by and_intros <;> rfl

@[simp] theorem Chan.secondCause_keeps (c : Chan) (cause : Byte) :
    (c.secondCause cause).ana = c.ana ∧ (c.secondCause cause).cal = c.cal ∧ (c.secondCause cause).dof = c.dof ∧
    (c.secondCause cause).dst = c.dst ∧ (c.secondCause cause).flt = c.flt ∧ (c.secondCause cause).jnc = c.jnc ∧
    (c.secondCause cause).mem = c.mem ∧ (c.secondCause cause).ply = c.ply ∧ (c.secondCause cause).skn = c.skn ∧
    (c.secondCause cause).stq = c.stq ∧ (c.secondCause cause).syn = c.syn ∧ (c.secondCause cause).tdc = c.tdc := by simp only [Chan.secondCause]; (repeat' split) <;> simp

@[simp] theorem Chan.setSynth_keeps (c : Chan) (i : Fin 4) (x : Synth) :
    (c.setSynth i x).ana = c.ana ∧ (c.setSynth i x).cal = c.cal ∧ (c.setSynth i x).dof = c.dof ∧ (c.setSynth i x).dst
    = c.dst ∧ (c.setSynth i x).flt = c.flt ∧ (c.setSynth i x).jnc = c.jnc ∧ (c.setSynth i x).mem = c.mem ∧ (c.setSynth
    i x).mod = c.mod ∧ (c.setSynth i x).ply = c.ply ∧ (c.setSynth i x).seq = c.seq ∧ (c.setSynth i x).skn = c.skn ∧
    (c.setSynth i x).stq = c.stq ∧ (c.setSynth i x).tdc = c.tdc ∧ (c.setSynth i x).tlh = c.tlh ∧ (c.setSynth i x).trk
    = c.trk := by and_intros <;> rfl

@[simp] theorem Chan.modPair_keeps (c : Chan) (lane : Bool) (f : Pair → Pair) :
    (c.modPair lane f).ana = c.ana ∧ (c.modPair lane f).cal = c.cal ∧ (c.modPair lane f).dof = c.dof ∧ (c.modPair lane
    f).dst = c.dst ∧ (c.modPair lane f).flt = c.flt ∧ (c.modPair lane f).jnc = c.jnc ∧ (c.modPair lane f).mem = c.mem
    ∧ (c.modPair lane f).mod = c.mod ∧ (c.modPair lane f).ply = c.ply ∧ (c.modPair lane f).seq = c.seq ∧ (c.modPair
    lane f).skn = c.skn ∧ (c.modPair lane f).stq = c.stq ∧ (c.modPair lane f).tdc = c.tdc ∧ (c.modPair lane f).tlh =
    c.tlh ∧ (c.modPair lane f).trk = c.trk := by and_intros <;> rfl

@[simp] theorem Chan.synEvent_keeps (c : Chan) (k : Nat) :
    (c.synEvent k).ana = c.ana ∧ (c.synEvent k).cal = c.cal ∧ (c.synEvent k).dof = c.dof ∧ (c.synEvent k).dst = c.dst
    ∧ (c.synEvent k).flt = c.flt ∧ (c.synEvent k).jnc = c.jnc ∧ (c.synEvent k).mem = c.mem ∧ (c.synEvent k).mod =
    c.mod ∧ (c.synEvent k).ply = c.ply ∧ (c.synEvent k).seq = c.seq ∧ (c.synEvent k).skn = c.skn ∧ (c.synEvent k).stq
    = c.stq ∧ (c.synEvent k).tdc = c.tdc ∧ (c.synEvent k).tlh = c.tlh ∧ (c.synEvent k).trk = c.trk := by and_intros <;> rfl

@[simp] theorem Chan.dropEntry_keeps (c : Chan) (i : Fin 4) :
    (c.dropEntry i).ana = c.ana ∧ (c.dropEntry i).cal = c.cal ∧ (c.dropEntry i).dof = c.dof ∧ (c.dropEntry i).dst =
    c.dst ∧ (c.dropEntry i).flt = c.flt ∧ (c.dropEntry i).jnc = c.jnc ∧ (c.dropEntry i).mem = c.mem ∧ (c.dropEntry
    i).mod = c.mod ∧ (c.dropEntry i).ply = c.ply ∧ (c.dropEntry i).seq = c.seq ∧ (c.dropEntry i).skn = c.skn ∧
    (c.dropEntry i).stq = c.stq ∧ (c.dropEntry i).tdc = c.tdc ∧ (c.dropEntry i).tlh = c.tlh ∧ (c.dropEntry i).trk =
    c.trk := by and_intros <;> rfl

@[simp] theorem Chan.dropCover_keeps (c : Chan) (lane : Bool) (j : Fin 4) :
    (c.dropCover lane j).mod = c.mod ∧ (c.dropCover lane j).tlh = c.tlh ∧ (c.dropCover lane j).trk = c.trk ∧
    (c.dropCover lane j).skn = c.skn ∧ (c.dropCover lane j).seq = c.seq ∧ (c.dropCover lane j).ply = c.ply ∧
    (c.dropCover lane j).dst = c.dst ∧ (c.dropCover lane j).ana = c.ana ∧ (c.dropCover lane j).jnc = c.jnc ∧
    (c.dropCover lane j).tdc = c.tdc ∧ (c.dropCover lane j).mem = c.mem ∧ (c.dropCover lane j).stq = c.stq ∧
    (c.dropCover lane j).cal = c.cal ∧ (c.dropCover lane j).dof = c.dof ∧ (c.dropCover lane j).flt = c.flt := by simp only [Chan.dropCover]; (repeat' split) <;> simp

@[simp] theorem Chan.recover_keeps (c : Chan) (lane : Bool) (now : Tbu) :
    (c.recover lane now).ana = c.ana ∧ (c.recover lane now).cal = c.cal ∧ (c.recover lane now).dof = c.dof ∧
    (c.recover lane now).dst = c.dst ∧ (c.recover lane now).jnc = c.jnc ∧ (c.recover lane now).mem = c.mem ∧
    (c.recover lane now).mod = c.mod ∧ (c.recover lane now).ply = c.ply ∧ (c.recover lane now).seq = c.seq ∧
    (c.recover lane now).skn = c.skn ∧ (c.recover lane now).stq = c.stq ∧ (c.recover lane now).tdc = c.tdc ∧
    (c.recover lane now).tlh = c.tlh ∧ (c.recover lane now).trk = c.trk := by simp only [Chan.recover]; (repeat' split) <;> simp

@[simp] theorem Chan.ceilSearch_keeps (c : Chan) (i : Fin 4) (now : Tbu) :
    (c.ceilSearch i now).mod = c.mod ∧ (c.ceilSearch i now).tlh = c.tlh ∧ (c.ceilSearch i now).trk = c.trk ∧
    (c.ceilSearch i now).skn = c.skn ∧ (c.ceilSearch i now).seq = c.seq ∧ (c.ceilSearch i now).ply = c.ply ∧
    (c.ceilSearch i now).dst = c.dst ∧ (c.ceilSearch i now).ana = c.ana ∧ (c.ceilSearch i now).jnc = c.jnc ∧
    (c.ceilSearch i now).tdc = c.tdc ∧ (c.ceilSearch i now).mem = c.mem ∧ (c.ceilSearch i now).stq = c.stq ∧
    (c.ceilSearch i now).cal = c.cal ∧ (c.ceilSearch i now).dof = c.dof := by simp only [Chan.ceilSearch]; (repeat' split) <;> simp

@[simp] theorem Chan.synFlags_keeps (c : Chan) :
    (c.synFlags).ana = c.ana ∧ (c.synFlags).cal = c.cal ∧ (c.synFlags).dof = c.dof ∧ (c.synFlags).dst = c.dst ∧
    (c.synFlags).jnc = c.jnc ∧ (c.synFlags).mem = c.mem ∧ (c.synFlags).mod = c.mod ∧ (c.synFlags).ply = c.ply ∧
    (c.synFlags).seq = c.seq ∧ (c.synFlags).skn = c.skn ∧ (c.synFlags).stq = c.stq ∧ (c.synFlags).syn = c.syn ∧
    (c.synFlags).tdc = c.tdc ∧ (c.synFlags).tlh = c.tlh ∧ (c.synFlags).trk = c.trk := by and_intros <;> rfl

@[simp] theorem Chan.closeGate_keeps (c : Chan) (i : Fin 4) (now : Tbu) (ref : Bool) :
    (Chan.closeGate c i now ref).mod = c.mod ∧ (Chan.closeGate c i now ref).tlh = c.tlh ∧ (Chan.closeGate c i now
    ref).trk = c.trk ∧ (Chan.closeGate c i now ref).skn = c.skn ∧ (Chan.closeGate c i now ref).seq = c.seq ∧
    (Chan.closeGate c i now ref).ana = c.ana ∧ (Chan.closeGate c i now ref).tdc = c.tdc ∧ (Chan.closeGate c i now
    ref).mem = c.mem ∧ (Chan.closeGate c i now ref).stq = c.stq ∧ (Chan.closeGate c i now ref).dof = c.dof ∧
    (Chan.closeGate c i now ref).flt = c.flt := by simp only [Chan.closeGate]; (repeat' split) <;> simp

@[simp] theorem Chan.powerDown_keeps (c : Chan) (i : Fin 4) (now : Tbu) :
    (Chan.powerDown c i now).mod = c.mod ∧ (Chan.powerDown c i now).tlh = c.tlh ∧ (Chan.powerDown c i now).trk =
    c.trk ∧ (Chan.powerDown c i now).skn = c.skn ∧ (Chan.powerDown c i now).seq = c.seq ∧ (Chan.powerDown c i
    now).ana = c.ana ∧ (Chan.powerDown c i now).tdc = c.tdc ∧ (Chan.powerDown c i now).mem = c.mem ∧ (Chan.powerDown
    c i now).stq = c.stq ∧ (Chan.powerDown c i now).dof = c.dof ∧ (Chan.powerDown c i now).flt = c.flt := by simp only [Chan.powerDown]; (repeat' split) <;> simp

@[simp] theorem Chan.powerOff_keeps (c : Chan) (i : Fin 4) (now : Tbu) :
    (Chan.powerOff c i now).mod = c.mod ∧ (Chan.powerOff c i now).tlh = c.tlh ∧ (Chan.powerOff c i now).trk = c.trk
    ∧ (Chan.powerOff c i now).skn = c.skn ∧ (Chan.powerOff c i now).seq = c.seq ∧ (Chan.powerOff c i now).ana =
    c.ana ∧ (Chan.powerOff c i now).tdc = c.tdc ∧ (Chan.powerOff c i now).mem = c.mem ∧ (Chan.powerOff c i now).stq
    = c.stq ∧ (Chan.powerOff c i now).dof = c.dof ∧ (Chan.powerOff c i now).flt = c.flt := by simp only [Chan.powerOff]; (repeat' split) <;> simp

@[simp] theorem Chan.cancelPrepare_keeps (c : Chan) (lane : Bool) :
    (c.cancelPrepare lane).ana = c.ana ∧ (c.cancelPrepare lane).cal = c.cal ∧ (c.cancelPrepare lane).dof = c.dof ∧
    (c.cancelPrepare lane).dst = c.dst ∧ (c.cancelPrepare lane).flt = c.flt ∧ (c.cancelPrepare lane).jnc = c.jnc ∧
    (c.cancelPrepare lane).mem = c.mem ∧ (c.cancelPrepare lane).mod = c.mod ∧ (c.cancelPrepare lane).ply = c.ply ∧
    (c.cancelPrepare lane).seq = c.seq ∧ (c.cancelPrepare lane).skn = c.skn ∧ (c.cancelPrepare lane).stq = c.stq ∧
    (c.cancelPrepare lane).tdc = c.tdc ∧ (c.cancelPrepare lane).tlh = c.tlh := by simp only [Chan.cancelPrepare]; (repeat' split) <;> simp

@[simp] theorem Chan.tuneTo_keeps (c : Chan) (i : Fin 4) (why : TuneFor) (setting : Word) (fresh ref : Bool) (now : Tbu) :
    (c.tuneTo i why setting fresh ref now).ana = c.ana ∧ (c.tuneTo i why setting fresh ref now).cal = c.cal ∧
    (c.tuneTo i why setting fresh ref now).dof = c.dof ∧ (c.tuneTo i why setting fresh ref now).dst = c.dst ∧
    (c.tuneTo i why setting fresh ref now).flt = c.flt ∧ (c.tuneTo i why setting fresh ref now).jnc = c.jnc ∧
    (c.tuneTo i why setting fresh ref now).mem = c.mem ∧ (c.tuneTo i why setting fresh ref now).mod = c.mod ∧
    (c.tuneTo i why setting fresh ref now).ply = c.ply ∧ (c.tuneTo i why setting fresh ref now).seq = c.seq ∧
    (c.tuneTo i why setting fresh ref now).skn = c.skn ∧ (c.tuneTo i why setting fresh ref now).stq = c.stq ∧
    (c.tuneTo i why setting fresh ref now).tdc = c.tdc ∧ (c.tuneTo i why setting fresh ref now).tlh = c.tlh ∧
    (c.tuneTo i why setting fresh ref now).trk = c.trk := by simp only [Chan.tuneTo]; (repeat' split) <;> simp

@[simp] theorem Chan.spareState_keeps (c : Chan) (lane : Bool) (now : Tbu) :
    (Chan.spareState c lane now).mod = c.mod ∧ (Chan.spareState c lane now).tlh = c.tlh ∧ (Chan.spareState c lane
    now).trk = c.trk ∧ (Chan.spareState c lane now).skn = c.skn ∧ (Chan.spareState c lane now).seq = c.seq ∧
    (Chan.spareState c lane now).ana = c.ana ∧ (Chan.spareState c lane now).tdc = c.tdc ∧ (Chan.spareState c lane
    now).mem = c.mem ∧ (Chan.spareState c lane now).stq = c.stq ∧ (Chan.spareState c lane now).dof = c.dof ∧
    (Chan.spareState c lane now).flt = c.flt := by simp only [Chan.spareState]; (repeat' split) <;> simp

@[simp] theorem Chan.qualified_keeps (c : Chan) (i : Fin 4) (band : Byte) (kHz : Nat) (now : Tbu) :
    (Chan.qualified c i band kHz now).mod = c.mod ∧ (Chan.qualified c i band kHz now).tlh = c.tlh ∧ (Chan.qualified
    c i band kHz now).trk = c.trk ∧ (Chan.qualified c i band kHz now).skn = c.skn ∧ (Chan.qualified c i band kHz
    now).seq = c.seq ∧ (Chan.qualified c i band kHz now).ana = c.ana ∧ (Chan.qualified c i band kHz now).tdc = c.tdc
    ∧ (Chan.qualified c i band kHz now).mem = c.mem ∧ (Chan.qualified c i band kHz now).stq = c.stq ∧
    (Chan.qualified c i band kHz now).dof = c.dof := by simp only [Chan.qualified]; (repeat' split) <;> simp

@[simp] theorem Chan.abandon_keeps (c : Chan) (lane : Bool) :
    (c.abandon lane).ana = c.ana ∧ (c.abandon lane).cal = c.cal ∧ (c.abandon lane).dof = c.dof ∧ (c.abandon lane).dst
    = c.dst ∧ (c.abandon lane).flt = c.flt ∧ (c.abandon lane).jnc = c.jnc ∧ (c.abandon lane).mem = c.mem ∧ (c.abandon
    lane).mod = c.mod ∧ (c.abandon lane).ply = c.ply ∧ (c.abandon lane).seq = c.seq ∧ (c.abandon lane).skn = c.skn ∧
    (c.abandon lane).stq = c.stq ∧ (c.abandon lane).tdc = c.tdc ∧ (c.abandon lane).tlh = c.tlh := by simp only [Chan.abandon]; (repeat' split) <;> simp

@[simp] theorem Chan.failSynth_keeps (c : Chan) (i : Fin 4) (now : Tbu) :
    (Chan.failSynth c i now).mod = c.mod ∧ (Chan.failSynth c i now).tlh = c.tlh ∧ (Chan.failSynth c i now).trk =
    c.trk ∧ (Chan.failSynth c i now).skn = c.skn ∧ (Chan.failSynth c i now).seq = c.seq ∧ (Chan.failSynth c i
    now).ana = c.ana ∧ (Chan.failSynth c i now).tdc = c.tdc ∧ (Chan.failSynth c i now).mem = c.mem ∧ (Chan.failSynth
    c i now).stq = c.stq ∧ (Chan.failSynth c i now).dof = c.dof := by simp only [Chan.failSynth]; (repeat' split) <;> simp

@[simp] theorem Chan.staleBand_keeps (c : Chan) (i : Fin 4) (now : Tbu) :
    (c.staleBand i now).ana = c.ana ∧ (c.staleBand i now).cal = c.cal ∧ (c.staleBand i now).dof = c.dof ∧ (c.staleBand
    i now).dst = c.dst ∧ (c.staleBand i now).jnc = c.jnc ∧ (c.staleBand i now).mem = c.mem ∧ (c.staleBand i now).mod =
    c.mod ∧ (c.staleBand i now).ply = c.ply ∧ (c.staleBand i now).seq = c.seq ∧ (c.staleBand i now).skn = c.skn ∧
    (c.staleBand i now).stq = c.stq ∧ (c.staleBand i now).tdc = c.tdc ∧ (c.staleBand i now).tlh = c.tlh ∧ (c.staleBand
    i now).trk = c.trk := by simp only [Chan.staleBand]; (repeat' split) <;> simp

@[simp] theorem Chan.putAligned_keeps (c : Chan) (i : Fin 4) (a : Bool) :
    (Chan.putAligned c i a).mod = c.mod ∧ (Chan.putAligned c i a).tlh = c.tlh ∧ (Chan.putAligned c i a).trk = c.trk
    ∧ (Chan.putAligned c i a).skn = c.skn ∧ (Chan.putAligned c i a).seq = c.seq ∧ (Chan.putAligned c i a).ply =
    c.ply ∧ (Chan.putAligned c i a).dst = c.dst ∧ (Chan.putAligned c i a).ana = c.ana ∧ (Chan.putAligned c i a).jnc
    = c.jnc ∧ (Chan.putAligned c i a).tdc = c.tdc ∧ (Chan.putAligned c i a).mem = c.mem ∧ (Chan.putAligned c i
    a).stq = c.stq ∧ (Chan.putAligned c i a).cal = c.cal ∧ (Chan.putAligned c i a).dof = c.dof ∧ (Chan.putAligned c
    i a).flt = c.flt := by
  simp only [Chan.putAligned]
  (repeat' split) <;> simp

@[simp] theorem Chan.openGate_keeps (c : Chan) (i : Fin 4) (now : Tbu) (tb : Nat) :
    (Chan.openGate c i now tb).mod = c.mod ∧ (Chan.openGate c i now tb).tlh = c.tlh ∧ (Chan.openGate c i now tb).trk
    = c.trk ∧ (Chan.openGate c i now tb).skn = c.skn ∧ (Chan.openGate c i now tb).seq = c.seq ∧ (Chan.openGate c i
    now tb).tdc = c.tdc ∧ (Chan.openGate c i now tb).mem = c.mem ∧ (Chan.openGate c i now tb).stq = c.stq ∧
    (Chan.openGate c i now tb).cal = c.cal ∧ (Chan.openGate c i now tb).dof = c.dof := by simp only [Chan.openGate]; (repeat' split) <;> simp

@[simp] theorem Chan.muxTo_keeps (c : Chan) (lane : Bool) (now : Tbu) (tb : Nat) :
    (Chan.muxTo c lane now tb).mod = c.mod ∧ (Chan.muxTo c lane now tb).tlh = c.tlh ∧ (Chan.muxTo c lane now tb).trk
    = c.trk ∧ (Chan.muxTo c lane now tb).skn = c.skn ∧ (Chan.muxTo c lane now tb).seq = c.seq ∧ (Chan.muxTo c lane
    now tb).tdc = c.tdc ∧ (Chan.muxTo c lane now tb).mem = c.mem ∧ (Chan.muxTo c lane now tb).stq = c.stq ∧
    (Chan.muxTo c lane now tb).cal = c.cal ∧ (Chan.muxTo c lane now tb).dof = c.dof := by simp only [Chan.muxTo]; (repeat' split) <;> simp

@[simp] theorem Chan.synResult_keeps (c : Chan) (lane : Bool) (cmd code : Nat) :
    (c.synResult lane cmd code).ana = c.ana ∧ (c.synResult lane cmd code).cal = c.cal ∧ (c.synResult lane cmd
    code).dof = c.dof ∧ (c.synResult lane cmd code).dst = c.dst ∧ (c.synResult lane cmd code).flt = c.flt ∧
    (c.synResult lane cmd code).jnc = c.jnc ∧ (c.synResult lane cmd code).mem = c.mem ∧ (c.synResult lane cmd
    code).mod = c.mod ∧ (c.synResult lane cmd code).ply = c.ply ∧ (c.synResult lane cmd code).seq = c.seq ∧
    (c.synResult lane cmd code).skn = c.skn ∧ (c.synResult lane cmd code).stq = c.stq ∧ (c.synResult lane cmd
    code).tdc = c.tdc ∧ (c.synResult lane cmd code).tlh = c.tlh ∧ (c.synResult lane cmd code).trk = c.trk := by and_intros <;> rfl

@[simp] theorem Chan.pairRefLost_keeps (c : Chan) (lane : Bool) :
    (c.pairRefLost lane).ana = c.ana ∧ (c.pairRefLost lane).cal = c.cal ∧ (c.pairRefLost lane).dof = c.dof ∧
    (c.pairRefLost lane).dst = c.dst ∧ (c.pairRefLost lane).flt = c.flt ∧ (c.pairRefLost lane).jnc = c.jnc ∧
    (c.pairRefLost lane).mem = c.mem ∧ (c.pairRefLost lane).mod = c.mod ∧ (c.pairRefLost lane).ply = c.ply ∧
    (c.pairRefLost lane).seq = c.seq ∧ (c.pairRefLost lane).skn = c.skn ∧ (c.pairRefLost lane).stq = c.stq ∧
    (c.pairRefLost lane).tdc = c.tdc ∧ (c.pairRefLost lane).tlh = c.tlh ∧ (c.pairRefLost lane).trk = c.trk := by and_intros <;> rfl

@[simp] theorem Chan.synRefLost_keeps (c : Chan) :
    (c.synRefLost).ana = c.ana ∧ (c.synRefLost).cal = c.cal ∧ (c.synRefLost).dof = c.dof ∧ (c.synRefLost).dst = c.dst
    ∧ (c.synRefLost).flt = c.flt ∧ (c.synRefLost).jnc = c.jnc ∧ (c.synRefLost).mem = c.mem ∧ (c.synRefLost).mod =
    c.mod ∧ (c.synRefLost).ply = c.ply ∧ (c.synRefLost).seq = c.seq ∧ (c.synRefLost).skn = c.skn ∧ (c.synRefLost).stq
    = c.stq ∧ (c.synRefLost).tdc = c.tdc ∧ (c.synRefLost).tlh = c.tlh ∧ (c.synRefLost).trk = c.trk := by simp [Chan.synRefLost]

@[simp] theorem Chan.laneRetune_keeps (c : Chan) (i : Fin 4) (why : TuneFor) (now : Tbu) :
    (Chan.laneRetune c i why now).mod = c.mod ∧ (Chan.laneRetune c i why now).tlh = c.tlh ∧ (Chan.laneRetune c i why
    now).trk = c.trk ∧ (Chan.laneRetune c i why now).skn = c.skn ∧ (Chan.laneRetune c i why now).seq = c.seq ∧
    (Chan.laneRetune c i why now).ana = c.ana ∧ (Chan.laneRetune c i why now).tdc = c.tdc ∧ (Chan.laneRetune c i why
    now).mem = c.mem ∧ (Chan.laneRetune c i why now).stq = c.stq ∧ (Chan.laneRetune c i why now).dof = c.dof := by
  simp only [Chan.laneRetune]
  (repeat' split) <;> simp

@[simp] theorem Chan.laneStep_keeps (c : Chan) (now : Tbu) :
    (Chan.laneStep c now).mod = c.mod ∧ (Chan.laneStep c now).tlh = c.tlh ∧ (Chan.laneStep c now).trk = c.trk ∧
    (Chan.laneStep c now).skn = c.skn ∧ (Chan.laneStep c now).seq = c.seq ∧ (Chan.laneStep c now).ana = c.ana ∧
    (Chan.laneStep c now).tdc = c.tdc ∧ (Chan.laneStep c now).mem = c.mem ∧ (Chan.laneStep c now).stq = c.stq ∧
    (Chan.laneStep c now).dof = c.dof := by simp only [Chan.laneStep]; (repeat' split) <;> simp

@[simp] theorem Chan.segRead_keeps (c : Chan) :
    (c.segRead).ana = c.ana ∧ (c.segRead).cal = c.cal ∧ (c.segRead).dof = c.dof ∧ (c.segRead).dst = c.dst ∧
    (c.segRead).flt = c.flt ∧ (c.segRead).jnc = c.jnc ∧ (c.segRead).mem = c.mem ∧ (c.segRead).mod = c.mod ∧
    (c.segRead).ply = c.ply ∧ (c.segRead).skn = c.skn ∧ (c.segRead).stq = c.stq ∧ (c.segRead).syn = c.syn ∧
    (c.segRead).tdc = c.tdc ∧ (c.segRead).tlh = c.tlh ∧ (c.segRead).trk = c.trk := by and_intros <;> rfl

@[simp] theorem Chan.segWrite_keeps (c : Chan) :
    (c.segWrite).ana = c.ana ∧ (c.segWrite).cal = c.cal ∧ (c.segWrite).dof = c.dof ∧ (c.segWrite).dst = c.dst ∧
    (c.segWrite).flt = c.flt ∧ (c.segWrite).jnc = c.jnc ∧ (c.segWrite).mem = c.mem ∧ (c.segWrite).mod = c.mod ∧
    (c.segWrite).ply = c.ply ∧ (c.segWrite).skn = c.skn ∧ (c.segWrite).stq = c.stq ∧ (c.segWrite).syn = c.syn ∧
    (c.segWrite).tdc = c.tdc ∧ (c.segWrite).tlh = c.tlh ∧ (c.segWrite).trk = c.trk := by simp only [Chan.segWrite]; (repeat' split) <;> simp

@[simp] theorem Chan.waypointWrite_keeps (c : Chan) (w : WpId) (k : Fin 4) (v : Word) :
    (c.waypointWrite w k v).1.ana = c.ana ∧ (c.waypointWrite w k v).1.cal = c.cal ∧ (c.waypointWrite w k v).1.dof =
    c.dof ∧ (c.waypointWrite w k v).1.dst = c.dst ∧ (c.waypointWrite w k v).1.flt = c.flt ∧ (c.waypointWrite w k
    v).1.jnc = c.jnc ∧ (c.waypointWrite w k v).1.mem = c.mem ∧ (c.waypointWrite w k v).1.mod = c.mod ∧
    (c.waypointWrite w k v).1.ply = c.ply ∧ (c.waypointWrite w k v).1.skn = c.skn ∧ (c.waypointWrite w k v).1.stq =
    c.stq ∧ (c.waypointWrite w k v).1.syn = c.syn ∧ (c.waypointWrite w k v).1.tdc = c.tdc ∧ (c.waypointWrite w k
    v).1.tlh = c.tlh ∧ (c.waypointWrite w k v).1.trk = c.trk := by simp only [Chan.waypointWrite]; (repeat' split) <;> simp

@[simp] theorem Chan.request_keeps (c : Chan) (r : Req) (cyc : Nat) :
    (c.request r cyc).ana = c.ana ∧ (c.request r cyc).cal = c.cal ∧ (c.request r cyc).dof = c.dof ∧ (c.request r
    cyc).dst = c.dst ∧ (c.request r cyc).flt = c.flt ∧ (c.request r cyc).jnc = c.jnc ∧ (c.request r cyc).mem = c.mem ∧
    (c.request r cyc).mod = c.mod ∧ (c.request r cyc).ply = c.ply ∧ (c.request r cyc).skn = c.skn ∧ (c.request r
    cyc).stq = c.stq ∧ (c.request r cyc).syn = c.syn ∧ (c.request r cyc).tdc = c.tdc ∧ (c.request r cyc).tlh = c.tlh ∧
    (c.request r cyc).trk = c.trk := by simp only [Chan.request]; (repeat' split) <;> simp

@[simp] theorem Chan.hostJump_keeps (c : Chan) (target : WpId) (cyc : Nat) :
    (c.hostJump target cyc).ana = c.ana ∧ (c.hostJump target cyc).cal = c.cal ∧ (c.hostJump target cyc).dof = c.dof ∧
    (c.hostJump target cyc).dst = c.dst ∧ (c.hostJump target cyc).flt = c.flt ∧ (c.hostJump target cyc).jnc = c.jnc ∧
    (c.hostJump target cyc).mem = c.mem ∧ (c.hostJump target cyc).mod = c.mod ∧ (c.hostJump target cyc).ply = c.ply ∧
    (c.hostJump target cyc).skn = c.skn ∧ (c.hostJump target cyc).stq = c.stq ∧ (c.hostJump target cyc).syn = c.syn ∧
    (c.hostJump target cyc).tdc = c.tdc ∧ (c.hostJump target cyc).tlh = c.tlh ∧ (c.hostJump target cyc).trk = c.trk := by simp only [Chan.hostJump]; (repeat' split) <;> simp

@[simp] theorem Chan.gateHop_keeps (c : Chan) (cyc : Nat) (x : Succ) :
    (c.gateHop cyc x).ana = c.ana ∧ (c.gateHop cyc x).cal = c.cal ∧ (c.gateHop cyc x).dof = c.dof ∧ (c.gateHop cyc
    x).dst = c.dst ∧ (c.gateHop cyc x).flt = c.flt ∧ (c.gateHop cyc x).jnc = c.jnc ∧ (c.gateHop cyc x).mem = c.mem ∧
    (c.gateHop cyc x).mod = c.mod ∧ (c.gateHop cyc x).seq = c.seq ∧ (c.gateHop cyc x).skn = c.skn ∧ (c.gateHop cyc
    x).stq = c.stq ∧ (c.gateHop cyc x).syn = c.syn ∧ (c.gateHop cyc x).tdc = c.tdc ∧ (c.gateHop cyc x).tlh = c.tlh ∧
    (c.gateHop cyc x).trk = c.trk := by simp only [Chan.gateHop]; (repeat' split) <;> simp

@[simp] theorem Chan.layPass_keeps (c : Chan) (prof : BitVec 4) (at' : Inst) (pos : Option Word) (prevLen : Nat) (cont : Bool) :
    (Chan.layPass c prof at' pos prevLen cont).mod = c.mod ∧ (Chan.layPass c prof at' pos prevLen cont).tlh = c.tlh
    ∧ (Chan.layPass c prof at' pos prevLen cont).trk = c.trk ∧ (Chan.layPass c prof at' pos prevLen cont).skn =
    c.skn ∧ (Chan.layPass c prof at' pos prevLen cont).seq = c.seq ∧ (Chan.layPass c prof at' pos prevLen cont).dst
    = c.dst ∧ (Chan.layPass c prof at' pos prevLen cont).ana = c.ana ∧ (Chan.layPass c prof at' pos prevLen
    cont).syn = c.syn ∧ (Chan.layPass c prof at' pos prevLen cont).jnc = c.jnc ∧ (Chan.layPass c prof at' pos
    prevLen cont).tdc = c.tdc ∧ (Chan.layPass c prof at' pos prevLen cont).mem = c.mem ∧ (Chan.layPass c prof at'
    pos prevLen cont).stq = c.stq ∧ (Chan.layPass c prof at' pos prevLen cont).cal = c.cal ∧ (Chan.layPass c prof
    at' pos prevLen cont).dof = c.dof ∧ (Chan.layPass c prof at' pos prevLen cont).flt = c.flt := by
  and_intros <;> rfl

@[simp] theorem Chan.beginPass_keeps (c : Chan) (now : Tbu) (x : Succ) (at' : Inst) (pos : Option Word) (cont : Bool) :
    (c.beginPass now x at' pos cont).mod = c.mod ∧ (c.beginPass now x at' pos cont).tlh = c.tlh ∧ (c.beginPass now x
    at' pos cont).skn = c.skn ∧ (c.beginPass now x at' pos cont).dst = c.dst ∧ (c.beginPass now x at' pos cont).ana
    = c.ana ∧ (c.beginPass now x at' pos cont).syn = c.syn ∧ (c.beginPass now x at' pos cont).tdc = c.tdc ∧
    (c.beginPass now x at' pos cont).cal = c.cal ∧ (c.beginPass now x at' pos cont).dof = c.dof ∧ (c.beginPass now x
    at' pos cont).flt = c.flt := by
  simp only [Chan.beginPass]
  simp only [Chan.ite_keeps, Chan.publish_keeps, Chan.noteGaps_keeps, Chan.commitKnots_keeps, Chan.layPass_keeps, Chan.outTo_keeps,
    Chan.usePlayed_keeps, ite_self, and_self]

theorem Chan.beginPass_trk (c : Chan) (now : Tbu) (x : Succ) (at' : Inst) (pos : Option Word) (cont : Bool) :
    ∃ l, (c.beginPass now x at' pos cont).trk = { c.trk with committed := l } := by
  simp only [Chan.beginPass, Chan.ite_keeps, Chan.publish_keeps, Chan.noteGaps_keeps, ite_self]
  split
  · obtain ⟨l, h⟩ := Chan.commitKnots_trk _ knotFuel none
    exact ⟨l, h.trans (by simp)⟩
  · exact ⟨c.trk.committed, by simp⟩

@[simp] theorem Chan.placeStart_keeps (c : Chan) (x : Word) :
    (c.placeStart x).ana = c.ana ∧ (c.placeStart x).cal = c.cal ∧ (c.placeStart x).dof = c.dof ∧ (c.placeStart x).dst
    = c.dst ∧ (c.placeStart x).flt = c.flt ∧ (c.placeStart x).jnc = c.jnc ∧ (c.placeStart x).mem = c.mem ∧
    (c.placeStart x).mod = c.mod ∧ (c.placeStart x).ply = c.ply ∧ (c.placeStart x).skn = c.skn ∧ (c.placeStart x).stq
    = c.stq ∧ (c.placeStart x).syn = c.syn ∧ (c.placeStart x).tdc = c.tdc ∧ (c.placeStart x).tlh = c.tlh := by and_intros <;> rfl

@[simp] theorem Chan.grpRelease_keeps (c : Chan) (by' : BitVec 16) :
    (c.grpRelease by').ana = c.ana ∧ (c.grpRelease by').cal = c.cal ∧ (c.grpRelease by').dof = c.dof ∧ (c.grpRelease
    by').dst = c.dst ∧ (c.grpRelease by').flt = c.flt ∧ (c.grpRelease by').jnc = c.jnc ∧ (c.grpRelease by').mem =
    c.mem ∧ (c.grpRelease by').ply = c.ply ∧ (c.grpRelease by').skn = c.skn ∧ (c.grpRelease by').stq = c.stq ∧
    (c.grpRelease by').syn = c.syn ∧ (c.grpRelease by').tdc = c.tdc := by simp only [Chan.grpRelease]; (repeat' split) <;> simp

@[simp] theorem Chan.armBegin_keeps (c : Chan) (bcast : Bool) :
    (c.armBegin bcast).ana = c.ana ∧ (c.armBegin bcast).cal = c.cal ∧ (c.armBegin bcast).dof = c.dof ∧ (c.armBegin
    bcast).dst = c.dst ∧ (c.armBegin bcast).flt = c.flt ∧ (c.armBegin bcast).jnc = c.jnc ∧ (c.armBegin bcast).mem =
    c.mem ∧ (c.armBegin bcast).ply = c.ply ∧ (c.armBegin bcast).skn = c.skn ∧ (c.armBegin bcast).stq = c.stq ∧
    (c.armBegin bcast).syn = c.syn ∧ (c.armBegin bcast).tdc = c.tdc ∧ (c.armBegin bcast).tlh = c.tlh ∧ (c.armBegin
    bcast).trk = c.trk := by and_intros <;> rfl

@[simp] theorem Chan.startAccept_keeps (c : Chan) (now : Tbu) (tick : Nat) (res : Bool) :
    (c.startAccept now tick res).ana = c.ana ∧ (c.startAccept now tick res).cal = c.cal ∧ (c.startAccept now tick
    res).dof = c.dof ∧ (c.startAccept now tick res).dst = c.dst ∧ (c.startAccept now tick res).flt = c.flt ∧
    (c.startAccept now tick res).jnc = c.jnc ∧ (c.startAccept now tick res).mem = c.mem ∧ (c.startAccept now tick
    res).ply = c.ply ∧ (c.startAccept now tick res).skn = c.skn ∧ (c.startAccept now tick res).stq = c.stq ∧
    (c.startAccept now tick res).syn = c.syn ∧ (c.startAccept now tick res).tdc = c.tdc := by simp only [Chan.startAccept]; (repeat' split) <;> simp

@[simp] theorem Chan.forgetBcast_keeps (c : Chan) :
    (Chan.forgetBcast c).tlh = c.tlh ∧ (Chan.forgetBcast c).trk = c.trk ∧ (Chan.forgetBcast c).skn = c.skn ∧
    (Chan.forgetBcast c).seq = c.seq ∧ (Chan.forgetBcast c).ply = c.ply ∧ (Chan.forgetBcast c).dst = c.dst ∧
    (Chan.forgetBcast c).ana = c.ana ∧ (Chan.forgetBcast c).syn = c.syn ∧ (Chan.forgetBcast c).jnc = c.jnc ∧
    (Chan.forgetBcast c).tdc = c.tdc ∧ (Chan.forgetBcast c).mem = c.mem ∧ (Chan.forgetBcast c).stq = c.stq ∧
    (Chan.forgetBcast c).cal = c.cal ∧ (Chan.forgetBcast c).dof = c.dof ∧ (Chan.forgetBcast c).flt = c.flt := by
  and_intros <;> rfl

@[simp] theorem Chan.lanesLost_keeps (c : Chan) (now : Tbu) :
    (Chan.lanesLost c now).mod = c.mod ∧ (Chan.lanesLost c now).tlh = c.tlh ∧ (Chan.lanesLost c now).trk = c.trk ∧
    (Chan.lanesLost c now).skn = c.skn ∧ (Chan.lanesLost c now).seq = c.seq ∧ (Chan.lanesLost c now).ana = c.ana ∧
    (Chan.lanesLost c now).tdc = c.tdc ∧ (Chan.lanesLost c now).mem = c.mem ∧ (Chan.lanesLost c now).stq = c.stq ∧
    (Chan.lanesLost c now).dof = c.dof ∧ (Chan.lanesLost c now).flt = c.flt := by simp only [Chan.lanesLost]; (repeat' split) <;> simp

@[simp] theorem Chan.losePlace_keeps (c : Chan) :
    (Chan.losePlace c).mod = c.mod ∧ (Chan.losePlace c).tlh = c.tlh ∧ (Chan.losePlace c).skn = c.skn ∧
    (Chan.losePlace c).ply = c.ply ∧ (Chan.losePlace c).dst = c.dst ∧ (Chan.losePlace c).ana = c.ana ∧
    (Chan.losePlace c).syn = c.syn ∧ (Chan.losePlace c).jnc = c.jnc ∧ (Chan.losePlace c).tdc = c.tdc ∧
    (Chan.losePlace c).mem = c.mem ∧ (Chan.losePlace c).stq = c.stq ∧ (Chan.losePlace c).cal = c.cal ∧
    (Chan.losePlace c).dof = c.dof ∧ (Chan.losePlace c).flt = c.flt := by
  simp only [Chan.losePlace]
  (repeat' split) <;> simp

@[simp] theorem Chan.testStart_keeps (c : Chan) :
    (c.testStart).ana = c.ana ∧ (c.testStart).cal = c.cal ∧ (c.testStart).dof = c.dof ∧ (c.testStart).dst = c.dst ∧
    (c.testStart).flt = c.flt ∧ (c.testStart).jnc = c.jnc ∧ (c.testStart).mem = c.mem ∧ (c.testStart).ply = c.ply ∧
    (c.testStart).skn = c.skn ∧ (c.testStart).stq = c.stq ∧ (c.testStart).syn = c.syn ∧ (c.testStart).tdc = c.tdc := by simp only [Chan.testStart]; (repeat' split) <;> simp

@[simp] theorem Chan.lateTarget_keeps (c : Chan) (p : Placed) :
    (c.lateTarget p).cal = c.cal ∧ (c.lateTarget p).dof = c.dof ∧ (c.lateTarget p).dst = c.dst ∧ (c.lateTarget p).flt
    = c.flt ∧ (c.lateTarget p).mem = c.mem ∧ (c.lateTarget p).ply = c.ply ∧ (c.lateTarget p).skn = c.skn ∧
    (c.lateTarget p).stq = c.stq ∧ (c.lateTarget p).tdc = c.tdc := by simp only [Chan.lateTarget]; (repeat' split) <;> simp

@[simp] theorem Chan.lateMember_keeps (c : Chan) (now : Tbu) (ch : ChanId) :
    (c.lateMember now ch).ana = c.ana ∧ (c.lateMember now ch).cal = c.cal ∧ (c.lateMember now ch).dof = c.dof ∧
    (c.lateMember now ch).dst = c.dst ∧ (c.lateMember now ch).flt = c.flt ∧ (c.lateMember now ch).jnc = c.jnc ∧
    (c.lateMember now ch).mem = c.mem ∧ (c.lateMember now ch).ply = c.ply ∧ (c.lateMember now ch).skn = c.skn ∧
    (c.lateMember now ch).stq = c.stq ∧ (c.lateMember now ch).syn = c.syn ∧ (c.lateMember now ch).tdc = c.tdc := by simp only [Chan.lateMember]; (repeat' split) <;> simp

@[simp] theorem Chan.slip_keeps (c : Chan) (cyc : Nat) (pos : Word) :
    (c.slip cyc pos).ana = c.ana ∧ (c.slip cyc pos).cal = c.cal ∧ (c.slip cyc pos).dof = c.dof ∧ (c.slip cyc pos).dst
    = c.dst ∧ (c.slip cyc pos).flt = c.flt ∧ (c.slip cyc pos).mem = c.mem ∧ (c.slip cyc pos).mod = c.mod ∧ (c.slip cyc
    pos).ply = c.ply ∧ (c.slip cyc pos).seq = c.seq ∧ (c.slip cyc pos).skn = c.skn ∧ (c.slip cyc pos).stq = c.stq ∧
    (c.slip cyc pos).syn = c.syn ∧ (c.slip cyc pos).tdc = c.tdc ∧ (c.slip cyc pos).tlh = c.tlh := by simp only [Chan.slip]; (repeat' split) <;> simp

@[simp] theorem Chan.clearing_keeps (c : Chan) (mile : Bool) :
    (c.clearing mile).ana = c.ana ∧ (c.clearing mile).cal = c.cal ∧ (c.clearing mile).dof = c.dof ∧ (c.clearing
    mile).dst = c.dst ∧ (c.clearing mile).flt = c.flt ∧ (c.clearing mile).jnc = c.jnc ∧ (c.clearing mile).mem = c.mem
    ∧ (c.clearing mile).ply = c.ply ∧ (c.clearing mile).skn = c.skn ∧ (c.clearing mile).stq = c.stq ∧ (c.clearing
    mile).syn = c.syn ∧ (c.clearing mile).tdc = c.tdc := by simp only [Chan.clearing]; (repeat' split) <;> simp

@[simp] theorem Chan.castVote_keeps (c : Chan) (now : Tbu) (ch : ChanId) :
    (c.castVote now ch).ana = c.ana ∧ (c.castVote now ch).cal = c.cal ∧ (c.castVote now ch).dof = c.dof ∧ (c.castVote
    now ch).dst = c.dst ∧ (c.castVote now ch).flt = c.flt ∧ (c.castVote now ch).jnc = c.jnc ∧ (c.castVote now ch).mem
    = c.mem ∧ (c.castVote now ch).mod = c.mod ∧ (c.castVote now ch).ply = c.ply ∧ (c.castVote now ch).skn = c.skn ∧
    (c.castVote now ch).stq = c.stq ∧ (c.castVote now ch).syn = c.syn ∧ (c.castVote now ch).tdc = c.tdc ∧ (c.castVote
    now ch).trk = c.trk := by and_intros <;> rfl

@[simp] theorem Chan.takeEvent_keeps (c : Chan) (cyc : Nat) (holdup ref : Bool) (e : Committed) :
    (c.takeEvent cyc holdup ref e).cal = c.cal ∧ (c.takeEvent cyc holdup ref e).dof = c.dof ∧ (c.takeEvent cyc holdup ref e).dst =
    c.dst ∧ (c.takeEvent cyc holdup ref e).flt = c.flt ∧ (c.takeEvent cyc holdup ref e).mem = c.mem ∧ (c.takeEvent cyc holdup ref
    e).mod = c.mod ∧ (c.takeEvent cyc holdup ref e).ply = c.ply ∧ (c.takeEvent cyc holdup ref e).seq = c.seq ∧ (c.takeEvent
    cyc holdup ref e).skn = c.skn ∧ (c.takeEvent cyc holdup ref e).stq = c.stq ∧ (c.takeEvent cyc holdup ref e).tdc = c.tdc ∧
    (c.takeEvent cyc holdup ref e).tlh = c.tlh ∧ (c.takeEvent cyc holdup ref e).trk = c.trk := by simp only [Chan.takeEvent]; (repeat' split) <;> simp

@[simp] theorem Chan.setIn_keeps (c : Chan) (k : Fin 4) (i : TdcIn) :
    (c.setIn k i).ana = c.ana ∧ (c.setIn k i).cal = c.cal ∧ (c.setIn k i).dof = c.dof ∧ (c.setIn k i).dst = c.dst ∧
    (c.setIn k i).flt = c.flt ∧ (c.setIn k i).jnc = c.jnc ∧ (c.setIn k i).mem = c.mem ∧ (c.setIn k i).mod = c.mod ∧
    (c.setIn k i).ply = c.ply ∧ (c.setIn k i).seq = c.seq ∧ (c.setIn k i).skn = c.skn ∧ (c.setIn k i).stq = c.stq ∧
    (c.setIn k i).syn = c.syn ∧ (c.setIn k i).tlh = c.tlh ∧ (c.setIn k i).trk = c.trk := by and_intros <;> rfl

@[simp] theorem Chan.setUnit_keeps (c : Chan) (k : Fin 4) (u : TdcUnit) :
    (c.setUnit k u).ana = c.ana ∧ (c.setUnit k u).cal = c.cal ∧ (c.setUnit k u).dof = c.dof ∧ (c.setUnit k u).dst =
    c.dst ∧ (c.setUnit k u).flt = c.flt ∧ (c.setUnit k u).jnc = c.jnc ∧ (c.setUnit k u).mem = c.mem ∧ (c.setUnit k
    u).mod = c.mod ∧ (c.setUnit k u).ply = c.ply ∧ (c.setUnit k u).seq = c.seq ∧ (c.setUnit k u).skn = c.skn ∧
    (c.setUnit k u).stq = c.stq ∧ (c.setUnit k u).syn = c.syn ∧ (c.setUnit k u).tlh = c.tlh ∧ (c.setUnit k u).trk =
    c.trk := by and_intros <;> rfl

@[simp] theorem Chan.tdcEvent_keeps (c : Chan) (k : Nat) :
    (c.tdcEvent k).ana = c.ana ∧ (c.tdcEvent k).cal = c.cal ∧ (c.tdcEvent k).dof = c.dof ∧ (c.tdcEvent k).dst = c.dst
    ∧ (c.tdcEvent k).flt = c.flt ∧ (c.tdcEvent k).jnc = c.jnc ∧ (c.tdcEvent k).mem = c.mem ∧ (c.tdcEvent k).mod =
    c.mod ∧ (c.tdcEvent k).ply = c.ply ∧ (c.tdcEvent k).seq = c.seq ∧ (c.tdcEvent k).skn = c.skn ∧ (c.tdcEvent k).stq
    = c.stq ∧ (c.tdcEvent k).syn = c.syn ∧ (c.tdcEvent k).tlh = c.tlh ∧ (c.tdcEvent k).trk = c.trk := by and_intros <;> rfl

@[simp] theorem Chan.tdcAbortUnit_keeps (c : Chan) (cyc : Nat) (k : Fin 4) :
    (c.tdcAbortUnit cyc k).ana = c.ana ∧ (c.tdcAbortUnit cyc k).cal = c.cal ∧ (c.tdcAbortUnit cyc k).dof = c.dof ∧
    (c.tdcAbortUnit cyc k).dst = c.dst ∧ (c.tdcAbortUnit cyc k).flt = c.flt ∧ (c.tdcAbortUnit cyc k).jnc = c.jnc ∧
    (c.tdcAbortUnit cyc k).mem = c.mem ∧ (c.tdcAbortUnit cyc k).mod = c.mod ∧ (c.tdcAbortUnit cyc k).ply = c.ply ∧
    (c.tdcAbortUnit cyc k).seq = c.seq ∧ (c.tdcAbortUnit cyc k).skn = c.skn ∧ (c.tdcAbortUnit cyc k).stq = c.stq ∧
    (c.tdcAbortUnit cyc k).syn = c.syn ∧ (c.tdcAbortUnit cyc k).tlh = c.tlh ∧ (c.tdcAbortUnit cyc k).trk = c.trk := by simp only [Chan.tdcAbortUnit]; (repeat' split) <;> simp

@[simp] theorem Chan.finish_keeps (c : Chan) (k : Fin 4) (a : Int) :
    (Chan.finish c k a).mod = c.mod ∧ (Chan.finish c k a).tlh = c.tlh ∧ (Chan.finish c k a).trk = c.trk ∧
    (Chan.finish c k a).skn = c.skn ∧ (Chan.finish c k a).seq = c.seq ∧ (Chan.finish c k a).ply = c.ply ∧
    (Chan.finish c k a).dst = c.dst ∧ (Chan.finish c k a).ana = c.ana ∧ (Chan.finish c k a).syn = c.syn ∧
    (Chan.finish c k a).jnc = c.jnc ∧ (Chan.finish c k a).mem = c.mem ∧ (Chan.finish c k a).stq = c.stq ∧
    (Chan.finish c k a).cal = c.cal ∧ (Chan.finish c k a).dof = c.dof ∧ (Chan.finish c k a).flt = c.flt := by
  and_intros <;> rfl

@[simp] theorem Chan.complete_keeps (c : Chan) (cyc : Nat) (k : Fin 4) (a : Int) :
    (c.complete cyc k a).ana = c.ana ∧ (c.complete cyc k a).cal = c.cal ∧ (c.complete cyc k a).dof = c.dof
    ∧ (c.complete cyc k a).dst = c.dst ∧ (c.complete cyc k a).flt = c.flt ∧ (c.complete cyc k a).mem =
    c.mem ∧ (c.complete cyc k a).mod = c.mod ∧ (c.complete cyc k a).ply = c.ply ∧ (c.complete cyc k a).seq
    = c.seq ∧ (c.complete cyc k a).skn = c.skn ∧ (c.complete cyc k a).stq = c.stq ∧ (c.complete cyc k a).syn = c.syn ∧ (c.complete cyc k a).tlh = c.tlh ∧ (c.complete cyc k a).trk = c.trk := by simp [Chan.complete]

@[simp] theorem Chan.store_keeps (c : Chan) (k : Fin 4) (r : TdcRec) :
    (c.store k r).ana = c.ana ∧ (c.store k r).cal = c.cal ∧ (c.store k r).dof = c.dof ∧ (c.store k r).dst = c.dst ∧
    (c.store k r).flt = c.flt ∧ (c.store k r).jnc = c.jnc ∧ (c.store k r).mem = c.mem ∧ (c.store k r).mod = c.mod ∧
    (c.store k r).ply = c.ply ∧ (c.store k r).seq = c.seq ∧ (c.store k r).skn = c.skn ∧ (c.store k r).stq = c.stq ∧
    (c.store k r).syn = c.syn ∧ (c.store k r).tlh = c.tlh ∧ (c.store k r).trk = c.trk := by simp only [Chan.store]; (repeat' split) <;> simp

@[simp] theorem Chan.freqResult_keeps (c : Chan) (cyc : Nat) (k : Fin 4) (timedOut : Bool) :
    (c.freqResult cyc k timedOut).ana = c.ana ∧ (c.freqResult cyc k timedOut).cal = c.cal ∧ (c.freqResult cyc k
    timedOut).dof = c.dof ∧ (c.freqResult cyc k timedOut).dst = c.dst ∧ (c.freqResult cyc k timedOut).flt = c.flt ∧
    (c.freqResult cyc k timedOut).mem = c.mem ∧ (c.freqResult cyc k timedOut).mod = c.mod ∧ (c.freqResult cyc k
    timedOut).ply = c.ply ∧ (c.freqResult cyc k timedOut).seq = c.seq ∧ (c.freqResult cyc k timedOut).skn = c.skn ∧
    (c.freqResult cyc k timedOut).stq = c.stq ∧ (c.freqResult cyc k timedOut).syn = c.syn ∧ (c.freqResult cyc k
    timedOut).tlh = c.tlh ∧ (c.freqResult cyc k timedOut).trk = c.trk := by simp only [Chan.freqResult]; (repeat' split) <;> simp

@[simp] theorem Chan.pubTimeout_keeps (c : Chan) (cyc : Nat) (k : Fin 4) (i : Int) :
    (c.pubTimeout cyc k i).ana = c.ana ∧ (c.pubTimeout cyc k i).cal = c.cal ∧ (c.pubTimeout cyc k i).dof = c.dof ∧ (c.pubTimeout cyc k
    i).dst = c.dst ∧ (c.pubTimeout cyc k i).flt = c.flt ∧ (c.pubTimeout cyc k i).mem = c.mem ∧ (c.pubTimeout cyc k i).mod = c.mod
    ∧ (c.pubTimeout cyc k i).ply = c.ply ∧ (c.pubTimeout cyc k i).seq = c.seq ∧ (c.pubTimeout cyc k i).skn = c.skn ∧ (c.pubTimeout
    cyc k i).stq = c.stq ∧ (c.pubTimeout cyc k i).syn = c.syn ∧ (c.pubTimeout cyc k i).tlh = c.tlh ∧ (c.pubTimeout cyc k i).trk =
    c.trk := by simp only [Chan.pubTimeout]; (repeat' split) <;> simp

@[simp] theorem Chan.timeOut_keeps (c : Chan) (cyc : Nat) (k : Fin 4) (d : Int) :
    (c.timeOut cyc k d).ana = c.ana ∧ (c.timeOut cyc k d).cal = c.cal ∧ (c.timeOut cyc k d).dof = c.dof ∧ (c.timeOut
    cyc k d).dst = c.dst ∧ (c.timeOut cyc k d).flt = c.flt ∧ (c.timeOut cyc k d).mem = c.mem ∧ (c.timeOut cyc k d).mod
    = c.mod ∧ (c.timeOut cyc k d).ply = c.ply ∧ (c.timeOut cyc k d).seq = c.seq ∧ (c.timeOut cyc k d).skn = c.skn ∧
    (c.timeOut cyc k d).stq = c.stq ∧ (c.timeOut cyc k d).syn = c.syn ∧ (c.timeOut cyc k d).tlh = c.tlh ∧ (c.timeOut
    cyc k d).trk = c.trk := by simp only [Chan.timeOut]; (repeat' split) <;> simp

@[simp] theorem Chan.expire_keeps (c : Chan) (cyc : Nat) (k : Fin 4) (t : Int) :
    (c.expire cyc k t).ana = c.ana ∧ (c.expire cyc k t).cal = c.cal ∧ (c.expire cyc k t).dof = c.dof ∧ (c.expire cyc k
    t).dst = c.dst ∧ (c.expire cyc k t).flt = c.flt ∧ (c.expire cyc k t).mem = c.mem ∧ (c.expire cyc k t).mod = c.mod
    ∧ (c.expire cyc k t).ply = c.ply ∧ (c.expire cyc k t).seq = c.seq ∧ (c.expire cyc k t).skn = c.skn ∧ (c.expire cyc
    k t).stq = c.stq ∧ (c.expire cyc k t).syn = c.syn ∧ (c.expire cyc k t).tlh = c.tlh ∧ (c.expire cyc k t).trk =
    c.trk := by simp only [Chan.expire]; (repeat' split) <;> simp

@[simp] theorem Chan.pairUp_keeps (c : Chan) (cyc : Nat) (k : Fin 4) (s x : Stamp) :
    (c.pairUp cyc k s x).ana = c.ana ∧ (c.pairUp cyc k s x).cal = c.cal ∧ (c.pairUp cyc k s x).dof = c.dof ∧ (c.pairUp
    cyc k s x).dst = c.dst ∧ (c.pairUp cyc k s x).flt = c.flt ∧ (c.pairUp cyc k s x).mem = c.mem ∧ (c.pairUp cyc k s
    x).mod = c.mod ∧ (c.pairUp cyc k s x).ply = c.ply ∧ (c.pairUp cyc k s x).seq = c.seq ∧ (c.pairUp cyc k s x).skn =
    c.skn ∧ (c.pairUp cyc k s x).stq = c.stq ∧ (c.pairUp cyc k s x).syn = c.syn ∧ (c.pairUp cyc k s x).tlh = c.tlh ∧
    (c.pairUp cyc k s x).trk = c.trk := by simp only [Chan.pairUp]; (repeat' split) <;> simp

@[simp] theorem Chan.startEdge_keeps (c : Chan) (cyc : Nat) (k : Fin 4) (x : Stamp) :
    (c.startEdge cyc k x).ana = c.ana ∧ (c.startEdge cyc k x).cal = c.cal ∧ (c.startEdge cyc k x).dof = c.dof ∧
    (c.startEdge cyc k x).dst = c.dst ∧ (c.startEdge cyc k x).flt = c.flt ∧ (c.startEdge cyc k x).mem = c.mem ∧
    (c.startEdge cyc k x).mod = c.mod ∧ (c.startEdge cyc k x).ply = c.ply ∧ (c.startEdge cyc k x).seq = c.seq ∧
    (c.startEdge cyc k x).skn = c.skn ∧ (c.startEdge cyc k x).stq = c.stq ∧ (c.startEdge cyc k x).syn = c.syn ∧
    (c.startEdge cyc k x).tlh = c.tlh ∧ (c.startEdge cyc k x).trk = c.trk := by simp only [Chan.startEdge]; (repeat' split) <;> simp

@[simp] theorem Chan.stopEdge_keeps (c : Chan) (cyc : Nat) (k : Fin 4) (x : Stamp) :
    (c.stopEdge cyc k x).ana = c.ana ∧ (c.stopEdge cyc k x).cal = c.cal ∧ (c.stopEdge cyc k x).dof = c.dof ∧
    (c.stopEdge cyc k x).dst = c.dst ∧ (c.stopEdge cyc k x).flt = c.flt ∧ (c.stopEdge cyc k x).mem = c.mem ∧
    (c.stopEdge cyc k x).mod = c.mod ∧ (c.stopEdge cyc k x).ply = c.ply ∧ (c.stopEdge cyc k x).seq = c.seq ∧
    (c.stopEdge cyc k x).skn = c.skn ∧ (c.stopEdge cyc k x).stq = c.stq ∧ (c.stopEdge cyc k x).syn = c.syn ∧
    (c.stopEdge cyc k x).tlh = c.tlh ∧ (c.stopEdge cyc k x).trk = c.trk := by simp only [Chan.stopEdge]; (repeat' split) <;> simp

@[simp] theorem Chan.unitEdge_keeps (c : Chan) (cyc : Nat) (i k : Fin 4) (x : Stamp) :
    (c.unitEdge cyc i k x).ana = c.ana ∧ (c.unitEdge cyc i k x).cal = c.cal ∧ (c.unitEdge cyc i k x).dof = c.dof ∧
    (c.unitEdge cyc i k x).dst = c.dst ∧ (c.unitEdge cyc i k x).flt = c.flt ∧ (c.unitEdge cyc i k x).mem = c.mem ∧
    (c.unitEdge cyc i k x).mod = c.mod ∧ (c.unitEdge cyc i k x).ply = c.ply ∧ (c.unitEdge cyc i k x).seq = c.seq ∧
    (c.unitEdge cyc i k x).skn = c.skn ∧ (c.unitEdge cyc i k x).stq = c.stq ∧ (c.unitEdge cyc i k x).syn = c.syn ∧
    (c.unitEdge cyc i k x).tlh = c.tlh ∧ (c.unitEdge cyc i k x).trk = c.trk := by simp only [Chan.unitEdge]; (repeat' split) <;> simp

@[simp] theorem Chan.eviEdge_keeps (c : Chan) (k : Fin 4) (rising : Bool) (now : Tbu) (epoch : Option Tbu) (tbinv : Bool) (skew : Int) :
    (c.eviEdge k rising now epoch tbinv skew).ana = c.ana ∧ (c.eviEdge k rising now epoch tbinv skew).cal = c.cal ∧
    (c.eviEdge k rising now epoch tbinv skew).dof = c.dof ∧ (c.eviEdge k rising now epoch tbinv skew).dst = c.dst ∧
    (c.eviEdge k rising now epoch tbinv skew).flt = c.flt ∧ (c.eviEdge k rising now epoch tbinv skew).jnc = c.jnc ∧
    (c.eviEdge k rising now epoch tbinv skew).mem = c.mem ∧ (c.eviEdge k rising now epoch tbinv skew).mod = c.mod ∧
    (c.eviEdge k rising now epoch tbinv skew).ply = c.ply ∧ (c.eviEdge k rising now epoch tbinv skew).seq = c.seq ∧
    (c.eviEdge k rising now epoch tbinv skew).skn = c.skn ∧ (c.eviEdge k rising now epoch tbinv skew).stq = c.stq ∧
    (c.eviEdge k rising now epoch tbinv skew).syn = c.syn ∧ (c.eviEdge k rising now epoch tbinv skew).tlh = c.tlh ∧
    (c.eviEdge k rising now epoch tbinv skew).trk = c.trk := by simp only [Chan.eviEdge]; (repeat' split) <;> simp

@[simp] theorem Chan.eviPublish_keeps (c : Chan) (now : Tbu) (k : Fin 4) :
    (c.eviPublish now k).ana = c.ana ∧ (c.eviPublish now k).cal = c.cal ∧ (c.eviPublish now k).dof = c.dof ∧
    (c.eviPublish now k).dst = c.dst ∧ (c.eviPublish now k).flt = c.flt ∧ (c.eviPublish now k).mem = c.mem ∧
    (c.eviPublish now k).mod = c.mod ∧ (c.eviPublish now k).ply = c.ply ∧ (c.eviPublish now k).seq = c.seq ∧
    (c.eviPublish now k).skn = c.skn ∧ (c.eviPublish now k).stq = c.stq ∧ (c.eviPublish now k).syn = c.syn ∧
    (c.eviPublish now k).tlh = c.tlh ∧ (c.eviPublish now k).trk = c.trk := by
  simp only [Chan.eviPublish]
  and_intros <;> exact foldl_keeps _ _ (fun c x => by (repeat' split) <;> simp) _ _

@[simp] theorem Chan.winClose_keeps (c : Chan) (k : Fin 4) (v : Word) :
    (c.winClose k v).ana = c.ana ∧ (c.winClose k v).cal = c.cal ∧ (c.winClose k v).dof = c.dof ∧ (c.winClose k v).dst
    = c.dst ∧ (c.winClose k v).flt = c.flt ∧ (c.winClose k v).jnc = c.jnc ∧ (c.winClose k v).mem = c.mem ∧ (c.winClose
    k v).mod = c.mod ∧ (c.winClose k v).ply = c.ply ∧ (c.winClose k v).seq = c.seq ∧ (c.winClose k v).skn = c.skn ∧
    (c.winClose k v).stq = c.stq ∧ (c.winClose k v).syn = c.syn ∧ (c.winClose k v).tlh = c.tlh ∧ (c.winClose k v).trk
    = c.trk := by simp only [Chan.winClose]; (repeat' split) <;> simp

@[simp] theorem Chan.tdcArm_keeps (c : Chan) (cyc : Nat) (m : BitVec 4) :
    (Chan.tdcArm c cyc m).mod = c.mod ∧ (Chan.tdcArm c cyc m).tlh = c.tlh ∧ (Chan.tdcArm c cyc m).trk = c.trk ∧
    (Chan.tdcArm c cyc m).skn = c.skn ∧ (Chan.tdcArm c cyc m).seq = c.seq ∧ (Chan.tdcArm c cyc m).ply = c.ply ∧
    (Chan.tdcArm c cyc m).dst = c.dst ∧ (Chan.tdcArm c cyc m).ana = c.ana ∧ (Chan.tdcArm c cyc m).syn = c.syn ∧
    (Chan.tdcArm c cyc m).tdc = c.tdc ∧ (Chan.tdcArm c cyc m).mem = c.mem ∧ (Chan.tdcArm c cyc m).stq = c.stq ∧
    (Chan.tdcArm c cyc m).cal = c.cal ∧ (Chan.tdcArm c cyc m).dof = c.dof ∧ (Chan.tdcArm c cyc m).flt = c.flt := by
  simp only [Chan.tdcArm]
  and_intros <;> exact foldl_keeps _ _ (fun c x => by simp) _ _

@[simp] theorem Chan.tdcAbort_keeps (c : Chan) (cyc : Nat) (m : BitVec 4) :
    (c.tdcAbort cyc m).ana = c.ana ∧ (c.tdcAbort cyc m).cal = c.cal ∧ (c.tdcAbort cyc m).dof = c.dof ∧ (c.tdcAbort cyc
    m).dst = c.dst ∧ (c.tdcAbort cyc m).flt = c.flt ∧ (c.tdcAbort cyc m).mem = c.mem ∧ (c.tdcAbort cyc m).mod = c.mod
    ∧ (c.tdcAbort cyc m).ply = c.ply ∧ (c.tdcAbort cyc m).seq = c.seq ∧ (c.tdcAbort cyc m).skn = c.skn ∧ (c.tdcAbort
    cyc m).stq = c.stq ∧ (c.tdcAbort cyc m).syn = c.syn ∧ (c.tdcAbort cyc m).tlh = c.tlh ∧ (c.tdcAbort cyc m).trk =
    c.trk := by
  simp only [Chan.tdcAbort]
  and_intros <;> exact foldl_keeps _ _ (fun c x => by simp) _ _

@[simp] theorem Chan.flush_keeps (c : Chan) (m : BitVec 4) :
    (c.flush m).ana = c.ana ∧ (c.flush m).cal = c.cal ∧ (c.flush m).dof = c.dof ∧ (c.flush m).dst = c.dst ∧ (c.flush
    m).flt = c.flt ∧ (c.flush m).jnc = c.jnc ∧ (c.flush m).mem = c.mem ∧ (c.flush m).mod = c.mod ∧ (c.flush m).ply =
    c.ply ∧ (c.flush m).seq = c.seq ∧ (c.flush m).skn = c.skn ∧ (c.flush m).stq = c.stq ∧ (c.flush m).syn = c.syn ∧
    (c.flush m).tlh = c.tlh ∧ (c.flush m).trk = c.trk := by
  simp only [Chan.flush]
  and_intros <;> exact foldl_keeps _ _ (fun c x => by simp) _ _

@[simp] theorem Chan.tdcPop_keeps (c : Chan) (k : Fin 4) (n : Nat) :
    (c.tdcPop k n).ana = c.ana ∧ (c.tdcPop k n).cal = c.cal ∧ (c.tdcPop k n).dof = c.dof ∧ (c.tdcPop k n).dst = c.dst
    ∧ (c.tdcPop k n).flt = c.flt ∧ (c.tdcPop k n).jnc = c.jnc ∧ (c.tdcPop k n).mem = c.mem ∧ (c.tdcPop k n).mod =
    c.mod ∧ (c.tdcPop k n).ply = c.ply ∧ (c.tdcPop k n).seq = c.seq ∧ (c.tdcPop k n).skn = c.skn ∧ (c.tdcPop k n).stq
    = c.stq ∧ (c.tdcPop k n).syn = c.syn ∧ (c.tdcPop k n).tlh = c.tlh ∧ (c.tdcPop k n).trk = c.trk := by simp only [Chan.tdcPop]; (repeat' split) <;> simp

@[simp] theorem Chan.unitWrite_keeps (c : Chan) (cyc : Nat) (k : Fin 4) (r : UnitReg) (v : Word) :
    (c.unitWrite cyc k r v).ana = c.ana ∧ (c.unitWrite cyc k r v).cal = c.cal ∧ (c.unitWrite cyc k r v).dof = c.dof ∧
    (c.unitWrite cyc k r v).dst = c.dst ∧ (c.unitWrite cyc k r v).flt = c.flt ∧ (c.unitWrite cyc k r v).jnc = c.jnc ∧
    (c.unitWrite cyc k r v).mem = c.mem ∧ (c.unitWrite cyc k r v).mod = c.mod ∧ (c.unitWrite cyc k r v).ply = c.ply ∧
    (c.unitWrite cyc k r v).seq = c.seq ∧ (c.unitWrite cyc k r v).skn = c.skn ∧ (c.unitWrite cyc k r v).stq = c.stq ∧
    (c.unitWrite cyc k r v).syn = c.syn ∧ (c.unitWrite cyc k r v).tlh = c.tlh ∧ (c.unitWrite cyc k r v).trk = c.trk := by simp only [Chan.unitWrite]; (repeat' split) <;> simp

@[simp] theorem Chan.armTake_keeps (c : Chan) (on : Bool) (cyc : Nat) (k : Fin 4) :
    (c.armTake on cyc k).ana = c.ana ∧ (c.armTake on cyc k).cal = c.cal ∧ (c.armTake on cyc k).dof = c.dof ∧
    (c.armTake on cyc k).dst = c.dst ∧ (c.armTake on cyc k).flt = c.flt ∧ (c.armTake on cyc k).mem = c.mem ∧
    (c.armTake on cyc k).mod = c.mod ∧ (c.armTake on cyc k).ply = c.ply ∧ (c.armTake on cyc k).seq = c.seq ∧
    (c.armTake on cyc k).skn = c.skn ∧ (c.armTake on cyc k).stq = c.stq ∧ (c.armTake on cyc k).syn = c.syn ∧
    (c.armTake on cyc k).tlh = c.tlh ∧ (c.armTake on cyc k).trk = c.trk := by simp only [Chan.armTake]; (repeat' split) <;> simp

@[simp] theorem Chan.dumpEnable_keeps (c : Chan) (v : Word) :
    (c.dumpEnable v).ana = c.ana ∧ (c.dumpEnable v).cal = c.cal ∧ (c.dumpEnable v).dof = c.dof ∧ (c.dumpEnable v).dst
    = c.dst ∧ (c.dumpEnable v).flt = c.flt ∧ (c.dumpEnable v).jnc = c.jnc ∧ (c.dumpEnable v).mem = c.mem ∧
    (c.dumpEnable v).mod = c.mod ∧ (c.dumpEnable v).ply = c.ply ∧ (c.dumpEnable v).seq = c.seq ∧ (c.dumpEnable v).skn
    = c.skn ∧ (c.dumpEnable v).stq = c.stq ∧ (c.dumpEnable v).syn = c.syn ∧ (c.dumpEnable v).tlh = c.tlh ∧
    (c.dumpEnable v).trk = c.trk := by and_intros <;> rfl

@[simp] theorem Chan.dumpRecord_keeps (c : Chan) (now : Tbu) (k : Fin 4) :
    (c.dumpRecord now k).mod = c.mod ∧ (c.dumpRecord now k).tlh = c.tlh ∧ (c.dumpRecord now k).trk = c.trk ∧
    (c.dumpRecord now k).skn = c.skn ∧ (c.dumpRecord now k).seq = c.seq ∧ (c.dumpRecord now k).dst = c.dst ∧
    (c.dumpRecord now k).ana = c.ana ∧ (c.dumpRecord now k).syn = c.syn ∧ (c.dumpRecord now k).jnc = c.jnc ∧
    (c.dumpRecord now k).stq = c.stq ∧ (c.dumpRecord now k).cal = c.cal ∧ (c.dumpRecord now k).dof = c.dof ∧
    (c.dumpRecord now k).flt = c.flt := by simp only [Chan.dumpRecord]; (repeat' split) <;> simp

@[simp] theorem Chan.tdcResume_keeps (c : Chan) (cyc : Nat) :
    (c.tdcResume cyc).ana = c.ana ∧ (c.tdcResume cyc).cal = c.cal ∧ (c.tdcResume cyc).dof = c.dof ∧ (c.tdcResume
    cyc).dst = c.dst ∧ (c.tdcResume cyc).flt = c.flt ∧ (c.tdcResume cyc).jnc = c.jnc ∧ (c.tdcResume cyc).mem = c.mem ∧
    (c.tdcResume cyc).mod = c.mod ∧ (c.tdcResume cyc).ply = c.ply ∧ (c.tdcResume cyc).seq = c.seq ∧ (c.tdcResume
    cyc).skn = c.skn ∧ (c.tdcResume cyc).stq = c.stq ∧ (c.tdcResume cyc).syn = c.syn ∧ (c.tdcResume cyc).tlh = c.tlh ∧
    (c.tdcResume cyc).trk = c.trk := by and_intros <;> rfl

@[simp] theorem Chan.condEvent_keeps (c : Chan) (cyc k : Nat) :
    (c.condEvent cyc k).ana = c.ana ∧ (c.condEvent cyc k).cal = c.cal ∧ (c.condEvent cyc k).dof = c.dof ∧ (c.condEvent
    cyc k).flt = c.flt ∧ (c.condEvent cyc k).jnc = c.jnc ∧ (c.condEvent cyc k).mem = c.mem ∧ (c.condEvent cyc k).mod =
    c.mod ∧ (c.condEvent cyc k).ply = c.ply ∧ (c.condEvent cyc k).seq = c.seq ∧ (c.condEvent cyc k).skn = c.skn ∧
    (c.condEvent cyc k).stq = c.stq ∧ (c.condEvent cyc k).syn = c.syn ∧ (c.condEvent cyc k).tdc = c.tdc ∧ (c.condEvent
    cyc k).tlh = c.tlh ∧ (c.condEvent cyc k).trk = c.trk := by simp only [Chan.condEvent]; (repeat' split) <;> simp

@[simp] theorem Chan.levelEvent_keeps (c : Chan) (cyc code : Nat) (holdup : Bool) :
    (c.levelEvent cyc code holdup).cal = c.cal ∧ (c.levelEvent cyc code holdup).dof = c.dof ∧ (c.levelEvent cyc code
    holdup).flt = c.flt ∧ (c.levelEvent cyc code holdup).mem = c.mem ∧ (c.levelEvent cyc code holdup).mod = c.mod ∧
    (c.levelEvent cyc code holdup).ply = c.ply ∧ (c.levelEvent cyc code holdup).skn = c.skn ∧ (c.levelEvent cyc code
    holdup).stq = c.stq ∧ (c.levelEvent cyc code holdup).syn = c.syn ∧ (c.levelEvent cyc code holdup).tdc = c.tdc ∧
    (c.levelEvent cyc code holdup).tlh = c.tlh ∧ (c.levelEvent cyc code holdup).trk = c.trk := by simp only [Chan.levelEvent]; (repeat' split) <;> simp

@[simp] theorem Chan.register_keeps (c : Chan) (cyc code : Nat) (holdup : Bool) :
    (c.register cyc code holdup).cal = c.cal ∧ (c.register cyc code holdup).dof = c.dof ∧ (c.register cyc code
    holdup).flt = c.flt ∧ (c.register cyc code holdup).mem = c.mem ∧ (c.register cyc code holdup).mod = c.mod ∧
    (c.register cyc code holdup).ply = c.ply ∧ (c.register cyc code holdup).skn = c.skn ∧ (c.register cyc code
    holdup).stq = c.stq ∧ (c.register cyc code holdup).syn = c.syn ∧ (c.register cyc code holdup).tdc = c.tdc ∧
    (c.register cyc code holdup).tlh = c.tlh ∧ (c.register cyc code holdup).trk = c.trk := by simp only [Chan.register]; (repeat' split) <;> simp

@[simp] theorem Chan.pendingTake_keeps (c : Chan) (tdcOn : Bool) (cyc : Nat) (i : Fin 8) :
    (c.pendingTake tdcOn cyc i).ana = c.ana ∧ (c.pendingTake tdcOn cyc i).cal = c.cal ∧ (c.pendingTake tdcOn cyc
    i).dof = c.dof ∧ (c.pendingTake tdcOn cyc i).dst = c.dst ∧ (c.pendingTake tdcOn cyc i).flt = c.flt ∧
    (c.pendingTake tdcOn cyc i).mem = c.mem ∧ (c.pendingTake tdcOn cyc i).mod = c.mod ∧ (c.pendingTake tdcOn cyc
    i).ply = c.ply ∧ (c.pendingTake tdcOn cyc i).seq = c.seq ∧ (c.pendingTake tdcOn cyc i).skn = c.skn ∧
    (c.pendingTake tdcOn cyc i).stq = c.stq ∧ (c.pendingTake tdcOn cyc i).syn = c.syn ∧ (c.pendingTake tdcOn cyc
    i).tlh = c.tlh ∧ (c.pendingTake tdcOn cyc i).trk = c.trk := by simp only [Chan.pendingTake]; (repeat' split) <;> simp

@[simp] theorem Chan.memEvent_keeps (c : Chan) (k : Nat) :
    (c.memEvent k).ana = c.ana ∧ (c.memEvent k).cal = c.cal ∧ (c.memEvent k).dof = c.dof ∧ (c.memEvent k).dst = c.dst
    ∧ (c.memEvent k).flt = c.flt ∧ (c.memEvent k).jnc = c.jnc ∧ (c.memEvent k).mod = c.mod ∧ (c.memEvent k).ply =
    c.ply ∧ (c.memEvent k).seq = c.seq ∧ (c.memEvent k).skn = c.skn ∧ (c.memEvent k).stq = c.stq ∧ (c.memEvent k).syn
    = c.syn ∧ (c.memEvent k).tdc = c.tdc ∧ (c.memEvent k).tlh = c.tlh ∧ (c.memEvent k).trk = c.trk := by and_intros <;> rfl

@[simp] theorem Chan.pinReload_keeps (c : Chan) (r : BobReg) (v : Word) :
    (c.pinReload r v).1.ana = c.ana ∧ (c.pinReload r v).1.cal = c.cal ∧ (c.pinReload r v).1.dof = c.dof ∧ (c.pinReload
    r v).1.dst = c.dst ∧ (c.pinReload r v).1.flt = c.flt ∧ (c.pinReload r v).1.jnc = c.jnc ∧ (c.pinReload r v).1.mod =
    c.mod ∧ (c.pinReload r v).1.ply = c.ply ∧ (c.pinReload r v).1.seq = c.seq ∧ (c.pinReload r v).1.skn = c.skn ∧
    (c.pinReload r v).1.stq = c.stq ∧ (c.pinReload r v).1.syn = c.syn ∧ (c.pinReload r v).1.tdc = c.tdc ∧ (c.pinReload
    r v).1.tlh = c.tlh ∧ (c.pinReload r v).1.trk = c.trk := by simp only [Chan.pinReload]; (repeat' split) <;> simp

@[simp] theorem Chan.setDof_keeps (c : Chan) (d : Doffer) :
    (c.setDof d).ana = c.ana ∧ (c.setDof d).cal = c.cal ∧ (c.setDof d).dst = c.dst ∧ (c.setDof d).flt = c.flt ∧
    (c.setDof d).jnc = c.jnc ∧ (c.setDof d).mem = c.mem ∧ (c.setDof d).mod = c.mod ∧ (c.setDof d).ply = c.ply ∧
    (c.setDof d).seq = c.seq ∧ (c.setDof d).skn = c.skn ∧ (c.setDof d).stq = c.stq ∧ (c.setDof d).syn = c.syn ∧
    (c.setDof d).tdc = c.tdc ∧ (c.setDof d).tlh = c.tlh ∧ (c.setDof d).trk = c.trk := by and_intros <;> rfl

@[simp] theorem Chan.queueService_keeps (c : Chan) (x : Service) :
    (c.queueService x).ana = c.ana ∧ (c.queueService x).cal = c.cal ∧ (c.queueService x).dst = c.dst ∧ (c.queueService
    x).flt = c.flt ∧ (c.queueService x).jnc = c.jnc ∧ (c.queueService x).mem = c.mem ∧ (c.queueService x).mod = c.mod
    ∧ (c.queueService x).ply = c.ply ∧ (c.queueService x).seq = c.seq ∧ (c.queueService x).skn = c.skn ∧
    (c.queueService x).stq = c.stq ∧ (c.queueService x).syn = c.syn ∧ (c.queueService x).tdc = c.tdc ∧ (c.queueService
    x).tlh = c.tlh ∧ (c.queueService x).trk = c.trk := by and_intros <;> rfl

@[simp] theorem Chan.svcEnd_keeps (c : Chan) (last : Byte) :
    (c.svcEnd last).ana = c.ana ∧ (c.svcEnd last).cal = c.cal ∧ (c.svcEnd last).dof = c.dof ∧ (c.svcEnd last).dst =
    c.dst ∧ (c.svcEnd last).flt = c.flt ∧ (c.svcEnd last).jnc = c.jnc ∧ (c.svcEnd last).mod = c.mod ∧ (c.svcEnd
    last).ply = c.ply ∧ (c.svcEnd last).seq = c.seq ∧ (c.svcEnd last).skn = c.skn ∧ (c.svcEnd last).stq = c.stq ∧
    (c.svcEnd last).syn = c.syn ∧ (c.svcEnd last).tdc = c.tdc ∧ (c.svcEnd last).tlh = c.tlh ∧ (c.svcEnd last).trk =
    c.trk := by and_intros <;> rfl

@[simp] theorem Chan.calEnd_keeps (c : Chan) :
    (c.calEnd).dof = c.dof ∧ (c.calEnd).dst = c.dst ∧ (c.calEnd).flt = c.flt ∧ (c.calEnd).jnc = c.jnc ∧ (c.calEnd).mem
    = c.mem ∧ (c.calEnd).mod = c.mod ∧ (c.calEnd).ply = c.ply ∧ (c.calEnd).seq = c.seq ∧ (c.calEnd).skn = c.skn ∧
    (c.calEnd).stq = c.stq ∧ (c.calEnd).syn = c.syn ∧ (c.calEnd).tdc = c.tdc ∧ (c.calEnd).tlh = c.tlh ∧ (c.calEnd).trk
    = c.trk := by and_intros <;> rfl

@[simp] theorem Chan.calAbort_keeps (c : Chan) (procs : BitVec 3) :
    (c.calAbort procs).mod = c.mod ∧ (c.calAbort procs).tlh = c.tlh ∧ (c.calAbort procs).trk = c.trk ∧ (c.calAbort
    procs).skn = c.skn ∧ (c.calAbort procs).seq = c.seq ∧ (c.calAbort procs).ply = c.ply ∧ (c.calAbort procs).dst =
    c.dst ∧ (c.calAbort procs).syn = c.syn ∧ (c.calAbort procs).jnc = c.jnc ∧ (c.calAbort procs).tdc = c.tdc ∧
    (c.calAbort procs).mem = c.mem ∧ (c.calAbort procs).stq = c.stq ∧ (c.calAbort procs).dof = c.dof ∧ (c.calAbort
    procs).flt = c.flt := by and_intros <;> rfl

@[simp] theorem Chan.calBegin_keeps (c : Chan) (procs : BitVec 3) :
    (c.calBegin procs).dof = c.dof ∧ (c.calBegin procs).dst = c.dst ∧ (c.calBegin procs).flt = c.flt ∧ (c.calBegin
    procs).jnc = c.jnc ∧ (c.calBegin procs).mem = c.mem ∧ (c.calBegin procs).mod = c.mod ∧ (c.calBegin procs).ply =
    c.ply ∧ (c.calBegin procs).seq = c.seq ∧ (c.calBegin procs).skn = c.skn ∧ (c.calBegin procs).stq = c.stq ∧
    (c.calBegin procs).syn = c.syn ∧ (c.calBegin procs).tdc = c.tdc ∧ (c.calBegin procs).tlh = c.tlh ∧ (c.calBegin
    procs).trk = c.trk := by simp [Chan.calBegin]

@[simp] theorem Chan.svcRequest_keeps (c : Chan) (cmd : Nat) :
    (c.svcRequest cmd).ana = c.ana ∧ (c.svcRequest cmd).cal = c.cal ∧ (c.svcRequest cmd).dst = c.dst ∧ (c.svcRequest
    cmd).flt = c.flt ∧ (c.svcRequest cmd).jnc = c.jnc ∧ (c.svcRequest cmd).mod = c.mod ∧ (c.svcRequest cmd).ply =
    c.ply ∧ (c.svcRequest cmd).seq = c.seq ∧ (c.svcRequest cmd).skn = c.skn ∧ (c.svcRequest cmd).stq = c.stq ∧
    (c.svcRequest cmd).syn = c.syn ∧ (c.svcRequest cmd).tdc = c.tdc ∧ (c.svcRequest cmd).tlh = c.tlh ∧ (c.svcRequest
    cmd).trk = c.trk := by simp only [Chan.svcRequest]; (repeat' split) <;> simp

@[simp] theorem Chan.trainAborted_keeps (c : Chan) :
    (c.trainAborted).mod = c.mod ∧ (c.trainAborted).trk = c.trk ∧ (c.trainAborted).skn = c.skn ∧
    (c.trainAborted).seq = c.seq ∧ (c.trainAborted).ply = c.ply ∧ (c.trainAborted).dst = c.dst ∧
    (c.trainAborted).ana = c.ana ∧ (c.trainAborted).syn = c.syn ∧ (c.trainAborted).jnc = c.jnc ∧
    (c.trainAborted).tdc = c.tdc ∧ (c.trainAborted).stq = c.stq ∧ (c.trainAborted).cal = c.cal ∧
    (c.trainAborted).dof = c.dof ∧ (c.trainAborted).flt = c.flt := by and_intros <;> rfl

@[simp] theorem Chan.creelEnds_keeps (c : Chan) :
    (c.creelEnds).ana = c.ana ∧ (c.creelEnds).cal = c.cal ∧ (c.creelEnds).dst = c.dst ∧ (c.creelEnds).flt = c.flt ∧
    (c.creelEnds).jnc = c.jnc ∧ (c.creelEnds).mod = c.mod ∧ (c.creelEnds).ply = c.ply ∧ (c.creelEnds).seq = c.seq ∧
    (c.creelEnds).skn = c.skn ∧ (c.creelEnds).stq = c.stq ∧ (c.creelEnds).syn = c.syn ∧ (c.creelEnds).tdc = c.tdc ∧
    (c.creelEnds).trk = c.trk := by
  simp only [Chan.creelEnds]
  and_intros <;> (refine (foldl_keeps _ _ (fun c x => by (repeat' split) <;> first | rfl | simp) _ _).trans ?_; (repeat' split) <;> first | rfl | simp)

@[simp] theorem Chan.retireDev_keeps (c : Chan) (d : Fin 5) (why : Byte) (now : Tbu) :
    (Chan.retireDev c d why now).mod = c.mod ∧ (Chan.retireDev c d why now).tlh = c.tlh ∧ (Chan.retireDev c d why
    now).trk = c.trk ∧ (Chan.retireDev c d why now).skn = c.skn ∧ (Chan.retireDev c d why now).seq = c.seq ∧
    (Chan.retireDev c d why now).ply = c.ply ∧ (Chan.retireDev c d why now).dst = c.dst ∧ (Chan.retireDev c d why
    now).ana = c.ana ∧ (Chan.retireDev c d why now).syn = c.syn ∧ (Chan.retireDev c d why now).jnc = c.jnc ∧
    (Chan.retireDev c d why now).tdc = c.tdc ∧ (Chan.retireDev c d why now).stq = c.stq ∧ (Chan.retireDev c d why
    now).cal = c.cal ∧ (Chan.retireDev c d why now).dof = c.dof := by
  and_intros <;> rfl

@[simp] theorem Chan.speedRequest_keeps (c : Chan) (g : BitVec 2) (toll : Bool) :
    (c.speedRequest g toll).ana = c.ana ∧ (c.speedRequest g toll).cal = c.cal ∧ (c.speedRequest g toll).dof = c.dof ∧
    (c.speedRequest g toll).dst = c.dst ∧ (c.speedRequest g toll).flt = c.flt ∧ (c.speedRequest g toll).jnc = c.jnc ∧
    (c.speedRequest g toll).mod = c.mod ∧ (c.speedRequest g toll).ply = c.ply ∧ (c.speedRequest g toll).seq = c.seq ∧
    (c.speedRequest g toll).skn = c.skn ∧ (c.speedRequest g toll).stq = c.stq ∧ (c.speedRequest g toll).syn = c.syn ∧
    (c.speedRequest g toll).tdc = c.tdc ∧ (c.speedRequest g toll).trk = c.trk := by simp only [Chan.speedRequest]; (repeat' split) <;> simp

@[simp] theorem Chan.gradeBack_keeps (c : Chan) :
    (c.gradeBack).mod = c.mod ∧ (c.gradeBack).trk = c.trk ∧ (c.gradeBack).skn = c.skn ∧ (c.gradeBack).seq = c.seq ∧
    (c.gradeBack).ply = c.ply ∧ (c.gradeBack).dst = c.dst ∧ (c.gradeBack).ana = c.ana ∧ (c.gradeBack).syn = c.syn ∧
    (c.gradeBack).jnc = c.jnc ∧ (c.gradeBack).tdc = c.tdc ∧ (c.gradeBack).mem = c.mem ∧ (c.gradeBack).stq = c.stq ∧
    (c.gradeBack).cal = c.cal ∧ (c.gradeBack).dof = c.dof ∧ (c.gradeBack).flt = c.flt := by and_intros <;> rfl

@[simp] theorem Chan.speedDone_keeps (c : Chan) (now : Tbu) (failed : BitVec 5) :
    (c.speedDone now failed).ana = c.ana ∧ (c.speedDone now failed).cal = c.cal ∧ (c.speedDone now failed).dof = c.dof
    ∧ (c.speedDone now failed).dst = c.dst ∧ (c.speedDone now failed).flt = c.flt ∧ (c.speedDone now failed).jnc =
    c.jnc ∧ (c.speedDone now failed).mod = c.mod ∧ (c.speedDone now failed).ply = c.ply ∧ (c.speedDone now failed).seq
    = c.seq ∧ (c.speedDone now failed).skn = c.skn ∧ (c.speedDone now failed).stq = c.stq ∧ (c.speedDone now
    failed).syn = c.syn ∧ (c.speedDone now failed).tdc = c.tdc ∧ (c.speedDone now failed).trk = c.trk := by simp only [Chan.speedDone]; (repeat' split) <;> simp

@[simp] theorem Chan.bobLost_keeps (c : Chan) (now : Tbu) (device : Fin 2) :
    (c.bobLost now device).ana = c.ana ∧ (c.bobLost now device).cal = c.cal ∧ (c.bobLost now device).dof = c.dof ∧
    (c.bobLost now device).flt = c.flt ∧ (c.bobLost now device).mod = c.mod ∧ (c.bobLost now device).seq = c.seq ∧
    (c.bobLost now device).skn = c.skn ∧ (c.bobLost now device).stq = c.stq ∧ (c.bobLost now device).syn = c.syn ∧
    (c.bobLost now device).tdc = c.tdc ∧ (c.bobLost now device).tlh = c.tlh ∧ (c.bobLost now device).trk = c.trk :=
    by simp [Chan.bobLost]

@[simp] theorem Chan.resumePass_keeps (c : Chan) (now : Tbu) :
    (c.resumePass now).ana = c.ana ∧ (c.resumePass now).cal = c.cal ∧ (c.resumePass now).dof = c.dof ∧ (c.resumePass
    now).dst = c.dst ∧ (c.resumePass now).flt = c.flt ∧ (c.resumePass now).jnc = c.jnc ∧ (c.resumePass now).mod =
    c.mod ∧ (c.resumePass now).seq = c.seq ∧ (c.resumePass now).skn = c.skn ∧ (c.resumePass now).stq = c.stq ∧
    (c.resumePass now).syn = c.syn ∧ (c.resumePass now).tdc = c.tdc ∧ (c.resumePass now).tlh = c.tlh ∧ (c.resumePass
    now).trk = c.trk := by simp only [Chan.resumePass]; (repeat' split) <;> simp

@[simp] theorem Chan.calEvent_keeps (c : Chan) (k : Nat) :
    (c.calEvent k).ana = c.ana ∧ (c.calEvent k).dof = c.dof ∧ (c.calEvent k).dst = c.dst ∧ (c.calEvent k).flt = c.flt
    ∧ (c.calEvent k).jnc = c.jnc ∧ (c.calEvent k).mem = c.mem ∧ (c.calEvent k).mod = c.mod ∧ (c.calEvent k).ply =
    c.ply ∧ (c.calEvent k).seq = c.seq ∧ (c.calEvent k).skn = c.skn ∧ (c.calEvent k).stq = c.stq ∧ (c.calEvent k).syn
    = c.syn ∧ (c.calEvent k).tdc = c.tdc ∧ (c.calEvent k).tlh = c.tlh ∧ (c.calEvent k).trk = c.trk := by and_intros <;> rfl

@[simp] theorem Chan.commitBank_keeps (c : Chan) (b : Fin 2) :
    (c.commitBank b).ana = c.ana ∧ (c.commitBank b).dof = c.dof ∧ (c.commitBank b).flt = c.flt ∧ (c.commitBank b).jnc
    = c.jnc ∧ (c.commitBank b).mem = c.mem ∧ (c.commitBank b).mod = c.mod ∧ (c.commitBank b).ply = c.ply ∧
    (c.commitBank b).seq = c.seq ∧ (c.commitBank b).skn = c.skn ∧ (c.commitBank b).stq = c.stq ∧ (c.commitBank b).syn
    = c.syn ∧ (c.commitBank b).tdc = c.tdc ∧ (c.commitBank b).tlh = c.tlh ∧ (c.commitBank b).trk = c.trk := by and_intros <;> rfl

@[simp] theorem Chan.bankWrite_keeps (c : Chan) (b : Fin 2) (off : Nat) (v : Word) :
    (c.bankWrite b off v).1.ana = c.ana ∧ (c.bankWrite b off v).1.dof = c.dof ∧ (c.bankWrite b off v).1.dst = c.dst ∧
    (c.bankWrite b off v).1.flt = c.flt ∧ (c.bankWrite b off v).1.jnc = c.jnc ∧ (c.bankWrite b off v).1.mem = c.mem ∧
    (c.bankWrite b off v).1.mod = c.mod ∧ (c.bankWrite b off v).1.ply = c.ply ∧ (c.bankWrite b off v).1.seq = c.seq ∧
    (c.bankWrite b off v).1.skn = c.skn ∧ (c.bankWrite b off v).1.stq = c.stq ∧ (c.bankWrite b off v).1.syn = c.syn ∧
    (c.bankWrite b off v).1.tdc = c.tdc ∧ (c.bankWrite b off v).1.tlh = c.tlh ∧ (c.bankWrite b off v).1.trk = c.trk := by simp only [Chan.bankWrite]; (repeat' split) <;> simp

@[simp] theorem Chan.procReject_keeps (c : Chan) (p : Fin 4) (why : Byte) (detail statval : Nat) :
    (c.procReject p why detail statval).ana = c.ana ∧ (c.procReject p why detail statval).dof = c.dof ∧ (c.procReject
    p why detail statval).dst = c.dst ∧ (c.procReject p why detail statval).flt = c.flt ∧ (c.procReject p why detail
    statval).jnc = c.jnc ∧ (c.procReject p why detail statval).mem = c.mem ∧ (c.procReject p why detail statval).mod =
    c.mod ∧ (c.procReject p why detail statval).ply = c.ply ∧ (c.procReject p why detail statval).seq = c.seq ∧
    (c.procReject p why detail statval).skn = c.skn ∧ (c.procReject p why detail statval).stq = c.stq ∧ (c.procReject
    p why detail statval).syn = c.syn ∧ (c.procReject p why detail statval).tdc = c.tdc ∧ (c.procReject p why detail
    statval).tlh = c.tlh ∧ (c.procReject p why detail statval).trk = c.trk := by and_intros <;> rfl

@[simp] theorem Chan.procAccept_keeps (c : Chan) (odo pos : Word) (p : Fin 4) (x : Nat × Nat) (b : Sparse Word) :
    (c.procAccept odo pos p x b).mod = c.mod ∧ (c.procAccept odo pos p x b).tlh = c.tlh ∧ (c.procAccept odo pos p x b).trk
    = c.trk ∧ (c.procAccept odo pos p x b).skn = c.skn ∧ (c.procAccept odo pos p x b).seq = c.seq ∧ (c.procAccept odo
    pos p x b).ply = c.ply ∧ (c.procAccept odo pos p x b).dst = c.dst ∧ (c.procAccept odo pos p x b).ana = c.ana ∧
    (c.procAccept odo pos p x b).syn = c.syn ∧ (c.procAccept odo pos p x b).jnc = c.jnc ∧ (c.procAccept odo pos p x b).tdc
    = c.tdc ∧ (c.procAccept odo pos p x b).mem = c.mem ∧ (c.procAccept odo pos p x b).stq = c.stq ∧ (c.procAccept odo
    pos p x b).dof = c.dof ∧ (c.procAccept odo pos p x b).flt = c.flt := by and_intros <;> rfl

@[simp] theorem Chan.procOutcome_keeps (c : Chan) (now : Tbu) (odo : Word) (x : CalRunState) (p : Fin 4) (r : ProcReport) :
    (c.procOutcome now odo x p r).ana = c.ana ∧ (c.procOutcome now odo x p r).dof = c.dof ∧ (c.procOutcome now odo x p
    r).dst = c.dst ∧ (c.procOutcome now odo x p r).flt = c.flt ∧ (c.procOutcome now odo x p r).jnc = c.jnc ∧
    (c.procOutcome now odo x p r).mem = c.mem ∧ (c.procOutcome now odo x p r).mod = c.mod ∧ (c.procOutcome now odo x p
    r).ply = c.ply ∧ (c.procOutcome now odo x p r).seq = c.seq ∧ (c.procOutcome now odo x p r).skn = c.skn ∧
    (c.procOutcome now odo x p r).stq = c.stq ∧ (c.procOutcome now odo x p r).syn = c.syn ∧ (c.procOutcome now odo x p
    r).tdc = c.tdc ∧ (c.procOutcome now odo x p r).tlh = c.tlh ∧ (c.procOutcome now odo x p r).trk = c.trk := by simp only [Chan.procOutcome]; (repeat' split) <;> simp

@[simp] theorem Chan.procNext_keeps (c : Chan) (p : Fin 4) :
    (c.procNext p).ana = c.ana ∧ (c.procNext p).dof = c.dof ∧ (c.procNext p).dst = c.dst ∧ (c.procNext p).flt = c.flt
    ∧ (c.procNext p).jnc = c.jnc ∧ (c.procNext p).mem = c.mem ∧ (c.procNext p).mod = c.mod ∧ (c.procNext p).ply =
    c.ply ∧ (c.procNext p).seq = c.seq ∧ (c.procNext p).skn = c.skn ∧ (c.procNext p).stq = c.stq ∧ (c.procNext p).syn
    = c.syn ∧ (c.procNext p).tdc = c.tdc ∧ (c.procNext p).tlh = c.tlh ∧ (c.procNext p).trk = c.trk := by simp [Chan.procNext]

@[simp] theorem Chan.trimCell_keeps (c : Chan) (k : Fin 64) (up down : Nat) :
    (c.trimCell k up down).mod = c.mod ∧ (c.trimCell k up down).tlh = c.tlh ∧ (c.trimCell k up down).trk = c.trk ∧
    (c.trimCell k up down).skn = c.skn ∧ (c.trimCell k up down).seq = c.seq ∧ (c.trimCell k up down).ply = c.ply ∧
    (c.trimCell k up down).dst = c.dst ∧ (c.trimCell k up down).ana = c.ana ∧ (c.trimCell k up down).syn = c.syn ∧
    (c.trimCell k up down).jnc = c.jnc ∧ (c.trimCell k up down).tdc = c.tdc ∧ (c.trimCell k up down).mem = c.mem ∧
    (c.trimCell k up down).stq = c.stq ∧ (c.trimCell k up down).dof = c.dof ∧ (c.trimCell k up down).flt = c.flt := by simp only [Chan.trimCell]; (repeat' split) <;> simp

@[simp] theorem Chan.dacTrim_keeps (c : Chan) (now : Tbu) (k : Fin 64) (up down : Nat) :
    (c.dacTrim now k up down).mod = c.mod ∧ (c.dacTrim now k up down).tlh = c.tlh ∧ (c.dacTrim now k up down).trk =
    c.trk ∧ (c.dacTrim now k up down).skn = c.skn ∧ (c.dacTrim now k up down).seq = c.seq ∧ (c.dacTrim now k up
    down).ply = c.ply ∧ (c.dacTrim now k up down).dst = c.dst ∧ (c.dacTrim now k up down).ana = c.ana ∧ (c.dacTrim
    now k up down).syn = c.syn ∧ (c.dacTrim now k up down).jnc = c.jnc ∧ (c.dacTrim now k up down).tdc = c.tdc ∧
    (c.dacTrim now k up down).mem = c.mem ∧ (c.dacTrim now k up down).stq = c.stq ∧ (c.dacTrim now k up down).dof =
    c.dof ∧ (c.dacTrim now k up down).flt = c.flt := by simp only [Chan.dacTrim]; (repeat' split) <;> simp

@[simp] theorem Chan.creelInvalid_keeps (c : Chan) :
    (Chan.creelInvalid c).mod = c.mod ∧ (Chan.creelInvalid c).tlh = c.tlh ∧ (Chan.creelInvalid c).trk = c.trk ∧
    (Chan.creelInvalid c).skn = c.skn ∧ (Chan.creelInvalid c).seq = c.seq ∧ (Chan.creelInvalid c).ply = c.ply ∧
    (Chan.creelInvalid c).dst = c.dst ∧ (Chan.creelInvalid c).ana = c.ana ∧ (Chan.creelInvalid c).syn = c.syn ∧
    (Chan.creelInvalid c).jnc = c.jnc ∧ (Chan.creelInvalid c).tdc = c.tdc ∧ (Chan.creelInvalid c).stq = c.stq ∧
    (Chan.creelInvalid c).cal = c.cal ∧ (Chan.creelInvalid c).dof = c.dof ∧ (Chan.creelInvalid c).flt = c.flt := by
  simp only [Chan.creelInvalid, and_self]

@[simp] theorem Chan.imageFields_keeps (c : Chan) (cyc : Nat) :
    (c.imageFields cyc).dof = c.dof ∧ (c.imageFields cyc).flt = c.flt ∧ (c.imageFields cyc).mod = c.mod ∧
    (c.imageFields cyc).ply = c.ply ∧ (c.imageFields cyc).skn = c.skn ∧ (c.imageFields cyc).stq = c.stq ∧
    (c.imageFields cyc).syn = c.syn ∧ (c.imageFields cyc).tdc = c.tdc ∧ (c.imageFields cyc).trk = c.trk := by and_intros <;> rfl

@[simp] theorem Chan.keepPoint_keeps (c : Chan) :
    (c.keepPoint).ana = c.ana ∧ (c.keepPoint).cal = c.cal ∧ (c.keepPoint).dof = c.dof ∧ (c.keepPoint).dst = c.dst ∧
    (c.keepPoint).flt = c.flt ∧ (c.keepPoint).jnc = c.jnc ∧ (c.keepPoint).mem = c.mem ∧ (c.keepPoint).mod = c.mod ∧
    (c.keepPoint).ply = c.ply ∧ (c.keepPoint).skn = c.skn ∧ (c.keepPoint).stq = c.stq ∧ (c.keepPoint).syn = c.syn ∧
    (c.keepPoint).tdc = c.tdc ∧ (c.keepPoint).tlh = c.tlh ∧ (c.keepPoint).trk = c.trk := by simp only [Chan.keepPoint]; (repeat' split) <;> simp

@[simp] theorem done_keeps (c : Chan) :
    (done c).1.ana = c.ana ∧ (done c).1.cal = c.cal ∧ (done c).1.dof = c.dof ∧ (done c).1.dst = c.dst ∧ (done c).1.flt
    = c.flt ∧ (done c).1.jnc = c.jnc ∧ (done c).1.mem = c.mem ∧ (done c).1.mod = c.mod ∧ (done c).1.ply = c.ply ∧
    (done c).1.seq = c.seq ∧ (done c).1.skn = c.skn ∧ (done c).1.stq = c.stq ∧ (done c).1.syn = c.syn ∧ (done c).1.tdc
    = c.tdc ∧ (done c).1.tlh = c.tlh ∧ (done c).1.trk = c.trk := by and_intros <;> rfl

@[simp] theorem Chan.routeCfgWrite_keeps (c : Chan) (v : Word) :
    (c.routeCfgWrite v).1.ana = c.ana ∧ (c.routeCfgWrite v).1.cal = c.cal ∧ (c.routeCfgWrite v).1.dof = c.dof ∧
    (c.routeCfgWrite v).1.dst = c.dst ∧ (c.routeCfgWrite v).1.flt = c.flt ∧ (c.routeCfgWrite v).1.jnc = c.jnc ∧
    (c.routeCfgWrite v).1.mem = c.mem ∧ (c.routeCfgWrite v).1.mod = c.mod ∧ (c.routeCfgWrite v).1.ply = c.ply ∧
    (c.routeCfgWrite v).1.skn = c.skn ∧ (c.routeCfgWrite v).1.stq = c.stq ∧ (c.routeCfgWrite v).1.syn = c.syn ∧
    (c.routeCfgWrite v).1.tdc = c.tdc ∧ (c.routeCfgWrite v).1.tlh = c.tlh ∧ (c.routeCfgWrite v).1.trk = c.trk := by and_intros <;> rfl

@[simp] theorem Chan.resumeWrite_keeps (c : Chan) (f : Seq → Seq) :
    (c.resumeWrite f).1.ana = c.ana ∧ (c.resumeWrite f).1.cal = c.cal ∧ (c.resumeWrite f).1.dof = c.dof ∧
    (c.resumeWrite f).1.dst = c.dst ∧ (c.resumeWrite f).1.flt = c.flt ∧ (c.resumeWrite f).1.jnc = c.jnc ∧
    (c.resumeWrite f).1.mem = c.mem ∧ (c.resumeWrite f).1.mod = c.mod ∧ (c.resumeWrite f).1.ply = c.ply ∧
    (c.resumeWrite f).1.skn = c.skn ∧ (c.resumeWrite f).1.stq = c.stq ∧ (c.resumeWrite f).1.syn = c.syn ∧
    (c.resumeWrite f).1.tdc = c.tdc ∧ (c.resumeWrite f).1.tlh = c.tlh ∧ (c.resumeWrite f).1.trk = c.trk := by simp only [Chan.resumeWrite]; (repeat' split) <;> simp

@[simp] theorem Chan.seqWrite_keeps (c : Chan) (cyc off : Nat) (v : Word) :
    (c.seqWrite cyc off v).1.ana = c.ana ∧ (c.seqWrite cyc off v).1.cal = c.cal ∧ (c.seqWrite cyc off v).1.dof = c.dof
    ∧ (c.seqWrite cyc off v).1.dst = c.dst ∧ (c.seqWrite cyc off v).1.flt = c.flt ∧ (c.seqWrite cyc off v).1.jnc =
    c.jnc ∧ (c.seqWrite cyc off v).1.mem = c.mem ∧ (c.seqWrite cyc off v).1.mod = c.mod ∧ (c.seqWrite cyc off v).1.ply
    = c.ply ∧ (c.seqWrite cyc off v).1.skn = c.skn ∧ (c.seqWrite cyc off v).1.stq = c.stq ∧ (c.seqWrite cyc off
    v).1.syn = c.syn ∧ (c.seqWrite cyc off v).1.tdc = c.tdc ∧ (c.seqWrite cyc off v).1.tlh = c.tlh ∧ (c.seqWrite cyc
    off v).1.trk = c.trk := by simp only [Chan.seqWrite]; (repeat' split) <;> simp

@[simp] theorem Chan.laneCfgWrite_keeps (c : Chan) (cyc l : Nat) (v : Word) :
    ((c.laneCfgWrite cyc l v).1).mod = c.mod ∧ ((c.laneCfgWrite cyc l v).1).tlh = c.tlh ∧ ((c.laneCfgWrite cyc l
    v).1).trk = c.trk ∧ ((c.laneCfgWrite cyc l v).1).skn = c.skn ∧ ((c.laneCfgWrite cyc l v).1).seq = c.seq ∧
    ((c.laneCfgWrite cyc l v).1).ply = c.ply ∧ ((c.laneCfgWrite cyc l v).1).ana = c.ana ∧ ((c.laneCfgWrite cyc l
    v).1).syn = c.syn ∧ ((c.laneCfgWrite cyc l v).1).tdc = c.tdc ∧ ((c.laneCfgWrite cyc l v).1).mem = c.mem ∧
    ((c.laneCfgWrite cyc l v).1).stq = c.stq ∧ ((c.laneCfgWrite cyc l v).1).cal = c.cal ∧ ((c.laneCfgWrite cyc l
    v).1).dof = c.dof ∧ ((c.laneCfgWrite cyc l v).1).flt = c.flt := by simp only [Chan.laneCfgWrite]; (repeat' split) <;> simp

@[simp] theorem Chan.dstWrite_keeps (c : Chan) (cyc off : Nat) (v : Word) :
    ((c.dstWrite cyc off v).1).mod = c.mod ∧ ((c.dstWrite cyc off v).1).tlh = c.tlh ∧ ((c.dstWrite cyc off v).1).trk
    = c.trk ∧ ((c.dstWrite cyc off v).1).skn = c.skn ∧ ((c.dstWrite cyc off v).1).seq = c.seq ∧ ((c.dstWrite cyc off
    v).1).ply = c.ply ∧ ((c.dstWrite cyc off v).1).ana = c.ana ∧ ((c.dstWrite cyc off v).1).syn = c.syn ∧
    ((c.dstWrite cyc off v).1).tdc = c.tdc ∧ ((c.dstWrite cyc off v).1).mem = c.mem ∧ ((c.dstWrite cyc off v).1).stq
    = c.stq ∧ ((c.dstWrite cyc off v).1).cal = c.cal ∧ ((c.dstWrite cyc off v).1).dof = c.dof ∧ ((c.dstWrite cyc off
    v).1).flt = c.flt := by simp only [Chan.dstWrite]; (repeat' split) <;> simp

@[simp] theorem Chan.spareWrite_keeps (c : Chan) (lane : Bool) (now : Tbu) (v : Word) :
    (Chan.spareWrite c lane now v).mod = c.mod ∧ (Chan.spareWrite c lane now v).tlh = c.tlh ∧ (Chan.spareWrite c
    lane now v).trk = c.trk ∧ (Chan.spareWrite c lane now v).skn = c.skn ∧ (Chan.spareWrite c lane now v).seq =
    c.seq ∧ (Chan.spareWrite c lane now v).ana = c.ana ∧ (Chan.spareWrite c lane now v).tdc = c.tdc ∧
    (Chan.spareWrite c lane now v).mem = c.mem ∧ (Chan.spareWrite c lane now v).stq = c.stq ∧ (Chan.spareWrite c
    lane now v).dof = c.dof := by simp only [Chan.spareWrite]; (repeat' split) <;> simp

@[simp] theorem Chan.govWrite_keeps (c : Chan) (cyc k : Nat) (v : Word) :
    (c.govWrite cyc k v).1.ana = c.ana ∧ (c.govWrite cyc k v).1.cal = c.cal ∧ (c.govWrite cyc k v).1.dof = c.dof ∧
    (c.govWrite cyc k v).1.dst = c.dst ∧ (c.govWrite cyc k v).1.flt = c.flt ∧ (c.govWrite cyc k v).1.mem = c.mem ∧
    (c.govWrite cyc k v).1.mod = c.mod ∧ (c.govWrite cyc k v).1.ply = c.ply ∧ (c.govWrite cyc k v).1.seq = c.seq ∧
    (c.govWrite cyc k v).1.skn = c.skn ∧ (c.govWrite cyc k v).1.stq = c.stq ∧ (c.govWrite cyc k v).1.syn = c.syn ∧
    (c.govWrite cyc k v).1.tdc = c.tdc ∧ (c.govWrite cyc k v).1.tlh = c.tlh ∧ (c.govWrite cyc k v).1.trk = c.trk := by and_intros <;> rfl

@[simp] theorem Chan.filtWrite_keeps (c : Chan) (cyc : Nat) (v : Word) :
    (c.filtWrite cyc v).1.ana = c.ana ∧ (c.filtWrite cyc v).1.cal = c.cal ∧ (c.filtWrite cyc v).1.dof = c.dof ∧
    (c.filtWrite cyc v).1.dst = c.dst ∧ (c.filtWrite cyc v).1.flt = c.flt ∧ (c.filtWrite cyc v).1.mem = c.mem ∧
    (c.filtWrite cyc v).1.mod = c.mod ∧ (c.filtWrite cyc v).1.ply = c.ply ∧ (c.filtWrite cyc v).1.seq = c.seq ∧
    (c.filtWrite cyc v).1.skn = c.skn ∧ (c.filtWrite cyc v).1.stq = c.stq ∧ (c.filtWrite cyc v).1.syn = c.syn ∧
    (c.filtWrite cyc v).1.tdc = c.tdc ∧ (c.filtWrite cyc v).1.tlh = c.tlh ∧ (c.filtWrite cyc v).1.trk = c.trk := by and_intros <;> rfl

@[simp] theorem Chan.freqCapture_keeps (c : Chan) (k : Fin 4) :
    (c.freqCapture k).ana = c.ana ∧ (c.freqCapture k).cal = c.cal ∧ (c.freqCapture k).dof = c.dof ∧ (c.freqCapture
    k).dst = c.dst ∧ (c.freqCapture k).flt = c.flt ∧ (c.freqCapture k).jnc = c.jnc ∧ (c.freqCapture k).mem = c.mem ∧
    (c.freqCapture k).mod = c.mod ∧ (c.freqCapture k).ply = c.ply ∧ (c.freqCapture k).seq = c.seq ∧ (c.freqCapture
    k).skn = c.skn ∧ (c.freqCapture k).stq = c.stq ∧ (c.freqCapture k).syn = c.syn ∧ (c.freqCapture k).tlh = c.tlh ∧
    (c.freqCapture k).trk = c.trk := by and_intros <;> rfl

@[simp] theorem Chan.tdcControl_keeps (c : Chan) (cyc : Nat) (v : Word) :
    (c.tdcControl cyc v).ana = c.ana ∧ (c.tdcControl cyc v).cal = c.cal ∧ (c.tdcControl cyc v).dof = c.dof ∧
    (c.tdcControl cyc v).dst = c.dst ∧ (c.tdcControl cyc v).flt = c.flt ∧ (c.tdcControl cyc v).mem = c.mem ∧
    (c.tdcControl cyc v).mod = c.mod ∧ (c.tdcControl cyc v).ply = c.ply ∧ (c.tdcControl cyc v).seq = c.seq ∧
    (c.tdcControl cyc v).skn = c.skn ∧ (c.tdcControl cyc v).stq = c.stq ∧ (c.tdcControl cyc v).syn = c.syn ∧
    (c.tdcControl cyc v).tlh = c.tlh ∧ (c.tdcControl cyc v).trk = c.trk := by simp only [Chan.tdcControl]; (repeat' split) <;> simp

@[simp] theorem Chan.tdcArrayWrite_keeps (c : Chan) (cyc off : Nat) (v : Word) :
    (c.tdcArrayWrite cyc off v).ana = c.ana ∧ (c.tdcArrayWrite cyc off v).cal = c.cal ∧ (c.tdcArrayWrite cyc off
    v).dof = c.dof ∧ (c.tdcArrayWrite cyc off v).dst = c.dst ∧ (c.tdcArrayWrite cyc off v).flt = c.flt ∧
    (c.tdcArrayWrite cyc off v).jnc = c.jnc ∧ (c.tdcArrayWrite cyc off v).mem = c.mem ∧ (c.tdcArrayWrite cyc off
    v).mod = c.mod ∧ (c.tdcArrayWrite cyc off v).ply = c.ply ∧ (c.tdcArrayWrite cyc off v).seq = c.seq ∧
    (c.tdcArrayWrite cyc off v).skn = c.skn ∧ (c.tdcArrayWrite cyc off v).stq = c.stq ∧ (c.tdcArrayWrite cyc off
    v).syn = c.syn ∧ (c.tdcArrayWrite cyc off v).tlh = c.tlh ∧ (c.tdcArrayWrite cyc off v).trk = c.trk := by simp only [Chan.tdcArrayWrite]; (repeat' split) <;> simp

@[simp] theorem Chan.tdcWrite_keeps (c : Chan) (cyc off : Nat) (v : Word) :
    (c.tdcWrite cyc off v).ana = c.ana ∧ (c.tdcWrite cyc off v).cal = c.cal ∧ (c.tdcWrite cyc off v).dof = c.dof ∧
    (c.tdcWrite cyc off v).dst = c.dst ∧ (c.tdcWrite cyc off v).flt = c.flt ∧ (c.tdcWrite cyc off v).mem = c.mem ∧
    (c.tdcWrite cyc off v).mod = c.mod ∧ (c.tdcWrite cyc off v).ply = c.ply ∧ (c.tdcWrite cyc off v).seq = c.seq ∧
    (c.tdcWrite cyc off v).skn = c.skn ∧ (c.tdcWrite cyc off v).stq = c.stq ∧ (c.tdcWrite cyc off v).syn = c.syn ∧
    (c.tdcWrite cyc off v).tlh = c.tlh ∧ (c.tdcWrite cyc off v).trk = c.trk := by simp only [Chan.tdcWrite]; (repeat' split) <;> simp

@[simp] theorem Chan.memCfgWrite_keeps (c : Chan) (v : Word) :
    (c.memCfgWrite v).1.ana = c.ana ∧ (c.memCfgWrite v).1.cal = c.cal ∧ (c.memCfgWrite v).1.dof = c.dof ∧
    (c.memCfgWrite v).1.dst = c.dst ∧ (c.memCfgWrite v).1.flt = c.flt ∧ (c.memCfgWrite v).1.jnc = c.jnc ∧
    (c.memCfgWrite v).1.mod = c.mod ∧ (c.memCfgWrite v).1.ply = c.ply ∧ (c.memCfgWrite v).1.seq = c.seq ∧
    (c.memCfgWrite v).1.skn = c.skn ∧ (c.memCfgWrite v).1.stq = c.stq ∧ (c.memCfgWrite v).1.syn = c.syn ∧
    (c.memCfgWrite v).1.tdc = c.tdc ∧ (c.memCfgWrite v).1.tlh = c.tlh ∧ (c.memCfgWrite v).1.trk = c.trk := by and_intros <;> rfl

@[simp] theorem Chan.memWrite_keeps (c : Chan) (off : Nat) (v : Word) :
    (c.memWrite off v).1.ana = c.ana ∧ (c.memWrite off v).1.cal = c.cal ∧ (c.memWrite off v).1.dst = c.dst ∧
    (c.memWrite off v).1.flt = c.flt ∧ (c.memWrite off v).1.jnc = c.jnc ∧ (c.memWrite off v).1.mod = c.mod ∧
    (c.memWrite off v).1.ply = c.ply ∧ (c.memWrite off v).1.seq = c.seq ∧ (c.memWrite off v).1.skn = c.skn ∧
    (c.memWrite off v).1.stq = c.stq ∧ (c.memWrite off v).1.syn = c.syn ∧ (c.memWrite off v).1.tdc = c.tdc ∧
    (c.memWrite off v).1.trk = c.trk := by simp only [Chan.memWrite]; (repeat' split) <;> simp

@[simp] theorem Chan.blockCapture_keeps (c : Chan) (cyc block off : Nat) :
    (Chan.blockCapture c cyc block off).mod = c.mod ∧ (Chan.blockCapture c cyc block off).tlh = c.tlh ∧
    (Chan.blockCapture c cyc block off).trk = c.trk ∧ (Chan.blockCapture c cyc block off).skn = c.skn ∧
    (Chan.blockCapture c cyc block off).ply = c.ply ∧ (Chan.blockCapture c cyc block off).ana = c.ana ∧
    (Chan.blockCapture c cyc block off).syn = c.syn ∧ (Chan.blockCapture c cyc block off).jnc = c.jnc ∧
    (Chan.blockCapture c cyc block off).mem = c.mem ∧ (Chan.blockCapture c cyc block off).stq = c.stq ∧
    (Chan.blockCapture c cyc block off).dof = c.dof ∧ (Chan.blockCapture c cyc block off).flt = c.flt := by
  simp only [Chan.blockCapture]
  (repeat' split) <;> simp

/-! ### The lanes' coming to an instant -/

/-- Channel `d` has the junctions of channel `c`, but for what has been offered since. -/
def Chan.offersOnly (c d : Chan) : Prop := d.jnc = { c.jnc with offers := d.jnc.offers }

/-- What frames that come to their last beat may change of a Distaff: its state, HALT_CODE and events. -/
def Chan.haltsOnly (c d : Chan) : Prop :=
  d.dst = { c.dst with state := d.dst.state, haltCode := d.dst.haltCode, events := d.dst.events }

theorem Chan.offersOnly_publish (c : Chan) (n k : Nat) : Chan.offersOnly c (c.publish n k) := by
  simp only [Chan.offersOnly, Chan.publish]
  (repeat' split) <;> rfl

theorem Chan.offersOnly_trans {a b c : Chan} (h : Chan.offersOnly a b) (k : Chan.offersOnly b c) : Chan.offersOnly a c := by
  simp only [Chan.offersOnly] at *
  rw [k, h]

theorem Chan.haltsOnly_trans {a b c : Chan} (h : Chan.haltsOnly a b) (k : Chan.haltsOnly b c) : Chan.haltsOnly a c := by
  simp only [Chan.haltsOnly] at *
  rw [k, h]

theorem Chan.offersOnly_foldl {α : Type} (f : Chan → α → Chan) (h : ∀ c a, Chan.offersOnly c (f c a)) (l : List α) (c : Chan) :
    Chan.offersOnly c (l.foldl f c) := by
  induction l generalizing c with
  | nil => rfl
  | cons a r ih => exact Chan.offersOnly_trans (h c a) (ih (f c a))

theorem Chan.offersOnly_framePublish (x : Q16) (c : Chan) (i : Issued) : Chan.offersOnly c (Chan.framePublish x c i) :=
  Chan.offersOnly_foldl _ (fun c e => Chan.offersOnly_publish c _ e) _ c

theorem Chan.offersOnly_frameOver (x : Q16) (c : Chan) (i : Issued) : Chan.offersOnly c (Chan.frameOver x c i) := by
  simp only [Chan.frameOver]
  (repeat' split) <;> first | rfl | exact Chan.offersOnly_publish _ _ _

theorem Chan.haltsOnly_framesOver (x : Q16) (l : List Issued) (c : Chan) : Chan.haltsOnly c (l.foldl (Chan.frameOver x) c) := by
  induction l generalizing c with
  | nil => rfl
  | cons a r ih =>
    refine Chan.haltsOnly_trans ?_ (ih _)
    simp only [Chan.haltsOnly, Chan.frameOver]
    split
    · split <;> simp [Dst.halt]
    · rfl

theorem Chan.offersOnly_dstRun (c : Chan) (x : Q16) : Chan.offersOnly c (c.dstRun x) := by
  simp only [Chan.dstRun]
  split
  · rfl
  · exact Chan.offersOnly_trans (Chan.offersOnly_foldl (Chan.framePublish x) (Chan.offersOnly_framePublish x) _ _)
      (Chan.offersOnly_foldl (Chan.frameOver x) (Chan.offersOnly_frameOver x) _ _)

theorem Chan.offersOnly_dstReach (c : Chan) (x : Q16) : Chan.offersOnly c (c.dstReach x) := by
  simp only [Chan.dstReach]
  (repeat' split) <;> exact Chan.offersOnly_dstRun c _

/-- The lanes' coming to an instant offers events, and changes nothing else of the junctions. -/
theorem Chan.dstTo_jnc (c : Chan) (x : Q16) : (c.dstTo x).jnc = { c.jnc with offers := (c.dstTo x).jnc.offers } := by
  show Chan.offersOnly c (c.dstTo x)
  simp only [Chan.dstTo]
  exact Chan.offersOnly_trans (Chan.offersOnly_dstReach c _) (Chan.offersOnly_dstReach _ x)

theorem Chan.dstRun_dst (c : Chan) (x : Q16) :
    (c.dstRun x).dst = { c.dst with
      state := (c.dstRun x).dst.state, haltCode := (c.dstRun x).dst.haltCode, issued := (c.dstRun x).dst.issued
      driven := (c.dstRun x).dst.driven, frames := (c.dstRun x).dst.frames, lostGap := (c.dstRun x).dst.lostGap
      laneCut := (c.dstRun x).dst.laneCut, shortCut := (c.dstRun x).dst.shortCut, events := (c.dstRun x).dst.events } := by
  simp only [Chan.dstRun]
  split
  · rfl
  · obtain ⟨j, h⟩ := Chan.framesPublish_keeps x
      (c.dst.issued.filter fun i => !i.begun && decide ((i.first c.dst.latched.fb : Int) ≤ _)) c
    rw [h]
    rw [Chan.haltsOnly_framesOver x _ _]

/-- What the lanes' coming to an instant may change of the Distaff (R217, R229, R232). -/
theorem Chan.dstReach_dst (c : Chan) (x : Q16) :
    (c.dstReach x).dst = { c.dst with
      state := (c.dstReach x).dst.state, haltCode := (c.dstReach x).dst.haltCode, core := (c.dstReach x).dst.core
      frame := (c.dstReach x).dst.frame, fresh := (c.dstReach x).dst.fresh, pauseAt := (c.dstReach x).dst.pauseAt
      plan := (c.dstReach x).dst.plan, issued := (c.dstReach x).dst.issued, driven := (c.dstReach x).dst.driven
      frames := (c.dstReach x).dst.frames, lostGap := (c.dstReach x).dst.lostGap, laneCut := (c.dstReach x).dst.laneCut
      shortCut := (c.dstReach x).dst.shortCut, events := (c.dstReach x).dst.events } := by
  simp only [Chan.dstReach]
  (repeat' split)
  · simp only [Dst.paused]
    (repeat' split) <;> rw [Chan.dstRun_dst]
  · rw [Chan.dstRun_dst]
  · rw [Chan.dstRun_dst]

/-- The lanes come to an instant by way of the end of the cycle before it; what may change is the same. -/
theorem Chan.dstTo_dst (c : Chan) (x : Q16) :
    (c.dstTo x).dst = { c.dst with
      state := (c.dstTo x).dst.state, haltCode := (c.dstTo x).dst.haltCode, core := (c.dstTo x).dst.core
      frame := (c.dstTo x).dst.frame, fresh := (c.dstTo x).dst.fresh, pauseAt := (c.dstTo x).dst.pauseAt
      plan := (c.dstTo x).dst.plan, issued := (c.dstTo x).dst.issued, driven := (c.dstTo x).dst.driven
      frames := (c.dstTo x).dst.frames, lostGap := (c.dstTo x).dst.lostGap, laneCut := (c.dstTo x).dst.laneCut
      shortCut := (c.dstTo x).dst.shortCut, events := (c.dstTo x).dst.events } := by
  simp only [Chan.dstTo]
  rw [Chan.dstReach_dst]
  dsimp only
  rw [c.dstReach_dst (cycleBegin x - 1)]

/-- With no frame on the lanes or on its way to them and no hold coming, the lanes' coming to an instant only forgets what they drove. -/
theorem Chan.dstReach_quiet (c : Chan) (x : Q16) (h : c.dst.issued = []) (p : c.dst.pauseAt = none) :
    c.dstReach x = { c with dst := { c.dst with
      driven := (c.dstReach x).dst.driven, laneCut := (c.dstReach x).dst.laneCut, shortCut := (c.dstReach x).dst.shortCut } } := by
  have hx : c.dstReach x = c.dstRun x := by simp only [Chan.dstReach, p]
  rw [hx]
  simp only [Chan.dstRun]
  split
  · rfl
  · simp only [h, List.filter_nil, List.map_nil, List.foldl_nil, List.length_nil, List.reverse_nil, List.nil_append, Nat.sub_self,
      Nat.lt_irrefl, evIf]
    simp [satInc, word]
    apply BitVec.eq_of_toNat_eq
    have := c.dst.lostGap.isLt
    simp
    omega

theorem Chan.dstTo_quiet (c : Chan) (x : Q16) (h : c.dst.issued = []) (p : c.dst.pauseAt = none) :
    c.dstTo x = { c with dst := { c.dst with
      driven := (c.dstTo x).dst.driven, laneCut := (c.dstTo x).dst.laneCut, shortCut := (c.dstTo x).dst.shortCut } } := by
  simp only [Chan.dstTo]
  have k := c.dstReach_quiet (cycleBegin x - 1) h p
  rw [k]
  have e : ({ c.dst.events with bits := c.dst.events.bits } : Sticky) = c.dst.events := rfl
  rw [Chan.dstReach_quiet]
  · exact h
  · exact p

end Sys2Proof.Machine
end

