-- ==== Sys2Proof/Laws/Creel.lean ====
section
/-! SUPPORT. Sparse stores and the creel's bytes: the canonical form, that every operation on a creel keeps it, and what
each of them leaves at an address. -/

namespace Sys2Proof.Machine

/-! ### The canonical form -/

/-- The canonical form says that keys rise strictly and that no entry holds the value of an unlisted key. -/
theorem swf_iff {α : Type} [DecidableEq α] (d : α) (l : Sparse α) :
    swf d l = true ↔ l.Pairwise (fun x y => x.1 < y.1) ∧ ∀ e ∈ l, e.2 ≠ d := by
  induction l with
  | nil => simp [swf]
  | cons e r ih =>
    obtain ⟨k, v⟩ := e
    cases r with
    | nil => simp [swf]
    | cons e' r' =>
      obtain ⟨k', v'⟩ := e'
      simp only [swf, Bool.and_eq_true, decide_eq_true_eq, ih, List.pairwise_cons, List.mem_cons, forall_eq_or_imp]
      constructor
      · rintro ⟨⟨h1, h2⟩, ⟨h3, h4⟩, h5⟩
        exact ⟨⟨⟨h2, fun e he => lt_trans h2 (h3 e he)⟩, h3, h4⟩, h1, h5⟩
      · rintro ⟨⟨⟨h2, _⟩, h3, h4⟩, h1, h5⟩
        exact ⟨⟨h1, h2⟩, ⟨h3, h4⟩, h5⟩

theorem sget_of_not_mem {α : Type} (d : α) (l : Sparse α) (a : Nat) (h : ∀ e ∈ l, e.1 ≠ a) : sget d l a = d := by
  induction l with
  | nil => rfl
  | cons e r ih =>
    have h1 : ¬ a = e.1 := fun x => h e (by simp) x.symm
    have h2 := ih fun e he => h e (by simp [he])
    simp [sget, h1, h2]

theorem sget_of_mem {α : Type} (d : α) (l : Sparse α) (hs : l.Pairwise (fun x y => x.1 < y.1)) (a : Nat) (v : α) (h : (a, v) ∈ l) :
    sget d l a = v := by
  induction l with
  | nil => simp at h
  | cons e r ih =>
    rw [List.pairwise_cons] at hs
    rcases List.mem_cons.1 h with rfl | h'
    · simp [sget]
    · have h1 := hs.1 _ h'
      have h2 : ¬ a = e.1 := by simp only at h1; omega
      have h3 : ¬ a < e.1 := by simp only at h1; omega
      simp [sget, h2, h3, ih hs.2 h']

/-- The entries of a store after a write. -/
theorem mem_sput {α : Type} [DecidableEq α] (d : α) (l : Sparse α) (hs : l.Pairwise (fun x y => x.1 < y.1)) (a : Nat) (v : α)
    (e : Nat × α) : e ∈ sput d l a v ↔ (e = (a, v) ∧ v ≠ d) ∨ (e ∈ l ∧ e.1 ≠ a) := by
  induction l with
  | nil => by_cases hv : v = d <;> simp [sput, hv]
  | cons x r ih =>
    obtain ⟨k, w⟩ := x
    rw [List.pairwise_cons] at hs
    have hr : ∀ y ∈ r, k < y.1 := hs.1
    simp only [sput]
    split
    · have : e ∈ (k, w) :: r → e.1 ≠ a := by
        rintro he rfl
        rcases List.mem_cons.1 he with rfl | he
        · omega
        · have := hr e he; omega
      by_cases hv : v = d
      · simp only [hv, if_pos, ne_eq, not_true_eq_false, and_false, false_or]
        exact ⟨fun h => ⟨h, this h⟩, And.left⟩
      · simp only [hv, if_neg, not_false_eq_true, and_true, ne_eq]
        rw [List.mem_cons]
        exact or_congr Iff.rfl ⟨fun h => ⟨h, this h⟩, And.left⟩
    · split
      · rename_i _ hak
        subst hak
        have : e ∈ r → e.1 ≠ a := fun he => by have := hr e he; omega
        by_cases hv : v = d
        · simp only [hv, if_pos, ne_eq, not_true_eq_false, and_false, false_or, List.mem_cons]
          constructor
          · exact fun h => ⟨.inr h, this h⟩
          · rintro ⟨rfl | h, h'⟩
            · simp at h'
            · exact h
        · simp only [hv, if_neg, not_false_eq_true, List.mem_cons, and_true, ne_eq]
          constructor
          · rintro (h | h)
            · exact .inl h
            · exact .inr ⟨.inr h, this h⟩
          · rintro (h | ⟨rfl | h, h'⟩)
            · exact .inl h
            · simp at h'
            · exact .inr h
      · rename_i h1 h2
        rw [List.mem_cons, ih hs.2, List.mem_cons]
        constructor
        · rintro (rfl | h | h)
          · exact .inr ⟨.inl rfl, fun x => h2 x.symm⟩
          · exact .inl h
          · exact .inr ⟨.inr h.1, h.2⟩
        · rintro (h | ⟨rfl | h, h'⟩)
          · exact .inr (.inl h)
          · exact .inl rfl
          · exact .inr (.inr ⟨h, h'⟩)

theorem sput_sorted {α : Type} [DecidableEq α] (d : α) (l : Sparse α) (hs : l.Pairwise (fun x y => x.1 < y.1)) (a : Nat) (v : α) :
    (sput d l a v).Pairwise (fun x y => x.1 < y.1) := by
  induction l with
  | nil => by_cases hv : v = d <;> simp [sput, hv]
  | cons x r ih =>
    obtain ⟨k, w⟩ := x
    have hs' := hs
    rw [List.pairwise_cons] at hs
    have hr : ∀ y ∈ r, k < y.1 := hs.1
    simp only [sput]
    split
    · split
      · exact hs'
      · refine List.pairwise_cons.2 ⟨fun y hy => ?_, hs'⟩
        rcases List.mem_cons.1 hy with rfl | hy
        · assumption
        · have := hr y hy; simp only; omega
    · split
      · rename_i _ hak
        subst hak
        split
        · exact hs.2
        · exact List.pairwise_cons.2 ⟨hr, hs.2⟩
      · refine List.pairwise_cons.2 ⟨fun y hy => ?_, ih hs.2⟩
        rcases (mem_sput d r hs.2 a v y).1 hy with ⟨rfl, _⟩ | ⟨hy, _⟩
        · simp only; omega
        · exact hr y hy

/-- A write keeps the canonical form. -/
theorem swf_sput {α : Type} [DecidableEq α] (d : α) (l : Sparse α) (h : swf d l = true) (a : Nat) (v : α) :
    swf d (sput d l a v) = true := by
  rw [swf_iff] at h ⊢
  refine ⟨sput_sorted d l h.1 a v, fun e he => ?_⟩
  rcases (mem_sput d l h.1 a v e).1 he with ⟨rfl, hv⟩ | ⟨he, _⟩
  · exact hv
  · exact h.2 e he

/-- A read after a write. -/
theorem sget_sput {α : Type} [DecidableEq α] (d : α) (l : Sparse α) (h : swf d l = true) (a b : Nat) (v : α) :
    sget d (sput d l a v) b = if b = a then v else sget d l b := by
  rw [swf_iff] at h
  have hs := sput_sorted d l h.1 a v
  split
  · rename_i hb
    subst hb
    by_cases hv : v = d
    · subst hv
      refine sget_of_not_mem _ _ _ fun e he => ?_
      rcases (mem_sput v l h.1 b v e).1 he with ⟨_, hv⟩ | ⟨_, he⟩
      · exact absurd rfl hv
      · exact he
    · exact sget_of_mem d _ hs b v ((mem_sput d l h.1 b v _).2 (.inl ⟨rfl, hv⟩))
  · rename_i hb
    by_cases hm : ∃ w, (b, w) ∈ l
    · obtain ⟨w, hw⟩ := hm
      rw [sget_of_mem d l h.1 b w hw]
      exact sget_of_mem d _ hs b w ((mem_sput d l h.1 a v _).2 (.inr ⟨hw, hb⟩))
    · rw [sget_of_not_mem d l b fun e he hk => hm ⟨e.2, by rw [← hk]; exact he⟩]
      refine sget_of_not_mem _ _ _ fun e he hk => ?_
      rcases (mem_sput d l h.1 a v e).1 he with ⟨rfl, _⟩ | ⟨he, _⟩
      · exact hb hk.symm
      · exact hm ⟨e.2, by rw [← hk]; exact he⟩

/-! ### Bytes of a creel -/

@[simp] theorem Memory.wf_nil : Memory.wf [] = true := rfl

@[simp] theorem readByte_nil (a : Nat) : readByte [] a = creelDefault := rfl

theorem Memory.wf_writeByte (m : List Host.Cell) (h : Memory.wf m = true) (a : Nat) (b : Byte) : Memory.wf (writeByte m a b) = true :=
  swf_sput creelDefault m h a b

theorem readByte_writeByte (m : List Host.Cell) (h : Memory.wf m = true) (a x : Nat) (b : Byte) :
    readByte (writeByte m a b) x = if x = a then b else readByte m x := sget_sput creelDefault m h a x b

theorem Memory.wf_writeBytes (l : List Byte) : ∀ (m : List Host.Cell) (a : Nat), Memory.wf m = true → Memory.wf (writeBytes m a l) = true := by
  induction l with
  | nil => intro m a h; exact h
  | cons b r ih => intro m a h; exact ih _ _ (Memory.wf_writeByte m h a b)

/-- A byte after a byte string has been written from address `a` on. -/
theorem readByte_writeBytes (l : List Byte) : ∀ (m : List Host.Cell) (a : Nat), Memory.wf m = true → ∀ x,
    readByte (writeBytes m a l) x = if a ≤ x ∧ x < a + l.length then l.getD (x - a) 0 else readByte m x := by
  induction l with
  | nil => intro m a h x; simp [writeBytes]
  | cons b r ih =>
    intro m a h x
    rw [writeBytes, ih _ _ (Memory.wf_writeByte m h a b), readByte_writeByte m h]
    by_cases hx : x = a
    · subst hx; simp
    · by_cases hl : a ≤ x ∧ x < a + (b :: r).length
      · rw [if_pos hl, if_pos (by simp only [List.length_cons] at hl; omega)]
        obtain ⟨k, rfl⟩ : ∃ k, x = a + 1 + k := ⟨x - (a + 1), by omega⟩
        simp [show a + 1 + k - a = k + 1 by omega]
      · rw [if_neg hl, if_neg (by simp only [List.length_cons] at hl; omega), if_neg hx]

@[simp] theorem upTo_length (n : Nat) : (upTo n).length = n := by
  induction n with
  | zero => rfl
  | succ n ih => simp [upTo, ih]

@[simp] theorem mem_upTo (n i : Nat) : i ∈ upTo n ↔ i < n := by
  induction n with
  | zero => simp [upTo]
  | succ n ih => simp [upTo, ih]; omega

theorem upTo_sorted (n : Nat) : (upTo n).Pairwise (· < ·) := by
  induction n with
  | zero => simp [upTo]
  | succ n ih => exact List.pairwise_append.2 ⟨ih, by simp, by simp⟩

/-- Every creel is empty, and so canonical, at reset. -/
theorem creelsCanonical_reset : State.reset.creelsCanonical := by
  intro ch
  have : (State.reset.ch ch).mem.data = [] := by simp [State.reset, State.ch]
  rw [this]; rfl

end Sys2Proof.Machine
end

