-- ==== Sys2Proof/Laws/Keeps.lean ====
section
/-! SUPPORT. What every operation over the state keeps and what it may change: the queue of commands, the clock, a fault log of
at most 64 records, at most 2,048 frames outstanding, the creels (their bytes, or at least their canonical form), the parts of
the module it does not touch, and the channels it does not touch. One lemma per operation, in a form that chains. -/

namespace Sys2Proof.Machine

/-- What an operation may change of the module beside its channels: the parts of the state, and the module mode. -/
structure Effects where
  mod : Bool
  mode : Bool
  tlh : Bool
  trk : Bool
  vlt : Bool
  /-- the vault's slots, or the save in progress -/
  slots : Bool
  /-- packets are sent, while the link is up -/
  send : Bool
  /-- any other change of the host port -/
  hp : Bool
  skn : Bool
  flt : Bool
  side : Bool
  free : Bool

/-- `u` keeps what every operation keeps of `s`, and what `e` does not name; only channels of `cs` differ; the bytes of each
creel are related by `rel`. -/
structure State.Keeps (e : Effects) (cs : ChanId → Prop) (rel : List Host.Cell → List Host.Cell → Prop) (s u : State) : Prop where
  pending : u.pending = s.pending
  now : u.now = s.now
  /-- a restart, which changes every part, begins the mark of R10 again -/
  mark : e.side = false → u.evMark = s.evMark
  log : s.flt.log.length ≤ 64 → u.flt.log.length ≤ 64
  sent : s.hp.outstanding.length ≤ maxOutstanding → u.hp.outstanding.length ≤ maxOutstanding
  creel : ∀ ch : ChanId, rel (s.ch ch).mem.data (u.ch ch).mem.data
  other : ∀ ch : ChanId, ¬ cs ch → u.ch ch = s.ch ch
  mod : e.mod = false → u.mod = s.mod
  mode : e.mode = false → u.mod.mode = s.mod.mode ∧ u.mod.prev = s.mod.prev
  tlh : e.tlh = false → u.tlh = s.tlh
  trk : e.trk = false → u.trk = s.trk
  vlt : e.vlt = false → u.vlt = s.vlt
  slots : e.slots = false → u.vlt.slots = s.vlt.slots ∧ u.vlt.save = s.vlt.save
  hp : e.hp = false → e.send = false ∨ s.hp.state ≠ .up → u.hp = s.hp
  skn : e.skn = false → u.skn = s.skn
  flt : e.flt = false → u.flt = s.flt
  side : e.side = false → u.side = s.side
  free : e.free = false → u.freeCtr = s.freeCtr

/-- A store keeps the canonical form of a creel. -/
abbrev keepsForm (a b : List Host.Cell) : Prop := Memory.wf a = true → Memory.wf b = true

variable {eff : Effects} {cs : ChanId → Prop} {rel : List Host.Cell → List Host.Cell → Prop} {old cur : State}

theorem State.Keeps.of (eff : Effects) (cs : ChanId → Prop) (hr : ∀ a, rel a a) (s : State) : State.Keeps eff cs rel s s :=
  ⟨rfl, rfl, fun _ => rfl, id, id, fun _ => hr _, fun _ _ => rfl, fun _ => rfl, fun _ => ⟨rfl, rfl⟩, fun _ => rfl, fun _ => rfl, fun _ => rfl,
    fun _ => ⟨rfl, rfl⟩, fun _ _ => rfl, fun _ => rfl, fun _ => rfl, fun _ => rfl, fun _ => rfl⟩

theorem State.Keeps.refl (eff : Effects) (cs : ChanId → Prop) (s : State) : State.Keeps eff cs Eq s s := .of eff cs (fun _ => rfl) s
theorem State.Keeps.form (eff : Effects) (cs : ChanId → Prop) (s : State) : State.Keeps eff cs keepsForm s s := .of eff cs (fun _ => id) s

theorem State.Keeps.ite {p : Prop} [Decidable p] {a b : State} (ha : State.Keeps eff cs rel old a)
    (hb : State.Keeps eff cs rel old b) : State.Keeps eff cs rel old (if p then a else b) := by
  split
  · exact ha
  · exact hb

/-- A change of the module's blocks. -/
theorem State.Keeps.upd (h : State.Keeps eff cs rel old cur) (fc : Nat) (md : ModBlk) (tl : Tlh) (tr : TrkMod) (vl : Vlt) (hp : Hp)
    (sk : Skn) (fl : Flt) (sd : SidePort)
    (k1 : eff.mod = true ∨ md = cur.mod) (k2 : eff.mode = true ∨ md.mode = cur.mod.mode ∧ md.prev = cur.mod.prev) (k3 : eff.tlh = true ∨ tl = cur.tlh)
    (k4 : eff.trk = true ∨ tr = cur.trk) (k5 : eff.vlt = true ∨ vl = cur.vlt)
    (k11 : eff.slots = true ∨ vl.slots = cur.vlt.slots ∧ vl.save = cur.vlt.save)
    (k6 : (eff.hp = true ∧ (cur.hp.outstanding.length ≤ maxOutstanding → hp.outstanding.length ≤ maxOutstanding)) ∨ hp = cur.hp)
    (k7 : eff.skn = true ∨ sk = cur.skn)
    (k8 : (eff.flt = true ∧ (cur.flt.log.length ≤ 64 → fl.log.length ≤ 64)) ∨ fl = cur.flt)
    (k9 : eff.side = true ∨ sd = cur.side) (k10 : eff.free = true ∨ fc = cur.freeCtr) :
    State.Keeps eff cs rel old ⟨cur.pending, cur.now, fc, cur.evMark, md, tl, tr, vl, hp, sk, fl, sd, cur.chans⟩ where
  pending := h.pending
  now := h.now
  mark := h.mark
  log := by obtain ⟨-, k⟩ | k := k8 <;> [exact fun w => k (h.log w); exact k ▸ h.log]
  sent := by obtain ⟨-, k⟩ | k := k6 <;> [exact fun w => k (h.sent w); exact k ▸ h.sent]
  creel := h.creel
  other := h.other
  mod := fun z => by obtain k | k := k1 <;> [simp [z] at k; exact k.trans (h.mod z)]
  mode := fun z => by
    obtain k | k := k2 <;> [simp [z] at k; exact ⟨k.1.trans (h.mode z).1, k.2.trans (h.mode z).2⟩]
  tlh := fun z => by obtain k | k := k3 <;> [simp [z] at k; exact k.trans (h.tlh z)]
  trk := fun z => by obtain k | k := k4 <;> [simp [z] at k; exact k.trans (h.trk z)]
  vlt := fun z => by obtain k | k := k5 <;> [simp [z] at k; exact k.trans (h.vlt z)]
  slots := fun z => by
    obtain k | k := k11 <;> [simp [z] at k; exact ⟨k.1.trans (h.slots z).1, k.2.trans (h.slots z).2⟩]
  hp := fun z z' => by obtain k | k := k6 <;> [simp [z] at k; exact k.trans (h.hp z z')]
  skn := fun z => by obtain k | k := k7 <;> [simp [z] at k; exact k.trans (h.skn z)]
  flt := fun z => by obtain k | k := k8 <;> [simp [z] at k; exact k.trans (h.flt z)]
  side := fun z => by obtain k | k := k9 <;> [simp [z] at k; exact k.trans (h.side z)]
  free := fun z => by obtain k | k := k10 <;> [simp [z] at k; exact k.trans (h.free z)]

theorem State.Keeps.setChOf (c : ChanId) (y : Chan) (h : State.Keeps eff cs rel old cur)
    (hd : rel (old.ch c).mem.data (cur.ch c).mem.data → rel (old.ch c).mem.data y.mem.data) (hc : cs c) :
    State.Keeps eff cs rel old (cur.setCh c y) :=
  { h with
    creel := fun d => by
      by_cases q : d = c
      · subst q; rw [State.ch_setCh_self]; exact hd (h.creel d)
      · rw [State.ch_setCh_ne _ _ q]; exact h.creel d
    other := fun d z => by
      have q : d ≠ c := by rintro rfl; exact z hc
      rw [State.ch_setCh_ne _ _ q]; exact h.other d z }

theorem State.Keeps.setCh (c : ChanId) (y : Chan) (h : State.Keeps eff cs rel old cur) (hd : y.mem.data = (cur.ch c).mem.data)
    (hc : cs c) : State.Keeps eff cs rel old (cur.setCh c y) := h.setChOf c y (by rw [hd]; exact id) hc

theorem State.Keeps.modCh (c : ChanId) (f : Chan → Chan) (h : State.Keeps eff cs rel old cur)
    (hf : (f (cur.ch c)).mem.data = (cur.ch c).mem.data) (hc : cs c) : State.Keeps eff cs rel old (cur.modCh c f) := h.setCh c _ hf hc

theorem State.Keeps.setChForm (c : ChanId) (y : Chan) (h : State.Keeps eff cs keepsForm old cur)
    (hd : keepsForm (cur.ch c).mem.data y.mem.data) (hc : cs c) : State.Keeps eff cs keepsForm old (cur.setCh c y) :=
  h.setChOf c y (fun k w => hd (k w)) hc

theorem State.Keeps.modChForm (c : ChanId) (f : Chan → Chan) (h : State.Keeps eff cs keepsForm old cur)
    (hf : keepsForm (cur.ch c).mem.data (f (cur.ch c)).mem.data) (hc : cs c) : State.Keeps eff cs keepsForm old (cur.modCh c f) :=
  h.setChForm c _ hf hc

theorem State.Keeps.foldl {α : Type} (l : List α) (f : State → α → State) (h : State.Keeps eff cs rel old cur)
    (hf : ∀ y a, State.Keeps eff cs rel old y → State.Keeps eff cs rel old (f y a)) : State.Keeps eff cs rel old (l.foldl f cur) := by
  induction l generalizing cur with
  | nil => exact h
  | cons a l ih => exact ih (hf cur a h)

theorem State.Keeps.forCh (l : List ChanId) (f : State → ChanId → State) (h : State.Keeps eff cs rel old cur)
    (hf : ∀ y a, State.Keeps eff cs rel old y → State.Keeps eff cs rel old (f y a)) : State.Keeps eff cs rel old (cur.forCh l f) :=
  h.foldl l f hf

theorem State.Keeps.setMode (m : Mode) (h : State.Keeps eff cs rel old cur) (h1 : eff.mod = true) (h2 : eff.mode = true) :
    State.Keeps eff cs rel old (cur.setMode m) := by
  refine h.upd _ _ _ _ _ _ _ _ _ ?_ ?_ ?_ ?_ ?_ ?_ ?_ ?_ ?_ ?_ ?_ <;> first | exact .inr rfl | exact .inr ⟨rfl, rfl⟩ | exact .inl h1 | exact .inl h2

theorem State.Keeps.drawn (h : State.Keeps eff cs rel old cur) (h1 : eff.free = true) : State.Keeps eff cs rel old cur.drawn := by
  refine h.upd _ _ _ _ _ _ _ _ _ ?_ ?_ ?_ ?_ ?_ ?_ ?_ ?_ ?_ ?_ ?_ <;> first | exact .inr rfl | exact .inr ⟨rfl, rfl⟩ | exact .inl h1

theorem State.Keeps.publish (c : ChanId) (code : Nat) (h : State.Keeps eff cs rel old cur) (hc : cs c) :
    State.Keeps eff cs rel old (cur.publish c code) := h.modCh c _ (by simp) hc

theorem State.Keeps.setChState (c : ChanId) (st : ChState) (h : State.Keeps eff cs rel old cur) (h1 : eff.mod = true) (hc : cs c) :
    State.Keeps eff cs rel old (cur.setChState c st) := by
  rw [State.setChState_eq]
  refine (h.setCh c ((cur.ch c).inState st) rfl hc).upd _ _ _ _ _ _ _ _ _ ?_ ?_ ?_ ?_ ?_ ?_ ?_ ?_ ?_ ?_ ?_ <;>
    first | exact .inr rfl | exact .inr ⟨rfl, rfl⟩ | exact .inl h1 | (right; split <;> first | rfl | exact ⟨rfl, rfl⟩)

theorem State.Keeps.send (p : Packet) (h : State.Keeps eff cs rel old cur) (h1 : eff.send = true) :
    State.Keeps eff cs rel old (cur.send p) := by
  have k := State.send_outstanding cur p
  have q : State.Keeps { eff with hp := true } cs rel old (cur.send p) := by
    have w : State.Keeps { eff with hp := true } cs rel old cur := { h with hp := fun z => by cases z }
    unfold State.send at k ⊢
    split
    · rename_i q
      rw [if_pos q] at k
      refine w.upd _ _ _ _ _ _ _ _ _ ?_ ?_ ?_ ?_ ?_ ?_ ?_ ?_ ?_ ?_ ?_ <;>
        first | exact .inr rfl | exact .inr ⟨rfl, rfl⟩ | exact .inl ⟨rfl, k⟩
    · exact w
  refine { q with hp := fun z z' => ?_ }
  have z'' := z'.resolve_left (by simp [h1])
  have hh := h.hp z (.inr z'')
  rw [← hh] at z'' ⊢
  unfold State.send
  rw [if_neg z'']

theorem State.logRecord_some (s : State) (c : ChanId) (code : Byte) (d a g : Nat) :
    s.logRecord (some c) code d a g = ({ s with flt := (s.logRecord (some c) code d a g).flt } : State).modCh c fun x =>
      { x with flt := x.flt.put s.cycle code } := rfl

theorem State.Keeps.logRecord (c : Option ChanId) (code : Byte) (detail action gapNs : Nat) (h : State.Keeps eff cs rel old cur)
    (h1 : eff.flt = true) (hc : ∀ d ∈ c, cs d) : State.Keeps eff cs rel old (cur.logRecord c code detail action gapNs) := by
  have k := State.logRecord_log cur c code detail action gapNs
  have q : State.Keeps eff cs rel old { cur with flt := (cur.logRecord c code detail action gapNs).flt } := by
    refine h.upd _ _ _ _ _ _ _ _ _ ?_ ?_ ?_ ?_ ?_ ?_ ?_ ?_ ?_ ?_ ?_ <;> first | exact .inr rfl | exact .inr ⟨rfl, rfl⟩ | exact .inl ⟨h1, fun _ => k⟩
  cases c with
  | none => exact q
  | some c => rw [State.logRecord_some]; exact q.modCh c _ rfl (hc c rfl)

@[simp] theorem Hp.event_outstanding (h : Hp) (k : Nat) : (h.event k).outstanding = h.outstanding := rfl
@[simp] theorem Hp.discard_outstanding (h : Hp) : h.discard.outstanding = h.outstanding := by
  unfold Hp.discard; split <;> rfl

theorem afterSeq_length (k : BitVec 12) (l : List Sent) : (afterSeq k l).length ≤ l.length := by
  unfold afterSeq
  split
  · have := (List.dropWhile_suffix (l := l) (p := (·.seq != k))).length_le
    rw [List.length_drop]; omega
  · exact Nat.le_refl _

theorem Hp.ack_outstanding (h : Hp) (k : BitVec 12) (t : Tbu) (w : h.outstanding.length ≤ maxOutstanding) :
    (h.ack k t).outstanding.length ≤ maxOutstanding :=
  Hp.fill_outstanding _ _ _ (Nat.le_trans (afterSeq_length k h.outstanding) w)

theorem replayFrom_length (k a : BitVec 12) (l : List Sent) : (replayFrom k a l).length = l.length := by
  unfold replayFrom
  rw [List.length_append, List.length_map, ← List.length_append, List.takeWhile_append_dropWhile]

@[simp] theorem Hp.lackOn_outstanding (n : Nat) (h : Hp) : (Hp.lackOn n h).outstanding = h.outstanding := by
  induction n generalizing h with
  | zero => rfl
  | succ n ih =>
    unfold Hp.lackOn
    (repeat' split) <;> first | rfl | (rw [ih])

theorem Mem.writeThrough_form (m : Mem) (p : Fin 4) (addr : Nat) (bytes : List Byte) (now : Tbu) :
    keepsForm m.data (m.writeThrough p addr bytes now).data := by
  intro w
  have eff : (m.writeThrough p addr bytes now).data = writeBytes m.data addr bytes := by
    unfold Mem.writeThrough
    refine (foldl_keeps Mem.data _ ?_ _ _).trans rfl
    exact fun m i => rfl
  rw [eff]
  exact Memory.wf_writeBytes _ _ _ w

theorem Chan.creelWrite_form (c : Chan) (p : Fin 4) (addr : Nat) (bytes : List Byte) (now : Tbu) :
    keepsForm c.mem.data (c.creelWrite p addr bytes now).mem.data := (c.outTo (q16 now)).mem.writeThrough_form p addr bytes now

theorem Chan.winWrite_form (c : Chan) (off : Nat) (data : List Word) (now : Tbu) :
    keepsForm c.mem.data (c.winWrite off data now).1.mem.data := by
  unfold Chan.winWrite
  split
  · exact c.creelWrite_form _ _ _ _
  · exact id

theorem Chan.flushStaged_form (c : Chan) (q : Nat) (now : Tbu) : keepsForm c.mem.data (c.flushStaged q now).mem.data := by
  unfold Chan.flushStaged
  generalize (c.stq.staged.filter fun x => x.queue == q) = l
  induction l generalizing c with
  | nil => exact id
  | cons a l ih => exact fun w => ih _ (c.creelWrite_form _ _ _ _ w)

theorem Chan.receiveStaged_form (now : Tbu) (n : Nat) (c : Chan) : keepsForm c.mem.data (Chan.receiveStaged now n c).mem.data := by
  induction n generalizing c with
  | zero => exact id
  | succ n ih =>
    unfold Chan.receiveStaged
    split
    · exact id
    · split
      · exact fun w => ih _ (Chan.creelWrite_form _ _ _ _ _ w)
      · exact id

theorem Chan.feedTrain_form (c : Chan) (now : Tbu) : keepsForm c.mem.data (c.feedTrain now).mem.data := by
  unfold Chan.feedTrain
  dsimp only
  split
  · exact c.creelWrite_form _ _ _ _
  · exact id

theorem Chan.feedService_form (c : Chan) (now : Tbu) : keepsForm c.mem.data (c.feedService now).mem.data := by
  unfold Chan.feedService
  (repeat' split) <;> first
    | exact id
    | exact c.feedTrain_form now
    | exact c.creelWrite_form _ _ _ _
    | (intro w; simpa using w)

theorem Chan.feedCreel_form (c : Chan) (cyc : Nat) (now : Tbu) : keepsForm c.mem.data (c.feedCreel cyc now).mem.data := by
  intro w
  simp only [Chan.feedCreel, Mem.feedAgain_data, Mem.feedPin_data, Mem.feedHead_data, Mem.feedAhead_data, Chan.feedFill_data, Chan.feedDirect_data]
  exact Chan.feedService_form _ _ (Chan.receiveStaged_form _ _ _ w)

theorem Chan.readUse_form (c : Chan) (keep' : List Nat) (free : Nat) (now : Tbu) (r : CreelReq) (miss : Option (Fin 5)) :
    keepsForm c.mem.data (c.readUse keep' free now r miss).mem.data := by
  unfold Chan.readUse
  (repeat' split) <;> first | exact id | exact c.creelWrite_form _ _ _ _ | (intro w; simpa using w)

theorem Chan.readDone_form (c : Chan) (keep' : List Nat) (free : Nat) (now : Tbu) (last : Option (Fin 5)) :
    keepsForm c.mem.data (c.readDone keep' free now last).mem.data := by
  unfold Chan.readDone
  dsimp only
  split
  · exact id
  · exact fun w => Chan.readUse_form _ _ _ _ _ _ w

theorem Chan.creelInvalid_form (c : Chan) : keepsForm c.mem.data c.creelInvalid.mem.data := fun _ => rfl

theorem Chan.dumpRecord_form (c : Chan) (now : Tbu) (k : Fin 4) : keepsForm c.mem.data (c.dumpRecord now k).mem.data := by
  simp only [Chan.dumpRecord]
  split
  · exact id
  · split
    · exact id
    · split
      · simp
      · refine fun w => Mem.writeThrough_form _ _ _ _ _ ?_
        simpa using w

/-- `Keeps` of a state given by its parts. -/
def State.KeepsMk (eff : Effects) (cs : ChanId → Prop) (rel : List Host.Cell → List Host.Cell → Prop) (old : State) (pd : List Instr)
    (nw : Tbu) (fc : Nat) (em : List Nat) (md : ModBlk) (tl : Tlh) (tr : TrkMod) (vl : Vlt) (hp : Hp) (sk : Skn) (fl : Flt) (sd : SidePort)
    (ch : Vector Chan 16) : Prop := State.Keeps eff cs rel old ⟨pd, nw, fc, em, md, tl, tr, vl, hp, sk, fl, sd, ch⟩

theorem State.Keeps.mk_iff (pd : List Instr) (nw : Tbu) (fc : Nat) (em : List Nat) (md : ModBlk) (tl : Tlh) (tr : TrkMod) (vl : Vlt) (hp : Hp)
    (sk : Skn) (fl : Flt) (sd : SidePort) (ch : Vector Chan 16) :
    State.Keeps eff cs rel old ⟨pd, nw, fc, em, md, tl, tr, vl, hp, sk, fl, sd, ch⟩ ↔
      State.KeepsMk eff cs rel old pd nw fc em md tl tr vl hp sk fl sd ch := Iff.rfl

theorem State.Keeps.updMk (h : State.Keeps eff cs rel old cur) (fc : Nat) (md : ModBlk) (tl : Tlh) (tr : TrkMod) (vl : Vlt) (hp : Hp)
    (sk : Skn) (fl : Flt) (sd : SidePort)
    (k1 : eff.mod = true ∨ md = cur.mod) (k2 : eff.mode = true ∨ md.mode = cur.mod.mode ∧ md.prev = cur.mod.prev) (k3 : eff.tlh = true ∨ tl = cur.tlh)
    (k4 : eff.trk = true ∨ tr = cur.trk) (k5 : eff.vlt = true ∨ vl = cur.vlt)
    (k11 : eff.slots = true ∨ vl.slots = cur.vlt.slots ∧ vl.save = cur.vlt.save)
    (k6 : (eff.hp = true ∧ (cur.hp.outstanding.length ≤ maxOutstanding → hp.outstanding.length ≤ maxOutstanding)) ∨ hp = cur.hp)
    (k7 : eff.skn = true ∨ sk = cur.skn)
    (k8 : (eff.flt = true ∧ (cur.flt.log.length ≤ 64 → fl.log.length ≤ 64)) ∨ fl = cur.flt)
    (k9 : eff.side = true ∨ sd = cur.side) (k10 : eff.free = true ∨ fc = cur.freeCtr) :
    State.KeepsMk eff cs rel old cur.pending cur.now fc cur.evMark md tl tr vl hp sk fl sd cur.chans :=
  h.upd fc md tl tr vl hp sk fl sd k1 k2 k3 k4 k5 k11 k6 k7 k8 k9 k10

theorem State.Keeps.jncFire (ch : ChanId) (m : Word) (h : State.Keeps eff cs rel old cur) (hc : cs ch) :
    State.Keeps eff cs rel old (State.jncFire cur ch m) := by
  unfold State.jncFire
  repeat' (first
    | with_reducible assumption
    | with_reducible apply State.Keeps.modCh
    | with_reducible apply State.Keeps.ite
    | with_reducible apply State.Keeps.updMk
    | (refine Or.inl ?_; assumption)
    | exact Or.inr rfl
    | exact Or.inr ⟨rfl, rfl⟩
    | (refine Or.inl ⟨by assumption, ?_⟩; exact fun w => w)
    | simp only [State.Keeps.mk_iff]
    | (intro d hd; cases hd; done)
    | (intro d hd; cases hd; assumption)
    | (refine (?_ : @Eq (List Host.Cell) _ _); (repeat' split) <;> simp))

theorem State.Keeps.jncClear (ch : ChanId) (h : State.Keeps eff cs rel old cur) (hc : cs ch) :
    State.Keeps eff cs rel old (State.jncClear cur ch) := by
  unfold State.jncClear
  repeat' (first
    | with_reducible assumption
    | with_reducible apply State.Keeps.modCh
    | with_reducible apply State.Keeps.updMk
    | (refine Or.inl ?_; assumption)
    | exact Or.inr rfl
    | exact Or.inr ⟨rfl, rfl⟩
    | (refine Or.inl ⟨by assumption, ?_⟩; exact fun w => w)
    | simp only [State.Keeps.mk_iff]
    | (intro d hd; cases hd; done)
    | (intro d hd; cases hd; assumption)
    | (refine (?_ : @Eq (List Host.Cell) _ _); (repeat' split) <;> simp))

theorem State.Keeps.atArm (ch : ChanId) (m : BitVec 4) (h : State.Keeps eff cs rel old cur) (hc : cs ch) :
    State.Keeps eff cs rel old (cur.atArm ch m) :=
  State.Keeps.ite (h.modCh ch _ (foldl_keeps (fun c : Chan => c.mem.data) _ (fun c k => by simp) _ _) hc) h

theorem State.Keeps.atCancel (ch : ChanId) (m : BitVec 4) (h : State.Keeps eff cs rel old cur) (hc : cs ch) :
    State.Keeps eff cs rel old (cur.atCancel ch m) :=
  h.modCh ch _ (foldl_keeps (fun c : Chan => c.mem.data) _ (fun c k => by simp) _ _) hc

theorem State.Keeps.counterWrite (ch : ChanId) (k : Fin 4) (v : Word) (h : State.Keeps eff cs rel old cur) (hc : cs ch) :
    State.Keeps eff cs rel old (State.counterWrite cur ch k v) := by
  unfold State.counterWrite
  repeat' (first
    | with_reducible assumption
    | with_reducible apply State.Keeps.modCh
    | with_reducible apply State.Keeps.ite
    | with_reducible apply State.Keeps.updMk
    | (refine Or.inl ?_; assumption)
    | exact Or.inr rfl
    | exact Or.inr ⟨rfl, rfl⟩
    | (refine Or.inl ⟨by assumption, ?_⟩; exact fun w => w)
    | simp only [State.Keeps.mk_iff]
    | (intro d hd; cases hd; done)
    | (intro d hd; cases hd; assumption)
    | (refine (?_ : @Eq (List Host.Cell) _ _); (repeat' split) <;> simp))

theorem State.Keeps.grpEnWrite (ch : ChanId) (v : Word) (h : State.Keeps eff cs rel old cur) (hc : cs ch) :
    State.Keeps eff cs rel old (State.grpEnWrite cur ch v) := by
  unfold State.grpEnWrite
  repeat' (first
    | with_reducible assumption
    | with_reducible apply State.Keeps.modCh
    | with_reducible apply State.Keeps.updMk
    | (refine Or.inl ?_; assumption)
    | exact Or.inr rfl
    | exact Or.inr ⟨rfl, rfl⟩
    | (refine Or.inl ⟨by assumption, ?_⟩; exact fun w => w)
    | simp only [State.Keeps.mk_iff]
    | (intro d hd; cases hd; done)
    | (intro d hd; cases hd; assumption)
    | (refine (?_ : @Eq (List Host.Cell) _ _); (repeat' split) <;> simp))

theorem State.Keeps.rangeWrite (ch : ChanId) (v : Word) (h : State.Keeps eff cs rel old cur) (hc : cs ch) :
    State.Keeps eff cs rel old (State.rangeWrite cur ch v).1 := by
  unfold State.rangeWrite
  try simp only [apply_ite Prod.fst]
  repeat' (first
    | with_reducible assumption
    | with_reducible apply State.Keeps.setCh
    | with_reducible apply State.Keeps.ite
    | (intro d hd; cases hd; done)
    | (intro d hd; cases hd; assumption)
    | (refine (?_ : @Eq (List Host.Cell) _ _); (repeat' split) <;> simp)
    | split)

theorem State.Keeps.limitWrite (ch : ChanId) (k : Fin 4) (v : Word) (h : State.Keeps eff cs rel old cur) (hc : cs ch) :
    State.Keeps eff cs rel old (State.limitWrite cur ch k v).1 := by
  unfold State.limitWrite
  try simp only [apply_ite Prod.fst]
  repeat' (first
    | with_reducible assumption
    | with_reducible apply State.Keeps.setCh
    | (intro d hd; cases hd; done)
    | (intro d hd; cases hd; assumption)
    | (refine (?_ : @Eq (List Host.Cell) _ _); (repeat' split) <;> simp)
    | split)

theorem State.Keeps.strobe (ch : ChanId) (src : Nat) (h : State.Keeps eff cs rel old cur) (hc : cs ch) :
    State.Keeps eff cs rel old (State.strobe cur ch src) := by
  unfold State.strobe
  repeat' (first
    | with_reducible assumption
    | with_reducible apply State.Keeps.modCh
    | (intro d hd; cases hd; done)
    | (intro d hd; cases hd; assumption)
    | (refine (?_ : @Eq (List Host.Cell) _ _); (repeat' split) <;> simp))

theorem State.Keeps.hopWrite (ch : ChanId) (h : State.Keeps eff cs rel old cur) (kfree : eff.free = true) (hc : cs ch) :
    State.Keeps eff cs rel old (State.hopWrite cur ch) := by
  unfold State.hopWrite
  repeat' (first
    | with_reducible assumption
    | with_reducible apply State.Keeps.drawn
    | with_reducible apply State.Keeps.setCh
    | with_reducible apply State.Keeps.ite
    | with_reducible apply State.Keeps.updMk
    | (refine Or.inl ?_; assumption)
    | exact Or.inr rfl
    | exact Or.inr ⟨rfl, rfl⟩
    | (refine Or.inl ⟨by assumption, ?_⟩; exact fun w => w)
    | simp only [State.Keeps.mk_iff]
    | (intro d hd; cases hd; done)
    | (intro d hd; cases hd; assumption)
    | (refine (?_ : @Eq (List Host.Cell) _ _); (repeat' split) <;> simp))

theorem State.Keeps.hopApply (ch : ChanId) (op : BitVec 3) (h : State.Keeps eff cs rel old cur) (hc : cs ch) :
    State.Keeps eff cs rel old (State.hopApply cur ch op) := by
  unfold State.hopApply
  repeat' (first
    | with_reducible assumption
    | with_reducible apply State.Keeps.modCh
    | with_reducible apply State.Keeps.ite
    | with_reducible apply State.Keeps.updMk
    | (refine Or.inl ?_; assumption)
    | exact Or.inr rfl
    | exact Or.inr ⟨rfl, rfl⟩
    | (refine Or.inl ⟨by assumption, ?_⟩; exact fun w => w)
    | simp only [State.Keeps.mk_iff]
    | (intro d hd; cases hd; done)
    | (intro d hd; cases hd; assumption)
    | (refine (?_ : @Eq (List Host.Cell) _ _); (repeat' split) <;> simp))

theorem State.Keeps.enterDrain (ch : ChanId) (done : Bool) (h : State.Keeps eff cs rel old cur) (kmod : eff.mod = true) (hc : cs ch) :
    State.Keeps eff cs rel old (State.enterDrain cur ch done) := by
  unfold State.enterDrain
  repeat' (first
    | with_reducible assumption
    | with_reducible apply State.Keeps.setChState
    | with_reducible apply State.Keeps.modCh
    | with_reducible apply State.Keeps.setCh
    | with_reducible apply State.Keeps.updMk
    | (refine Or.inl ?_; assumption)
    | exact Or.inr rfl
    | exact Or.inr ⟨rfl, rfl⟩
    | (refine Or.inl ⟨by assumption, ?_⟩; exact fun w => w)
    | simp only [State.Keeps.mk_iff]
    | (intro d hd; cases hd; done)
    | (intro d hd; cases hd; assumption)
    | (refine (?_ : @Eq (List Host.Cell) _ _); (repeat' split) <;> simp))

theorem State.Keeps.qcpl (ch : ChanId) (i : Nat) (code detail : Byte) (h : State.Keeps eff cs rel old cur) (ksend :
    eff.send = true) (hc : cs ch) :
    State.Keeps eff cs rel old (State.qcpl cur ch i code detail) := by
  unfold State.qcpl
  repeat' (first
    | with_reducible assumption
    | with_reducible apply State.Keeps.send
    | (intro d hd; cases hd; done)
    | (intro d hd; cases hd; assumption))

theorem State.Keeps.closeQueue (ch : ChanId) (i : Nat) (h : State.Keeps eff cs rel old cur) (ksend : eff.send = true)
    (hc : cs ch) :
    State.Keeps eff cs rel old (State.closeQueue cur ch i) := by
  unfold State.closeQueue
  repeat' (first
    | with_reducible assumption
    | with_reducible apply State.Keeps.qcpl
    | with_reducible apply State.Keeps.modCh
    | with_reducible apply State.Keeps.updMk
    | (refine Or.inl ?_; assumption)
    | exact Or.inr rfl
    | exact Or.inr ⟨rfl, rfl⟩
    | (refine Or.inl ⟨by assumption, ?_⟩; exact fun w => w)
    | simp only [State.Keeps.mk_iff]
    | (intro d hd; cases hd; done)
    | (intro d hd; cases hd; assumption)
    | (refine (?_ : @Eq (List Host.Cell) _ _); (repeat' split) <;> simp))

theorem State.Keeps.closeEnded (ch : ChanId) (h : State.Keeps eff cs rel old cur) (ksend : eff.send = true) (hc : cs ch) :
    State.Keeps eff cs rel old (State.closeEnded cur ch) := by
  unfold State.closeEnded
  repeat' (first
    | with_reducible assumption
    | with_reducible apply State.Keeps.closeQueue
    | with_reducible apply State.Keeps.foldl
    | (intro d hd; cases hd; done)
    | (intro d hd; cases hd; assumption)
    | (intro _ _ _))

theorem State.Keeps.enterRest (ch : ChanId) (h : State.Keeps eff cs rel old cur) (kmod : eff.mod = true) (ksend :
    eff.send = true) (hc : cs ch) :
    State.Keeps eff cs rel old (State.enterRest cur ch) := by
  unfold State.enterRest
  repeat' (first
    | with_reducible assumption
    | with_reducible apply State.Keeps.setChState
    | with_reducible apply State.Keeps.closeEnded
    | with_reducible apply State.Keeps.modCh
    | with_reducible apply State.Keeps.setCh
    | (intro d hd; cases hd; done)
    | (intro d hd; cases hd; assumption)
    | (refine (?_ : @Eq (List Host.Cell) _ _); (repeat' split) <;> simp))

theorem State.Keeps.enterHeld (ch : ChanId) (cause : Byte) (b : Q16) (hard : Bool) (h : State.Keeps eff cs rel old cur)
    (kmod : eff.mod = true) (hc : cs ch) :
    State.Keeps eff cs rel old (State.enterHeld cur ch cause b hard) := by
  unfold State.enterHeld
  repeat' (first
    | with_reducible assumption
    | with_reducible apply State.Keeps.setChState
    | with_reducible apply State.Keeps.modCh
    | with_reducible apply State.Keeps.setCh
    | with_reducible apply State.Keeps.ite
    | with_reducible apply State.Keeps.updMk
    | (refine Or.inl ?_; assumption)
    | exact Or.inr rfl
    | exact Or.inr ⟨rfl, rfl⟩
    | (refine Or.inl ⟨by assumption, ?_⟩; exact fun w => w)
    | simp only [State.Keeps.mk_iff]
    | (intro d hd; cases hd; done)
    | (intro d hd; cases hd; assumption)
    | (refine (?_ : @Eq (List Host.Cell) _ _); (repeat' split) <;> simp))

theorem State.Keeps.holdNow (ch : ChanId) (cause : Byte) (h : State.Keeps eff cs rel old cur) (kmod : eff.mod = true)
    (hc : cs ch) :
    State.Keeps eff cs rel old (State.holdNow cur ch cause) := by
  unfold State.holdNow
  repeat' (first
    | with_reducible assumption
    | with_reducible apply State.Keeps.enterHeld
    | with_reducible apply State.Keeps.modCh
    | with_reducible apply State.Keeps.updMk
    | (refine Or.inl ?_; assumption)
    | exact Or.inr rfl
    | exact Or.inr ⟨rfl, rfl⟩
    | (refine Or.inl ⟨by assumption, ?_⟩; exact fun w => w)
    | simp only [State.Keeps.mk_iff]
    | (intro d hd; cases hd; done)
    | (intro d hd; cases hd; assumption)
    | (refine (?_ : @Eq (List Host.Cell) _ _); (repeat' split) <;> simp))

theorem State.Keeps.unmasked (ch : ChanId) (code : Byte) (detail : Nat) (h : State.Keeps eff cs rel old cur) (kmod :
    eff.mod = true) (kflt : eff.flt = true) (hc : cs ch) :
    State.Keeps eff cs rel old (State.unmasked cur ch code detail) := by
  unfold State.unmasked
  repeat' (first
    | with_reducible assumption
    | with_reducible apply State.Keeps.logRecord
    | with_reducible apply State.Keeps.enterDrain
    | with_reducible apply State.Keeps.modCh
    | with_reducible apply State.Keeps.ite
    | with_reducible apply State.Keeps.updMk
    | (refine Or.inl ?_; assumption)
    | exact Or.inr rfl
    | exact Or.inr ⟨rfl, rfl⟩
    | (refine Or.inl ⟨by assumption, ?_⟩; exact fun w => w)
    | simp only [State.Keeps.mk_iff]
    | (intro d hd; cases hd; done)
    | (intro d hd; cases hd; assumption)
    | (refine (?_ : @Eq (List Host.Cell) _ _); (repeat' split) <;> simp))

theorem State.Keeps.covered (ch : ChanId) (code : Byte) (detail gapNs : Nat) (second : Bool) (h : State.Keeps eff cs rel
    old cur) (kmod : eff.mod = true) (kflt : eff.flt = true) (hc : cs ch) :
    State.Keeps eff cs rel old (State.covered cur ch code detail gapNs second) := by
  unfold State.covered
  repeat' (first
    | with_reducible assumption
    | with_reducible apply State.Keeps.logRecord
    | with_reducible apply State.Keeps.unmasked
    | with_reducible apply State.Keeps.ite
    | (intro d hd; cases hd; done)
    | (intro d hd; cases hd; assumption))

theorem State.Keeps.bobCreel (ch : ChanId) (detail : Nat) (h : State.Keeps eff cs rel old cur) (kmod : eff.mod = true)
    (kflt : eff.flt = true) (hc : cs ch) :
    State.Keeps eff cs rel old (State.bobCreel cur ch detail) := by
  unfold State.bobCreel
  repeat' (first
    | with_reducible assumption
    | with_reducible apply State.Keeps.unmasked
    | with_reducible apply State.Keeps.ite
    | (intro d hd; cases hd; done)
    | (intro d hd; cases hd; assumption))

theorem State.Keeps.tuneTo (ch : ChanId) (i : Fin 4) (why : TuneFor) (setting : Word) (fresh : Bool) (h : State.Keeps
    eff cs rel old cur) (hc : cs ch) :
    State.Keeps eff cs rel old (State.tuneTo cur ch i why setting fresh) := by
  unfold State.tuneTo
  repeat' (first
    | with_reducible assumption
    | with_reducible apply State.Keeps.modCh
    | (intro d hd; cases hd; done)
    | (intro d hd; cases hd; assumption)
    | (refine (?_ : @Eq (List Host.Cell) _ _); (repeat' split) <;> simp))

theorem State.Keeps.pairLost (ch : ChanId) (lane : Bool) (i : Fin 4) (h : State.Keeps eff cs rel old cur) (kmod :
    eff.mod = true) (kflt : eff.flt = true) (hc : cs ch) :
    State.Keeps eff cs rel old (State.pairLost cur ch lane i) := by
  unfold State.pairLost
  repeat' (first
    | with_reducible assumption
    | with_reducible apply State.Keeps.unmasked
    | with_reducible apply State.Keeps.modCh
    | with_reducible apply State.Keeps.ite
    | with_reducible apply State.Keeps.updMk
    | (refine Or.inl ?_; assumption)
    | exact Or.inr rfl
    | exact Or.inr ⟨rfl, rfl⟩
    | (refine Or.inl ⟨by assumption, ?_⟩; exact fun w => w)
    | simp only [State.Keeps.mk_iff]
    | (intro d hd; cases hd; done)
    | (intro d hd; cases hd; assumption)
    | (refine (?_ : @Eq (List Host.Cell) _ _); (repeat' split) <;> simp))

theorem State.Keeps.activeFail (ch : ChanId) (lane : Bool) (h : State.Keeps eff cs rel old cur) (kmod : eff.mod = true)
    (kflt : eff.flt = true) (hc : cs ch) :
    State.Keeps eff cs rel old (State.activeFail cur ch lane) := by
  unfold State.activeFail
  repeat' (first
    | with_reducible assumption
    | with_reducible apply State.Keeps.covered
    | with_reducible apply State.Keeps.tuneTo
    | with_reducible apply State.Keeps.pairLost
    | with_reducible apply State.Keeps.modCh
    | with_reducible apply State.Keeps.ite
    | with_reducible apply State.Keeps.updMk
    | (refine Or.inl ?_; assumption)
    | exact Or.inr rfl
    | exact Or.inr ⟨rfl, rfl⟩
    | (refine Or.inl ⟨by assumption, ?_⟩; exact fun w => w)
    | simp only [State.Keeps.mk_iff]
    | (intro d hd; cases hd; done)
    | (intro d hd; cases hd; assumption)
    | (refine (?_ : @Eq (List Host.Cell) _ _); (repeat' split) <;> simp))

theorem State.Keeps.idleFail (ch : ChanId) (i : Fin 4) (h : State.Keeps eff cs rel old cur) (kmod : eff.mod = true)
    (kflt : eff.flt = true) (hc : cs ch) :
    State.Keeps eff cs rel old (State.idleFail cur ch i) := by
  unfold State.idleFail
  repeat' (first
    | with_reducible assumption
    | with_reducible apply State.Keeps.pairLost
    | with_reducible apply State.Keeps.covered
    | with_reducible apply State.Keeps.modCh
    | with_reducible apply State.Keeps.ite
    | with_reducible apply State.Keeps.updMk
    | (refine Or.inl ?_; assumption)
    | exact Or.inr rfl
    | exact Or.inr ⟨rfl, rfl⟩
    | (refine Or.inl ⟨by assumption, ?_⟩; exact fun w => w)
    | simp only [State.Keeps.mk_iff]
    | (intro d hd; cases hd; done)
    | (intro d hd; cases hd; assumption)
    | (refine (?_ : @Eq (List Host.Cell) _ _); (repeat' split) <;> simp))

theorem State.Keeps.tuneEnds (ch : ChanId) (i : Fin 4) (h : State.Keeps eff cs rel old cur) (kmod : eff.mod = true)
    (kflt : eff.flt = true) (hc : cs ch) :
    State.Keeps eff cs rel old (State.tuneEnds cur ch i) := by
  unfold State.tuneEnds
  repeat' (first
    | with_reducible assumption
    | with_reducible apply State.Keeps.activeFail
    | with_reducible apply State.Keeps.idleFail
    | with_reducible apply State.Keeps.modCh
    | with_reducible apply State.Keeps.ite
    | (intro d hd; cases hd; done)
    | (intro d hd; cases hd; assumption)
    | (refine (?_ : @Eq (List Host.Cell) _ _); (repeat' split) <;> simp))

theorem State.Keeps.failoverEnds (ch : ChanId) (lane : Bool) (h : State.Keeps eff cs rel old cur) (kmod : eff.mod =
    true) (kflt : eff.flt = true) (hc : cs ch) :
    State.Keeps eff cs rel old (State.failoverEnds cur ch lane) := by
  unfold State.failoverEnds
  repeat' (first
    | with_reducible assumption
    | with_reducible apply State.Keeps.pairLost
    | with_reducible apply State.Keeps.tuneTo
    | with_reducible apply State.Keeps.modCh
    | with_reducible apply State.Keeps.ite
    | with_reducible apply State.Keeps.updMk
    | (refine Or.inl ?_; assumption)
    | exact Or.inr rfl
    | exact Or.inr ⟨rfl, rfl⟩
    | (refine Or.inl ⟨by assumption, ?_⟩; exact fun w => w)
    | simp only [State.Keeps.mk_iff]
    | (intro d hd; cases hd; done)
    | (intro d hd; cases hd; assumption)
    | (refine (?_ : @Eq (List Host.Cell) _ _); (repeat' split) <;> simp))

theorem State.Keeps.muxFailover (ch : ChanId) (lane : Bool) (h : State.Keeps eff cs rel old cur) (kmod : eff.mod = true)
    (kflt : eff.flt = true) (hc : cs ch) :
    State.Keeps eff cs rel old (State.muxFailover cur ch lane) := by
  unfold State.muxFailover
  repeat' (first
    | with_reducible assumption
    | with_reducible apply State.Keeps.publish
    | with_reducible apply State.Keeps.covered
    | with_reducible apply State.Keeps.modCh
    | with_reducible apply State.Keeps.ite
    | with_reducible apply State.Keeps.updMk
    | (refine Or.inl ?_; assumption)
    | exact Or.inr rfl
    | exact Or.inr ⟨rfl, rfl⟩
    | (refine Or.inl ⟨by assumption, ?_⟩; exact fun w => w)
    | simp only [State.Keeps.mk_iff]
    | (intro d hd; cases hd; done)
    | (intro d hd; cases hd; assumption)
    | (refine (?_ : @Eq (List Host.Cell) _ _); (repeat' split) <;> simp))

theorem State.Keeps.muxTakeover (ch : ChanId) (lane : Bool) (h : State.Keeps eff cs rel old cur) (hc : cs ch) :
    State.Keeps eff cs rel old (State.muxTakeover cur ch lane) := by
  unfold State.muxTakeover
  repeat' (first
    | with_reducible assumption
    | with_reducible apply State.Keeps.modCh
    | with_reducible apply State.Keeps.updMk
    | (refine Or.inl ?_; assumption)
    | exact Or.inr rfl
    | exact Or.inr ⟨rfl, rfl⟩
    | (refine Or.inl ⟨by assumption, ?_⟩; exact fun w => w)
    | simp only [State.Keeps.mk_iff]
    | (intro d hd; cases hd; done)
    | (intro d hd; cases hd; assumption)
    | (refine (?_ : @Eq (List Host.Cell) _ _); (repeat' split) <;> simp))

theorem State.Keeps.muxCommand (ch : ChanId) (lane : Bool) (h : State.Keeps eff cs rel old cur) (hc : cs ch) :
    State.Keeps eff cs rel old (State.muxCommand cur ch lane) := by
  unfold State.muxCommand
  repeat' (first
    | with_reducible assumption
    | with_reducible apply State.Keeps.covered
    | with_reducible apply State.Keeps.modCh
    | with_reducible apply State.Keeps.ite
    | with_reducible apply State.Keeps.updMk
    | (refine Or.inl ?_; assumption)
    | exact Or.inr rfl
    | exact Or.inr ⟨rfl, rfl⟩
    | (refine Or.inl ⟨by assumption, ?_⟩; exact fun w => w)
    | simp only [State.Keeps.mk_iff]
    | (intro d hd; cases hd; done)
    | (intro d hd; cases hd; assumption)
    | (refine (?_ : @Eq (List Host.Cell) _ _); (repeat' split) <;> simp))

theorem State.Keeps.synEffect (ch : ChanId) (lane : Bool) (cmd : Nat) (atPos : Bool) (setting : Word) (h : State.Keeps
    eff cs rel old cur) (hc : cs ch) :
    State.Keeps eff cs rel old (State.synEffect cur ch lane cmd atPos setting) := by
  unfold State.synEffect
  repeat' (first
    | with_reducible assumption
    | with_reducible apply State.Keeps.tuneTo
    | with_reducible apply State.Keeps.modCh
    | with_reducible apply State.Keeps.ite
    | with_reducible apply State.Keeps.updMk
    | (refine Or.inl ?_; assumption)
    | exact Or.inr rfl
    | exact Or.inr ⟨rfl, rfl⟩
    | (refine Or.inl ⟨by assumption, ?_⟩; exact fun w => w)
    | simp only [State.Keeps.mk_iff]
    | (intro d hd; cases hd; done)
    | (intro d hd; cases hd; assumption)
    | (refine (?_ : @Eq (List Host.Cell) _ _); (repeat' split) <;> simp)
    | split)

theorem State.Keeps.synCommand (ch : ChanId) (lane : Bool) (cmd : Nat) (atPos : Bool) (h : State.Keeps eff cs rel old
    cur) (hc : cs ch) :
    State.Keeps eff cs rel old (State.synCommand cur ch lane cmd atPos) := by
  unfold State.synCommand
  repeat' (first
    | with_reducible assumption
    | with_reducible apply State.Keeps.synEffect
    | with_reducible apply State.Keeps.modCh
    | with_reducible apply State.Keeps.ite
    | (intro d hd; cases hd; done)
    | (intro d hd; cases hd; assumption)
    | (refine (?_ : @Eq (List Host.Cell) _ _); (repeat' split) <;> simp)
    | split)

theorem State.Keeps.runQueued (ch : ChanId) (lane : Bool) (h : State.Keeps eff cs rel old cur) (hc : cs ch) :
    State.Keeps eff cs rel old (State.runQueued cur ch lane) := by
  unfold State.runQueued
  repeat' (first
    | with_reducible assumption
    | with_reducible apply State.Keeps.synEffect
    | with_reducible apply State.Keeps.modCh
    | with_reducible apply State.Keeps.foldl
    | with_reducible apply State.Keeps.ite
    | with_reducible apply State.Keeps.updMk
    | (refine Or.inl ?_; assumption)
    | exact Or.inr rfl
    | exact Or.inr ⟨rfl, rfl⟩
    | (refine Or.inl ⟨by assumption, ?_⟩; exact fun w => w)
    | simp only [State.Keeps.mk_iff]
    | (intro d hd; cases hd; done)
    | (intro d hd; cases hd; assumption)
    | (refine (?_ : @Eq (List Host.Cell) _ _); (repeat' split) <;> simp)
    | split
    | (intro _ _ _))

theorem State.Keeps.armSynths (ch : ChanId) (h : State.Keeps eff cs rel old cur) (hc : cs ch) :
    State.Keeps eff cs rel old (State.armSynths cur ch) := by
  unfold State.armSynths
  repeat' (first
    | with_reducible assumption
    | with_reducible apply State.Keeps.tuneTo
    | with_reducible apply State.Keeps.modCh
    | with_reducible apply State.Keeps.ite
    | with_reducible apply State.Keeps.updMk
    | (refine Or.inl ?_; assumption)
    | exact Or.inr rfl
    | exact Or.inr ⟨rfl, rfl⟩
    | (refine Or.inl ⟨by assumption, ?_⟩; exact fun w => w)
    | simp only [State.Keeps.mk_iff]
    | (intro d hd; cases hd; done)
    | (intro d hd; cases hd; assumption)
    | (refine (?_ : @Eq (List Host.Cell) _ _); (repeat' split) <;> simp)
    | split)

theorem State.Keeps.assignFill (ch : ChanId) (i : Nat) (h : State.Keeps eff cs rel old cur) (ksend : eff.send = true)
    (hc : cs ch) :
    State.Keeps eff cs rel old (State.assignFill cur ch i) := by
  unfold State.assignFill
  repeat' (first
    | with_reducible assumption
    | with_reducible apply State.Keeps.qcpl
    | with_reducible apply State.Keeps.modCh
    | with_reducible apply State.Keeps.ite
    | with_reducible apply State.Keeps.updMk
    | (refine Or.inl ?_; assumption)
    | exact Or.inr rfl
    | exact Or.inr ⟨rfl, rfl⟩
    | (refine Or.inl ⟨by assumption, ?_⟩; exact fun w => w)
    | simp only [State.Keeps.mk_iff]
    | (intro d hd; cases hd; done)
    | (intro d hd; cases hd; assumption)
    | (refine (?_ : @Eq (List Host.Cell) _ _); (repeat' split) <;> simp))

theorem State.Keeps.fillTest (ch : ChanId) (w : WpId) (entry : Bool) (h : State.Keeps eff cs rel old cur) (ksend :
    eff.send = true) (hc : cs ch) :
    State.Keeps eff cs rel old (State.fillTest cur ch w entry).1 := by
  unfold State.fillTest
  try simp only [apply_ite Prod.fst]
  repeat' (first
    | with_reducible assumption
    | with_reducible apply State.Keeps.fillReady
    | with_reducible apply State.Keeps.assignFill
    | with_reducible apply State.Keeps.publish
    | with_reducible apply State.Keeps.qcpl
    | with_reducible apply State.Keeps.modCh
    | with_reducible apply State.Keeps.ite
    | with_reducible apply State.Keeps.updMk
    | (refine Or.inl ?_; assumption)
    | exact Or.inr rfl
    | exact Or.inr ⟨rfl, rfl⟩
    | (refine Or.inl ⟨by assumption, ?_⟩; exact fun w => w)
    | simp only [State.Keeps.mk_iff]
    | (intro d hd; cases hd; done)
    | (intro d hd; cases hd; assumption)
    | (refine (?_ : @Eq (List Host.Cell) _ _); (repeat' split) <;> simp)
    | split)

theorem State.Keeps.passGate (ch : ChanId) (h : State.Keeps eff cs rel old cur) (ksend : eff.send = true) (hc : cs ch)
    :
    State.Keeps eff cs rel old (State.passGate cur ch) := by
  unfold State.passGate
  repeat' (first
    | with_reducible assumption
    | with_reducible apply State.Keeps.publish
    | with_reducible apply State.Keeps.fillTest
    | with_reducible apply State.Keeps.modCh
    | with_reducible apply State.Keeps.ite
    | with_reducible apply State.Keeps.updMk
    | (refine Or.inl ?_; assumption)
    | exact Or.inr rfl
    | exact Or.inr ⟨rfl, rfl⟩
    | (refine Or.inl ⟨by assumption, ?_⟩; exact fun w => w)
    | simp only [State.Keeps.mk_iff]
    | (intro d hd; cases hd; done)
    | (intro d hd; cases hd; assumption)
    | (refine (?_ : @Eq (List Host.Cell) _ _); (repeat' split) <;> simp)
    | split)

theorem State.Keeps.waysideGate (ch : ChanId) (x : Succ) (h : State.Keeps eff cs rel old cur) (kfree : eff.free =
    true) (hc : cs ch) :
    State.Keeps eff cs rel old (State.waysideGate cur ch x) := by
  unfold State.waysideGate
  repeat' (first
    | with_reducible assumption
    | with_reducible apply State.Keeps.drawn
    | with_reducible apply State.Keeps.modCh
    | with_reducible apply State.Keeps.ite
    | with_reducible apply State.Keeps.updMk
    | (refine Or.inl ?_; assumption)
    | exact Or.inr rfl
    | exact Or.inr ⟨rfl, rfl⟩
    | (refine Or.inl ⟨by assumption, ?_⟩; exact fun w => w)
    | simp only [State.Keeps.mk_iff]
    | (intro d hd; cases hd; done)
    | (intro d hd; cases hd; assumption)
    | (refine (?_ : @Eq (List Host.Cell) _ _); (repeat' split) <;> simp)
    | split)

theorem State.Keeps.gate (ch : ChanId) (h : State.Keeps eff cs rel old cur) (ksend : eff.send = true) (kfree :
    eff.free = true) (hc : cs ch) :
    State.Keeps eff cs rel old (State.gate cur ch) := by
  unfold State.gate
  repeat' (first
    | with_reducible assumption
    | with_reducible apply State.Keeps.passGate
    | with_reducible apply State.Keeps.waysideGate
    | with_reducible apply State.Keeps.ite
    | with_reducible apply State.Keeps.updMk
    | (refine Or.inl ?_; assumption)
    | exact Or.inr rfl
    | exact Or.inr ⟨rfl, rfl⟩
    | (refine Or.inl ⟨by assumption, ?_⟩; exact fun w => w)
    | simp only [State.Keeps.mk_iff]
    | (intro d hd; cases hd; done)
    | (intro d hd; cases hd; assumption)
    | (refine (?_ : @Eq (List Host.Cell) _ _); (repeat' split) <;> simp)
    | split)

theorem State.Keeps.releaseFills (ch : ChanId) (i f : Nat) (h : State.Keeps eff cs rel old cur) (ksend : eff.send =
    true) (hc : cs ch) :
    State.Keeps eff cs rel old (State.releaseFills cur ch i f) := by
  unfold State.releaseFills
  repeat' (first
    | with_reducible assumption
    | with_reducible apply State.Keeps.qcpl
    | with_reducible apply State.Keeps.modCh
    | with_reducible apply State.Keeps.foldl
    | with_reducible apply State.Keeps.ite
    | with_reducible apply State.Keeps.updMk
    | (refine Or.inl ?_; assumption)
    | exact Or.inr rfl
    | exact Or.inr ⟨rfl, rfl⟩
    | (refine Or.inl ⟨by assumption, ?_⟩; exact fun w => w)
    | simp only [State.Keeps.mk_iff]
    | (intro d hd; cases hd; done)
    | (intro d hd; cases hd; assumption)
    | (refine (?_ : @Eq (List Host.Cell) _ _); (repeat' split) <;> simp)
    | (intro _ _ _))

theorem State.Keeps.beginPass (ch : ChanId) (x : Succ) (at' : Inst) (pos : Option Word) (cont : Bool) (h : State.Keeps
    eff cs rel old cur) (ksend : eff.send = true) (hc : cs ch) :
    State.Keeps eff cs rel old (State.beginPass cur ch x at' pos cont) := by
  unfold State.beginPass
  repeat' (first
    | with_reducible assumption
    | with_reducible apply State.Keeps.releaseFills
    | with_reducible apply State.Keeps.modCh
    | with_reducible apply State.Keeps.ite
    | with_reducible apply State.Keeps.updMk
    | (refine Or.inl ?_; assumption)
    | exact Or.inr rfl
    | exact Or.inr ⟨rfl, rfl⟩
    | (refine Or.inl ⟨by assumption, ?_⟩; exact fun w => w)
    | simp only [State.Keeps.mk_iff]
    | (intro d hd; cases hd; done)
    | (intro d hd; cases hd; assumption)
    | (refine (?_ : @Eq (List Host.Cell) _ _); (repeat' split) <;> simp)
    | split)

theorem State.Keeps.lateHead (ch : ChanId) (x : Succ) (at' : Inst) (h : State.Keeps eff cs rel old cur) (ksend :
    eff.send = true) (hc : cs ch) :
    State.Keeps eff cs rel old (State.lateHead cur ch x at') := by
  unfold State.lateHead
  repeat' (first
    | with_reducible assumption
    | with_reducible apply State.Keeps.beginPass
    | with_reducible apply State.Keeps.modCh
    | with_reducible apply State.Keeps.ite
    | with_reducible apply State.Keeps.updMk
    | (refine Or.inl ?_; assumption)
    | exact Or.inr rfl
    | exact Or.inr ⟨rfl, rfl⟩
    | (refine Or.inl ⟨by assumption, ?_⟩; exact fun w => w)
    | simp only [State.Keeps.mk_iff]
    | (intro d hd; cases hd; done)
    | (intro d hd; cases hd; assumption)
    | (refine (?_ : @Eq (List Host.Cell) _ _); (repeat' split) <;> simp)
    | split)

theorem State.Keeps.boundary (ch : ChanId) (x : Succ) (h : State.Keeps eff cs rel old cur) (kmod : eff.mod = true)
    (ksend : eff.send = true) (kfree : eff.free = true) (hc : cs ch) :
    State.Keeps eff cs rel old (State.boundary cur ch x) := by
  unfold State.boundary
  repeat' (first
    | with_reducible assumption
    | with_reducible apply State.Keeps.lateHead
    | with_reducible apply State.Keeps.drawn
    | with_reducible apply State.Keeps.publish
    | with_reducible apply State.Keeps.enterDrain
    | with_reducible apply State.Keeps.enterHeld
    | with_reducible apply State.Keeps.beginPass
    | with_reducible apply State.Keeps.modCh
    | with_reducible apply State.Keeps.ite
    | with_reducible apply State.Keeps.updMk
    | (refine Or.inl ?_; assumption)
    | exact Or.inr rfl
    | exact Or.inr ⟨rfl, rfl⟩
    | (refine Or.inl ⟨by assumption, ?_⟩; exact fun w => w)
    | simp only [State.Keeps.mk_iff]
    | (intro d hd; cases hd; done)
    | (intro d hd; cases hd; assumption)
    | (refine (?_ : @Eq (List Host.Cell) _ _); (repeat' split) <;> simp)
    | split)

theorem State.Keeps.groupDecide (ch : ChanId) (h : State.Keeps eff cs rel old cur) (hc : cs ch) :
    State.Keeps eff cs rel old (State.groupDecide cur ch) := by
  unfold State.groupDecide
  repeat' (first
    | with_reducible assumption
    | with_reducible apply State.Keeps.modCh
    | with_reducible apply State.Keeps.ite
    | with_reducible apply State.Keeps.updMk
    | (refine Or.inl ?_; assumption)
    | exact Or.inr rfl
    | exact Or.inr ⟨rfl, rfl⟩
    | (refine Or.inl ⟨by assumption, ?_⟩; exact fun w => w)
    | simp only [State.Keeps.mk_iff]
    | (intro d hd; cases hd; done)
    | (intro d hd; cases hd; assumption)
    | (refine (?_ : @Eq (List Host.Cell) _ _); (repeat' split) <;> simp)
    | split)

theorem State.Keeps.bcastMark (ch : ChanId) (ok : Bool) (h : State.Keeps eff cs rel old cur) (kmod : eff.mod = true)
    (kmode : eff.mode = true) (hc : cs ch) :
    State.Keeps eff cs rel old (State.bcastMark cur ch ok) := by
  unfold State.bcastMark
  repeat' (first
    | with_reducible assumption
    | with_reducible apply State.Keeps.ite
    | with_reducible apply State.Keeps.updMk
    | (refine Or.inl ?_; assumption)
    | exact Or.inr rfl
    | exact Or.inr ⟨rfl, rfl⟩
    | (refine Or.inl ⟨by assumption, ?_⟩; exact fun w => w)
    | simp only [State.Keeps.mk_iff]
    | (intro d hd; cases hd; done)
    | (intro d hd; cases hd; assumption)
    | (refine (?_ : @Eq (List Host.Cell) _ _); (repeat' split) <;> simp))

theorem State.Keeps.cmdResult (ch : ChanId) (cmd : Cmd) (code : Byte) (bcast : Bool) (h : State.Keeps eff cs rel old
    cur) (kmod : eff.mod = true) (kmode : eff.mode = true) (hc : cs ch) :
    State.Keeps eff cs rel old (State.cmdResult cur ch cmd code bcast) := by
  unfold State.cmdResult
  repeat' (first
    | with_reducible assumption
    | with_reducible apply State.Keeps.bcastMark
    | with_reducible apply State.Keeps.modCh
    | with_reducible apply State.Keeps.ite
    | with_reducible apply State.Keeps.updMk
    | (refine Or.inl ?_; assumption)
    | exact Or.inr rfl
    | exact Or.inr ⟨rfl, rfl⟩
    | (refine Or.inl ⟨by assumption, ?_⟩; exact fun w => w)
    | simp only [State.Keeps.mk_iff]
    | (intro d hd; cases hd; done)
    | (intro d hd; cases hd; assumption)
    | (refine (?_ : @Eq (List Host.Cell) _ _); (repeat' split) <;> simp))

theorem State.Keeps.armAccept (ch : ChanId) (h : State.Keeps eff cs rel old cur) (kmod : eff.mod = true) (ksend :
    eff.send = true) (hc : cs ch) :
    State.Keeps eff cs rel old (State.armAccept cur ch) := by
  unfold State.armAccept
  repeat' (first
    | with_reducible assumption
    | with_reducible apply State.Keeps.armSynths
    | with_reducible apply State.Keeps.setChState
    | with_reducible apply State.Keeps.closeEnded
    | with_reducible apply State.Keeps.modCh
    | with_reducible apply State.Keeps.setCh
    | with_reducible apply State.Keeps.ite
    | with_reducible apply State.Keeps.updMk
    | (refine Or.inl ?_; assumption)
    | exact Or.inr rfl
    | exact Or.inr ⟨rfl, rfl⟩
    | (refine Or.inl ⟨by assumption, ?_⟩; exact fun w => w)
    | simp only [State.Keeps.mk_iff]
    | (intro d hd; cases hd; done)
    | (intro d hd; cases hd; assumption)
    | (refine (?_ : @Eq (List Host.Cell) _ _); (repeat' split) <;> simp))

theorem State.Keeps.startCmd (ch : ChanId) (res : Bool) (h : State.Keeps eff cs rel old cur) (hc : cs ch) :
    State.Keeps eff cs rel old (State.startCmd cur ch res) := by
  unfold State.startCmd
  repeat' (first
    | with_reducible assumption
    | with_reducible apply State.Keeps.modCh
    | with_reducible apply State.Keeps.ite
    | (intro d hd; cases hd; done)
    | (intro d hd; cases hd; assumption)
    | (refine (?_ : @Eq (List Host.Cell) _ _); (repeat' split) <;> simp))

theorem State.Keeps.cmdEffect (ch : ChanId) (cmd : Cmd) (h : State.Keeps eff cs rel old cur) (kmod : eff.mod = true) (hc
    : cs ch) :
    State.Keeps eff cs rel old (State.cmdEffect cur ch cmd) := by
  unfold State.cmdEffect
  repeat' (first
    | with_reducible assumption
    | with_reducible apply State.Keeps.startCmd
    | with_reducible apply State.Keeps.enterDrain
    | with_reducible apply State.Keeps.modCh
    | with_reducible apply State.Keeps.ite
    | with_reducible apply State.Keeps.updMk
    | (refine Or.inl ?_; assumption)
    | exact Or.inr rfl
    | exact Or.inr ⟨rfl, rfl⟩
    | (refine Or.inl ⟨by assumption, ?_⟩; exact fun w => w)
    | simp only [State.Keeps.mk_iff]
    | (intro d hd; cases hd; done)
    | (intro d hd; cases hd; assumption)
    | (refine (?_ : @Eq (List Host.Cell) _ _); (repeat' split) <;> simp)
    | split)

theorem State.Keeps.command (ch : ChanId) (cmd : Cmd) (bcast : Bool) (h : State.Keeps eff cs rel old cur) (kmod :
    eff.mod = true) (kmode : eff.mode = true) (hc : cs ch) :
    State.Keeps eff cs rel old (State.command cur ch cmd bcast) := by
  unfold State.command
  repeat' (first
    | with_reducible assumption
    | with_reducible apply State.Keeps.cmdResult
    | with_reducible apply State.Keeps.cmdEffect
    | with_reducible apply State.Keeps.modCh
    | with_reducible apply State.Keeps.setCh
    | with_reducible apply State.Keeps.ite
    | with_reducible apply State.Keeps.updMk
    | (refine Or.inl ?_; assumption)
    | exact Or.inr rfl
    | exact Or.inr ⟨rfl, rfl⟩
    | (refine Or.inl ⟨by assumption, ?_⟩; exact fun w => w)
    | simp only [State.Keeps.mk_iff]
    | (intro d hd; cases hd; done)
    | (intro d hd; cases hd; assumption)
    | (refine (?_ : @Eq (List Host.Cell) _ _); (repeat' split) <;> simp))

theorem State.Keeps.broadcastCmd (v : Word) (h : State.Keeps eff cs rel old cur) (kmod : eff.mod = true) (kmode :
    eff.mode = true) (hc : ∀ d, cs d) :
    State.Keeps eff cs rel old (State.broadcastCmd cur v) := by
  unfold State.broadcastCmd
  repeat' (first
    | with_reducible assumption
    | with_reducible apply State.Keeps.command
    | with_reducible apply State.Keeps.forCh
    | with_reducible apply State.Keeps.modCh
    | (simp only [Chan.forgetBcast]; done)
    | with_reducible apply State.Keeps.updMk
    | (refine Or.inl ?_; assumption)
    | exact Or.inr rfl
    | exact Or.inr ⟨rfl, rfl⟩
    | (refine Or.inl ⟨by assumption, ?_⟩; exact fun w => w)
    | simp only [State.Keeps.mk_iff]
    | (intro d hd; cases hd; done)
    | (intro d hd; cases hd; exact hc _)
    | exact hc _
    | (refine (?_ : @Eq (List Host.Cell) _ _); (repeat' split) <;> simp)
    | (intro _ _ _))

theorem State.Keeps.checkDone (ch : ChanId) (h : State.Keeps eff cs rel old cur) (kmod : eff.mod = true) (kmode :
    eff.mode = true) (ksend : eff.send = true) (hc : cs ch) :
    State.Keeps eff cs rel old (State.checkDone cur ch) := by
  unfold State.checkDone
  repeat' (first
    | with_reducible assumption
    | with_reducible apply State.Keeps.cmdResult
    | with_reducible apply State.Keeps.armAccept
    | with_reducible apply State.Keeps.command
    | with_reducible apply State.Keeps.modCh
    | with_reducible apply State.Keeps.foldl
    | with_reducible apply State.Keeps.ite
    | with_reducible apply State.Keeps.updMk
    | (refine Or.inl ?_; assumption)
    | exact Or.inr rfl
    | exact Or.inr ⟨rfl, rfl⟩
    | (refine Or.inl ⟨by assumption, ?_⟩; exact fun w => w)
    | simp only [State.Keeps.mk_iff]
    | (intro d hd; cases hd; done)
    | (intro d hd; cases hd; assumption)
    | (refine (?_ : @Eq (List Host.Cell) _ _); (repeat' split) <;> simp)
    | (intro _ _ _))

theorem State.Keeps.enterRun (ch : ChanId) (pos : Word) (inst : Q16) (h : State.Keeps eff cs rel old cur) (kmod :
    eff.mod = true) (ksend : eff.send = true) (hc : cs ch) :
    State.Keeps eff cs rel old (State.enterRun cur ch pos inst) := by
  unfold State.enterRun
  repeat' (first
    | with_reducible assumption
    | with_reducible apply State.Keeps.setChState
    | with_reducible apply State.Keeps.assignFill
    | with_reducible apply State.Keeps.beginPass
    | with_reducible apply State.Keeps.modCh
    | with_reducible apply State.Keeps.setCh
    | with_reducible apply State.Keeps.ite
    | with_reducible apply State.Keeps.updMk
    | (refine Or.inl ?_; assumption)
    | exact Or.inr rfl
    | exact Or.inr ⟨rfl, rfl⟩
    | (refine Or.inl ⟨by assumption, ?_⟩; exact fun w => w)
    | simp only [State.Keeps.mk_iff]
    | (intro d hd; cases hd; done)
    | (intro d hd; cases hd; assumption)
    | (refine (?_ : @Eq (List Host.Cell) _ _); (repeat' split) <;> simp))

theorem State.Keeps.drainComplete (ch : ChanId) (h : State.Keeps eff cs rel old cur) (kmod : eff.mod = true) (ksend :
    eff.send = true) (hc : cs ch) :
    State.Keeps eff cs rel old (State.drainComplete cur ch) := by
  unfold State.drainComplete
  repeat' (first
    | with_reducible assumption
    | with_reducible apply State.Keeps.enterRest
    | with_reducible apply State.Keeps.modCh
    | with_reducible apply State.Keeps.ite
    | with_reducible apply State.Keeps.updMk
    | (refine Or.inl ?_; assumption)
    | exact Or.inr rfl
    | exact Or.inr ⟨rfl, rfl⟩
    | (refine Or.inl ⟨by assumption, ?_⟩; exact fun w => w)
    | simp only [State.Keeps.mk_iff]
    | (intro d hd; cases hd; done)
    | (intro d hd; cases hd; assumption)
    | (refine (?_ : @Eq (List Host.Cell) _ _); (repeat' split) <;> simp))

theorem State.Keeps.trkEvent (k : Nat) (h : State.Keeps eff cs rel old cur) (ktrk : eff.trk = true) :
    State.Keeps eff cs rel old (State.trkEvent cur k) := by
  unfold State.trkEvent
  repeat' (first
    | with_reducible assumption
    | with_reducible apply State.Keeps.updMk
    | (refine Or.inl ?_; assumption)
    | exact Or.inr rfl
    | exact Or.inr ⟨rfl, rfl⟩
    | (refine Or.inl ⟨by assumption, ?_⟩; exact fun w => w)
    | simp only [State.Keeps.mk_iff]
    | (intro d hd; cases hd; done)
    | (intro d hd; cases hd; assumption))

theorem State.Keeps.trkAll (code k : Nat) (h : State.Keeps eff cs rel old cur) (ktrk : eff.trk = true) (hc : ∀ d, cs d) :
    State.Keeps eff cs rel old (State.trkAll cur code k) := by
  unfold State.trkAll
  repeat' (first
    | with_reducible assumption
    | with_reducible apply State.Keeps.publish
    | with_reducible apply State.Keeps.trkEvent
    | with_reducible apply State.Keeps.forCh
    | (intro d hd; cases hd; done)
    | (intro d hd; cases hd; exact hc _)
    | exact hc _
    | (intro _ _ _))

theorem State.Keeps.refLoss (h : State.Keeps eff cs rel old cur) (ktrk : eff.trk = true) (hc : ∀ d, cs d) :
    State.Keeps eff cs rel old (State.refLoss cur) := by
  unfold State.refLoss
  repeat' (first
    | with_reducible assumption
    | with_reducible apply State.Keeps.trkAll
    | with_reducible apply State.Keeps.modCh
    | with_reducible apply State.Keeps.forCh
    | with_reducible apply State.Keeps.ite
    | with_reducible apply State.Keeps.updMk
    | (refine Or.inl ?_; assumption)
    | exact Or.inr rfl
    | exact Or.inr ⟨rfl, rfl⟩
    | (refine Or.inl ⟨by assumption, ?_⟩; exact fun w => w)
    | simp only [State.Keeps.mk_iff]
    | (intro d hd; cases hd; done)
    | (intro d hd; cases hd; exact hc _)
    | exact hc _
    | (refine (?_ : @Eq (List Host.Cell) _ _); (repeat' split) <;> simp)
    | (intro _ _ _))

theorem State.Keeps.refPresent (h : State.Keeps eff cs rel old cur) (ktrk : eff.trk = true) (hc : ∀ d, cs d) :
    State.Keeps eff cs rel old (State.refPresent cur) := by
  unfold State.refPresent
  repeat' (first
    | with_reducible assumption
    | with_reducible apply State.Keeps.trkAll
    | with_reducible apply State.Keeps.ite
    | with_reducible apply State.Keeps.updMk
    | (refine Or.inl ?_; assumption)
    | exact Or.inr rfl
    | exact Or.inr ⟨rfl, rfl⟩
    | (refine Or.inl ⟨by assumption, ?_⟩; exact fun w => w)
    | simp only [State.Keeps.mk_iff]
    | (intro d hd; cases hd; done)
    | (intro d hd; cases hd; exact hc _)
    | exact hc _)

theorem State.Keeps.refWindow (count : Nat) (h : State.Keeps eff cs rel old cur) (ktrk : eff.trk = true) (hc : ∀ d, cs d) :
    State.Keeps eff cs rel old (State.refWindow cur count) := by
  unfold State.refWindow
  repeat' (first
    | with_reducible assumption
    | with_reducible apply State.Keeps.refLoss
    | with_reducible apply State.Keeps.refPresent
    | with_reducible apply State.Keeps.ite
    | with_reducible apply State.Keeps.updMk
    | (refine Or.inl ?_; assumption)
    | exact Or.inr rfl
    | exact Or.inr ⟨rfl, rfl⟩
    | (refine Or.inl ⟨by assumption, ?_⟩; exact fun w => w)
    | simp only [State.Keeps.mk_iff]
    | (intro d hd; cases hd; done)
    | (intro d hd; cases hd; exact hc _)
    | exact hc _)

theorem State.Keeps.tbLock (h : State.Keeps eff cs rel old cur) (ktrk : eff.trk = true) (hc : ∀ d, cs d) :
    State.Keeps eff cs rel old (State.tbLock cur) := by
  unfold State.tbLock
  repeat' (first
    | with_reducible assumption
    | with_reducible apply State.Keeps.modCh
    | with_reducible apply State.Keeps.forCh
    | with_reducible apply State.Keeps.updMk
    | (refine Or.inl ?_; assumption)
    | exact Or.inr rfl
    | exact Or.inr ⟨rfl, rfl⟩
    | (refine Or.inl ⟨by assumption, ?_⟩; exact fun w => w)
    | simp only [State.Keeps.mk_iff]
    | (intro d hd; cases hd; done)
    | (intro d hd; cases hd; exact hc _)
    | exact hc _
    | (refine (?_ : @Eq (List Host.Cell) _ _); (repeat' split) <;> simp)
    | (intro _ _ _))

theorem State.Keeps.paceStop (ch : ChanId) (h : State.Keeps eff cs rel old cur) (ktrk : eff.trk = true) (hc : cs ch) :
    State.Keeps eff cs rel old (State.paceStop cur ch) := by
  unfold State.paceStop
  repeat' (first
    | with_reducible assumption
    | with_reducible apply State.Keeps.publish
    | with_reducible apply State.Keeps.trkEvent
    | with_reducible apply State.Keeps.modCh
    | with_reducible apply State.Keeps.updMk
    | (refine Or.inl ?_; assumption)
    | exact Or.inr rfl
    | exact Or.inr ⟨rfl, rfl⟩
    | (refine Or.inl ⟨by assumption, ?_⟩; exact fun w => w)
    | simp only [State.Keeps.mk_iff]
    | (intro d hd; cases hd; done)
    | (intro d hd; cases hd; assumption)
    | (refine (?_ : @Eq (List Host.Cell) _ _); (repeat' split) <;> simp))

theorem State.Keeps.milestone (ch : ChanId) (h : State.Keeps eff cs rel old cur) (ktrk : eff.trk = true) (hc : cs ch) :
    State.Keeps eff cs rel old (State.milestone cur ch) := by
  unfold State.milestone
  repeat' (first
    | with_reducible assumption
    | with_reducible apply State.Keeps.publish
    | with_reducible apply State.Keeps.trkEvent
    | with_reducible apply State.Keeps.request
    | with_reducible apply State.Keeps.modCh
    | with_reducible apply State.Keeps.ite
    | with_reducible apply State.Keeps.updMk
    | (refine Or.inl ?_; assumption)
    | exact Or.inr rfl
    | exact Or.inr ⟨rfl, rfl⟩
    | (refine Or.inl ⟨by assumption, ?_⟩; exact fun w => w)
    | simp only [State.Keeps.mk_iff]
    | (intro d hd; cases hd; done)
    | (intro d hd; cases hd; assumption)
    | (refine (?_ : @Eq (List Host.Cell) _ _); (repeat' split) <;> simp))

theorem State.Keeps.afterEdge (ch : ChanId) (was : TrkState) (news : EdgeNews) (mile : Bool) (h : State.Keeps eff cs rel
    old cur) (ktrk : eff.trk = true) (hc : cs ch) :
    State.Keeps eff cs rel old (State.afterEdge cur ch was news mile) := by
  unfold State.afterEdge
  repeat' (first
    | with_reducible assumption
    | with_reducible apply State.Keeps.publish
    | with_reducible apply State.Keeps.trkEvent
    | with_reducible apply State.Keeps.milestone
    | with_reducible apply State.Keeps.modCh
    | with_reducible apply State.Keeps.ite
    | with_reducible apply State.Keeps.updMk
    | (refine Or.inl ?_; assumption)
    | exact Or.inr rfl
    | exact Or.inr ⟨rfl, rfl⟩
    | (refine Or.inl ⟨by assumption, ?_⟩; exact fun w => w)
    | simp only [State.Keeps.mk_iff]
    | (intro d hd; cases hd; done)
    | (intro d hd; cases hd; assumption)
    | (refine (?_ : @Eq (List Host.Cell) _ _); (repeat' split) <;> simp))

theorem State.Keeps.paceEdge (ch : ChanId) (mstone : Bool) (h : State.Keeps eff cs rel old cur) (ktrk : eff.trk = true)
    (hc : cs ch) :
    State.Keeps eff cs rel old (State.paceEdge cur ch mstone) := by
  unfold State.paceEdge
  repeat' (first
    | with_reducible assumption
    | with_reducible apply State.Keeps.trkEvent
    | with_reducible apply State.Keeps.paceStop
    | with_reducible apply State.Keeps.afterEdge
    | with_reducible apply State.Keeps.modCh
    | with_reducible apply State.Keeps.ite
    | with_reducible apply State.Keeps.updMk
    | (refine Or.inl ?_; assumption)
    | exact Or.inr rfl
    | exact Or.inr ⟨rfl, rfl⟩
    | (refine Or.inl ⟨by assumption, ?_⟩; exact fun w => w)
    | simp only [State.Keeps.mk_iff]
    | (intro d hd; cases hd; done)
    | (intro d hd; cases hd; assumption)
    | (refine (?_ : @Eq (List Host.Cell) _ _); (repeat' split) <;> simp)
    | split)

theorem State.Keeps.retrack (mask : BitVec 16) (h : State.Keeps eff cs rel old cur) (hc : ∀ d, cs d) :
    State.Keeps eff cs rel old (State.retrack cur mask) := by
  unfold State.retrack
  repeat' (first
    | with_reducible assumption
    | with_reducible apply State.Keeps.modCh
    | with_reducible apply State.Keeps.forCh
    | (intro d hd; cases hd; done)
    | (intro d hd; cases hd; exact hc _)
    | exact hc _
    | (refine (?_ : @Eq (List Host.Cell) _ _); (repeat' split) <;> simp)
    | (intro _ _ _))

theorem State.Keeps.snap (h : State.Keeps eff cs rel old cur) (ktrk : eff.trk = true) :
    State.Keeps eff cs rel old (State.snap cur) := by
  unfold State.snap
  repeat' (first
    | with_reducible assumption
    | with_reducible apply State.Keeps.updMk
    | (refine Or.inl ?_; assumption)
    | exact Or.inr rfl
    | exact Or.inr ⟨rfl, rfl⟩
    | (refine Or.inl ⟨by assumption, ?_⟩; exact fun w => w)
    | simp only [State.Keeps.mk_iff]
    | (intro d hd; cases hd; done)
    | (intro d hd; cases hd; assumption))

theorem State.Keeps.alarmAction (ch : ChanId) (h : State.Keeps eff cs rel old cur) (kmod : eff.mod = true) (hc : cs ch) :
    State.Keeps eff cs rel old (State.alarmAction cur ch) := by
  unfold State.alarmAction
  repeat' (first
    | with_reducible assumption
    | with_reducible apply State.Keeps.enterDrain
    | with_reducible apply State.Keeps.modCh
    | with_reducible apply State.Keeps.ite
    | with_reducible apply State.Keeps.updMk
    | (refine Or.inl ?_; assumption)
    | exact Or.inr rfl
    | exact Or.inr ⟨rfl, rfl⟩
    | (refine Or.inl ⟨by assumption, ?_⟩; exact fun w => w)
    | simp only [State.Keeps.mk_iff]
    | (intro d hd; cases hd; done)
    | (intro d hd; cases hd; assumption)
    | (refine (?_ : @Eq (List Host.Cell) _ _); (repeat' split) <;> simp)
    | split)

theorem State.Keeps.dryLong (ch : ChanId) (h : State.Keeps eff cs rel old cur) (kmod : eff.mod = true) (kflt : eff.flt =
    true) (hc : cs ch) :
    State.Keeps eff cs rel old (State.dryLong cur ch) := by
  unfold State.dryLong
  repeat' (first
    | with_reducible assumption
    | with_reducible apply State.Keeps.unmasked
    | with_reducible apply State.Keeps.setCh
    | with_reducible apply State.Keeps.ite
    | with_reducible apply State.Keeps.updMk
    | (refine Or.inl ?_; assumption)
    | exact Or.inr rfl
    | exact Or.inr ⟨rfl, rfl⟩
    | (refine Or.inl ⟨by assumption, ?_⟩; exact fun w => w)
    | simp only [State.Keeps.mk_iff]
    | (intro d hd; cases hd; done)
    | (intro d hd; cases hd; assumption)
    | (refine (?_ : @Eq (List Host.Cell) _ _); (repeat' split) <;> simp)
    | split)

theorem State.Keeps.ackCh (ch : ChanId) (h : State.Keeps eff cs rel old cur) (kflt : eff.flt = true) (hc : cs ch) :
    State.Keeps eff cs rel old (State.ackCh cur ch) := by
  unfold State.ackCh
  repeat' (first
    | with_reducible assumption
    | with_reducible apply State.Keeps.modCh
    | with_reducible apply State.Keeps.setCh
    | with_reducible apply State.Keeps.forCh
    | with_reducible apply State.Keeps.foldl
    | with_reducible apply State.Keeps.ite
    | with_reducible apply State.Keeps.updMk
    | (refine Or.inl ?_; assumption)
    | exact Or.inr rfl
    | exact Or.inr ⟨rfl, rfl⟩
    | (refine Or.inl ⟨by assumption, ?_⟩; exact fun w => w)
    | simp only [State.Keeps.mk_iff]
    | (intro d hd; cases hd; done)
    | (intro d hd; cases hd; assumption)
    | (refine (?_ : @Eq (List Host.Cell) _ _); first | with_reducible rfl | (simp; done) | (simp [Chan.ite_data]; done) | rfl | ((repeat' split) <;> (first | rfl | simp)))
    | split
    | (intro _ _ _))

theorem State.Keeps.ack (mask : BitVec 16) (h : State.Keeps eff cs rel old cur) (kflt : eff.flt = true) (hc : ∀ d, cs d) :
    State.Keeps eff cs rel old (State.ack cur mask) := by
  unfold State.ack
  repeat' (first
    | with_reducible assumption
    | with_reducible apply State.Keeps.ackCh
    | with_reducible apply State.Keeps.forCh
    | with_reducible apply State.Keeps.updMk
    | (refine Or.inl ?_; assumption)
    | exact Or.inr rfl
    | exact Or.inr ⟨rfl, rfl⟩
    | (refine Or.inl ⟨by assumption, ?_⟩; exact fun w => w)
    | simp only [State.Keeps.mk_iff]
    | (intro d hd; cases hd; done)
    | (intro d hd; cases hd; exact hc _)
    | exact hc _
    | (intro _ _ _))

theorem State.Keeps.logPop (n : Nat) (h : State.Keeps eff cs rel old cur) (kflt : eff.flt = true) :
    State.Keeps eff cs rel old (cur.logPop n) := by
  refine h.upd _ _ _ _ _ _ _ _ _ ?_ ?_ ?_ ?_ ?_ ?_ ?_ ?_ ?_ ?_ ?_ <;> first | exact .inr rfl | exact .inr ⟨rfl, rfl⟩ | refine .inl ⟨kflt, fun w => ?_⟩
  show (cur.flt.log.drop n).length ≤ 64
  rw [List.length_drop]; omega

theorem State.Keeps.modMem (ch : ChanId) (f : Mem → Mem) (h : State.Keeps eff cs rel old cur)
    (hf : (f (cur.ch ch).mem).data = (cur.ch ch).mem.data) (hc : cs ch) : State.Keeps eff cs rel old (cur.modMem ch f) := h.modCh ch _ hf hc

theorem State.Keeps.modMemForm (ch : ChanId) (f : Mem → Mem) (h : State.Keeps eff cs keepsForm old cur)
    (hf : keepsForm (cur.ch ch).mem.data (f (cur.ch ch).mem).data) (hc : cs ch) :
    State.Keeps eff cs keepsForm old (cur.modMem ch f) := h.modChForm ch _ hf hc

theorem State.Keeps.complete (tag : Option (BitVec 12)) (st : Status) (data : List Word) (h : State.Keeps eff cs rel old
    cur) (ksend : eff.send = true) :
    State.Keeps eff cs rel old (State.complete cur tag st data) := by
  unfold State.complete
  repeat' (first
    | with_reducible assumption
    | with_reducible apply State.Keeps.send
    | with_reducible apply State.Keeps.updMk
    | (refine Or.inl ?_; assumption)
    | exact Or.inr rfl
    | exact Or.inr ⟨rfl, rfl⟩
    | (refine Or.inl ⟨by assumption, ?_⟩; exact fun w => w)
    | simp only [State.Keeps.mk_iff]
    | (intro d hd; cases hd; done)
    | (intro d hd; cases hd; assumption)
    | split)

theorem State.Keeps.bcastEnd (h : State.Keeps eff cs rel old cur) (ksend : eff.send = true) (khp : eff.hp = true) :
    State.Keeps eff cs rel old (State.bcastEnd cur) := by
  unfold State.bcastEnd
  repeat' (first
    | with_reducible assumption
    | with_reducible apply State.Keeps.complete
    | with_reducible apply State.Keeps.ite
    | with_reducible apply State.Keeps.updMk
    | (refine Or.inl ?_; assumption)
    | exact Or.inr rfl
    | exact Or.inr ⟨rfl, rfl⟩
    | (refine Or.inl ⟨by assumption, ?_⟩; exact fun w => w)
    | simp only [State.Keeps.mk_iff]
    | (intro d hd; cases hd; done)
    | (intro d hd; cases hd; assumption)
    | split)

theorem State.Keeps.bcastStatus (ch : ChanId) (st : Status) (h : State.Keeps eff cs rel old cur) (ksend : eff.send =
    true) (khp : eff.hp = true) (hc : cs ch) :
    State.Keeps eff cs rel old (State.bcastStatus cur ch st) := by
  unfold State.bcastStatus
  repeat' (first
    | with_reducible assumption
    | with_reducible apply State.Keeps.bcastEnd
    | with_reducible apply State.Keeps.updMk
    | (refine Or.inl ?_; assumption)
    | exact Or.inr rfl
    | exact Or.inr ⟨rfl, rfl⟩
    | (refine Or.inl ⟨by assumption, ?_⟩; exact fun w => w)
    | simp only [State.Keeps.mk_iff]
    | (intro d hd; cases hd; done)
    | (intro d hd; cases hd; assumption))

theorem State.Keeps.winReply (ch : ChanId) (src : AccSource) (st : Status) (data : List Word) (h : State.Keeps eff cs
    rel old cur) (ksend : eff.send = true) (khp : eff.hp = true) (hc : cs ch) :
    State.Keeps eff cs rel old (State.winReply cur ch src st data) := by
  unfold State.winReply
  repeat' (first
    | with_reducible assumption
    | with_reducible apply State.Keeps.request
    | with_reducible apply State.Keeps.complete
    | with_reducible apply State.Keeps.bcastStatus
    | with_reducible apply State.Keeps.updMk
    | (refine Or.inl ?_; assumption)
    | exact Or.inr rfl
    | exact Or.inr ⟨rfl, rfl⟩
    | (refine Or.inl ⟨by assumption, ?_⟩; exact fun w => w)
    | simp only [State.Keeps.mk_iff]
    | (intro d hd; cases hd; done)
    | (intro d hd; cases hd; assumption)
    | split)

theorem State.Keeps.winDo (ch : ChanId) (a : HeldAcc) (h : State.Keeps eff cs keepsForm old cur) (ksend : eff.send =
    true) (khp : eff.hp = true) (hc : cs ch) :
    State.Keeps eff cs keepsForm old (cur.winDo ch a) := by
  unfold State.winDo
  extract_lets y1 y2
  refine State.Keeps.ite ?_ ?_
  · have k : State.Keeps eff cs keepsForm old (cur.modCh ch fun _ => y2.1) :=
      h.modChForm ch _ (Chan.winWrite_form _ _ _ _) hc
    apply State.Keeps.winReply <;> assumption
  · apply State.Keeps.winReply <;> assumption

theorem State.Keeps.winAccess (ch : ChanId) (a : HeldAcc) (h : State.Keeps eff cs keepsForm old cur) (ksend : eff.send =
    true) (khp : eff.hp = true) (hc : cs ch) :
    State.Keeps eff cs keepsForm old (State.winAccess cur ch a) := by
  unfold State.winAccess
  repeat' (first
    | with_reducible assumption
    | with_reducible apply State.Keeps.winReply
    | with_reducible apply State.Keeps.modMem
    | with_reducible apply State.Keeps.winDo
    | with_reducible apply State.Keeps.ite
    | with_reducible apply State.Keeps.updMk
    | (refine Or.inl ?_; assumption)
    | exact Or.inr rfl
    | exact Or.inr ⟨rfl, rfl⟩
    | (refine Or.inl ⟨by assumption, ?_⟩; exact fun w => w)
    | simp only [State.Keeps.mk_iff]
    | with_reducible apply State.Keeps.modMemForm
    | with_reducible apply State.Keeps.modChForm
    | (intro d hd; cases hd; done)
    | (intro d hd; cases hd; assumption)
    | (refine (?_ : @Eq (List Host.Cell) _ _); (repeat' split) <;> simp))

theorem State.Keeps.winRelease (ch : ChanId) (h : State.Keeps eff cs keepsForm old cur) (ksend : eff.send = true) (khp :
    eff.hp = true) (hc : cs ch) :
    State.Keeps eff cs keepsForm old (State.winRelease cur ch) := by
  unfold State.winRelease
  repeat' (first
    | with_reducible assumption
    | with_reducible apply State.Keeps.modMem
    | with_reducible apply State.Keeps.winAccess
    | with_reducible apply State.Keeps.foldl
    | with_reducible apply State.Keeps.updMk
    | (refine Or.inl ?_; assumption)
    | exact Or.inr rfl
    | exact Or.inr ⟨rfl, rfl⟩
    | (refine Or.inl ⟨by assumption, ?_⟩; exact fun w => w)
    | simp only [State.Keeps.mk_iff]
    | with_reducible apply State.Keeps.modMemForm
    | with_reducible apply State.Keeps.modChForm
    | (intro d hd; cases hd; done)
    | (intro d hd; cases hd; assumption)
    | (refine (?_ : @Eq (List Host.Cell) _ _); (repeat' split) <;> simp)
    | (intro _ _ _))

theorem State.Keeps.enterTrim (ch : ChanId) (h : State.Keeps eff cs rel old cur) (kmod : eff.mod = true) (hc : cs ch) :
    State.Keeps eff cs rel old (State.enterTrim cur ch) := by
  unfold State.enterTrim
  repeat' (first
    | with_reducible assumption
    | with_reducible apply State.Keeps.setChState
    | with_reducible apply State.Keeps.modCh
    | with_reducible apply State.Keeps.setCh
    | with_reducible apply State.Keeps.ite
    | (intro d hd; cases hd; done)
    | (intro d hd; cases hd; assumption)
    | (refine (?_ : @Eq (List Host.Cell) _ _); (repeat' split) <;> simp))

theorem State.Keeps.leaveTrim (ch : ChanId) (h : State.Keeps eff cs rel old cur) (kmod : eff.mod = true) (ksend :
    eff.send = true) (hc : cs ch) :
    State.Keeps eff cs rel old (State.leaveTrim cur ch) := by
  unfold State.leaveTrim
  repeat' (first
    | with_reducible assumption
    | with_reducible apply State.Keeps.enterRest
    | with_reducible apply State.Keeps.modCh
    | with_reducible apply State.Keeps.ite
    | with_reducible apply State.Keeps.updMk
    | (refine Or.inl ?_; assumption)
    | exact Or.inr rfl
    | exact Or.inr ⟨rfl, rfl⟩
    | (refine Or.inl ⟨by assumption, ?_⟩; exact fun w => w)
    | simp only [State.Keeps.mk_iff]
    | (intro d hd; cases hd; done)
    | (intro d hd; cases hd; assumption)
    | (refine (?_ : @Eq (List Host.Cell) _ _); (repeat' split) <;> simp))

theorem State.Keeps.serviceBegin (ch : ChanId) (h : State.Keeps eff cs rel old cur) (hc : cs ch) :
    State.Keeps eff cs rel old (State.serviceBegin cur ch) := by
  unfold State.serviceBegin
  repeat' (first
    | with_reducible assumption
    | with_reducible apply State.Keeps.modCh
    | with_reducible apply State.Keeps.updMk
    | (refine Or.inl ?_; assumption)
    | exact Or.inr rfl
    | exact Or.inr ⟨rfl, rfl⟩
    | (refine Or.inl ⟨by assumption, ?_⟩; exact fun w => w)
    | simp only [State.Keeps.mk_iff]
    | (intro d hd; cases hd; done)
    | (intro d hd; cases hd; assumption)
    | (refine (?_ : @Eq (List Host.Cell) _ _); (repeat' split) <;> simp)
    | split)

theorem State.Keeps.serviceStart (ch : ChanId) (h : State.Keeps eff cs rel old cur) (kmod : eff.mod = true) (hc : cs ch) :
    State.Keeps eff cs rel old (State.serviceStart cur ch) := by
  unfold State.serviceStart
  repeat' (first
    | with_reducible assumption
    | with_reducible apply State.Keeps.enterTrim
    | with_reducible apply State.Keeps.modCh
    | with_reducible apply State.Keeps.ite
    | with_reducible apply State.Keeps.updMk
    | (refine Or.inl ?_; assumption)
    | exact Or.inr rfl
    | exact Or.inr ⟨rfl, rfl⟩
    | (refine Or.inl ⟨by assumption, ?_⟩; exact fun w => w)
    | simp only [State.Keeps.mk_iff]
    | (intro d hd; cases hd; done)
    | (intro d hd; cases hd; assumption)
    | (refine (?_ : @Eq (List Host.Cell) _ _); (repeat' split) <;> simp)
    | split)

theorem State.Keeps.creelLost (ch : ChanId) (detail : Nat) (h : State.Keeps eff cs rel old cur) (kmod : eff.mod = true)
    (kflt : eff.flt = true) (ksend : eff.send = true) (hc : cs ch) :
    State.Keeps eff cs rel old (State.creelLost cur ch detail) := by
  unfold State.creelLost
  repeat' (first
    | with_reducible assumption
    | with_reducible apply State.Keeps.leaveTrim
    | with_reducible apply State.Keeps.unmasked
    | with_reducible apply State.Keeps.modCh
    | with_reducible apply State.Keeps.ite
    | with_reducible apply State.Keeps.updMk
    | (refine Or.inl ?_; assumption)
    | exact Or.inr rfl
    | exact Or.inr ⟨rfl, rfl⟩
    | (refine Or.inl ⟨by assumption, ?_⟩; exact fun w => w)
    | simp only [State.Keeps.mk_iff]
    | (intro d hd; cases hd; done)
    | (intro d hd; cases hd; assumption)
    | (refine (?_ : @Eq (List Host.Cell) _ _); (repeat' split) <;> simp))

theorem State.Keeps.retire (ch : ChanId) (d : Fin 5) (why : Byte) (h : State.Keeps eff cs rel old cur) (kmod : eff.mod =
    true) (kflt : eff.flt = true) (ksend : eff.send = true) (hc : cs ch) :
    State.Keeps eff cs rel old (State.retire cur ch d why) := by
  unfold State.retire
  repeat' (first
    | with_reducible assumption
    | with_reducible apply State.Keeps.covered
    | with_reducible apply State.Keeps.bobCreel
    | with_reducible apply State.Keeps.creelLost
    | with_reducible apply State.Keeps.modCh
    | with_reducible apply State.Keeps.updMk
    | (refine Or.inl ?_; assumption)
    | exact Or.inr rfl
    | exact Or.inr ⟨rfl, rfl⟩
    | (refine Or.inl ⟨by assumption, ?_⟩; exact fun w => w)
    | simp only [State.Keeps.mk_iff]
    | (intro d hd; cases hd; done)
    | (intro d hd; cases hd; assumption)
    | (refine (?_ : @Eq (List Host.Cell) _ _); (repeat' split) <;> simp)
    | split)

theorem State.Keeps.trainResult (ch : ChanId) (p : Vector (BitVec 5) 3) (eyes : List EyeReport) (h : State.Keeps eff cs
    rel old cur) (kmod : eff.mod = true) (kflt : eff.flt = true) (ksend : eff.send = true) (hc : cs ch) :
    State.Keeps eff cs rel old (State.trainResult cur ch p eyes) := by
  unfold State.trainResult
  repeat' (first
    | with_reducible assumption
    | with_reducible apply State.Keeps.retire
    | with_reducible apply State.Keeps.modMem
    | with_reducible apply State.Keeps.creelLost
    | with_reducible apply State.Keeps.modCh
    | with_reducible apply State.Keeps.ite
    | with_reducible apply State.Keeps.updMk
    | (refine Or.inl ?_; assumption)
    | exact Or.inr rfl
    | exact Or.inr ⟨rfl, rfl⟩
    | (refine Or.inl ⟨by assumption, ?_⟩; exact fun w => w)
    | simp only [State.Keeps.mk_iff]
    | (intro d hd; cases hd; done)
    | (intro d hd; cases hd; assumption)
    | (refine (?_ : @Eq (List Host.Cell) _ _); (repeat' split) <;> simp)
    | split)

theorem State.Keeps.restoreReturn (ch : ChanId) (bad : Bool) (h : State.Keeps eff cs rel old cur) (kvlt : eff.vlt =
    true) (hc : cs ch) :
    State.Keeps eff cs rel old (State.restoreReturn cur ch bad) := by
  unfold State.restoreReturn
  repeat' (first
    | with_reducible assumption
    | with_reducible apply State.Keeps.updMk
    | (refine Or.inl ?_; assumption)
    | exact Or.inr rfl
    | exact Or.inr ⟨rfl, rfl⟩
    | (refine Or.inl ⟨by assumption, ?_⟩; exact fun w => w)
    | simp only [State.Keeps.mk_iff]
    | (intro d hd; cases hd; done)
    | (intro d hd; cases hd; assumption))

theorem State.Keeps.abortService (ch : ChanId) (x : Service) (h : State.Keeps eff cs rel old cur) (kvlt : eff.vlt =
    true) (hc : cs ch) :
    State.Keeps eff cs rel old (State.abortService cur ch x) := by
  unfold State.abortService
  repeat' (first
    | with_reducible assumption
    | with_reducible apply State.Keeps.modMem
    | with_reducible apply State.Keeps.restoreReturn
    | with_reducible apply State.Keeps.modCh
    | with_reducible apply State.Keeps.ite
    | with_reducible apply State.Keeps.updMk
    | (refine Or.inl ?_; assumption)
    | exact Or.inr rfl
    | exact Or.inr ⟨rfl, rfl⟩
    | (refine Or.inl ⟨by assumption, ?_⟩; exact fun w => w)
    | simp only [State.Keeps.mk_iff]
    | (intro d hd; cases hd; done)
    | (intro d hd; cases hd; assumption)
    | (refine (?_ : @Eq (List Host.Cell) _ _); (repeat' split) <;> simp)
    | split)

theorem State.Keeps.stallAbort (seen : StallSeen) (h : State.Keeps eff cs rel old cur) (kmod : eff.mod = true) (kvlt :
    eff.vlt = true) (ksend : eff.send = true) (hc : cs seen.ch) :
    State.Keeps eff cs rel old (State.stallAbort cur seen) := by
  unfold State.stallAbort
  repeat' (first
    | with_reducible assumption
    | with_reducible apply State.Keeps.modMem
    | with_reducible apply State.Keeps.abortService
    | with_reducible apply State.Keeps.leaveTrim
    | with_reducible apply State.Keeps.modCh
    | with_reducible apply State.Keeps.ite
    | with_reducible apply State.Keeps.updMk
    | (refine Or.inl ?_; assumption)
    | exact Or.inr rfl
    | exact Or.inr ⟨rfl, rfl⟩
    | (refine Or.inl ⟨by assumption, ?_⟩; exact fun w => w)
    | simp only [State.Keeps.mk_iff]
    | (intro d hd; cases hd; done)
    | (intro d hd; cases hd; assumption)
    | (refine (?_ : @Eq (List Host.Cell) _ _); (repeat' split) <;> simp)
    | split)

theorem State.Keeps.dropServices (ch : ChanId) (h : State.Keeps eff cs rel old cur) (kmod : eff.mod = true) (kvlt :
    eff.vlt = true) (ksend : eff.send = true) (hc : cs ch) :
    State.Keeps eff cs rel old (State.dropServices cur ch) := by
  unfold State.dropServices
  repeat' (first
    | with_reducible assumption
    | with_reducible apply State.Keeps.abortService
    | with_reducible apply State.Keeps.leaveTrim
    | with_reducible apply State.Keeps.modCh
    | with_reducible apply State.Keeps.foldl
    | with_reducible apply State.Keeps.ite
    | with_reducible apply State.Keeps.updMk
    | (refine Or.inl ?_; assumption)
    | exact Or.inr rfl
    | exact Or.inr ⟨rfl, rfl⟩
    | (refine Or.inl ⟨by assumption, ?_⟩; exact fun w => w)
    | simp only [State.Keeps.mk_iff]
    | (intro d hd; cases hd; done)
    | (intro d hd; cases hd; assumption)
    | (refine (?_ : @Eq (List Host.Cell) _ _); (repeat' split) <;> simp)
    | (intro _ _ _))

theorem State.Keeps.calCommand (ch : ChanId) (v : Word) (h : State.Keeps eff cs rel old cur) (hc : cs ch) :
    State.Keeps eff cs rel old (State.calCommand cur ch v) := by
  unfold State.calCommand
  repeat' (first
    | with_reducible assumption
    | with_reducible apply State.Keeps.modCh
    | with_reducible apply State.Keeps.ite
    | with_reducible apply State.Keeps.updMk
    | (refine Or.inl ?_; assumption)
    | exact Or.inr rfl
    | exact Or.inr ⟨rfl, rfl⟩
    | (refine Or.inl ⟨by assumption, ?_⟩; exact fun w => w)
    | simp only [State.Keeps.mk_iff]
    | (intro d hd; cases hd; done)
    | (intro d hd; cases hd; assumption)
    | (refine (?_ : @Eq (List Host.Cell) _ _); (repeat' split) <;> simp))

theorem State.Keeps.calFinish (ch : ChanId) (h : State.Keeps eff cs rel old cur) (kmod : eff.mod = true) (ksend :
    eff.send = true) (hc : cs ch) :
    State.Keeps eff cs rel old (State.calFinish cur ch) := by
  unfold State.calFinish
  repeat' (first
    | with_reducible assumption
    | with_reducible apply State.Keeps.leaveTrim
    | with_reducible apply State.Keeps.modCh
    | with_reducible apply State.Keeps.ite
    | with_reducible apply State.Keeps.updMk
    | (refine Or.inl ?_; assumption)
    | exact Or.inr rfl
    | exact Or.inr ⟨rfl, rfl⟩
    | (refine Or.inl ⟨by assumption, ?_⟩; exact fun w => w)
    | simp only [State.Keeps.mk_iff]
    | (intro d hd; cases hd; done)
    | (intro d hd; cases hd; assumption)
    | (refine (?_ : @Eq (List Host.Cell) _ _); (repeat' split) <;> simp)
    | split)

theorem State.Keeps.calClock (ch : ChanId) (h : State.Keeps eff cs rel old cur) (kmod : eff.mod = true) (ksend :
    eff.send = true) (hc : cs ch) :
    State.Keeps eff cs rel old (cur.calClock ch) := by
  unfold State.calClock
  split
  · apply State.Keeps.calFinish <;> first | assumption | skip
    refine h.modCh ch _ ?_ hc
    exact foldl_keeps (fun c : Chan => c.mem.data) _ (fun c k => by simp) _ _
  · exact h

theorem State.Keeps.refLossAll (h : State.Keeps eff cs rel old cur) (kmod : eff.mod = true) (ktrk : eff.trk = true)
    (ksend : eff.send = true) (hc : ∀ d, cs d) :
    State.Keeps eff cs rel old (State.refLossAll cur) := by
  unfold State.refLossAll
  repeat' (first
    | with_reducible assumption
    | with_reducible apply State.Keeps.refLoss
    | with_reducible apply State.Keeps.calClock
    | with_reducible apply State.Keeps.forCh
    | (intro d hd; cases hd; done)
    | (intro d hd; cases hd; exact hc _)
    | exact hc _
    | (intro _ _ _))

theorem State.Keeps.tlhEvent (k : Nat) (h : State.Keeps eff cs rel old cur) (ktlh : eff.tlh = true) :
    State.Keeps eff cs rel old (cur.tlhEvent k) := by
  refine h.upd _ _ _ _ _ _ _ _ _ ?_ ?_ ?_ ?_ ?_ ?_ ?_ ?_ ?_ ?_ ?_ <;> first | exact .inr rfl | exact .inr ⟨rfl, rfl⟩ | exact .inl ktlh

theorem State.Keeps.modTlh (ch : ChanId) (f : ChTlh → ChTlh) (h : State.Keeps eff cs rel old cur) (hc : cs ch) :
    State.Keeps eff cs rel old (cur.modTlh ch f) := h.modCh ch _ rfl hc

theorem State.Keeps.grant (ch : ChanId) (h : State.Keeps eff cs rel old cur) (hc : cs ch) :
    State.Keeps eff cs rel old (State.grant cur ch) := by
  unfold State.grant
  repeat' (first
    | with_reducible assumption
    | with_reducible apply State.Keeps.request
    | with_reducible apply State.Keeps.modTlh
    | with_reducible apply State.Keeps.serviceBegin
    | with_reducible apply State.Keeps.ite
    | with_reducible apply State.Keeps.updMk
    | (refine Or.inl ?_; assumption)
    | exact Or.inr rfl
    | exact Or.inr ⟨rfl, rfl⟩
    | (refine Or.inl ⟨by assumption, ?_⟩; exact fun w => w)
    | simp only [State.Keeps.mk_iff]
    | (intro d hd; cases hd; done)
    | (intro d hd; cases hd; assumption)
    | (refine (?_ : @Eq (List Host.Cell) _ _); (repeat' split) <;> simp))

theorem State.Keeps.deny (ch : ChanId) (code : Byte) (h : State.Keeps eff cs rel old cur) (ktlh : eff.tlh = true) (hc :
    cs ch) :
    State.Keeps eff cs rel old (State.deny cur ch code) := by
  unfold State.deny
  repeat' (first
    | with_reducible assumption
    | with_reducible apply State.Keeps.modTlh
    | with_reducible apply State.Keeps.tlhEvent
    | with_reducible apply State.Keeps.updMk
    | (refine Or.inl ?_; assumption)
    | exact Or.inr rfl
    | exact Or.inr ⟨rfl, rfl⟩
    | (refine Or.inl ⟨by assumption, ?_⟩; exact fun w => w)
    | simp only [State.Keeps.mk_iff]
    | (intro d hd; cases hd; done)
    | (intro d hd; cases hd; assumption)
    | (refine (?_ : @Eq (List Host.Cell) _ _); (repeat' split) <;> simp))

theorem State.Keeps.tollSpeed (ch : ChanId) (g : Nat) (h : State.Keeps eff cs rel old cur) (hc : cs ch) :
    State.Keeps eff cs rel old (State.tollSpeed cur ch g) := by
  unfold State.tollSpeed
  repeat' (first
    | with_reducible assumption
    | with_reducible apply State.Keeps.modCh
    | (intro d hd; cases hd; done)
    | (intro d hd; cases hd; assumption)
    | (refine (?_ : @Eq (List Host.Cell) _ _); (repeat' split) <;> simp))

theorem Admit.settle_keeps (a : Admit) (ch : ChanId) (h : State.Keeps eff cs rel old a.s) (hc : cs ch) :
    State.Keeps eff cs rel old (a.settle ch).s := by
  simp only [Admit.settle]
  split
  · exact h
  · split
    · exact h
    · split
      · exact h
      · split
        · exact h.grant ch hc
        · dsimp only
          exact h.modTlh ch _ hc

theorem Admit.one_keeps (b : Nat) (a : Admit) (ch : ChanId) (h : State.Keeps eff cs rel old a.s) (ktlh : eff.tlh = true)
    (hc : cs ch) :
    State.Keeps eff cs rel old (a.one b ch).s := by
  simp only [Admit.one]
  have k1 := fun g => h.tollSpeed ch g hc
  (repeat' split) <;> first
    | with_reducible exact h.grant ch hc
    | with_reducible exact h.deny ch _ ktlh hc
    | (dsimp only; with_reducible exact (k1 _).modTlh ch _ hc)

theorem Admit.foldl_keeps (f : Admit → ChanId → Admit)
    (hf : ∀ a c, State.Keeps eff cs rel old a.s → State.Keeps eff cs rel old (f a c).s)
    (l : List ChanId) (a : Admit) (h : State.Keeps eff cs rel old a.s) : State.Keeps eff cs rel old (l.foldl f a).s := by
  induction l generalizing a with
  | nil => exact h
  | cons c l ih => exact ih _ (hf a c h)

theorem State.Keeps.admission (b : Nat) (h : State.Keeps eff cs rel old cur) (ktlh : eff.tlh = true) (hc : ∀ d, cs d) :
    State.Keeps eff cs rel old (cur.admission b) := by
  unfold State.admission
  extract_lets y1
  have h0 : State.Keeps eff cs rel old ({ s := cur, total := cur.totalCharge, blocked := false } : Admit).s := h
  have h1 : State.Keeps eff cs rel old y1.s :=
    Admit.foldl_keeps Admit.settle (fun a c w => Admit.settle_keeps a c w (hc c)) allCh _ h0
  clear_value y1
  exact Admit.foldl_keeps (Admit.one b) (fun a c w => Admit.one_keeps b a c w ktlh (hc c)) _ _ h1

theorem State.Keeps.denyAll (h : State.Keeps eff cs rel old cur) (ktlh : eff.tlh = true) (hc : ∀ d, cs d) :
    State.Keeps eff cs rel old (State.denyAll cur) := by
  unfold State.denyAll
  repeat' (first
    | with_reducible assumption
    | with_reducible apply State.Keeps.deny
    | with_reducible apply State.Keeps.foldl
    | (intro d hd; cases hd; done)
    | (intro d hd; cases hd; exact hc _)
    | exact hc _
    | (intro _ _ _))

theorem State.Keeps.ladderStep (k : Nat) (ch : ChanId) {u : State} {n : Nat} (h : State.Keeps eff cs rel old cur) (ktlh
    : eff.tlh = true) (hc : ∀ d, cs d)
    (q : cur.ladderStep k ch = some (u, n)) : State.Keeps eff cs rel old u := by
  simp only [State.ladderStep] at q
  split at q
  · rw [Option.ite_none_right_eq_some] at q
    obtain ⟨-, q⟩ := q; cases q
    exact (h.modTlh _ _ (hc _)).tlhEvent _ ktlh
  · rw [Option.ite_none_right_eq_some] at q
    obtain ⟨-, q⟩ := q; cases q
    exact ((h.tollSpeed _ _ (hc _)).modTlh _ _ (hc _)).tlhEvent _ ktlh
  · rw [Option.ite_none_right_eq_some] at q
    obtain ⟨-, q⟩ := q; cases q
    exact ((h.modCh _ _ (by simp) (hc _)).modTlh _ _ (hc _)).tlhEvent _ ktlh
  · rw [Option.ite_none_right_eq_some] at q
    obtain ⟨-, q⟩ := q; cases q
    exact (h.modTlh _ _ (hc _)).tlhEvent _ ktlh

theorem State.Keeps.ladderOver (k : Nat) (l : List ChanId) (a : State × Int × Bool) (h : State.Keeps eff cs rel old a.1)
    (ktlh : eff.tlh = true) (hc : ∀ d, cs d) :
    State.Keeps eff cs rel old (ladderOver k l a).1 := by
  induction l generalizing a with
  | nil => exact h
  | cons ch l ih =>
    obtain ⟨u, need, took⟩ := a
    rw [Sys2Proof.Machine.ladderOver]
    split
    · exact h
    · split
      · rename_i q; exact ih _ (h.ladderStep k ch ktlh hc q)
      · exact ih _ h

theorem State.Keeps.ladder (d : Int) (h : State.Keeps eff cs rel old cur) (ktlh : eff.tlh = true) (hc : ∀ d, cs d) :
    State.Keeps eff cs rel old (cur.ladder d) := by
  have hf : ∀ (l : List ChanId) (ks : List Nat) (a : State × Int × Bool), State.Keeps eff cs rel old a.1 →
      State.Keeps eff cs rel old (ks.foldl (fun r k => Sys2Proof.Machine.ladderOver k l r) a).1 := by
    intro l ks
    induction ks with
    | nil => exact fun a w => w
    | cons k ks ih => exact fun a w => ih _ (w.ladderOver k _ a ktlh hc)
  unfold State.ladder
  extract_lets y1 y2
  have h2 : State.Keeps eff cs rel old y2.1 := hf _ _ _ h
  clear_value y2
  refine State.Keeps.ite ?_ h2
  refine h2.upd _ _ _ _ _ _ _ _ _ ?_ ?_ ?_ ?_ ?_ ?_ ?_ ?_ ?_ ?_ ?_ <;> first | exact .inr rfl | exact .inr ⟨rfl, rfl⟩ | exact .inl ktlh

theorem State.Keeps.meter (ch : ChanId) (avs draw : Nat) (h : State.Keeps eff cs rel old cur) (hc : cs ch) :
    State.Keeps eff cs rel old (State.meter cur ch avs draw) := by
  unfold State.meter
  repeat' (first
    | with_reducible assumption
    | with_reducible apply State.Keeps.modTlh
    | with_reducible apply State.Keeps.ite
    | with_reducible apply State.Keeps.updMk
    | (refine Or.inl ?_; assumption)
    | exact Or.inr rfl
    | exact Or.inr ⟨rfl, rfl⟩
    | (refine Or.inl ⟨by assumption, ?_⟩; exact fun w => w)
    | simp only [State.Keeps.mk_iff]
    | (intro d hd; cases hd; done)
    | (intro d hd; cases hd; assumption)
    | (refine (?_ : @Eq (List Host.Cell) _ _); (repeat' split) <;> simp))

theorem State.Keeps.tickMeters (avs draw : List (BitVec 16)) (h : State.Keeps eff cs rel old cur) (ktlh
    : eff.tlh = true) (hc : ∀ d, cs d) :
    State.Keeps eff cs rel old (State.tickMeters cur avs draw) := by
  unfold State.tickMeters
  repeat' (first
    | with_reducible assumption
    | with_reducible apply State.Keeps.meter
    | with_reducible apply State.Keeps.forCh
    | with_reducible apply State.Keeps.ite
    | with_reducible apply State.Keeps.updMk
    | (refine Or.inl ?_; assumption)
    | exact Or.inr rfl
    | exact Or.inr ⟨rfl, rfl⟩
    | (refine Or.inl ⟨by assumption, ?_⟩; exact fun w => w)
    | simp only [State.Keeps.mk_iff]
    | (intro d hd; cases hd; done)
    | (intro d hd; cases hd; exact hc _)
    | exact hc _
    | (intro _ _ _))

theorem State.Keeps.tickFigures (h : State.Keeps eff cs rel old cur) (ktlh : eff.tlh = true) (hc : ∀ d, cs d) :
    State.Keeps eff cs rel old (State.tickFigures cur) := by
  unfold State.tickFigures
  repeat' (first
    | with_reducible assumption
    | with_reducible apply State.Keeps.modTlh
    | with_reducible apply State.Keeps.forCh
    | with_reducible apply State.Keeps.ite
    | with_reducible apply State.Keeps.updMk
    | (refine Or.inl ?_; assumption)
    | exact Or.inr rfl
    | exact Or.inr ⟨rfl, rfl⟩
    | (refine Or.inl ⟨by assumption, ?_⟩; exact fun w => w)
    | simp only [State.Keeps.mk_iff]
    | (intro d hd; cases hd; done)
    | (intro d hd; cases hd; exact hc _)
    | exact hc _
    | (refine (?_ : @Eq (List Host.Cell) _ _); (repeat' split) <;> simp)
    | (intro _ _ _))

theorem State.Keeps.tickActs (h : State.Keeps eff cs rel old cur) (ktlh : eff.tlh = true) (hc : ∀ d, cs d) :
    State.Keeps eff cs rel old (State.tickActs cur) := by
  unfold State.tickActs
  repeat' (first
    | with_reducible assumption
    | with_reducible apply State.Keeps.denyAll
    | with_reducible apply State.Keeps.ladder
    | with_reducible apply State.Keeps.admission
    | with_reducible apply State.Keeps.ite
    | (intro d hd; cases hd; done)
    | (intro d hd; cases hd; exact hc _)
    | exact hc _
    | (refine (?_ : @Eq (List Host.Cell) _ _); (repeat' split) <;> simp))

theorem State.Keeps.tollTick (avs draw : List (BitVec 16)) (h : State.Keeps eff cs rel old cur) (kmod :
    eff.mod = true) (kmode : eff.mode = true) (ktlh : eff.tlh = true) (hc : ∀ d, cs d) :
    State.Keeps eff cs rel old (State.tollTick cur avs draw) := by
  unfold State.tollTick
  repeat' (first
    | with_reducible assumption
    | with_reducible apply State.Keeps.tickMeters
    | with_reducible apply State.Keeps.setMode
    | with_reducible apply State.Keeps.tickFigures
    | with_reducible apply State.Keeps.tickActs
    | with_reducible apply State.Keeps.ite
    | with_reducible apply State.Keeps.updMk
    | (refine Or.inl ?_; assumption)
    | exact Or.inr rfl
    | exact Or.inr ⟨rfl, rfl⟩
    | (refine Or.inl ⟨by assumption, ?_⟩; exact fun w => w)
    | simp only [State.Keeps.mk_iff]
    | (intro d hd; cases hd; done)
    | (intro d hd; cases hd; exact hc _)
    | exact hc _
    | (refine (?_ : @Eq (List Host.Cell) _ _); (repeat' split) <;> simp))

theorem State.Keeps.hardMarked (ch : ChanId) (h : State.Keeps eff cs rel old cur) (kmod : eff.mod = true) (hc : cs ch) :
    State.Keeps eff cs rel old (State.hardMarked cur ch) := by
  unfold State.hardMarked
  repeat' (first
    | with_reducible assumption
    | with_reducible apply State.Keeps.holdNow
    | with_reducible apply State.Keeps.modCh
    | with_reducible apply State.Keeps.ite
    | (intro d hd; cases hd; done)
    | (intro d hd; cases hd; assumption)
    | (refine (?_ : @Eq (List Host.Cell) _ _); (repeat' split) <;> simp))

theorem State.Keeps.hardFurther (ch : ChanId) (h : State.Keeps eff cs rel old cur) (kmod : eff.mod = true) (hc : cs ch) :
    State.Keeps eff cs rel old (State.hardFurther cur ch) := by
  unfold State.hardFurther
  repeat' (first
    | with_reducible assumption
    | with_reducible apply State.Keeps.holdNow
    | with_reducible apply State.Keeps.ite
    | (intro d hd; cases hd; done)
    | (intro d hd; cases hd; assumption)
    | (refine (?_ : @Eq (List Host.Cell) _ _); (repeat' split) <;> simp))

theorem State.Keeps.hardShed (h : State.Keeps eff cs rel old cur) (kmod : eff.mod = true) (ktlh : eff.tlh = true) (hc :
    ∀ d, cs d) :
    State.Keeps eff cs rel old (State.hardShed cur) := by
  unfold State.hardShed
  repeat' (first
    | with_reducible assumption
    | with_reducible apply State.Keeps.hardMarked
    | with_reducible apply State.Keeps.hardFurther
    | with_reducible apply State.Keeps.tlhEvent
    | with_reducible apply State.Keeps.foldl
    | (intro d hd; cases hd; done)
    | (intro d hd; cases hd; exact hc _)
    | exact hc _
    | (intro _ _ _))

theorem State.Keeps.raiseOne (ch : ChanId) (a : State × Nat) (h : State.Keeps eff cs rel old a.1) (hc : cs ch) :
    State.Keeps eff cs rel old (State.raiseOne a ch).1 := by
  simp only [State.raiseOne]
  split
  · rw [apply_ite Prod.fst]
    exact State.Keeps.ite (h.tollSpeed _ _ hc) h
  · exact h

theorem State.Keeps.closeAll (ch : ChanId) (h : State.Keeps eff cs rel old cur) (ksend : eff.send = true) (hc : cs ch) :
    State.Keeps eff cs rel old (State.closeAll cur ch) := by
  unfold State.closeAll
  repeat' (first
    | with_reducible assumption
    | with_reducible apply State.Keeps.closeQueue
    | with_reducible apply State.Keeps.foldl
    | (intro d hd; cases hd; done)
    | (intro d hd; cases hd; assumption)
    | (intro _ _ _))

theorem State.Keeps.startLoading (ch : ChanId) (h : State.Keeps eff cs rel old cur) (ksend : eff.send = true) (hc : cs ch) :
    State.Keeps eff cs rel old (State.startLoading cur ch) := by
  unfold State.startLoading
  repeat' (first
    | with_reducible assumption
    | with_reducible apply State.Keeps.closeAll
    | with_reducible apply State.Keeps.modCh
    | (intro d hd; cases hd; done)
    | (intro d hd; cases hd; assumption)
    | (refine (?_ : @Eq (List Host.Cell) _ _); (repeat' split) <;> simp))

theorem State.Keeps.abortServices (ch : ChanId) (h : State.Keeps eff cs rel old cur) (kvlt : eff.vlt = true) (hc : cs ch) :
    State.Keeps eff cs rel old (State.abortServices cur ch) := by
  unfold State.abortServices
  repeat' (first
    | with_reducible assumption
    | with_reducible apply State.Keeps.abortService
    | with_reducible apply State.Keeps.modCh
    | with_reducible apply State.Keeps.foldl
    | with_reducible apply State.Keeps.updMk
    | (refine Or.inl ?_; assumption)
    | exact Or.inr rfl
    | exact Or.inr ⟨rfl, rfl⟩
    | (refine Or.inl ⟨by assumption, ?_⟩; exact fun w => w)
    | simp only [State.Keeps.mk_iff]
    | (intro d hd; cases hd; done)
    | (intro d hd; cases hd; assumption)
    | (refine (?_ : @Eq (List Host.Cell) _ _); (repeat' split) <;> simp)
    | (intro _ _ _))

theorem State.Keeps.unconfigure (ch : ChanId) (reason : Byte) (h : State.Keeps eff cs rel old cur) (kmod : eff.mod =
    true) (kvlt : eff.vlt = true) (ksend : eff.send = true) (hc : cs ch) :
    State.Keeps eff cs rel old (State.unconfigure cur ch reason) := by
  unfold State.unconfigure
  repeat' (first
    | with_reducible assumption
    | with_reducible apply State.Keeps.abortServices
    | with_reducible apply State.Keeps.closeAll
    | with_reducible apply State.Keeps.enterRest
    | with_reducible apply State.Keeps.modCh
    | with_reducible apply State.Keeps.ite
    | with_reducible apply State.Keeps.updMk
    | (refine Or.inl ?_; assumption)
    | exact Or.inr rfl
    | exact Or.inr ⟨rfl, rfl⟩
    | (refine Or.inl ⟨by assumption, ?_⟩; exact fun w => w)
    | simp only [State.Keeps.mk_iff]
    | (intro d hd; cases hd; done)
    | (intro d hd; cases hd; assumption)
    | (refine (?_ : @Eq (List Host.Cell) _ _); (repeat' split) <;> simp))

theorem State.Keeps.sknStart (v : Word) (h : State.Keeps eff cs rel old cur) (kmod : eff.mod = true) (kmode : eff.mode =
    true) (ksend : eff.send = true) (kskn : eff.skn = true) (hc : ∀ d, cs d) :
    State.Keeps eff cs rel old (State.sknStart cur v) := by
  unfold State.sknStart
  repeat' (first
    | with_reducible assumption
    | with_reducible apply State.Keeps.setMode
    | with_reducible apply State.Keeps.startLoading
    | with_reducible apply State.Keeps.forCh
    | with_reducible apply State.Keeps.ite
    | with_reducible apply State.Keeps.updMk
    | (refine Or.inl ?_; assumption)
    | exact Or.inr rfl
    | exact Or.inr ⟨rfl, rfl⟩
    | (refine Or.inl ⟨by assumption, ?_⟩; exact fun w => w)
    | simp only [State.Keeps.mk_iff]
    | (intro d hd; cases hd; done)
    | (intro d hd; cases hd; exact hc _)
    | exact hc _
    | split
    | (intro _ _ _))

theorem State.Keeps.sknRefuse (r : SknRefusal) (h : State.Keeps eff cs rel old cur) (kskn : eff.skn = true) :
    State.Keeps eff cs rel old (State.sknRefuse cur r) := by
  unfold State.sknRefuse
  repeat' (first
    | with_reducible assumption
    | with_reducible apply State.Keeps.ite
    | with_reducible apply State.Keeps.updMk
    | (refine Or.inl ?_; assumption)
    | exact Or.inr rfl
    | exact Or.inr ⟨rfl, rfl⟩
    | (refine Or.inl ⟨by assumption, ?_⟩; exact fun w => w)
    | simp only [State.Keeps.mk_iff]
    | (intro d hd; cases hd; done)
    | (intro d hd; cases hd; assumption))

theorem State.Keeps.loadEnd (h : State.Keeps eff cs rel old cur) (kskn : eff.skn = true) :
    State.Keeps eff cs rel old (State.loadEnd cur) := by
  unfold State.loadEnd
  repeat' (first
    | with_reducible assumption
    | with_reducible apply State.Keeps.ite
    | with_reducible apply State.Keeps.updMk
    | (refine Or.inl ?_; assumption)
    | exact Or.inr rfl
    | exact Or.inr ⟨rfl, rfl⟩
    | (refine Or.inl ⟨by assumption, ?_⟩; exact fun w => w)
    | simp only [State.Keeps.mk_iff]
    | (intro d hd; cases hd; done)
    | (intro d hd; cases hd; assumption)
    | split)

theorem State.Keeps.loadFail (reason : Byte) (power : Bool) (h : State.Keeps eff cs rel old cur) (kmod : eff.mod = true)
    (kmode : eff.mode = true) (kvlt : eff.vlt = true) (ksend : eff.send = true) (kskn : eff.skn = true) (hc : ∀ d, cs d)
    :
    State.Keeps eff cs rel old (State.loadFail cur reason power) := by
  unfold State.loadFail
  repeat' (first
    | with_reducible assumption
    | with_reducible apply State.Keeps.unconfigure
    | with_reducible apply State.Keeps.setMode
    | with_reducible apply State.Keeps.loadEnd
    | with_reducible apply State.Keeps.forCh
    | with_reducible apply State.Keeps.ite
    | with_reducible apply State.Keeps.updMk
    | (refine Or.inl ?_; assumption)
    | exact Or.inr rfl
    | exact Or.inr ⟨rfl, rfl⟩
    | (refine Or.inl ⟨by assumption, ?_⟩; exact fun w => w)
    | simp only [State.Keeps.mk_iff]
    | (intro d hd; cases hd; done)
    | (intro d hd; cases hd; exact hc _)
    | exact hc _
    | (refine (?_ : @Eq (List Host.Cell) _ _); (repeat' split) <;> simp)
    | split
    | (intro _ _ _))

theorem State.Keeps.loadAbort (reason : Byte) (detail : BitVec 16) (h : State.Keeps eff cs rel old cur) (kmod : eff.mod
    = true) (kmode : eff.mode = true) (kvlt : eff.vlt = true) (ksend : eff.send = true) (kskn : eff.skn = true) (hc : ∀
    d, cs d) :
    State.Keeps eff cs rel old (State.loadAbort cur reason detail) := by
  unfold State.loadAbort
  repeat' (first
    | with_reducible assumption
    | with_reducible apply State.Keeps.sknRefuse
    | with_reducible apply State.Keeps.loadFail
    | with_reducible apply State.Keeps.ite
    | (intro d hd; cases hd; done)
    | (intro d hd; cases hd; exact hc _)
    | exact hc _)

theorem State.Keeps.startInitial (ch : ChanId) (h : State.Keeps eff cs rel old cur) (kmod : eff.mod = true) (hc : cs ch) :
    State.Keeps eff cs rel old (State.startInitial cur ch) := by
  unfold State.startInitial
  split
  · exact State.Keeps.enterTrim ch (h.modCh ch _ rfl hc) kmod hc
  · exact h

theorem State.Keeps.startInitials (h : State.Keeps eff cs rel old cur) (kmod : eff.mod = true) (hc : ∀ d, cs d) :
    State.Keeps eff cs rel old (State.forCh allCh State.startInitial cur) :=
  h.forCh _ _ fun _ c k => k.startInitial c kmod (hc c)

theorem State.Keeps.loadDone (h : State.Keeps eff cs rel old cur) (kmod : eff.mod = true) (kmode : eff.mode = true)
    (kskn : eff.skn = true) (hc : ∀ d, cs d) :
    State.Keeps eff cs rel old (State.loadDone cur) := by
  unfold State.loadDone
  repeat' (first
    | with_reducible assumption
    | with_reducible apply State.Keeps.complete
    | with_reducible apply State.Keeps.startInitials
    | with_reducible apply State.Keeps.setMode
    | with_reducible apply State.Keeps.loadEnd
    | with_reducible apply State.Keeps.ite
    | with_reducible apply State.Keeps.updMk
    | (refine Or.inl ?_; assumption)
    | exact Or.inr rfl
    | exact Or.inr ⟨rfl, rfl⟩
    | (refine Or.inl ⟨by assumption, ?_⟩; exact fun w => w)
    | simp only [State.Keeps.mk_iff]
    | (intro d hd; cases hd; done)
    | (intro d hd; cases hd; exact hc _)
    | exact hc
    | (refine (?_ : @Eq (List Host.Cell) _ _); (repeat' split) <;> simp)
    | split)

theorem State.Keeps.loadResolve (ch : ChanId) (h : State.Keeps eff cs rel old cur) (kskn : eff.skn = true) (hc : cs ch) :
    State.Keeps eff cs rel old (State.loadResolve cur ch) := by
  unfold State.loadResolve
  repeat' (first
    | with_reducible assumption
    | with_reducible apply State.Keeps.updMk
    | (refine Or.inl ?_; assumption)
    | exact Or.inr rfl
    | exact Or.inr ⟨rfl, rfl⟩
    | (refine Or.inl ⟨by assumption, ?_⟩; exact fun w => w)
    | simp only [State.Keeps.mk_iff]
    | (intro d hd; cases hd; done)
    | (intro d hd; cases hd; assumption))

theorem State.Keeps.refuseChannel (ch : ChanId) (reason : Byte) (detail : Nat) (h : State.Keeps eff cs rel old cur)
    (kmod : eff.mod = true) (kvlt : eff.vlt = true) (ksend : eff.send = true) (kskn : eff.skn = true) (hc : cs ch) :
    State.Keeps eff cs rel old (State.refuseChannel cur ch reason detail) := by
  unfold State.refuseChannel
  repeat' (first
    | with_reducible assumption
    | with_reducible apply State.Keeps.sknRefuse
    | with_reducible apply State.Keeps.unconfigure
    | with_reducible apply State.Keeps.loadResolve
    | (intro d hd; cases hd; done)
    | (intro d hd; cases hd; assumption))

theorem State.Keeps.modLoad (f : Load → Load) (h : State.Keeps eff cs rel old cur) (kskn : eff.skn = true) :
    State.Keeps eff cs rel old (State.modLoad cur f) := by
  unfold State.modLoad
  repeat' (first
    | with_reducible assumption
    | with_reducible apply State.Keeps.updMk
    | (refine Or.inl ?_; assumption)
    | exact Or.inr rfl
    | exact Or.inr ⟨rfl, rfl⟩
    | (refine Or.inl ⟨by assumption, ?_⟩; exact fun w => w)
    | simp only [State.Keeps.mk_iff]
    | (intro d hd; cases hd; done)
    | (intro d hd; cases hd; assumption))

theorem State.Keeps.sknFatal (r : SknRefusal) (h : State.Keeps eff cs rel old cur) (kskn : eff.skn = true) :
    State.Keeps eff cs rel old (State.sknFatal cur r) := by
  unfold State.sknFatal
  repeat' (first
    | with_reducible assumption
    | with_reducible apply State.Keeps.sknRefuse
    | with_reducible apply State.Keeps.modLoad
    | with_reducible apply State.Keeps.updMk
    | (refine Or.inl ?_; assumption)
    | exact Or.inr rfl
    | exact Or.inr ⟨rfl, rfl⟩
    | (refine Or.inl ⟨by assumption, ?_⟩; exact fun w => w)
    | simp only [State.Keeps.mk_iff]
    | (intro d hd; cases hd; done)
    | (intro d hd; cases hd; assumption)
    | (refine (?_ : @Eq (List Host.Cell) _ _); (repeat' split) <;> simp))

theorem State.Keeps.sectionDone (l : Load) (e : DirEntry) (h : State.Keeps eff cs rel old cur) (kmod : eff.mod = true)
    (kvlt : eff.vlt = true) (ksend : eff.send = true) (kskn : eff.skn = true) (hc : ∀ d, cs d) :
    State.Keeps eff cs rel old (State.sectionDone cur l e) := by
  unfold State.sectionDone
  repeat' (first
    | with_reducible assumption
    | with_reducible apply State.Keeps.modLoad
    | with_reducible apply State.Keeps.sknFatal
    | with_reducible apply State.Keeps.refuseChannel
    | with_reducible apply State.Keeps.ite
    | with_reducible apply State.Keeps.updMk
    | (refine Or.inl ?_; assumption)
    | exact Or.inr rfl
    | exact Or.inr ⟨rfl, rfl⟩
    | (refine Or.inl ⟨by assumption, ?_⟩; exact fun w => w)
    | simp only [State.Keeps.mk_iff]
    | (intro d hd; cases hd; done)
    | (intro d hd; cases hd; exact hc _)
    | exact hc _
    | (refine (?_ : @Eq (List Host.Cell) _ _); (repeat' split) <;> simp)
    | split)

theorem State.Keeps.headerDone (l : Load) (h : State.Keeps eff cs rel old cur) (kskn : eff.skn = true) :
    State.Keeps eff cs rel old (State.headerDone cur l) := by
  unfold State.headerDone
  repeat' (first
    | with_reducible assumption
    | with_reducible apply State.Keeps.sknFatal
    | with_reducible apply State.Keeps.modLoad
    | with_reducible apply State.Keeps.ite
    | with_reducible apply State.Keeps.updMk
    | (refine Or.inl ?_; assumption)
    | exact Or.inr rfl
    | exact Or.inr ⟨rfl, rfl⟩
    | (refine Or.inl ⟨by assumption, ?_⟩; exact fun w => w)
    | simp only [State.Keeps.mk_iff]
    | (intro d hd; cases hd; done)
    | (intro d hd; cases hd; assumption)
    | (refine (?_ : @Eq (List Host.Cell) _ _); (repeat' split) <;> simp)
    | split)

theorem State.Keeps.applyBegin (h : State.Keeps eff cs rel old cur) (kmod : eff.mod = true) (kmode : eff.mode = true)
    (kskn : eff.skn = true) (hc : ∀ d, cs d) :
    State.Keeps eff cs rel old (State.applyBegin cur) := by
  unfold State.applyBegin
  repeat' (first
    | with_reducible assumption
    | with_reducible apply State.Keeps.loadDone
    | with_reducible apply State.Keeps.modCh
    | with_reducible apply State.Keeps.forCh
    | with_reducible apply State.Keeps.updMk
    | (refine Or.inl ?_; assumption)
    | exact Or.inr rfl
    | exact Or.inr ⟨rfl, rfl⟩
    | (refine Or.inl ⟨by assumption, ?_⟩; exact fun w => w)
    | simp only [State.Keeps.mk_iff]
    | (intro d hd; cases hd; done)
    | (intro d hd; cases hd; exact hc _)
    | exact hc _
    | (refine (?_ : @Eq (List Host.Cell) _ _); (repeat' split) <;> simp)
    | split
    | (intro _ _ _))

theorem State.Keeps.streamDone (h : State.Keeps eff cs rel old cur) (kmod : eff.mod = true) (kmode : eff.mode = true)
    (kvlt : eff.vlt = true) (ksend : eff.send = true) (kskn : eff.skn = true) (hc : ∀ d, cs d) :
    State.Keeps eff cs rel old (State.streamDone cur) := by
  unfold State.streamDone
  repeat' (first
    | with_reducible assumption
    | with_reducible apply State.Keeps.modLoad
    | with_reducible apply State.Keeps.loadFail
    | with_reducible apply State.Keeps.applyBegin
    | with_reducible apply State.Keeps.ite
    | with_reducible apply State.Keeps.updMk
    | (refine Or.inl ?_; assumption)
    | exact Or.inr rfl
    | exact Or.inr ⟨rfl, rfl⟩
    | (refine Or.inl ⟨by assumption, ?_⟩; exact fun w => w)
    | simp only [State.Keeps.mk_iff]
    | (intro d hd; cases hd; done)
    | (intro d hd; cases hd; exact hc _)
    | exact hc _
    | (refine (?_ : @Eq (List Host.Cell) _ _); (repeat' split) <;> simp)
    | split)

theorem State.Keeps.sknData (w : Word) (h : State.Keeps eff cs rel old cur) (kmod : eff.mod = true) (kmode : eff.mode =
    true) (kvlt : eff.vlt = true) (ksend : eff.send = true) (kskn : eff.skn = true) (hc : ∀ d, cs d) :
    State.Keeps eff cs rel old (State.sknData cur w) := by
  unfold State.sknData
  repeat' (first
    | with_reducible assumption
    | with_reducible apply State.Keeps.complete
    | with_reducible apply State.Keeps.headerDone
    | with_reducible apply State.Keeps.sectionDone
    | with_reducible apply State.Keeps.streamDone
    | with_reducible apply State.Keeps.ite
    | with_reducible apply State.Keeps.updMk
    | (refine Or.inl ?_; assumption)
    | exact Or.inr rfl
    | exact Or.inr ⟨rfl, rfl⟩
    | (refine Or.inl ⟨by assumption, ?_⟩; exact fun w => w)
    | simp only [State.Keeps.mk_iff]
    | (intro d hd; cases hd; done)
    | (intro d hd; cases hd; exact hc _)
    | exact hc _
    | split)

theorem State.Keeps.applyModule (m : ModImage) (h : State.Keeps eff cs rel old cur) (kmod : eff.mod = true) (kmode :
    eff.mode = true) (khp : eff.hp = true) (kskn : eff.skn = true) (kflt : eff.flt = true) (hc : ∀ d, cs d) :
    State.Keeps eff cs rel old (State.applyModule cur m) := by
  unfold State.applyModule
  repeat' (first
    | with_reducible assumption
    | with_reducible apply State.Keeps.modLoad
    | with_reducible apply State.Keeps.applyBegin
    | with_reducible apply State.Keeps.ite
    | with_reducible apply State.Keeps.updMk
    | (refine Or.inl ?_; assumption)
    | exact Or.inr rfl
    | exact Or.inr ⟨rfl, rfl⟩
    | (refine Or.inl ⟨by assumption, ?_⟩; exact fun w => w)
    | simp only [State.Keeps.mk_iff]
    | (intro d hd; cases hd; done)
    | (intro d hd; cases hd; exact hc _)
    | exact hc _
    | (refine (?_ : @Eq (List Host.Cell) _ _); (repeat' split) <;> simp))

theorem State.Keeps.applyChannel (ch : ChanId) (im : ChImage) (h : State.Keeps eff cs keepsForm old cur) (kvlt : eff.vlt
    = true) (hc : cs ch) :
    State.Keeps eff cs keepsForm old (cur.applyChannel ch im) := by
  unfold State.applyChannel
  refine State.Keeps.modChForm ch _ ?_ ?_ hc
  · apply State.Keeps.abortServices <;> assumption
  · simp only [Chan.imageFields_data]
    split
    · exact fun _ => rfl
    · exact id

theorem State.Keeps.selfCheckPass (ch : ChanId) (h : State.Keeps eff cs rel old cur) (kmod : eff.mod = true) (kmode :
    eff.mode = true) (kskn : eff.skn = true) (hc : ∀ d, cs d) :
    State.Keeps eff cs rel old (State.selfCheckPass cur ch) := by
  unfold State.selfCheckPass
  repeat' (first
    | with_reducible assumption
    | with_reducible apply State.Keeps.startInitial
    | with_reducible apply State.Keeps.loadResolve
    | with_reducible apply State.Keeps.loadDone
    | with_reducible apply State.Keeps.modCh
    | with_reducible apply State.Keeps.ite
    | with_reducible apply State.Keeps.updMk
    | (refine Or.inl ?_; assumption)
    | exact Or.inr rfl
    | exact Or.inr ⟨rfl, rfl⟩
    | (refine Or.inl ⟨by assumption, ?_⟩; exact fun w => w)
    | simp only [State.Keeps.mk_iff]
    | (intro d hd; cases hd; done)
    | (intro d hd; cases hd; exact hc _)
    | exact hc _
    | exact hc
    | (refine (?_ : @Eq (List Host.Cell) _ _); (repeat' split) <;> simp))

theorem State.Keeps.linkClear (st : LinkState) (h : State.Keeps eff cs rel old cur) (kmod : eff.mod = true) (khp :
    eff.hp = true) (hc : ∀ d, cs d) :
    State.Keeps eff cs rel old (cur.linkClear st) := by
  unfold State.linkClear
  refine State.Keeps.forCh _ _ ?_ fun y c k => k.modMem c _ rfl (hc c)
  refine h.upd _ _ _ _ _ _ _ _ _ ?_ ?_ ?_ ?_ ?_ ?_ ?_ ?_ ?_ ?_ ?_ <;>
    first | exact .inr rfl | exact .inr ⟨rfl, rfl⟩ | exact .inl kmod | exact .inl ⟨khp, fun _ => Nat.zero_le _⟩

theorem State.Keeps.linkLoss (h : State.Keeps eff cs rel old cur) (kmod : eff.mod = true) (kmode : eff.mode = true)
    (kvlt : eff.vlt = true) (ksend : eff.send = true) (khp : eff.hp = true) (kskn : eff.skn = true) (hc : ∀ d, cs d) :
    State.Keeps eff cs rel old cur.linkLoss := by
  unfold State.linkLoss
  extract_lets y1 y2 y3 y4 y5 y6
  have h1 : State.Keeps eff cs rel old y1 := by apply State.Keeps.linkClear <;> assumption
  have h3 : State.Keeps eff cs rel old y3 := by
    refine h1.upd _ _ _ _ _ _ _ _ _ ?_ ?_ ?_ ?_ ?_ ?_ ?_ ?_ ?_ ?_ ?_ <;> first | exact .inr rfl | exact .inr ⟨rfl, rfl⟩ | exact .inl ⟨khp, id⟩
  have h5 : State.Keeps eff cs rel old y5 := by
    refine h3.upd _ _ _ _ _ _ _ _ _ ?_ ?_ ?_ ?_ ?_ ?_ ?_ ?_ ?_ ?_ ?_ <;> first | exact .inr rfl | exact .inr ⟨rfl, rfl⟩ | exact .inl kmod
  have h6 : State.Keeps eff cs rel old y6 := by apply State.Keeps.loadAbort <;> assumption
  clear_value y6 y5 y3
  have h7 : State.Keeps eff cs rel old (if bit y6.mod.cfg 0 = true then y6.forCh allCh fun s c => s.modCh c fun x =>
      if x.mod.state = .run then x.latchHold Cause.link s.cycle else x else y6) :=
    State.Keeps.ite (h6.forCh _ _ fun y c w => w.modCh c _ (by rw [Chan.ite_data]; simp) (hc c)) h6
  split
  · exact h3.setMode _ kmod kmode
  · apply State.Keeps.loadAbort <;> assumption
  · exact h7
  · exact h7
  · exact h7
  · exact h3

theorem State.Keeps.sendCredits (ch : ChanId) (h : State.Keeps eff cs rel old cur) (ksend : eff.send = true) (hc : cs ch) :
    State.Keeps eff cs rel old (State.sendCredits cur ch) := by
  unfold State.sendCredits
  repeat' (first
    | with_reducible assumption
    | with_reducible apply State.Keeps.send
    | with_reducible apply State.Keeps.credit
    | with_reducible apply State.Keeps.foldl
    | (intro d hd; cases hd; done)
    | (intro d hd; cases hd; assumption)
    | (intro _ _ _))

theorem State.Keeps.linkUp (h : State.Keeps eff cs rel old cur) (kmod : eff.mod = true) (kmode : eff.mode = true)
    (ksend : eff.send = true) (khp : eff.hp = true) (hc : ∀ d, cs d) :
    State.Keeps eff cs rel old cur.linkUp := by
  unfold State.linkUp
  extract_lets y1 y2 y3 y4 y5 y6
  have h5 : State.Keeps eff cs rel old y5 := by
    refine h.upd _ _ _ _ _ _ _ _ _ ?_ ?_ ?_ ?_ ?_ ?_ ?_ ?_ ?_ ?_ ?_ <;>
      first | exact .inr ⟨rfl, rfl⟩ | exact .inl kmod | exact .inl ⟨khp, fun _ => Nat.zero_le _⟩ | exact .inr rfl
  clear_value y5
  have h6 : State.Keeps eff cs rel old y6 := h5.forCh _ _ fun y c k => by
    apply State.Keeps.sendCredits <;> first | assumption | exact hc c
  exact State.Keeps.ite (h6.setMode _ kmod kmode) h6

theorem State.Keeps.laneDrop (lane : Fin 8) (h : State.Keeps eff cs rel old cur) (kmod : eff.mod = true) (kmode :
    eff.mode = true) (kvlt : eff.vlt = true) (ksend : eff.send = true) (khp : eff.hp = true) (kskn : eff.skn = true)
    (kflt : eff.flt = true) (hc : ∀ d, cs d) :
    State.Keeps eff cs rel old (State.laneDrop cur lane) := by
  unfold State.laneDrop
  repeat' (first
    | with_reducible assumption
    | with_reducible apply State.Keeps.linkLoss
    | with_reducible apply State.Keeps.logRecord
    | with_reducible apply State.Keeps.ite
    | with_reducible apply State.Keeps.updMk
    | (refine Or.inl ?_; assumption)
    | exact Or.inr rfl
    | exact Or.inr ⟨rfl, rfl⟩
    | (refine Or.inl ⟨by assumption, ?_⟩; exact fun w => w)
    | simp only [State.Keeps.mk_iff]
    | (intro d hd; cases hd; done)
    | (intro d hd; cases hd; exact hc _)
    | exact hc _)

theorem State.Keeps.replay (k : BitVec 12) (h : State.Keeps eff cs rel old cur) (kmod : eff.mod = true) (kmode :
    eff.mode = true) (kvlt : eff.vlt = true) (ksend : eff.send = true) (khp : eff.hp = true) (kskn : eff.skn = true) (hc
    : ∀ d, cs d) :
    State.Keeps eff cs rel old (cur.replay k) := by
  have h1 : State.Keeps eff cs rel old { cur with hp := { cur.hp with
      outstanding := replayFrom k cur.hp.lackOut cur.hp.outstanding, ackAt := cur.now, replays := satInc cur.hp.replays } } := by
    refine h.upd _ _ _ _ _ _ _ _ _ ?_ ?_ ?_ ?_ ?_ ?_ ?_ ?_ ?_ ?_ ?_ <;> first | exact .inr rfl | exact .inr ⟨rfl, rfl⟩ | refine .inl ⟨khp, fun w => ?_⟩
    show (replayFrom k cur.hp.lackOut cur.hp.outstanding).length ≤ _
    rw [replayFrom_length]; exact w
  refine State.Keeps.ite (State.Keeps.ite ?_ h1) h
  apply State.Keeps.linkLoss <;> assumption

theorem State.Keeps.tapSelect (i : TapInstr) (pins shift : List Bool) (h : State.Keeps eff cs rel old cur) (kmod :
    eff.mod = true) (khp : eff.hp = true) (kside : eff.side = true) (hc : ∀ d, cs d) :
    State.Keeps eff cs rel old (State.tapSelect cur i pins shift) := by
  unfold State.tapSelect
  repeat' (first
    | with_reducible assumption
    | with_reducible apply State.Keeps.linkClear
    | with_reducible apply State.Keeps.ite
    | with_reducible apply State.Keeps.updMk
    | (refine Or.inl ?_; assumption)
    | exact Or.inr rfl
    | exact Or.inr ⟨rfl, rfl⟩
    | (refine Or.inl ⟨by assumption, ?_⟩; exact fun w => w)
    | simp only [State.Keeps.mk_iff]
    | (intro d hd; cases hd; done)
    | (intro d hd; cases hd; exact hc _)
    | exact hc _
    | (refine (?_ : @Eq (List Host.Cell) _ _); (repeat' split) <;> simp))

theorem State.Keeps.closeCmd (ch : ChanId) (q : Nat) (h : State.Keeps eff cs keepsForm old cur) (ksend : eff.send = true) (hc
    : cs ch) :
    State.Keeps eff cs keepsForm old (State.closeCmd cur ch q) := by
  refine State.Keeps.ite (State.Keeps.closeQueue _ _ (h.modChForm ch _ (Chan.flushStaged_form _ _ _) hc) ksend hc) ?_
  exact State.Keeps.closeEnded _ (h.modCh ch _ rfl hc) ksend hc

theorem State.Keeps.stqCommand (ch : ChanId) (w : Word) (h : State.Keeps eff cs keepsForm old cur) (ksend : eff.send = true)
    (hc : cs ch) :
    State.Keeps eff cs keepsForm old (State.stqCommand cur ch w) := by
  unfold State.stqCommand
  repeat' (first
    | with_reducible assumption
    | with_reducible apply State.Keeps.qcpl
    | with_reducible apply State.Keeps.closeCmd
    | with_reducible apply State.Keeps.modCh
    | with_reducible apply State.Keeps.ite
    | with_reducible apply State.Keeps.updMk
    | (refine Or.inl ?_; assumption)
    | exact Or.inr rfl
    | exact Or.inr ⟨rfl, rfl⟩
    | (refine Or.inl ⟨by assumption, ?_⟩; exact fun w => w)
    | simp only [State.Keeps.mk_iff]
    | (intro d hd; cases hd; done)
    | (intro d hd; cases hd; assumption)
    | (refine (?_ : @Eq (List Host.Cell) _ _); (repeat' split) <;> simp))

theorem State.Keeps.qdataRefuse (queue : BitVec 16) (pos : BitVec 32) (why : Byte) (h : State.Keeps eff cs rel old cur)
    (ksend : eff.send = true) (khp : eff.hp = true) (hc : ∀ d, cs d) :
    State.Keeps eff cs rel old (State.qdataRefuse cur queue pos why) := by
  unfold State.qdataRefuse
  repeat' (first
    | with_reducible assumption
    | with_reducible apply State.Keeps.qcpl
    | with_reducible apply State.Keeps.modCh
    | with_reducible apply State.Keeps.ite
    | with_reducible apply State.Keeps.updMk
    | (refine Or.inl ?_; assumption)
    | exact Or.inr rfl
    | exact Or.inr ⟨rfl, rfl⟩
    | (refine Or.inl ⟨by assumption, ?_⟩; exact fun w => w)
    | simp only [State.Keeps.mk_iff]
    | (intro d hd; cases hd; done)
    | (intro d hd; cases hd; exact hc _)
    | exact hc _
    | (refine (?_ : @Eq (List Host.Cell) _ _); (repeat' split) <;> simp))

theorem State.Keeps.qdata (queue : BitVec 16) (len : Byte) (pos : BitVec 32) (data : List Word)
    (h : State.Keeps eff cs rel old cur) (ksend : eff.send = true) (khp : eff.hp = true) (hc : ∀ d, cs d) :
    State.Keeps eff cs rel old (State.qdata cur queue len pos data) := by
  unfold State.qdata
  refine State.Keeps.ite ?_ (h.modCh _ _ rfl (hc _))
  apply State.Keeps.qdataRefuse <;> assumption

theorem State.Keeps.credit (ch : ChanId) (q : Nat) (h : State.Keeps eff cs rel old cur) (ksend : eff.send = true) (hc :
    cs ch) :
    State.Keeps eff cs rel old (State.credit cur ch q) := by
  unfold State.credit
  repeat' (first
    | with_reducible assumption
    | with_reducible apply State.Keeps.send
    | with_reducible apply State.Keeps.modCh
    | with_reducible apply State.Keeps.ite
    | with_reducible apply State.Keeps.updMk
    | (refine Or.inl ?_; assumption)
    | exact Or.inr rfl
    | exact Or.inr ⟨rfl, rfl⟩
    | (refine Or.inl ⟨by assumption, ?_⟩; exact fun w => w)
    | simp only [State.Keeps.mk_iff]
    | (intro d hd; cases hd; done)
    | (intro d hd; cases hd; assumption)
    | (refine (?_ : @Eq (List Host.Cell) _ _); (repeat' split) <;> simp))

theorem State.Keeps.fillReady (ch : ChanId) (q : Nat) (h : State.Keeps eff cs rel old cur) (kfree : eff.free = true) (hc
    : cs ch) :
    State.Keeps eff cs rel old (State.fillReady cur ch q) := by
  unfold State.fillReady
  repeat' (first
    | with_reducible assumption
    | with_reducible apply State.Keeps.modCh
    | with_reducible apply State.Keeps.setCh
    | with_reducible apply State.Keeps.forCh
    | with_reducible apply State.Keeps.foldl
    | with_reducible apply State.Keeps.ite
    | with_reducible apply State.Keeps.updMk
    | (refine Or.inl ?_; assumption)
    | exact Or.inr rfl
    | exact Or.inr ⟨rfl, rfl⟩
    | (refine Or.inl ⟨by assumption, ?_⟩; exact fun w => w)
    | simp only [State.Keeps.mk_iff]
    | (intro d hd; cases hd; done)
    | (intro d hd; cases hd; assumption)
    | (refine (?_ : @Eq (List Host.Cell) _ _); first | with_reducible rfl | (simp; done) | (simp [Chan.ite_data]; done) | rfl | ((repeat' split) <;> (first | rfl | simp)))
    | split
    | (intro _ _ _))

theorem State.Keeps.bulkDone (ch : ChanId) (q : Nat) (h : State.Keeps eff cs rel old cur) (ksend : eff.send = true) (hc
    : cs ch) :
    State.Keeps eff cs rel old (State.bulkDone cur ch q) := by
  unfold State.bulkDone
  repeat' (first
    | with_reducible assumption
    | with_reducible apply State.Keeps.qcpl
    | with_reducible apply State.Keeps.modCh
    | with_reducible apply State.Keeps.ite
    | with_reducible apply State.Keeps.updMk
    | (refine Or.inl ?_; assumption)
    | exact Or.inr rfl
    | exact Or.inr ⟨rfl, rfl⟩
    | (refine Or.inl ⟨by assumption, ?_⟩; exact fun w => w)
    | simp only [State.Keeps.mk_iff]
    | (intro d hd; cases hd; done)
    | (intro d hd; cases hd; assumption)
    | (refine (?_ : @Eq (List Host.Cell) _ _); (repeat' split) <;> simp))

theorem State.Keeps.restart (h : State.Keeps eff cs keepsForm old cur) (kmod : eff.mod = true) (kmode : eff.mode = true)
    (ktlh : eff.tlh = true) (ktrk : eff.trk = true) (kvlt : eff.vlt = true) (kslots : eff.slots = true) (khp : eff.hp =
    true) (kskn : eff.skn = true) (kflt : eff.flt = true) (kside : eff.side = true) (hc : ∀ d, cs d) :
    State.Keeps eff cs keepsForm old cur.restart :=
  ⟨h.pending, h.now, by simp [kside], fun _ => Nat.zero_le _, fun _ => Nat.zero_le _, fun d _ => creelsCanonical_reset d, fun d z => absurd (hc d) z,
    by simp [kmod], by simp [kmode], by simp [ktlh], by simp [ktrk], by simp [kvlt], fun z => by simp [kslots] at z, fun z => by simp [khp] at z, by simp [kskn], by simp [kflt],
    by simp [kside], h.free⟩

theorem State.Keeps.warmRestart (h : State.Keeps eff cs keepsForm old cur) (kmod : eff.mod = true) (kmode : eff.mode =
    true) (ktlh : eff.tlh = true) (ktrk : eff.trk = true) (kvlt : eff.vlt = true) (kslots : eff.slots = true) (khp :
    eff.hp = true) (kskn : eff.skn = true) (kflt : eff.flt = true) (kside : eff.side = true) (hc : ∀ d, cs d) :
    State.Keeps eff cs keepsForm old (State.warmRestart cur) := by
  unfold State.warmRestart
  repeat' (first
    | with_reducible assumption
    | with_reducible apply State.Keeps.restart
    | with_reducible apply State.Keeps.forCh
    | with_reducible apply State.Keeps.updMk
    | (refine Or.inl ?_; assumption)
    | exact Or.inr rfl
    | exact Or.inr ⟨rfl, rfl⟩
    | (refine Or.inl ⟨by assumption, ?_⟩; exact fun w => w)
    | simp only [State.Keeps.mk_iff]
    | with_reducible apply State.Keeps.modMemForm
    | with_reducible apply State.Keeps.modChForm
    | (intro d hd; cases hd; done)
    | (intro d hd; cases hd; exact hc _)
    | exact hc _
    | (refine (?_ : @Eq (List Host.Cell) _ _); (repeat' split) <;> simp)
    | exact (id : keepsForm (State.ch _ _).mem.data (State.ch _ _).mem.data)
    | (intro _ _ _))

theorem State.Keeps.portStop (h : State.Keeps eff cs rel old cur) (kmod : eff.mod = true) (khp : eff.hp = true) (hc : ∀
    d, cs d) :
    State.Keeps eff cs rel old (State.portStop cur) := by
  unfold State.portStop
  repeat' (first
    | with_reducible assumption
    | with_reducible apply State.Keeps.linkClear
    | with_reducible apply State.Keeps.updMk
    | (refine Or.inl ?_; assumption)
    | exact Or.inr rfl
    | exact Or.inr ⟨rfl, rfl⟩
    | (refine Or.inl ⟨by assumption, ?_⟩; exact fun w => w)
    | simp only [State.Keeps.mk_iff]
    | (intro d hd; cases hd; done)
    | (intro d hd; cases hd; exact hc _)
    | exact hc _)

theorem State.Keeps.holdupServices (ch : ChanId) (h : State.Keeps eff cs rel old cur) (hc : cs ch) :
    State.Keeps eff cs rel old (State.holdupServices cur ch) := by
  unfold State.holdupServices
  repeat' (first
    | with_reducible assumption
    | with_reducible apply State.Keeps.modCh
    | with_reducible apply State.Keeps.foldl
    | with_reducible apply State.Keeps.ite
    | with_reducible apply State.Keeps.updMk
    | (refine Or.inl ?_; assumption)
    | exact Or.inr rfl
    | exact Or.inr ⟨rfl, rfl⟩
    | (refine Or.inl ⟨by assumption, ?_⟩; exact fun w => w)
    | simp only [State.Keeps.mk_iff]
    | (intro d hd; cases hd; done)
    | (intro d hd; cases hd; assumption)
    | (refine (?_ : @Eq (List Host.Cell) _ _); (repeat' split) <;> simp)
    | (intro _ _ _))

theorem State.Keeps.holdupChannel (ch : ChanId) (h : State.Keeps eff cs rel old cur) (kmod : eff.mod = true) (ksend :
    eff.send = true) (hc : cs ch) :
    State.Keeps eff cs rel old (State.holdupChannel cur ch) := by
  unfold State.holdupChannel
  repeat' (first
    | with_reducible assumption
    | with_reducible apply State.Keeps.holdupServices
    | with_reducible apply State.Keeps.enterRest
    | with_reducible apply State.Keeps.modCh
    | with_reducible apply State.Keeps.ite
    | with_reducible apply State.Keeps.updMk
    | (refine Or.inl ?_; assumption)
    | exact Or.inr rfl
    | exact Or.inr ⟨rfl, rfl⟩
    | (refine Or.inl ⟨by assumption, ?_⟩; exact fun w => w)
    | simp only [State.Keeps.mk_iff]
    | (intro d hd; cases hd; done)
    | (intro d hd; cases hd; assumption)
    | (refine (?_ : @Eq (List Host.Cell) _ _); (repeat' split) <;> simp))

theorem State.Keeps.saveBegin (s0 : State) (vin : Nat) (h : State.Keeps eff cs rel old cur) (kvlt : eff.vlt =
    true) (kslots : eff.slots = true) :
    State.Keeps eff cs rel old (s0.saveBegin cur vin) := by
  refine h.upd _ _ _ _ _ _ _ _ _ ?_ ?_ ?_ ?_ ?_ ?_ ?_ ?_ ?_ ?_ ?_ <;> first | exact .inr rfl | exact .inr ⟨rfl, rfl⟩ | exact .inl kvlt | exact .inl kslots

theorem State.Keeps.enterHoldup (h : State.Keeps eff cs rel old cur) (kmod : eff.mod = true) (kmode :
    eff.mode = true) (kvlt : eff.vlt = true) (kslots : eff.slots = true) (ksend : eff.send = true) (khp : eff.hp = true)
    (kskn : eff.skn = true) (hc : ∀ d, cs d) :
    State.Keeps eff cs rel old cur.enterHoldup := by
  unfold State.enterHoldup
  extract_lets y1 y2 y3 y4
  have h1 : State.Keeps eff cs rel old cur.portStop := by apply State.Keeps.portStop <;> assumption
  have h3 : State.Keeps eff cs rel old y3 := by
    have := h1.setMode .holdup kmod kmode
    apply State.Keeps.loadAbort <;> assumption
  have h4 : State.Keeps eff cs rel old y4 := h3.forCh _ _ fun y c k => by
    apply State.Keeps.holdupChannel <;> first | assumption | exact hc c
  clear_value y4
  have h5 : ∀ vl, State.Keeps eff cs rel old { y4 with vlt := vl } := fun vl => by
    refine h4.upd _ _ _ _ _ _ _ _ _ ?_ ?_ ?_ ?_ ?_ ?_ ?_ ?_ ?_ ?_ ?_ <;> first | exact .inr rfl | exact .inr ⟨rfl, rfl⟩ | exact .inl kvlt | exact .inl kslots
  exact State.Keeps.ite ((h5 _).saveBegin _ _ kvlt kslots) (h5 _)

theorem State.Keeps.restoreChannel (k : Fin 2) (parts : BitVec 4) (ch : ChanId) (h : State.Keeps eff cs rel old cur)
    (kmod : eff.mod = true) (kvlt : eff.vlt = true) (hc : cs ch) :
    State.Keeps eff cs rel old (State.restoreChannel k parts cur ch) := by
  unfold State.restoreChannel
  repeat' (first
    | with_reducible assumption
    | with_reducible apply State.Keeps.enterTrim
    | with_reducible apply State.Keeps.modCh
    | with_reducible apply State.Keeps.ite
    | with_reducible apply State.Keeps.updMk
    | (refine Or.inl ?_; assumption)
    | exact Or.inr rfl
    | exact Or.inr ⟨rfl, rfl⟩
    | (refine Or.inl ⟨by assumption, ?_⟩; exact fun w => w)
    | simp only [State.Keeps.mk_iff]
    | (intro d hd; cases hd; done)
    | (intro d hd; cases hd; assumption)
    | (refine (?_ : @Eq (List Host.Cell) _ _); (repeat' split) <;> simp))

theorem State.Keeps.vltCommand (v : Word) (h : State.Keeps eff cs rel old cur) (kmod : eff.mod = true) (kvlt : eff.vlt =
    true) (kslots : eff.slots = true) (hc : ∀ d, cs d) :
    State.Keeps eff cs rel old (State.vltCommand cur v) := by
  unfold State.vltCommand
  repeat' (first
    | with_reducible assumption
    | with_reducible apply State.Keeps.restoreChannel
    | with_reducible apply State.Keeps.forCh
    | with_reducible apply State.Keeps.ite
    | with_reducible apply State.Keeps.updMk
    | (refine Or.inl ?_; assumption)
    | exact Or.inr rfl
    | exact Or.inr ⟨rfl, rfl⟩
    | (refine Or.inl ⟨by assumption, ?_⟩; exact fun w => w)
    | simp only [State.Keeps.mk_iff]
    | (intro d hd; cases hd; done)
    | (intro d hd; cases hd; exact hc _)
    | exact hc _
    | (intro _ _ _))

theorem State.Keeps.partSkip (ch : ChanId) (code : Byte) (h : State.Keeps eff cs rel old cur) (kvlt : eff.vlt = true)
    (hc : cs ch) :
    State.Keeps eff cs rel old (State.partSkip cur ch code) := by
  unfold State.partSkip
  repeat' (first
    | with_reducible assumption
    | with_reducible apply State.Keeps.modCh
    | with_reducible apply State.Keeps.ite
    | with_reducible apply State.Keeps.updMk
    | (refine Or.inl ?_; assumption)
    | exact Or.inr rfl
    | exact Or.inr ⟨rfl, rfl⟩
    | (refine Or.inl ⟨by assumption, ?_⟩; exact fun w => w)
    | simp only [State.Keeps.mk_iff]
    | (intro d hd; cases hd; done)
    | (intro d hd; cases hd; assumption)
    | (refine (?_ : @Eq (List Host.Cell) _ _); (repeat' split) <;> simp))

theorem State.Keeps.partDone (ch : ChanId) (p : Nat) (h : State.Keeps eff cs rel old cur) (hc : cs ch) :
    State.Keeps eff cs rel old (State.partDone cur ch p) := by
  unfold State.partDone
  repeat' (first
    | with_reducible assumption
    | with_reducible apply State.Keeps.modCh
    | with_reducible apply State.Keeps.updMk
    | (refine Or.inl ?_; assumption)
    | exact Or.inr rfl
    | exact Or.inr ⟨rfl, rfl⟩
    | (refine Or.inl ⟨by assumption, ?_⟩; exact fun w => w)
    | simp only [State.Keeps.mk_iff]
    | (intro d hd; cases hd; done)
    | (intro d hd; cases hd; assumption)
    | (refine (?_ : @Eq (List Host.Cell) _ _); (repeat' split) <;> simp))

theorem State.Keeps.reopen (ch : ChanId) (x : SavedQueue) (h : State.Keeps eff cs rel old cur) (ksend : eff.send = true)
    (hc : cs ch) :
    State.Keeps eff cs rel old (State.reopen cur ch x) := by
  unfold State.reopen
  repeat' (first
    | with_reducible assumption
    | with_reducible apply State.Keeps.qcpl
    | with_reducible apply State.Keeps.modCh
    | with_reducible apply State.Keeps.ite
    | with_reducible apply State.Keeps.updMk
    | (refine Or.inl ?_; assumption)
    | exact Or.inr rfl
    | exact Or.inr ⟨rfl, rfl⟩
    | (refine Or.inl ⟨by assumption, ?_⟩; exact fun w => w)
    | simp only [State.Keeps.mk_iff]
    | (intro d hd; cases hd; done)
    | (intro d hd; cases hd; assumption)
    | (refine (?_ : @Eq (List Host.Cell) _ _); (repeat' split) <;> simp))

theorem State.Keeps.restoreCal (ch : ChanId) (b : Sparse Word) (h : State.Keeps eff cs rel old cur) (kvlt : eff.vlt =
    true) (hc : cs ch) :
    State.Keeps eff cs rel old (State.restoreCal cur ch b) := by
  unfold State.restoreCal
  repeat' (first
    | with_reducible assumption
    | with_reducible apply State.Keeps.partSkip
    | with_reducible apply State.Keeps.partDone
    | with_reducible apply State.Keeps.modCh
    | with_reducible apply State.Keeps.ite
    | with_reducible apply State.Keeps.updMk
    | (refine Or.inl ?_; assumption)
    | exact Or.inr rfl
    | exact Or.inr ⟨rfl, rfl⟩
    | (refine Or.inl ⟨by assumption, ?_⟩; exact fun w => w)
    | simp only [State.Keeps.mk_iff]
    | (intro d hd; cases hd; done)
    | (intro d hd; cases hd; assumption)
    | (refine (?_ : @Eq (List Host.Cell) _ _); (repeat' split) <;> simp))

theorem State.Keeps.restoreRetire (a : Area) (ch : ChanId) (d : Fin 5) (h : State.Keeps eff cs rel old cur) (kmod :
    eff.mod = true) (kflt : eff.flt = true) (ksend : eff.send = true) (hc : cs ch) :
    State.Keeps eff cs rel old (State.restoreRetire a cur ch d) := by
  unfold State.restoreRetire
  repeat' (first
    | with_reducible assumption
    | with_reducible apply State.Keeps.creelLost
    | with_reducible apply State.Keeps.modCh
    | with_reducible apply State.Keeps.ite
    | (intro d hd; cases hd; done)
    | (intro d hd; cases hd; assumption)
    | (refine (?_ : @Eq (List Host.Cell) _ _); (repeat' split) <;> simp))

theorem State.Keeps.restorePart (ch : ChanId) (a : Area) (p : Nat) (h : State.Keeps eff cs rel old cur) (kmod : eff.mod
    = true) (kvlt : eff.vlt = true) (ksend : eff.send = true) (kflt : eff.flt = true) (hc : cs ch) :
    State.Keeps eff cs rel old (State.restorePart cur ch a p) := by
  unfold State.restorePart
  repeat' (first
    | with_reducible assumption
    | with_reducible apply State.Keeps.partSkip
    | with_reducible apply State.Keeps.partDone
    | with_reducible apply State.Keeps.reopen
    | with_reducible apply State.Keeps.restoreCal
    | with_reducible apply State.Keeps.restoreRetire
    | with_reducible apply State.Keeps.modMem
    | with_reducible apply State.Keeps.modCh
    | with_reducible apply State.Keeps.foldl
    | with_reducible apply State.Keeps.ite
    | with_reducible apply State.Keeps.updMk
    | (refine Or.inl ?_; assumption)
    | exact Or.inr rfl
    | exact Or.inr ⟨rfl, rfl⟩
    | (refine Or.inl ⟨by assumption, ?_⟩; exact fun w => w)
    | simp only [State.Keeps.mk_iff]
    | (intro d hd; cases hd; done)
    | (intro d hd; cases hd; assumption)
    | (refine (?_ : @Eq (List Host.Cell) _ _); (repeat' split) <;> simp)
    | split
    | (intro _ _ _))

theorem State.Keeps.restoreRun (ch : ChanId) (k : Fin 2) (parts : BitVec 4) (h : State.Keeps eff cs rel old cur) (kmod :
    eff.mod = true) (kvlt : eff.vlt = true) (ksend : eff.send = true) (kflt : eff.flt = true) (hc : cs ch) :
    State.Keeps eff cs rel old (State.restoreRun cur ch k parts) := by
  unfold State.restoreRun
  repeat' (first
    | with_reducible assumption
    | with_reducible apply State.Keeps.restorePart
    | with_reducible apply State.Keeps.restoreReturn
    | with_reducible apply State.Keeps.leaveTrim
    | with_reducible apply State.Keeps.foldl
    | (intro d hd; cases hd; done)
    | (intro d hd; cases hd; assumption)
    | (intro _ _ _))

theorem State.Keeps.modWrite (off : Nat) (v : Word) (h : State.Keeps eff cs rel old cur) (kmod : eff.mod = true) (kmode
    : eff.mode = true) (hc : ∀ d, cs d) :
    State.Keeps eff cs rel old (State.modWrite cur off v) := by
  unfold State.modWrite
  repeat' (first
    | with_reducible assumption
    | with_reducible apply State.Keeps.broadcastCmd
    | with_reducible apply State.Keeps.command
    | with_reducible apply State.Keeps.modCh
    | with_reducible apply State.Keeps.updMk
    | (refine Or.inl ?_; assumption)
    | exact Or.inr rfl
    | exact Or.inr ⟨rfl, rfl⟩
    | (refine Or.inl ⟨by assumption, ?_⟩; exact fun w => w)
    | simp only [State.Keeps.mk_iff]
    | (intro d hd; cases hd; done)
    | (intro d hd; cases hd; exact hc _)
    | exact hc _
    | (refine (?_ : @Eq (List Host.Cell) _ _); (repeat' split) <;> simp)
    | split)

theorem State.Keeps.prioWrite (ch : ChanId) (v : Word) (h : State.Keeps eff cs rel old cur) (hc : cs ch) :
    State.Keeps eff cs rel old (State.prioWrite cur ch v).1 := by
  unfold State.prioWrite
  try simp only [apply_ite Prod.fst]
  repeat' (first
    | with_reducible assumption
    | with_reducible apply State.Keeps.modCh
    | with_reducible apply State.Keeps.ite
    | with_reducible apply State.Keeps.updMk
    | (refine Or.inl ?_; assumption)
    | exact Or.inr rfl
    | exact Or.inr ⟨rfl, rfl⟩
    | (refine Or.inl ⟨by assumption, ?_⟩; exact fun w => w)
    | simp only [State.Keeps.mk_iff]
    | (intro d hd; cases hd; done)
    | (intro d hd; cases hd; assumption)
    | (refine (?_ : @Eq (List Host.Cell) _ _); (repeat' split) <;> simp)
    | split)

theorem State.Keeps.tlhWrite (off : Nat) (v : Word) (h : State.Keeps eff cs rel old cur) (ktlh : eff.tlh = true) (hc : ∀
    d, cs d) :
    State.Keeps eff cs rel old (State.tlhWrite cur off v).1 := by
  unfold State.tlhWrite
  try simp only [apply_ite Prod.fst]
  repeat' (first
    | with_reducible assumption
    | with_reducible apply State.Keeps.prioWrite
    | with_reducible apply State.Keeps.updMk
    | (refine Or.inl ?_; assumption)
    | exact Or.inr rfl
    | exact Or.inr ⟨rfl, rfl⟩
    | (refine Or.inl ⟨by assumption, ?_⟩; exact fun w => w)
    | simp only [State.Keeps.mk_iff]
    | (intro d hd; cases hd; done)
    | (intro d hd; cases hd; exact hc _)
    | exact hc _
    | split)

theorem State.Keeps.trkWrite (off : Nat) (v : Word) (h : State.Keeps eff cs rel old cur) (ktrk : eff.trk = true) (hc : ∀
    d, cs d) :
    State.Keeps eff cs rel old (State.trkWrite cur off v) := by
  unfold State.trkWrite
  repeat' (first
    | with_reducible assumption
    | with_reducible apply State.Keeps.retrack
    | with_reducible apply State.Keeps.updMk
    | (refine Or.inl ?_; assumption)
    | exact Or.inr rfl
    | exact Or.inr ⟨rfl, rfl⟩
    | (refine Or.inl ⟨by assumption, ?_⟩; exact fun w => w)
    | simp only [State.Keeps.mk_iff]
    | (intro d hd; cases hd; done)
    | (intro d hd; cases hd; exact hc _)
    | exact hc _
    | (refine (?_ : @Eq (List Host.Cell) _ _); (repeat' split) <;> simp)
    | split)

theorem State.Keeps.vltWrite (off : Nat) (v : Word) (h : State.Keeps eff cs rel old cur) (kmod : eff.mod = true) (kvlt :
    eff.vlt = true) (kslots : eff.slots = true) (hc : ∀ d, cs d) :
    State.Keeps eff cs rel old (State.vltWrite cur off v) := by
  unfold State.vltWrite
  repeat' (first
    | with_reducible assumption
    | with_reducible apply State.Keeps.vltCommand
    | with_reducible apply State.Keeps.updMk
    | (refine Or.inl ?_; assumption)
    | exact Or.inr rfl
    | exact Or.inr ⟨rfl, rfl⟩
    | (refine Or.inl ⟨by assumption, ?_⟩; exact fun w => w)
    | simp only [State.Keeps.mk_iff]
    | (intro d hd; cases hd; done)
    | (intro d hd; cases hd; exact hc _)
    | exact hc _
    | split)

theorem State.Keeps.hpWrite (off : Nat) (v : Word) (h : State.Keeps eff cs rel old cur) (khp : eff.hp = true) :
    State.Keeps eff cs rel old (State.hpWrite cur off v).1 := by
  unfold State.hpWrite
  try simp only [apply_ite Prod.fst]
  repeat' (first
    | with_reducible assumption
    | with_reducible apply State.Keeps.updMk
    | (refine Or.inl ?_; assumption)
    | exact Or.inr rfl
    | exact Or.inr ⟨rfl, rfl⟩
    | (refine Or.inl ⟨by assumption, ?_⟩; exact fun w => w)
    | simp only [State.Keeps.mk_iff]
    | (intro d hd; cases hd; done)
    | (intro d hd; cases hd; assumption)
    | split)

theorem State.Keeps.sknWrite (off : Nat) (v : Word) (h : State.Keeps eff cs rel old cur) (kmod : eff.mod = true) (kmode
    : eff.mode = true) (kvlt : eff.vlt = true) (ksend : eff.send = true) (kskn : eff.skn = true) (hc : ∀ d, cs d) :
    State.Keeps eff cs rel old (State.sknWrite cur off v) := by
  unfold State.sknWrite
  repeat' (first
    | with_reducible assumption
    | with_reducible apply State.Keeps.loadAbort
    | with_reducible apply State.Keeps.sknStart
    | with_reducible apply State.Keeps.sknData
    | with_reducible apply State.Keeps.ite
    | with_reducible apply State.Keeps.updMk
    | (refine Or.inl ?_; assumption)
    | exact Or.inr rfl
    | exact Or.inr ⟨rfl, rfl⟩
    | (refine Or.inl ⟨by assumption, ?_⟩; exact fun w => w)
    | simp only [State.Keeps.mk_iff]
    | (intro d hd; cases hd; done)
    | (intro d hd; cases hd; exact hc _)
    | exact hc _
    | split)

theorem State.Keeps.dryCfgWrite (v : Word) (h : State.Keeps eff cs rel old cur) (kmod : eff.mod = true) (kflt : eff.flt
    = true) (hc : ∀ d, cs d) :
    State.Keeps eff cs rel old (State.dryCfgWrite cur v) := by
  unfold State.dryCfgWrite
  repeat' (first
    | with_reducible assumption
    | with_reducible apply State.Keeps.dryLong
    | with_reducible apply State.Keeps.forCh
    | with_reducible apply State.Keeps.updMk
    | (refine Or.inl ?_; assumption)
    | exact Or.inr rfl
    | exact Or.inr ⟨rfl, rfl⟩
    | (refine Or.inl ⟨by assumption, ?_⟩; exact fun w => w)
    | simp only [State.Keeps.mk_iff]
    | (intro d hd; cases hd; done)
    | (intro d hd; cases hd; exact hc _)
    | exact hc _
    | (intro _ _ _))

theorem State.Keeps.fltWrite (off : Nat) (v : Word) (h : State.Keeps eff cs rel old cur) (kmod : eff.mod = true) (kflt :
    eff.flt = true) (hc : ∀ d, cs d) :
    State.Keeps eff cs rel old (State.fltWrite cur off v) := by
  unfold State.fltWrite
  repeat' (first
    | with_reducible assumption
    | with_reducible apply State.Keeps.dryCfgWrite
    | with_reducible apply State.Keeps.ack
    | with_reducible apply State.Keeps.logPop
    | with_reducible apply State.Keeps.ite
    | with_reducible apply State.Keeps.updMk
    | (refine Or.inl ?_; assumption)
    | exact Or.inr rfl
    | exact Or.inr ⟨rfl, rfl⟩
    | (refine Or.inl ⟨by assumption, ?_⟩; exact fun w => w)
    | simp only [State.Keeps.mk_iff]
    | (intro d hd; cases hd; done)
    | (intro d hd; cases hd; exact hc _)
    | exact hc _
    | split)

theorem State.Keeps.evPut (i : Fin 7) (e : Sticky) (h : State.Keeps eff cs rel old cur) (kmod : eff.mod = true) (ktlh
    : eff.tlh = true) (ktrk : eff.trk = true) (kvlt : eff.vlt = true) (khp : eff.hp = true) (kskn : eff.skn = true)
    (kflt : eff.flt = true) :
    State.Keeps eff cs rel old (State.evPut cur i e) := by
  unfold State.evPut
  repeat' (first
    | with_reducible assumption
    | with_reducible apply State.Keeps.ite
    | with_reducible apply State.Keeps.updMk
    | (refine Or.inl ?_; assumption)
    | exact Or.inr rfl
    | exact Or.inr ⟨rfl, rfl⟩
    | (refine Or.inl ⟨by assumption, ?_⟩; exact fun w => w)
    | simp only [State.Keeps.mk_iff]
    | (intro d hd; cases hd; done)
    | (intro d hd; cases hd; assumption)
    | (refine (?_ : @Eq (List Host.Cell) _ _); (repeat' split) <;> simp)
    | split)

theorem State.Keeps.evClear (i : Fin 7) (v : Word) (h : State.Keeps eff cs rel old cur) (kmod : eff.mod = true)
    (ktlh : eff.tlh = true) (ktrk : eff.trk = true) (kvlt : eff.vlt = true) (khp : eff.hp = true) (kskn : eff.skn = true)
    (kflt : eff.flt = true) : State.Keeps eff cs rel old (State.evClear cur i v) := by
  apply State.Keeps.evPut <;> assumption

theorem State.Keeps.commonOther (block off : Nat) (v : Word) (h : State.Keeps eff cs rel old cur) (kmod : eff.mod =
    true) (kmode : eff.mode = true) (ktlh : eff.tlh = true) (ktrk : eff.trk = true) (kvlt : eff.vlt = true) (kslots :
    eff.slots = true) (ksend : eff.send = true) (khp : eff.hp = true) (kskn : eff.skn = true) (kflt : eff.flt = true)
    (hc : ∀ d, cs d) :
    State.Keeps eff cs rel old (State.commonOther cur block off v).1 := by
  unfold State.commonOther
  try simp only [apply_ite Prod.fst]
  repeat' (first
    | with_reducible assumption
    | with_reducible apply State.Keeps.modWrite
    | with_reducible apply State.Keeps.tlhWrite
    | with_reducible apply State.Keeps.trkWrite
    | with_reducible apply State.Keeps.vltWrite
    | with_reducible apply State.Keeps.hpWrite
    | with_reducible apply State.Keeps.sknWrite
    | with_reducible apply State.Keeps.fltWrite
    | with_reducible apply State.Keeps.updMk
    | (refine Or.inl ?_; assumption)
    | exact Or.inr rfl
    | exact Or.inr ⟨rfl, rfl⟩
    | (refine Or.inl ⟨by assumption, ?_⟩; exact fun w => w)
    | simp only [State.Keeps.mk_iff]
    | (intro d hd; cases hd; done)
    | (intro d hd; cases hd; exact hc _)
    | exact hc _
    | (refine (?_ : @Eq (List Host.Cell) _ _); (repeat' split) <;> simp)
    | split)

theorem State.Keeps.commonWrite (block off : Nat) (v : Word) (h : State.Keeps eff cs rel old cur) (kmod : eff.mod =
    true) (kmode : eff.mode = true) (ktlh : eff.tlh = true) (ktrk : eff.trk = true) (kvlt : eff.vlt = true) (kslots :
    eff.slots = true) (ksend : eff.send = true) (khp : eff.hp = true) (kskn : eff.skn = true) (kflt : eff.flt = true)
    (hc : ∀ d, cs d) :
    State.Keeps eff cs rel old (State.commonWrite cur block off v).1 := by
  unfold State.commonWrite
  try simp only [apply_ite Prod.fst]
  repeat' (first
    | with_reducible assumption
    | with_reducible apply State.Keeps.evClear
    | with_reducible apply State.Keeps.commonOther
    | with_reducible apply State.Keeps.ite
    | with_reducible apply State.Keeps.updMk
    | (refine Or.inl ?_; assumption)
    | exact Or.inr rfl
    | exact Or.inr ⟨rfl, rfl⟩
    | (refine Or.inl ⟨by assumption, ?_⟩; exact fun w => w)
    | simp only [State.Keeps.mk_iff]
    | (intro d hd; cases hd; done)
    | (intro d hd; cases hd; exact hc _)
    | exact hc _
    | (refine (?_ : @Eq (List Host.Cell) _ _); (repeat' split) <;> simp)
    | split)

theorem State.Keeps.commonCapture (block off : Nat) (h : State.Keeps eff cs rel old cur) (ktrk : eff.trk = true) (kskn :
    eff.skn = true) (hc : ∀ d, cs d) :
    State.Keeps eff cs rel old (State.commonCapture cur block off) := by
  unfold State.commonCapture
  repeat' (first
    | with_reducible assumption
    | with_reducible apply State.Keeps.snap
    | with_reducible apply State.Keeps.modCh
    | with_reducible apply State.Keeps.ite
    | with_reducible apply State.Keeps.updMk
    | (refine Or.inl ?_; assumption)
    | exact Or.inr rfl
    | exact Or.inr ⟨rfl, rfl⟩
    | (refine Or.inl ⟨by assumption, ?_⟩; exact fun w => w)
    | simp only [State.Keeps.mk_iff]
    | (intro d hd; cases hd; done)
    | (intro d hd; cases hd; exact hc _)
    | exact hc _
    | (refine (?_ : @Eq (List Host.Cell) _ _); (repeat' split) <;> simp)
    | split)

theorem State.Keeps.hopCommand (ch : ChanId) (v : Word) (h : State.Keeps eff cs rel old cur) (kfree : eff.free = true)
    (hc : cs ch) :
    State.Keeps eff cs rel old (State.hopCommand cur ch v) := by
  unfold State.hopCommand
  repeat' (first
    | with_reducible assumption
    | with_reducible apply State.Keeps.hopWrite
    | with_reducible apply State.Keeps.hopApply
    | with_reducible apply State.Keeps.modCh
    | with_reducible apply State.Keeps.updMk
    | (refine Or.inl ?_; assumption)
    | exact Or.inr rfl
    | exact Or.inr ⟨rfl, rfl⟩
    | (refine Or.inl ⟨by assumption, ?_⟩; exact fun w => w)
    | simp only [State.Keeps.mk_iff]
    | (intro d hd; cases hd; done)
    | (intro d hd; cases hd; assumption)
    | (refine (?_ : @Eq (List Host.Cell) _ _); (repeat' split) <;> simp)
    | split)

theorem State.Keeps.lvlControl (ch : ChanId) (v : Word) (h : State.Keeps eff cs rel old cur) (hc : cs ch) :
    State.Keeps eff cs rel old (State.lvlControl cur ch v) := by
  unfold State.lvlControl
  repeat' (first
    | with_reducible assumption
    | with_reducible apply State.Keeps.strobe
    | with_reducible apply State.Keeps.modCh
    | with_reducible apply State.Keeps.ite
    | (intro d hd; cases hd; done)
    | (intro d hd; cases hd; assumption)
    | (refine (?_ : @Eq (List Host.Cell) _ _); (repeat' split) <;> simp))

theorem State.Keeps.anaWrite (ch : ChanId) (off : Nat) (v : Word) (h : State.Keeps eff cs rel old cur) (hc : cs ch) :
    State.Keeps eff cs rel old (State.anaWrite cur ch off v).1 := by
  unfold State.anaWrite
  try simp only [apply_ite Prod.fst]
  repeat' (first
    | with_reducible assumption
    | with_reducible apply State.Keeps.rangeWrite
    | with_reducible apply State.Keeps.lvlControl
    | with_reducible apply State.Keeps.limitWrite
    | with_reducible apply State.Keeps.modCh
    | with_reducible apply State.Keeps.ite
    | with_reducible apply State.Keeps.updMk
    | (refine Or.inl ?_; assumption)
    | exact Or.inr rfl
    | exact Or.inr ⟨rfl, rfl⟩
    | (refine Or.inl ⟨by assumption, ?_⟩; exact fun w => w)
    | simp only [State.Keeps.mk_iff]
    | (intro d hd; cases hd; done)
    | (intro d hd; cases hd; assumption)
    | (refine (?_ : @Eq (List Host.Cell) _ _); (repeat' split) <;> simp)
    | split)

theorem State.Keeps.synWrite (ch : ChanId) (off : Nat) (v : Word) (h : State.Keeps eff cs rel old cur) (hc : cs ch) :
    State.Keeps eff cs rel old (State.synWrite cur ch off v) := by
  unfold State.synWrite
  repeat' (first
    | with_reducible assumption
    | with_reducible apply State.Keeps.synCommand
    | with_reducible apply State.Keeps.modCh
    | with_reducible apply State.Keeps.updMk
    | (refine Or.inl ?_; assumption)
    | exact Or.inr rfl
    | exact Or.inr ⟨rfl, rfl⟩
    | (refine Or.inl ⟨by assumption, ?_⟩; exact fun w => w)
    | simp only [State.Keeps.mk_iff]
    | (intro d hd; cases hd; done)
    | (intro d hd; cases hd; assumption)
    | (refine (?_ : @Eq (List Host.Cell) _ _); (repeat' split) <;> simp)
    | split)

theorem State.Keeps.atControl (ch : ChanId) (v : Word) (h : State.Keeps eff cs rel old cur) (hc : cs ch) :
    State.Keeps eff cs rel old (State.atControl cur ch v) := by
  unfold State.atControl
  repeat' (first
    | with_reducible assumption
    | with_reducible apply State.Keeps.atCancel
    | with_reducible apply State.Keeps.atArm
    | (intro d hd; cases hd; done)
    | (intro d hd; cases hd; assumption))

theorem State.Keeps.jncWrite (ch : ChanId) (off : Nat) (v : Word) (h : State.Keeps eff cs rel old cur) (hc : cs ch) :
    State.Keeps eff cs rel old (State.jncWrite cur ch off v).1 := by
  unfold State.jncWrite
  try simp only [apply_ite Prod.fst]
  repeat' (first
    | with_reducible assumption
    | with_reducible apply State.Keeps.jncClear
    | with_reducible apply State.Keeps.jncFire
    | with_reducible apply State.Keeps.grpEnWrite
    | with_reducible apply State.Keeps.atControl
    | with_reducible apply State.Keeps.counterWrite
    | with_reducible apply State.Keeps.modCh
    | with_reducible apply State.Keeps.setCh
    | with_reducible apply State.Keeps.ite
    | with_reducible apply State.Keeps.updMk
    | (refine Or.inl ?_; assumption)
    | exact Or.inr rfl
    | exact Or.inr ⟨rfl, rfl⟩
    | (refine Or.inl ⟨by assumption, ?_⟩; exact fun w => w)
    | simp only [State.Keeps.mk_iff]
    | (intro d hd; cases hd; done)
    | (intro d hd; cases hd; assumption)
    | (refine (?_ : @Eq (List Host.Cell) _ _); (repeat' split) <;> simp)
    | split)

theorem State.Keeps.calWrite (ch : ChanId) (off : Nat) (v : Word) (h : State.Keeps eff cs rel old cur) (hc : cs ch) :
    State.Keeps eff cs rel old (State.calWrite cur ch off v).1 := by
  unfold State.calWrite
  try simp only [apply_ite Prod.fst]
  repeat' (first
    | with_reducible assumption
    | with_reducible apply State.Keeps.calCommand
    | with_reducible apply State.Keeps.setCh
    | with_reducible apply State.Keeps.ite
    | with_reducible apply State.Keeps.updMk
    | (refine Or.inl ?_; assumption)
    | exact Or.inr rfl
    | exact Or.inr ⟨rfl, rfl⟩
    | (refine Or.inl ⟨by assumption, ?_⟩; exact fun w => w)
    | simp only [State.Keeps.mk_iff]
    | (intro d hd; cases hd; done)
    | (intro d hd; cases hd; assumption)
    | (refine (?_ : @Eq (List Host.Cell) _ _); (repeat' split) <;> simp)
    | split)

theorem State.Keeps.stqWrite (ch : ChanId) (off : Nat) (v : Word) (h : State.Keeps eff cs keepsForm old cur) (ksend : eff.send
    = true) (hc : cs ch) :
    State.Keeps eff cs keepsForm old (State.stqWrite cur ch off v) := by
  unfold State.stqWrite
  repeat' (first
    | with_reducible assumption
    | with_reducible apply State.Keeps.stqCommand
    | with_reducible apply State.Keeps.modCh
    | with_reducible apply State.Keeps.updMk
    | (refine Or.inl ?_; assumption)
    | exact Or.inr rfl
    | exact Or.inr ⟨rfl, rfl⟩
    | (refine Or.inl ⟨by assumption, ?_⟩; exact fun w => w)
    | simp only [State.Keeps.mk_iff]
    | (intro d hd; cases hd; done)
    | (intro d hd; cases hd; assumption)
    | (refine (?_ : @Eq (List Host.Cell) _ _); (repeat' split) <;> simp)
    | split)

theorem State.Keeps.chWrite (ch : ChanId) (w : ChWrite) (h : State.Keeps eff cs rel old cur)
    (hd : w.1.mem.data = (cur.ch ch).mem.data) (hc : cs ch) : State.Keeps eff cs rel old (cur.chWrite ch w).1 := h.setCh ch _ hd hc

theorem State.Keeps.evClearCh (ch : ChanId) (i : Fin 14) (v : Word) (h : State.Keeps eff cs rel old cur) (hc : cs ch) :
    State.Keeps eff cs rel old (State.evClearCh cur ch i v) := h.modCh ch _ (by simp) hc

theorem State.Keeps.blockOther (ch : ChanId) (block off : Nat) (v : Word) (h : State.Keeps eff cs keepsForm old cur) (ksend :
    eff.send = true) (kfree : eff.free = true) (hc : cs ch) :
    State.Keeps eff cs keepsForm old (State.blockOther cur ch block off v).1 := by
  unfold State.blockOther
  try simp only [apply_ite Prod.fst]
  repeat' (first
    | with_reducible assumption
    | with_reducible apply State.Keeps.chWrite
    | with_reducible apply State.Keeps.hopCommand
    | with_reducible apply State.Keeps.anaWrite
    | with_reducible apply State.Keeps.synWrite
    | with_reducible apply State.Keeps.jncWrite
    | with_reducible apply State.Keeps.calWrite
    | with_reducible apply State.Keeps.stqWrite
    | with_reducible apply State.Keeps.ite
    | with_reducible apply State.Keeps.updMk
    | (refine Or.inl ?_; assumption)
    | exact Or.inr rfl
    | exact Or.inr ⟨rfl, rfl⟩
    | (refine Or.inl ⟨by assumption, ?_⟩; exact fun w => w)
    | simp only [State.Keeps.mk_iff]
    | (intro d hd; cases hd; done)
    | (intro d hd; cases hd; assumption)
    | (refine (?_ : @Eq (List Host.Cell) _ _); (repeat' split) <;> simp)
    | split)

theorem State.Keeps.blockWrite (ch : ChanId) (block off : Nat) (v : Word) (h : State.Keeps eff cs keepsForm old cur) (ksend
    : eff.send = true) (kfree : eff.free = true) (hc : cs ch) :
    State.Keeps eff cs keepsForm old (State.blockWrite cur ch block off v).1 := by
  unfold State.blockWrite
  try simp only [apply_ite Prod.fst]
  repeat' (first
    | with_reducible assumption
    | with_reducible apply State.Keeps.evClearCh
    | with_reducible apply State.Keeps.blockOther
    | with_reducible apply State.Keeps.ite
    | with_reducible apply State.Keeps.updMk
    | (refine Or.inl ?_; assumption)
    | exact Or.inr rfl
    | exact Or.inr ⟨rfl, rfl⟩
    | (refine Or.inl ⟨by assumption, ?_⟩; exact fun w => w)
    | simp only [State.Keeps.mk_iff]
    | (intro d hd; cases hd; done)
    | (intro d hd; cases hd; assumption)
    | (refine (?_ : @Eq (List Host.Cell) _ _); (repeat' split) <;> simp)
    | split)

theorem State.Keeps.placeCapture (p : Place) (h : State.Keeps eff cs rel old cur) (ktrk : eff.trk = true) (kskn :
    eff.skn = true) (hc : ∀ d, cs d) :
    State.Keeps eff cs rel old (State.placeCapture cur p) := by
  unfold State.placeCapture
  repeat' (first
    | with_reducible assumption
    | with_reducible apply State.Keeps.commonCapture
    | with_reducible apply State.Keeps.modCh
    | with_reducible apply State.Keeps.updMk
    | (refine Or.inl ?_; assumption)
    | exact Or.inr rfl
    | exact Or.inr ⟨rfl, rfl⟩
    | (refine Or.inl ⟨by assumption, ?_⟩; exact fun w => w)
    | simp only [State.Keeps.mk_iff]
    | (intro d hd; cases hd; done)
    | (intro d hd; cases hd; exact hc _)
    | exact hc _
    | (refine (?_ : @Eq (List Host.Cell) _ _); (repeat' split) <;> simp)
    | split)

theorem State.Keeps.pinReload (ch : ChanId) (r : BobReg) (v : Word) (h : State.Keeps eff cs keepsForm old cur) (ksend :
    eff.send = true) (khp : eff.hp = true) (hc : cs ch) :
    State.Keeps eff cs keepsForm old (State.pinReload cur ch r v).1 := by
  unfold State.pinReload
  try simp only [apply_ite Prod.fst]
  repeat' (first
    | with_reducible assumption
    | with_reducible apply State.Keeps.winRelease
    | with_reducible apply State.Keeps.setCh
    | with_reducible apply State.Keeps.ite
    | with_reducible apply State.Keeps.modMemForm
    | with_reducible apply State.Keeps.modChForm
    | (intro d hd; cases hd; done)
    | (intro d hd; cases hd; assumption)
    | (refine (?_ : @Eq (List Host.Cell) _ _); (repeat' split) <;> simp)
    | split)

theorem State.Keeps.placeWrite (p : Place) (v : Word) (h : State.Keeps eff cs keepsForm old cur) (kmod : eff.mod = true)
    (kmode : eff.mode = true) (ktlh : eff.tlh = true) (ktrk : eff.trk = true) (kvlt : eff.vlt = true) (kslots :
    eff.slots = true) (ksend : eff.send = true) (khp : eff.hp = true) (kskn : eff.skn = true) (kflt : eff.flt = true)
    (kfree : eff.free = true) (hc : ∀ d, cs d) :
    State.Keeps eff cs keepsForm old (State.placeWrite cur p v).1 := by
  unfold State.placeWrite
  try simp only [apply_ite Prod.fst]
  repeat' (first
    | with_reducible assumption
    | with_reducible apply State.Keeps.commonWrite
    | with_reducible apply State.Keeps.pinReload
    | with_reducible apply State.Keeps.blockWrite
    | with_reducible apply State.Keeps.chWrite
    | with_reducible apply State.Keeps.ite
    | with_reducible apply State.Keeps.updMk
    | (refine Or.inl ?_; assumption)
    | exact Or.inr rfl
    | exact Or.inr ⟨rfl, rfl⟩
    | (refine Or.inl ⟨by assumption, ?_⟩; exact fun w => w)
    | simp only [State.Keeps.mk_iff]
    | with_reducible apply State.Keeps.modMemForm
    | with_reducible apply State.Keeps.modChForm
    | (intro d hd; cases hd; done)
    | (intro d hd; cases hd; exact hc _)
    | exact hc _
    | (refine (?_ : @Eq (List Host.Cell) _ _); (repeat' split) <;> simp)
    | split)

theorem State.Keeps.bcastOne (off : Nat) (v : Word) (ch : ChanId) (h : State.Keeps eff cs keepsForm old cur) (kmod :
    eff.mod = true) (kmode : eff.mode = true) (ktlh : eff.tlh = true) (ktrk : eff.trk = true) (kvlt : eff.vlt = true)
    (kslots : eff.slots = true) (ksend : eff.send = true) (khp : eff.hp = true) (kskn : eff.skn = true) (kflt : eff.flt
    = true) (kfree : eff.free = true) (hc : ∀ d, cs d) :
    State.Keeps eff cs keepsForm old (State.bcastOne off v cur ch) := by
  unfold State.bcastOne
  repeat' (first
    | with_reducible assumption
    | with_reducible apply State.Keeps.bcastStatus
    | with_reducible apply State.Keeps.winAccess
    | with_reducible apply State.Keeps.placeWrite
    | with_reducible apply State.Keeps.ite
    | with_reducible apply State.Keeps.updMk
    | (refine Or.inl ?_; assumption)
    | exact Or.inr rfl
    | exact Or.inr ⟨rfl, rfl⟩
    | (refine Or.inl ⟨by assumption, ?_⟩; exact fun w => w)
    | simp only [State.Keeps.mk_iff]
    | with_reducible apply State.Keeps.modMemForm
    | with_reducible apply State.Keeps.modChForm
    | (intro d hd; cases hd; done)
    | (intro d hd; cases hd; exact hc _)
    | exact hc _
    | split)

theorem State.Keeps.bcastWrite (tag : Option (BitVec 12)) (v : Word) (h : State.Keeps eff cs keepsForm old cur) (kmod :
    eff.mod = true) (kmode : eff.mode = true) (ktlh : eff.tlh = true) (ktrk : eff.trk = true) (kvlt : eff.vlt = true)
    (kslots : eff.slots = true) (ksend : eff.send = true) (khp : eff.hp = true) (kskn : eff.skn = true) (kflt : eff.flt
    = true) (kfree : eff.free = true) (hc : ∀ d, cs d) :
    State.Keeps eff cs keepsForm old (State.bcastWrite cur tag v) := by
  unfold State.bcastWrite
  repeat' (first
    | with_reducible assumption
    | with_reducible apply State.Keeps.bcastOne
    | with_reducible apply State.Keeps.bcastEnd
    | with_reducible apply State.Keeps.forCh
    | with_reducible apply State.Keeps.updMk
    | (refine Or.inl ?_; assumption)
    | exact Or.inr rfl
    | exact Or.inr ⟨rfl, rfl⟩
    | (refine Or.inl ⟨by assumption, ?_⟩; exact fun w => w)
    | simp only [State.Keeps.mk_iff]
    | with_reducible apply State.Keeps.modMemForm
    | with_reducible apply State.Keeps.modChForm
    | (intro d hd; cases hd; done)
    | (intro d hd; cases hd; exact hc _)
    | exact hc _
    | (intro _ _ _))

theorem State.Keeps.request (r : HostReq) (h : State.Keeps eff cs keepsForm old cur) (kmod : eff.mod = true) (kmode :
    eff.mode = true) (ktlh : eff.tlh = true) (ktrk : eff.trk = true) (kvlt : eff.vlt = true) (kslots : eff.slots = true)
    (ksend : eff.send = true) (khp : eff.hp = true) (kskn : eff.skn = true) (kflt : eff.flt = true) (kfree : eff.free =
    true) (hc : ∀ d, cs d) :
    State.Keeps eff cs keepsForm old (State.request cur r) := by
  unfold State.request
  repeat' (first
    | with_reducible assumption
    | with_reducible apply State.Keeps.complete
    | with_reducible apply State.Keeps.winAccess
    | with_reducible apply State.Keeps.placeCapture
    | with_reducible apply State.Keeps.bcastWrite
    | with_reducible apply State.Keeps.placeWrite
    | with_reducible apply State.Keeps.ite
    | with_reducible apply State.Keeps.updMk
    | (refine Or.inl ?_; assumption)
    | exact Or.inr rfl
    | exact Or.inr ⟨rfl, rfl⟩
    | (refine Or.inl ⟨by assumption, ?_⟩; exact fun w => w)
    | simp only [State.Keeps.mk_iff]
    | with_reducible apply State.Keeps.modMemForm
    | with_reducible apply State.Keeps.modChForm
    | (intro d hd; cases hd; done)
    | (intro d hd; cases hd; exact hc _)
    | exact hc _
    | split)

theorem State.Keeps.drainReqs (n : Nat) (h : State.Keeps eff cs keepsForm old cur) (kmod : eff.mod = true) (kmode :
    eff.mode = true) (ktlh : eff.tlh = true) (ktrk : eff.trk = true) (kvlt : eff.vlt = true) (kslots : eff.slots = true)
    (ksend : eff.send = true) (khp : eff.hp = true) (kskn : eff.skn = true) (kflt : eff.flt = true) (kfree : eff.free =
    true) (hc : ∀ d, cs d) :
    State.Keeps eff cs keepsForm old (State.drainReqs n cur) := by
  induction n generalizing cur with
  | zero => exact h
  | succ n ih =>
    rw [State.drainReqs]
    split
    · exact h
    · refine State.Keeps.ite h (ih ?_)
      apply State.Keeps.request <;> first | assumption | skip
      refine h.upd _ _ _ _ _ _ _ _ _ ?_ ?_ ?_ ?_ ?_ ?_ ?_ ?_ ?_ ?_ ?_ <;> first | exact .inr rfl | exact .inr ⟨rfl, rfl⟩ | exact .inl ⟨khp, id⟩

theorem State.Keeps.settle (h : State.Keeps eff cs keepsForm old cur) (kmod : eff.mod = true) (kmode : eff.mode = true)
    (ktlh : eff.tlh = true) (ktrk : eff.trk = true) (kvlt : eff.vlt = true) (kslots : eff.slots = true) (ksend :
    eff.send = true) (khp : eff.hp = true) (kskn : eff.skn = true) (kflt : eff.flt = true) (kfree : eff.free = true) (hc
    : ∀ d, cs d) : State.Keeps eff cs keepsForm old cur.settle := by
  apply State.Keeps.drainReqs <;> assumption

theorem State.Keeps.requestIn (r : HostReq) (h : State.Keeps eff cs keepsForm old cur) (kmod : eff.mod = true) (kmode :
    eff.mode = true) (ktlh : eff.tlh = true) (ktrk : eff.trk = true) (kvlt : eff.vlt = true) (kslots : eff.slots = true)
    (ksend : eff.send = true) (khp : eff.hp = true) (kskn : eff.skn = true) (kflt : eff.flt = true) (kfree : eff.free =
    true) (hc : ∀ d, cs d) :
    State.Keeps eff cs keepsForm old (State.requestIn cur r) := by
  unfold State.requestIn
  repeat' (first
    | with_reducible assumption
    | with_reducible apply State.Keeps.request
    | with_reducible apply State.Keeps.settle
    | with_reducible apply State.Keeps.ite
    | with_reducible apply State.Keeps.updMk
    | (refine Or.inl ?_; assumption)
    | exact Or.inr rfl
    | exact Or.inr ⟨rfl, rfl⟩
    | (refine Or.inl ⟨by assumption, ?_⟩; exact fun w => w)
    | simp only [State.Keeps.mk_iff]
    | with_reducible apply State.Keeps.modMemForm
    | with_reducible apply State.Keeps.modChForm
    | (intro d hd; cases hd; done)
    | (intro d hd; cases hd; exact hc _)
    | exact hc _)

theorem State.Keeps.malformed (h : State.Keeps eff cs rel old cur) (khp : eff.hp = true) :
    State.Keeps eff cs rel old cur.malformed := by
  refine h.upd _ _ _ _ _ _ _ _ _ ?_ ?_ ?_ ?_ ?_ ?_ ?_ ?_ ?_ ?_ ?_ <;> first | exact .inr rfl | exact .inr ⟨rfl, rfl⟩ | exact .inl ⟨khp, id⟩

theorem State.Keeps.rdPacket (tag : BitVec 12) (len : Byte) (addr : BitVec 40) (h : State.Keeps eff cs keepsForm old
    cur) (kmod : eff.mod = true) (kmode : eff.mode = true) (ktlh : eff.tlh = true) (ktrk : eff.trk = true) (kvlt :
    eff.vlt = true) (kslots : eff.slots = true) (ksend : eff.send = true) (khp : eff.hp = true) (kskn : eff.skn = true)
    (kflt : eff.flt = true) (kfree : eff.free = true) (hc : ∀ d, cs d) :
    State.Keeps eff cs keepsForm old (State.rdPacket cur tag len addr) := by
  unfold State.rdPacket
  repeat' (first
    | with_reducible assumption
    | with_reducible apply State.Keeps.requestIn
    | with_reducible apply State.Keeps.modMemForm
    | with_reducible apply State.Keeps.modChForm
    | (intro d hd; cases hd; done)
    | (intro d hd; cases hd; exact hc _)
    | exact hc _)

theorem State.Keeps.wrPacket (tag : BitVec 12) (len : Byte) (addr : BitVec 40) (data : List Word) (h : State.Keeps eff
    cs keepsForm old cur) (kmod : eff.mod = true) (kmode : eff.mode = true) (ktlh : eff.tlh = true) (ktrk : eff.trk =
    true) (kvlt : eff.vlt = true) (kslots : eff.slots = true) (ksend : eff.send = true) (khp : eff.hp = true) (kskn :
    eff.skn = true) (kflt : eff.flt = true) (kfree : eff.free = true) (hc : ∀ d, cs d) :
    State.Keeps eff cs keepsForm old (State.wrPacket cur tag len addr data) := by
  unfold State.wrPacket
  repeat' (first
    | with_reducible assumption
    | with_reducible apply State.Keeps.requestIn
    | with_reducible apply State.Keeps.malformed
    | with_reducible apply State.Keeps.ite
    | with_reducible apply State.Keeps.modMemForm
    | with_reducible apply State.Keeps.modChForm
    | (intro d hd; cases hd; done)
    | (intro d hd; cases hd; exact hc _)
    | exact hc _)

theorem State.Keeps.qdataPacket (queue : BitVec 16) (len : Byte) (pos : BitVec 32) (data : List Word) (h : State.Keeps
    eff cs keepsForm old cur) (ksend : eff.send = true) (khp : eff.hp = true) (hc : ∀ d, cs d) :
    State.Keeps eff cs keepsForm old (State.qdataPacket cur queue len pos data) := by
  unfold State.qdataPacket
  repeat' (first
    | with_reducible assumption
    | with_reducible apply State.Keeps.qdata
    | with_reducible apply State.Keeps.malformed
    | with_reducible apply State.Keeps.ite
    | with_reducible apply State.Keeps.modMemForm
    | with_reducible apply State.Keeps.modChForm
    | (intro d hd; cases hd; done)
    | (intro d hd; cases hd; exact hc _)
    | exact hc _)

theorem State.Keeps.packet (p : List Byte) (h : State.Keeps eff cs keepsForm old cur) (kmod : eff.mod = true) (kmode :
    eff.mode = true) (ktlh : eff.tlh = true) (ktrk : eff.trk = true) (kvlt : eff.vlt = true) (kslots : eff.slots = true)
    (ksend : eff.send = true) (khp : eff.hp = true) (kskn : eff.skn = true) (kflt : eff.flt = true) (kfree : eff.free =
    true) (hc : ∀ d, cs d) :
    State.Keeps eff cs keepsForm old (State.packet cur p) := by
  unfold State.packet
  repeat' (first
    | with_reducible assumption
    | with_reducible apply State.Keeps.malformed
    | with_reducible apply State.Keeps.rdPacket
    | with_reducible apply State.Keeps.wrPacket
    | with_reducible apply State.Keeps.qdataPacket
    | with_reducible apply State.Keeps.ite
    | with_reducible apply State.Keeps.updMk
    | (refine Or.inl ?_; assumption)
    | exact Or.inr rfl
    | exact Or.inr ⟨rfl, rfl⟩
    | (refine Or.inl ⟨by assumption, ?_⟩; exact fun w => w)
    | simp only [State.Keeps.mk_iff]
    | with_reducible apply State.Keeps.modMemForm
    | with_reducible apply State.Keeps.modChForm
    | (intro d hd; cases hd; done)
    | (intro d hd; cases hd; exact hc _)
    | exact hc _
    | split)

theorem State.Keeps.lackOn (h : State.Keeps eff cs rel old cur) (khp : eff.hp = true) :
    State.Keeps eff cs rel old (State.lackOn cur ) := by
  unfold State.lackOn
  repeat' (first
    | with_reducible assumption
    | with_reducible apply State.Keeps.ite
    | with_reducible apply State.Keeps.updMk
    | (refine Or.inl ?_; assumption)
    | exact Or.inr rfl
    | exact Or.inr ⟨rfl, rfl⟩
    | (refine Or.inl ⟨by assumption, ?_⟩; exact fun w => by simpa using w)
    | simp only [State.Keeps.mk_iff]
    | (intro d hd; cases hd; done)
    | (intro d hd; cases hd; assumption)
    | (refine (?_ : @Eq (List Host.Cell) _ _); (repeat' split) <;> simp)
    | split)

theorem State.Keeps.heard (h : State.Keeps eff cs rel old cur) (khp : eff.hp = true) :
    State.Keeps eff cs rel old (State.heard cur ) := by
  unfold State.heard
  repeat' (first
    | with_reducible assumption
    | with_reducible apply State.Keeps.ite
    | with_reducible apply State.Keeps.updMk
    | (refine Or.inl ?_; assumption)
    | exact Or.inr rfl
    | exact Or.inr ⟨rfl, rfl⟩
    | (refine Or.inl ⟨by assumption, ?_⟩; exact fun w => w)
    | simp only [State.Keeps.mk_iff]
    | (intro d hd; cases hd; done)
    | (intro d hd; cases hd; assumption)
    | (refine (?_ : @Eq (List Host.Cell) _ _); (repeat' split) <;> simp)
    | split)

theorem State.Keeps.frame (f : List Byte) (h : State.Keeps eff cs keepsForm old cur) (kmod : eff.mod = true) (kmode :
    eff.mode = true) (ktlh : eff.tlh = true) (ktrk : eff.trk = true) (kvlt : eff.vlt = true) (kslots : eff.slots = true)
    (ksend : eff.send = true) (khp : eff.hp = true) (kskn : eff.skn = true) (kflt : eff.flt = true) (kfree : eff.free =
    true) (hc : ∀ d, cs d) :
    State.Keeps eff cs keepsForm old (cur.frame f) := by
  unfold State.frame
  extract_lets y1
  have h1 : State.Keeps eff cs keepsForm old y1 := by
    refine h.upd _ _ _ _ _ _ _ _ _ ?_ ?_ ?_ ?_ ?_ ?_ ?_ ?_ ?_ ?_ ?_ <;>
      first | exact .inr rfl | exact .inr ⟨rfl, rfl⟩ | exact .inl ⟨khp, fun w => Hp.ack_outstanding _ _ _ w⟩
  clear_value y1
  refine State.Keeps.ite (State.Keeps.lackOn (State.Keeps.ite ?_ h1) khp) ?_
  · apply State.Keeps.packet <;> assumption
  · refine h.upd _ _ _ _ _ _ _ _ _ ?_ ?_ ?_ ?_ ?_ ?_ ?_ ?_ ?_ ?_ ?_ <;>
      first | exact .inr rfl | exact .inr ⟨rfl, rfl⟩ | exact .inl ⟨khp, fun w => by simpa using w⟩

theorem State.Keeps.sideRead (n : Nat) (h : State.Keeps eff cs rel old cur) (kside : eff.side = true) :
    State.Keeps eff cs rel old (State.sideRead cur n) := by
  unfold State.sideRead
  repeat' (first
    | with_reducible assumption
    | with_reducible apply State.Keeps.updMk
    | (refine Or.inl ?_; assumption)
    | exact Or.inr rfl
    | exact Or.inr ⟨rfl, rfl⟩
    | (refine Or.inl ⟨by assumption, ?_⟩; exact fun w => w)
    | simp only [State.Keeps.mk_iff]
    | (intro d hd; cases hd; done)
    | (intro d hd; cases hd; assumption))

theorem State.Keeps.drainOn (ch : ChanId) (h : State.Keeps eff cs rel old cur) (hc : cs ch) :
    State.Keeps eff cs rel old (State.drainOn cur ch) := by
  unfold State.drainOn
  repeat' (first
    | with_reducible assumption
    | with_reducible apply State.Keeps.modCh
    | with_reducible apply State.Keeps.ite
    | with_reducible apply State.Keeps.updMk
    | (refine Or.inl ?_; assumption)
    | exact Or.inr rfl
    | exact Or.inr ⟨rfl, rfl⟩
    | (refine Or.inl ⟨by assumption, ?_⟩; exact fun w => w)
    | simp only [State.Keeps.mk_iff]
    | (intro d hd; cases hd; done)
    | (intro d hd; cases hd; assumption)
    | (refine (?_ : @Eq (List Host.Cell) _ _); (repeat' split) <;> simp)
    | split)

end Sys2Proof.Machine
end

