-- ==== Sys2Proof/Laws/Chains.lean ====
section
/-! SUPPORT. Chains of operations: an operation on one channel leaves the others alone, what holds of each channel after a pass
over all of them, and what an operation that keeps the creels or the module's blocks leaves of the state. -/

namespace Sys2Proof.Machine

/-- Steps that leave channel `d` alone, in turn. -/
theorem foldl_ne {α : Type} (d : ChanId) (f : State → α → State) (h : ∀ s a, (f s a).ch d = s.ch d) (l : List α) (s : State) :
   (l.foldl f s).ch d = s.ch d := foldl_keeps (fun s : State => s.ch d) f h l s

theorem closeQueue_ne (s : State) {c d : ChanId} (h : d ≠ c) (i : Nat) : (s.closeQueue c i).ch d = s.ch d := by
  unfold State.closeQueue
  rw [State.ch_modCh_ne _ _ h]; simp [State.qcpl]

theorem closeEnded_ne (s : State) {c d : ChanId} (h : d ≠ c) : (s.closeEnded c).ch d = s.ch d := 
  foldl_ne d _ (fun s a => closeQueue_ne s h a) _ _

theorem enterRest_ne (s : State) {c d : ChanId} (h : d ≠ c) : (s.enterRest c).ch d = s.ch d := by
  unfold State.enterRest
  rw [closeEnded_ne _ h, State.setChState_ch_ne _ _ h, State.ch_modCh_ne _ _ h]

theorem holdupServices_ne (s : State) {c d : ChanId} (h : d ≠ c) : (s.holdupServices c).ch d = s.ch d := by
  unfold State.holdupServices
  rw [foldl_ne d _ (fun s a => State.ch_modCh_ne _ _ h), State.ch_modCh_ne _ _ h]

theorem holdupChannel_ne (s : State) {c d : ChanId} (h : d ≠ c) : (s.holdupChannel c).ch d = s.ch d := by
  unfold State.holdupChannel
  split
  · dsimp only
    rw [State.ch_modCh_ne _ _ h]
    split
    · rw [State.ch_modCh_ne _ _ h, holdupServices_ne _ h]
    · rw [enterRest_ne _ h, State.ch_modCh_ne _ _ h, holdupServices_ne _ h]
  · rfl

/-- What an operation gives its own channel holds of each channel of the list after a pass. -/
theorem forCh_each (f : State → ChanId → State) (P : Chan → Prop) (hne : ∀ s c d, d ≠ c → (f s c).ch d = s.ch d)
   (h : ∀ s c, P ((f s c).ch c)) (l : List ChanId) (s : State) (d : ChanId) (hd : d ∈ l ∨ P (s.ch d)) : P ((s.forCh l f).ch d) := by
  unfold State.forCh
  induction l generalizing s with
  | nil => simpa using hd
  | cons c l ih =>
    apply ih
    by_cases e : d = c
    · subst e; right; exact h _ _
    · rw [hne _ _ _ e]; simp [e] at hd; exact hd

/-- Closing a queue changes its channel in STQ and MEM only. -/
theorem closeQueue_self (s : State) (c : ChanId) (i : Nat) : ∃ q m, (s.closeQueue c i).ch c = { s.ch c with stq := q, mem := m } := by
  unfold State.closeQueue
  rw [State.ch_modCh_self]
  have e : (s.qcpl c i 0x07 0).ch c = s.ch c := by simp [State.qcpl]
  exact ⟨_, _, by rw [e]; rfl⟩

/-- Closing the ended queues changes the channel in STQ and MEM only. -/
theorem closeEnded_self (s : State) (c : ChanId) : ∃ q m, (s.closeEnded c).ch c = { s.ch c with stq := q, mem := m } := by
  unfold State.closeEnded
  generalize Chan.endedQueues _ = l
  induction l generalizing s with
  | nil => exact ⟨_, _, rfl⟩
  | cons i l ih =>
    obtain ⟨q, m, e⟩ := ih (s.closeQueue c i)
    obtain ⟨q', m', e'⟩ := closeQueue_self s c i
    exact ⟨q, m, by rw [List.foldl_cons, e, e']⟩

/-- The steps at REST on the channel itself. -/
theorem enterRest_self (s : State) (c : ChanId) : ∃ q m, (s.enterRest c).ch c = { ((s.ch c).restSteps s.now).inState .rest with stq := q, mem := m } := by
  unfold State.enterRest
  obtain ⟨q, m, e⟩ := closeEnded_self ((s.modCh c fun c => c.restSteps s.now).setChState c .rest) c
  exact ⟨q, m, by rw [e, State.setChState_ch_self, State.ch_modCh_self]⟩

/-- An operation that keeps the creels keeps every byte. -/
theorem keeps_creels {e : Effects} {cs} {s u : State} (h : State.Keeps e cs Eq s u) : s.sameCreels u := fun c a => by
  unfold State.creelByte; rw [← h.creel c]

/-- A pass over channels changes the channels only. -/
theorem forCh_modCh_eq (f : ChanId → Chan → Chan) (l : List ChanId) (s : State) : s.forCh l (fun s c => s.modCh c (f c)) = { s with chans := (s.forCh l fun s c => s.modCh c (f c)).chans } := by
  unfold State.forCh
  induction l generalizing s with
  | nil => rfl
  | cons c l ih => rw [List.foldl_cons, ih]; rfl

/-- What taking the link down leaves. -/
theorem linkClear_eq (s : State) (st : LinkState) : ∃ ch, s.linkClear st = { s with hp := { s.hp.clear with state := st }, mod := { s.mod with linkUp := false }, chans := ch } ∧ ∀ c, (s.linkClear st).ch c = { s.ch c with mem := ((s.linkClear st).ch c).mem } := by
  unfold State.linkClear State.modMem
  dsimp only
  refine ⟨_, forCh_modCh_eq _ _ _, fun c => ?_⟩
  rw [State.forCh_modCh_ch _ _ allCh_nodup]
  split <;> rfl

theorem loadEnd_load (s : State) : s.loadEnd.skn.load = none := by
  unfold State.loadEnd; split
  · assumption
  · rfl

/-- A pass whose operation on a channel depends on what it leaves of the state, the clock among it, as on the state before. -/
theorem forCh_modCh_of {α : Type} (p : State → α) (hp : ∀ (s : State) (c : ChanId) (x : Chan), p (s.setCh c x) = p s)
    (F : α → ChanId → Chan → Chan) (l : List ChanId) (s : State) :
    s.forCh l (fun s c => s.modCh c (F (p s) c)) = s.forCh l fun y c => y.modCh c (F (p s) c) := by
  have h : ∀ (l : List ChanId) (y : State), p y = p s →
      y.forCh l (fun s c => s.modCh c (F (p s) c)) = y.forCh l fun y c => y.modCh c (F (p s) c) := by
    unfold State.forCh
    intro l
    induction l with
    | nil => intro y _; rfl
    | cons c l ih =>
      intro y hy
      rw [List.foldl_cons, List.foldl_cons, hy]
      exact ih _ ((hp y c _).trans hy)
  exact h l s rfl

/-- The blocks of the module that an operation does not change: the state after differs in the blocks named only. -/
theorem State.Keeps.blocks {e : Effects} {cs : ChanId → Prop} {rel : List Host.Cell → List Host.Cell → Prop} {s u : State}
    (h : State.Keeps e cs rel s u) (hp : e.hp = false) (hs : e.send = false) :
    u = { s with
      freeCtr := if e.free then u.freeCtr else s.freeCtr
      evMark := if e.side then u.evMark else s.evMark
      mod := if e.mod then u.mod else s.mod
      tlh := if e.tlh then u.tlh else s.tlh
      trk := if e.trk then u.trk else s.trk
      vlt := if e.vlt then u.vlt else s.vlt
      skn := if e.skn then u.skn else s.skn
      flt := if e.flt then u.flt else s.flt
      side := if e.side then u.side else s.side
      chans := u.chans } := by
  obtain ⟨h1, h2, h12, -, -, -, -, h3, -, h4, h5, h6, -, h7, h8, h9, h10, h11⟩ := h
  have k7 := h7 hp (.inl hs)
  clear h7
  cases u
  simp only at *
  subst h1 h2 k7
  simp only [State.mk.injEq, true_and]
  refine ⟨?_, ?_, ?_, ?_, ?_, ?_, ?_, ?_, ?_, trivial⟩ <;> split <;> simp_all

/-- An operation on one channel that changes nothing of the module. -/
theorem State.Keeps.only {c : ChanId} {rel : List Host.Cell → List Host.Cell → Prop} {s u : State}
    (h : State.Keeps ⟨false, false, false, false, false, false, false, false, false, false, false, false⟩ (fun d => d = c) rel s u) :
    State.onlyChannel c s u := by
  have k := h.blocks rfl rfl
  exact ⟨by rw [h.now, h.mark rfl]; exact k, fun d hd => h.other d hd⟩

theorem chOf_mem {n : Nat} (m : BitVec n) (c : ChanId) : c ∈ chOf m ↔ bit m c.val = true := by
  unfold chOf; simp [mem_allCh]

theorem chOf_nodup {n : Nat} (m : BitVec n) : (chOf m).Nodup := allCh_nodup.filter _

theorem State.ifPort_pos {s : State} (f : State → State) (h : s.portUp = true) : s.ifPort f = f s := by simp [State.ifPort, h]
theorem State.ifPort_neg {s : State} (f : State → State) (h : s.portUp = false) : s.ifPort f = s := by simp [State.ifPort, h]
theorem State.ifWindow_pos {s : State} (f : State → State) (h : s.windowUp = true) : s.ifWindow f = f s := by simp [State.ifWindow, h]
theorem State.ifWindow_neg {s : State} (f : State → State) (h : s.windowUp = false) : s.ifWindow f = s := by
  simp [State.ifWindow, h]

/-- Time passes outside every channel. -/
theorem State.onlyChannel_of_atTime {c : ChanId} {s u : State} {t : Tbu} (h : State.onlyChannel c (s.atTime t) u) :
    State.onlyChannel c s u := by
  obtain ⟨h, h'⟩ := h
  refine ⟨?_, h'⟩
  rw [h]; rfl

/-- An operation on one channel at an instant. -/
theorem State.onlyChannel_modCh (s : State) (t : Tbu) (c : ChanId) (f : Chan → Chan) : State.onlyChannel c s ((s.atTime t).modCh c f) :=
  State.onlyChannel_of_atTime (State.modCh_only _ _ _)

end Sys2Proof.Machine
end

