-- ==== Sys2Proof/Laws/Vault.lean ====
section
/-! SUPPORT. The vault's slots: a header, a commit record and an area as a save leaves them pass the tests of R447 and R448. -/

namespace Sys2Proof.Machine

set_option Elab.async false

theorem take_headerOf (l : List Word) (h : l.length = 11) : (headerOf l).take 11 = l := by
  simp [headerOf, List.take_append, h]

/-- A header as it is saved carries its own CRC (R447). -/
theorem hdrOk_headerOf (x : Slot) (l : List Word) (h : l.length = 11) (m : l.getD 0 0 = vaultMagic) (hx : x.header = headerOf l) :
    x.hdrOk = true := by
  have a : x.word 0 = vaultMagic := by
    rw [← m]
    simp only [Slot.word, hx, headerOf, List.append_assoc]
    rw [if_pos (by decide), Nat.zero_div, List.getD_append _ _ _ _ (by omega)]
  have b : x.word 0x58 = (headerCrc l).setWidth 64 := by
    simp only [Slot.word, hx, headerOf, List.append_assoc]
    rw [if_pos (by decide), List.getD_append_right _ _ _ _ (by omega)]
    simp [h]
  have c : headerCrc x.header = headerCrc l := by simp only [headerCrc, hx, take_headerOf l h, List.take_of_length_le (Nat.le_of_eq h)]
  have d := (headerCrc l).isLt
  simp only [Slot.hdrOk, a, Slot.hdrCrc, b, c, fld, BitVec.toNat_setWidth]
  simp
  omega

theorem toNat_pack_high (c : Nat) (h : c < 2 ^ 32) : (pack [(c, 32)]).toNat = c * 2 ^ 32 := by
  simp only [pack, word, BitVec.ofNat_eq_ofNat, BitVec.or_zero, BitVec.toNat_ofNat]
  omega

theorem wordBytes_high (c : Nat) (h : c < 2 ^ 32) : (wordBytes (pack [(c, 32)])).take 4 = (wordBytes 0).take 4 := by
  simp only [wordBytes, toNat_pack_high c h, leBytes, List.take_succ_cons, List.take_zero, List.cons.injEq, and_true]
  refine ⟨?_, ?_, ?_, ?_⟩ <;> apply BitVec.eq_of_toNat_eq <;> simp only [BitVec.toNat_ofNat, BitVec.ofNat_eq_ofNat] <;> omega

theorem length_bytesOf (l : List Word) : (bytesOf l).length = 8 * l.length := by
  induction l with
  | nil => rfl
  | cons w l ih =>
    have e : (wordBytes w).length = 8 := rfl
    simp only [bytesOf, List.flatMap_cons, List.length_append, List.length_cons, e] at ih ⊢
    omega

/-- The CRC of a commit record covers seven words and half of the eighth, which is 0. -/
theorem commitCrc_high (l : List Word) (h : l.length = 7) (c : Nat) (hc : c < 2 ^ 32) : commitCrc (l ++ [pack [(c, 32)]]) = commitCrc (l ++ [0]) := by
  have e : ∀ w, bytesOf (l ++ [w]) = bytesOf l ++ wordBytes w := by
    intro w
    simp [bytesOf]
  have n := length_bytesOf l
  have z := wordBytes_high c hc
  simp only [commitCrc, e, List.take_append, n, h]
  exact congrArg (fun x => crc32 (_ ++ x)) z

/-- A commit record as it is saved makes its slot's header valid, and names the channels whose areas it commits (R447). -/
theorem commitOk_commitOf (x : Slot) (p : BitVec 16) (h : x.hdrCrc < 2 ^ 32) (hx : x.commit = commitOf x.seqNo x.hdrCrc p) :
    x.commitOk = true ∧ x.present = p := by
  have hp := p.isLt
  have w : ∀ k, x.word (commitAt + 8 * k) = x.commit.getD k 0 := by
    intro k
    have c : commitAt = 0x3FF000 := rfl
    rw [Slot.word, if_neg (by omega), if_pos (by omega), Nat.add_sub_cancel_left, Nat.mul_div_cancel_left _ (by decide)]
  have f : (pack [(x.hdrCrc, 32), (p.toNat, 0)]).toNat = x.hdrCrc * 2 ^ 32 + p.toNat := by
    simp only [pack, word, BitVec.ofNat_eq_ofNat, BitVec.or_zero, BitVec.toNat_or, BitVec.toNat_ofNat]
    rw [Nat.mod_eq_of_lt (by omega), Nat.mod_eq_of_lt (by omega), Nat.pow_zero, Nat.mul_one, ← Nat.shiftLeft_eq,
      Nat.shiftLeft_add_eq_or_of_lt (by omega)]
  have g := (commitCrc ([vaultMagic, x.seqNo, pack [(x.hdrCrc, 32), (p.toNat, 0)], 0, 0, 0, 0] ++ [0])).isLt
  have w0 := w 0
  have w1 := w 1
  have w2 := w 2
  have w7 := w 7
  simp only [hx, commitOf, List.getD_cons_zero, List.cons_append, List.nil_append, List.getD_cons_succ] at w0 w1 w2 w7
  have k := commitCrc_high [vaultMagic, x.seqNo, pack [(x.hdrCrc, 32), (p.toNat, 0)], 0, 0, 0, 0] rfl _ g
  have t := toNat_pack_high _ g
  simp only [List.cons_append, List.nil_append] at k t
  constructor
  · simp only [Slot.commitOk, Bool.and_eq_true, beq_iff_eq]
    refine ⟨⟨⟨w0, ?_⟩, w1⟩, ?_⟩
    · rw [w7, fld, t, hx]
      simp only [commitOf, List.cons_append, List.nil_append] at g ⊢
      rw [k]
      omega
    · rw [w2, fld, f]
      omega
  · apply BitVec.eq_of_toNat_eq
    rw [Slot.present, w2, fld, f, BitVec.toNat_ofNat]
    omega

/-- An area as it is saved passes the test of its CRC (R448). -/
theorem crcOk_sealed (w : Sparse Word) : (Area.sealed w).crcOk = true := by simp [Area.crcOk, Area.sealed]

end Sys2Proof.Machine
end

