-- ==== Sys2Proof/Tests/Slice0.lean ====
section
/-! SUPPORT. Small tests, each on one step or one operation, and the witnesses of the statements: for every hypothesis of an
obligation, a concrete state and operands that meet it together with the others of its clause. Expected values are those of
the manual's worked examples and tables, cited test by test. -/

namespace Sys2Proof.Tests

set_option Elab.async false

open Sys2Proof Sys2Proof.Machine

/-! ### Helpers -/

/-- The module in a mode, with channel 0 as given and the others as after reset. -/
def modeWith (m : Mode) (x : Chan) : State := { mod := { mode := m }, chans := (Vector.replicate 16 {}).set 0 x }

/-- In WOUND, with channel 0 as given. -/
def wound (x : Chan) : State := modeWith .wound x

/-- A channel that is CONFIGURED, in a state. -/
def inSt (st : ChState) : Chan := { mod := { state := st }, skn := { state := .configured } }

/-- The port is up and its link too. -/
def linked (s : State) : State := { s with hp := { s.hp with state := .up } }

/-! ### Well-formedness: an ill-formed command for each check -/

/-- A tick with the samples of 10 µs and the figures of `n` channels. -/
def tickOf (vin amps n : Nat) : Instr :=
  .tollhouseTick 0 (List.replicate vin 4800) (List.replicate amps (Vector.replicate 8 0)) (List.replicate n 0) (List.replicate n 0)

theorem test_wf_tick : Instr.wf (tickOf 9 10 16) = false ∧ Instr.wf (tickOf 10 9 16) = false ∧ Instr.wf (tickOf 10 10 15) = false
    ∧ Instr.wf (tickOf 10 10 16) = true := by decide +kernel

theorem test_wf_reads : Instr.wf (.multiwordRead 0 0x3108) = false ∧ Instr.wf (.multiwordRead 0 0x3100) = true
    ∧ Instr.wf (.multiwordRead 0 0x100000040) = true ∧ Instr.wf (.sidebandRead 0 0) = false := by decide

theorem test_wf_calibration : Instr.wf (.dacTrimVisit 0 0 0 1 1) = false ∧ Instr.wf (.dacTrimVisit 0 0 1 1000 25) = false
    ∧ Instr.wf (.calBankWrite 0 0 0 4 0) = false ∧ Instr.wf (.calBankWrite 0 0 0 8 0) = true := by decide

/-- What SKEW measured: no difference on any path. -/
def noSkew : ProcReport := { paths := List.replicate 34 { head := [{ diff := 0, bin := 0, count := 2048 }], tail := [{ diff := 0, bin := 0, count := 2048 }] } }

theorem test_wf_procedure : Instr.wf (.calProcedureEnd 0 0 3 {}) = false ∧ Instr.wf (.calProcedureEnd 0 0 3 noSkew) = true
    ∧ Instr.wf (.calProcedureEnd 0 0 0 noSkew) = false ∧ Instr.wf (.calProcedureEnd 0 0 2 { bins := [default] }) = false := by decide +kernel

theorem test_wf_training : Instr.wf (.trained 0 0 0 0 0 []) = false := by decide

theorem test_wf_window : Instr.wf (.bobbinWindowWrite 0 0 0x4800000 [0]) = false ∧ Instr.wf (.bobbinWindowWrite 0 0 0 []) = false
    ∧ Instr.wf (.bobbinWindowWrite 0 0 0x47FFFF8 [0]) = true := by decide

theorem test_wf_packets : Instr.wf (.frameReceived 0 (List.replicate 15 0)) = false ∧ Instr.wf (.frameReceived 0 (List.replicate 8 0)) = false
    ∧ Instr.wf (.wr 0 0 2 0 [0]) = false ∧ Instr.wf (.qdata 0 0 8 0 []) = false ∧ Instr.wf (.wr 0 0 1 0 [0]) = true := by decide

/-! ### Operations, against the manual's examples -/

/-- R26: position 1.5 is 0x0000_0000_0180_0000 (00_scope.md, Conventions). -/
theorem test_bits : fld (0x0000000001800000 : Word) 24 40 = 1 ∧ fld (0x0000000001800000 : Word) 0 24 = 0x800000 := by decide

/-- The budget at 48 V and in SHEDDING (13, worked example): 1,311 and 968. -/
theorem test_budget : budgetOf 4800 8 940 = 1311 ∧ budgetOf 3600 8 940 = 968 := by decide

/-- CRC-32 of IEEE 802.3 (R77): the check value of the digits 1 to 9. -/
theorem test_crc : crc32 [0x31, 0x32, 0x33, 0x34, 0x35, 0x36, 0x37, 0x38, 0x39] = 0xCBF43926 := by decide +kernel

/-- The tracker of the example in 01: LOCKED at edge 1001 with P_est 2,560. -/
def trk1001 : Tracker :=
  { state := .locked, n := 1001, e := 5002560, raw := some 5002560, pest := 2560 * 65536, seeded := true }

/-- Edge 1002 comes after 2,048 tbu: P_est := 2,048, FAST for 64 edges, and a PACE_STEP (01, worked example). -/
theorem test_pace_step : ((trk1001.edge 5004608 5004608 0x000001F400080436 0).1.pest = 2048 * 65536)
    ∧ (trk1001.edge 5004608 5004608 0x000001F400080436 0).1.n = 1002
    ∧ (trk1001.edge 5004608 5004608 0x000001F400080436 0).2.step = true := by decide

/-- The commit condition and the instant of R43 (01, worked example): from edge 996, target 1001.8 at 5,003,840. -/
theorem test_commit : ({ trk1001 with n := 996, e := 4989760 } : Tracker).due 0x3E9800000 = true
    ∧ ({ trk1001 with n := 995, e := 4987200 } : Tracker).due 0x3E9800000 = false
    ∧ ({ trk1001 with n := 996, e := 4989760 } : Tracker).instantOf 0x3E9800000 = 5003840 * 65536 := by decide

/-- The stamp of the same example: 960 tbu into a cycle of 2,560 (R39). -/
theorem test_stamp_position : retroPos 0x3E8000000 5000000 5000960 (2560 * 65536) false = 0x3E8600000 := by decide

/-- The frequency example of 10: five stamps, period 2,559.8 tbu, residual 0.8485 tbu (R335). -/
theorem test_regression : (regress [0, 2561, 5119, 7681, 10239]).per = 0x9FFCCCCCCCD
    ∧ (regress [0, 2561, 5119, 7681, 10239]).freq = 200015626221 ∧ (regress [0, 2561, 5119, 7681, 10239]).res = 217 := by decide


/-! ### Helpers: a skein stream -/

/-- The words of a stream of `8 * n` bytes. -/
def wordsOf : Nat → List Byte → List Word
  | 0, _ => []
  | n + 1, l => word (leNat (l.take 8)) :: wordsOf n (l.drop 8)

theorem leBytes_leNat (l : List Byte) : leBytes l.length (leNat l) = l := by
  induction l with
  | nil => rfl
  | cons b r ih =>
    have d : (b.toNat + 256 * leNat r) / 256 = leNat r := by have := b.isLt; omega
    have e : BitVec.ofNat 8 (b.toNat + 256 * leNat r) = b := by
      apply BitVec.eq_of_toNat_eq; have := b.isLt; simp only [BitVec.toNat_ofNat]; omega
    simp only [List.length_cons, leBytes, leNat, d, e, ih]

theorem leNat_bound (l : List Byte) : leNat l < 256 ^ l.length := by
  induction l with
  | nil => decide
  | cons b r ih => have := b.isLt; simp only [leNat, List.length_cons, pow_succ]; omega

theorem leNat_leBytes (n v : Nat) : leNat (leBytes n v) = v % 256 ^ n := by
  induction n generalizing v with
  | zero => simp [leBytes, leNat, Nat.mod_one]
  | succ n ih =>
    have h : 256 ^ (n + 1) = 256 * 256 ^ n := by rw [Nat.pow_succ, Nat.mul_comm]
    have b : (BitVec.ofNat 8 v).toNat = v % 256 := rfl
    rw [leBytes, leNat, ih, h, Nat.mod_mul, b]

theorem bytes_wordsOf (n : Nat) (l : List Byte) (h : l.length = 8 * n) : (wordsOf n l).flatMap wordBytes = l := by
  induction n generalizing l with
  | zero => simp only [wordsOf, List.flatMap_nil]; exact (List.length_eq_zero_iff.mp (by omega)).symm
  | succ n ih =>
    have t : (l.take 8).length = 8 := by rw [List.length_take]; omega
    have b := leNat_bound (l.take 8)
    have e := leBytes_leNat (l.take 8)
    rw [t] at b e
    have w : (word (leNat (l.take 8))).toNat = leNat (l.take 8) := Nat.mod_eq_of_lt b
    have d : (l.drop 8).length = 8 * n := by rw [List.length_drop]; omega
    rw [wordsOf, List.flatMap_cons, ih _ d, wordBytes, w, e, List.take_append_drop]

theorem leBytes_length (n v : Nat) : (leBytes n v).length = n := by
  induction n generalizing v with
  | zero => rfl
  | succ n ih => rw [leBytes, List.length_cons, ih]

theorem sha256_length (l : List Byte) : (sha256 l).length = 32 := by simp [sha256, beBytes, leBytes]

theorem slice_mid {a b : List Byte} {o n : Nat} (c : List Byte) (ha : a.length = o) (hb : b.length = n) : slice (a ++ (b ++ c)) o n = b := by
  subst ha hb; rw [slice, List.drop_left, List.take_left]

theorem slice_head {a : List Byte} {n : Nat} (c : List Byte) (h : a.length = n) : slice (a ++ c) 0 n = a := by
  subst h; rw [slice, List.drop_zero, List.take_left]

theorem num_mid {a : List Byte} {o : Nat} (k v : Nat) (c : List Byte) (ha : a.length = o) (hv : v < 256 ^ k) :
    num (a ++ (leBytes k v ++ c)) o k = v := by
  rw [num, slice_mid c ha (leBytes_length _ _), leNat_leBytes, Nat.mod_eq_of_lt hv]

/-- A record, and a section whose length, CRC-32 and digest are those of its body (R76, R77); its image identity is 7. -/
def recordOf (typ : Nat) (p : List Byte) : List Byte := leBytes 2 typ ++ ([1, 0] ++ (leBytes 4 p.length ++ p))
def secFields (sect : Byte) (bind body : List Byte) : List Byte :=
  [sect, 0x21, 2, 0, 0, 0, 0, 0] ++ (leBytes 8 body.length ++ (leBytes 8 7 ++ (bind ++ (leBytes 4 (crc32 body).toNat ++ List.replicate 28 0))))
def sectionOf (sect : Byte) (bind body : List Byte) : List Byte :=
  secFields sect bind body ++ (sha256 (secFields sect bind body ++ body) ++ (List.replicate 32 0 ++ body))

/-- What the checks of R86 find in such a section before they come to its records. -/
theorem sectionOf_form (sect : Byte) (bind body : List Byte) (h : bind.length = 8) (n : body.length < 2 ^ 64) :
    (sectionOf sect bind body).drop 128 = body ∧ byteAt (sectionOf sect bind body) 1 = 0x21
    ∧ num (sectionOf sect bind body) 8 8 = body.length ∧ num (sectionOf sect bind body) 0x20 4 = (crc32 body).toNat
    ∧ slice (sectionOf sect bind body) 0x40 32 = sha256 (slice (sectionOf sect bind body) 0 0x40 ++ body)
    ∧ num (sectionOf sect bind body) 0x10 8 = 7 ∧ slice (sectionOf sect bind body) 0x18 8 = bind := by
  have l : (secFields sect bind body).length = 64 := by simp [secFields, leBytes_length, h]
  refine ⟨?_, rfl, ?_, ?_, ?_, ?_, ?_⟩
  · have e : (secFields sect bind body ++ (sha256 (secFields sect bind body ++ body) ++ List.replicate 32 (0 : Byte))).length = 128 := by
      simp [l, sha256_length]
    have f : sectionOf sect bind body =
        (secFields sect bind body ++ (sha256 (secFields sect bind body ++ body) ++ List.replicate 32 (0 : Byte))) ++ body := by
      simp only [sectionOf, List.append_assoc]
    rw [f, ← e, List.drop_left]
  · simp only [sectionOf, secFields, List.append_assoc]
    exact num_mid 8 _ _ rfl (by simpa using n)
  · simp only [sectionOf, secFields, List.append_assoc]
    rw [← List.append_assoc, ← List.append_assoc, ← List.append_assoc]
    exact num_mid 4 _ _ (by simp [leBytes_length, h]) (crc32 body).isLt
  · rw [sectionOf, slice_head _ l]
    exact slice_mid _ l (sha256_length _)
  · simp only [sectionOf, secFields, List.append_assoc]
    rw [← List.append_assoc]
    exact num_mid 8 7 _ (by simp [leBytes_length]) (by decide)
  · simp only [sectionOf, secFields, List.append_assoc]
    rw [← List.append_assoc, ← List.append_assoc]
    exact slice_mid _ (by simp [leBytes_length]) h

/-- Such a section passes where its records do (R86). -/
theorem sectionOf_passes (sect : Byte) (module : Bool) (bind body bound classes : List Byte) (recs : List (Nat × List Byte))
    (h : bind.length = 8) (n : body.length ≤ 262144) (b : module = true ∨ bound = bind)
    (p : parseRecords module (body.length + 1) body [] = .ok recs) (q : (requiredTypes module).find? (fun t => !recs.any (·.1 == t)) = none)
    (r : checkRecords recs (if module then payloadOf recs 0x0101 else classes) = none) :
    checkSection (sectionOf sect bind body) module 7 bound classes = .ok recs := by
  obtain ⟨f1, f2, f3, f4, f5, f6, f7⟩ := sectionOf_form sect bind body h (by omega)
  have m : ¬(if module = true then 256 * 1024 else 4 * 1024 * 1024) < body.length := by split <;> omega
  have bb : (!module && bind != bound) = false := by rcases b with b | b <;> simp [b]
  unfold checkSection sectionDigest
  simp only [f1, f2, f3, f4, f5, f6, f7, p, q, r, m, bb, ne_eq, not_true_eq_false, or_self, if_false, Bool.false_eq_true]

/-- A header of 512 bytes with a directory (R74, R75): the entries' bytes, how many they are, and the length of the stream. -/
def hdrFields (dir : List Byte) (n total : Nat) : List Byte :=
  leBytes 8 0x4E49454B53594741 ++ (leBytes 2 2 ++ (leBytes 2 512 ++ (leBytes 1 n ++ ([0x21, 0, 0] ++ (leBytes 8 7 ++ (List.replicate 8 0
    ++ (leBytes 8 total ++ (List.replicate 24 0 ++ (dir ++ List.replicate (440 - dir.length) 0)))))))))
def headerWith (dir : List Byte) (n total : Nat) : List Byte :=
  hdrFields dir n total ++ (leBytes 4 (crc32 (hdrFields dir n total)).toNat ++ List.replicate 4 0)

theorem headerWith_form (dir : List Byte) (n total : Nat) (h : dir.length ≤ 440) (t : total < 2 ^ 64) :
    (headerWith dir n total).length = 512 ∧ num (headerWith dir n total) 0 8 = 0x4E49454B53594741
    ∧ num (headerWith dir n total) 8 2 = 2 ∧ num (headerWith dir n total) 0xA 2 = 512 ∧ byteAt (headerWith dir n total) 0xD = 0x21
    ∧ num (headerWith dir n total) 0x1F8 4 = (crc32 (slice (headerWith dir n total) 0 0x1F8)).toNat
    ∧ num (headerWith dir n total) 0x20 8 = total := by
  have l : (hdrFields dir n total).length = 0x1F8 := by simp [hdrFields, leBytes_length]; omega
  refine ⟨by simp [headerWith, l, leBytes_length], ?_, ?_, ?_, rfl, ?_, ?_⟩
  · simp only [headerWith, hdrFields, List.append_assoc]
    rw [← List.nil_append (leBytes 8 _ ++ _)]
    exact num_mid 8 _ _ rfl (by decide)
  · simp only [headerWith, hdrFields, List.append_assoc]
    exact num_mid 2 2 _ rfl (by decide)
  · simp only [headerWith, hdrFields, List.append_assoc]
    rw [← List.append_assoc]
    exact num_mid 2 512 _ rfl (by decide)
  · rw [headerWith, slice_head _ l]
    exact num_mid 4 _ _ l (crc32 _).isLt
  · simp only [headerWith, hdrFields, List.append_assoc]
    iterate 6 rw [← List.append_assoc]
    exact num_mid 8 total _ (by simp only [List.length_append, leBytes_length, List.length_replicate]; rfl) t

/-- A directory whose sections have the lengths given, one after the other from byte `pos` on. -/
def dirOf : Nat → List (Nat × Nat) → List Byte
  | _, [] => []
  | pos, (sect, len) :: r => leBytes 4 sect ++ (leBytes 4 len ++ (leBytes 8 pos ++ dirOf (pos + len) r))

/-- The word that ends a stream of `n` words, and its load before that word. -/
def lastWord (n : Nat) (st : List Byte) : Word := (wordsOf n st).reverse.headD 0
def butLast (n : Nat) (st : List Byte) : List Word := (wordsOf n st).reverse.tail

theorem bytes_butLast (l : Load) (now : Tbu) (n : Nat) (st : List Byte) (h : st.length = 8 * n) (hn : 0 < n)
    (hl : l.words = butLast n st) : (withWord l now (lastWord n st)).bytes = st := by
  have e : (wordsOf n st).reverse ≠ [] := by
    cases n with
    | zero => omega
    | succ n => simp [wordsOf]
  have w : lastWord n st :: l.words = (wordsOf n st).reverse := by
    rw [hl, lastWord, butLast]
    cases h' : (wordsOf n st).reverse with
    | nil => exact absurd h' e
    | cons a r => rfl
  have v : (withWord l now (lastWord n st)).words = (wordsOf n st).reverse := w
  rw [Load.bytes, v, List.reverse_reverse, bytes_wordsOf n st h]

/-- The records of a module section and of a channel section that pass the checks of R86. -/
def modRecs : List (Nat × List Byte) :=
  [(0x0101, List.replicate 16 0 ++ [1] ++ List.replicate 119 0), (0x0102, List.replicate 24 0), (0x0103, [4, 0, 100, 0, 100, 0, 0, 0])]
def chRecsWith (lanes lut : List Byte) : List (Nat × List Byte) :=
  [(0x0201, lanes), (0x0202, List.replicate 512 0), (0x0203, lut), (0x0206, [0, 0, 1, 2, 3, 4, 0, 0, 0, 2, 1, 0, 0, 0, 0, 0]),
    (0x0207, List.replicate 8 0), (0x0209, [0x40, 0x1F, 0, 0, 0, 0, 0, 0, 0x40, 0x1F, 0, 0, 0, 0, 0, 0, 10, 0, 0, 0, 0, 0, 0, 0, 10, 0, 0, 0, 0, 0, 0, 0]),
    (0x020A, [])]
def bodyOf (l : List (Nat × List Byte)) : List Byte := l.flatMap fun r => recordOf r.1 r.2
def chRecs : List (Nat × List Byte) := chRecsWith (List.replicate 240 0) (List.replicate 256 0)
/-- What the channel sections below bind to. -/
def bind9 : List Byte := List.replicate 8 9
def img9 : ModImage := { classes := payloadOf modRecs 0x0101, digest := List.replicate 32 9 }
def modSec : List Byte := sectionOf 0 (List.replicate 8 0) (bodyOf modRecs)
def chSec : List Byte := sectionOf 0x1F bind9 (bodyOf chRecs)

theorem modSec_passes (bound classes : List Byte) : checkSection modSec true 7 bound classes = .ok modRecs :=
  sectionOf_passes _ true _ _ _ _ _ rfl (by decide +kernel) (.inl rfl) (by decide +kernel) (by decide +kernel)
    (by rw [if_pos rfl]; decide +kernel)

/-- No payload of these records is out of range where the lanes and the LUT are not (R86). -/
theorem chRecs_range (lanes lut : List Byte) (hl : laneMapOk lanes = true) (hq : lutOk lut (List.replicate 512 0) = true) :
    (recordTypes true ++ recordTypes false).find? (fun k => ((chRecsWith lanes lut).any (·.1 == k)) &&
      !payloadOk (chRecsWith lanes lut) img9.classes k (payloadOf (chRecsWith lanes lut) k)) = none := by
  have z : ∀ k, byteAt (List.replicate 512 0) k = 0 := by
    intro k; rw [byteAt, List.getD_eq_getElem?_getD, List.getElem?_replicate]; split <;> rfl
  have w : wiringOk (List.replicate 512 0) = true := by simp only [wiringOk, z, List.length_replicate]; decide +kernel
  have c : creelMapOk [0, 0, 1, 2, 3, 4, 0, 0, 0, 2, 1, 0, 0, 0, 0, 0] = true := by decide +kernel
  have p : powerOk (List.replicate 8 0) img9.classes = true := by decide +kernel
  have e : ceilingsOk [0x40, 0x1F, 0, 0, 0, 0, 0, 0, 0x40, 0x1F, 0, 0, 0, 0, 0, 0, 10, 0, 0, 0, 0, 0, 0, 0, 10, 0, 0, 0, 0, 0, 0, 0] = true := by
    decide +kernel
  simp [-List.reduceReplicate, recordTypes, chRecsWith, payloadOk, payloadOf, hl]
  exact ⟨w, hq, c, p, e⟩

theorem chRecs_range0 : (recordTypes true ++ recordTypes false).find? (fun k => (chRecs.any (·.1 == k)) &&
    !payloadOk chRecs img9.classes k (payloadOf chRecs k)) = none := by
  unfold chRecs; exact chRecs_range _ _ (by decide +kernel) (by decide +kernel)
theorem chRecs_loop : loopCheck (payloadOf chRecs 0x0203) = none := by decide +kernel

theorem chSec_passes : checkSection chSec false 7 bind9 img9.classes = .ok chRecs := by
  have l : laneBudget (payloadOf chRecs 0x0201) = false := by decide +kernel
  refine sectionOf_passes _ false _ _ _ _ _ rfl (by decide +kernel) (.inr rfl) (by decide +kernel) (by decide +kernel) ?_
  rw [if_neg (by decide), checkRecords, chRecs_range0]
  simp only [chRecs_loop, l, Bool.false_eq_true, if_false]

/-- The sections of a WHOLE stream of 4,000 bytes: the module section, fifteen channel sections without a body, and one with. -/
def wholeSects : List (Nat × Nat) := (0, 320) :: ((upTo 15).map fun n => (0x10 + n, 128)) ++ [(0x1F, 1248)]
def hdrW : List Byte := headerWith (dirOf 512 wholeSects) 17 4000
def dirW : List DirEntry := { sect := 0, len := 320, offset := 512 } ::
  (((upTo 15).map fun n => { sect := 0x10 + n, len := 128, offset := 832 + 128 * n }) ++ [{ sect := 0x1F, len := 1248, offset := 2752 }])

theorem hdrW_passes : (∀ code : Byte, ¬headerFails hdrW .whole 0 4000 code) ∧ directory hdrW = dirW := by
  obtain ⟨_, f1, f2, f3, f4, f5, _⟩ := headerWith_form (dirOf 512 wholeSects) 17 4000 (by decide +kernel) (by decide)
  have d : ¬directoryBad hdrW .whole 0 4000 := by unfold directoryBad; decide +kernel
  have l : ¬lengthBad hdrW 4000 := by unfold lengthBad; decide +kernel
  refine ⟨fun code h => ?_, by decide +kernel⟩
  unfold headerFails at h
  rw [← hdrW] at f1 f2 f3 f4 f5
  simp only [f1, f2, f3, f4, f5, d, l, ne_eq, not_true_eq_false, false_and, true_and, or_self, not_false_eq_true] at h

theorem sectionOf_length (sect : Byte) (bind body : List Byte) (h : bind.length = 8) : (sectionOf sect bind body).length = 128 + body.length := by
  simp only [sectionOf, secFields, List.length_append, leBytes_length, sha256_length, List.length_replicate, h, List.length_cons, List.length_nil]
  omega

/-! ### Witnesses: every command, power, the Tollhouse -/

/-- A module with a command waiting and a byte in a creel. -/
def running : State := { wound { mem := { data := [(5, 1)] } } with pending := [.odoTick 7] }

theorem test_meets_StepKeepsBounds_StepKeepsCreelForm : running.bounded ∧ running.creelsCanonical ∧ ∃ u, step running = .next u := by
  refine ⟨⟨by decide, by decide⟩, ?_, _, rfl⟩
  unfold State.creelsCanonical
  decide +kernel

theorem test_meets_FrontCommandRuns : State.reset.pending = [] := rfl

theorem test_meets_CreelFrame : storesCreel (.odoTick 7) = false ∧ ∃ u, exec (.odoTick 7) running = .next u := ⟨rfl, _, rfl⟩

/-- A module in a mode whose input has been at 40 V since instant 5. -/
def risenIn (m : Mode) : State := { modeWith m {} with tlh := { riseAt := some 5 } }

theorem test_meets_PowerAndReset : (risenIn .unpowered).mod.mode = .unpowered ∧ (risenIn .vaulted).mod.mode = .vaulted
    ∧ (risenIn .unpowered).tlh.riseAt = some 5 ∧ (risenIn .vaulted).tlh.riseAt = some 5 ∧ 5 + 20 * ms ≤ max (risenIn .vaulted).now (5 + 20 * ms)
    ∧ (∀ a ∈ (risenIn .vaulted).tlh.riseAt, max (risenIn .vaulted).now (4 + 20 * ms) < a + 20 * ms)
    ∧ State.reset.mod.mode ≠ .unpowered ∧ State.reset.mod.mode ≠ .vaulted ∧ State.reset.ticking = true := by decide +kernel

/-- 40 V begins the 20 ms with its first sample, and one sample below ends them (R429). -/
theorem test_rise : (({} : Tlh).takeVin (10 * us) (List.replicate 10 4000)).riseAt = some (1 * us)
    ∧ ((({} : Tlh).takeVin (10 * us) (List.replicate 10 4000)).takeVin (11 * us) [3999]).riseAt = none := by decide +kernel

/-- HOLDUP with a save in progress. -/
def saving : State := { modeWith .holdup {} with vlt := { save := some { slot := 1, areas := 3 } } }

theorem test_meets_HoldupAndSave : (wound (inSt .rest)).ticking = true ∧ ((wound (inSt .rest)).tlh.takeVin (max 0 9) [3599, 3599]).failing = true
    ∧ ((wound (inSt .rest)).tlh.takeVin (max 0 9) [3599, 3600]).failing = false ∧ (wound (inSt .rest)).skn.load = none
    ∧ ((wound (inSt .rest)).ch 0).configured = true ∧ saving.mod.mode = .holdup ∧ saving.vlt.save = some { slot := 1, areas := 3 }
    ∧ (modeWith .holdup {}).vlt.save = none := by decide +kernel

/-- SHEDDING with V_avg at 40 V since instant 5. -/
def recovering : State := { modeWith .shedding {} with tlh := { okAt := some 5 } }

/-- V_avg below 37 V, channel 0 in RUN and marked. -/
def hardState : State := { wound { inSt .run with tlh := { shed := 1, granted := true } } with tlh := { vin := 3600 } }

/-- No deficit since instant 5, channel 0 lowered to grade 1 by the Tollhouse. -/
def calm : State :=
  { wound { inSt .rest with tlh := { tollGrade := true }, mem := { cfg := 0x70000640C00, trained := 7, grade := 1, train := .ready } } with
    tlh := { calmAt := some 5, budget := 1311 } }

theorem test_meets_SheddingAndGrades : recovering.mod.mode = .shedding ∧ recovering.tlh.okAt = some 5
    ∧ 5 + 10 * ms ≤ max recovering.now (20 * ms) ∧ max recovering.now (9 * ms) < 5 + 10 * ms
    ∧ (modeWith .shedding {}).mod.mode = .shedding ∧ (modeWith .shedding {}).tlh.okAt = none
    ∧ (hardState.atTime 9).hardDue = true ∧ (hardState.ch 0).mod.state = .run ∧ (hardState.ch 0).tlh.pinned = false
    ∧ (hardState.ch 0).tlh.shed = 1
    ∧ calm.mod.mode = .wound ∧ calm.tlh.calmAt = some 5 ∧ 5 + 10 * ms ≤ max calm.now (20 * ms)
    ∧ (∀ d : ChanId, d ≠ 0 → (calm.ch d).tlh.tollGrade = false) ∧ (calm.ch 0).tlh.tollGrade = true ∧ (calm.ch 0).mem.grade.toNat = 0 + 1
    ∧ (calm.ch 0).mem.usable 0 = true ∧ (calm.ch 0).mem.changing = false ∧ (calm.ch 0).speedTest (BitVec.ofNat 2 0) = 0
    ∧ (if (calm.ch 0).chargedReq then (calm.atTime (20 * ms)).reqAt 0 0 - (calm.atTime (20 * ms)).reqNow 0 else 0)
        ≤ calm.tlh.budget - (calm.atTime (20 * ms)).totalCharge := by decide +kernel

/-- SHEDDING with a request that waits; a circuit lost already; an overdraw since instant 5. -/
def shed : State :=
  { modeWith .shedding { inSt .armed with tlh := { request := some { tick := 0, service := false }, overAt := some 5 } } with
    tlh := { lost := 2, lowAt := (Vector.replicate 8 none).set 3 (some 5) } }

/-- The same with the fault log full. -/
def shedFull : State := { shed with flt := { log := List.replicate 64 { odo := 0, info := 0 } } }

theorem test_meets_TollhouseAndFeed : shed.ticking = true ∧ (shed.ch 0).tlh.request.isSome = true ∧ (shed.ch 0).tlh.granted = false
    ∧ shed.mod.mode ≠ .unpowered ∧ bit shed.tlh.lost 0 = false ∧ shed.flt.log.length < 64 ∧ 64 ≤ shedFull.flt.log.length
    ∧ bit shedFull.tlh.lost 0 = false ∧ bit shed.tlh.lost 1 = true ∧ (shed.ch 0).tlh.overAt = some 5
    ∧ (risenIn .unpowered).ticking = false ∧ (List.replicate 100 (4800 : BitVec 16)).length = 100
    ∧ shed.tlh.lowAt[(3 : Fin 8)] = some 5 ∧ 5 + ms ≤ max shed.now (5 + ms) ∧ bit shed.tlh.lost 3 = false
    ∧ (∀ a ∈ shed.tlh.lowAt[(3 : Fin 8)], max shed.now (4 + ms) < a + ms)
    ∧ 5 + ms ≤ max shed.now (2 * ms) := by decide +kernel

/-! ### Witnesses: the time base and the trackers -/

/-- REF present and in holdover since instant 5 after an earlier loss. -/
def refThere : State := { wound {} with trk := { present := true, holdover := true, holdoverAt := some 5 } }

theorem test_meets_TimeBase : refThere.mod.mode ≠ .unpowered ∧ refThere.trk.present = true ∧ refThere.trk.tbLocked = false
    ∧ refSelected refThere.trk.refCfgNow 1 = true ∧ refSelected refThere.trk.refCfgNow 0 = false
    ∧ (wound {}).trk.present = false ∧ refThere.trk.holdover = true ∧ refThere.trk.holdoverAt = some 5
    ∧ 5 + 10 * ms ≤ max refThere.now (20 * ms) ∧ max refThere.now (9 * ms) < 5 + 10 * ms
    ∧ (modeWith .unpowered {}).mod.mode = .unpowered := by decide +kernel

/-- Channel 0 LOCKED as in the example of 01. -/
def pacing : State := wound { inSt .rest with trk := trk1001 }

/-- Channel 0 STOPPED. -/
def paceOff : State := wound { inSt .rest with trk := { trk1001 with state := .stopped } }

/-- The first tracker of channel 0 as given, with the module's milestone registers. -/
def edging (k : Tracker) (m : TrkMod) : State := { wound { inSt .rest with trk := k } with trk := m }

theorem test_meets_PaceEdge : pacing.mod.mode ≠ .unpowered ∧ (∀ r, (pacing.ch 0).trk.raw = some r → r = 5002560)
    ∧ 550 * 512 ≤ (max pacing.now 5005120 - 5002560) * 1000 ∧ (pacing.ch 0).trk.state = .locked
    ∧ (pacing.ch 0).trk.stopDue (edgeInstant pacing 0 5005120) = false ∧ (pacing.ch 0).trk.stopDue (edgeInstant pacing 0 5012801) = true
    ∧ (pacing.ch 0).trk.mstone ≠ some false ∧ (pacing.ch 0).trk.seeded = true ∧ (pacing.ch 0).trk.fast = 0
    ∧ (edgeInstant pacing 0 5005120 * 65536 - (pacing.ch 0).trk.e * 65536 - (pacing.ch 0).trk.pest).natAbs ≤ stepThreshold pacing.trk.paceCfg (pacing.ch 0).trk.pest
    ∧ stepThreshold pacing.trk.paceCfg (pacing.ch 0).trk.pest < ((edgeInstant pacing 0 5004608 - (pacing.ch 0).trk.e) * 65536 - (pacing.ch 0).trk.pest).natAbs
    ∧ (paceOff.ch 0).trk.state = .stopped ∧ ((wound {}).ch 0).trk.state = .absent ∧ ((wound {}).ch 0).trk.raw = none
    ∧ ((edging { trk1001 with state := .acquiring, seeded := false } {}).ch 0).trk.good < 16
    ∧ 0 < ((edging { trk1001 with fast := 64 } {}).ch 0).trk.fast := by decide +kernel

/-- Channel 0 after an edge with MSTONE low, ALIGNED or not, an armed JNC.AT2, a strobe and a sample switch placed at 500, and the module in a
milestone MODE of view 0, with the step given. -/
def mileState (mode : Nat) (al : Bool) (step pos : Word) : State :=
  edging { trk1001 with
      mstone := some false, aligned := al
      pending := [{ kind := .at 2, pos := 500 * 2 ^ 24 }, { kind := .strobe, pos := 500 * 2 ^ 24 }, { kind := .sswitch, pos := 500 * 2 ^ 24 }] }
    { mstoneCfg := word mode, mstoneStep := step, mstonePos := pos }

theorem test_meets_PaceEdge_milestone : (∀ m ∈ [0, 1, 2, 3], ((mileState m true 64 (500 * 2 ^ 24)).ch 0).trk.mstone = some false
      ∧ (mileState m true 64 (500 * 2 ^ 24)).trk.mileAt = none
      ∧ fld ((mileState m true 64 (500 * 2 ^ 24)).trk.heldAt (edgeInstant (mileState m true 64 (500 * 2 ^ 24)) 0 5005120)).1 0 2 = m)
    ∧ (match exec (.paceEdge 5005120 0 true) (mileState 1 false 64 (500 * 2 ^ 24)) with
      | .next u => (u.ch 0).trk.state == .locked | _ => false) = true
    ∧ ((mileState 1 false 64 (500 * 2 ^ 24)).ch 0).mod.state ∈ [ChState.rest, .trim, .armed] ∧ ((wound (inSt .run)).ch 0).mod.state ∈ [ChState.run, .held, .drain]
    ∧ isAfter (500 * 2 ^ 24) (cyclePos (posInt (500 * 2 ^ 24))) = false
    ∧ fld (mileState 3 true 64 (500 * 2 ^ 24)).trk.mstoneStep 0 40 ≠ 0 ∧ fld (mileState 3 true 0 0).trk.mstoneStep 0 40 = 0
    ∧ cyclePos (counted ((mileState 3 true 64 (500 * 2 ^ 24)).ch 0).trk) ≠ 500 * 2 ^ 24
    ∧ cyclePos (counted ((mileState 3 true 64 (1002 * 2 ^ 24)).ch 0).trk) = 1002 * 2 ^ 24
    ∧ fld (word 1) 4 4 = (0 : ChanId).val ∧ fld (word 1) 4 4 ≠ (1 : ChanId).val
    ∧ edgeGap ≤ ((5005120 : Int) - 5000000).natAbs := by decide +kernel

theorem test_meets_PaceGlitchAndStop : pacing.mod.mode ≠ .unpowered ∧ (pacing.ch 0).trk.raw = some 5002560
    ∧ (max pacing.now 5002841 - 5002560) * 1000 < 550 * 512 ∧ ¬(max pacing.now 5002842 - 5002560) * 1000 < 550 * 512
    ∧ (pacing.ch 0).trk.state = .locked
    ∧ (pacing.ch 0).trk.e + (pacing.ch 0).trk.stopAfter < ((max pacing.now 5012801 : Nat) : Int)
    ∧ ((max pacing.now 5012800 : Nat) : Int) ≤ (pacing.ch 0).trk.e + (pacing.ch 0).trk.stopAfter := by decide +kernel

/-- A start placed at position 2,000 under COND 0, and one under COND 3. -/
def placedStart (cond : Word) : State :=
  wound { inSt .armed with
    mod := { state := .armed, startPend := true }, trk := { trk1001 with pending := [{ kind := .start, pos := 0x7D0000000 }] }
    seq := { lStartCfg := cond } }

theorem test_meets_PaceStop_start : ((placedStart 0).ch 0).mod.startPend = true ∧ ((placedStart 0).ch 0).trk.isPending .start = true
    ∧ ((placedStart 0).ch 0).seq.cond ≠ 3 ∧ ((placedStart 3).ch 0).seq.cond = 3 ∧ ((placedStart 0).ch 0).trk.state = .locked
    ∧ ((placedStart 0).ch 0).trk.e + ((placedStart 0).ch 0).trk.stopAfter < ((max (placedStart 0).now 5012801 : Nat) : Int) := by decide +kernel

/-- An armed JNC.AT2 committed at instant 5,003,840. -/
def at2 : Committed := { kind := .at 2, pos := 0x3E9800000, inst := 5003840 * 65536 }

/-- A level strobe committed at the same instant. -/
def strobeC : Committed := { kind := .strobe, pos := 0x3E9800000, inst := 5003840 * 65536 }

/-- A sample switch and a start committed before it. -/
def switchC : Committed := { kind := .sswitch, pos := 0x3E9800000, inst := 5003840 * 65536 }
def startC : Committed := { kind := .start, pos := 0x3E9000000, inst := 5003000 * 65536 }
def emitting (l : List Committed) : Chan :=
  { inSt .run with
    trk := { trk1001 with committed := l }, syn := { s := { pend := some true } }
    mod := { state := .run, startPend := true } }

theorem test_meets_EventEmit : (∀ p ∈ [at2, strobeC, switchC], inPlace (emitting [startC, p]).trk
      ∧ (emitting [startC, p]).trk.committed.filter (fun q => !((emitting [startC, p]).mod.startPend && q.kind == .start)) = [p]
      ∧ [p].filter (fun q => q.pos == p.pos) = [p]
      ∧ ((emitting [startC, p]).trk.committed.filter fun q => decide (posDiff q.pos (emitting [startC, p]).trk.edgePos ≤
          posDiff p.pos (emitting [startC, p]).trk.edgePos)).foldl (fun a q => max a q.inst) (emitting [startC, p]).trk.lastEmit = 5003840 * 65536)
    ∧ (5003840 * 65536 : Int) ≤ q16 (max 0 5003840) ∧ q16 (max 0 5003839) < 5003840 * 65536
    ∧ (emitting []).syn.s.pend = some true ∧ (emitting []).ana.src = 0 ∧ (emitting []).rangeState = true ∧ (wound (emitting [])).mod.mode ≠ .holdup
    ∧ (emitting []).ana.disableAt = none ∧ (emitting []).ana.deferAt = none ∧ (emitting []).ana.strobeAt = none
    ∧ (emitting []).ana.lastTransfer = none ∧ (inSt .run).mod.startPend = false
    ∧ ([] : List Committed).Pairwise (fun p q => posDiff p.pos 0 ≤ posDiff q.pos 0) := by
  unfold inPlace; decide +kernel

theorem test_meets_Retrack : (wound (inSt .rest)).portUp = true ∧ ((wound (inSt .rest)).ch 0).mod.state = .rest
    ∧ bit (1 : BitVec 16) 0 = true ∧ ((wound (inSt .run)).ch 0).mod.state ≠ .rest ∧ bit (1 : BitVec 16) 1 = false := by decide +kernel

/-! ### Witnesses: host registers -/

theorem test_meets_SnapshotsCaptured : (wound {}).portUp = true ∧ (wound {}).hp.busy = false ∧ (wound {}).hp.reqs = []
    ∧ (wound {}).windowUp = true ∧ (0x3108 : BitVec 40).toNat < 0x8000 ∧ (0x3108 : BitVec 40).toNat ≠ 0x3100
    ∧ ((wound {}).ch 0).trk.state = .absent := by decide +kernel

theorem test_meets_ReadRequest : (linked (wound {})).portUp = true ∧ (linked (wound {})).hp.state = .up
    ∧ (linked (wound {})).hp.busy = false ∧ (linked (wound {})).hp.reqs = []
    ∧ (0x7FF8 : BitVec 40).toNat < 0x8000 ∧ (0x7FF8 : BitVec 40).toNat % 8 = 0
    ∧ (33 : Byte).toNat > 32 ∧ (0x7FF7 : BitVec 40).toNat < 0x7FF8 ∧ (0x7FF7 : BitVec 40).toNat % 8 ≠ 0
    ∧ 0x8000 ≤ (0xFFFFFFF7 : BitVec 40).toNat ∧ (0xFFFFFFF7 : BitVec 40).toNat < 0xFFFFFFF8 := by decide +kernel

theorem test_meets_IdentityBlock : (linked (modeWith .linked {})).portUp = true ∧ (linked (modeWith .linked {})).hp.state = .up
    ∧ (linked (modeWith .linked {})).hp.busy = false ∧ (linked (modeWith .linked {})).hp.reqs = [] := by decide +kernel

theorem test_meets_RefusedAccesses : (linked (wound {})).windowUp = true ∧ ([0, 0] : List Word).length = (2 : Byte).toNat
    ∧ 1 ≤ (2 : Byte).toNat ∧ (2 : Byte).toNat ≤ 32
    ∧ (0x1000A0000 ≤ 0x1000A0000 ∧ (0x1000A0000 : BitVec 40).toNat % 0x10000000 = 0xA0000)
    ∧ (0x10009FFF0 : BitVec 40).toNat % 0x10000000 + 8 * (2 : Byte).toNat ≤ 0xA0000 ∧ (2 : Byte) ≠ 1
    ∧ (0x7FF0 : BitVec 40).toNat + 8 * (2 : Byte).toNat ≤ 0x8000 ∧ (modeWith .linked {}).windowUp = false := by decide +kernel

theorem test_meets_WritesOfRegisters : (wound {}).windowUp = true ∧ (modeWith .linked {}).windowUp = false
    ∧ (modeWith .linked {}).portUp = true ∧ (0xFFF : BitVec 40).toNat < 0x1000 ∧ ([0] : List Word).length ≠ (2 : Byte).toNat
    ∧ bit (2 : Word) 1 = true ∧ (5 : Word) &&& 0xF ≠ (linked (wound {})).hp.cfg &&& 0xF
    ∧ fld (0x100000018 : Word) 0 28 = 0x018 := by decide +kernel

/-! ### Witnesses: skein loads -/

/-- SKN_LOAD_CTRL of a WHOLE start of 640 bytes, and of a CHANNEL start for channel 0. -/
def startWhole : Word := 0x28000000005
def startChan : Word := 0x28000010009

/-- A WHOLE load in progress. -/
def loadW : Load := { kind := .whole, mask := 0xFFFF, length := 640, received := 79 }

def loading (l : Load) : State := { modeWith .spooling {} with skn := { load := some l } }

theorem test_meets_StreamStartRefused : (loading loadW).portUp = true ∧ (loading loadW).skn.load.isSome = true
    ∧ (wound {}).skn.load = none ∧ fld (0x2800001000D : Word) 2 2 ≠ 1 ∧ fld (0x2800001000D : Word) 2 2 ≠ 2
    ∧ fld startWhole 2 2 = 1 ∧ fld startWhole 16 16 = 0 ∧ fld startWhole 32 32 % 8 = 0 ∧ 640 ≤ fld startWhole 32 32
    ∧ 67373696 < fld (0x404100800000005 : Word) 32 32 ∧ fld (0x404100800000005 : Word) 32 32 % 8 = 0
    ∧ (modeWith .shedding {}).portUp = true ∧ (modeWith .shedding {}).mod.mode ≠ .wound
    ∧ (wound (inSt .run)).mod.mode = .wound ∧ ((wound (inSt .run)).ch 0).mod.state ≠ .rest := by decide +kernel

theorem test_meets_StreamStart : fld startWhole 2 2 = 1 ∧ fld startWhole 16 16 = 0 ∧ (modeWith .linked {}).mod.mode = .linked
    ∧ (modeWith .linked {}).portUp = true ∧ (modeWith .linked {}).skn.load = none ∧ fld startWhole 32 32 ≤ 67373696
    ∧ (∀ c : ChanId, ((wound (inSt .rest)).ch c).mod.state = .rest) ∧ (modeWith .quarantine {}).mod.mode = .quarantine
    ∧ fld startChan 2 2 = 2 ∧ fld startChan 16 16 ≠ 0 ∧ fld startChan 32 32 = 640 ∧ (wound {}).mod.mode = .wound
    ∧ (∀ c : ChanId, bit startChan (16 + c.val) = true →
        ((wound {}).ch c).mod.state = .rest ∧ ((wound {}).ch c).seq.checking = false) := by decide +kernel

theorem test_meets_StreamWordsAndAbort : (loading loadW).portUp = true ∧ State.reset.portUp = false ∧ (wound {}).skn.load = none
    ∧ (loading loadW).skn.load = some loadW ∧ loadW.complete = false ∧ loadW.kind = .whole
    ∧ 8 * (({ loadW with received := 70 } : Load).received + 1) ≠ 512 ∧ 8 * (({ loadW with received := 70 } : Load).received + 1) ≠ 640
    ∧ (∀ e ∈ loadW.dir, e.offset + e.len ≠ 568) ∧ ({ loadW with fatal := some { reason := 1, sect := 0xFF, detail := 0 } } : Load).fatal ≠ none
    ∧ ({ loadW with anyRefused := true } : Load).anyRefused = true ∧ 8 * (loadW.received + 1) ≠ 512 ∧ 8 * (loadW.received + 1) = loadW.length
    ∧ max 0 (9999 * ms) < loadW.wordAt + 10000 * ms ∧ loadW.wordAt + 10000 * ms ≤ max 0 (10000 * ms)
    ∧ ({ loadW with complete := true } : Load).complete = true ∧ fld (loading loadW).skn.result 0 8 = 0
    ∧ ({ loadW with kind := .channel } : Load).kind = .channel := by decide +kernel

/-- The WHOLE stream up to the end of its module section, and all of it, its empty channel sections being zeros. -/
def streamM : List Byte := hdrW ++ (modSec ++ [])
def streamW : List Byte := (hdrW ++ modSec ++ List.replicate 1920 0) ++ (chSec ++ [])
def loadHdr : Load := { kind := .whole, mask := 0xFFFF, length := 4000, received := 63, words := butLast 64 hdrW }
def loadM : Load := { loadHdr with received := 103, words := butLast 104 streamM, hdrPassed := true, dir := dirW }
def loadLast : Load := { loadM with received := 499, words := butLast 500 streamW, modImage := some img9 }
/-- The same with zeros for every word. -/
def loadZero (n : Nat) : Load := { loadM with received := n, words := List.replicate n 0 }

theorem hdrW_length : hdrW.length = 512 := (headerWith_form _ 17 4000 (by decide +kernel) (by decide)).1
theorem modSec_length : modSec.length = 320 := by rw [modSec, sectionOf_length _ _ _ rfl]; decide +kernel
theorem chSec_length : chSec.length = 1248 := by rw [chSec, sectionOf_length _ _ _ rfl]; decide +kernel

theorem streamM_bytes : (withWord loadM 9 (lastWord 104 streamM)).bytes = streamM :=
  bytes_butLast _ _ 104 _ (by simp only [streamM, List.length_append, hdrW_length, modSec_length, List.length_nil]) (by decide) rfl
theorem streamW_bytes : (withWord loadLast 9 (lastWord 500 streamW)).bytes = streamW :=
  bytes_butLast _ _ 500 _ (by simp only [streamW, List.length_append, hdrW_length, modSec_length, chSec_length, List.length_replicate,
    List.length_nil]) (by decide) (by rw [loadLast])

theorem test_meets_StreamWordsAndAbort_header : loadHdr.received = 63 ∧ loadHdr.complete = false ∧ loadHdr.dir = [] ∧ loadHdr.length ≠ 512
    ∧ (∀ code : Byte, ¬headerFails (withWord loadHdr 9 (lastWord 64 hdrW)).bytes .whole 0 4000 code)
    ∧ headerFails (withWord (loadZero 63) 9 0).bytes .whole 0 4000 0x01 := by
  refine ⟨rfl, rfl, rfl, by decide, ?_, .inl ⟨by decide +kernel, rfl⟩⟩
  rw [bytes_butLast loadHdr 9 64 hdrW hdrW_length (by decide) rfl]
  exact hdrW_passes.1

theorem test_meets_StreamWordsAndAbort_module : loadM.fatal = none ∧ 8 * (loadM.received + 1) ≠ 512 ∧ 8 * (loadM.received + 1) ≠ loadM.length
    ∧ loadM.dir.find? (fun e => e.offset + e.len == 8 * (loadM.received + 1)) = some { sect := 0, len := 320, offset := 512 }
    ∧ checkSection (slice (withWord loadM 9 (lastWord 104 streamM)).bytes 512 320) true
        (num (withWord loadM 9 (lastWord 104 streamM)).bytes 0x10 8) [] [] = .ok modRecs
    ∧ checkSection (slice (withWord (loadZero 103) 9 0).bytes 512 320) true (num (withWord (loadZero 103) 9 0).bytes 0x10 8) [] [] = .error (0x03, 0) := by
  refine ⟨rfl, by decide, by decide, by decide +kernel, ?_, by decide +kernel⟩
  have i : num streamM 0x10 8 = 7 := by decide +kernel
  rw [streamM_bytes, i, streamM, slice_mid _ hdrW_length modSec_length]
  exact modSec_passes _ _

theorem test_meets_StreamWordsAndAbort_sections : loadLast.fatal = none ∧ loadLast.kind = .whole ∧ 8 * (loadLast.received + 1) = loadLast.length
    ∧ loadLast.dir.find? (fun e => e.offset + e.len == 8 * (loadLast.received + 1)) = some { sect := 0x10 + 15, len := 1248, offset := 2752 }
    ∧ checkSection (slice (withWord loadLast 9 (lastWord 500 streamW)).bytes 2752 1248) false
        (num (withWord loadLast 9 (lastWord 500 streamW)).bytes 0x10 8) (slice img9.digest 0 8) img9.classes = .ok chRecs
    ∧ (loadZero 119).dir.find? (fun e => e.offset + e.len == 8 * ((loadZero 119).received + 1)) = some { sect := 0x10 + 0, len := 128, offset := 832 }
    ∧ checkSection (slice (withWord (loadZero 119) 9 0).bytes 832 128) false (num (withWord (loadZero 119) 9 0).bytes 0x10 8) [] [] = .error (0x03, 0) := by
  refine ⟨rfl, rfl, by decide, by decide +kernel, ?_, by decide +kernel, by decide +kernel⟩
  have i : num streamW 0x10 8 = 7 := by decide +kernel
  have l : (hdrW ++ modSec ++ List.replicate 1920 (0 : Byte)).length = 2752 := by
    simp only [List.length_append, hdrW_length, modSec_length, List.length_replicate]
  rw [streamW_bytes, i, streamW, slice_mid _ l chSec_length]
  exact chSec_passes

/-- A CHANNEL stream for channel 15. -/
def streamC : List Byte := headerWith (dirOf 512 [(0x1F, 1248)]) 1 1760 ++ (chSec ++ [])
def loadC : Load :=
  { kind := .channel, mask := 0x8000, length := 1760, received := 219, words := butLast 220 streamC, hdrPassed := true
    dir := [{ sect := 0x1F, len := 1248, offset := 512 }] }

theorem test_meets_StreamWordsAndAbort_channel : loadC.fatal = none ∧ loadC.kind = .channel ∧ 8 * (loadC.received + 1) = loadC.length
    ∧ loadC.dir.find? (fun e => e.offset + e.len == loadC.length) = some { sect := 0x10 + 15, len := 1248, offset := 512 }
    ∧ checkSection (slice (withWord loadC 9 (lastWord 220 streamC)).bytes 512 1248) false
        (num (withWord loadC 9 (lastWord 220 streamC)).bytes 0x10 8) (slice img9.digest 0 8) img9.classes = .ok chRecs
    ∧ checkSection (slice (withWord { loadC with words := [] } 9 0).bytes 512 1248) false
        (num (withWord { loadC with words := [] } 9 0).bytes 0x10 8) [] [] = .error (0x03, 0)
    ∧ loadC.resolved ≠ loadC.mask ∧ setBit loadC.resolved 15 = loadC.mask ∧ setBit loadC.resolved 15 ≠ 0x8001 ∧ (∀ x ∈ loadC.chImages, x.1 ≠ 15) := by
  have h : (headerWith (dirOf 512 [(0x1F, 1248)]) 1 1760).length = 512 := (headerWith_form _ _ _ (by decide +kernel) (by decide)).1
  have b : (withWord loadC 9 (lastWord 220 streamC)).bytes = streamC :=
    bytes_butLast _ _ 220 _ (by simp only [streamC, List.length_append, h, chSec_length, List.length_nil]) (by decide) (by rw [loadC])
  have i : num streamC 0x10 8 = 7 := by decide +kernel
  refine ⟨rfl, rfl, by decide, by decide +kernel, ?_, by decide +kernel, by decide, by decide, by decide, by decide⟩
  rw [b, i, streamC, slice_mid _ h chSec_length]
  exact chSec_passes

/-- A LUT whose first cell leads from junction 5 to itself without its flip-flop, and lanes that draw 23,040 of the 14,400 allowed. -/
def loopLut : List Byte := [133, 0, 0, 0, 0, 0, 133, 0] ++ List.replicate 248 0
def lanesOver : List Byte := List.replicate 192 0x80 ++ (upTo 24).flatMap fun _ => [0xC0, 3]

theorem test_meets_StreamWordsAndAbort_records : recordsFail [] true [] 0x0B 0x0101
    ∧ recordsFail ((modRecs.take 2) ++ [(0x0103, [])]) true (payloadOf modRecs 0x0101) 0x0C 0x0103
    ∧ recordsFail (chRecsWith (List.replicate 240 0) loopLut) false img9.classes 0x0D 5
    ∧ recordsFail (chRecsWith lanesOver (List.replicate 256 0)) false img9.classes 0x0E 0
    ∧ (∀ k d, ¬recordsFail chRecs false img9.classes k d) ∧ loopCheck loopLut = some 5
    ∧ parseRecords true 1 [] [] = .ok [] ∧ parseRecords true 2 [5] [] = .error (0x0B, 5) := by
  refine ⟨⟨_, _, _, rfl, rfl, rfl, by decide +kernel⟩, ⟨_, _, _, rfl, rfl, rfl, by decide +kernel⟩,
    ⟨none, none, _, by decide +kernel, (chRecs_range _ _ (by decide +kernel) (by decide +kernel)).symm, rfl, by decide +kernel⟩,
    ⟨none, none, none, by decide +kernel, (chRecs_range _ _ (by decide +kernel) (by decide +kernel)).symm, by decide +kernel, by decide +kernel⟩,
    ?_, by decide +kernel, by decide +kernel, by decide +kernel⟩
  intro k d ⟨m, r, l, hm, hr, hl, h⟩
  have a : (requiredTypes false).find? (fun k => !chRecs.any (·.1 == k)) = none := by decide +kernel
  have f : ¬14400 < ((upTo 24).map fun k => num (payloadOf chRecs 0x0201) (192 + 2 * k) 2).sum := by decide +kernel
  rw [a] at hm; rw [chRecs_range0] at hr; rw [chRecs_loop] at hl
  simp only [hm, hr, hl, f, reduceCtorEq, false_and, and_false, or_self] at h

/-- A section fails STEPPING, LENGTH, SECT_CRC and DIGEST; the section above fails MIXED for another image and BIND for another module section. -/
theorem test_meets_StreamWordsAndAbort_checks : byteAt [] 1 ≠ 0x21 ∧ byteAt [0, 0x21] 1 = 0x21 ∧ num [0, 0x21] 8 8 = 0
    ∧ num [0, 0x21, 0, 0, 0, 0, 0, 0, 1] 8 8 ≠ (List.drop 128 [0, 0x21, 0, 0, 0, 0, 0, 0, 1] : List Byte).length
    ∧ num ([0, 0x21] ++ List.replicate 30 0 ++ [1]) 0x20 4 ≠ (crc32 []).toNat ∧ num [0, 0x21] 0x20 4 = (crc32 []).toNat
    ∧ slice [0, 0x21] 0x40 32 ≠ sha256 (slice [0, 0x21] 0 0x40 ++ []) ∧ num chSec 0x10 8 ≠ 8 ∧ num chSec 0x10 8 = 7
    ∧ slice chSec 0x18 8 ≠ List.replicate 8 0 ∧ slice chSec 0x18 8 = bind9 ∧ byteAt chSec 1 = 0x21 ∧ num chSec 8 8 = (bodyOf chRecs).length
    ∧ (bodyOf chRecs).length ≤ 4194304 ∧ num chSec 0x20 4 = (crc32 (bodyOf chRecs)).toNat
    ∧ slice chSec 0x40 32 = sha256 (slice chSec 0 0x40 ++ bodyOf chRecs) ∧ chSec.drop 128 = bodyOf chRecs := by
  obtain ⟨f1, f2, f3, f4, f5, f6, f7⟩ := sectionOf_form 0x1F bind9 (bodyOf chRecs) rfl (by decide +kernel)
  rw [← chSec] at f1 f2 f3 f4 f5 f6 f7
  exact ⟨by decide, by decide, by decide, by decide, by decide +kernel, by decide +kernel, by decide +kernel, by rw [f6]; decide, f6,
    by rw [f7]; decide, f7, f2, f3, by decide +kernel, f4, f5, f1⟩

theorem test_meets_StreamWordsAndAbort_parse : num (recordOf 0x0104 []) 0 2 ∉ recordTypes false ∧ byteAt [1, 1, 2] 2 ≠ 1
    ∧ (recordOf 0x0101 [5]).dropLast.length < 8 + num (recordOf 0x0101 [5]).dropLast 4 4
    ∧ (∃ r ∈ [((0x0101 : Nat), ([] : List Byte))], r.1 = num (recordOf 0x0101 []) 0 2)
    ∧ num (recordOf 0x0101 [5]) 0 2 ∈ recordTypes true ∧ byteAt (recordOf 0x0101 [5]) 2 = 1
    ∧ 8 + num (recordOf 0x0101 [5]) 4 4 ≤ (recordOf 0x0101 [5]).length := by decide +kernel

/-- A channel section that passed, and its load. -/
def sectionX : ChanId × ChImage := (0, { creelMap := [1] })
def loadX : Load := { kind := .whole, mask := 1, length := 640, received := 80, complete := true, modImage := some {}, chImages := [sectionX] }

/-- The load with its module section applied, channel 0 being applied with its Doffer not released, and released. -/
def applying (rel : Bool) : State :=
  { modeWith .spooling { skn := { state := .applying, released := rel } } with skn := { load := some { loadX with modApplied := true } } }

theorem test_meets_SectionsApplied : (loading loadX).skn.load = some loadX ∧ loadX.complete = true ∧ loadX.kind = .whole
    ∧ loadX.modApplied = false ∧ loadX.modImage = some {} ∧ loadX.resolved ≠ loadX.mask
    ∧ ({ loadX with resolved := 1, chImages := [] } : Load).resolved = loadX.mask
    ∧ loadX.chImages.find? (fun x => x.1 == 0) = some sectionX ∧ ((applying false).ch 0).skn.state = .applying
    ∧ ((applying false).ch 0).skn.released = false ∧ ((applying false).ch 0).dof.running = none ∧ ((applying false).ch 0).dof.queue = []
    ∧ slice ((applying false).ch 0).skn.image.creelMap 0 6 ≠ slice sectionX.2.creelMap 0 6
    ∧ ((applying true).ch 0).skn.released = true ∧ ((applying true).ch 0).skn.releasedAt + 50 * ms < max 0 (51 * ms)
    ∧ max 0 (49 * ms) < ((applying true).ch 0).skn.releasedAt + 50 * ms
    ∧ max 0 (50 * ms) ≤ ((applying true).ch 0).skn.releasedAt + 50 * ms ∧ ((applying true).ch 0).skn.releasedAt + 50 * ms ≤ max 0 (50 * ms)
    ∧ ((applying true).ch 0).dof.due = true ∧ ((applying true).ch 0).mod.state ≠ .trim
    ∧ (applying true).skn.load = some { loadX with modApplied := true } ∧ setBit loadX.resolved 0 = loadX.mask
    ∧ ((wound (inSt .rest)).ch 0).configured = true ∧ ((wound (inSt .rest)).ch 0).dof.due = true
    ∧ ((wound (inSt .rest)).ch 1).configured = false ∧ ((wound { dof := { due := false } }).ch 0).dof.due = false := by decide +kernel

/-- The load above ends in WOUND with channel 0; one of channels 0 and 1 does not. -/
theorem test_meets_SectionsApplied_last : lastOfWhole (applying true) 0
    ∧ ¬lastOfWhole { applying true with skn := { load := some { loadX with modApplied := true, mask := 3 } } } 0 :=
  ⟨⟨_, rfl, rfl, rfl, rfl, by decide⟩, fun ⟨_, h, _, _, _, e⟩ => by cases h; revert e; decide⟩

/-! ### Witnesses: channel commands and the route -/

/-- Channel 0 in a state, or with an ARM being checked. -/
def checking (q : Seq) : Chan := { inSt .rest with seq := { q with checking := true } }

/-- Waypoint 0 plays segment 3 twice and ends the route; segment 3 has 2,048 samples. -/
def route0 : Seq := { wpt := [(0, 0x220000003), (3, 1)], segs := [(6, 0x8000000000000020), (7, 0x200000000)] }

theorem test_meets_CommandRefused : (Instr.hold 9 0, Cmd.hold) ∈ hostCommands 9 0 ∧ (Instr.resume 9 0, Cmd.resume) ∈ hostCommands 9 0
    ∧ (Instr.arm 9 0, Cmd.arm) ∈ hostCommands 9 0 ∧ (wound (checking {})).portUp = true ∧ ((wound (checking {})).ch 0).seq.checking = true
    ∧ (modeWith .linked {}).portUp = true ∧ (modeWith .linked {}).working = false
    ∧ (wound {}).working = true ∧ ((wound {}).ch 0).configured = false
    ∧ ((wound (inSt .drain)).ch 0).mod.state = .drain ∧ Cmd.arm.drains = false
    ∧ ((wound { inSt .held with mod := { state := .held, heldCause := Cause.fault } }).ch 0).mod.heldCause = Cause.fault
    ∧ ((wound (inSt .trim)).ch 0).configured = true ∧ ((wound (inSt .trim)).ch 0).mod.state = .trim
    ∧ ((wound (inSt .run)).ch 0).mod.state = .run ∧ ((wound (inSt .rest)).ch 0).mod.state = .rest
    ∧ (Instr.cancel 9 0, Cmd.cancel) ∈ hostCommands 9 0 ∧ (Instr.stop 9 0, Cmd.stop) ∈ hostCommands 9 0
    ∧ ((wound (inSt .armed)).ch 0).mod.state = .armed ∧ ((wound (inSt .armed)).ch 0).mod.startPend = false
    ∧ ((wound (inSt .held)).ch 0).mod.state = .held ∧ ((wound (inSt .held)).ch 0).mod.heldCause ≠ Cause.fault := by decide +kernel

/-- The descriptor of segment 3, and waypoints 0 to 2 that play it twice. -/
def valid3 : Sparse Word := [(6, 0x8000000000000020), (7, 0)]
def plain3 : Sparse Word := [(0, 0x200000003), (3, 1), (4, 0x200000003), (7, 1), (8, 0x200000003), (11, 1)]

/-- Channel 0 checking such a route, of one waypoint or as many as given, with the siding, the idle segment and the resume values given. -/
def route9 (last cfg idle : Nat) (resume : Option Word) (w d : Sparse Word) : Chan :=
  { inSt .rest with seq := { lRoute := word (last * 65536 + if resume.isSome then 2 ^ 32 else 0), lRouteCfg := word cfg, lIdle := word idle
                             resume := resume.getD 0, wpt := w, segs := d } }

/-- Waypoint 2 closes the block from 1 on, which waypoint 1, closing from 0 on, overlaps; three plain waypoints. -/
def crossed : Chan :=
  route9 2 0 0 none [(0, 0x200000003), (3, 1), (4, 0x210000003), (7, 1), (8, 0x210000003), (9, 0x10000), (11, 1)] valid3
def plainRoute : Chan := route9 2 0 0 none plain3 valid3

/-- A waypoint fails with each of the codes 0x04 to 0x0A (R139). -/
theorem test_meets_RouteCheck_waypoints : wpFails (route9 0 0 0 none [] []) 0 0x04 ∧ wpFails (route9 0 0 0 none plain3 []) 0 0x05
    ∧ wpFails (route9 0 0 0 none plain3 [(6, 0xC000000000000020)]) 0 0x06
    ∧ wpFails (route9 0 0 0 none [(0, 0x200000003), (2, 9), (3, 0x100000001)] valid3) 0 0x07
    ∧ wpFails (route9 0 0 0 none [(0, 0x210000003), (1, 0x50000), (3, 1)] valid3) 0 0x08 ∧ wpFails crossed 2 0x09
    ∧ wpFails (route9 0 0 0 none [(0, 0x204000003), (3, 1)] valid3) 0 0x0A := by
  have v : (1 : WpId) ∈ closings crossed.seq 2 := by decide +kernel
  have o : (1 : WpId).toNat < (2 : WpId).toNat ∧ (crossed.seq.wpStart 1).toNat < (crossed.seq.wpStart 2).toNat
      ∧ (crossed.seq.wpStart 2).toNat ≤ (1 : WpId).toNat := by decide +kernel
  exact ⟨.inl ⟨rfl, by decide +kernel⟩, .inr (.inl ⟨rfl, by decide +kernel⟩), .inr (.inr (.inl ⟨rfl, by decide +kernel⟩)),
    .inr (.inr (.inr (.inl ⟨rfl, by decide +kernel⟩))), .inr (.inr (.inr (.inr (.inl ⟨rfl, by decide +kernel⟩)))),
    .inr (.inr (.inr (.inr (.inr (.inl ⟨rfl, by decide +kernel, .inl ⟨1, v, o⟩⟩))))), .inr (.inr (.inr (.inr (.inr (.inr ⟨rfl, by decide +kernel⟩)))))⟩

/-- The first waypoint of a route fails with 0x04, its lowest code. -/
theorem test_meets_RouteCheck : (route9 0 0 0 none [] []).seq.waypoints = [0] ∧ ∀ (x : Chan) (k : Nat), wpFails x 0 k → 0x04 ≤ k := by
  refine ⟨by decide +kernel, ?_⟩
  rintro x k (h | h | h | h | h | h | h) <;> have := h.1 <;> omega

/-- A waypoint that closes nothing and waits for nothing fails nowhere where its word, segment and jumps are in order. -/
theorem plain_passes (x : Chan) (w : WpId) (n1 : x.seq.wpClose w = false) (n2 : x.seq.wpValid w = true) (n3 : x.seq.wpReserved w = false)
    (n4 : (x.seq.wpHopOp w).toNat < 4) (n5 : x.seq.segValid (x.seq.wpSeg w) = true) (n6 : x.seq.segStreamed (x.seq.wpSeg w) = false)
    (n7 : ∀ j : Fin 4, x.seq.wpJen w j.val = false) (n8 : x.seq.wpWait w = 0) (k : Nat) : ¬wpFails x w k := by
  unfold wpFails
  simp [n1, n2, n3, n5, n6, n7, n8, Nat.not_le.mpr n4]

/-- A route of three plain waypoints fails nowhere. -/
theorem test_meets_RouteCheck_plain (w : WpId) (h : w ∈ plainRoute.seq.waypoints) (k : Nat) : ¬wpFails plainRoute w k := by
  have e : plainRoute.seq.waypoints = [0, 1, 2] := by decide +kernel
  have n : ∀ i : Fin 3, plainRoute.seq.wpClose (BitVec.ofNat 16 i.val) = false ∧ plainRoute.seq.wpValid (BitVec.ofNat 16 i.val) = true
      ∧ plainRoute.seq.wpReserved (BitVec.ofNat 16 i.val) = false ∧ (plainRoute.seq.wpHopOp (BitVec.ofNat 16 i.val)).toNat < 4
      ∧ plainRoute.seq.segValid (plainRoute.seq.wpSeg (BitVec.ofNat 16 i.val)) = true
      ∧ plainRoute.seq.segStreamed (plainRoute.seq.wpSeg (BitVec.ofNat 16 i.val)) = false
      ∧ (∀ j : Fin 4, plainRoute.seq.wpJen (BitVec.ofNat 16 i.val) j.val = false) ∧ plainRoute.seq.wpWait (BitVec.ofNat 16 i.val) = 0 := by
    decide +kernel
  have p : ∀ i : Fin 3, ¬wpFails plainRoute (BitVec.ofNat 16 i.val) k := fun i =>
    let ⟨n1, n2, n3, n4, n5, n6, n7, n8⟩ := n i
    plain_passes _ _ n1 n2 n3 n4 n5 n6 n7 n8 k
  rw [e] at h
  simp only [List.mem_cons, List.not_mem_nil, or_false] at h
  rcases h with rfl | rfl | rfl
  · exact p 0
  · exact p 1
  · exact p 2

/-- The route-level conditions (R139). -/
theorem test_meets_RouteCheck_route : (route9 2 0 0 none plain3 valid3).seq.first.toNat ≤ (route9 2 0 0 none plain3 valid3).seq.last.toNat
    ∧ (route9 2 0 0 none plain3 valid3).seq.from' = false ∧ (route9 2 0 0 (some 0) plain3 valid3).seq.from' = true
    ∧ bit (route9 2 0 0 (some 0) plain3 valid3).seq.resume 63 = false
    ∧ (route9 2 0 0 (some 0x8000000900000000) plain3 valid3).seq.inRange (route9 2 0 0 (some 0x8000000900000000) plain3 valid3).seq.resumeWp = false
    ∧ bit (route9 2 0 0 (some 0x8000000100000000) plain3 valid3).seq.resume 63 = true
    ∧ (route9 2 0 0 (some 0x8000000100000000) plain3 valid3).seq.inRange (route9 2 0 0 (some 0x8000000100000000) plain3 valid3).seq.resumeWp = true
    ∧ (route9 2 0 0 (some 0x8000000100000000) plain3 valid3).seq.stackMatches none
        (route9 2 0 0 (some 0x8000000100000000) plain3 valid3).seq.resumeStack = true
    ∧ (route9 2 2 0 none plain3 valid3).seq.underrun = 2
    ∧ (route9 2 2 0 none plain3 valid3).seq.segValid (route9 2 2 0 none plain3 valid3).seq.sidingSeg = false
    ∧ (route9 2 0x300000002 0 none plain3 valid3).seq.segValid (route9 2 0x300000002 0 none plain3 valid3).seq.sidingSeg = true
    ∧ (route9 2 0x300000002 0 none plain3 valid3).seq.segStreamed (route9 2 0x300000002 0 none plain3 valid3).seq.sidingSeg = false
    ∧ (route9 2 0 0 none plain3 valid3).seq.underrun ≠ 2 := by decide +kernel

theorem test_meets_ArmAndRouteCheck : (wound (checking route0)).working = true ∧ ((wound (checking route0)).ch 0).configured = true
    ∧ ((wound (checking route0)).ch 0).seq.checking = true ∧ ((wound (checking route0)).ch 0).mod.state = .rest
    ∧ ((wound (checking route0)).ch 0).mod.queued = [] ∧ ((wound (checking route0)).ch 0).mod.armBcast = false
    ∧ ((wound (checking route0)).ch 0).routeCheck.1 = 0
    ∧ ((wound (checking {})).ch 0).routeCheck.1 ≠ 0
    ∧ ((wound (checking { lRoute := 1 })).ch 0).seq.last.toNat < ((wound (checking { lRoute := 1 })).ch 0).seq.first.toNat
    ∧ ((wound (inSt .rest)).ch 0).seq.checking = false := by decide +kernel

theorem test_meets_StartAndResume : (wound (inSt .armed)).working = true ∧ ((wound (inSt .armed)).ch 0).configured = true
    ∧ ((wound (inSt .armed)).ch 0).seq.checking = false ∧ fld ((wound (inSt .armed)).ch 0).seq.startCfg 0 2 ≠ 3
    ∧ ((wound (inSt .armed)).ch 0).mod.state = .armed ∧ ((wound (inSt .held)).ch 0).mod.state = .held
    ∧ ((wound (inSt .held)).ch 0).mod.heldCause ≠ Cause.fault := by decide +kernel

theorem test_meets_HoldStopCancelEnable : (wound (inSt .run)).working = true ∧ ((wound (inSt .run)).ch 0).mod.state = .run
    ∧ ((wound (inSt .run)).ch 0).seq.holdReq = none ∧ ((wound (inSt .held)).ch 0).mod.state = .held
    ∧ ((wound { inSt .armed with mod := { state := .armed, startPend := true } }).ch 0).mod.startPend = true
    ∧ ((wound { inSt .armed with mod := { state := .armed, startPend := true } }).ch 0).mod.state = .armed
    ∧ ((wound (inSt .drain)).ch 0).mod.state = .drain ∧ ((wound (inSt .rest)).ch 0).mod.state = .rest
    ∧ ((wound (inSt .rest)).ch 0).ana.disableAt = none := by decide +kernel

/-- Channel 0 ARMED and granted, its start committed at 1,064 and everything else ready. -/
def startE : Committed := { kind := .start, pos := 0x42800000000, inst := 5125120 * 65536 }

def starting : Chan :=
  { inSt .armed with
    mod := { state := .armed, startPend := true }, tlh := { granted := true }, trk := { trk1001 with committed := [startE] }
    seq := route0, mem := { degraded := true }
    syn := { synths := #v[{ state := .active, gate := true, lock := true }, {}, {}, {}] } }

theorem test_meets_RunEnteredAndLeft : ((wound starting).ch 0).runDue ((wound starting).atTime 5125120).cycle = some startE
    ∧ ((wound (inSt .drain)).ch 0).mod.state = .drain
    ∧ ((wound { inSt .drain with mod := { state := .drain, pendEn := true, cfg := 0 } }).ch 0).mod.pendEn = true := by decide +kernel

/-- DRAIN since instant 5, with SYN_REST or without; the synthesizers as given. -/
def draining (synRest begun : Bool) (x : Synth) : Chan :=
  { inSt .drain with
    mod := { state := .drain, drainAt := some 5, drainSyn := begun, pendEn := true, cfg := if synRest then 1 else 0 }
    syn := { synths := #v[x, {}, {}, {}] } }

theorem test_meets_RunEnteredAndLeft_drain : ((wound (draining false false {})).ch 0).mod.drainAt = some 5
    ∧ 5 + 15 * us ≤ max 0 (5 + 15 * us) ∧ max 0 (4 + 15 * us) < 5 + 15 * us ∧ ((wound (draining false false {})).ch 0).mem.writesDone = true
    ∧ bit ((wound (draining false false {})).ch 0).mod.cfg 0 = false
    ∧ bit ((wound (draining true true {})).ch 0).mod.cfg 0 = true ∧ ((wound (draining true true {})).ch 0).mod.drainSyn = true
    ∧ ((wound (draining true true {})).ch 0).powering false = false ∧ ((wound (draining true true {})).ch 0).powering true = false
    ∧ ((wound (draining true false { state := .active })).ch 0).mod.drainSyn = false
    ∧ (((wound { starting with tlh := { granted := true, shed := 1 } }).ch 0).runDue
        ((wound { starting with tlh := { granted := true, shed := 1 } }).atTime 5125120).cycle).isSome = true := by decide +kernel

theorem test_meets_RunEnteredAndLeft_powerDown : ∃ i : Fin 4, ¬atRest ((wound (draining true false { state := .active })).ch 0).syn.synths[i] :=
  ⟨0, by unfold atRest; decide⟩

/-- Channel 0 ARMED on the route above. -/
def armed0 : Chan := { inSt .armed with seq := { route0 with segIdx := 3 } }

/-- Channel 0 in RUN, its pass playing. -/
def playing0 : Chan := { inSt .run with seq := { route0 with playing := true, len := 2048, kind := .segment } }

/-- An ARM whose route plays segment 3, SEQ_SEG_IDX at it or elsewhere. -/
def checkSeg (idx : Word) : Chan := checking { route0 with segIdx := idx }

theorem test_meets_RouteTables_free : ¬segFree armed0 ∧ ¬segFree (checkSeg 3) ∧ segFree (checkSeg 9) ∧ segFree (inSt .rest) := by
  have c : (checkSeg 3).seq.waypoints = [0] ∧ (checkSeg 9).seq.waypoints = [0] := by decide +kernel
  have s : (checkSeg 3).seq.wpSeg 0 = (checkSeg 3).seq.segSel ∧ (checkSeg 9).seq.wpSeg 0 ≠ (checkSeg 9).seq.segSel := by decide +kernel
  have i : armed0.seq.checking = false ∧ armed0.routed = true ∧ armed0.seq.inRouteSet armed0.seq.segSel = true := by decide +kernel
  have o : (checkSeg 9).seq.idleSeg ≠ (checkSeg 9).seq.segSel ∧ (checkSeg 9).seq.sidingSeg ≠ (checkSeg 9).seq.segSel := by decide +kernel
  refine ⟨fun h => ?_, fun h => (h.1 rfl).1 0 (by rw [c.1]; exact List.mem_singleton.mpr rfl) s.1, ⟨fun _ => ⟨fun w hw => ?_, o⟩, fun h => ?_⟩,
    ⟨fun h => ?_, fun _ h => ?_⟩⟩
  · rw [h.2 i.1 i.2.1] at i; exact absurd i.2.2 (by decide)
  · rw [c.2, List.mem_singleton] at hw; rw [hw]; exact s.2
  · exact absurd h (by decide +kernel)
  · exact absurd h (by decide +kernel)
  · exact absurd h (by decide +kernel)

theorem test_meets_RouteTables_wellMade : segWellMade 0x8000000000000004 0x1000 ∧ segWellMade 3 5 ∧ ¬segWellMade 0x8000000000000003 0x1000
    ∧ ¬segWellMade 0x8000000000000004 0x1001 ∧ ¬segWellMade 0x1000000 0 ∧ ¬segWellMade 0 0x400000000 := by
  unfold segWellMade; decide +kernel

theorem test_meets_RouteTablesAndRequests : (wound armed0).windowUp = true
    ∧ ((wound armed0).ch 0).seq.inRange 0 = true ∧ ((wound armed0).ch 0).seq.inRange 1 = false
    ∧ ((wound playing0).ch 0).latches = true ∧ ((wound playing0).ch 0).seq.adv = none
    ∧ ((wound { playing0 with seq := { playing0.seq with adv := some 4 } }).ch 0).seq.adv.isSome = true
    ∧ ((wound (inSt .rest)).ch 0).latches = false ∧ ((wound playing0).ch 0).seq.inRange 0 = true
    ∧ ((wound (inSt .held)).ch 0).mod.state = .held ∧ ((wound (inSt .held)).ch 0).seq.inRange 0 = true := by decide +kernel

/-- A clocked pass: 8 GS/s, ratio 1/2 of it, from instant 0. -/
def clocked (q : Seq) : Chan :=
  { playing0 with seq := q, ply := { dn := 64, dd := 1, lProfRate := Vector.replicate 16 0x800000000000, profRate := Vector.replicate 16 0x800000000000 } }

/-- Waypoint 0 with two passes, then waypoint 1; both play segment 3. -/
def route1 : Seq :=
  { route0 with lRoute := 0x10000, wpt := [(0, 0x200000003), (3, 1), (4, 0x120000003), (7, 1)], playing := true, len := 2048 }

theorem test_meets_ExitGate : ((wound (clocked route1)).ch 0).gateDue ((wound (clocked route1)).atTime 1024000).cycle = true
    ∧ ((wound (clocked route1)).ch 0).seq.anyLatch = false ∧ ((wound (clocked route1)).ch 0).seq.mile = none
    ∧ ((wound (clocked route1)).ch 0).seq.holdReq = none ∧ ((wound (clocked route1)).ch 0).seq.waiting = false
    ∧ ((wound (clocked route1)).ch 0).seq.kind = .segment
    ∧ ((wound (clocked route1)).ch 0).seq.done + 1 < ((wound (clocked route1)).ch 0).seq.wpRepeat 0
    ∧ ((wound (clocked { route1 with done := 1 })).ch 0).seq.wpRepeat 0 ≤ ((wound (clocked { route1 with done := 1 })).ch 0).seq.done + 1
    ∧ ((wound (clocked { route1 with done := 1 })).ch 0).seq.wpEnd 0 = false
    ∧ ((wound (clocked { route1 with done := 1 })).ch 0).seq.wpClose 0 = false
    ∧ (0 : BitVec 16).toNat < ((wound (clocked { route1 with done := 1 })).ch 0).seq.last.toNat
    ∧ ((wound (clocked { route1 with done := 1 })).ch 0).seq.wpWait 1 = 0
    ∧ ((wound (clocked { route1 with wp := 1 })).ch 0).seq.wpEnd 1 = true
    ∧ ((wound (clocked { route1 with wp := 1 })).ch 0).seq.wpRepeat 1 ≤ ((wound (clocked { route1 with wp := 1 })).ch 0).seq.done + 1 := by
  decide +kernel

/-- No segment of the route above is streamed. -/
theorem test_meets_ExitGate_streamed (w : WpId) : (clocked route1).seq.segStreamed ((clocked route1).seq.wpSeg w) = false := by
  generalize (clocked route1).seq.wpSeg w = g
  simp only [Seq.segStreamed, Seq.descD0, clocked, playing0, route1, route0, sget]
  split
  · decide
  · split
    · decide
    · split
      · decide
      · split <;> decide

def succNext : Succ := { wp := 1, done := 0, kind := .segment, entry := true, routeEnd := false }
def succEnd : Succ := { succNext with routeEnd := true }

/-- The last sample of the pass is over and a successor is chosen. -/
def passEnded (x : Succ) (q : Seq) : Chan := clocked { q with decided := true, succ := some x }

/-- The same with the head of segment 3 in the buffer. -/
def lines (c : Nat) : Mem := { cache := ((clocked route1).passHead 3).map fun l => { slot := c, line := l, held := true, used := 0 } }
def withHead (x : Succ) (q : Seq) : Chan := { passEnded x q with mem := lines 0 }

theorem test_meets_BoundaryAndLateHead : ((wound (passEnded succNext route1)).ch 0).latches = true
    ∧ ((wound (passEnded succNext route1)).ch 0).seq.late = false
    ∧ ((wound (passEnded succNext route1)).ch 0).passOver ((wound (passEnded succNext route1)).atTime 1024000).cycle = true
    ∧ ((wound (passEnded succNext route1)).ch 0).seq.succ = some succNext ∧ succNext.routeEnd = false
    ∧ ((wound (passEnded succEnd route1)).ch 0).seq.succ = some succEnd ∧ succEnd.routeEnd = true
    ∧ ((wound (passEnded succNext { route1 with holdNext := some Cause.host })).ch 0).seq.holdNext = some Cause.host
    ∧ ((wound (passEnded succNext { route1 with holdNext := some Cause.host })).ch 0).seq.holdReq = none
    ∧ ((wound (passEnded succNext route1)).ch 0).seq.holdNext = none ∧ ((wound (passEnded succNext route1)).ch 0).mem.degraded = false
    ∧ ((wound (passEnded succNext route1)).ch 0).mem.creel ≠ .lost
    ∧ ((wound (passEnded succNext { route1 with late := true })).ch 0).seq.late = true
    ∧ ((wound (withHead succNext route1)).ch 0).headHere succNext = true ∧ ((wound (withHead succNext route1)).ch 0).mem.degraded = false
    ∧ ((wound (withHead succNext route1)).ch 0).passOver ((wound (withHead succNext route1)).atTime 1024000).cycle = true
    ∧ ((wound (withHead succNext { route1 with late := true })).ch 0).headHere succNext = true
    ∧ ((wound (passEnded succNext { route1 with late := true })).ch 0).headHere succNext = false
    ∧ ({ lines 0 with bobLostAt := some 5 } : Mem).bobLostAt ≠ none := by decide +kernel

/-- A route that plays segment 3, with UNDERRUN = 2 and segment 5, on line 1, as its siding; that line is in the buffer. -/
def route2 : Seq := { route1 with lRouteCfg := 0x500000002, segs := [(6, 0x8000000000000020), (7, 0x200000000), (10, 0x8000000000000020), (11, 0x1000)] }
def lostCreel (deg : Bool) : State :=
  wound { passEnded succNext route2 with mem := { creel := .lost, degraded := deg, cache := [{ slot := 0, line := 1, held := true, used := 0 }] } }

theorem test_meets_BoundaryAndLateHead_late : ((lostCreel true).ch 0).latches = true ∧ ((lostCreel true).ch 0).seq.late = false
    ∧ ((lostCreel true).ch 0).passOver ((lostCreel true).atTime 1024000).cycle = true ∧ ((lostCreel true).ch 0).seq.succ = some succNext
    ∧ ((lostCreel true).ch 0).seq.holdNext = none ∧ ((lostCreel true).ch 0).mem.creel = .lost ∧ succNext.kind ≠ .holdLast
    ∧ ((lostCreel true).ch 0).seq.kind ≠ .wayside ∧ ((lostCreel true).ch 0).mem.degraded = true
    ∧ ((lostCreel false).ch 0).passOver ((lostCreel false).atTime 1024000).cycle = true ∧ ((lostCreel false).ch 0).mem.degraded = false
    ∧ ((lostCreel false).ch 0).seq.underrun = 2
    ∧ (∃ line ∈ ((lostCreel false).ch 0).passHead (((lostCreel false).ch 0).seq.passSeg succNext.wp succNext.kind), ((lostCreel false).ch 0).mem.present line = false)
    ∧ ((lostCreel false).ch 0).passHead ((lostCreel false).ch 0).seq.sidingSeg = [1] ∧ ((lostCreel false).ch 0).mem.present 1 = true
    ∧ ((lostCreel true).ch 0).mem.bobLostAt = none ∧ ((lostCreel false).ch 0).mem.bobLostAt = none
    ∧ ((lostCreel true).ch 0).headHere succNext = false ∧ ((lostCreel true).ch 0).headHere succNext.wayside = false
    ∧ ((lostCreel false).ch 0).headHere succNext = false ∧ ((lostCreel false).ch 0).headHere succNext.wayside = true := by decide +kernel

/-- The pass that was late: an instant past its end lies after its begin too. -/
theorem test_meets_BoundaryAndLateHead_markers : (match exec (.passBoundary 1024000 0) (lostCreel true) with
    | .next u => (u.ch 0).passRec.begins.notAfter (q16 1048576) && (u.ch 0).passRec.pastEnd (q16 1048576)
    | _ => false) = true := by decide +kernel

/-- Channels 0 and 1 have voted, or channel 0 alone. -/
def vote01 (m : BitVec 16) : Vote := { tag := 7, mask := m, edge := 1000, commit := true, at' := 5000000 }
def voter (m : BitVec 16) : Chan :=
  { inSt .armed with mod := { state := .armed, startPend := true }, seq := { grpOutcome := 2, vote := some (vote01 m) } }
def bothVoted : State := { wound (voter 3) with chans := ((Vector.replicate 16 {}).set 0 (voter 3)).set 1 (voter 3) }

theorem test_meets_GroupDecide : (bothVoted.ch 0).seq.vote = some (vote01 3) ∧ (bothVoted.ch 0).seq.grpOutcome = 2
    ∧ (vote01 3).commit = true ∧ (∀ n : ChanId, bit (vote01 3).mask n.val = true → bothVoted.agrees (vote01 3) n = true)
    ∧ (vote01 3).at' + 12 * ns ≤ max 0 ((vote01 3).at' + 12 * ns) ∧ max 0 ((vote01 3).at' + 12 * ns - 1) < (vote01 3).at' + 12 * ns
    ∧ (bothVoted.ch 0).seq.gcond = false ∧ (bothVoted.ch 0).mod.startPend = true
    ∧ ((wound (voter 3)).ch 0).seq.vote = some (vote01 3) ∧ bit (vote01 3).mask 1 = true
    ∧ (wound (voter 3)).agrees (vote01 3) 1 = false := by decide +kernel

/-! ### Witnesses: playback and the Distaff -/

/-- A pace-locked pass whose last committed slice ended at instant 100. -/
def locked0 (zero : Bool) : Chan :=
  { playing0 with
    trk := { trk1001 with state := if zero then .stopped else .locked }
    ply := { lock := true, slices := [{ t0 := 0, t1 := 100 * 65536, i0 := 0, i1 := 64 * 2 ^ 24, clamp := false, lag := 0 }]
             lProfCfg := Vector.replicate 16 (if zero then 0xC else 0x4), profCfg := Vector.replicate 16 (if zero then 0xC else 0x4) } }

def hop0 (host : Bool) : PendHop :=
  { host := host, op := 3, idx := 5, readAt := 0, w0 := 0x1000000000007, w1 := 9, due := 0, begun := true }

/-- Channel 0 with prepared hops and the DAC clock running. -/
def hopping (l : List PendHop) : Chan := { playing0 with ply := { hops := l, anchor := some 0, dn := 64, dd := 1 } }

theorem test_meets_FreezeAndHops : ((wound (locked0 true)).ch 0).freezeDue (max (wound (locked0 true)).now 200) = true
    ∧ ((wound (locked0 true)).ch 0).trk.state = .stopped ∧ ((wound (locked0 true)).ch 0).ply.stopZero = true
    ∧ ((wound (locked0 false)).ch 0).freezeDue (max (wound (locked0 false)).now 200) = true
    ∧ (wound (hopping [])).windowUp = true
    ∧ fld ((wound { inSt .rest with ply := { hopW0 := 0x2000000000000 } }).ch 0).ply.hopW0 49 15 ≠ 0
    ∧ fld ((wound (hopping [])).ch 0).ply.hopW0 49 15 = 0 ∧ fld ((wound (hopping [])).ch 0).ply.hopW1 32 32 = 0
    ∧ (hop0 true).idx.toNat ≠ fld ((wound (hopping [hop0 true])).ch 0).ply.hopIdx 0 8
    ∧ (∃ h ∈ ((wound (hopping [hop0 false])).ch 0).ply.hops, h.host = false)
    ∧ (∀ h ∈ ((wound (hopping [hop0 true])).ch 0).ply.hops, h.host = true) ∧ 1 ≤ (3 : BitVec 3).toNat ∧ (3 : BitVec 3).toNat < 4
    ∧ (((wound (hopping [hop0 true])).ch 0).hopDue (wound (hopping [hop0 true])).trk.epoch (max 0 100000)).isSome = true := by decide +kernel

/-- The Distaff in a state, started by GO, in RUN. -/
def distaff (st : DstState) : Chan :=
  { inSt .run with trk := trk1001, dst := { state := st, latched := { cfg := 0x20101 } }, skn := { state := .configured, image := { microcode := List.replicate 16 1, ceilings := List.replicate 32 0x20 } } }

/-- A run that started in the cycle given. -/
def begunAt (cyc : Nat) : Chan := let x := distaff .running; { x with dst := { x.dst with startCycle := some cyc } }

theorem test_meets_DistaffAndDeskew : (wound (distaff .waiting)).windowUp = true ∧ ((wound (distaff .waiting)).ch 0).dst.state = .waiting
    ∧ ((wound (distaff .waiting)).ch 0).mod.state = .run ∧ ((wound (distaff .waiting)).ch 0).dst.latched.startSrc = 2
    ∧ ((wound (distaff .waiting)).ch 0).dstCheck = 0
    ∧ ((wound (distaff .waiting)).ch 0).dst.stopCycle ≠ some ((wound (distaff .waiting)).atTime 9).cycle
    ∧ ((wound (distaff .running)).ch 0).dst.state = .running ∧ ((wound (inSt .run)).ch 0).dst.state = .idle
    ∧ (∀ st ∈ [DstState.waiting, .running, .paused, .idle, .halted, .refused], (((wound (distaff st)).ch 0).dstTo (q16 0)).dst.state = st)
    ∧ ((wound (distaff .running)).ch 0).dst.issued = [] ∧ ((wound (distaff .running)).ch 0).dst.pauseAt = none
    ∧ bit ((wound { inSt .run with dst := { laneCfg := Vector.replicate 24 5 } }).ch 0).cal.loopCfg 0 = true
    ∧ bit ((wound { inSt .run with dst := { laneCfg := Vector.replicate 24 5 } }).ch 0).dst.laneCfg[(23 : Fin 24)] 0 = true
    ∧ bit ((wound (inSt .run)).ch 0).dst.trackStop 23 = false ∧ 64 ≤ 48 + 16 ∧ 3 * (48 + 16) ≤ 4 * 48 ∧ 63 + 0 < 64
    ∧ ((wound (inSt .rest)).ch 0).mod.state ≠ .run
    ∧ (((wound (distaff .running)).ch 0).dstTo (q16 0)).dst.startCycle ≠ some ((wound (distaff .running)).atTime 0).cycle
    ∧ (((wound (begunAt 0)).ch 0).dstTo (q16 0)).dst.startCycle = some ((wound (begunAt 0)).atTime 0).cycle
    ∧ (((wound (begunAt 0)).ch 0).dstTo (q16 0)).dst.state = .running
    ∧ ((inSt .run).dst.trackAt[(23 : Fin 24)].all fun a => decide (a + us ≤ max 0 9)) = true
    ∧ (({ trackAt := Vector.replicate 24 (some 5) } : Dst).trackAt[(23 : Fin 24)].all fun a => decide (a + us ≤ max 0 (4 + us))) = false
    ∧ 3 * (16 + 48) ≤ 4 * 48 ∧ 256 ≤ (256 : Int).natAbs := by decide +kernel

/-- A running Distaff whose next frame is due: microcode of one word of OP `op`, every lane sourced from memory with the rate given,
8,192 beats of vectors, and the position of the stream at `pos`. -/
def frames (op : Byte) (gate : Bool) (rate : Byte) (pos : BitVec 32) (m : Mem) : Chan :=
  { inSt .run with
    dst := { state := .running, plan := [0], core := { vecPos := pos }, latched := { cfg := 0x101, vecLen := 8192 } }, mem := m
    syn := { synths := #v[{}, {}, { state := .active, gate := gate }, {}] }
    skn := { state := .configured, image := {
      microcode := [1, 0, 0, 0, 0, 0, 0, 0, 0, 0, 0, 0, 0, 0, 0, op], laneMap := List.replicate 192 0x80 ++ List.replicate 48 rate } } }

def frameS (op : Byte) (gate : Bool) : State := wound (frames op gate 0 0 {})
/-- A degraded creel whose REFILL share the lanes exceed, past the head of the vector store. -/
def frameD : State := wound (frames 0 true 0x80 4096 { degraded := true })

/-- Channel 0 with such a frame, the core as given. -/
def frameK (op : Byte) (k : DstCore) : Chan :=
  let x := frames op true 0 0 {}
  { x with dst := { x.dst with core := k } }

/-- With no frame on the way the lanes' coming to a cycle leaves the channel as it is. -/
theorem test_meets_FrameIssue_lanes (op : Byte) (k : DstCore) (x : Q16) : (frameK op k).dstTo x = frameK op k
    ∧ ((frameS op true).ch 0).dstTo x = (frameS op true).ch 0 ∧ (frameD.ch 0).dstTo x = frameD.ch 0 := ⟨rfl, rfl, rfl⟩

theorem test_meets_FrameIssue_flow : (∀ op : Fin 10, fld ((frameK (BitVec.ofNat 8 (16 * op.val)) {}).skn.image.mcode 0) 60 4 = op.val
      ∧ (frameK (BitVec.ofNat 8 (16 * op.val)) {}).frameReady 9 = true)
    ∧ fld ((frameK 0x20 {}).skn.image.mcode 0) 46 2 = (0 : Fin 4).val
    ∧ ({} : DstCore).cnt[(0 : Fin 4)] ≠ 1 ∧ ({ cnt := Vector.replicate 4 1 } : DstCore).cnt[(0 : Fin 4)] = 1
    ∧ ({} : DstCore).stack.length < 4 ∧ 4 ≤ ({ stack := [1, 2, 3, 4] } : DstCore).stack.length
    ∧ ({ stack := [1, 2, 3, 4] } : DstCore).stack = 1 :: [2, 3, 4] ∧ ({} : DstCore).stack = [] := by decide +kernel

theorem test_meets_FrameIssue : ((frameS 0 true).ch 0).frameReady ((frameS 0 true).atTime 9).cycle = true
    ∧ ((wound (inSt .run)).ch 0).frameReady ((wound (inSt .run)).atTime 9).cycle = false ∧ ((frameS 0 true).ch 0).mem.degraded = false
    ∧ (frameD.ch 0).frameReady (frameD.atTime 9).cycle = true ∧ (frameD.ch 0).skn.image.memLanes ≠ []
    ∧ (frameD.ch 0).dst.core.vecEnded = false ∧ (frameD.ch 0).vecStore = true ∧ (frameD.ch 0).vecShort = true
    ∧ ((frameS 0 true).ch 0).vecStore = false ∧ ((frameS 0 true).ch 0).vecInCache = true ∧ ((frameS 0 true).ch 0).vecLate true = false := by
  decide +kernel

/-- A frame on its way to the lanes at one beat a cycle, beat 0 of the run at instant 0; the lane clock, the frame's index, whether it
was lost, what halts it and the boundary of a hold as given. -/
def onWay (gate lost begun : Bool) (n : Nat) (halt : Option Byte) (pause : Option Q16) : Chan :=
  let x := frames 0 gate 0 0 {}
  { x with
    trk := { trk1001 with hist := [{ e := 0, pos := 0 }] }
    dst := { x.dst with pauseAt := pause, issued := [{ index := n, core := {}, fresh := false, halt := halt, begun := begun, lost := lost }] } }

theorem test_meets_LaneFrames (g l b : Bool) (n : Nat) (h : Option Byte) (p : Option Q16) : ∃ i : Issued, (onWay g l b n h p).dst.issued = [i]
    ∧ i.lost = l ∧ i.begun = b ∧ i.index = n ∧ i.halt = h ∧ (onWay g l b n h p).dst.pauseAt = p ∧ (onWay g l b n h p).laneGate = g
    ∧ (onWay g l b n h p).dst.state = .running := ⟨_, rfl, rfl, rfl, rfl, rfl, rfl, rfl, rfl⟩

/-- At instant 0 beat 0 is driven, at the cycle's end it is over; frame 0 has begun at both, frame 1 at neither. -/
theorem test_meets_LaneFrames_beats : (onWay true false false 0 none none).laneBeatAt 0 = some (0, 0)
    ∧ (onWay true false false 0 none none).dst.latched.fb = 1
    ∧ (onWay true false false 0 none none).laneBeatAt (2560 * 65536) = some (0, 1) ∧ (0 : Q16) ≤ 2560 * 65536
    ∧ ((0 : Int) < ((1 * 1 : Nat) : Int)) ∧ (((0 * 1 : Nat) : Int) ≤ 0) ∧ (((0 * 1 + 1 : Nat) : Int) ≤ 1) ∧ ((0 : Int) < ((0 * 1 + 1 : Nat) : Int)) := by
  decide +kernel

/-- A HALT frame halts a running Distaff after its last beat, not before (R217); a hold pauses before a frame not driven in full (R229). -/
theorem test_lane_frames : ((onWay true false false 0 (some 1) none).dstTo 0).dst.state = .running
    ∧ ((onWay true false false 0 (some 1) none).dstTo (2560 * 65536)).dst.state = .halted
    ∧ ((onWay true false false 0 (some 1) (some 0)).dstTo 0).dst.state = .paused
    ∧ ((onWay false false false 0 none none).dstTo (2560 * 65536)).dst.lostGap = 1 := by decide +kernel

/-! ### Witnesses: levels, switches, monitor -/

/-- Channel 0 in REST with the analog settings given; the first form CONFIGURED, unlocked. -/
def anaOf (a : Ana) : State := wound { inSt .rest with ana := a, trk := trk1001 }

/-- The same with lock groups 0 and 1 locked, and limits 0x0101 in the image. -/
def anaLocked : State :=
  wound { inSt .rest with skn := { state := .configured, locks := 3, image := { restLevels := List.replicate 32 1 } } }

theorem test_meets_RangeSwitchesClamp : (anaOf {}).windowUp = true ∧ fld (1 : Word) 0 2 ≠ fld ((anaOf {}).ch 0).ana.wavCfg 0 2
    ∧ ((anaOf {}).ch 0).configured = true ∧ bit ((anaOf {}).ch 0).skn.locks 0 = false ∧ ((anaOf {}).ch 0).mod.state = .rest
    ∧ ((anaOf {}).ch 0).ana.rangeAt = none ∧ ((anaOf {}).ch 0).mod.state ∈ [ChState.rest, .armed, .run, .held]
    ∧ ((anaOf { rangeAt := some 5 }).ch 0).ana.rangeAt.isSome = true ∧ ((wound (inSt .trim)).ch 0).mod.state = .trim
    ∧ ((wound (inSt .drain)).ch 0).mod.state = .drain ∧ ((wound (inSt .drain)).ch 0).configured = true
    ∧ rangeOf ((anaOf { wavCfg := 1, rangeAt := some 5 }).ch 0).ana.wavCfg ≠ ((anaOf { wavCfg := 1, rangeAt := some 5 }).ch 0).ana.rangeTo
    ∧ ((anaOf { wavCfg := 1, rangeAt := some 5 }).ch 0).ana.rangeHeld = false
    ∧ ((anaOf { wavCfg := 1, rangeAt := some 5, rangeHeld := true }).ch 0).ana.rangeHeld = true
    ∧ bit (anaLocked.ch 0).skn.locks 0 = true ∧ (anaLocked.ch 0).configured = true
    ∧ fld (4 : Word) 0 2 = fld ((anaOf {}).ch 0).ana.wavCfg 0 2
    ∧ ((anaOf { wavCfg := 1, rangeTo := 1, rangeAt := some 5 }).ch 0).ana.rangeAt = some 5
    ∧ 5 + 2 * us ≤ max (anaOf {}).now (5 + 2 * us) ∧ max (anaOf {}).now (4 + 2 * us) < 5 + 2 * us
    ∧ 5 + 5 * us ≤ max (anaOf {}).now (5 + 5 * us)
    ∧ rangeOf ((anaOf { wavCfg := 1, rangeTo := 1, rangeAt := some 5 }).ch 0).ana.wavCfg
        = ((anaOf { wavCfg := 1, rangeTo := 1, rangeAt := some 5 }).ch 0).ana.rangeTo
    ∧ ((anaOf { closing := 3 }).ch 0).ana.closing ≠ 0 ∧ ((anaOf { disableAt := some 5 }).ch 0).ana.disableAt = some 5
    ∧ 5 + 12 * us ≤ max (anaOf {}).now (5 + 12 * us) ∧ max (anaOf {}).now (4 + 12 * us) < 5 + 12 * us
    ∧ ((anaOf { zclamp := false }).ch 0).sampleClock = false ∧ ((anaOf { zclamp := false }).ch 0).ana.zclamp = false := by decide +kernel

theorem test_meets_LevelsAndStrobes : ((anaOf { stbCfg := 1 }).ch 0).ana.src ≠ 0 ∧ ((anaOf {}).ch 0).ana.src = 0
    ∧ ((anaOf {}).ch 0).rangeState = true ∧ ((anaOf {}).ch 0).ana.disableAt = none ∧ ((anaOf {}).ch 0).ana.deferAt = none
    ∧ ((anaOf {}).ch 0).ana.strobeAt = none ∧ ((anaOf {}).ch 0).ana.lastTransfer = none ∧ (anaOf {}).windowUp = true
    ∧ ((anaOf { stbPos := 0x3E9800000 }).ch 0).trk.future (max (anaOf {}).now 5002560) ((anaOf { stbPos := 0x3E9800000 }).ch 0).ana.stbPos = true
    ∧ ((anaOf {}).ch 0).trk.future (max (anaOf {}).now 5002560) ((anaOf {}).ch 0).ana.stbPos = false
    ∧ (anaOf {}).portUp = true ∧ (anaOf {}).hp.busy = false ∧ (anaOf {}).hp.reqs = [] ∧ ((anaOf {}).ch 0).locked 2 = false
    ∧ fld (3 : Word) 0 2 ≠ fld ((anaOf {}).ch 0).ana.stbCfg 0 2 ∧ ((anaOf {}).ch 0).ana.ramp = none
    ∧ ((anaOf { strobeAt := some 3, ramp := some { since := 5, start := 0 } }).ch 0).ana.ramp = some { since := 5, start := 0 }
    ∧ (anaOf {}).mod.mode ≠ .holdup ∧ ((anaOf { stbCfg := 2 }).ch 0).ana.src = 2 ∧ (modeWith .holdup {}).mod.mode = .holdup
    ∧ ((anaOf { strobeAt := some 3 }).ch 0).ana.strobeAt = some 3 ∧ 3 ≤ ((anaOf { strobeAt := some 3 }).atTime (4 * 1024)).cycle
    ∧ fld (((anaOf {}).ch 0).ana.stagedAt (3 - 3)).2[(0 : Fin 4)] 0 16 ≤ fld (((anaOf {}).ch 0).ana.stagedAt (3 - 3)).2[(0 : Fin 4)] 16 16
    ∧ ((anaOf {}).ch 0).locked 1 = false ∧ fld (0x50005 : Word) 0 16 ≤ fld (0x50005 : Word) 16 16 ∧ fld (0x40005 : Word) 16 16 < fld (0x40005 : Word) 0 16
    ∧ (anaLocked.ch 0).locked 1 = true ∧ fld (0x100 : Word) 0 16 < (anaLocked.ch 0).skn.image.limLo 3 := by decide +kernel

/-- Every switch closed, three deviations counted on each input; ACTION as given. -/
def monitored (cfg : Word) (bad : Nat) : State :=
  wound { inSt .rest with mod := { state := .rest, outEn := true }, ana := { monCfg := cfg, sw := 31, monCnt := Vector.replicate 5 3, monBad := bad } }

theorem test_meets_Monitor : bit ((monitored 0 0).ch 0).ana.monCfg 4 = false
    ∧ ((wound (inSt .trim)).ch 0).mod.state = .trim ∧ bit ((monitored 0x00C801400004001F 0).ch 0).ana.monCfg 0 = true
    ∧ ((monitored 0x00C801400004001F 0).ch 0).mod.state ≠ .trim ∧ ((monitored 0x00C801400004001F 0).ch 0).monCompares 0 (max 0 us) = false
    ∧ ((monitored 0x00C801400004001F 0).ch 0).monCompares 0 (max 0 (2 * us)) = true
    ∧ ((monitored 0x00C801400004001F 0).ch 0).monDeviates 0 320 = false ∧ ((monitored 0x00C801400004001F 0).ch 0).monDeviates 0 321 = true
    ∧ max 1 (fld ((monitored 0x00C801400004001F 0).ch 0).ana.monCfg 16 8) ≤ ((monitored 0x00C801400004001F 0).ch 0).ana.monCnt[(0 : Fin 5)] + 1
    ∧ bit ((monitored 0x00C801400004001F 0).ch 0).ana.alarmed 0 = false ∧ bit ((monitored 0x00C801400004001F 0).ch 0).ana.monCfg 8 = false
    ∧ bit ((monitored 0x00C801400004011F 0).ch 0).ana.monCfg 8 = true ∧ ((monitored 0x00C801400004011F 0).ch 0).mod.state = .rest
    ∧ ((monitored 0x00C801400004011F 0).ch 0).mod.outEn = true ∧ ((monitored 0x00C801400004011F 0).ch 0).ana.disableAt = none
    ∧ ((monitored 0x00C801400004011F 0).ch 0).monCompares 0 (max 0 (2 * us)) = true
    ∧ ((monitored 0x00C801400004001F 0).ch 0).ana.monTurn 0 (max 0 (2 * us)) = true ∧ ((monitored 0x00C801400004001F 0).ch 0).ana.monTurn 1 (max 0 (2 * us)) = false
    ∧ ((monitored 0x00C801400004011F 0).ch 0).ana.monTurn 0 (max 0 (2 * us)) = true
    ∧ ((monitored 0 2).ch 0).ana.monFaulty = false ∧ (40 : BitVec 16).toInt.natAbs ≤ 40 ∧ ((4040 : BitVec 16).toInt - 4000).natAbs ≤ 40
    ∧ 40 < (41 : BitVec 16).toInt.natAbs ∧ ((monitored 0 1).ch 0).ana.monBad < 2 ∧ 2 ≤ ((monitored 0 2).ch 0).ana.monBad
    ∧ ((monitored 0 2).ch 0).flt.degraded = false := by decide +kernel

/-! ### Witnesses: synthesizers -/

/-- An entry that qualified at instant 0 for the setting `k`. -/
def entryOf (k : BitVec 48) : TblEntry := { key := k, band := 9, valid := true, used := 0, qual := 0 }

/-- Channel 0 with the sample pair as given, ceilings of 16,448 MHz and the tracker LOCKED. -/
def synOf (a b : Synth) (p : Pair) : State :=
  { wound { inSt .rest with
      trk := trk1001, skn := { state := .configured, image := { ceilings := List.replicate 32 0x40 } }
      syn := { synths := #v[a, b, {}, {}], s := p, sSwpos := 0x3E9800000 } } with
    trk := { tbLocked := true, present := true } }

def idleS : Synth := { setting := 10 }
def activeS : Synth := { setting := 10, state := .active, lock := true, measOk := true }
def heldS : Synth := { setting := 10, state := .idleLocked, lock := true, measOk := true }
def searching (f : TuneFor) : Synth := { setting := 10, state := .search, tune := f }
def tuning : Synth := { setting := 10, state := .tune, tune := .prepare }

theorem test_meets_SynthCommands : (synOf activeS idleS {}).windowUp = true
    ∧ ((wound {}).ch 0).synTest false 1 false 0 ≠ 0 ∧ ((wound {}).ch 0).configured = false
    ∧ ((synOf activeS idleS {}).ch 0).synTest false 1 false (max 0 9) = 0 ∧ ((synOf activeS idleS {}).ch 0).synTest false 3 false (max 0 9) = 0
    ∧ (((synOf activeS idleS {}).ch 0).idl false).state ≠ .stopping
    ∧ ((synOf activeS { idleS with table := [entryOf 10] } {}).ch 0).lookup 1 10 = some (entryOf 10)
    ∧ ((synOf activeS idleS {}).ch 0).lookup 1 10 = none
    ∧ ((synOf activeS heldS {}).ch 0).synTest false 2 false (max 0 9) = 0
    ∧ ((synOf activeS heldS {}).ch 0).synTest false 2 true (max 0 5002560) = 0
    ∧ ((synOf activeS idleS {}).ch 0).synTest false 4 false (max 0 9) = 0 ∧ (((synOf activeS idleS {}).ch 0).act false).state ≠ .off
    ∧ (((synOf activeS idleS {}).ch 0).act false).state ≠ .stopping
    ∧ ((synOf idleS idleS {}).ch 0).synTest false 4 false (max 0 9) = 0 ∧ (((synOf idleS idleS {}).ch 0).act false).state = .off
    ∧ ((synOf activeS heldS { prepared := true }).ch 0).synTest false 5 false (max 0 9) = 0
    ∧ (((synOf activeS heldS { prepared := true }).ch 0).syn.pair false).prepared = true
    ∧ ((synOf activeS heldS {}).ch 0).synTest false 5 false (max 0 9) = 0
    ∧ (((synOf activeS heldS {}).ch 0).syn.pair false).prepared = false ∧ bit (((synOf activeS heldS {}).ch 0).syn.pair false).spare 0 = false
    ∧ (((synOf activeS heldS {}).ch 0).syn.pair false).failover = false ∧ (((synOf activeS heldS {}).ch 0).syn.pair false).takeover = false
    ∧ (((synOf activeS heldS {}).ch 0).idl false).state = .idleLocked
    ∧ ((synOf activeS idleS {}).ch 0).synTest false 6 false (max 0 9) = 0 := by decide +kernel

/-- The active synthesizer powering down, with a START waiting for it; a lane pair, locked, with its edges aligned or not. -/
def stoppingS (l : List SynCmd) : State := synOf { activeS with state := .stopping, lock := false } idleS { queued := l }
def startQ : SynCmd := { cmd := 4, atPos := false, setting := 10 }
def laneOf (x y : Synth) (p : Pair) : State :=
  { wound { inSt .rest with
      trk := trk1001, skn := { state := .configured, image := { ceilings := List.replicate 32 0x40 } }
      syn := { synths := #v[{}, {}, x, y], l := p } } with
    trk := { tbLocked := true, present := true } }

theorem test_meets_SynthCommands_waiting : ((stoppingS []).ch 0).powering false = true ∧ (stoppingS []).windowUp = true
    ∧ ((stoppingS []).ch 0).synTest false 6 false (max 0 9) = 0 ∧ ((synOf activeS idleS {}).ch 0).powering false = false
    ∧ ((synOf idleS idleS {}).ch 0).powering false = false
    ∧ (((stoppingS [startQ]).ch 0).synth 0).state = .stopping ∧ (((stoppingS [startQ]).ch 0).synth 0).waiting = none
    ∧ ((stoppingS [startQ]).ch 0).syn.active (isLane 0) = 0 ∧ (((stoppingS [startQ]).ch 0).idl (isLane 0)).state ≠ .stopping
    ∧ (((stoppingS [startQ]).ch 0).syn.pair (isLane 0)).queued = [startQ] ∧ startQ.cmd = 4
    ∧ (((stoppingS []).ch 0).syn.pair (isLane 0)).queued = [] := by decide +kernel

theorem test_meets_SynthTuning_lock : (((synOf activeS (searching .prepare) {}).ch 0).synth 1).tuneAt + 2 * us ≤ max 0 (2 * us)
    ∧ max 0 (2 * us - 1) < (((synOf activeS (searching .prepare) {}).ch 0).synth 1).tuneAt + 2 * us
    ∧ (((synOf activeS { tuning with loaded := some 10 } {}).ch 0).synth 1).loaded = some 10
    ∧ (((synOf activeS tuning {}).ch 0).synth 1).loaded = none := by decide +kernel

theorem test_meets_SynthTuning : (synOf activeS (searching .prepare) {}).refOk 0 (isLane 1) = true
    ∧ (((synOf activeS (searching .prepare) {}).ch 0).synth 1).paused = false ∧ (((synOf activeS (searching .prepare) {}).ch 0).synth 1).state = .search
    ∧ ((synOf activeS (searching .prepare) {}).ch 0).measPass 1 10 10010000 = true ∧ ((synOf activeS (searching .prepare) {}).ch 0).measPass 1 10 10010001 = false
    ∧ (((synOf activeS (searching .prepare) {}).ch 0).synth 1).setting = 10 ∧ (((synOf activeS (searching .prepare) {}).ch 0).synth 1).tune = .prepare
    ∧ ((synOf activeS (searching .prepare) {}).ch 0).syn.active (isLane 1) ≠ 1 ∧ ((synOf (searching .start) idleS {}).ch 0).syn.active (isLane 0) = 0
    ∧ (((synOf (searching .start) idleS {}).ch 0).synth 0).state = .search ∧ ((synOf (searching .start) idleS {}).ch 0).measPass 0 10 9990000 = true
    ∧ (((synOf activeS tuning {}).ch 0).synth 1).state = .tune ∧ (((synOf activeS tuning {}).ch 0).syn.pair (isLane 1)).failover = false
    ∧ (((synOf activeS (searching .retry) {}).ch 0).synth 1).tune = .retry ∧ (((synOf activeS tuning {}).ch 0).synth 1).ceilHolds = 0
    ∧ (((synOf activeS tuning {}).ch 0).synth 0).state = .active ∧ ((synOf activeS tuning {}).ch 0).measPass 0 10 10000000 = true
    ∧ (((synOf activeS heldS {}).ch 0).synth 1).state = .idleLocked
    ∧ ((synOf activeS idleS {}).ch 0).idleFree false = true ∧ (synOf activeS idleS {}).refOk 0 false = true
    ∧ ((synOf activeS idleS {}).ch 0).coverNow false (max 0 9) = false
    ∧ (((synOf activeS idleS { covered := true }).ch 0).syn.pair false).covered = true
    ∧ (((synOf activeS idleS { covered := true }).ch 0).idl false).state = .off ∧ ((synOf activeS idleS { covered := true }).ch 0).idleFree false = true
    ∧ (((synOf activeS { idleS with table := [entryOf 10] } {}).ch 0).idl false).state ≠ .idleLocked
    ∧ ((synOf activeS idleS {}).ch 0).entryHits false 10 (entryOf 10) = true ∧ (entryOf 10).qual + 100 * ms < max 0 (100 * ms + 1)
    ∧ (((synOf activeS { idleS with state := .failed, retryFrom := some 5 } {}).ch 0).synth 1).state = .failed
    ∧ (((synOf activeS { idleS with state := .failed, retryFrom := some 5 } {}).ch 0).synth 1).retryFrom = some 5
    ∧ 5 + ms ≤ max 0 (5 + ms) ∧ max 0 (4 + ms) < 5 + ms ∧ ((synOf activeS { idleS with state := .failed, retryFrom := some 5 } {}).ch 0).configured = true
    ∧ ((wound {}).ch 0).configured = false
    ∧ (((synOf { activeS with measOk := false } idleS {}).ch 0).synth 0).heldLocked = true ∧ (synOf { activeS with measOk := false } idleS {}).refOk 0 (isLane 0) = true
    ∧ (((synOf activeS { idleS with state := .stopping } {}).ch 0).synth 1).state = .stopping
    ∧ (((synOf activeS { idleS with state := .stopping } {}).ch 0).synth 1).waiting = none := by decide +kernel

theorem test_meets_SynthOutput : (synOf activeS idleS {}).gateCond 0 0 = true ∧ (((synOf activeS idleS {}).ch 0).synth 0).gate = false
    ∧ (synOf activeS idleS {}).gateCond 0 1 = false
    ∧ (synOf { activeS with gate := true, lock := false } idleS {}).gateCond 0 0 = false
    ∧ (((synOf { activeS with gate := true, lock := false } idleS {}).ch 0).synth 0).gate = true
    ∧ ((synOf { activeS with gate := true, lock := false } idleS {}).ch 0).syn.active false = 0
    ∧ ((wound (inSt .run)).ch 0).mod.state = .run ∧ ((wound (inSt .run)).ch 0).ply.dryAt = none ∧ ((wound (inSt .run)).ch 0).syn.active false = 0
    ∧ (((synOf activeS heldS { covered := true }).ch 0).synth 0).state = .active ∧ (synOf activeS heldS { covered := true }).refOk 0 (isLane 0) = true
    ∧ (((synOf activeS heldS { covered := true }).ch 0).synth 0).lock = true ∧ ((synOf activeS heldS { covered := true }).ch 0).syn.active (isLane 0) = 0
    ∧ (((synOf activeS heldS { covered := true }).ch 0).syn.pair (isLane 0)).covered = true
    ∧ (((synOf activeS heldS { covered := true }).ch 0).idl (isLane 0)).state = .idleLocked
    ∧ (((synOf activeS heldS { covered := true }).ch 0).idl (isLane 0)).lock = true
    ∧ (((synOf activeS heldS { covered := true }).ch 0).idl (isLane 0)).setting = (((synOf activeS heldS { covered := true }).ch 0).synth 0).setting
    ∧ (synOf activeS idleS {}).muxReady 0 false = false ∧ (synOf activeS heldS { pend := some false }).muxReady 0 false = true
    ∧ (((synOf activeS heldS { pend := some false }).ch 0).syn.pair false).failover = false
    ∧ (((synOf activeS heldS { pend := some false }).ch 0).syn.pair false).takeover = false
    ∧ (((synOf activeS heldS { pend := some false }).ch 0).syn.pair false).pend = some false
    ∧ (((synOf activeS heldS { pend := some false }).ch 0).act false).state = .active ∧ (((synOf activeS heldS { pend := some false }).ch 0).act false).tune ≠ .retune
    ∧ (synOf activeS heldS { failover := true }).muxReady 0 false = true
    ∧ (((synOf activeS heldS { failover := true }).ch 0).syn.pair false).failover = true
    ∧ (((synOf activeS heldS { failover := true }).ch 0).syn.pair false).failSecond = false
    ∧ (((synOf activeS heldS { failover := true }).ch 0).idl false).setting = (((synOf activeS heldS { failover := true }).ch 0).act false).setting
    ∧ (((synOf activeS idleS { failover := true, failAt := 5 }).ch 0).syn.pair false).failover = true
    ∧ (((synOf activeS idleS { failover := true, failAt := 5 }).ch 0).idl false).state = .off
    ∧ ((synOf activeS idleS { failover := true, failAt := 5 }).ch 0).mod.state = .rest
    ∧ (((synOf activeS idleS { failover := true, failAt := 5 }).ch 0).syn.pair false).failAt + 6 * us ≤ max 0 (5 + 6 * us)
    ∧ max 0 (4 + 6 * us) < (((synOf activeS idleS { failover := true, failAt := 5 }).ch 0).syn.pair false).failAt + 6 * us := by decide +kernel

/-- An active synthesizer that retunes. -/
def retuning : Synth := { activeS with state := .tune, tune := .retune, lock := false }

theorem test_meets_SynthOutput_lane : (((laneOf activeS heldS {}).modCh 0 fun x => x.putAligned 2 true).gateCond 0 2) = true
    ∧ (((laneOf activeS heldS {}).modCh 0 fun x => x.putAligned 2 false).gateCond 0 2) = false
    ∧ ((laneOf activeS heldS {}).ch 0).switchFirst (isLane 2) = false
    ∧ ((laneOf activeS heldS { pend := some false }).ch 0).switchFirst (isLane 2) = false
    ∧ ((laneOf activeS heldS { pend := some false, inLoss := true }).ch 0).switchFirst (isLane 2) = true
    ∧ (synOf retuning heldS { pend := some false, inLoss := true }).muxReady 0 false = true ∧ retuning.tune = .retune ∧ retuning.state = .tune
    ∧ (((synOf retuning heldS { pend := some false, inLoss := true }).ch 0).syn.pair false).inLoss = true
    ∧ (((synOf retuning heldS { pend := some false }).ch 0).syn.pair false).inLoss = false
    ∧ (((laneOf { activeS with gate := true } heldS {}).ch 0).synth 2).gate = true ∧ isLane 2 = true
    ∧ (((laneOf { activeS with follow := true } heldS {}).ch 0).synth 2).follow = true
    ∧ (((laneOf { activeS with follow := true } heldS {}).ch 0).synth 2).lock = true
    ∧ (laneOf { activeS with follow := true } heldS {}).refOk 0 (isLane 2) = true
    ∧ ((laneOf { activeS with follow := true } heldS {}).ch 0).syn.active (isLane 2) = 2
    ∧ (((synOf activeS heldS { covered := true }).ch 0).synth 0).follow = false := by decide +kernel

/-! ### Witnesses: the event fabric and time measurement -/

/-- Channel 0 whose every input is wired to junction 0 on all four places; junction 0 carried in cycle 0. -/
def wired (p n : Nat) (cmp : Word) : State :=
  wound { inSt .rest with
    trk := trk1001, skn := { state := .configured, image := { wiring := List.replicate 384 0x80 } }
    tdc := { units := Vector.replicate 4 { cfg := 5, state := .idle } }
    jnc := { carried := 1, carriedAt := some 0, pend := Vector.replicate 8 p, cnt := Vector.replicate 4 (BitVec.ofNat 32 n)
             cntCmp := Vector.replicate 4 cmp, atPos := #v[0x3E9800000, 0, 0, 0] } }

/-- A channel with the fabric of `wired`. -/
def wiredTo (x : Chan) : State :=
  let w := (wired 0 0 0).ch 0
  wound { x with skn := w.skn, jnc := w.jnc }

/-- Every level input has events, of four places. -/
theorem test_meets_FabricCarry_levels : (∀ p ∈ [0, 1, 2, 3, 4, 5, 6, 8, 9, 0x10], 0 < ((wiredTo playing0).ch 0).arrivals ((wiredTo playing0).atTime 1024).cycle p)
    ∧ (wiredTo playing0).fabricOn 0 = true ∧ ((wiredTo playing0).ch 0).latches = true
    ∧ (∀ r ∈ [Req.trig0, .trig1, .jmp 0, .jmp 1, .jmp 2, .jmp 3, .adv], ((wiredTo playing0).ch 0).seq.latch r = none
        ∧ (((wiredTo { playing0 with seq := (({} : Seq).setLatch r (some 5)) }).ch 0).seq.latch r ≠ none))
    ∧ ((wiredTo (inSt .rest)).ch 0).latches = false
    ∧ ((wiredTo { inSt .run with dst := { state := .waiting, latched := { cfg := 0x10101 } } }).ch 0).dst.state = .waiting
    ∧ ((wiredTo { inSt .run with dst := { state := .waiting, latched := { cfg := 0x10101 } } }).ch 0).dst.latched.startSrc = 1
    ∧ ((wiredTo (inSt .run)).ch 0).dst.state ≠ .waiting ∧ ((wiredTo (inSt .run)).ch 0).mod.state = .run ∧ (none : Option Nat) ≠ some 1
    ∧ (∀ st ∈ [DstState.waiting, .running, .paused, .idle, .halted, .refused], (((wiredTo (distaff st)).ch 0).dstTo (q16 1024)).dst.state = st)
    ∧ ((wiredTo { inSt .rest with ana := { stbCfg := 1 } }).ch 0).ana.src = 1 ∧ ((wiredTo { inSt .rest with ana := { stbCfg := 1 } }).ch 0).rangeState = true
    ∧ ((wiredTo (inSt .rest)).ch 0).ana.src ≠ 1 ∧ ((wiredTo (inSt .rest)).ch 0).ana.disableAt = none ∧ ((wiredTo (inSt .rest)).ch 0).ana.deferAt = none
    ∧ ((wiredTo (inSt .rest)).ch 0).ana.strobeAt = none ∧ ((wiredTo (inSt .rest)).ch 0).ana.lastTransfer = none
    ∧ (((wiredTo (distaff .running)).ch 0).dstTo (q16 1024)).dst.startCycle ≠ some ((wiredTo (distaff .running)).atTime 1024).cycle
    ∧ (((wiredTo (begunAt 1)).ch 0).dstTo (q16 1024)).dst.startCycle = some ((wiredTo (begunAt 1)).atTime 1024).cycle
    ∧ (((wiredTo (begunAt 1)).ch 0).dstTo (q16 1024)).dst.state = .running := by decide +kernel

/-- A Distaff that waits for the GO of its fabric. -/
def goInput : Chan :=
  let x := distaff .waiting
  { x with
    dst := { x.dst with latched := { cfg := 0x10101 } }
    jnc := ((wired 0 0 0).ch 0).jnc
    skn := { x.skn with image := { x.skn.image with wiring := List.replicate 384 0x80 } } }

theorem test_meets_FabricCarry_go : (wound goInput).fabricOn 0 = true ∧ 0 < goInput.arrivals ((wound goInput).atTime 1024).cycle 8
    ∧ goInput.dst.state = .waiting ∧ goInput.mod.state = .run ∧ goInput.dst.latched.startSrc = 1 ∧ goInput.dstCheck = 0
    ∧ goInput.dst.stopCycle ≠ some ((wound goInput).atTime 1024).cycle := by decide +kernel

theorem test_meets_lanesQuiet : lanesQuiet ((wired 0 0 0).ch 0) ∧ lanesQuiet ((synOf activeS idleS {}).ch 0)
    ∧ lanesQuiet ((wound (distaff .running)).ch 0) := ⟨⟨rfl, rfl⟩, ⟨rfl, rfl⟩, rfl, rfl⟩

theorem test_meets_FabricCarry : (wound {}).fabricOn 0 = false ∧ (wired 0 0 0).fabricOn 0 = true
    ∧ ((wired 0 0 0).ch 0).jnc.carriedAt = some ((wired 0 0 0).atTime 9).cycle
    ∧ ((wired 0 0 0).ch 0).jnc.tookIn ((wired 0 0 0).atTime 1024).cycle 4 = 0
    ∧ ({ cond := Vector.replicate 4 (some { since := 0, last := 0 }) } : DstCore).cond[(3 : Fin 4)] = some { since := 0, last := 0 }
    ∧ ((wired 0 0 0).ch 0).jnc.carriedAt ≠ some ((wired 0 0 0).atTime 1024).cycle ∧ ((wired 0 0 0).ch 0).skn.image.cells = []
    ∧ consumerCodes.contains 7 = false ∧ countableIndex 0xA = none ∧ ((wound (inSt .rest)).ch 0).arrivals 1 0xA = 0
    ∧ ((wired 11 0 0).ch 0).arrivals ((wired 11 0 0).atTime 1024).cycle 0x20 = 4 ∧ countableIndex 0x20 = some 4
    ∧ ((wired 11 0 0).ch 0).jnc.pend[(4 : Fin 8)] + 4 ≤ 15 ∧ 15 < ((wired 12 0 0).ch 0).jnc.pend[(4 : Fin 8)] + 4
    ∧ ((wired 0 0 0).ch 0).arrivals ((wired 0 0 0).atTime 1024).cycle 0xD = 4 ∧ ((wired 0 0 0).ch 0).dst.core.cond[(3 : Fin 4)] = none
    ∧ ((wired 0 0 0).ch 0).arrivals ((wired 0 0 0).atTime 1024).cycle 0x2F = 4 ∧ ((wired 0 0 0).ch 0).arrivals ((wired 0 0 0).atTime 1024).cycle 0x30 = 4
    ∧ ((wired 0 0 0).ch 0).jnc.genCycle ≠ some ((wired 0 0 0).atTime 1024).cycle
    ∧ ((wired 0 0 0).ch 0).jnc.pend[(7 : Fin 8)] = 0 ∧ ((wired 1 0 0).ch 0).jnc.pend[(7 : Fin 8)] ≠ 0
    ∧ ((wired 1 0 0).ch 0).jnc.lastTake[(7 : Fin 8)] ≠ some ((wired 1 0 0).atTime 1024).cycle
    ∧ fld ((wired 1 0 0).ch 0).jnc.cntCmp[(3 : Fin 4)] 0 32 = 0
    ∧ (((wired 1 6 7).ch 0).jnc.cnt[(3 : Fin 4)] + 1).toNat = fld ((wired 1 6 7).ch 0).jnc.cntCmp[(3 : Fin 4)] 0 32
    ∧ fld ((wired 1 6 7).ch 0).jnc.cntCmp[(3 : Fin 4)] 0 32 ≠ 0
    ∧ (wired 1 0 0).tdcOn 0 = true ∧ (((wired 1 0 0).ch 0).tun 3).state = .idle ∧ (((wired 1 0 0).ch 0).tun 3).byArm = true
    ∧ (((wired 1 0 0).ch 0).tun 3).mode ≠ 0 := by decide +kernel

/-- The same in the cycle of an abort of every unit; and after a count to its comparison in cycle 0. -/
def wiredAbort : State :=
  wound { (wired 1 0 0).ch 0 with tdc := { units := Vector.replicate 4 { cfg := 5, abortCycle := some 1 } } }
def wiredHit : State :=
  wound { (wired 0 7 7).ch 0 with jnc := { ((wired 0 7 7).ch 0).jnc with
    lastInc := Vector.replicate 4 (some 0), hitCycle := some 0, incHit := setBit 0 2 } }

theorem test_meets_FabricCarry_abort : wiredAbort.fabricOn 0 = true ∧ 0 < (wiredAbort.ch 0).arrivals (wiredAbort.atTime 1024).cycle 0x18
    ∧ countableIndex 0x18 = some 0 ∧ (wiredAbort.ch 0).refusesArm (wiredAbort.atTime 1024).cycle 0 = true
    ∧ ((wired 1 0 0).ch 0).refusesArm ((wired 1 0 0).atTime 1024).cycle 0 = false
    ∧ 0 < ((wired 1 0 0).ch 0).arrivals ((wired 1 0 0).atTime 1024).cycle 0x18
    ∧ (((wired 1 0 0).ch 0).tun 3).cfgCycle ≠ some ((wired 1 0 0).atTime 1024).cycle := by decide +kernel

theorem test_meets_JunctionControls_hit : wiredHit.windowUp = true ∧ (wiredHit.ch 0).jnc.lastInc[(2 : Fin 4)] = some (wiredHit.atTime 9).cycle
    ∧ (wiredHit.ch 0).jnc.hitCycle = some (wiredHit.atTime 9).cycle ∧ (wiredHit.ch 0).jnc.hitOld = false
    ∧ (wiredHit.ch 0).jnc.incHit = setBit 0 2 ∧ (BitVec.ofNat 32 (7 : Word).toNat + 1).toNat ≠ fld (wiredHit.ch 0).jnc.cntCmp[(2 : Fin 4)] 0 32
    ∧ fld ((wired 0 0 0).ch 0).jnc.cntCmp[(2 : Fin 4)] 0 32 = 0 ∧ ((wired 0 0 0).ch 0).jnc.hitCycle ≠ some 0
    ∧ bit (wiredHit.ch 0).jnc.incHit 0 = false := by decide +kernel

theorem test_meets_JunctionControls : (wired 0 0 0).windowUp = true ∧ (wired 0 0 0).fabricOn 0 = true ∧ (wound {}).fabricOn 0 = false
    ∧ (wound {}).windowUp = true ∧ bit (1 : BitVec 4) 0 = true ∧ bit (1 : BitVec 4) 3 = false
    ∧ ((wired 0 0 0).ch 0).trk.future (max 0 5002560) ((wired 0 0 0).ch 0).jnc.atPos[(0 : Fin 4)] = true
    ∧ ((wired 0 0 0).ch 0).trk.future (max 0 5002560) ((wired 0 0 0).ch 0).jnc.atPos[(1 : Fin 4)] = false
    ∧ ((wired 0 0 0).ch 0).jnc.lastInc[(0 : Fin 4)] ≠ some ((wired 0 0 0).atTime 9).cycle
    ∧ ((wound { inSt .rest with jnc := { lastInc := Vector.replicate 4 (some 0) } }).ch 0).jnc.lastInc[(0 : Fin 4)]
        = some ((wound { inSt .rest with jnc := { lastInc := Vector.replicate 4 (some 0) } }).atTime 9).cycle
    ∧ ((wired 0 0 0).ch 0).jnc.genCycle ≠ some ((wired 0 0 0).atTime 9).cycle
    ∧ ((wired 0 0 0).ch 0).jnc.carriedAt = some ((wired 0 0 0).atTime 9).cycle ∧ ((wired 0 0 0).ch 0).jnc.carriedAt ≠ some ((wired 0 0 0).atTime 1024).cycle := by decide +kernel

/-- Channel 0 with timing input 0 and unit 0 as given. -/
def timing (i : TdcIn) (u : TdcUnit) : State :=
  wound { inSt .rest with tdc := { ins := (Vector.replicate 4 {}).set 0 i, units := (Vector.replicate 4 {}).set 0 u } }

/-- The same with a tracker stopped since instant 0 at position 0, period 2,560. -/
def timingPos (i : TdcIn) (u : TdcUnit) : State :=
  wound { inSt .rest with
    trk := { state := .stopped, hist := [{ e := 0, pos := 0, stop := some (2560 * 65536, 5) }] }
    tdc := { ins := (Vector.replicate 4 {}).set 0 i, units := (Vector.replicate 4 {}).set 0 u } }

/-- Rising edges, hold-off 1,280 tbu. -/
def rises (l : Option Int) : TdcIn := { cfg := 0x140001, last := l }

theorem test_meets_Stamps : (wound {}).tdcOn 0 = false ∧ (((timing (rises none) {}).ch 0).tin 0).qualifies false = false
    ∧ (timing (rises none) {}).tdcOn 0 = true ∧ (((timing (rises none) {}).ch 0).tin 0).qualifies true = true
    ∧ (((timing (rises (some 5)) {}).ch 0).tin 0).last = some 5 ∧ ((max 0 644 : Nat) : Int) - 5 < 640
    ∧ 640 ≤ ((max 0 645 : Nat) : Int) - 5 ∧ ((max 0 1284 : Nat) : Int) - 5 < (((timing (rises (some 5)) {}).ch 0).tin 0).holdoff
    ∧ ((((timing (rises (some 5)) {}).ch 0).tin 0).holdoff : Int) ≤ ((max 0 1285 : Nat) : Int) - 5
    ∧ (((timing (rises none) {}).ch 0).tin 0).conv = []
    ∧ (∀ j : Fin 4, (((timingPos { cfg := 0x41, conv := [{ t := 9 }] } {}).ch 0).tin j).conv = if j = 0 then [{ t := 9 }] else [])
    ∧ (((timingPos { cfg := 0x41, conv := [{ t := 9 }] } {}).ch 0).trk.convert { t := 9 } (max 0 9)).isSome = true
    ∧ ((((timingPos { cfg := 0x41, conv := [{ t := 9 }] } {}).ch 0).trk.convert { t := 9 } (max 0 9)).getD (none, 0)).1.isSome = true
    ∧ (((timingPos { cfg := 0x41, conv := [{ t := 9 }] } {}).ch 0).tin 0).winEn = true
    ∧ (((timingPos { cfg := 0x41, conv := [{ t := 9 }] } {}).ch 0).tin 0).inWindow (((((timingPos { cfg := 0x41, conv := [{ t := 9 }] } {}).ch 0).trk.convert { t := 9 } (max 0 9)).getD (none, 0)).1.getD 0) = false
    ∧ ((timing {} { cfg := 1, state := .waiting }).ch 0).trk.convert { t := 9, nopos := true, admitted := true } (max 0 9) = some (none, 9)
    ∧ (∀ j : Fin 4, (((timing {} { cfg := 1, state := .waiting }).ch 0).tun j).gateEnd = none
        ∧ ((((timing {} { cfg := 1, state := .waiting }).ch 0).tun j).mode = 0 ∨ j = 0))
    ∧ (((timing {} { cfg := 1, state := .waiting }).ch 0).tun 0).mode = 1 ∧ (((timing {} { cfg := 1, state := .waiting }).ch 0).tun 0).byArm = false
    ∧ (((timing {} { cfg := 1, state := .waiting }).ch 0).tun 0).state = .waiting ∧ (((timing {} { cfg := 1, state := .waiting }).ch 0).tun 0).fifo.length < 512
    ∧ (((timing {} { cfg := 1, state := .waiting }).ch 0).tun 0).gap = false
    ∧ (((timing { publish := [{ t := 9, pubAt := 9 }] } {}).ch 0).tin 0).publish = [{ t := 9, pubAt := 9 }]
    ∧ (9 : Int) ≤ ((max 0 9 : Nat) : Int) ∧ (((timing { publish := [{ t := 9, pubAt := 9 }] } {}).ch 0).tin 0).lastPub = none
    ∧ (((timing (rises none) {}).ch 0).tin 0).conv.Pairwise (fun y z => y.t ≤ z.t) := by decide +kernel

theorem test_meets_TdcControls : (timing {} {}).windowUp = true ∧ bit (5 : BitVec 4) 0 = true ∧ bit (5 : BitVec 4) 3 = false
    ∧ (((timing {} { cfg := 5, state := .measuring }).ch 0).tun 0).state = .measuring ∧ bit ((timing {} {}).ch 0).tdc.dumpCfg 0 = false
    ∧ bit ((wound { inSt .rest with tdc := { dumpCfg := 1 } }).ch 0).tdc.dumpCfg 0 = true ∧ (((timing {} {}).ch 0).tun 0).state ≠ .suspended := by
  decide +kernel

theorem test_meets_TdcControls_abort : ((timing {} {}).ch 0).refusesArm ((timing {} {}).atTime 9).cycle 0 = false
    ∧ (((timing {} { cfg := 5, state := .suspended }).ch 0).tun 0).state = .suspended
    ∧ (((timing {} { cfg := 1, state := .waiting }).ch 0).tun 0).armAt ≤ (9 : Int) := by decide +kernel

/-- A stamp unit waiting by ARM since instant 0; an interval unit that has its start; a frequency unit with one stamp. -/
def waits : TdcUnit := { cfg := 5, state := .waiting }
def starts : TdcUnit := { cfg := 2, state := .measuring, start := some { t := 5 } }
def gates (e : Option Bool) (l : List Stamp) : TdcUnit := { cfg := 3, state := .measuring, stamps := l, gateEnd := e }

theorem test_meets_TimeoutsAndFrequency : (((timing {} {}).ch 0).tun 0).deadline = none
    ∧ (((timing {} waits).ch 0).tun 0).deadline = some 512000000 ∧ ((max 0 511999999 : Nat) : Int) < 512000000
    ∧ (512000000 : Int) ≤ ((max 0 512000000 : Nat) : Int) ∧ ((timing {} waits).ch 0).awaits 0 512000000 false = false
    ∧ (((timing {} waits).ch 0).tun 0).mode = 1
    ∧ (((timing {} starts).ch 0).tun 0).deadline = some 512000005 ∧ ((timing {} starts).ch 0).awaits 0 512000005 false = false
    ∧ (((timing {} starts).ch 0).tun 0).mode = 2 ∧ (((timing {} starts).ch 0).tun 0).start = some { t := 5 }
    ∧ (((timing {} starts).ch 0).tun 0).fifo.length < 512 ∧ (((timing {} starts).ch 0).tun 0).gap = false
    ∧ (((timing {} (gates none [{ t := 5 }])).ch 0).tun 0).mode = 3 ∧ (((timing {} (gates none [{ t := 5 }])).ch 0).tun 0).state = .measuring
    ∧ (((timing {} (gates none [{ t := 5 }])).ch 0).tun 0).gateEnd = none
    ∧ (((timing {} (gates none [{ t := 5 }])).ch 0).tun 0).stamps.getLast? = some { t := 5 }
    ∧ ((max 0 512000004 : Nat) : Int) < 5 + (((timing {} (gates none [{ t := 5 }])).ch 0).tun 0).gateTbu
    ∧ 5 + ((((timing {} (gates none [{ t := 5 }])).ch 0).tun 0).gateTbu : Int) ≤ ((max 0 512000005 : Nat) : Int)
    ∧ ((timing {} (gates none [{ t := 5 }])).ch 0).awaits 0 512000005 true = false
    ∧ (((timing {} (gates (some false) [{ t := 5 }])).ch 0).tun 0).gateEnd ≠ none ∧ (((timing {} (gates (some false) [{ t := 5 }, { t := 0 }])).ch 0).tun 0).stamps.length < 3
    ∧ 3 ≤ (((timing {} (gates (some false) [{ t := 20 }, { t := 10 }, { t := 0 }])).ch 0).tun 0).stamps.length
    ∧ (regress ((((timing {} (gates (some false) [{ t := 20 }, { t := 10 }, { t := 0 }])).ch 0).tun 0).stamps.reverse.map (·.t))).per < 2 ^ 64 := by decide +kernel

/-- A record in the FIFO of unit 0, dumped; the ring holds `n` records. -/
def dumping (n : BitVec 32) : State :=
  wound { inSt .rest with tdc := { units := (Vector.replicate 4 {}).set 0 { cfg := 1, fifo := [{ w0 := 1, w1 := 2, w2 := 3 }] }, dumpCfg := 1, dumpWr := n } }

theorem test_meets_MeasurementDump : (timing {} {}).windowUp = true ∧ fld ((timing {} {}).ch 0).tdc.dumpCfg 0 4 = 0 ∧ fld (1 : Word) 0 4 ≠ 0
    ∧ fld ((dumping 0).ch 0).tdc.dumpCfg 0 4 ≠ 0 ∧ (((timing {} {}).ch 0).tun 0).fifo = []
    ∧ (((dumping 0).ch 0).tun 0).fifo = [{ w0 := 1, w1 := 2, w2 := 3 }] ∧ bit ((dumping 0).ch 0).tdc.dumpCfg 0 = true
    ∧ (((dumping 128).ch 0).tdc.dumpWr - ((dumping 128).ch 0).tdc.dumpRd).toNat = ((dumping 128).ch 0).tdc.slots
    ∧ (((dumping 127).ch 0).tdc.dumpWr - ((dumping 127).ch 0).tdc.dumpRd).toNat ≠ ((dumping 127).ch 0).tdc.slots
    ∧ Memory.wf ((dumping 127).ch 0).mem.data = true := by decide +kernel

/-! ### Witnesses: the bobbin store and the creel -/

/-- Channel 0 in a state with the creel and bobbin store given. -/
def memIn (st : ChState) (m : Mem) : State := wound { inSt st with mem := m }
def memOf (m : Mem) : State := memIn .rest m

def blackout : GradeChange := { grade := 1, toll := false, phase := .blackout }

/-- A held write of one word at offset 8. -/
def heldW : HeldAcc := { src := .row, write := true, off := 8, len := 8, data := [5] }

theorem test_meets_BobbinStore : (memOf { bobCfg := 1 }).windowUp = true ∧ (0x47FFFF8 : BitVec 27).toNat / 4096 < 18432
    ∧ winAligned 4 8 = false ∧ winAligned 4088 8 = true ∧ winAligned 4088 16 = false ∧ ((memOf { bobCfg := 1 }).ch 0).mem.winHolds 4096 = false
    ∧ ((memOf { bobCfg := 1 }).ch 0).mem.pin ≤ 4096 / 4096 ∧ 4088 / 4096 < ((memOf { bobCfg := 1 }).ch 0).mem.pin
    ∧ ((memOf { bobCfg := 1 }).ch 0).mem.winHolds 4088 = false ∧ ((memOf { bobCfg := 1, pinLoad := true }).ch 0).mem.winHolds 4088 = true
    ∧ Memory.wf ((memOf { bobCfg := 1 }).ch 0).mem.data = true ∧ (memOf { bobCfg := 1 }).hp.reqs = [] ∧ ((memOf { bobCfg := 1 }).ch 0).mem.winHeld = []
    ∧ ((memIn .run {}).ch 0).mod.state ≠ .rest ∧ ((memOf { bobCfg := 1 }).ch 0).mod.state = .rest
    ∧ ((memOf { bobCfg := 1 }).ch 0).mem.pin ≤ ((memOf { bobCfg := 1, pinLoad := true, pinNext := 1, winHeld := [heldW] }).ch 0).mem.pinNext ∧ (memOf { bobCfg := 1, pinLoad := true, pinNext := 1, winHeld := [heldW] }).hp.unlacked = []
    ∧ ((memOf { bobCfg := 1, pinLoad := true, pinNext := 1, winHeld := [heldW] }).ch 0).mem.isLoading .pin = false
    ∧ ((memOf { bobCfg := 1, pinLoad := true }).ch 0).mem.pinNext < ((memOf { bobCfg := 1, pinLoad := true }).ch 0).mem.pin
    ∧ ((memOf {}).ch 0).mem.pinLoad = false ∧ ((memOf { bobCfg := 1, pinLoad := true, pinNext := 1, winHeld := [heldW] }).ch 0).mem.pinLoad = true
    ∧ ((memOf { bobCfg := 1, pinLoad := true, pinNext := 1, winHeld := [heldW] }).ch 0).mem.winHeld = [heldW]
    ∧ heldW.src = .row ∧ heldW.write = true ∧ winAligned heldW.off heldW.len = true
    ∧ ((memOf { bobCfg := 1, pinLoad := true, pinNext := 1, winHeld := [heldW] }).ch 0).mem.bobLostAt = none
    ∧ heldW.off / 4096 < ((memOf { bobCfg := 1, pinLoad := true, pinNext := 1, winHeld := [heldW] }).ch 0).mem.pin
    ∧ ((memOf { holding := true, heads := [[7]], cache := [{ slot := 0, line := 7, held := false, used := 0 }] }).ch 0).mem.holding = true
    ∧ ((memOf { holding := true, heads := [[7]], cache := [{ slot := 0, line := 7, held := false, used := 0 }] }).ch 0).mem.cacheFull = false
    ∧ ((memOf { holding := true, heads := [[7]], cache := [{ slot := 0, line := 7, held := false, used := 0 }] }).ch 0).mem.headFits [7] = true
    ∧ (∀ l ∈ ([7] : List Nat), ((memOf { holding := true, heads := [[7]], cache := [{ slot := 0, line := 7, held := false, used := 0 }] }).ch 0).mem.present l = true)
    ∧ ((memOf { bobCfg := 17920, holding := true, heads := [upTo 385] }).ch 0).mem.holding = true
    ∧ ((memOf { bobCfg := 17920, holding := true, heads := [upTo 385] }).ch 0).mem.cacheFull = false
    ∧ ((memOf { bobCfg := 17920, holding := true, heads := [upTo 385] }).ch 0).mem.headFits (upTo 385) = false
    ∧ ((memOf { bobCfg := 17920, holding := true, heads := [upTo 384] }).ch 0).mem.headFits (upTo 384) = true
    ∧ ((memOf { degraded := true }).ch 0).mem.degraded = true ∧ ((memOf {}).ch 0).mem.bobLostAt = none ∧ ((memOf {}).ch 0).mem.degraded = false
    ∧ ((wound playing0).ch 0).mod.state = .run ∧ ((wound playing0).ch 0).seq.playing = true ∧ ((wound playing0).ch 0).mem.bobLostAt = none
    ∧ ((memOf {}).ch 0).mem.parityAt[(1 : Fin 2)].filter (fun p => decide (max 0 9 ≤ p + us)) = []
    ∧ ((memOf { parityAt := Vector.replicate 2 [5, 5, 5] }).ch 0).mem.parityAt[(1 : Fin 2)].filter (fun p => decide (max 0 (5 + us) ≤ p + us)) = [5, 5, 5]
    ∧ (((memOf { parityAt := Vector.replicate 2 [5, 5, 5] }).ch 0).mem.parityAt[(1 : Fin 2)].filter (fun p => decide (max 0 (6 + us) ≤ p + us))).length < 3
    ∧ BobLoss.noData ≠ .parityError 9
    ∧ ((memOf { bobLostAt := some 5 }).ch 0).mem.bobLostAt = some 5 ∧ ((memOf { bobLostAt := some 5 }).ch 0).mem.retired = 0
    ∧ ((memOf { bobLostAt := some 5 }).ch 0).mem.winHeld = [] ∧ (memOf { bobLostAt := some 5 }).hp.unlacked = []
    ∧ ((memOf { bobLostAt := some 5, change := some blackout }).ch 0).mem.inBlackout = true
    ∧ ((memOf { bobLostAt := some 5, degraded := true, bobInRun := true }).ch 0).mem.inBlackout = false
    ∧ ((memOf { bobLostAt := some 5, degraded := true, bobInRun := true }).ch 0).mem.degraded = true
    ∧ ((memOf { bobLostAt := some 5, degraded := true, bobInRun := true }).ch 0).mem.bobSecond = false
    ∧ ((memOf { bobLostAt := some 5, degraded := true, bobInRun := true }).ch 0).mem.bobInRun = true
    ∧ ((memOf { bobLostAt := some 5, degraded := true }).ch 0).mem.bobInRun = false
    ∧ ((wound playing0).ch 0).ply.frozen = false ∧ ({ frozen := true, wav := .zero } : Ply).frozen = true
    ∧ ({ frozen := true, wav := .zero } : Ply).wav = .zero ∧ ({ frozen := true, wav := .hold } : Ply).wav ≠ .zero := by decide +kernel

/-- A read of byte 64 that arrived at instant 5. -/
def readReq : CreelReq := { port := 0, write := false, addr := 64, arrived := 5 }
def refresh (w : ExcuseWhy) : Excusal := { dev := 0, bank := some 3, since := 5, why := w }

/-- One read waiting, device 0 retired; device 0 excused since instant 5 for bank 3. -/
def readWaits : State := memOf { reqs := [readReq], retired := 1 }
def readGoing : State := memOf { inflight := [readReq] }
def out0 (w : ExcuseWhy) : State := memOf { excused := [refresh w] }

theorem test_meets_CreelController_feed : (readWaits.ch 0).feedCreel (readWaits.atTime 9).cycle (max readWaits.now 9) = readWaits.ch 0 := by
  decide +kernel

theorem test_meets_CreelController : ((memOf { change := some blackout }).ch 0).mem.inBlackout = true
    ∧ (readWaits.ch 0).mod.state ≠ .drain ∧ (readWaits.ch 0).mem.change = none ∧ (readWaits.ch 0).mem.nrefQ = Vector.replicate 8 []
    ∧ (readWaits.ch 0).mem.reqs = [readReq] ∧ readReq.write = false
    ∧ bit (0xFFFFFFFF : BitVec 32) ((readWaits.ch 0).skn.image.creelAt readReq.addr).index = true ∧ (readWaits.ch 0).mem.creel ≠ .lost
    ∧ ((readWaits.ch 0).mem.missing readReq.addr ((readWaits.ch 0).skn.image.creelAt readReq.addr).index).length = 1
    ∧ (readGoing.ch 0).mem.inflight = [readReq] ∧ readReq.use ≠ .copy ∧ (readGoing.ch 0).mem.isLoading readReq.use = false
    ∧ (readGoing.ch 0).mem.target 0 ≤ max 0 (5 + 256000) - readReq.arrived
    ∧ ¬(readGoing.ch 0).mem.target 0 ≤ max 0 (4 + 256000) - readReq.arrived
    ∧ ((memOf {}).ch 0).mem.mayExcuse 4 (some 31) = true ∧ ((memOf {}).ch 0).mem.inBlackout = false
    ∧ bit ((memOf {}).ch 0).mem.retired 4 = false ∧ bit (readWaits.ch 0).mem.retired 0 = true
    ∧ ((out0 .refresh).ch 0).mem.mayExcuse 1 (some 3) = false ∧ (refresh .refresh).dev = 0
    ∧ (∀ e ∈ ((out0 .verify).ch 0).mem.excused, e.dev = 0 → e.why = .verify)
    ∧ ((out0 .refresh).ch 0).mem.excused = [refresh .refresh] ∧ ((out0 .refresh).ch 0).mem.waiting = []
    ∧ (refresh .refresh).why ≠ .verify ∧ (refresh .refresh).why ≠ .neighbour
    ∧ max 0 (5 + 2 * us) ≤ (refresh .refresh).since + 2 * us ∧ (refresh .refresh).since + 2 * us < max 0 (6 + 2 * us)
    ∧ ((out0 .refresh).ch 0).mem.creel = .normal ∧ ((out0 .refresh).ch 0).mem.degraded = false ∧ ((out0 .refresh).ch 0).flt.degraded = false
    ∧ ((wound { (out0 .verify).ch 0 with flt := { dofferLost := true } }).ch 0).flt.dofferLost = true
    ∧ ((out0 .verify).ch 0).mem.excused = [refresh .verify] ∧ ((out0 .verify).ch 0).flt.dofferLost = false
    ∧ (memOf {}).creelRuns = true ∧ readWaits.creelRuns = true ∧ (modeWith .holdup {}).creelRuns = false := by decide +kernel

/-- A copy of 64 bytes from 0 to 64; a Doffer with a service running or waiting. -/
def copyRegs : Mem := { svcDst := 64, svcLen := 64 }
def doffing (m : Mem) (q : List Service) (r : Option Service) (g : Bool) : State :=
  wound { inSt (if g then .trim else .rest) with mem := m, dof := { queue := q, running := r }, tlh := { granted := g } }

/-- Every grade permitted. -/
def permitting : Mem := { cfg := 0x70000640C00 }

/-- A burst of a copy on its way, and what was found of every device at every grade: eyes of 12 steps. -/
def copyReq : CreelReq := { port := 2, write := false, addr := 0, arrived := 5, use := .copy }
def eyes (w : Byte) : EyeReport :=
  { read := Vector.replicate 8 { left := 100, right := 100 + w }, write := Vector.replicate 8 { left := 80, right := 120 }, vref := 50, edges := true }
def goodEyes : List EyeReport := List.replicate 15 (eyes 12)

theorem test_meets_CreelServices_bursts : ((doffing {} [] (some (.fill 0 128 1)) false).ch 0).mod.state ≠ .drain
    ∧ Memory.wf ((doffing {} [] (some (.fill 0 128 1)) false).ch 0).mem.data = true ∧ ((doffing {} [] (some (.fill 0 128 1)) false).ch 0).stq.staged = []
    ∧ ((doffing {} [] (some (.fill 0 128 1)) false).ch 0).mem.dofferBusy = false
    ∧ ((doffing {} [] (some (.fill 0 128 1)) false).ch 0).dof.running = some (.fill 0 128 1)
    ∧ ((doffing { svcAt := 64 } [] (some (.copy 0 256 128)) false).ch 0).mem.svcAt < 128
    ∧ ((doffing { svcAt := 64 } [] (some (.copy 0 256 128)) false).ch 0).dof.running = some (.copy 0 256 128)
    ∧ ((doffing { svcAt := 64, inflight := [copyReq] } [] (some (.copy 0 256 128)) false).ch 0).mem.inflight = [copyReq] ∧ copyReq.use = .copy
    ∧ ((doffing { svcAt := 64, inflight := [copyReq] } [] (some (.copy 0 256 128)) false).ch 0).mem.creel ≠ .lost
    ∧ (doffing {} [] (some (.fill 0 128 1)) false).creelRuns = true := by decide +kernel

theorem test_meets_CreelServices : (memOf copyRegs).windowUp = true ∧ ((wound {}).ch 0).configured = false
    ∧ ((memOf {}).ch 0).svcTest 1 ≠ 0 ∧ ((memOf copyRegs).ch 0).svcTest 1 = 0 ∧ ((memOf copyRegs).ch 0).svcTest 2 = 0
    ∧ ((memOf {}).ch 0).svcTest 2 ≠ 0 ∧ ((memOf {}).ch 0).svcTest 3 = 0 ∧ ((memIn .run {}).ch 0).svcTest 3 ≠ 0
    ∧ ((memOf {}).ch 0).dof.queue = [] ∧ ((doffing {} [.fill 0 64 1] none false).ch 0).dof.queue = [.fill 0 64 1]
    ∧ (Service.fill 0 64 1).inTrim = false ∧ ((doffing {} [.train false] none false).ch 0).dof.queue = [.train false]
    ∧ (Service.train false).inTrim = true ∧ ((doffing {} [.train false] none false).ch 0).dof.running = none
    ∧ ((doffing {} [.train false] none false).ch 0).dof.restarting = false ∧ ((doffing {} [.train false] none false).ch 0).flt.dofferLost = false
    ∧ ((doffing {} [.train false] none false).ch 0).configured = true ∧ (doffing {} [.train false] none false).working = true
    ∧ ((doffing {} [.train false] none false).ch 0).mod.state = .rest ∧ ((doffing {} [.train false] none false).ch 0).seq.checking = false
    ∧ ((doffing { svcAt := 64 } [] (some (.copy 0 64 64)) false).ch 0).dof.running = some (.copy 0 64 64)
    ∧ 64 ≤ ((doffing { svcAt := 64 } [] (some (.copy 0 64 64)) false).ch 0).mem.svcAt
    ∧ ((doffing { svcAt := 64 } [] (some (.copy 0 64 64)) false).ch 0).mem.dofferBusy = false
    ∧ (Service.fill 0 64 1).bytes = 64 ∧ ((doffing { svcAt := 63 } [] (some (.fill 0 64 1)) false).ch 0).mem.svcAt < (Service.fill 0 64 1).bytes
    ∧ ((doffing { svcAt := 64 } [] (some (.fill 0 64 1)) false).ch 0).dof.running = some (.fill 0 64 1)
    ∧ ((doffing { inflight := [copyReq] } [] (some (.copy 0 64 64)) false).ch 0).mem.dofferBusy = true
    ∧ ((doffing permitting [] (some (.train true)) false).ch 0).tlh.granted = false
    ∧ ((doffing permitting [] (some (.train true)) true).ch 0).dof.running = some (.train true)
    ∧ ((doffing permitting [] (some (.train true)) true).ch 0).tlh.granted = true
    ∧ ((doffing permitting [] (some (.train true)) true).ch 0).mem.failEvery #v[0, 0, 31] goodEyes = []
    ∧ ((doffing permitting [] (some (.train true)) true).ch 0).mem.creel ≠ .lost
    ∧ ((doffing permitting [] (some (.train true)) true).ch 0).mem.trainsAt #v[0, 0, 31] goodEyes 2 = true
    ∧ ((doffing permitting [] (some (.train true)) true).ch 0).dof.queue.any Service.isRestore = false
    ∧ ((doffing permitting [] (some (.train true)) true).ch 0).mem.permits 0 = true := by decide +kernel

/-- Trained, with a visit, a grade change and visits due as given. -/
def visiting (v : Option Visit) (g : Option GradeChange) (post : List (Fin 5)) : State :=
  memOf { train := .ready, trained := 7, cfg := 0x70000640C00, visit := v, change := g, postVisits := post, blackoutEnd := some 5, postAt := some 9 }

def visitAt (n : Nat) (r : Bool) : Visit := { dev := 2, pauses := n, rescue := r, pauseAt := if n = 0 then none else some 9 }

/-- A visit on device 2, its window not yet full, full, or a rescue; another device out of service; a device that failed to verify. -/
def visitS (n : Nat) (r : Bool) : State := visiting (some (visitAt n r)) none []
def visitBusy : State := memOf { visit := some (visitAt 3 false), excused := [{ dev := 0, bank := none, since := 5, why := .pause }] }

theorem test_meets_TrainingAndGrades_visits : ((memOf {}).ch 0).mayVisit = false ∧ ((visiting none none []).ch 0).mayVisit = true
    ∧ max 0 (100 * ms - 1) < ((visiting none none []).ch 0).mem.visitAt + min 500 (max 20 (fld ((visiting none none []).ch 0).mem.cfg 16 16)) * ms
    ∧ ((visiting none none []).ch 0).mem.visitAt + min 500 (max 20 (fld ((visiting none none []).ch 0).mem.cfg 16 16)) * ms ≤ max 0 (100 * ms)
    ∧ ((visiting none none []).ch 0).mem.postVisits = [] ∧ ((visiting none none []).ch 0).mem.nextLive ((visiting none none []).ch 0).mem.nextDev = some 0
    ∧ ((visiting none none [4]).ch 0).mem.postVisits = [4] ∧ ((visiting none none [4]).ch 0).mayVisit = true
    ∧ ((visiting none none [4]).ch 0).mem.postAt = some 9 ∧ max 0 8 < 9 ∧ (∀ b ∈ ((visiting none none [4]).ch 0).mem.postAt, b ≤ max 0 9)
    ∧ ((visiting none none []).ch 0).mem.visit = none ∧ ((visitS 3 false).ch 0).mem.visit = some (visitAt 3 false)
    ∧ ((visitS 3 false).ch 0).mem.pausing (visitAt 3 false).dev = false ∧ (visitAt 3 false).pauseAt = some 9 ∧ max 0 (8 + 50 * us) < 9 + 50 * us
    ∧ (visitAt 3 false).pauses < (if (visitAt 3 false).rescue then 16 else 4) ∧ (visitAt 15 true).pauses < (if (visitAt 15 true).rescue then 16 else 4)
    ∧ ((visitS 3 false).ch 0).mem.preparing = false ∧ ((visitS 3 false).ch 0).mem.verifying (visitAt 3 false).dev = false
    ∧ (∀ p ∈ (visitAt 3 false).pauseAt, p + 50 * us ≤ max 0 (9 + 50 * us)) ∧ ((visitS 3 false).ch 0).mem.mayExcuse (visitAt 3 false).dev none = true
    ∧ (visitBusy.ch 0).mem.visit = some (visitAt 3 false) ∧ (visitBusy.ch 0).mem.pausing 2 = false ∧ (visitBusy.ch 0).mem.preparing = false
    ∧ (visitBusy.ch 0).mem.verifying 2 = false ∧ (visitBusy.ch 0).mem.mayExcuse 2 none = false
    ∧ (visitAt 4 false).pauses = 4 ∧ (visitAt 4 false).rescue = false ∧ ((visitS 4 false).ch 0).mem.pausing 2 = false
    ∧ ((visiting (some (visitAt 4 false)) (some { grade := 1, toll := false }) []).ch 0).mem.change ≠ none
    ∧ ((visitS 4 false).ch 0).mem.change = none ∧ ((visitS 4 false).ch 0).mem.eyesOk (eyes 11) = false
    ∧ ((visitS 4 false).ch 0).mem.eyesOk (eyes 12) = true ∧ (eyes 12).edges = true
    ∧ (visitAt 1 true).rescue = true ∧ (visitAt 1 true).pauses ≠ 0 ∧ ((visitS 1 true).ch 0).mem.rescues = []
    ∧ ((visitS 1 true).ch 0).mem.waiting = [] ∧ ((visitS 1 true).ch 0).mem.eyesOk (eyes 12) = true
    ∧ (visiting none none []).creelRuns = true ∧ (modeWith .vaulted {}).creelRuns = false := by decide +kernel

theorem test_meets_TrainingAndGrades_speed : (visiting none none []).windowUp = true ∧ ((visiting none none []).ch 0).speedTest 0 ≠ 0
    ∧ ((visiting none none []).ch 0).speedTest 2 = 0 ∧ ((visiting none none []).ch 0).mem.preparing = false
    ∧ ((visiting none none []).ch 0).mem.change = none
    ∧ ((visiting (some (visitAt 1 true)) (some { grade := 1, toll := false }) []).ch 0).mem.change = some { grade := 1, toll := false }
    ∧ (∀ v ∈ ((visiting (some (visitAt 1 true)) (some { grade := 1, toll := false }) []).ch 0).mem.visit, v.rescue = true)
    ∧ (∀ b ∈ ((visiting none none []).ch 0).mem.blackoutEnd, b + ms ≤ max 0 (5 + ms))
    ∧ ((visiting none (some { grade := 1, toll := false, phase := .prepare }) []).ch 0).mem.change = some { grade := 1, toll := false, phase := .prepare }
    ∧ ((visiting none (some { grade := 1, toll := false, phase := .prepare }) []).ch 0).mem.excused = []
    ∧ (∀ d : Fin 5, ((visiting none (some { grade := 1, toll := false, phase := .prepare }) []).ch 0).mem.devs[d].posted = [])
    ∧ ((visiting none (some blackout) []).ch 0).mem.change = some blackout ∧ blackout.phase = .blackout ∧ blackout.grade.toNat < 3
    ∧ ((visiting none (some blackout) []).ch 0).mem.visit = none ∧ ((visiting none (some blackout) []).ch 0).mem.rescues = []
    ∧ bit ((visiting none (some blackout) []).ch 0).mem.retired 4 = false ∧ (16 : BitVec 5) = setBit 0 4
    ∧ ((visiting none (some blackout) []).ch 0).mem.excused = [] ∧ ((visiting none (some blackout) []).ch 0).mem.waiting = []
    ∧ ((visiting none (some blackout) []).ch 0).mem.nextChange = none
    ∧ (visiting none none []).creelRuns = true := by decide +kernel

/-! ### Witnesses: the link -/

/-- The link in a state on the lanes given, the module in a mode. -/
def link (m : Mode) (st : LinkState) (a l : BitVec 8) : State :=
  { modeWith m (inSt .run) with hp := { state := st, active := a, locked := l, farLocked := 0xFF, idleSeen := true }, mod := { mode := m, linkUp := true, bankOk := true, cfg := 1 } }

theorem test_meets_LinkUpAndLoss : (link .dark .training 0 0x0F).hp.state = .training ∧ (link .dark .training 0 0x0F).side.tap ≠ .extest
    ∧ (link .dark .training 0 0x0F).hp.minLanes ≤ laneCount ((link .dark .training 0 0x0F).hp.locked &&& (link .dark .training 0 0x0F).hp.farLocked)
    ∧ laneCount ((link .dark .training 0 7).hp.locked &&& (link .dark .training 0 7).hp.farLocked) < (link .dark .training 0 7).hp.minLanes
    ∧ (link .dark .training 0 0x0F).hp.idleSeen = true ∧ (link .dark .training 0 0x0F).hp.state ≠ .up
    ∧ (link .wound .up 0x1F 0xFF).hp.state = .up ∧ bit (link .wound .up 0x1F 0xFF).hp.active 4 = true ∧ bit (link .wound .up 0x1F 0xFF).hp.active 7 = false
    ∧ (link .wound .up 0x1F 0xFF).hp.minLanes ≤ laneCount (clrBit (link .wound .up 0x1F 0xFF).hp.active 4)
    ∧ (link .wound .up 0x1F 0xFF).flt.log.length < 64 ∧ bit (link .wound .up 0x1F 0xFF).hp.locked 7 = true ∧ bit (link .wound .up 0x1F 0xFF).hp.farLocked 7 = true
    ∧ laneCount (clrBit (link .wound .up 0x0F 0xFF).hp.active 3) < (link .wound .up 0x0F 0xFF).hp.minLanes
    ∧ (link .linked .up 0x0F 0xFF).mod.mode = .linked ∧ (link .wound .up 0x0F 0xFF).mod.mode ∈ [Mode.wound, .shedding, .quarantine] ∧ (link .wound .up 0x0F 0xFF).skn.load = none
    ∧ ((link .wound .up 0x0F 0xFF).ch 0).mod.state = .run ∧ bit (link .wound .up 0x0F 0xFF).mod.cfg 0 = true
    ∧ ((link .wound .up 0x0F 0xFF).ch 1).mod.state ≠ .run := by decide +kernel

/-- A link that is up with a load in progress, and one frame outstanding that was replayed fifteen times. -/
def losing (m : Mode) (k : Option LoadKind) : State :=
  { link m .up 0x0F 0xFF with
    skn := { load := k.map fun k => { kind := k, mask := 1, length := 640 } }
    hp := { (link m .up 0x0F 0xFF).hp with failing := 1, outstanding := [{ seq := 2, pkt := .credit 0 0, replays := 15 }] } }

theorem test_meets_LinkLost : (∀ m ∈ [Mode.linked, .spooling, .wound, .shedding, .quarantine], (losing m none).hp.state = .up ∧ (losing m none).mod.mode = m
      ∧ (losing m none).skn.load = none ∧ (losing m none).hp.blockAt + (losing m none).hp.lossTbu ≤ max (losing m none).now (10000 * us)
      ∧ bit (losing m none).hp.active 0 = true ∧ bit (losing m none).hp.failing 0 = true
      ∧ laneCount (clrBit (losing m none).hp.active 0) < (losing m none).hp.minLanes
      ∧ (losing m none).hp.ackAt + (losing m none).hp.replayTbu ≤ max (losing m none).now (100 * us)
      ∧ (losing m none).hp.outstanding = [] ++ { seq := 2, pkt := .credit 0 0, replays := 15 } :: [])
    ∧ (losing .spooling (some .whole)).skn.load.any (fun l => l.kind == .whole && bit l.mask 0) = true
    ∧ (losing .wound (some .channel)).skn.load.any (fun l => l.kind == .channel) = true
    ∧ (losing .shedding (some .channel)).mod.mode = .shedding ∧ fld (losing .spooling (some .whole)).skn.result 0 8 = 0
    ∧ ((losing .wound none).ch 0).mod.state = .run ∧ bit (losing .wound none).mod.cfg 0 = true ∧ ((losing .wound none).ch 1).mod.state ≠ .run := by
  decide +kernel

/-- A link with frames outstanding and sync-header errors on lane 0. -/
def sentAs (k : BitVec 12) : Sent := { seq := k, pkt := .credit 0 0 }
def blocks (l : List Sent) (n : Nat) : State :=
  { wound {} with hp := { state := .up, active := 0xFF, outstanding := l, errTimes := (Vector.replicate 8 []).set 0 (List.replicate n 5) } }

/-- A frame with LSEQ 0 that carries a packet. -/
def frameOf (p : List Byte) : List Byte :=
  let b := [BitVec.ofNat 8 (p.length / 8 + 1), 0, 0, 0] ++ p
  b ++ leBytes 4 (crc32 b).toNat

/-- A packet of one type whose other fields are 0. -/
def header (type : Byte) : List Byte := [0, 0, 0, 0, 0, 0, 0, type]

theorem test_meets_LinkAndFrames_blocks : State.reset.hp.state = .down ∧ (blocks [] 0).hp.state ≠ .down ∧ bit (blocks [] 15).hp.active 0 = true
    ∧ 15 ≤ ((blocks [] 15).hp.errTimes[(0 : Fin 8)].filter fun x => decide (max 0 (4 + us) < x + us)).length
    ∧ ((blocks [] 14).hp.errTimes[(0 : Fin 8)].filter fun x => decide (max 0 (4 + us) < x + us)).length < 15
    ∧ ((blocks [] 15).hp.errTimes[(0 : Fin 8)].filter fun x => decide (max 0 (5 + us) < x + us)).length < 15
    ∧ (link .dark .training 0 0).hp.state = .training ∧ (blocks [sentAs 1, sentAs 2, sentAs 3] 0).hp.state = .up
    ∧ (blocks [sentAs 1, sentAs 2, sentAs 3] 0).hp.unsent = [] ∧ (∀ f ∈ (blocks [sentAs 1, sentAs 2, sentAs 3] 0).hp.outstanding, f.seq ≠ 4)
    ∧ (blocks [sentAs 1, sentAs 2, sentAs 3] 0).hp.outstanding = [sentAs 1] ++ sentAs 2 :: [sentAs 3] ∧ (sentAs 2).seq = 2
    ∧ (∀ y ∈ [sentAs 1], y.seq ≠ 2) ∧ (∀ y ∈ (blocks [sentAs 1, sentAs 2, sentAs 3] 0).hp.outstanding, y.replays < 15)
    ∧ (blocks [] 0).hp.outstanding = [] := by decide +kernel

theorem test_meets_LinkAndFrames_frames : (link .dark .training 0 0).hp.state ≠ .up ∧ (linked (wound {})).hp.state = .up ∧ (linked (wound {})).portUp = true
    ∧ (linked (wound {})).hp.accepts (List.replicate 16 0) = false ∧ (linked (wound {})).hp.accepts (frameOf (header 0x10)) = true
    ∧ packetWords ((frameBody (frameOf (header 0x10))).drop 4) = [0x1000000000000000]
    ∧ (linked (wound {})).hp.accepts (frameOf (header 0x20 ++ header 1)) = true
    ∧ packetWords ((frameBody (frameOf (header 0x20 ++ header 1))).drop 4) = [0x2000000000000000, 0x100000000000000]
    ∧ (linked (wound {})).hp.accepts (frameOf (header 0x40 ++ header 1)) = true
    ∧ packetWords ((frameBody (frameOf (header 0x40 ++ header 1))).drop 4) = [0x4000000000000000, 0x100000000000000]
    ∧ (linked (wound {})).hp.accepts (frameOf (header 0x30)) = true ∧ fld (0x3000000000000000 : Word) 60 4 = 3
    ∧ packetWords ((frameBody (frameOf (header 0x30))).drop 4) = [0x3000000000000000] ∧ (modeWith .unpowered {}).portUp = false := by decide +kernel

theorem test_meets_SideInterfaces : (modeWith .unpowered {}).powered = false ∧ (modeWith .wound {}).powered = true
    ∧ ({ modeWith .wound {} with side := { pointer := 0x10 } } : State).side.pointer = 0x10 ∧ (modeWith .wound {}).mod.mode ≠ .dark
    ∧ (link .dark .up 0xFF 0xFF).powered = true ∧ (link .dark .up 0xFF 0xFF).mod.mode = .dark ∧ (link .dark .down 0 0).hp.state = .down
    ∧ (link .dark .down 0 0).mod.bankOk = true := by decide +kernel

/-- A link that is up whose lanes had their last ALIGN at instant 0, `bad` of them out of place, the last block at instant 5. -/
def aligned (bad : Nat) (failing : Byte) : State :=
  { wound {} with hp := { state := .up, active := 0x1F, locked := 0xFF, farLocked := 0xFF, failing := failing, blockAt := 5
                          alignBad := Vector.replicate 8 bad } }

/-- The same with every lane's last ALIGN at an instant. -/
def alignedAt (a : Tbu) : State := { aligned 0 0 with hp := { (aligned 0 0).hp with alignAt := Vector.replicate 8 a } }

theorem test_meets_LinkUpAndLoss_lanes : max 0 (4 + 10 * us) < (aligned 0 0).hp.blockAt + (aligned 0 0).hp.lossTbu
    ∧ (aligned 0 0).hp.blockAt + (aligned 0 0).hp.lossTbu ≤ max 0 (5 + 100 * us)
    ∧ bit (aligned 0 0x10).hp.failing 4 = true ∧ (aligned 0 0).hp.alignLost 4 (max 0 (20 * us)) = true
    ∧ (aligned 0 0).hp.alignLost 4 (max 0 (10 * us)) = false ∧ bit (aligned 0 0).hp.failing 4 = false
    ∧ max 0 (ms - 1) < (aligned 0 0).hp.goodSince[(7 : Fin 8)] + ms ∧ (aligned 0 0).hp.goodSince[(7 : Fin 8)] + ms ≤ max 0 ms
    ∧ (aligned 0 0).hp.minLanes ≤ laneCount (clrBit (aligned 0 0).hp.active 4) ∧ bit (aligned 0 0).hp.active 7 = false
    ∧ (aligned 0 0).hp.alignMissing 1 7 (max 0 ms) = true ∧ (alignedAt ms).hp.alignMissing 1 7 (max 0 ms) = false
    ∧ (alignedAt ms).hp.goodSince[(7 : Fin 8)] + ms ≤ max 0 ms := by decide +kernel

theorem test_meets_LinkAndFrames_align : bit (aligned 0 0).hp.locked 0 = true ∧ bit (aligned 0 0).hp.farLocked 0 = true
    ∧ bit (link .dark .training 0 0).hp.locked 3 = false ∧ bit (link .dark .training 0 0).hp.farLocked 3 = true
    ∧ (aligned 0 0).hp.alignPlace 4 (max 0 4921327) = some 1 ∧ (aligned 0 0).hp.alignPlace 4 (max 0 (4921327 / 2)) = none
    ∧ (aligned 0 0).hp.alignPlace 4 (max 0 (3 * 4921327)) = some 3 ∧ (1 : Nat) < 3 ∧ (aligned 0 0).hp.alignPlace 4 (max 0 (2 * 4921327)) = some 2
    ∧ bit (aligned 0 0).hp.active 7 = false ∧ (aligned 0 0).hp.state = .up
    ∧ 1 ≤ (aligned 1 0).hp.alignBad[(4 : Fin 8)] ∧ bit (aligned 0 0).hp.active 4 = true := by decide +kernel

theorem test_meets_LinkAndFrames_replay : (blocks [sentAs 1] 0).hp.outstanding ≠ []
    ∧ max 0 (min 1000 (max 5 (fld (blocks [sentAs 1] 0).hp.cfg 32 16)) * 100 * ns - 1)
        < (blocks [sentAs 1] 0).hp.ackAt + min 1000 (max 5 (fld (blocks [sentAs 1] 0).hp.cfg 32 16)) * 100 * ns
    ∧ (blocks [sentAs 1] 0).hp.ackAt + min 1000 (max 5 (fld (blocks [sentAs 1] 0).hp.cfg 32 16)) * 100 * ns ≤ max 0 (100 * us)
    ∧ (linked (wound {})).hp.unlacked = [] ∧ frameRequest (frameOf (header 0x30)) = false ∧ frameRequest (frameOf (header 0x10)) = true
    ∧ (linked (modeWith .unpowered {})).portUp = false ∧ (linked (modeWith .unpowered {})).hp.accepts (frameOf (header 0x30)) = true := by decide +kernel

theorem test_meets_SideInterfaces_scan : State.reset.side.tapState = .reset ∧ (State.reset.side.scan .samplePreload [] []).tapState = .idle := by decide

/-! ### Witnesses: streaming queues -/

/-- Channel 0 with queue 0 as given, its link up; segment 0 streams queue 0. -/
def queued (st : ChState) (q : Queue) (m : Mem) : State :=
  linked (wound { inSt st with
    stq := { queues := [(0, q)] }, mem := m, seq := { route0 with segs := [(0, 0xC000000000000020), (6, 0xC000000000000020)] } })

/-- A bulk queue of `n` pages, and a paced one of segment 3 with two fills. -/
def bulkQ (st : QState) (n : Nat) : Queue := { state := st, bulk := true, word := BitVec.ofNat 64 (n * 2 ^ 19) }
def pacedQ (st : QState) : Queue := { state := st, word := 0x180100000, len64 := 32 }

/-- The channel with its paced queue ending. -/
def afterClose : Chan :=
  let x := (queued .run (pacedQ .open) {}).ch 0
  let st := x.stq.outcome (withCmd 0 2) 0
  { x with stq := st.setQ 0 { st.q 0 with state := .ending } }

theorem test_meets_QueueCommands : (queued .rest {} {}).windowUp = true ∧ ((wound {}).ch 0).configured = false
    ∧ ((queued .rest {} {}).ch 0).stqTest (withCmd 0 1) ≠ 0 ∧ ((queued .rest {} {}).ch 0).stqTest (withCmd 0 2) ≠ 0
    ∧ ((queued .rest {} {}).ch 0).stqTest (withCmd 0x80020 1) = 0 ∧ ((queued .rest {} {}).ch 0).stqTest (withCmd 0x100010 1) = 0
    ∧ ((queued .rest (bulkQ .open 1) {}).ch 0).stqTest (withCmd 0 2) = 0
    ∧ ((((queued .rest (bulkQ .open 1) {}).ch 0).stq.outcome (withCmd 0 2) 0).q (cmdQueue (withCmd 0 2))).bulk = true
    ∧ ((queued .run (pacedQ .open) {}).ch 0).stqTest (withCmd 0 2) = 0
    ∧ ((((queued .run (pacedQ .open) {}).ch 0).stq.outcome (withCmd 0 2) 0).q (cmdQueue (withCmd 0 2))).bulk = false
    ∧ ((((queued .run (pacedQ .open) {}).ch 0).stq.outcome (withCmd 0 2) 0).q (cmdQueue (withCmd 0 2))).state ≠ .done
    ∧ (afterClose.endedQueues = []) := by
  decide +kernel

/-- Lines held in a cache that the pinned lines leave 512 slots. -/
def crowded : Mem :=
  { bobCfg := 17920, cache := (upTo 384).map fun i => { slot := 17920 + i, line := 100000 + i, held := true, used := 0 } }

theorem test_meets_QueuesFilled : (wound {}).takes = false ∧ (queued .rest { bulkQ .open 1 with limit := 1 } {}).takes = true
    ∧ ([0] : List Word).length ≠ (8 : Byte).toNat ∧ (List.replicate 8 (0 : Word)).length = (8 : Byte).toNat
    ∧ (0 : BitVec 16).toNat = 4096 * (0 : ChanId).val + 0
    ∧ (queued .rest { bulkQ .open 1 with limit := 1 } {}).qdataTest 0 0 8 0 = 0
    ∧ Memory.wf ((queued .rest { bulkQ .open 1 with limit := 1 } {}).ch 0).mem.data = true
    ∧ (queued .rest { bulkQ .open 1 with limit := 1 } {}).qdataTest 0 0 8 1 = 0x42 ∧ (queued .rest (bulkQ .open 1) {}).qdataTest 0 0 8 0 = 0x43
    ∧ (queued .rest { bulkQ .open 1 with limit := 2 } {}).qdataTest 0 0 9 0 = 0x44 ∧ (queued .rest (bulkQ .done 1) {}).qdataTest 0 0 8 0 = 0x41
    ∧ (linked (wound {})).qdataTest 0 0 8 0 = 0x45
    ∧ (((queued .rest (bulkQ .done 1) {}).ch 0).stq.q 0).state ≠ .open ∧ (((queued .rest (bulkQ .open 1) {}).ch 0).stq.q 0).state = .open
    ∧ ((queued .rest (bulkQ .open 1) {}).ch 0).configured = true
    ∧ (((queued .rest (bulkQ .open 1) {}).ch 0).stq.q 0).limit + 64
        ≤ min (((queued .rest (bulkQ .open 1) {}).ch 0).stq.q 0).wanted ((((queued .rest (bulkQ .open 1) {}).ch 0).stq.q 0).limit + ((queued .rest (bulkQ .open 1) {}).ch 0).stq.room)
    ∧ ((queued .rest (bulkQ .open 1) {}).ch 0).stq.scarce = false
    ∧ min (((queued .rest { bulkQ .open 8 with limit := 193 } {}).ch 0).stq.q 0).wanted (193 + ((queued .rest { bulkQ .open 8 with limit := 193 } {}).ch 0).stq.room) < 193 + 64
    ∧ min (((queued .rest { bulkQ .open 8 with limit := 193 } {}).ch 0).stq.q 0).wanted (193 + ((queued .rest { bulkQ .open 8 with limit := 193 } {}).ch 0).stq.room)
        ≠ (((queued .rest { bulkQ .open 8 with limit := 193 } {}).ch 0).stq.q 0).ringLimit
    ∧ (((queued .rest { pacedQ .open with pos := 1000 } {}).ch 0).stq.q 0).fillDue = true ∧ (((queued .rest (pacedQ .open) {}).ch 0).stq.q 0).fillDue = false
    ∧ (((queued .rest (pacedQ .open) {}).ch 0).stq.q 0).headDue = false ∧ (((queued .rest { pacedQ .open with complete := 1 } {}).ch 0).stq.q 0).headDue = true
    ∧ ((queued .rest { pacedQ .open with complete := 1 } { degraded := true }).ch 0).mem.degraded = true
    ∧ ((queued .rest { pacedQ .open with complete := 1 } {}).ch 0).mem.headFits ((((queued .rest { pacedQ .open with complete := 1 } {}).ch 0).stq.q 0).fillHead 0) = true
    ∧ ((queued .rest { pacedQ .open with complete := 1 } crowded).ch 0).mem.headFits ((((queued .rest { pacedQ .open with complete := 1 } crowded).ch 0).stq.q 0).fillHead 0) = false
    ∧ ((queued .rest { pacedQ .open with complete := 1 } crowded).ch 0).mem.bobLostAt = none
    ∧ (((queued .rest { bulkQ .open 1 with pos := 64 } {}).ch 0).stq.q 0).pos = (((queued .rest { bulkQ .open 1 with pos := 64 } {}).ch 0).stq.q 0).bulkLen / 64 := by
  decide +kernel

/-- A unit of queue 0 in the staging buffer, for byte 64 of the creel; a channel with `n` writes waiting. -/
def unit1 : StagedUnit := { queue := 0, unit := 0, addr := 64, data := List.replicate 64 7 }
def staging (n : Nat) (q : Queue) : Chan :=
  { (queued .rest q {}).ch 0 with
    stq := { queues := [(0, q)], staged := [unit1] }
    mem := { reqs := List.replicate n { port := 1, write := true, addr := 0, arrived := 5 } } }

theorem test_meets_QueuesFilled_staged : Memory.wf (staging 31 {}).mem.data = true ∧ (staging 31 {}).stq.staged = [unit1]
    ∧ ((staging 31 {}).mem.reqs.filter (·.write)).length < 32 ∧ 32 ≤ ((staging 32 {}).mem.reqs.filter (·.write)).length
    ∧ (staging 0 { pacedQ .open with pos := 1000 }).stq.received 0 1 = false
    ∧ ((queued .rest { pacedQ .open with pos := 1000 } {}).ch 0).stq.received 0 1000 = true
    ∧ ((queued .rest { bulkQ .open 1 with pos := 64 } {}).ch 0).stq.received 0 64 = true
    ∧ ((queued .rest { pacedQ .open with complete := 1 } { degraded := true, creel := .lost }).ch 0).mem.creel = .lost
    ∧ ((queued .rest { pacedQ .open with complete := 1 } { degraded := true }).ch 0).mem.creel ≠ .lost
    ∧ (∃ l ∈ (((queued .rest { pacedQ .open with complete := 1 } {}).ch 0).stq.q 0).fillHead (((queued .rest { pacedQ .open with complete := 1 } {}).ch 0).stq.q 0).ready,
        ((queued .rest { pacedQ .open with complete := 1 } {}).ch 0).mem.present l = false)
    ∧ (wound (staging 31 {})).creelRuns = true ∧ (staging 31 {}).mod.state ≠ .drain ∧ (staging 31 {}).dof.running = none
    ∧ (∀ y ∈ (staging 31 {}).stq.staged, y.addr % 64 = 0 ∧ y.data.length = 64) := by decide +kernel

/-- The lines of the head of the paced queue's first fill, in the buffer. -/
def headIn : Mem :=
  { cache := (((queued .rest { pacedQ .open with complete := 1 } {}).ch 0).stq.q 0).fillHead 0 |>.map fun l => { slot := l, line := l, held := false, used := 0 } }

theorem test_meets_QueuesFilled_head : ((queued .rest { pacedQ .open with complete := 1 } headIn).ch 0).mem.headFits
      ((((queued .rest { pacedQ .open with complete := 1 } headIn).ch 0).stq.q 0).fillHead 0) = true
    ∧ (∀ l ∈ (((queued .rest { pacedQ .open with complete := 1 } headIn).ch 0).stq.q 0).fillHead 0,
        ((queued .rest { pacedQ .open with complete := 1 } headIn).ch 0).mem.present l = true) := by decide +kernel

/-- A CLOSE of a bulk queue that has a unit staged. -/
theorem test_meets_QueueCommands_staged : (staging 0 (bulkQ .open 1)).stqTest (withCmd 0 2) = 0
    ∧ (((staging 0 (bulkQ .open 1)).stq.outcome (withCmd 0 2) 0).q (cmdQueue (withCmd 0 2))).bulk = true
    ∧ ((staging 0 (bulkQ .open 1)).stq.outcome (withCmd 0 2) 0).staged.filter (fun y => y.queue == cmdQueue (withCmd 0 2)) = [unit1]
    ∧ Memory.wf (staging 0 (bulkQ .open 1)).mem.data = true := by decide +kernel

/-! ### Witnesses: the vault, calibration, the Doffer and the fault log -/

/-- The words of a header that this stepping saved; a slot with it, committed for channel 0, whose areas hold the words given. -/
def header0 : List Word := [vaultMagic, pack [(1, 8), (idStepping.toNat, 0)], 1] ++ List.replicate 8 0
def headed0 : Slot := { header := headerOf header0 }
def slotOf (w : Sparse Word) : Slot :=
  { headed0 with commit := commitOf headed0.seqNo headed0.hdrCrc 1, areas := Vector.replicate 16 (Area.sealed w) }

/-- A header and a commit record that agree make a slot valid (R447). -/
theorem test_slot (w : Sparse Word) : (slotOf w).valid = true ∧ (slotOf w).present = 1 ∧ (slotOf w).stepping = idStepping := by
  have h : (slotOf w).hdrOk = true := hdrOk_headerOf _ header0 rfl rfl rfl
  have c := commitOk_commitOf (slotOf w) 1 (Nat.mod_lt _ (by decide)) rfl
  have s : headed0.stepping = idStepping := by decide +kernel
  exact ⟨by rw [Slot.valid, h, c.1]; rfl, c.2, s⟩

/-- Without a commit record the slot is torn (R447). -/
theorem test_slot_torn : headed0.torn = true := by
  have h : headed0.hdrOk = true := hdrOk_headerOf _ header0 rfl rfl rfl
  rw [Slot.torn, h]
  rfl

/-- Slot 0 valid, with an area for channel 0 that holds the words given. -/
def vaulted0 (w : Sparse Word) (x : Chan) : State := { wound x with vlt := { slots := (Vector.replicate 2 {}).set 0 (slotOf w) } }

/-- Channel 0 as given, its restore of the parts given in progress. -/
def restoring (parts : BitVec 4) (x : Chan) : Chan :=
  { x with mod := { state := .trim }, dof := { running := some (.restore 0 parts) }, tlh := { granted := true } }

/-- The CRC of an area as it is saved is in order. -/
theorem test_meets_VaultRestore_area (w : Sparse Word) (x : Chan) (hc : x.configured = true) (hs : x.mod.state = .rest)
    (hd : x.flt.dofferLost = false) : (vaulted0 w x).restoreTest 0 0 = 0 := by
  have hp : (slotOf w).present = 1 := (test_slot w).2.1
  have ha : ((slotOf w).areas[(0 : ChanId)]).crcOk = true := crcOk_sealed w
  have hx : (vaulted0 w x).ch 0 = x := rfl
  have hv : (vaulted0 w x).vlt.slots[(0 : Fin 2)] = slotOf w := rfl
  simp only [State.restoreTest, hx, hv, hc, hs, hd, hp, ha]
  simp [bit]

/-- ROUTE, QUEUES with one queue, CAL and TRAIN, each with the digest and the CREEL_MAP of an empty image. -/
def savedRoute : Sparse Word := [(5, 1)]
def savedQueue1 (w0 w1 : Word) : Sparse Word := [(5, 2), (0x200, 1), (0x201, w0), (0x202, w1)]
def savedTrain (gone : Word) : Sparse Word := [(5, 8), (0x4400, gone)]

/-- A channel with segments that stream queue 0, which is closed. -/
def closed0 : Chan := { (queued .rest {} {}).ch 0 with stq := {} }

/-- The area that the restore in progress reads. -/
def areaOf (w : Sparse Word) : Area := (slotOf w).areas[(0 : ChanId)]

theorem test_meets_VaultRestore : (vaulted0 [] (inSt .rest)).portUp = true ∧ (modeWith .linked {}).working = false
    ∧ (modeWith .linked {}).vltTest (withCmd 0x1000030000 1) ≠ 0 ∧ bit (0x1000030000 : Word) (16 + 2) = false
    ∧ bit (0x1000030000 : Word) (16 + 1) = true ∧ (vaulted0 [] (inSt .rest)).restoreTest 1 (vltSlot (withCmd 0x1000030000 1)) ≠ 0
    ∧ bit (0x1000030000 : Word) (16 + 0) = true ∧ vltSlot (withCmd 0x1000030000 1) = 0
    ∧ ((vaulted0 [] (inSt .rest)).ch 0).dof.running = none
    ∧ (vaulted0 [] (inSt .rest)).vlt.restoreOn = false
    ∧ ({ wound {} with vlt := { restoreOn := true } } : State).vlt.restoreOn = true ∧ ({ wound {} with vlt := { restoreOn := true } } : State).vlt.restoring = 0 := by
  decide +kernel

/-- A restore and a discard of a valid slot are accepted. -/
theorem test_meets_VaultRestore_accepted (w : Sparse Word) (x : Chan) :
    (vaulted0 w x).vltTest (withCmd 0x1000030000 1) = 0 ∧ (vaulted0 w x).vltTest (withCmd 0 2) = 0 := by
  have h := test_slot w
  have a : (vaulted0 w x).vlt.slots[vltSlot (withCmd 0x1000030000 1)] = slotOf w := rfl
  have b : (vaulted0 w x).vlt.slots[vltSlot (withCmd 0 2)] = slotOf w := rfl
  have k : (vaulted0 w x).working = true := rfl
  have l : (vaulted0 w x).vlt.restoreOn = false := rfl
  simp only [State.vltTest, a, b, k, l, h]
  decide +kernel

theorem test_meets_VaultRestore_parts : ((vaulted0 savedRoute (restoring 1 (inSt .rest))).ch 0).dof.running = some (.restore 0 1)
    ∧ (vaulted0 savedRoute (inSt .rest)).vlt.slots[(0 : Fin 2)].areas[(0 : ChanId)] = areaOf savedRoute
    ∧ ((vaulted0 savedRoute (restoring 1 (inSt .rest))).ch 0).tlh.granted = true ∧ ((vaulted0 [] (inSt .rest)).ch 0).tlh.granted = false
    ∧ ((vaulted0 savedRoute (restoring 1 (inSt .rest))).ch 0).dof.queue.any Service.isRestore = false := ⟨rfl, rfl, rfl, rfl, rfl⟩

theorem test_meets_VaultRestore_contents : bit (areaOf savedRoute).parts 0 = true ∧ bit (areaOf savedRoute).parts 1 = false
    ∧ (areaOf savedRoute).digest = (upTo 4).map (payloadWord (inSt .rest).skn.digest)
    ∧ (areaOf [(1, 5), (5, 1)]).digest ≠ (upTo 4).map (payloadWord (inSt .rest).skn.digest) ∧ bit (areaOf [(1, 5), (5, 1)]).parts 0 = true
    ∧ (1 : BitVec 4) &&& ~~~(areaOf [(1, 5), (5, 1)]).parts = 0
    ∧ bit (areaOf (savedQueue1 0x80020 0)).parts 1 = true ∧ (areaOf (savedQueue1 0x80020 9)).queues = [{ word0 := 0x80020, word1 := 9 }]
    ∧ (areaOf (savedQueue1 0x80020 9)).digest = (upTo 4).map (payloadWord (inSt .rest).skn.digest)
    ∧ closed0.stqTest ((0x80020 &&& ~~~(0xF : Word)) ||| 1) = 0
    ∧ (closed0.openedQueue ((0x80020 &&& ~~~(0xF : Word)) ||| 1)).bulk = true
    ∧ closed0.stqTest ((0x100010 &&& ~~~(0xF : Word)) ||| 1) = 0
    ∧ (closed0.openedQueue ((0x100010 &&& ~~~(0xF : Word)) ||| 1)).bulk = false
    ∧ closed0.stqTest ((0 &&& ~~~(0xF : Word)) ||| 1) ≠ 0 ∧ swf Queue.none closed0.stq.queues = true
    ∧ (∀ e ∈ closed0.stq.queues, e.2.state ≠ .ending)
    ∧ bit (areaOf (savedTrain 0)).parts 3 = true ∧ (areaOf (savedTrain 0)).creelMap = num (inSt .rest).skn.image.creelMap 0 6
    ∧ (areaOf [(5, 0x10008)]).creelMap ≠ num (inSt .rest).skn.image.creelMap 0 6 ∧ bit (areaOf [(5, 0x10008)]).parts 3 = true
    ∧ (areaOf (savedTrain 0)).retired &&& ~~~(inSt .rest).mem.retired = 0 ∧ (inSt .rest).mem.grade.toNat = (0 : Fin 3).val
    ∧ (areaOf (savedTrain 0x400)).retired = setBit 0 (2 : Fin 5).val ∧ (inSt .rest).mem.retired = 0 ∧ (inSt .rest).mem.creel = .normal
    ∧ bit (areaOf [(5, 4)]).parts 2 = true := by decide +kernel

/-- Channel 0 as given with the time base LOCKED, so that it may calibrate. -/
def timed (x : Chan) : State := { wound x with trk := { tbLocked := true, present := true } }

/-- A run of DAC and INL whose `left` are still to come. -/
def calRunning (l : List (Fin 4)) (w : Byte) (a : Ana) : State :=
  timed { inSt .trim with
    trk := trk1001, ana := a, tlh := { granted := true }
    dof := { running := some (.calRun 3) }
    cal := { run := some { procs := 3, left := l, spoilt := Vector.replicate 4 w } } }

/-- 65,536 readings of sum `2 v`, free of autocorrelation but for rounding, spread over 66 codes and alike in every residue. -/
def stateOf (v : Int) : StateSeen :=
  { head := v, tail := v, sq := 4 * v ^ 2 / 65536 + 1000, lag := 4 * v ^ 2 * 65537 / 2 ^ 32, first := 0, last := 0, ends := 0, span := 66
    residues := List.replicate 8 8192 }

/-- DAC readings with every cell at the mean and every rung exact, but for what the last rung adds. -/
def dacSeen (off : Int) : List StateSeen :=
  ((upTo 64).map fun u => stateOf (32768 * u))
    ++ ((upTo 10).map fun b => stateOf (1048576 + 32 * 2 ^ b + (if b = 9 then off else 0)))
    ++ (upTo 8).map fun b => stateOf (1048576 + 32 * (2 ^ (b + 2) - 1))
def dacOf (off : Int) : ProcReport := { states := dacSeen off }

/-- The same but for state 5. -/
def dacWith (x : StateSeen) : ProcReport := { states := (dacSeen 0).set 5 x }

/-- Corrections of no bin. -/
def flat : Nat → Nat → Int := fun _ _ => 0

/-- Readings on exact weights give corrections of 0 (R464); a rung 10,000 off is outside its limit (R465). -/
theorem test_dac_corrections : (dacOf 0).cells = List.replicate 63 0 ∧ (dacOf 0).rungs = List.replicate 10 0 ∧ (dacOf 0).fails flat 0 = none
    ∧ (dacOf 10000).fails flat 0 = some { why := 0x24, detail := 9, stat := 65536 * 5000 } := by decide +kernel

/-- The tests on the readings (R465), in their order: an end of the span, 73 codes, χ² above 35.3, correlation. -/
theorem test_dac_readings : ((dacWith { stateOf 163840 with ends := 1, span := 73 }).fails flat 0).map (·.why) = some 0x26
    ∧ ((dacWith { stateOf 163840 with span := 73 }).fails flat 0).map (·.why) = some 0x2B
    ∧ ((dacWith { stateOf 163840 with residues := List.replicate 4 8001 ++ List.replicate 4 8383 }).fails flat 0).map (·.why) = some 0x20
    ∧ ((dacWith { stateOf 163840 with lag := (stateOf 163840).lag + 17 }).fails flat 0).map (·.why) = some 0x21
    ∧ ((dacWith { stateOf 163840 with lag := (stateOf 163840).lag + 17 }).fails flat 0).map (·.detail) = some 5 := by decide +kernel

/-- An interpolator with `n` edges in every bin of each half, `m` in each of the second; its fine codes uncorrelated but for rounding. -/
def binOf (n m : Nat) : BinSeen :=
  let sum : Int := (n + m : Nat) * 130816
  { half1 := List.replicate 512 n, half2 := List.replicate 512 m, lag := sum ^ 2 * (2 ^ 24 + 1) / 2 ^ 48, first := 0, last := 0 }
def binsOf (k n m : Nat) : ProcReport := { bins := List.replicate k (binOf n m) }

/-- The same with bin 0 empty and bin 1 with twice its edges. -/
def emptyBin : ProcReport :=
  let half : List Nat := 0 :: 32768 :: List.replicate 510 16384
  let sum : Int := 32768 * (130816 + 1)
  { bins := [{ half1 := half, half2 := half, lag := sum ^ 2 * (2 ^ 24 + 1) / 2 ^ 48, first := 0, last := 0 }] }

/-- Paths on which every edge differs by `d` tbu, and its stamp falls into a bin. -/
def skewOf (d : Int) (bin : Nat) : ProcReport :=
  { paths := List.replicate 34 { head := [{ diff := 256 * d, bin := bin, count := 2048 }], tail := [{ diff := 256 * d, bin := bin, count := 2048 }] } }

/-- The correction of a stamp's bin counts for SKEW (R457, R462). -/
theorem test_skew_bins : (skewOf 3 7).skews (fun _ j => if j = 7 then -512 else 0) = List.replicate 5 1 ++ List.replicate 29 (-1) := by decide +kernel

/-- Bins of equal width, one of them missing or the halves unlike, and paths whose skew is at its limit (R466 to R469). -/
theorem test_meets_Measured : (∀ k : Nat, 1 ≤ k → k ≤ 63 → (dacOf 0).sum .both (.level k) - (dacOf 0).sum .both (.level (k - 1)) = 65536)
    ∧ (dacOf 0).fails flat 0 = none ∧ ((binsOf 1 16384 16384).bin 0).counts = List.replicate 512 32768
    ∧ (binsOf 4 16384 16384).fails flat 1 = none ∧ (binsOf 1 16384 16384).fails flat 2 = none
    ∧ ((binsOf 1 0 0).fails flat 2).map (·.why) = some 0x21 ∧ (emptyBin.fails flat 2).map (·.why) = some 0x25 ∧ ((binsOf 1 18000 14768).fails flat 2).map (·.why) = some 0x27
    ∧ (skewOf 1024 0).fails flat 3 = none ∧ ((skewOf 1025 0).fails flat 3).map (·.why) = some 0x24 := by
  refine ⟨?_, by decide +kernel⟩
  intro k h h'
  interval_cases k <;> decide +kernel

theorem test_meets_CalibrationBanks : (timed (inSt .rest)).windowUp = true ∧ ((wound {}).ch 0).configured = false
    ∧ (timed (inSt .rest)).calTest 0 (withCmd 0 1) ≠ 0 ∧ (timed (inSt .rest)).calTest 0 (withCmd 0x100 1) = 0
    ∧ (timed (inSt .rest)).calTest 0 (withCmd 0 2) ≠ 0 ∧ (8191 : BitVec 13).toNat % 8 ≠ 0 ∧ (8184 : BitVec 13).toNat % 8 = 0
    ∧ ((timed (inSt .trim)).ch 0).mod.state = .trim ∧ ((timed (inSt .rest)).ch 0).mod.state ≠ .trim
    ∧ ((wound { inSt .rest with cal := { active := 1 } }).ch 0).cal.active.toNat = (0 : Fin 2).val + 1
    ∧ ((timed (inSt .rest)).ch 0).cal.active.toNat ≠ (0 : Fin 2).val + 1
    ∧ swf 0 ((timed (inSt .rest)).ch 0).cal.banks[(0 : Fin 2)] = true := by decide +kernel

theorem test_meets_CalibrationRuns : ((timed (inSt .rest)).ch 0).cal.run = none
    ∧ ((calRunning [0, 1] 0 {}).ch 0).cal.run = some { procs := 3, left := [0, 1], spoilt := Vector.replicate 4 0 }
    ∧ (calRunning [0, 1] 0 {}).trk.tbLocked = true ∧ (0 : Fin 4) ∈ (CalRunState.now { procs := 3, left := [0, 1], spoilt := Vector.replicate 4 0 })
    ∧ (3 : Fin 4) ∉ (CalRunState.now { procs := 3, left := [0, 1], spoilt := Vector.replicate 4 0 })
    ∧ ([0, 1] : List (Fin 4)).filter (· != 0) ≠ [] ∧ ((calRunning [0, 1] 0 {}).ch 0).ana.monFaulty = false
    ∧ ((calRunning [0, 1] 0x2A {}).ch 0).cal.run = some { procs := 3, left := [0, 1], spoilt := Vector.replicate 4 0x2A }
    ∧ ((calRunning [0, 1] 0 { monFaulty := true }).ch 0).ana.monFaulty = true
    ∧ ((calRunning [0, 1] 0 {}).ch 0).trk.state = .locked
    ∧ (dacOf 0).fails (((calRunning [0, 1] 0 {}).ch 0).cal.runBin { procs := 3, left := [0, 1] }) 0 = none
    ∧ ((dacOf 10000).fails (((calRunning [0, 1] 0 {}).ch 0).cal.runBin { procs := 3, left := [0, 1] }) 0).map (·.why) = some 0x24
    ∧ noSkew.fails (((calRunning [3, 1] 0 {}).ch 0).cal.runBin { procs := 4, left := [3, 1] }) 3 = none
    ∧ ([0] : List (Fin 4)).filter (· != 0) = [] ∧ (0 : Fin 4) ∈ (CalRunState.now { procs := 3, left := [0], spoilt := Vector.replicate 4 0 })
    ∧ ((calRunning [0] 0 {}).ch 0).cal.run = some { procs := 3, left := [0], spoilt := Vector.replicate 4 0 }
    ∧ ((calRunning [0] 0 {}).ch 0).dof.queue.any Service.isRestore = false
    ∧ bit ((wound { inSt .run with cal := { loopCfg := 1 } }).ch 0).cal.loopCfg 1 = false ∧ bit ((wound (inSt .run)).ch 0).cal.loopCfg 1 = true
    ∧ ((synOf { activeS with gate := true } idleS {}).ch 0).sampleClock = true ∧ bit ((synOf { activeS with gate := true } idleS {}).ch 0).cal.loopCfg 1 = true := by decide +kernel

/-- Channel 0 with its sample clock running and the trim loop as given. -/
def trimming (k : Cal) : State := (synOf { activeS with gate := true } idleS {}).modCh 0 fun x => { x with cal := k }

theorem test_meets_CalibrationRuns_trim : bit ((trimming {}).ch 0).cal.loopCfg 1 = true ∧ ((trimming {}).ch 0).sampleClock = true
    ∧ ((trimming {}).ch 0).mod.state ≠ .trim ∧ (1 : Fin 64) = ((trimming {}).ch 0).cal.trimCell ∧ (2 : Fin 64) ≠ ((trimming {}).ch 0).cal.trimCell
    ∧ (∀ a ∈ ((trimming {}).ch 0).cal.trimAt, a + 100 * us ≤ max 0 9) ∧ ((wound (inSt .trim)).ch 0).mod.state = .trim
    ∧ ((trimming { trimAt := some 5 }).ch 0).cal.trimAt = some 5 ∧ max 0 (4 + 100 * us) < 5 + 100 * us ∧ 5 + 100 * us ≤ max 0 (5 + 100 * us)
    ∧ bit ((trimming {}).ch 0).cal.dacStop 1 = false ∧ bit ((trimming { dacStop := 2 }).ch 0).cal.dacStop 1 = true
    ∧ 64 ≤ (((trimming { dacTrack := Vector.replicate 64 63 }).ch 0).cal.dacTrack[(1 : Fin 64)] + (if 600 ≤ 0 then -1 else if 600 ≤ 600 then 1 else 0)).natAbs
    ∧ (((trimming {}).ch 0).cal.dacTrack[(1 : Fin 64)] + (if 600 ≤ 600 then -1 else if 600 ≤ 0 then 1 else 0)).natAbs < 64
    ∧ ((trimming {}).ch 0).cal.run = none := by decide +kernel

/-- The loop goes from cell 63 back to cell 1 (R471). -/
theorem test_trim_turn : (match exec (.dacTrimVisit 5 0 63 600 0) (trimming { trimCell := 63 }) with
    | .next u => (u.ch 0).cal.trimCell.val
    | _ => 0) = 1 := by decide +kernel

/-- SKEW in progress with a tracker that is not LOCKED; a restore of a channel whose ARM is being checked. -/
def skewRun : State :=
  timed { inSt .trim with tlh := { granted := true }, dof := { running := some (.calRun 4) }, cal := { run := some { procs := 4, left := [3, 0] } } }

theorem test_meets_CalibrationRuns_skew : (skewRun.ch 0).cal.run = some { procs := 4, left := [3, 0] } ∧ skewRun.trk.tbLocked = true
    ∧ (3 : Fin 4) ∈ (CalRunState.now { procs := 4, left := [3, 0] }) ∧ (skewRun.ch 0).trk.state ≠ .locked
    ∧ ([3, 0] : List (Fin 4)).filter (· != 3) ≠ [] := by decide +kernel

theorem test_meets_VaultRestore_checking : (vaulted0 [] (checking route0)).restoreTest 0 0 = 0
    ∧ ((vaulted0 [] (checking route0)).ch 0).seq.checking = true := ⟨test_meets_VaultRestore_area [] (checking route0) rfl rfl rfl, rfl⟩

/-- A Doffer that has stalled `n` times; a dry run since instant 5. -/
def stalled (n : Nat) : State := wound { inSt .rest with dof := { stalls := n } }
def stall : StallSeen := { ch := 0, pass := Vector.replicate 3 0x1F, eyes := goodEyes }

/-- A Doffer restarting with a rescue to come; one stalled in the creel's initial training. -/
def restarting : State := wound { inSt .rest with dof := { restarting := true }, mem := { rescues := [2, 3] } }
def trainStall : State := doffing { permitting with train := .initial } [] (some (.train false)) true

theorem test_meets_DofferAndFaultLog_stall : (restarting.ch 0).dof.restarting = true ∧ (restarting.ch 0).mem.visit = none ∧ (restarting.ch 0).mem.rescues = 2 :: [3]
    ∧ stall.ch = 0 ∧ ((stalled 0).ch 0).mem.rescues = []
    ∧ (trainStall.ch 0).dof.restarting = false ∧ (trainStall.ch 0).flt.dofferLost = false ∧ (trainStall.ch 0).configured = true
    ∧ (trainStall.ch 0).dof.running = some (.train false) ∧ (trainStall.ch 0).mem.train = .initial
    ∧ (trainStall.ch 0).dof.queue.any Service.isRestore = false ∧ (trainStall.ch 0).dof.stalls = 0
    ∧ (trainStall.ch 0).mem.trainsAt stall.pass stall.eyes 1 = true := by decide +kernel
def dry : State := wound { inSt .run with ply := { dryAt := some 5 } }

theorem test_meets_DofferAndFaultLog : ((wound {}).ch 0).configured = false ∧ ((stalled 0).ch 0).dof.restarting = false
    ∧ ((stalled 0).ch 0).flt.dofferLost = false ∧ ((stalled 0).ch 0).configured = true ∧ ((stalled 0).ch 0).dof.running = none
    ∧ ((stalled 0).ch 0).dof.stalls = 0 ∧ ((stalled 0).ch 0).flt.degraded = false
    ∧ ((stalled 1).ch 0).dof.stalls ≠ 0 ∧ ((stalled 1).ch 0).mod.state = .rest ∧ ((stalled 1).ch 0).dof.queue = []
    ∧ ((stalled 1).ch 0).tlh.pinned = false ∧ ((stalled 0).ch 0).ply.dryAt = none ∧ (dry.ch 0).ply.dryAt = some 5
    ∧ max 0 (5 + dry.dryUs * us) ≤ 5 + dry.dryUs * us ∧ 5 + dry.dryUs * us < max 0 (6 + dry.dryUs * us) ∧ (dry.ch 0).flt.dryLong = false
    ∧ (dry.ch 0).mod.state = .run ∧ dry.policyUnmasked 0 ≠ 1 ∧ dry.portUp = true
    ∧ bit (1 : BitVec 16) 1 = false ∧ bit (1 : BitVec 16) 0 = true
    ∧ ((wound { inSt .rest with flt := { dryLong := true } }).ch 0).flt.ackable = false
    ∧ ((wound { inSt .held with mod := { state := .held, heldCause := Cause.fault }, flt := { halt := true } }).ch 0).flt.ackable = true := by decide +kernel

/-- A calibration record without sections, whose CRC field holds `w`. -/
def record (w : BitVec 32) : Sparse Word :=
  [(0, word calMagic), (1, 0xF0121), (2, Config.idSerial), (7, word (w.toNat * 2 ^ 32))]

/-- Bank A holds that record. -/
def committing (w : BitVec 32) : State := wound { inSt .rest with cal := { banks := (Vector.replicate 2 []).set 0 (record w) } }

theorem record_word (w : BitVec 32) (k : Nat) (h : k ≠ 7) : sget 0 (record w) k = sget 0 (record 0) k := by
  simp [record, sget, h]

theorem record_fld (w : BitVec 32) (lo : Nat) (h : lo + 8 ≤ 32) : fld (word (w.toNat * 2 ^ 32)) lo 8 = 0 := by
  have hw := w.isLt
  simp only [fld, word, BitVec.toNat_ofNat]
  rw [Nat.mod_eq_of_lt (by omega : w.toNat * 2 ^ 32 < 2 ^ 64)]
  have e : w.toNat * 2 ^ 32 = 2 ^ lo * (2 ^ 8 * (w.toNat * 2 ^ (24 - lo))) := by
    have : (2 : Nat) ^ 32 = 2 ^ lo * (2 ^ 8 * 2 ^ (24 - lo)) := by
      rw [← Nat.pow_add, ← Nat.pow_add]
      congr 1
      omega
    rw [this]
    ac_rfl
  rw [e, Nat.mul_div_cancel_left _ (Nat.two_pow_pos lo), Nat.mul_mod_right]

theorem record_byte (w : BitVec 32) (i : Nat) (h : i < 0x3C ∨ 0x40 ≤ i) : recByte (record w) i = recByte (record 0) i := by
  by_cases k : i / 8 = 7
  · have z : ∀ x : BitVec 32, sget 0 (record x) 7 = word (x.toNat * 2 ^ 32) := fun _ => rfl
    simp only [recByte, k, z]
    rw [record_fld w _ (by omega), record_fld 0 _ (by omega)]
  · simp only [recByte, record_word w _ k]

theorem record_bytes (w : BitVec 32) (off n : Nat) (h : off + n ≤ 0x3C ∨ 0x40 ≤ off) :
    recBytes (record w) off n = recBytes (record 0) off n := by
  have up : ∀ m i, i ∈ upTo m → i < m := by
    intro m
    induction m with
    | zero => intro i hi; simp [upTo] at hi
    | succ m ih =>
      intro i hi
      simp only [upTo, List.mem_append, List.mem_singleton] at hi
      rcases hi with hi | rfl
      · have := ih i hi; omega
      · omega
  refine List.map_congr_left fun i hi => record_byte w _ ?_
  have := up n i hi
  omega

theorem record_zero (w : BitVec 32) (i : Nat) (h : 0x40 ≤ i) : recByte (record w) i = 0 := by
  have e : sget 0 (record w) (i / 8) = 0 := by
    simp only [record, sget]
    split_ifs <;> first | omega | rfl
  rw [recByte, e]
  simp [fld]

theorem record_field_zero (w : BitVec 32) (off i : Nat) (h : 0x40 ≤ off) : recField (record w) off i = 0 := by
  simp only [recField, recNum, record_zero w (off + 2 * i) (by omega), record_zero w (off + 2 * i + 1) (by omega)]
  rfl

theorem record_allZero (w : BitVec 32) (off n : Nat) (h : 0x40 ≤ off) : allZero (record w) (off, n) = true := by
  simp only [allZero, recBytes, List.all_map, List.all_eq_true, Function.comp]
  intro i _
  simp [record_zero w (off + i) (by omega)]

theorem record_range (w : BitVec 32) : recRangeOk (record w) = true := by
  have a : allZero (record w) (0x30, 12) = true := by
    simp only [allZero, record_bytes w 0x30 12 (by omega)]
    decide +kernel
  have b : allZero (record w) (0x0B, 5) = true := by
    simp only [allZero, record_bytes w 0x0B 5 (by omega)]
    decide +kernel
  have c : allZero (record w) (0x1C, 4) = true := by
    simp only [allZero, record_bytes w 0x1C 4 (by omega)]
    decide +kernel
  simp (disch := omega) [recRangeOk, dacLimits, skewLimits, binLimits, a, b, c, record_allZero, record_field_zero, calSection, cellOk, rungOk]

theorem record_crc (w : BitVec 32) : recCrc (record w) = recCrc (record 0) := by
  simp only [recCrc, record_bytes w 0 0x3C (by omega), record_bytes w 0x40 0x1FC0 (by omega)]

theorem record_crc_field (w : BitVec 32) : BitVec.ofNat 32 (recNum (record w) 0x3C 4) = w := by
  have hw := w.isLt
  have z : sget 0 (record w) 7 = word (w.toNat * 2 ^ 32) := rfl
  apply BitVec.eq_of_toNat_eq
  simp only [recNum, recByte, fld, word, z, BitVec.toNat_ofNat, Nat.reduceAdd, Nat.reduceDiv, Nat.reduceMod, Nat.reduceMul, Nat.reducePow]
  omega

theorem record_serial (w : BitVec 32) : word (recNum (record w) 0x10 8) = Config.idSerial := by
  have z : sget 0 (record w) 2 = Config.idSerial := rfl
  generalize Config.idSerial = v at z
  have hv := v.isLt
  apply BitVec.eq_of_toNat_eq
  simp only [recNum, recByte, fld, word, z, BitVec.toNat_ofNat, Nat.reduceAdd, Nat.reduceDiv, Nat.reduceMod, Nat.reduceMul, Nat.reducePow]
  omega

theorem record_test (w : BitVec 32) (h : w = recCrc (record 0)) : recTest (record w) (some w) = 0 ∧ recTest (record w) none = 0 := by
  have z0 : sget 0 (record w) 0 = word calMagic := rfl
  have z1 : sget 0 (record w) 1 = 0xF0121 := rfl
  have m : recNum (record w) 0 8 = calMagic := by
    simp only [recNum, recByte, Nat.reduceAdd, Nat.reduceDiv, z0]
    decide +kernel
  have v : recByte (record w) 9 = 1 := by
    simp only [recByte, Nat.reduceDiv, z1]
    decide +kernel
  have t : recByte (record w) 8 = idStepping := by
    simp only [recByte, Nat.reduceDiv, z1]
    decide +kernel
  simp [recTest, m, v, t, record_serial w, record_crc_field w, record_crc w, record_range w]
  exact h

/-- The tests of a record look at its bytes alone. -/
theorem recTest_congr (b b' : Sparse Word) (key : Option (BitVec 32)) (h : ∀ k, sget 0 b k = sget 0 b' k) : recTest b key = recTest b' key := by
  have e : recByte b = recByte b' := funext fun i => by simp only [recByte, h]
  have n : ∀ k off, recNum b off k = recNum b' off k := by
    intro k
    induction k with
    | zero => intro off; rfl
    | succ k ih => intro off; simp only [recNum, e, ih]
  have y : ∀ off k, recBytes b off k = recBytes b' off k := fun off k => by simp only [recBytes, e]
  have z : allZero b = allZero b' := funext fun r => by simp only [allZero, y]
  have f : ∀ off i, recField b off i = recField b' off i := fun off i => by simp only [recField, n]
  have c : recCrc b = recCrc b' := by simp only [recCrc, y]
  have r : recRangeOk b = recRangeOk b' := by simp only [recRangeOk, dacLimits, skewLimits, binLimits, e, z, f]
  unfold recTest
  rw [n, n, n, e, c, r]

/-- An area's CAL part, word by word (R448). -/
theorem sget_cal (a : Area) (k : Nat) : sget 0 a.cal k = if k < 1024 then a.word (0x12000 + 8 * k) else 0 := by
  have h : ∀ n, swf 0 ((upTo n).foldl (fun b i => sput 0 b i (a.word (0x12000 + 8 * i))) []) = true ∧
      ∀ j, sget 0 ((upTo n).foldl (fun b i => sput 0 b i (a.word (0x12000 + 8 * i))) []) j = if j < n then a.word (0x12000 + 8 * j) else 0 := by
    intro n
    induction n with
    | zero => exact ⟨rfl, fun j => rfl⟩
    | succ n ih =>
      simp only [upTo, List.foldl_append, List.foldl_cons, List.foldl_nil]
      refine ⟨swf_sput 0 _ ih.1 _ _, fun j => ?_⟩
      rw [sget_sput 0 _ ih.1, ih.2]
      split_ifs <;> first | omega | rfl | (subst_vars; rfl)
  exact (h 1024).2 k

/-- CAL of an area that holds the record above with its own CRC. -/
def savedCal (w : BitVec 32) : Sparse Word := (5, 4) :: (record w).map fun e => (e.1 + 0x2400, e.2)

theorem sget_shift (l : Sparse Word) (o k : Nat) : sget 0 (l.map fun e => (e.1 + o, e.2)) (o + k) = sget 0 l k := by
  induction l with
  | nil => rfl
  | cons e l ih =>
    have a : o + k = e.1 + o ↔ k = e.1 := by omega
    have b : o + k < e.1 + o ↔ k < e.1 := by omega
    simp only [List.map_cons, sget, a, b, ih]

/-- A word of the CAL part of an area that holds only PARTS and those words. -/
theorem calOf_word (l : Sparse Word) (k : Nat) (h : 1024 ≤ k → sget 0 l k = 0) :
    sget 0 (areaOf ((5, 4) :: l.map fun e => (e.1 + 0x2400, e.2))).cal k = sget 0 l k := by
  have i : (0x12000 + 8 * k) / 8 = 0x2400 + k := by omega
  have a : (areaOf ((5, 4) :: l.map fun e => (e.1 + 0x2400, e.2))).words = (5, 4) :: l.map fun e => (e.1 + 0x2400, e.2) := rfl
  rw [sget_cal, Area.word, a, i, sget, if_neg (by omega : ¬0x2400 + k = 5), if_neg (by omega : ¬0x2400 + k < 5), sget_shift]
  split_ifs with h1 h2
  · omega
  · rfl
  · exact (h (by omega)).symm

theorem savedCal_word (w : BitVec 32) (k : Nat) : sget 0 (areaOf (savedCal w)).cal k = sget 0 (record w) k := by
  refine calOf_word (record w) k fun h => ?_
  simp only [record, sget]
  iterate 8 rw [if_neg (by omega)]

/-- A restore of CAL whose record passes its tests, and one whose record is empty. -/
theorem test_meets_VaultRestore_cal : recTest (areaOf (savedCal (recCrc (record 0)))).cal none = 0 ∧ bit (areaOf (savedCal (recCrc (record 0)))).parts 2 = true
    ∧ recTest (areaOf [(5, 4)]).cal none ≠ 0 := by
  refine ⟨?_, rfl, ?_⟩
  · rw [recTest_congr _ (record (recCrc (record 0))) _ (savedCal_word _)]
    exact (record_test (recCrc (record 0)) rfl).2
  · have h : ∀ k, sget 0 (areaOf [(5, 4)]).cal k = sget 0 [] k := fun k => calOf_word [] k fun _ => rfl
    rw [recTest_congr _ [] _ h]
    decide +kernel

/-- The word of a COMMIT of bank A with that CRC. -/
def commitWord (w : BitVec 32) : Word := w ++ 0#32

theorem commitWord_cmd (w : BitVec 32) : withCmd (commitWord w) 2 = w ++ 2#32 := by
  apply BitVec.eq_of_getLsbD_eq
  intro i hi
  simp only [withCmd, commitWord, word, BitVec.getLsbD_or, BitVec.getLsbD_and, BitVec.getLsbD_append]
  by_cases k : i < 32
  · simp only [k]
    interval_cases i <;> rfl
  · simp only [k]
    interval_cases i <;> first | omega | simp

theorem commitWord_keep (w : BitVec 32) : keep (w ++ 2#32 : Word) calReserved = 0 := by
  apply BitVec.eq_of_getLsbD_eq
  intro i hi
  simp only [keep, calReserved, word, BitVec.getLsbD_and, BitVec.getLsbD_append]
  by_cases k : i < 32
  · simp only [k]
    interval_cases i <;> rfl
  · simp only [k]
    interval_cases i <;> first | omega | simp

theorem commitWord_toNat (w : BitVec 32) : (w ++ 2#32 : Word).toNat = w.toNat * 2 ^ 32 + 2 := by
  simp only [BitVec.toNat_append, BitVec.toNat_ofNat]
  rw [Nat.mod_eq_of_lt (by omega), ← Nat.shiftLeft_add_eq_or_of_lt (by omega), Nat.shiftLeft_eq]

theorem committing_accepted (w : BitVec 32) (h : w = recCrc (record 0)) :
    (committing w).windowUp = true ∧ (committing w).calTest 0 (withCmd (commitWord w) 2) = 0 := by
  refine ⟨rfl, ?_⟩
  have hw := w.isLt
  have a : fld (w ++ 2#32 : Word) 0 4 = 2 := by
    simp only [fld, commitWord_toNat]
    omega
  have k : BitVec.ofNat 32 (fld (w ++ 2#32 : Word) 32 32) = w := by
    apply BitVec.eq_of_toNat_eq
    simp only [fld, commitWord_toNat, BitVec.toNat_ofNat]
    omega
  have b : bit (w ++ 2#32 : Word) 16 = false := by
    rw [bit, BitVec.getLsbD_append]
    rfl
  have c1 : ((committing w).ch 0).configured = true := rfl
  have c2 : (committing w).working = true := rfl
  have c3 : ((committing w).ch 0).mod.state = .rest := rfl
  have c4 : ((committing w).ch 0).dof.calQueued = false := rfl
  have c5 : ((committing w).ch 0).cal.active = 0 := rfl
  have c6 : ((committing w).ch 0).cal.bank 0 = record w := rfl
  simp [State.calTest, commitWord_cmd, a, k, b, c1, c2, c3, c4, c5, c6, commitWord_keep, (record_test w h).1]

/-- A COMMIT of a record sealed with its own CRC is accepted. -/
theorem test_meets_CalibrationBanks_commit : (committing (recCrc (record 0))).windowUp = true
    ∧ (committing (recCrc (record 0))).calTest 0 (withCmd (commitWord (recCrc (record 0))) 2) = 0 :=
  committing_accepted _ rfl

end Sys2Proof.Tests
end

section
/-! SUPPORT. Accesses of the host: where an address lies, the status of an access, and what a request that is refused, a read and a
write of one register leave (R4 to R15, R399 to R401). -/

namespace Sys2Proof.Machine

/-! ### What a valid block and a sent packet leave alone -/

@[simp] theorem State.heard_mod (s : State) : s.heard.mod = s.mod := by unfold State.heard; split <;> rfl
@[simp] theorem State.heard_skn (s : State) : s.heard.skn = s.skn := by unfold State.heard; split <;> rfl
@[simp] theorem State.heard_hp_state (s : State) : s.heard.hp.state = s.hp.state := by unfold State.heard; split <;> rfl
@[simp] theorem State.heard_hp_busy (s : State) : s.heard.hp.busy = s.hp.busy := by unfold State.heard; split <;> rfl
@[simp] theorem State.heard_hp_reqs (s : State) : s.heard.hp.reqs = s.hp.reqs := by unfold State.heard; split <;> rfl
@[simp] theorem State.heard_hp_cfg (s : State) : s.heard.hp.cfg = s.hp.cfg := by unfold State.heard; split <;> rfl
@[simp] theorem State.heard_hp_events (s : State) : s.heard.hp.events = s.hp.events := by unfold State.heard; split <;> rfl

/-- Whether the channel windows answer is a matter of the module's mode (R103). -/
theorem State.windowUp_of_mod {s u : State} (h : u.mod = s.mod) : u.windowUp = s.windowUp := by
  simp only [State.windowUp, State.working, h]

@[simp] theorem State.windowUp_atTime (s : State) (t : Tbu) : (s.atTime t).windowUp = s.windowUp := rfl
@[simp] theorem State.windowUp_heard (s : State) : s.heard.windowUp = s.windowUp := State.windowUp_of_mod s.heard_mod
@[simp] theorem State.portUp_atTime (s : State) (t : Tbu) : (s.atTime t).portUp = s.portUp := rfl

@[simp] theorem Hp.fill_reqs (now : Tbu) (n : Nat) (h : Hp) : (Hp.fill now n h).reqs = h.reqs := by
  induction n generalizing h with
  | zero => rfl
  | succ n ih =>
    unfold Hp.fill
    split
    · rfl
    · split
      · rw [ih]
      · rfl

@[simp] theorem State.send_hp_reqs (s : State) (p : Packet) : (s.send p).hp.reqs = s.hp.reqs := by
  unfold State.send
  split
  · exact Hp.fill_reqs ..
  · rfl

@[simp] theorem State.complete_some (s : State) (tag : BitVec 12) (st : Status) (d : List Word) :
    s.complete (some tag) st d = s.send (.cpl tag st d) := rfl

@[simp] theorem State.complete_none (s : State) (st : Status) (d : List Word) : s.complete none st d = s := rfl

@[simp] theorem State.complete_hp_reqs (s : State) (tag : Option (BitVec 12)) (st : Status) (d : List Word) :
    (s.complete tag st d).hp.reqs = s.hp.reqs := by
  cases tag <;> simp

/-! ### The address map (R4 to R6) -/

theorem placeOf_common {a : Nat} (h : a < 0x8000) : placeOf a = .common (a / 0x1000) (a % 0x1000) := if_pos h

theorem placeOf_inWindow {a : Nat} (h : 0x100000000 ≤ a) (h' : a < 0x200000000) :
    placeOf a = placeIn (Fin.ofNat 16 ((a - 0x100000000) / 0x10000000)) (a % 0x10000000) := by
  rw [placeOf, if_neg (by omega), if_pos ⟨h, h'⟩]

theorem placeOf_outside {a : Nat} (h : 0x8000 ≤ a) (h' : a < 0x100000000 ∨ 0x200000000 ≤ a) : placeOf a = .unmapped := by
  rw [placeOf, if_neg (by omega), if_neg (by omega)]

theorem placeIn_block {off : Nat} (ch : ChanId) (h : off < 0xA0000) :
    placeIn ch off = .block ch (off / 0x10000) (off % 0x10000) := if_pos h

theorem placeIn_gap {off : Nat} (ch : ChanId) (h : 0xA0000 ≤ off)
    (h' : off < 0x1000000 ∨ 0x1200000 ≤ off ∧ off < 0x8000000 ∨ 0xC800000 ≤ off) : placeIn ch off = .gap ch := by
  rw [placeIn, if_neg (by omega), if_neg (by omega), if_neg (by omega)]

/-- Every place in a channel window is the channel's. -/
theorem placeIn_chan (ch : ChanId) (off : Nat) : (placeIn ch off).chan = some ch := by
  unfold placeIn
  split
  · rfl
  · split
    · rfl
    · split <;> rfl

/-- Offset `off` of channel `ch`'s window. -/
theorem placeOf_winAddr (ch : ChanId) {off : Nat} (h : off < 0x10000000) : placeOf (winAddr ch off) = placeIn ch off := by
  have hc := ch.isLt
  unfold winAddr
  rw [placeOf_inWindow (by omega) (by omega)]
  congr 1
  · apply Fin.ext
    simp only [Fin.ofNat]
    omega
  · omega

/-- Outside the channel windows no address is a channel's. -/
theorem placeOf_chan_none {a : Nat} (h : a < 0x100000000 ∨ 0x200000000 ≤ a) : (placeOf a).chan = none := by
  by_cases hc : a < 0x8000
  · rw [placeOf_common hc]; rfl
  · rw [placeOf_outside (by omega) h]; rfl

theorem placeOf_mapped_of_unmappedAddr {a : Nat} (h : unmappedAddr a) : (placeOf a).mapped = false := by
  rcases h with ⟨h, h'⟩ | h | ⟨h, h', hg⟩
  · rw [placeOf_outside h (.inl h')]; rfl
  · rw [placeOf_outside (by omega) (.inr h)]; rfl
  · rw [placeOf_inWindow h h', placeIn_gap _ (by omega) (by omega)]; rfl

/-- The `8 * len` bytes from `a` on lie in the register blocks: in the common block or in the blocks of one channel window. -/
def inBlocks (a len : Nat) : Prop :=
  a + 8 * len ≤ 0x8000 ∨ 0x100000000 ≤ a ∧ a < 0x200000000 ∧ a % 0x10000000 + 8 * len ≤ 0xA0000

/-- A register of the common block or of a channel window. -/
theorem placeOf_register {a : Nat} (h : a < 0x8000 ∨ 0x100000000 ≤ a ∧ a < 0x200000000 ∧ a % 0x10000000 < 0xA0000) :
    (placeOf a).mapped = true ∧ (placeOf a).isWindow = false := by
  rcases h with h | ⟨h, h', hb⟩
  · rw [placeOf_common h]; exact ⟨rfl, rfl⟩
  · rw [placeOf_inWindow h h', placeIn_block _ hb]; exact ⟨rfl, rfl⟩

/-! ### The status of an access (R8, R13, R401) -/

/-- The first and last bytes of the words of an access, on which its status is decided. -/
def accessBytes (a len : Nat) : List Nat := (upTo len).flatMap fun i => [a + 8 * i, a + 8 * i + 7]

theorem mem_accessBytes {a len b : Nat} (h : b ∈ accessBytes a len) : a ≤ b ∧ b < a + 8 * len := by
  simp only [accessBytes, List.mem_flatMap, mem_upTo, List.mem_cons, List.not_mem_nil, or_false] at h
  obtain ⟨i, hi, hb⟩ := h
  omega

theorem self_mem_accessBytes (a : Nat) {len : Nat} (h : 1 ≤ len) : a ∈ accessBytes a len :=
  List.mem_flatMap.2 ⟨0, (mem_upTo len 0).2 h, by simp⟩

variable {s : State} {a len : Nat}

/-- An access that no unpowered channel window stops. -/
theorem State.accessTest_powered (h1 : 1 ≤ len) (h2 : len ≤ 32)
    (hw : s.windowUp = true ∨ ∀ b ∈ accessBytes a len, (placeOf (b % 2 ^ 40)).chan = none) :
    s.accessTest a len =
      if (accessBytes a len).any fun b => !(placeOf (b % 2 ^ 40)).mapped then St.unmapped
      else if a % 8 ≠ 0 then St.misaligned
      else if (placeOf a).isWindow then (if winAligned (a % 0x8000000) (8 * len) then St.normal else St.misaligned)
      else if 1 < len then St.misaligned
      else St.normal := by
  have hp : (!s.windowUp && (accessBytes a len).any fun b => (placeOf (b % 2 ^ 40)).chan.isSome) = false := by
    rcases hw with hw | hw
    · rw [hw]; rfl
    · rw [List.any_eq_false.2 fun b hb => by rw [hw b hb]; decide, Bool.and_false]
  rw [State.accessTest, if_neg (by omega)]
  exact if_neg (Bool.eq_false_iff.1 hp)

/-- An access in a channel window while the channel domains are unpowered. -/
theorem State.accessTest_unpowered (h1 : 1 ≤ len) (h2 : len ≤ 32) (ha : a < 2 ^ 40) (hw : s.windowUp = false)
    (hc : (placeOf a).chan.isSome = true) : s.accessTest a len = St.unpowered := by
  have hp : ((accessBytes a len).any fun b => (placeOf (b % 2 ^ 40)).chan.isSome) = true :=
    List.any_eq_true.2 ⟨a, self_mem_accessBytes a h1, by rwa [Nat.mod_eq_of_lt ha]⟩
  rw [State.accessTest, if_neg (by omega)]
  exact if_pos (by rw [hw]; exact hp)

/-- An access of an unmapped address (R13). -/
theorem State.accessTest_unmapped (h1 : 1 ≤ len) (h2 : len ≤ 32) (ha : a < 2 ^ 40)
    (hw : s.windowUp = true ∨ a + 8 * len ≤ 0x100000000 ∨ 0x200000000 ≤ a) (hm : (placeOf a).mapped = false) :
    s.accessTest a len = St.unmapped := by
  have hc : s.windowUp = true ∨ ∀ b ∈ accessBytes a len, (placeOf (b % 2 ^ 40)).chan = none := by
    refine hw.imp_right fun hw b hb => placeOf_chan_none ?_
    obtain ⟨hl, hu⟩ := mem_accessBytes hb
    omega
  rw [State.accessTest_powered h1 h2 hc, if_pos]
  exact List.any_eq_true.2 ⟨a, self_mem_accessBytes a h1, by rw [Nat.mod_eq_of_lt ha, hm]; rfl⟩

/-- An access of the register blocks is carried out only when it is one aligned word (R8). -/
theorem State.accessTest_inBlocks (h1 : 1 ≤ len) (h2 : len ≤ 32) (hb : inBlocks a len)
    (hw : s.windowUp = true ∨ a + 8 * len ≤ 0x8000) :
    s.accessTest a len = if a % 8 ≠ 0 ∨ len ≠ 1 then St.misaligned else St.normal := by
  have hr : ∀ b, a ≤ b → b < a + 8 * len → b < 0x8000 ∨ 0x100000000 ≤ b ∧ b < 0x200000000 ∧ b % 0x10000000 < 0xA0000 := by
    unfold inBlocks at hb
    omega
  have hlt : ∀ b, a ≤ b → b < a + 8 * len → b % 2 ^ 40 = b := fun b hl hu => by
    have := hr b hl hu
    omega
  have hc : s.windowUp = true ∨ ∀ b ∈ accessBytes a len, (placeOf (b % 2 ^ 40)).chan = none := by
    refine hw.imp_right fun hw b hb => ?_
    obtain ⟨hl, hu⟩ := mem_accessBytes hb
    rw [hlt b hl hu]
    exact placeOf_chan_none (by omega)
  have hm : ((accessBytes a len).any fun b => !(placeOf (b % 2 ^ 40)).mapped) = false := by
    refine List.any_eq_false.2 fun b hb => ?_
    obtain ⟨hl, hu⟩ := mem_accessBytes hb
    rw [hlt b hl hu, (placeOf_register (hr b hl hu)).1]
    decide
  rw [State.accessTest_powered h1 h2 hc, if_neg (Bool.eq_false_iff.1 hm), (placeOf_register (hr a (by omega) (by omega))).2]
  by_cases h8 : a % 8 = 0
  · by_cases hl : len = 1
    · simp [h8, hl]
    · simp [h8, hl, show 1 < len by omega]
  · simp [h8]

/-- One aligned word of the register blocks. -/
theorem State.accessTest_word (h8 : a % 8 = 0) (hb : inBlocks a 1) (hw : s.windowUp = true ∨ a + 8 ≤ 0x8000) :
    s.accessTest a 1 = St.normal := by
  rw [State.accessTest_inBlocks (by omega) (by omega) hb (by omega)]
  simp [h8]

/-- Every aligned word of the common block is accepted. -/
theorem State.accessTest_common {a : Nat} (h : a < 0x8000) (h8 : a % 8 = 0) : s.accessTest a 1 = St.normal :=
  State.accessTest_word h8 (.inl (by omega)) (.inr (by omega))

/-! ### Requests (R400, R401) -/

theorem State.request_refused {r : HostReq} {st : Status} (h : s.accessTest r.addr.toNat r.len.toNat = st) (hst : st ≠ St.normal) :
    s.request r = s.complete r.tag st r.noData := by
  subst h
  exact if_pos hst

/-- An accepted request outside the bobbin window. -/
theorem State.request_register {r : HostReq} {p : Place} (h : s.accessTest r.addr.toNat r.len.toNat = St.normal)
    (hp : placeOf r.addr.toNat = p) (hw : p.isWindow = false) :
    s.request r =
      if !r.write then (s.placeCapture p).complete r.tag St.normal [s.placeRead p]
      else if p.isBcast then s.bcastWrite r.tag (r.data.headD 0)
      else (s.placeWrite p (r.data.headD 0)).1.complete r.tag (s.placeWrite p (r.data.headD 0)).2 [] := by
  subst hp
  unfold State.request
  simp only [h, ne_eq, not_true_eq_false, if_false]
  split
  · next e => simp [e, Place.isWindow] at hw
  · rfl

/-- A read of one register. -/
theorem State.request_read {r : HostReq} {p : Place} (h : s.accessTest r.addr.toNat r.len.toNat = St.normal)
    (hp : placeOf r.addr.toNat = p) (hw : p.isWindow = false) (hr : r.write = false) :
    s.request r = (s.placeCapture p).complete r.tag St.normal [s.placeRead p] := by
  rw [State.request_register h hp hw, hr]
  rfl

/-- A write of one register, HP_BCAST_DATA apart. -/
theorem State.request_write {r : HostReq} {p : Place} (h : s.accessTest r.addr.toNat r.len.toNat = St.normal)
    (hp : placeOf r.addr.toNat = p) (hw : p.isWindow = false) (hb : p.isBcast = false) (hr : r.write = true) :
    s.request r = (s.placeWrite p (r.data.headD 0)).1.complete r.tag (s.placeWrite p (r.data.headD 0)).2 [] := by
  rw [State.request_register h hp hw, hr, hb]
  rfl

/-- A write of HP_BCAST_DATA. -/
theorem State.request_bcastWrite {r : HostReq} {p : Place} (h : s.accessTest r.addr.toNat r.len.toNat = St.normal)
    (hp : placeOf r.addr.toNat = p) (hw : p.isWindow = false) (hb : p.isBcast = true) (hr : r.write = true) :
    s.request r = s.bcastWrite r.tag (r.data.headD 0) := by
  rw [State.request_register h hp hw, hr, hb]
  rfl

theorem State.settle_of_reqs_nil (h : s.hp.reqs = []) : s.settle = s := by
  rw [State.settle, h]; rfl

/-- A request that arrives when none waits is executed at once. -/
theorem State.requestIn_idle {r : HostReq} {u : State} (hb : s.hp.busy = false) (h : s.request r = u) (hq : u.hp.reqs = []) :
    s.requestIn r = u := by
  rw [State.requestIn, hb, if_neg (by simp), h, State.settle_of_reqs_nil hq]

theorem State.requestIn_refused {r : HostReq} {st : Status} (hb : s.hp.busy = false) (hq : s.hp.reqs = [])
    (h : s.accessTest r.addr.toNat r.len.toNat = st) (hst : st ≠ St.normal) : s.requestIn r = s.complete r.tag st r.noData :=
  State.requestIn_idle hb (State.request_refused h hst) (by simp [hq])

/-- A read of one register, with the capture it makes. -/
theorem State.requestIn_read {r : HostReq} {p : Place} (hbusy : s.hp.busy = false)
    (h : s.accessTest r.addr.toNat r.len.toNat = St.normal) (hp : placeOf r.addr.toNat = p) (hw : p.isWindow = false)
    (hr : r.write = false) (hq : (s.placeCapture p).hp.reqs = []) :
    s.requestIn r = (s.placeCapture p).complete r.tag St.normal [s.placeRead p] :=
  State.requestIn_idle hbusy (State.request_read h hp hw hr) ((State.complete_hp_reqs ..).trans hq)

/-- A write of one register, HP_BCAST_DATA apart, of which `w` is the outcome. -/
theorem State.requestIn_write {r : HostReq} {p : Place} {w : State × Status} (hbusy : s.hp.busy = false)
    (h : s.accessTest r.addr.toNat r.len.toNat = St.normal) (hp : placeOf r.addr.toNat = p) (hw : p.isWindow = false)
    (hb : p.isBcast = false) (hr : r.write = true) (e : s.placeWrite p (r.data.headD 0) = w) (hq : w.1.hp.reqs = []) :
    s.requestIn r = w.1.complete r.tag w.2 [] := by
  subst e
  exact State.requestIn_idle hbusy (State.request_write h hp hw hb hr) ((State.complete_hp_reqs ..).trans hq)

/-! ### Packets and rows -/

/-- The port takes an RD packet (R400). -/
theorem exec_rd (t : Tbu) (tag : BitVec 12) (l : Byte) (addr : BitVec 40) (hp : s.portUp = true) (hu : s.hp.state = .up) :
    exec (.rd t tag l addr) s = .next ((s.atTime t).heard.rdPacket tag l addr) := by
  have h : (s.atTime t).takes = true := by simp [State.takes, hp, hu]
  exact congrArg Host.Outcome.next (if_pos h)

/-- The port takes a WR packet (R400). -/
theorem exec_wr (t : Tbu) (tag : BitVec 12) (l : Byte) (addr : BitVec 40) (d : List Word) (hp : s.portUp = true)
    (hu : s.hp.state = .up) : exec (.wr t tag l addr d) s = .next ((s.atTime t).heard.wrPacket tag l addr d) := by
  have h : (s.atTime t).takes = true := by simp [State.takes, hp, hu]
  exact congrArg Host.Outcome.next (if_pos h)

/-- A WR packet of one word. -/
theorem exec_wr_word (t : Tbu) (tag : BitVec 12) (addr : BitVec 40) (v : Word) (hp : s.portUp = true) (hu : s.hp.state = .up) :
    exec (.wr t tag 1 addr [v]) s =
      .next ((s.atTime t).heard.requestIn { tag := some tag, write := true, len := 1, addr := addr, data := [v] }) :=
  exec_wr t tag 1 addr [v] hp hu

theorem exec_registerWrite (t : Tbu) (addr : BitVec 40) (v : Word) (hp : s.portUp = true) :
    exec (.registerWrite t addr v) s = .next ((s.atTime t).requestIn (rowRequest addr v)) :=
  congrArg Host.Outcome.next (State.ifPort_pos _ hp)

theorem exec_hpBcastData (t : Tbu) (v : Word) (hp : s.portUp = true) :
    exec (.hpBcastData t v) s = .next ((s.atTime t).requestIn (rowRequest bcastAddr v)) :=
  congrArg Host.Outcome.next (State.ifPort_pos _ hp)

/-- An RD whose status is not "normal" sends words of 0 and changes nothing else. -/
theorem exec_rd_refused (t : Tbu) (tag : BitVec 12) {l : Byte} {addr : BitVec 40} {st : Status} (hp : s.portUp = true)
    (hu : s.hp.state = .up) (hb : s.hp.busy = false) (hq : s.hp.reqs = [])
    (h : (s.atTime t).heard.accessTest addr.toNat l.toNat = st) (hst : st ≠ St.normal) :
    exec (.rd t tag l addr) s = .next ((s.atTime t).heard.send (.cpl tag st (List.replicate (min 32 l.toNat) 0))) := by
  rw [exec_rd t tag l addr hp hu, State.rdPacket, State.requestIn_refused (by simpa using hb) (by simpa using hq) h hst]
  rfl

/-- A WR whose status is not "normal" is discarded. -/
theorem exec_wr_refused (t : Tbu) (tag : BitVec 12) {l : Byte} {addr : BitVec 40} {d : List Word} {st : Status}
    (hp : s.portUp = true) (hu : s.hp.state = .up) (hb : s.hp.busy = false) (hq : s.hp.reqs = []) (hd : d.length = l.toNat)
    (h : (s.atTime t).heard.accessTest addr.toNat l.toNat = st) (hst : st ≠ St.normal) :
    exec (.wr t tag l addr d) s = .next ((s.atTime t).heard.send (.cpl tag st [])) := by
  rw [exec_wr t tag l addr d hp hu, State.wrPacket, if_pos hd,
    State.requestIn_refused (by simpa using hb) (by simpa using hq) h hst]
  rfl

end Sys2Proof.Machine
end

section
/-! SUPPORT. The fields of HP_BCAST_VEC and the loop of a broadcast write over the named channels (R403). -/

namespace Sys2Proof.Machine

/-! ### Nibbles -/

theorem testBit_fld {n : Nat} (w : BitVec n) (lo len i : Nat) : (fld w lo len).testBit i = (decide (i < len) && bit w (lo + i)) := by
  simp [fld, bit, Nat.testBit_mod_two_pow, Nat.testBit_div_two_pow, BitVec.getLsbD, Nat.add_comm]

theorem bit_word (n k : Nat) : bit (word n) k = (decide (k < 64) && n.testBit k) := by
  simp [bit, word, BitVec.getLsbD_ofNat]

theorem bit_putNibble (v : Word) (n k j : Nat) (hj : j < 64) :
    bit (putNibble v n k) j =
      (bit v j && !(decide (4 * n ≤ j) && decide (j - 4 * n < 4)) || decide (4 * n ≤ j) && k.testBit (j - 4 * n)) := by
  have h15 : (15 : Nat).testBit (j - 4 * n) = decide (j - 4 * n < 4) := Nat.testBit_two_pow_sub_one 4 _
  have hb := bit_word (15 * 2 ^ (4 * n)) j
  have hk := bit_word (k * 2 ^ (4 * n)) j
  unfold bit at hb hk
  simp only [putNibble, bit, BitVec.getLsbD_or, BitVec.getLsbD_and, BitVec.getLsbD_not, hb, hk, Nat.testBit_mul_two_pow, h15, hj,
    decide_true, Bool.true_and]

/-- A nibble that is put reads back, and the others stay. -/
theorem fld_putNibble (v : Word) {n k m : Nat} (hk : k < 16) (hm : m < 16) :
    fld (putNibble v n k) (4 * m) 4 = if m = n then k else fld v (4 * m) 4 := by
  have hkb : ∀ i, 4 ≤ i → k.testBit i = false := fun i hi =>
    Nat.testBit_lt_two_pow (Nat.lt_of_lt_of_le hk (Nat.pow_le_pow_right Nat.two_pos hi))
  apply Nat.eq_of_testBit_eq
  intro i
  rw [testBit_fld]
  by_cases hi : i < 4
  · rw [bit_putNibble v n k _ (by omega)]
    by_cases e : m = n
    · subst e; simp [hi]
    · rw [if_neg e, testBit_fld]
      by_cases h : 4 * n ≤ 4 * m + i
      · simp [h, show ¬ 4 * m + i - 4 * n < 4 by omega, hkb _ (show 4 ≤ 4 * m + i - 4 * n by omega)]
      · simp [h]
  · by_cases e : m = n
    · simp [hi, e, hkb i (by omega)]
    · simp [hi, e, testBit_fld]

/-- The nibbles of a list of channels, all put to `k`. -/
def putNibbles (k : Nat) (l : List ChanId) (v : Word) : Word := l.foldl (fun v c => putNibble v c.val k) v

theorem fld_putNibbles {k : Nat} (hk : k < 16) (l : List ChanId) (v : Word) (d : ChanId) :
    fld (putNibbles k l v) (4 * d.val) 4 = if d ∈ l then k else fld v (4 * d.val) 4 := by
  induction l generalizing v with
  | nil => rfl
  | cons c l ih =>
    rw [putNibbles, List.foldl_cons, ← putNibbles, ih, fld_putNibble v hk d.isLt]
    by_cases hl : d ∈ l
    · simp [hl]
    · simp [hl, Fin.ext_iff]

/-- A vector of the broadcast: E for the channels named that have no status yet. -/
theorem fld_bcastStart (mask : BitVec 16) (d : ChanId) :
    fld (bcastStart mask) (4 * d.val) 4 = if bit mask d.val then 0xE else 0xF := by
  have hF : fld (BitVec.allOnes 64) (4 * d.val) 4 = 0xF := by revert d; decide
  rw [bcastStart, ← putNibbles, fld_putNibbles (by omega), hF]
  simp only [chOf_mem]

/-! ### The end of a broadcast -/

theorem Hp.bcastIn_iff (h : Hp) : h.bcastIn = true ↔ ∀ c : ChanId, fld h.bcastVec (4 * c.val) 4 ≠ 0xE := by
  simp only [Hp.bcastIn, List.all_eq_true, mem_upTo, bne_iff_ne]
  exact ⟨fun h c => h c.val c.isLt, fun h n hn => h ⟨n, hn⟩⟩

/-- The port after the last status of a broadcast that has no completion of its own. -/
def Hp.bcastDone (h : Hp) : Hp := { h with busy := false, bcastTag := none, events := evSet h.events HpEv.bcastDone }

theorem State.bcastEnd_of_in {s : State} (ht : s.hp.bcastTag = some none) (hi : s.hp.bcastIn = true) :
    s.bcastEnd = { s with hp := s.hp.bcastDone } := by
  unfold State.bcastEnd
  rw [ht]
  exact if_pos hi

theorem State.bcastEnd_of_open {s : State} (hi : ¬ s.hp.bcastIn = true) : s.bcastEnd = s := by
  unfold State.bcastEnd
  split
  · rfl
  · exact if_neg hi

theorem State.bcastEnd_of_none {s : State} (ht : s.hp.bcastTag = none) : s.bcastEnd = s := by
  unfold State.bcastEnd
  rw [ht]

/-- The state with the status of a channel written into HP_BCAST_VEC. -/
def State.withStatus (s : State) (c : ChanId) (st : Status) : State :=
  { s with hp := { s.hp with bcastVec := putNibble s.hp.bcastVec c.val st.toNat } }

theorem State.bcastStatus_eq (s : State) (c : ChanId) (st : Status) : s.bcastStatus c st = (s.withStatus c st).bcastEnd := rfl

/-- With the status of its last open channel a broadcast ends, so that its end may be looked for once, behind the loop. -/
theorem forCh_bcastEnd (turn : State → ChanId → State) (l : List ChanId) (s : State) (ht : s.hp.bcastTag = some none)
    (hE : ∀ c : ChanId, fld s.hp.bcastVec (4 * c.val) 4 = 0xE ↔ c ∈ l) :
    (s.bcastEnd.forCh l turn).bcastEnd = (s.forCh l turn).bcastEnd := by
  cases l with
  | nil =>
    have hi : s.hp.bcastIn = true := (Hp.bcastIn_iff _).2 fun d h => absurd ((hE d).1 h) List.not_mem_nil
    have hd : s.bcastEnd.hp.bcastTag = none := by rw [State.bcastEnd_of_in ht hi]; rfl
    exact State.bcastEnd_of_none hd
  | cons d r =>
    rw [State.bcastEnd_of_open fun hi => (Hp.bcastIn_iff _).1 hi d ((hE d).2 List.mem_cons_self)]

/-- A loop that changes each named channel by itself and writes its status ends the broadcast with its last turn: the named
channels that are not in yet are those whose nibble reads E. -/
theorem forCh_bcast (turn : State → ChanId → State) (f : Chan → Chan) (st : Status) (up : Bool) (hst : st.toNat ≠ 0xE)
    (hturn : ∀ u c, u.windowUp = up → turn u c = (u.modCh c f).bcastStatus c st) (l : List ChanId) (hl : l.Nodup) (s u : State)
    (hw : s.windowUp = up) (ht : s.hp.bcastTag = some none) (hE : ∀ c : ChanId, fld s.hp.bcastVec (4 * c.val) 4 = 0xE ↔ c ∈ l)
    (hu : (s.forCh l turn).bcastEnd = u) :
    u = { s with hp := ({ s.hp with bcastVec := putNibbles st.toNat l s.hp.bcastVec } : Hp).bcastDone, chans := u.chans } ∧
      ∀ d : ChanId, u.ch d = if d ∈ l then f (s.ch d) else s.ch d := by
  induction l generalizing s with
  | nil =>
    have hi : s.hp.bcastIn = true := (Hp.bcastIn_iff _).2 fun c h => absurd ((hE c).1 h) List.not_mem_nil
    rw [show s.forCh [] turn = s from rfl, State.bcastEnd_of_in ht hi] at hu
    subst hu
    exact ⟨rfl, fun d => by simp [State.ch]⟩
  | cons c l ih =>
    obtain ⟨hcl, hl⟩ := List.nodup_cons.1 hl
    generalize hs1 : (s.modCh c f).withStatus c st = s1
    have hE1 : ∀ d : ChanId, fld s1.hp.bcastVec (4 * d.val) 4 = 0xE ↔ d ∈ l := by
      intro d
      subst hs1
      rw [State.withStatus, fld_putNibble _ st.isLt d.isLt]
      by_cases e : d = c
      · subst e; simp [hst, hcl]
      · simp [e, Fin.val_ne_iff.2 e, hE d]
    have hfirst : turn s c = s1.bcastEnd := by rw [hturn s c hw, State.bcastStatus_eq, hs1]
    have ht1 : s1.hp.bcastTag = some none := by subst hs1; exact ht
    have hw1 : s1.windowUp = up := by subst hs1; exact hw
    rw [show s.forCh (c :: l) turn = (turn s c).forCh l turn from rfl, hfirst, forCh_bcastEnd turn l s1 ht1 hE1] at hu
    obtain ⟨heq, hch⟩ := ih hl s1 hw1 ht1 hE1 hu
    subst hs1
    refine ⟨heq, fun d => ?_⟩
    rw [hch d, show ((s.modCh c f).withStatus c st).ch d = (s.modCh c f).ch d from rfl, State.ch_modCh]
    by_cases e : d = c
    · subst e; simp [hcl]
    · simp [e]

end Sys2Proof.Machine
end

section
/-! Accesses that are refused (R8, R13). -/

namespace Sys2Proof.Machine

/-- Settles O19: every byte of an access decides its status, which R401's order makes "unmapped" before "misaligned". -/
theorem refusedAccesses : Obligations.RefusedAccesses := by
  intro t tag len a data s hp hu hb hq h1 h32 hd hw code hcode
  have hst : (s.atTime t).heard.accessTest a.toNat len.toNat = code ∧ code ≠ St.normal := by
    rcases hcode with ⟨hun, rfl⟩ | ⟨hblk, hmis, rfl⟩
    · have ha : a.toNat < 2 ^ 40 := a.isLt
      exact ⟨State.accessTest_unmapped h1 h32 ha (by simpa using hw) (placeOf_mapped_of_unmappedAddr hun), by decide⟩
    · have hl : a.toNat % 8 ≠ 0 ∨ len.toNat ≠ 1 := hmis.imp_right fun hl e => hl (BitVec.eq_of_toNat_eq e)
      have hw' : s.windowUp = true ∨ a.toNat + 8 * len.toNat ≤ 0x8000 := hw.imp_right fun hw => by omega
      exact ⟨by rw [State.accessTest_inBlocks h1 h32 hblk (by simpa using hw'), if_pos hl], by decide⟩
  obtain ⟨hst, hne⟩ := hst
  have hread := exec_rd_refused t tag hp hu hb hq hst hne
  rw [Nat.min_eq_right h32] at hread
  exact ⟨hread, exec_wr_refused t tag hp hu hb hq hd hst hne⟩

end Sys2Proof.Machine
end

section
/-! Writes of registers: by a row, by a WR packet and by a broadcast (R9 to R12, R399, R400, R403). -/

namespace Sys2Proof.Machine

/-! ### Bits cleared by writing 1 (R9, R10) -/

/-- With no setting in the cycle of the write, no bit is kept back from it. -/
theorem Sticky.since_of_le {e : Sticky} {n : Nat} (h : ∀ x ∈ e.last, x.1 ≤ n) : e.since n = 0 := by
  have hf : e.last.filter (fun x => decide (n < x.1)) = [] := List.filter_eq_nil_iff.2 fun x hx => by simpa using h x hx
  rw [Sticky.since, hf]
  rfl

/-- A bit stays set through a union. -/
theorem bit_foldl_or {l : List (Nat × Word)} {w : Word} {k : Nat} (h : bit w k = true) :
    bit (l.foldl (fun w x => w ||| x.2) w) k = true := by
  induction l generalizing w with
  | nil => exact h
  | cons x l ih =>
    refine ih ?_
    unfold bit at h ⊢
    rw [BitVec.getLsbD_or, h, Bool.true_or]

theorem bit_mask1_self {k : Nat} (hk : k < 64) : bit (mask1 64 k) k = true := by simp [bit_mask1, hk]

theorem mask1_ne_zero {k : Nat} (hk : k < 64) : mask1 64 k ≠ 0 := by
  intro h
  have hb := bit_mask1_self hk
  rw [h] at hb
  simp [bit] at hb

/-- A bit that the hardware sets after the first `n` settings is among those set since. -/
theorem bit_since_evSet {e : Sticky} {n k : Nat} (hk : k < 64) (hn : n ≤ e.sets) : bit ((evSet e k).since n) k = true := by
  have hd : n < e.sets + 1 := by omega
  rw [evSet, evMask, if_neg (mask1_ne_zero hk), Sticky.since]
  simp only [List.filter_cons, hd, decide_true, if_true, List.foldl_cons]
  refine bit_foldl_or ?_
  rw [bit, BitVec.getLsbD_or]
  exact (congrArg _ (bit_mask1_self hk)).trans (Bool.or_true _)

theorem bit_evSet_self {e : Sticky} {k : Nat} (hk : k < 64) : bit (evSet e k).bits k = true := by
  rw [evSet, evMask, if_neg (mask1_ne_zero hk)]
  have hb := bit_mask1_self hk
  unfold bit at hb ⊢
  rw [BitVec.getLsbD_or, hb, Bool.or_true]

theorem clearByOne : Clause.ClearByOne := by
  refine ⟨fun e n v h => ?_, fun e n k v hk hn => ?_⟩
  · simp [Sticky.clear, Sticky.since_of_le h]
  · have hb := bit_evSet_self (e := e) hk
    have hs := bit_since_evSet hk hn
    unfold bit at hb hs ⊢
    rw [Sticky.clear, BitVec.getLsbD_and, BitVec.getLsbD_or, hb, hs, Bool.or_true, Bool.and_true]

/-! ### Writes by a row or a packet -/

variable {s : State}

/-- A write of an aligned word of the common block, HP_BCAST_DATA apart, of which `w` is the outcome. -/
theorem State.requestIn_common {a : BitVec 40} {v : Word} {tag : Option (BitVec 12)} {w : State × Status} (hb : s.hp.busy = false)
    (h : a.toNat < 0x8000) (h8 : a.toNat % 8 = 0) (hc : (Place.common (a.toNat / 0x1000) (a.toNat % 0x1000)).isBcast = false)
    (e : s.commonWrite (a.toNat / 0x1000) (a.toNat % 0x1000) v = w) (hq : w.1.hp.reqs = []) :
    s.requestIn { tag := tag, write := true, len := 1, addr := a, data := [v] } = w.1.complete tag w.2 [] :=
  State.requestIn_write hb (State.accessTest_common h h8) (placeOf_common h) rfl hc rfl e hq

/-- The ID block ignores writes (R2). -/
theorem State.commonWrite_id (off : Nat) (v : Word) : s.commonWrite 0 off v = (s, St.normal) := rfl

/-- A write of an aligned word of the ID block. -/
theorem State.requestIn_id {a : BitVec 40} (v : Word) (tag : Option (BitVec 12)) (hb : s.hp.busy = false) (hq : s.hp.reqs = [])
    (h : a.toNat < 0x1000) (h8 : a.toNat % 8 = 0) :
    s.requestIn { tag := tag, write := true, len := 1, addr := a, data := [v] } = s.complete tag St.normal [] := by
  have hd : a.toNat / 0x1000 = 0 := by omega
  exact State.requestIn_common (w := (s, St.normal)) hb (by omega) h8 (by rw [hd]; rfl) (by rw [hd]; exact State.commonWrite_id _ v) hq

/-- A row's write below 1000H, aligned or not, changes nothing. -/
theorem State.requestIn_row_id {a : BitVec 40} (v : Word) (hb : s.hp.busy = false) (hq : s.hp.reqs = []) (h : a.toNat < 0x1000) :
    s.requestIn (rowRequest a v) = s := by
  by_cases h8 : a.toNat % 8 = 0
  · exact State.requestIn_id v none hb hq h h8
  · have ht : s.accessTest a.toNat 1 = St.misaligned := by
      rw [State.accessTest_inBlocks (by omega) (by omega) (.inl (by omega)) (.inr (by omega)), if_pos (.inl h8)]
    exact State.requestIn_refused hb hq ht (by decide)

theorem regAddr_toNat (c : ChanId) {b off : Nat} (hb : b < 10) (ho : off < 0x10000) :
    (regAddr c b off).toNat = winAddr c (b * 0x10000 + off) := by
  have hc := c.isLt
  rw [regAddr, BitVec.toNat_ofNat, Nat.mod_eq_of_lt (by omega), winAddr]
  omega

/-- Where a register of a channel lies. -/
theorem placeOf_winAddr_block (c : ChanId) {b off : Nat} (hb : b < 10) (ho : off < 0x10000) :
    placeOf (winAddr c (b * 0x10000 + off)) = .block c b off := by
  rw [placeOf_winAddr c (by omega), placeIn_block c (by omega)]
  congr 1 <;> omega

/-- The status of an access to a register of a channel window: "normal" while the channel domains are powered (R401). -/
def powerStatus (up : Bool) : Status := if up then St.normal else St.unpowered

/-- An aligned word of the register blocks of a channel window: accepted while the channel domains are powered. -/
theorem State.accessTest_winAddr (c : ChanId) {off : Nat} (h : off + 8 ≤ 0xA0000) (h8 : off % 8 = 0) :
    s.accessTest (winAddr c off) 1 = powerStatus s.windowUp := by
  have hc := c.isLt
  have ha : winAddr c off = 0x100000000 + c.val * 0x10000000 + off := rfl
  cases hw : s.windowUp with
  | true => exact State.accessTest_word (by omega) (.inr (by omega)) (.inl hw)
  | false =>
    refine State.accessTest_unpowered (by omega) (by omega) (by omega) hw ?_
    rw [placeOf_winAddr c (by omega), placeIn_chan]
    rfl

/-- A row's write of a register of a channel, those of the bobbin store's reload apart: `w` is its outcome. -/
theorem State.requestIn_row_block (c : ChanId) {b off : Nat} {v : Word} {w : State × Status} (hb : b < 10) (ho : off + 8 ≤ 0x10000)
    (h8 : off % 8 = 0) (hbusy : s.hp.busy = false) (hw : s.windowUp = true) (e : s.placeWrite (.block c b off) v = w)
    (hq : w.1.hp.reqs = []) : s.requestIn (rowRequest (regAddr c b off) v) = w.1 := by
  have hn := regAddr_toNat c hb (off := off) (by omega)
  have ht : s.accessTest (regAddr c b off).toNat 1 = St.normal := by
    rw [hn, State.accessTest_winAddr c (by omega) (by omega), hw]
    rfl
  exact State.requestIn_write hbusy ht (hn ▸ placeOf_winAddr_block c hb (by omega)) rfl rfl rfl e hq

/-- A row's write of a register of a channel while the channel domains are unpowered changes nothing. -/
theorem State.requestIn_row_unpowered (c : ChanId) {b off : Nat} (v : Word) (hb : b < 10) (ho : off + 8 ≤ 0x10000)
    (h8 : off % 8 = 0) (hbusy : s.hp.busy = false) (hq : s.hp.reqs = []) (hw : s.windowUp = false) :
    s.requestIn (rowRequest (regAddr c b off) v) = s := by
  have ht : s.accessTest (regAddr c b off).toNat 1 = St.unpowered := by
    rw [regAddr_toNat c hb (by omega), State.accessTest_winAddr c (by omega) (by omega), hw]
    rfl
  exact State.requestIn_refused hbusy hq ht (by decide)

/-- MOD_EVENTS (R131). -/
theorem State.commonWrite_modEvents (v : Word) :
    s.commonWrite 1 0x010 v =
      ({ s with mod := { s.mod with events := s.mod.events.clear (s.evMark.getD 0 0) v } }, St.normal) := rfl

/-- TRK_PACE_CFG (R69). -/
theorem State.commonWrite_paceCfg (v : Word) :
    s.commonWrite 3 0x000 v = ({ s with trk := { s.trk with paceCfg := v &&& 0xFFFFFFFFFFFF } }, St.normal) := rfl

/-- MOD_CFG (R131). -/
theorem State.commonWrite_modCfg (v : Word) :
    s.commonWrite 1 0x018 v = ({ s with mod := { s.mod with cfg := v &&& 1 } }, St.normal) := rfl

/-- The channel with a value in ANA_STB_POS (R267). -/
def Chan.withStbPos (v : Word) (c : Chan) : Chan := { c with ana := { c.ana with stbPos := v } }

theorem State.placeWrite_stbPos (c : ChanId) (v : Word) :
    s.placeWrite (.block c 3 0x030) v = (s.modCh c (Chan.withStbPos v), St.normal) := rfl

theorem registerWrite : Clause.RegisterWrite := by
  intro t v s hp hb hq
  have hb' : (s.atTime t).hp.busy = false := hb
  refine ⟨?_, ?_, fun a ha => ?_, fun c => ⟨fun hw => ?_, fun hw => ?_⟩⟩
  · rw [exec_registerWrite t _ v hp, rowRequest,
      State.requestIn_common hb' (by decide) (by decide) rfl (State.commonWrite_modEvents v) hq]
    rfl
  · rw [exec_registerWrite t _ v hp, rowRequest,
      State.requestIn_common hb' (by decide) (by decide) rfl (State.commonWrite_paceCfg v) hq]
    rfl
  · rw [exec_registerWrite t a v hp, State.requestIn_row_id v hb' hq ha]
  · rw [exec_registerWrite t _ v hp,
      State.requestIn_row_block c (by omega) (by omega) (by omega) hb' hw (State.placeWrite_stbPos c v) hq]
    exact ⟨_, rfl, State.onlyChannel_modCh s t c _, State.ch_modCh_self _ c _⟩
  · rw [exec_registerWrite t _ v hp,
      State.requestIn_row_unpowered (s := s.atTime t) c v (by omega) (by omega) (by omega) hb' hq hw]

/-- A write of HP_CFG that would change MIN_LANES while it is locked (R11). -/
theorem State.commonWrite_hpCfg_locked {v : Word} (hl : bit s.skn.locks 1 = true) (hv : v &&& 0xF ≠ s.hp.cfg &&& 0xF) :
    s.commonWrite 5 0x010 v =
      ({ s with hp := { s.hp with cfg := ((v &&& ~~~(0xF : Word)) ||| (s.hp.cfg &&& 0xF)) &&& 0xFFFFFFFF0000000F } }, St.locked) := by
  have hc : (bit s.skn.locks 1 && keep v 0xF != keep s.hp.cfg 0xF) = true := by
    rw [hl, Bool.true_and]
    exact bne_iff_ne.2 hv
  have hr : rwl (bit s.skn.locks 1) 0xF s.hp.cfg v = ((v &&& ~~~(0xF : Word)) ||| (s.hp.cfg &&& 0xF), St.locked) := if_pos hc
  change s.hpWrite 0x010 v = _
  rw [State.hpWrite, hr]
  rfl

theorem writeRequest : Clause.WriteRequest := by
  intro t tag v s hp hu hb hq
  have hb' : (s.atTime t).heard.hp.busy = false := by simpa using hb
  have hq' : (s.atTime t).heard.hp.reqs = [] := by simpa using hq
  refine ⟨fun len a data hd => ?_, ?_, fun hl hv => ?_⟩
  · rw [exec_wr t tag len a data hp hu, State.wrPacket, if_neg hd]
    simp [State.malformed, Hp.event]
  · rw [exec_wr_word t tag _ v hp hu,
      State.requestIn_common hb' (by decide) (by decide) rfl (State.commonWrite_modCfg v) hq']
    simp
  · have e := State.commonWrite_hpCfg_locked (s := (s.atTime t).heard) (v := v) (by simpa using hl) (by simpa using hv)
    rw [exec_wr_word t tag _ v hp hu, State.requestIn_common (a := 0x5010) hb' (by decide) (by decide) rfl e hq']
    simp

/-! ### Broadcast writes (R403) -/

theorem State.modCh_id (s : State) (c : ChanId) : s.modCh c id = s := by
  have h : vput s.chans c (s.ch c) = s.chans := Vector.set_getElem_self c.isLt
  simp [State.modCh, State.setCh, h]

/-- The channel with a value in SEQ_START_POS, if it takes one. -/
def Chan.startPosIf (up : Bool) (v : Word) (c : Chan) : Chan := if up then { c with seq := { c.seq with startPos := v } } else c

/-- A named channel's turn of a broadcast write to SEQ_START_POS. -/
theorem State.bcastOne_startPos (v : Word) (u : State) (c : ChanId) :
    u.bcastOne 0x018 v c = (u.modCh c (Chan.startPosIf u.windowUp v)).bcastStatus c (powerStatus u.windowUp) := by
  have ht := State.accessTest_winAddr (s := u) c (off := 0x018) (by omega) (by omega)
  cases hw : u.windowUp with
  | true =>
    rw [State.bcastOne, ht, hw]
    rfl
  | false =>
    rw [State.bcastOne, ht, hw, show Chan.startPosIf false v = id from rfl, State.modCh_id]
    rfl

/-- The channels that HP_BCAST_CFG names. -/
def Hp.bcastMask (h : Hp) : BitVec 16 := BitVec.ofNat 16 (fld h.bcastCfg 32 16)

theorem Hp.bit_bcastMask (h : Hp) (c : ChanId) : bit h.bcastMask c.val = bit h.bcastCfg (32 + c.val) := by
  have hf := testBit_fld h.bcastCfg 32 16 c.val
  have hc := c.isLt
  simp only [hc, decide_true, Bool.true_and] at hf
  rw [← hf, bit, Hp.bcastMask, BitVec.getLsbD_ofNat]
  simp [hc]

/-- The state in which the turns of a broadcast write begin. -/
def State.bcastBegin (s : State) : State :=
  { s with hp := { s.hp with bcastVec := bcastStart s.hp.bcastMask, bcastTag := some none, busy := true } }

/-- HP_BCAST_DATA: each named channel has its turn, and the broadcast ends. -/
theorem State.request_bcast (v : Word) :
    s.request (rowRequest bcastAddr v) =
      (s.bcastBegin.forCh (chOf s.hp.bcastMask) (State.bcastOne (fld s.hp.bcastCfg 0 28) v)).bcastEnd := by
  have ht : s.accessTest bcastAddr.toNat 1 = St.normal := State.accessTest_common (by decide) (by decide)
  exact State.request_bcastWrite ht (placeOf_common (a := bcastAddr.toNat) (by decide)) rfl rfl rfl

/-- The port after a broadcast in which every named channel answered `st`. -/
def Hp.bcastOver (h : Hp) (st : Status) : Hp :=
  { h with
    bcastVec := putNibbles st.toNat (chOf h.bcastMask) (bcastStart h.bcastMask)
    busy := false, bcastTag := none, events := evSet h.events HpEv.bcastDone }

theorem Hp.fld_bcastOver (h : Hp) (st : Status) (c : ChanId) :
    fld (h.bcastOver st).bcastVec (4 * c.val) 4 = if bit h.bcastCfg (32 + c.val) = true then st.toNat else 0xF := by
  rw [Hp.bcastOver, fld_putNibbles st.isLt, fld_bcastStart, ← Hp.bit_bcastMask]
  by_cases hc : bit h.bcastMask c.val = true <;> simp [hc, chOf_mem]

/-- A broadcast write in which every turn changes its own channel by `f` and answers `st`. -/
theorem State.request_bcast_of_turns {v : Word} {f : Chan → Chan} {st : Status} (hst : st.toNat ≠ 0xE)
    (hturn : ∀ (y : State) (c : ChanId), y.windowUp = s.windowUp →
      y.bcastOne (fld s.hp.bcastCfg 0 28) v c = (y.modCh c f).bcastStatus c st) :
    ∃ u, s.request (rowRequest bcastAddr v) = u ∧ u = { s with hp := s.hp.bcastOver st, chans := u.chans } ∧
      ∀ c : ChanId, u.ch c = if bit s.hp.bcastCfg (32 + c.val) = true then f (s.ch c) else s.ch c := by
  have hE : ∀ c : ChanId, fld s.bcastBegin.hp.bcastVec (4 * c.val) 4 = 0xE ↔ c ∈ chOf s.hp.bcastMask := by
    intro c
    rw [State.bcastBegin, fld_bcastStart, chOf_mem]
    split <;> simp_all
  obtain ⟨heq, hch⟩ := forCh_bcast _ f st s.windowUp hst hturn _ (chOf_nodup s.hp.bcastMask) s.bcastBegin _ rfl rfl hE rfl
  refine ⟨_, State.request_bcast v, heq, fun c => ?_⟩
  rw [hch c]
  simp only [chOf_mem, Hp.bit_bcastMask]
  rfl

theorem Hp.bcastOver_of_idle {h : Hp} (hb : h.busy = false) (st : Status) :
    h.bcastOver st =
      { h with bcastVec := (h.bcastOver st).bcastVec, bcastTag := none, events := evSet h.events HpEv.bcastDone } := by
  simp [Hp.bcastOver, hb]

theorem broadcastWrite : Clause.BroadcastWrite := by
  intro t v s hp hb hq ho
  have hturn : ∀ (y : State) (c : ChanId), y.windowUp = s.windowUp → y.bcastOne (fld s.hp.bcastCfg 0 28) v c =
      (y.modCh c (Chan.startPosIf s.windowUp v)).bcastStatus c (powerStatus s.windowUp) := by
    intro y c hy
    rw [ho, State.bcastOne_startPos, hy]
  have hst : (powerStatus s.windowUp).toNat ≠ 0xE := by cases s.windowUp <;> decide
  obtain ⟨u, hu, heq, hch⟩ := State.request_bcast_of_turns (s := s.atTime t) hst hturn
  have hhp : u.hp = s.hp.bcastOver (powerStatus s.windowUp) := congrArg State.hp heq
  refine ⟨u, ?_, ?_, ?_, fun c => ?_, fun c => ?_⟩
  · rw [exec_hpBcastData t v hp, State.requestIn_idle (s := s.atTime t) hb hu (by rw [hhp]; exact hq)]
  · rw [heq]
  · rw [hhp]
    exact Hp.bcastOver_of_idle hb _
  · rw [hhp, Hp.fld_bcastOver]
    cases s.windowUp <;> rfl
  · rw [hch c]
    cases s.windowUp <;> simp [Chan.startPosIf]

/-- Settles O20: the effect of each way of writing a register, proved clause by clause. -/
theorem writesOfRegisters : Obligations.WritesOfRegisters := ⟨clearByOne, registerWrite, writeRequest, broadcastWrite⟩

end Sys2Proof.Machine
end

section
/-! The ID block (R2, R3), and the module right after power-on reset. -/

namespace Sys2Proof.Machine

variable {s : State}

/-- A read of an aligned word of the ID block. -/
theorem State.requestIn_read_id {a : BitVec 40} (tag : Option (BitVec 12)) (hb : s.hp.busy = false) (hq : s.hp.reqs = [])
    (h : a.toNat < 0x1000) (h8 : a.toNat % 8 = 0) :
    s.requestIn { tag := tag, write := false, len := 1, addr := a, data := [] } = s.complete tag St.normal [idRead a.toNat] := by
  have hp : placeOf a.toNat = .common 0 a.toNat := by
    rw [placeOf_common (by omega), show a.toNat / 0x1000 = 0 by omega, Nat.mod_eq_of_lt h]
  have ht : s.accessTest a.toNat 1 = St.normal := State.accessTest_common (by omega) h8
  exact State.requestIn_read (p := .common 0 a.toNat) hb ht hp rfl rfl hq

/-- Settles O18: the ID block's registers are read and written like any of the common block, and no state stands behind them. -/
theorem identityBlock : Obligations.IdentityBlock := by
  intro t tag v s hp hu hb hq r hr
  have hb' : (s.atTime t).heard.hp.busy = false := by simpa using hb
  have hq' : (s.atTime t).heard.hp.reqs = [] := by simpa using hq
  have hid : r.1.toNat < 0x1000 ∧ r.1.toNat % 8 = 0 ∧ idRead r.1.toNat = r.2 := by
    simp only [List.mem_cons, List.not_mem_nil, or_false] at hr
    rcases hr with rfl | rfl | rfl | rfl <;> exact ⟨by decide, by decide, rfl⟩
  obtain ⟨hlt, h8, hval⟩ := hid
  constructor
  · rw [exec_rd t tag 1 r.1 hp hu, State.rdPacket, State.requestIn_read_id _ hb' hq' hlt h8, hval]
    rfl
  · rw [exec_wr_word t tag r.1 v hp hu, State.requestIn_id v _ hb' hq' hlt h8]
    rfl

/-! ### Right after power-on reset -/

/-- Every channel is as its blocks' reset values give it. -/
theorem State.ch_reset (ch : ChanId) : State.reset.ch ch = {} := by simp [State.reset, State.ch]

theorem bounded_reset : State.reset.bounded := ⟨Nat.zero_le _, Nat.zero_le _⟩

/-- Settles O5: each field at the reset value its chapter gives it. -/
theorem resetState : Obligations.ResetState := by
  refine ⟨bounded_reset, creelsCanonical_reset, rfl, rfl, rfl, rfl, rfl, fun ch => ?_⟩
  rw [State.ch_reset]
  exact ⟨rfl, rfl, rfl, rfl, rfl, rfl, rfl⟩

end Sys2Proof.Machine
end

section
/-! Passes over the channels at the present instant, RETRACK and the snapshots (R66, R68). -/

namespace Sys2Proof.Machine

variable {s : State}

/-! ### A pass over the channels at the present instant -/

/-- The state after each channel of a list has been changed by itself, at the present instant. -/
def State.passNow (F : Tbu → Chan → Chan) (l : List ChanId) (s : State) : State := s.forCh l fun s c => s.modCh c (F s.now)

variable (F : Tbu → Chan → Chan) (l : List ChanId)

theorem State.passNow_ch (hl : l.Nodup) (d : ChanId) :
    (s.passNow F l).ch d = if d ∈ l then F s.now (s.ch d) else s.ch d := by
  rw [State.passNow, forCh_modCh_of State.now (fun _ _ _ => rfl) (fun n _ => F n) l s]
  exact State.forCh_modCh_ch (fun _ => F s.now) l hl s d

theorem State.passNow_all (d : ChanId) : (s.passNow F allCh).ch d = F s.now (s.ch d) := by
  rw [State.passNow_ch F allCh allCh_nodup, if_pos (mem_allCh d)]

theorem State.passNow_chOf (m : BitVec 16) (d : ChanId) :
    (s.passNow F (chOf m)).ch d = if bit m d.val = true then F s.now (s.ch d) else s.ch d := by
  simp only [State.passNow_ch F _ (chOf_nodup m), chOf_mem]

theorem State.passNow_eq : s.passNow F l = { s with chans := (s.passNow F l).chans } := by
  rw [State.passNow, forCh_modCh_of State.now (fun _ _ _ => rfl) (fun n _ => F n) l s]
  exact forCh_modCh_eq (fun _ => F s.now) l s

/-- The effects of an operation that changes channels only. -/
abbrev Effects.channels : Effects := ⟨false, false, false, false, false, false, false, false, false, false, false, false⟩

/-! ### RETRACK (R68) -/

/-- An operation at an instant that keeps the creels keeps every byte of them. -/
theorem State.Keeps.sameCreels {e : Effects} {cs : ChanId → Prop} {t : Tbu} {u : State}
    (h : State.Keeps e cs Eq (s.atTime t) u) : s.sameCreels u :=
  show (s.atTime t).sameCreels u from keeps_creels h

theorem State.retrack_eq (mask : BitVec 16) : s.retrack mask = s.passNow (fun n x => x.retrack n) (chOf mask) := rfl

theorem Chan.retrack_of_not_rest {c : Chan} (now : Tbu) (h : c.mod.state ≠ .rest) : c.retrack now = c := if_neg h

/-- Every armed JNC.ATk cancelled, one after the other. -/
def Chan.atCancelAll (c : Chan) : Chan := fin4.foldl (fun c k => c.atCancel k) c

@[simp] theorem Chan.atCancelAll_keeps (c : Chan) : c.atCancelAll.mod = c.mod ∧ c.atCancelAll.seq = c.seq :=
  ⟨foldl_keeps Chan.mod _ (fun c k => by simp) _ _, foldl_keeps Chan.seq _ (fun c k => by simp) _ _⟩

theorem Chan.atCancelAll_atArmed (c : Chan) : c.atCancelAll.jnc.atArmed = 0 := by
  have h : ∀ b : BitVec 4, clrBit (clrBit (clrBit (clrBit b 0) 1) 2) 3 = 0 := by decide
  exact h c.jnc.atArmed

/-- A channel in REST before its tracker forgets its edges: without its lanes, and with no JNC.ATk armed. -/
def Chan.unarmed (c : Chan) (now : Tbu) : Chan := (if c.trk.state = .locked then c.lanesLost now else c).atCancelAll

theorem Chan.unarmed_keeps (c : Chan) (now : Tbu) : (c.unarmed now).mod = c.mod ∧ (c.unarmed now).seq = c.seq := by
  unfold Chan.unarmed
  split <;> simp

theorem Chan.retrack_of_rest {c : Chan} (now : Tbu) (h : c.mod.state = .rest) :
    c.retrack now = { c.unarmed now with trk := (c.unarmed now).trk.retracked, tdc := (c.unarmed now).tdc.unplaced } := if_pos h

/-- Settles O15: RETRACK is a pass over the channels named, and changes those in REST. -/
theorem retrack : Obligations.Retrack := by
  intro t mask s hp
  have hkeeps := (State.Keeps.refl .channels (fun _ => True) (s.atTime t)).retrack mask fun _ => trivial
  refine ⟨_, congrArg Host.Outcome.next (State.ifPort_pos _ hp), hkeeps.blocks rfl rfl, hkeeps.sameCreels, fun c => ?_⟩
  rw [State.retrack_eq, State.passNow_chOf, State.ch_atTime]
  refine ⟨fun hb hr => ?_, fun hno => ?_⟩
  · rw [if_pos hb, Chan.retrack_of_rest _ hr]
    obtain ⟨hmod, hseq⟩ := (s.ch c).unarmed_keeps (max s.now t)
    exact ⟨rfl, rfl, rfl, rfl, Chan.atCancelAll_atArmed _, hmod, hseq⟩
  · rcases hno with hb | hr
    · exact if_neg (by simp [hb])
    · rw [Chan.retrack_of_not_rest _ hr, ite_self]

end Sys2Proof.Machine
end

section
/-! Reads that capture a value of several registers (R15, R66). -/

namespace Sys2Proof.Machine

variable {s : State}

/-! ### TRK_SNAP_ODO (R66) -/

theorem State.livePos_get (c : ChanId) : s.livePos[c] = (s.ch c).trk.live s.now := vmap_get ..

theorem Tracker.live_absent {k : Tracker} (t : Tbu) (h : k.state = .absent) : k.live t = 0 := if_pos h

theorem snapRead : Clause.SnapRead := by
  intro t s hp
  refine ⟨(s.atTime t).snap, congrArg Host.Outcome.next (State.ifPort_pos _ hp), rfl, fun c => ?_⟩
  have hlive : (s.atTime t).snap.trk.snapPos[c] = (s.ch c).trk.live (max s.now t) := State.livePos_get c
  exact ⟨hlive, fun h => hlive.trans (Tracker.live_absent _ h)⟩

/-! ### Multi-word values (R15) -/

/-- The request of a row that reads a register for its capture. -/
def captureRequest (a : BitVec 40) : HostReq := { tag := none, write := false, len := 1, addr := a, data := [] }

theorem exec_multiwordRead (t : Tbu) (a : BitVec 40) (hp : s.portUp = true) :
    exec (.multiwordRead t a) s = .next ((s.atTime t).requestIn (captureRequest a)) :=
  congrArg Host.Outcome.next (State.ifPort_pos _ hp)

/-- A row's read of one aligned word of the registers leaves the capture it makes. -/
theorem State.requestIn_capture {a : BitVec 40} {p : Place} {u : State} (hb : s.hp.busy = false)
    (h : s.accessTest a.toNat 1 = St.normal) (hp : placeOf a.toNat = p) (hw : p.isWindow = false) (e : s.placeCapture p = u)
    (hq : u.hp.reqs = []) : s.requestIn (captureRequest a) = u := by
  subst e
  exact State.requestIn_read hb h hp hw rfl hq

/-- A row's read in the common block. -/
theorem State.requestIn_captureCommon {a : BitVec 40} {u : State} (hb : s.hp.busy = false) (h : a.toNat < 0x8000)
    (h8 : a.toNat % 8 = 0) (e : s.commonCapture (a.toNat / 0x1000) (a.toNat % 0x1000) = u) (hq : u.hp.reqs = []) :
    s.requestIn (captureRequest a) = u :=
  State.requestIn_capture hb (State.accessTest_common h h8) (placeOf_common h) rfl e hq

/-- An address of the common block that is not aligned is not accepted (R8). -/
theorem State.accessTest_odd {a : Nat} (h : a < 0x8000) (h8 : a % 8 ≠ 0) : s.accessTest a 1 ≠ St.normal := by
  have hc : ∀ b ∈ accessBytes a 1, (placeOf (b % 2 ^ 40)).chan = none := fun b hb => by
    obtain ⟨hl, hu⟩ := mem_accessBytes hb
    exact placeOf_chan_none (.inl (by omega))
  rw [State.accessTest_powered (by omega) (by omega) (.inr hc), if_pos h8]
  split <;> decide

/-- The module digest (R101). -/
theorem State.commonCapture_modDigest :
    s.commonCapture 6 0x040 = { s with skn := { s.skn with
      modDigestSnap := #v[payloadWord s.skn.image.digest 1, payloadWord s.skn.image.digest 2, payloadWord s.skn.image.digest 3] } } :=
  rfl

/-- No other register of the common block stands at the bottom of a multi-word value. -/
theorem State.commonCapture_other {b off : Nat} (h3 : ¬(b = 3 ∧ off = 0x100)) (h6 : ¬(b = 6 ∧ off = 0x040))
    (hd : ¬(b = 6 ∧ 0x400 ≤ off ∧ off < 0x600)) : s.commonCapture b off = s := by
  unfold State.commonCapture
  split
  · rw [if_neg fun e => h3 ⟨rfl, e⟩]
  · rw [if_neg fun e => h6 ⟨rfl, e⟩, if_neg fun ⟨hl, hu, _⟩ => hd ⟨rfl, hl, hu⟩]
  · rfl

/-- The channel after a read of SEQ_STAT. -/
def Chan.withPassSnap (c : Chan) : Chan := { c with seq := c.seq.capture }

theorem State.placeCapture_seqStat (c : ChanId) : s.placeCapture (.block c 0 0x040) = s.modCh c Chan.withPassSnap := rfl

theorem multiwordRead : Clause.MultiwordRead := by
  intro t s hp hb hq
  have hb' : (s.atTime t).hp.busy = false := hb
  refine ⟨?_, fun c hw => ?_, fun a h h3 h6 hd => ?_⟩
  · have e := State.commonCapture_modDigest (s := s.atTime t)
    rw [exec_multiwordRead t _ hp, State.requestIn_captureCommon (a := 0x6040) hb' (by decide) (by decide) e hq]
    exact ⟨_, rfl, rfl, fun | 0 => rfl | 1 => rfl | 2 => rfl⟩
  · have hn := regAddr_toNat c (b := 0) (off := 0x040) (by omega) (by omega)
    have ht : (s.atTime t).accessTest (regAddr c 0 0x040).toNat 1 = St.normal := by
      rw [hn, State.accessTest_winAddr c (by omega) (by omega), State.windowUp_atTime, hw]
      rfl
    have hpl := hn ▸ placeOf_winAddr_block c (b := 0) (off := 0x040) (by omega) (by omega)
    rw [exec_multiwordRead t _ hp, State.requestIn_capture hb' ht hpl rfl (State.placeCapture_seqStat c) hq]
    refine ⟨_, rfl, State.onlyChannel_modCh s t c _, ?_⟩
    rw [State.ch_modCh_self]
    exact ⟨rfl, rfl, rfl, rfl⟩
  · rw [exec_multiwordRead t a hp]
    by_cases h8 : a.toNat % 8 = 0
    · rw [State.requestIn_captureCommon hb' h h8 (State.commonCapture_other (by omega) (by omega) (by omega)) hq]
    · exact congrArg Host.Outcome.next (State.requestIn_refused hb' hq rfl (State.accessTest_odd h h8))

/-- Settles O16: the captures of TRK_SNAP_ODO, of the module digest and of SEQ_STAT. -/
theorem snapshotsCaptured : Obligations.SnapshotsCaptured := ⟨snapRead, multiwordRead⟩

end Sys2Proof.Machine
end

section
/-! A rejected PACE edge, and the declaration of STOPPED (R32, R36, R155, R180, R287). -/

namespace Sys2Proof.Machine

variable {s : State}

theorem State.powered_of_ne (h : s.mod.mode ≠ .unpowered) : s.powered = true := bne_iff_ne.2 h

/-! ### Gates -/

/-- A closed gate is the one change to the synthesizers, whether it was open or not. -/
theorem Chan.closeGate_syn (c : Chan) (i : Fin 4) (now : Tbu) (ref : Bool) :
    (c.closeGate i now ref).syn = { c.syn with synths := vput c.syn.synths i { c.synth i with gate := false } } := by
  unfold Chan.closeGate
  split
  · dsimp only
    (repeat' split) <;> simp [Chan.setSynth, Chan.synth]
  · next h =>
    have hs : { c.synth i with gate := false } = c.synth i := by rw [← Bool.eq_false_iff.2 h]
    rw [hs]
    exact congrArg (fun v => { c.syn with synths := v }) (Vector.set_getElem_self i.isLt).symm

/-- The gates after one has been closed. -/
theorem Chan.closeGate_gate (c : Chan) (i j : Fin 4) (now : Tbu) (ref : Bool) :
    ((c.closeGate i now ref).synth j).gate = ((c.synth j).gate && decide (j ≠ i)) := by
  unfold Chan.synth
  rw [Chan.closeGate_syn]
  by_cases h : j = i
  · subst h; simp
  · simp [vput_get_ne _ _ h, h]

theorem Chan.lanesLost_gates (c : Chan) (now : Tbu) :
    ((c.lanesLost now).synth 2).gate = false ∧ ((c.lanesLost now).synth 3).gate = false := by
  simp [Chan.lanesLost, Chan.closeGate_gate]

/-! ### A rejected edge (R32) -/

theorem exec_paceEdge (t : Tbu) (c : ChanId) (m : Bool) (h : s.mod.mode ≠ .unpowered) :
    exec (.paceEdge t c m) s = .next ((s.atTime t).paceEdge c m) :=
  congrArg Host.Outcome.next (if_pos (State.powered_of_ne h))

/-- The channel with a glitch counted. -/
def Chan.withGlitch (c : Chan) : Chan := { c with trk := { c.trk with glitch := satInc c.trk.glitch } }

/-- An edge that comes now is rejected (R32). -/
def Tracker.rejects (k : Tracker) (now : Tbu) : Bool :=
  match k.raw with
  | some r => isGlitch (now - r)
  | none => false

/-- The instant of an edge that reaches channel `c` now, as the model computes it. -/
def State.edgeAt (s : State) (c : ChanId) : Int :=
  (s.now : Int) + (s.ch c).cal.fine 4 s.now - (s.ch c).cal.skew 0 + sfld s.trk.modSkew 0 20

/-- The tracker's procedure on a qualified edge, and what follows it. -/
def State.edgeTaken (s : State) (c : ChanId) (e : Int) (m : Bool) : State :=
  let r := (s.ch c).trk.edge s.now e s.trk.paceCfg s.trk.modSkew
  (s.modCh c fun x => { x with trk := { r.1 with mstone := some m } }).afterEdge c (s.ch c).trk.state r.2 (m && r.1.mstone == some false)

/-- The three courses that an edge takes: rejected, or taken, where the tracker finds it late after the declaration of STOPPED. -/
theorem State.paceEdge_eq (s : State) (c : ChanId) (m : Bool) :
    s.paceEdge c m =
      if (s.ch c).trk.rejects s.now then (s.modCh c Chan.withGlitch).trkEvent TrkEv.glitch
      else (if (s.ch c).trk.stopDue (s.edgeAt c) then s.paceStop c else s).edgeTaken c (s.edgeAt c) m := rfl

theorem paceGlitch : Clause.PaceGlitch := by
  intro t c m s r hm hr hd
  have hg : ((s.atTime t).ch c).trk.rejects (s.atTime t).now = true := by
    rw [State.ch_atTime, Tracker.rejects, hr]
    exact decide_eq_true hd
  rw [exec_paceEdge t c m hm, State.paceEdge_eq, if_pos hg]
  exact ⟨_, rfl, rfl, fun d hne => State.ch_modCh_ne (s.atTime t) _ hne, State.ch_modCh_self (s.atTime t) c _⟩

/-! ### STOPPED (R36) -/

/-- What the declaration of STOPPED does to its channel. -/
def Chan.stopSteps (c : Chan) (cyc : Nat) (now : Tbu) : Chan :=
  let c := c.losePlace.publish cyc Prod.paceStop
  (({ c with trk := { c.trk.recordStop c.trk.stopAt with state := .stopped } }.freezeZero now).lanesLost now).calSpoil [2, 3] 0x2A

theorem State.paceStop_eq (s : State) (c : ChanId) :
    s.paceStop c = (s.modCh c fun x => x.stopSteps s.cycle s.now).trkEvent TrkEv.paceStop := rfl

theorem State.paceStop_ch (s : State) (c : ChanId) : (s.paceStop c).ch c = (s.ch c).stopSteps s.cycle s.now := by
  rw [State.paceStop_eq, State.ch_trkEvent, State.ch_modCh_self]

theorem Tracker.stopDue_of_lt {k : Tracker} {t : Int} (hl : k.state = .locked) (h : k.e + k.stopAfter < t) : k.stopDue t = true := by
  rw [Tracker.stopDue, hl]
  exact decide_eq_true h

theorem Tracker.stopDue_of_le {k : Tracker} {t : Int} (h : t ≤ k.e + k.stopAfter) : k.stopDue t = false := by
  rw [Tracker.stopDue, decide_eq_false (Int.not_lt.2 h), Bool.and_false]

/-- The last cycle ends; nothing else of the tracker changes (R40). -/
theorem Tracker.recordStop_eq (k : Tracker) (a : Tbu) : k.recordStop a = { k with hist := (k.recordStop a).hist } := by
  unfold Tracker.recordStop
  split <;> rfl

/-- Losing its place changes only what a channel's tracker has placed. -/
theorem Chan.losePlace_trk (c : Chan) :
    c.losePlace.trk = { c.trk with pending := c.losePlace.trk.pending, committed := c.losePlace.trk.committed } := by
  unfold Chan.losePlace
  (repeat' split) <;> rfl

/-- A start that is not placed yet, or placed under COND 3, keeps what the tracker has (log entry 21). -/
theorem Chan.losePlace_trk_of_kept {c : Chan} (h : c.mod.startPend = false ∨ c.trk.isPending .start = false ∨ c.seq.cond = 3) :
    c.losePlace.trk = c.trk := by
  unfold Chan.losePlace
  split
  · rfl
  · next hs =>
    rw [if_neg]
    rcases h with h | h | h
    · simp [h] at hs
    · simp [h]
    · simp [h]

/-- A start placed under another condition loses its place (R155). -/
theorem Chan.losePlace_of_placed {c : Chan} (hs : c.mod.startPend = true) (hp : c.trk.isPending .start = true) (hc : c.seq.cond ≠ 3) :
    c.losePlace = c.withdrawStart := by
  unfold Chan.losePlace
  rw [if_neg (by simp [hs]), if_pos (by simp [hp, hc])]

theorem Tracker.isPending_unplace (k : Tracker) (x : SchedKind) : (k.unplace x).isPending x = false := by
  simp [Tracker.unplace, Tracker.isPending]

@[simp] theorem Chan.stopSteps_keeps (c : Chan) (cyc : Nat) (now : Tbu) :
    (c.stopSteps cyc now).mod = c.mod ∧ (c.stopSteps cyc now).seq = c.losePlace.seq ∧
      (c.stopSteps cyc now).trk = { c.losePlace.trk.recordStop c.losePlace.trk.stopAt with state := .stopped } := by
  simp [Chan.stopSteps]

theorem Chan.stopSteps_trk (c : Chan) (cyc : Nat) (now : Tbu) :
    (c.stopSteps cyc now).trk = { c.trk with
      state := .stopped, hist := (c.stopSteps cyc now).trk.hist, pending := c.losePlace.trk.pending
      committed := c.losePlace.trk.committed } := by
  simp only [Chan.stopSteps_keeps]
  rw [Tracker.recordStop_eq, Chan.losePlace_trk]

theorem Chan.stopSteps_gates (c : Chan) (cyc : Nat) (now : Tbu) :
    ((c.stopSteps cyc now).synth 2).gate = false ∧ ((c.stopSteps cyc now).synth 3).gate = false := by
  simp only [Chan.stopSteps, Chan.synth, Chan.calSpoil_keeps]
  exact Chan.lanesLost_gates _ now

/-- The effects of an operation that changes the tracker's registers of the module, and channels. -/
abbrev Effects.tracker : Effects := { Effects.channels with trk := true }

theorem paceStop : Clause.PaceStop := by
  refine ⟨fun t c s hm hl hd => ?_, fun t c s hd => ?_⟩
  · have hdue : (s.ch c).trk.stopDue ((max s.now t : Nat) : Int) = true := Tracker.stopDue_of_lt hl hd
    have hexec : exec (.paceStop t c) s = .next ((s.atTime t).paceStop c) :=
      congrArg Host.Outcome.next (if_pos (Bool.and_eq_true_iff.2 ⟨State.powered_of_ne (s := s.atTime t) hm, hdue⟩))
    have hkeeps := (State.Keeps.refl .tracker (fun d => d = c) (s.atTime t)).paceStop c rfl rfl
    refine ⟨_, hexec, hkeeps.sameCreels, by rw [State.paceStop_eq]; rfl, fun d hne => hkeeps.other d hne, ?_⟩
    rw [State.paceStop_ch, State.ch_atTime, State.atTime_now]
    obtain ⟨h2, h3⟩ := (s.ch c).stopSteps_gates (s.atTime t).cycle (max s.now t)
    have htrk := (s.ch c).stopSteps_trk (s.atTime t).cycle (max s.now t)
    refine ⟨h2, h3, ?_, by simp, fun hk => ?_, fun hs hp hc => ?_⟩
    · rw [htrk]
    · rw [htrk, Chan.losePlace_trk_of_kept hk]
      exact ⟨rfl, rfl⟩
    · have hw := Chan.losePlace_of_placed hs hp hc
      refine ⟨?_, by simp [hw, Chan.withdrawStart]⟩
      rw [htrk, hw]
      exact Tracker.isPending_unplace ..
  · have hdue : ((s.atTime t).ch c).trk.stopDue ((s.atTime t).now : Nat) = false := Tracker.stopDue_of_le hd
    exact congrArg Host.Outcome.next (if_neg (Bool.eq_false_iff.1 (by rw [hdue, Bool.and_false])))

/-- Settles O13: a glitch is only counted; STOPPED is declared when it is due, and its steps on the channel say what it keeps. -/
theorem paceGlitchAndStop : Obligations.PaceGlitchAndStop := ⟨paceGlitch, paceStop⟩

end Sys2Proof.Machine
end

section
/-! The lanes of a channel through a closed gate and a reference that is back (R217, R229, R232, R287). -/

namespace Sys2Proof.Machine

/-! ### What the lanes' coming to the present changes -/

theorem onLanes_trans {x y z : Dst} (h : onLanes x y) (k : onLanes y z) : onLanes x z := by
  unfold onLanes at *
  rw [k, h]

theorem sameDistaff_of_eq {x y : Chan} (h : y.dst = x.dst) : sameDistaff x y := by
  unfold sameDistaff onLanes
  rw [h]
  exact ⟨rfl, fun _ => rfl⟩

theorem sameDistaff_trans {x y z : Chan} (h : sameDistaff x y) (k : sameDistaff y z) : sameDistaff x z := by
  obtain ⟨h, hq⟩ := h
  obtain ⟨k, kq⟩ := k
  refine ⟨onLanes_trans h k, fun hx => ?_⟩
  have hy : lanesQuiet y := by
    unfold lanesQuiet
    rw [hq hx]
    exact hx
  rw [kq hy, hq hx]

theorem sameDistaff_dstTo (c : Chan) (x : Q16) : sameDistaff c (c.dstTo x) := by
  refine ⟨c.dstTo_dst x, fun ⟨hi, hp⟩ => ?_⟩
  exact congrArg Chan.dst (c.dstTo_quiet x hi hp)

/-- A gate that closes lets the lanes come to the present and changes nothing else of the Distaff. -/
theorem sameDistaff_closeGate (c : Chan) (i : Fin 4) (now : Tbu) (ref : Bool) : sameDistaff c (c.closeGate i now ref) := by
  unfold Chan.closeGate
  split
  · refine sameDistaff_trans (sameDistaff_dstTo c (q16 now)) (sameDistaff_of_eq ?_)
    dsimp only
    (repeat' split) <;> simp
  · exact sameDistaff_of_eq rfl

/-! ### A reference that is back (R287) -/

/-- What synthesizer `i` does when its reference is back. -/
def Chan.refBackAt (c : Chan) (i : Fin 4) (now : Tbu) : Chan :=
  match (c.synth i).state with
  | .active | .idleLocked => (c.closeGate i now false).tuneTo i .retune (c.synth i).setting false true now
  | .search | .tune => c.setSynth i { c.synth i with paused := false, tuneAt := now }
  | _ => c

theorem Chan.pairRefBack_eq (c : Chan) (lane : Bool) (now : Tbu) :
    c.pairRefBack lane now = ((c.refBackAt (c.syn.active lane) now).refBackAt (c.syn.idle lane) now).recover lane now := by
  rfl

@[simp] theorem Chan.refBackAt_keeps (c : Chan) (i : Fin 4) (now : Tbu) :
    (c.refBackAt i now).mod = c.mod ∧ (c.refBackAt i now).tlh = c.tlh ∧ (c.refBackAt i now).trk = c.trk ∧
    (c.refBackAt i now).skn = c.skn ∧ (c.refBackAt i now).seq = c.seq ∧ (c.refBackAt i now).ana = c.ana ∧
    (c.refBackAt i now).tdc = c.tdc ∧ (c.refBackAt i now).mem = c.mem ∧ (c.refBackAt i now).stq = c.stq ∧
    (c.refBackAt i now).dof = c.dof := by
  unfold Chan.refBackAt
  split <;> simp

@[simp] theorem Chan.pairRefBack_keeps (c : Chan) (lane : Bool) (now : Tbu) :
    (c.pairRefBack lane now).mod = c.mod ∧ (c.pairRefBack lane now).tlh = c.tlh ∧ (c.pairRefBack lane now).trk = c.trk ∧
    (c.pairRefBack lane now).skn = c.skn ∧ (c.pairRefBack lane now).seq = c.seq ∧ (c.pairRefBack lane now).ana = c.ana ∧
    (c.pairRefBack lane now).tdc = c.tdc ∧ (c.pairRefBack lane now).mem = c.mem ∧ (c.pairRefBack lane now).stq = c.stq ∧
    (c.pairRefBack lane now).dof = c.dof := by
  simp [Chan.pairRefBack_eq]

theorem sameDistaff_refBackAt (c : Chan) (i : Fin 4) (now : Tbu) : sameDistaff c (c.refBackAt i now) := by
  unfold Chan.refBackAt
  split
  · exact sameDistaff_trans (sameDistaff_closeGate c i now false) (sameDistaff_of_eq (by simp))
  · exact sameDistaff_trans (sameDistaff_closeGate c i now false) (sameDistaff_of_eq (by simp))
  · exact sameDistaff_of_eq (by simp)
  · exact sameDistaff_of_eq (by simp)
  · exact sameDistaff_of_eq rfl

theorem sameDistaff_pairRefBack (c : Chan) (lane : Bool) (now : Tbu) : sameDistaff c (c.pairRefBack lane now) := by
  rw [Chan.pairRefBack_eq]
  have h := sameDistaff_trans (sameDistaff_refBackAt c (c.syn.active lane) now) (sameDistaff_refBackAt _ (c.syn.idle lane) now)
  exact sameDistaff_trans h (sameDistaff_of_eq (by simp))

end Sys2Proof.Machine
end

section
/-! REF and the time base: windows, loss and holdover, lock and odometer (R28 to R31, R65, R287). -/

namespace Sys2Proof.Machine

variable {s : State}

/-- The effects of a loss of REF: tracker registers, and the ends of calibration runs with their packets. -/
abbrev Effects.refLost : Effects := { Effects.tracker with mod := true, send := true }

/-! ### The end of the calibration runs at a loss of REF (R463) -/

/-- Channel `d` has the tracker and the synthesizers of channel `c`. -/
def Chan.sameClocks (c d : Chan) : Prop := d.trk = c.trk ∧ d.syn = c.syn

theorem Chan.sameClocks_trans {a b c : Chan} (h : a.sameClocks b) (k : b.sameClocks c) : a.sameClocks c := by
  obtain ⟨ht, hs⟩ := h
  obtain ⟨kt, ks⟩ := k
  exact ⟨kt.trans ht, ks.trans hs⟩

theorem State.enterRest_clocks (s : State) (c : ChanId) : (s.ch c).sameClocks ((s.enterRest c).ch c) := by
  obtain ⟨q, m, e⟩ := enterRest_self s c
  rw [e]
  exact ⟨by simp [Chan.inState], by simp [Chan.inState]⟩

theorem State.leaveTrim_clocks (s : State) (c : ChanId) : (s.ch c).sameClocks ((s.leaveTrim c).ch c) := by
  unfold State.leaveTrim
  dsimp only
  split
  · rw [State.ch_modCh_self]
    exact ⟨rfl, rfl⟩
  · refine Chan.sameClocks_trans ?_ (State.enterRest_clocks _ c)
    rw [State.ch_modCh_self, State.ch_modCh_self]
    exact ⟨rfl, rfl⟩

theorem State.calFinish_clocks (s : State) (c : ChanId) : (s.ch c).sameClocks ((s.calFinish c).ch c) := by
  unfold State.calFinish
  refine Chan.sameClocks_trans ?_ (State.leaveTrim_clocks _ c)
  rw [State.ch_modCh_self, State.ch_modCh_self]
  (repeat' split) <;> exact ⟨rfl, rfl⟩

theorem State.calClock_clocks (s : State) (c : ChanId) : (s.ch c).sameClocks ((s.calClock c).ch c) := by
  unfold State.calClock
  split
  · refine Chan.sameClocks_trans ?_ (State.calFinish_clocks _ c)
    rw [State.ch_modCh_self]
    exact ⟨foldl_keeps Chan.trk _ (fun c p => by simp) _ _, foldl_keeps Chan.syn _ (fun c p => by simp) _ _⟩
  · exact ⟨rfl, rfl⟩

theorem State.calClock_ne (s : State) {c d : ChanId} (h : d ≠ c) : (s.calClock c).ch d = s.ch d :=
  ((State.Keeps.refl .refLost (fun d => d = c) s).calClock c rfl rfl rfl).other d h

/-- Every run in progress ends. -/
def State.calClockAll (s : State) : State := s.forCh allCh fun s c => s.calClock c

theorem State.calClockAll_clocks (s : State) (d : ChanId) : (s.ch d).sameClocks (s.calClockAll.ch d) := by
  refine State.forCh_inv (fun u => (s.ch d).sameClocks (u.ch d)) _ (fun u c h => Chan.sameClocks_trans h ?_) allCh s ⟨rfl, rfl⟩
  by_cases e : d = c
  · subst e
    exact u.calClock_clocks d
  · rw [u.calClock_ne e]
    exact ⟨rfl, rfl⟩

theorem State.calClockAll_keeps (s : State) :
    State.Keeps { Effects.channels with mod := true, send := true } (fun _ => True) Eq s s.calClockAll :=
  (State.Keeps.refl _ _ s).forCh _ _ fun _ _ h => h.calClock _ rfl rfl trivial

theorem State.calClockAll_trk (s : State) : s.calClockAll.trk = s.trk := s.calClockAll_keeps.trk rfl

/-! ### REF lost and present (R27 to R30) -/

theorem State.trkAll_eq (s : State) (code k : Nat) :
    s.trkAll code k = (s.passNow (fun n x => x.publish (cycleOf n) code) allCh).trkEvent k := rfl

theorem State.trkAll_trk (s : State) (code k : Nat) : (s.trkAll code k).trk = { s.trk with events := evSet s.trk.events k } := by
  rw [State.trkAll_eq, State.passNow_eq]
  rfl

theorem State.trkAll_now (s : State) (code k : Nat) : (s.trkAll code k).now = s.now := by
  rw [State.trkAll_eq, State.passNow_eq]
  rfl

theorem State.trkAll_ch (s : State) (code k : Nat) (c : ChanId) : (s.trkAll code k).ch c = (s.ch c).publish s.cycle code := by
  rw [State.trkAll_eq, State.ch_trkEvent, State.passNow_all]
  rfl

/-- The tracker registers of the module after a loss of REF. -/
def TrkMod.lost (m : TrkMod) (now : Tbu) : TrkMod :=
  { m with
    present := false, tbLocked := false, goodWindows := 0, wasLost := true, holdover := true
    holdoverAt := (if m.holdover then m.holdoverAt else some now)
    events := evSet m.events TrkEv.refLost }

/-- A channel whose sample reference is lost. -/
def Chan.sampleLost (c : Chan) (now : Tbu) : Chan := (c.synRefLost.closeGate 0 now true).closeGate 1 now true

/-- The state in which every channel is told of a loss of REF. -/
def State.refDown (s : State) : State :=
  ({ s with trk := { s.trk with
    present := false, tbLocked := false, goodWindows := 0, wasLost := true
    holdoverAt := if s.trk.holdover then s.trk.holdoverAt else some s.now
    holdover := true } } : State).trkAll Prod.refLost TrkEv.refLost

theorem State.refLoss_eq (s : State) : s.refLoss = s.refDown.passNow (fun n x => x.sampleLost n) allCh := rfl

theorem State.refLoss_trk (s : State) : s.refLoss.trk = s.trk.lost s.now := by
  rw [State.refLoss_eq, State.passNow_eq, State.refDown, State.trkAll_trk]
  rfl

theorem State.refLoss_ch (s : State) (c : ChanId) :
    s.refLoss.ch c = ((s.ch c).publish s.cycle Prod.refLost).sampleLost s.now := by
  rw [State.refLoss_eq, State.passNow_all, State.refDown, State.trkAll_ch, State.trkAll_now]
  rfl

theorem Chan.sampleLost_trk (c : Chan) (now : Tbu) : (c.sampleLost now).trk = c.trk := by simp [Chan.sampleLost]

theorem Chan.sampleLost_gates (c : Chan) (now : Tbu) :
    ((c.sampleLost now).synth 0).gate = false ∧ ((c.sampleLost now).synth 1).gate = false := by
  simp [Chan.sampleLost, Chan.closeGate_gate]

/-- What a REF that becomes present changes of the module's tracker registers. -/
theorem State.refPresent_trk (s : State) :
    s.refPresent.trk = { s.trk with
      present := true, epoch := some (s.trk.epoch.getD s.now), events := s.refPresent.trk.events } := by
  unfold State.refPresent
  dsimp only
  split
  · rw [State.trkAll_trk]
  · rfl

/-! ### A window of 100 µs (R28, R29) -/

/-- The registers of a window that ends with `count` edges, of the frequency selected or not. -/
def TrkMod.window (m : TrkMod) (count : Nat) (good : Bool) : TrkMod :=
  { m with
    freqSeen := refMatch count, wrongFreq := refMatch count != 0 && !good
    goodWindows := min (if good then m.goodWindows + 1 else 0) 2, refCfgNow := m.refCfg }

/-- A good window: REF stays, or becomes present with the second in a row. -/
theorem State.refWindow_good {count : Nat} (hg : refSelected s.trk.refCfgNow (refMatch count) = true) :
    ∃ ev, (s.refWindow count).trk = { s.trk.window count true with
      events := ev, present := s.trk.present || decide (1 ≤ s.trk.goodWindows)
      epoch := if !s.trk.present && decide (1 ≤ s.trk.goodWindows) then some (s.trk.epoch.getD s.now) else s.trk.epoch } := by
  unfold State.refWindow
  simp only [hg, if_true]
  cases hp : s.trk.present with
  | true => exact ⟨s.trk.events, by simp [TrkMod.window, hp]⟩
  | false =>
    by_cases hn : 1 ≤ s.trk.goodWindows
    · rw [if_neg (by simp), if_pos (by omega), State.refPresent_trk]
      exact ⟨_, by simp only [TrkMod.window, hn]; rfl⟩
    · rw [if_neg (by simp), if_neg (by omega)]
      exact ⟨s.trk.events, by simp [TrkMod.window, hp, hn]⟩

/-- A window that is not good loses a REF that was present. -/
theorem State.refWindow_bad {count : Nat} (hg : refSelected s.trk.refCfgNow (refMatch count) = false) :
    (s.refWindow count).trk = if s.trk.present then (s.trk.window count false).lost s.now else s.trk.window count false := by
  unfold State.refWindow
  simp only [hg]
  cases hp : s.trk.present with
  | true =>
    simp only [Bool.false_eq_true, if_false, if_true]
    rw [State.refLoss_trk]
    rfl
  | false => simp [TrkMod.window, hp]

/-- REF_WINDOW_END in a powered mode: the registers are those of the window, and the runs that a loss ends change none of them. -/
theorem exec_refWindowEnd (t : Tbu) (count : Nat) (h : s.mod.mode ≠ .unpowered) :
    ∃ u, exec (.refWindowEnd t count) s = .next u ∧ s.sameCreels u ∧ u.trk = ((s.atTime t).refWindow count).trk := by
  have hk := (State.Keeps.refl .refLost (fun _ => True) (s.atTime t)).refWindow count rfl fun _ => trivial
  have hexec : exec (.refWindowEnd t count) s = .next
      (if s.trk.present && !((s.atTime t).refWindow count).trk.present then ((s.atTime t).refWindow count).calClockAll
        else (s.atTime t).refWindow count) :=
    congrArg Host.Outcome.next (if_pos (State.powered_of_ne (s := s.atTime t) h))
  refine ⟨_, hexec, ?_, ?_⟩
  · split
    · exact (hk.forCh _ _ fun _ _ h => h.calClock _ rfl rfl trivial).sameCreels
    · exact hk.sameCreels
  · split
    · exact State.calClockAll_trk _
    · rfl

theorem refWindow : Clause.RefWindow := by
  intro t count s hm
  obtain ⟨u, hexec, hcreel, htrk⟩ := exec_refWindowEnd t count hm
  refine ⟨u, hexec, hcreel, ?_⟩
  cases hg : refSelected s.trk.refCfgNow (refMatch count) with
  | true =>
    obtain ⟨ev, hw⟩ := State.refWindow_good (s := s.atTime t) hg
    rw [htrk, hw]
    refine ⟨rfl, ?_, rfl, rfl, fun _ => ⟨rfl, fun hp hq => ?_, rfl, rfl⟩, fun hb => ?_⟩
    · simp [TrkMod.window, hg]
    · simp_all
    · simp [TrkMod.window, hg] at hb
  | false =>
    have hw := State.refWindow_bad (s := s.atTime t) hg
    rw [State.atTime_trk] at hw
    cases hp : s.trk.present with
    | true =>
      rw [htrk, hw, hp, if_pos rfl]
      refine ⟨rfl, ?_, rfl, rfl, fun hb => ?_, fun _ => ⟨rfl, rfl, rfl, fun _ => ⟨rfl, rfl⟩⟩⟩
      · simp [TrkMod.window, hg, TrkMod.lost]
      · simp [TrkMod.window, hg, TrkMod.lost] at hb
    | false =>
      rw [htrk, hw, hp, if_neg (by decide)]
      refine ⟨rfl, ?_, rfl, rfl, fun hb => ?_, fun _ => ⟨hp, rfl, rfl, fun h => ?_⟩⟩
      · simp [TrkMod.window, hg]
      · simp [TrkMod.window, hg] at hb
      · cases h

/-! ### REF lost between edges, and TB_INVALID (R29, R30) -/

/-- TB_INVALID while a holdover that began at `a` is noted. -/
theorem exec_tbInvalid (t : Tbu) {a : Tbu} (ha : s.trk.holdoverAt = some a) :
    exec (.tbInvalid t) s = .next (if s.trk.holdover ∧ a + 10 * ms ≤ max s.now t then
      { s.atTime t with trk := { s.trk with tbInvalid := true } } else s.atTime t) := by
  show execTbInvalid t s = _
  simp only [execTbInvalid, State.atTime_trk, State.atTime_now, ha]

theorem refLossAndHoldover : Clause.RefLossAndHoldover := by
  refine ⟨fun t s hm hp => ?_, fun t s a hh ha hd => ?_, fun t s a ha hd => ?_⟩
  · have hk := (State.Keeps.refl .refLost (fun _ => True) (s.atTime t)).refLossAll rfl rfl rfl fun _ => trivial
    have hexec : exec (.refEdgeTimeout t) s = .next (s.atTime t).refLoss.calClockAll :=
      congrArg Host.Outcome.next (if_pos (Bool.and_eq_true_iff.2 ⟨State.powered_of_ne (s := s.atTime t) hm, hp⟩))
    refine ⟨_, hexec, hk.sameCreels, ?_, fun c => ?_⟩
    · exact (State.calClockAll_trk _).trans (State.refLoss_trk _)
    · obtain ⟨htrk, hsyn⟩ := State.calClockAll_clocks (s.atTime t).refLoss c
      rw [hsyn, htrk, State.refLoss_ch]
      obtain ⟨h0, h1⟩ := Chan.sampleLost_gates ((s.ch c).publish (s.atTime t).cycle Prod.refLost) (max s.now t)
      exact ⟨h0, h1, by simp [Chan.sampleLost_trk]⟩
  · exact ⟨_, (exec_tbInvalid t ha).trans (congrArg _ (if_pos ⟨hh, hd⟩)), rfl⟩
  · exact (exec_tbInvalid t ha).trans (congrArg _ (if_neg fun ⟨_, h⟩ => Nat.not_le.2 hd h))

/-! ### The time base locks, and the odometer (R31, R65) -/

theorem State.tbLock_eq (s : State) :
    s.tbLock = ({ s with trk := { s.trk with
      tbLocked := true, holdover := false, tbInvalid := false, holdoverAt := none } } : State).passNow
        (fun n x => x.pairRefBack false n) allCh := rfl

theorem timeBaseLockAndOdometer : Clause.TimeBaseLockAndOdometer := by
  refine ⟨fun t s hm hp hl => ?_, fun t s hm => ?_, fun t s hm => ?_⟩
  · have hk := (State.Keeps.refl .tracker (fun _ => True) (s.atTime t)).tbLock rfl fun _ => trivial
    have hexec : exec (.tbLocked t) s = .next (s.atTime t).tbLock := by
      refine congrArg Host.Outcome.next (if_pos ?_)
      simp [State.powered_of_ne (s := s.atTime t) hm, hp, hl]
    refine ⟨_, hexec, hk.sameCreels, by rw [State.tbLock_eq, State.passNow_eq]; rfl, ?_, fun c => ?_⟩
    · rw [State.tbLock_eq, State.passNow_eq]
      rfl
    · rw [State.tbLock_eq, State.passNow_all]
      exact ⟨(Chan.pairRefBack_keeps ..).2.2.1, sameDistaff_pairRefBack ..⟩
  · exact ⟨_, congrArg Host.Outcome.next (if_pos (State.powered_of_ne (s := s.atTime t) hm)), rfl⟩
  · refine congrArg Host.Outcome.next (if_neg ?_)
    simp [State.powered, hm]

/-- Settles O11: the window, the loss and the lock are passes over the channels, of which the module's registers take no part. -/
theorem timeBase : Obligations.TimeBase := ⟨refWindow, refLossAndHoldover, timeBaseLockAndOdometer⟩

end Sys2Proof.Machine
end

section
/-! Committed events: their order, and those that are emitted next (R44, R46). -/

namespace Sys2Proof.Machine

/-! ### The order of committed events (R44) -/

/-- The events stand in the order of their positions, counted from `base`. -/
def inPositions (base : Word) (l : List Committed) : Prop := l.Pairwise fun p q => posDiff p.pos base ≤ posDiff q.pos base

theorem mem_insertCommitted (base : Word) (x : Committed) (l : List Committed) (y : Committed) :
    y ∈ insertCommitted base x l ↔ y = x ∨ y ∈ l := by
  induction l with
  | nil => simp [insertCommitted]
  | cons z r ih =>
    unfold insertCommitted
    split
    · simp
    · simp only [List.mem_cons, ih]
      tauto

theorem inPositions_insertCommitted (base : Word) (x : Committed) (l : List Committed) (h : inPositions base l) :
    inPositions base (insertCommitted base x l) := by
  induction l with
  | nil => exact List.pairwise_singleton ..
  | cons z r ih =>
    obtain ⟨hz, hr⟩ := List.pairwise_cons.1 h
    unfold insertCommitted
    split
    · next hlt =>
      refine List.pairwise_cons.2 ⟨fun y hy => ?_, h⟩
      rcases List.mem_cons.1 hy with rfl | hy
      · omega
      · have := hz y hy
        omega
    · next hge =>
      refine List.pairwise_cons.2 ⟨fun y hy => ?_, ih hr⟩
      rcases (mem_insertCommitted base x r y).1 hy with rfl | hy
      · omega
      · exact hz y hy

theorem posDiff_inj {a b base : Word} (h : posDiff a base = posDiff b base) : a = b :=
  sub_left_injective (BitVec.toInt_inj.1 h)

/-! ### The later of several instants -/

/-- The latest of the instants of a list of events and `b`. -/
def latestInst (l : List Committed) (b : Q16) : Q16 := l.foldl (fun a q => max a q.inst) b

theorem latestInst_max (l : List Committed) (a b : Q16) : latestInst l (max a b) = max a (latestInst l b) := by
  induction l generalizing b with
  | nil => rfl
  | cons x r ih => exact (congrArg (latestInst r) (max_assoc a b x.inst)).trans (ih (max b x.inst))

/-- Starting from the instant of one of its own events changes nothing. -/
theorem latestInst_of_mem {l : List Committed} {p : Committed} (h : p ∈ l) (b : Q16) :
    latestInst l (max p.inst b) = latestInst l b := by
  induction l generalizing b with
  | nil => cases h
  | cons x r ih =>
    have hs : ∀ a, latestInst (x :: r) a = latestInst r (max a x.inst) := fun _ => rfl
    rw [hs, hs]
    rcases List.mem_cons.1 h with rfl | h
    · rw [max_right_comm, max_self, max_comm]
    · rw [max_assoc, ih h]

/-! ### The events emitted next -/

/-- The committed events of a channel that may be emitted: a start waits until RUN is entered. -/
def Chan.emittable (c : Chan) : List Committed := c.trk.committed.filter fun q => !(c.mod.startPend && q.kind == .start)

/-- The events at the position of `p`. -/
def atPosOf (p : Committed) (l : List Committed) : List Committed := l.filter fun q => q.pos == p.pos

/-- The committed events that lie at the position of `p` or before it. -/
def Tracker.upToPos (k : Tracker) (p : Committed) : List Committed :=
  k.committed.filter fun q => decide (posDiff q.pos k.edgePos ≤ posDiff p.pos k.edgePos)

theorem Chan.emittable_mem {c : Chan} {q : Committed} (h : q ∈ c.emittable) : q ∈ c.trk.committed := (List.mem_filter.1 h).1

/-- The first position's events are emitted at the latest instant up to that position. -/
theorem Chan.emitHead_of_emittable {c : Chan} {p : Committed} {r : List Committed} (h : c.emittable = p :: r) :
    c.emitHead = some (atPosOf p (p :: r), latestInst (c.trk.upToPos p) c.trk.lastEmit) := by
  have hp : p ∈ c.trk.upToPos p :=
    List.mem_filter.2 ⟨Chan.emittable_mem (h ▸ List.mem_cons_self), decide_eq_true (Int.le_refl _)⟩
  have hx : c.trk.plannedAt p.pos p.inst = latestInst (c.trk.upToPos p) c.trk.lastEmit := latestInst_of_mem hp _
  have hl : atPosOf p (p :: r) = p :: r.filter fun q => q.pos == p.pos := List.filter_cons_of_pos (beq_self_eq_true _)
  unfold Chan.emittable at h
  unfold Chan.emitHead
  rw [h, hl, ← hx]

variable {c : Chan} {p q : Committed} {r : List Committed}

/-- Nothing that may be emitted lies before the first position. -/
theorem Chan.emittable_le (ho : inPlace c.trk) (h : c.emittable = p :: r) (hq : q ∈ c.emittable) :
    posDiff p.pos c.trk.edgePos ≤ posDiff q.pos c.trk.edgePos := by
  have hpw := List.Pairwise.filter (fun q : Committed => !(c.mod.startPend && q.kind == .start)) ho
  change c.emittable.Pairwise _ at hpw
  rw [h] at hpw hq
  rcases List.mem_cons.1 hq with rfl | hq
  · exact Int.le_refl _
  · exact (List.pairwise_cons.1 hpw).1 q hq

/-- What is not emitted lies at a later position. -/
theorem Chan.emittable_lt (ho : inPlace c.trk) (h : c.emittable = p :: r) (hq : q ∈ c.emittable) (hn : q ∉ atPosOf p c.emittable) :
    posDiff p.pos c.trk.edgePos < posDiff q.pos c.trk.edgePos := by
  refine lt_of_le_of_ne (Chan.emittable_le ho h hq) fun e => hn (List.mem_filter.2 ⟨hq, ?_⟩)
  exact beq_iff_eq.2 (posDiff_inj e).symm

/-- Without a start that waits, only the events emitted together lie up to their position. -/
theorem Chan.upToPos_eq (ho : inPlace c.trk) (h : c.emittable = p :: r) (hs : c.mod.startPend = false) :
    c.trk.upToPos p = atPosOf p c.emittable := by
  have hall : c.emittable = c.trk.committed := List.filter_eq_self.2 fun q _ => by simp [hs]
  rw [hall]
  refine List.filter_congr fun q hq => ?_
  have hle := Chan.emittable_le ho h (hall ▸ hq)
  rw [Bool.eq_iff_iff, decide_eq_true_iff, beq_iff_eq]
  exact ⟨fun hge => posDiff_inj (Int.le_antisymm hge hle), fun e => by rw [e]⟩

/-! ### Their effect (R46) -/

/-- The tracker after the events of `l` have been emitted at `x`. -/
def Tracker.emitted (k : Tracker) (l : List Committed) (x : Q16) : Tracker :=
  { k with committed := k.committed.filter fun p => !l.contains p, lastEmit := x }

/-- The channel in which the events of `l`, emitted at `x`, have taken effect in fabric cycle `d`. -/
def Chan.emitted (c : Chan) (l : List Committed) (x : Q16) (d : Nat) (holdup ref : Bool) : Chan :=
  l.foldl (fun c e => c.takeEvent d holdup ref e) { c with trk := c.trk.emitted l x }

theorem Chan.emitted_keeps (c : Chan) (l : List Committed) (x : Q16) (d : Nat) (holdup ref : Bool) :
    (c.emitted l x d holdup ref).trk = c.trk.emitted l x ∧ (c.emitted l x d holdup ref).mod = c.mod ∧
      (c.emitted l x d holdup ref).mem = c.mem :=
  ⟨foldl_keeps Chan.trk _ (fun c e => by simp) _ _, foldl_keeps Chan.mod _ (fun c e => by simp) _ _,
    foldl_keeps Chan.mem _ (fun c e => by simp) _ _⟩

theorem Chan.takeEvent_at (c : Chan) (d : Nat) (holdup ref : Bool) {e : Committed} {j : Fin 4} (h : e.kind = .at j) :
    c.takeEvent d holdup ref e = { c.publish d (Prod.at' + j.val) with
      jnc := { (c.publish d (Prod.at' + j.val)).jnc with atArmed := clrBit c.jnc.atArmed j.val } } := by
  have hp := Chan.offersOnly_publish c d (Prod.at' + j.val)
  unfold Chan.takeEvent
  rw [h]
  simp only [Chan.atPublish]
  rw [hp]

theorem Chan.takeEvent_sswitch (c : Chan) (d : Nat) (holdup ref : Bool) {e : Committed} (h : e.kind = .sswitch)
    (hp : c.syn.s.pend = some true) :
    c.takeEvent d holdup ref e = { c with syn := { c.syn with s := { c.syn.s with pend := some false, inLoss := !ref } } } := by
  have hs : ∀ f, c.modPair false f = { c with syn := { c.syn with s := f c.syn.s } } := fun _ => rfl
  unfold Chan.takeEvent
  rw [h]
  simp only [hs, hp, if_true]

/-- A scheduled strobe is no longer scheduled, and changes the outputs at most. -/
theorem Chan.takeEvent_strobe (c : Chan) (d : Nat) (holdup ref : Bool) {e : Committed} (h : e.kind = .strobe) :
    c.takeEvent d holdup ref e = { c with ana := (c.takeEvent d holdup ref e).ana } ∧
      (c.takeEvent d holdup ref e).ana.sched = false := by
  simp only [Chan.takeEvent, h, Chan.strobe]
  (repeat' split) <;> refine ⟨rfl, ?_⟩
  · rfl
  · rfl
  · simp only [Ana.takeStrobe]
    (repeat' split) <;> rfl

/-- A strobe with no transfer before it (R250). -/
theorem Ana.takeStrobe_first {a : Ana} (d : Nat) (hdef : a.deferAt = none) (hat : a.strobeAt = none) (hl : a.lastTransfer = none) :
    (a.takeStrobe d).strobeAt = some (d + 2) := by
  simp [Ana.takeStrobe, hdef, hat, hl]

/-- A scheduled strobe where the internal source is selected is acted on (R251). -/
theorem Chan.takeEvent_strobeAt (c : Chan) (d : Nat) (ref : Bool) {e : Committed} (h : e.kind = .strobe) (hsrc : c.ana.src = 0)
    (hr : c.rangeState = true) (hd : c.ana.disableAt = none) (hdef : c.ana.deferAt = none) (hat : c.ana.strobeAt = none)
    (hl : c.ana.lastTransfer = none) : (c.takeEvent d false ref e).ana.strobeAt = some (d + 2) := by
  have hact : ¬(c.ana.src ≠ 0 ∨ !c.rangeState ∨ c.ana.disableAt.isSome) := by simp [hsrc, hr, hd]
  have htake : c.takeEvent d false ref e =
      { c with ana := ({ c.ana with sched := false } : Ana).takeStrobe d } := by
    unfold Chan.takeEvent
    rw [h]
    exact if_neg hact
  rw [htake]
  exact Ana.takeStrobe_first d hdef hat hl

/-! ### EVENT_EMIT -/

variable {s : State}

theorem exec_eventEmit (t : Tbu) {c : ChanId} {l : List Committed} {x : Q16} (h : (s.ch c).emitHead = some (l, x)) :
    exec (.eventEmit t c) s = .next (if x ≤ q16 (max s.now t) then
      (s.atTime t).modCh c fun y => y.emitted l x (max (cycleAtOrAfter x) (s.atTime t).cycle) (s.mod.mode == .holdup)
        (s.trk.tbLocked && s.trk.present)
      else s.atTime t) := by
  change execEventEmit t c s = _
  simp only [execEventEmit, State.ch_atTime, h]
  rfl

/-- Settles O14: what is emitted next is what stands at the first position, in the order that a commit keeps. -/
theorem eventEmit : Obligations.EventEmit := by
  refine ⟨fun base x l h => ⟨inPositions_insertCommitted base x l h, mem_insertCommitted base x l⟩, ?_⟩
  intro t c s k p es r l x d hk ho hes hr hl hx hd
  subst hk
  have hem : (s.ch c).emittable = p :: r := hes.symm.trans hr
  have hl' : l = atPosOf p (s.ch c).emittable := by rw [hl, hes]; rfl
  have hhead := Chan.emitHead_of_emittable hem
  have hx' : x = latestInst ((s.ch c).trk.upToPos p) (s.ch c).trk.lastEmit := hx
  rw [← hem, ← hl', ← hx'] at hhead
  refine ⟨fun hle => ?_, fun hlt => ?_⟩
  · rw [exec_eventEmit t hhead, if_pos hle, ← hd]
    generalize hholdup : (s.mod.mode == .holdup) = holdup
    generalize href : (s.trk.tbLocked && s.trk.present) = ref
    obtain ⟨htrk, hmod, hmem⟩ := (s.ch c).emitted_keeps l x d holdup ref
    refine ⟨_, rfl, State.onlyChannel_modCh s t c _, ?_⟩
    have hch : ((s.atTime t).modCh c fun y => y.emitted l x d holdup ref).ch c = (s.ch c).emitted l x d holdup ref :=
      State.ch_modCh_self ..
    rw [hch, htrk, hmod]
    have hone : l = [p] → (s.ch c).emitted l x d holdup ref =
        ({ s.ch c with trk := (s.ch c).trk.emitted l x } : Chan).takeEvent d holdup ref p := fun e => by
      rw [e]; rfl
    refine ⟨?_, rfl, rfl, rfl, rfl, fun q hq hn => ?_, fun hs => ?_, fun j e hk => ?_, fun e hk => ?_, fun e hk hp => ?_⟩
    · exact ((State.Keeps.refl .channels (fun d => d = c) (s.atTime t)).modCh c _ (congrArg Mem.data hmem) rfl).sameCreels
    · rw [hes] at hq
      exact Chan.emittable_lt ho hem hq (hl' ▸ hn)
    · rw [hx', Chan.upToPos_eq ho hem hs, ← hl']
      rfl
    · rw [hone e, Chan.takeEvent_at _ d _ _ hk]
    · rw [hone e]
      obtain ⟨heq, hsched⟩ := Chan.takeEvent_strobe { s.ch c with trk := (s.ch c).trk.emitted l x } d holdup ref hk
      refine ⟨heq, hsched, fun hsrc hr hm hd hdef hat hlast => ?_⟩
      rw [← hholdup, beq_eq_false_iff_ne.2 hm]
      exact Chan.takeEvent_strobeAt _ d ref hk hsrc hr hd hdef hat hlast
    · exact (hone e).trans (Chan.takeEvent_sswitch _ d holdup ref hk hp)
  · rw [exec_eventEmit t hhead, if_neg (Int.not_le.2 hlt)]

end Sys2Proof.Machine
end

section
/-! What a qualified edge does to its channel beside the tracker, and to what the tracker has planned: every step of it goes on
from the channel as it stands, arming and scheduling nothing (R43, R54 to R57, R155, R161, R225, R289). -/

namespace Sys2Proof.Machine

/-! ### Events that are never taken back -/

/-- Every bit set in `e` is set in `f`. -/
def Sticky.le (e f : Sticky) : Prop := ∀ k, bit e.bits k = true → bit f.bits k = true

theorem Sticky.le_refl (e : Sticky) : e.le e := fun _ h => h

theorem Sticky.le_trans {e f g : Sticky} (h : e.le f) (h' : f.le g) : e.le g := fun k hk => h' k (h k hk)

theorem Sticky.le_evSet (e : Sticky) (j : Nat) : e.le (evSet e j) := fun k hk => by
  unfold evSet evMask
  split
  · exact hk
  · unfold bit at hk ⊢
    rw [BitVec.getLsbD_or, hk, Bool.true_or]

theorem Sticky.le_evIf (b : Bool) (e : Sticky) (j : Nat) : e.le (evIf b e j) := by
  cases b
  · exact e.le_refl
  · exact e.le_evSet j

/-! ### A channel that goes on -/

/-- Channel `y` goes on from channel `x`: its memory and its state are the same, its lanes at most have come to the present, no event
bit of its junctions, outputs and synthesizers has been cleared, and no JNC.ATk, strobe or sample switch is armed that was not. -/
structure Chan.GoesOn (x y : Chan) : Prop where
  mem : y.mem = x.mem
  state : y.mod.state = x.mod.state
  lanes : onLanes x.dst y.dst
  disarmed : ∀ j, bit x.jnc.atArmed j = false → bit y.jnc.atArmed j = false
  jncEvents : x.jnc.events.le y.jnc.events
  unscheduled : x.ana.sched = false → y.ana.sched = false
  anaEvents : x.ana.events.le y.ana.events
  unswitched : x.syn.s.pend = none → y.syn.s.pend = none
  synEvents : x.syn.events.le y.syn.events

/-- Tracker `k'` is tracker `k`, but for the events it has planned and the edges it remembers. -/
def Tracker.replans (k k' : Tracker) : Prop := k' = { k with pending := k'.pending, committed := k'.committed, hist := k'.hist }

theorem Chan.GoesOn.trans {x y z : Chan} (h : x.GoesOn y) (k : y.GoesOn z) : x.GoesOn z where
  mem := k.mem.trans h.mem
  state := k.state.trans h.state
  lanes := onLanes_trans h.lanes k.lanes
  disarmed j hj := k.disarmed j (h.disarmed j hj)
  jncEvents := Sticky.le_trans h.jncEvents k.jncEvents
  unscheduled hs := k.unscheduled (h.unscheduled hs)
  anaEvents := Sticky.le_trans h.anaEvents k.anaEvents
  unswitched hs := k.unswitched (h.unswitched hs)
  synEvents := Sticky.le_trans h.synEvents k.synEvents

/-- The last step first, where it says from what it goes on. -/
theorem Chan.GoesOn.after {x y z : Chan} (k : y.GoesOn z) (h : x.GoesOn y) : x.GoesOn z := h.trans k

theorem Chan.offersOnly_after {x y z : Chan} (k : Chan.offersOnly y z) (h : Chan.offersOnly x y) : Chan.offersOnly x z :=
  Chan.offersOnly_trans h k

theorem Tracker.replans_refl (k : Tracker) : k.replans k := rfl

theorem Tracker.replans_trans {a b c : Tracker} (h : a.replans b) (k : b.replans c) : a.replans c := by
  unfold Tracker.replans at *
  rw [k, h]

theorem Tracker.replans_of_eq {k k' : Tracker} (h : k' = k) : k.replans k' := by
  subst h
  exact k'.replans_refl

/-- A step that at most offers events to the junctions, moves the lanes on and works on the synthesizers. -/
theorem Chan.GoesOn.of_offers {x y : Chan} (hm : y.mem = x.mem) (hs : y.mod.state = x.mod.state) (hl : onLanes x.dst y.dst)
    (hj : Chan.offersOnly x y) (ha : y.ana = x.ana) (hp : y.syn.s = x.syn.s) (he : x.syn.events.le y.syn.events) : x.GoesOn y where
  mem := hm
  state := hs
  lanes := hl
  disarmed j h := by rw [hj]; exact h
  jncEvents := by rw [hj]; exact Sticky.le_refl _
  unscheduled h := by rw [ha]; exact h
  anaEvents := by rw [ha]; exact Sticky.le_refl _
  unswitched h := by rw [hp]; exact h
  synEvents := he

theorem onLanes_of_eq {x y : Dst} (h : y = x) : onLanes x y := by
  subst h
  rfl

theorem Chan.offersOnly_of_eq {x y : Chan} (h : y.jnc = x.jnc) : Chan.offersOnly x y := by
  unfold Chan.offersOnly
  rw [h]

/-- A step that leaves all of this alone. -/
theorem Chan.GoesOn.of_keeps {x y : Chan} (hm : y.mem = x.mem) (hs : y.mod.state = x.mod.state) (hd : y.dst = x.dst)
    (hj : y.jnc = x.jnc) (ha : y.ana = x.ana) (hy : y.syn = x.syn) : x.GoesOn y :=
  .of_offers hm hs (onLanes_of_eq hd) (Chan.offersOnly_of_eq hj) ha (by rw [hy]) (by rw [hy]; exact Sticky.le_refl _)

theorem Chan.GoesOn.refl (x : Chan) : x.GoesOn x := .of_keeps rfl rfl rfl rfl rfl rfl

theorem Chan.GoesOn.ite {p : Prop} [Decidable p] {x y : Chan} (h : x.GoesOn y) : x.GoesOn (if p then y else x) := by
  split
  · exact h
  · exact .refl x

theorem Tracker.replans_ite {p : Prop} [Decidable p] {x y : Chan} (h : x.trk.replans y.trk) :
    x.trk.replans (if p then y else x).trk := by
  split
  · exact h
  · exact x.trk.replans_refl

/-- A list of steps each of which goes on. -/
theorem Chan.GoesOn.foldl {α : Type} {f : Chan → α → Chan} (h : ∀ (c : Chan) a, c.GoesOn (f c a)) (l : List α) (c : Chan) :
    c.GoesOn (l.foldl f c) := by
  induction l generalizing c with
  | nil => exact .refl c
  | cons a r ih => exact (h c a).trans (ih (f c a))

/-- What a step of the list brings about and every step keeps holds after the list. -/
theorem Chan.GoesOn.foldl_mem {α : Type} {f : Chan → α → Chan} (h : ∀ (c : Chan) a, c.GoesOn (f c a)) {P : Chan → Prop}
    (hP : ∀ x y : Chan, x.GoesOn y → P x → P y) {a : α} (ha : ∀ c, P (f c a)) {l : List α} (hl : a ∈ l) (c : Chan) : P (l.foldl f c) := by
  induction l generalizing c with
  | nil => cases hl
  | cons b r ih =>
    rcases List.mem_cons.1 hl with rfl | hl
    · exact hP _ _ (.foldl h r _) (ha c)
    · exact ih hl (f c b)

theorem Tracker.replans_foldl {α : Type} {f : Chan → α → Chan} (h : ∀ (c : Chan) a, c.trk.replans (f c a).trk) (l : List α) (c : Chan) :
    c.trk.replans (l.foldl f c).trk := by
  induction l generalizing c with
  | nil => exact c.trk.replans_refl
  | cons a r ih => exact Tracker.replans_trans (h c a) (ih (f c a))

/-! ### The synthesizers -/

@[simp] theorem Chan.setSynth_pairs (c : Chan) (i : Fin 4) (x : Synth) :
    (c.setSynth i x).syn.s = c.syn.s ∧ (c.setSynth i x).syn.events = c.syn.events := ⟨rfl, rfl⟩

@[simp] theorem Chan.modPair_lane (c : Chan) (f : Pair → Pair) :
    (c.modPair true f).syn.s = c.syn.s ∧ (c.modPair true f).syn.events = c.syn.events := ⟨rfl, rfl⟩

theorem Chan.goesOn_setSynth (c : Chan) (i : Fin 4) (x : Synth) : c.GoesOn (c.setSynth i x) :=
  .of_offers rfl rfl rfl rfl rfl rfl (Sticky.le_refl _)

theorem Chan.goesOn_synEvent (c : Chan) (k : Nat) : c.GoesOn (c.synEvent k) :=
  .of_offers rfl rfl rfl rfl rfl rfl (Sticky.le_evSet _ _)

theorem Chan.goesOn_tuneTo (c : Chan) (i : Fin 4) (why : TuneFor) (setting : Word) (fresh ref : Bool) (now : Tbu) :
    c.GoesOn (c.tuneTo i why setting fresh ref now) := by
  unfold Chan.tuneTo
  dsimp only
  (repeat' split) <;> exact Chan.goesOn_setSynth ..

theorem Chan.goesOn_recoverLanes (c : Chan) (now : Tbu) : c.GoesOn (c.recover true now) := by
  unfold Chan.recover
  dsimp only
  split <;> exact .of_offers rfl rfl rfl rfl rfl rfl (Sticky.le_refl _)

theorem Chan.goesOn_publish (c : Chan) (cyc k : Nat) : c.GoesOn (c.publish cyc k) :=
  .of_offers (by simp) (by simp) (onLanes_of_eq (by simp)) (Chan.offersOnly_publish ..) (by simp) (by simp) (by simp [Sticky.le_refl])

theorem Chan.goesOn_calSpoil (c : Chan) (ps : List (Fin 4)) (why : Byte) : c.GoesOn (c.calSpoil ps why) :=
  .of_keeps (by simp) (by simp) (by simp) (by simp) (by simp) (by simp)

theorem Chan.offersOnly_dryStart (c : Chan) (now : Tbu) (ref : Bool) : Chan.offersOnly c (c.dryStart now ref) := by
  unfold Chan.dryStart
  split
  · refine Chan.offersOnly_trans (Chan.offersOnly_of_eq ?_) (Chan.offersOnly_publish ..)
    rfl
  · rfl

theorem Chan.offersOnly_closeGate (c : Chan) (i : Fin 4) (now : Tbu) (ref : Bool) : Chan.offersOnly c (c.closeGate i now ref) := by
  unfold Chan.closeGate
  split
  · refine Chan.offersOnly_trans (c.dstTo_jnc (q16 now)) ?_
    dsimp only
    split
    · split
      · exact Chan.offersOnly_publish ..
      · exact Chan.offersOnly_after (Chan.offersOnly_dryStart ..)
          (Chan.offersOnly_after (Chan.offersOnly_of_eq (Chan.calSpoil_keeps ..).2.2.2.2.1) (Chan.offersOnly_publish ..))
    · exact Chan.offersOnly_of_eq rfl
  · rfl

theorem Chan.goesOn_closeGate (c : Chan) (i : Fin 4) (now : Tbu) (ref : Bool) : c.GoesOn (c.closeGate i now ref) := by
  obtain ⟨hl, -⟩ := sameDistaff_closeGate c i now ref
  have hy := c.closeGate_syn i now ref
  exact .of_offers (by simp) (by simp) hl (Chan.offersOnly_closeGate ..) (by simp) (by rw [hy]) (by rw [hy]; exact Sticky.le_refl _)

theorem Chan.goesOn_laneRetune (c : Chan) (i : Fin 4) (why : TuneFor) (now : Tbu) : c.GoesOn (c.laneRetune i why now) :=
  ((c.goesOn_closeGate i now false).trans (Chan.goesOn_tuneTo ..)).trans (Chan.goesOn_synEvent ..)

theorem Chan.goesOn_laneStep (c : Chan) (now : Tbu) : c.GoesOn (c.laneStep now) := by
  unfold Chan.laneStep
  refine Chan.GoesOn.trans ?_ (Chan.goesOn_recoverLanes _ now)
  split
  · exact (c.goesOn_laneRetune _ _ now).ite
  · split
    · exact .refl c
    · split
      · exact Chan.goesOn_laneRetune ..
      · exact Chan.goesOn_setSynth ..

theorem Chan.goesOn_refBackAt (c : Chan) (i : Fin 4) (now : Tbu) : c.GoesOn (c.refBackAt i now) := by
  unfold Chan.refBackAt
  split
  · exact (c.goesOn_closeGate i now false).trans (Chan.goesOn_tuneTo ..)
  · exact (c.goesOn_closeGate i now false).trans (Chan.goesOn_tuneTo ..)
  · exact Chan.goesOn_setSynth ..
  · exact Chan.goesOn_setSynth ..
  · exact .refl c

theorem Chan.goesOn_lanesBack (c : Chan) (now : Tbu) : c.GoesOn (c.pairRefBack true now) := by
  rw [Chan.pairRefBack_eq]
  exact ((c.goesOn_refBackAt _ now).trans (Chan.goesOn_refBackAt ..)).trans (Chan.goesOn_recoverLanes ..)

theorem Chan.goesOn_lanesLost (c : Chan) (now : Tbu) : c.GoesOn (c.lanesLost now) := by
  have hp : c.GoesOn (c.pairRefLost true) := .of_offers rfl rfl rfl rfl rfl rfl (Sticky.le_refl _)
  exact (hp.trans (Chan.goesOn_closeGate ..)).trans (Chan.goesOn_closeGate ..)

/-! ### Starts and votes -/

theorem Tracker.replans_unplace (k : Tracker) (x : SchedKind) : k.replans (k.unplace x) := rfl

theorem Chan.unpend_keeps_state (c : Chan) : c.unpend.mod.state = c.mod.state := by
  unfold Chan.unpend
  dsimp only
  split <;> rfl

theorem Chan.goesOn_unpend (c : Chan) : c.GoesOn c.unpend := by
  refine .of_keeps ?_ c.unpend_keeps_state ?_ ?_ ?_ ?_ <;> simp

theorem Chan.unpend_trk (c : Chan) : c.unpend.trk = c.trk := by
  simp

theorem Chan.goesOn_withdrawStart (c : Chan) : c.GoesOn c.withdrawStart := .of_keeps rfl rfl rfl rfl rfl rfl

theorem Chan.goesOn_placeStart (c : Chan) (x : Word) : c.GoesOn (c.placeStart x) := .of_keeps rfl rfl rfl rfl rfl rfl

theorem Tracker.replans_placeStart (c : Chan) (x : Word) : c.trk.replans (c.placeStart x).trk := rfl

theorem Chan.goesOn_losePlace (c : Chan) : c.GoesOn c.losePlace :=
  .of_keeps (by simp) (by simp) (by simp) (by simp) (by simp) (by simp)

theorem Tracker.replans_losePlace (c : Chan) : c.trk.replans c.losePlace.trk := by
  rw [Tracker.replans, Chan.losePlace_trk]

theorem Chan.goesOn_testStart (c : Chan) : c.GoesOn c.testStart := by
  unfold Chan.testStart
  dsimp only
  split
  · exact c.goesOn_placeStart _
  · split
    · exact .of_keeps rfl rfl rfl rfl rfl rfl
    · exact (Chan.goesOn_unpend _).after (.of_keeps rfl rfl rfl rfl rfl rfl)

theorem Tracker.replans_testStart (c : Chan) : c.trk.replans c.testStart.trk := by
  unfold Chan.testStart
  dsimp only
  split
  · exact Tracker.replans_placeStart ..
  · split
    · exact Tracker.replans_placeStart ..
    · exact Tracker.replans_trans (Tracker.replans_unplace c.trk .start) (Tracker.replans_of_eq (by simp [Chan.withdrawStart]))

/-- A start that waits, at the edge noted as the one at which it was cleared. -/
def Chan.clearNoted (c : Chan) : Chan :=
  if !c.seq.cleared then { c with seq := { c.seq with cleared := true, clearN := c.trk.n } } else c

/-- The placing of a start that waits, as its COND asks; `first` at the edge that clears it. -/
def Chan.clearTest (c : Chan) (first mile : Bool) : Chan :=
  match c.seq.cond with
  | 0 => if first && c.seq.placed.isNone then c.placeStart c.leadPos else c
  | 1 => if first && c.seq.placed.isNone then c.testStart else c
  | 2 => if mile && c.seq.placed.isNone then c.placeStart c.leadPos else c
  | _ => c

theorem Chan.clearing_eq (c : Chan) (mile : Bool) :
    c.clearing mile = if !c.mod.startPend then c else if c.waitBase ≠ 0 then c.losePlace else c.clearNoted.clearTest (!c.seq.cleared) mile :=
  rfl

theorem Chan.goesOn_clearTest (c : Chan) (first mile : Bool) : c.GoesOn (c.clearTest first mile) := by
  unfold Chan.clearTest
  split
  · exact (c.goesOn_placeStart _).ite
  · exact c.goesOn_testStart.ite
  · exact (c.goesOn_placeStart _).ite
  · exact .refl c

theorem Tracker.replans_clearTest (c : Chan) (first mile : Bool) : c.trk.replans (c.clearTest first mile).trk := by
  unfold Chan.clearTest
  split
  · exact Tracker.replans_ite (Tracker.replans_placeStart ..)
  · exact Tracker.replans_ite (Tracker.replans_testStart c)
  · exact Tracker.replans_ite (Tracker.replans_placeStart ..)
  · exact c.trk.replans_refl

theorem Chan.goesOn_clearing (c : Chan) (mile : Bool) : c.GoesOn (c.clearing mile) := by
  have hnoted : c.GoesOn c.clearNoted := Chan.GoesOn.ite (.of_keeps rfl rfl rfl rfl rfl rfl)
  rw [Chan.clearing_eq]
  split
  · exact .refl c
  · split
    · exact c.goesOn_losePlace
    · exact hnoted.trans (Chan.goesOn_clearTest ..)

theorem Tracker.replans_clearing (c : Chan) (mile : Bool) : c.trk.replans (c.clearing mile).trk := by
  have hnoted : c.trk.replans c.clearNoted.trk := Tracker.replans_ite c.trk.replans_refl
  rw [Chan.clearing_eq]
  split
  · exact c.trk.replans_refl
  · split
    · exact Tracker.replans_losePlace c
    · exact Tracker.replans_trans hnoted (Tracker.replans_clearTest ..)

theorem Chan.goesOn_castVote (c : Chan) (now : Tbu) (ch : ChanId) : c.GoesOn (c.castVote now ch) := .of_keeps rfl rfl rfl rfl rfl rfl

theorem Chan.goesOn_grpRelease (c : Chan) (by' : BitVec 16) : c.GoesOn (c.grpRelease by') :=
  (c.goesOn_withdrawStart.trans (Chan.goesOn_unpend _)).trans (.of_keeps rfl rfl rfl rfl rfl rfl)

theorem Tracker.replans_grpRelease (c : Chan) (by' : BitVec 16) : c.trk.replans (c.grpRelease by').trk :=
  Tracker.replans_trans (Tracker.replans_unplace c.trk .start) (Tracker.replans_of_eq c.withdrawStart.unpend_trk)

theorem Chan.goesOn_lateMember (c : Chan) (now : Tbu) (ch : ChanId) : c.GoesOn (c.lateMember now ch) := by
  unfold Chan.lateMember
  split
  · exact (Chan.goesOn_grpRelease ..).after (.of_keeps rfl rfl rfl rfl rfl rfl)
  · exact .refl c

theorem Tracker.replans_lateMember (c : Chan) (now : Tbu) (ch : ChanId) : c.trk.replans (c.lateMember now ch).trk := by
  unfold Chan.lateMember
  split
  · exact Tracker.replans_trans (Tracker.replans_of_eq rfl) (Tracker.replans_grpRelease ..)
  · exact c.trk.replans_refl

theorem Chan.goesOn_request (c : Chan) (r : Req) (cyc : Nat) : c.GoesOn (c.request r cyc) :=
  .of_keeps (by simp) (by simp) (by simp) (by simp) (by simp) (by simp)

/-! ### Targets that are no longer in the future (R57) -/

theorem bit_clrBit_of_not {n : Nat} {w : BitVec n} {j : Nat} (k : Nat) (h : bit w j = false) : bit (clrBit w k) j = false := by
  rw [bit_clrBit, h, Bool.false_and]

theorem Chan.goesOn_lateTarget (c : Chan) (p : Placed) : c.GoesOn (c.lateTarget p) := by
  unfold Chan.lateTarget
  split
  · exact ⟨rfl, rfl, rfl, fun j h => bit_clrBit_of_not _ h, Sticky.le_evSet _ _, id, Sticky.le_refl _, id, Sticky.le_refl _⟩
  · exact ⟨rfl, rfl, rfl, fun _ => id, Sticky.le_refl _, fun _ => rfl, Sticky.le_evSet _ _, id, Sticky.le_refl _⟩
  · exact ⟨rfl, rfl, rfl, fun _ => id, Sticky.le_refl _, id, Sticky.le_refl _, fun _ => rfl, Sticky.le_evSet _ _⟩
  · split
    · exact (Chan.goesOn_testStart _).after (.of_keeps rfl rfl rfl rfl rfl rfl)
    · exact .refl c
  · exact .refl c
  · exact .refl c

theorem Tracker.replans_lateTarget (c : Chan) (p : Placed) : c.trk.replans (c.lateTarget p).trk := by
  unfold Chan.lateTarget
  split
  · rfl
  · rfl
  · rfl
  · split
    · exact Tracker.replans_trans (Tracker.replans_unplace c.trk .start) (Tracker.replans_testStart _)
    · rfl
  · rfl
  · rfl

theorem Chan.lateTarget_at (c : Chan) {p : Placed} {j : Fin 4} (h : p.kind = .at j) :
    bit (c.lateTarget p).jnc.atArmed j.val = false ∧ bit (c.lateTarget p).jnc.events.bits JncEv.atLate = true := by
  unfold Chan.lateTarget
  rw [h]
  exact ⟨by simp [Chan.atCancel, bit_clrBit], bit_evSet_self (by decide)⟩

theorem Chan.lateTarget_strobe (c : Chan) {p : Placed} (h : p.kind = .strobe) :
    (c.lateTarget p).ana.sched = false ∧ bit (c.lateTarget p).ana.events.bits AnaEv.stbLate = true := by
  unfold Chan.lateTarget
  rw [h]
  exact ⟨rfl, bit_evSet_self (by decide)⟩

theorem Chan.lateTarget_sswitch (c : Chan) {p : Placed} (h : p.kind = .sswitch) :
    (c.lateTarget p).syn.s.pend = none ∧ bit (c.lateTarget p).syn.events.bits SynEv.switchLost = true := by
  unfold Chan.lateTarget
  rw [h]
  exact ⟨rfl, bit_evSet_self (by decide)⟩

/-! ### Knots, frames and the lanes at an edge -/

theorem Chan.offersOnly_knotsAtEdge (c : Chan) (now : Tbu) : Chan.offersOnly c (c.knotsAtEdge now) := by
  unfold Chan.knotsAtEdge
  dsimp only
  split
  · generalize (if (c.repredict (cycleOf now)).ply.frozen then some (q16 now) else none) = thaw
    split
    · exact Chan.offersOnly_after (Chan.offersOnly_publish ..) (Chan.offersOnly_of_eq (by simp))
    · exact Chan.offersOnly_of_eq (by simp)
  · exact Chan.offersOnly_of_eq (by simp)

theorem Chan.goesOn_knotsAtEdge (c : Chan) (now : Tbu) : c.GoesOn (c.knotsAtEdge now) :=
  .of_offers (by simp) (by simp) (onLanes_of_eq (by simp)) (Chan.offersOnly_knotsAtEdge ..) (by simp) (by simp)
    (by simp [Sticky.le_refl])

theorem Tracker.replans_knotsAtEdge (c : Chan) (now : Tbu) : c.trk.replans (c.knotsAtEdge now).trk := by
  obtain ⟨p, l, h⟩ := c.knotsAtEdge_trk now
  unfold Tracker.replans
  rw [h]

/-- Frames planned ahead join the plan of the Distaff and the tracker's committed events. -/
theorem Chan.planFrames_plan (n : Nat) (c : Chan) :
    onLanes c.dst (c.planFrames n).dst ∧ c.trk.replans (c.planFrames n).trk := by
  induction n generalizing c with
  | zero => exact ⟨rfl, rfl⟩
  | succ n ih =>
    unfold Chan.planFrames
    split
    · next d h =>
      obtain ⟨hl, ht⟩ := ih d
      simp only [Chan.planFrame, Option.ite_none_right_eq_some] at h
      obtain ⟨-, h⟩ := h
      cases h
      exact ⟨onLanes_trans (y := { c.dst with plan := _ }) rfl hl,
        Tracker.replans_trans (b := { c.trk with committed := _ }) rfl ht⟩
    · exact ⟨rfl, rfl⟩

theorem Chan.goesOn_dstEdge (c : Chan) (e : Int) (step : Bool) : c.GoesOn (c.dstEdge e step) := by
  have hto : c.GoesOn (c.dstTo (e * 65536)) :=
    .of_offers (by simp) (by simp) (c.dstTo_dst _) (c.dstTo_jnc _) (by simp) (by simp) (by simp [Sticky.le_refl])
  unfold Chan.dstEdge
  refine hto.trans (.of_offers (by simp) (by simp) (onLanes_trans ?_ (Chan.planFrames_plan ..).1) (Chan.offersOnly_of_eq (by simp))
    (by simp) (by simp) (by simp [Sticky.le_refl]))
  rfl

theorem Tracker.replans_dstEdge (c : Chan) (e : Int) (step : Bool) : c.trk.replans (c.dstEdge e step).trk := by
  unfold Chan.dstEdge
  exact Tracker.replans_trans (Tracker.replans_of_eq (by simp)) (Chan.planFrames_plan ..).2

theorem Tracker.replans_commit (k : Tracker) : k.replans k.commit := by
  unfold Tracker.commit
  split <;> rfl

theorem Tracker.replans_record (k : Tracker) (o : Option Int) : k.replans (k.record o) := rfl

end Sys2Proof.Machine
end

section
/-! The stages of a qualified edge: the declaration of STOPPED that it finds due, the tracker's own procedure, the news, the
milestone, and what the channel does last (R35, R36, R54 to R61, R514). -/

namespace Sys2Proof.Machine

variable {s u : State}

/-! ### Flags of TRK_EVENTS -/

/-- Between `s` and `u` events of TRK_EVENTS are flagged at most, of the module's tracker registers. -/
structure State.Flags (s u : State) : Prop where
  regs : u.trk = { s.trk with events := u.trk.events }
  events : s.trk.events.le u.trk.events
  now : u.now = s.now

theorem State.Flags.refl (s : State) : s.Flags s := ⟨rfl, Sticky.le_refl _, rfl⟩

theorem State.Flags.trans {v : State} (h : s.Flags u) (k : u.Flags v) : s.Flags v where
  regs := by rw [k.regs, h.regs]
  events := Sticky.le_trans h.events k.events
  now := k.now.trans h.now

theorem State.flags_modCh (s : State) (c : ChanId) (f : Chan → Chan) : s.Flags (s.modCh c f) := ⟨rfl, Sticky.le_refl _, rfl⟩

theorem State.flags_trkEvent (s : State) (k : Nat) : s.Flags (s.trkEvent k) := ⟨rfl, Sticky.le_evSet _ _, rfl⟩

theorem State.Flags.ite {p : Prop} [Decidable p] {a b : State} (ha : s.Flags a) (hb : s.Flags b) : s.Flags (if p then a else b) := by
  split
  · exact ha
  · exact hb

/-- A flag that is set stays set. -/
theorem State.Flags.bit {k : Nat} (h : s.Flags u) (hk : bit s.trk.events.bits k = true) : bit u.trk.events.bits k = true :=
  h.events k hk

theorem State.bit_trkEvent (s : State) {k : Nat} (hk : k < 64) : Machine.bit (s.trkEvent k).trk.events.bits k = true :=
  bit_evSet_self hk

theorem State.Flags.heldAt (h : s.Flags u) (e : Int) : u.trk.heldAt e = s.trk.heldAt e := by
  rw [h.regs]
  rfl

/-! ### Trackers that count -/

/-- Tracker `k'` is tracker `k`, but for its count and alignment and for the events it has planned. -/
def Tracker.recounts (k k' : Tracker) : Prop :=
  k' = { k with
    n := k'.n, aligned := k'.aligned, misaligned := k'.misaligned, slip := k'.slip
    pending := k'.pending, committed := k'.committed, hist := k'.hist }

theorem Tracker.recounts_of_replans {k k' : Tracker} (h : k.replans k') : k.recounts k' := by
  unfold Tracker.replans at h
  unfold Tracker.recounts
  rw [h]

theorem Tracker.recounts_trans {a b c : Tracker} (h : a.recounts b) (k : b.recounts c) : a.recounts c := by
  unfold Tracker.recounts at *
  rw [k, h]

/-- A tracker that only plans anew has the count and the alignment it had. -/
theorem Tracker.replans_count {k k' : Tracker} (h : k.replans k') :
    k'.n = k.n ∧ k'.aligned = k.aligned ∧ k'.misaligned = k.misaligned ∧ k'.slip = k.slip := by
  unfold Tracker.replans at h
  rw [h]
  exact ⟨rfl, rfl, rfl, rfl⟩

/-! ### Alignment (R56, R57) -/

/-- The late event `p` has been given up. -/
def Chan.gaveUp (c : Chan) (p : Placed) : Prop :=
  (∀ j : Fin 4, p.kind = .at j → bit c.jnc.atArmed j.val = false ∧ bit c.jnc.events.bits JncEv.atLate = true) ∧
  (p.kind = .strobe → c.ana.sched = false ∧ bit c.ana.events.bits AnaEv.stbLate = true) ∧
  (p.kind = .sswitch → c.syn.s.pend = none ∧ bit c.syn.events.bits SynEv.switchLost = true)

theorem Chan.GoesOn.gaveUp {x y : Chan} (h : x.GoesOn y) {p : Placed} (hp : x.gaveUp p) : y.gaveUp p := by
  obtain ⟨hat, hstrobe, hswitch⟩ := hp
  refine ⟨fun j hj => ?_, fun hk => ?_, fun hk => ?_⟩
  · obtain ⟨ha, hb⟩ := hat j hj
    exact ⟨h.disarmed _ ha, h.jncEvents _ hb⟩
  · obtain ⟨ha, hb⟩ := hstrobe hk
    exact ⟨h.unscheduled ha, h.anaEvents _ hb⟩
  · obtain ⟨ha, hb⟩ := hswitch hk
    exact ⟨h.unswitched ha, h.synEvents _ hb⟩

theorem Chan.lateTarget_gaveUp (c : Chan) (p : Placed) : (c.lateTarget p).gaveUp p :=
  ⟨fun _ h => c.lateTarget_at h, c.lateTarget_strobe, c.lateTarget_sswitch⟩

/-- The tracker as an alignment at position `pos` sets its count. -/
def Tracker.alignTo (k : Tracker) (pos : Word) : Tracker := { k with n := posInt pos, aligned := true, misaligned := false }

/-- The targets of the aligned count that are late. -/
def Tracker.lateAt (k : Tracker) (pos : Word) : List Placed := k.pending.filter fun p => !isAfter p.pos (k.alignTo pos).edgePos

theorem Chan.align_eq (c : Chan) (now : Tbu) (ch : ChanId) (pos : Word) :
    c.align now ch pos = ((c.trk.lateAt pos).foldl Chan.lateTarget { c with trk := c.trk.alignTo pos }).lateMember now ch := rfl

theorem Chan.goesOn_align (c : Chan) (now : Tbu) (ch : ChanId) (pos : Word) : c.GoesOn (c.align now ch pos) := by
  rw [Chan.align_eq]
  exact (Chan.goesOn_lateMember ..).after ((Chan.GoesOn.foldl Chan.goesOn_lateTarget ..).after (.of_keeps rfl rfl rfl rfl rfl rfl))

theorem Tracker.replans_align (c : Chan) (now : Tbu) (ch : ChanId) (pos : Word) :
    (c.trk.alignTo pos).replans (c.align now ch pos).trk := by
  rw [Chan.align_eq]
  exact Tracker.replans_trans (Tracker.replans_foldl Tracker.replans_lateTarget _ { c with trk := c.trk.alignTo pos })
    (Tracker.replans_lateMember ..)

/-- What an alignment finds late is given up. -/
theorem Chan.align_gaveUp (c : Chan) (now : Tbu) (ch : ChanId) (pos : Word) {p : Placed} (hp : p ∈ c.trk.pending)
    (hl : isAfter p.pos (cyclePos (posInt pos)) = false) : (c.align now ch pos).gaveUp p := by
  have hlate : p ∈ c.trk.lateAt pos := List.mem_filter.2 ⟨hp, by rw [Tracker.edgePos, Tracker.alignTo, hl]; rfl⟩
  rw [Chan.align_eq]
  exact (Chan.goesOn_lateMember ..).gaveUp
    (Chan.GoesOn.foldl_mem Chan.goesOn_lateTarget (fun _ _ h => h.gaveUp) (fun c => c.lateTarget_gaveUp p) hlate _)

/-! ### The milestone (R54 to R61, R514) -/

/-- A milestone is published, flagged and latched as a request. -/
def State.mileTold (s : State) (c : ChanId) : State :=
  ((s.publish c Prod.mstone).trkEvent TrkEv.mstoneSeen).modCh c fun x => x.request .mile s.cycle

/-- Modes 1 and 2 align, where the channel may. -/
def State.mileAligned (s : State) (c : ChanId) (mode : Nat) (pos : Word) : State :=
  if (mode == 1 || mode == 2) && (s.ch c).alignable then s.modCh c fun x => x.align s.now c pos else s

/-- Mode 3 checks the alignment. -/
def State.mileChecked (s : State) (c : ChanId) (mode : Nat) (pos : Word) : State :=
  if mode == 3 && fld s.trk.mstoneStep 0 40 != 0 && (s.ch c).slips pos then
    (s.modCh c fun x => x.slip s.cycle pos).trkEvent TrkEv.mstoneSlip
  else s

/-- The channel's part of a milestone. -/
def State.mileSteps (s : State) (c : ChanId) (mode : Nat) (pos : Word) : State :=
  ((s.mileTold c).mileAligned c mode pos).mileChecked c mode pos

/-- The module's part of a milestone, which the channel in view brings. -/
def State.mileNoted (s : State) (c : ChanId) (e : Int) (cfg pos : Word) : State :=
  if mstoneView cfg = c.val then { s with trk := s.trk.milestone e cfg pos (s.ch c).trk.edgePos } else s

theorem State.milestone_eq (s : State) (c : ChanId) {cfg pos : Word} (h : s.trk.heldAt (s.ch c).trk.e = (cfg, pos)) :
    s.milestone c = (s.mileSteps c (mstoneMode cfg) pos).mileNoted c (s.ch c).trk.e cfg pos := by
  have hcfg : cfg = (s.trk.heldAt (s.ch c).trk.e).1 := by rw [h]
  have hpos : pos = (s.trk.heldAt (s.ch c).trk.e).2 := by rw [h]
  rw [hcfg, hpos]
  rfl

theorem State.mileTold_flags (s : State) (c : ChanId) : s.Flags (s.mileTold c) :=
  ((s.flags_modCh c _).trans (State.flags_trkEvent _ _)).trans (State.flags_modCh _ c _)

theorem State.mileTold_ch (s : State) (c : ChanId) :
    (s.mileTold c).ch c = ((s.ch c).publish s.cycle Prod.mstone).request .mile s.cycle := by
  rw [State.mileTold, State.ch_modCh_self, State.ch_trkEvent, State.publish, State.ch_modCh_self]

theorem State.mileTold_trk (s : State) (c : ChanId) : ((s.mileTold c).ch c).trk = (s.ch c).trk := by
  rw [State.mileTold_ch]
  simp

theorem State.mileTold_goesOn (s : State) (c : ChanId) : (s.ch c).GoesOn ((s.mileTold c).ch c) := by
  rw [State.mileTold_ch]
  exact (Chan.goesOn_publish ..).trans (Chan.goesOn_request ..)

theorem State.mileTold_seen (s : State) (c : ChanId) : bit (s.mileTold c).trk.events.bits TrkEv.mstoneSeen = true :=
  State.bit_trkEvent _ (by decide)

theorem Chan.slip_trk (c : Chan) (cyc : Nat) (pos : Word) :
    (c.slip cyc pos).trk = { c.trk with slip := c.trk.edgePos - pos, misaligned := true, aligned := false } := by
  simp [Chan.slip]

theorem Chan.goesOn_slip (c : Chan) (cyc : Nat) (pos : Word) : c.GoesOn (c.slip cyc pos) :=
  (Chan.goesOn_publish ..).after (.of_keeps rfl rfl rfl rfl rfl rfl)

variable (c : ChanId) (mode : Nat) (pos : Word)

/-- Alignment and check flag events at most. -/
theorem State.mileTold_flags_mileSteps (s : State) : (s.mileTold c).Flags (s.mileSteps c mode pos) := by
  refine State.Flags.trans (u := (s.mileTold c).mileAligned c mode pos) ?_ ?_
  · exact .ite (State.flags_modCh _ c _) (.refl _)
  · exact .ite ((State.flags_modCh _ c _).trans (State.flags_trkEvent _ _)) (.refl _)

theorem State.mileSteps_flags (s : State) : s.Flags (s.mileSteps c mode pos) :=
  (s.mileTold_flags c).trans (s.mileTold_flags_mileSteps c mode pos)

theorem State.mileSteps_seen (s : State) : bit (s.mileSteps c mode pos).trk.events.bits TrkEv.mstoneSeen = true :=
  (s.mileTold_flags_mileSteps c mode pos).bit (s.mileTold_seen c)

/-- What a milestone does to the channel beside its count, and that nothing else of its tracker changes. -/
theorem State.mileSteps_goesOn (s : State) :
    (s.ch c).GoesOn ((s.mileSteps c mode pos).ch c) ∧ (s.ch c).trk.recounts ((s.mileSteps c mode pos).ch c).trk := by
  have halign : ∀ s : State, (s.ch c).GoesOn ((s.mileAligned c mode pos).ch c) ∧
      (s.ch c).trk.recounts ((s.mileAligned c mode pos).ch c).trk := by
    intro s
    unfold State.mileAligned
    split
    · rw [State.ch_modCh_self]
      exact ⟨Chan.goesOn_align .., Tracker.recounts_trans (b := (s.ch c).trk.alignTo pos) rfl
        (Tracker.recounts_of_replans (Tracker.replans_align ..))⟩
    · exact ⟨.refl _, rfl⟩
  have hcheck : ∀ s : State, (s.ch c).GoesOn ((s.mileChecked c mode pos).ch c) ∧
      (s.ch c).trk.recounts ((s.mileChecked c mode pos).ch c).trk := by
    intro s
    unfold State.mileChecked
    split
    · rw [State.ch_trkEvent, State.ch_modCh_self]
      refine ⟨Chan.goesOn_slip .., ?_⟩
      rw [Tracker.recounts, Chan.slip_trk]
    · exact ⟨.refl _, rfl⟩
  obtain ⟨hga, hta⟩ := halign (s.mileTold c)
  obtain ⟨hgc, htc⟩ := hcheck ((s.mileTold c).mileAligned c mode pos)
  rw [State.mileTold_trk] at hta
  exact ⟨((s.mileTold_goesOn c).trans hga).trans hgc, Tracker.recounts_trans hta htc⟩

theorem Chan.alignable_mileTold : ((s.mileTold c).ch c).alignable = (s.ch c).alignable := by
  rw [State.mileTold_ch]
  simp [Chan.alignable]

/-- Mode 1 or 2 and an eligible channel: the edge takes the position. -/
theorem State.mileSteps_align (hm : mode = 1 ∨ mode = 2) (ha : (s.ch c).alignable = true) :
    ((s.mileSteps c mode pos).ch c).trk.n = posInt pos ∧ ((s.mileSteps c mode pos).ch c).trk.aligned = true ∧
      ((s.mileSteps c mode pos).ch c).trk.misaligned = false ∧
      ∀ p ∈ (s.ch c).trk.pending, isAfter p.pos (cyclePos (posInt pos)) = false → ((s.mileSteps c mode pos).ch c).gaveUp p := by
  have hal : (s.mileTold c).mileAligned c mode pos = (s.mileTold c).modCh c fun x => x.align (s.mileTold c).now c pos :=
    if_pos (by rw [Chan.alignable_mileTold, ha]; rcases hm with rfl | rfl <;> rfl)
  have hch : ∀ s : State, s.mileChecked c mode pos = s := fun s => if_neg (by rcases hm with rfl | rfl <;> simp)
  rw [State.mileSteps, hch, hal, State.ch_modCh_self]
  have htrk := Tracker.replans_align ((s.mileTold c).ch c) (s.mileTold c).now c pos
  obtain ⟨hn, h1, h2, -⟩ := Tracker.replans_count htrk
  refine ⟨hn, h1, h2, fun p hp hl => Chan.align_gaveUp _ _ c pos ?_ hl⟩
  rw [State.mileTold_trk]
  exact hp

/-- Where the milestone neither aligns nor finds a slip, the tracker stays as it is. -/
theorem State.mileSteps_keep (ha : ((mode == 1 || mode == 2) && (s.ch c).alignable) = false)
    (hs : (mode == 3 && fld s.trk.mstoneStep 0 40 != 0 && (s.ch c).slips pos) = false) :
    ((s.mileSteps c mode pos).ch c).trk = (s.ch c).trk := by
  have hal : (s.mileTold c).mileAligned c mode pos = s.mileTold c :=
    if_neg (by rw [Chan.alignable_mileTold, ha]; decide)
  have hslip : ((s.mileTold c).ch c).slips pos = (s.ch c).slips pos := by
    rw [Chan.slips, State.mileTold_trk]
    rfl
  have hch : (s.mileTold c).mileChecked c mode pos = s.mileTold c :=
    if_neg (by rw [hslip, (s.mileTold_flags c).regs, hs]; decide)
  rw [State.mileSteps, hal, hch, State.mileTold_trk]

/-- Mode 3 finds an ALIGNED channel elsewhere. -/
theorem State.mileSteps_slip (hstep : fld s.trk.mstoneStep 0 40 ≠ 0) (hs : (s.ch c).slips pos = true) :
    ((s.mileSteps c 3 pos).ch c).trk =
      { (s.ch c).trk with slip := (s.ch c).trk.edgePos - pos, misaligned := true, aligned := false } ∧
    bit (s.mileSteps c 3 pos).trk.events.bits TrkEv.mstoneSlip = true := by
  have hal : (s.mileTold c).mileAligned c 3 pos = s.mileTold c := if_neg (by simp)
  have hslip : ((s.mileTold c).ch c).slips pos = true := by
    rw [Chan.slips, State.mileTold_trk]
    exact hs
  have hch : (s.mileTold c).mileChecked c 3 pos =
      ((s.mileTold c).modCh c fun x => x.slip (s.mileTold c).cycle pos).trkEvent TrkEv.mstoneSlip :=
    if_pos (by rw [hslip, (s.mileTold_flags c).regs]; simpa using hstep)
  rw [State.mileSteps, hal, hch, State.ch_trkEvent, State.ch_modCh_self, Chan.slip_trk, State.mileTold_trk]
  exact ⟨rfl, State.bit_trkEvent _ (by decide)⟩

end Sys2Proof.Machine
end

section
/-! The tracker's procedure on a qualified edge (R35, R513). -/

namespace Sys2Proof.Machine

/-! ### The measured interval -/

/-- What a measured interval changes of a tracker. -/
theorem Tracker.measure_eq (k : Tracker) (d : Int) :
    (k.measure d).1 = { k with
      range := outOfRange d, pest := (k.measure d).1.pest, seeded := (k.measure d).1.seeded, good := (k.measure d).1.good
      fast := (k.measure d).1.fast, state := (k.measure d).1.state } := by
  unfold Tracker.measure
  dsimp only
  (repeat' split) <;> rfl

/-- The first interval is P_est itself. -/
theorem Tracker.measure_first {k : Tracker} (d : Int) (h : k.seeded = false) (hg : k.good < 16) :
    k.measure d = ({ k with range := outOfRange d, pest := (d * 65536).toNat, seeded := true }, { range := outOfRange d }) := by
  have hs : ¬(k.state = .acquiring ∧ 16 ≤ k.good) := fun ⟨_, h⟩ => by omega
  simp [Tracker.measure, h, hs]

/-- The tracker before the sixteenth good interval is looked for. -/
def Tracker.settled (k : Tracker) : Tracker := if k.state = .acquiring ∧ k.good ≥ 16 then { k with state := .locked } else k

/-- The difference of an interval from P_est, at 16 fractional bits. -/
def Tracker.drift (k : Tracker) (d : Int) : Int := d * 65536 - k.pest

/-- A larger step than the threshold is adopted. -/
theorem Tracker.measure_step {k : Tracker} (d : Int) (h : k.seeded = true) (hd : stepThreshold k.paceCfg k.pest < (k.drift d).natAbs) :
    k.measure d =
      (({ k with range := outOfRange d, pest := (d * 65536).toNat, fast := 16 * (fld k.paceCfg 4 4 + 1), good := 0 } : Tracker).settled,
        { step := true, range := outOfRange d }) := by
  unfold Tracker.drift at hd
  simp only [Tracker.measure, h, Bool.true_eq_false, if_false]
  rw [if_pos hd]
  rfl

/-- The divisor that a difference within the threshold is taken by. -/
def Tracker.divisor (k : Tracker) : Nat := if 0 < k.fast then 4 else 2 ^ paceShift k.paceCfg

/-- A difference within the threshold is taken in part. -/
theorem Tracker.measure_within {k : Tracker} (d : Int) (h : k.seeded = true) (hd : (k.drift d).natAbs ≤ stepThreshold k.paceCfg k.pest) :
    k.measure d =
      (({ k with
        range := outOfRange d, pest := (k.pest + k.drift d / k.divisor).toNat, fast := k.fast - 1, good := k.good + 1 } : Tracker).settled,
        { range := outOfRange d }) := by
  have hd' := Nat.not_lt.2 hd
  unfold Tracker.drift at hd'
  simp only [Tracker.measure, h, Bool.true_eq_false, if_false]
  rw [if_neg hd']
  by_cases hf : 0 < k.fast
  · rw [if_pos hf]
    simp only [Tracker.divisor, if_pos hf]
    rfl
  · have h0 : k.fast - 1 = k.fast := by omega
    rw [if_neg hf]
    simp only [Tracker.divisor, if_neg hf, h0]
    rfl

theorem Tracker.settled_eq (k : Tracker) : k.settled = { k with state := k.settled.state } := by
  unfold Tracker.settled
  split <;> rfl

/-- The sixteenth good interval in a row locks a tracker. -/
theorem Tracker.settled_state {k : Tracker} (h : k.state = .acquiring ∨ k.state = .locked) :
    k.settled.state = if 16 ≤ k.good then .locked else k.state := by
  unfold Tracker.settled
  rcases h with h | h <;> by_cases hg : 16 ≤ k.good <;> simp [h, hg]

/-! ### The procedure -/

/-- The tracker with an edge received, before its procedure. -/
def Tracker.received (k : Tracker) (raw : Tbu) (cfg skew : Word) : Tracker := { k with paceCfg := cfg, modSkew := skew, raw := some raw }

variable {k : Tracker} (raw : Tbu) (e : Int) (cfg skew : Word)

theorem Tracker.edge_absent (h : k.state = .absent) :
    k.edge raw e cfg skew = ({ k.received raw cfg skew with n := 0, state := .acquiring, seeded := false, good := 0, e := e }, {}) := by
  unfold Tracker.edge
  simp only [h]
  rfl

theorem Tracker.edge_stopped (h : k.state = .stopped) :
    k.edge raw e cfg skew = ({ k.received raw cfg skew with n := k.n + 1, state := .locked, e := e }, { ret := true }) := by
  unfold Tracker.edge
  simp only [h]
  rfl

/-- The tracker that measures the interval that an edge ends. -/
def Tracker.measuring (k : Tracker) (raw : Tbu) (cfg skew : Word) : Tracker := { k.received raw cfg skew with n := k.n + 1 }

theorem Tracker.edge_measured (h : k.state = .acquiring ∨ k.state = .locked) :
    k.edge raw e cfg skew = ({ ((k.measuring raw cfg skew).measure (e - k.e)).1 with e := e },
      ((k.measuring raw cfg skew).measure (e - k.e)).2) := by
  cases k
  dsimp only at h
  rcases h with h | h <;> subst h <;> rfl

/-- The four states, as the procedure tells them apart. -/
theorem TrkState.cases_measuring (x : TrkState) : x = .absent ∨ x = .stopped ∨ x = .acquiring ∨ x = .locked := by
  cases x <;> simp

/-- What the procedure makes of the count and the settings, and what it leaves alone, in every state. -/
theorem Tracker.edge_eq (k : Tracker) :
    (k.edge raw e cfg skew).1 = { k.received raw cfg skew with
      e := e, n := counted k, state := (k.edge raw e cfg skew).1.state, pest := (k.edge raw e cfg skew).1.pest
      seeded := (k.edge raw e cfg skew).1.seeded, good := (k.edge raw e cfg skew).1.good, fast := (k.edge raw e cfg skew).1.fast
      range := (k.edge raw e cfg skew).1.range } := by
  rcases k.state.cases_measuring with h | h | h
  · simp [Tracker.edge_absent raw e cfg skew h, counted, h]
  · simp [Tracker.edge_stopped raw e cfg skew h, counted, h, Tracker.received]
  · have hc : counted k = k.n + 1 := if_neg (by rcases h with h | h <;> rw [h] <;> decide)
    rw [Tracker.edge_measured raw e cfg skew h, hc]
    dsimp only
    rw [Tracker.measure_eq]
    rfl

end Sys2Proof.Machine
end

section
/-! A PACE edge that is no glitch: its stages put together (R35, R54 to R61, R64, R513, R514). -/

namespace Sys2Proof.Machine

variable {s u : State} (c : ChanId)

/-! ### The news (R67) -/

/-- What the tracker found is published and flagged. -/
def State.tellNews (s : State) (c : ChanId) (news : EdgeNews) : State :=
  let s := if news.ret then (s.publish c Prod.paceReturn).trkEvent TrkEv.paceReturn else s
  let s := if news.step then (s.publish c Prod.paceStep).trkEvent TrkEv.paceStep else s
  if news.range then s.trkEvent TrkEv.range else s

/-- A stage that tells of the edge and leaves the tracker of the channel as it is. -/
structure State.Tells (c : ChanId) (s u : State) : Prop where
  flags : s.Flags u
  goesOn : (s.ch c).GoesOn (u.ch c)
  trk : (u.ch c).trk = (s.ch c).trk

theorem State.Tells.trans {c : ChanId} {s u v : State} (h : State.Tells c s u) (k : State.Tells c u v) : State.Tells c s v :=
  ⟨h.flags.trans k.flags, h.goesOn.trans k.goesOn, k.trk.trans h.trk⟩

theorem State.Tells.refl (s : State) : State.Tells c s s := ⟨.refl s, .refl _, rfl⟩

theorem State.Tells.ite {c : ChanId} {p : Prop} [Decidable p] {a b : State} (ha : State.Tells c s a) (hb : State.Tells c s b) :
    State.Tells c s (if p then a else b) := by
  split
  · exact ha
  · exact hb

theorem State.tells_trkEvent (s : State) (k : Nat) : State.Tells c s (s.trkEvent k) := ⟨s.flags_trkEvent k, .refl _, rfl⟩

theorem State.tells_publish (s : State) (code k : Nat) : State.Tells c s ((s.publish c code).trkEvent k) := by
  have hch : ((s.publish c code).trkEvent k).ch c = (s.ch c).publish s.cycle code := by
    rw [State.ch_trkEvent, State.publish, State.ch_modCh_self]
  refine ⟨(s.flags_modCh c _).trans (State.flags_trkEvent _ _), ?_, ?_⟩
  · rw [hch]
    exact Chan.goesOn_publish ..
  · rw [hch]
    simp

theorem State.tellNews_tells (s : State) (news : EdgeNews) : State.Tells c s (s.tellNews c news) := by
  have hret : State.Tells c s (if news.ret then (s.publish c Prod.paceReturn).trkEvent TrkEv.paceReturn else s) :=
    .ite (State.tells_publish ..) (.refl c s)
  exact (hret.trans (.ite (State.tells_publish ..) (.refl c _))).trans (.ite (State.tells_trkEvent ..) (.refl c _))

theorem State.tellNews_ret {news : EdgeNews} (h : news.ret = true) : bit (s.tellNews c news).trk.events.bits TrkEv.paceReturn = true := by
  unfold State.tellNews
  rw [h, if_pos rfl]
  have hbit := State.bit_trkEvent (s.publish c Prod.paceReturn) (k := TrkEv.paceReturn) (by decide)
  exact (State.Flags.trans (.ite ((State.flags_modCh _ c _).trans (State.flags_trkEvent _ _)) (.refl _))
    (.ite (State.flags_trkEvent _ _) (.refl _))).bit hbit

theorem State.tellNews_step {news : EdgeNews} (h : news.step = true) : bit (s.tellNews c news).trk.events.bits TrkEv.paceStep = true := by
  unfold State.tellNews
  simp only [h, if_true]
  exact State.Flags.bit (.ite (State.flags_trkEvent _ _) (.refl _)) (State.bit_trkEvent _ (by decide))

/-! ### What the channel does last -/

/-- Start clearings, votes, commits, knots, frames and the lane pair, after the tracker's procedure. -/
def Chan.edgeSteps (c : Chan) (ch : ChanId) (now : Tbu) (was : TrkState) (step mile : Bool) : Chan :=
  let c := c.clearing mile
  let c := if c.decides mile then c.castVote now ch else c
  let c := { c with trk := (c.trk.commit).record c.tdc.oldest }
  let c := (c.knotsAtEdge now).dstEdge c.trk.e step
  let c := if step then (c.laneStep now).calSpoil [2, 3] 0x2A else c
  let c := c.recover true now
  if c.trk.state = .locked ∧ was ≠ .locked then c.pairRefBack true now else c

theorem State.afterEdge_eq (s : State) (was : TrkState) (news : EdgeNews) (mile : Bool) :
    s.afterEdge c was news mile =
      (if mile then (s.tellNews c news).milestone c else s.tellNews c news).modCh c fun x =>
        x.edgeSteps c (if mile then (s.tellNews c news).milestone c else s.tellNews c news).now was news.step mile := rfl

/-- A step that goes on and only plans anew. -/
def Chan.PlansOn (x y : Chan) : Prop := x.GoesOn y ∧ x.trk.replans y.trk

theorem Chan.PlansOn.trans {x y z : Chan} (h : x.PlansOn y) (k : y.PlansOn z) : x.PlansOn z :=
  ⟨h.1.trans k.1, Tracker.replans_trans h.2 k.2⟩

theorem Chan.PlansOn.ite {p : Prop} [Decidable p] {x y : Chan} (h : x.PlansOn y) : x.PlansOn (if p then y else x) := by
  split
  · exact h
  · exact ⟨.refl x, x.trk.replans_refl⟩

theorem Chan.plansOn_of_goesOn {x y : Chan} (h : x.GoesOn y) (ht : y.trk = x.trk) : x.PlansOn y := ⟨h, Tracker.replans_of_eq ht⟩

theorem Chan.plansOn_edgeSteps (x : Chan) (ch : ChanId) (now : Tbu) (was : TrkState) (step mile : Bool) :
    x.PlansOn (x.edgeSteps ch now was step mile) := by
  have hclear (x : Chan) : x.PlansOn (x.clearing mile) := ⟨x.goesOn_clearing mile, Tracker.replans_clearing x mile⟩
  have hvote (x : Chan) : x.PlansOn (x.castVote now ch) := Chan.plansOn_of_goesOn (x.goesOn_castVote now ch) rfl
  have hcommit (x : Chan) : x.PlansOn { x with trk := (x.trk.commit).record x.tdc.oldest } :=
    ⟨.of_keeps rfl rfl rfl rfl rfl rfl, Tracker.replans_trans x.trk.replans_commit (Tracker.replans_record ..)⟩
  have hknots (x : Chan) : x.PlansOn (x.knotsAtEdge now) := ⟨x.goesOn_knotsAtEdge now, Tracker.replans_knotsAtEdge x now⟩
  have hframes (x : Chan) (e : Int) : x.PlansOn (x.dstEdge e step) := ⟨x.goesOn_dstEdge e step, Tracker.replans_dstEdge x e step⟩
  have hlanes (x : Chan) : x.PlansOn ((x.laneStep now).calSpoil [2, 3] 0x2A) :=
    Chan.plansOn_of_goesOn ((x.goesOn_laneStep now).trans (Chan.goesOn_calSpoil ..)) (by simp)
  have hcover (x : Chan) : x.PlansOn (x.recover true now) := Chan.plansOn_of_goesOn (x.goesOn_recoverLanes now) (by simp)
  have hback (x : Chan) : x.PlansOn (x.pairRefBack true now) := Chan.plansOn_of_goesOn (x.goesOn_lanesBack now) (by simp)
  exact ((((((hclear x).trans (hvote _).ite).trans (hcommit _)).trans ((hknots _).trans (hframes _ _))).trans (hlanes _).ite).trans
    (hcover _)).trans (hback _).ite

/-! ### The declaration of STOPPED that an edge finds due (R36) -/

/-- The state in which the procedure of R35 begins on an edge at instant `e`. -/
def State.edgeBegin (s : State) (c : ChanId) (e : Int) : State := if (s.ch c).trk.stopDue e then s.paceStop c else s

theorem Chan.goesOn_stopSteps (x : Chan) (cyc : Nat) (now : Tbu) : x.GoesOn (x.stopSteps cyc now) := by
  have hzero (x : Chan) : x.GoesOn (x.freezeZero now) := .of_keeps (by simp) (by simp) (by simp) (by simp) (by simp) (by simp)
  unfold Chan.stopSteps
  refine Chan.GoesOn.after (Chan.goesOn_calSpoil ..) (Chan.GoesOn.after (Chan.goesOn_lanesLost ..) (Chan.GoesOn.after (hzero _) ?_))
  exact (x.goesOn_losePlace.trans (Chan.goesOn_publish ..)).trans (.of_keeps rfl rfl rfl rfl rfl rfl)

variable {c} {e : Int}

theorem State.edgeBegin_of_due (h : (s.ch c).trk.stopDue e = true) : s.edgeBegin c e = s.paceStop c := if_pos h

theorem State.edgeBegin_of_not (h : (s.ch c).trk.stopDue e = false) : s.edgeBegin c e = s := if_neg (by rw [h]; decide)

variable (c) (e)

theorem State.edgeBegin_flags (s : State) : s.Flags (s.edgeBegin c e) :=
  .ite ((s.flags_modCh c _).trans (State.flags_trkEvent _ _)) (.refl s)

theorem State.edgeBegin_goesOn (s : State) : (s.ch c).GoesOn ((s.edgeBegin c e).ch c) := by
  unfold State.edgeBegin
  split
  · rw [State.paceStop_ch]
    exact Chan.goesOn_stopSteps ..
  · exact .refl _

/-- The tracker that a declaration due leaves to the edge. -/
theorem State.edgeBegin_trk (s : State) :
    ((s.edgeBegin c e).ch c).trk = { (s.ch c).trk with
      state := if (s.ch c).trk.stopDue e then .stopped else (s.ch c).trk.state, hist := ((s.edgeBegin c e).ch c).trk.hist
      pending := ((s.edgeBegin c e).ch c).trk.pending, committed := ((s.edgeBegin c e).ch c).trk.committed } := by
  unfold State.edgeBegin
  split
  · rw [State.paceStop_ch, Chan.stopSteps_trk]
  · rfl

theorem Tracker.stopDue_locked {k : Tracker} (h : k.stopDue e = true) : k.state = .locked :=
  beq_iff_eq.1 (Bool.and_eq_true_iff.1 h).1

/-- A tracker declared STOPPED counts the edge as it would have. -/
theorem State.edgeBegin_counted (s : State) : counted ((s.edgeBegin c e).ch c).trk = counted (s.ch c).trk := by
  rw [State.edgeBegin_trk]
  unfold counted
  split
  · next h => simp [Tracker.stopDue_locked e h]
  · rfl

/-- Only a start can lose its place to a declaration of STOPPED. -/
theorem Chan.losePlace_pending {x : Chan} {p : Placed} (hp : p ∈ x.trk.pending) (hk : p.kind ≠ .start) : p ∈ x.losePlace.trk.pending := by
  unfold Chan.losePlace
  (repeat' split)
  · exact hp
  · exact List.mem_filter.2 ⟨hp, bne_iff_ne.2 hk⟩
  · exact hp

theorem State.edgeBegin_pending {p : Placed} (hp : p ∈ (s.ch c).trk.pending) (hk : p.kind ≠ .start) :
    p ∈ ((s.edgeBegin c e).ch c).trk.pending := by
  unfold State.edgeBegin
  split
  · rw [State.paceStop_ch, Chan.stopSteps_trk]
    exact Chan.losePlace_pending hp hk
  · exact hp

/-! ### The edge -/

/-- The tracker after its own procedure. -/
def State.edgeTracker (s : State) (c : ChanId) (e : Int) (m : Bool) : Tracker :=
  { ((s.ch c).trk.edge s.now e s.trk.paceCfg s.trk.modSkew).1 with mstone := some m }

/-- What the procedure brought to light. -/
def State.edgeNews (s : State) (c : ChanId) (e : Int) : EdgeNews := ((s.ch c).trk.edge s.now e s.trk.paceCfg s.trk.modSkew).2

/-- The state in which the news of the edge has been told. -/
def State.edgeTold (s : State) (c : ChanId) (e : Int) (m : Bool) : State :=
  (s.modCh c fun x => { x with trk := s.edgeTracker c e m }).tellNews c (s.edgeNews c e)

/-- The edge is a milestone (R54). -/
def State.isMile (s : State) (c : ChanId) (m : Bool) : Bool := m && (s.ch c).trk.mstone == some false

/-- The state after the milestone, if the edge is one. -/
def State.edgeMiled (s : State) (c : ChanId) (e : Int) (m : Bool) : State :=
  if s.isMile c m then (s.edgeTold c e m).milestone c else s.edgeTold c e m

theorem State.edgeTracker_eq (s : State) (m : Bool) :
    s.edgeTracker c e m = { (s.ch c).trk with
      paceCfg := s.trk.paceCfg, modSkew := s.trk.modSkew, raw := some s.now, mstone := some m, e := e, n := counted (s.ch c).trk
      state := (s.edgeTracker c e m).state, pest := (s.edgeTracker c e m).pest, seeded := (s.edgeTracker c e m).seeded
      good := (s.edgeTracker c e m).good, fast := (s.edgeTracker c e m).fast, range := (s.edgeTracker c e m).range } := by
  unfold State.edgeTracker
  rw [Tracker.edge_eq]
  rfl

theorem State.edgeTaken_eq (s : State) (m : Bool) :
    s.edgeTaken c e m = (s.edgeMiled c e m).modCh c fun x =>
      x.edgeSteps c (s.edgeMiled c e m).now (s.ch c).trk.state (s.edgeNews c e).step (s.isMile c m) := by
  have hm : (((s.ch c).trk.edge s.now e s.trk.paceCfg s.trk.modSkew).1.mstone == some false) = ((s.ch c).trk.mstone == some false) := by
    rw [Tracker.edge_eq]
    rfl
  unfold State.edgeTaken
  dsimp only
  rw [State.afterEdge_eq, hm]
  rfl

theorem State.edgeTold_tells (s : State) (m : Bool) :
    s.Flags (s.edgeTold c e m) ∧ (s.ch c).GoesOn ((s.edgeTold c e m).ch c) ∧ ((s.edgeTold c e m).ch c).trk = s.edgeTracker c e m := by
  have ht := State.tellNews_tells c (s.modCh c fun x => { x with trk := s.edgeTracker c e m }) (s.edgeNews c e)
  have hg := ht.goesOn
  have hk := ht.trk
  rw [State.ch_modCh_self] at hg hk
  exact ⟨(s.flags_modCh c _).trans ht.flags, Chan.GoesOn.after hg (.of_keeps rfl rfl rfl rfl rfl rfl), hk⟩

end Sys2Proof.Machine
end

section
/-! What a PACE edge that is no glitch leaves of its channel and of the module's tracker registers (R35, R54 to R61, R64, R513,
R514). -/

namespace Sys2Proof.Machine

variable {s : State} (c : ChanId) (e : Int)

/-! ### From the tracker's procedure to the end of the edge -/

/-- A milestone changes these of the module's tracker registers at most, and clears no event. -/
def TrkMod.miled (m m' : TrkMod) : Prop :=
  m' = { m with
    events := m'.events, mileAt := m'.mileAt, mileCfg := m'.mileCfg, milePos := m'.milePos
    mstoneLast := m'.mstoneLast, mstoneCfg := m'.mstoneCfg, mstonePos := m'.mstonePos } ∧ m.events.le m'.events

theorem TrkMod.miled_trans {a b d : TrkMod} (h : a.miled b) (k : b.miled d) : a.miled d := by
  obtain ⟨h, he⟩ := h
  obtain ⟨k, ke⟩ := k
  exact ⟨by rw [k, h], Sticky.le_trans he ke⟩

theorem State.Flags.miled {u : State} (h : s.Flags u) : s.trk.miled u.trk := ⟨by rw [h.regs], h.events⟩

theorem TrkMod.miled_milestone (m : TrkMod) (cfg pos last : Word) : m.miled (m.milestone e cfg pos last) :=
  ⟨rfl, Sticky.le_evIf _ _ _⟩

theorem State.mileNoted_ch (s : State) (cfg pos : Word) (d : ChanId) : (s.mileNoted c e cfg pos).ch d = s.ch d := by
  unfold State.mileNoted
  split <;> rfl

theorem State.mileNoted_miled (s : State) (cfg pos : Word) : s.trk.miled (s.mileNoted c e cfg pos).trk := by
  unfold State.mileNoted
  split
  · exact TrkMod.miled_milestone ..
  · exact (State.Flags.refl s).miled

/-- What follows the tracker's procedure goes on, and changes only its count. -/
theorem State.edgeMiled_goesOn (s : State) (m : Bool) :
    (s.ch c).GoesOn ((s.edgeMiled c e m).ch c) ∧ (s.edgeTracker c e m).recounts ((s.edgeMiled c e m).ch c).trk ∧
      (s.edgeTold c e m).trk.miled (s.edgeMiled c e m).trk := by
  obtain ⟨-, hgoes, htrk⟩ := s.edgeTold_tells c e m
  unfold State.edgeMiled
  split
  · rcases hheld : (s.edgeTold c e m).trk.heldAt ((s.edgeTold c e m).ch c).trk.e with ⟨cfg, pos⟩
    rw [State.milestone_eq _ _ hheld, State.mileNoted_ch]
    obtain ⟨hg, hr⟩ := State.mileSteps_goesOn c (mstoneMode cfg) pos (s.edgeTold c e m)
    rw [htrk] at hr
    exact ⟨hgoes.trans hg, hr, TrkMod.miled_trans (State.mileSteps_flags c _ pos _).miled (State.mileNoted_miled ..)⟩
  · rw [htrk]
    exact ⟨hgoes, rfl, (State.Flags.refl _).miled⟩

/-- The last stage plans on, and leaves the module's registers alone. -/
theorem State.edgeTaken_plansOn (s : State) (m : Bool) :
    ((s.edgeMiled c e m).ch c).PlansOn ((s.edgeTaken c e m).ch c) ∧ (s.edgeTaken c e m).trk = (s.edgeMiled c e m).trk := by
  rw [State.edgeTaken_eq, State.ch_modCh_self]
  exact ⟨Chan.plansOn_edgeSteps .., rfl⟩

theorem State.edgeTaken_goesOn (s : State) (m : Bool) :
    (s.ch c).GoesOn ((s.edgeTaken c e m).ch c) ∧ (s.edgeTracker c e m).recounts ((s.edgeTaken c e m).ch c).trk := by
  obtain ⟨hg, hr, -⟩ := s.edgeMiled_goesOn c e m
  obtain ⟨⟨hp, ht⟩, -⟩ := s.edgeTaken_plansOn c e m
  exact ⟨hg.trans hp, Tracker.recounts_trans hr (Tracker.recounts_of_replans ht)⟩

theorem State.edgeTaken_miled (s : State) (m : Bool) : (s.edgeTold c e m).trk.miled (s.edgeTaken c e m).trk := by
  obtain ⟨-, -, hm⟩ := s.edgeMiled_goesOn c e m
  rw [(s.edgeTaken_plansOn c e m).2]
  exact hm

/-- An edge that is no milestone changes the tracker no further, and only flags events. -/
theorem State.edgeTaken_plain {m : Bool} (h : s.isMile c m = false) :
    (s.edgeTracker c e m).replans ((s.edgeTaken c e m).ch c).trk ∧ s.Flags (s.edgeTaken c e m) := by
  have hmiled : s.edgeMiled c e m = s.edgeTold c e m := if_neg (by rw [h]; decide)
  obtain ⟨hflags, -, htrk⟩ := s.edgeTold_tells c e m
  obtain ⟨⟨-, ht⟩, hregs⟩ := s.edgeTaken_plansOn c e m
  rw [hmiled] at ht hregs
  rw [htrk] at ht
  refine ⟨ht, ⟨by rw [hregs]; exact hflags.regs, by rw [hregs]; exact hflags.events, ?_⟩⟩
  rw [State.edgeTaken_eq, hmiled]
  exact hflags.now

/-- What the tracker's own procedure leaves to the end of the edge. -/
theorem Tracker.recounts_fields {k k' : Tracker} (h : k.recounts k') :
    (k'.raw = k.raw ∧ k'.paceCfg = k.paceCfg ∧ k'.modSkew = k.modSkew ∧ k'.mstone = k.mstone ∧ k'.e = k.e) ∧
    k'.state = k.state ∧ k'.pest = k.pest ∧ k'.seeded = k.seeded ∧ k'.good = k.good ∧ k'.fast = k.fast ∧ k'.range = k.range := by
  unfold Tracker.recounts at h
  rw [h]
  exact ⟨⟨rfl, rfl, rfl, rfl, rfl⟩, rfl, rfl, rfl, rfl, rfl, rfl⟩

/-! ### The row -/

theorem Tracker.rejects_of_noGlitch {k : Tracker} {now : Tbu} (h : noGlitch k now) : k.rejects now = false := by
  unfold Tracker.rejects
  split
  · next r hr => exact decide_eq_false (Nat.not_lt.2 (h r hr))
  · rfl

theorem State.edgeAt_atTime (s : State) (t : Tbu) : (s.atTime t).edgeAt c = edgeInstant s c (max s.now t) := by
  simp only [State.edgeAt, edgeInstant, State.atTime_now, State.ch_atTime, State.atTime_trk]
  omega

/-- The state that a PACE edge that is no glitch leaves. -/
def State.afterPace (s : State) (t : Tbu) (c : ChanId) (m : Bool) : State :=
  ((s.atTime t).edgeBegin c (edgeInstant s c (max s.now t))).edgeTaken c (edgeInstant s c (max s.now t)) m

variable {c} {t : Tbu} {m : Bool}

theorem State.paceEdge_taken (h : noGlitch (s.ch c).trk (max s.now t)) : (s.atTime t).paceEdge c m = s.afterPace t c m := by
  have hr : ((s.atTime t).ch c).trk.rejects (s.atTime t).now = false := Tracker.rejects_of_noGlitch h
  rw [State.paceEdge_eq, hr, State.edgeAt_atTime]
  rfl

theorem exec_paceEdge_taken (hm : s.mod.mode ≠ .unpowered) (h : noGlitch (s.ch c).trk (max s.now t)) :
    exec (.paceEdge t c m) s = .next (s.afterPace t c m) := by
  rw [exec_paceEdge t c m hm, State.paceEdge_taken h]

/-- Only channel `c` and the tracker's registers of the module change. -/
theorem State.afterPace_keeps (h : noGlitch (s.ch c).trk (max s.now t)) :
    State.Keeps .tracker (fun d => d = c) Eq (s.atTime t) (s.afterPace t c m) := by
  rw [← State.paceEdge_taken h]
  exact (State.Keeps.refl .tracker (fun d => d = c) (s.atTime t)).paceEdge c m rfl rfl

end Sys2Proof.Machine
end

section
/-! The clauses of a PACE edge that is no glitch: its count, its interval and its milestone (R35, R54 to R61, R64, R513, R514). -/

namespace Sys2Proof.Machine

variable {s : State} {c : ChanId} {t : Tbu} {m : Bool}

/-! ### The count (R35, R54, R64) -/

/-- The state in which the tracker's own procedure begins. -/
def State.paceBegin (s : State) (t : Tbu) (c : ChanId) : State := (s.atTime t).edgeBegin c (edgeInstant s c (max s.now t))

theorem State.afterPace_eq (s : State) (t : Tbu) (c : ChanId) (m : Bool) :
    s.afterPace t c m = (s.paceBegin t c).edgeTaken c (edgeInstant s c (max s.now t)) m := rfl

theorem State.paceBegin_flags (s : State) (t : Tbu) (c : ChanId) : (s.atTime t).Flags (s.paceBegin t c) := State.edgeBegin_flags ..

theorem State.paceBegin_trk (s : State) (t : Tbu) (c : ChanId) :
    ((s.paceBegin t c).ch c).trk = { (s.ch c).trk with
      state := if (s.ch c).trk.stopDue (edgeInstant s c (max s.now t)) then .stopped else (s.ch c).trk.state
      hist := ((s.paceBegin t c).ch c).trk.hist, pending := ((s.paceBegin t c).ch c).trk.pending
      committed := ((s.paceBegin t c).ch c).trk.committed } := State.edgeBegin_trk ..

theorem State.paceBegin_counted (s : State) (t : Tbu) (c : ChanId) : counted ((s.paceBegin t c).ch c).trk = counted (s.ch c).trk :=
  State.edgeBegin_counted ..

theorem State.paceBegin_isMile (s : State) (t : Tbu) (c : ChanId) (m : Bool) : (s.paceBegin t c).isMile c m = s.isMile c m := by
  rw [State.isMile, State.paceBegin_trk]
  rfl

theorem State.afterPace_goesOn (s : State) (t : Tbu) (c : ChanId) (m : Bool) : (s.ch c).GoesOn ((s.afterPace t c m).ch c) :=
  (State.edgeBegin_goesOn c _ (s.atTime t)).trans (State.edgeTaken_goesOn ..).1

theorem State.afterPace_miled (s : State) (t : Tbu) (c : ChanId) (m : Bool) : s.trk.miled (s.afterPace t c m).trk :=
  TrkMod.miled_trans ((s.paceBegin_flags t c).trans (State.edgeTold_tells ..).1).miled (State.edgeTaken_miled ..)

/-- The tracker that the procedure of an edge makes, of the tracker and the registers as they stood. -/
theorem State.paceBegin_edgeTracker (s : State) (t : Tbu) (c : ChanId) (m : Bool) (e : Int) :
    (s.paceBegin t c).edgeTracker c e m = { (s.ch c).trk with
      paceCfg := s.trk.paceCfg, modSkew := s.trk.modSkew, raw := some (max s.now t), mstone := some m, e := e, n := counted (s.ch c).trk
      state := ((s.paceBegin t c).edgeTracker c e m).state, pest := ((s.paceBegin t c).edgeTracker c e m).pest
      seeded := ((s.paceBegin t c).edgeTracker c e m).seeded, good := ((s.paceBegin t c).edgeTracker c e m).good
      fast := ((s.paceBegin t c).edgeTracker c e m).fast, range := ((s.paceBegin t c).edgeTracker c e m).range
      hist := ((s.paceBegin t c).ch c).trk.hist, pending := ((s.paceBegin t c).ch c).trk.pending
      committed := ((s.paceBegin t c).ch c).trk.committed } := by
  rw [State.edgeTracker_eq, (s.paceBegin_flags t c).regs, (s.paceBegin_flags t c).now, State.paceBegin_counted, State.paceBegin_trk]
  rfl

/-- With the settings in force, each edge is recorded (R64). -/
theorem State.afterPace_recorded (s : State) (t : Tbu) (c : ChanId) (m : Bool) :
    ((s.afterPace t c m).ch c).trk.raw = some (max s.now t) ∧ ((s.afterPace t c m).ch c).trk.paceCfg = s.trk.paceCfg ∧
    ((s.afterPace t c m).ch c).trk.modSkew = s.trk.modSkew ∧ ((s.afterPace t c m).ch c).trk.mstone = some m ∧
    ((s.afterPace t c m).ch c).trk.e = edgeInstant s c (max s.now t) := by
  obtain ⟨⟨hraw, hcfg, hskew, hms, he⟩, -⟩ := Tracker.recounts_fields (State.edgeTaken_goesOn c _ (s.paceBegin t c) m).2
  rw [State.paceBegin_edgeTracker] at hraw hcfg hskew hms he
  exact ⟨hraw, hcfg, hskew, hms, he⟩

/-- An edge that is no milestone counts and aligns nothing. -/
theorem State.afterPace_plain (h : s.isMile c m = false) :
    (s.afterPace t c m).trk = { s.trk with events := (s.afterPace t c m).trk.events } ∧
    ((s.afterPace t c m).ch c).trk.n = counted (s.ch c).trk ∧ ((s.afterPace t c m).ch c).trk.aligned = (s.ch c).trk.aligned ∧
    ((s.afterPace t c m).ch c).trk.misaligned = (s.ch c).trk.misaligned ∧ ((s.afterPace t c m).ch c).trk.slip = (s.ch c).trk.slip := by
  rw [← s.paceBegin_isMile t c m] at h
  obtain ⟨hk, hf⟩ := State.edgeTaken_plain c (edgeInstant s c (max s.now t)) h
  obtain ⟨hn, ha, hma, hs⟩ := Tracker.replans_count hk
  rw [State.paceBegin_edgeTracker] at hn ha hma hs
  exact ⟨((s.paceBegin_flags t c).trans hf).regs, hn, ha, hma, hs⟩

/-- The fields of the procedure in a state in which it begins. -/
theorem State.afterPace_procedure (s : State) (t : Tbu) (c : ChanId) (m : Bool) :
    let k := (((s.paceBegin t c).ch c).trk.edge (max s.now t) (edgeInstant s c (max s.now t)) s.trk.paceCfg s.trk.modSkew).1
    let k' := ((s.afterPace t c m).ch c).trk
    k'.state = k.state ∧ k'.pest = k.pest ∧ k'.seeded = k.seeded ∧ k'.good = k.good ∧ k'.fast = k.fast ∧ k'.range = k.range := by
  have hf := s.paceBegin_flags t c
  obtain ⟨-, h⟩ := Tracker.recounts_fields (State.edgeTaken_goesOn c (edgeInstant s c (max s.now t)) (s.paceBegin t c) m).2
  rw [State.edgeTracker, hf.now, hf.regs] at h
  exact h

/-- What the procedure brought to light is flagged to the end. -/
theorem State.afterPace_news (s : State) (t : Tbu) (c : ChanId) (m : Bool) :
    let news := (((s.paceBegin t c).ch c).trk.edge (max s.now t) (edgeInstant s c (max s.now t)) s.trk.paceCfg s.trk.modSkew).2
    (news.ret = true → bit (s.afterPace t c m).trk.events.bits TrkEv.paceReturn = true) ∧
    (news.step = true → bit (s.afterPace t c m).trk.events.bits TrkEv.paceStep = true) := by
  have hf := s.paceBegin_flags t c
  have hnews : (((s.paceBegin t c).ch c).trk.edge (max s.now t) (edgeInstant s c (max s.now t)) s.trk.paceCfg s.trk.modSkew).2 =
      (s.paceBegin t c).edgeNews c (edgeInstant s c (max s.now t)) := by
    rw [State.edgeNews, hf.now, hf.regs]
    rfl
  obtain ⟨-, hev⟩ := State.edgeTaken_miled c (edgeInstant s c (max s.now t)) (s.paceBegin t c) m
  dsimp only
  rw [hnews]
  exact ⟨fun h => hev _ (State.tellNews_ret c h), fun h => hev _ (State.tellNews_step c h)⟩

theorem State.isMile_false (h : m = false ∨ (s.ch c).trk.mstone ≠ some false) : s.isMile c m = false := by
  unfold State.isMile
  rcases h with rfl | h
  · rfl
  · rw [beq_eq_false_iff_ne.2 h, Bool.and_false]

/-- In ABSENT no declaration of STOPPED is due. -/
theorem Tracker.stopDue_false {k : Tracker} (e : Int) (h : k.state ≠ .locked) : k.stopDue e = false :=
  Bool.eq_false_iff.2 fun hd => h (Tracker.stopDue_locked e hd)

theorem State.paceBegin_of_not (h : (s.ch c).trk.stopDue (edgeInstant s c (max s.now t)) = false) : s.paceBegin t c = s.atTime t :=
  State.edgeBegin_of_not (s := s.atTime t) h

/-- A declaration of STOPPED that the edge finds due is flagged. -/
theorem State.paceBegin_stop (h : (s.ch c).trk.stopDue (edgeInstant s c (max s.now t)) = true) :
    bit (s.paceBegin t c).trk.events.bits TrkEv.paceStop = true := by
  rw [State.paceBegin, State.edgeBegin_of_due (s := s.atTime t) h, State.paceStop_eq]
  exact State.bit_trkEvent _ (by decide)

theorem edgeCounted : Clause.EdgeCounted := by
  intro t c m s hm hg
  have hkeeps := State.afterPace_keeps (m := m) hg
  have hgoes := s.afterPace_goesOn t c m
  obtain ⟨hregs, hev⟩ := s.afterPace_miled t c m
  obtain ⟨hraw, hcfg, hskew, hms, he⟩ := s.afterPace_recorded t c m
  obtain ⟨hstate, hpest, hseeded, hgood, hfast, -⟩ := s.afterPace_procedure t c m
  obtain ⟨hret, -⟩ := s.afterPace_news t c m
  refine ⟨_, exec_paceEdge_taken hm hg, hkeeps.sameCreels, hkeeps.blocks rfl rfl, hregs, hkeeps.other, hgoes.mem, hgoes.lanes,
    hgoes.state, hraw, hcfg, hskew, hms, he, fun h => State.afterPace_plain (State.isMile_false h), fun ha => ?_, fun hs => ?_,
    fun hd => ?_⟩
  · have hb : s.paceBegin t c = s.atTime t := State.paceBegin_of_not (Tracker.stopDue_false _ (by rw [ha]; decide))
    rw [hb, State.ch_atTime, Tracker.edge_absent _ _ _ _ ha] at hstate hseeded hgood
    exact ⟨hstate, hseeded, hgood⟩
  · have hk := s.paceBegin_trk t c
    have hst : ((s.paceBegin t c).ch c).trk.state = .stopped := by
      rw [hk]
      rcases hs with hs | hs
      · exact (if_neg (by rw [Tracker.stopDue_false _ (by rw [hs]; decide)]; decide)).trans hs
      · exact if_pos hs
    rw [Tracker.edge_stopped _ _ _ _ hst] at hstate hpest hgood hfast hret
    refine ⟨hstate, hpest.trans ?_, hfast.trans ?_, hgood.trans ?_, hret rfl⟩ <;> rw [hk] <;> rfl
  · exact (TrkMod.miled_trans (State.edgeTold_tells ..).1.miled (State.edgeTaken_miled ..)).2 _ (State.paceBegin_stop hd)

/-! ### The interval (R33, R35, R513) -/

/-- The tracker of channel `c` that measures the interval that an edge at `t` ends. -/
def State.measuringAt (s : State) (t : Tbu) (c : ChanId) : Tracker :=
  (s.ch c).trk.measuring (max s.now t) s.trk.paceCfg s.trk.modSkew

/-- Where the edge ends an interval, its measure stands to the end of the edge. -/
theorem State.afterPace_measured {d : Int} (hd : d = edgeInstant s c (max s.now t) - (s.ch c).trk.e) (m : Bool)
    (hst : (s.ch c).trk.state = .acquiring ∨ (s.ch c).trk.state = .locked)
    (hnd : (s.ch c).trk.stopDue (edgeInstant s c (max s.now t)) = false) :
    let r := (s.measuringAt t c).measure d
    let k' := ((s.afterPace t c m).ch c).trk
    (k'.state = r.1.state ∧ k'.pest = r.1.pest ∧ k'.seeded = r.1.seeded ∧ k'.good = r.1.good ∧ k'.fast = r.1.fast ∧
      k'.range = r.1.range) ∧ (r.2.step = true → bit (s.afterPace t c m).trk.events.bits TrkEv.paceStep = true) := by
  have hproc := s.afterPace_procedure t c m
  have hnews := s.afterPace_news t c m
  rw [State.paceBegin_of_not hnd, State.ch_atTime, Tracker.edge_measured _ _ _ _ hst, ← hd] at hproc hnews
  exact ⟨hproc, hnews.2⟩

theorem edgePeriod : Clause.EdgePeriod := by
  intro t c m s k d hk hm hg hd hst
  subst hk
  have hnd : (s.ch c).trk.stopDue (edgeInstant s c (max s.now t)) = false := by
    rcases hst with h | ⟨-, h⟩
    · exact Tracker.stopDue_false _ (by rw [h]; decide)
    · exact h
  have hst' : (s.ch c).trk.state = .acquiring ∨ (s.ch c).trk.state = .locked := hst.imp_right And.left
  obtain ⟨⟨hstate, hpest, hseeded, hgood, hfast, hrange⟩, hstep⟩ := State.afterPace_measured hd m hst' hnd
  refine ⟨_, exec_paceEdge_taken hm hg, ?_, fun hs hlt => ?_, fun hs => ?_⟩
  · rw [Tracker.measure_eq] at hrange
    exact hrange
  · rw [Tracker.measure_first (k := s.measuringAt t c) d hs hlt] at hstate hpest hseeded hgood hfast
    exact ⟨hpest, hseeded, hstate, hfast, hgood⟩
  · rcases lt_or_ge (stepThreshold s.trk.paceCfg (s.ch c).trk.pest) (d * 65536 - (s.ch c).trk.pest).natAbs with hlt | hle
    · rw [Tracker.measure_step (k := s.measuringAt t c) d hs hlt] at hstate hpest hseeded hgood hfast hstep
      rw [Tracker.settled_eq] at hpest hseeded hgood hfast
      rw [Tracker.settled_state (by exact hst')] at hstate
      exact ⟨hseeded.trans hs, hstate.trans (by rw [hgood]; rfl), fun _ => ⟨hpest, hfast, hgood, hstep rfl⟩,
        fun hle => absurd hlt (Nat.not_lt.2 hle)⟩
    · rw [Tracker.measure_within (k := s.measuringAt t c) d hs hle] at hstate hpest hseeded hgood hfast
      rw [Tracker.settled_eq] at hpest hseeded hgood hfast
      rw [Tracker.settled_state (by exact hst')] at hstate
      refine ⟨hseeded.trans hs, hstate.trans (by rw [hgood]; rfl), fun hlt => absurd hlt (Nat.not_lt.2 hle), fun _ =>
        ⟨hgood, hfast, fun hf => hpest.trans ?_, fun hf => hpest.trans ?_⟩⟩
      · rw [Tracker.divisor, if_pos (by exact hf)]
        rfl
      · rw [Tracker.divisor, if_neg (by exact Nat.not_lt.2 (Nat.le_of_eq hf))]
        rfl

end Sys2Proof.Machine
end

section
/-! The milestone of a PACE edge that is no glitch (R54 to R61, R514). -/

namespace Sys2Proof.Machine

variable {s : State} {c : ChanId} {t : Tbu} {cfg pos : Word}

/-! ### What the milestone finds -/

/-- The state in which the milestone of an edge begins. -/
def State.mileBegin (s : State) (t : Tbu) (c : ChanId) : State := (s.paceBegin t c).edgeTold c (edgeInstant s c (max s.now t)) true

/-- The state after the channel's part of that milestone. -/
def State.mileDone (s : State) (t : Tbu) (c : ChanId) (cfg pos : Word) : State := (s.mileBegin t c).mileSteps c (mstoneMode cfg) pos

theorem State.mileBegin_flags (s : State) (t : Tbu) (c : ChanId) : (s.atTime t).Flags (s.mileBegin t c) :=
  (s.paceBegin_flags t c).trans (State.edgeTold_tells ..).1

theorem State.mileBegin_trk (s : State) (t : Tbu) (c : ChanId) :
    ((s.mileBegin t c).ch c).trk = (s.paceBegin t c).edgeTracker c (edgeInstant s c (max s.now t)) true := (State.edgeTold_tells ..).2.2

/-- The milestone finds the edge counted, and the alignment as it was. -/
theorem State.mileBegin_count (s : State) (t : Tbu) (c : ChanId) :
    ((s.mileBegin t c).ch c).trk.n = counted (s.ch c).trk ∧ ((s.mileBegin t c).ch c).trk.aligned = (s.ch c).trk.aligned ∧
    ((s.mileBegin t c).ch c).trk.misaligned = (s.ch c).trk.misaligned ∧ ((s.mileBegin t c).ch c).trk.slip = (s.ch c).trk.slip ∧
    ((s.mileBegin t c).ch c).trk.e = edgeInstant s c (max s.now t) := by
  rw [State.mileBegin_trk, State.paceBegin_edgeTracker]
  exact ⟨rfl, rfl, rfl, rfl, rfl⟩

/-- Of the events planned, only a start may be missing at the milestone. -/
theorem State.mileBegin_pending {p : Placed} (hp : p ∈ (s.ch c).trk.pending) (hk : p.kind ≠ .start) :
    p ∈ ((s.mileBegin t c).ch c).trk.pending := by
  rw [State.mileBegin_trk, State.edgeTracker_eq]
  exact State.edgeBegin_pending (s := s.atTime t) c _ hp hk

/-- The channel may align if the edge leaves it LOCKED, in REST, TRIM or ARMED. -/
theorem State.mileBegin_alignable (s : State) (t : Tbu) (c : ChanId) :
    ((s.mileBegin t c).ch c).alignable = (((s.afterPace t c true).ch c).trk.state == .locked &&
      ((s.ch c).mod.state == .rest || (s.ch c).mod.state == .trim || (s.ch c).mod.state == .armed)) := by
  obtain ⟨-, hstate, -⟩ := Tracker.recounts_fields
    (State.edgeTaken_goesOn c (edgeInstant s c (max s.now t)) (s.paceBegin t c) true).2
  have hmod : ((s.mileBegin t c).ch c).mod.state = (s.ch c).mod.state :=
    ((State.edgeBegin_goesOn c _ (s.atTime t)).trans (State.edgeTold_tells ..).2.1).state
  rw [Chan.alignable, hmod, State.mileBegin_trk, ← hstate]
  rfl

theorem State.mileBegin_slips (s : State) (t : Tbu) (c : ChanId) (pos : Word) :
    ((s.mileBegin t c).ch c).slips pos = ((s.ch c).trk.aligned && cyclePos (counted (s.ch c).trk) != pos) := by
  obtain ⟨hn, ha, -⟩ := s.mileBegin_count t c
  rw [Chan.slips, Tracker.edgePos, hn, ha]

/-! ### What the edge leaves of the milestone -/

/-- A milestone is carried out in the order told, noted; what follows it only plans anew. -/
theorem State.afterPace_milestone (hms : (s.ch c).trk.mstone = some false)
    (hheld : s.trk.heldAt (edgeInstant s c (max s.now t)) = (cfg, pos)) :
    (s.afterPace t c true).trk = ((s.mileDone t c cfg pos).mileNoted c (edgeInstant s c (max s.now t)) cfg pos).trk ∧
    ((s.mileDone t c cfg pos).ch c).PlansOn ((s.afterPace t c true).ch c) := by
  have hmile : (s.paceBegin t c).isMile c true = true := by
    rw [State.paceBegin_isMile, State.isMile, hms]
    rfl
  obtain ⟨-, -, -, -, he⟩ := s.mileBegin_count t c
  have hheld' : (s.mileBegin t c).trk.heldAt ((s.mileBegin t c).ch c).trk.e = (cfg, pos) := by
    rw [he, (s.mileBegin_flags t c).heldAt]
    exact hheld
  have hmiled : (s.paceBegin t c).edgeMiled c (edgeInstant s c (max s.now t)) true =
      (s.mileDone t c cfg pos).mileNoted c (edgeInstant s c (max s.now t)) cfg pos := by
    have hmilestone : (s.paceBegin t c).edgeMiled c (edgeInstant s c (max s.now t)) true = (s.mileBegin t c).milestone c := if_pos hmile
    rw [hmilestone, State.milestone_eq _ c hheld', he, State.mileDone]
  obtain ⟨hplans, htrk⟩ := State.edgeTaken_plansOn c (edgeInstant s c (max s.now t)) (s.paceBegin t c) true
  rw [hmiled] at htrk hplans
  rw [State.mileNoted_ch] at hplans
  exact ⟨htrk, hplans⟩

/-- An event that the channel's part of the milestone flags stays flagged. -/
theorem State.afterPace_mileEvent (hms : (s.ch c).trk.mstone = some false)
    (hheld : s.trk.heldAt (edgeInstant s c (max s.now t)) = (cfg, pos)) {j : Nat}
    (h : bit (s.mileDone t c cfg pos).trk.events.bits j = true) : bit (s.afterPace t c true).trk.events.bits j = true := by
  rw [(State.afterPace_milestone hms hheld).1]
  exact (State.mileNoted_miled ..).2 _ h

/-- The channel's part of the milestone changes no register of the module but TRK_EVENTS. -/
theorem State.mileDone_regs (s : State) (t : Tbu) (c : ChanId) (cfg pos : Word) :
    (s.mileDone t c cfg pos).trk = { s.trk with events := (s.mileDone t c cfg pos).trk.events } :=
  ((s.mileBegin_flags t c).trans (State.mileSteps_flags ..)).regs

/-! ### The registers (R58, R60, R514) -/

/-- A register packed of MODE 3 and of VIEW_CH holds both. -/
theorem fld_pack_view {v : Nat} (h : v < 16) : fld (pack [(3, 0), (v, 4)]) 0 2 = 3 ∧ fld (pack [(3, 0), (v, 4)]) 4 4 = v := by
  have hall : ∀ v : Fin 16, fld (pack [(3, 0), (v.val, 4)]) 0 2 = 3 ∧ fld (pack [(3, 0), (v.val, 4)]) 4 4 = v.val := by decide
  exact hall ⟨v, h⟩

/-- No milestone of the module is held that lies within the gap of an edge (R514). -/
theorem TrkMod.heldAt_far {m : TrkMod} {e : Int} (h : ∀ a, m.mileAt = some a → edgeGap ≤ (e - a).natAbs) :
    m.heldAt e = (m.mstoneCfg, m.mstonePos) := by
  unfold TrkMod.heldAt
  split
  · next a ha => exact if_neg (Nat.not_lt.2 (h a ha))
  · rfl

/-- Where the milestone leaves the tracker of the channel as it finds it, the edge only counts. -/
theorem State.afterPace_milestone_keep (hms : (s.ch c).trk.mstone = some false)
    (hheld : s.trk.heldAt (edgeInstant s c (max s.now t)) = (cfg, pos))
    (ha : ((mstoneMode cfg == 1 || mstoneMode cfg == 2) && ((s.mileBegin t c).ch c).alignable) = false)
    (hs : (mstoneMode cfg == 3 && fld s.trk.mstoneStep 0 40 != 0 && ((s.mileBegin t c).ch c).slips pos) = false) :
    ((s.afterPace t c true).ch c).trk.n = counted (s.ch c).trk ∧
    ((s.afterPace t c true).ch c).trk.aligned = (s.ch c).trk.aligned ∧
    ((s.afterPace t c true).ch c).trk.misaligned = (s.ch c).trk.misaligned ∧
    ((s.afterPace t c true).ch c).trk.slip = (s.ch c).trk.slip := by
  obtain ⟨-, -, hplan⟩ := State.afterPace_milestone hms hheld
  obtain ⟨hn, hal, hmis, hslip, -⟩ := s.mileBegin_count t c
  have hstep : (s.mileBegin t c).trk.mstoneStep = s.trk.mstoneStep := by
    rw [(s.mileBegin_flags t c).regs]
    rfl
  rw [State.mileDone, State.mileSteps_keep c _ pos ha (by rw [hstep]; exact hs)] at hplan
  rw [← hn, ← hal, ← hmis, ← hslip]
  exact Tracker.replans_count hplan

/-- In MODE 1 or 2 a channel that may align takes the position, and its late events are given up. -/
theorem State.afterPace_milestone_align (hms : (s.ch c).trk.mstone = some false)
    (hheld : s.trk.heldAt (edgeInstant s c (max s.now t)) = (cfg, pos)) (hmode : mstoneMode cfg = 1 ∨ mstoneMode cfg = 2)
    (ha : ((s.mileBegin t c).ch c).alignable = true) :
    (((s.afterPace t c true).ch c).trk.n = posInt pos ∧ ((s.afterPace t c true).ch c).trk.aligned = true ∧
      ((s.afterPace t c true).ch c).trk.misaligned = false) ∧
    ∀ p ∈ (s.ch c).trk.pending, p.kind ≠ .start → isAfter p.pos (cyclePos (posInt pos)) = false →
      ((s.afterPace t c true).ch c).gaveUp p := by
  obtain ⟨-, hgoes, hplan⟩ := State.afterPace_milestone hms hheld
  obtain ⟨hn, hal, hmis, -⟩ := Tracker.replans_count hplan
  obtain ⟨hn', hal', hmis', hlate⟩ := State.mileSteps_align c _ pos hmode ha
  exact ⟨⟨hn.trans hn', hal.trans hal', hmis.trans hmis'⟩,
    fun p hp hk hl => hgoes.gaveUp (hlate p (State.mileBegin_pending hp hk) hl)⟩

/-- In MODE 3 an ALIGNED channel whose edge is elsewhere slips. -/
theorem State.afterPace_milestone_slip (hms : (s.ch c).trk.mstone = some false)
    (hheld : s.trk.heldAt (edgeInstant s c (max s.now t)) = (cfg, pos)) (hmode : mstoneMode cfg = 3)
    (hstep : fld s.trk.mstoneStep 0 40 ≠ 0) (ha : (s.ch c).trk.aligned = true) (hne : cyclePos (counted (s.ch c).trk) ≠ pos) :
    ((s.afterPace t c true).ch c).trk.n = counted (s.ch c).trk ∧ ((s.afterPace t c true).ch c).trk.aligned = false ∧
    ((s.afterPace t c true).ch c).trk.misaligned = true ∧
    ((s.afterPace t c true).ch c).trk.slip = cyclePos (counted (s.ch c).trk) - pos ∧
    bit (s.afterPace t c true).trk.events.bits TrkEv.mstoneSlip = true := by
  obtain ⟨-, -, hplan⟩ := State.afterPace_milestone hms hheld
  obtain ⟨hn, -⟩ := s.mileBegin_count t c
  have hslips : ((s.mileBegin t c).ch c).slips pos = true := by
    rw [State.mileBegin_slips, ha, Bool.true_and]
    exact bne_iff_ne.2 hne
  have hregs : (s.mileBegin t c).trk.mstoneStep = s.trk.mstoneStep := by
    rw [(s.mileBegin_flags t c).regs]
    rfl
  obtain ⟨htrk, hflag⟩ := State.mileSteps_slip c pos (by rw [hregs]; exact hstep) hslips
  rw [← hmode] at htrk hflag
  rw [State.mileDone, htrk, Tracker.edgePos, hn] at hplan
  obtain ⟨hn', hal, hmis, hslip⟩ := Tracker.replans_count hplan
  exact ⟨hn'.trans hn, hal, hmis, hslip, State.afterPace_mileEvent hms hheld hflag⟩

/-- The channel in view brings the module's part of the milestone. -/
theorem State.afterPace_milestone_view (hms : (s.ch c).trk.mstone = some false)
    (hheld : s.trk.heldAt (edgeInstant s c (max s.now t)) = (cfg, pos)) (hv : mstoneView cfg = c.val) :
    (s.afterPace t c true).trk = { s.trk with events := (s.mileDone t c cfg pos).trk.events }.milestone
      (edgeInstant s c (max s.now t)) cfg pos ((s.afterPace t c true).ch c).trk.edgePos := by
  obtain ⟨hregs, -, hplan⟩ := State.afterPace_milestone hms hheld
  obtain ⟨hn, -⟩ := Tracker.replans_count hplan
  rw [hregs, ← s.mileDone_regs, Tracker.edgePos, hn]
  exact congrArg State.trk (if_pos hv)

/-- Any other channel leaves the registers of the module alone. -/
theorem State.afterPace_milestone_other (hms : (s.ch c).trk.mstone = some false)
    (hheld : s.trk.heldAt (edgeInstant s c (max s.now t)) = (cfg, pos)) (hv : mstoneView cfg ≠ c.val) :
    (s.afterPace t c true).trk = { s.trk with events := (s.mileDone t c cfg pos).trk.events } := by
  rw [(State.afterPace_milestone hms hheld).1, State.mileNoted, if_neg hv]
  exact s.mileDone_regs t c cfg pos

/-- What the module's part of a milestone makes of its registers. -/
theorem TrkMod.milestone_regs (m : TrkMod) (e : Int) (cfg pos last : Word) :
    (m.milestone e cfg pos last).mstoneLast = last ∧
    (mstoneMode cfg = 1 ∨ mstoneMode cfg = 2 → bit (m.milestone e cfg pos last).events.bits TrkEv.alignDone = true) ∧
    (mstoneMode cfg = 1 → fld (m.milestone e cfg pos last).mstoneCfg 0 2 = 3 ∧
      fld (m.milestone e cfg pos last).mstoneCfg 4 4 = fld m.mstoneCfg 4 4) ∧
    (mstoneMode cfg ≠ 1 → (m.milestone e cfg pos last).mstoneCfg = m.mstoneCfg) ∧
    (m.milestone e cfg pos last).mstonePos = if mstoneMode cfg = 0 then m.mstonePos else stepPos m.mstonePos m.mstoneStep := by
  refine ⟨rfl, fun h => ?_, fun h => ?_, fun h => if_neg h, rfl⟩
  · have hdone : (mstoneMode cfg == 1 || mstoneMode cfg == 2) = true := by simpa using h
    have hevents : (m.milestone e cfg pos last).events = evSet m.events TrkEv.alignDone := if_pos hdone
    rw [hevents]
    exact bit_evSet_self (by decide)
  · have hcfg : (m.milestone e cfg pos last).mstoneCfg = pack [(3, 0), (fld m.mstoneCfg 4 4, 4)] := if_pos h
    have hview : fld m.mstoneCfg 4 4 < 2 ^ 4 := Nat.mod_lt _ (by decide)
    rw [hcfg]
    exact fld_pack_view hview

theorem milestone : Clause.Milestone := by
  refine ⟨fun m e h => TrkMod.heldAt_far h, ?_⟩
  intro t c s k cfg pos hk hm hg hms hheld
  subst hk
  have halign := s.mileBegin_alignable t c
  refine ⟨_, exec_paceEdge_taken hm hg, State.afterPace_mileEvent hms hheld (State.mileSteps_seen c _ pos _),
    fun hmode hl hst => ?_, fun hkeep => ?_, State.afterPace_milestone_slip hms hheld, fun hv => ?_, fun hv => ?_⟩
  · obtain ⟨⟨hn, ha, hmis⟩, hlate⟩ := State.afterPace_milestone_align hms hheld hmode (by simpa [halign, hl, or_assoc] using hst)
    refine ⟨hn, ha, hmis, fun p hp hp' => ⟨fun j hj => ?_, fun hk => ?_, fun hk => ?_⟩⟩
    · obtain ⟨hat, -, -⟩ := hlate p hp (by rw [hj]; nofun) hp'
      exact hat j hj
    · obtain ⟨-, hstrobe, -⟩ := hlate p hp (by rw [hk]; nofun) hp'
      exact hstrobe hk
    · obtain ⟨-, -, hswitch⟩ := hlate p hp (by rw [hk]; nofun) hp'
      exact hswitch hk
  · have hslips := s.mileBegin_slips t c pos
    apply State.afterPace_milestone_keep hms hheld
    · rcases hkeep with ⟨-, hl | hst⟩ | hmode | ⟨hmode, -⟩
      · rw [halign, beq_eq_false_iff_ne.2 hl, Bool.false_and, Bool.and_false]
      · have hne : ∀ x ∈ [ChState.run, .held, .drain], (x == .rest || x == .trim || x == .armed) = false := by decide
        rw [halign, hne _ hst, Bool.and_false, Bool.and_false]
      · rw [mstoneMode, hmode]
        rfl
      · rw [mstoneMode, hmode]
        rfl
    · rw [hslips]
      rcases hkeep with ⟨hmode | hmode, -⟩ | hmode | ⟨-, hstep | ha | heq⟩
      · rw [mstoneMode, hmode]
        rfl
      · rw [mstoneMode, hmode]
        rfl
      · rw [mstoneMode, hmode]
        rfl
      · simp [hstep]
      · simp [ha]
      · simp [heq]
  · rw [State.afterPace_milestone_view hms hheld hv]
    exact TrkMod.milestone_regs ..
  · rw [State.afterPace_milestone_other hms hheld hv]
    exact ⟨rfl, rfl, rfl⟩

/-- Settles O12: the procedure of the tracker runs first and tells what it found, a milestone follows, and the steps after it
plan events anew at most. -/
theorem paceEdge : Obligations.PaceEdge := ⟨edgeCounted, edgePeriod, milestone⟩

end Sys2Proof.Machine
end

section
/-! A skein start: the test that refuses it, and what an accepted one withdraws (R82, R83, R91, R104). -/

namespace Sys2Proof.Machine

variable {s : State} {v : Word}

/-! ### The operands -/

theorem exec_sknStart (t : Tbu) (v : Word) (hp : s.portUp = true) : exec (.sknStart t v) s = .next ((s.atTime t).sknStart v) :=
  congrArg Host.Outcome.next (State.ifPort_pos _ hp)

/-- CH_MASK of a start. -/
def startMask (v : Word) : BitVec 16 := BitVec.ofNat 16 (fld v 16 16)

theorem startMask_eq_zero : startMask v = 0 ↔ fld v 16 16 = 0 := by
  have hlt : fld v 16 16 < 2 ^ 16 := Nat.mod_lt _ (by decide)
  rw [← BitVec.toNat_inj, startMask, BitVec.toNat_ofNat, Nat.mod_eq_of_lt hlt]
  rfl

theorem bit_startMask (c : ChanId) : bit (startMask v) c.val = bit v (16 + c.val) := by
  rw [bit, startMask, BitVec.getLsbD_ofNat, testBit_fld]
  simp

theorem loadKind_eq (v : Word) : loadKind v = none ∧ fld v 2 2 ≠ 1 ∧ fld v 2 2 ≠ 2 ∨ loadKind v = some .whole ∧ fld v 2 2 = 1 ∨
    loadKind v = some .channel ∧ fld v 2 2 = 2 := by
  unfold loadKind
  by_cases h1 : fld v 2 2 = 1
  · simp [h1]
  · by_cases h2 : fld v 2 2 = 2 <;> simp [h1, h2]

theorem loadKind_whole (h : fld v 2 2 = 1) : loadKind v = some .whole := if_pos h

theorem loadKind_channel (h : fld v 2 2 = 2) : loadKind v = some .channel := by simp [loadKind, h]

theorem startWellMade_whole (h : fld v 2 2 = 1) :
    startWellMade v ↔ fld v 16 16 = 0 ∧ fld v 32 32 % 8 = 0 ∧ 640 ≤ fld v 32 32 := by
  simp [startWellMade, h]

theorem startWellMade_channel (h : fld v 2 2 = 2) :
    startWellMade v ↔ fld v 16 16 ≠ 0 ∧ fld v 32 32 % 8 = 0 ∧ 640 ≤ fld v 32 32 := by
  simp [startWellMade, h]

/-- The channels that a start of kind `k` would load. -/
def startTargets (k : LoadKind) (v : Word) : List ChanId := if k = .whole then allCh else chOf (startMask v)

/-! ### The test (R82) -/

theorem State.sknTest_loading (h : s.skn.load.isSome = true) : s.sknTest v = 0x22 := if_pos h

theorem State.sknTest_noKind (h : s.skn.load = none) (hk : loadKind v = none) : s.sknTest v = 0x24 := by
  simp [State.sknTest, h, hk]

/-- The test of a start of kind `k` where no load is in progress. -/
theorem State.sknTest_kind {k : LoadKind} (h : s.skn.load = none) (hk : loadKind v = some k) : s.sknTest v =
    if fld v 32 32 % 8 ≠ 0 ∨ fld v 32 32 < 640 ∨ ((k == .whole) != (startMask v == 0)) then 0x24
    else if maxStream < fld v 32 32 then 0x23
    else if !(s.mod.mode == .wound || (k == .whole && (s.mod.mode == .linked || s.mod.mode == .quarantine))) then 0x20
    else if s.mod.mode == .wound && !s.resting (startTargets k v) then 0x21
    else 0 := by
  unfold State.sknTest
  rw [h, hk]
  rfl

theorem startWellMade_iff {k : LoadKind} (hk : loadKind v = some k) :
    startWellMade v ↔ ¬(fld v 32 32 % 8 ≠ 0 ∨ fld v 32 32 < 640 ∨ ((k == .whole) != (startMask v == 0)) = true) := by
  rcases loadKind_eq v with ⟨hn, -⟩ | ⟨hw, h⟩ | ⟨hc, h⟩
  · simp [hn] at hk
  · obtain rfl : k = .whole := by simpa [hw] using hk.symm
    rw [startWellMade_whole h, ← startMask_eq_zero]
    simp
    tauto
  · obtain rfl : k = .channel := by simpa [hc] using hk.symm
    rw [startWellMade_channel h, Ne, ← startMask_eq_zero]
    simp
    tauto

theorem startInMode_iff {k : LoadKind} (hk : loadKind v = some k) (m : Mode) :
    startInMode v m ↔ (m == .wound || (k == .whole && (m == .linked || m == .quarantine))) = true := by
  rcases loadKind_eq v with ⟨hn, -⟩ | ⟨hw, h⟩ | ⟨hc, h⟩
  · simp [hn] at hk
  · obtain rfl : k = .whole := by simpa [hw] using hk.symm
    simp [startInMode, h]
  · obtain rfl : k = .channel := by simpa [hc] using hk.symm
    simp [startInMode, h]

theorem State.sknTest_malformed (h : s.skn.load = none) (hw : ¬startWellMade v) : s.sknTest v = 0x24 := by
  cases hk : loadKind v with
  | none => exact s.sknTest_noKind h hk
  | some k => rw [s.sknTest_kind h hk, if_pos (not_not.1 (mt (startWellMade_iff hk).2 hw))]

/-- The tests that a well-made start has before it (R82, orders 3 to 5). -/
theorem State.sknTest_wellMade {k : LoadKind} (h : s.skn.load = none) (hk : loadKind v = some k) (hw : startWellMade v) :
    s.sknTest v =
      if maxStream < fld v 32 32 then 0x23
      else if !(s.mod.mode == .wound || (k == .whole && (s.mod.mode == .linked || s.mod.mode == .quarantine))) then 0x20
      else if s.mod.mode == .wound && !s.resting (startTargets k v) then 0x21
      else 0 :=
  (s.sknTest_kind h hk).trans (if_neg ((startWellMade_iff hk).1 hw))

theorem mem_startTargets {k : LoadKind} (hk : loadKind v = some k) (c : ChanId) :
    c ∈ startTargets k v ↔ fld v 2 2 = 1 ∨ bit v (16 + c.val) = true := by
  rcases loadKind_eq v with ⟨hn, -⟩ | ⟨hw, h⟩ | ⟨hc, h⟩
  · simp [hn] at hk
  · obtain rfl : k = .whole := by simpa [hw] using hk.symm
    simp [startTargets, mem_allCh, h]
  · obtain rfl : k = .channel := by simpa [hc] using hk.symm
    simp [startTargets, chOf_mem, bit_startMask, h]

theorem State.resting_iff (l : List ChanId) : s.resting l = true ↔ ∀ c ∈ l, (s.ch c).mod.state = .rest := by
  simp [State.resting]

theorem loadKind_of_startWellMade (hw : startWellMade v) : ∃ k, loadKind v = some k := by
  rcases loadKind_eq v with ⟨-, h1, h2⟩ | ⟨hk, -⟩ | ⟨hk, -⟩
  · simp [startWellMade, h1, h2] at hw
  · exact ⟨_, hk⟩
  · exact ⟨_, hk⟩

theorem State.sknTest_tooLong (h : s.skn.load = none) (hw : startWellMade v) (hlen : maxStream < fld v 32 32) :
    s.sknTest v = 0x23 := by
  obtain ⟨k, hk⟩ := loadKind_of_startWellMade hw
  rw [s.sknTest_wellMade h hk hw, if_pos hlen]

theorem State.sknTest_wrongMode (h : s.skn.load = none) (hw : startWellMade v) (hlen : fld v 32 32 ≤ maxStream)
    (hm : ¬startInMode v s.mod.mode) : s.sknTest v = 0x20 := by
  obtain ⟨k, hk⟩ := loadKind_of_startWellMade hw
  rw [s.sknTest_wellMade h hk hw, if_neg (Nat.not_lt.2 hlen), if_pos]
  exact Bool.not_eq_true' _ ▸ Bool.eq_false_iff.2 (mt (startInMode_iff hk _).2 hm)

theorem State.sknTest_busy (h : s.skn.load = none) (hw : startWellMade v) (hlen : fld v 32 32 ≤ maxStream) (hm : s.mod.mode = .wound)
    {c : ChanId} (hc : fld v 2 2 = 1 ∨ bit v (16 + c.val) = true) (hr : (s.ch c).mod.state ≠ .rest) : s.sknTest v = 0x21 := by
  obtain ⟨k, hk⟩ := loadKind_of_startWellMade hw
  have hrest : ¬s.resting (startTargets k v) = true := fun h => hr ((State.resting_iff _).1 h c ((mem_startTargets hk c).2 hc))
  rw [s.sknTest_wellMade h hk hw, if_neg (Nat.not_lt.2 hlen), if_neg (by simp [hm]), if_pos (by simp [hm, hrest])]

theorem State.sknTest_accepted {k : LoadKind} (h : s.skn.load = none) (hk : loadKind v = some k) (hw : startWellMade v)
    (hlen : fld v 32 32 ≤ maxStream) (hm : startInMode v s.mod.mode)
    (hrest : s.mod.mode = .wound → ∀ c ∈ startTargets k v, (s.ch c).mod.state = .rest) : s.sknTest v = 0 := by
  rw [s.sknTest_wellMade h hk hw, if_neg (Nat.not_lt.2 hlen), if_neg (by simp only [(startInMode_iff hk _).1 hm]; decide), if_neg]
  simpa [State.resting_iff] using hrest

/-! ### Refused starts -/

theorem State.sknStart_refused {code : Byte} (h : s.sknTest v = code) (hcode : code ≠ 0) :
    s.sknStart v = { s with skn := { s.skn with startResult := code, events := evSet s.skn.events SknEv.startRefused } } := by
  subst h
  unfold State.sknStart
  cases loadKind v with
  | none => rfl
  | some k => exact if_pos hcode

/-- Settles O21: each of the five conditions is the first that the test finds to fail. -/
theorem streamStartRefused : Obligations.StreamStartRefused := by
  intro t v s code hp hcases
  rw [exec_sknStart t v hp]
  have hrefused : ∀ {code : Byte}, (s.atTime t).sknTest v = code → code ≠ 0 → Host.Outcome.next ((s.atTime t).sknStart v) =
      (.next { s.atTime t with skn := { s.skn with
        startResult := code, events := evSet s.skn.events SknEv.startRefused } } : Host.Outcome State Fault Refusal) :=
    fun h hc => congrArg Host.Outcome.next (State.sknStart_refused h hc)
  rcases hcases with ⟨hl, rfl⟩ | ⟨hl, hw, rfl⟩ | ⟨hl, hw, hlen, rfl⟩ | ⟨hl, hw, hlen, hm, rfl⟩ |
    ⟨hl, hw, hlen, hm, ⟨c, hc, hr⟩, rfl⟩
  · exact hrefused (State.sknTest_loading hl) (by decide)
  · exact hrefused (State.sknTest_malformed hl hw) (by decide)
  · exact hrefused (State.sknTest_tooLong hl hw hlen) (by decide)
  · exact hrefused (State.sknTest_wrongMode hl hw hlen hm) (by decide)
  · exact hrefused (State.sknTest_busy hl hw hlen hm hc hr) (by decide)

/-! ### Accepted starts (R83, R91, R104) -/

/-- The load that a start of kind `k` begins at instant `now`. -/
def startLoad (k : LoadKind) (v : Word) (now : Tbu) : Load :=
  { kind := k, mask := if k = .whole then 0xFFFF else startMask v, length := fld v 32 32, wordAt := now }

/-- The SKN block once a start of kind `k` has been accepted. -/
def Skn.started (m : Skn) (k : LoadKind) (v : Word) (now : Tbu) : Skn :=
  { m with startResult := 0, phase := 1, received := 0, result := 0, load := some (startLoad k v now) }

/-- The module once a WHOLE start has been accepted: its image is gone, and the mode is SPOOLING. -/
def State.wholeBegun (s : State) (v : Word) : State :=
  ({ s with skn := { s.skn.started .whole v s.now with image := {}, locks := 0 } } : State).setMode .spooling

/-- The module once a CHANNEL start has been accepted. -/
def State.channelBegun (s : State) (v : Word) : State := { s with skn := s.skn.started .channel v s.now }

theorem State.sknStart_whole (h : s.sknTest v = 0) (hk : fld v 2 2 = 1) :
    s.sknStart v = (s.wholeBegun v).forCh (chOf (0xFFFF : BitVec 16)) State.startLoading := by
  unfold State.sknStart
  rw [h, loadKind_whole hk]
  rfl

theorem State.sknStart_channel (h : s.sknTest v = 0) (hk : fld v 2 2 = 2) :
    s.sknStart v = (s.channelBegun v).forCh (chOf (startMask v)) State.startLoading := by
  unfold State.sknStart
  rw [h, loadKind_channel hk]
  rfl

/-- The effects of an operation that closes queues: channels change, and the host is told. -/
abbrev Effects.sending : Effects := { Effects.channels with send := true }

theorem State.ch_of_chans {a : State} (ha : a.chans = s.chans) (c : ChanId) : a.ch c = s.ch c := by rw [State.ch, State.ch, ha]

/-- An operation that keeps the creels of a state that has those of `s` keeps every byte of `s`. -/
theorem State.Keeps.sameCreels_of {e : Effects} {cs : ChanId → Prop} {a u : State} (h : State.Keeps e cs Eq a u)
    (ha : a.chans = s.chans) : s.sameCreels u := fun c x => by
  rw [keeps_creels h c x, State.creelByte, State.creelByte, State.ch_of_chans ha]

theorem State.keeps_startLoading (s : State) (c : ChanId) : State.Keeps .sending (fun d => d = c) Eq s (s.startLoading c) :=
  (State.Keeps.refl .sending _ s).startLoading c rfl rfl

theorem State.keeps_startLoadings (l : List ChanId) (s : State) :
    State.Keeps .sending (fun _ => True) Eq s (s.forCh l State.startLoading) :=
  (State.Keeps.refl .sending _ s).forCh l _ fun _ c h => h.startLoading c rfl trivial

theorem State.startLoading_ne (s : State) {c d : ChanId} (h : d ≠ c) : (s.startLoading c).ch d = s.ch d :=
  (s.keeps_startLoading c).other d h

/-- A channel is LOADING, its lock mask cleared and its switches open. -/
def Chan.loading (x : Chan) : Prop := x.skn.state = .loading ∧ x.skn.locks = 0 ∧ x.ana.sw = 0

theorem State.startLoading_self (s : State) (c : ChanId) : ((s.startLoading c).ch c).loading := by
  rw [State.startLoading, State.ch_modCh_self]
  exact ⟨rfl, rfl, rfl⟩

/-- What a pass leaves of a channel that is not in its list. -/
theorem State.forCh_of_not_mem {f : State → ChanId → State} (hne : ∀ s c d, d ≠ c → (f s c).ch d = s.ch d) {l : List ChanId}
    (s : State) {d : ChanId} (hd : d ∉ l) : (s.forCh l f).ch d = s.ch d := by
  unfold State.forCh
  induction l generalizing s with
  | nil => rfl
  | cons c l ih =>
    rw [List.mem_cons, not_or] at hd
    exact (ih _ hd.2).trans (hne s c d hd.1)

theorem State.startLoadings_ch (l : List ChanId) (s : State) (d : ChanId) :
    (d ∈ l → ((s.forCh l State.startLoading).ch d).loading) ∧ (d ∉ l → (s.forCh l State.startLoading).ch d = s.ch d) :=
  ⟨fun hd => forCh_each _ Chan.loading (fun s _ _ h => s.startLoading_ne h) State.startLoading_self l s d (.inl hd),
    fun hd => State.forCh_of_not_mem (fun s _ _ h => s.startLoading_ne h) s hd⟩

/-- Settles O22: an accepted start begins its load, and then withdraws the structure of each channel it names. -/
theorem streamStart : Obligations.StreamStart := by
  intro t v s hp hl h8 hmin hmax
  rw [exec_sknStart t v hp]
  refine ⟨fun hk hmask hmode => ?_, fun hk hmask hmode hrest => ?_⟩
  · have hw := (startWellMade_whole hk).2 ⟨hmask, h8, hmin⟩
    have htest : (s.atTime t).sknTest v = 0 := by
      refine State.sknTest_accepted hl (loadKind_whole hk) hw hmax ?_ fun hwound c _ => ?_
      · rcases hmode with h | h | ⟨h, -⟩
        · exact .inr ⟨hk, .inl h⟩
        · exact .inr ⟨hk, .inr h⟩
        · exact .inl h
      · rcases hmode with h | h | ⟨-, h⟩
        · exact absurd (h.symm.trans hwound) (by decide)
        · exact absurd (h.symm.trans hwound) (by decide)
        · exact h c
    rw [State.sknStart_whole htest hk]
    have hkeeps := State.keeps_startLoadings (chOf (0xFFFF : BitVec 16)) ((s.atTime t).wholeBegun v)
    have hall : ∀ c : ChanId, bit (0xFFFF : BitVec 16) c.val = true := by decide
    exact ⟨_, rfl, hkeeps.sameCreels_of rfl, congrArg ModBlk.mode (hkeeps.mod rfl), congrArg ModBlk.prev (hkeeps.mod rfl), hkeeps.skn rfl,
      hkeeps.trk rfl, hkeeps.tlh rfl, hkeeps.vlt rfl, fun c => (State.startLoadings_ch _ _ c).1 ((chOf_mem _ c).2 (hall c))⟩
  · have hw := (startWellMade_channel hk).2 ⟨hmask, h8, hmin⟩
    have htest : (s.atTime t).sknTest v = 0 := by
      refine State.sknTest_accepted hl (loadKind_channel hk) hw hmax (.inl hmode) fun _ c hc => hrest c ?_
      exact ((mem_startTargets (loadKind_channel hk) c).1 hc).resolve_left (by omega)
    rw [State.sknStart_channel htest hk]
    have hkeeps := State.keeps_startLoadings (chOf (startMask v)) ((s.atTime t).channelBegun v)
    refine ⟨_, rfl, hkeeps.sameCreels_of rfl, (congrArg ModBlk.mode (hkeeps.mod rfl)).trans hmode, hkeeps.skn rfl,
      hkeeps.trk rfl, hkeeps.tlh rfl, hkeeps.vlt rfl, fun c => ⟨fun hc => ?_, fun hc => ?_⟩⟩
    · exact (State.startLoadings_ch _ _ c).1 ((chOf_mem _ c).2 ((bit_startMask c).trans hc))
    · refine (State.startLoadings_ch _ _ c).2 fun hmem => ?_
      rw [chOf_mem, bit_startMask, hc] at hmem
      exact Bool.false_ne_true hmem

end Sys2Proof.Machine
end

section
/-! SUPPORT. The operations of a load: a refusal, a channel that is withdrawn, the initial training, and the end of the load
(R86, R87, R92, R101, R109). -/

namespace Sys2Proof.Machine

variable {s : State}

/-! ### Refusals (R101) -/

/-- The SKN block once a refusal has been noted. -/
def Skn.refuse (m : Skn) (detail sect : Nat) (reason : Byte) : Skn :=
  { m with result := firstRefusal m.result detail sect reason, load := m.load.map fun (l : Load) => { l with anyRefused := true } }

theorem State.sknRefuse_eq (s : State) (reason : Byte) {sect : Nat} (hs : sect < 256) (detail : Nat) :
    s.sknRefuse { reason := reason, sect := BitVec.ofNat 8 sect, detail := BitVec.ofNat 16 detail } =
      { s with skn := s.skn.refuse detail sect reason } := by
  have h8 : (BitVec.ofNat 8 sect).toNat = sect := Nat.mod_eq_of_lt hs
  unfold State.sknRefuse Skn.refuse firstRefusal
  rw [h8, BitVec.toNat_ofNat]

/-! ### A channel that becomes UNCONFIGURED (R87) -/

/-- The effects of an operation that withdraws a channel's structure: its services end, its queues close, and it returns to REST. -/
abbrev Effects.withdrawing : Effects := { Effects.channels with mod := true, vlt := true, send := true }

theorem State.keeps_unconfigure (s : State) (c : ChanId) (r : Byte) : State.Keeps .withdrawing (fun d => d = c) Eq s (s.unconfigure c r) :=
  (State.Keeps.refl .withdrawing _ s).unconfigure c r rfl rfl rfl rfl

theorem State.unconfigure_ne (s : State) {c d : ChanId} (r : Byte) (h : d ≠ c) : (s.unconfigure c r).ch d = s.ch d :=
  (s.keeps_unconfigure c r).other d h

/-- A channel is UNCONFIGURED with a reason, and no Doffer of it has been released. -/
def Chan.refused (r : Byte) (x : Chan) : Prop := x.skn.state = .unconfigured ∧ x.skn.reason = r ∧ x.skn.released = false

theorem State.unconfigure_self (s : State) (c : ChanId) (r : Byte) : ((s.unconfigure c r).ch c).refused r := by
  unfold State.unconfigure
  rw [State.ch_modCh_self]
  exact ⟨rfl, rfl, rfl⟩

theorem State.setChState_qReason (s : State) (c : ChanId) (st : ChState) : (s.setChState c st).mod.qReason = s.mod.qReason := by
  rw [State.setChState_eq]
  dsimp only
  split <;> rfl

/-- The effects of an operation that closes queues leave the MOD block alone. -/
theorem State.closeEnded_mod (s : State) (c : ChanId) : (s.closeEnded c).mod = s.mod :=
  ((State.Keeps.refl .sending (fun d => d = c) s).closeEnded c rfl rfl).mod rfl

theorem State.enterRest_qReason (s : State) (c : ChanId) : (s.enterRest c).mod.qReason = s.mod.qReason := by
  unfold State.enterRest
  rw [State.closeEnded_mod, State.setChState_qReason, State.modCh_mod]

/-- The effects of an operation that ends services and closes queues. -/
abbrev Effects.closing : Effects := { Effects.sending with vlt := true }

theorem State.closed_mod (s : State) (c : ChanId) : ((s.abortServices c).closeAll c).mod = s.mod :=
  (((State.Keeps.refl .closing (fun d => d = c) s).abortServices c rfl rfl).closeAll c rfl rfl).mod rfl

theorem State.unconfigure_qReason (s : State) (c : ChanId) (r : Byte) : (s.unconfigure c r).mod.qReason = s.mod.qReason := by
  unfold State.unconfigure
  dsimp only
  rw [State.modCh_mod]
  split
  · split
    · rw [State.modCh_mod, State.closed_mod]
    · rw [State.enterRest_qReason, State.modCh_mod, State.closed_mod]
  · rfl

/-- Every channel of a mask becomes UNCONFIGURED with a reason. -/
def State.unconfigureAll (s : State) (m : BitVec 16) (r : Byte) : State := s.forCh (chOf m) fun s c => s.unconfigure c r

theorem State.keeps_unconfigureAll (s : State) (m : BitVec 16) (r : Byte) :
    State.Keeps .withdrawing (fun _ => True) Eq s (s.unconfigureAll m r) :=
  (State.Keeps.refl .withdrawing _ s).forCh _ _ fun _ c h => h.unconfigure c r rfl rfl rfl trivial

theorem State.unconfigureAll_qReason (s : State) (m : BitVec 16) (r : Byte) : (s.unconfigureAll m r).mod.qReason = s.mod.qReason :=
  State.forCh_keeps (fun s => s.mod.qReason) _ (fun s c => s.unconfigure_qReason c r) _ s

theorem State.unconfigureAll_refused (s : State) {m : BitVec 16} (r : Byte) {d : ChanId} (h : bit m d.val = true) :
    ((s.unconfigureAll m r).ch d).refused r :=
  forCh_each _ (Chan.refused r) (fun s _ _ h => s.unconfigure_ne r h) (fun s c => s.unconfigure_self c r) _ s d (.inl ((chOf_mem m d).2 h))

theorem State.unconfigureAll_other (s : State) {m : BitVec 16} (r : Byte) {d : ChanId} (h : bit m d.val = false) :
    (s.unconfigureAll m r).ch d = s.ch d :=
  State.forCh_of_not_mem (fun s _ _ h => s.unconfigure_ne r h) s fun hd => by simp [(chOf_mem m d).1 hd] at h

/-- The load in progress once channel `c` is resolved by a refusal. -/
def Load.refuseChannel (l : Load) (c : ChanId) : Load := { l with anyRefused := true, resolved := setBit l.resolved c.val }

theorem State.refuseChannel_eq (s : State) (c : ChanId) (r : Byte) (detail : Nat) : s.refuseChannel c r detail =
    (({ s with skn := s.skn.refuse detail (0x10 + c.val) r } : State).unconfigure c r).loadResolve c := by
  unfold State.refuseChannel
  rw [s.sknRefuse_eq r (by omega) detail]

/-- The effects of an operation of a load that withdraws a channel's structure. -/
abbrev Effects.refusing : Effects := { Effects.withdrawing with skn := true }

theorem State.keeps_refuseChannel (s : State) (c : ChanId) (r : Byte) (detail : Nat) :
    State.Keeps .refusing (fun d => d = c) Eq s (s.refuseChannel c r detail) :=
  (State.Keeps.refl .refusing _ s).refuseChannel c r detail rfl rfl rfl rfl rfl

theorem State.refuseChannel_self (s : State) (c : ChanId) (r : Byte) (detail : Nat) : ((s.refuseChannel c r detail).ch c).refused r := by
  rw [State.refuseChannel_eq]
  exact State.unconfigure_self _ c r

theorem State.refuseChannel_skn (s : State) (c : ChanId) (r : Byte) (detail : Nat) : (s.refuseChannel c r detail).skn =
    { s.skn with
      result := firstRefusal s.skn.result detail (0x10 + c.val) r
      load := s.skn.load.map fun l => l.refuseChannel c } := by
  rw [State.refuseChannel_eq, State.loadResolve, (State.keeps_unconfigure _ c r).skn rfl]
  simp only [Skn.refuse, Option.map_map]
  rfl

/-! ### The initial training (R109, R376) -/

/-- A channel once the initial training that is due has begun. -/
def Chan.trained (x : Chan) : Chan := { x with dof := { x.dof with due := false, initial := true, queue := .train true :: x.dof.queue } }

/-- A CONFIGURED channel begins the initial training that is due. -/
def Chan.startInitial (x : Chan) : Chan :=
  if x.configured && x.dof.due then
    if x.mod.state = .trim then x.trained else x.trained.tdcSuspend.inState .trim
  else x

theorem State.enterTrim_self (s : State) (c : ChanId) : (s.enterTrim c).ch c =
    if (s.ch c).mod.state = .trim then s.ch c else (s.ch c).tdcSuspend.inState .trim := by
  unfold State.enterTrim
  split
  · rfl
  · rw [State.setChState_ch_self, State.ch_modCh_self]

theorem State.startInitial_self (s : State) (c : ChanId) : (s.startInitial c).ch c = (s.ch c).startInitial := by
  unfold State.startInitial Chan.startInitial
  split
  · rw [State.enterTrim_self, State.ch_modCh_self]
    rfl
  · rfl

/-- The effects of an operation that changes channels and their states. -/
abbrev Effects.states : Effects := { Effects.channels with mod := true }

theorem State.keeps_startInitial (s : State) (c : ChanId) : State.Keeps .states (fun d => d = c) Eq s (s.startInitial c) :=
  (State.Keeps.refl .states _ s).startInitial c rfl rfl

theorem State.startInitial_ne (s : State) {c d : ChanId} (h : d ≠ c) : (s.startInitial c).ch d = s.ch d :=
  (s.keeps_startInitial c).other d h

theorem State.startInitial_qReason (s : State) (c : ChanId) : (s.startInitial c).mod.qReason = s.mod.qReason := by
  unfold State.startInitial State.enterTrim
  split
  · split
    · rfl
    · rw [State.setChState_qReason]
      rfl
  · rfl

theorem Chan.startInitial_of_not {x : Chan} (h : x.configured = false ∨ x.dof.due = false) : x.startInitial = x := by
  refine if_neg ?_
  rcases h with h | h <;> simp [h]

/-- The blocks that a suspension of the converter leaves alone. -/
@[simp] theorem Chan.tdcSuspend_keeps (c : Chan) : c.tdcSuspend.mem = c.mem ∧ c.tdcSuspend.seq = c.seq ∧ c.tdcSuspend.trk = c.trk ∧
    c.tdcSuspend.dof = c.dof ∧ c.tdcSuspend.skn = c.skn ∧ c.tdcSuspend.ana = c.ana := by
  have h : (fun c : Chan => (c.mem, c.seq, c.trk, c.dof, c.skn, c.ana)) c.tdcSuspend = (c.mem, c.seq, c.trk, c.dof, c.skn, c.ana) :=
    foldl_keeps (fun c : Chan => (c.mem, c.seq, c.trk, c.dof, c.skn, c.ana)) _ (fun c k => by dsimp only; split <;> simp) _ c
  simpa using h

theorem Chan.startInitial_keeps (x : Chan) : x.startInitial.skn = x.skn ∧ x.startInitial.ana = x.ana := by
  unfold Chan.startInitial
  split
  · split
    · exact ⟨rfl, rfl⟩
    · simp [Chan.inState, Chan.trained]
  · exact ⟨rfl, rfl⟩

theorem Chan.startInitial_begins {x : Chan} (hc : x.configured = true) (hd : x.dof.due = true) (ht : x.mod.state ≠ .trim) :
    trainingBegins x x.startInitial := by
  have h : x.startInitial = x.trained.tdcSuspend.inState .trim := by simp [Chan.startInitial, hc, hd, ht]
  rw [h]
  simp [trainingBegins, Chan.inState, Chan.trained]

/-- A pass whose operation on a channel is a function of that channel. -/
theorem State.forCh_ch {f : State → ChanId → State} {F : Chan → Chan} (hself : ∀ s c, (f s c).ch c = F (s.ch c))
    (hne : ∀ s c d, d ≠ c → (f s c).ch d = s.ch d) {l : List ChanId} (hl : l.Nodup) (s : State) (d : ChanId) :
    (s.forCh l f).ch d = if d ∈ l then F (s.ch d) else s.ch d := by
  unfold State.forCh
  induction l generalizing s with
  | nil => rfl
  | cons c l ih =>
    rw [List.nodup_cons] at hl
    rw [List.foldl_cons, ih hl.2]
    by_cases h : d = c
    · subst h
      simp [hl.1, hself]
    · simp [h, hne _ _ _ h]

theorem State.startInitials_ch (s : State) (d : ChanId) : (s.forCh allCh State.startInitial).ch d = (s.ch d).startInitial := by
  rw [State.forCh_ch State.startInitial_self (fun s _ _ h => s.startInitial_ne h) allCh_nodup, if_pos (mem_allCh d)]

/-! ### The end of a load (R92, R101) -/

/-- The SKN block once load `l` has ended. -/
def Skn.ended (m : Skn) (l : Load) : Skn :=
  { m with
    load := none, phase := if l.anyRefused then 6 else 5
    events := evIf l.anyRefused (evSet m.events SknEv.done) SknEv.refused }

theorem State.loadEnd_eq {l : Load} (h : s.skn.load = some l) : s.loadEnd = { s with skn := s.skn.ended l } := by
  unfold State.loadEnd
  rw [h]
  rfl

theorem bit_done_ended {m : Skn} {l : Load} (h : l.anyRefused = true) :
    bit (m.ended l).events.bits SknEv.done = true ∧ bit (m.ended l).events.bits SknEv.refused = true := by
  simp only [Skn.ended, h, evIf, if_true]
  exact ⟨(Sticky.le_evSet _ _) _ (bit_evSet_self (by decide)), bit_evSet_self (by decide)⟩

/-- Every channel of a load is resolved, and so is its module section. -/
def Load.finished (l : Load) : Bool := l.complete && (l.kind != .whole || l.modApplied) && l.resolved == l.mask

/-- A WHOLE load is finished, and leads to WOUND. -/
def State.woundDue (s : State) : Prop := ∃ l, s.skn.load = some l ∧ l.kind = .whole ∧ l.finished = true

/-- The module in WOUND at the end of a WHOLE load. -/
def State.wounded (s : State) : State := ({ s with mod := { s.mod with qReason := 0 } } : State).setMode .wound

/-- The module in WOUND, where every CONFIGURED channel begins the initial training that is due. -/
@[irreducible] def State.intoWound (s : State) : State := s.wounded.forCh allCh State.startInitial

theorem State.loadDone_none (h : s.skn.load = none) : s.loadDone = s := by
  unfold State.loadDone
  rw [h]

theorem State.loadDone_open {l : Load} (h : s.skn.load = some l) (hf : l.finished = false) : s.loadDone = s := by
  unfold State.loadDone
  rw [h]
  exact if_neg (Bool.eq_false_iff.1 hf)

theorem State.loadDone_finished {l : Load} (h : s.skn.load = some l) (hf : l.finished = true) :
    s.loadDone = (if l.kind = .whole then s.intoWound else s).loadEnd := by
  unfold State.loadDone State.intoWound
  rw [h]
  exact if_pos hf

theorem State.keeps_intoWound (s : State) : State.Keeps .states (fun _ => True) Eq s.wounded s.intoWound := by
  unfold State.intoWound
  exact (State.Keeps.refl .states (fun _ => True) s.wounded).startInitials rfl fun _ => trivial

theorem State.intoWound_skn (s : State) : s.intoWound.skn = s.skn := s.keeps_intoWound.skn rfl

theorem State.intoWound_ch (s : State) (d : ChanId) : s.intoWound.ch d = (s.ch d).startInitial := by
  unfold State.intoWound
  exact s.wounded.startInitials_ch d

theorem State.intoWound_mode (s : State) : s.intoWound.mod.mode = .wound := (s.keeps_intoWound.mode rfl).1

theorem State.intoWound_qReason (s : State) : s.intoWound.mod.qReason = 0 := by
  have h : (s.wounded.forCh allCh State.startInitial).mod.qReason = s.wounded.mod.qReason :=
    State.forCh_keeps (fun s => s.mod.qReason) _ (fun s c => s.startInitial_qReason c) allCh s.wounded
  unfold State.intoWound
  exact h.trans rfl

theorem State.intoWound_load {l : Load} (h : s.skn.load = some l) : s.intoWound.skn.load = some l := by rw [s.intoWound_skn, h]

theorem State.loadDone_skn {l : Load} (h : s.skn.load = some l) (hf : l.finished = true) : s.loadDone.skn = s.skn.ended l := by
  rw [State.loadDone_finished h hf]
  split
  · rw [State.loadEnd_eq (State.intoWound_load h), s.intoWound_skn]
  · rw [State.loadEnd_eq h]

theorem State.loadDone_wound {l : Load} (h : s.skn.load = some l) (hk : l.kind = .whole) (hf : l.finished = true) :
    s.loadDone.mod.mode = .wound ∧ s.loadDone.mod.qReason = 0 := by
  rw [State.loadDone_finished h hf, if_pos hk, State.loadEnd_eq (State.intoWound_load h)]
  exact ⟨s.intoWound_mode, s.intoWound_qReason⟩

theorem State.loadDone_due (h : s.woundDue) (d : ChanId) : s.loadDone.ch d = (s.ch d).startInitial := by
  obtain ⟨l, hl, hk, hf⟩ := h
  rw [State.loadDone_finished hl hf, if_pos hk, State.loadEnd_eq (State.intoWound_load hl)]
  exact s.intoWound_ch d

/-- A load that does not end in WOUND ends, if it does, in the SKN block alone. -/
theorem State.loadDone_eq (h : ¬s.woundDue) : s.loadDone = { s with skn := s.loadDone.skn } := by
  cases hl : s.skn.load with
  | none => rw [State.loadDone_none hl]
  | some l =>
    cases hf : l.finished with
    | false => rw [State.loadDone_open hl hf]
    | true => rw [State.loadDone_finished hl hf, if_neg fun hk => h ⟨l, hl, hk, hf⟩, State.loadEnd_eq hl]

theorem State.loadDone_skn_keeps (s : State) :
    s.loadDone.skn.result = s.skn.result ∧ s.loadDone.skn.image = s.skn.image ∧ s.loadDone.skn.locks = s.skn.locks := by
  cases hl : s.skn.load with
  | none => rw [State.loadDone_none hl]; exact ⟨rfl, rfl, rfl⟩
  | some l =>
    cases hf : l.finished with
    | false => rw [State.loadDone_open hl hf]; exact ⟨rfl, rfl, rfl⟩
    | true => rw [State.loadDone_skn hl hf]; exact ⟨rfl, rfl, rfl⟩

/-- A channel without an initial training that is due stays as it is, and so does every channel where no load ends in WOUND. -/
theorem State.loadDone_ch_same {d : ChanId} (h : ¬s.woundDue ∨ (s.ch d).configured = false ∨ (s.ch d).dof.due = false) :
    s.loadDone.ch d = s.ch d := by
  by_cases hw : s.woundDue
  · rw [State.loadDone_due hw]
    exact Chan.startInitial_of_not (h.resolve_left (not_not.2 hw))
  · rw [State.loadDone_eq hw]
    rfl

theorem State.loadDone_begins {d : ChanId} (hw : s.woundDue) (hc : (s.ch d).configured = true) (hd : (s.ch d).dof.due = true)
    (ht : (s.ch d).mod.state ≠ .trim) : trainingBegins (s.ch d) (s.loadDone.ch d) := by
  rw [State.loadDone_due hw]
  exact Chan.startInitial_begins hc hd ht

theorem State.loadDone_ch_keeps (s : State) (d : ChanId) :
    (s.loadDone.ch d).skn = (s.ch d).skn ∧ (s.loadDone.ch d).ana = (s.ch d).ana := by
  by_cases hw : s.woundDue
  · rw [State.loadDone_due hw]
    exact (s.ch d).startInitial_keeps
  · rw [State.loadDone_ch_same (.inl hw)]
    exact ⟨rfl, rfl⟩

/-- The effects of the end of a load. -/
abbrev Effects.ending : Effects := { Effects.channels with mod := true, mode := true, skn := true }

theorem State.keeps_loadDone (s : State) : State.Keeps .ending (fun _ => True) Eq s s.loadDone :=
  (State.Keeps.refl .ending _ s).loadDone rfl rfl rfl fun _ => trivial

theorem State.loadDone_frame (s : State) :
    s.loadDone = { s with mod := s.loadDone.mod, skn := s.loadDone.skn, chans := s.loadDone.chans } :=
  s.keeps_loadDone.blocks rfl rfl

/-! ### The apply begins (R88) -/

def Chan.applying (x : Chan) : Chan := { x with skn := { x.skn with state := .applying } }

/-- Every channel whose section passed becomes APPLYING. -/
def State.applyPass (s : State) (l : List (ChanId × ChImage)) : State := s.forCh (l.map (·.1)) fun s c => s.modCh c Chan.applying

theorem State.applyPass_eq (s : State) (l : List (ChanId × ChImage)) : s.applyPass l = { s with chans := (s.applyPass l).chans } :=
  forCh_modCh_eq (fun _ => Chan.applying) _ s

/-- A change of a channel that leaves it as it is the second time, over channels that may be named more than once. -/
theorem State.forCh_modCh_idem {f : Chan → Chan} (hf : ∀ x, f (f x) = f x) (l : List ChanId) (s : State) (d : ChanId) :
    (s.forCh l fun s c => s.modCh c f).ch d = if d ∈ l then f (s.ch d) else s.ch d := by
  unfold State.forCh
  induction l generalizing s with
  | nil => rfl
  | cons c l ih =>
    rw [List.foldl_cons, ih, State.ch_modCh]
    by_cases h : d = c
    · simp [h, hf]
    · simp [h]

theorem State.applyPass_ch (s : State) (l : List (ChanId × ChImage)) (d : ChanId) :
    (s.applyPass l).ch d = if ∃ x ∈ l, x.1 = d then (s.ch d).applying else s.ch d := by
  rw [State.applyPass, State.forCh_modCh_idem (f := Chan.applying) fun _ => rfl]
  simp only [List.mem_map]

theorem State.applyBegin_eq {l : Load} (h : s.skn.load = some l) :
    s.applyBegin = (({ s with skn := { s.skn with phase := 4 } } : State).applyPass l.chImages).loadDone := by
  unfold State.applyBegin
  rw [h]
  rfl

end Sys2Proof.Machine
end

section
/-! The sections of a stream that passed are applied, and each Doffer reports its self-check or does not (R86 to R92, R98, R109,
R358, R491). -/

namespace Sys2Proof.Machine

variable {s : State}

/-! ### The module section (R88, R98, R491) -/

/-- HP_CFG as the LINK_CFG record gives it, and FLT_CFG as the fault policy does. -/
def ModImage.hpCfg (m : ModImage) : Word := pack [(num m.linkCfg 4 2, 48), (num m.linkCfg 2 2, 32), (byteAt m.linkCfg 0, 0)]
def ModImage.fltCfg (m : ModImage) : Word := if m.faultPolicy.isEmpty then 100 else word (num m.faultPolicy 16 2)

/-- The SKN block once module section `m` of load `l` is in force. -/
def Skn.applied (k : Skn) (m : ModImage) (l : Load) : Skn :=
  { k with image := m, locks := payloadWord m.locks 0, phase := 4, load := some { l with modApplied := true } }

/-- The configuration that a module section gives is in force, and every channel whose section passed is APPLYING. -/
def State.applyWith (s : State) (k : Skn) (hpCfg fltCfg : Word) (l : List (ChanId × ChImage)) : State :=
  ({ s with skn := k, hp := { s.hp with cfg := hpCfg }, flt := { s.flt with cfg := fltCfg } } : State).applyPass l

/-- The module section `m` of load `l` is in force, and every channel whose section passed is APPLYING. -/
def State.moduleInForce (s : State) (m : ModImage) (l : Load) : State :=
  s.applyWith (s.skn.applied m l) m.hpCfg m.fltCfg l.chImages

theorem State.applyModule_eq {l : Load} (h : s.skn.load = some l) (m : ModImage) :
    s.applyModule m = (s.moduleInForce m l).loadDone := by
  unfold State.applyModule
  rw [State.applyBegin_eq (l := { l with modApplied := true }) (by simp [State.modLoad, h])]
  simp only [State.modLoad, h, Option.map_some]
  rfl

theorem exec_moduleSectionApplied {t : Tbu} {l : Load} {m : ModImage} (h : s.skn.load = some l) (hc : l.complete = true)
    (hk : l.kind = .whole) (ha : l.modApplied = false) (hm : l.modImage = some m) :
    exec (.moduleSectionApplied t) s = .next ((s.atTime t).applyModule m) := by
  show execModuleSectionApplied t s = _
  unfold execModuleSectionApplied
  simp only [State.atTime_skn, h, hc, hk, ha, hm, beq_self_eq_true, Bool.not_false, Bool.and_self, if_true]

section
variable (s) (k : Skn) (hpCfg fltCfg : Word) (l : List (ChanId × ChImage))

theorem State.applyWith_eq : s.applyWith k hpCfg fltCfg l = { s with
    skn := k, hp := { s.hp with cfg := hpCfg }, flt := { s.flt with cfg := fltCfg }, chans := (s.applyWith k hpCfg fltCfg l).chans } :=
  State.applyPass_eq _ _

theorem State.applyWith_ch (d : ChanId) :
    (s.applyWith k hpCfg fltCfg l).ch d = if ∃ x ∈ l, x.1 = d then (s.ch d).applying else s.ch d :=
  State.applyPass_ch _ _ d

theorem State.applyWith_keeps : (s.applyWith k hpCfg fltCfg l).skn = k ∧ (s.applyWith k hpCfg fltCfg l).mod = s.mod ∧
    (s.applyWith k hpCfg fltCfg l).hp = { s.hp with cfg := hpCfg } ∧ (s.applyWith k hpCfg fltCfg l).flt = { s.flt with cfg := fltCfg } := by
  rw [State.applyWith_eq]
  exact ⟨rfl, rfl, rfl, rfl⟩

theorem State.applyWith_sameCreels : s.sameCreels (s.applyWith k hpCfg fltCfg l) := by
  intro c a
  rw [State.creelByte, State.applyWith_ch]
  split <;> rfl

theorem State.applyWith_frame (u : State) (hu : u = (s.applyWith k hpCfg fltCfg l).loadDone) :
    u = { s with mod := u.mod, skn := u.skn, hp := { s.hp with cfg := u.hp.cfg }, flt := { s.flt with cfg := u.flt.cfg }, chans := u.chans } := by
  have hv := s.applyWith_eq k hpCfg fltCfg l
  have hframe := (s.applyWith k hpCfg fltCfg l).loadDone_frame
  rw [← hu] at hframe
  generalize s.applyWith k hpCfg fltCfg l = v at hv hframe
  generalize v.chans = x at hv
  subst hv
  rw [hframe]

end

theorem State.woundDue_module (s : State) {m : ModImage} {l : Load} (hc : l.complete = true) (hk : l.kind = .whole) :
    (s.moduleInForce m l).woundDue ↔ l.resolved = l.mask := by
  have hf : ({ l with modApplied := true } : Load).finished = (l.resolved == l.mask) := by simp [Load.finished, hc]
  unfold State.woundDue
  rw [State.moduleInForce, (s.applyWith_keeps ..).1]
  constructor
  · rintro ⟨x, hx, -, hfx⟩
    obtain rfl := Option.some.inj hx
    simpa [hf] using hfx
  · intro hr
    exact ⟨_, rfl, hk, hf.trans (beq_iff_eq.2 hr)⟩

theorem moduleApplied : Clause.ModuleApplied := by
  intro t s l m hl hcomp hk ha hm
  rw [exec_moduleSectionApplied hl hcomp hk ha hm, State.applyModule_eq (s := s.atTime t) hl]
  have hframe := (s.atTime t).applyWith_frame (s.skn.applied m l) m.hpCfg m.fltCfg l.chImages _ rfl
  have hcreels := (s.atTime t).applyWith_sameCreels (s.skn.applied m l) m.hpCfg m.fltCfg l.chImages
  have hdue := (s.atTime t).woundDue_module (m := m) hcomp hk
  have hch := (s.atTime t).applyWith_ch (s.skn.applied m l) m.hpCfg m.fltCfg l.chImages
  obtain ⟨hskn, hmod, hhp, hflt⟩ := (s.atTime t).applyWith_keeps (s.skn.applied m l) m.hpCfg m.fltCfg l.chImages
  rw [State.moduleInForce, State.atTime_skn] at hdue ⊢
  generalize (s.atTime t).applyWith (s.skn.applied m l) m.hpCfg m.fltCfg l.chImages = v at *
  have hkeeps := v.keeps_loadDone
  have hload : v.skn.load = some { l with modApplied := true } := congrArg Skn.load hskn
  obtain ⟨-, himage, hlocks⟩ := v.loadDone_skn_keeps
  have hopen : l.resolved ≠ l.mask → v.loadDone = v := fun hr =>
    State.loadDone_open hload (by simp [Load.finished, hr])
  refine ⟨_, rfl, fun c a => (keeps_creels hkeeps c a).trans (hcreels c a), hframe, himage.trans (congrArg Skn.image hskn),
    hlocks.trans (congrArg Skn.locks hskn), ?_, ?_, fun x hx => ?_, fun hr => ?_, fun hr => ?_,
    fun c hc => ⟨fun hno => ?_, fun hr hcf hd ht => ?_⟩⟩
  · rw [hkeeps.hp rfl (.inl rfl), hhp]
    rfl
  · rw [hkeeps.flt rfl, hflt]
    simp [ModImage.fltCfg]
  · rw [(v.loadDone_ch_keeps x.1).1, hch, if_pos ⟨x, hx, rfl⟩]
    rfl
  · rw [hopen hr, hskn]
    exact ⟨hmod, rfl, rfl⟩
  · obtain ⟨x, hx, hkx, hfx⟩ := hdue.2 hr
    exact ⟨(State.loadDone_wound hx hkx hfx).1, congrArg Skn.load (State.loadDone_skn hx hfx)⟩
  · have hsame : v.ch c = s.ch c := (hch c).trans (if_neg fun ⟨x, hx, hxc⟩ => hc x hx hxc)
    rw [State.loadDone_ch_same, hsame]
    rwa [hsame, hdue]
  · have hsame : v.ch c = s.ch c := (hch c).trans (if_neg fun ⟨x, hx, hxc⟩ => hc x hx hxc)
    rw [← hsame] at hcf hd ht
    exact (State.loadDone_begins (hdue.2 hr) hcf hd ht).1

/-! ### A channel section (R89, R90) -/

/-- The section's image is in force, and the Doffer released at instant `now`. -/
def Chan.released (x : Chan) (im : ChImage) (now : Tbu) : Chan :=
  { x with
    skn := { x.skn with image := im, locks := payloadWord im.locks 0, released := true, releasedAt := now }
    dof := { x.dof with restarting := false, running := none, queue := [] } }

/-- The channel once its section `im` has been applied. -/
def Chan.sectionApplied (x : Chan) (im : ChImage) (now : Tbu) (cyc : Nat) : Chan :=
  (if slice x.skn.image.creelMap 0 6 != slice im.creelMap 0 6 then (x.released im now).creelInvalid else x.released im now).imageFields cyc

theorem State.abortServices_idle {c : ChanId} (hr : (s.ch c).dof.running = none) (hq : (s.ch c).dof.queue = []) :
    s.abortServices c = s.modCh c fun x => { x with dof := { x.dof with running := none, queue := [] } } := by
  unfold State.abortServices
  dsimp only
  rw [hr, hq]
  rfl

theorem State.applyChannel_eq {c : ChanId} (im : ChImage) (hr : (s.ch c).dof.running = none) (hq : (s.ch c).dof.queue = []) :
    (s.applyChannel c im).ch c = (s.ch c).sectionApplied im s.now s.cycle ∧ State.onlyChannel c s (s.applyChannel c im) := by
  unfold State.applyChannel
  rw [State.abortServices_idle hr hq]
  refine ⟨?_, rfl, fun d hd => ?_⟩
  · rw [State.ch_modCh_self, State.ch_modCh_self]
    rfl
  · rw [State.ch_modCh_ne _ _ hd, State.ch_modCh_ne _ _ hd]

/-- What the apply of a section leaves of the channel before the fields that its image gives. -/
theorem Chan.sectionApplied_keeps (x : Chan) (im : ChImage) (now : Tbu) (cyc : Nat) :
    (x.sectionApplied im now cyc).skn = (x.released im now).skn ∧ (x.sectionApplied im now cyc).mod = x.mod ∧
    (x.sectionApplied im now cyc).trk = x.trk ∧ (x.sectionApplied im now cyc).stq = x.stq ∧ (x.sectionApplied im now cyc).tdc = x.tdc ∧
    (x.sectionApplied im now cyc).jnc.grpEn = 0xFF ∧ (x.sectionApplied im now cyc).cal = { x.cal with loopCfg := 3 } := by
  unfold Chan.sectionApplied
  simp only [Chan.imageFields_keeps]
  split <;> exact ⟨rfl, rfl, rfl, rfl, rfl, rfl, rfl⟩

theorem Chan.sectionApplied_sameMap {x : Chan} {im : ChImage} (now : Tbu) (cyc : Nat)
    (h : slice x.skn.image.creelMap 0 6 = slice im.creelMap 0 6) :
    (x.sectionApplied im now cyc).mem.data = x.mem.data ∧ (x.sectionApplied im now cyc).mem.invalid = x.mem.invalid := by
  rw [Chan.sectionApplied, if_neg (by simp [h])]
  exact ⟨rfl, rfl⟩

theorem Chan.sectionApplied_otherMap {x : Chan} {im : ChImage} (now : Tbu) (cyc : Nat)
    (h : slice x.skn.image.creelMap 0 6 ≠ slice im.creelMap 0 6) :
    (x.sectionApplied im now cyc).mem.data = [] ∧ (x.sectionApplied im now cyc).mem.invalid = true := by
  rw [Chan.sectionApplied, if_pos (by simp [h])]
  exact ⟨rfl, rfl⟩

theorem exec_channelSectionApplied {t : Tbu} {c : ChanId} {l : Load} {x : ChanId × ChImage} (hl : s.skn.load = some l)
    (hx : l.chImages.find? (fun x => x.1 == c) = some x) (hs : (s.ch c).skn.state = .applying) (hr : (s.ch c).skn.released = false) :
    exec (.channelSectionApplied t c) s = .next ((s.atTime t).applyChannel c x.2) := by
  show execChannelSectionApplied t c s = _
  unfold execChannelSectionApplied
  simp only [State.atTime_skn, State.ch_atTime, hl, hx, hs, hr, Bool.not_false, and_self, if_true]

theorem channelApplied : Clause.ChannelApplied := by
  intro t c s l x hl hx hs hr hrun hq
  rw [exec_channelSectionApplied hl hx hs hr]
  obtain ⟨hself, honly⟩ := State.applyChannel_eq (s := s.atTime t) x.2 hrun hq
  obtain ⟨hskn, hmod, htrk, hstq, htdc, hgrp, hcal⟩ := (s.ch c).sectionApplied_keeps x.2 (max s.now t) (s.atTime t).cycle
  rw [State.ch_atTime, State.atTime_now] at hself
  have hother : ∀ d : ChanId, d ≠ c → ((s.atTime t).applyChannel c x.2).ch d = s.ch d := honly.2
  refine ⟨_, rfl, State.onlyChannel_of_atTime honly, ?_⟩
  unfold State.sameCreels State.creelByte
  rw [hself]
  refine ⟨hskn, hmod, htrk, hstq, htdc, hgrp, hcal, fun hmap => ?_, fun hmap => ?_⟩
  · obtain ⟨hdata, hinv⟩ := Chan.sectionApplied_sameMap (max s.now t) (s.atTime t).cycle hmap
    refine ⟨fun d a => ?_, hinv⟩
    by_cases hd : d = c
    · rw [hd, hself, hdata]
    · rw [hother d hd]
  · obtain ⟨hdata, hinv⟩ := Chan.sectionApplied_otherMap (max s.now t) (s.atTime t).cycle hmap
    exact ⟨hinv, fun a => by rw [hdata, readByte_nil], fun d hd a => by rw [hother d hd]⟩

/-! ### The Doffer's self-check (R86, R89, R92) -/

/-- With channel `c` resolved, a load ends in WOUND where it was the last one of a WHOLE load. -/
theorem State.woundDue_of_resolved {u : State} {c : ChanId} {f : Load → Load} (hu : u.skn.load = s.skn.load.map f)
    (hkind : ∀ l, (f l).kind = l.kind)
    (hf : ∀ l, (f l).finished = (l.complete && (l.kind != .whole || l.modApplied) && setBit l.resolved c.val == l.mask)) :
    u.woundDue ↔ lastOfWhole s c := by
  unfold State.woundDue lastOfWhole
  rw [hu]
  constructor
  · rintro ⟨x, hx, hk, hx'⟩
    obtain ⟨l, hl, rfl⟩ := Option.map_eq_some_iff.1 hx
    rw [hkind] at hk
    rw [hf, hk] at hx'
    simp only [bne_self_eq_false, Bool.false_or, Bool.and_eq_true, beq_iff_eq] at hx'
    obtain ⟨⟨hc, ha⟩, hr⟩ := hx'
    exact ⟨l, hl, hk, hc, ha, hr⟩
  · rintro ⟨l, hl, hk, hc, ha, hr⟩
    exact ⟨f l, by rw [hl, Option.map_some], (hkind l).trans hk, by simp [hf, hc, ha, hr]⟩

/-- The channel whose Doffer has passed its self-check. -/
def Chan.selfChecked (x : Chan) : Chan :=
  { x with
    skn := { x.skn with
      state := .configured, released := false, loads := satInc x.skn.loads, imageId := x.skn.image.imageId, digest := x.skn.image.digest }
    ana := { x.ana with now := x.skn.image.restWord } }

/-- A WHOLE load is in progress. -/
def State.loadsWhole (s : State) : Bool := s.skn.load.any fun l => l.kind == .whole

/-- Channel `c` is CONFIGURED, in training where no WHOLE load makes it wait for WOUND, and done with the load. -/
def State.selfChecked (s : State) (c : ChanId) : State :=
  (if s.loadsWhole then s.modCh c Chan.selfChecked else (s.modCh c Chan.selfChecked).startInitial c).loadResolve c

theorem State.selfCheckPass_eq (s : State) (c : ChanId) : s.selfCheckPass c = (s.selfChecked c).loadDone := rfl

/-- The load once channel `c` is done with it. -/
def Load.resolve (l : Load) (c : ChanId) : Load := { l with resolved := setBit l.resolved c.val }

theorem State.selfChecked_skn (s : State) (c : ChanId) :
    (s.selfChecked c).skn = { s.skn with load := s.skn.load.map fun l => l.resolve c } := by
  have h : ((s.modCh c Chan.selfChecked).startInitial c).skn = s.skn := (State.keeps_startInitial _ c).skn rfl
  unfold State.selfChecked State.loadResolve
  split
  · rfl
  · rw [h]
    rfl

theorem State.selfChecked_mode (s : State) (c : ChanId) : (s.selfChecked c).mod.mode = s.mod.mode := by
  unfold State.selfChecked
  split
  · rfl
  · exact ((s.modCh c Chan.selfChecked).keeps_startInitial c).mode rfl |>.1

theorem State.selfChecked_ne (s : State) {c d : ChanId} (h : d ≠ c) : (s.selfChecked c).ch d = s.ch d := by
  have hmod : (s.modCh c Chan.selfChecked).ch d = s.ch d := State.ch_modCh_ne s _ h
  unfold State.selfChecked
  split
  · exact hmod
  · exact ((s.modCh c Chan.selfChecked).startInitial_ne h).trans hmod

theorem State.selfChecked_whole {c : ChanId} (h : s.loadsWhole = true) : (s.selfChecked c).ch c = (s.ch c).selfChecked := by
  unfold State.selfChecked
  rw [if_pos h]
  exact State.ch_modCh_self s c _

theorem State.selfChecked_other {c : ChanId} (h : s.loadsWhole = false) : (s.selfChecked c).ch c = (s.ch c).selfChecked.startInitial := by
  unfold State.selfChecked
  rw [if_neg (by simp [h])]
  exact (State.startInitial_self _ c).trans (congrArg _ (State.ch_modCh_self s c _))

theorem State.selfChecked_self (s : State) (c : ChanId) :
    ((s.selfChecked c).ch c).skn = (s.ch c).selfChecked.skn ∧ ((s.selfChecked c).ch c).ana = (s.ch c).selfChecked.ana := by
  cases h : s.loadsWhole with
  | true => rw [State.selfChecked_whole h]; exact ⟨rfl, rfl⟩
  | false => rw [State.selfChecked_other h]; exact (s.ch c).selfChecked.startInitial_keeps

theorem State.woundDue_selfChecked (s : State) (c : ChanId) : (s.selfChecked c).woundDue ↔ lastOfWhole s c :=
  State.woundDue_of_resolved (f := fun l => l.resolve c) (congrArg Skn.load (s.selfChecked_skn c)) (fun _ => rfl) fun _ => rfl

theorem State.loadsWhole_iff : s.loadsWhole = true ↔ ∃ l, s.skn.load = some l ∧ l.kind = .whole := by
  simp [State.loadsWhole, Option.any_eq_true]

theorem State.loadsWhole_of_last {c : ChanId} (h : lastOfWhole s c) : s.loadsWhole = true := by
  obtain ⟨l, hl, hk, -⟩ := h
  exact State.loadsWhole_iff.2 ⟨l, hl, hk⟩

theorem State.loadsWhole_of_channel (h : ∀ l, s.skn.load = some l → l.kind = .channel) : s.loadsWhole = false := by
  rw [← Bool.not_eq_true, State.loadsWhole_iff]
  rintro ⟨l, hl, hk⟩
  exact absurd (hk.symm.trans (h l hl)) (by decide)

/-- Channel `c` itself at the end of a passed self-check, where it begins no initial training. -/
theorem State.selfCheckPass_idle {c : ChanId}
    (h : (s.ch c).dof.due = false ∨ (¬lastOfWhole s c ∧ ∃ l, s.skn.load = some l ∧ l.kind = .whole)) :
    (s.selfChecked c).loadDone.ch c = (s.ch c).selfChecked := by
  rcases h with hd | ⟨hlast, hwhole⟩
  · have hch : (s.selfChecked c).ch c = (s.ch c).selfChecked := by
      cases hw : s.loadsWhole with
      | true => exact State.selfChecked_whole hw
      | false => exact (State.selfChecked_other hw).trans (Chan.startInitial_of_not (.inr hd))
    rw [State.loadDone_ch_same (.inr (.inr (by rw [hch]; exact hd))), hch]
  · rw [State.loadDone_ch_same (.inl (mt (s.woundDue_selfChecked c).1 hlast)),
      State.selfChecked_whole (State.loadsWhole_iff.2 hwhole)]

/-- Channel `c` itself at the end of a passed self-check, where its initial training begins. -/
theorem State.selfCheckPass_begins {c : ChanId} (hd : (s.ch c).dof.due = true)
    (h : lastOfWhole s c ∨ ∀ l, s.skn.load = some l → l.kind = .channel) (ht : (s.ch c).mod.state ≠ .trim) :
    trainingBegins (s.ch c).selfChecked ((s.selfChecked c).loadDone.ch c) := by
  rcases h with hlast | hchan
  · have hch := State.selfChecked_whole (c := c) (State.loadsWhole_of_last hlast)
    rw [← hch]
    exact State.loadDone_begins ((s.woundDue_selfChecked c).2 hlast) (by rw [hch]; rfl) (by rw [hch]; exact hd) (by rw [hch]; exact ht)
  · have hw := State.loadsWhole_of_channel hchan
    have hlast : ¬lastOfWhole s c := fun h => by simp [State.loadsWhole_of_last h] at hw
    rw [State.loadDone_ch_same (.inl (mt (s.woundDue_selfChecked c).1 hlast)), State.selfChecked_other hw]
    exact Chan.startInitial_begins rfl hd ht

theorem selfCheckPassed : Clause.SelfCheckPassed := by
  intro t c s
  refine ⟨fun hno => ?_, fun hrel ht => ?_⟩
  · refine congrArg Host.Outcome.next (if_neg ?_)
    rintro ⟨hr, hn⟩
    rcases hno with h | h
    · exact Bool.false_ne_true (h.symm.trans hr)
    · exact absurd hn (Nat.not_le.2 h)
  · have hexec : exec (.dofferSelfCheckPass t c) s = .next (((s.atTime t).selfChecked c).loadDone) :=
      congrArg Host.Outcome.next ((if_pos ⟨hrel, ht⟩).trans ((s.atTime t).selfCheckPass_eq c))
    have hkeeps : State.Keeps .ending (fun _ => True) Eq (s.atTime t) (((s.atTime t).selfChecked c).loadDone) :=
      (State.Keeps.refl .ending _ (s.atTime t)).selfCheckPass c rfl rfl rfl fun _ => trivial
    obtain ⟨hskn, hana⟩ := ((s.atTime t).selfChecked c).loadDone_ch_keeps c
    obtain ⟨hskn', hana'⟩ := (s.atTime t).selfChecked_self c
    have hdue := (s.atTime t).woundDue_selfChecked c
    refine ⟨_, hexec, hkeeps.sameCreels, hskn.trans hskn', congrArg Ana.now (hana.trans hana'), fun h => ?_, fun hd h hs => ?_,
      fun d hd => ⟨fun h => ?_, fun hlast hc hdd hs => ?_⟩, fun hlast => ?_, fun l hl hcomp hres hk => ?_⟩
    · rw [State.selfCheckPass_idle (s := s.atTime t) h]
      rfl
    · exact State.selfCheckPass_begins (s := s.atTime t) hd h hs
    · have hch : ((s.atTime t).selfChecked c).ch d = s.ch d := (s.atTime t).selfChecked_ne hd
      rw [State.loadDone_ch_same, hch]
      rw [hch]
      exact h.imp_left (mt hdue.1)
    · have hch : ((s.atTime t).selfChecked c).ch d = s.ch d := (s.atTime t).selfChecked_ne hd
      rw [← hch] at hc hdd hs ⊢
      exact ⟨State.loadDone_begins (hdue.2 hlast) hc hdd hs, (State.loadDone_ch_keeps _ d).1⟩
    · obtain ⟨l, hl, hk, hf⟩ := hdue.2 hlast
      exact ⟨congrArg Skn.load (State.loadDone_skn hl hf), State.loadDone_wound hl hk hf⟩
    · have hload : ((s.atTime t).selfChecked c).skn.load = some (l.resolve c) := by
        rw [State.selfChecked_skn, State.atTime_skn, hl]
        rfl
      have hf : (l.resolve c).finished = true := by simp [Load.finished, Load.resolve, hcomp, hres, hk]
      have hopen : ¬((s.atTime t).selfChecked c).woundDue := fun h => by
        obtain ⟨x, hx, hkx, -⟩ := hdue.1 h
        obtain rfl := Option.some.inj (hl.symm.trans hx)
        exact absurd (hk.symm.trans hkx) (by decide)
      exact ⟨congrArg Skn.load (State.loadDone_skn hload hf),
        (congrArg (fun s => s.mod.mode) (State.loadDone_eq hopen)).trans ((s.atTime t).selfChecked_mode c)⟩

theorem selfCheckTimeout : Clause.SelfCheckTimeout := by
  intro t c s
  refine ⟨fun hno => ?_, fun hrel ht => ?_⟩
  · refine congrArg Host.Outcome.next (if_neg ?_)
    rintro ⟨hr, hn⟩
    rcases hno with h | h
    · exact Bool.false_ne_true (h.symm.trans hr)
    · exact absurd hn (Nat.not_le.2 h)
  · have hexec : exec (.dofferCheckTimeout t c) s = .next (((s.atTime t).refuseChannel c 0x0F 0).loadDone) :=
      congrArg Host.Outcome.next (if_pos ⟨hrel, ht⟩)
    have hskn := (s.atTime t).refuseChannel_skn c 0x0F 0
    have hdue : ((s.atTime t).refuseChannel c 0x0F 0).woundDue ↔ lastOfWhole s c :=
      State.woundDue_of_resolved (congrArg Skn.load hskn) (fun _ => rfl) fun _ => rfl
    have hkeeps := (s.atTime t).keeps_refuseChannel c 0x0F 0
    have hdone := ((s.atTime t).refuseChannel c 0x0F 0).keeps_loadDone
    obtain ⟨hresult, himage, -⟩ := ((s.atTime t).refuseChannel c 0x0F 0).loadDone_skn_keeps
    obtain ⟨hstate, hreason, hreleased⟩ := (s.atTime t).refuseChannel_self c 0x0F 0
    have hch := (((s.atTime t).refuseChannel c 0x0F 0).loadDone_ch_keeps c).1
    refine ⟨_, hexec, fun d a => (keeps_creels hdone d a).trans (hkeeps.sameCreels d a), fun d hd h => ?_, ?_, ?_, ?_,
      hresult.trans (congrArg Skn.result hskn), himage.trans ((congrArg Skn.image hskn).trans rfl)⟩
    · have hsame : ((s.atTime t).refuseChannel c 0x0F 0).ch d = s.ch d := hkeeps.other d hd
      rw [State.loadDone_ch_same, hsame]
      rw [hsame]
      exact h.imp_left (mt hdue.1)
    · rw [hch, hstate]
    · rw [hch, hreason]
    · rw [hch, hreleased]

/-- Settles O24: the sections that passed come into force one by one, and the last channel's self-check ends the load. -/
theorem sectionsApplied : Obligations.SectionsApplied := ⟨moduleApplied, channelApplied, selfCheckPassed, selfCheckTimeout⟩

end Sys2Proof.Machine
end

section
/-! The search for an unregistered loop (R95): it visits the junctions depth first, and colours BLACK those that lead into no cycle. -/

namespace Sys2Proof.Machine

variable {lut : List Byte}

/-! ### The graph of the junctions -/

theorem below_iff (n : Nat) (p : Nat → Bool) : below n p = true ↔ ∀ i < n, p i = true := by
  simp [below]

theorem bit_foldl_setBit (f : Nat → Nat) (l : List Nat) (m : Word) {k : Nat} (hk : k < 64) :
    bit (l.foldl (fun m c => setBit m (f c)) m) k = true ↔ bit m k = true ∨ ∃ c ∈ l, f c = k := by
  induction l generalizing m with
  | nil => simp
  | cons c r ih => simp [ih, bit_setBit, hk, or_assoc, eq_comm (a := k)]

theorem not_bit_zero (k : Nat) : ¬bit (0 : Word) k = true := by simp [bit]

theorem loopEdge_lt {j k : Nat} (h : loopEdge lut j k) : k < 64 := by
  obtain ⟨c, -, -, rfl, -⟩ := h
  exact Nat.mod_lt _ (by decide)

theorem bit_loopEdges (j : Nat) {k : Nat} (hk : k < 64) : bit (loopEdges lut j) k = true ↔ loopEdge lut j k := by
  have hbelow : ∀ c, below 4 (fun q => byteAt lut (16 * c + q) != 128 + j) = false ↔ ∃ q < 4, byteAt lut (16 * c + q) = 128 + j := by
    intro c
    rw [← Bool.not_eq_true, below_iff]
    simp
  rw [loopEdges, bit_foldl_setBit _ _ _ hk, or_iff_right (not_bit_zero k)]
  simp only [List.mem_filter, mem_upTo, Bool.and_eq_true, decide_eq_true_eq, beq_iff_eq, hbelow, loopEdge]
  exact exists_congr fun c => by tauto

/-- No path from `j` goes on for ever: `j` leads into no cycle. -/
def loopFree (lut : List Byte) (j : Nat) : Prop := Acc (fun k i => loopEdge lut i k) j

theorem loopFree_of_edges {j : Nat} (h : ∀ k, loopEdge lut j k → loopFree lut k) : loopFree lut j := ⟨_, h⟩

theorem loopFree.not_cycle {j : Nat} (h : loopFree lut j) : ¬Relation.TransGen (loopEdge lut) j j := by
  induction h with
  | intro j _ ih =>
    intro hj
    obtain ⟨k, hjk, hkj⟩ := Relation.TransGen.head'_iff.1 hj
    exact ih k hjk (Relation.TransGen.tail' hkj hjk)

/-! ### What the search keeps -/

/-- What the search has answered so far is right: BLACK junctions lead into no cycle, and a junction it has found lies on one. -/
structure LoopFound (lut : List Byte) (a : Word × Option Nat) : Prop where
  black : ∀ k < 64, bit a.1 k = true → loopFree lut k
  cycle : ∀ k, a.2 = some k → Relation.TransGen (loopEdge lut) k k

/-- From `a` the search has come to `b`: what it answers is right, what was BLACK is so still, and where it has found no cycle, the
junctions that `want` names are BLACK. -/
structure LoopStep (lut : List Byte) (want : Nat → Prop) (a b : Word × Option Nat) : Prop where
  found : LoopFound lut b
  grows : ∀ k, bit a.1 k = true → bit b.1 k = true
  clear : b.2 = none → a.2 = none ∧ ∀ k < 64, want k → bit b.1 k = true

theorem LoopFound.stay {want : Nat → Prop} {a : Word × Option Nat} (h : LoopFound lut a)
    (hw : a.2 = none → ∀ k < 64, want k → bit a.1 k = true) : LoopStep lut want a a :=
  ⟨h, fun _ => id, fun hn => ⟨hn, hw hn⟩⟩

/-- A loop over junctions whose turns do right by the one they are at does right by all of them. -/
theorem loopStep_foldl {turn : Word × Option Nat → Nat → Word × Option Nat} {want : Nat → Prop}
    (h : ∀ a, LoopFound lut a → ∀ k < 64, LoopStep lut (fun i => i = k ∧ want k) a (turn a k)) (l : List Nat) (hl : ∀ k ∈ l, k < 64)
    (a : Word × Option Nat) (ha : LoopFound lut a) : LoopStep lut (fun k => k ∈ l ∧ want k) a (l.foldl turn a) := by
  induction l generalizing a with
  | nil => exact ha.stay fun _ k _ hk => absurd hk.1 List.not_mem_nil
  | cons c r ih =>
    have hc := h a ha c (hl c List.mem_cons_self)
    have hr := ih (fun k hk => hl k (List.mem_cons_of_mem _ hk)) _ hc.found
    refine ⟨hr.found, fun k hk => hr.grows k (hc.grows k hk), fun hn => ?_⟩
    obtain ⟨hn', hblack⟩ := hr.clear hn
    refine ⟨(hc.clear hn').1, fun k hk ⟨hm, hw⟩ => ?_⟩
    rcases List.mem_cons.1 hm with rfl | hm
    · exact hr.grows k ((hc.clear hn').2 k hk ⟨rfl, hw⟩)
    · exact hblack k hk ⟨hm, hw⟩

/-! ### The GREY junctions -/

/-- How many junctions are GREY. -/
def greys (grey : Word) : Nat := ((Finset.range 64).filter fun k => bit grey k = true).card

theorem greys_le (grey : Word) : greys grey ≤ 64 := by
  simpa [greys] using Finset.card_filter_le (Finset.range 64) fun k => bit grey k = true

theorem bit_setBit_iff (w : Word) (j : Nat) {k : Nat} (hk : k < 64) : bit (setBit w j) k = true ↔ k = j ∨ bit w k = true := by
  simp [bit_setBit, hk, or_comm]

theorem greys_setBit {grey : Word} {j : Nat} (hj : j < 64) (hg : bit grey j = false) : greys (setBit grey j) = greys grey + 1 := by
  have hset : ((Finset.range 64).filter fun k => bit (setBit grey j) k = true)
      = insert j ((Finset.range 64).filter fun k => bit grey k = true) := by
    ext k
    simp only [Finset.mem_filter, Finset.mem_range, Finset.mem_insert]
    constructor
    · rintro ⟨hk, hb⟩
      exact ((bit_setBit_iff grey j hk).1 hb).imp_right fun h => ⟨hk, h⟩
    · rintro (rfl | ⟨hk, hb⟩)
      · exact ⟨hj, (bit_setBit_iff grey k hj).2 (.inl rfl)⟩
      · exact ⟨hk, (bit_setBit_iff grey j hk).2 (.inr hb)⟩
  rw [greys, hset, Finset.card_insert_of_notMem (by simp [hg])]
  rfl

/-! ### visit(j) -/

/-- The turn of visit(j) at junction `k`. -/
def loopTurn (lut : List Byte) (n j : Nat) (grey : Word) (a : Word × Option Nat) (k : Nat) : Word × Option Nat :=
  if a.2.isSome || !bit (loopEdges lut j) k then a
  else if bit grey k then (a.1, some k)
  else if bit a.1 k then a
  else loopVisit lut n k grey a.1

/-- visit(j) before it colours `j`: its turns at the junctions. -/
def loopTurns (lut : List Byte) (n j : Nat) (grey black : Word) : Word × Option Nat :=
  (upTo 64).foldl (loopTurn lut n j grey) (black, none)

theorem loopVisit_succ (n j : Nat) (grey black : Word) : loopVisit lut (n + 1) j grey black =
    if (loopTurns lut n j (setBit grey j) black).2.isSome then loopTurns lut n j (setBit grey j) black
    else (setBit (loopTurns lut n j (setBit grey j) black).1 j, none) := rfl

/-- Every GREY junction leads to `j`. -/
def greyTo (lut : List Byte) (grey : Word) (j : Nat) : Prop := ∀ g < 64, bit grey g = true → Relation.TransGen (loopEdge lut) g j

theorem greyTo_edge {grey : Word} {j k : Nat} (h : greyTo lut grey j) (hjk : loopEdge lut j k) : greyTo lut (setBit grey j) k := by
  intro g hg hb
  rcases (bit_setBit_iff grey j hg).1 hb with rfl | hb
  · exact .single hjk
  · exact .tail (h g hg hb) hjk

/-- A turn of visit(j) at `k`, where a visit of a junction that is neither GREY nor BLACK does right. -/
theorem loopTurn_step {n j : Nat} {grey : Word} (hgrey : ∀ k, loopEdge lut j k → greyTo lut grey k)
    (hvisit : ∀ a, LoopFound lut a → ∀ k < 64, loopEdge lut j k → bit grey k = false →
      LoopStep lut (fun i => i = k) (a.1, none) (loopVisit lut n k grey a.1))
    (a : Word × Option Nat) (ha : LoopFound lut a) (k : Nat) (hk : k < 64) :
    LoopStep lut (fun i => i = k ∧ loopEdge lut j k) a (loopTurn lut n j grey a k) := by
  unfold loopTurn
  split
  next hskip =>
    refine ha.stay fun hn i _ ⟨_, hjk⟩ => ?_
    simp [hn, (bit_loopEdges j hk).2 hjk] at hskip
  next hskip =>
    simp only [Bool.or_eq_true, Bool.not_eq_true', not_or, Bool.not_eq_false, bit_loopEdges j hk, Option.isSome_iff_ne_none, not_not] at hskip
    obtain ⟨hn, hjk⟩ := hskip
    split
    next hg => exact ⟨⟨ha.black, fun i hi => Option.some.inj hi ▸ hgrey k hjk k hk hg⟩, fun _ => id, nofun⟩
    next hg =>
      split
      next hb => exact ha.stay fun _ i _ hi => hi.1 ▸ hb
      next =>
        have h := hvisit a ha k hk hjk (Bool.eq_false_iff.2 hg)
        exact ⟨h.found, h.grows, fun hr => ⟨hn, fun i hi w => (h.clear hr).2 i hi w.1⟩⟩

theorem loopVisit_step (n : Nat) : ∀ (j : Nat) (grey black : Word), j < 64 → bit grey j = false → 65 ≤ n + greys grey →
    greyTo lut grey j → LoopFound lut (black, none) → LoopStep lut (fun i => i = j) (black, none) (loopVisit lut n j grey black) := by
  induction n with
  | zero =>
    intro j grey black _ _ hfuel
    have := greys_le grey
    omega
  | succ n ih =>
    intro j grey black hj hg hfuel hto hblack
    have hcount := greys_setBit hj hg
    have hturns : LoopStep lut (fun k => k ∈ upTo 64 ∧ loopEdge lut j k) (black, none) (loopTurns lut n j (setBit grey j) black) :=
      loopStep_foldl (loopTurn_step (fun k hjk => greyTo_edge hto hjk) fun a ha k hk hjk hgk =>
        ih k _ _ hk hgk (by omega) (greyTo_edge hto hjk) ⟨ha.black, nofun⟩) _ (fun k hk => (mem_upTo 64 k).1 hk) _ hblack
    rw [loopVisit_succ]
    generalize loopTurns lut n j (setBit grey j) black = r at hturns
    split
    next hsome => exact ⟨hturns.found, hturns.grows, fun hn => by simp [hn] at hsome⟩
    next hnone =>
      have hall := (hturns.clear (by simpa using hnone)).2
      have hfree : loopFree lut j := loopFree_of_edges fun k hjk =>
        hturns.found.black k (loopEdge_lt hjk) (hall k (loopEdge_lt hjk) ⟨(mem_upTo 64 k).2 (loopEdge_lt hjk), hjk⟩)
      refine ⟨⟨fun k hk hb => ?_, nofun⟩, fun k hb => bit_setBit_of_bit _ _ _ (hturns.grows k hb), fun _ => ⟨rfl, fun k hk hkj => ?_⟩⟩
      · rcases (bit_setBit_iff r.1 j hk).1 hb with rfl | hb
        · exact hfree
        · exact hturns.found.black k hk hb
      · exact (bit_setBit_iff r.1 j hk).2 (.inl hkj)

/-! ### The search -/

/-- The turn of the search at junction `j`. -/
def loopRoot (lut : List Byte) (a : Word × Option Nat) (j : Nat) : Word × Option Nat :=
  if a.2.isSome || bit a.1 j then a else loopVisit lut 65 j 0 a.1

theorem loopRoot_step (a : Word × Option Nat) (ha : LoopFound lut a) (j : Nat) (hj : j < 64) :
    LoopStep lut (fun i => i = j ∧ True) a (loopRoot lut a j) := by
  unfold loopRoot
  split
  next hskip =>
    refine ha.stay fun hn i _ hi => ?_
    rw [hn] at hskip
    exact hi.1 ▸ hskip
  next hskip =>
    have hvisit := loopVisit_step 65 j 0 a.1 hj (Bool.eq_false_iff.2 (not_bit_zero j)) (by omega)
      (fun g _ hg => absurd hg (not_bit_zero g)) ⟨ha.black, nofun⟩
    have hn : a.2 = none := by simpa using fun h : a.2.isSome = true => hskip (by simp [h])
    exact ⟨hvisit.found, hvisit.grows, fun hr => ⟨hn, fun i hi w => (hvisit.clear hr).2 i hi w.1⟩⟩

theorem loopCheck_step : LoopStep lut (fun k => k ∈ upTo 64 ∧ True) (0, none) ((upTo 64).foldl (loopRoot lut) (0, none)) :=
  loopStep_foldl loopRoot_step _ (fun k hk => (mem_upTo 64 k).1 hk) _ ⟨fun k _ hb => absurd hb (not_bit_zero k), nofun⟩

theorem loopCheck_cycle {j : Nat} (h : loopCheck lut = some j) : Relation.TransGen (loopEdge lut) j j :=
  loopCheck_step.found.cycle j h

theorem loopCheck_free (h : loopCheck lut = none) {j : Nat} (hj : j < 64) : loopFree lut j :=
  loopCheck_step.found.black j hj ((loopCheck_step.clear h).2 j hj ⟨(mem_upTo 64 j).2 hj, trivial⟩)

theorem loopSearch : Clause.LoopSearch := by
  refine fun lut => ⟨⟨fun h j hj => ?_, fun h => ?_⟩, fun j => loopCheck_cycle⟩
  · obtain ⟨i, -, hij⟩ := Relation.TransGen.tail'_iff.1 hj
    exact (loopCheck_free h (loopEdge_lt hij)).not_cycle hj
  · by_contra hne
    obtain ⟨k, hk⟩ := Option.ne_none_iff_exists'.1 hne
    exact h k (loopCheck_cycle hk)

end Sys2Proof.Machine
end

section
/-! The checks of a skein stream's header and sections (R75 to R81, R86). -/

namespace Sys2Proof.Machine

/-! ### The header -/

theorem ite_some_eq_iff {α : Type} (p : Prop) [Decidable p] (a b : α) (o : Option α) :
    (if p then some a else o) = some b ↔ p ∧ b = a ∨ ¬p ∧ o = some b := by
  by_cases h : p <;> simp [h, eq_comm]

variable {h : List Byte} {kind : LoadKind} {mask : BitVec 16} {len : Nat}

theorem directoryBad_iff : directoryBad h kind mask len ↔ 17 < byteAt h 0xC ∨ (directory h).map (·.sect) ≠ sectIds kind mask ∨
    (!(contiguous 512 len (directory h) || contiguous 512 (num h 0x20 8) (directory h))) = true := by
  rw [directoryBad, Bool.not_eq_true', Bool.or_eq_false_iff]

theorem lengthBad_iff : lengthBad h len ↔ num h 0x20 8 ≠ len ∨
    ((directory h).any fun e => decide ((if e.sect = 0 then 256 * 1024 else 4 * 1024 * 1024) + 128 < e.len)) = true := by
  simp [lengthBad]

theorem checkHeader_eq_some {code : Byte} : checkHeader h kind mask len = some code ↔ headerFails h kind mask len code := by
  unfold checkHeader headerFails
  simp only [ite_some_eq_iff, directoryBad_iff, lengthBad_iff, ne_eq, not_not, not_or, and_assoc, reduceCtorEq, and_false, or_false]

theorem checkHeader_eq_none : checkHeader h kind mask len = none ↔ ∀ code, ¬headerFails h kind mask len code := by
  simp only [← checkHeader_eq_some, Option.eq_none_iff_forall_ne_some, ne_eq]

/-! ### The records of a section -/

theorem laneBudget_iff (p : List Byte) : laneBudget p = true ↔ 14400 < ((upTo 24).map fun k => num p (192 + 2 * k) 2).sum := by
  rw [laneBudget, decide_eq_true_eq, List.sum_eq_foldl]

/-- The first failure of the checks on whole records: a required type that is missing, RANGE, LOOP or BUDGET. -/
def recordsCheck (recs : List (Nat × List Byte)) (module : Bool) (classes : List Byte) : Option Failure :=
  match (requiredTypes module).find? fun t => !recs.any (·.1 == t) with
  | some t => some (0x0B, t)
  | none => checkRecords recs classes

theorem recordsFail_iff {recs : List (Nat × List Byte)} {module : Bool} {classes : List Byte} {code : Byte} {detail : Nat} :
    recordsFail recs module classes code detail ↔ recordsCheck recs module classes = some (code, detail) := by
  unfold recordsFail recordsCheck checkRecords
  simp only [exists_and_left, exists_eq_left]
  cases (requiredTypes module).find? fun t => !recs.any (·.1 == t) with
  | some t => simp [eq_comm, and_comm]
  | none =>
    cases (recordTypes true ++ recordTypes false).find? fun t => recs.any (·.1 == t) && !payloadOk recs classes t (payloadOf recs t) with
    | some t => simp [eq_comm, and_comm]
    | none =>
      cases loopCheck (payloadOf recs 0x0203) with
      | some j => simp [eq_comm, and_comm]
      | none =>
        simp only [reduceCtorEq, false_and, true_and, false_or]
        rw [ite_some_eq_iff, laneBudget_iff]
        simp

theorem recordsCheck_none {recs : List (Nat × List Byte)} {module : Bool} {classes : List Byte}
    (h : ∀ k d, ¬recordsFail recs module classes k d) : recordsCheck recs module classes = none := by
  rw [Option.eq_none_iff_forall_ne_some]
  exact fun e he => h e.1 e.2 (recordsFail_iff.2 he)

/-! ### A section -/

/-- What is left of a section's checks once its records have been told apart. -/
def sectionRecords (recs : List (Nat × List Byte)) (module : Bool) (classes : List Byte) : Except Failure (List (Nat × List Byte)) :=
  match recordsCheck recs module classes with
  | some e => .error e
  | none => .ok recs

/-- What is left of a section's checks once its header has passed. -/
def sectionBody (body : List Byte) (module : Bool) (classes : List Byte) : Except Failure (List (Nat × List Byte)) :=
  match parseRecords module (body.length + 1) body [] with
  | .error e => .error e
  | .ok recs => sectionRecords recs module (if module then payloadOf recs 0x0101 else classes)

variable {sec : List Byte} {module : Bool} {id : Nat} {bind classes : List Byte}

/-- The checks of a section in their order, the last of them on its body. -/
theorem checkSection_eq : checkSection sec module id bind classes =
    if byteAt sec 1 ≠ 0x21 then .error (0x03, 0)
    else if num sec 8 8 ≠ (sec.drop 128).length ∨ (if module then 262144 else 4194304) < (sec.drop 128).length then .error (0x06, 0)
    else if num sec 0x20 4 ≠ (crc32 (sec.drop 128)).toNat then .error (0x07, 0)
    else if slice sec 0x40 32 ≠ sha256 (slice sec 0 0x40 ++ sec.drop 128) then .error (0x08, 0)
    else if num sec 0x10 8 ≠ id then .error (0x09, 0)
    else if !module && slice sec 0x18 8 != bind then .error (0x0A, 0)
    else sectionBody (sec.drop 128) module classes := by
  simp only [checkSection, sectionBody, sectionRecords, recordsCheck, sectionDigest, Nat.reduceMul]
  cases parseRecords module ((sec.drop 128).length + 1) (sec.drop 128) [] with
  | error e => rfl
  | ok recs =>
    dsimp only
    cases (requiredTypes module).find? fun t => !recs.any (·.1 == t) with
    | some t => rfl
    | none => rfl

theorem sectionBody_error {body : List Byte} {f : Failure} (h : parseRecords module (body.length + 1) body [] = .error f) :
    sectionBody body module classes = .error f := by
  rw [sectionBody, h]

theorem sectionBody_ok {body : List Byte} {recs : List (Nat × List Byte)} (h : parseRecords module (body.length + 1) body [] = .ok recs) :
    sectionBody body module classes = sectionRecords recs module (if module then payloadOf recs 0x0101 else classes) := by
  rw [sectionBody, h]

theorem sectionRecords_error {recs : List (Nat × List Byte)} {code : Byte} {detail : Nat}
    (h : recordsFail recs module classes code detail) : sectionRecords recs module classes = .error (code, detail) := by
  rw [sectionRecords, recordsFail_iff.1 h]

theorem sectionRecords_ok {recs : List (Nat × List Byte)} (h : ∀ k d, ¬recordsFail recs module classes k d) :
    sectionRecords recs module classes = .ok recs := by
  rw [sectionRecords, recordsCheck_none h]

/-! ### The records of a body (R78) -/

/-- A record that a section may not hold, or not again, or that is not whole. -/
theorem parseRecords_bad {n : Nat} {body : List Byte} {acc : List (Nat × List Byte)} (hne : body ≠ [])
    (h : num body 0 2 ∉ recordTypes module ∨ byteAt body 2 ≠ 1 ∨ body.length < 8 + num body 4 4 ∨ ∃ r ∈ acc, r.1 = num body 0 2) :
    parseRecords module (n + 1) body acc = .error (0x0B, num body 0 2) := by
  rw [parseRecords, if_neg (by simpa using hne)]
  exact if_pos (by simpa [or_assoc] using h)

theorem parseRecords_next {n : Nat} {body : List Byte} {acc : List (Nat × List Byte)} (hne : body ≠ [])
    (htyp : num body 0 2 ∈ recordTypes module) (hver : byteAt body 2 = 1) (hlen : 8 + num body 4 4 ≤ body.length)
    (hnew : ∀ r ∈ acc, r.1 ≠ num body 0 2) :
    parseRecords module (n + 1) body acc = parseRecords module n (body.drop (8 + (num body 4 4 + 7) / 8 * 8))
      (acc ++ [(num body 0 2, slice body 8 (num body 4 4))]) := by
  have hfresh : acc.any (·.1 == num body 0 2) = false := List.any_eq_false.2 fun r hr => by simpa using hnew r hr
  rw [parseRecords, if_neg (by simpa using hne), if_neg (by simp [htyp, hver, hlen, hfresh])]
  rfl

theorem sectionChecks : Clause.SectionChecks := by
  refine ⟨fun sec module id bind classes body cls code detail hbody => ?_, fun module n body acc hne =>
    ⟨parseRecords_bad hne, parseRecords_next hne⟩⟩
  subst hbody
  simp only [checkSection_eq]
  refine ⟨fun hstep => if_pos hstep, fun hstep hlen => ?_, fun hstep hlen hmax => ?_⟩
  · rw [if_neg (not_not.2 hstep), if_pos hlen]
  rw [if_neg (not_not.2 hstep), if_neg (not_or.2 ⟨not_not.2 hlen, Nat.not_lt.2 hmax⟩)]
  refine ⟨fun hcrc => if_pos hcrc, fun hcrc => ?_⟩
  rw [if_neg (not_not.2 hcrc)]
  refine ⟨fun hdig => if_pos hdig, fun hdig => ?_⟩
  rw [if_neg (not_not.2 hdig)]
  refine ⟨fun hid => if_pos hid, fun hid hm hbind => ?_, fun hid hbind => ?_⟩
  · rw [if_neg (not_not.2 hid), if_pos (by simpa [hm] using hbind)]
  rw [if_neg (not_not.2 hid), if_neg (by rcases hbind with h | h <;> simp [h])]
  refine ⟨fun hparse => sectionBody_error hparse, fun recs hparse hcls => ?_⟩
  rw [sectionBody_ok hparse, ← hcls]
  exact ⟨sectionRecords_error, sectionRecords_ok⟩

end Sys2Proof.Machine
end

section
/-! The words of a skein stream, the sections that they complete, and the end of the stream (R85 to R88, R94). -/

namespace Sys2Proof.Machine

variable {s : State} {l : Load}

/-! ### Words (R85) -/

theorem exec_sknData (t : Tbu) (w : Word) (hp : s.portUp = true) : exec (.sknData t w) s = .next ((s.atTime t).sknData w) :=
  congrArg Host.Outcome.next (State.ifPort_pos _ hp)

theorem State.sknData_stray (w : Word) (h : ∀ l, s.skn.load = some l → l.complete = true) :
    s.sknData w = { s with skn := { s.skn with events := evSet s.skn.events SknEv.stray } } := by
  unfold State.sknData
  cases hl : s.skn.load with
  | none => rfl
  | some l => exact if_pos (h l hl)

/-- A section that the received bytes complete is checked, unless the stream is refused as a whole. -/
def State.sectionChecked (s : State) (l : Load) : State :=
  match l.dir.find? fun e => e.offset + e.len == 8 * l.received with
  | some e => if l.fatal.isNone then s.sectionDone l e else s
  | none => s

/-- The header that the received bytes complete is checked. -/
def State.headerChecked (s : State) (l : Load) : State :=
  if 8 * l.received = 512 then ({ s with skn := { s.skn with phase := 2 } } : State).headerDone l else s

theorem State.sknData_eq (w : Word) (h : s.skn.load = some l) (hc : l.complete = false) : s.sknData w =
    let r := withWord l s.now w
    let u := ((withLoad s r).headerChecked r).sectionChecked r
    if 8 * (l.received + 1) = l.length then u.streamDone else u := by
  unfold State.sknData
  rw [h]
  exact if_neg (by simp [hc])

theorem State.headerChecked_other (h : 8 * l.received ≠ 512) : s.headerChecked l = s := if_neg h

/-- A word after the header. -/
theorem State.sknData_section (w : Word) (h : s.skn.load = some l) (hc : l.complete = false) (hn : 8 * (l.received + 1) ≠ 512) :
    s.sknData w = if 8 * (l.received + 1) = l.length then ((withLoad s (withWord l s.now w)).sectionChecked (withWord l s.now w)).streamDone
      else (withLoad s (withWord l s.now w)).sectionChecked (withWord l s.now w) := by
  have hr : 8 * (withWord l s.now w).received ≠ 512 := hn
  rw [State.sknData_eq w h hc]
  simp only [State.headerChecked_other hr]

theorem State.sectionChecked_fatal (h : l.fatal ≠ none) : s.sectionChecked l = s := by
  unfold State.sectionChecked
  cases l.dir.find? fun e => e.offset + e.len == 8 * l.received with
  | none => rfl
  | some e => exact if_neg (by simpa using h)

theorem State.sectionChecked_none (h : ∀ e ∈ l.dir, e.offset + e.len ≠ 8 * l.received) : s.sectionChecked l = s := by
  have hnone : (l.dir.find? fun e => e.offset + e.len == 8 * l.received) = none := List.find?_eq_none.2 fun e he => by simpa using h e he
  rw [State.sectionChecked, hnone]

theorem State.sectionChecked_some {e : DirEntry} (hf : l.fatal = none)
    (h : (l.dir.find? fun e => e.offset + e.len == 8 * l.received) = some e) : s.sectionChecked l = s.sectionDone l e := by
  rw [State.sectionChecked, h]
  exact if_pos (by rw [hf]; rfl)

theorem streamWord : Clause.StreamWord := by
  intro t w s
  refine ⟨fun hp => congrArg Host.Outcome.next (State.ifPort_neg _ hp), fun hp => ⟨fun hl => ?_, fun l hl hc hhdr hlast hsec => ?_⟩⟩
  · exact (exec_sknData t w hp).trans (congrArg Host.Outcome.next (State.sknData_stray w hl))
  · rw [exec_sknData t w hp, State.sknData_section (s := s.atTime t) w hl hc hhdr, if_neg hlast]
    rcases hsec with hf | hdir
    · exact congrArg Host.Outcome.next (State.sectionChecked_fatal hf)
    · exact congrArg Host.Outcome.next (State.sectionChecked_none hdir)

/-! ### The header (R86) -/

/-- The load once its header or its module section has been refused. -/
def Load.refuse (l : Load) (reason : Byte) (sect detail : Nat) : Load :=
  { l with anyRefused := true, fatal := some { reason := reason, sect := BitVec.ofNat 8 sect, detail := BitVec.ofNat 16 detail } }

theorem State.sknFatal_eq (h : s.skn.load = some l) (reason : Byte) {sect : Nat} (hs : sect < 256) (detail : Nat) :
    s.sknFatal { reason := reason, sect := BitVec.ofNat 8 sect, detail := BitVec.ofNat 16 detail } =
      { s with skn := { s.skn with result := firstRefusal s.skn.result detail sect reason, load := some (l.refuse reason sect detail) } } := by
  unfold State.sknFatal
  rw [s.sknRefuse_eq reason hs detail, Skn.refuse, h]
  rfl

theorem State.modLoad_eq (h : s.skn.load = some l) (f : Load → Load) :
    s.modLoad f = { s with skn := { s.skn with load := some (f l) } } := by
  rw [State.modLoad, h, Option.map_some]

/-- What the header's checks answer. -/
def Load.headerCheck (l : Load) : Option Byte := checkHeader l.bytes l.kind (if l.kind = .whole then 0 else l.mask) l.length

theorem State.headerDone_fails {code : Byte} (h : s.skn.load = some l) (hcode : l.headerCheck = some code) : s.headerDone l =
    { s with skn := { s.skn with result := firstRefusal s.skn.result 0 0xFF code, load := some (l.refuse code 0xFF 0) } } := by
  unfold Load.headerCheck at hcode
  unfold State.headerDone
  dsimp only
  rw [hcode]
  exact State.sknFatal_eq h code (by decide) 0

theorem State.headerDone_passes (h : s.skn.load = some l) (hnone : l.headerCheck = none) : s.headerDone l =
    { s with skn := { s.skn with load := some { l with hdrPassed := true, dir := directory l.bytes } } } := by
  unfold Load.headerCheck at hnone
  unfold State.headerDone
  dsimp only
  rw [hnone]
  exact State.modLoad_eq h _

/-- The word that completes the header. -/
theorem State.sknData_header (w : Word) (h : s.skn.load = some l) (hc : l.complete = false) (hn : l.received = 63) (hd : l.dir = [])
    (hlen : l.length ≠ 512) : s.sknData w =
      ({ s with skn := { s.skn with phase := 2, received := 64, load := some (withWord l s.now w) } } : State).headerDone
        (withWord l s.now w) := by
  have hdir : ∀ e ∈ (withWord l s.now w).dir, e.offset + e.len ≠ 8 * (withWord l s.now w).received := by simp [withWord, hd]
  have hr : 8 * (withWord l s.now w).received = 512 := by simp [withWord, hn]
  have hlast : 8 * (l.received + 1) ≠ l.length := by rw [hn]; exact hlen.symm
  rw [State.sknData_eq w h hc]
  simp only [State.sectionChecked_none hdir, if_neg hlast, State.headerChecked, if_pos hr, withLoad]
  rw [show (withWord l s.now w).received = 64 from congrArg (· + 1) hn]
  rfl

theorem headerChecked : Clause.HeaderChecked := by
  intro t w s l r mask hp hl hc hn hd hlen hr hmask
  subst hr hmask
  rw [exec_sknData t w hp, State.sknData_header (s := s.atTime t) w hl hc hn hd hlen]
  refine ⟨fun code hfails => ?_, fun hpasses => ?_⟩
  · exact congrArg Host.Outcome.next (State.headerDone_fails rfl (checkHeader_eq_some.2 hfails))
  · exact congrArg Host.Outcome.next (State.headerDone_passes rfl (checkHeader_eq_none.2 hpasses))

/-! ### Sections (R86, R87) -/

/-- The bytes of the section that directory entry `e` names. -/
def Load.sectionBytes (l : Load) (e : DirEntry) : List Byte := slice l.bytes e.offset e.len

/-- What the checks of the section of `e` answer. -/
def State.sectionCheck (s : State) (l : Load) (e : DirEntry) : Except Failure (List (Nat × List Byte)) :=
  checkSection (l.sectionBytes e) (e.sect == 0) (num l.bytes 0x10 8) (slice (s.bindImage l).digest 0 8) (s.bindImage l).classes

/-- The image of channel section `e`, whose records are `recs`. -/
def Load.channelImage (l : Load) (e : DirEntry) (recs : List (Nat × List Byte)) : ChImage :=
  Machine.channelImage recs (num l.bytes 0x10 8) (slice (l.sectionBytes e) 0x40 32)

/-- The image of module section `e`, whose records are `recs`. -/
def Load.moduleImage (l : Load) (e : DirEntry) (recs : List (Nat × List Byte)) : ModImage :=
  Machine.moduleImage recs (num l.bytes 0x10 8) (slice (l.sectionBytes e) 0x40 32) (num l.bytes 0x18 4)

/-- What follows from the answer of the checks of a section. -/
theorem State.sectionDone_eq (s : State) (l : Load) (e : DirEntry) : s.sectionDone l e =
    match s.sectionCheck l e with
    | .ok recs =>
      if e.sect = 0 then s.modLoad fun x => { x with modImage := some (l.moduleImage e recs) }
      else s.modLoad fun x => { x with chImages := x.chImages ++ [(Fin.ofNat 16 (e.sect - 0x10), l.channelImage e recs)] }
    | .error f =>
      if e.sect = 0 then s.sknFatal { reason := f.1, sect := 0, detail := BitVec.ofNat 16 f.2 }
      else s.refuseChannel (Fin.ofNat 16 (e.sect - 0x10)) f.1 f.2 := rfl

section
variable {e : DirEntry} {c : ChanId} {recs : List (Nat × List Byte)} {code : Byte} {detail : Nat}

theorem State.sectionDone_module_passes (h : s.skn.load = some l) (he : e.sect = 0) (hok : s.sectionCheck l e = .ok recs) :
    s.sectionDone l e = { s with skn := { s.skn with load := some { l with modImage := some (l.moduleImage e recs) } } } := by
  rw [State.sectionDone_eq, hok]
  exact (if_pos he).trans (State.modLoad_eq h _)

theorem State.sectionDone_module_fails (h : s.skn.load = some l) (he : e.sect = 0) (herr : s.sectionCheck l e = .error (code, detail)) :
    s.sectionDone l e =
      { s with skn := { s.skn with result := firstRefusal s.skn.result detail 0 code, load := some (l.refuse code 0 detail) } } := by
  rw [State.sectionDone_eq, herr]
  exact (if_pos he).trans (State.sknFatal_eq h code (by decide) detail)

theorem channel_of_sect (he : e.sect = 0x10 + c.val) : e.sect ≠ 0 ∧ Fin.ofNat 16 (e.sect - 0x10) = c := by
  refine ⟨by omega, Fin.ext ?_⟩
  rw [he, Nat.add_sub_cancel_left]
  exact Nat.mod_eq_of_lt c.isLt

/-- The load once channel section `e`, of channel `c`, has passed. -/
def Load.passChannel (l : Load) (c : ChanId) (e : DirEntry) (recs : List (Nat × List Byte)) : Load :=
  { l with chImages := l.chImages ++ [(c, l.channelImage e recs)] }

theorem State.sectionDone_channel_passes (h : s.skn.load = some l) (he : e.sect = 0x10 + c.val) (hok : s.sectionCheck l e = .ok recs) :
    s.sectionDone l e = { s with skn := { s.skn with load := some (l.passChannel c e recs) } } := by
  obtain ⟨h0, hc⟩ := channel_of_sect he
  rw [State.sectionDone_eq, hok]
  dsimp only
  rw [if_neg h0, hc]
  exact State.modLoad_eq h _

theorem State.sectionDone_channel_fails (he : e.sect = 0x10 + c.val) (herr : s.sectionCheck l e = .error (code, detail)) :
    s.sectionDone l e = s.refuseChannel c code detail := by
  obtain ⟨h0, hc⟩ := channel_of_sect he
  rw [State.sectionDone_eq, herr]
  dsimp only
  rw [if_neg h0, hc]

end

/-! ### The end of the stream (R87, R88) -/

/-- The state once the load is complete: the last byte has been received. -/
def State.completed (s : State) (l : Load) : State := { s with skn := { s.skn with load := some { l with complete := true } } }

/-- The SKN block's PHASE becomes `p`. -/
def State.inPhase (s : State) (p : BitVec 3) : State := { s with skn := { s.skn with phase := p } }

theorem State.streamDone_eq (h : s.skn.load = some l) : s.streamDone =
    match l.fatal with
    | some f => (s.completed l).loadFail f.reason false
    | none => if l.kind = .whole then (s.completed l).inPhase 3 else (s.completed l).applyBegin := by
  unfold State.streamDone
  rw [State.modLoad_eq h]
  rfl

theorem State.streamDone_fatal {f : SknRefusal} (h : s.skn.load = some l) (hf : l.fatal = some f) :
    s.streamDone = (s.completed l).loadFail f.reason false := by
  rw [State.streamDone_eq h, hf]

theorem State.streamDone_whole (h : s.skn.load = some l) (hf : l.fatal = none) (hk : l.kind = .whole) :
    s.streamDone = (s.completed l).inPhase 3 := by
  rw [State.streamDone_eq h, hf]
  exact if_pos hk

theorem State.streamDone_channel (h : s.skn.load = some l) (hf : l.fatal = none) (hk : l.kind = .channel) :
    s.streamDone = (((s.completed l).inPhase 4).applyPass l.chImages).loadDone := by
  rw [State.streamDone_eq h, hf]
  exact (if_neg (by simp [hk])).trans (State.applyBegin_eq (l := { l with complete := true }) rfl)

/-- The state once a word of a WHOLE stream, or one that is not its last, has had its effect: where it is the `last` one, the load is
complete and PHASE is 3. -/
def State.wordDone (s : State) (l : Load) (last : Bool) : State :=
  { s with skn := { s.skn with phase := if last then 3 else s.skn.phase, load := some { l with complete := last } } }

theorem State.streamDone_if (h : s.skn.load = some l) (hf : l.fatal = none) (hc : l.complete = false) (p : Prop) [Decidable p]
    (hk : decide p = false ∨ l.kind = .whole) : (if p then s.streamDone else s) = s.wordDone l (decide p) := by
  by_cases hp : p
  · rw [if_pos hp, State.streamDone_whole h hf (hk.resolve_left (by simp [hp])), decide_eq_true hp]
    rfl
  · have hl : s.skn.load = some { l with complete := false } := by rw [h, ← hc]
    rw [if_neg hp, decide_eq_false hp, State.wordDone, ← hl]
    rfl

/-- The word that completes section `e` of a stream not refused as a whole. -/
theorem State.sknData_sectionDone {e : DirEntry} (w : Word) (h : s.skn.load = some l) (hc : l.complete = false) (hf : l.fatal = none)
    (hn : 8 * (l.received + 1) ≠ 512) (he : (l.dir.find? fun e => e.offset + e.len == 8 * (l.received + 1)) = some e) :
    s.sknData w =
      if 8 * (l.received + 1) = l.length then ((withLoad s (withWord l s.now w)).sectionDone (withWord l s.now w) e).streamDone
      else (withLoad s (withWord l s.now w)).sectionDone (withWord l s.now w) e := by
  rw [State.sknData_section w h hc hn, State.sectionChecked_some (l := withWord l s.now w) hf he]

theorem sectionArrived : Clause.SectionArrived := by
  intro t w s l r e sec checked img last hp hl hc hf hn he hr hlast hkind hsec himg hchecked
  subst hsec himg hlast
  have hrf : r.fatal = none := hr ▸ hf
  have hrc : r.complete = false := hr ▸ hc
  have hrk : decide (8 * (l.received + 1) = l.length) = false ∨ r.kind = .whole := hr ▸ hkind
  have hcheck : checked = (withLoad (s.atTime t) r).sectionCheck r e := by
    subst hr
    exact hchecked
  rw [exec_sknData t w hp, State.sknData_sectionDone (s := s.atTime t) w hl hc hf hn he, State.atTime_now, ← hr]
  refine ⟨fun h0 hopen => ?_, fun c hsect => ?_⟩
  · rw [if_neg (of_decide_eq_false hopen)]
    exact ⟨fun recs hok => congrArg Host.Outcome.next (State.sectionDone_module_passes rfl h0 (hcheck.symm.trans hok)),
      fun code detail herr => congrArg Host.Outcome.next (State.sectionDone_module_fails rfl h0 (hcheck.symm.trans herr))⟩
  refine ⟨fun recs hok => ?_, fun code detail herr => ?_⟩
  · rw [State.sectionDone_channel_passes rfl hsect (hcheck.symm.trans hok), State.streamDone_if (l := r.passChannel c e recs) rfl hrf hrc _ hrk]
    subst hr
    rfl
  · have hkeeps := (withLoad (s.atTime t) r).keeps_refuseChannel c code detail
    have hself := (withLoad (s.atTime t) r).refuseChannel_self c code detail
    have hskn := (withLoad (s.atTime t) r).refuseChannel_skn c code detail
    rw [State.sectionDone_channel_fails hsect (hcheck.symm.trans herr)]
    generalize (withLoad (s.atTime t) r).refuseChannel c code detail = u at hkeeps hself hskn ⊢
    rw [State.streamDone_if (l := r.refuseChannel c) (by rw [hskn]; rfl) hrf hrc _ hrk]
    refine ⟨_, rfl, hkeeps.sameCreels_of rfl, fun d hd => hkeeps.other d hd, (hkeeps.mode rfl).1, hself.1, hself.2.1, ?_⟩
    rw [State.wordDone, hskn]
    subst hr
    rfl

/-! ### A load that fails as a whole (R87, R94) -/

/-- The module in QUARANTINE with the reason of a WHOLE load that failed. -/
def State.quarantined (s : State) (r : Byte) : State := ({ s with mod := { s.mod with qReason := r } } : State).setMode .quarantine

theorem State.loadFail_eq (h : s.skn.load = some l) (r : Byte) : s.loadFail r false =
    { (if l.kind = .whole then (s.unconfigureAll l.mask r).quarantined r else s.unconfigureAll l.mask r) with skn := s.skn.ended l } := by
  have hskn : (s.unconfigureAll l.mask r).skn = s.skn := (s.keeps_unconfigureAll l.mask r).skn rfl
  have hload : (s.unconfigureAll l.mask r).skn.load = some l := by rw [hskn, h]
  unfold State.loadFail
  rw [h]
  by_cases hk : l.kind = .whole
  · simp only [hk, Bool.not_false, and_self, if_true]
    refine (State.loadEnd_eq (s := (s.unconfigureAll l.mask r).quarantined r) hload).trans ?_
    rw [State.quarantined, State.setMode_skn, hskn]
  · simp only [hk, false_and, if_false]
    refine (State.loadEnd_eq (s := s.unconfigureAll l.mask r) hload).trans ?_
    rw [hskn]

/-- What a load that fails as a whole leaves behind. -/
theorem State.loadFail_spec (h : s.skn.load = some l) (r : Byte) :
    State.Keeps { Effects.refusing with mode := true } (fun _ => True) Eq s (s.loadFail r false) ∧
      (s.loadFail r false).skn = s.skn.ended l ∧
      (l.kind = .whole → (s.loadFail r false).mod.mode = .quarantine ∧ (s.loadFail r false).mod.qReason = r) ∧
      (l.kind = .channel → (s.loadFail r false).mod.mode = s.mod.mode ∧ (s.loadFail r false).mod.qReason = s.mod.qReason) ∧
      ∀ d : ChanId, (bit l.mask d.val = true → ((s.loadFail r false).ch d).skn.state = .unconfigured ∧
          ((s.loadFail r false).ch d).skn.reason = r) ∧
        (bit l.mask d.val = false → (s.loadFail r false).ch d = s.ch d) := by
  refine ⟨(State.Keeps.refl _ _ s).loadFail r false rfl rfl rfl rfl rfl fun _ => trivial, ?_⟩
  rw [State.loadFail_eq h]
  refine ⟨rfl, fun hk => ?_, fun hk => ?_, fun d => ?_⟩
  · rw [if_pos hk]
    exact ⟨rfl, rfl⟩
  · rw [if_neg (by simp [hk])]
    exact ⟨((s.keeps_unconfigureAll l.mask r).mode rfl).1, s.unconfigureAll_qReason l.mask r⟩
  · have hch : (if l.kind = .whole then (s.unconfigureAll l.mask r).quarantined r else s.unconfigureAll l.mask r).ch d =
        (s.unconfigureAll l.mask r).ch d := by
      split <;> rfl
    refine ⟨fun hd => ?_, fun hd => hch.trans (s.unconfigureAll_other r hd)⟩
    obtain ⟨hstate, hreason, -⟩ := s.unconfigureAll_refused r hd
    exact ⟨(congrArg (fun x => x.skn.state) hch).trans hstate, (congrArg (fun x => x.skn.reason) hch).trans hreason⟩

theorem refusedStreamEnds : Clause.RefusedStreamEnds := by
  intro t w s l f hp hl hc hf ha hn hlast
  rw [exec_sknData t w hp, State.sknData_section (s := s.atTime t) w hl hc hn, if_pos hlast,
    State.sectionChecked_fatal (l := withWord l (s.atTime t).now w) (by simp [withWord, hf]),
    State.streamDone_fatal (l := withWord l (s.atTime t).now w) rfl hf]
  obtain ⟨hkeeps, hskn, hwhole, hchannel, hch⟩ := State.loadFail_spec (l := { withWord l (s.atTime t).now w with complete := true })
    (s := (withLoad (s.atTime t) (withWord l (s.atTime t).now w)).completed (withWord l (s.atTime t).now w)) rfl f.reason
  refine ⟨_, rfl, hkeeps.sameCreels_of rfl, ?_, ?_, ?_, ?_, ?_, hwhole, fun hk => (hchannel hk).1, hch⟩
  · rw [hskn]; rfl
  · rw [hskn]; exact if_pos ha
  · rw [hskn]; exact (bit_done_ended ha).1
  · rw [hskn]; exact (bit_done_ended ha).2
  · rw [hskn]; rfl

/-! ### A stream that is broken off (R94) -/

/-- What an ABORT, or a wait that is over, leaves behind. -/
theorem State.loadAbort_eq (h : s.skn.load = some l) (detail : Nat) : s.loadAbort 0x10 (BitVec.ofNat 16 detail) =
    State.loadFail { s with skn := s.skn.refuse detail 0xFF 0x10 } 0x10 false := by
  unfold State.loadAbort
  rw [if_pos (by simp [h]), show (0xFF : BitVec 8) = BitVec.ofNat 8 0xFF from rfl, s.sknRefuse_eq 0x10 (by decide) detail]
  rfl

theorem exec_loadDataTimeout (t : Tbu) (h : s.skn.load = some l) : exec (.loadDataTimeout t) s =
    .next (if l.complete = false ∧ l.wordAt + 10000 * ms ≤ max s.now t then (s.atTime t).loadAbort 0x10 1 else s.atTime t) := by
  have hiff : ((s.atTime t).skn.load.any fun l => !l.complete && decide (l.wordAt + wordLimit ≤ (s.atTime t).now)) = true ↔
      l.complete = false ∧ l.wordAt + 10000 * ms ≤ max s.now t := by
    simp [h, wordLimit]
  exact congrArg Host.Outcome.next (if_congr hiff rfl rfl)

theorem State.loadAbort_none (h : s.skn.load = none) (r : Byte) (detail : BitVec 16) : s.loadAbort r detail = s := if_neg (by simp [h])

/-- Without a load, an ABORT and a wait that ends do nothing. -/
theorem exec_abort_none (t : Tbu) (h : s.skn.load = none) :
    exec (.sknAbort t) s = .next (s.atTime t) ∧ exec (.loadDataTimeout t) s = .next (s.atTime t) := by
  refine ⟨?_, congrArg Host.Outcome.next (if_neg (by simp [h]))⟩
  show Host.Outcome.next ((s.atTime t).ifPort fun s => s.loadAbort 0x10 0) = _
  cases hp : (s.atTime t).portUp with
  | false => rw [State.ifPort_neg _ hp]
  | true => rw [State.ifPort_pos _ hp, State.loadAbort_none (s := s.atTime t) h]

theorem firstRefusal_first {old : Word} (h : fld old 0 8 = 0) {detail : Nat} (hd : detail < 65536) (sect : Nat) (reason : Byte) :
    firstRefusal old detail sect reason = pack [(detail, 16), (sect, 8), (reason.toNat, 0)] := by
  rw [firstRefusal, if_pos h, Nat.mod_eq_of_lt hd]

theorem streamAborted : Clause.StreamAborted := by
  intro t s
  refine ⟨exec_abort_none t, fun hp => congrArg Host.Outcome.next (State.ifPort_neg _ hp),
    fun l hl => ⟨fun hwait => ?_, fun c detail hcase => ?_⟩⟩
  · rw [exec_loadDataTimeout t hl, if_neg]
    rintro ⟨hc, hw⟩
    rcases hwait with h | h
    · simp [hc] at h
    · exact absurd hw (Nat.not_le.2 h)
  have hexec : detail < 65536 ∧ exec c s = .next ((s.atTime t).loadAbort 0x10 (BitVec.ofNat 16 detail)) := by
    rcases hcase with ⟨rfl, rfl, hp⟩ | ⟨rfl, rfl, hc, hw⟩
    · exact ⟨by decide, congrArg Host.Outcome.next (State.ifPort_pos _ hp)⟩
    · exact ⟨by decide, (exec_loadDataTimeout t hl).trans (congrArg Host.Outcome.next (if_pos ⟨hc, hw⟩))⟩
  have hload : ((s.atTime t).skn.refuse detail 0xFF 0x10).load = some { l with anyRefused := true } := by
    rw [Skn.refuse, State.atTime_skn, hl, Option.map_some]
  obtain ⟨hkeeps, hskn, hwhole, hchannel, hch⟩ :=
    State.loadFail_spec (s := { s.atTime t with skn := (s.atTime t).skn.refuse detail 0xFF 0x10 }) hload 0x10
  rw [hexec.2, State.loadAbort_eq (s := s.atTime t) hl]
  refine ⟨_, rfl, hkeeps.sameCreels_of rfl, ?_, ?_, ?_, ?_, fun hres => ?_, hwhole, hchannel, ?_, hkeeps.trk rfl, hkeeps.tlh rfl, hch⟩
  · rw [hskn]; rfl
  · rw [hskn]; rfl
  · rw [hskn]; exact (bit_done_ended rfl).1
  · rw [hskn]; exact (bit_done_ended rfl).2
  · rw [hskn]
    exact firstRefusal_first hres hexec.1 0xFF 0x10
  · rw [hskn]; rfl

/-! ### The apply of a CHANNEL stream begins (R88) -/

/-- The state in which the apply of a CHANNEL load begins. -/
def State.begun (s : State) (l : Load) : State := ((s.completed l).inPhase 4).applyPass l.chImages

theorem State.begun_skn (s : State) (l : Load) :
    (s.begun l).skn = { s.skn with phase := 4, load := some { l with complete := true } } := by
  rw [State.begun, State.applyPass_eq]
  rfl

theorem State.begun_ch (s : State) (l : Load) (d : ChanId) :
    (s.begun l).ch d = if ∃ x ∈ l.chImages, x.1 = d then (s.ch d).applying else s.ch d :=
  State.applyPass_ch _ _ d

theorem State.begun_loadDone_open (s : State) {l : Load} (h : l.resolved ≠ l.mask) : (s.begun l).loadDone = s.begun l :=
  State.loadDone_open (l := { l with complete := true }) (by rw [State.begun_skn]) (by simp [Load.finished, h])

theorem State.begun_mod (s : State) (l : Load) : (s.begun l).mod = s.mod := by
  rw [State.begun, State.applyPass_eq]
  rfl

theorem State.begun_not_woundDue (s : State) (hk : l.kind = .channel) : ¬(s.begun l).woundDue := by
  rintro ⟨x, hx, hwhole, -⟩
  rw [State.begun_skn] at hx
  cases hx
  rw [hk] at hwhole
  cases hwhole

theorem State.begun_loadDone_finished (s : State) {l : Load} (hk : l.kind = .channel) (h : l.resolved = l.mask) :
    (s.begun l).loadDone.skn = (s.begun l).skn.ended { l with complete := true } :=
  State.loadDone_skn (by rw [State.begun_skn]) (by simp [Load.finished, hk, h])

theorem State.begun_loadDone_ch (s : State) {l : Load} (hk : l.kind = .channel) (d : ChanId) :
    (s.begun l).loadDone.ch d = if ∃ x ∈ l.chImages, x.1 = d then (s.ch d).applying else s.ch d :=
  (State.loadDone_ch_same (.inl (s.begun_not_woundDue hk))).trans (s.begun_ch l d)

theorem State.begun_loadDone_sameCreels (s : State) {l : Load} (hk : l.kind = .channel) : s.sameCreels (s.begun l).loadDone := fun d a => by
  have hdata : ((s.begun l).loadDone.ch d).mem = (s.ch d).mem := by
    rw [s.begun_loadDone_ch hk]
    split <;> rfl
  rw [State.creelByte, State.creelByte, hdata]

theorem State.begun_loadDone_mode (s : State) {l : Load} (hk : l.kind = .channel) : (s.begun l).loadDone.mod.mode = s.mod.mode :=
  (congrArg (fun u => u.mod.mode) (State.loadDone_eq (s.begun_not_woundDue hk))).trans (congrArg ModBlk.mode (s.begun_mod l))

theorem sectionsBegin : Clause.SectionsBegin := by
  intro t w s l r e c checked hp hl hc hf hk hn hlast he hsect hr hchecked
  have hrf : r.fatal = none := hr ▸ hf
  have hrk : r.kind = .channel := hr ▸ hk
  have hcheck : checked = (withLoad (s.atTime t) r).sectionCheck r e := by
    have hchannel : (e.sect == 0) = false := by simp [hsect]
    rw [hchecked, State.sectionCheck, State.bindImage, if_neg (by simp [hrk]), hchannel]
    rfl
  rw [exec_sknData t w hp, State.sknData_sectionDone (s := s.atTime t) w hl hc hf hn (hlast ▸ he), State.atTime_now, ← hr, if_pos hlast]
  refine ⟨fun recs hok hopen => ?_, fun code detail herr => ?_⟩
  · have hopen' : (r.passChannel c e recs).resolved ≠ (r.passChannel c e recs).mask := hr ▸ hopen
    rw [State.sectionDone_channel_passes rfl hsect (hcheck.symm.trans hok),
      State.streamDone_channel (l := r.passChannel c e recs) rfl hrf hrk]
    refine ⟨_, rfl, ?_⟩
    rw [← State.begun, State.begun_loadDone_open _ hopen']
    refine ⟨?_, ?_, fun d => ?_⟩
    · rw [State.begun, State.applyPass_eq]
      rfl
    · rw [State.begun_skn]
      subst hr
      rfl
    · have hmem : (∃ x ∈ (r.passChannel c e recs).chImages, x.1 = d) ↔ d = c ∨ ∃ x ∈ l.chImages, x.1 = d := by
        simp [Load.passChannel, hr, withWord, or_and_right, exists_or, or_comm, eq_comm]
      rw [State.begun_ch]
      exact if_congr hmem rfl rfl
  · have hkeeps := (withLoad (s.atTime t) r).keeps_refuseChannel c code detail
    have hself := (withLoad (s.atTime t) r).refuseChannel_self c code detail
    have hskn := (withLoad (s.atTime t) r).refuseChannel_skn c code detail
    rw [State.sectionDone_channel_fails hsect (hcheck.symm.trans herr)]
    generalize (withLoad (s.atTime t) r).refuseChannel c code detail = v at hkeeps hself hskn ⊢
    have hload : v.skn.load = some (r.refuseChannel c) := by rw [hskn]; rfl
    rw [State.streamDone_channel hload hrf hrk, ← State.begun]
    have hkind : (r.refuseChannel c).kind = .channel := hrk
    have hdir : (r.refuseChannel c).chImages = l.chImages := hr ▸ rfl
    refine ⟨_, rfl, fun d a => ?_, (v.begun_loadDone_mode hkind).trans (hkeeps.mode rfl).1, ?_, fun hopen => ?_, fun hall => ?_,
      fun hnew => ?_, fun d hd => ?_⟩
    · exact (v.begun_loadDone_sameCreels hkind d a).trans (hkeeps.sameCreels_of rfl d a)
    · rw [(State.loadDone_skn_keeps _).1, State.begun_skn, hskn]
      rfl
    · have hopen' : (r.refuseChannel c).resolved ≠ (r.refuseChannel c).mask := hr ▸ hopen
      rw [State.begun_loadDone_open v hopen', State.begun_skn]
      subst hr
      exact ⟨rfl, rfl⟩
    · have hall' : (r.refuseChannel c).resolved = (r.refuseChannel c).mask := hr ▸ hall
      rw [State.begun_loadDone_finished v hkind hall']
      exact ⟨rfl, rfl⟩
    · rw [State.begun_loadDone_ch v hkind, hdir, if_neg fun ⟨x, hx, h⟩ => hnew x hx h]
      exact ⟨hself.1, hself.2.1⟩
    · rw [State.begun_loadDone_ch v hkind, hdir, hkeeps.other d hd]
      rfl

/-- Settles O23: each word is followed through the checks it completes, each end of a load through what it leaves behind. -/
theorem streamWordsAndAbort : Obligations.StreamWordsAndAbort :=
  ⟨streamWord, headerChecked, sectionChecks, loopSearch, sectionArrived, refusedStreamEnds, sectionsBegin, streamAborted⟩

end Sys2Proof.Machine
end

section
/-! Power comes and goes: reset, the warm restart, the loss of the supply and the charged bank (R104, R109, R110, R388, R429). -/

namespace Sys2Proof.Machine

variable {s : State}

/-! ### Reset (R109, R110) -/

/-- The input has been at or above 40.00 V for 20 ms. -/
theorem Tlh.risen_of_le {x : Tlh} {a now : Tbu} (h : x.riseAt = some a) (hb : a + 20 * ms ≤ now) : x.risen now = true :=
  any_due h _ _ hb

/-- The input has not yet been at or above 40.00 V for 20 ms. -/
theorem Tlh.not_risen {x : Tlh} {now : Tbu} (h : ∀ a, x.riseAt = some a → now < a + 20 * ms) : ¬x.risen now = true := by
  cases hx : x.riseAt with
  | none => simp [Tlh.risen, hx]
  | some a => exact any_not_due hx _ _ (h a hx)

/-- The vault after a reset: its slots as they were, read again, and a torn one reported. -/
def Vlt.restarted (x : Vlt) : Vlt :=
  { Vlt.read { slots := x.slots } with
    events := evIf ((x.slots[0]).torn || (x.slots[1]).torn) {} VltEv.slotTorn }

theorem State.restart_eq (s : State) : s.restart =
    { State.reset with pending := s.pending, now := s.now, freeCtr := s.freeCtr, vlt := s.vlt.restarted } := rfl

theorem bit_evIf_empty (b : Bool) {k : Nat} (hk : k < 64) : bit (evIf b {} k).bits k = b := by
  cases b with
  | true => exact bit_evSet_self hk
  | false => simp [evIf, bit]

theorem Vlt.restarted_torn (x : Vlt) :
    bit x.restarted.events.bits VltEv.slotTorn = ((x.slots[0]).torn || (x.slots[1]).torn) := bit_evIf_empty _ (by decide)

/-- The module after a reset that keeps the odometer and the time base (R110). -/
def State.warmBegun (s : State) : State :=
  { State.reset with
    pending := s.pending, now := s.now, freeCtr := s.freeCtr, vlt := s.vlt.restarted
    mod := { State.reset.mod with startCause := 1 }
    trk := { State.reset.trk with odo := s.trk.odo, epoch := s.trk.epoch } }

theorem State.warmRestart_forCh (s : State) : s.warmRestart =
    s.warmBegun.forCh allCh fun r c => r.modCh c fun x => { x with mem := (s.ch c).mem.keepLast x.mem } := rfl

/-- The channel after a warm restart: at its reset values, but for the code of a service that the hold-up ended (R388). -/
theorem State.warmRestart_ch (s : State) (c : ChanId) : s.warmRestart.ch c = { State.reset.ch c with mem := { (State.reset.ch c).mem with
    svcLast := if (s.ch c).mem.svcLast = 0x10 then 0x10 else 0 } } := by
  have hb : s.warmBegun.ch c = State.reset.ch c := rfl
  rw [State.warmRestart_forCh, State.forCh_modCh_ch (fun d x => { x with mem := (s.ch d).mem.keepLast x.mem }) _ allCh_nodup,
    if_pos (mem_allCh c), hb, State.ch_reset]
  rfl

theorem State.warmRestart_eq (s : State) : s.warmRestart = { s.warmBegun with chans := s.warmRestart.chans } :=
  forCh_modCh_eq (fun c x => { x with mem := (s.ch c).mem.keepLast x.mem }) allCh _

theorem powerOnAndWarmRestart : Clause.PowerOnAndWarmRestart := by
  refine ⟨fun t s a hm ha hb => ?_, fun t s a hm ha hb => ?_, fun t s h => ?_, fun t s h => ?_⟩
  · refine ⟨(s.atTime t).restart, congrArg Host.Outcome.next (if_pos ⟨hm, Tlh.risen_of_le ha hb⟩), rfl, rfl, rfl, rfl, ?_⟩
    exact Vlt.restarted_torn s.vlt
  · have hw := (s.atTime t).warmRestart_eq
    have hv : (s.atTime t).warmRestart.vlt = s.vlt.restarted := congrArg State.vlt hw
    refine ⟨(s.atTime t).warmRestart, congrArg Host.Outcome.next (if_pos ⟨hm, Tlh.risen_of_le ha hb⟩), ?_,
      (s.atTime t).warmRestart_ch, ?_, ?_, ?_, ?_⟩
    · rw [hv]; exact hw
    · rw [hv]; rfl
    · rw [hv]; rfl
    · rw [hv]; rfl
    · rw [hv]; exact Vlt.restarted_torn s.vlt
  · exact congrArg Host.Outcome.next (if_neg fun k => h.elim (fun hm => hm k.1) fun hr => Tlh.not_risen hr k.2)
  · exact congrArg Host.Outcome.next (if_neg fun k => h.elim (fun hm => hm k.1) fun hr => Tlh.not_risen hr k.2)

/-! ### The supply and the bank (R104, R109) -/

theorem creelByte_reset (c : ChanId) (a : Nat) : State.reset.creelByte c a = creelDefault := by
  rw [State.creelByte, State.ch_reset]
  rfl

theorem exec_bankOk (t : Tbu) (h : s.ticking = true) : exec (.bankOk t) s = .next { s.atTime t with
    mod := { s.mod with bankOk := true }
    hp := { s.hp with state := if s.hp.state = .down ∧ s.side.tap ≠ .extest then .training else s.hp.state } } := by
  refine congrArg Host.Outcome.next ((if_pos h).trans ?_)
  by_cases hd : s.hp.state = .down ∧ s.side.tap ≠ .extest
  · exact (if_pos hd).trans (by rw [if_pos hd]; rfl)
  · exact (if_neg hd).trans (by rw [if_neg hd]; rfl)

theorem supplyAndBank : Clause.SupplyAndBank := by
  refine ⟨fun t s => ⟨_, rfl, rfl, rfl, rfl, creelByte_reset⟩, fun t s h => ?_⟩
  exact ⟨_, exec_bankOk t h, rfl, rfl, rfl, rfl⟩

/-- Settles O7: a reset rebuilds the state from its reset values, and what else there is of it is named by the clause. -/
theorem powerAndReset : Obligations.PowerAndReset := ⟨powerOnAndWarmRestart, supplyAndBank⟩

end Sys2Proof.Machine
end

section
/-! Entry to HOLDUP: what it stops in each channel, and the save that it begins (R119, R120, R444, R447). -/

namespace Sys2Proof.Machine

variable {s : State}

/-! ### What a channel's stop leaves of its outputs (R119) -/

/-- The state and outputs of a channel that most of what HOLDUP stops leaves alone. -/
def Chan.outputs (c : Chan) : ChState × Bool × Ana × Doffer × ChSkn := (c.mod.state, c.mod.outEn, c.ana, c.dof, c.skn)

theorem Chan.outputs_tdcStop (c : Chan) (cyc : Nat) : (c.tdcStop cyc).outputs = c.outputs :=
  foldl_keeps Chan.outputs _ (fun c k => by simp only [Chan.outputs]; split <;> simp) _ c

theorem Chan.outputs_allOff (c : Chan) (now : Tbu) : (c.allOff now).outputs = c.outputs := by
  have h : ∀ d : Chan, (allSynths.foldl (fun c i => c.powerOff i now) d).outputs = d.outputs :=
    foldl_keeps Chan.outputs _ (fun c i => by simp [Chan.outputs]) _
  simp only [Chan.outputs, Prod.mk.injEq] at h ⊢
  simp [Chan.allOff, h]

theorem Chan.dropStart_outputs (c : Chan) : c.dropStart.mod.state = c.mod.state ∧ c.dropStart.mod.outEn = c.mod.outEn := by
  unfold Chan.dropStart Chan.unpend
  dsimp only
  split <;> exact ⟨rfl, rfl⟩

theorem Chan.outputs_holdupStop (c : Chan) (now : Tbu) : (c.holdupStop now).outputs = c.outputs := by
  have htdc := fun d : Chan => d.outputs_tdcStop (cycleOf now)
  have hoff := fun d : Chan => d.outputs_allOff now
  simp only [Chan.outputs, Prod.mk.injEq] at htdc hoff ⊢
  simp [Chan.holdupStop, htdc, hoff, Chan.dropStart_outputs]

/-- A channel's outputs are disabled, its switches open or a DISABLE sequence on its way to open them, and its Doffer idle. -/
def Chan.silenced (x : Chan) : Prop :=
  x.mod.outEn = false ∧ (x.ana.sw = 0 ∨ x.ana.disableAt.isSome = true) ∧ x.dof.queue = [] ∧ x.dof.running = none

/-- A DISABLE ends with OUT_EN clear or a sequence under way (R259). -/
theorem Chan.disable_of_none {c : Chan} (now : Tbu) (h : c.ana.disableAt = none) :
    (c.disable now).mod.outEn = false ∧ (c.disable now).ana.disableAt = some now := by
  simp [Chan.disable, h]

theorem Chan.silenced_anaHoldup {c : Chan} (now : Tbu) (hq : c.dof.queue = []) (hr : c.dof.running = none) : (c.anaHoldup now).silenced := by
  refine ⟨?_, ?_, by simp [hq], by simp [hr]⟩
  · unfold Chan.anaHoldup
    dsimp only
    split
    · split <;> rfl
    · split
      · rfl
      · rename_i hd
        exact (Chan.disable_of_none now (by simpa using hd)).1
  · unfold Chan.anaHoldup
    dsimp only
    split
    · split
      · exact .inl rfl
      · exact .inr rfl
    · split
      · rename_i hd
        exact .inr hd
      · rename_i hd
        exact .inr (by rw [(Chan.disable_of_none now (by simpa using hd)).2]; rfl)

theorem Chan.silenced_of_outputs {x y : Chan} (h : y.outputs = x.outputs) (hx : x.silenced) : y.silenced := by
  simp only [Chan.outputs, Prod.mk.injEq] at h
  obtain ⟨-, hen, hana, hdof, -⟩ := h
  rwa [Chan.silenced, hen, hana, hdof]

theorem Chan.restSteps_outEn (c : Chan) (now : Tbu) : (c.restSteps now).mod.outEn = c.mod.outEn := by simp [Chan.restSteps]

/-- Entry to REST starts at most a range change; it leaves the switches and a DISABLE sequence as they are (R242). -/
theorem Chan.restSteps_switches (c : Chan) (now : Tbu) :
    (c.restSteps now).ana.sw = c.ana.sw ∧ (c.restSteps now).ana.disableAt = c.ana.disableAt := by
  unfold Chan.restSteps
  dsimp only
  unfold Chan.rangeAtRest
  split <;> simp [Ana.rangeStart]

/-- What a pass of HOLDUP over a channel's services leaves: none, and the rest of its state as it was. -/
theorem State.holdupServices_self (s : State) (c : ChanId) : ((s.holdupServices c).ch c).dof.queue = [] ∧
    ((s.holdupServices c).ch c).dof.running = none ∧ ((s.holdupServices c).ch c).skn = (s.ch c).skn := by
  have h := fun (l : List Service) (y : State) => foldl_keeps (fun y : State => ((y.ch c).dof, (y.ch c).skn))
    (fun (y : State) (x : Service) => y.modCh c fun z => if x.isMem then z.svcEnd 0x10 else match x with
      | .calRun p => z.calAbort p
      | _ => z) (fun y x => by
        rw [State.ch_modCh_self]
        split
        · simp
        · split <;> simp) l y
  have hfold := h ((s.ch c).dof.running.toList ++ (s.ch c).dof.queue)
    (s.modCh c fun x => { x with dof := { x.dof with running := none, queue := [] } })
  simp only [Prod.mk.injEq, State.ch_modCh_self] at hfold
  obtain ⟨hdof, hskn⟩ := hfold
  unfold State.holdupServices
  exact ⟨congrArg Doffer.queue hdof, congrArg Doffer.running hdof, hskn⟩

/-- The channel once its services have ended and its outputs, passes and synthesizers have stopped. -/
def State.holdupStopped (s : State) (c : ChanId) : State := (s.holdupServices c).modCh c fun x => (x.anaHoldup s.now).holdupStop s.now

/-- A range change that HOLDUP meets is complete (R265). -/
def Chan.rangeSettled (c : Chan) : Chan :=
  { c with ana := { c.ana with rangeAt := none, rangeNow := if c.ana.rangeAt.isSome then c.ana.rangeTo else c.ana.rangeNow } }

theorem State.holdupServices_now (s : State) (c : ChanId) : (s.holdupServices c).now = s.now :=
  ((State.Keeps.refl .channels (fun d => d = c) s).holdupServices c rfl).now

theorem State.holdupChannel_eq {c : ChanId} (h : (s.ch c).configured = true) : s.holdupChannel c =
    (if ((s.holdupStopped c).ch c).mod.state = .rest then s.holdupStopped c else (s.holdupStopped c).enterRest c).modCh c
      Chan.rangeSettled := by
  unfold State.holdupChannel
  rw [if_pos h]
  dsimp only
  rw [State.holdupServices_now]
  rfl

theorem State.holdupStopped_self (s : State) (c : ChanId) :
    ((s.holdupStopped c).ch c).silenced ∧ ((s.holdupStopped c).ch c).skn = (s.ch c).skn := by
  rw [State.holdupStopped, State.ch_modCh_self]
  obtain ⟨hq, hr, hskn⟩ := s.holdupServices_self c
  have ho := Chan.outputs_holdupStop (((s.holdupServices c).ch c).anaHoldup s.now) s.now
  refine ⟨Chan.silenced_of_outputs ho (Chan.silenced_anaHoldup s.now hq hr), ?_⟩
  simp only [Chan.outputs, Prod.mk.injEq] at ho
  obtain ⟨-, -, -, -, ho⟩ := ho
  rw [ho, ← hskn]
  simp

theorem Chan.silenced_inRest {c y : Chan} {now : Tbu} (h : c.silenced) (hmod : y.mod = ((c.restSteps now).inState .rest).mod)
    (hana : y.ana = (c.restSteps now).ana) (hdof : y.dof = (c.restSteps now).dof) : y.silenced := by
  obtain ⟨hen, hsw, hidle⟩ := h
  obtain ⟨h1, h2⟩ := Chan.restSteps_switches c now
  have hk : (c.restSteps now).dof = c.dof := by simp
  have hout : y.mod.outEn = c.mod.outEn := (congrArg ChMod.outEn hmod).trans (Chan.restSteps_outEn _ _)
  unfold Chan.silenced
  rw [hout, hana, h1, h2, hdof, hk]
  exact ⟨hen, hsw, hidle⟩

/-- Entry to REST keeps a channel silenced. -/
theorem State.enterRest_silenced {c : ChanId} (h : (s.ch c).silenced) : ((s.enterRest c).ch c).silenced ∧
    ((s.enterRest c).ch c).mod.state = .rest ∧ ((s.enterRest c).ch c).skn = (s.ch c).skn := by
  obtain ⟨q, m, e⟩ := enterRest_self s c
  have hskn : ((s.ch c).restSteps s.now).skn = (s.ch c).skn := by simp
  generalize (s.enterRest c).ch c = y at e ⊢
  subst e
  exact ⟨Chan.silenced_inRest h rfl rfl rfl, rfl, hskn⟩

/-- A channel as HOLDUP leaves it (R119). -/
def Chan.heldUp (x : Chan) : Prop := x.configured = true → x.mod.state = .rest ∧ x.silenced

/-- What HOLDUP does to a channel leaves it held up, and configured as it was. -/
theorem State.holdupChannel_self (s : State) (c : ChanId) :
    ((s.holdupChannel c).ch c).heldUp ∧ ((s.holdupChannel c).ch c).configured = (s.ch c).configured := by
  by_cases hc : (s.ch c).configured = true
  · obtain ⟨hstop, hskn⟩ := s.holdupStopped_self c
    rw [State.holdupChannel_eq hc, State.ch_modCh_self]
    have hafter : ∀ y : Chan, y.silenced → y.mod.state = .rest → y.skn = (s.ch c).skn →
        y.rangeSettled.heldUp ∧ y.rangeSettled.configured = (s.ch c).configured :=
      fun y hs hr hk => ⟨fun _ => ⟨hr, hs⟩, congrArg (fun k : ChSkn => k.state == .configured) hk⟩
    split
    · rename_i hst
      exact hafter _ hstop hst hskn
    · obtain ⟨hs, hr, hk⟩ := State.enterRest_silenced hstop
      exact hafter _ hs hr (hk.trans hskn)
  · have he : s.holdupChannel c = s := if_neg hc
    rw [he]
    exact ⟨fun h => absurd h hc, rfl⟩

/-! ### The module at the entry (R103, R119, R120) -/

/-- The module with its port stopped, in HOLDUP. -/
def State.portHeld (s : State) : State := s.portStop.setMode .holdup

theorem State.linkClear_hp (s : State) (st : LinkState) : (s.linkClear st).hp = { s.hp.clear with state := st } := by
  obtain ⟨ch, h, -⟩ := linkClear_eq s st
  rw [h]

theorem State.linkClear_mod (s : State) (st : LinkState) : (s.linkClear st).mod = { s.mod with linkUp := false } := by
  obtain ⟨ch, h, -⟩ := linkClear_eq s st
  rw [h]

theorem State.linkClear_mem (s : State) (st : LinkState) (c : ChanId) : (s.linkClear st).ch c =
    { s.ch c with mem := ((s.linkClear st).ch c).mem } := by
  obtain ⟨ch, -, h⟩ := linkClear_eq s st
  exact h c

/-- The effects of taking the link down. -/
abbrev Effects.unlinking : Effects := { Effects.channels with mod := true, mode := true, hp := true }

/-- The port that HOLDUP stopped: nothing waits, and nothing is on its way (R103). -/
def Hp.stopped (h : Hp) : Prop := h.state = .down ∧ h.reqs = [] ∧ h.outstanding = []

theorem State.portStop_eq (s : State) : s.portStop = { s.linkClear .down with
    hp := { (s.linkClear .down).hp with reqs := [], busy := false, bcastTag := none } } := by
  unfold State.portStop
  rfl

theorem State.portHeld_hp (s : State) :
    s.portHeld.hp = { s.hp.clear with state := .down, reqs := [], busy := false, bcastTag := none } := by
  rw [State.portHeld, State.setMode_hp, State.portStop_eq, State.linkClear_hp]

theorem State.portHeld_stopped (s : State) : s.portHeld.hp.stopped := by
  rw [State.portHeld_hp]
  exact ⟨rfl, rfl, rfl⟩

theorem State.keeps_portHeld (s : State) : State.Keeps .unlinking (fun _ => True) Eq s s.portHeld :=
  ((State.Keeps.refl .unlinking _ s).portStop rfl rfl fun _ => trivial).setMode .holdup rfl rfl

theorem State.portHeld_mod (s : State) : s.portHeld.mod.mode = .holdup ∧ s.portHeld.mod.prev = s.mod.mode := by
  rw [State.portHeld, State.setMode_mod, State.portStop_eq, State.linkClear_mod]
  exact ⟨rfl, rfl⟩

theorem State.portHeld_configured (s : State) (c : ChanId) : (s.portHeld.ch c).configured = (s.ch c).configured := by
  have h : s.portStop.ch c = (s.linkClear .down).ch c := by
    rw [State.portStop_eq]
    generalize s.linkClear .down = y
    rfl
  have hskn := congrArg Chan.skn (s.linkClear_mem .down c)
  rw [State.portHeld, State.ch_setMode, h, Chan.configured, Chan.configured, hskn]

/-- The effects of a load that HOLDUP ends, and of what it stops in the channels. -/
abbrev Effects.halting : Effects := { Effects.channels with mod := true, vlt := true, send := true, skn := true }

/-- A load that HOLDUP ends is refused as a whole and changes no mode (R94, R119). -/
theorem State.loadAbort_power {l : Load} (h : s.skn.load = some l) : s.loadAbort 0x11 0 =
    ({ s with skn := s.skn.refuse 0 0xFF 0x11 }.unconfigureAll l.mask 0x11).loadEnd := by
  unfold State.loadAbort
  rw [if_pos (by simp [h]), show (0xFF : BitVec 8) = BitVec.ofNat 8 0xFF from rfl,
    show (0 : BitVec 16) = BitVec.ofNat 16 0 from rfl, s.sknRefuse_eq 0x11 (by decide) 0]
  unfold State.loadFail
  have hl : ({ s with skn := s.skn.refuse 0 0xFF 0x11 } : State).skn.load = some { l with anyRefused := true } := by
    simp [Skn.refuse, h]
  rw [hl]
  simp only [beq_self_eq_true, Bool.not_true, and_false, if_false, Bool.false_eq_true]
  rfl

theorem State.keeps_loadAbort_power (s : State) : State.Keeps .halting (fun _ => True) Eq s (s.loadAbort 0x11 0) := by
  cases h : s.skn.load with
  | none =>
    rw [State.loadAbort_none h]
    exact State.Keeps.refl _ _ s
  | some l =>
    rw [State.loadAbort_power h]
    have hr : State.Keeps .halting (fun _ => True) Eq s { s with skn := s.skn.refuse 0 0xFF 0x11 } :=
      (State.Keeps.refl .halting (fun _ => True) s).upd _ _ _ _ _ _ _ _ _ (.inr rfl) (.inr ⟨rfl, rfl⟩) (.inr rfl) (.inr rfl) (.inr rfl)
        (.inr ⟨rfl, rfl⟩) (.inr rfl) (.inl rfl) (.inr rfl) (.inr rfl) (.inr rfl)
    exact (hr.forCh _ _ fun _ c k => k.unconfigure c 0x11 rfl rfl rfl trivial).loadEnd rfl

theorem State.loadAbort_power_load (s : State) : (s.loadAbort 0x11 0).skn.load = none := by
  cases h : s.skn.load with
  | none => rw [State.loadAbort_none h, h]
  | some l => rw [State.loadAbort_power h]; exact loadEnd_load _

/-- The module in HOLDUP once a load has ended and every channel has stopped, before any save. -/
@[irreducible] def State.stoppedAll (s : State) : State := (s.portHeld.loadAbort 0x11 0).forCh allCh State.holdupChannel

theorem State.keeps_stoppedAll (s : State) : State.Keeps .halting (fun _ => True) Eq s.portHeld s.stoppedAll := by
  unfold State.stoppedAll
  exact s.portHeld.keeps_loadAbort_power.forCh _ _ fun _ c k => k.holdupChannel c rfl rfl trivial

theorem State.stoppedAll_skn (s : State) : s.stoppedAll.skn = (s.portHeld.loadAbort 0x11 0).skn := by
  have h : State.Keeps .refLost (fun _ => True) Eq (s.portHeld.loadAbort 0x11 0) s.stoppedAll := by
    unfold State.stoppedAll
    exact (State.Keeps.refl _ _ _).forCh _ _ fun _ c k => k.holdupChannel c rfl rfl trivial
  exact h.skn rfl

theorem State.stoppedAll_heldUp (s : State) (c : ChanId) : (s.stoppedAll.ch c).heldUp := by
  unfold State.stoppedAll
  exact forCh_each _ Chan.heldUp (fun s _ _ h => holdupChannel_ne s h) (fun s c => (s.holdupChannel_self c).1) _ _ c (.inl (mem_allCh c))

/-- A pass whose turns keep a field of their own channel keeps it in every channel. -/
theorem State.forCh_ch_keeps {α : Type} (p : Chan → α) {f : State → ChanId → State} (hne : ∀ s c d, d ≠ c → (f s c).ch d = s.ch d)
    (hself : ∀ s c, p ((f s c).ch c) = p (s.ch c)) (l : List ChanId) (s : State) (d : ChanId) : p ((s.forCh l f).ch d) = p (s.ch d) :=
  State.forCh_keeps (fun s => p (s.ch d)) f (fun s c => by
    by_cases h : d = c
    · subst h; exact hself s d
    · exact congrArg p (hne s c d h)) l s

/-- Without a load that it could end, HOLDUP leaves every channel configured as it was. -/
theorem State.stoppedAll_configured (h : s.skn.load = none) (c : ChanId) : (s.stoppedAll.ch c).configured = (s.ch c).configured := by
  have hl : s.portHeld.skn.load = none := by rw [s.keeps_portHeld.skn rfl, h]
  unfold State.stoppedAll
  rw [State.loadAbort_none hl,
    State.forCh_ch_keeps Chan.configured (fun s _ _ h => holdupChannel_ne s h) (fun s c => (s.holdupChannel_self c).2),
    s.portHeld_configured c]

/-! ### The save that begins (R444, R445, R447) -/

/-- A restore in progress ends with the entry to HOLDUP. -/
def State.unrestored (s : State) : State := { s with vlt := { s.vlt with restoring := 0, restoreOn := false } }

theorem State.enterHoldup_eq (s : State) : s.enterHoldup =
    if s.working && s.skn.image.saves then s.saveBegin s.stoppedAll.unrestored (s.tlh.vinS.headD 0) else s.stoppedAll.unrestored := by
  unfold State.enterHoldup State.stoppedAll State.portHeld State.unrestored
  rfl

/-- A save changes the vault and nothing else of the module. -/
theorem State.saveBegin_eq (s0 s : State) (vin : Nat) : s0.saveBegin s vin = { s with vlt := (s0.saveBegin s vin).vlt } := by
  unfold State.saveBegin
  rfl

/-- At the entry to HOLDUP the vault alone depends on whether the module saves. -/
theorem State.enterHoldup_vlt (s : State) : ∃ v, s.enterHoldup = { s.stoppedAll with vlt := v } := by
  rw [State.enterHoldup_eq]
  split
  · exact ⟨_, State.saveBegin_eq _ _ _⟩
  · exact ⟨_, rfl⟩

theorem commitOk_of_cleared {x : Slot} (h : x.commit = List.replicate 8 0) : x.commitOk = false := by
  have hw : x.word commitAt = 0 := by rw [Slot.word, if_neg (by decide), if_pos (Nat.le_refl _), h]; rfl
  have hm : (x.word commitAt == vaultMagic) = false := by rw [hw]; rfl
  rw [Slot.commitOk, hm]
  rfl

/-- A word of a header is that of its first eleven that the offset names. -/
theorem Slot.word_header {x : Slot} {l : List Word} {k : Nat} (h : x.header = headerOf l) (hk : k < l.length) (hl : l.length = 11) :
    x.word (8 * k) = l.getD k 0 := by
  rw [Slot.word, if_pos (by omega), h, headerOf, Nat.mul_div_cancel_left _ (by decide), List.append_assoc, List.getD_append _ _ _ _ hk]

/-- What a save that begins leaves in the vault: the target slot with its header written and its commit record cleared, the other slot
as it was. -/
theorem State.saveBegin_slots (s0 s : State) (vin : Nat) :
    (∃ v, (s0.saveBegin s vin).vlt.save = some v ∧ v.slot = s0.targetSlot) ∧
    ((s0.saveBegin s vin).vlt.slots[s0.targetSlot]).commitOk = false ∧
    ((s0.saveBegin s vin).vlt.slots[s0.targetSlot]).seqNo = s0.nextSeq ∧
    ((s0.saveBegin s vin).vlt.slots[s0.targetSlot]).word 0x18 = s0.trk.odo ∧
    ((s0.saveBegin s vin).vlt.slots[s0.targetSlot]).word 0x20 = word s0.tbase ∧
    ((s0.saveBegin s vin).vlt.slots[s0.targetSlot]).word 0x50 = word vin ∧
    (s0.saveBegin s vin).vlt.slots[s0.targetSlot + 1] = s.vlt.slots[s0.targetSlot + 1] := by
  have hne : ∀ k : Fin 2, k + 1 ≠ k := by decide
  have hcommit : ((s0.saveBegin s vin).vlt.slots[s0.targetSlot]).commit = List.replicate 8 0 :=
    congrArg Slot.commit (vput_get_self _ _ _)
  have hheader : ((s0.saveBegin s vin).vlt.slots[s0.targetSlot]).header = State.saveHeader s0 s vin :=
    congrArg Slot.header (vput_get_self _ _ _)
  have hlen : (upTo 4).map (payloadWord s.skn.image.digest) = [0, 1, 2, 3].map (payloadWord s.skn.image.digest) := rfl
  have hword := fun k hk => Slot.word_header (k := k) hheader hk (by simp [hlen])
  exact ⟨⟨_, rfl, rfl⟩, commitOk_of_cleared hcommit, hword 2 (by simp), hword 3 (by simp), hword 4 (by simp),
    hword 10 (by simp), vput_get_ne _ _ (hne _)⟩

theorem holdupEntry : Clause.HoldupEntry := by
  refine ⟨fun t vin s htick hfail => ?_, fun t vin s htick hfail => ?_⟩
  · refine congrArg Host.Outcome.next (if_neg ?_)
    rw [Bool.and_eq_true]
    exact fun h => Bool.false_ne_true (hfail.symm.trans h.2)
  · obtain ⟨a, ha⟩ : ∃ a, a = ({ s.atTime t with tlh := s.tlh.takeVin (max s.now t) vin } : State) := ⟨_, rfl⟩
    have hex : exec (.holdupEntry t vin) s = .next a.enterHoldup := by
      rw [ha]
      refine congrArg Host.Outcome.next (if_pos ?_)
      rw [Bool.and_eq_true]
      exact ⟨htick, hfail⟩
    have hport := a.keeps_portHeld
    have hstop := a.keeps_stoppedAll
    have hhp : a.stoppedAll.hp = a.portHeld.hp := hstop.hp rfl (.inr (by rw [a.portHeld_stopped.1]; decide))
    have hslots : a.stoppedAll.vlt.slots = a.vlt.slots ∧ a.stoppedAll.vlt.save = a.vlt.save := by
      rw [(hstop.slots rfl).1, (hstop.slots rfl).2, hport.vlt rfl]
      exact ⟨rfl, rfl⟩
    obtain ⟨u, hu⟩ : ∃ u, u = a.enterHoldup := ⟨_, rfl⟩
    obtain ⟨v, hv⟩ := a.enterHoldup_vlt
    have hvlt : u = { a.stoppedAll with vlt := v } := hu.trans hv
    have hch : ∀ c, u.ch c = a.stoppedAll.ch c := fun c => by rw [hvlt]; rfl
    refine ⟨u, hu ▸ hex, ?_, ?_, ?_, ?_, ?_, ?_, ?_, ?_, ?_, ?_, ?_, ?_, ?_, ?_, ?_⟩
    · rw [hvlt]; exact ((hstop.mode rfl).1).trans a.portHeld_mod.1
    · rw [hvlt]; exact ((hstop.mode rfl).2).trans (a.portHeld_mod.2.trans (by rw [ha]; rfl))
    · rw [hvlt]; exact hstop.now.trans (hport.now.trans (by rw [ha]; rfl))
    · rw [hvlt]; exact (hstop.tlh rfl).trans ((hport.tlh rfl).trans (by rw [ha]))
    · rw [hvlt]; exact (hstop.trk rfl).trans ((hport.trk rfl).trans (by rw [ha]; rfl))
    · rw [hvlt]; exact (hstop.flt rfl).trans ((hport.flt rfl).trans (by rw [ha]; rfl))
    · rw [hvlt]; exact (hstop.side rfl).trans ((hport.side rfl).trans (by rw [ha]; rfl))
    · rw [hvlt]; exact (congrArg Hp.state hhp).trans a.portHeld_stopped.1
    · rw [hvlt]; exact (congrArg Hp.reqs hhp).trans a.portHeld_stopped.2.1
    · rw [hvlt]; exact (congrArg Hp.outstanding hhp).trans a.portHeld_stopped.2.2
    · rw [hvlt]; exact (congrArg Skn.load a.stoppedAll_skn).trans (State.loadAbort_power_load _)
    · intro c x
      rw [State.creelByte, hch c, ← hstop.creel c, ← hport.creel c, ha]
      rfl
    · intro hl c
      have hla : a.skn.load = none := by rw [ha]; exact hl
      rw [hch c, State.stoppedAll_configured hla, ha]
      rfl
    · intro c
      rw [hch c]
      intro hc
      obtain ⟨hst, hen, hsw, hq, hr⟩ := a.stoppedAll_heldUp c hc
      exact ⟨hst, hen, hsw, hq, hr⟩
    · have hw : (s.working && s.skn.image.saves) = (a.working && a.skn.image.saves) := by rw [ha]; rfl
      rw [hw]
      by_cases hs : (a.working && a.skn.image.saves) = true
      · rw [if_pos hs]
        obtain ⟨hsave, hcommit, hseq, hodo, htb, hvin, hother⟩ := a.saveBegin_slots a.stoppedAll.unrestored (a.tlh.vinS.headD 0)
        have hub : u = a.saveBegin a.stoppedAll.unrestored (a.tlh.vinS.headD 0) := by rw [hu, State.enterHoldup_eq, if_pos hs]
        have htlh : u.tlh = a.tlh := by rw [hvlt]; exact (hstop.tlh rfl).trans (hport.tlh rfl)
        have hother' := hother.trans (congrArg (fun v : Vector Slot 2 => v[a.targetSlot + 1]) hslots.1)
        rw [htlh, hub]
        subst ha
        exact ⟨hsave, hcommit, hseq, hodo, htb, hvin, hother'⟩
      · rw [if_neg hs]
        have hub : u = a.stoppedAll.unrestored := by rw [hu, State.enterHoldup_eq, if_neg hs]
        rw [hub]
        exact ⟨hslots.1.trans (by rw [ha]; rfl), hslots.2.trans (by rw [ha]; rfl)⟩

/-! ### The end of the save (R444, R447) -/

theorem exec_saveComplete (t : Tbu) (h : s.mod.mode = .holdup) : exec (.saveComplete t) s =
    .next (({ s.atTime t with vlt := s.vlt.commit } : State).setMode .vaulted) := congrArg Host.Outcome.next (if_pos h)

theorem Vlt.commit_of_save {x : Vlt} {v : Save} (h : x.save = some v) : x.commit = { x with
    slots := vmod x.slots v.slot fun (y : Slot) => { y with commit := commitOf y.seqNo y.hdrCrc v.areas }, save := none } := by
  unfold Vlt.commit
  rw [h]

theorem Vlt.commit_of_none {x : Vlt} (h : x.save = none) : x.commit = x := by
  unfold Vlt.commit
  rw [h]

/-- A header's CRC field has 32 bits (R447). -/
theorem Slot.hdrCrc_lt (x : Slot) : x.hdrCrc < 2 ^ 32 := Nat.mod_lt _ (by decide)

theorem saveEnds : Clause.SaveEnds := by
  refine ⟨fun t late s v hv => ?_, fun t s v hm hv => ?_, fun t s hm hv => ?_⟩
  · exact ⟨_, rfl, by simp [hv], rfl⟩
  · have hne : ∀ k : Fin 2, k + 1 ≠ k := by decide
    rw [exec_saveComplete t hm, Vlt.commit_of_save hv]
    have hslot : (vmod s.vlt.slots v.slot fun (y : Slot) => { y with commit := commitOf y.seqNo y.hdrCrc v.areas })[v.slot] =
        { s.vlt.slots[v.slot] with commit := commitOf (s.vlt.slots[v.slot]).seqNo (s.vlt.slots[v.slot]).hdrCrc v.areas } := vmod_get_self ..
    have hok := commitOk_commitOf { s.vlt.slots[v.slot] with
      commit := commitOf (s.vlt.slots[v.slot]).seqNo (s.vlt.slots[v.slot]).hdrCrc v.areas } v.areas (Slot.hdrCrc_lt _) rfl
    refine ⟨_, rfl, rfl, rfl, hslot, ?_, ?_, vmod_get_ne _ _ (hne _), rfl⟩
    · exact (congrArg Slot.commitOk hslot).trans hok.1
    · exact (congrArg Slot.present hslot).trans hok.2
  · rw [exec_saveComplete t hm, Vlt.commit_of_none hv]
    exact ⟨_, rfl, rfl, rfl⟩

/-- Settles O8: the port stops first, then a load and the channels one by one; the save takes what they leave. -/
theorem holdupAndSave : Obligations.HoldupAndSave := ⟨holdupEntry, saveEnds⟩

end Sys2Proof.Machine
end

section
/-! The end of SHEDDING, a hard shed, and a grade that the Tollhouse raises again (R104, R429, R438, R439). -/

namespace Sys2Proof.Machine

variable {s : State}

/-! ### The end of SHEDDING (R104, R429) -/

theorem sheddingReturn : Clause.SheddingReturn := by
  refine ⟨fun t s a hm ha hb => ?_, fun t s hm ha => ?_, fun t s a ha hb => ?_⟩
  · have hex : exec (.sheddingReturn t) s = .next ((s.atTime t).setMode .wound) :=
      congrArg Host.Outcome.next (if_pos ⟨hm, any_due ha _ _ hb⟩)
    refine ⟨_, hex, rfl, hm, rfl, ?_⟩
    rw [← hm]
    rfl
  · refine congrArg Host.Outcome.next (if_neg fun h => ?_)
    have hdue := h.2
    rw [State.atTime_tlh, ha] at hdue
    cases hdue
  · exact congrArg Host.Outcome.next (if_neg fun h => any_not_due ha _ _ hb h.2)

/-! ### The order of a shed (R437) -/

theorem mem_insertBy {α : Type} (le : α → α → Bool) (x y : α) (l : List α) : y ∈ insertBy le x l ↔ y = x ∨ y ∈ l := by
  induction l with
  | nil => simp [insertBy]
  | cons z l ih =>
    rw [insertBy]
    split
    · rw [List.mem_cons]
    · rw [List.mem_cons, ih, List.mem_cons]
      exact or_left_comm

theorem mem_sortBy {α : Type} (le : α → α → Bool) (y : α) (l : List α) : y ∈ sortBy le l ↔ y ∈ l := by
  induction l with
  | nil => rfl
  | cons x l ih => rw [sortBy, mem_insertBy, ih, List.mem_cons]

theorem State.mem_shedOrder (s : State) (c : ChanId) : c ∈ s.shedOrder :=
  (mem_sortBy _ _ _).2 (List.mem_reverse.2 (mem_allCh c))

/-! ### A hard shed (R438) -/

/-- A marked channel that a hard shed finds in RUN. -/
def Chan.marked (x : Chan) : Prop := x.mod.state = .run ∧ x.tlh.pinned = false ∧ x.tlh.shed = 1

/-- A channel that a hard shed holds. -/
def Chan.shedHeld (x : Chan) : Prop :=
  x.mod.state = .held ∧ x.mod.heldCause = Cause.shed ∧ x.tlh.shed = 3 ∧ x.tlh.granted = false ∧ x.tlh.pinned = false

/-- A pass that brings a channel from `R` to `P` at its turn, and whose turns keep `P`, leaves it with `P`. -/
theorem foldl_settles {f : State → ChanId → State} {R P : Chan → Prop} (hne : ∀ s c d, d ≠ c → (f s c).ch d = s.ch d)
    (hturn : ∀ s c, R (s.ch c) ∨ P (s.ch c) → P ((f s c).ch c)) {l : List ChanId} {s : State} {c : ChanId} (hc : c ∈ l)
    (h : R (s.ch c) ∨ P (s.ch c)) : P ((l.foldl f s).ch c) := by
  induction l generalizing s with
  | nil => cases hc
  | cons d l ih =>
    rw [List.foldl_cons]
    by_cases hd : c = d
    · subst hd
      have hp := hturn s c h
      by_cases hl : c ∈ l
      · exact ih hl (.inr hp)
      · rw [show (l.foldl f (f s c)).ch c = (f s c).ch c from State.forCh_of_not_mem hne (f s c) hl]
        exact hp
    · refine ih ((List.mem_cons.1 hc).resolve_left hd) ?_
      rwa [hne s d c hd]

theorem State.keeps_holdNow (s : State) (c : ChanId) (cause : Byte) : State.Keeps .states (fun d => d = c) Eq s (s.holdNow c cause) :=
  (State.Keeps.refl .states _ s).holdNow c cause rfl rfl

/-- What a hold does last to its own channel: the pass ends, the grant is given up, and a shed that is due becomes one that is done. -/
def Chan.heldLoad (y : Chan) (hard : Bool) : Chan :=
  let c : Chan := { y with seq := y.seq.stopPass }
  let c := c.releaseGrant
  { c with tlh := { c.tlh with shed := if hard then 3 else if c.tlh.shed = 1 then 2 else c.tlh.shed } }

/-- A channel whose play, lanes and route stop for a hold, with its grant given up. -/
def Chan.heldSteps (c : Chan) (cyc : Nat) (now : Tbu) (b : Q16) (hard : Bool) : Chan :=
  (((c.usePlayed cyc).dstPause now b).plyHeld now hard).heldLoad hard

theorem State.enterHeld_eq (s : State) (c : ChanId) (cause : Byte) (b : Q16) (hard : Bool) : s.enterHeld c cause b hard =
    ((s.modCh c fun x => x.heldSteps s.cycle s.now b hard).setChState c .held).modCh c fun x =>
      { x with mod := { x.mod with heldCause := cause } } := by
  unfold State.enterHeld
  rfl

theorem Chan.heldLoad_tlh (y : Chan) : (y.heldLoad true).tlh =
    { y.tlh with granted := false, request := none, gradeWait := none, deny := 0, shed := 3 } := rfl

theorem Chan.heldSteps_tlh (c : Chan) (cyc : Nat) (now : Tbu) (b : Q16) : (c.heldSteps cyc now b true).tlh =
    { c.tlh with granted := false, request := none, gradeWait := none, deny := 0, shed := 3 } := by
  have h : (((c.usePlayed cyc).dstPause now b).plyHeld now true).tlh = c.tlh := by simp
  rw [Chan.heldSteps, Chan.heldLoad_tlh, h]

/-- A channel in HELD, with the cause that holds it. -/
def Chan.heldFor (c : Chan) (cause : Byte) : Chan :=
  { c.inState .held with mod := { (c.inState .held).mod with heldCause := cause } }

theorem State.enterHeld_self (s : State) (c : ChanId) (cause : Byte) (b : Q16) (hard : Bool) :
    (s.enterHeld c cause b hard).ch c = ((s.ch c).heldSteps s.cycle s.now b hard).heldFor cause := by
  rw [State.enterHeld_eq, State.ch_modCh_self, State.setChState_ch_self, State.ch_modCh_self, Chan.heldFor]

theorem Chan.heldFor_state (c : Chan) (cause : Byte) : (c.heldFor cause).mod.state = .held := rfl

theorem Chan.heldFor_cause (c : Chan) (cause : Byte) : (c.heldFor cause).mod.heldCause = cause := rfl

theorem Chan.heldFor_tlh (c : Chan) (cause : Byte) : (c.heldFor cause).tlh = c.tlh := rfl

theorem State.holdNow_self_tlh (s : State) (c : ChanId) (cause : Byte) : ((s.holdNow c cause).ch c).tlh =
    { (s.ch c).tlh with granted := false, request := none, gradeWait := none, deny := 0, shed := 3 } := by
  rw [State.holdNow, State.enterHeld_self, Chan.heldFor_tlh, Chan.heldSteps_tlh, State.ch_modCh_self]

/-- What the hold of a hard shed leaves of its channel. -/
theorem State.holdNow_self (s : State) (c : ChanId) (cause : Byte) :
    ((s.holdNow c cause).ch c).mod.state = .held ∧ ((s.holdNow c cause).ch c).mod.heldCause = cause ∧
    ((s.holdNow c cause).ch c).tlh.shed = 3 ∧ ((s.holdNow c cause).ch c).tlh.granted = false ∧
    ((s.holdNow c cause).ch c).tlh.pinned = (s.ch c).tlh.pinned := by
  rw [State.holdNow_self_tlh]
  refine ⟨?_, ?_, rfl, rfl, rfl⟩
  · rw [State.holdNow, State.enterHeld_self, Chan.heldFor_state]
  · rw [State.holdNow, State.enterHeld_self, Chan.heldFor_cause]

theorem State.keeps_hardMarked (s : State) (c : ChanId) : State.Keeps .states (fun d => d = c) Eq s (s.hardMarked c) :=
  (State.Keeps.refl .states _ s).hardMarked c rfl rfl

theorem State.keeps_hardFurther (s : State) (c : ChanId) : State.Keeps .states (fun d => d = c) Eq s (s.hardFurther c) :=
  (State.Keeps.refl .states _ s).hardFurther c rfl rfl

/-- The first part of a hard shed holds a marked channel, and leaves one that is held. -/
theorem State.hardMarked_self (s : State) (c : ChanId) (h : (s.ch c).marked ∨ (s.ch c).shedHeld) : ((s.hardMarked c).ch c).shedHeld := by
  unfold State.hardMarked
  dsimp only
  rcases h with ⟨hst, hpin, hshed⟩ | ⟨hst, hcause, hshed, hgr, hpin⟩
  · rw [if_neg (by simp [hpin]), if_pos ⟨hshed, hst⟩]
    obtain ⟨h1, h2, h3, h4, h5⟩ := s.holdNow_self c Cause.shed
    exact ⟨h1, h2, h3, h4, h5.trans hpin⟩
  · rw [if_neg (by simp [hpin]), if_neg (by simp [hst])]
    exact ⟨hst, hcause, hshed, hgr, hpin⟩

/-- The second part of a hard shed leaves a channel that is held. -/
theorem State.hardFurther_shedHeld (s : State) (c d : ChanId) (h : (s.ch d).shedHeld) : ((s.hardFurther c).ch d).shedHeld := by
  by_cases hd : d = c
  · subst hd
    have hst := h.1
    unfold State.hardFurther
    rw [if_neg (by simp [hst])]
    exact h
  · rwa [(s.keeps_hardFurther c).other d hd]

/-- The module after both parts of a hard shed. -/
def State.hardHeld (s : State) : State := s.shedOrder.foldl State.hardFurther (s.shedOrder.foldl State.hardMarked s)

theorem State.hardShed_eq (s : State) : s.hardShed = s.hardHeld.tlhEvent TlhEv.hardShed := rfl

theorem State.keeps_hardHeld (s : State) : State.Keeps .states (fun _ => True) Eq s s.hardHeld :=
  ((State.Keeps.refl .states (fun _ => True) s).foldl _ _ fun _ c k => k.hardMarked c rfl trivial).foldl _ _
    fun _ c k => k.hardFurther c rfl trivial

theorem State.hardHeld_marked {c : ChanId} (h : (s.ch c).marked) : (s.hardHeld.ch c).shedHeld := by
  have hfirst : ((s.shedOrder.foldl State.hardMarked s).ch c).shedHeld :=
    foldl_settles (fun s _ d hd => (s.keeps_hardMarked _).other d hd) State.hardMarked_self (s.mem_shedOrder c) (.inl h)
  exact State.forCh_inv (fun y => (y.ch c).shedHeld) _ (fun y d hy => y.hardFurther_shedHeld d c hy) _ _ hfirst

/-- An operation that changes states of channels changes the channels and MOD_EVENTS. -/
theorem State.Keeps.eq_states {cs : ChanId → Prop} {rel : List Host.Cell → List Host.Cell → Prop} {u : State}
    (h : State.Keeps .states cs rel s u) : u = { s with mod := u.mod, chans := u.chans } := h.blocks rfl rfl

/-- An operation that changes channels only. -/
theorem State.Keeps.eq_channels {cs : ChanId → Prop} {rel : List Host.Cell → List Host.Cell → Prop} {u : State}
    (h : State.Keeps .channels cs rel s u) : u = { s with chans := u.chans } := h.blocks rfl rfl

theorem hardShed : Clause.HardShed := by
  intro t s hdue
  have hex : exec (.hardShed t) s = .next ((s.atTime t).hardHeld.tlhEvent TlhEv.hardShed) := congrArg Host.Outcome.next (if_pos hdue)
  have hkeeps := (s.atTime t).keeps_hardHeld
  have hmark := fun c : ChanId => State.hardHeld_marked (s := s.atTime t) (c := c)
  generalize (s.atTime t).hardHeld = y at hex hkeeps hmark
  refine ⟨_, hex, bit_evSet_self (by decide), hkeeps.sameCreels_of rfl, ?_, (hkeeps.mode rfl).1, fun c hst hpin hshed => ?_⟩
  · have htlh : y.tlh = s.tlh := hkeeps.tlh rfl
    have hy := hkeeps.eq_states
    unfold State.tlhEvent
    rw [htlh]
    generalize y.mod = m, y.chans = v at hy
    subst hy
    rfl
  · obtain ⟨h1, h2, h3, h4, -⟩ := hmark c ⟨hst, hpin, hshed⟩
    exact ⟨h1, h2, h3, h4⟩

/-! ### A grade raised again (R439) -/

theorem State.keeps_raiseOne (r : State × Nat) (c : ChanId) : State.Keeps .channels (fun d => d = c) Eq r.1 (State.raiseOne r c).1 :=
  (State.Keeps.refl .channels _ r.1).raiseOne c r rfl

/-- A channel whose grade the Tollhouse did not lower has no turn. -/
theorem State.raiseOne_idle {r : State × Nat} {c : ChanId} (h : (r.1.ch c).tlh.tollGrade = false) : State.raiseOne r c = r := by
  unfold State.raiseOne
  dsimp only
  split
  · rw [if_neg (by simp [h])]
  · rfl

theorem State.raiseOnes_idle {r : State × Nat} (l : List ChanId) (h : ∀ d ∈ l, (r.1.ch d).tlh.tollGrade = false) :
    l.foldl State.raiseOne r = r := by
  induction l with
  | nil => rfl
  | cons d l ih =>
    rw [List.foldl_cons, State.raiseOne_idle (h d List.mem_cons_self)]
    exact ih fun e he => h e (List.mem_cons_of_mem _ he)

theorem State.raiseOnes_ch (l : List ChanId) (r : State × Nat) {c : ChanId} (h : (r.1.ch c).tlh.tollGrade = false) :
    (l.foldl State.raiseOne r).1.ch c = r.1.ch c := by
  induction l generalizing r with
  | nil => rfl
  | cons d l ih =>
    have hd : (State.raiseOne r d).1.ch c = r.1.ch c := by
      by_cases hcd : c = d
      · subst hcd; rw [State.raiseOne_idle h]
      · exact (State.keeps_raiseOne r d).other c hcd
    rw [List.foldl_cons, ih _ (by rw [hd]; exact h), hd]

/-- The next higher grade, where it is usable, is the first that a raise finds. -/
theorem find_nextGrade {m : Mem} {g : Nat} (hg : g ≤ 1) (hgrade : m.grade.toNat = g + 1) (hu : m.usable g = true) :
    ([1, 0].find? fun g => decide (g < m.grade.toNat) && m.usable g) = some g := by
  obtain rfl | rfl : g = 0 ∨ g = 1 := by omega
  · simp [List.find?, hgrade, hu]
  · simp [List.find?, hgrade, hu]

/-- A raise that every test lets through asks for its grade. -/
theorem State.raiseOne_asks {r : State × Nat} {c : ChanId} {g : Nat} (ht : (r.1.ch c).tlh.tollGrade = true) (hg : g ≤ 1)
    (hgrade : (r.1.ch c).mem.grade.toNat = g + 1) (hu : (r.1.ch c).mem.usable g = true) (hch : (r.1.ch c).mem.changing = false)
    (htest : (r.1.ch c).speedTest (BitVec.ofNat 2 g) = 0)
    (hfit : (if (r.1.ch c).chargedReq then r.1.reqAt c g - r.1.reqNow c else 0) ≤ r.2) :
    (State.raiseOne r c).1 = r.1.tollSpeed c g := by
  unfold State.raiseOne
  dsimp only
  rw [find_nextGrade hg hgrade hu]
  dsimp only
  rw [if_pos (by simp [ht, hch, hfit, htest])]

/-- A grade that the Tollhouse asks for, while no change is pending, becomes the change in progress. -/
theorem State.tollSpeed_change {c : ChanId} {g : Nat} (hch : (s.ch c).mem.changing = false)
    (htest : (s.ch c).speedTest (BitVec.ofNat 2 g) = 0) :
    ((s.tollSpeed c g).ch c).mem.change = some { grade := BitVec.ofNat 2 g, toll := true } := by
  simp only [Mem.changing, Bool.or_eq_false_iff, Option.isSome_eq_false_iff, Option.isNone_iff_eq_none] at hch
  rw [State.tollSpeed, State.ch_modCh_self]
  simp [Chan.speedRequest, htest, Mem.preparing, hch.1]

/-- With one channel whose grade the Tollhouse lowered, a pass of raises is the turn of that channel. -/
theorem State.raiseOnes_single {r : State × Nat} {c : ChanId} (h : ∀ d : ChanId, d ≠ c → (r.1.ch d).tlh.tollGrade = false) :
    allCh.foldl State.raiseOne r = State.raiseOne r c := by
  obtain ⟨before, after, hsplit⟩ := List.append_of_mem (mem_allCh c)
  have hnodup := allCh_nodup
  rw [hsplit, List.nodup_append, List.nodup_cons] at hnodup
  obtain ⟨-, ⟨hafter, -⟩, hbefore⟩ := hnodup
  rw [hsplit, List.foldl_append, List.foldl_cons,
    State.raiseOnes_idle before fun d hd => h d (hbefore d hd c List.mem_cons_self)]
  refine State.raiseOnes_idle after fun d hd => ?_
  have hne : d ≠ c := fun e => hafter (e ▸ hd)
  rw [(State.keeps_raiseOne r c).other d hne]
  exact h d hne

theorem gradeRaise : Clause.GradeRaise := by
  intro t s a hm ha hb
  obtain ⟨r, hr⟩ : ∃ r : State × Nat, r = (s.atTime t, (s.atTime t).tlh.budget - (s.atTime t).totalCharge) := ⟨_, rfl⟩
  obtain ⟨y, hy⟩ : ∃ y, y = (allCh.foldl State.raiseOne r).1 := ⟨_, rfl⟩
  have hex : exec (.tollGradeRaise t) s = .next { y with tlh := { y.tlh with calmAt := some (s.atTime t).now } } := by
    have hdue : (s.atTime t).mod.mode = .wound ∧ (s.atTime t).tlh.calmAt.any (fun a => decide (a + 10 * ms ≤ (s.atTime t).now)) = true :=
      ⟨hm, any_due ha _ _ hb⟩
    rw [hy, hr, exec, execTollGradeRaise, if_pos hdue]
  have hr1 : r.1 = s.atTime t := by rw [hr]
  have hkeeps : State.Keeps .channels (fun _ => True) Eq (s.atTime t) y := by
    rw [hy, ← hr1]
    have hfold : ∀ (l : List ChanId) (q : State × Nat), State.Keeps .channels (fun _ => True) Eq r.1 q.1 →
        State.Keeps .channels (fun _ => True) Eq r.1 (l.foldl State.raiseOne q).1 := by
      intro l
      induction l with
      | nil => exact fun q h => h
      | cons d l ih => exact fun q h => ih _ (h.raiseOne d q trivial)
    exact hfold allCh r (State.Keeps.refl _ _ _)
  refine ⟨_, hex, ?_, ?_, fun c hc => ?_, fun c g hothers ht hg hgrade hu hch htest hfit => ?_⟩
  · exact hkeeps.sameCreels_of rfl
  · have htlh : y.tlh = s.tlh := hkeeps.tlh rfl
    have he := hkeeps.eq_channels
    rw [htlh]
    generalize y.chans = v at he
    subst he
    rfl
  · have hch : y.ch c = s.ch c := by
      rw [hy, State.raiseOnes_ch allCh r (by rw [hr1]; exact hc), hr1]
      rfl
    exact hch
  · have hsingle : allCh.foldl State.raiseOne r = State.raiseOne r c :=
      State.raiseOnes_single (by rw [hr1]; exact hothers)
    have hych : y = (s.atTime t).tollSpeed c g := by
      rw [hy, hsingle, hr]
      exact State.raiseOne_asks ht hg hgrade hu hch htest hfit
    have hspeed := State.tollSpeed_change (s := s.atTime t) (c := c) (g := g) hch htest
    rw [← hych] at hspeed
    exact hspeed

/-- Settles O9: the marked channels are held in the first part of a hard shed, whose second part holds running ones only; a pass of
raises gives each channel its turn. -/
theorem sheddingAndGrades : Obligations.SheddingAndGrades := ⟨sheddingReturn, hardShed, gradeRaise⟩

end Sys2Proof.Machine
end


section
/-! A command that R122 refuses, or that waits behind an ARM. -/

namespace Sys2Proof.Machine

variable {t : Tbu} {c : ChanId} {i : Instr} {cmd : Cmd} {s : State}

theorem exec_hostCommand (h : (i, cmd) ∈ hostCommands t c) (hport : s.portUp = true) :
    exec i s = .next ((s.atTime t).command c cmd false) := by
  have hcmd : exec i s = .next ((s.atTime t).ifPort fun s => s.command c cmd false) := by
    simp only [hostCommands, List.mem_cons, Prod.mk.injEq, List.not_mem_nil, or_false] at h
    rcases h with ⟨rfl, rfl⟩ | ⟨rfl, rfl⟩ | ⟨rfl, rfl⟩ | ⟨rfl, rfl⟩ | ⟨rfl, rfl⟩ | ⟨rfl, rfl⟩ | ⟨rfl, rfl⟩ | ⟨rfl, rfl⟩ <;> rfl
  rw [hcmd, State.ifPort_pos (s := s.atTime t) _ hport]

/-- No command that a host writes is one that R121 does not define. -/
theorem isBad_of_hostCommands (h : (i, cmd) ∈ hostCommands t c) : cmd.isBad = false := by
  simp only [hostCommands, List.mem_cons, Prod.mk.injEq, List.not_mem_nil, or_false] at h
  rcases h with ⟨-, rfl⟩ | ⟨-, rfl⟩ | ⟨-, rfl⟩ | ⟨-, rfl⟩ | ⟨-, rfl⟩ | ⟨-, rfl⟩ | ⟨-, rfl⟩ | ⟨-, rfl⟩ <;> rfl

theorem State.command_of_checking (h : (s.ch c).seq.checking = true) (b : Bool) : s.command c cmd b =
    s.modCh c fun x => { x with mod := { x.mod with queued := x.mod.queued ++ [{ cmd := cmd, bcast := b }] } } := by
  rw [State.command, if_pos h]
  rfl

theorem State.command_of_refused {code : Byte} (h : (s.ch c).seq.checking = false) (hcode : s.cmdTest c cmd = code) (hne : code ≠ 0) :
    s.command c cmd false = (({ s with mod := { s.mod with events := evSet s.mod.events ModEv.cmdRefused } } : State).modCh c fun x =>
      x.told cmd code) := by
  subst hcode
  rw [State.command, if_neg (by rw [h]; exact Bool.false_ne_true), if_pos hne, State.cmdResult, if_neg hne]
  rfl

/-- The tests of R122 that need the module: it is WOUND or SHEDDING. -/
theorem State.cmdTest_of_idle (hbad : cmd.isBad = false) (h : s.working = false) : s.cmdTest c cmd = 0x03 := by
  simp [State.cmdTest, hbad, h]

theorem State.cmdTest_of_unconfigured (hbad : cmd.isBad = false) (h : s.working = true) (hc : (s.ch c).configured = false) :
    s.cmdTest c cmd = 0x01 := by
  simp [State.cmdTest, hbad, h, hc]

/-- With the module working and the channel configured, the state of the channel decides. -/
theorem State.cmdTest_of_configured (hbad : cmd.isBad = false) (h : s.working = true) (hc : (s.ch c).configured = true) :
    s.cmdTest c cmd = if (s.ch c).mod.state == .drain && !cmd.drains then 0x04
      else if cmd == .resume && (s.ch c).mod.state == .held && (s.ch c).mod.heldCause == Cause.fault then 0x07
      else if !(s.ch c).accepts cmd then 0x02 else 0 := by
  simp [State.cmdTest, hbad, h, hc]

theorem State.cmdTest_of_drain (hbad : cmd.isBad = false) (h : s.working = true) (hc : (s.ch c).configured = true)
    (hst : (s.ch c).mod.state = .drain) (hd : cmd.drains = false) : s.cmdTest c cmd = 0x04 := by
  simp [State.cmdTest_of_configured hbad h hc, hst, hd]

theorem State.cmdTest_of_faultHold (h : s.working = true) (hc : (s.ch c).configured = true)
    (hst : (s.ch c).mod.state = .held) (hf : (s.ch c).mod.heldCause = Cause.fault) : s.cmdTest c .resume = 0x07 := by
  simp [State.cmdTest_of_configured (cmd := .resume) rfl h hc, hst, hf]

/-- Out of DRAIN, and but for a RESUME out of HELD, the last test is the table of R121. -/
theorem State.cmdTest_of_untimely (hbad : cmd.isBad = false) (h : s.working = true) (hc : (s.ch c).configured = true)
    (hdrain : (s.ch c).mod.state ≠ .drain) (hres : (s.ch c).mod.state = .held → cmd ≠ .resume)
    (ha : (s.ch c).accepts cmd = false) : s.cmdTest c cmd = 0x02 := by
  simp only [State.cmdTest_of_configured hbad h hc, ha, Bool.and_eq_true, beq_iff_eq, hdrain, false_and, if_false, Bool.not_false,
    if_true, ite_eq_right_iff, and_imp]
  exact fun hcmd hheld _ => absurd hcmd (hres hheld)

theorem Chan.accepts_trim {x : Chan} (h : x.mod.state = .trim) : x.accepts cmd = false := by cases cmd <;> simp [Chan.accepts, h]

theorem Chan.accepts_run {x : Chan} (h : x.mod.state = .run) (hc : cmd ∈ [Cmd.arm, .start, .resume, .cancel, .enable, .disable]) :
    x.accepts cmd = false := by
  cases cmd <;> simp_all [Chan.accepts]

theorem Chan.accepts_rest {x : Chan} (h : x.mod.state = .rest) (hc : cmd ∈ [Cmd.start, .hold, .resume, .stop, .cancel]) :
    x.accepts cmd = false := by
  cases cmd <;> simp_all [Chan.accepts]

theorem Chan.accepts_armed {x : Chan} (h : x.mod.state = .armed)
    (hc : cmd ∈ [Cmd.arm, .hold, .resume] ∨ cmd = .cancel ∧ x.mod.startPend = false) : x.accepts cmd = false := by
  cases cmd <;> simp_all [Chan.accepts]

theorem Chan.accepts_held {x : Chan} (h : x.mod.state = .held)
    (hc : cmd ∈ [Cmd.arm, .start] ∨ cmd = .cancel ∧ x.mod.startPend = false) : x.accepts cmd = false := by
  cases cmd <;> simp_all [Chan.accepts]

/-- Settles O25: each reason is the first test of R122 that fails, and a refusal writes the outcome only. -/
theorem commandRefused : Obligations.CommandRefused := by
  intro t c i cmd s hi hport
  rw [exec_hostCommand hi hport]
  have hbad := isBad_of_hostCommands hi
  refine ⟨fun hchk => congrArg _ (State.command_of_checking (s := s.atTime t) hchk false), fun code hchk hreason => ?_⟩
  obtain ⟨hcode, hne⟩ : (s.atTime t).cmdTest c cmd = code ∧ code ≠ 0 := by
    rcases hreason with ⟨hw, rfl⟩ | ⟨hw, hc, rfl⟩ | ⟨hw, hc, hst, hd, rfl⟩ | ⟨hw, hc, hst, rfl, hf, rfl⟩ | ⟨hw, hc, hst, rfl⟩ |
      ⟨hw, hc, hst, hcmd, rfl⟩ | ⟨hw, hc, hst, hcmd, rfl⟩ | ⟨hw, hc, hst, hcmd, rfl⟩ | ⟨hw, hc, hst, hcmd, rfl⟩
    all_goals refine ⟨?_, by decide⟩
    · exact State.cmdTest_of_idle hbad hw
    · exact State.cmdTest_of_unconfigured hbad hw hc
    · exact State.cmdTest_of_drain hbad hw hc hst hd
    · exact State.cmdTest_of_faultHold hw hc hst hf
    · exact State.cmdTest_of_untimely hbad hw hc (by simp [hst]) (by simp [hst]) (Chan.accepts_trim hst)
    · exact State.cmdTest_of_untimely hbad hw hc (by simp [hst]) (by simp [hst]) (Chan.accepts_run hst hcmd)
    · exact State.cmdTest_of_untimely hbad hw hc (by simp [hst]) (by simp [hst]) (Chan.accepts_rest hst hcmd)
    · exact State.cmdTest_of_untimely hbad hw hc (by simp [hst]) (by simp [hst]) (Chan.accepts_armed hst hcmd)
    · refine State.cmdTest_of_untimely hbad hw hc (by simp [hst]) (fun _ hres => ?_) (Chan.accepts_held hst hcmd)
      subst hres
      simp at hcmd
  exact congrArg _ (State.command_of_refused (s := s.atTime t) hchk hcode hne)

end Sys2Proof.Machine
end


section
/-! A command that is accepted, and START and RESUME among them. -/

namespace Sys2Proof.Machine

variable {t : Tbu} {c : ChanId} {i : Instr} {cmd : Cmd} {s : State}

theorem State.portUp_of_working (h : s.working = true) : s.portUp = true := by
  unfold State.portUp
  rcases (by simpa [State.working] using h : s.mod.mode = .wound ∨ s.mod.mode = .shedding) with hm | hm <;> rw [hm]

/-- A command that R121 accepts passes the tests of R122. -/
theorem State.cmdTest_of_accepted (hbad : cmd.isBad = false) (h : s.working = true) (hc : (s.ch c).configured = true)
    (ha : (s.ch c).accepts cmd = true) (hf : cmd = .resume → (s.ch c).mod.heldCause ≠ Cause.fault) : s.cmdTest c cmd = 0 := by
  have hdrain : (s.ch c).mod.state = .drain → cmd.drains = true := by
    intro hd
    cases cmd <;> simp_all [Chan.accepts, Cmd.drains]
  rw [State.cmdTest_of_configured hbad h hc, if_neg, if_neg, if_neg]
  · simp [ha]
  · simp only [Bool.and_eq_true, beq_iff_eq, not_and]
    exact fun ⟨hr, _⟩ => hf hr
  · simp only [Bool.and_eq_true, beq_iff_eq, Bool.not_eq_true', not_and, Bool.not_eq_false]
    exact hdrain

/-- An accepted command other than ARM: its effect, and its outcome in the channel. -/
theorem exec_of_accepted (hi : (i, cmd) ∈ hostCommands t c) (h : s.working = true) (hc : (s.ch c).configured = true)
    (hchk : (s.ch c).seq.checking = false) (ha : (s.ch c).accepts cmd = true)
    (hf : cmd = .resume → (s.ch c).mod.heldCause ≠ Cause.fault) (hne : cmd ≠ .arm) :
    exec i s = .next (((s.atTime t).cmdEffect c cmd).modCh c fun x => x.told cmd 0) := by
  have htest : (s.atTime t).cmdTest c cmd = 0 := State.cmdTest_of_accepted (isBad_of_hostCommands hi) h hc ha hf
  rw [exec_hostCommand hi (State.portUp_of_working h), State.command,
    if_neg (show ¬(((s.atTime t).ch c).seq.checking = true) by rw [State.ch_atTime, hchk]; exact Bool.false_ne_true), htest, if_neg hne]
  rfl

/-- Two changes of a channel, one after the other, are one. -/
theorem State.modCh_modCh (s : State) (c : ChanId) (f g : Chan → Chan) : (s.modCh c f).modCh c g = s.modCh c fun x => g (f x) := by
  have hch : (s.modCh c f).ch c = f (s.ch c) := State.ch_modCh_self s c f
  unfold State.modCh at hch ⊢
  rw [hch]
  simp [State.setCh, vput]

/-- An accepted command whose effect is a change of its channel. -/
theorem exec_of_channelEffect {f : Chan → Chan} (hi : (i, cmd) ∈ hostCommands t c) (h : s.working = true) (hc : (s.ch c).configured = true)
    (hchk : (s.ch c).seq.checking = false) (ha : (s.ch c).accepts cmd = true)
    (hf : cmd = .resume → (s.ch c).mod.heldCause ≠ Cause.fault) (hne : cmd ≠ .arm)
    (heff : (s.atTime t).cmdEffect c cmd = (s.atTime t).modCh c f) :
    exec i s = .next ((s.atTime t).modCh c fun x => (f x).told cmd 0) := by
  rw [exec_of_accepted hi h hc hchk ha hf hne, heff, State.modCh_modCh]

/-- The sequencer with the start values latched, for a condition other than that of a group. -/
def Seq.startLatched (q : Seq) (aligned res : Bool) : Seq :=
  { q with
    placed := none, cleared := false, lStartCfg := q.startCfg, lStartPos := q.startPos, lGrpCfg := q.grpCfg
    fromResume := res || q.from', vote := none, grpOutcome := 0, grpReason := 0, grpReleasedBy := 0, decided1 := false
    events := evIf (fld q.startCfg 0 2 != 0 && !aligned) q.events SeqEv.unalignedStart }

/-- The channel with its start pending and the start values latched. -/
def Chan.startLatched (x : Chan) (tick : Nat) (res : Bool) : Chan :=
  { x with
    mod := { x.mod with startPend := true }
    tlh := { x.tlh with request := if res then some { tick := tick, service := false } else x.tlh.request, pinned := false }
    trk := x.trk.unplace .start
    seq := x.seq.startLatched x.trk.aligned res }

theorem Chan.startAccept_of_alone {x : Chan} (h : fld x.seq.startCfg 0 2 ≠ 3) (now : Tbu) (tick : Nat) (res : Bool) :
    x.startAccept now tick res = x.startLatched tick res := by
  unfold Chan.startAccept Seq.cond
  dsimp only [Chan.withdrawStart]
  rw [if_neg h, if_neg fun hg => h hg.1]
  rfl

theorem State.startCmd_of_alone (h : fld (s.ch c).seq.startCfg 0 2 ≠ 3) (res : Bool) :
    s.startCmd c res = s.modCh c fun x => x.startLatched s.tlh.tick res := by
  unfold State.startCmd State.modCh
  dsimp only
  rw [Chan.startAccept_of_alone h, if_neg (show ((s.ch c).startLatched s.tlh.tick res).seq.grpReason ≠ 0x32 from nofun)]

theorem bit_evIf (b : Bool) (e : Sticky) {k : Nat} (hk : k < 64) : bit (evIf b e k).bits k = (bit e.bits k || b) := by
  cases b with
  | true => rw [Bool.or_true]; exact bit_evSet_self hk
  | false => rw [Bool.or_false]; rfl

/-- Settles O27: both commands latch the start values in their channel and write its outcome. -/
theorem startAndResume : Obligations.StartAndResume := by
  intro t c s hw hc hchk hcond
  have hstart : ∀ res, (s.atTime t).startCmd c res = (s.atTime t).modCh c fun x => x.startLatched s.tlh.tick res :=
    State.startCmd_of_alone (s := s.atTime t) hcond
  refine ⟨fun hst => ⟨_, exec_of_channelEffect (cmd := .start) (by simp [hostCommands]) hw hc hchk (by simp [Chan.accepts, hst])
      nofun nofun (hstart false), State.onlyChannel_modCh .., ?_⟩,
    fun hst hf => ⟨_, exec_of_channelEffect (cmd := .resume) (by simp [hostCommands]) hw hc hchk (by simp [Chan.accepts, hst])
      (fun _ => hf) nofun (hstart true), State.onlyChannel_modCh .., ?_⟩⟩
  · rw [State.ch_modCh_self, State.ch_atTime]
    exact ⟨rfl, rfl, Tracker.isPending_unplace _ _, rfl, rfl, rfl, rfl, rfl, bit_evIf _ _ (by decide), rfl⟩
  · rw [State.ch_modCh_self, State.ch_atTime]
    exact ⟨rfl, rfl, rfl, rfl, rfl⟩

end Sys2Proof.Machine
end


section
/-! HOLD, STOP and CANCEL, ENABLE and DISABLE. -/

namespace Sys2Proof.Machine

variable {t : Tbu} {c : ChanId} {s : State}

/-- A change of a channel depends on what it makes of that channel only. -/
theorem State.modCh_congr {f g : Chan → Chan} (h : f (s.ch c) = g (s.ch c)) : s.modCh c f = s.modCh c g := congrArg (s.setCh c) h

/-! ### HOLD and CANCEL -/

theorem Chan.latchHold_of_none {x : Chan} (h : x.seq.holdReq = none) (cause : Byte) (cyc : Nat) :
    x.latchHold cause cyc = { x with seq := { x.seq with holdReq := some (cause, if x.seq.playing then x.kNow cyc else 0) } } := by
  unfold Chan.latchHold Chan.latchHoldAt
  rw [h]

/-- The load record of a channel whose start is withdrawn: a member that was pinned loses the mark for a shed after its start. -/
def ChTlh.unpinned (x : ChTlh) : ChTlh := { x with pinned := false, shed := if x.pinned ∧ x.shed = 1 then 0 else x.shed }

theorem Chan.unpend_of_armed {x : Chan} (h : x.mod.state = .armed) : x.unpend = { x with mod := { x.mod with startPend := false } } := by
  unfold Chan.unpend
  exact if_neg (by rw [h]; exact nofun)

theorem Chan.dropStart_of_armed {x : Chan} (h : x.mod.state = .armed) : x.dropStart =
    { x with mod := { x.mod with startPend := false }, tlh := x.tlh.unpinned, trk := x.trk.unplace .start, seq := x.dropStart.seq } := by
  unfold Chan.dropStart
  dsimp only
  rw [Chan.unpend_of_armed]
  · simp [Chan.withdrawStart, ChTlh.unpinned]
  · exact h

theorem Chan.dropStart_placed (x : Chan) : x.dropStart.seq.placed = none := by simp [Chan.dropStart, Chan.withdrawStart]

/-! ### STOP -/

theorem Chan.dropStart_startPend (x : Chan) : x.dropStart.mod.startPend = false := by
  unfold Chan.dropStart Chan.unpend
  dsimp only
  split <;> rfl

theorem Chan.plyDrain_wav (x : Chan) (now : Tbu) : (x.plyDrain now false).ply.wav = .zero := rfl

theorem Chan.dropEvents_start (x : Chan) : x.dropEvents.trk.isPending .start = false := by
  simp only [Tracker.isPending, Chan.dropEvents, List.any_eq_false, List.mem_filter, beq_iff_eq]
  rintro p ⟨-, hkept⟩ hp
  rw [hp] at hkept
  exact Bool.false_ne_true hkept

theorem Chan.dstDrain_jnc {x : Chan} (now : Tbu) (h : lanesQuiet x) : (x.dstDrain now).jnc = x.jnc := by
  unfold Chan.dstDrain
  dsimp only [Chan.cutFrames]
  rw [Chan.dstTo_quiet _ _ h.1 h.2]

theorem Chan.anaDrain_outputs (x : Chan) (now : Tbu) : (x.anaDrain now).ana.sw = x.ana.sw ∧ (x.anaDrain now).ana.closing = 0 ∧
    (x.anaDrain now).mod.startPend = x.mod.startPend ∧ (x.anaDrain now).mod.outEn = x.mod.outEn := ⟨rfl, rfl, rfl, rfl⟩

theorem Seq.stopPass_latches (q : Seq) : q.stopPass.anyLatch = false ∧ q.stopPass.holdReq = none ∧ q.stopPass.playing = false := by
  simp [Seq.stopPass, Seq.clearLatches, Seq.anyLatch]

/-- The route has ended for a channel that goes to DRAIN: its start is withdrawn and its latches are cleared. -/
def Chan.unrouted (x : Chan) : Chan :=
  { x.dropStart with seq := { x.dropStart.seq.stopPass with
    events := evIf x.seq.holdReq.isSome x.dropStart.seq.stopPass.events SeqEv.discarded } }

/-- The channel that goes to DRAIN at instant `now`, once its pass is cut, its route has ended and its outputs ramp. -/
def Chan.cutShort (x : Chan) (now : Tbu) : Chan :=
  (((((x.usePlayed (cycleOf now)).plyDrain now false).unrouted).dstDrain now).anaDrain now).dropEvents

/-- Entry to DRAIN changes the memory and the load record after that. -/
theorem Chan.drainSteps_eq (x : Chan) (now : Tbu) :
    x.drainSteps now false = { x.cutShort now with mem := (x.drainSteps now false).mem, tlh := (x.drainSteps now false).tlh } := by
  unfold Chan.drainSteps Chan.cutShort Chan.unrouted
  dsimp only
  generalize Chan.dropEvents _ = y
  split <;> rfl

/-- What goes on in the channel is over. -/
def Chan.stopped (x y : Chan) : Prop :=
  y.mod.startPend = false ∧ y.mod.outEn = x.mod.outEn ∧ y.ana.sw = x.ana.sw ∧ y.ana.closing = 0 ∧ y.ply.wav = .zero ∧
  y.seq.playing = false ∧ y.seq.anyLatch = false ∧ y.seq.holdReq = none ∧ y.trk.isPending .start = false ∧
  (lanesQuiet x → y.jnc = x.jnc) ∧ y.tdc = x.tdc ∧ y.stq = x.stq

theorem Chan.unrouted_keeps (x : Chan) : x.unrouted.ana = x.ana ∧ x.unrouted.ply = x.ply ∧ x.unrouted.dst = x.dst ∧
    x.unrouted.jnc = x.jnc ∧ x.unrouted.tdc = x.tdc ∧ x.unrouted.stq = x.stq ∧ x.unrouted.mod.outEn = x.mod.outEn := by
  simp [Chan.unrouted, x.dropStart_outputs.2]

theorem Chan.unrouted_seq (x : Chan) : x.unrouted.mod.startPend = false ∧ x.unrouted.seq.anyLatch = false ∧
    x.unrouted.seq.holdReq = none ∧ x.unrouted.seq.playing = false := by
  obtain ⟨hlatch, hhold, hplay⟩ := Seq.stopPass_latches x.dropStart.seq
  exact ⟨x.dropStart_startPend, hlatch, hhold, hplay⟩

theorem Chan.cutShort_stopped (x : Chan) (now : Tbu) : x.stopped (x.cutShort now) := by
  unfold Chan.cutShort
  obtain ⟨y, hy⟩ : ∃ y, y = (x.usePlayed (cycleOf now)).plyDrain now false := ⟨_, rfl⟩
  have hwav : y.ply.wav = .zero := by rw [hy, Chan.plyDrain_wav]
  have hkeep : y.mod = x.mod ∧ y.ana = x.ana ∧ y.dst = x.dst ∧ y.jnc = x.jnc ∧ y.tdc = x.tdc ∧ y.stq = x.stq := by simp [hy]
  obtain ⟨hmod, hana, hdst, hjnc, htdc, hstq⟩ := hkeep
  obtain ⟨kana, kply, kdst, kjnc, ktdc, kstq, ken⟩ := y.unrouted_keeps
  obtain ⟨hpend, hlatch, hhold, hplay⟩ := y.unrouted_seq
  rw [← hy]
  generalize y.unrouted = z at *
  obtain ⟨asw, aclose, apend, aen⟩ := (z.dstDrain now).anaDrain_outputs now
  refine ⟨?_, ?_, ?_, ?_, ?_, ?_, ?_, ?_, Chan.dropEvents_start _, fun hq => ?_, ?_, ?_⟩
  · simp [apend, hpend]
  · simp [aen, ken, hmod]
  · simp [asw, kana, hana]
  · simp [aclose]
  · simp [kply, hwav]
  · simp [hplay]
  · simp [hlatch]
  · simp [hhold]
  · have hquiet : lanesQuiet z := by rwa [lanesQuiet, kdst, hdst]
    simp [Chan.dstDrain_jnc now hquiet, kjnc, hjnc]
  · simp [ktdc, htdc]
  · simp [kstq, hstq]

theorem Chan.drainSteps_stopped (x : Chan) (now : Tbu) : x.stopped (x.drainSteps now false) := by
  rw [Chan.drainSteps_eq]
  exact x.cutShort_stopped now

/-- The channel in DRAIN from instant `now` on. -/
def Chan.draining (x : Chan) (now : Tbu) : Chan :=
  { x.inState .drain with mod := { (x.inState .drain).mod with drainAt := some now, drainSyn := false } }

theorem Chan.drainOn_of_unopened {x : Chan} {now : Tbu} (h : x.drainOpened now = false) : x.drainOn now = x := by
  unfold Chan.drainOn Chan.pipesEmpty
  rw [h]
  simp

theorem Chan.draining_unopened (x : Chan) (now : Tbu) : (x.draining now).drainOpened now = false := by
  have hat : (x.draining now).mod.drainAt = some now := rfl
  have hpos : 0 < drainOpen := by decide
  unfold Chan.drainOpened
  rw [eq_false_of_ne_true (any_not_due hat _ _ (by omega)), Bool.and_false]

theorem State.enterDrain_eq (s : State) (c : ChanId) :
    s.enterDrain c = ((s.modCh c fun x => x.drainSteps s.now false).setChState c .drain).modCh c fun x =>
      ({ x with mod := { x.mod with drainAt := some s.now, drainSyn := false } } : Chan).drainOn s.now := by
  unfold State.enterDrain
  simp only [State.setChState_now, State.modCh_now]

theorem State.enterDrain_self (s : State) (c : ChanId) :
    (s.enterDrain c).ch c = ((s.ch c).drainSteps s.now false).draining s.now := by
  rw [State.enterDrain_eq, State.ch_modCh_self, State.setChState_ch_self, State.ch_modCh_self]
  exact Chan.drainOn_of_unopened (Chan.draining_unopened _ _)

theorem State.keeps_enterDrain (s : State) (c : ChanId) : State.Keeps .states (fun d => d = c) Eq s (s.enterDrain c) :=
  (State.Keeps.refl .states _ s).enterDrain c false rfl rfl

theorem State.enterDrain_state (h : (s.ch c).mod.state ≠ .drain) : s.enterDrain c =
    { s with mod := { s.mod with events := evSet s.mod.events ModEv.stateChange }, chans := (s.enterDrain c).chans } := by
  have hstate : ((s.modCh c fun x => x.drainSteps s.now false).ch c).mod.state ≠ .drain := by
    rw [State.ch_modCh_self, Chan.drainSteps_eq]
    simpa [Chan.cutShort, Chan.unrouted, Chan.anaDrain, Chan.unsched, Chan.dropStart_outputs] using h
  rw [State.enterDrain_eq, State.setChState_eq, if_neg hstate]
  rfl

theorem stop_drains (t : Tbu) (c : ChanId) (s : State)
    (hst : (s.ch c).mod.state = .armed ∨ (s.ch c).mod.state = .run ∨ (s.ch c).mod.state = .held) {u : State}
    (hu : u = ((s.atTime t).enterDrain c).modCh c fun x => x.told .stop 0) :
    s.sameCreels u ∧ (∀ d : ChanId, d ≠ c → u.ch d = s.ch d) ∧
      u = { s.atTime t with mod := { s.mod with events := evSet s.mod.events ModEv.stateChange }, chans := u.chans } ∧
      u.ch c = (((s.ch c).drainSteps (max s.now t) false).draining (max s.now t)).told .stop 0 := by
  have hkeeps : State.Keeps .states (fun d => d = c) Eq (s.atTime t) u := by
    rw [hu]
    exact ((s.atTime t).keeps_enterDrain c).modCh c _ rfl rfl
  have hne : ((s.atTime t).ch c).mod.state ≠ .drain := by
    rcases hst with h | h | h <;> rw [State.ch_atTime, h] <;> exact nofun
  refine ⟨hkeeps.sameCreels_of rfl, fun d hd => hkeeps.other d hd, ?_, ?_⟩
  · have hdrain := State.enterDrain_state hne
    generalize (s.atTime t).enterDrain c = v at hu hdrain
    rw [hu]
    generalize v.chans = l at hdrain
    subst hdrain
    rfl
  · rw [hu, State.ch_modCh_self, State.enterDrain_self]
    rfl

theorem State.cmdEffect_hold (h : (s.ch c).mod.state = .run) :
    s.cmdEffect c .hold = s.modCh c fun x => x.latchHold Cause.host s.cycle := by
  rw [State.cmdEffect]
  exact State.modCh_congr (if_pos h)

theorem State.cmdEffect_hold_of_idle (h : (s.ch c).mod.state ≠ .run) : s.cmdEffect c .hold = s.modCh c id := by
  rw [State.cmdEffect]
  exact State.modCh_congr (if_neg h)

theorem holdStopCancel : Clause.HoldStopCancel := by
  intro t c s hw hc hchk
  refine ⟨fun hst hnone => ?_, fun hst => ?_, fun hst => ?_, fun hst hpend => ?_⟩
  · refine ⟨_, exec_of_channelEffect (t := t) (cmd := .hold) (by simp [hostCommands]) hw hc hchk (by simp [Chan.accepts, hst]) nofun nofun
      (State.cmdEffect_hold hst), State.onlyChannel_modCh .., ?_⟩
    rw [State.ch_modCh_self, State.ch_atTime, Chan.latchHold_of_none hnone]
    exact ⟨_, rfl⟩
  · have hne : ((s.atTime t).ch c).mod.state ≠ .run := by rw [State.ch_atTime, hst]; exact nofun
    exact exec_of_channelEffect (t := t) (cmd := .hold) (f := id) (by simp [hostCommands]) hw hc hchk (by simp [Chan.accepts, hst]) nofun nofun
      (State.cmdEffect_hold_of_idle hne)
  · obtain ⟨u, hu⟩ : ∃ u, u = ((s.atTime t).enterDrain c).modCh c fun x => x.told .stop 0 := ⟨_, rfl⟩
    obtain ⟨hcreels, hother, hstate, hself⟩ := stop_drains t c s hst hu
    have hex : exec (.stop t c) s = .next u := by
      rw [hu]
      exact exec_of_accepted (cmd := .stop) (by simp [hostCommands]) hw hc hchk
        (by rcases hst with h | h | h <;> simp [Chan.accepts, h]) nofun nofun
    refine ⟨u, hex, hcreels, hother, hstate, ?_⟩
    obtain ⟨hpend, hen, hsw, hclose, hwav, hplay, hlatch, hhold, hstart, hjnc, htdc, hstq⟩ :=
      (s.ch c).drainSteps_stopped (max s.now t)
    rw [hself]
    exact ⟨rfl, rfl, hpend, rfl, hen, hsw, hclose, hwav, hplay, hlatch, hhold, hstart, hjnc, htdc, hstq⟩
  · refine ⟨_, exec_of_channelEffect (t := t) (cmd := .cancel) (f := Chan.dropStart) (by simp [hostCommands]) hw hc hchk
      (by simp [Chan.accepts, hst, hpend]) nofun nofun rfl, State.onlyChannel_modCh .., ?_⟩
    have hplaced := (s.ch c).dropStart_placed
    have heq := Chan.dropStart_of_armed hst
    rw [State.ch_modCh_self, State.ch_atTime]
    generalize (s.ch c).dropStart = y at heq hplaced ⊢
    generalize y.seq = q at heq hplaced
    subst heq
    exact ⟨Tracker.isPending_unplace _ _, rfl, hplaced, rfl, rfl⟩

/-! ### ENABLE and DISABLE -/

theorem Chan.enable_of_none {x : Chan} (h : x.ana.disableAt = none) : x.enable = x.enableExec := by
  unfold Chan.enable
  rw [h]
  rfl

theorem Chan.disable_of_idle {x : Chan} (now : Tbu) (h : x.ana.disableAt = none) : x.disable now = { x with
    mod := { x.mod with outEn := false }, ana := { x.ana.rampTo now now x.skn.image.restWord with disableAt := some now } } := by
  unfold Chan.disable
  rw [h]
  rfl

theorem Chan.accepts_outputs {x : Chan} (h : x.mod.state = .rest ∨ x.mod.state = .armed ∨ x.mod.state = .held ∨ x.mod.state = .drain) :
    x.accepts .enable = true ∧ x.accepts .disable = true := by
  rcases h with h | h | h | h <;> simp [Chan.accepts, h]

theorem State.cmdEffect_outputs (h : (s.ch c).mod.state ≠ .drain) :
    s.cmdEffect c .enable = s.modCh c Chan.enable ∧ s.cmdEffect c .disable = s.modCh c fun x => x.disable s.now := by
  rw [State.cmdEffect, State.cmdEffect]
  exact ⟨State.modCh_congr (if_neg h), State.modCh_congr (if_neg h)⟩

theorem State.cmdEffect_outputs_drain (h : (s.ch c).mod.state = .drain) :
    (s.cmdEffect c .enable = s.modCh c fun x => { x with mod := { x.mod with pendEn := true } }) ∧
    s.cmdEffect c .disable = s.modCh c fun x => { x with mod := { x.mod with pendEn := false } } := by
  rw [State.cmdEffect, State.cmdEffect]
  exact ⟨State.modCh_congr (if_pos h), State.modCh_congr (if_pos h)⟩

theorem enableAndDisable : Clause.EnableAndDisable := by
  intro t c s hw hc hchk
  have hcmd : (Instr.enable t c, Cmd.enable) ∈ hostCommands t c ∧ (Instr.disable t c, Cmd.disable) ∈ hostCommands t c := by
    simp [hostCommands]
  obtain ⟨hienable, hidisable⟩ := hcmd
  refine ⟨fun hst => ?_, fun hst hnone => ?_⟩
  · obtain ⟨hen, hdis⟩ := Chan.accepts_outputs (.inr (.inr (.inr hst)))
    obtain ⟨heffen, heffdis⟩ := State.cmdEffect_outputs_drain (s := s.atTime t) hst
    exact ⟨exec_of_channelEffect hienable hw hc hchk hen nofun nofun heffen,
      exec_of_channelEffect hidisable hw hc hchk hdis nofun nofun heffdis⟩
  · have hne : ((s.atTime t).ch c).mod.state ≠ .drain := by rcases hst with h | h | h <;> rw [State.ch_atTime, h] <;> exact nofun
    obtain ⟨hen, hdis⟩ := Chan.accepts_outputs (x := s.ch c) (by tauto)
    obtain ⟨heffen, heffdis⟩ := State.cmdEffect_outputs hne
    refine ⟨⟨_, exec_of_channelEffect hienable hw hc hchk hen nofun nofun heffen, State.onlyChannel_modCh .., ?_⟩,
      (exec_of_channelEffect hidisable hw hc hchk hdis nofun nofun heffdis).trans (congrArg _ (State.modCh_congr ?_))⟩
    · rw [State.ch_modCh_self, State.ch_atTime, Chan.enable_of_none hnone]
      exact ⟨rfl, rfl, rfl, rfl, rfl, rfl⟩
    · rw [State.ch_atTime, Chan.disable_of_idle _ hnone]
      rfl

/-- Settles O28: each accepted command is a change of its channel, and a STOP the entry to DRAIN. -/
theorem holdStopCancelEnable : Obligations.HoldStopCancelEnable := ⟨holdStopCancel, enableAndDisable⟩

end Sys2Proof.Machine
end


section
/-! Entry to RUN, and the end of DRAIN. -/

namespace Sys2Proof.Machine

variable {t : Tbu} {c : ChanId} {s : State}

/-! ### The first pass of a run -/

/-- The state in which a channel is in RUN, and its route at the start point. -/
def State.runPlaced (s : State) (c : ChanId) (pos : Word) : State :=
  (s.modCh c fun x => { x with
    mod := { x.mod with startPend := false }
    tlh := { x.tlh with pinned := false, shed := if x.tlh.shed = 1 then 1 else 0 }
    seq := x.seq.runStart pos
    ply := { x.ply with ranTo := none }
    stq := { x.stq with queues := x.stq.queues.map fun e => (e.1, { e.2 with playing := none }) } }).setChState c .run

/-- The first pass of a run: an idle one, or that of the waypoint of the start point. -/
def Seq.firstPass (q : Seq) (idle : Bool) : Succ :=
  { wp := q.wp, done := q.done, kind := if idle then .idle else .segment, entry := q.done == 0, routeEnd := false }

/-- A streamed segment takes its first fill. -/
def State.runFilled (s : State) (c : ChanId) (idle : Bool) : State :=
  let q := (s.ch c).seq
  if !idle && q.segStreamed (q.wpSeg q.wp) then s.assignFill c (q.segQueue (q.wpSeg q.wp)) else s

/-- The hop of the first waypoint is prepared. -/
def Chan.hopReady (x : Chan) (p : Succ) (cyc : Nat) : Chan :=
  if p.kind != .idle && p.entry && x.seq.wpHopOp p.wp != 0 then
    x.prepareHop false (x.seq.wpHopOp p.wp) (x.seq.wpHopIdx p.wp) cyc 0 else x

/-- The Distaff runs, and a soft mark latches its hold. -/
def Chan.runHeld (x : Chan) (cyc : Nat) (pos : Word) : Chan :=
  if (x.dstRunEntry cyc pos).tlh.shed = 1 then (x.dstRunEntry cyc pos).latchHoldAt Cause.shed 0 else x.dstRunEntry cyc pos

/-- The pass that begins the run. -/
def State.runBegun (s : State) (c : ChanId) (p : Succ) (pos : Word) (inst : Q16) : State :=
  (s.modCh c fun x => x.hopReady p s.cycle).beginPass c p (Inst.ofQ inst) (some pos) false

theorem State.enterRun_eq (s : State) (c : ChanId) (pos : Word) (inst : Q16) : s.enterRun c pos inst =
    let idle := (s.ch c).seq.startIdle
    let a := s.runPlaced c pos
    let b := (a.runFilled c idle).runBegun c ((a.ch c).seq.firstPass idle) pos inst
    b.modCh c fun x => x.runHeld b.cycle pos := by
  unfold State.enterRun
  rfl

/-- The parts of a channel that no fill and no hop of a run changes. -/
def Chan.runParts (x : Chan) : ChMod × ChTlh × Tracker × Tdc × Syn × Seq := (x.mod, x.tlh, x.trk, x.tdc, x.syn, x.seq)

theorem State.qcpl_ch (s : State) (c : ChanId) (i : Nat) (code detail : Byte) (d : ChanId) : (s.qcpl c i code detail).ch d = s.ch d := by
  unfold State.qcpl
  exact State.ch_send _ _ _

theorem State.assignFill_runParts (s : State) (c : ChanId) (i : Nat) : ((s.assignFill c i).ch c).runParts = (s.ch c).runParts := by
  unfold State.assignFill
  dsimp only
  split <;> simp [State.qcpl_ch, Chan.runParts]

theorem State.releaseFills_runParts (s : State) (c : ChanId) (i f : Nat) : ((s.releaseFills c i f).ch c).runParts = (s.ch c).runParts := by
  unfold State.releaseFills
  dsimp only
  split
  · rw [foldl_keeps (fun y : State => (y.ch c).runParts) _ (fun y _ => by simp only [State.qcpl_ch])]
    simp [Chan.runParts]
  · simp [Chan.runParts]

theorem State.runFilled_runParts (s : State) (c : ChanId) (idle : Bool) : ((s.runFilled c idle).ch c).runParts = (s.ch c).runParts := by
  unfold State.runFilled
  dsimp only
  split
  · exact s.assignFill_runParts c _
  · rfl

theorem Chan.hopReady_runParts (x : Chan) (p : Succ) (cyc : Nat) : (x.hopReady p cyc).runParts = x.runParts := by
  unfold Chan.hopReady
  split <;> rfl

theorem State.beginPass_runParts (s : State) (c : ChanId) (p : Succ) (i : Inst) (pos : Option Word) (cont : Bool) :
    ((s.beginPass c p i pos cont).ch c).runParts = ((s.ch c).beginPass s.now p i pos cont).runParts := by
  unfold State.beginPass
  dsimp only
  split
  · rw [State.releaseFills_runParts, State.ch_modCh_self]
  · rw [State.ch_modCh_self]

/-- What a pass that begins does to the sequencer. -/
theorem Chan.beginPass_seq (x : Chan) (now : Tbu) (p : Succ) (i : Inst) (pos : Option Word) (cont : Bool) :
    (x.beginPass now p i pos cont).seq = { x.seq with
      playing := true, late := false, wp := p.wp, done := p.done, kind := p.kind, waiting := p.kind == .idle, decided := false, succ := none
      len := (x.beginPass now p i pos cont).seq.len, passPos := (x.beginPass now p i pos cont).seq.passPos
      passStack := (x.beginPass now p i pos cont).seq.passStack, started := (x.beginPass now p i pos cont).seq.started
      hopDone := (x.beginPass now p i pos cont).seq.hopDone, inUnder := (x.beginPass now p i pos cont).seq.inUnder } := by
  simp only [Chan.beginPass, Chan.ite_keeps, Chan.publish_keeps, Chan.noteGaps_keeps, Chan.commitKnots_keeps, Chan.layPass_keeps,
    Chan.outTo_keeps, Chan.usePlayed_keeps, ite_self]

theorem Seq.beginsRun (q : Seq) (pos : Word) : (q.runStart pos).wp = q.startPoint.1 ∧ (q.runStart pos).runPos = pos ∧
    (q.runStart pos).anyLatch = false ∧ (q.runStart pos).holdReq = none := by
  simp [Seq.runStart, Seq.anyLatch]

/-- The channel in RUN, with its route at the start point, before its first pass. -/
def Chan.runPlaced (x : Chan) (pos : Word) : Chan :=
  { x.inState .run with
    mod := { (x.inState .run).mod with startPend := false }
    tlh := { x.tlh with pinned := false, shed := if x.tlh.shed = 1 then 1 else 0 }
    seq := x.seq.runStart pos
    ply := { x.ply with ranTo := none }
    stq := { x.stq with queues := x.stq.queues.map fun e => (e.1, { e.2 with playing := none }) } }

theorem State.runPlaced_self (s : State) (c : ChanId) (pos : Word) : (s.runPlaced c pos).ch c = (s.ch c).runPlaced pos := by
  unfold State.runPlaced
  rw [State.setChState_ch_self, State.ch_modCh_self]
  rfl

/-- A channel whose committed events only differ from those of tracker `k`. -/
def Chan.commitsOf (x : Chan) (k : Tracker) : Prop := ∃ l, x.trk = { k with committed := l }

/-- The run begins: a pass plays for the route of channel `x`, whose other parts are as they were. -/
def Chan.runs (x y : Chan) (p : Succ) : Prop :=
  y.mod = x.mod ∧ y.tlh = x.tlh ∧ y.commitsOf x.trk ∧ y.tdc = x.tdc ∧ y.syn = x.syn ∧
  y.seq.playing = true ∧ y.seq.wp = p.wp ∧ y.seq.decided = false ∧ y.seq.waiting = (p.kind == .idle) ∧
  y.seq.runPos = x.seq.runPos ∧ y.seq.anyLatch = x.seq.anyLatch ∧ y.seq.holdReq = x.seq.holdReq

theorem Chan.runs_of_runParts {x y z : Chan} {p : Succ} (h : z.runParts = y.runParts) (hy : x.runs y p) : x.runs z p := by
  simp only [Chan.runParts, Prod.mk.injEq] at h
  obtain ⟨hmod, htlh, htrk, htdc, hsyn, hseq⟩ := h
  rwa [Chan.runs, Chan.commitsOf, hmod, htlh, htrk, htdc, hsyn, hseq]

theorem Chan.runs_congr {x y z : Chan} {p : Succ} (h : x.runParts = y.runParts) (hy : y.runs z p) : x.runs z p := by
  simp only [Chan.runParts, Prod.mk.injEq] at h
  obtain ⟨hmod, htlh, htrk, htdc, hsyn, hseq⟩ := h
  rwa [Chan.runs, Chan.commitsOf, hmod, htlh, htrk, htdc, hsyn, hseq]

theorem Chan.beginPass_runs (x : Chan) (now : Tbu) (p : Succ) (i : Inst) (pos : Option Word) (cont : Bool) :
    x.runs (x.beginPass now p i pos cont) p := by
  have hseq := x.beginPass_seq now p i pos cont
  have htrk := x.beginPass_trk now p i pos cont
  obtain ⟨hmod, htlh, -, -, -, hsyn, htdc, -⟩ := x.beginPass_keeps now p i pos cont
  refine ⟨hmod, htlh, htrk, htdc, hsyn, ?_⟩
  generalize (x.beginPass now p i pos cont).seq = q at hseq ⊢
  rw [hseq]
  exact ⟨rfl, rfl, rfl, rfl, rfl, rfl, rfl⟩

theorem State.runBegun_runs (s : State) (c : ChanId) (p : Succ) (pos : Word) (inst : Q16) :
    (s.ch c).runs ((s.runBegun c p pos inst).ch c) p := by
  unfold State.runBegun
  refine Chan.runs_of_runParts (State.beginPass_runParts _ _ _ _ _ _) ?_
  rw [State.ch_modCh_self]
  exact Chan.runs_congr (Chan.hopReady_runParts _ _ _).symm (Chan.beginPass_runs _ _ _ _ _ _)

theorem Chan.planFrames_commits (x : Chan) (n : Nat) : (x.planFrames n).commitsOf x.trk := by
  induction n generalizing x with
  | zero => exact ⟨x.trk.committed, rfl⟩
  | succ n ih =>
    rw [Chan.planFrames]
    split
    · next y hy =>
      obtain ⟨l, hl⟩ := ih y
      unfold Chan.planFrame at hy
      simp only [Option.ite_none_right_eq_some, Option.some.injEq] at hy
      obtain ⟨-, hy⟩ := hy
      refine ⟨l, hl.trans ?_⟩
      rw [← hy]
    · exact ⟨x.trk.committed, rfl⟩

theorem Chan.dstRunEntry_commits (x : Chan) (cyc : Nat) (pos : Word) : (x.dstRunEntry cyc pos).commitsOf x.trk := by
  unfold Chan.dstRunEntry
  dsimp only
  obtain ⟨y, hy⟩ : ∃ y, y = x.dstTo (x.dst.pauseAt.getD (q16 (cyc * cycleTbu))) := ⟨_, rfl⟩
  have htrk : y.trk = x.trk := by simp [hy]
  rw [← hy, ← htrk]
  split
  · split
    · have hstart : (y.dstStart cyc (roundUpPos pos)).trk = y.trk := by simp
      rw [← hstart]
      exact Chan.planFrames_commits _ _
    all_goals exact ⟨y.trk.committed, rfl⟩
  · exact Chan.planFrames_commits _ _
  · exact ⟨y.trk.committed, rfl⟩

theorem Chan.runHeld_keeps (x : Chan) (cyc : Nat) (pos : Word) : (x.runHeld cyc pos).mod = x.mod ∧
    (x.runHeld cyc pos).commitsOf x.trk ∧ (x.runHeld cyc pos).tdc = x.tdc ∧ (x.runHeld cyc pos).syn = x.syn := by
  have hcommits := x.dstRunEntry_commits cyc pos
  unfold Chan.runHeld
  split <;> exact ⟨by simp, hcommits, by simp, by simp⟩

/-- The route goes on but for a hold that a soft mark latches. -/
theorem Chan.runHeld_seq (x : Chan) (cyc : Nat) (pos : Word) :
    (x.runHeld cyc pos).seq = { x.seq with holdReq := (x.runHeld cyc pos).seq.holdReq } := by
  have hkeep : (x.dstRunEntry cyc pos).seq = x.seq := by simp
  unfold Chan.runHeld
  split
  · rw [Chan.latchHoldAt, hkeep]
  · rw [hkeep]

theorem Chan.runHeld_soft {x : Chan} (hshed : x.tlh.shed = 1) (hnone : x.seq.holdReq = none) (cyc : Nat) (pos : Word) :
    (x.runHeld cyc pos).seq.holdReq = some (Cause.shed, 0) := by
  have hkeep : (x.dstRunEntry cyc pos).tlh = x.tlh ∧ (x.dstRunEntry cyc pos).seq = x.seq := by simp
  unfold Chan.runHeld
  rw [if_pos (by rw [hkeep.1, hshed]), Chan.latchHoldAt, hkeep.2, hnone]

/-! ### The state after (R124, R144, R163) -/

abbrev Effects.entering : Effects := { Effects.states with send := true }

/-- An operation that changes states of channels and may send to the host. -/
theorem State.Keeps.eq_entering {cs : ChanId → Prop} {rel : List Host.Cell → List Host.Cell → Prop} {u : State}
    (h : State.Keeps .entering cs rel s u) : u = { s with mod := u.mod, hp := u.hp, chans := u.chans } := by
  obtain ⟨hpending, hnow, hmark, -, -, -, -, -, -, htlh, htrk, hvlt, -, -, hskn, hflt, hside, hfree⟩ := h
  replace hmark := hmark rfl
  replace htlh := htlh rfl
  replace htrk := htrk rfl
  replace hvlt := hvlt rfl
  replace hskn := hskn rfl
  replace hflt := hflt rfl
  replace hside := hside rfl
  replace hfree := hfree rfl
  cases u
  simp only at *
  subst hpending hnow hmark htlh htrk hvlt hskn hflt hside hfree
  rfl

/-- A change of a channel's state changes no register of the module but MOD_EVENTS. -/
theorem State.setChState_mod (s : State) (c : ChanId) (st : ChState) :
    (s.setChState c st).mod = { s.mod with events := (s.setChState c st).mod.events } := by
  rw [State.setChState_eq]
  dsimp only
  split <;> rfl

theorem State.enterRun_mod (s : State) (c : ChanId) (pos : Word) (inst : Q16) :
    (s.enterRun c pos inst).mod = { s.mod with events := (s.enterRun c pos inst).mod.events } := by
  have hsame : (s.enterRun c pos inst).mod = (s.runPlaced c pos).mod := by
    rw [State.enterRun_eq]
    dsimp only
    obtain ⟨a, ha⟩ : ∃ a, a = s.runPlaced c pos := ⟨_, rfl⟩
    rw [← ha]
    have hfill : (a.runFilled c (s.ch c).seq.startIdle).mod = a.mod := by
      unfold State.runFilled
      dsimp only
      split
      · exact ((State.Keeps.refl .sending (fun d => d = c) a).assignFill c _ rfl rfl).mod rfl
      · rfl
    rw [State.modCh_mod, State.runBegun, ← hfill]
    exact ((State.Keeps.refl .sending (fun d => d = c) _).beginPass c _ _ _ _ rfl rfl).mod rfl
  rw [hsame]
  exact State.setChState_mod _ _ _

theorem exec_runEntry {e : Committed} (h : (s.ch c).runDue (s.atTime t).cycle = some e) : exec (.runEntry t c) s =
    .next ((s.atTime t).enterRun c e.pos ((s.ch c).trk.plannedAt e.pos e.inst)) := by
  rw [exec, execRunEntry, State.ch_atTime, h]

/-- The channel that enters RUN. -/
theorem State.enterRun_self (s : State) (c : ChanId) (pos : Word) (inst : Q16) :
    ∃ y cyc, ((s.ch c).runPlaced pos).runs y (((s.ch c).seq.runStart pos).firstPass (s.ch c).seq.startIdle) ∧
      (s.enterRun c pos inst).ch c = y.runHeld cyc pos := by
  rw [State.enterRun_eq]
  dsimp only
  rw [State.ch_modCh_self]
  refine ⟨_, _, ?_, rfl⟩
  rw [State.runPlaced_self]
  refine Chan.runs_congr ?_ (State.runBegun_runs _ _ _ _ _)
  rw [State.runFilled_runParts, State.runPlaced_self]

theorem runEntry : Clause.RunEntry := by
  intro t c s e hdue
  have hself := (s.atTime t).enterRun_self c e.pos ((s.ch c).trk.plannedAt e.pos e.inst)
  have hkeeps := (State.Keeps.refl .entering (fun d => d = c) (s.atTime t)).enterRun c e.pos ((s.ch c).trk.plannedAt e.pos e.inst) rfl rfl rfl
  have hmod := (s.atTime t).enterRun_mod c e.pos ((s.ch c).trk.plannedAt e.pos e.inst)
  have hex := exec_runEntry hdue
  generalize (s.atTime t).enterRun c e.pos ((s.ch c).trk.plannedAt e.pos e.inst) = u at *
  refine ⟨u, hex, hkeeps.sameCreels_of rfl, fun d hd => hkeeps.other d hd, ?_, ?_⟩
  · have heq := hkeeps.eq_entering
    rw [hmod] at heq
    exact heq
  · rw [State.ch_atTime] at hself
    obtain ⟨y, cyc, ⟨ymod, ytlh, ⟨l, ytrk⟩, ytdc, ysyn, yplay, ywp, ydecided, ywait, yrun, ylatch, yhold⟩, hu⟩ := hself
    obtain ⟨hwp, hrun, hlatch, hhold⟩ := (s.ch c).seq.beginsRun e.pos
    obtain ⟨kmod, ⟨l', ktrk⟩, ktdc, ksyn⟩ := y.runHeld_keeps cyc e.pos
    have kseq := y.runHeld_seq cyc e.pos
    have ksoft := fun hs hn => y.runHeld_soft hs hn cyc e.pos
    rw [hu]
    generalize y.runHeld cyc e.pos = z at *
    refine ⟨kmod.trans ymod, ?_, ?_, ?_, ?_, ?_, ?_, ?_, ktdc.trans ytdc, ksyn.trans ysyn, fun hshed => ?_⟩
    · rw [kseq]; exact yplay
    · rw [kseq]; exact ywp.trans hwp
    · rw [kseq]; exact yrun.trans hrun
    · rw [kseq]; exact ydecided
    · rw [kseq]; exact ylatch.trans hlatch
    · rw [kseq]
      refine ywait.trans ?_
      cases (s.ch c).seq.startIdle <;> rfl
    · rw [ktrk, ytrk]
      rfl
    · refine ksoft (by rw [ytlh]; exact if_pos hshed) (yhold.trans hhold)

/-! ### The end of DRAIN in REST (R127, R129, R242) -/

/-- A channel at the end of DRAIN: its switches are open, its grant is given up and its levels ramp no longer. -/
def Chan.drainEnds (x : Chan) : Chan :=
  { x.switchesOpen.releaseGrant with ana := { x.switchesOpen.releaseGrant.ana with ramp := none } }

/-- The ENABLE that waited for the end of DRAIN. -/
def Chan.enablePending (x : Chan) : Chan := ({ x with mod := { x.mod with pendEn := false } } : Chan).enableExec

/-- The channel in REST, its outputs at rest. -/
def State.drainRested (s : State) (c : ChanId) : State := (s.modCh c Chan.drainEnds).enterRest c

/-- The state after the ENABLE that waited, with PENDING_DONE set. -/
def State.enabled (s : State) (c : ChanId) : State :=
  { s.modCh c Chan.enablePending with
    mod := { (s.modCh c Chan.enablePending).mod with events := evSet (s.modCh c Chan.enablePending).mod.events ModEv.pendingDone } }

theorem State.enabled_mod (s : State) (c : ChanId) :
    (s.enabled c).mod = { s.mod with events := evSet s.mod.events ModEv.pendingDone } := rfl

theorem State.enabled_self (s : State) (c : ChanId) : (s.enabled c).ch c = (s.ch c).enablePending := State.ch_modCh_self s c _

theorem State.drainComplete_eq (s : State) (c : ChanId) :
    s.drainComplete c = if (s.ch c).mod.pendEn then (s.drainRested c).enabled c else s.drainRested c := by
  have hpend : ((s.modCh c Chan.drainEnds).ch c).mod.pendEn = (s.ch c).mod.pendEn := by rw [State.ch_modCh_self]; rfl
  rw [← hpend]
  unfold State.drainComplete
  dsimp only
  generalize hrest : State.enterRest _ c = r
  rw [show s.drainRested c = r from hrest]
  rfl

theorem Chan.restSteps_mod (x : Chan) (now : Tbu) : (x.restSteps now).mod = { x.mod with drainAt := none, drainSyn := false } := by
  simp [Chan.restSteps]

theorem Chan.restSteps_tlh (x : Chan) (now : Tbu) : (x.restSteps now).tlh = { x.tlh with shed := 0 } := by
  simp [Chan.restSteps]

theorem Chan.restSteps_playing (x : Chan) (now : Tbu) : (x.restSteps now).seq.playing = false := by
  simp [Chan.restSteps, Seq.stopPass]

theorem Chan.restSteps_ramp (x : Chan) (now : Tbu) : (x.restSteps now).ana.ramp = x.ana.ramp := by
  unfold Chan.restSteps
  dsimp only
  unfold Chan.rangeAtRest
  split <;> simp [Ana.rangeStart]

theorem Chan.restSteps_range {x : Chan} (hc : x.configured = true) (hat : x.ana.rangeAt = none)
    (hr : rangeOf x.ana.wavCfg ≠ x.ana.rangeNow) (now : Tbu) :
    (x.restSteps now).ana.rangeAt = some now ∧ (x.restSteps now).ana.rangeTo = rangeOf x.ana.wavCfg := by
  unfold Chan.restSteps
  dsimp only
  unfold Chan.rangeAtRest
  rw [if_pos (by simpa [Chan.configured, hat, hr] using hc)]
  simp [Ana.rangeStart]

/-- What the end of DRAIN leaves of channel `x`. -/
def Chan.drainsTo (x y : Chan) (now : Tbu) : Prop :=
  y.mod.state = .rest ∧ y.mod.drainAt = none ∧ y.mod.pendEn = false ∧ y.ana.sw = 0 ∧
  y.tlh.granted = false ∧ y.tlh.request = none ∧ y.tlh.shed = 0 ∧ y.seq.playing = false ∧
  y.mod.outEn = x.mod.pendEn ∧ y.ana.ramp = none ∧
  (x.configured = true → x.ana.rangeAt = none → rangeOf x.ana.wavCfg ≠ x.ana.rangeNow →
    y.ana.rangeAt = some now ∧ y.ana.rangeTo = rangeOf x.ana.wavCfg) ∧ y.syn = x.syn

theorem State.enterRest_drained (s : State) (c : ChanId) : ∃ y, (s.drainRested c).ch c = y ∧
    ((s.ch c).mod.pendEn = false → (s.ch c).drainsTo y s.now) ∧
    ((s.ch c).mod.pendEn = true → (s.ch c).drainsTo y.enablePending s.now) := by
  obtain ⟨q, m, hy⟩ := enterRest_self (s.modCh c Chan.drainEnds) c
  rw [State.ch_modCh_self, State.modCh_now] at hy
  obtain ⟨x, hx⟩ : ∃ x, x = (s.ch c).drainEnds := ⟨_, rfl⟩
  rw [← hx] at hy
  have hmod := x.restSteps_mod s.now
  have htlh := x.restSteps_tlh s.now
  have hplay := x.restSteps_playing s.now
  have hramp := x.restSteps_ramp s.now
  have hrange := fun hc hat hr => x.restSteps_range hc hat hr s.now
  obtain ⟨hsw, -⟩ := x.restSteps_switches s.now
  have hsyn : (x.restSteps s.now).syn = x.syn := by simp
  generalize x.restSteps s.now = r at *
  have xmod : x.mod = { (s.ch c).mod with outEn := false } := by rw [hx]; rfl
  have xsyn : x.syn = (s.ch c).syn := by rw [hx]; rfl
  have xsw : x.ana.sw = 0 := by rw [hx]; rfl
  have xramp : x.ana.ramp = none := by rw [hx]; rfl
  have xtlh : x.tlh = { (s.ch c).tlh with granted := false, request := none, gradeWait := none, deny := 0 } := by rw [hx]; rfl
  have xrange : (s.ch c).configured = true → (s.ch c).ana.rangeAt = none → rangeOf (s.ch c).ana.wavCfg ≠ (s.ch c).ana.rangeNow →
      r.ana.rangeAt = some s.now ∧ r.ana.rangeTo = rangeOf (s.ch c).ana.wavCfg := by
    rw [hx] at hrange
    exact hrange
  refine ⟨_, hy, fun hpend => ?_, fun hpend => ?_⟩
  · refine ⟨rfl, ?_, ?_, hsw.trans xsw, ?_, ?_, ?_, hplay, ?_, hramp.trans xramp, xrange, hsyn.trans xsyn⟩
    · show r.mod.drainAt = _
      rw [hmod]
    · show r.mod.pendEn = _
      rw [hmod, xmod, hpend]
    · show r.tlh.granted = _
      rw [htlh, xtlh]
    · show r.tlh.request = _
      rw [htlh, xtlh]
    · show r.tlh.shed = _
      rw [htlh]
    · show r.mod.outEn = _
      rw [hmod, xmod, hpend]
  · refine ⟨rfl, ?_, rfl, ?_, ?_, ?_, ?_, hplay, hpend.symm, hramp.trans xramp, xrange, hsyn.trans xsyn⟩
    · show r.mod.drainAt = _
      rw [hmod]
    · show r.ana.sw &&& _ = 0
      rw [hsw, xsw]
      exact BitVec.zero_and
    · show r.tlh.granted = _
      rw [htlh, xtlh]
    · show r.tlh.request = _
      rw [htlh, xtlh]
    · show r.tlh.shed = _
      rw [htlh]

theorem State.enterRest_mod (h : (s.ch c).mod.state ≠ .rest) :
    (s.enterRest c).mod = { s.mod with events := evSet s.mod.events ModEv.stateChange } := by
  have hstate : ((s.modCh c fun x => x.restSteps s.now).ch c).mod.state ≠ .rest := by
    rw [State.ch_modCh_self, Chan.restSteps_mod]
    exact h
  unfold State.enterRest
  rw [State.closeEnded_mod, State.setChState_eq]
  exact if_neg hstate

theorem State.drainComplete_mod (h : (s.ch c).mod.state = .drain) :
    (s.drainComplete c).mod = { s.mod with events := (s.drainComplete c).mod.events } ∧
    bit (s.drainComplete c).mod.events.bits ModEv.stateChange = true ∧
    ((s.ch c).mod.pendEn = true → bit (s.drainComplete c).mod.events.bits ModEv.pendingDone = true) := by
  have hstate : ((s.modCh c Chan.drainEnds).ch c).mod.state ≠ .rest := by
    rw [State.ch_modCh_self]
    exact fun he => ChState.noConfusion (h.symm.trans he)
  have hrest : (s.drainRested c).mod = { s.mod with events := evSet s.mod.events ModEv.stateChange } := State.enterRest_mod hstate
  rw [State.drainComplete_eq]
  generalize s.drainRested c = r at hrest
  by_cases hpend : (s.ch c).mod.pendEn = true
  · rw [if_pos hpend, State.enabled_mod, hrest]
    exact ⟨rfl, Sticky.le_evSet _ _ _ (bit_evSet_self (by decide)), fun _ => bit_evSet_self (by decide)⟩
  · rw [if_neg hpend, hrest]
    exact ⟨rfl, bit_evSet_self (by decide), fun he => absurd he hpend⟩

theorem State.drainComplete_self (s : State) (c : ChanId) : (s.ch c).drainsTo ((s.drainComplete c).ch c) s.now := by
  obtain ⟨y, hy, hplain, henabled⟩ := s.enterRest_drained c
  rw [State.drainComplete_eq]
  generalize s.drainRested c = r at hy
  by_cases hpend : (s.ch c).mod.pendEn = true
  · rw [if_pos hpend, State.enabled_self, hy]
    exact henabled hpend
  · rw [if_neg hpend, hy]
    exact hplain (Bool.eq_false_iff.2 hpend)

/-! ### The steps before (R127) -/

theorem Chan.drainOpened_of_due {x : Chan} {a now : Tbu} (hst : x.mod.state = .drain) (hat : x.mod.drainAt = some a)
    (h : a + 15 * us ≤ now) : x.drainOpened now = true := by
  unfold Chan.drainOpened
  rw [hst, any_due hat drainOpen now h]
  rfl

theorem Chan.pipesEmpty_of_due {x : Chan} {a now : Tbu} (hst : x.mod.state = .drain) (hat : x.mod.drainAt = some a)
    (h : a + 15 * us ≤ now) (hw : x.mem.writesDone = true ∨ a + 145 * us ≤ now) : x.pipesEmpty now = true := by
  unfold Chan.pipesEmpty
  rw [Chan.drainOpened_of_due hst hat h, Bool.true_and, Bool.or_eq_true]
  exact hw.imp_right (any_due hat _ _)

/-- Nothing of step 7 of DRAIN is left to begin. -/
theorem Chan.drainOn_of_begun {x : Chan} {now : Tbu} (h : bit x.mod.cfg 0 = false ∨ x.mod.drainSyn = true) : x.drainOn now = x := by
  unfold Chan.drainOn
  rcases h with h | h <;> simp [h]

theorem State.modCh_fixed {f : Chan → Chan} (h : f (s.ch c) = s.ch c) : s.modCh c f = s :=
  (State.modCh_congr (g := id) h).trans (s.modCh_id c)

/-- A turn of a channel in DRAIN: step 7 begins if it is due, and once it is over, step 8 follows. -/
def State.drainTurn (s : State) (c : ChanId) : State :=
  if ((s.modCh c fun x => x.drainOn s.now).ch c).drained s.now then (s.modCh c fun x => x.drainOn s.now).drainComplete c
  else s.modCh c fun x => x.drainOn s.now

theorem exec_drainComplete (hst : (s.ch c).mod.state = .drain) : exec (.drainComplete t c) s = .next ((s.atTime t).drainTurn c) := by
  rw [exec, execDrainComplete]
  dsimp only
  rw [State.drainTurn, if_pos (show ((s.atTime t).ch c).mod.state = .drain from hst)]
  rfl

/-- A turn in which step 7 does not begin. -/
theorem State.drainTurn_of_begun (hon : (s.ch c).drainOn s.now = s.ch c) :
    s.drainTurn c = if (s.ch c).drained s.now then s.drainComplete c else s := by
  rw [State.drainTurn, State.modCh_fixed (f := fun x => x.drainOn s.now) hon]

/-- A turn in which step 7 is not over. -/
theorem State.drainTurn_of_undrained (h : ((s.ch c).drainOn s.now).drained s.now = false) :
    s.drainTurn c = s.modCh c fun x => x.drainOn s.now := by
  rw [State.drainTurn, State.ch_modCh_self, h]
  exact if_neg Bool.false_ne_true

theorem drainEnds : ∀ (t : Tbu) (c : ChanId) (s : State) (a : Tbu), (s.ch c).mod.state = .drain → (s.ch c).mod.drainAt = some a →
    a + 15 * us ≤ max s.now t → (s.ch c).mem.writesDone = true ∨ a + 145 * us ≤ max s.now t →
    bit (s.ch c).mod.cfg 0 = false ∨
      (s.ch c).mod.drainSyn = true ∧ (s.ch c).powering false = false ∧ (s.ch c).powering true = false →
    exec (.drainComplete t c) s = .next ((s.atTime t).drainComplete c) := by
  intro t c s a hst hat hopen hwrites hsyn
  have hon : (s.ch c).drainOn (max s.now t) = s.ch c := Chan.drainOn_of_begun (hsyn.imp_right And.left)
  have hdrained : (s.ch c).drained (max s.now t) = true := by
    unfold Chan.drained
    rw [Chan.pipesEmpty_of_due hst hat hopen hwrites]
    rcases hsyn with h | ⟨h, hs, hl⟩
    · simp [h]
    · simp [h, hs, hl]
  rw [exec_drainComplete hst, State.drainTurn_of_begun (s := s.atTime t) hon]
  exact congrArg _ (if_pos hdrained)

/-! ### The synthesizers power down (R290) -/

/-- A synthesizer that powers down; one that is off, stopping or failed stays as it is. -/
def Synth.down (x : Synth) : Synth :=
  match x.state with
  | .off | .stopping | .failed => x
  | _ => { x with gate := false, state := .stopping, lock := false, tune := .none, paused := false, waiting := none }

theorem Synth.down_atRest {x : Synth} (h : atRest x) : x.down = x := by
  unfold Synth.down
  rcases h with h | h | h <;> rw [h]

theorem Synth.down_running {x : Synth} (h : ¬atRest x) :
    x.down = { x with gate := false, state := .stopping, lock := false, tune := .none, paused := false, waiting := none } := by
  unfold Synth.down
  cases hs : x.state <;> simp_all [atRest]

theorem Synth.atRest_down (x : Synth) : atRest x.down := by
  by_cases h : atRest x
  · rwa [Synth.down_atRest h]
  · rw [Synth.down_running h]
    exact .inr (.inl rfl)

theorem Chan.powerDown_synth (x : Chan) (i j : Fin 4) (now : Tbu) :
    (x.powerDown i now).synth j = if j = i then (x.synth i).down else x.synth j := by
  have hclose := x.closeGate_syn i now false
  have hput : ∀ y : Synth, (vput x.syn.synths i y)[j] = if j = i then y else x.syn.synths[j] := by
    intro y
    by_cases h : j = i
    · subst h; simp
    · simp [vput_get_ne _ _ h, h]
  have hself : (x.closeGate i now false).synth i = { x.synth i with gate := false } := by
    rw [Chan.synth, hclose]
    simp
  have hset : ∀ y : Synth, ((x.closeGate i now false).setSynth i y).synth j = if j = i then y else x.synth j := by
    intro y
    rw [Chan.synth, Chan.setSynth, hclose]
    by_cases h : j = i
    · subst h; simp
    · simp [vput_get_ne _ _ h, h, Chan.synth]
  by_cases h : atRest (x.synth i)
  · have hstay : x.powerDown i now = x := by
      unfold Chan.powerDown
      rcases h with h | h | h <;> rw [h]
    rw [hstay, Synth.down_atRest h]
    split
    · next hj => rw [hj]
    · rfl
  · have hdown : x.powerDown i now = (x.closeGate i now false).setSynth i (x.synth i).down := by
      rw [Synth.down_running h]
      unfold Chan.powerDown
      dsimp only
      rw [hself]
      unfold atRest at h
      cases hs : (x.synth i).state <;> simp_all
    rw [hdown, hset]

theorem Chan.powerDowns_synth (l : List (Fin 4)) (x : Chan) (j : Fin 4) (now : Tbu) :
    (l.foldl (fun x i => x.powerDown i now) x).synth j = if j ∈ l then (x.synth j).down else x.synth j := by
  induction l generalizing x with
  | nil => rfl
  | cons i l ih =>
    rw [List.foldl_cons, ih, Chan.powerDown_synth]
    by_cases hj : j = i
    · subst hj
      simp [Synth.down_atRest (Synth.atRest_down _)]
    · simp [hj]

theorem Chan.cancelPrepare_synth (x : Chan) (lane : Bool) (j : Fin 4) : (x.cancelPrepare lane).synth j = x.synth j := by
  cases lane <;> rfl

theorem Chan.recover_synth (x : Chan) (lane : Bool) (now : Tbu) (j : Fin 4) : (x.recover lane now).synth j = x.synth j := by
  unfold Chan.recover
  cases lane <;> (dsimp only; split <;> rfl)

theorem mem_allSynths (j : Fin 4) : j ∈ allSynths := by
  revert j
  decide

/-- Step 7 of DRAIN begins: the synthesizers that are not at rest stop. -/
theorem Chan.drainOn_begins {x : Chan} {now : Tbu} (hst : x.mod.state = .drain) (hcfg : bit x.mod.cfg 0 = true)
    (hsyn : x.mod.drainSyn = false) (hpipes : x.pipesEmpty now = true) :
    (x.drainOn now).mod = { x.mod with drainSyn := true } ∧ ∀ j, (x.drainOn now).synth j = (x.synth j).down := by
  unfold Chan.drainOn
  rw [if_pos (by simp [hst, hcfg, hsyn, hpipes])]
  dsimp only
  obtain ⟨y, hy⟩ : ∃ y, y = (x.cancelPrepare false).cancelPrepare true := ⟨_, rfl⟩
  obtain ⟨z, hz⟩ : ∃ z, z = allSynths.foldl (fun x i => x.powerDown i now) y := ⟨_, rfl⟩
  have hmod : z.mod = x.mod := by
    rw [hz, foldl_keeps Chan.mod _ (fun x i => by simp), hy]
    simp
  have hsynth : ∀ j, z.synth j = (x.synth j).down := by
    intro j
    rw [hz, Chan.powerDowns_synth, if_pos (mem_allSynths j), hy, Chan.cancelPrepare_synth, Chan.cancelPrepare_synth]
  rw [← hy, ← hz]
  have hmod' : ((z.recover false now).recover true now).mod = x.mod := by simp [hmod]
  have hsynth' : ∀ j, ((z.recover false now).recover true now).synth j = (x.synth j).down := fun j => by
    rw [Chan.recover_synth, Chan.recover_synth, hsynth]
  generalize (z.recover false now).recover true now = w at hmod' hsynth'
  exact ⟨by rw [hmod'], hsynth'⟩

/-- One of the two synthesizers of its pair is active, and the other idle. -/
theorem Syn.mem_pair (y : Syn) (i : Fin 4) : i = y.active (isLane i) ∨ i = y.idle (isLane i) := by
  have hcover : ∀ (a b : Bool) (i : Fin 4), i = (if isLane i then (if b then 3 else 2) else (if a then 1 else 0)) ∨
      i = (if isLane i then (if b then 2 else 3) else (if a then 0 else 1)) := by decide
  exact hcover y.s.second y.l.second i

theorem Chan.powering_of_stopping {x : Chan} {i : Fin 4} (h : (x.synth i).state = .stopping) : x.powering (isLane i) = true := by
  unfold Chan.powering Chan.act Chan.idl
  rcases x.syn.mem_pair i with hi | hi <;> rw [← hi, h] <;> simp

/-- While a synthesizer stops, DRAIN goes on. -/
theorem Chan.drained_of_stopping {x : Chan} {i : Fin 4} (hcfg : bit x.mod.cfg 0 = true) (h : (x.synth i).state = .stopping) (now : Tbu) :
    x.drained now = false := by
  have hp := Chan.powering_of_stopping h
  unfold Chan.drained
  cases hl : isLane i <;> rw [hl] at hp <;> simp [hcfg, hp]

theorem drainPowersDown {a : Tbu} (hst : (s.ch c).mod.state = .drain) (hat : (s.ch c).mod.drainAt = some a)
    (hopen : a + 15 * us ≤ max s.now t) (hwrites : (s.ch c).mem.writesDone = true ∨ a + 145 * us ≤ max s.now t)
    (hcfg : bit (s.ch c).mod.cfg 0 = true) (hsyn : (s.ch c).mod.drainSyn = false) (hrun : ∃ i : Fin 4, ¬atRest (s.ch c).syn.synths[i]) :
    exec (.drainComplete t c) s = .next ((s.atTime t).modCh c fun x => x.drainOn (max s.now t)) := by
  obtain ⟨hmod, hsynth⟩ := Chan.drainOn_begins hst hcfg hsyn (Chan.pipesEmpty_of_due hst hat hopen hwrites)
  obtain ⟨i, hi⟩ := hrun
  have hstop : (((s.ch c).drainOn (max s.now t)).synth i).state = .stopping := by
    rw [hsynth, Chan.synth, Synth.down_running hi]
  have hgoes : ((s.ch c).drainOn (max s.now t)).drained (max s.now t) = false :=
    Chan.drained_of_stopping (by rw [hmod]; exact hcfg) hstop _
  rw [exec_drainComplete hst, State.drainTurn_of_undrained (s := s.atTime t) hgoes]
  rfl

theorem drainComplete : Clause.DrainComplete := by
  refine ⟨fun t c s a hst hat hopen hwrites hsyn => ?_, fun t c s a hst hat hearly => ?_,
    fun t c s a hst hat hopen hwrites hcfg hsyn hrun => ?_⟩
  · have hex := drainEnds t c s a hst hat hopen hwrites hsyn
    have hkeeps := (State.Keeps.refl .entering (fun d => d = c) (s.atTime t)).drainComplete c rfl rfl rfl
    obtain ⟨hmod, hchange, hpending⟩ := State.drainComplete_mod (s := s.atTime t) hst
    have hself := (s.atTime t).drainComplete_self c
    generalize (s.atTime t).drainComplete c = u at *
    obtain ⟨dstate, dat, dpend, dsw, dgranted, drequest, dshed, dplay, den, dramp, drange, dsyn⟩ := hself
    have heq := hkeeps.eq_entering
    rw [hmod] at heq
    exact ⟨u, hex, hkeeps.sameCreels_of rfl, fun d hd => hkeeps.other d hd, heq, hchange, dstate, dat, dpend, dsw, dgranted, drequest,
      dshed, dplay, den, dramp, hpending, drange, fun _ => dsyn⟩
  · have hopen : (s.ch c).drainOpened (max s.now t) = false := by
      unfold Chan.drainOpened
      rw [eq_false_of_ne_true (any_not_due hat drainOpen _ hearly), Bool.and_false]
    have hdrained : ¬(s.ch c).drained (max s.now t) = true := by
      unfold Chan.drained Chan.pipesEmpty
      rw [hopen]
      simp
    rw [exec_drainComplete hst, State.drainTurn_of_begun (s := s.atTime t) (Chan.drainOn_of_unopened hopen)]
    exact congrArg _ (if_neg hdrained)
  · obtain ⟨hmod, hsynth⟩ := Chan.drainOn_begins hst hcfg hsyn (Chan.pipesEmpty_of_due hst hat hopen hwrites)
    refine ⟨_, drainPowersDown hst hat hopen hwrites hcfg hsyn hrun, State.onlyChannel_modCh .., ?_, ?_⟩
    · exact ((State.Keeps.refl .channels (fun d => d = c) (s.atTime t)).modCh c _ (by simp) rfl).sameCreels_of rfl
    · rw [State.ch_modCh_self, State.ch_atTime]
      refine ⟨hmod, fun i => ?_⟩
      have hi := hsynth i
      unfold Chan.synth at hi
      rw [hi]
      refine ⟨fun hr => by rw [Synth.down_atRest hr], fun hr => ?_⟩
      rw [Synth.down_running hr]
      exact ⟨rfl, rfl, rfl⟩

/-- Settles O29: the first pass of the run, and the turns of DRAIN. -/
theorem runEnteredAndLeft : Obligations.RunEnteredAndLeft := ⟨runEntry, drainComplete⟩

end Sys2Proof.Machine
end


section
/-! COPY, FILL and TRAIN: requested, begun and completed, and the bursts they move. -/

namespace Sys2Proof.Machine

variable {t : Tbu} {c : ChanId} {s : State}

/-! ### Requests (R386, R387) -/

/-- The service of command 1, 2 or 3 of MEM_SVC_CMD with the operands of its write. -/
def Mem.requested (m : Mem) (cmd : Nat) : Service :=
  if cmd = 1 then .copy (fld m.svcSrc 0 34) (fld m.svcDst 0 34) (fld m.svcLen 0 35)
  else if cmd = 2 then .fill (fld m.svcDst 0 34) (fld m.svcLen 0 35) m.svcPat else .train false

theorem Chan.svcRequest_refused {x : Chan} {cmd : Nat} (h : x.svcTest cmd ≠ 0) :
    x.svcRequest cmd = { x with mem := { x.mem with svcResult := x.svcTest cmd } } := if_pos h

theorem Chan.svcRequest_accepted {x : Chan} {cmd : Nat} (h : x.svcTest cmd = 0) : x.svcRequest cmd =
    { x with mem := { x.mem with svcResult := 0 }, dof := { x.dof with queue := x.dof.queue ++ [x.mem.requested cmd] } } := by
  unfold Chan.svcRequest
  rw [h]
  rfl

theorem Chan.svcTest_unconfigured {x : Chan} (h : x.configured = false) (cmd : Nat) : x.svcTest cmd = 1 := by
  simp [Chan.svcTest, h]

/-- A request in the window reaches its channel. -/
theorem svcRequested (i : Instr) (cmd : Nat) (x : Service)
    (hex : exec i s = .next ((s.atTime t).ifWindow fun s => s.modCh c fun y => y.svcRequest cmd)) (hx : x = (s.ch c).mem.requested cmd)
    (hw : s.windowUp = true) :
    ((s.ch c).configured = false → (s.ch c).svcTest cmd = 1) ∧
    ((s.ch c).svcTest cmd ≠ 0 → exec i s = .next ((s.atTime t).modMem c fun m => { m with svcResult := (s.ch c).svcTest cmd })) ∧
    ((s.ch c).svcTest cmd = 0 → exec i s = .next ((s.atTime t).modCh c fun y => { y with
      mem := { y.mem with svcResult := 0 }, dof := { y.dof with queue := y.dof.queue ++ [x] } })) := by
  rw [hex, State.ifWindow_pos (s := s.atTime t) _ hw, hx]
  refine ⟨fun hc => Chan.svcTest_unconfigured hc cmd, fun h => ?_, fun h => ?_⟩
  · exact congrArg _ (State.modCh_congr (s := s.atTime t) (Chan.svcRequest_refused h))
  · exact congrArg _ (State.modCh_congr (s := s.atTime t) (Chan.svcRequest_accepted h))

/-! ### The start of a service (R113, R434) -/

/-- The next service is taken: it is in progress, none of its bursts done. -/
def Chan.taking (y : Chan) (x : Service) (rest : List Service) : Chan :=
  { y with dof := { y.dof with queue := rest, running := some x }, mem := { y.mem with svcAt := 0, svcBuf := [] } }

theorem State.serviceStart_idle
    (h : (s.ch c).dof.queue = [] ∨ (s.ch c).dof.running ≠ none ∨ (s.ch c).dof.restarting = true ∨ (s.ch c).flt.dofferLost = true) :
    s.serviceStart c = s := by
  unfold State.serviceStart
  dsimp only
  split
  · rfl
  · next x rest hq =>
    have hbusy : (s.ch c).dof.running.isSome = true ∨ (s.ch c).dof.restarting = true ∨ (s.ch c).flt.dofferLost = true := by
      rcases h with h | h | h | h
      · exact absurd (hq.symm.trans h) (List.cons_ne_nil _ _)
      · exact .inl (Option.isSome_iff_ne_none.2 h)
      · exact .inr (.inl h)
      · exact .inr (.inr h)
    rw [if_pos]
    rcases hbusy with h | h | h <;> simp [h]

/-- The Doffer is free for the service at the head of its queue. -/
structure State.doffs (s : State) (c : ChanId) (x : Service) (rest : List Service) : Prop where
  queue : (s.ch c).dof.queue = x :: rest
  running : (s.ch c).dof.running = none
  restarting : (s.ch c).dof.restarting = false
  doffer : (s.ch c).flt.dofferLost = false
  configured : (s.ch c).configured = true
  working : s.working = true

/-- A channel that enters TRIM for a service asks for its grant. -/
def Chan.trimming (y : Chan) (tick : Nat) (x : Service) (rest : List Service) : Chan :=
  { y.taking x rest with
    tlh := { y.tlh with request := some { tick := tick, service := true }, granted := false }
    cal := match x with
      | .calRun _ => { y.cal with state := 2 }
      | _ => y.cal }

theorem State.serviceStart_of_free {x : Service} {rest : List Service} (h : s.doffs c x rest) : s.serviceStart c =
    if !x.inTrim then s.modCh c fun y => y.taking x rest
    else if ((s.ch c).mod.state ≠ .rest ∧ (s.ch c).mod.state ≠ .trim) ∨ (s.ch c).seq.checking then s
    else (s.modCh c fun y => y.trimming s.tlh.tick x rest).enterTrim c := by
  unfold State.serviceStart
  dsimp only
  rw [h.queue]
  dsimp only
  rw [if_neg (by simp [h.running, h.restarting, h.doffer, h.configured, h.working])]
  rfl

/-- One unit of the TDC is suspended. -/
def Chan.suspendUnit (y : Chan) (k : Fin 4) : Chan :=
  (if (y.tun k).measures then y.tdcEvent TdcEv.aborted else y).setUnit k { (y.tun k).ready (y.tun k).armAt with state := .suspended }

theorem Chan.suspendUnit_tun (y : Chan) (j k : Fin 4) : (y.suspendUnit j).tun k =
    if k = j then { (y.tun j).ready (y.tun j).armAt with state := .suspended } else y.tun k := by
  have hunits : (if (y.tun j).measures then y.tdcEvent TdcEv.aborted else y).tdc.units = y.tdc.units := by split <;> rfl
  unfold Chan.suspendUnit Chan.setUnit
  unfold Chan.tun at hunits ⊢
  rw [hunits]
  by_cases h : k = j
  · subst h; simp
  · simp [vput_get_ne _ _ h, h]

theorem Chan.suspendUnits_suspended (l : List (Fin 4)) (y : Chan) (k : Fin 4) (h : k ∈ l ∨ (y.tun k).state = .suspended) :
    ((l.foldl Chan.suspendUnit y).tun k).state = .suspended := by
  induction l generalizing y with
  | nil => exact h.resolve_left List.not_mem_nil
  | cons j l ih =>
    rw [List.foldl_cons]
    refine ih _ ?_
    rw [Chan.suspendUnit_tun]
    by_cases hk : k = j
    · exact .inr (by rw [if_pos hk])
    · rw [if_neg hk]
      exact h.imp_left fun hm => (List.mem_cons.1 hm).resolve_left hk

theorem Chan.tdcSuspend_suspended (y : Chan) (k : Fin 4) : (y.tdcSuspend.tun k).state = .suspended :=
  Chan.suspendUnits_suspended fin4 y k (.inl (by revert k; decide))

/-- The entry to TRIM of a channel in REST. -/
theorem State.enterTrim_of_rest (h : (s.ch c).mod.state = .rest) : s.enterTrim c = (s.modCh c Chan.tdcSuspend).setChState c .trim := by
  unfold State.enterTrim
  rw [if_neg (by rw [h]; exact nofun)]

theorem State.enterTrim_state (h : (s.ch c).mod.state = .rest) : s.enterTrim c =
    { s with mod := { s.mod with events := evSet s.mod.events ModEv.stateChange }, chans := (s.enterTrim c).chans } := by
  have hst : ((s.modCh c Chan.tdcSuspend).ch c).mod.state ≠ .trim := by
    have hmod : (s.ch c).tdcSuspend.mod = (s.ch c).mod := foldl_keeps Chan.mod Chan.suspendUnit (fun y k => by
      unfold Chan.suspendUnit
      split <;> rfl) fin4 (s.ch c)
    rw [State.ch_modCh_self, hmod, h]
    exact nofun
  rw [State.enterTrim_of_rest h, State.setChState_eq, if_neg hst]
  rfl

/-- What the suspension of the units leaves. -/
theorem Chan.tdcSuspend_others (y : Chan) : y.tdcSuspend.dof = y.dof ∧ y.tdcSuspend.tlh = y.tlh :=
  have hkeep : (y.tdcSuspend.dof, y.tdcSuspend.tlh) = (y.dof, y.tlh) :=
    foldl_keeps (fun y : Chan => (y.dof, y.tlh)) Chan.suspendUnit (fun y k => by
      unfold Chan.suspendUnit
      split <;> rfl) fin4 y
  Prod.mk.injEq _ _ _ _ ▸ hkeep

theorem State.trimStart {x : Service} {rest : List Service} (h : s.doffs c x rest) (htrim : x.inTrim = true)
    (hst : (s.ch c).mod.state = .rest) (hchk : (s.ch c).seq.checking = false) :
    ∃ u, s.serviceStart c = u ∧
      u = { s with chans := u.chans, mod := { s.mod with events := evSet s.mod.events ModEv.stateChange } } ∧
      (∀ d : ChanId, d ≠ c → u.ch d = s.ch d) ∧ s.sameCreels u ∧
      (u.ch c).mod.state = .trim ∧ (u.ch c).dof.running = some x ∧ (u.ch c).dof.queue = rest ∧ (u.ch c).tlh.granted = false ∧
      (u.ch c).tlh.request = some { tick := s.tlh.tick, service := true } ∧ ∀ k : Fin 4, ((u.ch c).tun k).state = .suspended := by
  obtain ⟨v, hv⟩ : ∃ v, v = s.modCh c fun y => y.trimming s.tlh.tick x rest := ⟨_, rfl⟩
  have hvs : v = { s with chans := v.chans } := by rw [hv]; rfl
  have hvmod : v.mod = s.mod := by rw [hv]; rfl
  have hvself : v.ch c = (s.ch c).trimming s.tlh.tick x rest := by rw [hv, State.ch_modCh_self]
  have hvst : (v.ch c).mod.state = .rest := by rw [hvself]; exact hst
  have hstart : s.serviceStart c = v.enterTrim c := by
    rw [State.serviceStart_of_free h, htrim, hv]
    simp [hst, hchk]
  have hkeeps : State.Keeps .states (fun d => d = c) Eq s (v.enterTrim c) := by
    rw [hv]
    exact ((State.Keeps.refl .states (fun d => d = c) s).modCh c _ rfl rfl).enterTrim c rfl rfl
  have hstate := State.enterTrim_state hvst
  have hself : (v.enterTrim c).ch c = (v.ch c).tdcSuspend.inState .trim := by
    rw [State.enterTrim_self, if_neg (by rw [hvst]; exact nofun)]
  generalize v.enterTrim c = u at hstart hkeeps hstate hself
  obtain ⟨hdof, htlh⟩ := (v.ch c).tdcSuspend_others
  have hunits := (v.ch c).tdcSuspend_suspended
  generalize (v.ch c).tdcSuspend = z at hself hdof htlh hunits
  rw [hvself] at hdof htlh
  have zdof : (u.ch c).dof = z.dof := by rw [hself]; rfl
  have ztlh : (u.ch c).tlh = z.tlh := by rw [hself]; rfl
  refine ⟨u, hstart, ?_, fun d hd => hkeeps.other d hd, keeps_creels hkeeps, ?_, ?_, ?_, ?_, ?_, fun k => ?_⟩
  · generalize u.chans = l at hstate ⊢
    rw [hstate, hvmod, hvs]
  · rw [hself]; rfl
  · rw [zdof, hdof]; rfl
  · rw [zdof, hdof]; rfl
  · rw [ztlh, htlh]; rfl
  · rw [ztlh, htlh]; rfl
  · rw [hself]
    exact hunits k

/-! ### The end of a COPY or FILL (R386, R387) -/

/-- A turn of SVC_DONE in its channel. -/
def Chan.svcTurn (y : Chan) : Chan :=
  match y.dof.running with
  | some x =>
    if x.inTrim || !y.mem.svcOver x then y
    else ({ y with mem := y.mem.svcClear x, dof := { y.dof with running := none } } : Chan).svcEnd 0x00
  | none => y

theorem exec_svcDone (t : Tbu) (c : ChanId) (s : State) : exec (.svcDone t c) s = .next ((s.atTime t).modCh c Chan.svcTurn) := rfl

theorem Chan.svcTurn_none {y : Chan} (h : y.dof.running = none) : y.svcTurn = y := by
  unfold Chan.svcTurn
  rw [h]

theorem Chan.svcTurn_busy {y : Chan} {x : Service} (h : y.dof.running = some x)
    (hb : x.inTrim = true ∨ y.mem.svcAt < x.bytes ∨ y.mem.dofferBusy = true) : y.svcTurn = y := by
  unfold Chan.svcTurn
  rw [h]
  refine if_pos ?_
  rcases hb with hb | hb | hb
  · simp [hb]
  · simp [Mem.svcOver, hb]
  · simp [Mem.svcOver, hb]

theorem Chan.svcTurn_over {y : Chan} {x : Service} (h : y.dof.running = some x) (htrim : x.inTrim = false)
    (hover : x.bytes ≤ y.mem.svcAt) (hfree : y.mem.dofferBusy = false) :
    y.svcTurn = ({ y with mem := y.mem.svcClear x, dof := { y.dof with running := none } } : Chan).svcEnd 0x00 := by
  unfold Chan.svcTurn
  rw [h]
  exact if_neg (by simp [htrim, Mem.svcOver, hover, hfree])

theorem svcCompleted (t : Tbu) (c : ChanId) (s : State) :
    ((s.ch c).dof.running = none → exec (.svcDone t c) s = .next (s.atTime t)) ∧
      (∀ x : Service, (s.ch c).dof.running = some x → x.inTrim = true ∨ (s.ch c).mem.svcAt < x.bytes ∨ (s.ch c).mem.dofferBusy = true →
        exec (.svcDone t c) s = .next (s.atTime t)) ∧
      ∀ (x : Service) (dst len : Nat) (filled : Bool),
        (filled = false ∧ (∃ src, x = .copy src dst len) ∨ filled = true ∧ ∃ pat, x = .fill dst len pat) →
        (s.ch c).dof.running = some x → len ≤ (s.ch c).mem.svcAt → (s.ch c).mem.dofferBusy = false →
        exec (.svcDone t c) s = .next ((s.atTime t).modCh c fun y => { y with
          dof := { y.dof with running := none }
          mem := { y.mem.dropUses [.copy] with
            svcDone := y.mem.svcDone + 1, svcLast := 0, events := evSet y.mem.events MemEv.svcDone
            invalid := y.mem.invalid && !(filled && dst == 0 && len == creelBytes) } }) := by
  rw [exec_svcDone]
  refine ⟨fun h => ?_, fun x h hb => ?_, fun x dst len filled hx h hover hfree => ?_⟩
  · exact congrArg _ (State.modCh_fixed (s := s.atTime t) (Chan.svcTurn_none h))
  · exact congrArg _ (State.modCh_fixed (s := s.atTime t) (Chan.svcTurn_busy h hb))
  · refine congrArg _ (State.modCh_congr (s := s.atTime t) ?_)
    rw [State.ch_atTime]
    rcases hx with ⟨rfl, src, rfl⟩ | ⟨rfl, pat, rfl⟩
    · rw [Chan.svcTurn_over h rfl hover hfree]
      simp [Chan.svcEnd, Chan.memEvent, Mem.svcClear, Mem.dropUses]
    · rw [Chan.svcTurn_over h rfl hover hfree]
      simp [Chan.svcEnd, Chan.memEvent, Mem.svcClear, Mem.dropUses]

/-! ### Training that passes (R376, R387) -/

/-- What training leaves of one grade. -/
def Mem.trainGrade (p : Vector (BitVec 5) 3) (eyes : List EyeReport) (m : Mem) (g : Nat) : Mem :=
  if m.trainsAt p eyes g then m.gradePassed eyes g else if m.permits g then { m with trained := clrBit m.trained g } else m

theorem Mem.trainGrade_keeps (p : Vector (BitVec 5) 3) (eyes : List EyeReport) (m : Mem) (g : Nat) :
    (m.trainGrade p eyes g).cfg = m.cfg ∧ (m.trainGrade p eyes g).retired = m.retired := by
  unfold Mem.trainGrade
  split
  · exact ⟨rfl, rfl⟩
  · split <;> exact ⟨rfl, rfl⟩

/-- Whether a grade is trained rests on the configuration and the devices not retired. -/
theorem Mem.trainsAt_congr {m n : Mem} (hcfg : n.cfg = m.cfg) (hret : n.retired = m.retired) (p : Vector (BitVec 5) 3)
    (eyes : List EyeReport) (g : Nat) : n.trainsAt p eyes g = m.trainsAt p eyes g ∧ n.permits g = m.permits g := by
  have heyes : n.eyesOk = m.eyesOk := by
    funext e
    unfold Mem.eyesOk Mem.minEye
    rw [hcfg]
  simp only [Mem.trainsAt, Mem.permits, Mem.passes, hcfg, hret, heyes, and_self]

theorem Mem.trainGrade_bit (p : Vector (BitVec 5) 3) (eyes : List EyeReport) (m : Mem) (g k : Nat) (hk : k < 3) :
    bit (m.trainGrade p eyes g).trained k =
      if k = g ∧ m.permits g = true then m.trainsAt p eyes g else bit m.trained k := by
  unfold Mem.trainGrade
  by_cases ht : m.trainsAt p eyes g = true
  · have hp : m.permits g = true := by
      unfold Mem.trainsAt at ht
      exact (Bool.and_eq_true_iff.1 ht).1
    rw [if_pos ht, ht, Mem.gradePassed]
    dsimp only
    rw [bit_setBit]
    by_cases h : k = g <;> simp [h, hp, hk]
    omega
  · rw [if_neg ht, Bool.not_eq_true _ |>.mp ht]
    by_cases hp : m.permits g = true
    · rw [if_pos hp]
      dsimp only
      rw [bit_clrBit]
      by_cases h : k = g <;> simp [h, hp]
    · rw [if_neg hp]
      simp [hp]

theorem Mem.trainGrades_bit (p : Vector (BitVec 5) 3) (eyes : List EyeReport) (l : List Nat) (m : Mem) {k : Nat} (hk : k < 3)
    (hp : m.permits k = true) (h : k ∈ l ∨ bit m.trained k = m.trainsAt p eyes k) :
    bit (l.foldl (Mem.trainGrade p eyes) m).trained k = m.trainsAt p eyes k := by
  induction l generalizing m with
  | nil => exact h.resolve_left List.not_mem_nil
  | cons g l ih =>
    obtain ⟨hcfg, hret⟩ := m.trainGrade_keeps p eyes g
    obtain ⟨htrains, hpermits⟩ := Mem.trainsAt_congr hcfg hret p eyes k
    rw [List.foldl_cons, ih _ (by rw [hpermits, hp]) ?_, htrains]
    rw [htrains, Mem.trainGrade_bit p eyes m g k hk]
    by_cases hg : k = g
    · subst hg
      exact .inr (if_pos ⟨rfl, hp⟩)
    · rw [if_neg fun hc => hg hc.1]
      exact h.imp_left fun hm => (List.mem_cons.1 hm).resolve_left hg

theorem mem_grades (g : Fin 3) : g.val ∈ grades := by
  revert g
  decide

theorem Mem.trainOk_trained (m : Mem) (p : Vector (BitVec 5) 3) (eyes : List EyeReport) (now : Tbu) (g : Fin 3)
    (hp : m.permits g.val = true) : bit (m.trainOk p eyes now).trained g.val = m.trainsAt p eyes g.val :=
  Mem.trainGrades_bit p eyes grades m g.isLt hp (.inl (mem_grades g))

/-- The registers of the creel that training writes: MEM_STAT.TRAIN, TRAINED_GRADES, the grade, and the event. -/
def Mem.training (m : Mem) : TrainState × BitVec 3 × BitVec 2 × Bool := (m.train, m.trained, m.grade, bit m.events.bits MemEv.trained)

/-- The creel is trained, and at its fastest trained grade. -/
def Mem.atBest (m : Mem) : Prop := m.train = .ready ∧ m.grade = m.fastest ∧ bit m.events.bits MemEv.trained = true

theorem Mem.atBest_congr {m n : Mem} (h : n.training = m.training) (hm : m.atBest) : n.atBest := by
  simp only [Mem.training, Prod.mk.injEq] at h
  obtain ⟨htrain, htrained, hgrade, hev⟩ := h
  rwa [Mem.atBest, Mem.fastest, htrain, htrained, hgrade, hev]

theorem Mem.trainOk_atBest (m : Mem) (p : Vector (BitVec 5) 3) (eyes : List EyeReport) (now : Tbu) : (m.trainOk p eyes now).atBest :=
  ⟨rfl, rfl, bit_evSet_self (by decide)⟩

/-- The channel after a training that has passed. -/
def Chan.trainPassed (y : Chan) (p : Vector (BitVec 5) 3) (eyes : List EyeReport) (now : Tbu) : Chan :=
  ({ y with mem := y.mem.trainOk p eyes now } : Chan).gradeBack

theorem State.trainResult_passed {p : Vector (BitVec 5) 3} {eyes : List EyeReport} (hfail : (s.ch c).mem.failEvery p eyes = [])
    (hlost : (s.ch c).mem.creel ≠ .lost) (hg : ∃ g ∈ [0, 1, 2], (s.ch c).mem.trainsAt p eyes g = true) :
    s.trainResult c p eyes = s.modCh c fun y => y.trainPassed p eyes s.now := by
  unfold State.trainResult
  dsimp only
  rw [hfail]
  dsimp only
  rw [if_pos ⟨by decide, List.any_eq_true.2 hg, hlost⟩]
  rfl

/-- A training ends: it is the initial one, or a memory service. -/
def Chan.trainEnded (y : Chan) (i : Bool) : Chan :=
  let y := { y with dof := { y.dof with initial := y.dof.initial && !i } }
  if i then y else y.svcEnd 0x00

theorem exec_trained {p0 p1 p2 : BitVec 5} {eyes : List EyeReport} {i : Bool} (h : (s.ch c).dof.running = some (.train i)) :
    exec (.trained t c p0 p1 p2 eyes) s = .next (if (s.ch c).tlh.granted then
      let u := (s.atTime t).trainResult c #v[p0, p1, p2] eyes
      if (u.ch c).dof.running.isNone then u else (u.modCh c fun y => y.trainEnded i).leaveTrim c
    else s.atTime t) := by
  rw [exec, execTrained]
  dsimp only
  rw [State.ch_atTime, h]
  rfl

theorem Chan.trainEnded_keeps (y : Chan) (i : Bool) : (y.trainEnded i).tlh = y.tlh ∧ (y.trainEnded i).mem.data = y.mem.data ∧
    (y.trainEnded i).dof.queue = y.dof.queue ∧ (y.trainEnded i).mem.train = y.mem.train ∧ (y.trainEnded i).mem.trained = y.mem.trained ∧
    (y.trainEnded i).mem.grade = y.mem.grade := by
  cases i <;> exact ⟨rfl, rfl, rfl, rfl, rfl, rfl⟩

theorem Chan.trainEnded_atBest {y : Chan} (h : y.mem.atBest) (i : Bool) : (y.trainEnded i).mem.atBest := by
  obtain ⟨htrain, hgrade, hev⟩ := h
  cases i
  · exact ⟨htrain, hgrade, Sticky.le_evSet _ _ _ hev⟩
  · exact ⟨htrain, hgrade, hev⟩

/-! ### A service in TRIM ends (R113) -/

theorem State.closeQueue_training (s : State) (c : ChanId) (i : Nat) :
    ((s.closeQueue c i).ch c).mem.training = (s.ch c).mem.training := by
  unfold State.closeQueue
  dsimp only
  rw [State.ch_modCh_self, State.qcpl_ch]
  rfl

theorem State.closeEnded_training (s : State) (c : ChanId) : ((s.closeEnded c).ch c).mem.training = (s.ch c).mem.training :=
  foldl_keeps (fun u : State => (u.ch c).mem.training) _ (fun u i => u.closeQueue_training c i) _ s

theorem Chan.restSteps_training (y : Chan) (now : Tbu) : (y.restSteps now).mem.training = y.mem.training := by
  simp [Chan.restSteps, Mem.training, Mem.dropRefill, Mem.dropUses]

theorem State.enterRest_training (s : State) (c : ChanId) : ((s.enterRest c).ch c).mem.training = (s.ch c).mem.training := by
  unfold State.enterRest
  rw [State.closeEnded_training, State.setChState_ch_self, State.ch_modCh_self]
  exact Chan.restSteps_training _ _

/-- The channel whose service in TRIM has ended. -/
def Chan.trimmed (y : Chan) (cyc : Nat) : Chan := ({ y.releaseGrant with dof := { y.dof with running := none } } : Chan).tdcResume cyc

theorem State.leaveTrim_of_none (h : (s.ch c).dof.queue.any Service.isRestore = false) :
    s.leaveTrim c = (s.modCh c fun y => y.trimmed s.cycle).enterRest c := by
  unfold State.leaveTrim
  dsimp only
  rw [State.ch_modCh_self]
  rw [if_neg (show ¬_ = true from by rw [Bool.not_eq_true]; exact h), State.modCh_modCh]
  rfl

theorem Chan.restSteps_dof (y : Chan) (now : Tbu) : (y.restSteps now).dof = y.dof := by simp

theorem State.leaveTrim_self (h : (s.ch c).dof.queue.any Service.isRestore = false) :
    ((s.leaveTrim c).ch c).mem.training = (s.ch c).mem.training ∧ ((s.leaveTrim c).ch c).mod.state = .rest ∧
    ((s.leaveTrim c).ch c).dof.running = none ∧ ((s.leaveTrim c).ch c).tlh.granted = false ∧
    ((s.leaveTrim c).ch c).tlh.tollGrade = (s.ch c).tlh.tollGrade := by
  rw [State.leaveTrim_of_none h]
  obtain ⟨y, hy⟩ : ∃ y : Chan, y = { (s.ch c).releaseGrant with dof := { (s.ch c).dof with running := none } } := ⟨_, rfl⟩
  have htrim : (s.ch c).trimmed s.cycle = y.tdcResume s.cycle := by rw [hy, Chan.trimmed]
  have hresume : (y.tdcResume s.cycle).mem = y.mem ∧ (y.tdcResume s.cycle).tlh = y.tlh ∧ (y.tdcResume s.cycle).dof = y.dof := by simp
  obtain ⟨hmem, htlh, hdof⟩ := hresume
  have htraining := (s.modCh c fun y => y.trimmed s.cycle).enterRest_training c
  obtain ⟨q, m, hself⟩ := enterRest_self (s.modCh c fun y => y.trimmed s.cycle) c
  rw [State.ch_modCh_self, htrim] at htraining hself
  generalize y.tdcResume s.cycle = z at hmem htlh hdof htraining hself
  have hrtlh := z.restSteps_tlh (s.modCh c fun y => y.trimmed s.cycle).now
  have hrdof := z.restSteps_dof (s.modCh c fun y => y.trimmed s.cycle).now
  generalize z.restSteps (s.modCh c fun y => y.trimmed s.cycle).now = r at hself hrtlh hrdof
  rw [htraining, hself]
  refine ⟨?_, rfl, ?_, ?_, ?_⟩
  · rw [hmem, hy]
    rfl
  · show r.dof.running = none
    rw [hrdof, hdof, hy]
  · show r.tlh.granted = false
    rw [hrtlh, htlh, hy]
    rfl
  · show r.tlh.tollGrade = _
    rw [hrtlh, htlh, hy]
    rfl

theorem trainingPasses (t : Tbu) (c : ChanId) (s : State) (p0 p1 p2 : BitVec 5) (eyes : List EyeReport) (i : Bool)
    (hrun : (s.ch c).dof.running = some (.train i)) :
    ((s.ch c).tlh.granted = false → exec (.trained t c p0 p1 p2 eyes) s = .next (s.atTime t)) ∧
      ((s.ch c).tlh.granted = true → (s.ch c).mem.failEvery #v[p0, p1, p2] eyes = [] → (s.ch c).mem.creel ≠ .lost →
        (∃ g ∈ [0, 1, 2], (s.ch c).mem.trainsAt #v[p0, p1, p2] eyes g = true) → (s.ch c).dof.queue.any Service.isRestore = false →
        ∃ u, exec (.trained t c p0 p1 p2 eyes) s = .next u ∧ (∀ d : ChanId, d ≠ c → u.ch d = s.ch d) ∧ s.sameCreels u ∧
          (u.ch c).mem.train = .ready ∧ (u.ch c).mod.state = .rest ∧ (u.ch c).dof.running = none ∧ (u.ch c).tlh.granted = false ∧
          bit (u.ch c).mem.events.bits MemEv.trained = true ∧ (u.ch c).mem.grade = (u.ch c).mem.fastest ∧
          (u.ch c).tlh.tollGrade = ((s.ch c).tlh.tollGrade && (u.ch c).mem.grade != 0) ∧
          ∀ g : Fin 3, (s.ch c).mem.permits g.val = true →
            bit (u.ch c).mem.trained g.val = (s.ch c).mem.trainsAt #v[p0, p1, p2] eyes g.val) := by
  rw [exec_trained hrun]
  refine ⟨fun hg => congrArg _ (if_neg (by rw [hg]; exact Bool.false_ne_true)), fun hg hfail hlost htrains hrestore => ?_⟩
  obtain ⟨x, hx⟩ : ∃ x, x = (s.ch c).trainPassed #v[p0, p1, p2] eyes (s.atTime t).now := ⟨_, rfl⟩
  obtain ⟨v, hv⟩ : ∃ v, v = (s.atTime t).modCh c fun y => (y.trainPassed #v[p0, p1, p2] eyes (s.atTime t).now).trainEnded i := ⟨_, rfl⟩
  have hvself : v.ch c = x.trainEnded i := by rw [hv, hx, State.ch_modCh_self, State.ch_atTime]
  have hend : (if (s.ch c).tlh.granted then
      let u := (s.atTime t).trainResult c #v[p0, p1, p2] eyes
      if (u.ch c).dof.running.isNone then u else (u.modCh c fun y => y.trainEnded i).leaveTrim c
    else s.atTime t) = v.leaveTrim c := by
    have hstill : ((s.ch c).trainPassed #v[p0, p1, p2] eyes (s.atTime t).now).dof.running.isNone = false := by
      show (s.ch c).dof.running.isNone = false
      rw [hrun]
      rfl
    rw [if_pos hg, State.trainResult_passed (s := s.atTime t) hfail hlost htrains]
    dsimp only
    rw [State.ch_modCh_self, State.ch_atTime, hstill, State.modCh_modCh, hv]
    exact if_neg Bool.false_ne_true
  have hkeeps : State.Keeps .entering (fun d => d = c) Eq (s.atTime t) (v.leaveTrim c) := by
    rw [hv]
    refine ((State.Keeps.refl .entering (fun d => d = c) (s.atTime t)).modCh c _ ?_ rfl).leaveTrim c rfl rfl rfl
    exact (Chan.trainEnded_keeps _ i).2.1.trans (Mem.trainOk_data ..)
  obtain ⟨etlh, -, equeue, etrain, etrained, egrade⟩ := x.trainEnded_keeps i
  have hbest : (x.trainEnded i).mem.atBest := Chan.trainEnded_atBest (by rw [hx]; exact Mem.trainOk_atBest _ _ _ _) i
  have hnone : (v.ch c).dof.queue.any Service.isRestore = false := by
    rw [hvself, equeue, hx]
    exact hrestore
  obtain ⟨htraining, hstate, hrunning, hgranted, htoll⟩ := State.leaveTrim_self hnone
  rw [hend]
  generalize v.leaveTrim c = u at *
  rw [hvself] at htraining htoll
  obtain ⟨utrain, ugrade, uev⟩ := Mem.atBest_congr htraining hbest
  simp only [Mem.training, Prod.mk.injEq] at htraining
  obtain ⟨-, htrained, hgrade, -⟩ := htraining
  refine ⟨u, rfl, fun d hd => hkeeps.other d hd, hkeeps.sameCreels_of rfl, utrain, hstate, hrunning, hgranted, uev, ugrade, ?_,
    fun g hp => ?_⟩
  · rw [htoll, etlh, hgrade, egrade, hx]
    rfl
  · rw [htrained, etrained, hx]
    exact Mem.trainOk_trained _ _ _ _ g hp

theorem serviceLife : Clause.ServiceLife := by
  intro t c s
  refine ⟨fun hw p hp => ?_, fun hidle => ?_, fun x rest hq hr hres hlost hc hwork => ?_, svcCompleted t c s,
    fun p0 p1 p2 eyes i hrun => trainingPasses t c s p0 p1 p2 eyes i hrun⟩
  · simp only [List.mem_cons, List.not_mem_nil, or_false] at hp
    rcases hp with rfl | rfl | rfl
    · exact svcRequested (.copy t c) 1 _ rfl rfl hw
    · exact svcRequested (.fill t c) 2 _ rfl rfl hw
    · exact svcRequested (.train t c) 3 _ rfl rfl hw
  · exact congrArg _ (State.serviceStart_idle (s := s.atTime t) hidle)
  · have hdoffs : (s.atTime t).doffs c x rest := ⟨hq, hr, hres, hlost, hc, hwork⟩
    refine ⟨fun htrim => ?_, fun htrim hst hchk => ?_⟩
    · have hstart : (s.atTime t).serviceStart c = (s.atTime t).modCh c fun y => y.taking x rest := by
        rw [State.serviceStart_of_free hdoffs, htrim]
        rfl
      exact congrArg _ hstart
    · obtain ⟨u, hu, heq, hother, hcreels, hself⟩ := State.trimStart hdoffs htrim hst hchk
      exact ⟨u, congrArg _ hu, heq, hother, hcreels, hself⟩

/-! ### What the controller leaves of the service in progress (R368 to R370) -/

/-- How far the service in progress has come: the bytes that are done, and the burst that a COPY has read. -/
def Mem.service (m : Mem) : Nat × List Byte := (m.svcAt, m.svcBuf)

@[simp] theorem Mem.setRow_service (m : Mem) (d : Fin 5) (b : Nat) (r : Option Nat) : (m.setRow d b r).service = m.service := rfl

@[simp] theorem Mem.enqueue_service (m : Mem) (p : Fin 4) (use : ReqUse) (a : Nat) (now : Tbu) :
    (m.enqueue p use a now).service = m.service := rfl

@[simp] theorem Mem.nrefStep_service (m : Mem) (g : Nat) : (m.nrefStep g).service = m.service := by
  unfold Mem.nrefStep
  dsimp only
  split <;> rfl

@[simp] theorem Mem.activate_service (m : Mem) (a : CreelAddr) : (m.activate a).service = m.service := by
  have hrows : ∀ l : List (Fin 5), (l.foldl (fun m d => m.setRow d a.index (some a.row)) m).service = m.service :=
    fun l => foldl_keeps Mem.service _ (by intros; rfl) l m
  unfold Mem.activate
  dsimp only
  split <;> exact hrows _

@[simp] theorem Mem.nrefAdvance_service (m : Mem) (g : Nat) (now : Tbu) : (m.nrefAdvance g now).service = m.service := by
  unfold Mem.nrefAdvance
  split
  · rfl
  · dsimp only
    split
    · rfl
    split
    · exact m.nrefStep_service g
    split
    · exact (foldl_keeps Mem.service _ (by intros; rfl) _ _).trans rfl
    · rfl

@[simp] theorem Mem.turn_service (m : Mem) (now : Tbu) : (m.turn now).service = m.service := by
  unfold Mem.turn
  dsimp only
  (repeat' split) <;> rfl

@[simp] theorem Mem.issue_service (m : Mem) (im : ChImage) (now : Tbu) (r : CreelReq) : (m.issue im now r).service = m.service := by
  have hact : (if m.rowHit (im.creelAt r.addr) then m else m.activate (im.creelAt r.addr)).service = m.service := by
    split
    · rfl
    · exact m.activate_service _
  unfold Mem.issue
  dsimp only
  split
  · refine (foldl_keeps Mem.service _ (by intros; rfl) _ _).trans ?_
    simp only [Mem.service, apply_ite Mem.svcAt, apply_ite Mem.svcBuf, ite_self] at hact ⊢
    exact hact
  · exact hact

/-- A command opportunity of the controller leaves the service where it is. -/
theorem Mem.command_service (m : Mem) (im : ChImage) (now : Tbu) (ready : BitVec 32) : (m.command im now ready).service = m.service := by
  have hadvance : (if m.preparing then m else (upTo 8).foldl (fun m g => m.nrefAdvance g now) m).service = m.service := by
    split
    · rfl
    · exact foldl_keeps Mem.service _ (fun m g => m.nrefAdvance_service g now) _ m
  unfold Mem.command
  split
  · rfl
  · generalize (if m.preparing then m else (upTo 8).foldl (fun m g => m.nrefAdvance g now) m) = a at hadvance
    dsimp only
    obtain ⟨b, hb⟩ : ∃ b, b = ({ (if a.servedAt / us = now / us then a else { a with served := Vector.replicate 4 0 }) with
        servedAt := now } : Mem).turn now := ⟨_, rfl⟩
    have hturn : b.service = m.service := by
      rw [hb, Mem.turn_service, ← hadvance]
      split <;> rfl
    rw [← hb, ← hturn]
    split
    · rw [Mem.issue_service]
      split <;> rfl
    · split <;> rfl

@[simp] theorem Mem.loadLine_service (m : Mem) (use : ReqUse) (line a : Nat) (now : Tbu) :
    (m.loadLine use line a now).service = m.service := foldl_keeps Mem.service _ (by intros; rfl) _ _

@[simp] theorem Mem.feedAhead_service (m : Mem) (ahead : List Nat) (now : Tbu) : (m.feedAhead ahead now).service = m.service := by
  unfold Mem.feedAhead
  split
  · rfl
  · split <;> simp

@[simp] theorem Mem.feedAgain_service (m : Mem) (now : Tbu) : (m.feedAgain now).service = m.service := by
  unfold Mem.feedAgain
  split
  · rfl
  · split
    · rfl
    · split
      · exact Mem.loadLine_service _ _ _ _ _
      · rfl

@[simp] theorem Mem.feedHead_service (m : Mem) (now : Tbu) : (m.feedHead now).service = m.service := by
  unfold Mem.feedHead
  split
  · rfl
  · split
    · rfl
    · split
      · rfl
      · split <;> simp

@[simp] theorem Mem.feedPin_service (m : Mem) (now : Tbu) : (m.feedPin now).service = m.service := by
  unfold Mem.feedPin
  split <;> simp

/-- Channel `y` is channel `x` but for its memory, in which the service and the bytes are as they were. -/
def Chan.sameService (x y : Chan) : Prop := y = { x with mem := y.mem } ∧ y.mem.service = x.mem.service ∧ y.mem.data = x.mem.data

theorem Chan.sameService_refl (x : Chan) : x.sameService x := ⟨rfl, rfl, rfl⟩

theorem Chan.sameService_trans {x y z : Chan} (h : x.sameService y) (k : y.sameService z) : x.sameService z := by
  obtain ⟨hxy, hs, hd⟩ := h
  obtain ⟨hyz, ks, kd⟩ := k
  refine ⟨?_, ks.trans hs, kd.trans hd⟩
  rw [hyz, hxy]

theorem Chan.sameService_mem {x : Chan} {m : Mem} (hs : m.service = x.mem.service) (hd : m.data = x.mem.data) :
    x.sameService { x with mem := m } := ⟨rfl, hs, hd⟩

theorem Chan.feedFill_same (x : Chan) (now : Tbu) : x.sameService (x.feedFill now) := by
  unfold Chan.feedFill
  split
  · exact x.sameService_refl
  · split
    · split
      · exact Chan.sameService_mem (by simp) (by simp)
      · exact x.sameService_refl
    · exact x.sameService_refl

theorem Chan.feedDirect_same (x : Chan) (cyc : Nat) (now : Tbu) : x.sameService (x.feedDirect cyc now) := by
  unfold Chan.feedDirect
  split
  · exact Chan.sameService_mem (foldl_keeps Mem.service _ (by intros; rfl) _ _) (foldl_keeps Mem.data _ (by intros; rfl) _ _)
  · exact x.sameService_refl

/-- A command opportunity of the controller after what reaches it, with channel `x` once its service has gone on. -/
theorem Chan.creelCommand_same (x : Chan) (cyc : Nat) (now : Tbu) (ready : BitVec 32) (hstaged : x.stq.staged = []) :
    (x.feedService now).sameService
      { x.feedCreel cyc now with mem := (x.feedCreel cyc now).mem.command (x.feedCreel cyc now).skn.image now ready } := by
  have hreceive : Chan.receiveStaged now x.stq.staged.length x = x := by rw [hstaged]; rfl
  have hfeed : (x.feedService now).sameService (x.feedCreel cyc now) := by
    unfold Chan.feedCreel
    rw [hreceive]
    dsimp only
    exact Chan.sameService_trans (Chan.sameService_trans (Chan.feedDirect_same _ cyc now) (Chan.feedFill_same _ now))
      (Chan.sameService_mem (by simp) (by simp))
  exact Chan.sameService_trans hfeed (Chan.sameService_mem (Mem.command_service _ _ _ _) (Mem.command_data _ _ _ _))

/-! ### The bursts of a COPY or FILL (R363, R386) -/

/-- Out of DRAIN no synthesizer powers down. -/
theorem Chan.drainOn_of_state {x : Chan} (h : x.mod.state ≠ .drain) (now : Tbu) : x.drainOn now = x := by
  unfold Chan.drainOn
  simp [h]

/-- The channel after a command opportunity of its controller. -/
def Chan.commanded (x : Chan) (cyc : Nat) (now : Tbu) (ready : BitVec 32) : Chan :=
  { x.feedCreel cyc now with mem := (x.feedCreel cyc now).mem.command (x.feedCreel cyc now).skn.image now ready }

theorem exec_creelCommand {ready : BitVec 32} (hruns : s.creelRuns = true) : exec (.creelCommand t c ready) s =
    .next ((s.atTime t).modCh c fun x => (x.commanded (s.atTime t).cycle (max s.now t) ready).drainOn (max s.now t)) := by
  have hcreel : (s.atTime t).creelRuns = true := hruns
  rw [exec, execCreelCommand, State.ifCreel, if_pos hcreel, State.drainOn, State.modCh_modCh]
  rfl

/-- A command opportunity out of DRAIN: the service in progress goes on. -/
theorem creelCommand_service {ready : BitVec 32} (hst : (s.ch c).mod.state ≠ .drain) (hruns : s.creelRuns = true)
    (hstaged : (s.ch c).stq.staged = []) (hmod : ((s.ch c).feedService (max s.now t)).mod = (s.ch c).mod) :
    Answers (exec (.creelCommand t c ready) s) s c fun x => ((s.ch c).feedService (max s.now t)).sameService x := by
  have hsame : ((s.ch c).feedService (max s.now t)).sameService ((s.ch c).commanded (s.atTime t).cycle (max s.now t) ready) :=
    Chan.creelCommand_same _ _ _ _ hstaged
  refine ⟨_, exec_creelCommand hruns, State.onlyChannel_modCh .., ?_⟩
  rw [State.ch_modCh_self, State.ch_atTime]
  generalize (s.ch c).commanded (s.atTime t).cycle (max s.now t) ready = y at hsame ⊢
  have hy : y.mod = (s.ch c).mod := by
    obtain ⟨hyx, -, -⟩ := hsame
    rw [hyx]
    exact hmod
  rwa [Chan.drainOn_of_state (by rw [hy]; exact hst)]

theorem Chan.feedService_fill {x : Chan} {dst len : Nat} {pat : Word} (hfree : x.mem.dofferBusy = false)
    (h : x.dof.running = some (.fill dst len pat)) (hlen : x.mem.svcAt < len) (now : Tbu) : x.feedService now =
    { x.creelWrite 2 (dst + x.mem.svcAt) ((upTo 8).flatMap fun _ => wordBytes pat) now with
      mem := { (x.creelWrite 2 (dst + x.mem.svcAt) ((upTo 8).flatMap fun _ => wordBytes pat) now).mem with
        svcAt := (x.creelWrite 2 (dst + x.mem.svcAt) ((upTo 8).flatMap fun _ => wordBytes pat) now).mem.svcAt + 64 } } := by
  unfold Chan.feedService
  rw [hfree, h]
  exact if_pos hlen

theorem Chan.feedService_copy {x : Chan} {src dst len : Nat} (hfree : x.mem.dofferBusy = false)
    (h : x.dof.running = some (.copy src dst len)) (hlen : x.mem.svcAt < len) (now : Tbu) : x.feedService now =
    { x with mem := ({ x.mem with svcBuf := readBytes x.mem.data (src + x.mem.svcAt) 64 } : Mem).enqueue 2 .copy (src + x.mem.svcAt) now } := by
  unfold Chan.feedService
  rw [hfree, h]
  exact if_pos hlen

theorem Chan.creelWrite_service (x : Chan) (p : Fin 4) (a : Nat) (l : List Byte) (now : Tbu) :
    (x.creelWrite p a l now).mem.service = x.mem.service := foldl_keeps Mem.service _ (by intros; rfl) _ _

theorem Chan.creelWrite_eq (x : Chan) (p : Fin 4) (a : Nat) (l : List Byte) (now : Tbu) : x.creelWrite p a l now =
    { x with mem := (x.creelWrite p a l now).mem, ply := { x.ply with
      outAt := (x.creelWrite p a l now).ply.outAt, events := (x.creelWrite p a l now).ply.events } } := rfl

/-- The eight words of a burst that a FILL writes. -/
theorem fillBurst_length (pat : Word) : ((upTo 8).flatMap fun _ => wordBytes pat).length = 64 := rfl

theorem leBytes_getD {n k : Nat} (hk : k < n) (v : Nat) : (leBytes n v).getD k 0 = BitVec.ofNat 8 (v / 256 ^ k) := by
  induction n generalizing v k with
  | zero => omega
  | succ n ih =>
    cases k with
    | zero => simp [leBytes]
    | succ k =>
      rw [leBytes, List.getD_cons_succ, ih (by omega), Nat.div_div_eq_div_mul, Nat.pow_succ, Nat.mul_comm]

theorem wordBytes_getD (v : Word) {k : Nat} (hk : k < 8) : (wordBytes v).getD k 0 = BitVec.ofNat 8 (fld v (8 * k) 8) := by
  rw [wordBytes, leBytes_getD hk, fld]
  refine BitVec.eq_of_toNat_eq ?_
  rw [BitVec.toNat_ofNat, BitVec.toNat_ofNat, Nat.mod_mod, Nat.pow_mul]

/-- Copies of a list one after the other repeat it. -/
theorem getD_copies {α : Type} (is : List α) (l : List Byte) {k : Nat} (hk : k < is.length * l.length) :
    (is.flatMap fun _ => l).getD k 0 = l.getD (k % l.length) 0 := by
  induction is generalizing k with
  | nil => simp at hk
  | cons i is ih =>
    rw [List.flatMap_cons]
    rw [List.length_cons, Nat.succ_mul] at hk
    by_cases h : k < l.length
    · rw [List.getD_append _ _ _ _ h, Nat.mod_eq_of_lt h]
    · rw [List.getD_append_right _ _ _ _ (by omega), ih (by omega), ← Nat.mod_eq_sub_mod (by omega)]

theorem fillBurst_byte (pat : Word) {k : Nat} (hk : k < 64) :
    ((upTo 8).flatMap fun _ => wordBytes pat).getD k 0 = BitVec.ofNat 8 (fld pat (8 * (k % 8)) 8) := by
  have hlen : (wordBytes pat).length = 8 := by simp [wordBytes, leBytes]
  rw [getD_copies (upTo 8) (wordBytes pat) (by rw [hlen, upTo_length]; omega), hlen, wordBytes_getD pat (Nat.mod_lt _ (by omega))]

theorem fillBurst {ready : BitVec 32} {dst len : Nat} {pat : Word} (hst : (s.ch c).mod.state ≠ .drain)
    (hwf : Memory.wf (s.ch c).mem.data = true) (hruns : s.creelRuns = true) (hstaged : (s.ch c).stq.staged = [])
    (hfree : (s.ch c).mem.dofferBusy = false) (hrun : (s.ch c).dof.running = some (.fill dst len pat))
    (hlen : (s.ch c).mem.svcAt < len) :
    Answers (exec (.creelCommand t c ready) s) s c fun x =>
      x = { s.ch c with mem := x.mem, ply := { (s.ch c).ply with outAt := x.ply.outAt, events := x.ply.events } } ∧
      x.mem.svcAt = (s.ch c).mem.svcAt + 64 ∧
      ∀ a : Nat, readByte x.mem.data a =
        if dst + (s.ch c).mem.svcAt ≤ a ∧ a < dst + (s.ch c).mem.svcAt + 64 then
          BitVec.ofNat 8 (fld pat (8 * ((a - (dst + (s.ch c).mem.svcAt)) % 8)) 8)
        else readByte (s.ch c).mem.data a := by
  have hfeed := Chan.feedService_fill hfree hrun hlen (max s.now t)
  have hservice := (s.ch c).creelWrite_service 2 (dst + (s.ch c).mem.svcAt) ((upTo 8).flatMap fun _ => wordBytes pat) (max s.now t)
  have heq := (s.ch c).creelWrite_eq 2 (dst + (s.ch c).mem.svcAt) ((upTo 8).flatMap fun _ => wordBytes pat) (max s.now t)
  have hdata := (s.ch c).creelWrite_data 2 (dst + (s.ch c).mem.svcAt) ((upTo 8).flatMap fun _ => wordBytes pat) (max s.now t)
  generalize (s.ch c).creelWrite 2 (dst + (s.ch c).mem.svcAt) ((upTo 8).flatMap fun _ => wordBytes pat) (max s.now t) = y at *
  obtain ⟨u, hu, honly, hsame⟩ := creelCommand_service (t := t) (ready := ready) hst hruns hstaged (by rw [hfeed, heq])
  refine ⟨u, hu, honly, ?_⟩
  rw [hfeed] at hsame
  obtain ⟨hx, hs, hd⟩ := hsame
  generalize u.ch c = x at hx hs hd ⊢
  simp only [Mem.service, Prod.mk.injEq] at hs hservice
  obtain ⟨hat, -⟩ := hs
  obtain ⟨hyat, -⟩ := hservice
  refine ⟨?_, ?_, fun a => ?_⟩
  · generalize x.mem = m at hx
    rw [hx]
    generalize y.mem = ym, y.ply.outAt = yo, y.ply.events = ye at heq
    rw [heq]
  · rw [hat, hyat]
  · rw [hd]
    show readByte y.mem.data a = _
    rw [hdata, readByte_writeBytes _ _ _ hwf, fillBurst_length]
    split
    · next ha =>
      exact fillBurst_byte pat (by omega)
    · rfl

theorem copyRead {ready : BitVec 32} {src dst len : Nat} (hst : (s.ch c).mod.state ≠ .drain)
    (hruns : s.creelRuns = true) (hstaged : (s.ch c).stq.staged = [])
    (hfree : (s.ch c).mem.dofferBusy = false) (hrun : (s.ch c).dof.running = some (.copy src dst len))
    (hlen : (s.ch c).mem.svcAt < len) :
    Answers (exec (.creelCommand t c ready) s) s c fun x =>
      x = { s.ch c with mem := x.mem } ∧ x.mem.data = (s.ch c).mem.data ∧ x.mem.svcAt = (s.ch c).mem.svcAt ∧
      x.mem.svcBuf = (upTo 64).map fun k => readByte (s.ch c).mem.data (src + (s.ch c).mem.svcAt + k) := by
  have hfeed := Chan.feedService_copy hfree hrun hlen (max s.now t)
  obtain ⟨u, hu, honly, hsame⟩ := creelCommand_service (t := t) (ready := ready) hst hruns hstaged (by rw [hfeed])
  refine ⟨u, hu, honly, ?_⟩
  rw [hfeed] at hsame
  obtain ⟨hx, hs, hd⟩ := hsame
  generalize u.ch c = x at hx hs hd ⊢
  simp only [Mem.service, Prod.mk.injEq] at hs
  obtain ⟨hat, hbuf⟩ := hs
  exact ⟨hx, hd, hat, hbuf⟩

/-! ### What a COPY writes (R363, R386) -/

/-- Three bytes and the XOR of four give the fourth. -/
theorem xor_recovers (w x y z : Byte) : x ^^^ y ^^^ z ^^^ (w ^^^ x ^^^ y ^^^ z) = w ∧ w ^^^ y ^^^ z ^^^ (w ^^^ x ^^^ y ^^^ z) = x ∧
    w ^^^ x ^^^ z ^^^ (w ^^^ x ^^^ y ^^^ z) = y ∧ w ^^^ x ^^^ y ^^^ (w ^^^ x ^^^ y ^^^ z) = z := by
  have hbits : ∀ w x y z : Bool, (x ^^ y ^^ z ^^ (w ^^ x ^^ y ^^ z)) = w ∧ (w ^^ y ^^ z ^^ (w ^^ x ^^ y ^^ z)) = x ∧
      (w ^^ x ^^ z ^^ (w ^^ x ^^ y ^^ z)) = y ∧ (w ^^ x ^^ y ^^ (w ^^ x ^^ y ^^ z)) = z := by decide
  have hbit := fun (i : Nat) (hi : i < 8) => hbits w[i] x[i] y[i] z[i]
  simp only [← BitVec.getElem_xor] at hbit
  refine ⟨BitVec.eq_of_getElem_eq fun i hi => ?_, BitVec.eq_of_getElem_eq fun i hi => ?_, BitVec.eq_of_getElem_eq fun i hi => ?_,
    BitVec.eq_of_getElem_eq fun i hi => ?_⟩ <;> obtain ⟨hw, hx, hy, hz⟩ := hbit i hi
  · exact hw
  · exact hx
  · exact hy
  · exact hz

theorem Byte.zero_xor (x : Byte) : (0 : Byte) ^^^ x = x := BitVec.zero_xor

/-- The XOR of the other lanes and P is the byte of the missing lane. -/
theorem laneByte_recovered (burst : List Byte) (lane beat : Nat) (h : lane < 4) :
    (([0, 1, 2, 3, 4] : List Nat).filter (· != lane)).foldl (fun x l => x ^^^ laneByte burst l beat) 0 = burst.getD (4 * beat + lane) 0 := by
  obtain ⟨hw, hx, hy, hz⟩ := xor_recovers (burst.getD (4 * beat + 0) 0) (burst.getD (4 * beat + 1) 0) (burst.getD (4 * beat + 2) 0)
    (burst.getD (4 * beat + 3) 0)
  have hlanes : lane = 0 ∨ lane = 1 ∨ lane = 2 ∨ lane = 3 := by omega
  rcases hlanes with rfl | rfl | rfl | rfl <;>
    simp only [List.filter, bne, Nat.reduceBEq, Bool.not_true, Bool.not_false, List.foldl, laneByte, Nat.reduceLT, if_true, if_false,
      Byte.zero_xor]
  · exact hw
  · exact hx
  · exact hy
  · exact hz

theorem ChImage.captured_eq (im : ChImage) (burst : List Byte) (miss : Option (Fin 5)) (b : Nat) :
    im.captured burst miss b = burst.getD b 0 := by
  have hbeat : 4 * (b / 4) + b % 4 = b := Nat.div_add_mod b 4
  have hlane : b % 4 < 4 := Nat.mod_lt b (by omega)
  unfold ChImage.captured
  dsimp only
  split
  · rw [laneByte_recovered burst (b % 4) (b / 4) hlane, hbeat]
  · rw [laneByte, if_pos hlane]
    dsimp only
    rw [hbeat]

theorem ChImage.burstRead_length (im : ChImage) (burst : List Byte) (miss : Option (Fin 5)) : (im.burstRead burst miss).length = 64 := by
  simp [ChImage.burstRead]

theorem upTo_getElem? {n k : Nat} (h : k < n) : (upTo n)[k]? = some k := by
  induction n with
  | zero => omega
  | succ n ih =>
    rw [upTo]
    by_cases hk : k < n
    · rw [List.getElem?_append_left (by rw [upTo_length]; exact hk), ih hk]
    · have hkn : k = n := by omega
      subst hkn
      rw [List.getElem?_append_right (by rw [upTo_length]), upTo_length, Nat.sub_self]
      rfl

/-- A read delivers its burst, whichever lane is lost. -/
theorem ChImage.burstRead_getD (im : ChImage) (burst : List Byte) (miss : Option (Fin 5)) {k : Nat} (hk : k < 64) :
    (im.burstRead burst miss).getD k 0 = burst.getD k 0 := by
  have hmap : im.burstRead burst miss = (upTo 64).map fun b => burst.getD b 0 := by
    rw [ChImage.burstRead, show im.captured burst miss = fun b => burst.getD b 0 from funext (im.captured_eq burst miss)]
  rw [hmap, List.getD_eq_getElem?_getD, List.getElem?_map, upTo_getElem? hk]
  rfl

/-- What the use of the played lines leaves of the memory. -/
theorem Chan.usePlayed_reads (x : Chan) (cyc : Nat) : (x.usePlayed cyc).mem.inflight = x.mem.inflight ∧
    (x.usePlayed cyc).mem.creel = x.mem.creel ∧ (x.usePlayed cyc).mem.service = x.mem.service := by
  have hlines : ∀ ls : List Nat, (fun m : Mem => (m.inflight, m.creel, m.service)) (ls.foldl (fun m l => m.touch [l]) x.mem) =
      (x.mem.inflight, x.mem.creel, x.mem.service) := fun ls =>
    foldl_keeps (fun m : Mem => (m.inflight, m.creel, m.service)) _ (by intros; rfl) ls x.mem
  simp only [Prod.mk.injEq] at hlines
  unfold Chan.usePlayed
  dsimp only
  split
  · exact hlines _
  · exact ⟨rfl, rfl, rfl⟩

theorem Chan.readDone_copy {x : Chan} {r : CreelReq} {rest : List CreelReq} {src dst len : Nat} (hin : x.mem.inflight = r :: rest)
    (huse : r.use = .copy) (hrun : x.dof.running = some (.copy src dst len)) (hlost : x.mem.creel ≠ .lost) (keep' : List Nat)
    (free : Nat) (now : Tbu) (last : Option (Fin 5)) :
    (x.readDone keep' free now last).mod = x.mod ∧ (x.readDone keep' free now last).mem.svcAt = x.mem.svcAt + 64 ∧
    ∃ miss, (x.readDone keep' free now last).mem.data =
      writeBytes x.mem.data (dst + x.mem.svcAt) (x.skn.image.burstRead x.mem.svcBuf miss) := by
  unfold Chan.readDone
  dsimp only
  rw [hin]
  dsimp only
  unfold Chan.readUse
  rw [if_pos huse]
  dsimp only
  rw [hrun]
  dsimp only
  rw [if_neg hlost]
  dsimp only
  refine ⟨by simp, ?_, _, by rw [Chan.creelWrite_data]⟩
  have hservice := Chan.creelWrite_service
  simp only [Mem.service, Prod.mk.injEq] at hservice
  rw [(hservice _ _ _ _ _).1]

theorem exec_readComplete {last : Option (Fin 5)} : exec (.readComplete t ⟨c, last⟩) s =
    .next (({ s.atTime t with freeCtr := s.freeCtr + 1 } : State).modCh c fun x =>
      ((x.usePlayed (s.atTime t).cycle).readDone (x.readAhead (s.atTime t).cycle) s.freeCtr (max s.now t) last).drainOn (max s.now t)) := by
  rw [exec, execReadComplete, State.drainOn, State.modCh_modCh]
  rfl

theorem copyWritten {r : CreelReq} {rest : List CreelReq} {last : Option (Fin 5)} {src dst len : Nat}
    (hst : (s.ch c).mod.state ≠ .drain) (hwf : Memory.wf (s.ch c).mem.data = true) (hin : (s.ch c).mem.inflight = r :: rest)
    (huse : r.use = .copy) (hrun : (s.ch c).dof.running = some (.copy src dst len)) (hlost : (s.ch c).mem.creel ≠ .lost) :
    ∃ u, exec (.readComplete t ⟨c, last⟩) s = .next u ∧ (∀ d : ChanId, d ≠ c → u.ch d = s.ch d) ∧
      (u.ch c).mem.svcAt = (s.ch c).mem.svcAt + 64 ∧
      ∀ a : Nat, readByte (u.ch c).mem.data a =
        if dst + (s.ch c).mem.svcAt ≤ a ∧ a < dst + (s.ch c).mem.svcAt + 64 then
          (s.ch c).mem.svcBuf.getD (a - (dst + (s.ch c).mem.svcAt)) 0
        else readByte (s.ch c).mem.data a := by
  refine ⟨_, exec_readComplete, fun d hd => State.ch_modCh_ne _ _ hd, ?_⟩
  have hself : ({ s.atTime t with freeCtr := s.freeCtr + 1 } : State).ch c = s.ch c := rfl
  rw [State.ch_modCh_self, hself]
  generalize (s.ch c).readAhead (s.atTime t).cycle = keep'
  obtain ⟨hinflight, hcreel, hservice⟩ := (s.ch c).usePlayed_reads (s.atTime t).cycle
  have hdata := (s.ch c).usePlayed_data (s.atTime t).cycle
  have hmod : ((s.ch c).usePlayed (s.atTime t).cycle).mod = (s.ch c).mod := by simp
  have hdof : ((s.ch c).usePlayed (s.atTime t).cycle).dof = (s.ch c).dof := by simp
  generalize (s.ch c).usePlayed (s.atTime t).cycle = x at *
  simp only [Mem.service, Prod.mk.injEq] at hservice
  obtain ⟨hat, hbuf⟩ := hservice
  obtain ⟨ymod, yat, miss, ydata⟩ := Chan.readDone_copy (hinflight.trans hin) huse (by rw [hdof, hrun]) (by rw [hcreel]; exact hlost)
    keep' s.freeCtr (max s.now t) last
  generalize x.readDone keep' s.freeCtr (max s.now t) last = y at *
  rw [Chan.drainOn_of_state (by rw [ymod, hmod]; exact hst), yat, ydata, hat, hbuf, hdata]
  refine ⟨rfl, fun a => ?_⟩
  rw [readByte_writeBytes _ _ _ hwf, ChImage.burstRead_length]
  split
  · exact ChImage.burstRead_getD _ _ _ (by omega)
  · rfl

theorem serviceBursts : Clause.ServiceBursts := by
  intro t c s hst hwf
  refine ⟨fun ready hruns hstaged hfree => ⟨fun dst len pat hrun hlen => ?_, fun src dst len hrun hlen => ?_⟩,
    fun r rest last src dst len hin huse hrun hlost => ?_⟩
  · exact fillBurst hst hwf hruns hstaged hfree hrun hlen
  · exact copyRead hst hruns hstaged hfree hrun hlen
  · exact copyWritten hst hwf hin huse hrun hlost

/-- Settles O50: a service from its request to its end, and the bursts that the controller moves for it. -/
theorem creelServices : Obligations.CreelServices := ⟨serviceLife, serviceBursts⟩

end Sys2Proof.Machine
end


section
/-! The SarLane link comes up, drops and adds lanes, and is lost. -/

namespace Sys2Proof.Machine

variable {t : Tbu} {s : State} {lane : Fin 8}

/-! ### A trained link comes up (R104, R395) -/

/-- State `u` is `s` but for packets on their way to the host. -/
def State.sentMore (s u : State) : Prop :=
  u = { s with hp := u.hp } ∧ u.hp.state = s.hp.state ∧ u.hp.active = s.hp.active ∧ u.hp.events = s.hp.events ∧ u.hp.rxSeq = s.hp.rxSeq

theorem Hp.fill_keeps (now : Tbu) (n : Nat) (h : Hp) : (Hp.fill now n h).state = h.state ∧ (Hp.fill now n h).active = h.active ∧
    (Hp.fill now n h).events = h.events ∧ (Hp.fill now n h).rxSeq = h.rxSeq := by
  induction n generalizing h with
  | zero => exact ⟨rfl, rfl, rfl, rfl⟩
  | succ n ih =>
    unfold Hp.fill
    split
    · exact ⟨rfl, rfl, rfl, rfl⟩
    · split
      · exact ih _
      · exact ⟨rfl, rfl, rfl, rfl⟩

theorem State.sentMore_refl (s : State) : s.sentMore s := ⟨rfl, rfl, rfl, rfl, rfl⟩

theorem State.sentMore.send {u : State} (h : s.sentMore u) (p : Packet) : s.sentMore (u.send p) := by
  obtain ⟨heq, hstate, hactive, hevents, hseq⟩ := h
  unfold State.send
  split
  · obtain ⟨kstate, kactive, kevents, kseq⟩ := Hp.fill_keeps u.now maxOutstanding { u.hp with unsent := u.hp.unsent ++ [p] }
    refine ⟨?_, kstate.trans hstate, kactive.trans hactive, kevents.trans hevents, kseq.trans hseq⟩
    generalize Hp.fill u.now maxOutstanding { u.hp with unsent := u.hp.unsent ++ [p] } = h
    rw [heq]
  · exact ⟨heq, hstate, hactive, hevents, hseq⟩

theorem State.sentMore.sendAll {α : Type} {u : State} (h : s.sentMore u) (f : α → Packet) (l : List α) :
    s.sentMore (l.foldl (fun s e => s.send (f e)) u) := by
  induction l generalizing u with
  | nil => exact h
  | cons e l ih => exact ih (h.send (f e))

theorem State.sentMore.sendCredits {u : State} (h : s.sentMore u) (c : ChanId) : s.sentMore (u.sendCredits c) := by
  unfold State.sendCredits
  exact h.sendAll _ _

/-- The link layer of a link that comes up. -/
def Hp.raised (h : Hp) (now : Tbu) : Hp :=
  { h.clear.event HpEv.linkUp with
    state := .up, active := h.bothLocked, farLocked := h.farLocked, idleSeen := true, laneErr := Vector.replicate 8 0
    ackAt := now, blockAt := now }

/-- The link is up, and a CREDIT is on its way for every open queue. -/
def State.raised (s : State) : State :=
  ({ s with hp := s.hp.raised s.now, mod := { s.mod with linkUp := true } } : State).forCh allCh State.sendCredits

theorem State.raised_sentMore (s : State) :
    ({ s with hp := s.hp.raised s.now, mod := { s.mod with linkUp := true } } : State).sentMore s.raised :=
  State.forCh_inv _ _ (fun _ c h => h.sendCredits c) _ _ (State.sentMore_refl _)

theorem State.raised_mod (s : State) : s.raised.mod = { s.mod with linkUp := true } := by
  obtain ⟨heq, -⟩ := s.raised_sentMore
  rw [heq]

theorem State.linkUp_eq (s : State) :
    s.linkUp = if s.mod.mode = .dark ∧ s.mod.bankOk = true then s.raised.setMode .linked else s.raised := by
  unfold State.linkUp
  extract_lets h x y m u v
  have hu : u = { s with hp := s.hp.raised s.now, mod := { s.mod with linkUp := true } } := rfl
  clear_value u
  have hv : v = s.raised := by rw [State.raised, ← hu]
  simp only [hv, s.raised_mod]

/-- What a link that comes up leaves. -/
theorem State.linkUp_spec (s : State) : s.linkUp = { s with hp := s.linkUp.hp, mod := s.linkUp.mod } ∧ s.linkUp.hp.state = .up ∧
    s.linkUp.hp.active = s.hp.bothLocked ∧ bit s.linkUp.hp.events.bits HpEv.linkUp = true ∧ s.linkUp.hp.rxSeq = 0 ∧
    s.linkUp.mod.linkUp = true ∧ s.linkUp.mod.mode = if s.mod.mode = .dark ∧ s.mod.bankOk = true then .linked else s.mod.mode := by
  have hmod := s.raised_mod
  obtain ⟨heq, hstate, hactive, hevents, hseq⟩ := s.raised_sentMore
  have hbit : bit s.raised.hp.events.bits HpEv.linkUp = true := by rw [hevents]; exact bit_evSet_self (by decide)
  rw [State.linkUp_eq]
  generalize s.raised = u at *
  split
  · exact ⟨by rw [heq]; rfl, hstate, hactive, hbit, hseq, congrArg ModBlk.linkUp hmod, rfl⟩
  · exact ⟨by rw [heq], hstate, hactive, hbit, hseq, congrArg ModBlk.linkUp hmod, by rw [hmod]⟩

theorem State.linkReady_iff (s : State) : s.linkReady = true ↔ s.hp.state = .training ∧ s.side.tap ≠ .extest ∧
    s.hp.minLanes ≤ laneCount (s.hp.locked &&& s.hp.farLocked) ∧ s.hp.idleSeen = true := by
  rw [State.linkReady, Bool.and_eq_true, Bool.and_eq_true, Bool.and_eq_true, decide_eq_true_iff, beq_iff_eq, bne_iff_ne, and_assoc, and_assoc]
  rfl

/-! ### Lanes are dropped and added (R396, R477) -/

theorem Hp.drops'_iff (h : Hp) (lane : Fin 8) (now : Tbu) : h.drops' lane now = true ↔
    h.state = .up ∧ bit h.active lane.val = true ∧ (bit h.failing lane.val = true ∨ h.alignLost lane now = true) := by
  simp [Hp.drops', and_assoc]

/-- The link layer once lane `lane` is dropped. -/
def Hp.dropped (h : Hp) (lane : Fin 8) (now : Tbu) : Hp :=
  { h with
    active := clrBit h.active lane.val, failing := clrBit h.failing lane.val, drops := satInc h.drops
    goodSince := vput h.goodSince lane now, events := evSet h.events HpEv.laneDrop }

theorem State.laneDrop_of_drops (h : s.hp.drops' lane s.now = true) : s.laneDrop lane =
    if laneCount (clrBit s.hp.active lane.val) < s.hp.minLanes then ({ s with hp := s.hp.dropped lane s.now } : State).linkLoss
    else ({ s with hp := s.hp.dropped lane s.now } : State).logRecord none 0x05 lane.val 0 0 := if_pos h

theorem exec_laneDrop_spared (h : s.hp.drops' lane (max s.now t) = false) : exec (.laneDrop t lane) s = .next (s.atTime t) :=
  congrArg Host.Outcome.next (if_neg (by simp [h]))

/-- A record of the module in the fault log changes nothing else. -/
theorem State.logRecord_none (s : State) (code : Byte) (detail action gap : Nat) :
    s.logRecord none code detail action gap = { s with flt := (s.logRecord none code detail action gap).flt } := rfl

theorem bit_and {n : Nat} (a b : BitVec n) (k : Nat) : bit (a &&& b) k = (bit a k && bit b k) := by
  simp [bit]

theorem Hp.lanePure_iff (h : Hp) (lane : Fin 8) (now : Tbu) :
    h.lanePure lane now = true ↔ h.goodSince[lane] + ms ≤ now ∧ h.alignMissing 1 lane now = false := by
  rw [Hp.lanePure, Bool.and_eq_true, decide_eq_true_iff, Bool.not_eq_true']

/-- Lane `lane` is to be added (R396). -/
def Hp.adds (h : Hp) (lane : Fin 8) (now : Tbu) : Prop :=
  h.state = .up ∧ bit h.active lane.val = false ∧ bit h.locked lane.val = true ∧ bit h.farLocked lane.val = true ∧
    h.goodSince[lane] + ms ≤ now ∧ h.alignMissing 1 lane now = false

theorem exec_laneAdd_adds (h : s.hp.adds lane (max s.now t)) : exec (.laneAdd t lane) s = .next { s.atTime t with hp := { s.hp with
    active := setBit s.hp.active lane.val, events := evSet s.hp.events HpEv.laneAdd } } := by
  obtain ⟨hup, hact, hlock, hfar, hgood, halign⟩ := h
  exact congrArg Host.Outcome.next (if_pos ⟨hup, by simp [hact], by simp [Hp.bothLocked, bit_and, hlock, hfar],
    (Hp.lanePure_iff _ _ _).2 ⟨hgood, halign⟩⟩)

theorem exec_laneAdd_not (h : ¬ s.hp.adds lane (max s.now t)) : exec (.laneAdd t lane) s = .next (s.atTime t) :=
  congrArg Host.Outcome.next (if_neg fun ⟨hup, hact, hlock, hpure⟩ => h <| by
    rw [Hp.bothLocked, bit_and, Bool.and_eq_true] at hlock
    exact ⟨hup, by simpa using hact, hlock.1, hlock.2, (Hp.lanePure_iff _ _ _).1 hpure⟩)

theorem linkUpAndLanes : Clause.LinkUpAndLanes := by
  intro t s
  refine ⟨fun h => ?_, fun htr htap hlanes hidle => ?_, fun h => ?_, fun lane h => ?_, fun hup lane => ⟨fun hact hdrop hlanes => ?_, ?_, ?_, ?_⟩⟩
  · refine congrArg Host.Outcome.next (if_neg ?_)
    rw [State.linkReady_iff]
    rintro ⟨htr, htap, hlanes, hidle⟩
    rcases h with h | h | h | h
    · exact h htr
    · exact htap h
    · exact absurd hlanes (Nat.not_le.2 h)
    · exact absurd (hidle.symm.trans h) (by decide)
  · exact ⟨_, congrArg Host.Outcome.next (if_pos ((s.atTime t).linkReady_iff.2 ⟨htr, htap, hlanes, hidle⟩)), (s.atTime t).linkUp_spec⟩
  · refine congrArg Host.Outcome.next (if_neg ?_)
    rintro ⟨hup, hlost⟩
    exact h.elim (fun h => h hup) fun h => absurd hlost (Nat.not_le.2 h)
  · refine exec_laneDrop_spared (Bool.eq_false_iff.2 ?_)
    rw [ne_eq, Hp.drops'_iff]
    rintro ⟨hup, hact, hdrop⟩
    rcases h with h | h | ⟨hfail, halign⟩
    · exact h hup
    · exact absurd (hact.symm.trans h) (by decide)
    · simp [hfail, halign] at hdrop
  · have hd := (Hp.drops'_iff (s.atTime t).hp lane (s.atTime t).now).2 ⟨hup, hact, hdrop⟩
    refine ⟨_, congrArg Host.Outcome.next ((State.laneDrop_of_drops hd).trans (if_neg (Nat.not_lt.2 hlanes))), ?_, rfl⟩
    exact State.logRecord_none _ _ _ _ _
  · rintro - - - h
    refine exec_laneAdd_not ?_
    rintro ⟨-, -, -, -, hgood, halign⟩
    rcases h with h | h
    · exact absurd hgood (Nat.not_le.2 h)
    · exact absurd (h.symm.trans halign) (by decide)
  · exact fun hact hlock hfar hgood halign => exec_laneAdd_adds ⟨hup, hact, hlock, hfar, hgood, halign⟩
  · exact fun hact => exec_laneAdd_not fun ⟨_, hoff, _⟩ => absurd (hact.symm.trans hoff) (by decide)

/-! ### What a refused load leaves of the MOD block -/

/-- MOD block `m'` is `m` with nothing but more events noted. -/
def ModBlk.notes (m m' : ModBlk) : Prop := m' = { m with events := m'.events } ∧ m.events.le m'.events

theorem ModBlk.notes_of_eq {m m' : ModBlk} (h : m' = m) : m.notes m' := by
  subst h
  exact ⟨rfl, Sticky.le_refl _⟩

theorem ModBlk.notes.trans {m m' m'' : ModBlk} (h : m.notes m') (k : m'.notes m'') : m.notes m'' := by
  obtain ⟨heq, hle⟩ := h
  obtain ⟨keq, kle⟩ := k
  refine ⟨?_, Sticky.le_trans hle kle⟩
  rw [keq, heq]

theorem State.setChState_notes (s : State) (c : ChanId) (st : ChState) : s.mod.notes (s.setChState c st).mod := by
  refine ⟨s.setChState_mod c st, ?_⟩
  rw [State.setChState_eq]
  dsimp only
  split
  · exact Sticky.le_refl _
  · exact Sticky.le_evSet _ _

theorem State.enterRest_notes (s : State) (c : ChanId) : s.mod.notes (s.enterRest c).mod := by
  unfold State.enterRest
  rw [State.closeEnded_mod]
  exact (ModBlk.notes_of_eq (State.modCh_mod _ _ _)).trans (State.setChState_notes _ c .rest)

theorem State.unconfigure_notes (s : State) (c : ChanId) (r : Byte) : s.mod.notes (s.unconfigure c r).mod := by
  unfold State.unconfigure
  dsimp only
  rw [State.modCh_mod]
  split
  · split
    · exact ModBlk.notes_of_eq (by rw [State.modCh_mod, State.closed_mod])
    · exact (ModBlk.notes_of_eq (by rw [State.modCh_mod, State.closed_mod])).trans (State.enterRest_notes _ c)
  · exact ModBlk.notes_of_eq rfl

theorem State.unconfigureAll_notes (s : State) (m : BitVec 16) (r : Byte) : s.mod.notes (s.unconfigureAll m r).mod :=
  State.forCh_inv (fun u => s.mod.notes u.mod) _ (fun u c h => h.trans (u.unconfigure_notes c r)) _ s (ModBlk.notes_of_eq rfl)

/-! ### The link is lost (R94, R104, R105, R397) -/

/-- The state once the link is lost: training starts again. -/
def State.unlinked (s : State) : State :=
  { s.linkClear .training with hp := { (s.linkClear .training).hp.event HpEv.linkDown with
      losses := satInc (s.linkClear .training).hp.losses } }

/-- LINK_LOST is noted. -/
def State.linkNoted (s : State) : State := { s with mod := { s.mod with events := evSet s.mod.events ModEv.linkLost } }

/-- A channel in RUN latches a hold for the loss of the link (R105). -/
def Chan.linkHold (now : Tbu) (x : Chan) : Chan := if x.mod.state = .run then x.latchHold Cause.link (cycleOf now) else x

/-- Channels in RUN are held where MOD_CFG asks for it (R105). -/
def State.linkHeld (s : State) : State := if bit s.mod.cfg 0 = true then s.passNow Chan.linkHold allCh else s

/-- The load in progress, if there is one, ends with ABORTED and the detail of a lost link (R94). -/
def State.loadCut (s : State) : State := s.loadAbort 0x10 (BitVec.ofNat 16 2)

/-- The modes that outlive the loss of the link (R105). -/
def Mode.outlivesLink (m : Mode) : Prop := m ∈ [Mode.wound, .shedding, .quarantine]

theorem State.unlinked_hp (s : State) : s.unlinked.hp =
    { s.hp.clear with state := .training, events := evSet s.hp.events HpEv.linkDown, losses := satInc s.hp.losses } := by
  rw [State.unlinked, State.linkClear_hp]
  rfl

/-- But for the link layer, the state is that of the cleared link. -/
theorem State.unlinked_blocks (s : State) : s.unlinked.mod = (s.linkClear .training).mod ∧ s.unlinked.skn = (s.linkClear .training).skn ∧
    s.unlinked.flt = (s.linkClear .training).flt ∧ ∀ c, s.unlinked.ch c = (s.linkClear .training).ch c := by
  rw [State.unlinked]
  generalize s.linkClear .training = y
  exact ⟨rfl, rfl, rfl, fun _ => rfl⟩

theorem State.unlinked_mod (s : State) : s.unlinked.mod = { s.mod with linkUp := false } := by
  rw [s.unlinked_blocks.1, s.linkClear_mod]

theorem State.unlinked_parts (s : State) : s.unlinked.skn = s.skn ∧ s.unlinked.flt = s.flt := by
  have k : State.Keeps .unlinking (fun _ => True) Eq s (s.linkClear .training) :=
    (State.Keeps.refl .unlinking _ s).linkClear .training rfl rfl fun _ => trivial
  obtain ⟨-, hskn, hflt, -⟩ := s.unlinked_blocks
  exact ⟨hskn.trans (k.skn rfl), hflt.trans (k.flt rfl)⟩

theorem State.linkClear_winHeld (s : State) (st : LinkState) (c : ChanId) : (s.linkClear st).ch c =
    { s.ch c with mem := { (s.ch c).mem with winHeld := ((s.linkClear st).ch c).mem.winHeld } } := by
  unfold State.linkClear State.modMem
  dsimp only
  rw [State.forCh_modCh_ch _ _ allCh_nodup]
  split <;> rfl

theorem State.unlinked_ch (s : State) (c : ChanId) : s.unlinked.ch c =
    { s.ch c with mem := { (s.ch c).mem with winHeld := (s.unlinked.ch c).mem.winHeld } } := by
  obtain ⟨-, -, -, hch⟩ := s.unlinked_blocks
  rw [hch]
  exact s.linkClear_winHeld .training c

theorem State.linkLoss_cases (s : State) :
    (s.mod.mode = .linked ∧ s.linkLoss = s.unlinked.setMode .dark) ∨
      (s.mod.mode = .spooling ∧ s.linkLoss = s.unlinked.loadCut) ∨
      (s.mod.mode.outlivesLink ∧ s.linkLoss = s.unlinked.linkNoted.loadCut.linkHeld) ∨
      (s.mod.mode ∉ [Mode.linked, .spooling, .wound, .shedding, .quarantine] ∧ s.linkLoss = s.unlinked) := by
  have hmode : s.unlinked.mod.mode = s.mod.mode := by rw [s.unlinked_mod]
  unfold State.linkLoss
  extract_lets x h u m v w
  have hu : u = s.unlinked := rfl
  have hw : w = s.unlinked.linkNoted.loadCut := rfl
  clear_value w u
  subst hu hw
  rw [hmode]
  cases hm : s.mod.mode with
  | linked => exact .inl ⟨rfl, rfl⟩
  | spooling => exact .inr (.inl ⟨rfl, rfl⟩)
  | wound => exact .inr (.inr (.inl ⟨by simp [Mode.outlivesLink], rfl⟩))
  | shedding => exact .inr (.inr (.inl ⟨by simp [Mode.outlivesLink], rfl⟩))
  | quarantine => exact .inr (.inr (.inl ⟨by simp [Mode.outlivesLink], rfl⟩))
  | dark | holdup | vaulted | unpowered => exact .inr (.inr (.inr ⟨by simp, rfl⟩))

/-! ### The load in progress, and the channels in RUN (R94, R105) -/

theorem State.loadCut_none (h : s.skn.load = none) : s.loadCut = s := State.loadAbort_none h _ _

theorem State.loadCut_some {l : Load} (h : s.skn.load = some l) : s.loadCut =
    ({ s with skn := s.skn.refuse 2 0xFF 0x10 } : State).loadFail 0x10 false := State.loadAbort_eq h 2

theorem Skn.refuse_load {m : Skn} {l : Load} (h : m.load = some l) (detail sect : Nat) (reason : Byte) :
    (m.refuse detail sect reason).load = some { l with anyRefused := true } := by
  rw [Skn.refuse, h]
  rfl

/-- A load that ends with ABORTED leaves LINK_UP and MOD_CFG as they were, and no event is taken back. -/
theorem State.loadCut_mod (s : State) : s.loadCut.mod.linkUp = s.mod.linkUp ∧ s.loadCut.mod.cfg = s.mod.cfg ∧
    s.mod.events.le s.loadCut.mod.events := by
  cases h : s.skn.load with
  | none =>
    rw [State.loadCut_none h]
    exact ⟨rfl, rfl, Sticky.le_refl _⟩
  | some l =>
    obtain ⟨heq, hle⟩ := ({ s with skn := s.skn.refuse 2 0xFF 0x10 } : State).unconfigureAll_notes l.mask 0x10
    rw [State.loadCut_some h, State.loadFail_eq (Skn.refuse_load h ..)]
    generalize ({ s with skn := s.skn.refuse 2 0xFF 0x10 } : State).unconfigureAll l.mask 0x10 = u at heq hle ⊢
    dsimp only
    split
    · refine ⟨by rw [State.quarantined, State.setMode_mod, heq], by rw [State.quarantined, State.setMode_mod, heq], ?_⟩
      exact Sticky.le_trans hle (Sticky.le_evSet _ _)
    · exact ⟨by rw [heq], by rw [heq], hle⟩

/-- Without a link, a load that ends tells the host nothing. -/
theorem State.loadCut_hp (h : s.hp.state ≠ .up) : s.loadCut.hp = s.hp :=
  ((State.Keeps.refl { Effects.refusing with mode := true } (fun _ => True) s).loadAbort 0x10 (BitVec.ofNat 16 2) rfl rfl rfl rfl rfl
    fun _ => trivial).hp rfl (.inr h)

theorem State.linkHeld_blocks (s : State) : s.linkHeld.mod = s.mod ∧ s.linkHeld.hp = s.hp ∧ s.linkHeld.skn = s.skn ∧ s.linkHeld.flt = s.flt := by
  unfold State.linkHeld
  split
  · rw [State.passNow_eq]
    exact ⟨rfl, rfl, rfl, rfl⟩
  · exact ⟨rfl, rfl, rfl, rfl⟩

theorem State.linkHeld_ch (s : State) (c : ChanId) :
    s.linkHeld.ch c = if bit s.mod.cfg 0 = true then (s.ch c).linkHold s.now else s.ch c := by
  unfold State.linkHeld
  split
  · exact State.passNow_all _ c
  · rfl

theorem Chan.linkHold_skn (now : Tbu) (x : Chan) : (x.linkHold now).skn = x.skn := by
  unfold Chan.linkHold
  split <;> rfl

theorem State.linkHeld_skn (s : State) (c : ChanId) : (s.linkHeld.ch c).skn = (s.ch c).skn := by
  rw [State.linkHeld_ch]
  split
  · exact Chan.linkHold_skn _ _
  · rfl

/-! ### What the loss of the link leaves -/

/-- The link layer of a lost link, in training again. -/
def Hp.lost (h h' : Hp) : Prop :=
  h'.state = .training ∧ h'.outstanding = [] ∧ h'.active = 0 ∧ h'.losses = satInc h.losses ∧ bit h'.events.bits HpEv.linkDown = true

theorem State.unlinked_lost (s : State) : s.hp.lost s.unlinked.hp := by
  rw [State.unlinked_hp]
  exact ⟨rfl, rfl, rfl, rfl, bit_evSet_self (by decide)⟩

theorem State.unlinked_down (s : State) : s.unlinked.hp.state ≠ .up := by
  obtain ⟨hstate, -⟩ := s.unlinked_lost
  rw [hstate]
  decide

/-- Nothing that the modes do about a lost link brings it up again. -/
theorem State.linkLoss_link (s : State) : s.linkLoss.mod.linkUp = s.unlinked.mod.linkUp ∧ s.linkLoss.hp = s.unlinked.hp := by
  have hdown := s.unlinked_down
  rcases s.linkLoss_cases with ⟨-, h⟩ | ⟨-, h⟩ | ⟨-, h⟩ | ⟨-, h⟩
  · rw [h, State.setMode_mod, State.setMode_hp]
    exact ⟨rfl, rfl⟩
  · obtain ⟨hlink, -⟩ := s.unlinked.loadCut_mod
    rw [h]
    exact ⟨hlink, State.loadCut_hp hdown⟩
  · obtain ⟨hlink, -⟩ := s.unlinked.linkNoted.loadCut_mod
    obtain ⟨hmod, hhp, -⟩ := s.unlinked.linkNoted.loadCut.linkHeld_blocks
    rw [h, hmod, hhp]
    exact ⟨hlink, State.loadCut_hp (s := s.unlinked.linkNoted) hdown⟩
  · rw [h]
    exact ⟨rfl, rfl⟩

theorem State.linkLoss_lost (s : State) : s.linkLoss.mod.linkUp = false ∧ s.hp.lost s.linkLoss.hp := by
  obtain ⟨hlink, hhp⟩ := s.linkLoss_link
  rw [hlink, hhp, s.unlinked_mod]
  exact ⟨rfl, s.unlinked_lost⟩

theorem State.linkLoss_creels (s : State) : s.sameCreels s.linkLoss :=
  keeps_creels ((State.Keeps.refl { Effects.unlinking with vlt := true, send := true, skn := true } (fun _ => True) s).linkLoss
    rfl rfl rfl rfl rfl rfl fun _ => trivial)

theorem State.linkLoss_linked (h : s.mod.mode = .linked) : s.linkLoss = s.unlinked.setMode .dark := by
  simpa [h, Mode.outlivesLink] using s.linkLoss_cases

theorem State.linkLoss_spooling (h : s.mod.mode = .spooling) : s.linkLoss = s.unlinked.loadCut := by
  simpa [h, Mode.outlivesLink] using s.linkLoss_cases

theorem State.linkLoss_outlives (h : s.mod.mode.outlivesLink) : s.linkLoss = s.unlinked.linkNoted.loadCut.linkHeld := by
  have hcases := s.linkLoss_cases
  rw [Mode.outlivesLink, List.mem_cons, List.mem_cons, List.mem_singleton] at h
  rcases h with h | h | h <;> simpa [h, Mode.outlivesLink] using hcases

/-- Channel `y` is `x` but for the accesses that it holds back. -/
def Chan.unheld (x y : Chan) : Prop := y = { x with mem := { x.mem with winHeld := y.mem.winHeld } }

theorem State.linkLoss_dark (h : s.mod.mode = .linked) :
    s.linkLoss.mod.mode = .dark ∧ s.linkLoss.flt = s.flt ∧ ∀ c, (s.ch c).unheld (s.linkLoss.ch c) := by
  obtain ⟨-, hflt⟩ := s.unlinked_parts
  have hch := s.unlinked_ch
  rw [State.linkLoss_linked h]
  generalize s.unlinked = u at hflt hch ⊢
  exact ⟨rfl, hflt, hch⟩

/-- Load `l` has ended with ABORTED for a lost link, where the SKN block was `m`. -/
def State.loadBroken (u : State) (m : Skn) (l : Load) : Prop :=
  u.skn.load = none ∧ bit u.skn.events.bits SknEv.done = true ∧ bit u.skn.events.bits SknEv.refused = true ∧
    (fld m.result 0 8 = 0 → u.skn.result = pack [(2, 16), (0xFF, 8), (0x10, 0)]) ∧
    ∀ d : ChanId, bit l.mask d.val = true → (u.ch d).skn.state = .unconfigured ∧ (u.ch d).skn.reason = 0x10

theorem State.loadCut_broken {l : Load} (h : s.skn.load = some l) : s.loadCut.loadBroken s.skn l := by
  obtain ⟨-, hskn, -, -, hch⟩ := State.loadFail_spec (s := { s with skn := s.skn.refuse 2 0xFF 0x10 }) (Skn.refuse_load h ..) 0x10
  obtain ⟨hdone, hrefused⟩ := bit_done_ended (m := s.skn.refuse 2 0xFF 0x10) (l := { l with anyRefused := true }) rfl
  rw [State.loadCut_some h, State.loadBroken, hskn]
  exact ⟨rfl, hdone, hrefused, fun hres => firstRefusal_first hres (by decide) 0xFF 0x10, fun d => (hch d).1⟩

theorem State.loadCut_mode {l : Load} (h : s.skn.load = some l) :
    (l.kind = .whole → s.loadCut.mod.mode = .quarantine ∧ s.loadCut.mod.qReason = 0x10) ∧
      (l.kind = .channel → s.loadCut.mod.mode = s.mod.mode) := by
  obtain ⟨-, -, hwhole, hchannel, -⟩ := State.loadFail_spec (s := { s with skn := s.skn.refuse 2 0xFF 0x10 }) (Skn.refuse_load h ..) 0x10
  rw [State.loadCut_some h]
  exact ⟨hwhole, fun hk => (hchannel hk).1⟩

theorem State.loadBroken.linkHeld {u : State} {m : Skn} {l : Load} (h : u.loadBroken m l) : u.linkHeld.loadBroken m l := by
  obtain ⟨-, -, hskn, -⟩ := u.linkHeld_blocks
  simpa only [State.loadBroken, hskn, State.linkHeld_skn] using h

theorem State.linkNoted_keeps (s : State) : s.linkNoted.skn = s.skn ∧ s.linkNoted.flt = s.flt ∧ s.linkNoted.mod.mode = s.mod.mode ∧
    s.linkNoted.mod.cfg = s.mod.cfg ∧ ∀ c, s.linkNoted.ch c = s.ch c := ⟨rfl, rfl, rfl, rfl, fun _ => rfl⟩

theorem State.linkNoted_lost (s : State) : bit s.linkNoted.mod.events.bits ModEv.linkLost = true := bit_evSet_self (by decide)

/-- A mode that outlives the link notes its loss, whatever becomes of a load. -/
theorem State.linkLoss_noted (h : s.mod.mode.outlivesLink) : bit s.linkLoss.mod.events.bits ModEv.linkLost = true := by
  obtain ⟨hmod, -⟩ := s.unlinked.linkNoted.loadCut.linkHeld_blocks
  obtain ⟨-, -, hle⟩ := s.unlinked.linkNoted.loadCut_mod
  rw [State.linkLoss_outlives h, hmod]
  exact hle _ s.unlinked.linkNoted_lost

theorem State.linkLoss_whole {l : Load} (h : s.skn.load = some l) (hm : s.mod.mode = .spooling) (hk : l.kind = .whole) :
    s.linkLoss.loadBroken s.skn l ∧ s.linkLoss.mod.mode = .quarantine ∧ s.linkLoss.mod.qReason = 0x10 := by
  obtain ⟨hskn, -⟩ := s.unlinked_parts
  have hl : s.unlinked.skn.load = some l := by rw [hskn, h]
  have hbroken := State.loadCut_broken hl
  rw [hskn] at hbroken
  rw [State.linkLoss_spooling hm]
  exact ⟨hbroken, (State.loadCut_mode hl).1 hk⟩

theorem State.linkLoss_channel {l : Load} (h : s.skn.load = some l) (hm : s.mod.mode.outlivesLink) (hk : l.kind = .channel) :
    s.linkLoss.loadBroken s.skn l ∧ s.linkLoss.mod.mode = s.mod.mode := by
  obtain ⟨hskn, -⟩ := s.unlinked_parts
  obtain ⟨knoted, -, kmode, -⟩ := s.unlinked.linkNoted_keeps
  rw [hskn] at knoted
  have hl : s.unlinked.linkNoted.skn.load = some l := by rw [knoted, h]
  have hbroken := State.loadCut_broken hl
  have hmode := (State.loadCut_mode hl).2 hk
  obtain ⟨hmod, -⟩ := s.unlinked.linkNoted.loadCut.linkHeld_blocks
  rw [knoted] at hbroken
  rw [State.linkLoss_outlives hm]
  refine ⟨hbroken.linkHeld, ?_⟩
  rw [hmod, hmode, kmode, s.unlinked_mod]

/-- Without a load, a mode that outlives the link notes its loss and holds channels. -/
theorem State.linkLoss_unloaded (hm : s.mod.mode.outlivesLink) (hl : s.skn.load = none) :
    s.linkLoss = s.unlinked.linkNoted.linkHeld := by
  obtain ⟨hskn, -⟩ := s.unlinked_parts
  obtain ⟨knoted, -⟩ := s.unlinked.linkNoted_keeps
  rw [State.linkLoss_outlives hm, State.loadCut_none]
  rw [knoted, hskn, hl]

theorem State.linkLoss_stays (hm : s.mod.mode.outlivesLink) (hl : s.skn.load = none) :
    s.linkLoss.mod.mode = s.mod.mode ∧ s.linkLoss.flt = s.flt := by
  obtain ⟨-, hflt⟩ := s.unlinked_parts
  obtain ⟨-, kflt, kmode, -⟩ := s.unlinked.linkNoted_keeps
  obtain ⟨hmod, -, -, hheld⟩ := s.unlinked.linkNoted.linkHeld_blocks
  rw [State.linkLoss_unloaded hm hl, hmod, hheld, kmode, kflt, s.unlinked_mod, hflt]
  exact ⟨rfl, rfl⟩

theorem Chan.latchHold_latched (x : Chan) (cause : Byte) (cyc : Nat) : (x.latchHold cause cyc).seq.holdReq ≠ none := by
  unfold Chan.latchHold Chan.latchHoldAt
  dsimp only
  split
  · exact Option.some_ne_none _
  · exact Option.some_ne_none _

theorem Chan.linkHold_of_ne {x : Chan} (now : Tbu) (h : x.mod.state ≠ .run) : x.linkHold now = x := if_neg h

theorem Chan.linkHold_held {x : Chan} (now : Tbu) (h : x.mod.state = .run) :
    (x.linkHold now).seq.holdReq ≠ none ∧ (x.linkHold now).mod = x.mod := by
  rw [Chan.linkHold, if_pos h]
  exact ⟨x.latchHold_latched _ _, rfl⟩

theorem Chan.unheld.linkHold {x y : Chan} (h : x.unheld y) (now : Tbu) (on : Bool) :
    (x.mod.state ≠ .run ∨ on = false → x.unheld (if on = true then y.linkHold now else y)) ∧
      (x.mod.state = .run → on = true →
        (if on = true then y.linkHold now else y).seq.holdReq ≠ none ∧ (if on = true then y.linkHold now else y).mod = x.mod) := by
  have hmod : y.mod = x.mod := by rw [h]
  rw [← hmod]
  cases on with
  | false => exact ⟨fun _ => h, fun _ hon => nomatch hon⟩
  | true =>
    refine ⟨fun hst => ?_, fun hrun _ => Chan.linkHold_held now hrun⟩
    rw [if_pos rfl, Chan.linkHold_of_ne now (hst.resolve_right (by decide))]
    exact h

/-- What the loss of the link does to a channel where no load is in progress. -/
theorem State.linkLoss_ch (hm : s.mod.mode.outlivesLink) (hl : s.skn.load = none) (c : ChanId) :
    ((s.ch c).mod.state ≠ .run ∨ bit s.mod.cfg 0 = false → (s.ch c).unheld (s.linkLoss.ch c)) ∧
      ((s.ch c).mod.state = .run → bit s.mod.cfg 0 = true →
        (s.linkLoss.ch c).seq.holdReq ≠ none ∧ (s.linkLoss.ch c).mod = (s.ch c).mod) := by
  obtain ⟨-, -, -, kcfg, kch⟩ := s.unlinked.linkNoted_keeps
  have hcfg : s.unlinked.linkNoted.mod.cfg = s.mod.cfg := by rw [kcfg, s.unlinked_mod]
  rw [State.linkLoss_unloaded hm hl, State.linkHeld_ch, kch, hcfg]
  exact Chan.unheld.linkHold (s.unlinked_ch c) _ _

/-! ### What makes the module lose the link (R396, R397) -/

/-- A frame replayed fifteen times before is replayed for the sixteenth time, from the first frame numbered `k` on. -/
theorem replayFrom_sixteenth {k lack : BitVec 12} {before after : List Sent} {f y : Sent} (hf : f.seq = k) (hy : y ∈ f :: after)
    (hn : 15 ≤ y.replays) : ∃ x ∈ replayFrom k lack (before ++ f :: after), 16 ≤ x.replays := by
  have hstop : (f :: after).dropWhile (·.seq != k) = f :: after := List.dropWhile_cons_of_neg (by simp [hf])
  have hmem : y ∈ (before ++ f :: after).dropWhile (·.seq != k) := by
    rw [List.dropWhile_append]
    split
    · rw [hstop]; exact hy
    · exact List.mem_append_right _ hy
  exact ⟨y.again lack, List.mem_append_right _ (List.mem_map_of_mem hmem), Nat.succ_le_succ hn⟩

/-- The frames from number `k` on go out again. -/
def State.resent (s : State) (k : BitVec 12) : State :=
  { s with hp := { s.hp with outstanding := replayFrom k s.hp.lackOut s.hp.outstanding, ackAt := s.now, replays := satInc s.hp.replays } }

/-- A frame's sixteenth replay loses the link. -/
theorem State.replay_loses {k : BitVec 12} {before after : List Sent} {f y : Sent} (hup : s.hp.state = .up)
    (hout : s.hp.outstanding = before ++ f :: after) (hf : f.seq = k) (hy : y ∈ f :: after) (hn : 15 ≤ y.replays) :
    s.replay k = (s.resent k).linkLoss := by
  have hany : s.hp.outstanding.any (·.seq == k) = true := by simp [hout, hf]
  have hsixteen : (s.resent k).hp.outstanding.any (fun x => decide (16 ≤ x.replays)) = true := by
    obtain ⟨x, hx, h16⟩ := replayFrom_sixteenth (lack := s.hp.lackOut) (before := before) hf hy hn
    rw [← hout] at hx
    exact List.any_eq_true.2 ⟨x, hx, decide_eq_true h16⟩
  exact (if_pos ⟨hup, hany⟩).trans (if_pos hsixteen)

/-- The instruction `i` loses the link at instant `t`. -/
def State.losesLink (s : State) (t : Tbu) (i : Instr) : Prop :=
  ∃ h : Hp, exec i s = .next ({ s.atTime t with hp := h } : State).linkLoss ∧ h.losses = s.hp.losses

theorem losesLink_silence (hup : s.hp.state = .up) (h : s.hp.blockAt + s.hp.lossTbu ≤ max s.now t) :
    s.losesLink t (.linkSilenceTimeout t) := ⟨s.hp, congrArg Host.Outcome.next (if_pos ⟨hup, h⟩), rfl⟩

theorem losesLink_laneDrop (hup : s.hp.state = .up) (hact : bit s.hp.active lane.val = true)
    (hdrop : bit s.hp.failing lane.val = true ∨ s.hp.alignLost lane (max s.now t) = true)
    (hfew : laneCount (clrBit s.hp.active lane.val) < s.hp.minLanes) : s.losesLink t (.laneDrop t lane) :=
  ⟨s.hp.dropped lane (max s.now t), congrArg Host.Outcome.next ((State.laneDrop_of_drops (s := s.atTime t)
    ((Hp.drops'_iff s.hp lane _).2 ⟨hup, hact, hdrop⟩)).trans (if_pos hfew)), rfl⟩

theorem State.heard_up (h : s.hp.state = .up) : s.heard = { s with hp := { s.hp with blockAt := s.now } } := if_pos h

theorem losesLink_nak {k : BitVec 12} {before after : List Sent} {f y : Sent} (hup : s.hp.state = .up)
    (hout : s.hp.outstanding = before ++ f :: after) (hf : f.seq = k) (hy : y ∈ f :: after) (hn : 15 ≤ y.replays) :
    s.losesLink t (.nak t k) := by
  have hheard : (s.atTime t).heard = { s.atTime t with hp := { s.hp with blockAt := (s.atTime t).now } } :=
    State.heard_up (s := s.atTime t) hup
  have hexec : exec (.nak t k) s = .next ((s.atTime t).heard.resent k).linkLoss := congrArg Host.Outcome.next
    (State.replay_loses (s := (s.atTime t).heard) (by rw [hheard]; exact hup) (by rw [hheard]; exact hout) hf hy hn)
  rw [hheard] at hexec
  exact ⟨_, hexec, rfl⟩

theorem losesLink_replayTimeout {f y : Sent} {rest : List Sent} (hup : s.hp.state = .up) (hout : s.hp.outstanding = f :: rest)
    (hlate : s.hp.ackAt + s.hp.replayTbu ≤ max s.now t) (hy : y ∈ f :: rest) (hn : 15 ≤ y.replays) :
    s.losesLink t (.replayTimeout t) := by
  have hexec : exec (.replayTimeout t) s = .next ((s.atTime t).replay f.seq) := by
    rw [exec, execReplayTimeout]
    rw [State.atTime_hp, hout]
    exact congrArg Host.Outcome.next (if_pos hlate)
  rw [State.replay_loses (s := s.atTime t) (before := []) hup hout rfl hy hn] at hexec
  exact ⟨_, hexec, rfl⟩

theorem linkLost : Clause.LinkLost := by
  intro t s i hup hcause
  have hloses : s.losesLink t i := by
    rcases hcause with ⟨rfl, h⟩ | ⟨lane, rfl, hact, hdrop, hfew⟩ | ⟨k, before, after, f, rfl, hout, hf, y, hy, hn⟩ |
      ⟨f, rest, rfl, hout, hlate, y, hy, hn⟩
    · exact losesLink_silence hup h
    · exact losesLink_laneDrop hup hact hdrop hfew
    · exact losesLink_nak hup hout hf hy hn
    · exact losesLink_replayTimeout hup hout hlate hy hn
  obtain ⟨h, hexec, hlosses⟩ := hloses
  obtain ⟨v, hv⟩ : ∃ v : State, v = { s.atTime t with hp := h } := ⟨_, rfl⟩
  have hmod : v.mod = s.mod := by rw [hv]; rfl
  have hskn : v.skn = s.skn := by rw [hv]; rfl
  have hflt : v.flt = s.flt := by rw [hv]; rfl
  have hchans : v.chans = s.chans := by rw [hv]; rfl
  have hhp : v.hp.losses = s.hp.losses := by rw [hv]; exact hlosses
  have hch := fun c : ChanId => State.ch_of_chans hchans c
  rw [← hv] at hexec
  clear hv
  refine ⟨?_, fun hm => ?_, fun l hl hk => ?_, fun hm hl => ?_⟩
  · obtain ⟨hlink, hstate, hout, hactive, hloss, hdown⟩ := v.linkLoss_lost
    refine ⟨_, hexec, hlink, hstate, hout, hactive, by rw [hloss, hhp], hdown, fun c a => ?_⟩
    rw [v.linkLoss_creels c a, State.creelByte, State.creelByte, hch]
  · obtain ⟨hmode, hlog, hheld⟩ := State.linkLoss_dark (s := v) (by rw [hmod, hm])
    exact ⟨_, hexec, hmode, hlog.trans hflt, fun c => hch c ▸ hheld c⟩
  · rcases hk with ⟨hm, hk⟩ | ⟨hm, hk⟩
    · obtain ⟨⟨hnone, hdone, hrefused, hres, hmask⟩, hq⟩ := State.linkLoss_whole (s := v) (by rw [hskn, hl]) (by rw [hmod, hm]) hk
      exact ⟨_, hexec, hnone, hdone, hrefused, fun h0 => hres (by rw [hskn, h0]), fun _ => hq, fun hne => absurd hm hne, hmask⟩
    · have hout : v.mod.mode.outlivesLink := by
        rw [hmod]
        exact List.mem_append_left [.quarantine] hm
      obtain ⟨⟨hnone, hdone, hrefused, hres, hmask⟩, hmode⟩ := State.linkLoss_channel (s := v) (by rw [hskn, hl]) hout hk
      refine ⟨_, hexec, hnone, hdone, hrefused, fun h0 => hres (by rw [hskn, h0]), fun hsp => ?_, fun _ => ?_, hmask⟩
      · rw [hsp] at hm
        simp at hm
      · exact ⟨by rw [hmode, hmod], State.linkLoss_noted hout⟩
  · have hout : v.mod.mode.outlivesLink := by rw [hmod]; exact hm
    have hnone : v.skn.load = none := by rw [hskn, hl]
    obtain ⟨hmode, hlog⟩ := State.linkLoss_stays hout hnone
    refine ⟨_, hexec, by rw [hmode, hmod], State.linkLoss_noted hout, hlog.trans hflt, fun c => ?_⟩
    have hheld := State.linkLoss_ch hout hnone c
    rw [hch, hmod] at hheld
    exact hheld

/-- Settles O53: whatever loses the link does so with the same loss of it, and each mode's own answer follows. -/
theorem linkUpAndLoss : Obligations.LinkUpAndLoss := ⟨linkUpAndLanes, linkLost⟩

end Sys2Proof.Machine
end


section
/-! The route check finds the first waypoint that fails, with its lowest code; what it knows of block ranges (R139). -/

namespace Sys2Proof.Machine

variable {q : Seq} {x : Chan} {w : WpId} {C : List WpId} {bl outer : List Block} {bs close d u : Nat}

/-! ### Ranges that the check has found -/

/-- Ranges of the closing waypoints `C` that contain address `u`. -/
def depthAt (q : Seq) (C : List WpId) (u : Nat) : Nat := (C.filter (inBlock q u)).length

theorem inBlock_iff (q : Seq) (u : Nat) (v : WpId) : inBlock q u v = true ↔ (q.wpStart v).toNat ≤ u ∧ u ≤ v.toNat := by
  simp [inBlock]

theorem depthAt_concat_of_in (h : (q.wpStart w).toNat ≤ u ∧ u ≤ w.toNat) : depthAt q (C ++ [w]) u = depthAt q C u + 1 := by
  simp [depthAt, List.filter_append, (inBlock_iff q u w).2 h]

theorem depthAt_concat_of_out (h : ¬((q.wpStart w).toNat ≤ u ∧ u ≤ w.toNat)) : depthAt q (C ++ [w]) u = depthAt q C u := by
  have hout : inBlock q u w = false := Bool.eq_false_iff.2 fun hin => h ((inBlock_iff q u w).1 hin)
  simp [depthAt, List.filter_append, hout]

/-- What the list of blocks says of the closing waypoints `C` that have passed: the outermost ranges, the latest first, each with the
largest number of ranges around one address. -/
structure BlocksOf (q : Seq) (C : List WpId) (bl : List Block) : Prop where
  apart : bl.Pairwise fun a b => b.close < a.start
  proper : ∀ b ∈ bl, b.start ≤ b.close
  within : ∀ v ∈ C, ∃ b ∈ bl, b.start ≤ (q.wpStart v).toNat ∧ v.toNat ≤ b.close
  closes : ∀ b ∈ bl, ∃ v ∈ C, (q.wpStart v).toNat = b.start ∧ v.toNat = b.close
  deepest : ∀ b ∈ bl, ∃ u, b.start ≤ u ∧ u ≤ b.close ∧ depthAt q C u = b.depth
  depth_le : ∀ b ∈ bl, ∀ u, b.start ≤ u → u ≤ b.close → depthAt q C u ≤ b.depth
  shallow : ∀ b ∈ bl, b.depth ≤ 3

theorem BlocksOf.nil (q : Seq) : BlocksOf q [] [] :=
  ⟨.nil, nofun, nofun, nofun, nofun, nofun, nofun⟩

/-- Outside the blocks no range has been found. -/
theorem BlocksOf.depth_outside (h : BlocksOf q C bl) (hout : ∀ b ∈ bl, ¬(b.start ≤ u ∧ u ≤ b.close)) : depthAt q C u = 0 := by
  rw [depthAt, List.length_eq_zero_iff, List.filter_eq_nil_iff]
  intro v hv hin
  obtain ⟨b, hb, hstart, hclose⟩ := h.within v hv
  obtain ⟨hlo, hhi⟩ := (inBlock_iff q u v).1 hin
  exact hout b hb ⟨by omega, by omega⟩

theorem BlocksOf.depth_le_three (h : BlocksOf q C bl) (u : Nat) : depthAt q C u ≤ 3 := by
  by_cases hin : ∃ b ∈ bl, b.start ≤ u ∧ u ≤ b.close
  · obtain ⟨b, hb, hlo, hhi⟩ := hin
    exact Nat.le_trans (h.depth_le b hb u hlo hhi) (h.shallow b hb)
  · rw [h.depth_outside fun b hb hu => hin ⟨b, hb, hu⟩]
    exact Nat.zero_le 3

/-! ### One range more -/

/-- The blocks `inner` of a list that a range from `bs` on contains, the others, and the depth that they give it, at least `d`. -/
structure Taken (bs d : Nat) (bl inner outer : List Block) (depth : Nat) : Prop where
  split : bl = inner ++ outer
  inside : ∀ b ∈ inner, bs ≤ b.start
  before : ∀ b ∈ outer.head?, b.start < bs
  least : d ≤ depth
  deeper : ∀ b ∈ inner, b.depth + 1 ≤ depth
  reached : depth = d ∨ ∃ b ∈ inner, depth = b.depth + 1

theorem takeInner_taken (bs : Nat) (bl : List Block) (d : Nat) :
    ∃ inner, Taken bs d bl inner (takeInner bs bl d).2 (takeInner bs bl d).1 := by
  induction bl generalizing d with
  | nil => exact ⟨[], rfl, nofun, nofun, Nat.le_refl d, nofun, .inl rfl⟩
  | cons b r ih =>
    rw [takeInner]
    split
    next hin =>
      obtain ⟨inner, ⟨hsplit, hinside, hbefore, hleast, hdeeper, hreached⟩⟩ := ih (max d (b.depth + 1))
      refine ⟨b :: inner, by rw [List.cons_append, ← hsplit], ?_, hbefore, by omega, ?_, ?_⟩
      · exact List.forall_mem_cons.2 ⟨hin, hinside⟩
      · exact List.forall_mem_cons.2 ⟨by omega, hdeeper⟩
      · rcases hreached with hmax | ⟨a, ha, hdepth⟩
        · rcases Nat.le_total d (b.depth + 1) with hle | hle
          · exact .inr ⟨b, List.mem_cons_self, by omega⟩
          · exact .inl (by omega)
        · exact .inr ⟨a, List.mem_cons_of_mem b ha, hdepth⟩
    next hout =>
      exact ⟨[], rfl, nofun, fun a ha => by obtain rfl := Option.some.inj ha; omega, Nat.le_refl d, nofun, .inl rfl⟩

section
variable {inner : List Block} {depth : Nat}

theorem Taken.mem (ht : Taken bs d bl inner outer depth) (b : Block) : b ∈ bl ↔ b ∈ inner ∨ b ∈ outer := by
  rw [ht.split, List.mem_append]

variable (h : BlocksOf q C bl) (ht : Taken (q.wpStart w).toNat 1 bl inner outer depth)
include h ht

/-- With no clash, the blocks that the range does not contain end before it. -/
theorem Taken.outer_before (hclash : ∀ b ∈ outer.head?, b.close < (q.wpStart w).toNat) :
    ∀ b ∈ outer, b.close < (q.wpStart w).toNat := by
  have hsorted := (List.pairwise_append.1 (ht.split ▸ h.apart)).2.1
  cases outer with
  | nil => exact nofun
  | cons a r =>
    have ha := hclash a rfl
    have hproper := h.proper a ((ht.mem a).2 (.inr List.mem_cons_self))
    refine List.forall_mem_cons.2 ⟨ha, fun b hb => ?_⟩
    have hlt := (List.pairwise_cons.1 hsorted).1 b hb
    omega

variable (hlast : ∀ v ∈ C, v.toNat < w.toNat) (hstart : (q.wpStart w).toNat ≤ w.toNat)
  (hclash : ∀ b ∈ outer.head?, b.close < (q.wpStart w).toNat)

include hclash in
/-- Within the new range no address has more ranges than its depth allows for. -/
theorem Taken.depth_bound (hlo : (q.wpStart w).toNat ≤ u) : depthAt q C u + 1 ≤ depth := by
  by_cases hin : ∃ b ∈ bl, b.start ≤ u ∧ u ≤ b.close
  · obtain ⟨b, hb, hblo, hbhi⟩ := hin
    rcases (ht.mem b).1 hb with hinner | houter
    · have hdepth := h.depth_le b hb u hblo hbhi
      have hdeeper := ht.deeper b hinner
      omega
    · have hbefore := Taken.outer_before h ht hclash b houter
      omega
  · rw [h.depth_outside fun b hb hu => hin ⟨b, hb, hu⟩]
    exact ht.least

include hclash hlast hstart in
/-- The depth of the new range is that of one of its addresses. -/
theorem Taken.depth_reached : ∃ u, (q.wpStart w).toNat ≤ u ∧ u ≤ w.toNat ∧ depthAt q C u + 1 = depth := by
  rcases ht.reached with hone | ⟨b, hb, hdepth⟩
  · have hbound := Taken.depth_bound h ht hclash (Nat.le_refl _)
    exact ⟨_, Nat.le_refl _, hstart, by omega⟩
  · have hmem := (ht.mem b).2 (.inl hb)
    obtain ⟨u, hlo, hhi, hu⟩ := h.deepest b hmem
    obtain ⟨v, hv, -, hclose⟩ := h.closes b hmem
    have hinside := ht.inside b hb
    have hbefore := hlast v hv
    exact ⟨u, by omega, by omega, by omega⟩

include hclash hlast hstart in
/-- A range that nests well among the blocks found so far. -/
theorem Taken.blocksOf (hdepth : depth ≤ 3) :
    BlocksOf q (C ++ [w]) ({ start := (q.wpStart w).toNat, close := w.toNat, depth := depth } :: outer) := by
  have hbefore := Taken.outer_before h ht hclash
  have hmem : ∀ b ∈ outer, b ∈ bl := fun b hb => (ht.mem b).2 (.inr hb)
  have hsame : ∀ b ∈ outer, ∀ u, u ≤ b.close → depthAt q (C ++ [w]) u = depthAt q C u := fun b hb u hu =>
    depthAt_concat_of_out fun hin => by have := hbefore b hb; omega
  refine ⟨List.pairwise_cons.2 ⟨hbefore, (List.pairwise_append.1 (ht.split ▸ h.apart)).2.1⟩, ?_, ?_, ?_, ?_, ?_, ?_⟩
  · exact List.forall_mem_cons.2 ⟨hstart, fun b hb => h.proper b (hmem b hb)⟩
  · intro v hv
    rcases List.mem_append.1 hv with hC | hw
    · obtain ⟨b, hb, hblo, hbhi⟩ := h.within v hC
      rcases (ht.mem b).1 hb with hinner | houter
      · exact ⟨_, List.mem_cons_self, Nat.le_trans (ht.inside b hinner) hblo, Nat.le_of_lt (hlast v hC)⟩
      · exact ⟨b, List.mem_cons_of_mem _ houter, hblo, hbhi⟩
    · obtain rfl := List.mem_singleton.1 hw
      exact ⟨_, List.mem_cons_self, Nat.le_refl _, Nat.le_refl _⟩
  · refine List.forall_mem_cons.2 ⟨⟨w, List.mem_append_right C (List.mem_singleton_self w), rfl, rfl⟩, fun b hb => ?_⟩
    obtain ⟨v, hv, hends⟩ := h.closes b (hmem b hb)
    exact ⟨v, List.mem_append_left _ hv, hends⟩
  · refine List.forall_mem_cons.2 ⟨?_, fun b hb => ?_⟩
    · obtain ⟨u, hlo, hhi, hu⟩ := Taken.depth_reached h ht hlast hstart hclash
      exact ⟨u, hlo, hhi, (depthAt_concat_of_in ⟨hlo, hhi⟩).trans hu⟩
    · obtain ⟨u, hlo, hhi, hu⟩ := h.deepest b (hmem b hb)
      exact ⟨u, hlo, hhi, (hsame b hb u hhi).trans hu⟩
  · refine List.forall_mem_cons.2 ⟨fun u hlo hhi => ?_, fun b hb u hlo hhi => ?_⟩
    · rw [depthAt_concat_of_in ⟨hlo, hhi⟩]
      exact Taken.depth_bound h ht hclash hlo
    · rw [hsame b hb u hhi]
      exact h.depth_le b (hmem b hb) u hlo hhi
  · exact List.forall_mem_cons.2 ⟨hdepth, fun b hb => h.shallow b (hmem b hb)⟩

end

/-- The range of `w` crosses one before it, or is the fourth around an address (R139, code 0x09). -/
def nestsBadly (q : Seq) (C : List WpId) (w : WpId) : Prop :=
  (∃ v ∈ C, (q.wpStart v).toNat < (q.wpStart w).toNat ∧ (q.wpStart w).toNat ≤ v.toNat) ∨ ∃ u, 3 < depthAt q (C ++ [w]) u

theorem addBlock_of_taken {depth : Nat} (htake : takeInner bs bl 1 = (depth, outer)) :
    addBlock bs close bl = if (∃ b ∈ outer.head?, bs ≤ b.close) ∨ 3 < depth then none
      else some ({ start := bs, close := close, depth := depth } :: outer) := by
  unfold addBlock
  dsimp only
  rw [htake]
  cases outer <;> simp

/-- The check takes the range of a closing waypoint exactly when it nests well. -/
theorem addBlock_spec (h : BlocksOf q C bl) (hlast : ∀ v ∈ C, v.toNat < w.toNat) (hstart : (q.wpStart w).toNat ≤ w.toNat) :
    (nestsBadly q C w ∧ addBlock (q.wpStart w).toNat w.toNat bl = none) ∨
    (¬nestsBadly q C w ∧ ∃ r, addBlock (q.wpStart w).toNat w.toNat bl = some r ∧ BlocksOf q (C ++ [w]) r) := by
  obtain ⟨inner, ht⟩ := takeInner_taken (q.wpStart w).toNat bl 1
  have hadd := addBlock_of_taken (close := w.toNat) (rfl : takeInner (q.wpStart w).toNat bl 1 = _)
  generalize (takeInner (q.wpStart w).toNat bl 1).1 = depth, (takeInner (q.wpStart w).toNat bl 1).2 = outer at ht hadd
  by_cases hcross : ∃ b ∈ outer.head?, (q.wpStart w).toNat ≤ b.close
  · refine .inl ⟨.inl ?_, by rw [hadd, if_pos (.inl hcross)]⟩
    obtain ⟨b, hb, hclose⟩ := hcross
    have hbefore := ht.before b hb
    obtain ⟨v, hv, hvstart, hvclose⟩ := h.closes b ((ht.mem b).2 (.inr (List.mem_of_mem_head? hb)))
    exact ⟨v, hv, by omega, by omega⟩
  · have hclash : ∀ b ∈ outer.head?, b.close < (q.wpStart w).toNat := fun b hb => Nat.not_le.1 fun hle => hcross ⟨b, hb, hle⟩
    by_cases hdeep : 3 < depth
    · refine .inl ⟨.inr ?_, by rw [hadd, if_pos (.inr hdeep)]⟩
      obtain ⟨u, hlo, hhi, hu⟩ := Taken.depth_reached h ht hlast hstart hclash
      exact ⟨u, by rw [depthAt_concat_of_in ⟨hlo, hhi⟩]; omega⟩
    · refine .inr ⟨?_, _, by rw [hadd, if_neg (not_or.2 ⟨hcross, hdeep⟩)],
        Taken.blocksOf h ht hlast hstart hclash (Nat.not_lt.1 hdeep)⟩
      rintro (⟨v, hv, hvstart, hvclose⟩ | ⟨u, hu⟩)
      · obtain ⟨b, hb, hblo, hbhi⟩ := h.within v hv
        rcases (ht.mem b).1 hb with hinner | houter
        · have hinside := ht.inside b hinner
          omega
        · have hbefore := Taken.outer_before h ht hclash b houter
          omega
      · by_cases hin : (q.wpStart w).toNat ≤ u ∧ u ≤ w.toNat
        · have hbound := Taken.depth_bound h ht hclash hin.1
          rw [depthAt_concat_of_in hin] at hu
          omega
        · have hshallow := h.depth_le_three u
          rw [depthAt_concat_of_out hin] at hu
          omega

/-! ### One waypoint -/

theorem wpFails_range {k : Nat} (h : wpFails x w k) : 4 ≤ k ∧ k ≤ 10 := by
  rcases h with ⟨hk, -⟩ | ⟨hk, -⟩ | ⟨hk, -⟩ | ⟨hk, -⟩ | ⟨hk, -⟩ | ⟨hk, -⟩ | ⟨hk, -⟩ <;> omega

/-- A waypoint fails with a code and with none below it. -/
def failsFirst (x : Chan) (w : WpId) (code : Nat) : Prop := wpFails x w code ∧ ∀ k, wpFails x w k → code ≤ k

theorem wpFails_4 : wpFails x w 4 ↔ (!x.seq.wpValid w || x.seq.wpReserved w || decide (4 ≤ (x.seq.wpHopOp w).toNat)) = true := by
  simp [wpFails, or_assoc]

theorem wpFails_5 : wpFails x w 5 ↔ (!x.seq.segValid (x.seq.wpSeg w)) = true := by simp [wpFails]

theorem wpFails_6 : wpFails x w 6 ↔ (x.seq.segStreamed (x.seq.wpSeg w) && !x.openFor (x.seq.wpSeg w)) = true := by simp [wpFails]

theorem wpFails_7 : wpFails x w 7 ↔
    (([0, 1, 2, 3] : List Nat).any fun j => x.seq.wpJen w j && !x.seq.inRange (x.seq.wpJump w j)) = true := by
  simp [wpFails, Fin.exists_fin_succ]

theorem wpFails_8 : wpFails x w 8 ↔ (x.seq.wpClose w && (decide ((x.seq.wpStart w).toNat < x.seq.first.toNat) ||
    decide (w.toNat < (x.seq.wpStart w).toNat))) = true := by simp [wpFails]

theorem wpFails_10 : wpFails x w 10 ↔
    (x.seq.wpWait w != 0 && (!x.seq.segValid x.seq.idleSeg || x.seq.segStreamed x.seq.idleSeg)) = true := by simp [wpFails]

/-- Among the closing waypoints up to `w`, with `C` those before it, the test of nesting. -/
theorem wpFails_9 (hC : x.seq.wpClose w = true → closings x.seq w = C ++ [w]) (hlast : ∀ v ∈ C, v.toNat < w.toNat) :
    wpFails x w 9 ↔ x.seq.wpClose w = true ∧ nestsBadly x.seq C w := by
  have hnine : wpFails x w 9 ↔ x.seq.wpClose w = true ∧
    ((∃ v ∈ closings x.seq w, v.toNat < w.toNat ∧ (x.seq.wpStart v).toNat < (x.seq.wpStart w).toNat ∧
      (x.seq.wpStart w).toNat ≤ v.toNat) ∨ ∃ u : Nat, 3 < ((closings x.seq w).filter (inBlock x.seq u)).length) := by
    simp [wpFails]
  rw [hnine]
  refine and_congr_right fun hclose => or_congr ?_ (by rw [hC hclose]; rfl)
  rw [hC hclose]
  constructor
  · rintro ⟨v, hv, hbefore, hstart, hend⟩
    rcases List.mem_append.1 hv with hv | hv
    · exact ⟨v, hv, hstart, hend⟩
    · obtain rfl := List.mem_singleton.1 hv
      exact absurd hbefore (Nat.lt_irrefl _)
  · rintro ⟨v, hv, hstart, hend⟩
    exact ⟨v, List.mem_append_left _ hv, hlast v hv, hstart, hend⟩

/-- The closing waypoints before `w`, and `w` where it closes. -/
def closedBy (q : Seq) (C : List WpId) (w : WpId) : List WpId := if q.wpClose w then C ++ [w] else C

/-- What the check makes of a waypoint: its lowest code, or the blocks with its range. -/
theorem Chan.checkWp_spec (h : BlocksOf x.seq C bl) (hC : closings x.seq w = closedBy x.seq C w)
    (hlast : ∀ v ∈ C, v.toNat < w.toNat) :
    ((∀ k, ¬wpFails x w k) ∧ ∃ r, x.checkWp w bl = (0, r) ∧ BlocksOf x.seq (closedBy x.seq C w) r) ∨
    (∃ code, failsFirst x w code ∧ (x.checkWp w bl).1 = BitVec.ofNat 8 code) := by
  have hfirst : ∀ code, wpFails x w code → (∀ k < code, ¬wpFails x w k) → failsFirst x w code :=
    fun code hcode hbelow => ⟨hcode, fun k hk => Nat.not_lt.1 fun hlt => hbelow k hlt hk⟩
  have hnine := wpFails_9 (x := x) (w := w) (C := C) (fun hclose => by rw [hC, closedBy, if_pos hclose]) hlast
  unfold Chan.checkWp
  dsimp only
  have hb4 : ∀ k < 4, ¬wpFails x w k := fun k hk hfail => by have := wpFails_range hfail; omega
  by_cases h4 : wpFails x w 4
  · exact .inr ⟨4, hfirst 4 h4 hb4, congrArg Prod.fst (if_pos (wpFails_4.1 h4))⟩
  rw [if_neg (mt wpFails_4.2 h4)]
  have hb5 := Nat.forall_lt_succ_right.2 ⟨hb4, h4⟩
  by_cases h5 : wpFails x w 5
  · exact .inr ⟨5, hfirst 5 h5 hb5, congrArg Prod.fst (if_pos (wpFails_5.1 h5))⟩
  rw [if_neg (mt wpFails_5.2 h5)]
  have hb6 := Nat.forall_lt_succ_right.2 ⟨hb5, h5⟩
  by_cases h6 : wpFails x w 6
  · exact .inr ⟨6, hfirst 6 h6 hb6, congrArg Prod.fst (if_pos (wpFails_6.1 h6))⟩
  rw [if_neg (mt wpFails_6.2 h6)]
  have hb7 := Nat.forall_lt_succ_right.2 ⟨hb6, h6⟩
  by_cases h7 : wpFails x w 7
  · exact .inr ⟨7, hfirst 7 h7 hb7, congrArg Prod.fst (if_pos (wpFails_7.1 h7))⟩
  rw [if_neg (mt wpFails_7.2 h7)]
  have hb8 := Nat.forall_lt_succ_right.2 ⟨hb7, h7⟩
  by_cases h8 : wpFails x w 8
  · exact .inr ⟨8, hfirst 8 h8 hb8, congrArg Prod.fst (if_pos (wpFails_8.1 h8))⟩
  rw [if_neg (mt wpFails_8.2 h8)]
  have hb9 := Nat.forall_lt_succ_right.2 ⟨hb8, h8⟩
  -- the range of `w` is tested only where it closes
  have hnest : (wpFails x w 9 ∧ (if x.seq.wpClose w = true then addBlock (x.seq.wpStart w).toNat w.toNat bl else some bl) = none) ∨
      (¬wpFails x w 9 ∧ ∃ r, (if x.seq.wpClose w = true then addBlock (x.seq.wpStart w).toNat w.toNat bl else some bl) = some r ∧
        BlocksOf x.seq (closedBy x.seq C w) r) := by
    rw [closedBy, hnine]
    by_cases hclose : x.seq.wpClose w = true
    · have hstart : (x.seq.wpStart w).toNat ≤ w.toNat := by
        have hrange := mt wpFails_8.2 h8
        simp only [hclose, Bool.true_and, Bool.or_eq_true, decide_eq_true_eq, not_or, Nat.not_lt] at hrange
        exact hrange.2
      simpa [hclose] using addBlock_spec h hlast hstart
    · simpa [hclose] using h
  generalize (if x.seq.wpClose w = true then addBlock (x.seq.wpStart w).toNat w.toNat bl else some bl) = nest at hnest ⊢
  rcases hnest with ⟨h9, rfl⟩ | ⟨h9, r, rfl, hr⟩
  · exact .inr ⟨9, hfirst 9 h9 hb9, rfl⟩
  have hb10 := Nat.forall_lt_succ_right.2 ⟨hb9, h9⟩
  by_cases h10 : wpFails x w 10
  · exact .inr ⟨10, hfirst 10 h10 hb10, congrArg Prod.fst (if_pos (wpFails_10.1 h10))⟩
  · refine .inl ⟨fun k hk => ?_, r, if_neg (mt wpFails_10.2 h10), hr⟩
    rcases Nat.lt_or_eq_of_le (wpFails_range hk).2 with hlt | rfl
    · exact hb10 k hlt hk
    · exact h10 hk

/-! ### The waypoints of the route, in turn -/

theorem Seq.waypoints_sorted (q : Seq) : q.waypoints.Pairwise fun v w => v.toNat < w.toNat := by
  unfold Seq.waypoints
  rw [List.pairwise_map]
  have hfirst := q.first.isLt
  have hlast := q.last.isLt
  refine List.Pairwise.imp_of_mem (fun {a b} ha hb hab => ?_) List.pairwise_lt_range'
  have hb' := (List.mem_range'_1.1 hb).2
  rw [BitVec.toNat_ofNat, BitVec.toNat_ofNat, Nat.mod_eq_of_lt (by omega), Nat.mod_eq_of_lt (by omega)]
  exact hab

section
variable {pre r : List WpId} (hway : x.seq.waypoints = pre ++ w :: r)
include hway

/-- Every waypoint of the route before `w` lies below it, and every one after it above it. -/
theorem Seq.waypoints_around : (∀ v ∈ pre, v.toNat < w.toNat) ∧ ∀ v ∈ r, w.toNat < v.toNat := by
  have hsorted := x.seq.waypoints_sorted
  rw [hway, List.pairwise_append, List.pairwise_cons] at hsorted
  obtain ⟨-, ⟨hafter, -⟩, hbefore⟩ := hsorted
  exact ⟨fun v hv => hbefore v hv w List.mem_cons_self, hafter⟩

theorem closings_eq : closings x.seq w = closedBy x.seq (pre.filter x.seq.wpClose) w := by
  obtain ⟨hbefore, hafter⟩ := Seq.waypoints_around hway
  have hpre : pre.filter (fun v => x.seq.wpClose v && decide (v.toNat ≤ w.toNat)) = pre.filter x.seq.wpClose :=
    List.filter_congr fun v hv => by rw [decide_eq_true (Nat.le_of_lt (hbefore v hv)), Bool.and_true]
  have hr : r.filter (fun v => x.seq.wpClose v && decide (v.toNat ≤ w.toNat)) = [] :=
    List.filter_eq_nil_iff.2 fun v hv => by simp [hafter v hv]
  rw [closings, hway, List.filter_append, List.filter_cons, hpre, hr, closedBy]
  by_cases hclose : x.seq.wpClose w = true <;> simp [hclose]

end

theorem closedBy_filter (q : Seq) (pre : List WpId) (w : WpId) :
    closedBy q (pre.filter q.wpClose) w = (pre ++ [w]).filter q.wpClose := by
  rw [closedBy, List.filter_append]
  by_cases hclose : q.wpClose w = true <;> simp [hclose]

/-- The check of the waypoints `r` that are left reports the first that fails, or none does. -/
theorem Chan.checkWps_spec {pre r : List WpId} (hway : x.seq.waypoints = pre ++ r)
    (h : BlocksOf x.seq (pre.filter x.seq.wpClose) bl) :
    ((∀ w ∈ r, ∀ k, ¬wpFails x w k) ∧ (x.checkWps r bl).1 = 0) ∨
    (∃ w ∈ r, ∃ code, failsFirst x w code ∧ (∀ v ∈ r, v.toNat < w.toNat → ∀ k, ¬wpFails x v k) ∧
      x.checkWps r bl = (BitVec.ofNat 8 code, w)) := by
  induction r generalizing pre bl with
  | nil => exact .inl ⟨nofun, rfl⟩
  | cons w r ih =>
    obtain ⟨hbefore, hafter⟩ := Seq.waypoints_around hway
    have hlast : ∀ v ∈ pre.filter x.seq.wpClose, v.toNat < w.toNat := fun v hv => hbefore v (List.mem_of_mem_filter hv)
    rw [Chan.checkWps]
    rcases Chan.checkWp_spec h (closings_eq hway) hlast with ⟨hpass, bl', hcheck, hbl'⟩ | ⟨code, hfirst, hcheck⟩
    · rw [closedBy_filter] at hbl'
      simp only [hcheck, if_true]
      rcases ih (by rw [hway, List.append_assoc]; rfl) hbl' with ⟨hnone, hzero⟩ | ⟨v, hv, code, hfirst, hearlier, hfound⟩
      · exact .inl ⟨List.forall_mem_cons.2 ⟨hpass, hnone⟩, hzero⟩
      · exact .inr ⟨v, List.mem_cons_of_mem w hv, code, hfirst, List.forall_mem_cons.2 ⟨fun _ => hpass, hearlier⟩, hfound⟩
    · obtain ⟨hlo, hhi⟩ := wpFails_range hfirst.1
      have hne : BitVec.ofNat 8 code ≠ 0 := by interval_cases code <;> decide
      simp only [hcheck, if_neg hne]
      refine .inr ⟨w, List.mem_cons_self, code, hfirst, List.forall_mem_cons.2 ⟨fun hlt => absurd hlt (Nat.lt_irrefl _), ?_⟩, rfl⟩
      exact fun v hv hlt => absurd hlt (Nat.lt_asymm (hafter v hv))

/-! ### The route-level conditions -/

theorem Seq.resumeOk_iff (q : Seq) : q.resumeOk = true ↔
    bit q.resume 63 = true ∧ q.inRange q.resumeWp = true ∧ q.stackMatches none q.resumeStack = true := by
  rw [Seq.resumeOk, Bool.and_eq_true, Bool.and_eq_true, and_assoc]

/-- Once the route-level conditions hold, the waypoints decide. -/
theorem Chan.routeCheck_waypoints (hroute : x.seq.first.toNat ≤ x.seq.last.toNat) (hresume : ¬(x.seq.from' && !x.seq.resumeOk) = true)
    (hsiding : ¬(x.seq.underrun == 2 && (!x.seq.segValid x.seq.sidingSeg || x.seq.segStreamed x.seq.sidingSeg)) = true) :
    x.routeCheck = x.checkWps x.seq.waypoints [] := by
  unfold Chan.routeCheck
  dsimp only
  rw [if_neg (Nat.not_lt.2 hroute), if_neg hresume, if_neg hsiding]

theorem routeCheck : Clause.RouteCheck := by
  intro x
  refine ⟨fun hempty => if_pos hempty, fun hroute => ⟨fun hfrom hbad => ?_, fun hgood => ?_⟩⟩
  · have hresume : x.seq.resumeOk = false := by
      rw [Bool.eq_false_iff, Ne, Seq.resumeOk_iff]
      rintro ⟨hvalid, hin, hstack⟩
      rcases hbad with h | h | h <;> simp_all
    unfold Chan.routeCheck
    dsimp only
    rw [if_neg (Nat.not_lt.2 hroute), if_pos (by rw [hfrom, hresume]; rfl)]
  · have hresume : ¬(x.seq.from' && !x.seq.resumeOk) = true := by
      rcases hgood with hfrom | hok
      · simp [hfrom]
      · simp [x.seq.resumeOk_iff.2 hok]
    refine ⟨fun hunder hbad => ?_, fun hsiding => ?_⟩
    · unfold Chan.routeCheck
      dsimp only
      rw [if_neg (Nat.not_lt.2 hroute), if_neg hresume, if_pos (by simpa [hunder] using hbad)]
    · have hsiding : ¬(x.seq.underrun == 2 && (!x.seq.segValid x.seq.sidingSeg || x.seq.segStreamed x.seq.sidingSeg)) = true := by
        rcases hsiding with hunder | ⟨hvalid, hstreamed⟩
        · simp [hunder]
        · simp [hvalid, hstreamed]
      rw [x.routeCheck_waypoints hroute hresume hsiding]
      rcases x.checkWps_spec (pre := []) (r := x.seq.waypoints) rfl (BlocksOf.nil x.seq) with
        ⟨hnone, hzero⟩ | ⟨v, hv, k, hfirst, hearlier, hfound⟩
      · exact ⟨fun _ => hzero, fun w hw code hcode => absurd hcode (hnone w hw code)⟩
      · refine ⟨fun hnone => absurd hfirst.1 (hnone v hv k), fun w hw code hcode hleast hbefore => ?_⟩
        rw [hfound]
        rcases Nat.lt_trichotomy v.toNat w.toNat with hlt | heq | hgt
        · exact absurd hfirst.1 (hbefore v hv hlt k)
        · obtain rfl := BitVec.eq_of_toNat_eq heq
          rw [Nat.le_antisymm (hfirst.2 code hcode) (hleast k hfirst.1)]
        · exact absurd hcode (hearlier w hw hgt code)

end Sys2Proof.Machine
end


section
/-! ARM latches the route, and the end of its check arms the channel or refuses the ARM. -/

namespace Sys2Proof.Machine

variable {t : Tbu} {c : ChanId} {s : State}

/-! ### An ARM begins the check (R138) -/

theorem arm_begins : ∀ (t : Tbu) (c : ChanId) (s : State), s.working = true → (s.ch c).configured = true →
    (s.ch c).seq.checking = false → (s.ch c).mod.state = .rest → exec (.arm t c) s = .next ((s.atTime t).modCh c fun x => { x with
      seq := { x.seq with lRoute := x.seq.route, lRouteCfg := x.seq.routeCfg, lIdle := x.seq.idle, checking := true }
      mod := { x.mod with armBcast := false } }) := by
  intro t c s hw hc hchk hst
  have hhost : (Instr.arm t c, Cmd.arm) ∈ hostCommands t c := by simp [hostCommands]
  have htest : (s.atTime t).cmdTest c .arm = 0 :=
    State.cmdTest_of_accepted (isBad_of_hostCommands hhost) hw hc (by simp [Chan.accepts, hst]) nofun
  rw [exec_hostCommand hhost (State.portUp_of_working hw), State.command,
    if_neg (show ¬((s.atTime t).ch c).seq.checking = true by rw [State.ch_atTime, hchk]; exact Bool.false_ne_true), htest]
  rfl

/-! ### What arming asks of the synthesizers changes nothing else (R288) -/

/-- The parts of a channel that its synthesizers' tunes leave alone. -/
def Chan.armParts (x : Chan) : ChMod × ChTlh × Tracker × Tdc × Mem × Seq × Bool :=
  (x.mod, x.tlh, x.trk, x.tdc, x.mem, x.seq, x.flt.halt)

theorem Chan.recover_halt (x : Chan) (lane : Bool) (now : Tbu) : (x.recover lane now).flt.halt = x.flt.halt := by
  unfold Chan.recover
  dsimp only
  split
  · cases lane <;> rfl
  · rfl

theorem State.tuneTo_armParts (s : State) (c : ChanId) (i : Fin 4) (why : TuneFor) (setting : Word) (fresh : Bool) :
    ((s.tuneTo c i why setting fresh).ch c).armParts = (s.ch c).armParts := by
  rw [State.tuneTo, State.ch_modCh_self]
  simp [Chan.armParts, Chan.recover_halt]

theorem State.armSynths_armParts (s : State) (c : ChanId) : ((s.armSynths c).ch c).armParts = (s.ch c).armParts := by
  have hif : ∀ (p : Prop) [Decidable p] (a b : State), ((if p then a else b).ch c).armParts =
      if p then (a.ch c).armParts else (b.ch c).armParts := fun p _ a b => by split <;> rfl
  have hsyn : ∀ (u : State) (f : Chan → Syn), ((u.modCh c fun x => { x with syn := f x }).ch c).armParts = (u.ch c).armParts :=
    fun u f => by rw [State.ch_modCh_self]; rfl
  have hpair : ∀ (u : State) (f : Pair → Pair), ((u.modCh c fun x => x.modPair true f).ch c).armParts = (u.ch c).armParts :=
    fun u f => by rw [State.ch_modCh_self]; rfl
  have hclose : ∀ (u : State) (i : Chan → Fin 4) (now : Tbu), ((u.modCh c fun x => x.closeGate (i x) now false).ch c).armParts =
      (u.ch c).armParts := fun u i now => by rw [State.ch_modCh_self]; simp [Chan.armParts]
  unfold State.armSynths
  dsimp only
  split <;> simp only [hif, State.tuneTo_armParts, hpair, hclose, hsyn, ite_self]

/-! ### The end of the check (R139, R353, R434) -/

/-- The channel that an accepted ARM arms, before its synthesizers are asked. -/
def Chan.armLatched (x : Chan) (cyc tick : Nat) : Chan :=
  let y : Chan := ({ x with seq := { x.seq with
    checking := false, checkCode := 0, checkWp := 0, fromResume := x.seq.from', grpOutcome := 0 } } : Chan).plyArm.dstArm
  let heads := if y.mem.degraded then [] else y.headOrder.map y.segHead
  { y with
    jnc := y.jnc.cellClear cyc
    mem := { y.mem with heads := heads, holding := !heads.isEmpty, cacheFull := false }
    tlh := { y.tlh with request := some { tick := tick, service := false }, granted := false }
    flt := { y.flt with halt := false } }

theorem State.armAccept_eq (s : State) (c : ChanId) : s.armAccept c =
    (((s.modCh c fun x => x.armLatched s.cycle s.tlh.tick).armSynths c).setChState c .armed).closeEnded c := rfl

theorem State.closeQueue_heads (s : State) (c : ChanId) (i : Nat) : ((s.closeQueue c i).ch c).mem.heads = (s.ch c).mem.heads := by
  unfold State.closeQueue
  dsimp only
  rw [State.ch_modCh_self, State.qcpl_ch]
  rfl

theorem State.closeEnded_heads (s : State) (c : ChanId) : ((s.closeEnded c).ch c).mem.heads = (s.ch c).mem.heads :=
  foldl_keeps (fun u : State => (u.ch c).mem.heads) _ (fun u i => u.closeQueue_heads c i) _ s

/-- What an accepted ARM makes of channel `x`, whose command's outcome is still to be written. -/
def Chan.arms (x y : Chan) (tick : Nat) : Prop :=
  y.mod = { x.mod with state := .armed, heldCause := 0 } ∧ y.seq.checking = false ∧ y.seq.checkCode = 0 ∧
  y.seq.route = x.seq.route ∧ y.tlh.request = some { tick := tick, service := false } ∧ y.tlh.granted = false ∧
  y.flt.halt = false ∧ y.trk = x.trk ∧ y.tdc = x.tdc ∧ (x.mem.degraded = true → y.mem.heads = [])

theorem State.armAccept_self (s : State) (c : ChanId) : (s.ch c).arms ((s.armAccept c).ch c) s.tlh.tick := by
  rw [State.armAccept_eq]
  obtain ⟨a, ha⟩ : ∃ a, a = (s.modCh c fun x => x.armLatched s.cycle s.tlh.tick).armSynths c := ⟨_, rfl⟩
  have hparts : (a.ch c).armParts = ((s.ch c).armLatched s.cycle s.tlh.tick).armParts := by
    rw [ha, State.armSynths_armParts, State.ch_modCh_self]
  simp only [Chan.armParts, Prod.mk.injEq] at hparts
  obtain ⟨hmod, htlh, htrk, htdc, hmem, hseq, hhalt⟩ := hparts
  have hheads := (a.setChState c .armed).closeEnded_heads c
  obtain ⟨q, m, hself⟩ := closeEnded_self (a.setChState c .armed) c
  rw [← ha, Chan.arms]
  rw [hself, State.setChState_ch_self] at hheads ⊢
  refine ⟨?_, ?_, ?_, ?_, ?_, ?_, ?_, ?_, ?_, fun hdegraded => ?_⟩
  · simp [Chan.inState, hmod, Chan.armLatched]
  · simp [Chan.inState, hseq, Chan.armLatched]
  · simp [Chan.inState, hseq, Chan.armLatched]
  · simp [Chan.inState, hseq, Chan.armLatched]
  · simp [Chan.inState, htlh, Chan.armLatched]
  · simp [Chan.inState, htlh, Chan.armLatched]
  · simp [Chan.inState, hhalt, Chan.armLatched]
  · simp [Chan.inState, htrk, Chan.armLatched]
  · simp [Chan.inState, htdc, Chan.armLatched]
  · rw [hheads]
    simp [Chan.inState, hmem, Chan.armLatched, hdegraded]

theorem State.armSynths_mod (s : State) (c : ChanId) : (s.armSynths c).mod = s.mod :=
  ((State.Keeps.refl .sending (fun d => d = c) s).armSynths c rfl).mod rfl

theorem State.armAccept_mod (s : State) (c : ChanId) :
    (s.armAccept c).mod = { s.mod with events := (s.armAccept c).mod.events } := by
  have hclose := State.closeEnded_mod (((s.modCh c fun x => x.armLatched s.cycle s.tlh.tick).armSynths c).setChState c .armed) c
  rw [← State.armAccept_eq] at hclose
  rw [hclose, State.setChState_mod, State.armSynths_mod]
  rfl

/-- The end of a check behind which no command waits, in a channel that still takes the ARM. -/
theorem State.checkDone_eq (htest : s.cmdTest c .arm = 0) (hq : (s.ch c).mod.queued = []) (hb : (s.ch c).mod.armBcast = false) :
    s.checkDone c = (if (s.ch c).routeCheck.1 = 0 then (s.armAccept c).cmdResult c .arm 0 false
      else (s.modCh c fun x => { x with seq := { x.seq with
        checking := false, checkCode := (s.ch c).routeCheck.1, checkWp := (s.ch c).routeCheck.2 } }).cmdResult c .arm 0x06 false).modCh c
      fun x => { x with mod := { x.mod with queued := [], armBcast := false } } := by
  simp only [State.checkDone, htest, hq, hb, List.foldl_nil]
  rfl

theorem exec_routeCheckDone (hw : s.working = true) (hc : (s.ch c).configured = true) (hchk : (s.ch c).seq.checking = true)
    (hst : (s.ch c).mod.state = .rest) (hq : (s.ch c).mod.queued = []) (hb : (s.ch c).mod.armBcast = false) :
    exec (.routeCheckDone t c) s = .next ((if (s.ch c).routeCheck.1 = 0 then ((s.atTime t).armAccept c).cmdResult c .arm 0 false
      else ((s.atTime t).modCh c fun x => { x with seq := { x.seq with
        checking := false, checkCode := (s.ch c).routeCheck.1, checkWp := (s.ch c).routeCheck.2 } }).cmdResult c .arm 0x06 false).modCh c
      fun x => { x with mod := { x.mod with queued := [], armBcast := false } }) := by
  have htest : (s.atTime t).cmdTest c .arm = 0 :=
    State.cmdTest_of_accepted (cmd := .arm) rfl hw hc (by simp [Chan.accepts, hst]) nofun
  rw [exec, execRouteCheckDone]
  dsimp only
  rw [if_pos (show ((s.atTime t).ch c).seq.checking = true from hchk), State.checkDone_eq (s := s.atTime t) htest hq hb]
  rfl

/-- An outcome that is written when no command waits behind it, and no broadcast for it. -/
theorem Chan.told_settled {x : Chan} (hq : x.mod.queued = []) (hb : x.mod.armBcast = false) (cmd : Cmd) (code : Byte) :
    { (x.told cmd code).mod with queued := [], armBcast := false } = (x.told cmd code).mod := by
  simp [Chan.told, hq, hb]

theorem armLatchedAndChecked : Clause.ArmAndRouteCheck := by
  refine ⟨arm_begins, fun t c s hw hc hchk hst hq hb => ⟨fun hfails => ?_, fun hpasses => ?_⟩⟩
  · have hresult : ∀ (v : State) (f : Chan → Chan), ((v.modCh c f).cmdResult c .arm 0x06 false) =
        (({ v with mod := { v.mod with events := evSet v.mod.events ModEv.cmdRefused } } : State).modCh c f).modCh c fun x =>
          x.told .arm 0x06 := fun v f => rfl
    rw [exec_routeCheckDone hw hc hchk hst hq hb, if_neg hfails, hresult, State.modCh_modCh, State.modCh_modCh]
    refine congrArg _ (State.modCh_congr ?_)
    exact congrArg (fun m => ({ s.ch c with
      seq := { (s.ch c).seq with checking := false, checkCode := (s.ch c).routeCheck.1, checkWp := (s.ch c).routeCheck.2 }
      mod := m } : Chan)) (Chan.told_settled hq hb .arm 0x06)
  · obtain ⟨v, hv⟩ : ∃ v, v = (s.atTime t).armAccept c := ⟨_, rfl⟩
    have hkeeps := (State.Keeps.refl .entering (fun d => d = c) (s.atTime t)).armAccept c rfl rfl rfl
    have hself := (s.atTime t).armAccept_self c
    have hmod := (s.atTime t).armAccept_mod c
    rw [← hv] at hkeeps hself hmod
    have hexec := exec_routeCheckDone (t := t) hw hc hchk hst hq hb
    have hresult : v.cmdResult c .arm 0 false = v.modCh c fun x => x.told .arm 0 := rfl
    rw [if_pos hpasses, ← hv, hresult, State.modCh_modCh] at hexec
    obtain ⟨hvmod, hchecking, hcode, hroute, hrequest, hgranted, hhalt, htrk, htdc, hheads⟩ := hself
    have hfinal := hkeeps.modCh c (fun x => { x.told .arm 0 with mod := { (x.told .arm 0).mod with queued := [], armBcast := false } })
      rfl rfl
    refine ⟨_, hexec, hfinal.sameCreels_of rfl, fun d hd => hfinal.other d hd, ?_, ?_⟩
    · have heq := hfinal.eq_entering
      rw [State.modCh_mod, hmod] at heq
      exact heq
    · rw [State.ch_modCh_self]
      refine ⟨?_, hchecking, hcode, hroute, hrequest, hgranted, hhalt, htrk, htdc, hheads⟩
      simp [Chan.told, hvmod, hq, hb]

/-- Settles O26: the check of the waypoints keeps the block ranges found so far, and an accepted ARM touches nothing that plays. -/
theorem armAndRouteCheck : Obligations.ArmAndRouteCheck := ⟨routeCheck, armLatchedAndChecked⟩

end Sys2Proof.Machine
end


section
/-! Descriptors and waypoints are read and written, and the host's requests to the sequencer are latched. -/

namespace Sys2Proof.Machine

variable {t : Tbu} {c : ChanId} {s : State} {x : Chan}

/-! ### Fields of packed words -/

theorem bit_pack_nil (k : Nat) : bit (pack []) k = false := BitVec.getLsbD_zero

/-- A packed field sets the bits of its value from its position on. -/
theorem bit_pack_cons (v lo : Nat) (l : List (Nat × Nat)) {k : Nat} (hk : k < 64) :
    bit (pack ((v, lo) :: l)) k = ((decide (lo ≤ k) && v.testBit (k - lo)) || bit (pack l) k) := by
  have hsplit : bit (pack ((v, lo) :: l)) k = (bit (word (v * 2 ^ lo)) k || bit (pack l) k) := BitVec.getLsbD_or
  rw [hsplit, bit_word, Nat.testBit_mul_two_pow, decide_eq_true hk, Bool.true_and]

/-- A value of fewer bits than `i` has none at `i`. -/
theorem testBit_of_lt {v i n : Nat} (hv : v < 2 ^ n) (hi : n ≤ i) : v.testBit i = false :=
  Nat.testBit_eq_false_of_lt (Nat.lt_of_lt_of_le hv (Nat.pow_le_pow_right (by decide) hi))

/-- The fields WP and PASS of a resume point, under the bits of VALID. -/
theorem fld_pack_resume (b : Nat) {w p : Nat} (hw : w < 2 ^ 16) (hp : p < 2 ^ 32) :
    fld (pack [(b, 63), (w, 32), (p, 0)]) 32 16 = w ∧ fld (pack [(b, 63), (w, 32), (p, 0)]) 0 32 = p := by
  constructor
  · refine Nat.eq_of_testBit_eq fun i => ?_
    rw [testBit_fld]
    by_cases hi : i < 16
    · simp [bit_pack_cons, bit_pack_nil, hi, show 32 + i < 64 by omega, show ¬63 ≤ 32 + i by omega,
        testBit_of_lt hp (show 32 ≤ 32 + i by omega)]
    · simp [hi, testBit_of_lt hw (Nat.le_of_not_lt hi)]
  · refine Nat.eq_of_testBit_eq fun i => ?_
    rw [testBit_fld]
    by_cases hi : i < 32
    · simp [bit_pack_cons, bit_pack_nil, hi, show i < 64 by omega, show ¬63 ≤ i by omega, show ¬32 ≤ i by omega]
    · simp [hi, testBit_of_lt hp (Nat.le_of_not_lt hi)]

/-- The resume point that a word of a waypoint and a number of passes gives. -/
theorem Seq.resume_of_pack {q : Seq} {b p : Nat} {w : WpId} (h : q.resume = pack [(b, 63), (w.toNat, 32), (p, 0)]) (hp : p < 2 ^ 32) :
    q.resumeWp = w ∧ q.resumePass = p := by
  obtain ⟨hw, hpass⟩ := fld_pack_resume b w.isLt hp
  rw [Seq.resumeWp, Seq.resumePass, h, hw, hpass]
  exact ⟨by simp, rfl⟩

/-! ### Descriptors (R134) -/

theorem Chan.segLocked_of_not_free (h : ¬segFree x) : x.segLocked x.seq.segSel = true := by
  unfold Chan.segLocked
  by_contra hlock
  refine h ⟨fun hchk => ?_, fun hchk hrouted => ?_⟩
  · rw [if_pos hchk] at hlock
    simpa [and_assoc] using hlock
  · simpa [hchk, hrouted] using hlock

theorem Chan.segLocked_of_free (h : segFree x) : x.segLocked x.seq.segSel = false := by
  obtain ⟨hchecking, hrouted⟩ := h
  unfold Chan.segLocked
  split
  next hchk => simpa [and_assoc] using hchecking hchk
  next hchk => simpa using hrouted (Bool.eq_false_iff.2 hchk)

/-- The offset of a creel address within 4 KB is its low field. -/
theorem fld_low_12 (v : Word) : fld v 0 34 % 4096 = fld v 0 12 := by
  simp only [fld]
  omega

theorem Chan.segWriteCode_locked (h : ¬segFree x) : x.segWriteCode = 0x01 := if_pos (x.segLocked_of_not_free h)

theorem Chan.segWriteCode_of_free (h : segFree x) :
    x.segWriteCode = if fld x.seq.segD0 24 22 ≠ 0 ∨ fld x.seq.segD1 34 30 ≠ 0 then 0x02
      else if bit x.seq.segD0 63 ∧ (fld x.seq.segD0 0 24 < 4 ∨ fld x.seq.segD1 0 12 ≠ 0) then 0x02 else 0 :=
  if_neg (by rw [x.segLocked_of_free h]; exact Bool.false_ne_true)

/-- A descriptor is well made when neither test of R134 finds a fault. -/
theorem segWellMade_iff (d0 d1 : Word) : segWellMade d0 d1 ↔ ¬(fld d0 24 22 ≠ 0 ∨ fld d1 34 30 ≠ 0) ∧
    ¬(bit d0 63 = true ∧ (fld d0 0 24 < 4 ∨ fld d1 0 12 ≠ 0)) := by
  unfold segWellMade
  rw [fld_low_12]
  simp only [not_or, not_and, not_not, not_lt, and_assoc]

theorem Chan.segWriteCode_range (h : segFree x) (hbad : ¬segWellMade x.seq.segD0 x.seq.segD1) : x.segWriteCode = 0x02 := by
  rw [segWellMade_iff, not_and_or, not_not, not_not] at hbad
  rw [x.segWriteCode_of_free h]
  by_cases hres : fld x.seq.segD0 24 22 ≠ 0 ∨ fld x.seq.segD1 34 30 ≠ 0
  · rw [if_pos hres]
  · rw [if_neg hres, if_pos (hbad.resolve_left hres)]

theorem Chan.segWriteCode_stored (h : segFree x) (hgood : segWellMade x.seq.segD0 x.seq.segD1) : x.segWriteCode = 0 := by
  obtain ⟨hres, hrange⟩ := (segWellMade_iff _ _).1 hgood
  rw [x.segWriteCode_of_free h, if_neg hres, if_neg hrange]

theorem Chan.segWrite_of_refused {code : Byte} (h : x.segWriteCode = code) (hne : code ≠ 0) :
    x.segWrite = { x with seq := { x.seq with segResult := code } } := by
  subst h
  exact if_neg hne

theorem Seq.segSel_toNat (q : Seq) : q.segSel.toNat = fld q.segIdx 0 18 := by
  have hlt : fld q.segIdx 0 18 < 2 ^ 18 := Nat.mod_lt _ (by decide)
  exact Nat.mod_eq_of_lt hlt

theorem Chan.segWrite_of_stored (h : x.segWriteCode = 0) : x.segWrite = { x with seq := { x.seq with
    segs := sput 0 (sput 0 x.seq.segs (2 * fld x.seq.segIdx 0 18) x.seq.segD0) (2 * fld x.seq.segIdx 0 18 + 1) x.seq.segD1
    segResult := 0 } } := by
  rw [← x.seq.segSel_toNat]
  unfold Chan.segWrite
  rw [h]
  rfl

theorem Chan.segRead_eq (x : Chan) : x.segRead = { x with seq := { x.seq with
    segD0 := sget 0 x.seq.segs (2 * fld x.seq.segIdx 0 18), segD1 := sget 0 x.seq.segs (2 * fld x.seq.segIdx 0 18 + 1)
    segResult := 0 } } := by
  rw [← x.seq.segSel_toNat]
  rfl

/-- A command to the channel windows that changes its channel. -/
theorem State.ifWindow_modCh {f g : Chan → Chan} (hup : s.windowUp = true) (h : f (s.ch c) = g (s.ch c)) :
    (.next ((s.atTime t).ifWindow fun s => s.modCh c f) : Host.Outcome State Fault Refusal) = .next ((s.atTime t).modCh c g) := by
  rw [State.ifWindow_pos _ (show (s.atTime t).windowUp = true from hup)]
  exact congrArg _ (State.modCh_congr (s := s.atTime t) h)

theorem segmentAccess : Clause.SegmentAccess := by
  intro t c s hup
  have hread : exec (.segRead t c) s = .next ((s.atTime t).ifWindow fun s => s.modCh c Chan.segRead) := rfl
  have hwrite : exec (.segWrite t c) s = .next ((s.atTime t).ifWindow fun s => s.modCh c Chan.segWrite) := rfl
  rw [hread, hwrite]
  exact ⟨State.ifWindow_modCh hup (Chan.segRead_eq _),
    fun hlocked => State.ifWindow_modCh hup (Chan.segWrite_of_refused (Chan.segWriteCode_locked hlocked) (by decide)),
    fun hfree hbad => State.ifWindow_modCh hup (Chan.segWrite_of_refused (Chan.segWriteCode_range hfree hbad) (by decide)),
    fun hfree hgood => State.ifWindow_modCh hup (Chan.segWrite_of_stored (Chan.segWriteCode_stored hfree hgood))⟩

/-! ### Waypoints (R135, R137) -/

theorem waypointWrite : Clause.WaypointWrite := by
  intro t c w k v s hup
  have hexec : exec (.waypointWrite t c w k v) s =
    .next ((s.atTime t).ifWindow fun s => s.modCh c fun x => (x.waypointWrite w k v).1) := rfl
  rw [hexec]
  refine ⟨fun hroute hin => ?_, fun hfree => State.ifWindow_modCh hup ?_⟩
  · have hlocked : ((s.ch c).waypointWrite w k v).1 = s.ch c := by
      unfold Chan.waypointWrite
      rw [if_pos (by simpa [hin] using hroute)]
    rw [State.ifWindow_modCh (g := id) hup hlocked, State.modCh_id]
  · unfold Chan.waypointWrite
    rw [if_neg (by rcases hfree with ⟨hchk, hrouted⟩ | hin <;> simp [*])]

/-! ### ADVANCE and HOST_JUMP (R147, R151, R160) -/

theorem Chan.request_adv_latched {cyc : Nat} (h : x.latches = true) (hnone : x.seq.adv = none) :
    x.request .adv cyc = { x with seq := { x.seq with adv := some (x.kNow cyc) } } := by
  simp [Chan.request, h, Seq.latch, hnone, Seq.setLatch]

theorem Chan.request_adv_coalesced {cyc : Nat} (h : x.latches = true) (hsome : x.seq.adv.isSome = true) :
    x.request .adv cyc = { x with seq := { x.seq with events := evSet x.seq.events SeqEv.coalesced } } := by
  obtain ⟨k, hk⟩ := Option.isSome_iff_exists.1 hsome
  simp [Chan.request, h, Seq.latch, hk, evIf]

theorem Chan.request_adv_discarded {cyc : Nat} (h : x.latches = false) :
    x.request .adv cyc = { x with seq := { x.seq with events := evSet x.seq.events SeqEv.discarded } } := by
  simp [Chan.request, h, evIf]

theorem Chan.hostJump_latched {w : WpId} {cyc : Nat} (h : x.latches = true) (hin : x.seq.inRange w = true) :
    x.hostJump w cyc = { x with seq := { x.seq with hostJump := some (w, x.kNow cyc) } } := by
  simp [Chan.hostJump, h, hin]

theorem Chan.hostJump_discarded {w : WpId} {cyc : Nat} (hin : x.seq.inRange w = false) :
    x.hostJump w cyc = { x with seq := { x.seq with events := evSet x.seq.events SeqEv.discarded } } := by
  simp [Chan.hostJump, hin]

/-- In HELD a jump moves the resume point, with no pass of its waypoint completed. -/
theorem Chan.hostJump_held {w : WpId} {cyc : Nat} (h : x.mod.state = .held) (hin : x.seq.inRange w = true) :
    x.hostJump w cyc = { x with seq := { x.seq.storeStack (popFor w x.seq.resumeStack) with
      resume := pack [(fld x.seq.resume 63 1, 63), (w.toNat, 32), (0, 0)] } } := by
  simp [Chan.hostJump, Chan.latches, h, hin, pack, word]

theorem advanceAndJump : Clause.AdvanceAndJump := by
  intro t c w s hup
  have hadvance : exec (.advance t c) s =
    .next ((s.atTime t).ifWindow fun s => s.modCh c fun x => x.request .adv s.cycle) := rfl
  have hjump : exec (.hostJump t c w) s =
    .next ((s.atTime t).ifWindow fun s => s.modCh c fun x => x.hostJump w s.cycle) := rfl
  have hwindow : (s.atTime t).windowUp = true := hup
  rw [hadvance, hjump, State.ifWindow_pos _ hwindow, State.ifWindow_pos _ hwindow]
  refine ⟨fun hrun hnone => congrArg _ (State.modCh_congr (Chan.request_adv_latched hrun hnone)),
    fun hrun hsome => congrArg _ (State.modCh_congr (Chan.request_adv_coalesced hrun hsome)),
    fun hidle => congrArg _ (State.modCh_congr (Chan.request_adv_discarded hidle)),
    fun hrun hin => congrArg _ (State.modCh_congr (Chan.hostJump_latched hrun hin)),
    fun hheld hin => ⟨_, rfl, State.onlyChannel_modCh .., ?_⟩,
    fun hout => congrArg _ (State.modCh_congr (Chan.hostJump_discarded hout))⟩
  rw [State.ch_modCh_self, State.ch_atTime, Chan.hostJump_held hheld hin]
  obtain ⟨hwp, hpass⟩ := Seq.resume_of_pack (q := { (s.ch c).seq.storeStack (popFor w (s.ch c).seq.resumeStack) with
    resume := pack [(fld (s.ch c).seq.resume 63 1, 63), (w.toNat, 32), (0, 0)] }) rfl (by decide)
  exact ⟨hwp, hpass, rfl⟩

/-- Settles O30: each access and each request is one change of its channel, told apart by the route and the state it finds. -/
theorem routeTablesAndRequests : Obligations.RouteTablesAndRequests := ⟨segmentAccess, waypointWrite, advanceAndJump⟩

end Sys2Proof.Machine
end


section
/-! The exit gate of a segment pass with no request latched (R141, R150). -/

namespace Sys2Proof.Machine

variable {t : Tbu} {c : ChanId} {s : State} {x : Chan} {q : Seq}

/-! ### What publishing and preparing a hop change -/

theorem Chan.publish_eq (x : Chan) (cyc code : Nat) : x.publish cyc code = { x with jnc := (x.publish cyc code).jnc } := by
  unfold Chan.publish
  dsimp only
  split
  · split <;> rfl
  · rfl

/-- The sequencer has no part in publishing. -/
theorem Chan.publish_seq (x : Chan) (q : Seq) (cyc code : Nat) :
    ({ x with seq := q } : Chan).publish cyc code = { x.publish cyc code with seq := q } := by
  have hconfigured : ({ x with seq := q } : Chan).configured = x.configured := rfl
  unfold Chan.publish
  dsimp only
  rw [hconfigured]
  split
  · split <;> rfl
  · rfl

theorem Chan.gateHop_eq (x : Chan) (cyc : Nat) (y : Succ) :
    x.gateHop cyc y = { x with ply := { x.ply with hops := (x.gateHop cyc y).ply.hops } } := by
  unfold Chan.gateHop
  dsimp only
  split <;> rfl

/-! ### Latches that are not set (R147) -/

theorem Seq.latch_none (h : q.anyLatch = false) (hm : q.mile = none) (r : Req) : q.latch r = none := by
  simp only [Seq.anyLatch, Bool.or_eq_false_iff, Option.isSome_eq_false_iff, Option.isNone_iff_eq_none, List.any_eq_false,
    Vector.mem_toList_iff, Bool.not_eq_true] at h
  obtain ⟨⟨⟨⟨htrig0, htrig1⟩, hadv⟩, -⟩, hjmp⟩ := h
  cases r with
  | jmp k => exact hjmp _ (Vector.getElem_mem k.isLt)
  | _ => assumption

/-- Clearing a latch that is not set changes nothing. -/
theorem Seq.setLatch_of_none {r : Req} (h : q.latch r = none) : q.setLatch r none = q := by
  cases r with
  | trig0 => exact (congrArg (fun v => { q with trig0 := v }) h).symm
  | trig1 => exact (congrArg (fun v => { q with trig1 := v }) h).symm
  | adv => exact (congrArg (fun v => { q with adv := v }) h).symm
  | mile => exact (congrArg (fun v => { q with mile := v }) h).symm
  | jmp k =>
    have hput : vput q.jmp k none = q.jmp := by
      rw [← show q.jmp[k] = none from h]
      exact Vector.set_getElem_self k.isLt
    exact congrArg (fun v => { q with jmp := v }) hput

/-- With nothing latched, a gate clears nothing. -/
theorem Seq.clearConsidered_of_none (h : ∀ r, q.latch r = none) (hhold : q.holdReq = none) (used : List Req) (d : Option Choice) :
    q.clearConsidered (fun _ => false) used d false = q := by
  simp only [Seq.clearConsidered, hhold, allReqs, Bool.false_and, List.any_cons, List.any_nil, Bool.or_self, Option.any_none,
    Bool.and_false, Bool.false_eq_true, if_false, List.foldl_cons, List.foldl_nil, evIf]
  split
  · split
    · split
      · next r _ => rw [Seq.setLatch_of_none (h r)]
      · rfl
    · rfl
  · rfl

/-! ### The choice (R150) -/

/-- The waypoint that follows a completed one, if any does. -/
def Seq.entered (q : Seq) : Option Choice := (q.complete q.wp q.stack).1.map q.enter

theorem Seq.decide_idle (hwait : q.waiting = false) (hkind : q.kind = .segment) :
    q.decide' (fun _ => false) none =
      if q.wpRepeat q.wp = 0 ∨ q.done + 1 < q.wpRepeat q.wp then
        (some { wp := q.wp, done := q.done + 1, idle := false, entry := false }, q.stack, [])
      else (q.entered, (q.complete q.wp q.stack).2, []) := by
  unfold Seq.decide' Seq.entered
  rcases hnext : q.complete q.wp q.stack with ⟨_ | n, st⟩ <;> simp [hwait, hkind, PassKind.counts, hnext]

theorem Seq.complete_of_end {w : WpId} (h : q.wpEnd w = true) (st : List StackEntry) : q.complete w st = (none, st) := if_pos h

theorem Seq.complete_of_next {w : WpId} (hend : q.wpEnd w = false) (hclose : q.wpClose w = false) (hlast : w.toNat < q.last.toNat)
    (st : List StackEntry) : q.complete w st = (some (w + 1), st) := by
  simp only [Seq.complete, hend, hclose, Bool.false_eq_true, if_false]
  exact if_neg (by omega)

/-! ### The gate -/

/-- The pass that a choice of a gate begins, with no fill to test. -/
def Choice.succ (a : Choice) : Succ :=
  { wp := a.wp, done := a.done, kind := if a.idle then .idle else .segment, entry := a.entry, routeEnd := false }

/-- The successor of a gate that chooses `d`: the end of the route without a choice. -/
def Seq.succOf (q : Seq) (d : Option Choice) : Succ :=
  (d.map Choice.succ).getD { wp := q.wp, done := 0, kind := .segment, entry := false, routeEnd := true }

/-- The sequencer after a gate that chose `d` and the stack `st`. -/
def Seq.gated (q : Seq) (d : Option Choice) (st : List StackEntry) : Seq :=
  { q with stack := st, decided := true, endNext := d.isNone, next := (d.map (·.wp)).getD q.wp, holdNext := none
           succ := some (q.succOf d) }

/-- The channel whose gate found nothing latched and chose `d`, before its successor is set. -/
def Chan.gateOpen (x : Chan) (cyc : Nat) (d : Option Choice) (st : List StackEntry) : Chan :=
  { x.publish cyc Prod.gate with seq := { x.seq with
    stack := st, decided := true, endNext := d.isNone, next := (d.map (·.wp)).getD x.seq.wp, holdNext := none } }

/-- The channel after a gate that found nothing latched. -/
def Chan.gated (x : Chan) (cyc : Nat) (d : Option Choice) (st : List StackEntry) : Chan :=
  let y : Chan := { x.gateOpen cyc d st with seq := x.seq.gated d st }
  if d.isSome then y.gateHop cyc (x.seq.succOf d) else y

theorem Chan.gated_eq (cyc : Nat) (d : Option Choice) (st : List StackEntry) :
    x.gated cyc d st = { x with
      seq := x.seq.gated d st, jnc := (x.gated cyc d st).jnc, ply := { x.ply with hops := (x.gated cyc d st).ply.hops } } := by
  unfold Chan.gated Chan.gateOpen
  dsimp only
  rw [Chan.publish_eq]
  split
  · rw [Chan.gateHop_eq]
  · rfl

/-- The channel whose latches a gate has considered, with what it chose: `d` with the stack `st`. -/
def Chan.gateLatched (x : Chan) (cyc : Nat) (cons : Req → Bool) (d : Option Choice × List StackEntry × List Req) (jumped : Bool)
    (hold : Option (Byte × Nat)) : Chan :=
  let q := x.seq.clearConsidered cons d.2.2 d.1 jumped
  ({ x with seq := { q with
    stack := d.2.1, decided := true, endNext := d.1.isNone
    next := (d.1.map (·.wp)).getD q.wp
    holdNext := if d.1.isNone then none else hold.map (·.1) } } : Chan).publish cyc Prod.gate

/-- The successor that a gate chose, after the test of its fill; with a hold it is not tested. -/
def State.gateChosen (s : State) (c : ChanId) (d : Option Choice) (held : Bool) : State :=
  match d with
  | none => s.modCh c fun x => { x with seq := { x.seq with
      succ := some { wp := x.seq.wp, done := 0, kind := .segment, entry := false, routeEnd := true } } }
  | some a =>
    let r := if a.idle then (s, PassKind.idle) else if held then (s, .segment) else s.fillTest c a.wp a.entry
    let y : Succ := { wp := a.wp, done := a.done, kind := r.2, entry := a.entry, routeEnd := false }
    r.1.modCh c fun x =>
      let x := { x with seq := { x.seq with succ := some y } }
      if held then x else x.gateHop r.1.cycle y

theorem State.passGate_eq (s : State) (c : ChanId) : s.passGate c =
    let q := (s.ch c).seq
    let cons := fun r => (q.latch r).any fun k => decide (k ≤ q.gateIndex)
    let host := q.hostJump.filter fun j => decide (j.2 ≤ q.gateIndex)
    let hold := q.holdReq.filter fun h => decide (h.2 ≤ q.gateIndex)
    let d := q.decide' cons (host.map (·.1))
    (s.modCh c fun x => x.gateLatched s.cycle cons d host.isSome hold).gateChosen c d.1 hold.isSome := by
  unfold State.passGate State.gateChosen
  rfl

/-- A segment that is stored has no fill to test (R412). -/
theorem State.gateChosen_stored {a : Choice} (h : (s.ch c).seq.segStreamed ((s.ch c).seq.wpSeg a.wp) = false) :
    s.gateChosen c (some a) false = s.modCh c fun x => ({ x with seq := { x.seq with succ := some a.succ } } : Chan).gateHop s.cycle a.succ := by
  have hfill : s.fillTest c a.wp a.entry = (s, .segment) := by simp [State.fillTest, h]
  unfold State.gateChosen Choice.succ
  dsimp only
  rw [hfill]
  cases a.idle <;> rfl

theorem Chan.gateLatched_of_none (hlatch : ∀ r, x.seq.latch r = none) (hhold : x.seq.holdReq = none) (cyc : Nat)
    (d : Option Choice) (st : List StackEntry) : x.gateLatched cyc (fun _ => false) (d, st, []) false none =
      x.gateOpen cyc d st := by
  unfold Chan.gateLatched Chan.gateOpen
  dsimp only
  rw [Seq.clearConsidered_of_none hlatch hhold, Chan.publish_seq]
  cases d <;> rfl

theorem State.passGate_idle (hlatch : ∀ r, (s.ch c).seq.latch r = none) (hjump : (s.ch c).seq.hostJump = none)
    (hhold : (s.ch c).seq.holdReq = none) (hstored : ∀ w, (s.ch c).seq.segStreamed ((s.ch c).seq.wpSeg w) = false)
    {d : Option Choice} {st : List StackEntry} (hd : (s.ch c).seq.decide' (fun _ => false) none = (d, st, [])) :
    s.passGate c = s.modCh c fun x => x.gated s.cycle d st := by
  have hcons : (fun r => ((s.ch c).seq.latch r).any fun k => decide (k ≤ (s.ch c).seq.gateIndex)) = fun _ => false :=
    funext fun r => by rw [hlatch]; rfl
  rw [State.passGate_eq]
  simp only [hcons, hjump, hhold, Option.filter_none, Option.map_none, hd, Option.isSome_none]
  rw [State.modCh_congr (g := fun x => x.gateOpen s.cycle d st) (Chan.gateLatched_of_none hlatch hhold s.cycle d st)]
  cases d with
  | none =>
    rw [State.gateChosen, State.modCh_modCh]
    rfl
  | some a =>
    rw [State.gateChosen_stored (by rw [State.ch_modCh_self]; exact hstored a.wp), State.modCh_modCh]
    rfl

theorem anyLatch_jump (h : q.anyLatch = false) : q.hostJump = none := by
  simp only [Seq.anyLatch, Bool.or_eq_false_iff, Option.isSome_eq_false_iff, Option.isNone_iff_eq_none] at h
  exact h.1.2

theorem exec_exitGate (hdue : (s.ch c).gateDue (s.atTime t).cycle = true) (hkind : (s.ch c).seq.kind = .segment) :
    exec (.exitGate t c) s = .next ((s.atTime t).passGate c) := by
  have hgate : (s.atTime t).gate c = (s.atTime t).passGate c := by rw [State.gate, State.ch_atTime, hkind]
  rw [exec, execExitGate, hgate]
  exact congrArg _ (if_pos hdue)

/-- Settles O31: with nothing latched the gate chooses by the passes done and the waypoint's END, and changes its own channel only. -/
theorem exitGate : Obligations.ExitGate := by
  intro t c s hdue hany hmile hhold hwait hkind hstored
  have hlatch := Seq.latch_none hany hmile
  have hd := Seq.decide_idle hwait hkind
  obtain ⟨d, st, hchoice⟩ : ∃ d st, (s.ch c).seq.decide' (fun _ => false) none = (d, st, []) := by
    rw [hd]
    split <;> exact ⟨_, _, rfl⟩
  have hexec := exec_exitGate (t := t) hdue hkind
  rw [State.passGate_idle (s := s.atTime t) hlatch (anyLatch_jump hany) hhold hstored hchoice] at hexec
  have hself := Chan.gated_eq (x := s.ch c) (s.atTime t).cycle d st
  have hkeeps := (State.Keeps.refl .channels (fun e => e = c) (s.atTime t)).modCh c (fun x => x.gated (s.atTime t).cycle d st)
    (by rw [State.ch_atTime, hself]) rfl
  refine ⟨_, hexec, State.onlyChannel_modCh .., hkeeps.sameCreels_of rfl, ?_⟩
  rw [State.ch_modCh_self, State.ch_atTime]
  generalize (s.ch c).gated (s.atTime t).cycle d st = y at hself
  have hseq : y.seq = (s.ch c).seq.gated d st := by rw [hself]
  rw [hseq]
  refine ⟨?_, rfl, rfl, rfl, fun hmore => ?_, fun hne hdone => ?_⟩
  · exact hself
  · rw [hd, if_pos hmore] at hchoice
    obtain ⟨rfl, rfl, -⟩ := hchoice
    exact ⟨rfl, rfl, rfl, rfl⟩
  have hover : ¬((s.ch c).seq.wpRepeat (s.ch c).seq.wp = 0 ∨ (s.ch c).seq.done + 1 < (s.ch c).seq.wpRepeat (s.ch c).seq.wp) := by
    omega
  refine ⟨fun hend => ?_, fun hend hclose hlast hnowait => ?_⟩
  · rw [hd, if_neg hover, Seq.entered, Seq.complete_of_end hend] at hchoice
    obtain ⟨rfl, rfl, -⟩ := hchoice
    exact ⟨rfl, rfl⟩
  · rw [hd, if_neg hover, Seq.entered, Seq.complete_of_next hend hclose hlast] at hchoice
    obtain ⟨rfl, rfl, -⟩ := hchoice
    have henter : (s.ch c).seq.enter ((s.ch c).seq.wp + 1) = { wp := (s.ch c).seq.wp + 1, done := 0, idle := false, entry := true } := by
      rw [Seq.enter, hnowait]
      rfl
    exact ⟨rfl, rfl, congrArg (fun a => some (Choice.succ a)) henter⟩

end Sys2Proof.Machine
end


section
/-! The successor's pass begins at the boundary, or when its late head arrives (R116, R127, R140, R152, R416). -/

namespace Sys2Proof.Machine

variable {t : Tbu} {c : ChanId} {s : State} {x : Succ} {y : Chan}

/-! ### What no boundary changes -/

/-- The tracker's count and the time measurement of a channel. -/
def Chan.counts (y : Chan) : BitVec 40 × Tdc := (y.trk.n, y.tdc)

/-- The module is the same but for MOD_EVENTS. -/
def State.sameModule (s u : State) : Prop := u.mod = { s.mod with events := u.mod.events }

theorem State.sameModule_of_eq {u : State} (h : u.mod = s.mod) : s.sameModule u := by rw [State.sameModule, h]

abbrev Effects.boundary : Effects := { Effects.entering with free := true }

/-- A boundary changes its channel, MOD_EVENTS, packets on their way to the host and the count of free values. -/
theorem State.Keeps.eq_boundary {cs : ChanId → Prop} {rel : List Host.Cell → List Host.Cell → Prop} {u : State}
    (h : State.Keeps .boundary cs rel s u) (hmod : s.sameModule u) :
    u = { s with freeCtr := u.freeCtr, mod := { s.mod with events := u.mod.events }, hp := u.hp, chans := u.chans } := by
  have hfree : State.Keeps .entering cs rel { s with freeCtr := u.freeCtr } u := { h with free := fun _ => rfl }
  have heq := hfree.eq_entering
  rw [State.sameModule] at hmod
  rw [hmod] at heq
  exact heq

/-! ### The end of the route (R127, R143) -/

/-- A channel whose pass, route and outputs end for DRAIN; `done` says that the route has played to its end. -/
def Chan.drainCut (y : Chan) (now : Tbu) (done : Bool) : Chan :=
  (((((y.usePlayed (cycleOf now)).plyDrain now done).unrouted).dstDrain now).anaDrain now).dropEvents

theorem Chan.drainSteps_cut (y : Chan) (now : Tbu) (done : Bool) : y.drainSteps now done =
    { y.drainCut now done with mem := (y.drainSteps now done).mem, tlh := (y.drainSteps now done).tlh } := by
  unfold Chan.drainSteps Chan.drainCut Chan.unrouted
  dsimp only
  generalize Chan.dropEvents _ = z
  split <;> rfl

theorem Chan.unrouted_trk (y : Chan) : y.unrouted.trk.n = y.trk.n := by
  have hunpend : ∀ z : Chan, z.unpend.trk = z.trk := fun z => z.unpend_trk
  simp only [Chan.unrouted, Chan.dropStart, hunpend]
  rfl

theorem Chan.dropStart_events (y : Chan) : y.dropStart.seq.events = y.seq.events := by
  simp [Chan.dropStart, Chan.withdrawStart]

/-- No event of the sequencer is lost with its route. -/
theorem Chan.unrouted_events (y : Chan) : y.seq.events.le y.unrouted.seq.events := by
  rw [← y.dropStart_events]
  exact Sticky.le_trans (Sticky.le_evIf _ _ _) (Sticky.le_evIf _ _ _)

theorem Chan.drainCut_seq (y : Chan) (now : Tbu) (done : Bool) :
    (y.drainCut now done).seq = ((y.usePlayed (cycleOf now)).plyDrain now done).unrouted.seq := by simp [Chan.drainCut]

theorem Chan.dstDrain_n (y : Chan) (now : Tbu) : (y.dstDrain now).trk.n = y.trk.n := by
  have hcut : (y.dstDrain now).trk.n = (y.dstTo (q16 now)).trk.n := rfl
  rw [hcut]
  simp

/-- What the end of the route leaves of channel `y`. -/
def Chan.routeOver (y z : Chan) : Prop :=
  z.counts = y.counts ∧ y.seq.events.le z.seq.events ∧ z.seq.playing = false ∧ z.ana.sw = y.ana.sw

theorem Chan.drainCut_over (y : Chan) (now : Tbu) (done : Bool) : y.routeOver (y.drainCut now done) := by
  obtain ⟨z, hz⟩ : ∃ z, z = (y.usePlayed (cycleOf now)).plyDrain now done := ⟨_, rfl⟩
  have hkeep : z.trk = y.trk ∧ z.tdc = y.tdc ∧ z.seq = y.seq ∧ z.ana = y.ana := by simp [hz]
  obtain ⟨htrk, htdc, hseq, hana⟩ := hkeep
  obtain ⟨uana, -, -, -, utdc, -, -⟩ := z.unrouted_keeps
  obtain ⟨-, -, -, hplay⟩ := z.unrouted_seq
  have hevents := z.unrouted_events
  have hn := z.unrouted_trk
  have hcut := y.drainCut_seq now done
  unfold Chan.routeOver Chan.counts
  rw [hcut, ← hz, ← htrk, ← htdc, ← hseq, ← hana]
  unfold Chan.drainCut
  rw [← hz]
  generalize z.unrouted = v at *
  refine ⟨Prod.ext ?_ ?_, hevents, hplay, ?_⟩
  · have hdrop : (((v.dstDrain now).anaDrain now).dropEvents).trk.n = (v.dstDrain now).trk.n := rfl
    rw [hdrop, Chan.dstDrain_n, hn]
  · simp [utdc]
  · simp [((v.dstDrain now).anaDrain_outputs now).1, uana]

theorem Chan.drainSteps_over (y : Chan) (now : Tbu) (done : Bool) : y.routeOver (y.drainSteps now done) := by
  rw [Chan.drainSteps_cut]
  exact y.drainCut_over now done

theorem State.enterDrain_channel (s : State) (c : ChanId) (done : Bool) :
    (s.enterDrain c done).ch c = ((s.ch c).drainSteps s.now done).draining s.now := by
  have heq : s.enterDrain c done = ((s.modCh c fun y => y.drainSteps s.now done).setChState c .drain).modCh c fun y =>
      ({ y with mod := { y.mod with drainAt := some s.now, drainSyn := false } } : Chan).drainOn s.now := by
    unfold State.enterDrain
    simp only [State.setChState_now, State.modCh_now]
  rw [heq, State.ch_modCh_self, State.setChState_ch_self, State.ch_modCh_self]
  exact Chan.drainOn_of_unopened (Chan.draining_unopened _ _)

theorem State.enterDrain_module (s : State) (c : ChanId) (done : Bool) : s.sameModule (s.enterDrain c done) :=
  State.setChState_mod _ _ _

/-- A channel with ROUTE_END set and published. -/
def Chan.routeEnded (y : Chan) (cyc : Nat) : Chan :=
  { y with seq := { y.seq with events := evSet y.seq.events SeqEv.routeEnd } }.publish cyc Prod.routeEnd

theorem State.boundary_routeEnd (h : x.routeEnd = true) : s.boundary c x =
    ((s.modCh c fun y => y.routeEnded s.cycle).enterDrain c true).modCh c fun y =>
      { y with tlh := { y.tlh with shed := if (((s.modCh c fun y => y.routeEnded s.cycle).ch c).tlh.shed == 1) = true then 1 else 0 } } := by
  unfold State.boundary
  exact if_pos h

theorem State.boundary_routeEnd_module (h : x.routeEnd = true) : s.sameModule (s.boundary c x) := by
  rw [State.boundary_routeEnd h]
  exact State.enterDrain_module (s.modCh c fun y => y.routeEnded s.cycle) c true

/-- ROUTE_END drains its channel. -/
theorem State.boundary_routeEnd_self (h : x.routeEnd = true) : ((s.boundary c x).ch c).mod.state = .drain ∧
    bit ((s.boundary c x).ch c).seq.events.bits SeqEv.routeEnd = true ∧ (s.ch c).counts = ((s.boundary c x).ch c).counts ∧
    ((s.boundary c x).ch c).seq.playing = false ∧ ((s.boundary c x).ch c).ana.sw = (s.ch c).ana.sw := by
  obtain ⟨y, hy⟩ : ∃ y, y = (s.ch c).routeEnded s.cycle := ⟨_, rfl⟩
  have hset : bit y.seq.events.bits SeqEv.routeEnd = true := by
    have hevents : y.seq.events = evSet (s.ch c).seq.events SeqEv.routeEnd := by simp [hy, Chan.routeEnded]
    rw [hevents]
    exact bit_evSet_self (by decide)
  have hkeep : y.counts = (s.ch c).counts ∧ y.ana = (s.ch c).ana := by simp [hy, Chan.routeEnded, Chan.counts]
  obtain ⟨hcounts, hevents, hplay, hsw⟩ := y.drainSteps_over s.now true
  have hdrain := (s.modCh c fun y => y.routeEnded s.cycle).enterDrain_channel c true
  rw [State.ch_modCh_self, State.modCh_now, ← hy] at hdrain
  rw [State.boundary_routeEnd h, State.ch_modCh_self, hdrain, ← hkeep.1, ← hkeep.2]
  exact ⟨rfl, hevents _ hset, hcounts.symm, hplay, hsw⟩

/-! ### A hold that the gate has chosen (R116, R157) -/

theorem State.boundary_hold {cause : Byte} (h : x.routeEnd = false) (hhold : (s.ch c).seq.holdNext = some cause) :
    ∃ worse : Byte, ((s.ch c).seq.holdReq = none → worse = cause) ∧ s.boundary c x =
      (s.modCh c fun y => { y with seq := (s.ch c).seq.setResume x.wp x.done (s.ch c).seq.stack }).enterHeld c worse
        (s.ch c).boundaryExact.floor false := by
  unfold State.boundary
  dsimp only
  rw [h, hhold]
  cases hreq : (s.ch c).seq.holdReq with
  | none => exact ⟨cause, fun _ => rfl, rfl⟩
  | some b => exact ⟨worseCause cause b.1, nofun, rfl⟩

theorem Chan.dstPause_n (y : Chan) (now : Tbu) (b : Q16) : (y.dstPause now b).trk.n = y.trk.n := by
  simp [Chan.dstPause, Chan.cutFrames]

/-- What a hold at a boundary leaves of channel `y`, once its resume point is written in `q`. -/
theorem Chan.heldSteps_soft (y : Chan) (q : Seq) (cyc : Nat) (now : Tbu) (b : Q16) :
    (({ y with seq := q } : Chan).heldSteps cyc now b false).counts = y.counts ∧
    (({ y with seq := q } : Chan).heldSteps cyc now b false).seq = q.stopPass ∧
    (({ y with seq := q } : Chan).heldSteps cyc now b false).tlh.granted = false ∧
    (({ y with seq := q } : Chan).heldSteps cyc now b false).ana = y.ana := by
  obtain ⟨z, hz⟩ : ∃ z, z = ((({ y with seq := q } : Chan).usePlayed cyc).dstPause now b).plyHeld now false := ⟨_, rfl⟩
  have hkeep : z.seq = q ∧ z.ana = y.ana ∧ z.tdc = y.tdc ∧ z.trk.n = y.trk.n := by simp [hz, Chan.dstPause_n]
  obtain ⟨hseq, hana, htdc, hn⟩ := hkeep
  rw [Chan.heldSteps, ← hz, ← hseq, ← hana, Chan.counts, Chan.counts, ← htdc, ← hn]
  exact ⟨rfl, rfl, rfl, rfl⟩

theorem Chan.heldFor_keeps (y : Chan) (cause : Byte) : (y.heldFor cause).counts = y.counts ∧ (y.heldFor cause).seq = y.seq ∧
    (y.heldFor cause).ana = y.ana := ⟨rfl, rfl, rfl⟩

/-- The channel held at a boundary, its resume point written in `q`. -/
theorem State.enterHeld_soft (s : State) (c : ChanId) (q : Seq) (cause : Byte) (b : Q16) :
    ∃ u, (s.modCh c fun y => { y with seq := q }).enterHeld c cause b false = u ∧ s.sameModule u ∧
      (u.ch c).counts = (s.ch c).counts ∧ (u.ch c).mod.state = .held ∧ (u.ch c).mod.heldCause = cause ∧
      (u.ch c).seq = q.stopPass ∧ (u.ch c).tlh.granted = false ∧ (u.ch c).ana = (s.ch c).ana := by
  have hself := (s.modCh c fun y => { y with seq := q }).enterHeld_self c cause b false
  rw [State.ch_modCh_self] at hself
  obtain ⟨hcounts, hseq, hgranted, hana⟩ := (s.ch c).heldSteps_soft q (s.modCh c fun y => { y with seq := q }).cycle
    (s.modCh c fun y => { y with seq := q }).now b
  refine ⟨_, rfl, State.setChState_mod _ _ _, ?_⟩
  obtain ⟨kcounts, kseq, kana⟩ := Chan.heldFor_keeps
    (({ s.ch c with seq := q } : Chan).heldSteps (s.modCh c fun y => { y with seq := q }).cycle
      (s.modCh c fun y => { y with seq := q }).now b false) cause
  rw [hself, kcounts, kseq, kana, Chan.heldFor_state, Chan.heldFor_cause, Chan.heldFor_tlh]
  exact ⟨hcounts, rfl, rfl, hseq, hgranted, hana⟩

theorem Seq.setResume_point (q : Seq) (w : WpId) (done : Nat) (st : List StackEntry) :
    (q.setResume w done st).resumeWp = w ∧ (q.setResume w done st).resumePass = min done (2 ^ 32 - 1) :=
  Seq.resume_of_pack (q := q.setResume w done st) (b := 1) (p := min done (2 ^ 32 - 1)) rfl
    (Nat.lt_of_le_of_lt (Nat.min_le_right _ _) (by decide))

theorem Seq.stopPass_point (q : Seq) : q.stopPass.resumeWp = q.resumeWp ∧ q.stopPass.resumePass = q.resumePass := ⟨rfl, rfl⟩

/-- What a boundary does whose gate chose a hold. -/
theorem State.boundary_hold_self {cause : Byte} (h : x.routeEnd = false) (hhold : (s.ch c).seq.holdNext = some cause) :
    s.sameModule (s.boundary c x) ∧ ((s.boundary c x).ch c).counts = (s.ch c).counts ∧
    ((s.boundary c x).ch c).mod.state = .held ∧ ((s.ch c).seq.holdReq = none → ((s.boundary c x).ch c).mod.heldCause = cause) ∧
    ((s.boundary c x).ch c).seq.resumeWp = x.wp ∧ ((s.boundary c x).ch c).seq.resumePass = min x.done (2 ^ 32 - 1) ∧
    ((s.boundary c x).ch c).tlh.granted = false ∧ ((s.boundary c x).ch c).seq.playing = false ∧
    ((s.boundary c x).ch c).ana.sw = (s.ch c).ana.sw := by
  obtain ⟨worse, hworse, heq⟩ := State.boundary_hold h hhold
  obtain ⟨hwp, hpass⟩ := (s.ch c).seq.setResume_point x.wp x.done (s.ch c).seq.stack
  obtain ⟨hstopWp, hstopPass⟩ := ((s.ch c).seq.setResume x.wp x.done (s.ch c).seq.stack).stopPass_point
  obtain ⟨-, -, hplay⟩ := ((s.ch c).seq.setResume x.wp x.done (s.ch c).seq.stack).stopPass_latches
  obtain ⟨u, hu, hmodule, hcounts, hstate, hcause, hseq, hgranted, hana⟩ :=
    s.enterHeld_soft c ((s.ch c).seq.setResume x.wp x.done (s.ch c).seq.stack) worse (s.ch c).boundaryExact.floor
  rw [heq, hu, hseq, hana, hcause]
  exact ⟨hmodule, hcounts, hstate, hworse, hstopWp.trans hwp, hstopPass.trans hpass, hgranted, hplay, rfl⟩

/-! ### The head of the chosen pass (R152, R384, R385, R416) -/

theorem Chan.headHere_eq (h : x.kind ≠ .holdLast) : y.headHere x = if y.mem.degraded then y.mem.creel != .lost else
    (y.passHead (y.seq.passSeg x.wp x.kind)).all y.mem.present := by
  unfold Chan.headHere
  rw [beq_eq_false_iff_ne.2 h, Bool.false_or]

/-- A head that is there, or whose loss is being masked, is not late. -/
theorem Chan.headLate_of_here (h : y.mem.bobLostAt ≠ none ∨ (y.mem.degraded = false ∧ y.headHere x = true)) (free : Nat) :
    y.headLate x free = false := by
  unfold Chan.headLate
  rcases h with h | ⟨hdegraded, hhere⟩
  · rw [Option.isNone_eq_false_iff.2 (Option.isSome_iff_ne_none.2 h), Bool.false_and]
  · simp [hdegraded, hhere]

theorem Chan.headLate_of_missing (hlost : y.mem.bobLostAt = none) (h : y.headHere x = false) (free : Nat) :
    y.headLate x free = true := by
  simp [Chan.headLate, hlost, h]

/-- With the head of a chosen pass missing and that of the siding there, the bobbin store works. -/
theorem Chan.not_degraded_of_wayside (h : y.headHere x = false) (hside : y.headHere x.wayside = true) : y.mem.degraded = false := by
  have hkind : x.kind ≠ .holdLast := by
    intro hk
    simp [Chan.headHere, hk] at h
  rw [Chan.headHere_eq hkind] at h
  rw [Chan.headHere_eq (show x.wayside.kind ≠ .holdLast from nofun)] at hside
  by_contra hdegraded
  rw [if_pos (Bool.not_eq_false _ ▸ hdegraded)] at h hside
  exact Bool.false_ne_true (h.symm.trans hside)

/-! ### The pass that begins (R140, R144) -/

/-- Channel `z` plays the pass `x`, with the rest of what concerns the host as in channel `y`. -/
structure Chan.Plays (y z : Chan) (x : Succ) : Prop where
  mod : z.mod = y.mod
  counts : z.counts = y.counts
  ana : z.ana = y.ana
  playing : z.seq.playing = true
  late : z.seq.late = false
  wp : z.seq.wp = x.wp
  done : z.seq.done = x.done
  kind : z.seq.kind = x.kind
  decided : z.seq.decided = false
  succ : z.seq.succ = none
  events : z.seq.events = y.seq.events
  routeCfg : z.seq.routeCfg = y.seq.routeCfg

theorem Chan.beginPass_plays (y : Chan) (now : Tbu) (x : Succ) (i : Inst) (pos : Option Word) (cont : Bool) :
    y.Plays (y.beginPass now x i pos cont) x := by
  obtain ⟨hmod, -, -, -, hana, -, htdc, -⟩ := y.beginPass_keeps now x i pos cont
  obtain ⟨l, htrk⟩ := y.beginPass_trk now x i pos cont
  have hseq := y.beginPass_seq now x i pos cont
  generalize y.beginPass now x i pos cont = z at *
  have hcounts : z.counts = y.counts := by rw [Chan.counts, Chan.counts, htrk, htdc]
  constructor
  case mod => exact hmod
  case counts => exact hcounts
  case ana => exact hana
  all_goals rw [hseq]

theorem State.releaseFills_ana (s : State) (c : ChanId) (i f : Nat) : ((s.releaseFills c i f).ch c).ana = (s.ch c).ana := by
  unfold State.releaseFills
  dsimp only
  split
  · rw [foldl_keeps (fun u : State => (u.ch c).ana) _ (fun u _ => by simp only [State.qcpl_ch])]
    simp
  · simp

theorem State.beginPass_ana (s : State) (c : ChanId) (x : Succ) (i : Inst) (pos : Option Word) (cont : Bool) :
    ((s.beginPass c x i pos cont).ch c).ana = ((s.ch c).beginPass s.now x i pos cont).ana := by
  unfold State.beginPass
  dsimp only
  split
  · rw [State.releaseFills_ana, State.ch_modCh_self]
  · rw [State.ch_modCh_self]

theorem State.beginPass_plays (s : State) (c : ChanId) (x : Succ) (i : Inst) (pos : Option Word) (cont : Bool) :
    (s.ch c).Plays ((s.beginPass c x i pos cont).ch c) x := by
  have hplays := (s.ch c).beginPass_plays s.now x i pos cont
  have hana := s.beginPass_ana c x i pos cont
  have hparts := s.beginPass_runParts c x i pos cont
  simp only [Chan.runParts, Prod.mk.injEq] at hparts
  obtain ⟨hmod, -, htrk, htdc, -, hseq⟩ := hparts
  obtain ⟨pmod, pcounts, pana, prest⟩ := hplays
  constructor
  case mod => rw [hmod, pmod]
  case counts => rw [← pcounts, Chan.counts, Chan.counts, htrk, htdc]
  case ana => rw [hana, pana]
  all_goals rw [hseq]; assumption

theorem State.beginPass_lateSucc (s : State) (c : ChanId) (x : Succ) (i : Inst) (pos : Option Word) (cont : Bool) :
    ((s.beginPass c x i pos cont).ch c).seq.lateSucc = (s.ch c).seq.lateSucc := by
  have hparts := s.beginPass_runParts c x i pos cont
  simp only [Chan.runParts, Prod.mk.injEq] at hparts
  obtain ⟨-, -, -, -, -, hseq⟩ := hparts
  rw [hseq, Chan.beginPass_seq]

theorem State.beginPass_module (s : State) (c : ChanId) (x : Succ) (i : Inst) (pos : Option Word) (cont : Bool) :
    (s.beginPass c x i pos cont).mod = s.mod :=
  ((State.Keeps.refl .sending (fun d => d = c) s).beginPass c x i pos cont rfl rfl).mod rfl

/-! ### A head that is late (R416) -/

/-- The channel with LATE_FETCH set. -/
def Chan.lateFetched (y : Chan) : Chan := { y with seq := { y.seq with events := evSet y.seq.events SeqEv.lateFetch } }

/-- The channel that waits for the head of its next pass: after the last sample WAV holds with the markers low. -/
def Chan.lateWaits (y : Chan) (now : Tbu) (x : Succ) : Chan :=
  let y := y.lateFetched.outTo (q16 now)
  { y with
    seq := { y.seq with late := true, decided := false, wp := x.wp, done := x.done, waiting := x.kind == .idle
                        passStack := y.seq.stack }
    ply := { y.ply with wav := .hold, cur := { y.ply.cur with after := .late } } }

/-- A siding pass plays while the head of `x` is late. -/
def Chan.sidingPlays (y : Chan) (x : Succ) (free : Nat) : Bool := y.seq.underrun == 2 && !y.headLate x.wayside (free + 1)

theorem State.lateHead_eq (s : State) (c : ChanId) (x : Succ) (i : Inst) : s.lateHead c x i =
    if (s.ch c).sidingPlays x s.freeCtr then
      ((s.modCh c Chan.lateFetched).modCh c fun y => { y with seq := { y.seq with lateSucc := some x } }).beginPass c x.wayside i none true
    else (s.modCh c Chan.lateFetched).modCh c fun y =>
      let y := y.outTo (q16 s.now)
      { y with
        seq := { y.seq with late := true, decided := false, wp := x.wp, done := x.done, waiting := x.kind == .idle
                            passStack := y.seq.stack }
        ply := { y.ply with wav := .hold, cur := { y.ply.cur with after := .late } } } := rfl

theorem State.lateHead_waits (h : (s.ch c).sidingPlays x s.freeCtr = false) (i : Inst) :
    s.lateHead c x i = s.modCh c fun y => y.lateWaits s.now x := by
  rw [State.lateHead_eq, h, if_neg Bool.false_ne_true, State.modCh_modCh]
  rfl

/-- The channel with LATE_FETCH set and its late successor kept for the gate of a siding pass. -/
def Chan.lateKept (y : Chan) (x : Succ) : Chan :=
  { y with seq := { y.seq with events := evSet y.seq.events SeqEv.lateFetch, lateSucc := some x } }

theorem State.lateHead_siding (h : (s.ch c).sidingPlays x s.freeCtr = true) (i : Inst) :
    s.lateHead c x i = (s.modCh c fun y => y.lateKept x).beginPass c x.wayside i none true := by
  rw [State.lateHead_eq, if_pos h, State.modCh_modCh]
  rfl

/-- Past the end of a pass whose successor is late, the markers are low. -/
theorem Chan.markerAt_late (hlate : y.ply.cur.after = .late) (k : Fin 4) {i : Q16} (hbegun : y.passRec.begins.notAfter i = true)
    (hend : y.passRec.pastEnd i = true) :
    y.markerAt k (i + (y.cal.skew (6 + k.val) + sfld y.ply.lMkDelay[k] 0 16) * 65536) = false := by
  have hafter : y.passRec.after = .late := by
    unfold Chan.passRec
    split <;> exact hlate
  have hpass : passFor i [] (y.passRec :: y.ply.past) = some ([], y.passRec, y.ply.past) := by
    rw [passFor, hbegun]
    rfl
  have hcancel : ∀ d : Int, i + d - d = i := Int.add_sub_cancel i
  unfold Chan.markerAt
  dsimp only
  rw [hcancel, hpass]
  simp [hafter, hend]

/-! ### The pass that goes on (R140, R149) -/

/-- The channel whose latches count from sample 0 of the next pass. -/
def Chan.rebased (y : Chan) : Chan := { y with seq := y.seq.rebaseLatches }

/-- At a boundary without a hold the route goes on with `x`. -/
def State.goesOn (s : State) (c : ChanId) (x : Succ) (i : Inst) : State :=
  if (s.ch c).seq.kind = .wayside then
    (s.beginPass c x i none true).modCh c fun y => if x.kind = .wayside then y else { y with seq := { y.seq with lateSucc := none } }
  else if (s.ch c).headLate x s.freeCtr then (s.lateHead c x i).drawn.drawn
  else (s.beginPass c x i none true).drawn

/-- The sequencer without its latches. -/
def Seq.unlatched (q : Seq) : Seq :=
  { q with trig0 := none, trig1 := none, jmp := Vector.replicate 4 none, adv := none, mile := none, hostJump := none, holdReq := none }

theorem Seq.unlatched_rebase (q : Seq) : q.rebaseLatches.unlatched = q.unlatched := by
  have hset : ∀ (n : Nat) (q : Seq) (r : Req), (q.setLatch r ((q.latch r).map fun k => k - n)).unlatched = q.unlatched := fun n q r => by
    cases r <;> rfl
  have hfold := foldl_keeps Seq.unlatched _ (hset q.len) allReqs q
  unfold Seq.rebaseLatches
  dsimp only
  generalize List.foldl _ q allReqs = r at hfold ⊢
  exact hfold

/-- What a head's presence depends on is no latch. -/
theorem Chan.headHere_unlatched (y : Chan) (q : Seq) (x : Succ) :
    ({ y with seq := q.unlatched } : Chan).headHere x = ({ y with seq := q } : Chan).headHere x := rfl

/-- Channel `z` is channel `y` but for the latches of its sequencer. -/
structure Chan.SameUnlatched (y z : Chan) : Prop where
  mod : z.mod = y.mod
  counts : z.counts = y.counts
  ana : z.ana = y.ana
  mem : z.mem = y.mem
  kind : z.seq.kind = y.seq.kind
  underrun : z.seq.underrun = y.seq.underrun
  events : z.seq.events = y.seq.events
  head : ∀ x, z.headHere x = y.headHere x

theorem Chan.sameUnlatched_of_seq (y : Chan) {q : Seq} (h : q.unlatched = y.seq.unlatched) :
    y.SameUnlatched { y with seq := q } where
  mod := rfl
  counts := rfl
  ana := rfl
  mem := rfl
  kind := (congrArg Seq.kind h :)
  underrun := (congrArg Seq.underrun h :)
  events := (congrArg Seq.events h :)
  head x := by rw [← Chan.headHere_unlatched, h, Chan.headHere_unlatched]

/-- At a boundary without a hold the route goes on, its latches counting from sample 0 of the next pass. -/
theorem State.boundary_goesOn (h : x.routeEnd = false) (hnone : (s.ch c).seq.holdNext = none) :
    ∃ (r : State) (i : Inst), s.boundary c x = r.goesOn c x i ∧ r.mod = s.mod ∧ r.now = s.now ∧ (s.ch c).SameUnlatched (r.ch c) := by
  have hgoes : s.boundary c x = (s.modCh c Chan.rebased).goesOn c x (s.ch c).boundaryExact := by
    unfold State.boundary
    dsimp only
    rw [h, hnone]
    rfl
  refine ⟨s.modCh c Chan.rebased, _, hgoes, State.modCh_mod .., State.modCh_now .., ?_⟩
  rw [State.ch_modCh_self]
  exact Chan.sameUnlatched_of_seq _ (Seq.unlatched_rebase _)

/-- A pass plays whose head is not late, or whose successor's head the siding waits for. -/
theorem State.goesOn_plays (h : (s.ch c).seq.kind = .wayside ∨ (s.ch c).headLate x s.freeCtr = false) (i : Inst) :
    (s.goesOn c x i).mod = s.mod ∧ (s.ch c).Plays ((s.goesOn c x i).ch c) x := by
  have hplays := s.beginPass_plays c x i none true
  have hmod := s.beginPass_module c x i none true
  unfold State.goesOn
  split
  next hkind =>
    refine ⟨hmod, ?_⟩
    rw [State.ch_modCh_self]
    split
    · exact hplays
    · obtain ⟨pmod, pcounts, pana, pplaying, plate, pwp, pdone, pkind, pdecided, psucc, pevents, pcfg⟩ := hplays
      exact ⟨pmod, pcounts, pana, pplaying, plate, pwp, pdone, pkind, pdecided, psucc, pevents, pcfg⟩
  next hkind =>
    rw [h.resolve_left hkind, if_neg Bool.false_ne_true]
    exact ⟨hmod, hplays⟩

theorem State.goesOn_late (hkind : (s.ch c).seq.kind ≠ .wayside) (hlate : (s.ch c).headLate x s.freeCtr = true) (i : Inst) :
    s.goesOn c x i = (s.lateHead c x i).drawn.drawn := by
  rw [State.goesOn, if_neg hkind, if_pos hlate]

/-- What waiting for a head changes. -/
theorem Chan.lateWaits_eq (y : Chan) (now : Tbu) (x : Succ) : (y.lateWaits now x).mod = y.mod ∧ (y.lateWaits now x).counts = y.counts ∧
    (y.lateWaits now x).seq.late = true ∧ (y.lateWaits now x).seq.wp = x.wp ∧
    (y.lateWaits now x).seq.events = evSet y.seq.events SeqEv.lateFetch ∧ (y.lateWaits now x).ply.wav = .hold ∧
    (y.lateWaits now x).ply.cur.after = .late := ⟨rfl, rfl, rfl, rfl, rfl, rfl, rfl⟩

section
variable (hkind : (s.ch c).seq.kind ≠ .wayside) (hlate : (s.ch c).headLate x s.freeCtr = true) (i : Inst)
include hkind hlate

theorem State.goesOn_waits (hside : (s.ch c).sidingPlays x s.freeCtr = false) :
    (s.goesOn c x i).mod = s.mod ∧ (s.goesOn c x i).ch c = (s.ch c).lateWaits s.now x := by
  rw [State.goesOn_late hkind hlate, State.lateHead_waits hside]
  exact ⟨rfl, by rw [State.ch_drawn, State.ch_drawn, State.ch_modCh_self]⟩

theorem State.goesOn_siding (hside : (s.ch c).sidingPlays x s.freeCtr = true) :
    (s.goesOn c x i).mod = s.mod ∧ ((s.ch c).lateKept x).Plays ((s.goesOn c x i).ch c) x.wayside ∧
    ((s.goesOn c x i).ch c).seq.lateSucc = some x := by
  rw [State.goesOn_late hkind hlate, State.lateHead_siding hside]
  have hplays := (s.modCh c fun y => y.lateKept x).beginPass_plays c x.wayside i none true
  have hmod := (s.modCh c fun y => y.lateKept x).beginPass_module c x.wayside i none true
  have hkept := (s.modCh c fun y => y.lateKept x).beginPass_lateSucc c x.wayside i none true
  rw [State.ch_modCh_self] at hplays hkept
  exact ⟨hmod, hplays, hkept⟩

end

theorem State.goesOn_frame (s : State) (c : ChanId) (x : Succ) (i : Inst) :
    (s.goesOn c x i).mod = s.mod ∧ ((s.goesOn c x i).ch c).counts = (s.ch c).counts := by
  by_cases hplay : (s.ch c).seq.kind = .wayside ∨ (s.ch c).headLate x s.freeCtr = false
  · obtain ⟨hmod, hplays⟩ := State.goesOn_plays hplay i
    exact ⟨hmod, hplays.counts⟩
  · obtain ⟨hkind, hlate⟩ := not_or.1 hplay
    rw [Bool.not_eq_false] at hlate
    cases hside : (s.ch c).sidingPlays x s.freeCtr with
    | false =>
      obtain ⟨hmod, hself⟩ := State.goesOn_waits hkind hlate i hside
      exact ⟨hmod, hself ▸ ((s.ch c).lateWaits_eq s.now x).2.1⟩
    | true =>
      obtain ⟨hmod, hplays, -⟩ := State.goesOn_siding hkind hlate i hside
      exact ⟨hmod, hplays.counts⟩

/-- Whatever a boundary does, it changes no register of the module but MOD_EVENTS, and neither counts nor measurements. -/
theorem State.boundary_frame (s : State) (c : ChanId) (x : Succ) :
    s.sameModule (s.boundary c x) ∧ ((s.boundary c x).ch c).counts = (s.ch c).counts := by
  cases hroute : x.routeEnd with
  | true =>
    obtain ⟨-, -, hcounts, -⟩ := State.boundary_routeEnd_self (s := s) (c := c) hroute
    exact ⟨State.boundary_routeEnd_module hroute, hcounts.symm⟩
  | false =>
    cases hhold : (s.ch c).seq.holdNext with
    | some cause =>
      obtain ⟨hmodule, hcounts, -⟩ := State.boundary_hold_self hroute hhold
      exact ⟨hmodule, hcounts⟩
    | none =>
      obtain ⟨r, i, hgoes, hmod, -, hsame⟩ := State.boundary_goesOn hroute hhold
      obtain ⟨hgoesMod, hcounts⟩ := r.goesOn_frame c x i
      rw [hgoes]
      exact ⟨State.sameModule_of_eq (hgoesMod.trans hmod), hcounts.trans hsame.counts⟩

section
variable (hroute : x.routeEnd = false) (hhold : (s.ch c).seq.holdNext = none)
include hroute hhold

/-- The successor's pass plays where its head is there, or where the loss of a bobbin device is being masked. -/
theorem State.boundary_plays (h : (s.ch c).mem.bobLostAt ≠ none ∨ ((s.ch c).mem.degraded = false ∧ (s.ch c).headHere x = true)) :
    ∃ y, (s.ch c).SameUnlatched y ∧ y.Plays ((s.boundary c x).ch c) x := by
  obtain ⟨r, i, hgoes, -, -, hsame⟩ := State.boundary_goesOn hroute hhold
  rw [← hsame.mem, ← hsame.head] at h
  rw [hgoes]
  exact ⟨_, hsame, (State.goesOn_plays (.inr (Chan.headLate_of_here h _)) i).2⟩

variable (hlost : (s.ch c).mem.bobLostAt = none) (hkind : (s.ch c).seq.kind ≠ .wayside) (hhere : (s.ch c).headHere x = false)
include hlost hkind hhere

/-- Without the siding the late pass is waited for. -/
theorem State.boundary_waits (hside : (s.ch c).seq.underrun ≠ 2 ∨ (s.ch c).headHere x.wayside = false) :
    ∃ y, (s.ch c).SameUnlatched y ∧ (s.boundary c x).ch c = y.lateWaits s.now x := by
  obtain ⟨r, i, hgoes, -, hnow, hsame⟩ := State.boundary_goesOn hroute hhold
  rw [← hsame.mem] at hlost
  rw [← hsame.kind] at hkind
  rw [← hsame.head] at hhere
  rw [← hsame.underrun, ← hsame.head] at hside
  have hwait : (r.ch c).sidingPlays x r.freeCtr = false := by
    rw [Chan.sidingPlays]
    rcases hside with hunder | hside
    · rw [beq_eq_false_iff_ne.2 hunder, Bool.false_and]
    · rw [Chan.headLate_of_missing hlost hside]
      exact Bool.and_false _
  rw [hgoes, (State.goesOn_waits hkind (Chan.headLate_of_missing hlost hhere _) i hwait).2, hnow]
  exact ⟨_, hsame, rfl⟩

/-- With UNDERRUN = 2 and its head there, the siding plays. -/
theorem State.boundary_siding (hunder : (s.ch c).seq.underrun = 2) (hside : (s.ch c).headHere x.wayside = true) :
    ∃ y, (s.ch c).SameUnlatched y ∧ (y.lateKept x).Plays ((s.boundary c x).ch c) x.wayside ∧
      ((s.boundary c x).ch c).seq.lateSucc = some x := by
  obtain ⟨r, i, hgoes, -, -, hsame⟩ := State.boundary_goesOn hroute hhold
  rw [← hsame.mem] at hlost
  rw [← hsame.kind] at hkind
  rw [← hsame.head] at hhere hside
  rw [← hsame.underrun] at hunder
  have hplay : (r.ch c).sidingPlays x r.freeCtr = true := by
    rw [Chan.sidingPlays, hunder, Chan.headLate_of_here (.inr ⟨Chan.not_degraded_of_wayside hhere hside, hside⟩)]
    rfl
  obtain ⟨-, hplays, hkept⟩ := State.goesOn_siding hkind (Chan.headLate_of_missing hlost hhere _) i hplay
  rw [hgoes]
  exact ⟨_, hsame, hplays, hkept⟩

end

/-! ### The boundary and the late head -/

theorem exec_passBoundary (hrun : (s.ch c).latches = true) (hlate : (s.ch c).seq.late = false)
    (hover : (s.ch c).passOver (s.atTime t).cycle = true) (hsucc : (s.ch c).seq.succ = some x) :
    exec (.passBoundary t c) s = .next ((s.atTime t).boundary c x) := by
  rw [exec, execPassBoundary]
  rw [State.ch_atTime, hrun, hlate, hover, hsucc]
  rfl

theorem passBoundary : Clause.PassBoundary := by
  intro t c s x hrun hlate hover hsucc
  have hexec := exec_passBoundary (t := t) hrun hlate hover hsucc
  obtain ⟨v, hv⟩ : ∃ v, v = s.atTime t := ⟨_, rfl⟩
  have hch : v.ch c = s.ch c := by rw [hv, State.ch_atTime]
  have hkeeps := (State.Keeps.refl .boundary (fun d => d = c) v).boundary c x rfl rfl rfl rfl
  obtain ⟨hmodule, hcounts⟩ := v.boundary_frame c x
  have heq := hkeeps.eq_boundary hmodule
  have hother : ∀ d : ChanId, d ≠ c → (v.boundary c x).ch d = s.ch d := fun d hd => by
    rw [hkeeps.other d hd, hv, State.ch_atTime]
  refine ⟨v.boundary c x, hv ▸ hexec, hkeeps.sameCreels_of (by rw [hv]; rfl), hother, ?_, ?_⟩
  · rw [hv] at heq ⊢
    exact heq
  rw [hch, Chan.counts, Chan.counts, Prod.mk.injEq] at hcounts
  rw [← hch] at hcounts ⊢
  refine ⟨hcounts.1, hcounts.2, fun hend => ?_, fun cause hroute hhold hreq => ?_, Chan.headHere_eq, fun hroute hhold hhere => ?_,
    fun hroute hhold hlost hkind hhere => ⟨fun hside => ?_, fun hunder hside => ?_⟩⟩
  · obtain ⟨hstate, hset, -, hplay, hsw⟩ := State.boundary_routeEnd_self (s := v) (c := c) hend
    exact ⟨hstate, hset, hplay, hsw⟩
  · obtain ⟨-, -, hstate, hcause, hwp, hpass, hgranted, hplay, hsw⟩ := State.boundary_hold_self hroute hhold
    exact ⟨hstate, hcause hreq, hwp, hpass, hgranted, hplay, hsw⟩
  · obtain ⟨y, hsame, hplays⟩ := State.boundary_plays hroute hhold hhere
    exact ⟨hplays.mod.trans hsame.mod, hplays.playing, hplays.late, hplays.wp, hplays.done, hplays.kind, hplays.decided,
      hplays.succ, hplays.ana.trans hsame.ana⟩
  · obtain ⟨y, hsame, hself⟩ := State.boundary_waits hroute hhold hlost hkind hhere hside
    obtain ⟨hmod, -, hwait, hwp, hevents, hwav, hafter⟩ := y.lateWaits_eq v.now x
    rw [← hself] at hmod hwait hwp hevents hwav hafter
    refine ⟨hmod.trans hsame.mod, hwait, hwp, ?_, hwav, hafter, fun k i hbegun hend => Chan.markerAt_late hafter k hbegun hend⟩
    rw [hevents]
    exact bit_evSet_self (by decide)
  · obtain ⟨y, hsame, hplays, hkept⟩ := State.boundary_siding hroute hhold hlost hkind hhere hunder hside
    refine ⟨hplays.mod.trans hsame.mod, hplays.late, hplays.playing, hplays.kind, hkept, ?_⟩
    rw [hplays.events]
    exact bit_evSet_self (by decide)

theorem exec_lateHeadArrival (hrun : (s.ch c).latches = true) (hlate : (s.ch c).seq.late = true)
    (hsucc : (s.ch c).seq.succ = some x) : exec (.lateHeadArrival t c) s = .next (if !(s.ch c).headHere x then s.atTime t else
      (s.atTime t).beginPass c x (Inst.ofQ (q16 (((s.atTime t).cycle + 1) * cycleTbu + leadTbu))) none false) := by
  rw [exec, execLateHeadArrival]
  rw [State.ch_atTime, hrun, hlate, hsucc]
  rfl

theorem lateHead : Clause.LateHead := by
  intro t c s x hrun hlate hsucc
  rw [exec_lateHeadArrival hrun hlate hsucc]
  refine ⟨fun hmissing => by rw [hmissing]; rfl, fun hhere => ?_⟩
  rw [hhere]
  have hplays := (s.atTime t).beginPass_plays c x (Inst.ofQ (q16 (((s.atTime t).cycle + 1) * cycleTbu + leadTbu))) none false
  have hmod := (s.atTime t).beginPass_module c x (Inst.ofQ (q16 (((s.atTime t).cycle + 1) * cycleTbu + leadTbu))) none false
  have hkeeps := (State.Keeps.refl .entering (fun d => d = c) (s.atTime t)).beginPass c x
    (Inst.ofQ (q16 (((s.atTime t).cycle + 1) * cycleTbu + leadTbu))) none false rfl rfl
  have heq := hkeeps.eq_entering
  rw [hmod] at heq
  exact ⟨_, rfl, hkeeps.sameCreels_of rfl, fun d hd => hkeeps.other d hd, heq, hplays.mod, hplays.late, hplays.wp, hplays.done,
    hplays.kind, hplays.succ, hplays.routeCfg⟩

/-- Settles O32: each way a boundary goes changes its own channel only, and a pass that begins is one change of it. -/
theorem boundaryAndLateHead : Obligations.BoundaryAndLateHead := ⟨passBoundary, lateHead⟩

end Sys2Proof.Machine
end


section
/-! A group member that has voted commits with its group, is released, or waits on (R162). -/

namespace Sys2Proof.Machine

variable {t : Tbu} {c n : ChanId} {s : State} {v : Vote} {x : Chan}

/-! ### Masks of channels -/

theorem ite_two_pow (b : Bool) (k : Nat) : (if b = true then k else 0) = k * b.toNat := by cases b <;> simp

/-- The mask of a predicate is the number with its values as digits. -/
theorem chMask_eq_ofBits (f : ChanId → Bool) : chMask f = Nat.ofBits f := by
  simp only [chMask, allCh, List.map_cons, List.map_nil, List.foldl_cons, List.foldl_nil, ite_two_pow, Nat.ofBits_succ,
    Nat.ofBits_zero, Function.comp_apply]
  simp
  omega

/-- A mask of channels names those of its predicate. -/
theorem bit_chMask (f : ChanId → Bool) (n : ChanId) : bit (BitVec.ofNat 16 (chMask f)) n.val = f n := by
  rw [bit, BitVec.getLsbD_ofNat, chMask_eq_ofBits, Nat.testBit_ofBits_lt f n.val n.isLt, decide_eq_true n.isLt, Bool.true_and]

/-- The channels that release a member which voted COMMIT itself are those that do not agree with it. -/
theorem State.bit_releasers (hv : v.commit = true) : bit (s.releasers c v) n.val = (bit v.mask n.val && !s.agrees v n) := by
  rw [State.releasers, bit_chMask, hv]
  simp

theorem State.releasers_of_agree (hv : v.commit = true) (h : ∀ n : ChanId, bit v.mask n.val = true → s.agrees v n = true) :
    s.releasers c v = 0 := by
  refine BitVec.eq_of_getLsbD_eq fun i hi => ?_
  have hbit : bit (s.releasers c v) i = _ := State.bit_releasers (n := ⟨i, hi⟩) hv
  rw [bit] at hbit
  rw [hbit, BitVec.ofNat_eq_ofNat, BitVec.getLsbD_zero, Bool.and_eq_false_iff, Bool.not_eq_false']
  exact (Bool.eq_false_or_eq_true _).symm.imp_right (h ⟨i, hi⟩)

theorem State.releasers_ne_zero (hv : v.commit = true) (hn : bit v.mask n.val = true) (h : s.agrees v n = false) :
    s.releasers c v ≠ 0 := by
  intro hzero
  have hbit := State.bit_releasers (s := s) (c := c) (n := n) hv
  rw [hzero, hn, h] at hbit
  exact Bool.false_ne_true ((BitVec.getLsbD_zero).symm.trans hbit)

/-! ### The three outcomes -/

/-- The position at which a committed start is placed (R154, R162). -/
def Seq.grpPos (q : Seq) (v : Vote) : Word := if q.gcond then cyclePos (v.edge + BitVec.ofNat 40 q.lead) else q.lStartPos

/-- A member whose group has committed. -/
def Chan.grpCommit (x : Chan) : Chan :=
  { x with seq := { x.seq with grpOutcome := 3, events := evSet x.seq.events SeqEv.grpDone } }

/-- A member that its group releases after it voted COMMIT. -/
def Chan.grpReleased (x : Chan) (by' : BitVec 16) : Chan :=
  ({ x with seq := { x.seq with grpReason := 0x33 } } : Chan).grpRelease by'

theorem State.groupDecide_commits (hvote : (s.ch c).seq.vote = some v) (hout : (s.ch c).seq.grpOutcome = 2) (hv : v.commit = true)
    (h : ∀ n : ChanId, bit v.mask n.val = true → s.agrees v n = true) : s.groupDecide c =
      s.modCh c fun x => if x.mod.startPend then x.grpCommit.placeStart ((s.ch c).seq.grpPos v) else x.grpCommit := by
  simp only [State.groupDecide, hvote, hout, hv, State.releasers_of_agree hv h]
  rfl

theorem State.groupDecide_of_disagree (hvote : (s.ch c).seq.vote = some v) (hout : (s.ch c).seq.grpOutcome = 2)
    (hv : v.commit = true) (hn : bit v.mask n.val = true) (h : s.agrees v n = false) : s.groupDecide c =
      if s.now < v.at' + 12 * ns then s else s.modCh c fun x => x.grpReleased (s.releasers c v) := by
  have hrel : (v.commit && s.releasers c v == 0) = false := by
    rw [hv, Bool.true_and, beq_eq_false_iff_ne]
    exact State.releasers_ne_zero hv hn h
  simp only [State.groupDecide, hvote, hout, hrel]
  rw [hv]
  rfl

theorem Chan.unpend_eq (x : Chan) : x.unpend = { x with
    mod := { x.mod with startPend := false }, tlh := x.unpend.tlh } := by
  unfold Chan.unpend
  dsimp only
  split <;> rfl

theorem Chan.grpReleased_eq (x : Chan) (by' : BitVec 16) : x.grpReleased by' = { x with
    mod := { x.mod with startPend := false }
    tlh := { (x.grpReleased by').tlh with pinned := false }
    trk := x.trk.unplace .start
    seq := { x.seq with placed := none, cleared := false, grpReason := 0x33, grpOutcome := 4, grpReleasedBy := by'
                        events := evSet x.seq.events SeqEv.grpDone } } := by
  unfold Chan.grpReleased Chan.grpRelease
  rw [Chan.unpend_eq]
  rfl

theorem Chan.placeStart_isPending (x : Chan) (pos : Word) : (x.placeStart pos).trk.isPending .start = true := by
  simp [Chan.placeStart, Tracker.place, Tracker.isPending]

/-- Settles O33: a member commits when nobody of its mask disagrees; with one that does, the end of the 12 ns releases it. -/
theorem groupDecide : Obligations.GroupDecide := by
  intro t c s v hvote hout hv
  have hexec : exec (.groupDecide t c) s = .next ((s.atTime t).groupDecide c) := rfl
  rw [hexec]
  refine ⟨fun hagree => ?_, fun n hn hdis => ?_⟩
  · rw [State.groupDecide_commits (s := s.atTime t) hvote hout hv hagree]
    refine ⟨_, rfl, State.onlyChannel_modCh .., ?_⟩
    rw [State.ch_modCh_self, State.ch_atTime]
    split
    next hpend =>
      exact ⟨bit_evSet_self (by decide), rfl, rfl, fun hcond _ => ⟨congrArg some (if_neg (by rw [hcond]; exact Bool.false_ne_true)),
        Chan.placeStart_isPending _ _⟩⟩
    next hpend => exact ⟨bit_evSet_self (by decide), rfl, rfl, fun _ h => absurd h hpend⟩
  · have hrel : bit ((s.atTime t).releasers c v) n.val = true := by
      rw [State.bit_releasers hv, hn, show (s.atTime t).agrees v n = false from hdis]
      rfl
    rw [State.groupDecide_of_disagree (s := s.atTime t) hvote hout hv hn hdis, State.atTime_now]
    refine ⟨fun hover => ?_, fun hopen => by rw [if_pos hopen]⟩
    rw [if_neg (Nat.not_lt.2 hover)]
    refine ⟨_, rfl, State.onlyChannel_modCh .., ?_⟩
    rw [State.ch_modCh_self, State.ch_atTime, Chan.grpReleased_eq]
    exact ⟨bit_evSet_self (by decide), rfl, rfl, rfl, hrel, rfl, rfl, rfl⟩

end Sys2Proof.Machine
end


section
/-! A pace-locked path that freezes, and hops that are read, written, prepared and switched (R180, R188 to R190, R477). -/

namespace Sys2Proof.Machine

variable {t : Tbu} {c : ChanId} {s : State} {x : Chan}

/-! ### Flags of PLY_EVENTS -/

/-- The hardware sets the bit that it names, and no other. -/
theorem bit_evSet_ne {e : Sticky} {j k : Nat} (h : k ≠ j) : bit (evSet e j).bits k = bit e.bits k := by
  unfold evSet evMask
  split
  · rfl
  · have hmask : bit (mask1 64 j) k = false := by rw [bit_mask1, decide_eq_false h, Bool.and_false]
    rw [bit] at hmask
    rw [bit, BitVec.getLsbD_or, hmask, Bool.or_false]
    rfl

theorem bit_evIf_ne {b : Bool} {e : Sticky} {j k : Nat} (h : k ≠ j) : bit (evIf b e j).bits k = bit e.bits k := by
  cases b with
  | true => exact bit_evSet_ne h
  | false => rfl

/-- The samples put out may flag SATURATE only (R186). -/
theorem Chan.outTo_bit (a : Q16) {k : Nat} (h : k ≠ PlyEv.saturate) : bit (x.outTo a).ply.events.bits k = bit x.ply.events.bits k :=
  bit_evIf_ne h

/-! ### Freezing (R180) -/

/-- The path holds what it puts out, and flags FREEZE. -/
def Chan.heldFrozen (x : Chan) : Chan :=
  { x with ply := { x.ply with frozen := true, wav := .hold, events := evSet x.ply.events PlyEv.freeze } }

/-- WAV changes to 0 and the markers to low. -/
def Chan.zeroedAt (x : Chan) (now : Tbu) : Chan :=
  ({ x.outTo (q16 now) with ply := { (x.outTo (q16 now)).ply with
    wav := .zero, markers := Vector.replicate 4 .low } } : Chan).noteGaps (q16 now)

theorem Chan.zeroedAt_eq (x : Chan) (now : Tbu) : x.zeroedAt now = { x with ply := { x.ply with
    events := (x.outTo (q16 now)).ply.events, outAt := (x.zeroedAt now).ply.outAt, wav := .zero
    markers := Vector.replicate 4 .low, gapBob := (x.zeroedAt now).ply.gapBob, gapClk := (x.zeroedAt now).ply.gapClk } } := rfl

/-- What a freeze does to its channel before it is published. -/
def Chan.frozenAt (x : Chan) (now : Tbu) : Chan := if x.trk.state = .stopped then x.heldFrozen.freezeZero now else x.heldFrozen

theorem exec_freeze_of_due (h : (s.ch c).freezeDue (max s.now t) = true) :
    exec (.freeze t c) s =
      .next ((s.atTime t).modCh c fun x => (x.frozenAt (max s.now t)).publish (eventCycle (max s.now t)) Prod.freeze) :=
  congrArg Host.Outcome.next (State.modCh_congr (s := s.atTime t) (if_pos h))

theorem Chan.freezeZero_of_zero {now : Tbu} (hfrozen : x.ply.frozen = true) (hzero : x.ply.stopZero = true) :
    x.freezeZero now = x.zeroedAt now :=
  if_pos (by rw [hfrozen, hzero]; rfl)

theorem Chan.freezeZero_of_hold {now : Tbu} (h : x.ply.stopZero ≠ true) : x.freezeZero now = x :=
  if_neg fun hboth => h (Bool.and_eq_true_iff.1 hboth).2

theorem Chan.frozenAt_of_zero (now : Tbu) (h : x.trk.state = .stopped ∧ x.ply.stopZero = true) :
    x.frozenAt now = x.heldFrozen.zeroedAt now := by
  obtain ⟨hstopped, hzero⟩ := h
  rw [Chan.frozenAt, if_pos hstopped]
  exact Chan.freezeZero_of_zero rfl hzero

theorem Chan.frozenAt_of_hold (now : Tbu) (h : ¬(x.trk.state = .stopped ∧ x.ply.stopZero = true)) :
    x.frozenAt now = x.heldFrozen := by
  unfold Chan.frozenAt
  split
  next hstopped => exact Chan.freezeZero_of_hold fun hzero => h ⟨hstopped, hzero⟩
  next => rfl

theorem freeze : Clause.Freeze := by
  intro t c s hdue
  refine ⟨_, exec_freeze_of_due hdue, State.onlyChannel_modCh .., ?_⟩
  rw [State.ch_modCh_self, State.ch_atTime, Chan.publish_eq]
  by_cases hzero : (s.ch c).trk.state = .stopped ∧ (s.ch c).ply.stopZero = true
  · rw [Chan.frozenAt_of_zero _ hzero, Chan.zeroedAt_eq, if_pos hzero, if_pos hzero]
    refine ⟨rfl, ?_, fun k hfreeze hsat => ?_, fun hhold => absurd hzero hhold, rfl, rfl⟩
    · exact (Chan.outTo_bit _ (by decide)).trans (bit_evSet_self (by decide))
    · exact (Chan.outTo_bit _ hsat).trans (bit_evSet_ne hfreeze)
  · rw [Chan.frozenAt_of_hold _ hzero, if_neg hzero, if_neg hzero]
    exact ⟨rfl, bit_evSet_self (by decide), fun k hfreeze _ => bit_evSet_ne hfreeze, fun _ => ⟨rfl, rfl, rfl, rfl⟩, rfl, rfl⟩

/-! ### Commands to the hop table (R190) -/

/-- The entry that PLY_HOP_IDX selects. -/
def Ply.hopSel (p : Ply) : Byte := BitVec.ofNat 8 (fld p.hopIdx 0 8)

theorem Ply.hopSel_toNat (p : Ply) : p.hopSel.toNat = fld p.hopIdx 0 8 := by
  have hlt : fld p.hopIdx 0 8 < 2 ^ 8 := Nat.mod_lt _ (by decide)
  exact Nat.mod_eq_of_lt hlt

theorem Chan.hopRead_eq (x : Chan) : x.hopRead = { x with ply := { x.ply with
    hopW0 := sget 0 x.ply.table (2 * fld x.ply.hopIdx 0 8), hopW1 := sget 0 x.ply.table (2 * fld x.ply.hopIdx 0 8 + 1)
    hopResult := 0 } } := by
  rw [← x.ply.hopSel_toNat]
  rfl

/-- The channel with a code in PLY_HOP_RESULT. -/
def Chan.hopAnswer (x : Chan) (code : Byte) : Chan := { x with ply := { x.ply with hopResult := code } }

/-- The channel with the selected entry written in fabric cycle `cyc`. -/
def Chan.hopWritten (x : Chan) (cyc free : Nat) : Chan :=
  { x with ply := { x.ply with
    table := sput 0 (sput 0 x.ply.table (2 * x.ply.hopSel.toNat) x.ply.hopW0) (2 * x.ply.hopSel.toNat + 1) x.ply.hopW1
    hopResult := 0, hops := x.ply.hops.map fun h => h.onWrite cyc free x.ply.hopSel x.ply.hopW0 x.ply.hopW1 } }

theorem exec_hopWrite (h : s.windowUp = true) : exec (.hopWrite t c) s = .next ((s.atTime t).hopWrite c) :=
  congrArg Host.Outcome.next (State.ifWindow_pos (s := s.atTime t) _ h)

theorem State.hopWrite_of_reserved (h : fld (s.ch c).ply.hopW0 49 15 ≠ 0 ∨ fld (s.ch c).ply.hopW1 32 32 ≠ 0) :
    s.hopWrite c = s.modCh c fun x => x.hopAnswer 0x02 :=
  if_pos h

theorem State.hopWrite_of_stored (h0 : fld (s.ch c).ply.hopW0 49 15 = 0) (h1 : fld (s.ch c).ply.hopW1 32 32 = 0) :
    s.hopWrite c = (s.modCh c fun x => x.hopWritten s.cycle s.freeCtr).drawn :=
  if_neg (by simp [h0, h1])

/-- A prepared hop of another entry, or whose entry the engine has read before the write, stays as it is. -/
theorem PendHop.onWrite_of_kept {h : PendHop} {cyc : Nat} {i : Byte} (hkept : h.idx ≠ i ∨ h.readAt < cyc) (free : Nat) (w0 w1 : Word) :
    h.onWrite cyc free i w0 w1 = h := by
  refine if_neg fun ⟨hidx, hread⟩ => ?_
  rcases hkept with hne | hlt
  · exact hne hidx
  · rcases hread with hlater | ⟨hsame, -⟩ <;> omega

theorem Chan.mem_hops_hopWritten {h : PendHop} {cyc : Nat} (hmem : h ∈ x.ply.hops)
    (hkept : h.idx.toNat ≠ fld x.ply.hopIdx 0 8 ∨ h.readAt < cyc) (free : Nat) : h ∈ (x.hopWritten cyc free).ply.hops := by
  refine List.mem_map.2 ⟨h, hmem, PendHop.onWrite_of_kept (hkept.imp_left fun hne heq => hne ?_) _ _ _⟩
  rw [heq, Ply.hopSel_toNat]

/-- The host hop that an APPLY prepares at instant `now`. -/
def Ply.hostHop (p : Ply) (now : Tbu) (op : BitVec 3) : PendHop :=
  { host := true, op := op, idx := p.hopSel, readAt := cycleOf now, w0 := p.hopWord p.hopSel 0, w1 := p.hopWord p.hopSel 1
    due := q16 (now + applyLead), begun := true }

/-- What an APPLY at instant `now` does to its channel. -/
def Chan.hopApplied (x : Chan) (now : Tbu) (op : BitVec 3) : Chan :=
  if op = 0 ∨ 4 ≤ op.toNat then x.hopAnswer 0x02
  else if x.ply.hopPend then x.hopAnswer 0x03
  else { x with ply := { x.ply with hopResult := 0, hops := x.ply.hops ++ [x.ply.hostHop now op] } }

theorem exec_hopApply (op : BitVec 3) (h : s.windowUp = true) :
    exec (.hopApply t c op) s = .next ((s.atTime t).modCh c fun x => x.hopApplied (max s.now t) op) :=
  congrArg Host.Outcome.next (State.ifWindow_pos (s := s.atTime t) _ h)

theorem Chan.hopApplied_of_pend {op : BitVec 3} (now : Tbu) (hlo : 1 ≤ op.toNat) (hhi : op.toNat < 4)
    (h : ∃ h ∈ x.ply.hops, h.host = false) : x.hopApplied now op = x.hopAnswer 0x03 := by
  have hop : ¬(op = 0 ∨ 4 ≤ op.toNat) := by bv_omega
  have hpend : x.ply.hopPend = true := by simpa [Ply.hopPend] using h
  rw [Chan.hopApplied, if_neg hop, if_pos hpend]

theorem Chan.hopApplied_of_free {op : BitVec 3} (now : Tbu) (hlo : 1 ≤ op.toNat) (hhi : op.toNat < 4)
    (h : ∀ h ∈ x.ply.hops, h.host = true) : x.hopApplied now op = { x with ply := { x.ply with
      hopResult := 0, hops := x.ply.hops ++ [x.ply.hostHop now op] } } := by
  have hop : ¬(op = 0 ∨ 4 ≤ op.toNat) := by bv_omega
  have hpend : ¬x.ply.hopPend = true := by simpa [Ply.hopPend] using h
  rw [Chan.hopApplied, if_neg hop, if_neg hpend]

theorem hopCommands : Clause.HopCommands := by
  intro t c s hup
  have hread : exec (.hopRead t c) s = .next ((s.atTime t).ifWindow fun s => s.modCh c Chan.hopRead) := rfl
  rw [hread, exec_hopWrite hup, exec_hopApply 0 hup]
  refine ⟨State.ifWindow_modCh hup (Chan.hopRead_eq _), fun hres => congrArg _ (State.hopWrite_of_reserved hres), fun h0 h1 => ?_, rfl,
    fun op hlo hhi => ?_⟩
  · rw [State.hopWrite_of_stored (s := s.atTime t) h0 h1]
    refine ⟨_, rfl, rfl, fun d hne => (State.ch_drawn ..).trans (State.ch_modCh_ne (s.atTime t) _ hne), ?_⟩
    rw [State.ch_drawn, State.ch_modCh_self, State.ch_atTime, ← Ply.hopSel_toNat]
    exact ⟨rfl, fun h hmem hkept => Chan.mem_hops_hopWritten hmem (by rwa [← Ply.hopSel_toNat]) _⟩
  · rw [exec_hopApply op hup]
    refine ⟨fun hpend => congrArg _ (State.modCh_congr (Chan.hopApplied_of_pend _ hlo hhi hpend)), fun hfree => ?_⟩
    refine ⟨_, (s.ch c).ply.hostHop (max s.now t) op, rfl, State.onlyChannel_modCh .., ?_, rfl, rfl, rfl, rfl⟩
    rw [State.ch_modCh_self, State.ch_atTime, Chan.hopApplied_of_free _ hlo hhi hfree]

/-! ### Hops switch (R188, R189) -/

theorem Ply.applyHop_eq (p : Ply) (h : PendHop) : p.applyHop h = { p with
    ftw := if bit h.op 0 then BitVec.ofNat 48 h.w0.toNat else p.ftw
    phi := if bit h.op 1 then (if bit h.w0 48 then p.phi + BitVec.ofNat 32 h.w1.toNat else BitVec.ofNat 32 h.w1.toNat) else p.phi } := by
  unfold Ply.applyHop
  by_cases hftw : bit h.op 0 <;> by_cases hphi : bit h.op 1 <;> simp only [hftw, hphi] <;> rfl

/-- The bit of PLY_EVENTS that a hop sets. -/
def PendHop.event (h : PendHop) : Nat := if h.host then PlyEv.hostHop else PlyEv.hop

theorem PendHop.event_lt (h : PendHop) : h.event < 64 := by
  unfold PendHop.event
  split <;> decide

theorem Chan.hopSwitch_eq (x : Chan) (cyc : Nat) (h : PendHop) (tInt : Int) : x.hopSwitch cyc h tInt = { x with
    jnc := (x.hopSwitch cyc h tInt).jnc
    ply := { x.ply with
      ftw := if bit h.op 0 then BitVec.ofNat 48 h.w0.toNat else x.ply.ftw
      phi := if bit h.op 1 then (if bit h.w0 48 then x.ply.phi + BitVec.ofNat 32 h.w1.toNat else BitVec.ofNat 32 h.w1.toNat)
        else x.ply.phi
      hops := x.ply.hops.erase h, lastHop := BitVec.ofInt 64 tInt, outAt := (x.hopSwitch cyc h tInt).ply.outAt
      events := (x.hopSwitch cyc h tInt).ply.events } } := by
  unfold Chan.hopSwitch
  dsimp only
  rw [Ply.applyHop_eq, Chan.publish_eq]
  rfl

/-- The samples before the hop are put out first. -/
theorem Chan.hopSwitch_events (x : Chan) (cyc : Nat) (h : PendHop) (tInt : Int) :
    ∃ a : Q16, (x.hopSwitch cyc h tInt).ply.events = evSet (x.outTo a).ply.events h.event := by
  unfold Chan.hopSwitch
  dsimp only
  rw [Ply.applyHop_eq, Chan.publish_eq]
  exact ⟨_, rfl⟩

theorem exec_hopSwitch_of_due {h : PendHop} {tInt a : Int} (hdue : (s.ch c).hopDue s.trk.epoch (max s.now t) = some (h, tInt, a)) :
    exec (.hopSwitch t c) s = .next ((s.atTime t).modCh c fun x => x.hopSwitch (eventCycle a.toNat) h tInt) := by
  refine congrArg Host.Outcome.next (State.modCh_congr (s := s.atTime t) ?_)
  dsimp only [State.ch_atTime, State.atTime_trk, State.atTime_now]
  rw [hdue]

theorem hopSwitch : Clause.HopSwitch := by
  intro t c s h tInt a hdue
  refine ⟨_, exec_hopSwitch_of_due hdue, State.onlyChannel_modCh .., ?_⟩
  rw [State.ch_modCh_self, State.ch_atTime]
  obtain ⟨b, hevents⟩ := (s.ch c).hopSwitch_events (eventCycle a.toNat) h tInt
  rw [hevents]
  refine ⟨?_, bit_evSet_self h.event_lt, fun k hne hsat => (bit_evSet_ne hne).trans (Chan.outTo_bit b hsat)⟩
  rw [← hevents]
  exact Chan.hopSwitch_eq ..

/-- Settles O34: the fabric and what WAV drove are told apart from the path's own change at a freeze, at each command to the hop
table and at a switch. -/
theorem freezeAndHops : Obligations.FreezeAndHops := ⟨freeze, hopCommands, hopSwitch⟩

end Sys2Proof.Machine
end

section
/-! The frames on their way to the lanes: what becomes of one as the lanes come to an instant (R9, R201, R217, R220, R229, R232,
R234). -/

namespace Sys2Proof.Machine

variable {y : Chan} {i : Issued} {x : Q16} {cur ended : Int}

/-! ### One frame on its way to the lanes (R217, R220, R232) -/

theorem satInc_zero {n : Nat} (a : BitVec n) : satInc a 0 = a := by
  have hlt := a.isLt
  refine BitVec.eq_of_toNat_eq ?_
  rw [satInc, BitVec.toNat_ofNat, Nat.add_zero, Nat.min_eq_left (by omega), Nat.mod_eq_of_lt hlt]

/-- The frames whose first beat comes with beat `cur`. -/
def Chan.beginning (y : Chan) (cur : Int) : List Issued :=
  y.dst.issued.filter fun i => !i.begun && decide ((i.first y.dst.latched.fb : Int) ≤ cur)

/-- The last beat of frame `i` is over, of `ended` beats that are. -/
def Chan.drivenBy (y : Chan) (ended : Int) (i : Issued) : Bool :=
  i.begun && decide (((i.first y.dst.latched.fb + y.dst.latched.fb : Nat) : Int) ≤ ended)

theorem Chan.dstMark_of_ahead (h : cur < (i.first y.dst.latched.fb : Int)) : y.dstMark cur i = i := if_neg (Int.not_le.2 h)

theorem Chan.dstMark_of_begun (h : (i.first y.dst.latched.fb : Int) ≤ cur) :
    y.dstMark cur i = { i with begun := true, cfg := some (i.cfg.getD y.dst.laneCfg), lost := i.lost || !y.laneGate } := if_pos h

/-- The Distaff after the last beat of a frame that halts it or not. -/
def Dst.afterFrame (d : Dst) : Option Byte → Dst
  | some code => if d.state = .running then d.halt code else d
  | none => d

theorem Chan.frameOver_dst (x : Q16) (y : Chan) (i : Issued) : (Chan.frameOver x y i).dst = y.dst.afterFrame i.halt := by
  unfold Chan.frameOver Dst.afterFrame
  cases i.halt with
  | none => rfl
  | some code =>
    dsimp only
    rw [Chan.publish_eq]
    dsimp only
    split <;> rfl

/-- The only frame on its way is not over: it is kept, as the beat driven leaves it. -/
theorem Chan.dstRun_of_not_over (hi : y.dst.issued = [i]) (hb : y.laneBeatAt x = some (cur, ended))
    (hover : y.drivenBy ended (y.dstMark cur i) = false) :
    y.dstRun x = { (y.beginning cur).foldl (Chan.framePublish x) y with dst := { y.dst with
      issued := [y.dstMark cur i], driven := y.dst.driven.take drivenKept } } := by
  obtain ⟨j, hj⟩ := Chan.framesPublish_keeps x (y.beginning cur) y
  unfold Chan.drivenBy at hover
  unfold Chan.beginning at hj ⊢
  unfold Chan.dstRun
  rw [hb]
  dsimp only
  rw [hj, hi]
  simp only [List.map_cons, List.map_nil, List.filter_cons, List.filter_nil, hover, Bool.false_eq_true, if_false, Bool.not_false,
    if_true, List.foldl_nil, List.length_nil, List.reverse_nil, List.nil_append, satInc_zero, Chan.lostOf, Chan.shortOf, Chan.cutTo]
  simp [word, evIf]

/-- The Distaff with its only frame driven, as lost or not, before what halts it does. -/
def Dst.counted (d : Dst) (i : Issued) (laneCut shortCut : FrameGap) : Dst :=
  { d with
    issued := [], driven := (i :: d.driven).take drivenKept, laneCut := laneCut, shortCut := shortCut
    frames := if i.lost then d.frames else d.frames + 1, lostGap := if i.lost then satInc d.lostGap else d.lostGap
    events := evIf i.lost d.events DstEv.laneGap }

theorem Dst.counted_of_kept (d : Dst) (laneCut shortCut : FrameGap) (h : i.lost = false) :
    (d.counted i laneCut shortCut).frames = d.frames + 1 ∧ (d.counted i laneCut shortCut).lostGap = d.lostGap ∧
    (d.counted i laneCut shortCut).events = d.events := by
  simp only [Dst.counted, h, evIf]
  exact ⟨rfl, rfl, rfl⟩

theorem Dst.counted_of_lost (d : Dst) (laneCut shortCut : FrameGap) (h : i.lost = true) :
    (d.counted i laneCut shortCut).frames = d.frames ∧ (d.counted i laneCut shortCut).lostGap = satInc d.lostGap ∧
    (d.counted i laneCut shortCut).events = evSet d.events DstEv.laneGap := by
  simp only [Dst.counted, h, evIf]
  exact ⟨rfl, rfl, rfl⟩

/-- The only frame on its way is over. -/
theorem Chan.dstRun_of_over (hi : y.dst.issued = [i]) (hb : y.laneBeatAt x = some (cur, ended))
    (hover : y.drivenBy ended (y.dstMark cur i) = true) :
    ∃ laneCut shortCut, (y.dstRun x).dst = (y.dst.counted (y.dstMark cur i) laneCut shortCut).afterFrame i.halt := by
  obtain ⟨j, hj⟩ := Chan.framesPublish_keeps x (y.beginning cur) y
  have hhalt : (y.dstMark cur i).halt = i.halt := by unfold Chan.dstMark; split <;> rfl
  unfold Chan.drivenBy at hover
  unfold Chan.beginning at hj
  rw [← hhalt]
  unfold Chan.dstRun
  rw [hb]
  dsimp only
  rw [hj, hi]
  simp only [List.map_cons, List.map_nil, List.filter_cons, List.filter_nil, hover, if_true, List.foldl_cons, List.foldl_nil,
    Chan.frameOver_dst]
  generalize Chan.cutTo _ _ (Chan.lostOf _ _) = laneCut, Chan.cutTo _ _ (Chan.shortOf _ _) = shortCut
  refine ⟨laneCut, shortCut, congrArg (Dst.afterFrame · _) ?_⟩
  cases hlost : (y.dstMark cur i).lost <;> simp [Dst.counted, hlost, satInc_zero, word, evIf]

/-! ### Coming to an instant (R229, R234) -/

theorem Chan.dstReach_of_no_hold (h : y.dst.pauseAt = none) (x : Q16) : y.dstReach x = y.dstRun x := by
  rw [Chan.dstReach, h]

theorem Chan.dstReach_of_hold {b : Q16} (h : y.dst.pauseAt = some b) (hb : b ≤ x) :
    y.dstReach x = { y.dstRun b with dst := (y.dstRun b).dst.paused } := by
  rw [Chan.dstReach, h]
  exact if_pos hb

/-- The only frame on its way is ahead of the beat driven: the lanes only forget what they drove long ago. -/
theorem Chan.dstRun_of_ahead (hi : y.dst.issued = [i]) (hb : y.laneBeatAt x = some (cur, ended))
    (hahead : cur < (i.first y.dst.latched.fb : Int)) (hbegun : i.begun = false) :
    y.dstRun x = { y with dst := { y.dst with driven := y.dst.driven.take drivenKept } } := by
  have hmark : y.dstMark cur i = i := Chan.dstMark_of_ahead hahead
  have hnew : y.beginning cur = [] := by
    rw [Chan.beginning, hi]
    simp [hahead]
  have hover : y.drivenBy ended (y.dstMark cur i) = false := by
    rw [hmark, Chan.drivenBy, hbegun, Bool.false_and]
  rw [Chan.dstRun_of_not_over hi hb hover, hnew, hmark, ← hi]
  rfl

/-- The only frame on its way has beats to come. -/
theorem Chan.dstRun_of_driving (hi : y.dst.issued = [i]) (hb : y.laneBeatAt x = some (cur, ended))
    (hdriving : ended < ((i.first y.dst.latched.fb + y.dst.latched.fb : Nat) : Int)) :
    (y.dstRun x).dst = { y.dst with issued := [y.dstMark cur i], driven := y.dst.driven.take drivenKept } := by
  have hfirst : (y.dstMark cur i).first y.dst.latched.fb = i.first y.dst.latched.fb := by unfold Chan.dstMark; split <;> rfl
  have hover : y.drivenBy ended (y.dstMark cur i) = false := by
    rw [Chan.drivenBy, hfirst, decide_eq_false (Int.not_le.2 hdriving), Bool.and_false]
  rw [Chan.dstRun_of_not_over hi hb hover]

theorem Dst.afterFrame_counts (d : Dst) (halt : Option Byte) : (d.afterFrame halt).issued = d.issued ∧
    (d.afterFrame halt).frames = d.frames ∧ (d.afterFrame halt).lostGap = d.lostGap ∧
    bit (d.afterFrame halt).events.bits DstEv.laneGap = bit d.events.bits DstEv.laneGap := by
  cases halt with
  | none => exact ⟨rfl, rfl, rfl, rfl⟩
  | some code =>
    dsimp only [Dst.afterFrame]
    split
    · exact ⟨rfl, rfl, rfl, bit_evSet_ne (by decide)⟩
    · exact ⟨rfl, rfl, rfl, rfl⟩

/-- Only a frame that halts it takes the Distaff out of its state, and only out of RUNNING. -/
theorem Dst.afterFrame_state (d : Dst) (halt : Option Byte) :
    (halt = none → (d.afterFrame halt).state = d.state ∧ (d.afterFrame halt).haltCode = d.haltCode) ∧
    ∀ code, halt = some code →
      (d.state = .running → (d.afterFrame halt).state = .halted ∧ (d.afterFrame halt).haltCode = code ∧
        bit (d.afterFrame halt).events.bits DstEv.halted = true) ∧
      (d.state ≠ .running → (d.afterFrame halt).state = d.state ∧ (d.afterFrame halt).haltCode = d.haltCode) := by
  refine ⟨fun hnone => ?_, fun code hcode => ⟨fun hrun => ?_, fun hrun => ?_⟩⟩
  · rw [hnone]
    exact ⟨rfl, rfl⟩
  · have hhalt : d.afterFrame halt = d.halt code := by rw [hcode]; exact if_pos hrun
    rw [hhalt]
    exact ⟨rfl, rfl, bit_evSet_self (by decide)⟩
  · have hkept : d.afterFrame halt = d := by rw [hcode]; exact if_neg hrun
    rw [hkept]
    exact ⟨rfl, rfl⟩

/-- A running Distaff that pauses goes back to the state before the first frame on its way (R229). -/
theorem Dst.paused_of_running {d : Dst} (hrun : d.state = .running) (hi : d.issued = [i]) :
    d.paused = { d with pauseAt := none, issued := [], plan := [], state := .paused, core := i.core, frame := i.index
                        fresh := i.fresh && !i.begun } := by
  unfold Dst.paused
  rw [if_pos hrun, hi]

/-- What a pause takes from a frame as the beat driven leaves it. -/
theorem Chan.dstMark_saved (cur : Int) (hbegun : i.begun = false) :
    (y.dstMark cur i).core = i.core ∧ (y.dstMark cur i).index = i.index ∧
    ((y.dstMark cur i).fresh && !(y.dstMark cur i).begun) = (i.fresh && decide (cur < (i.first y.dst.latched.fb : Int))) := by
  rcases Int.lt_or_le cur (i.first y.dst.latched.fb) with hahead | hcome
  · rw [Chan.dstMark_of_ahead hahead, hbegun, decide_eq_true hahead]
    exact ⟨rfl, rfl, rfl⟩
  · rw [Chan.dstMark_of_begun hcome, decide_eq_false (Int.not_lt.2 hcome)]
    exact ⟨rfl, rfl, rfl⟩

/-- At the boundary of a hold a running Distaff goes back to the frame that is not driven in full. -/
theorem Chan.dstReach_of_pause {b : Q16} (hi : y.dst.issued = [i]) (hhold : y.dst.pauseAt = some b) (hcome : b ≤ x)
    (hb : y.laneBeatAt b = some (cur, ended)) (hrun : y.dst.state = .running)
    (hdriving : ended < ((i.first y.dst.latched.fb + y.dst.latched.fb : Nat) : Int)) :
    (y.dstReach x).dst = { y.dst with
      driven := y.dst.driven.take drivenKept, pauseAt := none, issued := [], plan := [], state := .paused
      core := (y.dstMark cur i).core, frame := (y.dstMark cur i).index
      fresh := (y.dstMark cur i).fresh && !(y.dstMark cur i).begun } := by
  have hdst := Chan.dstRun_of_driving hi hb hdriving
  have hpaused : (y.dstRun b).dst.paused = _ := Dst.paused_of_running (by rw [hdst]; exact hrun) (by rw [hdst])
  rw [Chan.dstReach_of_hold hhold hcome, hpaused, hdst]

theorem laneFrames : Clause.LaneFrames := by
  refine ⟨fun y z x hz => by rw [hz]; rfl, fun y x b i cur ended hi => ⟨?_, ?_⟩⟩
  · rintro ⟨hhold, hb⟩
    rw [Chan.dstReach_of_no_hold hhold]
    refine ⟨fun hahead hbegun => Chan.dstRun_of_ahead hi hb hahead hbegun, fun hcome => ⟨fun hover => ?_, fun hdriving => ?_⟩⟩
    · have hmark := Chan.dstMark_of_begun hcome
      have hdone : y.drivenBy ended (y.dstMark cur i) = true := by
        rw [hmark, Chan.drivenBy]
        exact decide_eq_true hover
      obtain ⟨laneCut, shortCut, hdst⟩ := Chan.dstRun_of_over hi hb hdone
      obtain ⟨hissued, hframes, hlostGap, hgap⟩ := (y.dst.counted (y.dstMark cur i) laneCut shortCut).afterFrame_counts i.halt
      have hstate := (y.dst.counted (y.dstMark cur i) laneCut shortCut).afterFrame_state i.halt
      rw [hdst, hissued, hframes, hlostGap, hgap]
      refine ⟨rfl, fun hlost hgate => ?_, fun hlost => ?_, hstate⟩
      · have hkept : (y.dstMark cur i).lost = false := by simp [hmark, hlost, hgate]
        obtain ⟨hframes, hlostGap, hevents⟩ := y.dst.counted_of_kept laneCut shortCut hkept
        exact ⟨hframes, hlostGap, by rw [hevents]⟩
      · have hgone : (y.dstMark cur i).lost = true := by simpa [hmark] using hlost
        obtain ⟨hframes, hlostGap, hevents⟩ := y.dst.counted_of_lost laneCut shortCut hgone
        exact ⟨hframes, hlostGap, by rw [hevents]; exact bit_evSet_self (by decide)⟩
    · rw [Chan.dstRun_of_driving hi hb hdriving, Chan.dstMark_of_begun hcome]
      exact ⟨rfl, rfl, rfl, rfl⟩
  · rintro ⟨hhold, hcome, hb, hrun, hbegun, hdriving⟩
    obtain ⟨hcore, hindex, hfresh⟩ := Chan.dstMark_saved (y := y) cur hbegun
    rw [Chan.dstReach_of_pause hi hhold hcome hb hrun hdriving]
    exact ⟨rfl, rfl, rfl, rfl, hcore, hindex, hfresh⟩

end Sys2Proof.Machine
end

section
/-! GO and STOP of the Distaff, and the lane deskew loop (R226, R228, R236, R470). -/

namespace Sys2Proof.Machine

variable {t : Tbu} {c : ChanId} {s : State} {x : Chan} {d : Dst} {cyc : Nat}

/-! ### GO (R226) -/

theorem exec_go (h : s.windowUp = true) :
    exec (.go t c) s = .next ((s.atTime t).modCh c fun x => x.dstGo (s.atTime t).cycle 2) :=
  congrArg Host.Outcome.next (State.ifWindow_pos (s := s.atTime t) _ h)

/-- A start whose checks are clean, in a cycle without a STOP. -/
theorem Chan.dstStart_of_clean (pos : Word) (hcheck : x.dstCheck = 0) (hstop : x.dst.stopCycle ≠ some cyc) :
    x.dstStart cyc pos = { x with dst := { x.dst with
      state := .running, check := 0, runPos := pos, frame := 0, frames := 0, fresh := true, issued := [], driven := [], plan := []
      startCycle := some cyc, pcBefore := x.dst.pcIssued, lowFrom := none, core := x.dst.latched.initCore
      laneCut := { x.dst.laneCut with run := none }, shortCut := { x.dst.shortCut with run := none }
      events := evIf x.vecRateHigh (evSet x.dst.events DstEv.started) DstEv.vecRate } } := by
  unfold Chan.dstStart
  dsimp only
  rw [if_neg (not_not_intro hcheck), if_neg hstop]

theorem Chan.dstGo_of_awaited (hst : x.dst.state = .waiting) (hrun : x.mod.state = .run) (hsrc : x.dst.latched.startSrc = 2) :
    x.dstGo cyc 2 = x.dstStart cyc x.trk.nextFree := if_pos ⟨hst, hrun, hsrc⟩

theorem Chan.dstGo_of_other (h : ¬(x.dst.state = .waiting ∧ x.mod.state = .run ∧ x.dst.latched.startSrc = 2)) :
    x.dstGo cyc 2 = { x with dst := { x.dst with events := evSet x.dst.events DstEv.ignored } } := if_neg h

/-! ### STOP (R228) -/

theorem exec_dstStop (h : s.windowUp = true) : exec (.dstStop t c) s =
    .next ((s.atTime t).setCh c ((s.ch c).dstStop (s.atTime t).cycle)) :=
  congrArg Host.Outcome.next (State.ifWindow_pos (s := s.atTime t) _ h)

/-- What a STOP in fabric cycle `cyc` leaves of the frames to come: those due in it, or none where the run starts in it. -/
def Dst.stopFrames (d : Dst) (cyc : Nat) : Dst :=
  if d.startCycle = some cyc then d.unissued else { d with plan := d.plan.takeWhile fun x => decide (x < issueEnd cyc) }

theorem Dst.stop_of_started (h : d.state = .waiting ∨ d.state = .running ∨ d.state = .paused) (cyc : Nat) :
    d.stop cyc = ({ d.stopFrames cyc with stopCycle := some cyc } : Dst).halt 0x04 := by
  unfold Dst.stop
  dsimp only
  split
  next => rfl
  next => rfl
  next => rfl
  next hidle => simp [hidle] at h
  next hwait hrun hpause _ => exact (h.elim hwait fun h => h.elim hrun hpause).elim

theorem Dst.stop_of_idle (h : d.state = .idle) (cyc : Nat) : d.stop cyc = { d with stopCycle := some cyc } := by
  unfold Dst.stop
  rw [h]

theorem Dst.stop_of_over (h : d.state = .halted ∨ d.state = .refused) (cyc : Nat) : d.stop cyc = d := by
  unfold Dst.stop
  rcases h with h | h <;> rw [h]

theorem distaffGoAndStop : Clause.DistaffGoAndStop := by
  intro t c s hup
  rw [exec_go hup, exec_dstStop hup]
  refine ⟨fun hst hrun hsrc hcheck hstop => ⟨_, rfl, State.onlyChannel_modCh .., ?_⟩, fun hother =>
    congrArg Host.Outcome.next (State.modCh_congr (s := s.atTime t) (Chan.dstGo_of_other hother)), fun y hy => ?_⟩
  · rw [State.ch_modCh_self, State.ch_atTime, Chan.dstGo_of_awaited hst hrun hsrc, Chan.dstStart_of_clean _ hcheck hstop]
    refine ⟨rfl, ?_⟩
    exact (bit_evIf_ne (by decide)).trans (bit_evSet_self (by decide))
  · have hstop : (s.ch c).dstStop (s.atTime t).cycle = { y with dst := y.dst.stop (s.atTime t).cycle } := by rw [hy]; rfl
    rw [hstop]
    refine ⟨fun hst => ⟨fun hstart => ?_, fun hstart => ?_⟩, fun hidle => ?_, fun hover => ?_, fun ⟨hissued, hpause⟩ => ?_⟩
    · rw [Dst.stop_of_started hst, Dst.stopFrames, if_neg hstart]
      rfl
    · rw [Dst.stop_of_started hst, Dst.stopFrames, if_pos hstart]
      rfl
    · rw [Dst.stop_of_idle hidle]
    · rw [Dst.stop_of_over hover]
    · rw [hy, Chan.dstTo_quiet _ _ hissued hpause]

/-! ### The lane deskew loop (R236, R470) -/

/-- The Distaff with lane `lane` moved by `dir`, a step or none, at instant `now`. -/
def Dst.laneMoved (d : Dst) (lane : Fin 24) (dir : Int) (now : Tbu) : Dst :=
  { d with
    laneTrack := vput d.laneTrack lane (d.laneTrack[lane] + dir)
    trackAt := if dir = 0 then d.trackAt else vput d.trackAt lane (some now)
    trackStop := if decide ((d.laneTrack[lane] + dir).natAbs ≥ 256) then setBit d.trackStop lane.val else d.trackStop
    events := evIf (decide ((d.laneTrack[lane] + dir).natAbs ≥ 256)) d.events DstEv.trackLimit }

/-- The step of an interval with `early` and `late` transitions, where `free` says that the last one lies 1 µs back or more. -/
def deskewStep (free : Bool) (early late : Nat) : Int :=
  if free = false then 0 else if 3 * (early + late) ≤ 4 * early then 1 else if 3 * (early + late) ≤ 4 * late then -1 else 0

theorem deskewStep_ne_zero {early late : Nat} (h : 3 * (early + late) ≤ 4 * early ∨ 3 * (early + late) ≤ 4 * late) :
    deskewStep true early late ≠ 0 := by
  unfold deskewStep
  rcases h with hearly | hlate
  · simp [hearly]
  · split_ifs <;> simp_all

theorem Chan.deskew_of_on {lane : Fin 24} {early late : Nat} {now : Tbu} (hon : bit x.cal.loopCfg 0 = true) (hst : x.mod.state = .run)
    (hlane : bit x.dst.laneCfg[lane] 0 = true) (hstop : bit x.dst.trackStop lane.val = false) (hn : 64 ≤ early + late) :
    x.deskew lane early late now = { x with
      dst := x.dst.laneMoved lane (deskewStep (x.dst.trackAt[lane].all fun a => decide (a + us ≤ now)) early late) now } := by
  unfold Chan.deskew
  dsimp only
  rw [if_pos (by rw [hon, hst, hlane, hstop, decide_eq_true hn]; rfl)]
  cases hfree : x.dst.trackAt[lane].all fun a => decide (a + us ≤ now) <;> rfl

theorem Chan.deskew_of_off {lane : Fin 24} {early late : Nat} (now : Tbu)
    (h : bit x.cal.loopCfg 0 = false ∨ x.mod.state ≠ .run ∨ early + late < 64) : x.deskew lane early late now = x := by
  refine if_neg fun hall => ?_
  simp only [Bool.and_eq_true, beq_iff_eq, decide_eq_true_eq] at hall
  obtain ⟨⟨⟨⟨hon, hst⟩, -⟩, -⟩, hn⟩ := hall
  rcases h with hoff | hne | hlt
  · rw [hoff] at hon
    exact absurd hon (by decide)
  · exact hne hst
  · omega

theorem exec_laneDeskewInterval (lane : Fin 24) (early late : Nat) : exec (.laneDeskewInterval t c lane early late) s =
    .next ((s.atTime t).modCh c fun x => x.deskew lane early late (max s.now t)) := rfl

theorem Dst.laneMoved_other (d : Dst) {lane l : Fin 24} (h : l ≠ lane) (dir : Int) (now : Tbu) :
    (d.laneMoved lane dir now).laneTrack[l] = d.laneTrack[l] ∧ (d.laneMoved lane dir now).trackAt[l] = d.trackAt[l] := by
  refine ⟨vput_get_ne _ _ h, ?_⟩
  unfold Dst.laneMoved
  dsimp only
  split
  · rfl
  · exact vput_get_ne _ _ h

theorem Dst.laneMoved_of_limit (d : Dst) {lane : Fin 24} {dir : Int} {now : Tbu} (h : 256 ≤ (d.laneTrack[lane] + dir).natAbs) :
    (d.laneMoved lane dir now).trackStop = setBit d.trackStop lane.val ∧
    (d.laneMoved lane dir now).events = evSet d.events DstEv.trackLimit := by
  simp only [Dst.laneMoved, decide_eq_true h, evIf]
  exact ⟨rfl, rfl⟩

theorem laneDeskew : Clause.LaneDeskew := by
  intro t c lane early late s
  rw [exec_laneDeskewInterval]
  refine ⟨fun free hfree hon hst hlane hstop hn => ⟨_, rfl, State.onlyChannel_modCh .., ?_⟩, fun hoff =>
    congrArg Host.Outcome.next (State.modCh_fixed (s := s.atTime t) (Chan.deskew_of_off _ hoff))⟩
  rw [State.ch_modCh_self, State.ch_atTime, Chan.deskew_of_on hon hst hlane hstop hn, ← hfree]
  dsimp only
  generalize (s.ch c).dst = d
  have htrack : (d.laneMoved lane (deskewStep free early late) (max s.now t)).laneTrack[lane] =
      d.laneTrack[lane] + deskewStep free early late := vput_get_self ..
  rw [htrack]
  refine ⟨rfl, fun l hne => d.laneMoved_other hne _ _, rfl, fun hyes hmaj => ?_, fun hlim => ?_⟩
  · have hstep : deskewStep free early late ≠ 0 := by rw [hyes]; exact deskewStep_ne_zero hmaj
    simp only [Dst.laneMoved, if_neg hstep]
    exact vput_get_self ..
  · obtain ⟨hstop, hevents⟩ := d.laneMoved_of_limit (now := max s.now t) hlim
    rw [hstop, hevents]
    exact ⟨by simp [bit_setBit], bit_evSet_self (by decide)⟩

/-- Settles O36: the start and the stop of a run, the frames on their way to the lanes, and the interval of the deskew loop. -/
theorem distaffAndDeskew : Obligations.DistaffAndDeskew := ⟨distaffGoAndStop, laneFrames, laneDeskew⟩

end Sys2Proof.Machine
end

section
/-! SUPPORT. What an instruction of the microcode does to its core, and where it goes on (R210 to R220). -/

namespace Sys2Proof.Machine

variable {k w : DstCore} {im : ChImage} {l : DstSet} {ins : Word} {hit : Bool} {cyc : Nat}

/-! ### What the work of an instruction leaves alone -/

theorem DstCore.consume_eq (k : DstCore) (ins : Word) (hit : Bool) (cyc : Nat) :
    k.consume ins hit cyc = { k with cond := (k.consume ins hit cyc).cond } := by
  unfold DstCore.consume
  split <;> rfl

theorem DstCore.vecStep_eq (k : DstCore) (im : ChImage) (l : DstSet) (vrst : Bool) :
    k.vecStep im l vrst = { k with vecPos := (k.vecStep im l vrst).vecPos, vecEnded := (k.vecStep im l vrst).vecEnded } := by
  unfold DstCore.vecStep
  (repeat' split) <;> rfl

/-- The core with the generators as the instruction leaves them: they stand in a HALT, and in a WAIT that stays (R217). -/
def coreStepped (k : DstCore) (l : DstSet) (ins : Word) (hit : Bool) : DstCore :=
  if fld ins 60 4 = 7 then (if hit then k.withGens (genStep l k ins) else k)
  else if fld ins 60 4 = 9 then k else k.withGens (genStep l k ins)

theorem coreStepped_keeps (k : DstCore) (l : DstSet) (ins : Word) (hit : Bool) : (coreStepped k l ins hit).pc = k.pc ∧
    (coreStepped k l ins hit).stack = k.stack ∧ (coreStepped k l ins hit).cnt = k.cnt := by
  unfold coreStepped
  (repeat' split) <;> exact ⟨rfl, rfl, rfl⟩

theorem coreWorked_eq (k : DstCore) (im : ChImage) (l : DstSet) (ins : Word) (hit : Bool) (cyc : Nat) :
    coreWorked k im l ins hit cyc = (({ coreStepped k l ins hit with dreg := (emitFrame im l k ins).2 } :
      DstCore).consume ins hit cyc).vecStep im l (bit ins 13) := rfl

/-- The flow of an instruction is not its work's. -/
theorem coreWorked_keeps (k : DstCore) (im : ChImage) (l : DstSet) (ins : Word) (hit : Bool) (cyc : Nat) :
    (coreWorked k im l ins hit cyc).pc = k.pc ∧ (coreWorked k im l ins hit cyc).stack = k.stack ∧
    (coreWorked k im l ins hit cyc).cnt = k.cnt := by
  obtain ⟨hpc, hstack, hcnt⟩ := coreStepped_keeps k l ins hit
  rw [coreWorked_eq, DstCore.vecStep_eq, DstCore.consume_eq]
  exact ⟨hpc, hstack, hcnt⟩

/-! ### The flow (R217) -/

/-- Where an instruction at PC `pc` goes on from the core `w`, and the code with which it halts the Distaff. -/
def DstCore.flow (w : DstCore) (pc : BitVec 12) (l : DstSet) (ins : Word) (hit : Bool) : DstCore × Option Byte :=
  match fld ins 60 4 with
  | 0 => ({ w with pc := pc + 1 }, none)
  | 1 => ({ w with pc := BitVec.ofNat 12 (fld ins 48 12) }, none)
  | 2 =>
    if vget w.cnt (fld ins 46 2) 0 - 1 ≠ 0 then
      ({ w with cnt := vputN w.cnt (fld ins 46 2) (vget w.cnt (fld ins 46 2) 0 - 1), pc := BitVec.ofNat 12 (fld ins 48 12) }, none)
    else ({ w with cnt := vputN w.cnt (fld ins 46 2) (l.preset (fld ins 46 2)), pc := pc + 1 }, none)
  | 3 => ({ w with pc := if hit then BitVec.ofNat 12 (fld ins 48 12) else pc + 1 }, none)
  | 4 => ({ w with pc := if hit then pc + 1 else BitVec.ofNat 12 (fld ins 48 12) }, none)
  | 5 =>
    if w.stack.length < 4 then ({ w with stack := (pc + 1) :: w.stack, pc := BitVec.ofNat 12 (fld ins 48 12) }, none)
    else (w, some 0x02)
  | 6 => match w.stack with
    | p :: r => ({ w with stack := r, pc := p }, none)
    | [] => (w, some 0x03)
  | 7 => ({ w with pc := if hit then pc + 1 else pc }, none)
  | 8 => ({ w with pc := if hit then pc + 1 else pc }, none)
  | _ => (w, some 0x01)

/-- An execution works on the core, and then goes on. -/
theorem DstCore.execute_eq (hins : ins = im.mcode k.pc.toNat) (hhit : hit = condHolds ins (genStep l k ins) (k.vend im l) k cyc)
    (hw : w = coreWorked k im l ins hit cyc) :
    (k.execute im l cyc).frame = (emitFrame im l k ins).1 ∧
    (k.execute im l cyc).core = (w.flow k.pc l ins hit).1 ∧ (k.execute im l cyc).halt = (w.flow k.pc l ins hit).2 := by
  have hgens : (if (if fld ins 60 4 = 7 then hit else fld ins 60 4 != 9) = true then k.withGens (genStep l k ins) else k) =
      coreStepped k l ins hit := by
    unfold coreStepped
    by_cases h7 : fld ins 60 4 = 7
    · rw [if_pos h7, if_pos h7]
    · by_cases h9 : fld ins 60 4 = 9 <;> simp [h7, h9]
  rw [coreWorked_eq, ← hgens] at hw
  subst hins hhit
  rw [hw]
  exact ⟨rfl, rfl, rfl⟩

/-! ### The forms of the flow (R217, R220) -/

theorem vget_val {α : Type} {n : Nat} (v : Vector α n) (i : Fin n) (d : α) : vget v i.val d = v[i] := dif_pos i.isLt

theorem vputN_val {α : Type} {n : Nat} (v : Vector α n) (i : Fin n) (a : α) : vputN v i.val a = vput v i a := dif_pos i.isLt

section
variable {pc : BitVec 12}

theorem DstCore.flow_next (h : fld ins 60 4 = 0) : w.flow pc l ins hit = ({ w with pc := pc + 1 }, none) := by
  simp only [DstCore.flow, h]

theorem DstCore.flow_jump (h : fld ins 60 4 = 1) :
    w.flow pc l ins hit = ({ w with pc := BitVec.ofNat 12 (fld ins 48 12) }, none) := by
  simp only [DstCore.flow, h]

/-- A counter that has not run out counts down. -/
theorem DstCore.flow_loop_on {n : Fin 4} (h : fld ins 60 4 = 2) (hn : fld ins 46 2 = n.val) (hcnt : w.cnt[n] ≠ 1) :
    w.flow pc l ins hit =
      ({ w with pc := BitVec.ofNat 12 (fld ins 48 12), cnt := vput w.cnt n (w.cnt[n] - 1) }, none) := by
  simp only [DstCore.flow, h]
  rw [hn, vget_val, vputN_val, if_pos (sub_ne_zero.2 hcnt)]

/-- A counter that has run out is reloaded. -/
theorem DstCore.flow_loop_over {n : Fin 4} (h : fld ins 60 4 = 2) (hn : fld ins 46 2 = n.val) (hcnt : w.cnt[n] = 1) :
    w.flow pc l ins hit = ({ w with pc := pc + 1, cnt := vput w.cnt n (l.preset n) }, none) := by
  simp only [DstCore.flow, h]
  rw [hn, vget_val, if_neg (not_not_intro (sub_eq_zero.2 hcnt)), vputN_val]

theorem DstCore.flow_jif (h : fld ins 60 4 = 3) :
    w.flow pc l ins hit = ({ w with pc := if hit then BitVec.ofNat 12 (fld ins 48 12) else pc + 1 }, none) := by
  simp only [DstCore.flow, h]

theorem DstCore.flow_jnif (h : fld ins 60 4 = 4) :
    w.flow pc l ins hit = ({ w with pc := if hit then pc + 1 else BitVec.ofNat 12 (fld ins 48 12) }, none) := by
  simp only [DstCore.flow, h]

theorem DstCore.flow_call (h : fld ins 60 4 = 5) (hroom : w.stack.length < 4) :
    w.flow pc l ins hit = ({ w with pc := BitVec.ofNat 12 (fld ins 48 12), stack := (pc + 1) :: w.stack }, none) := by
  simp only [DstCore.flow, h]
  exact if_pos hroom

theorem DstCore.flow_call_full (h : fld ins 60 4 = 5) (hfull : 4 ≤ w.stack.length) : w.flow pc l ins hit = (w, some 0x02) := by
  simp only [DstCore.flow, h]
  exact if_neg (Nat.not_lt.2 hfull)

theorem DstCore.flow_ret {p : BitVec 12} {r : List (BitVec 12)} (h : fld ins 60 4 = 6) (hstack : w.stack = p :: r) :
    w.flow pc l ins hit = ({ w with pc := p, stack := r }, none) := by
  simp only [DstCore.flow, h]
  rw [hstack]

theorem DstCore.flow_ret_empty (h : fld ins 60 4 = 6) (hstack : w.stack = []) : w.flow pc l ins hit = (w, some 0x03) := by
  simp only [DstCore.flow, h]
  rw [hstack]

theorem DstCore.flow_wait (h : fld ins 60 4 = 7 ∨ fld ins 60 4 = 8) :
    w.flow pc l ins hit = ({ w with pc := if hit then pc + 1 else pc }, none) := by
  rcases h with h | h <;> simp only [DstCore.flow, h]

theorem DstCore.flow_halt (h : fld ins 60 4 = 9) : w.flow pc l ins hit = (w, some 0x01) := by
  simp only [DstCore.flow, h]

end

end Sys2Proof.Machine
end

section
/-! The next frame is issued, with its data and its events (R217, R223, R225, R227, R234, R351, R384). -/

namespace Sys2Proof.Machine

variable {t : Tbu} {c : ChanId} {s : State} {y : Chan} {cyc : Nat} {now : Tbu} {ready : Bool}

/-! ### The lanes' coming to a cycle -/

theorem Chan.dstTo_eq (x : Chan) (a : Q16) : x.dstTo a = { x with dst := (x.dstTo a).dst, jnc := (x.dstTo a).jnc } := by
  obtain ⟨hmod, htlh, htrk, hskn, hseq, hply, hana, hsyn, htdc, hmem, hstq, hcal, hdof, hflt⟩ := x.dstTo_keeps a
  rw [← hmod, ← htlh, ← htrk, ← hskn, ← hseq, ← hply, ← hana, ← hsyn, ← htdc, ← hmem, ← hstq, ← hcal, ← hdof, ← hflt]

/-! ### Stream data (R223, R225, R351, R384) -/

/-- The channel with what the reading of the stream data leaves of its memory: a vector read from the cache is flagged, and
creel-direct reads are requested. -/
def Chan.streamed (y : Chan) (now : Tbu) (ready : Bool) : Chan := (y.vecNote ready).vecDirect now

theorem Mem.enqueue_foldl (l : List Nat) (m : Mem) (p : Fin 4) (use : ReqUse) (now : Tbu) :
    ∃ reqs, l.foldl (fun m a => m.enqueue p use a now) m = { m with reqs := reqs } := by
  induction l generalizing m with
  | nil => exact ⟨m.reqs, rfl⟩
  | cons a l ih => exact ih (m.enqueue p use a now)

theorem Chan.streamed_eq (y : Chan) (now : Tbu) (ready : Bool) : ∃ reqs, (y.mem.degraded = false → reqs = y.mem.reqs) ∧
    y.streamed now ready = { y with mem := { y.mem with
      events := evIf (!y.vecLate ready && y.vecInCache) y.mem.events MemEv.vecCache, reqs := reqs } } := by
  unfold Chan.streamed Chan.vecDirect
  split
  next hdirect =>
    obtain ⟨reqs, hreqs⟩ := Mem.enqueue_foldl (y.vecNote ready).vecBursts (y.vecNote ready).mem 0 .direct now
    refine ⟨reqs, fun hgood => ?_, by rw [hreqs]; rfl⟩
    have hdegraded : y.mem.degraded = true := (Bool.and_eq_true_iff.1 hdirect).1
    rw [hgood] at hdegraded
    exact absurd hdegraded (by decide)
  next => exact ⟨y.mem.reqs, fun _ => rfl, rfl⟩

/-! ### What a frame publishes (R234) -/

theorem mem_frameEvs (fresh vend under : Bool) (ins : Word) :
    (Prod.frame0 ∈ frameEvs fresh vend under ins ↔ fresh = true) ∧ (Prod.ev0 ∈ frameEvs fresh vend under ins ↔ bit ins 14 = true) ∧
    (Prod.ev1 ∈ frameEvs fresh vend under ins ↔ bit ins 15 = true) ∧ (Prod.vecEnd ∈ frameEvs fresh vend under ins ↔ vend = true) ∧
    (Prod.vecUnder ∈ frameEvs fresh vend under ins ↔ under = true) := by
  unfold frameEvs
  generalize bit ins 14 = e0, bit ins 15 = e1
  revert fresh e0 e1 vend under
  decide

/-! ### The frame (R217, R227) -/

/-- The frame that is issued in fabric cycle `cyc`. -/
def Chan.frameIssued (y : Chan) (cyc : Nat) (ready : Bool) : Issued :=
  { index := y.dst.frame, core := y.dst.core, fresh := y.dst.fresh
    frame := (y.dst.core.execute y.skn.image y.dst.latched cyc).frame
    vec := if y.vecLate ready then [] else y.vecFrame, memBeats := if y.vecLate ready then 0 else y.dst.vecCount
    short := y.vecLate ready && y.mem.bobLostAt.isSome
    evs := frameEvs y.dst.fresh (y.dst.core.execute y.skn.image y.dst.latched cyc).vend (y.vecLate ready)
      (y.skn.image.mcode y.dst.core.pc.toNat)
    halt := (y.dst.core.execute y.skn.image y.dst.latched cyc).halt }

/-- The Distaff once it is issued. -/
def Chan.dstIssued (y : Chan) (cyc : Nat) (ready : Bool) : Dst :=
  { y.dst with
    core := (y.dst.core.execute y.skn.image y.dst.latched cyc).core, pcIssued := y.dst.core.pc, frame := y.dst.frame + 1
    plan := y.dst.plan.tail, fresh := false, under := if y.vecLate ready then satInc y.dst.under else y.dst.under
    issued := y.dst.issued ++ [y.frameIssued cyc ready]
    events := evIf (y.vecLate ready) (if (y.dst.core.execute y.skn.image y.dst.latched cyc).alone then
      y.dst.events.drop DstEv.coalesced else y.dst.events) DstEv.vecUnder }

/-- What the reading of the stream data leaves of the memory is none of the frame's. -/
theorem Chan.streamed_issueFrame (y : Chan) (cyc : Nat) (now : Tbu) (ready : Bool) :
    (y.streamed now ready).issueFrame cyc ready = { y.streamed now ready with dst := y.dstIssued cyc ready } := by
  obtain ⟨reqs, -, hstreamed⟩ := y.streamed_eq now ready
  rw [hstreamed]
  rfl

theorem exec_frameIssue (hy : y = (s.ch c).dstTo (q16 ((s.atTime t).cycle * 1024))) :
    exec (.frameIssue t c ready) s = .next ((s.atTime t).modCh c fun _ =>
      if y.frameReady (s.atTime t).cycle then (y.streamed (s.atTime t).now ready).issueFrame (s.atTime t).cycle ready else y) := by
  rw [hy]
  rfl

theorem exec_frameIssue_of_ready (hy : y = (s.ch c).dstTo (q16 ((s.atTime t).cycle * 1024)))
    (hready : y.frameReady (s.atTime t).cycle = true) :
    exec (.frameIssue t c ready) s = .next ((s.atTime t).modCh c fun _ =>
      { y.streamed (s.atTime t).now ready with dst := y.dstIssued (s.atTime t).cycle ready }) := by
  rw [exec_frameIssue hy, if_pos hready, Chan.streamed_issueFrame]

theorem frameFlow : Clause.FrameFlow := by
  intro t c ready s y k ins hit w hy hready hk hins hhit hw
  have hskn : (s.ch c).skn = y.skn := by rw [hy]; simp
  refine ⟨_, y.frameIssued (s.atTime t).cycle ready, exec_frameIssue_of_ready hy hready, ?_⟩
  rw [State.ch_modCh_self]
  dsimp only [Chan.dstIssued, Chan.frameIssued]
  rw [hskn] at hins hhit hw ⊢
  rw [← hk]
  obtain ⟨hframe, hcore, hhalt⟩ := DstCore.execute_eq hins hhit hw
  obtain ⟨-, hstack, hcnt⟩ := coreWorked_keeps k y.skn.image y.dst.latched ins hit (s.atTime t).cycle
  rw [← hw] at hstack hcnt
  rw [hcore, hhalt, ← hstack, ← hcnt]
  refine ⟨rfl, rfl, rfl, rfl, rfl, rfl, rfl, rfl, hframe, fun h => ?_, fun h => ?_, fun n h hn => ?_, fun h => ?_, fun h => ?_,
    fun h hroom => ?_, fun h hfull => ?_, fun p r h hst => ?_, fun h hst => ?_, fun h => ?_, fun h => ?_⟩
  · simp [DstCore.flow_next h]
  · simp [DstCore.flow_jump h]
  · by_cases hone : w.cnt[n] = 1
    · rw [DstCore.flow_loop_over h hn hone]
      exact ⟨rfl, fun hne => absurd hone hne, fun _ => rfl⟩
    · rw [DstCore.flow_loop_on h hn hone]
      exact ⟨rfl, fun _ => rfl, fun heq => absurd heq hone⟩
  · simp [DstCore.flow_jif h]
  · simp [DstCore.flow_jnif h]
  · simp [DstCore.flow_call h hroom]
  · simp [DstCore.flow_call_full h hfull]
  · simp [DstCore.flow_ret h hst]
  · simp [DstCore.flow_ret_empty h hst]
  · simp [DstCore.flow_wait h]
  · simp [DstCore.flow_halt h]

theorem frameData : Clause.FrameData := by
  intro t c ready s y hy
  have hskn : (s.ch c).skn = y.skn := by rw [hy]; simp
  have hmem : (s.ch c).mem = y.mem := by rw [hy]; simp
  have hchan : y = { s.ch c with dst := y.dst, jnc := y.jnc } := by rw [hy]; exact Chan.dstTo_eq ..
  refine ⟨fun hidle => ?_, fun hready => ?_⟩
  · rw [exec_frameIssue hy, hidle]
    rfl
  refine ⟨_, y.frameIssued (s.atTime t).cycle ready, exec_frameIssue_of_ready hy hready, State.onlyChannel_modCh .., ?_⟩
  rw [State.ch_modCh_self]
  dsimp only [Chan.dstIssued]
  obtain ⟨reqs, hreqs, hstreamed⟩ := y.streamed_eq (s.atTime t).now ready
  obtain ⟨hframe0, hev0, hev1, hvecEnd, hvecUnder⟩ := mem_frameEvs y.dst.fresh (y.dst.core.vend y.skn.image y.dst.latched)
    (y.vecLate ready) (y.skn.image.mcode y.dst.core.pc.toNat)
  rw [hstreamed, hskn, hmem]
  refine ⟨by rw [hchan], hreqs, rfl, rfl, rfl, rfl, hframe0, hev0, hev1, hvecEnd, hvecUnder,
    fun hlanes hgoing hstore hnot hshort => ?_, fun hhead => ?_, fun hcache hintime => ?_⟩
  · have hlate : y.vecLate ready = true := by simp [Chan.vecLate, hlanes, hgoing, hstore, hnot, hshort]
    rw [hlate]
    exact ⟨rfl, (bit_evIf true _ (by decide)).trans (Bool.or_true _), rfl⟩
  · have hintime : y.vecLate ready = false := by simp [Chan.vecLate, hhead]
    rw [hintime]
    rfl
  · rw [hcache, hintime]
    exact (bit_evIf true _ (by decide)).trans (Bool.or_true _)

/-- Settles O35: an execution works on the core and then goes on by its form; the stream data it reads leave the Distaff alone. -/
theorem frameIssue : Obligations.FrameIssue := ⟨frameFlow, frameData⟩

end Sys2Proof.Machine
end

section
/-! The range of WAV: writes of RANGE, and the sequence that changes it (R97, R241 to R243). -/

namespace Sys2Proof.Machine

variable {t : Tbu} {c : ChanId} {s : State} {x : Chan} {v : Word} {now a : Tbu}

/-! ### Channel windows, locks and fields of two bits -/

/-- No HOLDUP is in progress while the channel windows answer (R103). -/
theorem State.mode_ne_holdup (h : s.windowUp = true) : s.mod.mode ≠ .holdup := by
  intro hm
  simp [State.windowUp, State.working, hm] at h

theorem fld_and_three (v : Word) : fld (v &&& 3) 0 2 = fld v 0 2 := by
  have hand : (v &&& 3).toNat = v.toNat % 2 ^ 2 := Nat.and_two_pow_sub_one_eq_mod v.toNat 2
  rw [fld, fld, hand]
  omega

/-- A write back of a channel as it stands changes nothing. -/
theorem State.setCh_ch (s : State) (c : ChanId) : s.setCh c (s.ch c) = s := State.modCh_id s c

theorem Chan.locked_of_unset {g : Nat} (h : bit x.skn.locks g = false) : x.locked g = false := by
  rw [Chan.locked, h, Bool.and_false]

/-! ### Changes that wait for an instant -/

/-- A change of a channel whose instant has come. -/
theorem State.modCh_due (o : Chan → Option Tbu) {f : Chan → Chan} {k : Nat} (h : o (s.ch c) = some a) (hdue : a + k ≤ s.now) :
    (s.modCh c fun x => if (o x).any fun a => decide (a + k ≤ s.now) then f x else x) = s.modCh c f :=
  State.modCh_congr (if_pos (any_due h _ _ hdue))

/-- A change of a channel whose instant has not come. -/
theorem State.modCh_early (o : Chan → Option Tbu) {f : Chan → Chan} {k : Nat} (h : o (s.ch c) = some a) (hearly : s.now < a + k) :
    (s.modCh c fun x => if (o x).any fun a => decide (a + k ≤ s.now) then f x else x) = s :=
  (State.modCh_congr (g := id) (if_neg (any_not_due h _ _ hearly))).trans (State.modCh_id s c)

/-! ### A write of RANGE (R241 to R243) -/

/-- RANGE may change a CONFIGURED channel's range at once in REST, ARMED, RUN and HELD (R241). -/
theorem Chan.rangeState_of_mem (hc : x.configured = true) (h : x.mod.state ∈ [ChState.rest, .armed, .run, .held]) :
    x.rangeState = true := by
  simpa [Chan.rangeState, hc, or_assoc] using h

theorem Chan.rangeState_of_trim_or_drain (h : x.mod.state = .trim ∨ x.mod.state = .drain) : x.rangeState = false := by
  rcases h with h | h <;> simp [Chan.rangeState, h]

theorem Chan.rangeWrite_same (free : Bool) (h : fld v 0 2 = fld x.ana.wavCfg 0 2) : x.rangeWrite now free v = x := if_pos h

/-- A write that changes RANGE of a CONFIGURED channel. -/
theorem Chan.rangeWrite_new (hne : fld v 0 2 ≠ fld x.ana.wavCfg 0 2) (hc : x.configured = true) :
    x.rangeWrite now true v = if x.ana.rangeAt.isNone && x.rangeState then
      { x with ana := ({ x.ana with wavCfg := v &&& 3 } : Ana).rangeStart now }
    else { x with ana := { x.ana with wavCfg := v &&& 3, rangeHeld := !x.rangeState } } := by
  unfold Chan.rangeWrite
  dsimp only
  rw [if_neg hne, if_neg (by simp [hc]), Bool.and_true]
  rfl

theorem Chan.rangeWrite_starts (hne : fld v 0 2 ≠ fld x.ana.wavCfg 0 2) (hc : x.configured = true) (hopen : x.rangeState = true)
    (hidle : x.ana.rangeAt = none) : x.rangeWrite now true v = { x with ana := { x.ana with
      wavCfg := v &&& 3, rangeAt := some now, rangeHeld := false
      rangeTo := if fld v 0 2 = 3 then 0 else BitVec.ofNat 2 (fld v 0 2) } } := by
  rw [Chan.rangeWrite_new hne hc, hidle, hopen]
  simp only [Option.isNone_none, Bool.and_true, if_true, Ana.rangeStart, rangeOf, fld_and_three]

theorem Chan.rangeWrite_follows (hne : fld v 0 2 ≠ fld x.ana.wavCfg 0 2) (hc : x.configured = true) (hopen : x.rangeState = true)
    (hruns : x.ana.rangeAt.isSome = true) :
    x.rangeWrite now true v = { x with ana := { x.ana with wavCfg := v &&& 3, rangeHeld := false } } := by
  obtain ⟨b, hb⟩ := Option.isSome_iff_exists.1 hruns
  rw [Chan.rangeWrite_new hne hc, hb, hopen]
  rfl

theorem Chan.rangeWrite_held (hne : fld v 0 2 ≠ fld x.ana.wavCfg 0 2) (hc : x.configured = true) (hclosed : x.rangeState = false) :
    x.rangeWrite now true v = { x with ana := { x.ana with wavCfg := v &&& 3, rangeHeld := true } } := by
  rw [Chan.rangeWrite_new hne hc, hclosed, Bool.and_false]
  rfl

/-! ### RANGE_WRITE (R97, R241) -/

theorem exec_rangeWrite (hw : s.windowUp = true) : exec (.rangeWrite t c v) s = .next ((s.atTime t).rangeWrite c v).1 :=
  congrArg Host.Outcome.next (State.ifWindow_pos (s := s.atTime t) _ hw)

theorem exec_rangeWrite_locked (hw : s.windowUp = true) (hne : fld v 0 2 ≠ fld (s.ch c).ana.wavCfg 0 2)
    (hl : (s.ch c).locked 0 = true) : exec (.rangeWrite t c v) s = .next (s.atTime t) := by
  rw [exec_rangeWrite hw, State.rangeWrite, State.ch_atTime, if_pos (by simp [hl, hne])]

/-- A write of RANGE that the lock lets through. -/
theorem exec_rangeWrite_unlocked {y : Chan} (hw : s.windowUp = true)
    (hfree : (s.ch c).locked 0 = false ∨ fld v 0 2 = fld (s.ch c).ana.wavCfg 0 2)
    (hy : (s.ch c).rangeWrite (max s.now t) true v = y) : exec (.rangeWrite t c v) s = .next ((s.atTime t).setCh c y) := by
  have hholdup : ((s.atTime t).mod.mode != .holdup) = true := bne_iff_ne.2 (State.mode_ne_holdup (s := s) hw)
  rw [exec_rangeWrite hw, State.rangeWrite, State.ch_atTime, if_neg (by rcases hfree with h | h <;> simp [h]), hholdup]
  exact congrArg (fun y => Host.Outcome.next ((s.atTime t).setCh c y)) hy

/-! ### RANGE_SWITCH and RANGE_DONE (R241, R243) -/

theorem exec_rangeSwitch_due (h : (s.ch c).ana.rangeAt = some a) (hdue : a + 2 * us ≤ max s.now t) :
    exec (.rangeSwitch t c) s = .next ((s.atTime t).modCh c fun x => { x with ana := { x.ana with rangeNow := x.ana.rangeTo } }) :=
  congrArg Host.Outcome.next (State.modCh_due (s := s.atTime t) (·.ana.rangeAt) h hdue)

theorem exec_rangeSwitch_early (h : (s.ch c).ana.rangeAt = some a) (hearly : max s.now t < a + 2 * us) :
    exec (.rangeSwitch t c) s = .next (s.atTime t) :=
  congrArg Host.Outcome.next (State.modCh_early (s := s.atTime t) (·.ana.rangeAt) h hearly)

/-- The ANA block of a channel whose range change is complete at instant `now`. -/
def Ana.rangeEnded (a : Ana) (now : Tbu) : Ana :=
  { a with rangeAt := none, rangeNow := a.rangeTo, settledWav := now, events := evSet a.events AnaEv.rangeDone }

/-- The next sequence after a change that waits for nothing. -/
theorem Ana.rangeStart_of_not_held {b : Ana} (h : b.rangeHeld = false) (at' : Tbu) :
    b.rangeStart at' = { b with rangeAt := some at', rangeTo := rangeOf b.wavCfg } := by
  rw [Ana.rangeStart, ← h]

/-- The completion, published; a RANGE that differs follows one cycle later unless it waits for REST. -/
theorem exec_rangeDone_due (h : (s.ch c).ana.rangeAt = some a) (hdue : a + 5 * us ≤ max s.now t) :
    ∃ j, exec (.rangeDone t c) s = .next ((s.atTime t).modCh c fun x =>
      if x.configured && !x.ana.rangeHeld && rangeOf x.ana.wavCfg != x.ana.rangeTo then
        { x with jnc := j, ana := (x.ana.rangeEnded (max s.now t)).rangeStart (max s.now t + cycleTbu) }
      else { x with jnc := j, ana := x.ana.rangeEnded (max s.now t) }) := by
  refine ⟨(({ s.ch c with ana := (s.ch c).ana.rangeEnded (max s.now t) } : Chan).publish (s.atTime t).cycle Prod.rangeDone).jnc,
    congrArg Host.Outcome.next ((State.modCh_due (s := s.atTime t) (·.ana.rangeAt) h hdue).trans (State.modCh_congr ?_))⟩
  dsimp only
  rw [Chan.publish_eq]
  rfl

theorem rangeChange : Clause.RangeChange := by
  refine ⟨fun t c v s hw => ⟨fun hne hc hl hst => ?_, fun hne hc hl hst => ?_, fun hne hc hl => ?_, fun heq => ?_⟩,
    fun t c s a ha => ⟨exec_rangeSwitch_due ha, exec_rangeSwitch_early ha⟩, fun t c s a ha hdue => ?_⟩
  · have hfree := Chan.locked_of_unset hl
    have hopen := Chan.rangeState_of_mem hc hst
    exact ⟨fun hidle => exec_rangeWrite_unlocked hw (.inl hfree) (Chan.rangeWrite_starts hne hc hopen hidle),
      fun hruns => exec_rangeWrite_unlocked hw (.inl hfree) (Chan.rangeWrite_follows hne hc hopen hruns)⟩
  · exact exec_rangeWrite_unlocked hw (.inl (Chan.locked_of_unset hl)) (Chan.rangeWrite_held hne hc (Chan.rangeState_of_trim_or_drain hst))
  · exact exec_rangeWrite_locked hw hne (by rw [Chan.locked, hc, hl]; rfl)
  · rw [exec_rangeWrite_unlocked hw (.inr heq) (Chan.rangeWrite_same _ heq)]
    exact congrArg _ (State.setCh_ch (s.atTime t) c)
  · obtain ⟨j, hex⟩ := exec_rangeDone_due ha hdue
    refine ⟨fun hstays => ⟨_, hex, State.onlyChannel_modCh .., ?_⟩, fun hnew hheld hc => ⟨_, hex, State.onlyChannel_modCh .., ?_⟩⟩
    · rw [State.ch_modCh_self, State.ch_atTime, if_neg (by rcases hstays with h | h <;> simp [h])]
      rfl
    · rw [State.ch_modCh_self, State.ch_atTime, if_pos (by simp [hnew, hheld, hc]), Ana.rangeStart_of_not_held (by exact hheld)]
      rfl

end Sys2Proof.Machine
end

section
/-! The output switches close, a DISABLE sequence ends, and the zero clamp engages (R239, R240, R257, R259). -/

namespace Sys2Proof.Machine

variable {t : Tbu} {c : ChanId} {s : State} {x : Chan} {now a : Tbu}

/-! ### SWITCHES_CLOSED (R257) -/

theorem Ana.closeSwitches_closedAt (b : Ana) (now : Tbu) (i : Fin 5) :
    (b.closeSwitches now).closedAt[i] = if bit b.closing i.val then now else b.closedAt[i] := by
  fin_cases i <;> rfl

theorem exec_switchesClosed (h : (s.ch c).ana.closing ≠ 0) :
    exec (.switchesClosed t c) s = .next ((s.atTime t).modCh c fun x => { x with ana := x.ana.closeSwitches (max s.now t) }) :=
  congrArg Host.Outcome.next (State.modCh_congr (s := s.atTime t) (if_pos h))

/-! ### DISABLE_SEQUENCE_END (R259) -/

theorem Chan.disableEnd_of_not_pending (now : Tbu) (h : x.ana.enPend = false) : x.disableEnd now =
    { x with
      mod := { x.mod with outEn := false }
      ana := { x.ana with sw := 0, closing := 0, term := true, disableAt := none, enPend := false, settled := now
                          now := x.skn.image.restWord, ramp := none } } := by
  unfold Chan.disableEnd
  rw [h]
  rfl

/-- An ENABLE executed while every switch is open tells those of its MASK to close (R256). -/
theorem Chan.enableExec_of_open (hsw : x.ana.sw = 0) (hterm : x.ana.term = true) : x.enableExec =
    { x with
      mod := { x.mod with outEn := true }
      ana := { x.ana with sw := 0, term := true, mask := BitVec.ofNat 5 (fld x.ana.outCfg 0 5)
                          closing := BitVec.ofNat 5 (fld x.ana.outCfg 0 5) } } := by
  simp [Chan.enableExec, hsw, hterm]
  exact BitVec.and_allOnes

theorem Chan.holdOpen_eq (x : Chan) :
    x.holdOpen = { x with ana := { x.ana with closing := if x.cal.run = none then x.ana.closing else 0 } } := by
  cases hrun : x.cal.run <;> simp [Chan.holdOpen, hrun]

/-- The ENABLE that waited closes no switch while a calibration runs (R239). -/
theorem Chan.disableEnd_of_pending (now : Tbu) (h : x.ana.enPend = true) : x.disableEnd now =
    { x with
      mod := { x.mod with outEn := true }
      ana := { x.ana with sw := 0, term := true, disableAt := none, enPend := false, settled := now
                          closing := if x.cal.run = none then BitVec.ofNat 5 (fld x.ana.outCfg 0 5) else 0
                          mask := BitVec.ofNat 5 (fld x.ana.outCfg 0 5), now := x.skn.image.restWord, ramp := none } } := by
  unfold Chan.disableEnd
  rw [h]
  dsimp only
  rw [if_pos rfl, Chan.holdOpen_eq, Chan.enableExec_of_open rfl rfl]
  rfl

theorem exec_disableSequenceEnd_due (h : (s.ch c).ana.disableAt = some a) (hdue : a + 12 * us ≤ max s.now t) :
    exec (.disableSequenceEnd t c) s = .next ((s.atTime t).modCh c fun x => x.disableEnd (max s.now t)) :=
  congrArg Host.Outcome.next (State.modCh_due (s := s.atTime t) (·.ana.disableAt) h hdue)

theorem exec_disableSequenceEnd_early (h : (s.ch c).ana.disableAt = some a) (hearly : max s.now t < a + 12 * us) :
    exec (.disableSequenceEnd t c) s = .next (s.atTime t) :=
  congrArg Host.Outcome.next (State.modCh_early (s := s.atTime t) (·.ana.disableAt) h hearly)

theorem switchesAndClamp : Clause.SwitchesAndClamp := by
  refine ⟨fun t c s h => ⟨_, exec_switchesClosed h, State.onlyChannel_modCh .., ?_⟩,
    fun t c s a ha => ⟨fun hdue => ⟨_, exec_disableSequenceEnd_due ha hdue, State.onlyChannel_modCh .., ?_⟩,
      exec_disableSequenceEnd_early ha⟩, fun t c s hclock hclamp => ?_⟩
  · rw [State.ch_modCh_self]
    exact ⟨rfl, Ana.closeSwitches_closedAt _ _⟩
  · rw [State.ch_modCh_self, State.ch_atTime]
    cases hp : (s.ch c).ana.enPend with
    | false =>
      rw [Chan.disableEnd_of_not_pending _ hp]
      exact ⟨rfl, rfl, rfl, rfl, rfl, rfl, (if_neg (by simp)).symm⟩
    | true =>
      rw [Chan.disableEnd_of_pending _ hp]
      refine ⟨rfl, rfl, rfl, rfl, rfl, rfl, ?_⟩
      simp
  · exact congrArg Host.Outcome.next (State.modCh_congr (s := s.atTime t) (if_pos (by simp [hclock, hclamp])))

/-- Settles O38: each command is a change of its channel that its conditions decide; only RANGE_DONE publishes. -/
theorem rangeSwitchesClamp : Obligations.RangeSwitchesClamp := ⟨rangeChange, switchesAndClamp⟩

end Sys2Proof.Machine
end

section
/-! Strobes of the levels: from the host, at a position, and from LDSTB (R251 to R253, R255). -/

namespace Sys2Proof.Machine

variable {t : Tbu} {c : ChanId} {s : State} {x : Chan} {v : Word} {now : Tbu}

/-! ### A strobe reaches a channel (R251, R255) -/

theorem Chan.strobe_holdup (x : Chan) (cyc src : Nat) : x.strobe cyc src true = x := rfl

/-- A strobe changes nothing of its channel outside ANA. -/
theorem Chan.strobe_eq (x : Chan) (cyc src : Nat) (holdup : Bool) :
    x.strobe cyc src holdup = { x with ana := (x.strobe cyc src holdup).ana } := by
  unfold Chan.strobe
  split
  · rfl
  · split <;> rfl

theorem Chan.strobe_ignored {src : Nat} (h : x.ana.src ≠ src) (cyc : Nat) : x.strobe cyc src false =
    { x with ana := { x.ana with ignored := satInc x.ana.ignored, events := evSet x.ana.events AnaEv.stbIgnored } } := by
  rw [Chan.strobe, if_neg Bool.false_ne_true, if_pos (.inl h)]
  rfl

theorem Ana.takeStrobe_idle {a : Ana} (hdefer : a.deferAt = none) (hidle : a.strobeAt = none) (hlast : a.lastTransfer = none)
    (cyc : Nat) : a.takeStrobe cyc = { a with strobeAt := some (cyc + 2) } := by
  simp [Ana.takeStrobe, hdefer, hidle, hlast]

/-- A strobe is taken with a transfer neither on its way nor just over. -/
theorem Chan.strobe_taken {src : Nat} (h : x.ana.src = src) (hst : x.rangeState = true) (hdis : x.ana.disableAt = none)
    (hdefer : x.ana.deferAt = none) (hidle : x.ana.strobeAt = none) (hlast : x.ana.lastTransfer = none) (cyc : Nat) :
    x.strobe cyc src false = { x with ana := { x.ana with strobeAt := some (cyc + 2) } } := by
  rw [Chan.strobe, if_neg Bool.false_ne_true, if_neg (by simp [h, hst, hdis]), Ana.takeStrobe_idle hdefer hidle hlast]

theorem exec_strobe (hw : s.windowUp = true) :
    exec (.strobe t c) s = .next ((s.atTime t).modCh c fun x => x.strobe (s.atTime t).cycle 0 false) := by
  have hholdup : ((s.atTime t).mod.mode == .holdup) = false := beq_eq_false_iff_ne.2 (State.mode_ne_holdup (s := s) hw)
  have hex : exec (.strobe t c) s = .next ((s.atTime t).ifWindow fun s => s.strobe c 0) := rfl
  rw [hex, State.ifWindow_pos (s := s.atTime t) _ hw, State.strobe, hholdup]

/-! ### Scheduled strobes (R252) -/

theorem Tracker.committedOf_unplace (k : Tracker) (kind : SchedKind) : (k.unplace kind).committedOf kind = none := by
  simp [Tracker.unplace, Tracker.committedOf]

theorem Tracker.place_unplace (k : Tracker) (kind : SchedKind) (pos : Word) :
    { kind := kind, pos := pos } ∈ ((k.unplace kind).place kind pos).pending ∧
      ∀ p ∈ ((k.unplace kind).place kind pos).pending, p.kind = kind → p.pos = pos := by
  simp only [Tracker.place, Tracker.unplace, List.mem_append, List.mem_singleton, List.mem_filter, or_true, true_and]
  rintro p (⟨-, hne⟩ | rfl) hp
  · simp [hp] at hne
  · rfl

/-! The position that a target is compared with does not depend on the events placed, the strobe withdrawn among them. -/

theorem Chan.sched_future (h : x.trk.future now x.ana.stbPos = true) : x.sched now = { x with
    ana := { x.ana with sched := true }, trk := (x.trk.unplace .strobe).place .strobe x.ana.stbPos } :=
  if_pos h

theorem Chan.sched_late (h : x.trk.future now x.ana.stbPos = false) : x.sched now = { x with
    ana := { x.ana with sched := false, events := evSet x.ana.events AnaEv.stbLate }, trk := x.trk.unplace .strobe } :=
  if_neg (by rw [Bool.not_eq_true]; exact h)

theorem exec_sched (hw : s.windowUp = true) :
    exec (.sched t c) s = .next ((s.atTime t).modCh c fun x => x.sched (max s.now t)) :=
  congrArg Host.Outcome.next (State.ifWindow_pos (s := s.atTime t) _ hw)

theorem exec_unsched (hw : s.windowUp = true) : exec (.unsched t c) s = .next ((s.atTime t).modCh c Chan.unsched) :=
  congrArg Host.Outcome.next (State.ifWindow_pos (s := s.atTime t) _ hw)

/-! ### A write of SRC (R251) -/

/-- The channel with a value in ANA_STB_CFG that changes SRC: a scheduled strobe is cancelled. -/
def Chan.withStbCfg (v : Word) (x : Chan) : Chan := ({ x with ana := { x.ana with stbCfg := v &&& 3 } } : Chan).unsched

theorem State.placeWrite_stbCfg (hl : (s.ch c).locked 2 = false) (hne : fld v 0 2 ≠ fld (s.ch c).ana.stbCfg 0 2) :
    s.placeWrite (.block c 3 0x020) v = (s.modCh c (Chan.withStbCfg v), St.normal) := by
  have hw : rwl ((s.ch c).locked 2) 3 (s.ch c).ana.stbCfg v = (v, St.normal) := by rw [hl]; rfl
  have hsrc : ¬fld (v &&& 3) 0 2 = fld (s.ch c).ana.stbCfg 0 2 := by rwa [fld_and_three]
  change s.anaWrite c 0x020 v = _
  rw [State.anaWrite, hw]
  exact congrArg (·, St.normal) (State.modCh_congr (if_neg hsrc))

theorem strobes : Clause.Strobes := by
  intro t c s hw
  refine ⟨fun hsrc => ?_, fun hsrc hst hdis hdefer hidle hlast => ?_, fun hfuture => ?_, fun hlate => ?_,
    fun v hp hbusy hreqs hl hne => ?_, ?_⟩
  · rw [exec_strobe hw]
    exact congrArg _ (State.modCh_congr (s := s.atTime t) (Chan.strobe_ignored hsrc _))
  · rw [exec_strobe hw]
    exact congrArg _ (State.modCh_congr (s := s.atTime t) (Chan.strobe_taken hsrc hst hdis hdefer hidle hlast _))
  · refine ⟨_, exec_sched hw, State.onlyChannel_modCh .., ?_⟩
    rw [State.ch_modCh_self, State.ch_atTime, Chan.sched_future hfuture]
    exact ⟨rfl, Tracker.place_unplace ..⟩
  · refine ⟨_, exec_sched hw, State.onlyChannel_modCh .., ?_⟩
    rw [State.ch_modCh_self, State.ch_atTime, Chan.sched_late hlate]
    exact ⟨rfl, Tracker.isPending_unplace ..⟩
  · refine ⟨_, (exec_registerWrite t _ v hp).trans (congrArg _ (State.requestIn_row_block (s := s.atTime t) c (by omega)
      (by omega) (by omega) hbusy hw (State.placeWrite_stbCfg (s := s.atTime t) hl hne) hreqs)), State.onlyChannel_modCh .., ?_⟩
    dsimp only
    rw [State.ch_modCh_self]
    exact ⟨rfl, Tracker.isPending_unplace .., Tracker.committedOf_unplace ..⟩
  · refine ⟨_, exec_unsched hw, State.onlyChannel_modCh .., ?_⟩
    rw [State.ch_modCh_self]
    exact ⟨rfl, Tracker.isPending_unplace .., Tracker.committedOf_unplace .., rfl⟩

/-! ### LDSTB (R253) -/

/-- An edge of LDSTB is a strobe of source 2 to every channel, in one fabric cycle. -/
theorem exec_ldstbEdge (t : Tbu) (s : State) : exec (.ldstbEdge t) s = .next ((s.atTime t).forCh allCh fun u c =>
    u.modCh c fun x => x.strobe (ldstbCycle (max s.now t)) 2 (s.mod.mode == .holdup)) :=
  congrArg Host.Outcome.next (forCh_modCh_of (fun u : State => (u.now, u.mod.mode)) (fun _ _ _ => rfl)
    (fun p _ x => x.strobe (ldstbCycle p.1) 2 (p.2 == .holdup)) allCh (s.atTime t))

theorem exec_ldstbEdge_holdup (h : s.mod.mode = .holdup) : exec (.ldstbEdge t) s = .next (s.atTime t) := by
  rw [exec_ldstbEdge, h]
  have hturn : ∀ (u : State) (c : ChanId), (u.modCh c fun x => x.strobe (ldstbCycle (max s.now t)) 2 true) = u := fun u c =>
    (State.modCh_congr (g := id) (Chan.strobe_holdup ..)).trans (State.modCh_id u c)
  exact congrArg _ (State.forCh_inv (· = s.atTime t) _ (fun u c hu => (hturn u c).trans hu) _ _ rfl)

theorem ldstbEdge : Clause.LdstbEdge := by
  refine fun t s => ⟨fun hmode => ⟨_, exec_ldstbEdge t s, forCh_modCh_eq _ _ _, fun c => ?_⟩, exec_ldstbEdge_holdup⟩
  rw [State.forCh_modCh_ch _ _ allCh_nodup, if_pos (mem_allCh c), State.ch_atTime, beq_eq_false_iff_ne.2 hmode]
  refine ⟨Chan.strobe_eq .., fun hsrc => ?_, fun hsrc hst hdis hdefer hidle hlast => ?_⟩
  · rw [Chan.strobe_ignored hsrc]
  · rw [Chan.strobe_taken hsrc hst hdis hdefer hidle hlast]
    rfl

end Sys2Proof.Machine
end

section
/-! The transfer of the staged levels, and the limits that clamp it (R100, R248 to R250, R259). -/

namespace Sys2Proof.Machine

variable {t : Tbu} {c : ChanId} {s : State} {x : Chan} {v : Word} {now : Tbu} {k : Fin 4}

/-! ### Four codes in a word (R248) -/

/-- Of four codes side by side, bit `i` of lane `k` comes from the code of that lane alone. -/
theorem testBit_quarter {w i : Nat} (j k : Fin 4) (hw : w < 2 ^ 16) (hi : i < 16) :
    (decide (16 * j.val ≤ 16 * k.val + i) && w.testBit (16 * k.val + i - 16 * j.val)) = (decide (j = k) && w.testBit i) := by
  rcases lt_trichotomy j.val k.val with h | h | h
  · rw [testBit_of_lt hw (by omega), decide_eq_false (Fin.ne_of_val_ne h.ne), Bool.and_false, Bool.false_and]
  · obtain rfl := Fin.ext h
    simp
  · rw [decide_eq_false (by omega), decide_eq_false (Fin.ne_of_val_ne h.ne'), Bool.false_and, Bool.false_and]

theorem fld_pack_quarters (f : Fin 4 → Nat) (hf : ∀ k, f k < 2 ^ 16) (k : Fin 4) :
    fld (pack [(f 0, 16 * (0 : Fin 4).val), (f 1, 16 * (1 : Fin 4).val), (f 2, 16 * (2 : Fin 4).val), (f 3, 16 * (3 : Fin 4).val)])
      (16 * k.val) 16 = f k := by
  refine Nat.eq_of_testBit_eq fun i => ?_
  rw [testBit_fld]
  by_cases hi : i < 16
  · have hk : 16 * k.val + i < 64 := by omega
    simp only [bit_pack_cons _ _ _ hk, bit_pack_nil, testBit_quarter _ k (hf _) hi, hi, decide_true, Bool.true_and, Bool.or_false]
    fin_cases k <;> simp
  · rw [decide_eq_false hi, Bool.false_and, testBit_of_lt (hf k) (Nat.le_of_not_lt hi)]

theorem fld_lt (w : Word) (lo len : Nat) : fld w lo len < 2 ^ len := Nat.mod_lt _ (Nat.two_pow_pos len)

theorem clampCode_lt (lim : Word) (code : Nat) : clampCode lim code < 2 ^ 16 :=
  Nat.lt_of_le_of_lt (Nat.min_le_left ..) (fld_lt lim 16 16)

/-- A clamped code lies within limits that are in order. -/
theorem clampCode_within {lim : Word} (h : fld lim 0 16 ≤ fld lim 16 16) (code : Nat) :
    fld lim 0 16 ≤ clampCode lim code ∧ clampCode lim code ≤ fld lim 16 16 := by
  unfold clampCode
  omega

theorem fld_clampWord (stage : Word) (lim : Vector Word 4) (k : Fin 4) :
    fld (clampWord stage lim) (16 * k.val) 16 = clampCode lim[k] (fld stage (16 * k.val) 16) :=
  fld_pack_quarters (fun k => clampCode lim[k] (fld stage (16 * k.val) 16)) (fun _ => clampCode_lt ..) k

/-! ### The transfer (R250, R259) -/

/-- The codes of a transfer at the end of cycle `d`. -/
def Ana.codesOf (a : Ana) (d : Nat) : Word := clampWord (a.stagedAt (d - 3)).1 (a.stagedAt (d - 3)).2

theorem Ana.load_of_still {a : Ana} (h : a.ramp = none) (codes : Word) : a.load codes = { a with now := codes } := by
  rw [Ana.load, h]

theorem Ana.load_of_ramp {a : Ana} {r : Ramp} (h : a.ramp = some r) (codes : Word) :
    a.load codes = { a with ramp := some { r with start := codes } } := by
  rw [Ana.load, h]

theorem Ana.load_eq (a : Ana) (codes : Word) : a.load codes = { a with now := (a.load codes).now, ramp := (a.load codes).ramp } := by
  cases h : a.ramp with
  | none => rw [Ana.load_of_still h]
  | some r => rw [Ana.load_of_ramp h]

/-- The ANA block after the transfer of a strobe that waited for cycle `d`. -/
def Ana.transferred (a : Ana) (d : Nat) (now : Tbu) : Ana :=
  { a with
    now := (a.load (a.codesOf d)).now, ramp := (a.load (a.codesOf d)).ramp, applied := satInc a.applied, strobeAt := none
    lastTransfer := some d, settled := now
    events := evIf (a.codesOf d != (a.stagedAt (d - 3)).1) (evSet a.events AnaEv.strobe) AnaEv.clamped }

theorem Chan.transfer_eq {d : Nat} (h : x.ana.strobeAt = some d) (now : Tbu) :
    x.transfer d now = ({ x with ana := x.ana.transferred d now } : Chan).publish d Prod.strobe := by
  unfold Chan.transfer
  dsimp only
  rw [Ana.load_eq, if_pos (Option.isSome_iff_exists.2 ⟨d, h⟩)]
  rfl

theorem Ana.transferDue_of_strobe {a : Ana} {d cyc : Nat} (h : a.strobeAt = some d) (hdue : d ≤ cyc) : a.transferDue cyc = some d := by
  rw [Ana.transferDue, h]
  exact if_pos hdue

theorem exec_levelTransfer {d : Nat} (h : (s.ch c).ana.strobeAt = some d) (hdue : d ≤ (s.atTime t).cycle) :
    exec (.levelTransfer t c) s = .next ((s.atTime t).modCh c fun x => x.transfer d (max s.now t)) := by
  refine congrArg Host.Outcome.next (State.modCh_congr (s := s.atTime t) ?_)
  rw [State.ch_atTime, Ana.transferDue_of_strobe h hdue]
  rfl

theorem Ana.bit_strobe_transferred (a : Ana) (d : Nat) (now : Tbu) : bit (a.transferred d now).events.bits AnaEv.strobe = true :=
  (bit_evIf_ne (by decide)).trans (bit_evSet_self (by decide))

theorem levelTransfer : Clause.LevelTransfer := by
  intro t c s n hn hdue
  refine ⟨_, exec_levelTransfer hn hdue, State.onlyChannel_modCh .., ?_⟩
  rw [State.ch_modCh_self, State.ch_atTime, Chan.transfer_eq hn, Chan.publish_eq]
  refine ⟨rfl, Ana.bit_strobe_transferred .., fun hstill => ?_, fun r hramp => ?_, fun k hstill hlim => ?_⟩
  · dsimp only [Ana.transferred]
    rw [Ana.load_of_still hstill]
    exact ⟨hstill, rfl⟩
  · dsimp only [Ana.transferred]
    rw [Ana.load_of_ramp hramp]
    exact ⟨rfl, rfl⟩
  · dsimp only [Ana.transferred]
    rw [Ana.load_of_still hstill]
    dsimp only [Ana.codesOf]
    rw [fld_clampWord]
    exact clampCode_within hlim _

/-! ### Limits (R100, R249) -/

theorem Chan.limitWrite_stored (hfree : x.locked 1 = false) (h : fld v 0 16 ≤ fld v 16 16) (cyc : Nat) :
    ∃ hist, (x.limitWrite cyc k v).1 = { x with ana := { x.ana with lim := vput x.ana.lim k (v &&& 0xFFFFFFFF), hist := hist } } := by
  unfold Chan.limitWrite
  dsimp only
  rw [if_neg (by simp [hfree]), if_neg (Nat.not_lt.2 h)]
  exact ⟨_, rfl⟩

theorem Chan.limitWrite_bad (hfree : x.locked 1 = false) (h : fld v 16 16 < fld v 0 16) (cyc : Nat) :
    (x.limitWrite cyc k v).1 = { x with ana := { x.ana with events := evSet x.ana.events AnaEv.limBad } } := by
  unfold Chan.limitWrite
  dsimp only
  rw [if_neg (by simp [hfree]), if_pos h]

theorem Chan.limitWrite_locked (hl : x.locked 1 = true)
    (h : fld v 0 16 < x.skn.image.limLo k.val ∨ x.skn.image.limHi k.val < fld v 16 16) (cyc : Nat) :
    (x.limitWrite cyc k v).1 = x := by
  unfold Chan.limitWrite
  dsimp only
  rw [if_pos (by simpa [hl, imp_iff_not_or] using h)]

theorem exec_limitWrite (hw : s.windowUp = true) :
    exec (.limitWrite t c k v) s = .next ((s.atTime t).setCh c ((s.ch c).limitWrite (s.atTime t).cycle k v).1) :=
  congrArg Host.Outcome.next (State.ifWindow_pos (s := s.atTime t) _ hw)

theorem limitWrite : Clause.LimitWrite := by
  intro t c k v s hw
  refine ⟨fun hfree h => ?_, fun hfree h => ?_, fun hl h => ?_⟩
  · obtain ⟨hist, hstored⟩ := Chan.limitWrite_stored (k := k) hfree h (s.atTime t).cycle
    refine ⟨_, exec_limitWrite hw, State.onlyChannel_modCh s t c fun _ => _, ?_⟩
    rw [State.ch_setCh_self, hstored]
  · rw [exec_limitWrite hw, Chan.limitWrite_bad hfree h]
    rfl
  · rw [exec_limitWrite hw, Chan.limitWrite_locked hl h]
    exact congrArg _ (State.setCh_ch (s.atTime t) c)

/-- Settles O37: a strobe is taken two cycles before its transfer, which loads clamped codes; limits are stored in order. -/
theorem levelsAndStrobes : Obligations.LevelsAndStrobes := ⟨strobes, ldstbEdge, levelTransfer, limitWrite⟩

end Sys2Proof.Machine
end

section
/-! The monitor: its readings, its alarms and its checks (R260 to R264, R482). -/

namespace Sys2Proof.Machine

variable {t : Tbu} {c : ChanId} {s : State} {x : Chan} {now : Tbu} {i : Fin 5} {v : BitVec 16}

/-! ### The scan (R260, R262) -/

/-- The scan stops at enabled inputs only. -/
theorem Ana.monNext_enabled {a : Ana} (h : a.monNext = some i) : bit a.monCfg i.val = true := by
  have hmem : i ∈ ([0, 1, 2, 3, 4] : List (Fin 5)).filter fun i => bit a.monCfg i.val := by
    unfold Ana.monNext at h
    dsimp only at h
    split at h
    · exact List.mem_of_mem_head? h
    · split at h
      next hfind =>
        obtain rfl := Option.some.inj h
        exact List.mem_of_find?_eq_some hfind
      next => exact List.mem_of_mem_head? h
  exact (List.mem_filter.1 hmem).2

theorem Ana.monTurn_of_disabled {a : Ana} (h : bit a.monCfg i.val = false) (now : Tbu) : a.monTurn i now = false := by
  rw [Ana.monTurn, Bool.and_eq_false_iff, beq_eq_false_iff_ne]
  exact .inl fun hnext => absurd (Ana.monNext_enabled hnext) (by simp [h])

theorem Chan.monCompares_not_trim (h : x.monCompares i now = true) : x.mod.state ≠ .trim := by
  intro hst
  simp [Chan.monCompares, hst] at h

theorem Chan.monCompares_of_faulty (h : x.ana.monFaulty = true) (i : Fin 5) (now : Tbu) : x.monCompares i now = false := by
  simp [Chan.monCompares, h]

/-! ### One reading (R261, R262) -/

/-- VALID stands above the value (R261). -/
theorem monWord_eq (v : BitVec 16) : BitVec.ofNat 17 (65536 + v.toNat) = 1#1 ++ v := by
  apply BitVec.eq_of_toNat_eq
  rw [BitVec.toNat_append, BitVec.toNat_ofNat, Nat.mod_eq_of_lt (by omega), ← Nat.shiftLeft_add_eq_or_of_lt v.isLt]
  rfl

/-- The ANA block after a conversion of input `i` at instant `now`. -/
def Ana.converted (a : Ana) (i : Fin 5) (v : BitVec 16) (now : Tbu) : Ana :=
  { a with monLast := some i, monAt := some now, monVal := vput a.monVal i (1#1 ++ v) }

/-- The ANA block after one more deviation of input `i`, which raises the alarm. -/
def Ana.alarmRaised (a : Ana) (i : Fin 5) : Ana :=
  { a with
    monCnt := vput a.monCnt i (a.monCnt[i] + 1), alarmed := setBit a.alarmed i.val, monAlarm := evSet a.monAlarm i.val
    events := evSet a.events AnaEv.alarm }

theorem Chan.monRead_dropped (h : x.ana.monTurn i now = false ∨ x.mod.state = .trim) : x.monRead i v now = (x, false) :=
  if_pos (by rcases h with h | h <;> simp [h])

theorem Chan.monRead_uncompared (hturn : x.ana.monTurn i now = true) (hst : x.mod.state ≠ .trim) (h : x.monCompares i now = false) :
    x.monRead i v now = ({ x with ana := x.ana.converted i v now }, false) := by
  unfold Chan.monRead
  rw [if_neg (by simp [hturn, hst]), monWord_eq]
  exact if_pos (by simp [h])

/-- A reading that the monitor compares. -/
theorem Chan.monRead_compared (hturn : x.ana.monTurn i now = true) (h : x.monCompares i now = true) : x.monRead i v now =
    if x.monDeviates i v then
      if decide (x.ana.monCount ≤ x.ana.monCnt[i] + 1) && !bit x.ana.alarmed i.val then
        (({ x with ana := (x.ana.converted i v now).alarmRaised i } : Chan).publish (cycleOf now) Prod.alarm, true)
      else ({ x with ana := { x.ana.converted i v now with monCnt := vput x.ana.monCnt i (x.ana.monCnt[i] + 1) } }, false)
    else ({ x with ana := { x.ana.converted i v now with
      monCnt := vput x.ana.monCnt i 0, alarmed := clrBit x.ana.alarmed i.val } }, false) := by
  unfold Chan.monRead
  rw [if_neg (by simp [hturn, Chan.monCompares_not_trim h]), monWord_eq]
  exact if_neg (by simp [h])

theorem Chan.monRead_within (hturn : x.ana.monTurn i now = true) (h : x.monCompares i now = true) (hin : x.monDeviates i v = false) :
    x.monRead i v now = ({ x with ana := { x.ana.converted i v now with
      monCnt := vput x.ana.monCnt i 0, alarmed := clrBit x.ana.alarmed i.val } }, false) := by
  rw [Chan.monRead_compared hturn h, hin]
  rfl

theorem Chan.monRead_alarm (hturn : x.ana.monTurn i now = true) (h : x.monCompares i now = true) (hout : x.monDeviates i v = true)
    (hcount : x.ana.monCount ≤ x.ana.monCnt[i] + 1) (hnew : bit x.ana.alarmed i.val = false) :
    ∃ j, x.monRead i v now = ({ x with jnc := j, ana := (x.ana.converted i v now).alarmRaised i }, true) := by
  refine ⟨(({ x with ana := (x.ana.converted i v now).alarmRaised i } : Chan).publish (cycleOf now) Prod.alarm).jnc, ?_⟩
  rw [Chan.monRead_compared hturn h, if_pos hout, if_pos (by rw [decide_eq_true hcount, hnew]; rfl), Chan.publish_eq]

/-! ### MONITOR_READING (R263) -/

/-- A reading after which the outputs stay on: it raised no alarm, or ACTION is 0. -/
theorem exec_monitorReading_stays {y : Chan} {raised : Bool} (h : (s.ch c).monRead i v (max s.now t) = (y, raised))
    (hstays : raised = false ∨ bit y.ana.monCfg 8 = false) :
    exec (.monitorReading t c i v) s = .next ((s.atTime t).setCh c y) := by
  have hread : ((s.atTime t).ch c).monRead i v (s.atTime t).now = (y, raised) := h
  refine congrArg Host.Outcome.next ?_
  rw [hread]
  exact if_neg (by rcases hstays with h | h <;> simp [h])

/-- The response to an alarm in REST with outputs on is a DISABLE (R263, R265). -/
theorem State.alarmAction_rest (hst : (s.ch c).mod.state = .rest) (hon : (s.ch c).mod.outEn = true)
    (hidle : (s.ch c).ana.disableAt = none) : s.alarmAction c = s.modCh c fun x => x.disable s.now := by
  unfold State.alarmAction
  dsimp only
  rw [if_neg (by simp [hidle]), hst]
  exact if_pos hon

/-- An alarm with ACTION = 1. -/
theorem exec_monitorReading_disables {y : Chan} (h : (s.ch c).monRead i v (max s.now t) = (y, true))
    (hact : bit y.ana.monCfg 8 = true) (hst : y.mod.state = .rest) (hon : y.mod.outEn = true) (hidle : y.ana.disableAt = none) :
    exec (.monitorReading t c i v) s = .next ((s.atTime t).setCh c { y with
      mod := { y.mod with outEn := false }
      ana := { y.ana.rampTo (max s.now t) (max s.now t) y.skn.image.restWord with disableAt := some (max s.now t) } }) := by
  have hread : ((s.atTime t).ch c).monRead i v (s.atTime t).now = (y, true) := h
  have hself : ((s.atTime t).setCh c y).ch c = y := State.ch_setCh_self ..
  refine congrArg Host.Outcome.next ?_
  rw [hread]
  refine (if_pos (by simp [hact])).trans ?_
  rw [State.alarmAction_rest (by rwa [hself]) (by rwa [hself]) (by rwa [hself])]
  exact (State.modCh_modCh _ c (fun _ => y) _).trans (congrArg ((s.atTime t).setCh c) (Chan.disable_of_idle _ hidle))

theorem exec_monitorReading_dropped
    (h : bit (s.ch c).ana.monCfg i.val = false ∨ (s.ch c).ana.monTurn i (max s.now t) = false ∨ (s.ch c).mod.state = .trim) :
    exec (.monitorReading t c i v) s = .next (s.atTime t) := by
  have hdrop : (s.ch c).ana.monTurn i (max s.now t) = false ∨ (s.ch c).mod.state = .trim :=
    h.elim (fun hoff => .inl (Ana.monTurn_of_disabled hoff _)) id
  rw [exec_monitorReading_stays (Chan.monRead_dropped hdrop) (.inl rfl)]
  exact congrArg _ (State.setCh_ch (s.atTime t) c)

/-! ### MONITOR_CHECK (R482) -/

theorem monitorBad_iff (ground ref : BitVec 16) :
    monitorBad ground ref = true ↔ 40 < ground.toInt.natAbs ∨ 40 < (ref.toInt - 4000).natAbs := by
  simp [monitorBad]

/-- The count of bad checks in a row after one more check. -/
def Ana.badChecks (a : Ana) (bad : Bool) : Nat := if bad then a.monBad + 1 else 0

/-- The channel with a monitor found faulty after `n` bad checks. -/
def Chan.monFails (x : Chan) (n : Nat) : Chan :=
  { x with ana := { x.ana with monBad := n, monFaulty := true }, flt := { x.flt with mon := true } }

theorem exec_monitorCheck {ground ref : BitVec 16} {n : Nat} (h : (s.ch c).ana.monFaulty = false)
    (hn : (s.ch c).ana.badChecks (monitorBad ground ref) = n) : exec (.monitorCheck t c ground ref) s =
    .next (if n < 3 then (s.atTime t).modCh c fun x => { x with ana := { x.ana with monBad := n } }
      else ((s.atTime t).setCh c ((s.ch c).monFails n)).covered c 0x07 0 0 (s.ch c).flt.degraded) := by
  subst hn
  exact congrArg Host.Outcome.next (if_neg (by simp [h]))

/-- The record of a covered fault of a channel that was not degraded before (R486). -/
theorem State.covered_first (s : State) (c : ChanId) (code : Byte) (detail gap : Nat) :
    s.covered c code detail gap false = s.logRecord (some c) code detail 0 gap := rfl

theorem exec_monitorCheck_fails {ground ref : BitVec 16} {n : Nat} (h : (s.ch c).ana.monFaulty = false)
    (hn : (s.ch c).ana.badChecks (monitorBad ground ref) = n) (hthird : 3 ≤ n) (hsound : (s.ch c).flt.degraded = false) :
    exec (.monitorCheck t c ground ref) s =
      .next (((s.atTime t).setCh c ((s.ch c).monFails n)).logRecord (some c) 0x07 0 0 0) := by
  rw [exec_monitorCheck h hn, if_neg (Nat.not_lt.2 hthird), hsound, State.covered_first]

/-- The third bad check in a row makes the monitor faulty and is recorded as a covered fault (R482, R489). -/
theorem monitorCheck_third {ground ref : BitVec 16} {n : Nat} (h : (s.ch c).ana.monFaulty = false)
    (hn : (s.ch c).ana.badChecks (monitorBad ground ref) = n) (hthird : 3 ≤ n) (hsound : (s.ch c).flt.degraded = false) :
    ∃ u, exec (.monitorCheck t c ground ref) s = .next u ∧ u = { s.atTime t with flt := u.flt, chans := u.chans } ∧
      (∀ d : ChanId, d ≠ c → u.ch d = s.ch d) ∧
      u.ch c = { (s.ch c).monFails n with flt := ((s.ch c).monFails n).flt.put (s.atTime t).cycle 7 } ∧
      u.flt.log = logged s t { odo := s.trk.odo, info := logInfo (some c) 7 0 0 0 } := by
  refine ⟨_, exec_monitorCheck_fails h hn hthird hsound, rfl, fun d hd => ?_, ?_, rfl⟩
  · rw [State.logRecord_some, State.ch_modCh_ne _ _ hd]
    exact State.ch_setCh_ne _ _ hd
  · rw [State.logRecord_some, State.ch_modCh_self]
    exact congrArg (fun x : Chan => { x with flt := x.flt.put (s.atTime t).cycle 7 }) (State.ch_setCh_self ..)

/-- Settles O39: a reading is dropped, written or compared as the scan and the state of its channel decide; a third bad check in a
row is a covered fault. -/
theorem monitor : Obligations.Monitor := by
  refine fun t c s => ⟨fun i v => ⟨exec_monitorReading_dropped, fun hturn hst h => ?_, fun hturn hcmp =>
    ⟨fun hin => exec_monitorReading_stays (Chan.monRead_within hturn hcmp hin) (.inl rfl), fun hout hcount hnew => ?_⟩⟩,
    fun ground ref hok => ⟨fun hground href => ?_, fun hbad => ?_⟩⟩
  · have hcmp : (s.ch c).monCompares i (max s.now t) = false := h.elim (fun hf => Chan.monCompares_of_faulty hf _ _) id
    exact exec_monitorReading_stays (Chan.monRead_uncompared hturn hst hcmp) (.inl rfl)
  · obtain ⟨j, hread⟩ := Chan.monRead_alarm hturn hcmp hout hcount hnew
    refine ⟨fun hact => ⟨_, exec_monitorReading_stays hread (.inr hact), State.onlyChannel_modCh s t c fun _ => _, ?_⟩,
      fun hact hrest hon hidle => ⟨_, exec_monitorReading_disables hread hact hrest hon hidle,
        State.onlyChannel_modCh s t c fun _ => _, ?_⟩⟩
    · rw [State.ch_setCh_self]
      rfl
    · rw [State.ch_setCh_self]
      exact ⟨rfl, rfl, bit_evSet_self (by omega)⟩
  · have hn : (s.ch c).ana.badChecks (monitorBad ground ref) = 0 := if_neg (by rw [monitorBad_iff]; omega)
    rw [exec_monitorCheck hok hn]
    rfl
  · have hn : (s.ch c).ana.badChecks (monitorBad ground ref) = (s.ch c).ana.monBad + 1 := if_pos ((monitorBad_iff _ _).2 hbad)
    refine ⟨fun hfew => ?_, fun hmany hsound => monitorCheck_third hok hn (by omega) hsound⟩
    rw [exec_monitorCheck hok hn, if_pos (by omega)]
    rfl

end Sys2Proof.Machine
end

section
/-! SUPPORT. The synthesizers of a channel: what each operation makes of every synthesizer, of both pairs and of SYN_EVENTS (R273 to
R290). -/

namespace Sys2Proof.Machine

variable {x y : Chan} {i j : Fin 4} {lane l : Bool} {now : Tbu}

theorem Chan.eq_iff_parts : x = y ↔ x.mod = y.mod ∧ x.tlh = y.tlh ∧ x.trk = y.trk ∧ x.skn = y.skn ∧ x.seq = y.seq ∧ x.ply = y.ply ∧
    x.dst = y.dst ∧ x.ana = y.ana ∧ x.syn = y.syn ∧ x.jnc = y.jnc ∧ x.tdc = y.tdc ∧ x.mem = y.mem ∧ x.stq = y.stq ∧ x.cal = y.cal ∧
    x.dof = y.dof ∧ x.flt = y.flt := by
  cases x
  cases y
  exact Chan.mk.injEq .. ▸ Iff.rfl

/-! ### The two synthesizers of a pair (R278) -/

theorem Syn.active_eq (y : Syn) (lane : Bool) :
    y.active lane = if lane then (if (y.pair lane).second then 3 else 2) else if (y.pair lane).second then 1 else 0 := by
  cases lane <;> rfl

theorem Syn.idle_eq (y : Syn) (lane : Bool) :
    y.idle lane = if lane then (if (y.pair lane).second then 2 else 3) else if (y.pair lane).second then 0 else 1 := by
  cases lane <;> rfl

/-- Which synthesizer of a pair is active depends on the multiplexer alone. -/
theorem Syn.active_of_second {y z : Syn} (h : (z.pair lane).second = (y.pair lane).second) : z.active lane = y.active lane := by
  rw [Syn.active_eq, Syn.active_eq, h]

theorem Syn.idle_of_second {y z : Syn} (h : (z.pair lane).second = (y.pair lane).second) : z.idle lane = y.idle lane := by
  rw [Syn.idle_eq, Syn.idle_eq, h]

/-- The multiplexer of a pair has changed. -/
theorem Syn.active_of_switched {y z : Syn} (h : (z.pair lane).second = !(y.pair lane).second) : z.active lane = y.idle lane := by
  rw [Syn.active_eq, Syn.idle_eq, h]
  cases (y.pair lane).second <;> rfl

theorem Syn.idle_of_switched {y z : Syn} (h : (z.pair lane).second = !(y.pair lane).second) : z.idle lane = y.active lane := by
  rw [Syn.active_eq, Syn.idle_eq, h]
  cases (y.pair lane).second <;> rfl

@[simp] theorem isLane_active (y : Syn) (lane : Bool) : isLane (y.active lane) = lane := by
  rw [Syn.active_eq]
  cases lane <;> cases (y.pair _).second <;> rfl

@[simp] theorem isLane_idle (y : Syn) (lane : Bool) : isLane (y.idle lane) = lane := by
  rw [Syn.idle_eq]
  cases lane <;> cases (y.pair _).second <;> rfl

theorem Syn.idle_ne_active (y : Syn) (lane : Bool) : y.idle lane ≠ y.active lane := by
  rw [Syn.active_eq, Syn.idle_eq]
  cases lane <;> cases (y.pair _).second <;> decide

/-- A synthesizer that is not the active one of its pair is the idle one. -/
theorem Syn.idle_of_not_active {y : Syn} (h : y.active (isLane i) ≠ i) : y.idle (isLane i) = i :=
  ((y.mem_pair i).resolve_left (Ne.symm h)).symm

/-! ### One synthesizer, one pair, one flag -/

theorem Chan.setSynth_synth (x : Chan) (i j : Fin 4) (a : Synth) : (x.setSynth i a).synth j = if j = i then a else x.synth j := by
  unfold Chan.synth Chan.setSynth
  split
  next h => subst h; exact vput_get_self ..
  next h => exact vput_get_ne _ _ h

@[simp] theorem Chan.setSynth_synth_self (x : Chan) (i : Fin 4) (a : Synth) : (x.setSynth i a).synth i = a := by
  rw [Chan.setSynth_synth, if_pos rfl]

theorem Chan.setSynth_synth_ne (x : Chan) (a : Synth) (h : j ≠ i) : (x.setSynth i a).synth j = x.synth j := by
  rw [Chan.setSynth_synth, if_neg h]

@[simp] theorem Chan.setSynth_syn (x : Chan) (i : Fin 4) (a : Synth) : (x.setSynth i a).syn.pair l = x.syn.pair l ∧
    (x.setSynth i a).syn.active l = x.syn.active l ∧ (x.setSynth i a).syn.idle l = x.syn.idle l := ⟨rfl, rfl, rfl⟩

@[simp] theorem Chan.setSynth_events (x : Chan) (i : Fin 4) (a : Synth) : (x.setSynth i a).syn.events = x.syn.events := rfl

@[simp] theorem Chan.setSynth_setSynth (x : Chan) (i : Fin 4) (a b : Synth) : (x.setSynth i a).setSynth i b = x.setSynth i b := by
  simp [Chan.setSynth, vput]

theorem Syn.setPair_pair (y : Syn) (lane l : Bool) (p : Pair) : (y.setPair lane p).pair l = if l = lane then p else y.pair l := by
  cases lane <;> cases l <;> rfl

theorem Chan.modPair_pair (x : Chan) (lane l : Bool) (f : Pair → Pair) :
    (x.modPair lane f).syn.pair l = if l = lane then f (x.syn.pair lane) else x.syn.pair l := Syn.setPair_pair ..

@[simp] theorem Chan.modPair_pair_self (x : Chan) (lane : Bool) (f : Pair → Pair) :
    (x.modPair lane f).syn.pair lane = f (x.syn.pair lane) := by rw [Chan.modPair_pair, if_pos rfl]

@[simp] theorem Chan.modPair_synth (x : Chan) (lane : Bool) (f : Pair → Pair) (j : Fin 4) : (x.modPair lane f).synth j = x.synth j := by
  cases lane <;> rfl

@[simp] theorem Chan.modPair_events (x : Chan) (lane : Bool) (f : Pair → Pair) : (x.modPair lane f).syn.events = x.syn.events := by
  cases lane <;> rfl

theorem Chan.modPair_second (x : Chan) {f : Pair → Pair} (h : ∀ p, (f p).second = p.second) :
    ((x.modPair lane f).syn.pair l).second = (x.syn.pair l).second := by
  rw [Chan.modPair_pair]
  split
  next e => rw [h, e]
  next => rfl

theorem Chan.modPair_fixed {f : Pair → Pair} (h : f (x.syn.pair lane) = x.syn.pair lane) : x.modPair lane f = x := by
  unfold Chan.modPair
  rw [h]
  cases lane <;> rfl

@[simp] theorem Chan.synEvent_synth (x : Chan) (k : Nat) (j : Fin 4) : (x.synEvent k).synth j = x.synth j := rfl

@[simp] theorem Chan.synEvent_pairs (x : Chan) (k : Nat) : (x.synEvent k).syn.pair l = x.syn.pair l ∧
    (x.synEvent k).syn.active l = x.syn.active l ∧ (x.synEvent k).syn.idle l = x.syn.idle l := ⟨rfl, rfl, rfl⟩

@[simp] theorem Chan.synEvent_events (x : Chan) (k : Nat) : (x.synEvent k).syn.events = evSet x.syn.events k := rfl

@[simp] theorem Chan.synFlags_synth (x : Chan) (j : Fin 4) : x.synFlags.synth j = x.synth j := rfl

/-! ### The cover judged again (R282) -/

/-- The pair that the cover is judged for, with what it has been judged to be. -/
def Chan.judged (x : Chan) (lane : Bool) (now : Tbu) : Pair :=
  { x.syn.pair lane with
    covered := x.coverNow lane now && !(x.syn.pair lane).failover && !(x.syn.pair lane).takeover }

theorem Chan.recover_syn (x : Chan) (lane : Bool) (now : Tbu) : (x.recover lane now).syn = x.syn.setPair lane (x.judged lane now) := by
  unfold Chan.recover
  dsimp only
  split <;> rfl

theorem Chan.recover_pair (x : Chan) (lane l : Bool) (now : Tbu) :
    (x.recover lane now).syn.pair l = if l = lane then x.judged lane now else x.syn.pair l := by
  rw [Chan.recover_syn, Syn.setPair_pair]

@[simp] theorem Chan.recover_pair_self (x : Chan) (lane : Bool) (now : Tbu) : (x.recover lane now).syn.pair lane = x.judged lane now := by
  rw [Chan.recover_pair, if_pos rfl]

theorem Chan.recover_second (x : Chan) (lane l : Bool) (now : Tbu) :
    ((x.recover lane now).syn.pair l).second = (x.syn.pair l).second := by
  rw [Chan.recover_pair]
  split
  next e => rw [e]; rfl
  next => rfl

@[simp] theorem Chan.recover_active (x : Chan) (lane l : Bool) (now : Tbu) : (x.recover lane now).syn.active l = x.syn.active l :=
  Syn.active_of_second (x.recover_second lane l now)

@[simp] theorem Chan.recover_idle (x : Chan) (lane l : Bool) (now : Tbu) : (x.recover lane now).syn.idle l = x.syn.idle l :=
  Syn.idle_of_second (x.recover_second lane l now)

@[simp] theorem Chan.recover_events (x : Chan) (lane : Bool) (now : Tbu) : (x.recover lane now).syn.events = x.syn.events := by
  rw [Chan.recover_syn]
  cases lane <;> rfl

theorem Chan.recover_pair_keeps (x : Chan) (lane l : Bool) (now : Tbu) :
    (x.recover lane now).syn.pair l = { x.syn.pair l with covered := ((x.recover lane now).syn.pair l).covered } := by
  rw [Chan.recover_pair]
  split
  next e => rw [e]; rfl
  next => rfl

@[simp] theorem Chan.recover_act (x : Chan) (lane l : Bool) (now : Tbu) : (x.recover lane now).act l = x.act l := by
  rw [Chan.act, Chan.recover_active, Chan.recover_synth]
  rfl

@[simp] theorem Chan.recover_idl (x : Chan) (lane l : Bool) (now : Tbu) : (x.recover lane now).idl l = x.idl l := by
  rw [Chan.idl, Chan.recover_idle, Chan.recover_synth]
  rfl

/-- A pair that has no cover is only marked as not covered. -/
theorem Chan.recover_of_none (h : x.coverNow lane now = false) :
    x.recover lane now = x.modPair lane fun p => { p with covered := false } := by
  unfold Chan.recover
  rw [h]
  rfl

/-! ### A tune (R274, R275) -/

/-- What a tune that begins makes of synthesizer `i`. -/
def Chan.tuned (x : Chan) (i : Fin 4) (why : TuneFor) (setting : Word) (fresh ref : Bool) (now : Tbu) : Synth :=
  (x.tuneTo i why setting fresh ref now).synth i

/-- A synthesizer that begins to tune, but for where its band comes from. -/
def Chan.tuneBegun (x : Chan) (i : Fin 4) (why : TuneFor) (setting : Word) (ref : Bool) (now : Tbu) : Synth :=
  { x.synth i with
    setting := setting, lock := false, measOk := false, tune := why, ceilHolds := 0, paused := !ref, tuneAt := now
    aligned := false, follow := false, lockKHz := x.targetKHz (isLane i) setting }

section
variable {why : TuneFor} {setting : Word} {fresh ref : Bool}

/-- A tune changes no other synthesizer, and nothing else of the channel. -/
theorem Chan.tuneTo_eq (x : Chan) (i : Fin 4) (why : TuneFor) (setting : Word) (fresh ref : Bool) (now : Tbu) :
    x.tuneTo i why setting fresh ref now = x.setSynth i (x.tuned i why setting fresh ref now) := by
  unfold Chan.tuned Chan.tuneTo
  dsimp only
  (repeat' split) <;> rw [Chan.setSynth_synth_self]

theorem Synth.onLoaded_eq (a : Synth) (f : TblEntry → TblEntry) : a.onLoaded f = { a with table := (a.onLoaded f).table } := by
  unfold Synth.onLoaded
  split <;> rfl

/-- A fresh search. -/
theorem Chan.tuned_search (hst : (x.synth i).state ≠ .stopping) (h : fresh = true ∨ x.lookup i setting = none) :
    x.tuned i why setting fresh ref now = { x.tuneBegun i why setting ref now with
      state := .search, hit := false, fresh := satInc (x.synth i).fresh, loaded := none } := by
  have hnone : (if fresh = true then none else x.lookup i setting) = none := by
    rcases h with h | h
    · rw [if_pos h]
    · rw [h, ite_self]
  unfold Chan.tuned Chan.tuneTo
  dsimp only
  rw [if_neg hst, hnone]
  exact Chan.setSynth_synth_self ..

/-- A tune to a stored band. -/
theorem Chan.tuned_stored (hst : (x.synth i).state ≠ .stopping) {e : TblEntry} (h : x.lookup i setting = some e) :
    x.tuned i why setting false ref now = { x.tuneBegun i why setting ref now with
      state := .tune, hit := true, band := e.band, fast := satInc (x.synth i).fast, loaded := some e.key
      table := (x.tuned i why setting false ref now).table } := by
  unfold Chan.tuned Chan.tuneTo
  dsimp only
  rw [if_neg hst, if_neg Bool.false_ne_true, h]
  dsimp only
  rw [Chan.setSynth_synth_self, Synth.onLoaded_eq]
  rfl

/-- Whether its band is stored or has to be searched for. -/
theorem Chan.tuned_begun (hst : (x.synth i).state ≠ .stopping) :
    ((x.tuned i why setting fresh ref now).state = .tune ∨ (x.tuned i why setting fresh ref now).state = .search) ∧
    (x.tuned i why setting fresh ref now).setting = setting ∧ (x.tuned i why setting fresh ref now).tune = why ∧
    (x.tuned i why setting fresh ref now).lock = false ∧ (x.tuned i why setting fresh ref now).gate = (x.synth i).gate := by
  by_cases h : fresh = true ∨ x.lookup i setting = none
  · rw [Chan.tuned_search hst h]
    exact ⟨.inr rfl, rfl, rfl, rfl, rfl⟩
  · obtain ⟨hfresh, hhit⟩ := not_or.1 h
    obtain ⟨e, he⟩ := Option.ne_none_iff_exists'.1 hhit
    rw [eq_false_of_ne_true hfresh, Chan.tuned_stored hst he]
    exact ⟨.inl rfl, rfl, rfl, rfl, rfl⟩

end

theorem Synth.tuning_of_state {a : Synth} (hp : a.paused = false) (h : a.state = .search ∨ a.state = .tune) : a.tuning = true := by
  unfold Synth.tuning
  rcases h with h | h <;> simp [h, hp]

/-! ### Gates (R277) -/

theorem Chan.closeGate_synth (x : Chan) (i j : Fin 4) (now : Tbu) (ref : Bool) :
    (x.closeGate i now ref).synth j = if j = i then { x.synth i with gate := false } else x.synth j := by
  rw [← Chan.setSynth_synth, Chan.synth, Chan.closeGate_syn]
  rfl

@[simp] theorem Chan.closeGate_synth_self (x : Chan) (i : Fin 4) (now : Tbu) (ref : Bool) :
    (x.closeGate i now ref).synth i = { x.synth i with gate := false } := by rw [Chan.closeGate_synth, if_pos rfl]

theorem Chan.closeGate_synth_ne (x : Chan) (now : Tbu) (ref : Bool) (h : j ≠ i) : (x.closeGate i now ref).synth j = x.synth j := by
  rw [Chan.closeGate_synth, if_neg h]

@[simp] theorem Chan.closeGate_pairs (x : Chan) (i : Fin 4) (now : Tbu) (ref : Bool) :
    (x.closeGate i now ref).syn.pair l = x.syn.pair l ∧ (x.closeGate i now ref).syn.active l = x.syn.active l ∧
    (x.closeGate i now ref).syn.idle l = x.syn.idle l := by
  rw [Chan.closeGate_syn]
  exact ⟨rfl, rfl, rfl⟩

@[simp] theorem Chan.closeGate_events (x : Chan) (i : Fin 4) (now : Tbu) (ref : Bool) :
    (x.closeGate i now ref).syn.events = x.syn.events := by
  rw [Chan.closeGate_syn]

theorem Chan.closeGate_of_closed (h : (x.synth i).gate = false) (now : Tbu) (ref : Bool) : x.closeGate i now ref = x :=
  if_neg (by simp [h])

/-- The gate of an idle synthesizer is open to nothing. -/
theorem Chan.closeGate_of_idle (h : x.syn.active (isLane i) ≠ i) (hopen : (x.synth i).gate = true) (now : Tbu) (ref : Bool) :
    x.closeGate i now ref = (x.dstTo (q16 now)).setSynth i { (x.dstTo (q16 now)).synth i with gate := false } := by
  unfold Chan.closeGate
  rw [if_pos hopen]
  exact if_neg (by simpa using h)

theorem Chan.dstTo_jnc_quiet (h : lanesQuiet x) (a : Q16) : (x.dstTo a).jnc = x.jnc := by
  rw [Chan.dstTo_quiet x a h.1 h.2]

/-- What closes the gate of an idle synthesizer lets the lanes come to the present, and changes the synthesizers. -/
def Chan.idles (x y : Chan) : Prop :=
  y = { x with syn := y.syn, flt := y.flt, dst := y.dst, jnc := y.jnc } ∧ sameDistaff x y ∧ (lanesQuiet x → y.jnc = x.jnc)

theorem Chan.idles_of_eq (h : y = { x with syn := y.syn, flt := y.flt }) : x.idles y := by
  have hdst : y.dst = x.dst := by rw [h]
  have hjnc : y.jnc = x.jnc := by rw [h]
  refine ⟨?_, sameDistaff_of_eq hdst, fun _ => hjnc⟩
  rw [h]

theorem Chan.idles.trans {z : Chan} (h : x.idles y) (k : y.idles z) : x.idles z := by
  obtain ⟨heq, hdst, hjnc⟩ := h
  obtain ⟨keq, kdst, kjnc⟩ := k
  refine ⟨?_, sameDistaff_trans hdst kdst, fun hq => ?_⟩
  · rw [keq, heq]
  · have hq' : lanesQuiet y := by
      unfold lanesQuiet
      rw [hdst.2 hq]
      exact hq
    rw [kjnc hq', hjnc hq]

theorem Chan.idles_closeGate (h : x.syn.active (isLane i) ≠ i) (now : Tbu) (ref : Bool) : x.idles (x.closeGate i now ref) := by
  cases hg : (x.synth i).gate
  · rw [Chan.closeGate_of_closed hg]
    exact Chan.idles_of_eq rfl
  · rw [Chan.closeGate_of_idle h hg]
    refine ⟨?_, sameDistaff_trans (sameDistaff_dstTo x _) (sameDistaff_of_eq rfl), fun hq => Chan.dstTo_jnc_quiet hq _⟩
    rw [Chan.eq_iff_parts]
    simp

/-! ### Power-downs and failures (R290, R517) -/

theorem Chan.powerDown_atRest (h : atRest (x.synth i)) (now : Tbu) : x.powerDown i now = x := by
  unfold Chan.powerDown
  rcases h with h | h | h <;> rw [h]

theorem Chan.powerDown_running (h : ¬atRest (x.synth i)) (now : Tbu) :
    x.powerDown i now = (x.closeGate i now false).setSynth i (x.synth i).down := by
  rw [Synth.down_running h]
  unfold Chan.powerDown
  dsimp only
  rw [Chan.closeGate_synth_self]
  unfold atRest at h
  split <;> simp_all

theorem Chan.idles_setSynth (x : Chan) (i : Fin 4) (a : Synth) : x.idles (x.setSynth i a) :=
  Chan.idles_of_eq (by simp [Chan.eq_iff_parts])

theorem Chan.idles_recover (x : Chan) (lane : Bool) (now : Tbu) : x.idles (x.recover lane now) :=
  Chan.idles_of_eq (by simp [Chan.eq_iff_parts])

theorem Chan.idles_powerDown (h : x.syn.active (isLane i) ≠ i) (now : Tbu) : x.idles (x.powerDown i now) := by
  by_cases hr : atRest (x.synth i)
  · rw [Chan.powerDown_atRest hr]
    exact Chan.idles_of_eq rfl
  · rw [Chan.powerDown_running hr]
    exact (Chan.idles_closeGate h now false).trans (Chan.idles_setSynth ..)

@[simp] theorem Chan.powerDown_pairs (x : Chan) (i : Fin 4) (now : Tbu) : (x.powerDown i now).syn.pair l = x.syn.pair l ∧
    (x.powerDown i now).syn.active l = x.syn.active l ∧ (x.powerDown i now).syn.idle l = x.syn.idle l := by
  by_cases hr : atRest (x.synth i)
  · rw [Chan.powerDown_atRest hr]
    exact ⟨rfl, rfl, rfl⟩
  · rw [Chan.powerDown_running hr]
    simp

/-- What failing makes of a synthesizer. -/
def Synth.failed (a : Synth) : Synth :=
  { a with gate := false, state := .failed, lock := false, tune := .none, waiting := none, retryFrom := none }

theorem Chan.failSynth_eq (x : Chan) (i : Fin 4) (now : Tbu) :
    x.failSynth i now = ((x.closeGate i now false).setSynth i (x.synth i).failed).synFlags := by
  unfold Chan.failSynth
  dsimp only
  rw [Chan.closeGate_synth_self]
  rfl

/-! ### References and commands -/

theorem State.refOk_modCh (s : State) (c : ChanId) {f : Chan → Chan} (h : (f (s.ch c)).trk = (s.ch c).trk) (lane : Bool) :
    (s.modCh c f).refOk c lane = s.refOk c lane := by
  unfold State.refOk
  rw [State.ch_modCh_self, h]
  rfl

/-- A tune, and the cover judged again. -/
theorem State.tuneTo_eq (s : State) (c : ChanId) (i : Fin 4) (why : TuneFor) (setting : Word) (fresh : Bool) :
    s.tuneTo c i why setting fresh = s.modCh c fun x =>
      (x.setSynth i (x.tuned i why setting fresh (s.refOk c (isLane i)) s.now)).recover (isLane i) s.now := by
  unfold State.tuneTo
  simp only [Chan.tuneTo_eq]

/-- A command that only changes its channel answers with what the change makes of it. -/
theorem answers_modCh {o : Host.Outcome State Fault Refusal} {s : State} {t : Tbu} {c : ChanId} {f : Chan → Chan} {P : Chan → Prop}
    (h : o = .next ((s.atTime t).modCh c f)) (hP : P (f (s.ch c))) : Answers o s c P :=
  ⟨_, h, State.onlyChannel_modCh s t c f, by rwa [State.ch_modCh_self]⟩

end Sys2Proof.Machine
end

section
/-! A SWITCH at a position to a sample pair that powers down waits, whatever the lane pair does (R130, R280): the clause of O40 that
makes it pending at once has as its premise only that the pair `lane` does not power down. -/

namespace Sys2Proof.Machine

/-- WOUND, with channel 0 CONFIGURED; of its sample pair the active synthesizer powers down and the other is IDLE_LOCKED, while both
synthesizers of its lane pair are off. -/
def samplePowering : State :=
  { mod := { mode := .wound }
    chans := (Vector.replicate 16 {}).set 0 { skn := { state := .configured }, syn := { sSwpos := 1, synths :=
      #v[{ setting := 10, state := .stopping }, { setting := 10, state := .idleLocked, lock := true }, { setting := 1 }, { setting := 1 }] } } }

/-- The SWITCH is accepted and no power-down of the lane pair holds it up. -/
theorem samplePowering_accepts : samplePowering.windowUp = true ∧ (samplePowering.ch 0).powering true = false ∧
    (samplePowering.ch 0).synTest false 2 true (max samplePowering.now 0) = 0 := by decide

/-- The sample pair powers down, so that the command waits and no switch is pending. -/
theorem samplePowering_waits :
    ∀ u, exec (.switch 0 0 false true) samplePowering = .next u → (u.ch 0).syn.s.pend = none := by
  rintro u ⟨⟩
  decide

/-- Refutes O40: with `lane` the lane pair, the clause of the SWITCH at a position says nothing of the sample pair, which powers down
here; the command waits, and the clause has it pending. -/
theorem not_synthCommands : ¬ Obligations.SynthCommands := by
  intro h
  obtain ⟨hwindow, hlanes, htest⟩ := samplePowering_accepts
  obtain ⟨-, hswitch⟩ := h 0 0 true samplePowering hwindow
  obtain ⟨-, -, hswitch, -⟩ := hswitch hlanes
  obtain ⟨u, hexec, -, hpend, -⟩ := hswitch htest
  have hnone := samplePowering_waits u hexec
  rw [hpend] at hnone
  exact absurd hnone (by simp)

end Sys2Proof.Machine
end

section
/-! A search that qualifies: its synthesizer is locked in, its band stored, and the spare one stopped (R274, R276, R279, R282, R286). -/

namespace Sys2Proof.Machine

variable {t : Tbu} {c : ChanId} {s : State} {x y z : Chan} {i : Fin 4} {now : Tbu} {band : Byte} {kHz : Nat}

/-! ### The stored band (R274) -/

theorem victim_lt {l : List TblEntry} {key : BitVec 48} {k : Nat} (h : victim l key = some k) : k < l.length := by
  have hfind : ∀ {p : TblEntry → Bool}, l.findIdx? p = some k → k < l.length := fun hp => (List.findIdx?_eq_some_iff_getElem.1 hp).1
  unfold victim at h
  split at h
  next k' hk => exact hfind (hk.trans h)
  next =>
    split at h
    next k' hk => exact hfind (hk.trans h)
    next =>
      split at h
      · exact absurd h (by simp)
      · exact hfind h

theorem mem_storeEntry (l : List TblEntry) (e : TblEntry) : e ∈ storeEntry l e := by
  unfold storeEntry
  split
  next k h => exact List.mem_set (victim_lt h) e
  next => simp

/-- The entry under which a search by synthesizer `i` is stored: the setting of a sample synthesizer, the frequency of a lane one. -/
def Chan.newEntry (x : Chan) (i : Fin 4) (band : Byte) (kHz : Nat) (now : Tbu) : TblEntry :=
  { key := if isLane i then BitVec.ofNat 48 kHz else BitVec.ofNat 48 (x.synth i).setting.toNat
    band := band, valid := true, used := now, qual := now }

/-- Synthesizer `i` locked by a search, in state `st`. -/
def Chan.lockedIn (x : Chan) (i : Fin 4) (band : Byte) (kHz : Nat) (now : Tbu) (st : SynState) : Synth :=
  { x.synth i with
    band := band, loaded := some (x.newEntry i band kHz now).key
    table := storeEntry (x.synth i).table (x.newEntry i band kHz now)
    lock := true, meas := kHz, measOk := true, lockKHz := kHz, tune := .none, aligned := true, state := st }

/-! ### An active synthesizer (R276) -/

theorem Chan.qualified_active (hs : (x.synth i).state = .search) (ha : x.syn.active (isLane i) = i) :
    x.qualified i band kHz now = (x.setSynth i (x.lockedIn i band kHz now .active)).recover (isLane i) now := by
  unfold Chan.qualified
  dsimp only
  rw [if_pos hs]
  simp only [Chan.setSynth_syn, Chan.setSynth_synth_self, Chan.setSynth_setSynth]
  rw [if_pos ha]
  rfl

/-! ### An idle one (R279, R282, R286) -/

/-- The channel once its idle synthesizer `i` is `a`; `takes` says that it takes over from a failed partner. -/
def Chan.lockedIdle (x : Chan) (i : Fin 4) (a : Synth) (takes : Bool) (now : Tbu) : Chan :=
  (if takes then (x.setSynth i a).modPair (isLane i) fun p => { p with takeover := true } else x.setSynth i a).recover (isLane i) now

/-- A power-down keeps what was measured and stored. -/
theorem Synth.down_keeps (a : Synth) : a.down.table = a.table ∧ a.down.meas = a.meas ∧ a.down.measOk = a.measOk := by
  by_cases h : atRest a
  · rw [Synth.down_atRest h]
    exact ⟨rfl, rfl, rfl⟩
  · rw [Synth.down_running h]
    exact ⟨rfl, rfl, rfl⟩

/-- Synthesizer `i`, idle, stays as it is or powers down. -/
def Chan.spares (x y : Chan) (i : Fin 4) : Prop :=
  x.idles y ∧ (y.synth i = x.synth i ∨ y.synth i = (x.synth i).down) ∧ ((x.synth i).gate = false → y.dst = x.dst ∧ y.jnc = x.jnc)

theorem Chan.spares_of_eq (h : y = { x with syn := y.syn, flt := y.flt }) (hi : y.synth i = x.synth i) : x.spares y i :=
  ⟨Chan.idles_of_eq h, .inl hi, fun _ => by rw [h]; exact ⟨rfl, rfl⟩⟩

theorem Chan.powerDown_of_closed (h : (x.synth i).gate = false) (now : Tbu) :
    (x.powerDown i now).dst = x.dst ∧ (x.powerDown i now).jnc = x.jnc := by
  by_cases hr : atRest (x.synth i)
  · rw [Chan.powerDown_atRest hr]
    exact ⟨rfl, rfl⟩
  · rw [Chan.powerDown_running hr, Chan.closeGate_of_closed h]
    exact ⟨rfl, rfl⟩

/-- SPARE decides whether the idle synthesizer stops, and the cover is judged again (R282). -/
theorem Chan.spares_spareState (h : x.syn.idle (isLane i) = i) (now : Tbu) :
    x.spares ((x.spareState (isLane i) now).recover (isLane i) now) i := by
  have hi : x.syn.active (isLane i) ≠ i := fun e => x.syn.idle_ne_active (isLane i) (h.trans e.symm)
  unfold Chan.spareState
  rw [h]
  split
  · exact Chan.spares_of_eq (by simp [Chan.eq_iff_parts]) (Chan.recover_synth ..)
  · refine ⟨(Chan.idles_powerDown hi now).trans (Chan.idles_recover ..), .inr ?_, fun hg => ?_⟩
    · rw [Chan.recover_synth, Chan.powerDown_synth, if_pos rfl]
    · simpa using Chan.powerDown_of_closed hg now

/-- What a search did, done to a channel with new flags. -/
theorem Chan.spares_synFlags (h : x.synFlags.spares y i) : x.spares y i := by
  obtain ⟨hidles, hsynth, hclosed⟩ := h
  exact ⟨(Chan.idles_of_eq (y := x.synFlags) rfl).trans hidles, hsynth, hclosed⟩

/-- What the end of a tune for purpose `why` makes of the pair whose idle synthesizer it locked. -/
def Chan.tuneOver (x : Chan) (lane : Bool) (why : TuneFor) (takes : Bool) (now : Tbu) : Chan :=
  match why with
  | .prepare => (x.modPair lane fun p => { p with
      prepared := true, hopping := false, pend := if (x.syn.pair lane).hopping then some false else p.pend
      byCmd := p.byCmd || (x.syn.pair lane).hopping, inLoss := p.inLoss && !(x.syn.pair lane).hopping }).synEvent SynEv.prepDone
  | .cover | .verify | .retry => if takes then x.synFlags else (x.synFlags.spareState lane now).recover lane now
  | .start => if (x.syn.pair lane).covered then (x.spareState lane now).recover lane now else x
  | _ => x

theorem Chan.qualified_idle (hs : (x.synth i).state = .search) (ha : x.syn.active (isLane i) ≠ i) :
    ∃ takes, x.qualified i band kHz now =
      (x.lockedIdle i (x.lockedIn i band kHz now .idleLocked) takes now).tuneOver (isLane i) (x.synth i).tune takes now := by
  unfold Chan.qualified
  dsimp only
  rw [if_pos hs]
  simp only [Chan.setSynth_syn, Chan.setSynth_synth_self, Chan.setSynth_setSynth]
  rw [if_neg ha]
  exact ⟨_, rfl⟩

theorem Chan.spares_tuneOver (h : x.syn.idle (isLane i) = i) (why : TuneFor) (takes : Bool) (now : Tbu) :
    x.spares (x.tuneOver (isLane i) why takes now) i := by
  have hspare := Chan.spares_spareState h now
  have hflags := Chan.spares_synFlags (Chan.spares_spareState (x := x.synFlags) h now)
  have hstays : ∀ y : Chan, y = { x with syn := y.syn, flt := y.flt } → y.synth i = x.synth i → x.spares y i :=
    fun y => Chan.spares_of_eq
  unfold Chan.tuneOver
  split
  · exact hstays _ (by simp [Chan.eq_iff_parts]) (by simp)
  · split
    · exact hstays _ rfl rfl
    · exact hflags
  · split
    · exact hstays _ rfl rfl
    · exact hflags
  · split
    · exact hstays _ rfl rfl
    · exact hflags
  · split
    · exact hspare
    · exact hstays _ rfl rfl
  · exact hstays _ rfl rfl

/-! ### The channel before its spare synthesizer is looked at -/

section
variable {a : Synth} {takes : Bool}

theorem Chan.lockedIdle_keeps (x : Chan) (i : Fin 4) (a : Synth) (takes : Bool) (now : Tbu) :
    x.lockedIdle i a takes now = { x with syn := (x.lockedIdle i a takes now).syn, flt := (x.lockedIdle i a takes now).flt } := by
  unfold Chan.lockedIdle
  split <;> simp [Chan.eq_iff_parts]

@[simp] theorem Chan.lockedIdle_synth (x : Chan) (i : Fin 4) (a : Synth) (takes : Bool) (now : Tbu) :
    (x.lockedIdle i a takes now).synth i = a := by
  unfold Chan.lockedIdle
  rw [Chan.recover_synth]
  split <;> simp

theorem Chan.lockedIdle_idle (x : Chan) (i : Fin 4) (a : Synth) (takes : Bool) (now : Tbu) (l : Bool) :
    (x.lockedIdle i a takes now).syn.idle l = x.syn.idle l := by
  unfold Chan.lockedIdle
  rw [Chan.recover_idle]
  split
  · exact Syn.idle_of_second ((x.setSynth i a).modPair_second fun _ => rfl)
  · rfl

end

/-! ### TUNE_QUALIFIED -/

theorem exec_tuneQualified (hp : ((s.ch c).synth i).paused = false) (href : s.refOk c (isLane i) = true)
    (hst : ((s.ch c).synth i).state = .search) (hm : (s.ch c).measPass i ((s.ch c).synth i).setting kHz = true)
    (hlong : ((s.ch c).synth i).tuneAt + 2 * us ≤ max s.now t) :
    exec (.tuneQualified t c i band kHz) s = .next ((s.atTime t).modCh c fun x => x.qualified i band kHz (max s.now t)) := by
  have htuning : ((s.ch c).synth i).tuning = true := Synth.tuning_of_state hp (.inl hst)
  have href' : (s.atTime t).refOk c (isLane i) = true := href
  refine congrArg Host.Outcome.next (if_pos ?_)
  rw [State.ch_atTime, htuning, href', hm, Synth.lockedLong, State.atTime_now, decide_eq_true hlong]
  rfl

/-- Lock that does not last, or a frequency that fails, qualifies nothing (R276). -/
theorem exec_tuneQualified_not (h : (s.ch c).measPass i ((s.ch c).synth i).setting kHz = false ∨
    max s.now t < ((s.ch c).synth i).tuneAt + 2 * us) : exec (.tuneQualified t c i band kHz) s = .next (s.atTime t) := by
  refine congrArg Host.Outcome.next (if_neg ?_)
  rw [State.ch_atTime, Synth.lockedLong, State.atTime_now]
  rcases h with h | h
  · simp [h]
  · simp [Nat.not_le.2 h]

/-- What a search that qualifies leaves of its channel. -/
theorem tuneQualified_search (hp : ((s.ch c).synth i).paused = false) (href : s.refOk c (isLane i) = true)
    (hst : ((s.ch c).synth i).state = .search) (hm : (s.ch c).measPass i ((s.ch c).synth i).setting kHz = true)
    (hlong : ((s.ch c).synth i).tuneAt + 2 * us ≤ max s.now t) :
    Answers (exec (.tuneQualified t c i band kHz) s) s c fun x =>
      x = { s.ch c with syn := x.syn, flt := x.flt, dst := x.dst, jnc := x.jnc } ∧ sameDistaff (s.ch c) x ∧
      (((s.ch c).synth i).gate = false ∨ (s.ch c).syn.active (isLane i) = i → x.dst = (s.ch c).dst ∧ x.jnc = (s.ch c).jnc) ∧
      (s.ch c).newEntry i band kHz (max s.now t) ∈ (x.synth i).table ∧
      (x.synth i).meas = kHz ∧ (x.synth i).measOk = true ∧
      ((s.ch c).syn.active (isLane i) = i → (x.synth i).state = .active ∧ (x.synth i).lock = true) ∧
      ((s.ch c).syn.active (isLane i) ≠ i → ((s.ch c).synth i).tune = .prepare →
        (x.synth i).state = .idleLocked ∧ (x.synth i).lock = true ∧ (x.syn.pair (isLane i)).prepared = true ∧
        bit x.syn.events.bits SynEv.prepDone = true) := by
  refine answers_modCh (exec_tuneQualified hp href hst hm hlong) ?_
  generalize s.ch c = x at *
  generalize max s.now t = now at *
  by_cases ha : x.syn.active (isLane i) = i
  · rw [Chan.qualified_active hst ha, Chan.recover_synth, Chan.setSynth_synth_self]
    refine ⟨by simp [Chan.eq_iff_parts], sameDistaff_of_eq (by simp), fun _ => by simp, mem_storeEntry .., rfl, rfl, fun _ => ⟨rfl, rfl⟩,
      fun h => absurd ha h⟩
  · have hi := Syn.idle_of_not_active ha
    obtain ⟨takes, hq⟩ := Chan.qualified_idle (band := band) (kHz := kHz) (now := now) hst ha
    have hlocked := x.lockedIdle_keeps i (x.lockedIn i band kHz now .idleLocked) takes now
    have hsynth := x.lockedIdle_synth i (x.lockedIn i band kHz now .idleLocked) takes now
    have hidle := x.lockedIdle_idle i (x.lockedIn i band kHz now .idleLocked) takes now (isLane i)
    rw [hq]
    generalize x.lockedIdle i (x.lockedIn i band kHz now .idleLocked) takes now = y at *
    have hspares := Chan.spares_tuneOver (hidle.trans hi) (x.synth i).tune takes now
    obtain ⟨z, hz⟩ : ∃ z, z = y.tuneOver (isLane i) (x.synth i).tune takes now := ⟨_, rfl⟩
    rw [← hz] at hspares ⊢
    obtain ⟨hidles, hstops, hclosed⟩ := hspares
    obtain ⟨heq, hdst, -⟩ := (Chan.idles_of_eq hlocked).trans hidles
    have hlost : (z.synth i).table = (y.synth i).table ∧ (z.synth i).meas = (y.synth i).meas ∧ (z.synth i).measOk = (y.synth i).measOk := by
      rcases hstops with h | h <;> rw [h]
      · exact ⟨rfl, rfl, rfl⟩
      · exact Synth.down_keeps _
    obtain ⟨htable, hmeas, hok⟩ := hlost
    rw [hsynth] at htable hmeas hok hclosed
    refine ⟨heq, hdst, fun h => ?_, by rw [htable]; exact mem_storeEntry .., hmeas, hok, fun h => absurd h ha, fun _ hprep => ?_⟩
    · obtain ⟨hd, hj⟩ := hclosed (h.resolve_right ha)
      rw [hd, hj, hlocked]
      exact ⟨rfl, rfl⟩
    · rw [hz, hprep]
      unfold Chan.tuneOver
      simp [hsynth, Chan.lockedIn, bit_evSet_self, SynEv.prepDone]

end Sys2Proof.Machine
end

section
/-! A tune that goes wrong, and measurements: a stored band that fails, a retry that fails, ceiling holds and measurement windows (R275 to
R277, R286, R517). -/

namespace Sys2Proof.Machine

variable {t : Tbu} {c : ChanId} {s : State} {x y : Chan} {i j : Fin 4} {now : Tbu} {kHz : Nat}

/-! ### Stored bands that fail (R275) -/

/-- The synthesizer with the band it loaded forgotten. -/
def Synth.forgot (a : Synth) : Synth := a.onLoaded fun e => { e with valid := false }

theorem Synth.forgot_eq (a : Synth) : a.forgot = { a with table := a.forgot.table } := a.onLoaded_eq _

theorem Synth.forgot_table_of_none {a : Synth} (h : a.loaded = none) : a.forgot.table = a.table := by
  unfold Synth.forgot Synth.onLoaded
  rw [h]

/-- No entry of the key that was loaded is valid any more. -/
theorem Synth.forgot_invalid {a : Synth} {key : BitVec 48} (h : a.loaded = some key) {e : TblEntry} (he : e ∈ a.forgot.table)
    (hkey : e.key = key) : e.valid = false := by
  unfold Synth.forgot Synth.onLoaded at he
  rw [h] at he
  obtain ⟨f, -, rfl⟩ := List.mem_map.1 he
  by_cases hf : (f.valid && f.key == key) = true
  · rw [if_pos hf]
  · rw [if_neg hf] at hkey ⊢
    exact eq_false_of_ne_true fun hv => hf (by simp [hv, hkey])

/-- A synthesizer whose band failed searches afresh. -/
def Synth.staled (a : Synth) (now : Tbu) : Synth :=
  { a.forgot with
    state := .search, hit := false, fresh := satInc a.fresh, loaded := none, tuneAt := now
    tune := if a.tune = .verify then .cover else a.tune }

theorem Chan.staleBand_eq (x : Chan) (i : Fin 4) (now : Tbu) :
    x.staleBand i now = ((x.synEvent SynEv.stale).setSynth i ((x.synth i).staled now)).recover (isLane i) now := by
  have hdrop : (x.dropEntry i).synth i = (x.synth i).forgot := Chan.setSynth_synth_self ..
  unfold Chan.staleBand
  dsimp only
  rw [Chan.synEvent_synth, hdrop, Synth.staled, Synth.forgot_eq]
  exact congrArg (Chan.recover · _ _) (Chan.setSynth_setSynth (x.synEvent SynEv.stale) ..)

theorem exec_stale (hp : ((s.ch c).synth i).paused = false) (hst : ((s.ch c).synth i).state = .tune)
    (hf : ((s.ch c).syn.pair (isLane i)).failover = false) :
    exec (.stale t c i) s = .next ((s.atTime t).modCh c fun x => x.staleBand i (max s.now t)) := by
  have htuning := Synth.tuning_of_state hp (.inr hst)
  refine congrArg Host.Outcome.next ((if_pos ?_).trans (if_neg ?_))
  · rw [State.ch_atTime, htuning, hst]
    rfl
  · rw [State.ch_atTime, hf]
    exact Bool.false_ne_true

theorem stale_searches (hp : ((s.ch c).synth i).paused = false) (hst : ((s.ch c).synth i).state = .tune)
    (hf : ((s.ch c).syn.pair (isLane i)).failover = false) :
    Answers (exec (.stale t c i) s) s c fun x =>
      x = { s.ch c with syn := x.syn, flt := x.flt } ∧
      (x.synth i).state = .search ∧ (x.synth i).hit = false ∧ (x.synth i).fresh = satInc ((s.ch c).synth i).fresh ∧
      (∀ key, ((s.ch c).synth i).loaded = some key → ∀ e ∈ (x.synth i).table, e.key = key → e.valid = false) ∧
      (((s.ch c).synth i).loaded = none → (x.synth i).table = ((s.ch c).synth i).table) ∧ bit x.syn.events.bits SynEv.stale = true ∧
      ∀ j : Fin 4, j ≠ i → x.synth j = (s.ch c).synth j := by
  refine answers_modCh (exec_stale hp hst hf) ?_
  rw [Chan.staleBand_eq, Chan.recover_synth, Chan.setSynth_synth_self]
  refine ⟨by simp [Chan.eq_iff_parts], rfl, rfl, rfl, fun key hkey e he => Synth.forgot_invalid hkey he, Synth.forgot_table_of_none, ?_,
    fun j hj => ?_⟩
  · rw [Chan.recover_events]
    exact bit_evSet_self (by decide)
  · rw [Chan.recover_synth, Chan.setSynth_synth_ne _ _ hj]
    rfl

/-! ### A retry that fails (R286) -/

theorem Chan.stepHeld_of_idle (h : x.syn.active (isLane i) ≠ i) : x.stepHeld i = false := by
  unfold Chan.stepHeld
  cases hl : isLane i
  · rfl
  · rw [hl] at h
    simp [h]

theorem exec_tuneFailed_retry (hp : ((s.ch c).synth i).paused = false) (href : s.refOk c (isLane i) = true)
    (hst : ((s.ch c).synth i).state = .search) (ha : (s.ch c).syn.active (isLane i) ≠ i) (hr : ((s.ch c).synth i).tune = .retry) :
    exec (.tuneFailed t c i) s =
      .next ((s.atTime t).modCh c fun x => (x.failSynth i (max s.now t)).synEvent SynEv.retryFail) := by
  have htuning := Synth.tuning_of_state hp (.inl hst)
  have href' : (s.atTime t).refOk c (isLane i) = true := href
  have hheld := Chan.stepHeld_of_idle ha
  refine congrArg Host.Outcome.next ((if_pos ?_).trans ?_)
  · rw [State.ch_atTime, htuning, hst, href']
    rfl
  · unfold State.tuneEnds
    dsimp only
    rw [State.ch_atTime, hheld, if_neg Bool.false_ne_true, if_neg ha, if_pos hr]
    rfl

/-- A synthesizer that fails while its partner is the active one. -/
theorem Chan.idles_failSynth (h : x.syn.active (isLane i) ≠ i) (now : Tbu) : x.idles (x.failSynth i now) := by
  rw [Chan.failSynth_eq]
  exact ((Chan.idles_closeGate h now false).trans (Chan.idles_setSynth ..)).trans (Chan.idles_of_eq rfl)

@[simp] theorem Chan.failSynth_synth (x : Chan) (i j : Fin 4) (now : Tbu) :
    (x.failSynth i now).synth j = if j = i then (x.synth i).failed else x.synth j := by
  rw [Chan.failSynth_eq, Chan.synFlags_synth, Chan.setSynth_synth, Chan.closeGate_synth]
  split <;> rfl

theorem tuneFailed_retry (hp : ((s.ch c).synth i).paused = false) (href : s.refOk c (isLane i) = true)
    (hst : ((s.ch c).synth i).state = .search) (ha : (s.ch c).syn.active (isLane i) ≠ i) (hr : ((s.ch c).synth i).tune = .retry) :
    Answers (exec (.tuneFailed t c i) s) s c fun x =>
      x = { s.ch c with syn := x.syn, flt := x.flt, dst := x.dst, jnc := x.jnc } ∧ sameDistaff (s.ch c) x ∧
      (lanesQuiet (s.ch c) → x.jnc = (s.ch c).jnc) ∧
      x.synth i = { (s.ch c).synth i with
        gate := false, state := .failed, lock := false, tune := .none, waiting := none, retryFrom := none } ∧
      bit x.syn.events.bits SynEv.retryFail = true ∧ ∀ j : Fin 4, j ≠ i → x.synth j = (s.ch c).synth j := by
  refine answers_modCh (exec_tuneFailed_retry hp href hst ha hr) ?_
  obtain ⟨heq, hdst, hjnc⟩ := (Chan.idles_failSynth ha (max s.now t)).trans
    (Chan.idles_of_eq (y := ((s.ch c).failSynth i (max s.now t)).synEvent SynEv.retryFail) rfl)
  refine ⟨heq, hdst, hjnc, ?_, bit_evSet_self (by decide), fun j hj => ?_⟩
  · rw [Chan.synEvent_synth, Chan.failSynth_synth, if_pos rfl]
    rfl
  · rw [Chan.synEvent_synth, Chan.failSynth_synth, if_neg hj]

/-! ### Ceiling holds (R277) -/

/-- The synthesizer after a ceiling hold that is not the second of its tune. -/
def Synth.ceilHeld (a : Synth) (now : Tbu) : Synth :=
  { (if a.state = .search then a else a.forgot) with
    state := .search, hit := false, fresh := satInc a.fresh, ceilHolds := 1, loaded := none, tuneAt := now
    tune := if a.state = .active then .retune else a.tune, lock := false, aligned := false, follow := false }

theorem Chan.ceilSearch_eq (x : Chan) (i : Fin 4) (now : Tbu) :
    x.ceilSearch i now = (x.setSynth i ((x.synth i).ceilHeld now)).recover (isLane i) now := by
  have hdrop : (x.dropEntry i).synth i = (x.synth i).forgot := Chan.setSynth_synth_self ..
  unfold Chan.ceilSearch Synth.ceilHeld
  dsimp only
  split
  · rfl
  · rw [hdrop, Synth.forgot_eq]
    exact congrArg (Chan.recover · _ _) (Chan.setSynth_setSynth ..)

theorem exec_ceilHold (href : s.refOk c (isLane i) = true)
    (h : ((s.ch c).synth i).heldLocked = true ∨ ((s.ch c).synth i).tuning = true ∧ ((s.ch c).synth i).ceilHolds = 0) :
    exec (.ceilHold t c i) s =
      .next ((s.atTime t).modCh c fun x => (x.synEvent SynEv.ceilHold).ceilSearch i (max s.now t)) := by
  have href' : (s.atTime t).refOk c (isLane i) = true := href
  refine congrArg Host.Outcome.next ((if_pos ?_).trans ((if_pos (h.imp_right And.right)).trans (State.modCh_modCh ..)))
  rw [State.ch_atTime, href', Bool.and_true]
  rcases h with h | ⟨h, -⟩ <;> rw [h]
  · exact Bool.or_true _
  · rfl

/-- A ceiling hold that begins a fresh search. -/
theorem ceilHold_searches (href : s.refOk c (isLane i) = true)
    (h : ((s.ch c).synth i).heldLocked = true ∨ ((s.ch c).synth i).tuning = true ∧ ((s.ch c).synth i).ceilHolds = 0) :
    Answers (exec (.ceilHold t c i) s) s c fun x =>
      x = { s.ch c with syn := x.syn, flt := x.flt } ∧ bit x.syn.events.bits SynEv.ceilHold = true ∧
      (∀ j : Fin 4, j ≠ i → x.synth j = (s.ch c).synth j) ∧ x.synth i = ((s.ch c).synth i).ceilHeld (max s.now t) := by
  refine answers_modCh (exec_ceilHold href h) ?_
  rw [Chan.ceilSearch_eq]
  refine ⟨by simp [Chan.eq_iff_parts], ?_, fun j hj => ?_, ?_⟩
  · rw [Chan.recover_events]
    exact bit_evSet_self (by decide)
  · rw [Chan.recover_synth, Chan.setSynth_synth_ne _ _ hj]
    rfl
  · rw [Chan.recover_synth, Chan.setSynth_synth_self]
    rfl

theorem Synth.ceilHeld_setting (a : Synth) (now : Tbu) : (a.ceilHeld now).setting = a.setting := by
  unfold Synth.ceilHeld
  split
  · rfl
  · rw [Synth.forgot_eq]

theorem Synth.ceilHeld_tune {a : Synth} (h : a.heldLocked = true) (now : Tbu) : (a.ceilHeld now).tune = .retune := by
  unfold Synth.heldLocked at h
  unfold Synth.ceilHeld
  simp_all

/-! ### Measurement windows (R276, R284) -/

theorem exec_freqWindowEnd (hoff : ((s.ch c).synth i).state ≠ .off) (hstop : ((s.ch c).synth i).state ≠ .stopping)
    (hfail : ((s.ch c).synth i).state ≠ .failed)
    (h : (s.ch c).measPass i ((s.ch c).synth i).setting kHz = true ∨ ((s.ch c).synth i).state ≠ .active) :
    exec (.freqWindowEnd t c i kHz) s = .next ((s.atTime t).modCh c fun x => x.setSynth i { x.synth i with
      meas := kHz, measOk := (s.ch c).measPass i ((s.ch c).synth i).setting kHz
      follow := (x.synth i).follow && !(s.ch c).measPass i ((s.ch c).synth i).setting kHz }) := by
  have hno : (!(s.ch c).measPass i ((s.ch c).synth i).setting kHz && ((s.ch c).synth i).state == .active) = false := by
    rcases h with h | h <;> simp [h]
  have hex : exec (.freqWindowEnd t c i kHz) s = execFreqWindowEnd t c i kHz s := rfl
  rw [hex]
  unfold execFreqWindowEnd
  simp only [State.ch_atTime]
  exact congrArg Host.Outcome.next ((if_neg (by rw [hno]; exact Bool.false_ne_true)).trans (State.modCh_congr rfl))

end Sys2Proof.Machine
end

section
/-! Cover searches, verify tunes, the lapse of a cover and the one retry (R268, R282, R283, R286). -/

namespace Sys2Proof.Machine

variable {t : Tbu} {c : ChanId} {s : State} {x y : Chan} {i j : Fin 4} {lane : Bool} {now : Tbu}

/-- A command whose effect on its channel is a tune of synthesizer `i`, after a change `f` of the synthesizers that leaves the others
as they are. -/
theorem answers_tune {o : Host.Outcome State Fault Refusal} {f : Chan → Chan} {why : TuneFor} {setting : Word} {fresh : Bool}
    (h : o = .next (((s.atTime t).modCh c f).tuneTo c i why setting fresh))
    (hf : f (s.ch c) = { s.ch c with syn := (f (s.ch c)).syn, flt := (f (s.ch c)).flt })
    (hsyn : ∀ j : Fin 4, j ≠ i → (f (s.ch c)).synth j = (s.ch c).synth j) {P : Chan → Prop}
    (hP : ∀ x : Chan, x = { s.ch c with syn := x.syn, flt := x.flt } → (∀ j : Fin 4, j ≠ i → x.synth j = (s.ch c).synth j) →
      x.synth i = (f (s.ch c)).tuned i why setting fresh (s.refOk c (isLane i)) (max s.now t) →
      (∀ l, x.syn.pair l = { (f (s.ch c)).syn.pair l with covered := (x.syn.pair l).covered }) → P x) :
    Answers o s c P := by
  have htrk : (f (s.ch c)).trk = (s.ch c).trk := by rw [hf]
  have href : ((s.atTime t).modCh c f).refOk c (isLane i) = s.refOk c (isLane i) := State.refOk_modCh (s.atTime t) c htrk (isLane i)
  rw [State.tuneTo_eq, State.modCh_modCh, href] at h
  refine answers_modCh h (hP _ ?_ (fun j hj => ?_) ?_ fun l => Chan.recover_pair_keeps ..)
  · rw [Chan.eq_iff_parts]
    rw [Chan.eq_iff_parts] at hf
    simpa using hf
  · rw [Chan.recover_synth, Chan.setSynth_synth_ne _ _ hj, hsyn j hj]
  · rw [Chan.recover_synth, Chan.setSynth_synth_self]
    rfl

/-- The target of a setting depends on the tracker alone. -/
theorem Chan.targetKHz_of_trk (h : y.trk = x.trk) (lane : Bool) (setting : Word) : y.targetKHz lane setting = x.targetKHz lane setting := by
  unfold Chan.targetKHz Chan.target
  rw [h]

/-! ### Cover searches and verify tunes (R282, R283) -/

theorem Chan.recover_idleFree (x : Chan) (lane : Bool) (now : Tbu) : (x.recover lane now).idleFree lane = x.idleFree lane := by
  unfold Chan.idleFree Chan.configured
  simp [Chan.judged]

theorem Chan.idleFree_state (h : x.idleFree lane = true) : (x.idl lane).state ≠ .stopping := by
  unfold Chan.idleFree at h
  intro hst
  simp [hst] at h

theorem exec_coverSearch (hfree : (s.ch c).idleFree lane = true) (href : s.refOk c lane = true)
    (hcov : (s.ch c).coverNow lane (max s.now t) = false) :
    exec (.coverSearch t c lane) s = .next (((s.atTime t).modCh c fun x => x.recover lane (max s.now t)).tuneTo c ((s.ch c).syn.idle lane)
      .cover ((s.ch c).act lane).setting true) := by
  have hch : ((s.atTime t).modCh c fun x => x.recover lane (max s.now t)).ch c = (s.ch c).recover lane (max s.now t) :=
    State.ch_modCh_self ..
  have href' : ((s.atTime t).modCh c fun x => x.recover lane (max s.now t)).refOk c lane = true :=
    (State.refOk_modCh (s.atTime t) c (by simp) lane).trans href
  have hex : exec (.coverSearch t c lane) s = execCoverSearch t c lane s := rfl
  rw [hex]
  unfold execCoverSearch
  dsimp only
  rw [State.atTime_now, hch, href', Chan.recover_idleFree, hfree, Chan.recover_pair_self, Chan.judged, hcov, Chan.recover_idle,
    Chan.recover_act]
  rfl

theorem coverSearch_tunes (hfree : (s.ch c).idleFree lane = true) (href : s.refOk c lane = true)
    (hcov : (s.ch c).coverNow lane (max s.now t) = false) :
    Answers (exec (.coverSearch t c lane) s) s c fun x =>
      x = { s.ch c with syn := x.syn, flt := x.flt } ∧
      (∀ j : Fin 4, j ≠ (s.ch c).syn.idle lane → x.synth j = (s.ch c).synth j) ∧
      x.idl lane = { (s.ch c).idl lane with
        setting := ((s.ch c).act lane).setting, state := .search, lock := false, measOk := false, tune := .cover
        ceilHolds := 0, paused := false, hit := false, fresh := satInc ((s.ch c).idl lane).fresh, tuneAt := max s.now t
        aligned := false, follow := false, lockKHz := (s.ch c).targetKHz lane ((s.ch c).act lane).setting, loaded := none } := by
  refine answers_tune (exec_coverSearch hfree href hcov) (by simp [Chan.eq_iff_parts]) (fun j _ => Chan.recover_synth ..)
    fun x heq hothers hsynth hpair => ⟨heq, hothers, ?_⟩
  have hst : (((s.ch c).recover lane (max s.now t)).synth ((s.ch c).syn.idle lane)).state ≠ .stopping := by
    rw [Chan.recover_synth]
    exact Chan.idleFree_state hfree
  have hidle : x.syn.idle lane = (s.ch c).syn.idle lane :=
    Syn.idle_of_second ((congrArg Pair.second (hpair lane)).trans (Chan.recover_second ..))
  rw [Chan.idl, hidle, hsynth, Chan.tuned_search hst (.inl rfl), Chan.tuneBegun, Chan.recover_synth, isLane_idle, href,
    Chan.targetKHz_of_trk (x := s.ch c) (by simp)]
  rfl

theorem exec_verifyTune (hfree : (s.ch c).idleFree lane = true) (href : s.refOk c lane = true)
    (hcov : ((s.ch c).syn.pair lane).covered = true) (hoff : ((s.ch c).idl lane).state = .off) :
    exec (.verifyTune t c lane) s = .next (((s.atTime t).modCh c id).tuneTo c ((s.ch c).syn.idle lane)
      .verify ((s.ch c).act lane).setting false) := by
  have href' : (s.atTime t).refOk c lane = true := href
  rw [State.modCh_id]
  refine congrArg Host.Outcome.next (if_pos ?_)
  rw [State.ch_atTime, hcov, hfree, href', hoff]
  rfl

theorem verifyTune_tunes (hfree : (s.ch c).idleFree lane = true) (href : s.refOk c lane = true)
    (hcov : ((s.ch c).syn.pair lane).covered = true) (hoff : ((s.ch c).idl lane).state = .off) :
    Answers (exec (.verifyTune t c lane) s) s c fun x =>
      x = { s.ch c with syn := x.syn, flt := x.flt } ∧
      (∀ j : Fin 4, j ≠ (s.ch c).syn.idle lane → x.synth j = (s.ch c).synth j) ∧
      (x.idl lane).tune = .verify ∧ (x.idl lane).setting = ((s.ch c).act lane).setting ∧
      ∀ e, (s.ch c).lookup ((s.ch c).syn.idle lane) ((s.ch c).act lane).setting = some e →
        (x.idl lane).state = .tune ∧ (x.idl lane).band = e.band := by
  refine answers_tune (exec_verifyTune hfree href hcov hoff) rfl (fun j _ => rfl)
    fun x heq hothers hsynth hpair => ⟨heq, hothers, ?_⟩
  have hst : ((s.ch c).synth ((s.ch c).syn.idle lane)).state ≠ .stopping := Chan.idleFree_state hfree
  have hidle : x.syn.idle lane = (s.ch c).syn.idle lane := Syn.idle_of_second (by rw [hpair]; rfl)
  obtain ⟨-, hset, htune, -⟩ := Chan.tuned_begun (why := .verify) (setting := ((s.ch c).act lane).setting) (fresh := false)
    (ref := s.refOk c (isLane ((s.ch c).syn.idle lane))) (now := max s.now t) hst
  rw [Chan.idl, hidle, hsynth]
  refine ⟨htune, hset, fun e he => ?_⟩
  rw [id, Chan.tuned_stored hst he]
  exact ⟨rfl, rfl⟩

/-! ### A cover that lapses (R283) -/

theorem Chan.coverNow_of_lapsed (hst : (x.idl lane).state ≠ .idleLocked)
    (h : ∀ e ∈ (x.idl lane).table, x.entryHits lane (x.act lane).setting e = true → e.qual + 100 * ms < now) :
    x.coverNow lane now = false := by
  have hold : ((x.idl lane).table.any fun e => x.entryHits lane (x.act lane).setting e && decide (now ≤ e.qual + coverLife)) = false := by
    refine List.any_eq_false.2 fun e he hhit => ?_
    obtain ⟨hhit, hdue⟩ := Bool.and_eq_true_iff.1 hhit
    exact absurd (of_decide_eq_true hdue) (Nat.not_le.2 (h e he hhit))
  unfold Chan.coverNow
  dsimp only
  rw [hold]
  simp [hst]

theorem exec_coverLapse (hst : ((s.ch c).idl lane).state ≠ .idleLocked)
    (h : ∀ e ∈ ((s.ch c).idl lane).table, (s.ch c).entryHits lane ((s.ch c).act lane).setting e = true →
      e.qual + 100 * ms < max s.now t) :
    exec (.coverLapse t c lane) s = .next ((s.atTime t).modCh c fun x => x.modPair lane fun p => { p with covered := false }) :=
  congrArg Host.Outcome.next (State.modCh_congr (Chan.recover_of_none (Chan.coverNow_of_lapsed hst h)))

/-! ### The one retry (R268, R286) -/

theorem exec_synRetry_unconfigured (h : (s.ch c).configured = false) : exec (.synRetry t c i) s = .next (s.atTime t) := by
  refine congrArg Host.Outcome.next (if_neg ?_)
  rw [State.ch_atTime, h]
  exact Bool.false_ne_true

theorem exec_synRetry_early {a : Tbu} (hfrom : ((s.ch c).synth i).retryFrom = some a) (hearly : max s.now t < a + ms) :
    exec (.synRetry t c i) s = .next (s.atTime t) := by
  refine congrArg Host.Outcome.next (if_neg fun h => any_not_due hfrom ms _ hearly (Bool.and_eq_true_iff.1 h).2)

/-- The channel with the retry of synthesizer `i` taken. -/
def Chan.retryTaken (x : Chan) (i : Fin 4) : Chan := x.setSynth i { x.synth i with retryFrom := none }

theorem exec_synRetry_due {a : Tbu} (hc : (s.ch c).configured = true) (hst : ((s.ch c).synth i).state = .failed)
    (ha : (s.ch c).syn.active (isLane i) ≠ i) (hfrom : ((s.ch c).synth i).retryFrom = some a) (hdue : a + ms ≤ max s.now t) :
    exec (.synRetry t c i) s = .next (((s.atTime t).modCh c fun x => x.retryTaken i).tuneTo c i .retry
      ((s.ch c).act (isLane i)).setting true) := by
  refine congrArg Host.Outcome.next (if_pos ?_)
  rw [State.ch_atTime, hc, hst, bne_iff_ne.2 ha]
  exact any_due hfrom ms _ hdue

theorem synRetry_tunes {a : Tbu} (hc : (s.ch c).configured = true) (hst : ((s.ch c).synth i).state = .failed)
    (ha : (s.ch c).syn.active (isLane i) ≠ i) (hfrom : ((s.ch c).synth i).retryFrom = some a) (hdue : a + ms ≤ max s.now t) :
    Answers (exec (.synRetry t c i) s) s c fun x =>
      x = { s.ch c with syn := x.syn, flt := x.flt } ∧ (∀ j : Fin 4, j ≠ i → x.synth j = (s.ch c).synth j) ∧
      x.synth i = { (s.ch c).synth i with
        setting := ((s.ch c).act (isLane i)).setting, state := .search, lock := false, measOk := false, tune := .retry
        ceilHolds := 0, paused := !s.refOk c (isLane i), hit := false, fresh := satInc ((s.ch c).synth i).fresh
        tuneAt := max s.now t, aligned := false, follow := false
        lockKHz := (s.ch c).targetKHz (isLane i) ((s.ch c).act (isLane i)).setting, loaded := none, retryFrom := none } := by
  refine answers_tune (exec_synRetry_due hc hst ha hfrom hdue) rfl (fun j hj => Chan.setSynth_synth_ne _ _ hj)
    fun x heq hothers hsynth _ => ⟨heq, hothers, ?_⟩
  have hself : ((s.ch c).retryTaken i).synth i = { (s.ch c).synth i with retryFrom := none } := Chan.setSynth_synth_self ..
  have hrun : (((s.ch c).retryTaken i).synth i).state ≠ .stopping := by
    rw [hself]
    exact fun h => absurd (hst.symm.trans h) (by decide)
  rw [hsynth, Chan.tuned_search hrun (.inl rfl), Chan.tuneBegun, hself]
  rfl

end Sys2Proof.Machine
end

section
/-! A power-down ends, and what waited for it begins (R130, R280, R290). -/

namespace Sys2Proof.Machine

variable {t : Tbu} {c : ChanId} {s : State} {x y : Chan} {i j : Fin 4} {lane : Bool} {now : Tbu}

/-! ### The synthesizer is off -/

/-- A synthesizer that has powered down. -/
def Synth.stopped (a : Synth) : Synth :=
  { a with gate := false, state := .off, lock := false, tune := .none, paused := false, waiting := none }

theorem Chan.powerOff_eq (h : (x.synth i).state ≠ .failed) (now : Tbu) :
    x.powerOff i now = (x.closeGate i now false).setSynth i (x.synth i).stopped := by
  unfold Chan.powerOff
  dsimp only
  rw [Chan.closeGate_synth_self]
  split
  next e => exact absurd e h
  next => rfl

/-- The channel once synthesizer `i` is off. -/
def Chan.wentOff (x : Chan) (i : Fin 4) (now : Tbu) : Chan :=
  ((x.closeGate i now false).setSynth i (x.synth i).stopped).recover (isLane i) now

theorem Chan.wentOff_synth (x : Chan) (i j : Fin 4) (now : Tbu) :
    (x.wentOff i now).synth j = if j = i then (x.synth i).stopped else x.synth j := by
  rw [Chan.wentOff, Chan.recover_synth, Chan.setSynth_synth, Chan.closeGate_synth]
  split <;> rfl

theorem Chan.wentOff_pair (x : Chan) (i : Fin 4) (now : Tbu) (l : Bool) :
    (x.wentOff i now).syn.pair l = { x.syn.pair l with covered := ((x.wentOff i now).syn.pair l).covered } := by
  have hpair : ((x.closeGate i now false).setSynth i (x.synth i).stopped).syn.pair l = x.syn.pair l := by simp
  rw [← hpair]
  exact Chan.recover_pair_keeps ..

@[simp] theorem Chan.wentOff_selected (x : Chan) (i : Fin 4) (now : Tbu) (l : Bool) :
    (x.wentOff i now).syn.active l = x.syn.active l ∧ (x.wentOff i now).syn.idle l = x.syn.idle l := by
  simp [Chan.wentOff]

/-- Its partner is not powering down either. -/
theorem Chan.wentOff_powering (ha : x.syn.active (isLane i) = i) (hidle : (x.idl (isLane i)).state ≠ .stopping) (now : Tbu) :
    (x.wentOff i now).powering (isLane i) = false := by
  have hne : x.syn.idle (isLane i) ≠ i := fun e => x.syn.idle_ne_active (isLane i) (e.trans ha.symm)
  unfold Chan.powering Chan.act Chan.idl
  rw [(x.wentOff_selected i now _).1, (x.wentOff_selected i now _).2, ha, Chan.wentOff_synth, if_pos rfl, Chan.wentOff_synth, if_neg hne]
  exact beq_eq_false_iff_ne.2 hidle

theorem Chan.wentOff_eq (x : Chan) (i : Fin 4) (now : Tbu) : x.wentOff i now = { x with
    syn := (x.wentOff i now).syn, flt := (x.wentOff i now).flt, jnc := (x.wentOff i now).jnc, ply := (x.wentOff i now).ply
    cal := (x.wentOff i now).cal, dst := (x.wentOff i now).dst } := by
  simp [Chan.eq_iff_parts, Chan.wentOff]

theorem sameDistaff_wentOff (x : Chan) (i : Fin 4) (now : Tbu) : sameDistaff x (x.wentOff i now) :=
  sameDistaff_trans (sameDistaff_closeGate x i now false) (sameDistaff_of_eq (by simp [Chan.wentOff]))

/-! ### The commands that waited -/

/-- The channel with no command waiting for pair `lane`. -/
def Chan.unqueued (x : Chan) (lane : Bool) : Chan := x.modPair lane fun p => { p with queued := [] }

theorem Chan.unqueued_active (x : Chan) (lane l : Bool) : (x.unqueued lane).syn.active l = x.syn.active l :=
  Syn.active_of_second (x.modPair_second fun _ => rfl)

theorem State.runQueued_free (h : (s.ch c).powering lane = false) : s.runQueued c lane =
    ((s.ch c).syn.pair lane).queued.foldl (fun s q => s.synEffect c lane q.cmd q.atPos q.setting) (s.modCh c fun x => x.unqueued lane) :=
  if_neg (by simp [h])

theorem exec_powerDownDone (hst : ((s.ch c).synth i).state = .stopping) (hw : ((s.ch c).synth i).waiting = none) :
    exec (.powerDownDone t c i) s =
      .next (((s.atTime t).modCh c fun x => x.wentOff i (max s.now t)).runQueued c (isLane i)) := by
  have hoff : ((s.ch c).powerOff i (max s.now t)).recover (isLane i) (max s.now t) = (s.ch c).wentOff i (max s.now t) := by
    rw [Chan.powerOff_eq (by rw [hst]; decide)]
    rfl
  have hmod : ((s.atTime t).modCh c fun x => (x.powerOff i (max s.now t)).recover (isLane i) (max s.now t)) =
      (s.atTime t).modCh c fun x => x.wentOff i (max s.now t) := State.modCh_congr hoff
  have hex : exec (.powerDownDone t c i) s = execPowerDownDone t c i s := rfl
  rw [hex]
  unfold execPowerDownDone
  dsimp only
  rw [State.ch_atTime, hst, hw, ← hmod]
  rfl

/-- With no command waiting, the channel is as it went off. -/
theorem State.runQueued_none (h : ((s.ch c).syn.pair lane).queued = []) : s.runQueued c lane = s := by
  cases hp : (s.ch c).powering lane
  · have hsame : (s.ch c).unqueued lane = s.ch c := Chan.modPair_fixed (by rw [← h])
    rw [State.runQueued_free hp, h, List.foldl_nil]
    exact State.modCh_fixed (f := fun x => x.unqueued lane) hsame
  · exact if_pos hp

theorem powerDownDone_off (hst : ((s.ch c).synth i).state = .stopping) (hw : ((s.ch c).synth i).waiting = none)
    (hq : ((s.ch c).syn.pair (isLane i)).queued = []) :
    Answers (exec (.powerDownDone t c i) s) s c fun x =>
      x = { s.ch c with syn := x.syn, flt := x.flt, jnc := x.jnc, ply := x.ply, cal := x.cal, dst := x.dst } ∧
      sameDistaff (s.ch c) x ∧
      (∀ j : Fin 4, j ≠ i → x.synth j = (s.ch c).synth j) ∧
      x.synth i = { (s.ch c).synth i with
        gate := false, state := .off, lock := false, tune := .none, paused := false, waiting := none } := by
  have hnone : ((((s.atTime t).modCh c fun x => x.wentOff i (max s.now t)).ch c).syn.pair (isLane i)).queued = [] := by
    rw [State.ch_modCh_self, Chan.wentOff_pair]
    exact hq
  refine answers_modCh (t := t) (f := fun x => x.wentOff i (max s.now t)) ?_
    ⟨Chan.wentOff_eq .., sameDistaff_wentOff .., fun j hj => ?_, ?_⟩
  · rw [exec_powerDownDone hst hw, State.runQueued_none hnone]
  · rw [Chan.wentOff_synth, if_neg hj]
  · rw [Chan.wentOff_synth, if_pos rfl]
    rfl

/-! ### A SYN_START that waited (R130) -/

/-- The start of a synthesizer that is off (R279). -/
theorem State.synEffect_start (h : ((s.ch c).act lane).state = .off) (atPos : Bool) (setting : Word) :
    s.synEffect c lane 4 atPos setting = s.tuneTo c ((s.ch c).syn.active lane) .start ((s.ch c).act lane).setting false := by
  unfold State.synEffect
  rw [Chan.act] at h
  simp only [h]
  rfl

theorem powerDownDone_starts {q : SynCmd} (hst : ((s.ch c).synth i).state = .stopping) (hw : ((s.ch c).synth i).waiting = none)
    (ha : (s.ch c).syn.active (isLane i) = i) (hidle : ((s.ch c).idl (isLane i)).state ≠ .stopping)
    (hq : ((s.ch c).syn.pair (isLane i)).queued = [q]) (hcmd : q.cmd = 4) :
    Answers (exec (.powerDownDone t c i) s) s c fun x =>
      (x.syn.pair (isLane i)).queued = [] ∧ (x.synth i).tune = .start ∧ (x.synth i).setting = ((s.ch c).synth i).setting ∧
      ((x.synth i).state = .tune ∨ (x.synth i).state = .search) := by
  have hch : ((s.atTime t).modCh c fun x => x.wentOff i (max s.now t)).ch c = (s.ch c).wentOff i (max s.now t) := State.ch_modCh_self ..
  have hfree := Chan.wentOff_powering ha hidle (max s.now t)
  have hqueued : (((s.ch c).wentOff i (max s.now t)).syn.pair (isLane i)).queued = [q] := by
    rw [Chan.wentOff_pair]
    exact hq
  obtain ⟨y, hy⟩ : ∃ y, y = ((s.ch c).wentOff i (max s.now t)).unqueued (isLane i) := ⟨_, rfl⟩
  have hself : y.synth i = ((s.ch c).synth i).stopped := by
    rw [hy, Chan.unqueued, Chan.modPair_synth, Chan.wentOff_synth, if_pos rfl]
  have hact : y.syn.active (isLane i) = i := by
    rw [hy, Chan.unqueued_active, (Chan.wentOff_selected ..).1, ha]
  have hempty : (y.syn.pair (isLane i)).queued = [] := by rw [hy, Chan.unqueued, Chan.modPair_pair_self]
  have hmod : (((s.atTime t).modCh c fun x => x.wentOff i (max s.now t)).modCh c fun x => x.unqueued (isLane i)) =
      (s.atTime t).modCh c fun _ => y := by
    rw [State.modCh_modCh]
    exact State.modCh_congr hy.symm
  have hychan : ((s.atTime t).modCh c fun _ => y).ch c = y := State.ch_modCh_self ..
  have hyact : y.act (isLane i) = ((s.ch c).synth i).stopped := by rw [Chan.act, hact, hself]
  have hexec := exec_powerDownDone (t := t) hst hw
  rw [State.runQueued_free (by rw [hch, hfree]), hch, hqueued, List.foldl_cons, List.foldl_nil, hcmd, hmod,
    State.synEffect_start (by rw [hychan, hyact]; rfl), hychan, hact, hyact, State.tuneTo_eq, State.modCh_modCh] at hexec
  refine answers_modCh hexec ?_
  have hrun : (y.synth i).state ≠ .stopping := by
    rw [hself]
    simp [Synth.stopped]
  obtain ⟨hstate, hset, htune, -⟩ := Chan.tuned_begun (why := .start) (setting := ((s.ch c).synth i).stopped.setting) (fresh := false)
    (ref := ((s.atTime t).modCh c fun _ => y).refOk c (isLane i)) (now := max s.now t) hrun
  refine ⟨?_, ?_⟩
  · rw [Chan.recover_pair_keeps]
    exact hempty
  · rw [Chan.recover_synth, Chan.setSynth_synth_self]
    exact ⟨htune, hset, hstate⟩

end Sys2Proof.Machine
end

section
/-! Searches, tunes, retries, covers and power-downs of the synthesizers, put together. -/

namespace Sys2Proof.Machine

/-- Settles O41: the searches, measurements, covers, retries and power-downs of a channel's synthesizers, each by the theorem about its
own command. -/
theorem synthTuning : Obligations.SynthTuning := by
  refine fun t c s => ⟨fun i hp href => ⟨fun _ _ => tuneQualified_search hp href, fun _ _ => exec_tuneQualified_not,
    stale_searches hp, tuneFailed_retry hp href, fun hst hfirst => ?_⟩, fun i hheld href => ?_, fun i kHz => exec_freqWindowEnd,
    fun lane => ⟨fun hfree href => ⟨coverSearch_tunes hfree href, verifyTune_tunes hfree href⟩, exec_coverLapse⟩,
    fun i => ⟨exec_synRetry_unconfigured, fun a hc hst ha hfrom => ⟨synRetry_tunes hc hst ha hfrom, exec_synRetry_early hfrom⟩,
      powerDownDone_off, fun q => powerDownDone_starts⟩⟩
  · obtain ⟨u, hexec, honly, heq, hevent, -, hsynth⟩ := ceilHold_searches (t := t) href (.inr ⟨Synth.tuning_of_state hp hst, hfirst⟩)
    refine ⟨u, hexec, honly, heq, hevent, ?_⟩
    rw [hsynth]
    exact ⟨rfl, rfl, rfl⟩
  · obtain ⟨u, hexec, honly, heq, hevent, hothers, hsynth⟩ := ceilHold_searches (t := t) href (.inl hheld)
    refine ⟨u, hexec, honly, heq, hevent, hothers, ?_⟩
    rw [hsynth]
    exact ⟨rfl, Synth.ceilHeld_tune hheld _, rfl, Synth.ceilHeld_setting .., rfl, rfl, rfl⟩

end Sys2Proof.Machine
end

section
/-! Output gates open and close (R192, R193, R240, R271, R276, R277, R291). -/

namespace Sys2Proof.Machine

variable {t : Tbu} {c : ChanId} {s u : State} {x y : Chan} {i j : Fin 4} {a : Bool} {now : Tbu} {tb : Nat}

/-! ### The alignment that the phase detector shows (R271) -/

theorem Chan.putAligned_synth (x : Chan) (i j : Fin 4) (a : Bool) :
    (x.putAligned i a).synth j = { x.synth j with aligned := ((x.putAligned i a).synth j).aligned } := by
  unfold Chan.putAligned
  split
  · rw [Chan.setSynth_synth]
    split
    next h => rw [h]
    next => rfl
  · rfl

theorem Chan.putAligned_synth_ne (a : Bool) (h : j ≠ i) : (x.putAligned i a).synth j = x.synth j := by
  unfold Chan.putAligned
  split
  · exact Chan.setSynth_synth_ne _ _ h
  · rfl

theorem Chan.putAligned_lane (h : isLane i = true) (a : Bool) : ((x.putAligned i a).synth i).aligned = a := by
  unfold Chan.putAligned
  rw [if_pos h, Chan.setSynth_synth_self]

@[simp] theorem Chan.putAligned_pairs (x : Chan) (i : Fin 4) (a : Bool) (l : Bool) :
    (x.putAligned i a).syn.pair l = x.syn.pair l ∧ (x.putAligned i a).syn.active l = x.syn.active l ∧
    (x.putAligned i a).syn.idle l = x.syn.idle l := by
  unfold Chan.putAligned
  split <;> exact ⟨rfl, rfl, rfl⟩

/-- Which clock comes first after a loss of REF does not depend on any alignment. -/
theorem Chan.putAligned_switchFirst (x : Chan) (i : Fin 4) (a l : Bool) : (x.putAligned i a).switchFirst l = x.switchFirst l := by
  unfold Chan.switchFirst Chan.idl
  rw [(x.putAligned_pairs i a l).1, (x.putAligned_pairs i a l).2.2, Chan.putAligned_synth]

theorem State.gateCond_congr (hch : u.ch c = s.ch c) (htrk : u.trk = s.trk) (i : Fin 4) : u.gateCond c i = s.gateCond c i := by
  unfold State.gateCond State.refOk
  rw [hch, htrk]

/-- A gate's conditions do not depend on the instant. -/
theorem State.gateCond_atTime (s : State) (t : Tbu) (c : ChanId) (f : Chan → Chan) (i : Fin 4) :
    ((s.atTime t).modCh c f).gateCond c i = (s.modCh c f).gateCond c i :=
  State.gateCond_congr ((State.ch_modCh_self ..).trans (State.ch_modCh_self s c f).symm) rfl i

/-- The edges of a lane synthesizer have to be aligned (R276). -/
theorem State.gateCond_unaligned (hlane : isLane i = true) (h : ((s.ch c).synth i).aligned = false) : s.gateCond c i = false := by
  unfold State.gateCond
  simp [hlane, h]

/-! ### A gate opens (R184, R193, R276, R292) -/

theorem Chan.clockStart_ana (x : Chan) (now : Tbu) (tb : Nat) : (x.clockStart now tb).ana = { x.ana with zclamp := false } := by
  simp [Chan.clockStart]

theorem Chan.clockStart_dryAt (x : Chan) (now : Tbu) (tb : Nat) : (x.clockStart now tb).ply.dryAt = none := by
  unfold Chan.clockStart Chan.dryEnd
  dsimp only
  split
  · rw [Chan.publish_eq]
    rfl
  next h => exact h

theorem Chan.openGate_lane (h : isLane i = true) (now : Tbu) (tb : Nat) : x.openGate i now tb = { x with
    syn := (x.openGate i now tb).syn, jnc := (x.openGate i now tb).jnc, dst := (x.openGate i now tb).dst } := by
  unfold Chan.openGate
  simp [Chan.eq_iff_parts, h]

theorem Chan.openGate_sample (h : isLane i = false) (now : Tbu) (tb : Nat) :
    (x.openGate i now tb).ply.dryAt = none ∧ (x.openGate i now tb).ana = { x.ana with zclamp := false } := by
  unfold Chan.openGate
  dsimp only
  rw [h]
  refine ⟨Chan.clockStart_dryAt .., (Chan.clockStart_ana ..).trans ?_⟩
  simp

theorem Chan.openGate_synth (x : Chan) (i j : Fin 4) (now : Tbu) (tb : Nat) :
    (x.openGate i now tb).synth j = if j = i then { x.synth i with gate := true } else x.synth j := by
  have hsyn : (x.openGate i now tb).syn = (x.setSynth i { x.synth i with gate := true }).syn := by
    unfold Chan.openGate Chan.setSynth Chan.synth
    simp
  rw [← Chan.setSynth_synth, Chan.synth, hsyn]
  rfl

theorem sameDistaff_openGate (x : Chan) (i : Fin 4) (now : Tbu) (tb : Nat) : sameDistaff x (x.openGate i now tb) := by
  refine sameDistaff_trans (sameDistaff_dstTo x (q16 now)) (sameDistaff_of_eq ?_)
  unfold Chan.openGate
  simp

/-- The row of a gate that opens, in two courses. -/
theorem exec_gateOpen (hr : u = s.modCh c fun x => x.putAligned i a) : exec (.gateOpen t c ⟨i, a⟩) s =
    .next (if u.gateCond c i && !((s.ch c).synth i).gate && !(s.ch c).switchFirst (isLane i) then
      (s.atTime t).modCh c fun x => (x.putAligned i a).openGate i (max s.now t) (s.atTime t).tbase
    else (s.atTime t).modCh c fun x => x.putAligned i a) := by
  subst hr
  have hch : ((s.atTime t).modCh c fun x => x.putAligned i a).ch c = (s.ch c).putAligned i a := State.ch_modCh_self ..
  have hex : exec (.gateOpen t c ⟨i, a⟩) s = execGateOpen t c ⟨i, a⟩ s := rfl
  rw [hex]
  unfold execGateOpen
  dsimp only
  rw [State.gateCond_atTime, hch, Chan.putAligned_switchFirst, Chan.putAligned_synth, State.modCh_modCh]
  rfl

/-! ### A gate closes (R192, R277) -/

theorem exec_gateClose (hr : u = s.modCh c fun x => x.putAligned i a) : ∃ ref, exec (.gateClose t c ⟨i, a⟩) s =
    .next (if u.gateCond c i then (s.atTime t).modCh c fun x => x.putAligned i a
      else (s.atTime t).modCh c fun x => (x.putAligned i a).closeGate i (max s.now t) ref) := by
  subst hr
  have hex : exec (.gateClose t c ⟨i, a⟩) s = execGateClose t c ⟨i, a⟩ s := rfl
  rw [hex]
  unfold execGateClose
  dsimp only
  rw [State.gateCond_atTime, State.modCh_modCh]
  exact ⟨_, rfl⟩

theorem Chan.dryStart_begins (hrun : x.mod.state = .run) (hwet : x.ply.dryAt = none) (now : Tbu) (ref : Bool) :
    (x.dryStart now ref).ply.dryAt = some now ∧ bit (x.dryStart now ref).ply.events.bits PlyEv.clkGap = true := by
  unfold Chan.dryStart
  dsimp only
  rw [if_pos ⟨hrun, hwet⟩, Chan.publish_eq]
  exact ⟨rfl, bit_evSet_self (by decide)⟩

/-- The sample gate closes in RUN. -/
theorem Chan.closeGate_dry (ha : x.syn.active false = i) (hopen : (x.synth i).gate = true) (hrun : x.mod.state = .run)
    (hwet : x.ply.dryAt = none) (now : Tbu) (ref : Bool) :
    (x.closeGate i now ref).ply.dryAt = some now ∧ bit (x.closeGate i now ref).ply.events.bits PlyEv.clkGap = true := by
  have hlane : isLane i = false := by rw [← ha, isLane_active]
  have hsel : (x.syn.active (isLane i) == i) = true := by rw [hlane, ha, beq_self_eq_true]
  unfold Chan.closeGate
  dsimp only
  rw [if_pos hopen, if_pos hsel, if_neg (by simp [hlane])]
  exact Chan.dryStart_begins (by simp [hrun]) (by simp [hwet]) _ _

/-! ### The clauses on gates -/

theorem gateOpen_opens (hr : u = s.modCh c fun x => x.putAligned i a) (hcond : u.gateCond c i = true)
    (hclosed : ((s.ch c).synth i).gate = false) (hfirst : (s.ch c).switchFirst (isLane i) = false) :
    Answers (exec (.gateOpen t c ⟨i, a⟩) s) s c fun x =>
      x = { s.ch c with syn := x.syn, jnc := x.jnc, ply := x.ply, ana := x.ana, flt := x.flt, dst := x.dst } ∧
      sameDistaff (s.ch c) x ∧
      (isLane i = true → x = { s.ch c with syn := x.syn, jnc := x.jnc, dst := x.dst }) ∧
      (isLane i = false → x.ply.dryAt = none ∧ x.ana = { (s.ch c).ana with zclamp := false }) ∧
      x.synth i = { (u.ch c).synth i with gate := true } ∧ ∀ j : Fin 4, j ≠ i → x.synth j = (s.ch c).synth j := by
  have hexec : exec (.gateOpen t c ⟨i, a⟩) s =
      .next ((s.atTime t).modCh c fun x => (x.putAligned i a).openGate i (max s.now t) (s.atTime t).tbase) := by
    rw [exec_gateOpen hr, hcond, hclosed, hfirst]
    rfl
  have hu : u.ch c = (s.ch c).putAligned i a := by rw [hr, State.ch_modCh_self]
  refine answers_modCh hexec ⟨?_, ?_, fun hl => ?_, fun hl => ?_, ?_, fun j hj => ?_⟩
  · simp [Chan.eq_iff_parts]
  · exact sameDistaff_trans (sameDistaff_of_eq (by simp)) (sameDistaff_openGate ..)
  · rw [Chan.openGate_lane hl]
    simp
  · simpa using Chan.openGate_sample hl (max s.now t) (s.atTime t).tbase (x := (s.ch c).putAligned i a)
  · rw [Chan.openGate_synth, if_pos rfl, hu]
  · rw [Chan.openGate_synth, if_neg hj, Chan.putAligned_synth_ne a hj]

/-- A gate that stays as it is. -/
theorem gateOpen_stays (hr : u = s.modCh c fun x => x.putAligned i a)
    (h : u.gateCond c i = false ∨ (s.ch c).switchFirst (isLane i) = true) :
    exec (.gateOpen t c ⟨i, a⟩) s = .next ((s.atTime t).modCh c fun x => x.putAligned i a) := by
  rw [exec_gateOpen hr, if_neg]
  rcases h with h | h <;> simp [h]

theorem gateClose_stays (hr : u = s.modCh c fun x => x.putAligned i a) (h : u.gateCond c i = true) :
    exec (.gateClose t c ⟨i, a⟩) s = .next ((s.atTime t).modCh c fun x => x.putAligned i a) := by
  obtain ⟨ref, hexec⟩ := exec_gateClose (t := t) hr
  rw [hexec, if_pos h]

theorem gateCond_of_unaligned (hr : u = s.modCh c fun x => x.putAligned i a) (hlane : isLane i = true) (ha : a = false) :
    u.gateCond c i = false := by
  refine State.gateCond_unaligned hlane ?_
  rw [hr, State.ch_modCh_self, Chan.putAligned_lane hlane, ha]

theorem gateClose_closes (hr : u = s.modCh c fun x => x.putAligned i a) (hcond : u.gateCond c i = false)
    (hopen : ((s.ch c).synth i).gate = true) :
    Answers (exec (.gateClose t c ⟨i, a⟩) s) s c fun x =>
      x = { s.ch c with syn := x.syn, jnc := x.jnc, ply := x.ply, cal := x.cal, dst := x.dst } ∧ sameDistaff (s.ch c) x ∧
      x.synth i = { (u.ch c).synth i with gate := false } ∧ (∀ j : Fin 4, j ≠ i → x.synth j = (s.ch c).synth j) ∧
      ((s.ch c).syn.active false = i → (s.ch c).mod.state = .run → (s.ch c).ply.dryAt = none →
        x.ply.dryAt = some (max s.now t) ∧ bit x.ply.events.bits PlyEv.clkGap = true) := by
  obtain ⟨ref, hexec⟩ := exec_gateClose (t := t) hr
  rw [hcond, if_neg Bool.false_ne_true] at hexec
  have hu : u.ch c = (s.ch c).putAligned i a := by rw [hr, State.ch_modCh_self]
  refine answers_modCh hexec ⟨?_, ?_, ?_, fun j hj => ?_, fun ha hrun hwet => ?_⟩
  · simp [Chan.eq_iff_parts]
  · exact sameDistaff_trans (sameDistaff_of_eq (by simp)) (sameDistaff_closeGate ..)
  · rw [Chan.closeGate_synth_self, hu]
  · rw [Chan.closeGate_synth_ne _ _ _ hj, Chan.putAligned_synth_ne a hj]
  · refine Chan.closeGate_dry ((Chan.putAligned_pairs ..).2.1.trans ha) ?_ (by simpa using hrun) (by simpa using hwet) _ _
    rw [Chan.putAligned_synth]
    exact hopen

end Sys2Proof.Machine
end

section
/-! An active synthesizer loses its lock: a failover begins, or a lane synthesizer that follows PACE retunes (R276, R284, R289). -/

namespace Sys2Proof.Machine

variable {t : Tbu} {c : ChanId} {s : State} {x y : Chan} {i j : Fin 4} {lane : Bool} {now : Tbu}

/-! ### What was prepared is abandoned (R284) -/

/-- The pair once what its idle synthesizer prepared is abandoned. -/
def Pair.abandoned (p : Pair) : Pair :=
  { p with
    pend := none, byCmd := false, hopping := false, prepared := false
    queued := p.queued.filter fun q => !q.switching }

/-- Only the flag of a lost switch and the place of a sample switch depend on what there was to abandon. -/
theorem Chan.abandon_syn (x : Chan) (lane : Bool) : (x.abandon lane).syn =
    { x.syn.setPair lane (x.syn.pair lane).abandoned with events := (x.abandon lane).syn.events } := by
  unfold Chan.abandon
  cases lane <;> (dsimp only; split <;> rfl)

@[simp] theorem Chan.abandon_synth (x : Chan) (lane : Bool) (j : Fin 4) : (x.abandon lane).synth j = x.synth j := by
  rw [Chan.synth, Chan.abandon_syn]
  cases lane <;> rfl

@[simp] theorem Chan.abandon_pair (x : Chan) (lane : Bool) : (x.abandon lane).syn.pair lane = (x.syn.pair lane).abandoned := by
  rw [Chan.abandon_syn]
  cases lane <;> rfl

@[simp] theorem Chan.abandon_active (x : Chan) (lane : Bool) : (x.abandon lane).syn.active lane = x.syn.active lane :=
  Syn.active_of_second (by rw [Chan.abandon_pair]; rfl)

/-! ### The gaps of a failed active synthesizer count (R477) -/

@[simp] theorem Chan.gapStart_keeps (x : Chan) (lane : Bool) (now : Tbu) :
    (x.gapStart lane now).mod = x.mod ∧ (x.gapStart lane now).tlh = x.tlh ∧ (x.gapStart lane now).trk = x.trk ∧
    (x.gapStart lane now).skn = x.skn ∧ (x.gapStart lane now).seq = x.seq ∧ (x.gapStart lane now).ana = x.ana ∧
    (x.gapStart lane now).syn = x.syn ∧ (x.gapStart lane now).tdc = x.tdc ∧ (x.gapStart lane now).mem = x.mem ∧
    (x.gapStart lane now).stq = x.stq ∧ (x.gapStart lane now).cal = x.cal ∧ (x.gapStart lane now).dof = x.dof ∧
    (x.gapStart lane now).flt = x.flt := by
  unfold Chan.gapStart
  cases lane <;> simp

theorem Chan.gapStart_lane (x : Chan) (now : Tbu) : (x.gapStart true now).dst.laneCut = { clip := q16 now } := rfl

theorem sameDistaff_laneCut (x : Chan) (g : FrameGap) : sameDistaff x { x with dst := { x.dst with laneCut := g } } :=
  ⟨rfl, fun _ => rfl⟩

theorem sameDistaff_gapStart (x : Chan) (lane : Bool) (now : Tbu) : sameDistaff x (x.gapStart lane now) := by
  refine sameDistaff_trans (sameDistaff_dstTo x (q16 now)) ?_
  cases lane
  · exact sameDistaff_of_eq rfl
  · exact sameDistaff_laneCut ..

/-! ### An active synthesizer fails (R284) -/

/-- An active synthesizer that has failed under cover. -/
def Synth.failing (a : Synth) : Synth :=
  { a with gate := false, state := .active, lock := false, measOk := false, tune := .none, paused := false }

theorem Chan.failActive_synth (x : Chan) (lane : Bool) (now : Tbu) (j : Fin 4) :
    (x.failActive lane now).synth j = if j = x.syn.active lane then (x.act lane).failing else x.synth j := by
  unfold Chan.failActive Chan.act
  dsimp only
  rw [Chan.abandon_active, Chan.setSynth_synth, Chan.closeGate_synth_self, Chan.closeGate_synth, Chan.abandon_synth]
  split
  · rfl
  · rw [Chan.abandon_synth]

theorem Chan.failActive_pair (x : Chan) (lane : Bool) (now : Tbu) :
    (x.failActive lane now).syn.pair lane = (x.syn.pair lane).abandoned := by
  unfold Chan.failActive
  simp

theorem sameDistaff_failActive (x : Chan) (lane : Bool) (now : Tbu) : sameDistaff x (x.failActive lane now) := by
  unfold Chan.failActive
  refine sameDistaff_trans (sameDistaff_of_eq (by simp)) (sameDistaff_trans (sameDistaff_closeGate ..) (sameDistaff_of_eq rfl))

/-- The pair in which a failover begins. -/
def Pair.failingOver (p : Pair) (now : Tbu) (inRun second : Bool) : Pair :=
  { p.abandoned with failover := true, failAt := now, failRun := inRun, failSecond := second, covered := false }

/-- The channel in which a failover of pair `lane` begins. -/
def Chan.failsOver (x : Chan) (lane : Bool) (now : Tbu) : Chan :=
  ((x.failActive lane now).gapStart lane now).modPair lane fun p =>
    { p with failover := true, failAt := now, failRun := x.mod.state == .run, failSecond := x.flt.degraded, covered := false }

theorem Chan.failsOver_synth (x : Chan) (lane : Bool) (now : Tbu) (j : Fin 4) :
    (x.failsOver lane now).synth j = if j = x.syn.active lane then (x.act lane).failing else x.synth j := by
  have hsyn : ((x.failActive lane now).gapStart lane now).syn = (x.failActive lane now).syn := by simp
  rw [Chan.failsOver, Chan.modPair_synth, Chan.synth, hsyn]
  exact Chan.failActive_synth ..

theorem Chan.failsOver_pair (x : Chan) (lane : Bool) (now : Tbu) :
    (x.failsOver lane now).syn.pair lane = (x.syn.pair lane).failingOver now (x.mod.state == .run) x.flt.degraded := by
  have hpair : ((x.failActive lane now).gapStart lane now).syn.pair lane = (x.syn.pair lane).abandoned := by
    simp [Chan.failActive_pair]
  rw [Chan.failsOver, Chan.modPair_pair_self, hpair]
  rfl

theorem Chan.failsOver_eq (x : Chan) (lane : Bool) (now : Tbu) : x.failsOver lane now = { x with
    syn := (x.failsOver lane now).syn, trk := (x.failsOver lane now).trk, jnc := (x.failsOver lane now).jnc
    ply := (x.failsOver lane now).ply, cal := (x.failsOver lane now).cal, dst := (x.failsOver lane now).dst } := by
  simp [Chan.eq_iff_parts, Chan.failsOver, Chan.failActive]

theorem Chan.failsOver_dst (x : Chan) (lane : Bool) (now : Tbu) :
    (x.failsOver lane now).dst = ((x.failActive lane now).gapStart lane now).dst := by
  simp [Chan.failsOver]

/-- The idle synthesizer is locked to the active setting and can take over (R282). -/
def Chan.standsBy (x : Chan) (lane : Bool) : Prop :=
  (x.idl lane).state = .idleLocked ∧ (x.idl lane).lock = true ∧ (x.idl lane).setting = (x.act lane).setting

theorem Chan.coverNow_of_standsBy (h : x.standsBy lane) (now : Tbu) : x.coverNow lane now = true := by
  obtain ⟨hst, hlock, hset⟩ := h
  unfold Chan.coverNow
  simp [hst, hlock, hset]

/-- A failure under a cover that is locked already begins the failover and starts no tune. -/
theorem State.activeFail_standsBy (h : (s.ch c).standsBy lane) :
    s.activeFail c lane = s.modCh c fun x => x.failsOver lane s.now := by
  have hne : (s.ch c).syn.idle lane ≠ (s.ch c).syn.active lane := Syn.idle_ne_active _ _
  have hidle : ((s.ch c).failsOver lane s.now).synth ((s.ch c).syn.idle lane) = (s.ch c).idl lane := by
    rw [Chan.failsOver_synth, if_neg hne]
    rfl
  have hmod : ((s.modCh c fun x => x.failActive lane s.now).modCh c fun x => (x.gapStart lane s.now).modPair lane fun p =>
      { p with failover := true, failAt := s.now, failRun := (s.ch c).mod.state == .run, failSecond := (s.ch c).flt.degraded
               covered := false }) = s.modCh c fun x => x.failsOver lane s.now := by
    rw [State.modCh_modCh]
    exact State.modCh_congr rfl
  unfold State.activeFail
  dsimp only
  rw [Chan.coverNow_of_standsBy h]
  have hcond : (((s.modCh c fun x => x.failsOver lane s.now).ch c).synth ((s.ch c).syn.idle lane)).state = .idleLocked ∧
      (((s.modCh c fun x => x.failsOver lane s.now).ch c).synth ((s.ch c).syn.idle lane)).lock = true ∧
      (((s.modCh c fun x => x.failsOver lane s.now).ch c).synth ((s.ch c).syn.idle lane)).setting = ((s.ch c).act lane).setting := by
    rw [State.ch_modCh_self, hidle]
    exact h
  rw [if_pos rfl]
  exact (if_pos (hmod ▸ hcond)).trans hmod

/-! ### Loss of lock (R276, R284, R289) -/

section
variable (hst : ((s.ch c).synth i).state = .active) (href : s.refOk c (isLane i) = true) (hlock : ((s.ch c).synth i).lock = true)
  (ha : (s.ch c).syn.active (isLane i) = i)
include hst href hlock ha

theorem exec_lossOfLock : exec (.lossOfLock t c i) s = .next (if ((s.ch c).synth i).follow then
      ((s.atTime t).modCh c fun x => x.closeGate i (max s.now t) false).tuneTo c i .retune ((s.ch c).synth i).setting false
    else (s.atTime t).activeFail c (isLane i)) := by
  have hcond : ((s.atTime t).refOk c (isLane i) && ((s.ch c).synth i).lock && (s.ch c).syn.active (isLane i) == i) = true := by
    have href' : (s.atTime t).refOk c (isLane i) = true := href
    simp [href', hlock, ha]
  have hex : exec (.lossOfLock t c i) s = execLossOfLock t c i s := rfl
  rw [hex]
  unfold execLossOfLock
  dsimp only
  rw [State.ch_atTime, hst]
  dsimp only
  rw [if_pos hcond]
  rfl

theorem lossOfLock_failsOver (hfollow : ((s.ch c).synth i).follow = false)
    (hidle : ((s.ch c).idl (isLane i)).state = .idleLocked) (hready : ((s.ch c).idl (isLane i)).lock = true)
    (hset : ((s.ch c).idl (isLane i)).setting = ((s.ch c).synth i).setting) :
    Answers (exec (.lossOfLock t c i) s) s c fun x =>
      x = { s.ch c with syn := x.syn, trk := x.trk, jnc := x.jnc, ply := x.ply, cal := x.cal, dst := x.dst } ∧
      sameDistaff (s.ch c) x ∧
      (isLane i = true → x.dst.laneCut = { clip := q16 (max s.now t) }) ∧
      x.synth i = { (s.ch c).synth i with
        gate := false, state := .active, lock := false, measOk := false, tune := .none, paused := false } ∧
      (∀ j : Fin 4, j ≠ i → x.synth j = (s.ch c).synth j) ∧
      x.syn.pair (isLane i) = { (s.ch c).syn.pair (isLane i) with
        pend := none, byCmd := false, hopping := false, prepared := false, failover := true, failAt := max s.now t
        failRun := decide ((s.ch c).mod.state = .run), failSecond := (s.ch c).flt.degraded, covered := false
        queued := ((s.ch c).syn.pair (isLane i)).queued.filter fun q => !q.switching } := by
  have hact : (s.ch c).act (isLane i) = (s.ch c).synth i := by rw [Chan.act, ha]
  have hby : ((s.atTime t).ch c).standsBy (isLane i) := ⟨hidle, hready, hset.trans (congrArg Synth.setting hact.symm)⟩
  have hexec : exec (.lossOfLock t c i) s = .next ((s.atTime t).modCh c fun x => x.failsOver (isLane i) (max s.now t)) := by
    rw [exec_lossOfLock hst href hlock ha, hfollow, if_neg Bool.false_ne_true, State.activeFail_standsBy hby, State.atTime_now]
  refine answers_modCh hexec ⟨Chan.failsOver_eq .., ?_, fun hl => ?_, ?_, fun j hj => ?_, ?_⟩
  · refine sameDistaff_trans (sameDistaff_failActive _ (isLane i) (max s.now t)) ?_
    exact sameDistaff_trans (sameDistaff_gapStart ..) (sameDistaff_of_eq (Chan.failsOver_dst ..))
  · rw [Chan.failsOver_dst, hl, Chan.gapStart_lane]
  · rw [Chan.failsOver_synth, if_pos ha.symm, hact]
    rfl
  · rw [Chan.failsOver_synth, if_neg (by rwa [ha])]
  · rw [Chan.failsOver_pair]
    rfl

theorem lossOfLock_retunes (hfollow : ((s.ch c).synth i).follow = true) :
    Answers (exec (.lossOfLock t c i) s) s c fun x =>
      x = { s.ch c with syn := x.syn, jnc := x.jnc, ply := x.ply, cal := x.cal, flt := x.flt, dst := x.dst } ∧
      (x.synth i).gate = false ∧ (x.synth i).lock = false ∧ (x.synth i).tune = .retune ∧
      (x.synth i).setting = ((s.ch c).synth i).setting ∧ ((x.synth i).state = .tune ∨ (x.synth i).state = .search) ∧
      (x.syn.pair (isLane i)).failover = ((s.ch c).syn.pair (isLane i)).failover := by
  have hexec := exec_lossOfLock (t := t) hst href hlock ha
  rw [if_pos hfollow, State.tuneTo_eq, State.modCh_modCh] at hexec
  have hgate := Chan.closeGate_synth_self (s.ch c) i (max s.now t) false
  have hrun : (((s.ch c).closeGate i (max s.now t) false).synth i).state ≠ .stopping := by
    rw [hgate]
    exact fun h => by simp [hst] at h
  refine answers_modCh hexec ⟨?_, ?_⟩
  · simp [Chan.eq_iff_parts]
  · simp only [Chan.recover_synth, Chan.setSynth_synth_self]
    obtain ⟨hstate, hset, htune, hlost, hclosed⟩ := Chan.tuned_begun (why := .retune) (setting := ((s.ch c).synth i).setting)
      (fresh := false) (now := max s.now t)
      (ref := ((s.atTime t).modCh c fun x => x.closeGate i (max s.now t) false).refOk c (isLane i)) hrun
    refine ⟨hclosed.trans (by rw [hgate]), hlost, htune, hset, hstate, ?_⟩
    rw [Chan.recover_pair_self]
    simp [Chan.judged]

end

end Sys2Proof.Machine
end

section
/-! The multiplexer of a pair changes: at a command or its position, or to end a failover (R278, R281, R284, R291). -/

namespace Sys2Proof.Machine

variable {t : Tbu} {c : ChanId} {s : State} {x y : Chan} {i j : Fin 4} {lane l : Bool} {now : Tbu} {tb : Nat}

/-! ### The change itself (R278) -/

/-- A synthesizer that the multiplexer leaves. -/
def Synth.left (a : Synth) : Synth := { a with gate := false, state := if a.state = .active then .idleLocked else a.state }

/-- A synthesizer that the multiplexer comes to. -/
def Synth.selected (a : Synth) : Synth := { a with gate := true, state := .active }

/-- A pair whose multiplexer has changed. -/
def Pair.switched (p : Pair) : Pair := { p with second := !p.second, prepared := false }

/-- What a change of the multiplexer makes of the synthesizers. -/
def Chan.crossed (x : Chan) (lane : Bool) : Chan :=
  ((x.setSynth (x.syn.active lane) (x.act lane).left).setSynth (x.syn.idle lane) (x.idl lane).selected).modPair lane Pair.switched

theorem Chan.muxTo_syn (x : Chan) (lane : Bool) (now : Tbu) (tb : Nat) : (x.muxTo lane now tb).syn = (x.crossed lane).syn := by
  have hne : x.syn.idle lane ≠ x.syn.active lane := Syn.idle_ne_active _ _
  unfold Chan.muxTo Chan.crossed
  dsimp only
  rw [Chan.setSynth_synth_ne _ _ hne]
  simp only [Chan.ite_keeps, Chan.clockStart_keeps, Chan.publish_keeps, ite_self]
  rw [Chan.dstTo_eq]
  rfl

theorem Chan.muxTo_synth (x : Chan) (lane : Bool) (now : Tbu) (tb : Nat) (j : Fin 4) : (x.muxTo lane now tb).synth j =
    if j = x.syn.idle lane then (x.idl lane).selected else if j = x.syn.active lane then (x.act lane).left else x.synth j := by
  rw [Chan.synth, Chan.muxTo_syn]
  show (x.crossed lane).synth j = _
  rw [Chan.crossed, Chan.modPair_synth, Chan.setSynth_synth, Chan.setSynth_synth]

theorem Chan.muxTo_pair (x : Chan) (lane l : Bool) (now : Tbu) (tb : Nat) :
    (x.muxTo lane now tb).syn.pair l = if l = lane then (x.syn.pair lane).switched else x.syn.pair l := by
  rw [Chan.muxTo_syn, Chan.crossed, Chan.modPair_pair]
  rfl

@[simp] theorem Chan.muxTo_pair_self (x : Chan) (lane : Bool) (now : Tbu) (tb : Nat) :
    (x.muxTo lane now tb).syn.pair lane = (x.syn.pair lane).switched := by rw [Chan.muxTo_pair, if_pos rfl]

theorem sameDistaff_muxTo (x : Chan) (lane : Bool) (now : Tbu) (tb : Nat) : sameDistaff x (x.muxTo lane now tb) := by
  refine sameDistaff_trans (sameDistaff_dstTo x (q16 now)) (sameDistaff_of_eq ?_)
  unfold Chan.muxTo
  dsimp only
  (repeat' split) <;> simp

/-- The channel `y` has the synthesizers that a change of the multiplexer of pair `lane` makes of those of `x`, but for the idle one,
and its gate is closed. -/
structure Chan.Muxed (x y : Chan) (lane : Bool) : Prop where
  second : (y.syn.pair lane).second = !(x.syn.pair lane).second
  other : (y.syn.pair !lane).second = (x.syn.pair !lane).second
  synth : ∀ j : Fin 4, j ≠ x.syn.active lane → y.synth j = if j = x.syn.idle lane then (x.idl lane).selected else x.synth j
  closed : (y.synth (x.syn.active lane)).gate = false

theorem Chan.muxTo_muxed (x : Chan) (lane : Bool) (now : Tbu) (tb : Nat) : x.Muxed (x.muxTo lane now tb) lane where
  second := by rw [Chan.muxTo_pair_self]; rfl
  other := by rw [Chan.muxTo_pair, if_neg (by cases lane <;> decide)]
  synth j hj := by rw [Chan.muxTo_synth, if_neg hj]
  closed := by
    rw [Chan.muxTo_synth, if_neg (Ne.symm (Syn.idle_ne_active _ _)), if_pos rfl]
    rfl

namespace Chan.Muxed

variable (h : x.Muxed y lane)
include h

theorem active : y.syn.active lane = x.syn.idle lane := Syn.active_of_switched h.second

theorem idle : y.syn.idle lane = x.syn.active lane := Syn.idle_of_switched h.second

theorem act : y.act lane = (x.idl lane).selected := by
  rw [Chan.act, h.active, h.synth _ (Syn.idle_ne_active _ _), if_pos rfl]

theorem idl_closed : (y.idl lane).gate = false := by
  rw [Chan.idl, h.idle]
  exact h.closed

/-- The synthesizers of the other pair are as they were. -/
theorem synth_of_other (hj : isLane j ≠ lane) : y.synth j = x.synth j := by
  have hactive : j ≠ x.syn.active lane := fun e => hj (by rw [e, isLane_active])
  have hidle : j ≠ x.syn.idle lane := fun e => hj (by rw [e, isLane_idle])
  rw [h.synth j hactive, if_neg hidle]

theorem act_other : y.act (!lane) = x.act (!lane) := by
  rw [Chan.act, Syn.active_of_second h.other, h.synth_of_other (by simp)]
  rfl

theorem idl_other : y.idl (!lane) = x.idl (!lane) := by
  rw [Chan.idl, Syn.idle_of_second h.other, h.synth_of_other (by simp)]
  rfl

/-- What follows the change and touches the idle synthesizer alone. -/
theorem of_synths {z : Chan} (hpair : ∀ l, (z.syn.pair l).second = (y.syn.pair l).second)
    (hsynth : ∀ j : Fin 4, j ≠ y.syn.idle lane → z.synth j = y.synth j) (hgate : (z.synth (y.syn.idle lane)).gate = false) :
    x.Muxed z lane where
  second := (hpair _).trans h.second
  other := (hpair _).trans h.other
  synth j hj := (hsynth j (by rwa [h.idle])).trans (h.synth j hj)
  closed := by rwa [h.idle] at hgate

theorem of_eq {z : Chan} (hpair : ∀ l, (z.syn.pair l).second = (y.syn.pair l).second) (hsynth : ∀ j : Fin 4, z.synth j = y.synth j) :
    x.Muxed z lane :=
  h.of_synths hpair (fun j _ => hsynth j) (by rw [hsynth]; exact h.idl_closed)

end Chan.Muxed

/-! ### A synthesizer that nothing holds rests (R282) -/

theorem Synth.down_closed {a : Synth} (h : a.gate = false) : a.down.gate = false := by
  by_cases hr : atRest a
  · rwa [Synth.down_atRest hr]
  · rw [Synth.down_running hr]

/-- SPARE powers down the idle synthesizer of a covered pair, or leaves it. -/
def Chan.spared (x : Chan) (lane : Bool) (now : Tbu) : Chan :=
  if (x.syn.pair lane).covered then (x.spareState lane now).recover lane now else x

theorem Chan.spared_cases (x : Chan) (lane : Bool) (now : Tbu) : x.spared lane now = x ∨ x.spared lane now = x.recover lane now ∨
    x.spared lane now = (x.powerDown (x.syn.idle lane) now).recover lane now := by
  unfold Chan.spared Chan.spareState
  split
  · dsimp only
    split
    · exact .inr (.inl rfl)
    · exact .inr (.inr rfl)
  · exact .inl rfl

theorem Chan.powerDown_events (x : Chan) (i : Fin 4) (now : Tbu) : (x.powerDown i now).syn.events = x.syn.events := by
  by_cases hr : atRest (x.synth i)
  · rw [Chan.powerDown_atRest hr]
  · rw [Chan.powerDown_running hr, Chan.setSynth_events, Chan.closeGate_events]

theorem Chan.idles_spared (x : Chan) (lane : Bool) (now : Tbu) : x.idles (x.spared lane now) := by
  have hidle : x.syn.active (isLane (x.syn.idle lane)) ≠ x.syn.idle lane := by
    rw [isLane_idle]
    exact Ne.symm (Syn.idle_ne_active _ _)
  rcases x.spared_cases lane now with h | h | h <;> rw [h]
  · exact Chan.idles_of_eq rfl
  · exact Chan.idles_recover ..
  · exact (Chan.idles_powerDown hidle now).trans (Chan.idles_recover ..)

/-- What rests after a change of the outputs changes nothing more of the channel. -/
theorem Chan.idles.after_output {z : Chan} (h : y.idles z)
    (hy : y = { x with syn := y.syn, jnc := y.jnc, ply := y.ply, ana := y.ana, flt := y.flt, dst := y.dst }) :
    z = { x with syn := z.syn, jnc := z.jnc, ply := z.ply, ana := z.ana, flt := z.flt, dst := z.dst } := by
  obtain ⟨hz, -, -⟩ := h
  rw [hz, hy]

theorem Chan.spared_events (x : Chan) (lane : Bool) (now : Tbu) : (x.spared lane now).syn.events = x.syn.events := by
  rcases x.spared_cases lane now with h | h | h <;> rw [h]
  · rw [Chan.recover_events]
  · rw [Chan.recover_events, Chan.powerDown_events]

theorem Chan.spared_pair (x : Chan) (lane l : Bool) (now : Tbu) :
    (x.spared lane now).syn.pair l = { x.syn.pair l with covered := ((x.spared lane now).syn.pair l).covered } := by
  rcases x.spared_cases lane now with h | h | h <;> rw [h]
  · exact Chan.recover_pair_keeps ..
  · refine (Chan.recover_pair_keeps ..).trans ?_
    rw [(x.powerDown_pairs _ now).1]

theorem Chan.Muxed.spared (h : x.Muxed y lane) (now : Tbu) : x.Muxed (y.spared lane now) lane := by
  refine h.of_synths (fun l => by rw [Chan.spared_pair]) (fun j hj => ?_) ?_
  · rcases y.spared_cases lane now with e | e | e <;> rw [e]
    · rw [Chan.recover_synth]
    · rw [Chan.recover_synth, Chan.powerDown_synth, if_neg hj]
  · rcases y.spared_cases lane now with e | e | e <;> rw [e]
    · exact h.idl_closed
    · rw [Chan.recover_synth]
      exact h.idl_closed
    · rw [Chan.recover_synth, Chan.powerDown_synth, if_pos rfl]
      exact Synth.down_closed h.idl_closed

/-! ### A switch made by a command (R281, R288) -/

/-- The event of a switch. -/
def switchedEv (lane : Bool) : Nat := if lane then SynEv.switchedL else SynEv.switchedS

/-- A pending switch made, before SPARE judges the idle synthesizer. -/
def Chan.switchMade (x : Chan) (lane : Bool) (now : Tbu) (tb : Nat) : Chan :=
  (((x.muxTo lane now tb).modPair lane fun p => { p with pend := none, byCmd := false }).recover lane now).synEvent (switchedEv lane)

theorem State.muxCommand_eq (s : State) (c : ChanId) (lane : Bool) :
    s.muxCommand c lane = s.modCh c fun x => (x.switchMade lane s.now s.tbase).spared lane s.now := rfl

theorem Chan.switchMade_muxed (x : Chan) (lane : Bool) (now : Tbu) (tb : Nat) : x.Muxed (x.switchMade lane now tb) lane := by
  refine (x.muxTo_muxed lane now tb).of_eq (fun l => ?_) fun j => ?_
  · refine (Chan.recover_second _ lane l now).trans (Chan.modPair_second _ fun _ => rfl)
  · rw [Chan.switchMade, Chan.synEvent_synth, Chan.recover_synth, Chan.modPair_synth]

theorem Chan.switchMade_pend (x : Chan) (lane : Bool) (now : Tbu) (tb : Nat) :
    ((x.switchMade lane now tb).syn.pair lane).pend = none := by
  simp [Chan.switchMade, Chan.judged]

theorem Chan.switchMade_event (x : Chan) (lane : Bool) (now : Tbu) (tb : Nat) :
    bit (x.switchMade lane now tb).syn.events.bits (switchedEv lane) = true :=
  bit_evSet_self (by cases lane <;> decide)

theorem Chan.switchMade_eq (x : Chan) (lane : Bool) (now : Tbu) (tb : Nat) : x.switchMade lane now tb = { x with
    syn := (x.switchMade lane now tb).syn, jnc := (x.switchMade lane now tb).jnc, ply := (x.switchMade lane now tb).ply
    ana := (x.switchMade lane now tb).ana, flt := (x.switchMade lane now tb).flt, dst := (x.switchMade lane now tb).dst } := by
  simp [Chan.eq_iff_parts, Chan.switchMade]

theorem sameDistaff_switchMade (x : Chan) (lane : Bool) (now : Tbu) (tb : Nat) : sameDistaff x (x.switchMade lane now tb) :=
  sameDistaff_trans (sameDistaff_muxTo x lane now tb) (sameDistaff_of_eq (by simp [Chan.switchMade]))

/-! ### The command MUX_SWITCH -/

theorem muxSwitch_unready (h : s.muxReady c lane = false) : exec (.muxSwitch t c lane) s = .next (s.atTime t) := by
  have h' : (s.atTime t).muxReady c lane = false := h
  exact congrArg Host.Outcome.next (if_pos (by rw [h']; rfl))

section
variable (hready : s.muxReady c lane = true)
include hready

theorem exec_muxSwitch_pending (hf : ((s.ch c).syn.pair lane).failover = false) (ht : ((s.ch c).syn.pair lane).takeover = false)
    (hp : ((s.ch c).syn.pair lane).pend = some false) : exec (.muxSwitch t c lane) s =
    .next (if (s.ch c).muxWaits lane then s.atTime t else (s.atTime t).muxCommand c lane) := by
  have hready' : (s.atTime t).muxReady c lane = true := hready
  have hex : exec (.muxSwitch t c lane) s = execMuxSwitch t c lane s := rfl
  rw [hex]
  unfold execMuxSwitch
  dsimp only
  rw [State.ch_atTime, hready', hf, ht, hp]
  cases (s.ch c).muxWaits lane <;> rfl

theorem muxSwitch_waits (hf : ((s.ch c).syn.pair lane).failover = false) (ht : ((s.ch c).syn.pair lane).takeover = false)
    (hp : ((s.ch c).syn.pair lane).pend = some false) (hloss : ((s.ch c).syn.pair lane).inLoss = true)
    (htune : ((s.ch c).act lane).tune = .retune) (hst : ((s.ch c).act lane).state = .search ∨ ((s.ch c).act lane).state = .tune) :
    exec (.muxSwitch t c lane) s = .next (s.atTime t) := by
  rw [exec_muxSwitch_pending hready hf ht hp, if_pos]
  unfold Chan.muxWaits Pair.fromLoss
  rcases hst with hst | hst <;> simp [hloss, htune, hst, hp]

theorem muxSwitch_switches (hf : ((s.ch c).syn.pair lane).failover = false) (ht : ((s.ch c).syn.pair lane).takeover = false)
    (hp : ((s.ch c).syn.pair lane).pend = some false)
    (hgo : ((s.ch c).syn.pair lane).inLoss = false ∨ ((s.ch c).act lane).tune ≠ .retune ∨
      (((s.ch c).act lane).state ≠ .search ∧ ((s.ch c).act lane).state ≠ .tune)) :
    Answers (exec (.muxSwitch t c lane) s) s c fun x =>
      (x.syn.pair lane).second = !((s.ch c).syn.pair lane).second ∧ (x.syn.pair lane).pend = none ∧
      x.act lane = { (s.ch c).idl lane with gate := true, state := .active } ∧ (x.idl lane).gate = false ∧
      bit x.syn.events.bits (if lane then SynEv.switchedL else SynEv.switchedS) = true ∧
      x.act (!lane) = (s.ch c).act (!lane) ∧ x.idl (!lane) = (s.ch c).idl (!lane) ∧
      x = { s.ch c with syn := x.syn, jnc := x.jnc, ply := x.ply, ana := x.ana, flt := x.flt, dst := x.dst } ∧
      sameDistaff (s.ch c) x := by
  have hwaits : (s.ch c).muxWaits lane = false := by
    unfold Chan.muxWaits Pair.fromLoss
    rcases hgo with h | h | ⟨h, h'⟩
    · simp [h]
    · simp [h]
    · simp [h, h']
  have hexec := exec_muxSwitch_pending (t := t) hready hf ht hp
  rw [hwaits, if_neg Bool.false_ne_true, State.muxCommand_eq] at hexec
  have hswitched := ((s.ch c).switchMade_muxed lane (max s.now t) (s.atTime t).tbase).spared (max s.now t)
  have hrest := ((s.ch c).switchMade lane (max s.now t) (s.atTime t).tbase).idles_spared lane (max s.now t)
  refine answers_modCh hexec ⟨hswitched.second, ?_, hswitched.act, hswitched.idl_closed, ?_, hswitched.act_other, hswitched.idl_other,
    hrest.after_output (Chan.switchMade_eq ..), sameDistaff_trans (sameDistaff_switchMade ..) hrest.2.1⟩
  · rw [Chan.spared_pair]
    exact Chan.switchMade_pend ..
  · rw [Chan.spared_events]
    exact Chan.switchMade_event ..

end

/-! ### A switch that ends a failover (R284) -/

/-- The event of a failover. -/
def failoverEv (lane : Bool) : Nat := if lane then SynEv.failoverL else SynEv.failoverS

/-- The channel once a failover of pair `lane` has ended in the switch. -/
def Chan.failedOver (x : Chan) (lane : Bool) (now : Tbu) (tb : Nat) : Chan :=
  let y := ((x.muxTo lane now tb).failSynth (x.syn.active lane) now).publish (eventCycle now) Prod.failover
  ((y.setSynth (x.syn.active lane) { y.synth (x.syn.active lane) with retryFrom := some now }).modPair lane fun p =>
    { p with failover := false, covered := false }).synEvent (failoverEv lane)

/-- The gap of the record of a failover: of the samples, or of the frames the lanes were driving (R477). -/
def Chan.failoverGap (x : Chan) (lane : Bool) (now : Tbu) : Nat :=
  if (x.syn.pair lane).failRun then (if lane then (x.dstTo (q16 now)).laneGap else (x.dstTo (q16 now)).wavGap now) else 0

theorem State.muxFailover_eq (s : State) (c : ChanId) (lane : Bool) : s.muxFailover c lane =
    (s.modCh c fun x => x.failedOver lane s.now s.tbase).covered c (coveredFault lane) ((s.ch c).syn.active lane).val
      ((s.ch c).failoverGap lane s.now) ((s.ch c).syn.pair lane).failSecond := by
  have hgap : (if !((s.ch c).syn.pair lane).failRun then 0 else if lane then ((s.ch c).dstTo (q16 s.now)).laneGap
      else ((s.ch c).dstTo (q16 s.now)).wavGap s.now) = (s.ch c).failoverGap lane s.now := by
    unfold Chan.failoverGap
    cases ((s.ch c).syn.pair lane).failRun <;> rfl
  rw [← hgap]
  rfl

theorem Chan.failedOver_synth (x : Chan) (lane : Bool) (now : Tbu) (tb : Nat) (j : Fin 4) : (x.failedOver lane now tb).synth j =
    if j = x.syn.active lane then { (x.act lane).left.failed with retryFrom := some now } else (x.muxTo lane now tb).synth j := by
  have hfail : ∀ j, (((x.muxTo lane now tb).failSynth (x.syn.active lane) now).publish (eventCycle now) Prod.failover).synth j =
      if j = x.syn.active lane then (x.act lane).left.failed else (x.muxTo lane now tb).synth j := by
    intro j
    rw [Chan.publish_eq]
    show ((x.muxTo lane now tb).failSynth (x.syn.active lane) now).synth j = _
    rw [Chan.failSynth_synth, Chan.muxTo_synth x lane now tb (x.syn.active lane), if_neg (Ne.symm (Syn.idle_ne_active _ _)), if_pos rfl]
  unfold Chan.failedOver
  dsimp only
  rw [Chan.synEvent_synth, Chan.modPair_synth, Chan.setSynth_synth, hfail, hfail, if_pos rfl]
  split
  · rfl
  next h => rfl

theorem Chan.failSynth_pair (x : Chan) (i : Fin 4) (now : Tbu) (l : Bool) : (x.failSynth i now).syn.pair l = x.syn.pair l := by
  rw [Chan.failSynth_eq]
  simp

theorem Chan.failedOver_pair (x : Chan) (lane l : Bool) (now : Tbu) (tb : Nat) : (x.failedOver lane now tb).syn.pair l =
    if l = lane then { (x.syn.pair lane).switched with failover := false, covered := false } else x.syn.pair l := by
  unfold Chan.failedOver
  dsimp only
  rw [(Chan.synEvent_pairs _ _).1, Chan.modPair_pair, (Chan.setSynth_syn _ _ _).1, (Chan.setSynth_syn _ _ _).1, Chan.publish_eq]
  show (if l = lane then { ((x.muxTo lane now tb).failSynth _ now).syn.pair lane with failover := false, covered := false } else
    ((x.muxTo lane now tb).failSynth _ now).syn.pair l) = _
  rw [Chan.failSynth_pair, Chan.failSynth_pair, Chan.muxTo_pair_self, Chan.muxTo_pair]
  split <;> rfl

theorem Chan.failedOver_muxed (x : Chan) (lane : Bool) (now : Tbu) (tb : Nat) : x.Muxed (x.failedOver lane now tb) lane where
  second := by rw [Chan.failedOver_pair, if_pos rfl]; rfl
  other := by rw [Chan.failedOver_pair, if_neg (by cases lane <;> decide)]
  synth j hj := by rw [Chan.failedOver_synth, if_neg hj, Chan.muxTo_synth, if_neg hj]
  closed := by rw [Chan.failedOver_synth, if_pos rfl]; rfl

theorem Chan.failedOver_idl (x : Chan) (lane : Bool) (now : Tbu) (tb : Nat) :
    (x.failedOver lane now tb).idl lane = { (x.act lane).left.failed with retryFrom := some now } := by
  rw [Chan.idl, (x.failedOver_muxed lane now tb).idle, Chan.failedOver_synth, if_pos rfl]

theorem Chan.failedOver_event (x : Chan) (lane : Bool) (now : Tbu) (tb : Nat) :
    bit (x.failedOver lane now tb).syn.events.bits (failoverEv lane) = true :=
  bit_evSet_self (by cases lane <;> decide)

/-- A change of a channel and a record of a fault of it. -/
theorem State.logRecord_after_self (s : State) (c : ChanId) (f : Chan → Chan) (code : Byte) (detail action gap : Nat) :
    ((s.modCh c f).logRecord (some c) code detail action gap).ch c =
      { f (s.ch c) with flt := (f (s.ch c)).flt.put s.cycle code } := by
  have hch : ∀ g, ({ s.modCh c f with flt := g } : State).ch c = f (s.ch c) := fun _ => State.ch_modCh_self s c f
  rw [State.logRecord_some, State.ch_modCh_self, hch]
  rfl

theorem State.logRecord_after_ne (s : State) (f : Chan → Chan) (code : Byte) (detail action gap : Nat) {d : ChanId} (h : d ≠ c) :
    ((s.modCh c f).logRecord (some c) code detail action gap).ch d = s.ch d := by
  have hch : ∀ g, ({ s.modCh c f with flt := g } : State).ch d = s.ch d := fun _ => State.ch_modCh_ne s f h
  rw [State.logRecord_some, State.ch_modCh_ne _ _ h, hch]

theorem exec_muxSwitch_failover (hready : s.muxReady c lane = true) (hf : ((s.ch c).syn.pair lane).failover = true)
    (hset : ((s.ch c).idl lane).setting = ((s.ch c).act lane).setting) :
    exec (.muxSwitch t c lane) s = .next ((s.atTime t).muxFailover c lane) := by
  have hready' : (s.atTime t).muxReady c lane = true := hready
  refine congrArg Host.Outcome.next ((if_neg ?_).trans (if_pos ?_))
  · rw [hready']
    exact Bool.false_ne_true
  · rw [State.ch_atTime, hf, hset, beq_self_eq_true]
    rfl

/-- The record is of the instant at which the failover began: a fault of a channel that was not degraded before. -/
theorem muxSwitch_failsOver (hready : s.muxReady c lane = true) (hf : ((s.ch c).syn.pair lane).failover = true)
    (hset : ((s.ch c).idl lane).setting = ((s.ch c).act lane).setting) (hfirst : ((s.ch c).syn.pair lane).failSecond = false) :
    ∃ u, exec (.muxSwitch t c lane) s = .next u ∧ u = { s.atTime t with flt := u.flt, chans := u.chans } ∧
      (∀ d : ChanId, d ≠ c → u.ch d = s.ch d) ∧
      (u.ch c).act lane = { (s.ch c).idl lane with gate := true, state := .active } ∧
      ((u.ch c).idl lane).state = .failed ∧ ((u.ch c).idl lane).retryFrom = some (max s.now t) ∧
      ((u.ch c).syn.pair lane).failover = false ∧
      bit (u.ch c).syn.events.bits (if lane then SynEv.failoverL else SynEv.failoverS) = true ∧
      ∀ (y : Chan) (gap : Nat), y = (s.ch c).dstTo (q16 (max s.now t)) →
        gap = (if ((s.ch c).syn.pair lane).failRun then
            if lane then y.laneGap else y.wavGap (max s.now t)
          else 0) →
        u.flt.log = logged s t {
          odo := s.trk.odo, info := logInfo (some c) (if lane then 3 else 2) ((s.ch c).syn.active lane).val 0 gap } := by
  have hexec := exec_muxSwitch_failover (t := t) hready hf hset
  rw [State.muxFailover_eq, State.ch_atTime, hfirst, State.covered_first] at hexec
  have hact := ((s.ch c).failedOver_muxed lane (max s.now t) (s.atTime t).tbase).act
  have hidl := (s.ch c).failedOver_idl lane (max s.now t) (s.atTime t).tbase
  have hpair := (s.ch c).failedOver_pair lane lane (max s.now t) (s.atTime t).tbase
  have hevent := (s.ch c).failedOver_event lane (max s.now t) (s.atTime t).tbase
  refine ⟨_, hexec, rfl, fun d hd => State.logRecord_after_ne _ _ _ _ _ _ hd, ?_⟩
  rw [State.logRecord_after_self, State.atTime_now, State.ch_atTime]
  generalize (s.ch c).failedOver lane (max s.now t) (s.atTime t).tbase = y at hact hidl hpair hevent ⊢
  rw [if_pos rfl] at hpair
  refine ⟨hact, congrArg Synth.state hidl, congrArg Synth.retryFrom hidl, congrArg Pair.failover hpair, hevent, ?_⟩
  rintro _ _ rfl rfl
  cases lane <;> rfl

end Sys2Proof.Machine
end

section
/-! A failover that ends without a switch (R285). -/

namespace Sys2Proof.Machine

variable {t : Tbu} {c : ChanId} {s : State} {x y : Chan} {i j : Fin 4} {lane : Bool} {now : Tbu}

/-! ### The stored band on which the failover rested (R285) -/

theorem Chan.dropCover_cases (x : Chan) (lane : Bool) (j : Fin 4) :
    x.dropCover lane j = x ∨ ∃ table, x.dropCover lane j = x.setSynth j { x.synth j with table := table } := by
  unfold Chan.dropCover Chan.dropEntry
  dsimp only
  split
  · rw [Synth.onLoaded_eq]
    exact .inr ⟨_, rfl⟩
  · split
    · exact .inr ⟨_, rfl⟩
    · exact .inl rfl

/-- Only the stored bands of the idle synthesizer are changed. -/
theorem Chan.dropCover_synth (x : Chan) (lane : Bool) (j k : Fin 4) :
    ∃ table, (x.dropCover lane j).synth k = { x.synth k with table := table } := by
  rcases x.dropCover_cases lane j with h | ⟨table, h⟩ <;> rw [h]
  · exact ⟨_, rfl⟩
  · rw [Chan.setSynth_synth]
    split
    next e => rw [e]; exact ⟨_, rfl⟩
    next => exact ⟨_, rfl⟩

theorem Chan.dropCover_pair (x : Chan) (lane l : Bool) (j : Fin 4) : (x.dropCover lane j).syn.pair l = x.syn.pair l := by
  rcases x.dropCover_cases lane j with h | ⟨table, h⟩ <;> rw [h]
  rfl

/-! ### A failover that has come to nothing -/

/-- The channel in which a failover of pair `lane` ends without a switch. -/
def Chan.failoverLost (x : Chan) (lane : Bool) (now : Tbu) : Chan :=
  (((x.dropCover lane (x.syn.idle lane)).synEvent SynEv.stale).modPair lane fun p =>
    { p with failover := false, takeover := true }).failSynth (x.syn.active lane) now

theorem Chan.failoverLost_pair (x : Chan) (lane : Bool) (now : Tbu) :
    (x.failoverLost lane now).syn.pair lane = { x.syn.pair lane with failover := false, takeover := true } := by
  rw [Chan.failoverLost, Chan.failSynth_pair, Chan.modPair_pair_self, (Chan.synEvent_pairs _ _).1, Chan.dropCover_pair]

theorem Chan.failoverLost_selected (x : Chan) (lane : Bool) (now : Tbu) :
    (x.failoverLost lane now).syn.active lane = x.syn.active lane ∧ (x.failoverLost lane now).syn.idle lane = x.syn.idle lane :=
  have h : ((x.failoverLost lane now).syn.pair lane).second = (x.syn.pair lane).second := by rw [Chan.failoverLost_pair]
  ⟨Syn.active_of_second h, Syn.idle_of_second h⟩

theorem Chan.failoverLost_act (x : Chan) (lane : Bool) (now : Tbu) : ((x.failoverLost lane now).act lane).state = .failed ∧
    ((x.failoverLost lane now).act lane).lock = false ∧ ((x.failoverLost lane now).act lane).setting = (x.act lane).setting := by
  obtain ⟨table, h⟩ := x.dropCover_synth lane (x.syn.idle lane) (x.syn.active lane)
  rw [Chan.act, (x.failoverLost_selected lane now).1, Chan.failoverLost, Chan.failSynth_synth, if_pos rfl, Chan.modPair_synth,
    Chan.synEvent_synth, h]
  exact ⟨rfl, rfl, rfl⟩

theorem Chan.failoverLost_idl (x : Chan) (lane : Bool) (now : Tbu) : ((x.failoverLost lane now).idl lane).state = (x.idl lane).state := by
  obtain ⟨table, h⟩ := x.dropCover_synth lane (x.syn.idle lane) (x.syn.idle lane)
  rw [Chan.idl, (x.failoverLost_selected lane now).2, Chan.failoverLost, Chan.failSynth_synth, if_neg (Syn.idle_ne_active _ _),
    Chan.modPair_synth, Chan.synEvent_synth, h]
  rfl

/-! ### An unmasked fault of a channel at rest (R485) -/

/-- It is recorded and stops nothing. -/
theorem State.unmasked_syn (h : (s.ch c).mod.state = .rest) (code : Byte) (detail : Nat) :
    ((s.unmasked c code detail).ch c).syn = (s.ch c).syn := by
  have hlog : ((s.logRecord (some c) code detail 3 0).ch c).syn = (s.ch c).syn := by
    rw [State.logRecord_some, State.ch_modCh_self]
    rfl
  have hhits : (ChState.rest == .run || ChState.rest == .held) = false := by decide
  unfold State.unmasked
  dsimp only
  rw [h, hhits]
  simp only [Bool.not_false, if_true, State.ch_modCh_self, Chan.ite_keeps, Chan.dropStart_keeps, ite_self]
  exact hlog

theorem State.pairLost_syn (h : (s.ch c).mod.state = .rest) (lane : Bool) (i : Fin 4) :
    ((s.pairLost c lane i).ch c).syn = ((s.ch c).synEvent SynEv.pairLost).syn := by
  unfold State.pairLost
  rw [State.unmasked_syn, State.ch_modCh_self]
  rw [State.ch_modCh_self]
  exact h

/-! ### FAILOVER_TIMEOUT (R285) -/

theorem failoverTimeout_early (h : max s.now t < ((s.ch c).syn.pair lane).failAt + 6 * us) :
    exec (.failoverTimeout t c lane) s = .next (s.atTime t) := by
  refine congrArg Host.Outcome.next (if_neg ?_)
  have hlate : decide (((s.ch c).syn.pair lane).failAt + 6 * us ≤ (s.atTime t).now) = false := decide_eq_false (Nat.not_le.2 h)
  rw [State.ch_atTime, hlate, Bool.and_false]
  exact Bool.false_ne_true

theorem exec_failoverTimeout (hf : ((s.ch c).syn.pair lane).failover = true) (hidle : ((s.ch c).idl lane).state ≠ .idleLocked)
    (hlate : ((s.ch c).syn.pair lane).failAt + 6 * us ≤ max s.now t) :
    exec (.failoverTimeout t c lane) s = .next ((s.atTime t).failoverEnds c lane) := by
  refine congrArg Host.Outcome.next (if_pos ?_)
  have hlate' : decide (((s.ch c).syn.pair lane).failAt + 6 * us ≤ (s.atTime t).now) = true := decide_eq_true hlate
  rw [State.ch_atTime, hf, hlate']
  exact bne_iff_ne.2 hidle

/-- The effects of a fault of a channel: the log, and the states of channels. -/
abbrev Effects.faulting : Effects := { Effects.states with flt := true }

theorem State.keeps_failoverEnds (s : State) (c : ChanId) (lane : Bool) :
    State.Keeps .faulting (fun d => d = c) Eq s (s.failoverEnds c lane) :=
  (State.Keeps.refl .faulting _ s).failoverEnds c lane rfl rfl rfl

/-- The state in which the pair is lost, before its other synthesizer is searched for. -/
def State.lostFailover (s : State) (c : ChanId) (lane : Bool) : State :=
  (s.modCh c fun x => x.failoverLost lane s.now).pairLost c lane ((s.ch c).syn.active lane)

theorem State.lostFailover_syn (h : (s.ch c).mod.state = .rest) (lane : Bool) :
    ((s.lostFailover c lane).ch c).syn = (((s.ch c).failoverLost lane s.now).synEvent SynEv.pairLost).syn := by
  unfold State.lostFailover
  rw [State.pairLost_syn, State.ch_modCh_self]
  rw [State.ch_modCh_self]
  simpa [Chan.failoverLost] using h

theorem State.failoverEnds_searches (h : (s.ch c).mod.state = .rest) (hj : ((s.ch c).idl lane).state ≠ .failed) :
    s.failoverEnds c lane =
      (s.lostFailover c lane).tuneTo c ((s.ch c).syn.idle lane) .takeover ((s.ch c).act lane).setting true := by
  have hsyn := State.lostFailover_syn h lane
  have hset : (((s.lostFailover c lane).ch c).synth ((s.ch c).syn.active lane)).setting = ((s.ch c).act lane).setting := by
    rw [Chan.synth, hsyn, ← ((s.ch c).failoverLost_act lane s.now).2.2, Chan.act, ((s.ch c).failoverLost_selected lane s.now).1]
    rfl
  have hstate : (((s.lostFailover c lane).ch c).synth ((s.ch c).syn.idle lane)).state = ((s.ch c).idl lane).state := by
    rw [Chan.synth, hsyn, ← (s.ch c).failoverLost_idl lane s.now, Chan.idl, ((s.ch c).failoverLost_selected lane s.now).2]
    rfl
  rw [← hset]
  exact if_neg (hstate ▸ hj)

/-- What the search that takes over a lost pair makes of the synthesizers `y.syn` of that pair. -/
theorem Chan.failoverLost_takesOver (hy : y.syn = ((x.failoverLost lane now).synEvent SynEv.pairLost).syn)
    (hrun : (x.idl lane).state ≠ .stopping) (ref : Bool) (setting : Word) (later : Tbu) {z : Chan}
    (hz : z = (y.setSynth (x.syn.idle lane) (y.tuned (x.syn.idle lane) .takeover setting true ref later)).recover lane later) :
    (z.act lane).state = .failed ∧ (z.act lane).lock = false ∧ (z.idl lane).state = .search ∧ (z.idl lane).tune = .takeover ∧
    (z.idl lane).setting = setting ∧ (z.syn.pair lane).takeover = true ∧ (z.syn.pair lane).failover = false := by
  subst hz
  have hsynth : ∀ j, y.synth j = (x.failoverLost lane now).synth j := fun j => by rw [Chan.synth, hy]; rfl
  have hactive : y.syn.active lane = x.syn.active lane := by
    rw [hy]
    exact (x.failoverLost_selected lane now).1
  have hidle : y.syn.idle lane = x.syn.idle lane := by
    rw [hy]
    exact (x.failoverLost_selected lane now).2
  have hpair : y.syn.pair lane = { x.syn.pair lane with failover := false, takeover := true } := by
    rw [hy]
    exact x.failoverLost_pair lane now
  have hact : y.act lane = (x.failoverLost lane now).act lane := by
    rw [Chan.act, hactive, hsynth, Chan.act, (x.failoverLost_selected lane now).1]
  have hstate : (y.synth (x.syn.idle lane)).state ≠ .stopping := by
    rw [hsynth]
    have h := x.failoverLost_idl lane now
    rw [Chan.idl, (x.failoverLost_selected lane now).2] at h
    rwa [h]
  obtain ⟨hfailed, hlock, -⟩ := x.failoverLost_act lane now
  rw [Chan.recover_act, Chan.recover_idl, Chan.recover_pair_self, Chan.act, Chan.idl, (Chan.setSynth_syn _ _ _).2.1,
    (Chan.setSynth_syn _ _ _).2.2, hactive, hidle, Chan.setSynth_synth_self, Chan.setSynth_synth_ne _ _ (Ne.symm (Syn.idle_ne_active _ _)),
    ← hactive, Chan.tuned_search hstate (.inl rfl)]
  refine ⟨?_, ?_, rfl, rfl, rfl, congrArg Pair.takeover hpair, congrArg Pair.failover hpair⟩
  · exact (congrArg Synth.state hact).trans hfailed
  · exact (congrArg Synth.lock hact).trans hlock

theorem failoverTimeout_searches (hf : ((s.ch c).syn.pair lane).failover = true) (hidle : ((s.ch c).idl lane).state ≠ .idleLocked)
    (hlate : ((s.ch c).syn.pair lane).failAt + 6 * us ≤ max s.now t) (hrest : (s.ch c).mod.state = .rest)
    (hsound : ((s.ch c).idl lane).state ≠ .failed) (hrun : ((s.ch c).idl lane).state ≠ .stopping) :
    ∃ u, exec (.failoverTimeout t c lane) s = .next u ∧ (∀ d : ChanId, d ≠ c → u.ch d = s.ch d) ∧ s.sameCreels u ∧
      ((u.ch c).act lane).state = .failed ∧ ((u.ch c).act lane).lock = false ∧
      ((u.ch c).idl lane).state = .search ∧ ((u.ch c).idl lane).tune = .takeover ∧
      ((u.ch c).idl lane).setting = ((s.ch c).act lane).setting ∧
      ((u.ch c).syn.pair lane).takeover = true ∧ ((u.ch c).syn.pair lane).failover = false := by
  have hkeeps := (s.atTime t).keeps_failoverEnds c lane
  refine ⟨_, exec_failoverTimeout hf hidle hlate, fun d hd => hkeeps.other d hd, hkeeps.sameCreels, ?_⟩
  rw [State.failoverEnds_searches (s := s.atTime t) hrest hsound, State.tuneTo_eq, State.ch_modCh_self, isLane_idle, State.ch_atTime]
  have hsyn := State.lostFailover_syn (s := s.atTime t) hrest lane
  generalize (s.atTime t).lostFailover c lane = u at hsyn ⊢
  exact Chan.failoverLost_takesOver hsyn hrun _ _ _ rfl

end Sys2Proof.Machine
end

section
/-! The outputs of the synthesizers (R271, R276, R277, R278, R281, R284, R285, R291). -/

namespace Sys2Proof.Machine

/-- Settles O42: a gate opens or closes as its conditions say; the multiplexer changes at a pending switch and at the end of a failover;
a failover begins when an active synthesizer loses lock under cover, and ends in a lost pair when it takes too long. -/
theorem synthOutput : Obligations.SynthOutput := by
  refine fun t c s => ⟨fun i a r hr => ⟨gateOpen_opens hr, gateOpen_stays hr, gateClose_stays hr, gateCond_of_unaligned hr,
      gateClose_closes hr⟩,
    fun i hst href hlock ha => ⟨lossOfLock_failsOver hst href hlock ha, lossOfLock_retunes hst href hlock ha⟩,
    fun lane => ⟨muxSwitch_unready, fun hready hf ht hp => ⟨muxSwitch_waits hready hf ht hp, muxSwitch_switches hready hf ht hp⟩,
      muxSwitch_failsOver, fun hf hidle => ⟨failoverTimeout_early, failoverTimeout_searches hf hidle⟩⟩⟩

end Sys2Proof.Machine
end
